-- ==== Sys2Proof/Word.lean ====
section
/-! DEFINITION. The word types of the block and their plainest arithmetic. -/

namespace Sys2Proof

/-- A byte, the smallest addressable unit of every addressed memory of the device. -/
abbrev Byte := BitVec 8

/-- A setup register value (R6: setup registers are 32 bits wide). -/
abbrev Word := BitVec 32

/-- A 64-bit quantity: cycle numbers, host addresses, the TIME counter. -/
abbrev DWord := BitVec 64

/-- Bits `[lo + width - 1 : lo]` of a number. -/
abbrev bitsOf (x lo width : Nat) : Nat := x / 2 ^ lo % 2 ^ width

/-- Bit `i` of a number, as a truth value. -/
abbrev bitOf (x i : Nat) : Bool := x.testBit i

end Sys2Proof
end

