-- ==== Sys2Proof/Syntax.lean ====
section
/-! DEFINITION. The commands of the block: one constructor of `Instr` for each row of spec/opcode_table.json,
with the row's operands.  What the world outside the device decides (a byte that arrives, a rail that flips, a
request on a pin) is an operand; what the device decides is computed by the meaning. -/

namespace Sys2Proof

/-- The three paths to a setup register (R593); a control core is named by its number. -/
inductive RegPath where
  | host
  | spi
  | core (c : Fin 8)
  deriving DecidableEq, Repr

/-- The header of a descriptor (R310) with the session it was fetched for. -/
structure Desc where
  session : Fin 4096
  sgen : BitVec 4
  tag : BitVec 16
  irq : Bool
  link : Bool
  fence : Bool
  deriving DecidableEq, Repr

/-- The CHANNEL word of a channel descriptor (R310, R351): identifier and generation. -/
structure ChanRef where
  chan : Fin 262144
  gen : BitVec 6
  deriving DecidableEq, Repr

/-- How a stored or carried word reads back under SECDED (R43, R71, R468). -/
inductive Ecc where
  | clean
  | corrected
  | uncorrectable
  deriving DecidableEq, Repr

/-- The four boundary holds that the hub decides (R122). -/
inductive BoundaryHold where
  | commitWait
  | hostWrite
  | outFull
  | inEmpty
  deriving DecidableEq, Repr

/-- The faults of R24 other than a Schedule Fault, as a die detects them (R471, R497). -/
inductive DieFault where
  | dualRail (p : Fin 64) (n : Fin 32) (lp : Fin 64)
  | laneParity (group : Fin 512) (stage : BitVec 4)
  | memory (p : Fin 64) (n : Fin 32) (mem : BitVec 8)
  | hbm (w : Fin 16)
  | dieClock
  deriving DecidableEq, Repr

/-- Host memory as the device's reads of one command find it: the bytes that are not 0, by address, and the ranges (address
and length) of which a read or a write fails (R319, R326). -/
structure HostMem where
  cells : List (Nat × Byte)
  bad : List (Nat × Nat)
  deriving DecidableEq, Repr

/-- An item of R300's table that configuration space shows. -/
inductive ConfigItem where
  | vendorId
  | deviceId
  | subsystemVendor
  | subsystemId
  | classCode
  /-- what the base address register (two words where it is 64 bits wide) reads after ones are written to it -/
  | bar (n : Fin 6)
  | maxPayload
  | maxReadRequest
  | msixVectors
  | msixTable
  | msixPba
  | msi
  | atomic32
  | atomic64
  | cas128
  | aer
  | flr
  | ats
  | pasid
  | sriov
  deriving DecidableEq, Repr

/-- What management traffic between the devices of a machine carries about design state, captures, Hallmarks and the SCLK ramp,
once its last word is in (R207, R401, R486, R512, R517). -/
inductive MgmtTraffic where
  /-- a DESIGN_READ or a DESIGN_WRITE that another device sends on to this one -/
  | designRead (address length : DWord)
  | designWrite (address : DWord) (data : List Byte)
  /-- the answer to this device's oldest such request of that kind: status, RESULT, and what was read -/
  | designReply (write : Bool) (status : Byte) (result : DWord) (data : List Byte)
  /-- a CAPTURE or a HALLMARK for the boundary before cycle `next` that this device takes part in -/
  | capture (tileRam : Bool) (window : Fin 16) (offset next : DWord)
  | hallmark (dest : Byte) (seq next : DWord)
  /-- what this device finds for a HALLMARK or a RESTORE of the other one is asked -/
  | check (restore : Bool) (slot : Byte)
  /-- what the other device finds for a HALLMARK of this one (R486): its status, and the highest SEQ of its slots -/
  | hallmarkCheck (status : Byte) (seq : DWord)
  /-- what the other device finds in the slot of a RESTORE of this one (R489): its slot passes, with CYCLE, SEQ and
  MACHINE_ID -/
  | restoreCheck (pass : Bool) (cycle seq : DWord) (machineId : BitVec 128)
  /-- a RESTORE that every device has passed: this device restores its slot (R490) -/
  | restore (slot : Byte)
  /-- the other device has written its part of this device's CAPTURE, or of its HALLMARK -/
  | partDone (hallmark : Bool)
  /-- the divisor that the other device wants, for the vote root; the plan of the vote root; its acknowledgement (R512) -/
  | rampWant (target : BitVec 11)
  | rampPlan (target : BitVec 11) (sigma0 : DWord)
  | rampAck
  /-- the other device has had a thermal trip (R517) -/
  | thermalStop
  deriving DecidableEq, Repr

/-- A network packet as a block hands it to its network interface, which computes its CRC (R240, R243). -/
structure Packet where
  type : BitVec 4
  vc : BitVec 2
  len : BitVec 5
  dest : BitVec 11
  src : BitVec 11
  tag : BitVec 16
  status : BitVec 4
  addr : DWord
  aux : DWord
  /-- payload flits, 256 bits each -/
  payload : List (BitVec 256)
  deriving DecidableEq, Repr

/-- An upset of a flit on its way to the input of a router or bridge (R239, R248). -/
structure HopUpset where
  /-- the router, and its input: 0 to 3 mesh, 4 local, 5 bridge -/
  node : BitVec 11
  port : BitVec 3
  /-- the flit, the header being flit 0 -/
  flit : Nat
  /-- the bits that flip: data [255:0], codes [287:256] -/
  bits : BitVec 288
  /-- the sideband bits that flip: HEAD, TAIL, POISON, VC[0], VC[1] from bit 0, in each of three copies -/
  side : BitVec 15
  /-- what the code of a word shows in which more than two bits flip; where it shows a corrected one, `bits` says how the word
  stands after that -/
  beyond : Ecc
  deriving DecidableEq, Repr

/-- What comes of a request that its target takes (R242, R253). -/
inductive TargetFinds where
  /-- it answers; `ecc` is what the code of the words read shows -/
  | served (ecc : Ecc)
  /-- its owner rule or sealing refuses the access -/
  | denied
  /-- it gives up on the access -/
  | timeout
  /-- it has not answered yet -/
  | later
  deriving DecidableEq, Repr

/-- Where an atomic operation goes: the host's offset in its memory window (R303), or a control core's address (R522). -/
inductive AtomicSite where
  | host (offset : BitVec 26)
  | core (c : Fin 8) (addr : DWord)
  deriving DecidableEq, Repr

/-- Atomic operations other than add and swap: the compare and swap of PCI Express, and those of the A extension (R522). -/
inductive AtomicOp where
  | cas
  | lr
  | sc
  | xor
  | and
  | or
  | min
  | max
  | minu
  | maxu
  deriving DecidableEq, Repr

/-- The fields common to a link control block (R412). -/
structure CtlBlock where
  origin : BitVec 4
  cseq : BitVec 4
  payload : BitVec 42
  crc : Byte
  deriving DecidableEq, Repr

/-- A link frame as received (R415 to R417). -/
structure LinkFrame where
  srcPos : BitVec 4
  destPos : BitVec 4
  seq : BitVec 12
  baseTag : BitVec 10
  /-- the COUNT items used, 16 bits each (DATA), or the words as 16-bit quarters (MGMT) -/
  items : List (BitVec 16)
  ackSeq : BitVec 12
  nak : Bool
  /-- the CRC16 of the trailer (R417) -/
  crc : BitVec 16
  /-- the eye margin measured over the frame's blocks (R432) -/
  eye : Byte
  deriving DecidableEq, Repr

/-- What a device reports to the machine when it forms (R435) or loads (R278): its position and figures. -/
structure PeerReport where
  position : BitVec 4
  serial : DWord
  sizeM1 : BitVec 4
  dozeEn : Bool
  deriving DecidableEq, Repr

/-- One Active link of the machine graph (R435): two positions, control and data latency. -/
structure GraphEdge where
  a : BitVec 4
  b : BitVec 4
  /-- the link number at position `a` -/
  link : Fin 16
  kappa : Nat
  ell : Nat
  deriving DecidableEq, Repr

/-- A LINKCH record (R420) with the positions and die bindings that the machine wait exchanges (R421). -/
structure LinkRecord where
  rxPos : BitVec 4
  rxDie : Fin 4
  rxChan : Fin 1024
  dl : BitVec 16
  txPos : BitVec 4
  txDie : Fin 4
  txChan : Fin 1024
  deriving DecidableEq, Repr

/-- The header of one Ingot of a machine set, as the machine wait exchanges it (R278). -/
structure MachineHeader where
  position : BitVec 4
  s : Nat
  machineId : BitVec 128
  machineSize : Nat
  deriving DecidableEq, Repr

/-- What an instruction that retires in a traced source does to control flow (R543, R549). -/
inductive RetireKind where
  /-- sequential or direct jump: no bytes -/
  | plain
  | branch (taken : Bool)
  | indirect (target : DWord)
  /-- a trap in place of a retirement: cause byte, handler address, and whether it is a machine-mode trap that the
  monitor reports (CTL_STATUS.CORE_TRAP) -/
  | trap (cause : Byte) (handler : DWord) (reported : Bool)
  /-- return from machine to user mode -/
  | mret (target : DWord)
  deriving DecidableEq, Repr

/-- What a user clock edge finds (R440 to R443, R449, R453): the pins that read 1, and an upset of a RAM block since the last
one: the block, the internal 64-bit word, the bits that flip, and how the word reads back from then on. -/
structure FabricInputs where
  pins : List (Fin 384)
  upset : Option (Fin 128 × Fin 576 × BitVec 64 × Ecc)
  deriving DecidableEq, Repr

/-- The serial flash as the QSPI master finds it (R265): its bytes that are not erased, the ranges whose read fails, and
whether it advertises a 1-4-4 fast read with 4-byte addresses. -/
structure FlashPart where
  cells : List (Nat × Byte)
  bad : List (Nat × Nat)
  quad : Bool
  deriving DecidableEq, Repr

/-- The reading of one sensor or regulator pass of the power steward (R515). -/
structure StewardReadings where
  /-- hottest sensor number, 0 to 279, and its reading in degrees -/
  hotSensor : Fin 280
  hotTemp : Byte
  powerMw : Word
  /-- the temperatures of the HBM stacks, byte `s` of stack `s` (HBM_TEMP) -/
  stackTemps : Word
  deriving DecidableEq, Repr

/-- The done record of a work item (R363). -/
structure DoneRecord where
  status : Byte
  post : Bool
  consumed : Nat
  /-- RESULT as the engine wrote it; none: the value that R355 gives -/
  result : Option DWord
  deriving DecidableEq, Repr

/-- A failing compare that the cells of a memory under test cause (R538): word, element, difference of the 72 bits. -/
structure MarchFail where
  word : Nat
  elem : Fin 32
  diff : BitVec 72
  deriving DecidableEq, Repr

/-- What the serial flash returns to the boot ROM (R583 to R585): its header, the firmware key record, images A and B. -/
structure FlashRegions where
  header : List Byte
  key : List Byte
  imageA : List Byte
  imageB : List Byte
  /-- the characterisation record at CHAR_OFFSET of the header (R585, R586) -/
  char : List Byte
  deriving DecidableEq, Repr

/-- What a phase of start-up finds (R582): physical tiles that fail the start-up test, the failing compares of the fuse-repaired
memories (R540), and the serial flash. -/
structure BootFound where
  badTiles : List (Fin 4 × Fin 66)
  memFails : List MarchFail
  flash : FlashRegions
  deriving DecidableEq, Repr

/-- The host buffer of a HALLMARK: its address, and whether the host takes the writes to it (R319, R485). -/
structure HostBuffer where
  address : DWord
  takes : Bool
  deriving DecidableEq, Repr

/-- A command of a pseudo-channel: what the code of its first word shows, and whether the command failed the command-parity
check (R229 to R231). -/
structure HbmFinds where
  ecc : Ecc
  parity : Bool
  deriving DecidableEq, Repr

/-- A word of a tile: its memory (R493) and its number in it. -/
structure TileWord where
  mem : BitVec 8
  word : BitVec 22
  deriving DecidableEq, Repr

/-- A CH_CONTROL's channel, and whether it has CLEAR_OVERRUN set (R351). -/
structure ChControl where
  ref : ChanRef
  clear : Bool
  deriving DecidableEq, Repr

/-- A configuration request: a write of the Bus Master Enable bit, where it is one, and the item of R300 that it reads, where it
reads one. -/
structure ConfigRequest where
  busMaster : Option Bool
  item : Option ConfigItem
  deriving DecidableEq, Repr

/-- A transmitter of a link: this device's, or the far one. -/
structure LinkEnd where
  link : Fin 16
  far : Bool
  deriving DecidableEq, Repr

/-- What is found of a failing lane: the sync errors that it has counted since it was last judged, and the steps by which the
spare, if it is used, lengthens the link's data latency (R430). -/
structure LaneFault where
  syncErrs : BitVec 8
  skew : Nat
  deriving DecidableEq, Repr

/-- What a stage of a link's bring-up finds: the CTLE code and eye margin of each lane in Train (R410), and the largest round
trip that the far end observes in Measure, in steps (R428). -/
structure StageFinds where
  codes : List (BitVec 4 × Byte)
  farTrip : Nat
  deriving DecidableEq, Repr

/-- A SPARE_SWITCH block, and the steps by which the spare lengthens the link's data latency (R430). -/
structure SpareSwitch where
  block : CtlBlock
  skew : Nat
  deriving DecidableEq, Repr

/-- A MGMT frame, and what the management traffic that ends with it carries. -/
structure MgmtIn where
  frame : LinkFrame
  carries : Option MgmtTraffic
  deriving DecidableEq, Repr

/-- What a packet meets: what strikes its flits on the way, in order; what comes of a request; and whether the trace path
cannot take records of it at once (R256). -/
structure PacketWay where
  upsets : List HopUpset
  finds : TargetFinds
  busy : Bool
  deriving DecidableEq, Repr

/-- A packet of a source's retry store, by its TAG (R250). -/
structure PacketKey where
  src : BitVec 11
  tag : BitVec 16
  deriving DecidableEq, Repr

/-- The serial flash that the QSPI master finds (R265): its bytes that are not erased, and whether it advertises a 1-4-4 fast
read with 4-byte addresses. -/
structure FlashChip where
  cells : List (Nat × Byte)
  quad : Bool
  deriving DecidableEq, Repr

/-- A place in the scratch banks, and the path of the access to it. -/
structure BankSite where
  path : RegPath
  offset : BitVec 25
  deriving DecidableEq, Repr

/-- An atomic operation of `size` bytes with its operand; `ecc` is what the code of the word shows. -/
structure AtomicAccess where
  size : Fin 17
  op : AtomicOp
  operand : DWord
  ecc : Ecc
  deriving DecidableEq, Repr

/-- The commands of the block, one per row of the table of operations and events, in its order.
`d` is a die, `p` a tile position, `n` a cluster, `j` an LP, `m` a memory port, `k` a SEND or RECV field. -/
inductive Instr where
  -- The array: logic processors, port sequencers, memory ports (R42 to R115, R178 to R201)
  /-- `flips`: the rail upsets that strike this evaluation: bits 0 to 3 flip A true, A complement, B true, B complement. -/
  | eval (d : Fin 4) (p : Fin 64) (n : Fin 32) (j : Fin 64) (flips : BitVec 4)
  | copy (d : Fin 4) (p : Fin 64) (n : Fin 32) (j : Fin 64) (flips : BitVec 4)
  | nop (d : Fin 4) (p : Fin 64) (n : Fin 32) (j : Fin 64)
  /-- `parity`: the stage at which the lane's group shows a parity mismatch in this step, if one does (R113). -/
  | send (d : Fin 4) (p : Fin 64) (n : Fin 32) (k : Fin 4) (parity : Option (BitVec 4))
  | recv (d : Fin 4) (p : Fin 64) (n : Fin 32) (k : Fin 4)
  | latch (d : Fin 4) (p : Fin 64) (n : Fin 32)
  | gatherAddr (d : Fin 4) (p : Fin 64) (m : Fin 16)
  | gatherData (d : Fin 4) (p : Fin 64) (m : Fin 16)
  | memoryPortRead (d : Fin 4) (p : Fin 64) (m : Fin 16)
  | memoryPortWrite (d : Fin 4) (p : Fin 64) (m : Fin 16)
  | memoryPortNop (d : Fin 4) (p : Fin 64) (m : Fin 16)
  | boundaryPhase (d : Fin 4)
  | cycleCommit
  /-- the READ in flight with identifier `rid` returns; `finds`: what its access to the target meets -/
  | memoryReturn (rid : Nat) (finds : HbmFinds)
  /-- the oldest value in flight from die `src` to die `dst` on channel `chan` arrives -/
  | crossingArrival (src dst : Fin 4) (chan : Fin 1024) (ecc : Ecc)
  -- Holds and faults (R116 to R145, R465 to R481)
  | boundaryHoldDecision (h : BoundaryHold)
  | freezeOrder (d : Fin 4)
  | announcedHoldRelease
  | resume
  | sfStarved
  | request (value : Word)
  | release (value : Word)
  | clear (value : Word)
  | countLoRead (path : RegPath) (addr : BitVec 20)
  | faultReplay (d : Fin 4) (fault : DieFault)
  | restoreBoundary
  | replayRelease
  | scheduleFaultHalt
  /-- `copyOk`: the copy from the failing tile meets no uncorrectable error (R479) -/
  | tileRetirement (d : Fin 4) (phys : Fin 66) (copyOk : Bool)
  | go (value : Word)
  /-- `failing`: the failing lane of the group that the test patterns find, if they find one (R115) -/
  | laneSparing (d : Fin 4) (group : Fin 512) (failing : Option (Fin 16))
  -- Run control and design state (R30 to R41, R205 to R210, R399 to R403, R482 to R491)
  | run (desc : Desc) (n : DWord) (unbounded : Bool)
  | stopNext (desc : Desc)
  | stopAtCommitted (desc : Desc)
  | capture (desc : Desc) (function : Byte) (tileRam : Bool) (window : Fin 16) (offset : DWord)
  /-- `hostOk`: the writes to the host buffer succeed (R319) -/
  | fetch (desc : Desc) (function source : Byte) (window : Fin 16) (offset addr length : DWord) (hostOk : Bool)
  | hallmark (desc : Desc) (dest : Byte) (buffer : HostBuffer) (length : DWord)
  /-- `image`: the bytes of the host buffer, for SOURCE 2; none where the device's read fails (R319) -/
  | restore (desc : Desc) (source : Byte) (addr length : DWord) (image : Option (List Byte))
  | continueAfterFaultClear (desc : Desc)
  | descriptorNop (desc : Desc)
  | waitingDescriptorAccept
  | captureComplete
  | hallmarkComplete
  | restoreComplete
  | designRead (desc : Desc) (address length buffer : DWord)
  /-- `data`: the bytes the device reads from the host buffer; none where its read fails (R319) -/
  | designWrite (desc : Desc) (address length buffer : DWord) (data : Option (List Byte))
  /-- `bad`: host ranges, address and length, of which a write fails (R319) -/
  | designReadComplete (bad : List (Nat × Nat))
  | hostWriteApply
  /-- `bytes`: the stream bytes at the host address; `binding`: the binding block, read with START (R276, R316); each none
  where the device's read fails (R319) -/
  | image (desc : Desc) (start : Bool) (bytes binding : Option (List Byte))
  -- Host interface (R300 to R331)
  /-- the reads of the oldest sweep in flight return (R324); `cells` and `bad`: host memory as they find it; `lost`:
  sessions of which a completion write has failed since (R331) -/
  | doorbellSweep (cells : List (Nat × Byte)) (bad : List (Nat × Nat)) (lost : List (Fin 4096))
  | coalesceTimeout (session : Fin 4096)
  | sessOpen
  | sessClose
  | sessAttach
  | sessIndexWrite (value : Word)
  | exchangeRamPortBWrite (path : RegPath) (offset : BitVec 20) (data : List (Option Byte))
  | exchangeRamPortBRead (path : RegPath) (offset : BitVec 20) (length : Nat) (ecc : Ecc)
  /-- `ecc`: what the code of the words read shows -/
  | scratchBankAccess (site : BankSite) (data : Option (List (Option Byte))) (length : Nat) (ecc : Ecc)
  /-- a FetchAdd of the host, or a core's AMOADD; `ecc`: what the code of the word read shows -/
  | fetchAdd (site : AtomicSite) (wide : Bool) (operand : DWord) (ecc : Ecc)
  /-- a Swap of the host, or a core's AMOSWAP -/
  | swap (site : AtomicSite) (wide : Bool) (operand : DWord) (ecc : Ecc)
  /-- any other AtomicOp of the host, or another AMO, LR or SC of a core -/
  | cas (site : AtomicSite) (access : AtomicAccess)
  | reservedAccess (offset : BitVec 26) (write atomic : Bool)
  | registerWrite (path : RegPath) (addr : BitVec 20) (value : DWord) (be : BitVec 8) (length : Nat)
  /-- one transaction of the SPI slave port, from the fall of SSPI_CS_N to its rise: its command byte, and the bytes after it -/
  | spiRegWrite (command : Byte) (bytes : List Byte)
  /-- the bytes of such a transaction, the command byte first -/
  | spiRegRead (bytes : List Byte)
  /-- such a transaction whose command byte is 0x05 -/
  | spiStatus
  -- Loader (R260 to R299)
  | spiStream (bytes : List Byte)
  | segment (header ciphertext tag : List Byte)
  | writeFrame (addr : Word) (data : List Byte)
  | repeatFrame (addrs : List Word)
  | zeroFrames (addr count : Word)
  | setRegion (region : Fin 64) (parent variant : List Byte)
  | commit
  | pad (count : Word) (bytes : List Byte)
  | startupEvent
  | lsPll
  | machineWaitEnd (headers : List MachineHeader) (links : List LinkRecord)
  | lsTimeout
  | abort (value : Word)
  | flashStart (value : Word)
  /-- `bad`: the ranges, by address and length, whose read fails -/
  | qspiSelfLoad (flash : FlashChip) (bad : List (Nat × Nat))
  | ldrOwnerWrite (value : Word)
  | regionRejoin (region : Fin 64)
  -- Message channels (R332 to R369)
  | chOpen (desc : Desc) (ref : ChanRef) (kind priority : Byte) (port : BitVec 16) (timeoutUs : Word)
      (fifoOffset : DWord) (fifoWindow sizeLog2 : Byte)
  | chClose (desc : Desc) (ref : ChanRef)
  | msgSend (desc : Desc) (ref : ChanRef) (addr : DWord) (bits : BitVec 16) (inlined : Bool) (payload : List Byte)
  | msgRecv (desc : Desc) (ref : ChanRef) (addr : DWord) (length : Word)
  | streamPost (desc : Desc) (ref : ChanRef) (addr : DWord) (length : Word)
  /-- CH_CONTROL with FLUSH (R351) -/
  | flush (desc : Desc) (control : ChControl)
  /-- CH_CONTROL without FLUSH -/
  | clearOverrun (desc : Desc) (control : ChControl)
  | chQuery (desc : Desc) (ref : ChanRef) (addr : DWord) (hostOk : Bool)
  | drainTimeout (chan : Fin 262144)
  | dispatchTake (e : Fin 32)
  | dispatchDone (e : Fin 32) (slot : Fin 8) (record : DoneRecord)
  /-- the host bytes that a copy from SPACE 0 reads, and whether the host access succeeds -/
  | copyUnitGo (e : Fin 32) (src dst : DWord) (length : BitVec 24) (hostData : List Byte) (hostOk : Bool)
  | engineTrap (e : Fin 32)
  /-- `ecc`: how the words of the context read back (R368) -/
  | chnCtxIndexWrite (value : Word) (ecc : Ecc)
  | enginesEn (value : Word)
  -- Assay engine (R370 to R404)
  | arm (value : Word)
  | disarm (value : Word)
  | forceTrigger (value : Word)
  | trackerEnable (k : Fin 32) (value : Word)
  | redClear (value : Word)
  | patDataAccess (write : Option Word)
  | trigFrame (line : Fin 8) (target : Byte)
  | trigCollide (line : Fin 8)
  | trigEdge (line : Fin 8)
  | trigSettleVote
  | sync
  | fire (value : Word)
  -- Axnath links (R405 to R439): blocks and frames received on link `l`
  | holdBlock (l : Fin 16) (b : CtlBlock)
  | readyBlock (l : Fin 16) (b : CtlBlock)
  | resumeBlock (l : Fin 16) (b : CtlBlock)
  | voteBlock (l : Fin 16) (b : CtlBlock)
  | commitBlock (l : Fin 16) (b : CtlBlock)
  | startReadyBlock (l : Fin 16) (b : CtlBlock)
  | idleBlock (l : Fin 16) (b : CtlBlock)
  | trackBlock (l : Fin 16) (b : CtlBlock)
  | ackBlock (l : Fin 16) (b : CtlBlock)
  | exchangeBlock (l : Fin 16) (part : Fin 4) (b : CtlBlock)
  | measureBlock (l : Fin 16) (b : CtlBlock)
  | echoBlock (l : Fin 16) (b : CtlBlock)
  | spareSwitchBlock (l : Fin 16) (b : SpareSwitch)
  | deepReqBlock (l : Fin 16) (b : CtlBlock)
  | deepAckBlock (l : Fin 16) (b : CtlBlock)
  | dataFrame (l : Fin 16) (f : LinkFrame)
  | mgmtFrame (l : Fin 16) (f : MgmtIn)
  | linkReplayTimeout (l : Fin 16)
  | linkStagePass (l : Fin 16) (finds : StageFinds)
  | linkStageTimeout (l : Fin 16)
  | laneFailing (l : Fin 16) (k : BitVec 4) (fault : LaneFault)
  /-- `reachable`, `diameter`: what the recomputed control paths give (R438) -/
  | linkLeavesActive (l : Fin 16) (graph : List GraphEdge)
  | linkCfgEnable (l : Fin 16) (value : Word)
  | form (value : Word)
  | formationCheck (peers : List PeerReport) (graph : List GraphEdge)
  | deep (l : Fin 16) (value : Word)
  | deepAckTimeout (l : Fin 16)
  | retrain (l : Fin 16) (value : Word)
  /-- of the far transmitter its signal goes idle, or returns -/
  | dozeEntry (side : LinkEnd)
  | dozeExit (side : LinkEnd)
  | adaptationFreeze (l : Fin 16)
  | lnkMapDataRead
  -- HBM (R211 to R235)
  /-- `pass`: the verify pattern reads back on every pseudo-channel of each stack (R227) -/
  | apply (value : Word) (pass : BitVec 4)
  /-- `copy0`, `copy1`: whether the copies in pseudo-channels 0 and 32 pass their check (R235) -/
  | restoreTable (value : Word) (copy0 copy1 : Bool)
  | windowEnable (n : Fin 16) (value : Word)
  | pcFailedWrite (m : Fin 4) (value : Word)
  | phyDataAccess (write : Option Word)
  | refresh
  /-- `upset`: a stored word whose bits an upset has changed since, and how it reads back from then on (R229, R230) -/
  | scrub (pc : Fin 128) (word : BitVec 27) (finds : HbmFinds) (upset : Option (Fin 128 × BitVec 27 × Ecc))
  /-- `upset`: a stored word of the same tile whose bits an upset has changed since, and how it reads back from then on
  (R468) -/
  | tileScrub (d : Fin 4) (phys : Fin 66) (word : TileWord) (ecc : Ecc) (upset : Option (TileWord × Ecc))
  -- Package network (R236 to R259)
  | packetDelivery (pkt : Packet) (way : PacketWay)
  /-- `busy`: the trace path cannot take a record of the packet at once (R256) -/
  | packetResend (key : PacketKey) (busy : Bool)
  | quiesceReport (node : Fin 86)
  | traceClear (value : Word)
  | traceEnable (value : Word)
  -- Hedgerow fabric (R440 to R464)
  | captureArm (value : Word)
  | captureAbort (value : Word)
  | captureFire
  | capDataRead
  | strobe (g : Fin 8)
  | exportUpdate (g : Fin 8)
  /-- the sensed supply class of a bank changes: 0 absent, 1 1.2 V, 2 1.5 V, 3 1.8 V, 4 2.5 V, 5 3.3 V;
  `settled`: it has matched for 1 ms (R462) -/
  | vccioMismatch (bank : Fin 8) (sensed : BitVec 3) (settled : Bool)
  /-- `upsets`: the copies of configuration bits that have flipped since the last scrub: copy, byte of the section, bit -/
  | cfgScrub (upsets : List (Fin 3 × Fin 8392704 × Fin 8))
  -- Clocks and power (R494 to R519)
  | pllStable (p : Fin 29)
  | pllUnlock (p : Fin 29)
  /-- `edges`: the old source, and the new one, show edges (R501) -/
  | clockSwitch (i : Fin 27) (value : Word) (oldRuns newRuns : Bool)
  | refclkLoss
  | holdoverExpiry
  | refclkReturn
  | gateClose (value : Word)
  | gateReopen (value : Word)
  | quiesceTimeout (node : Fin 86)
  | rampStep
  | rampPlan (target : BitVec 11) (sigma0 : Nat)
  | powerStewardTick (r : StewardReadings)
  | thermalTrip
  | pmbAlert (faulty : BitVec 16)
  -- Control cluster and memory test (R520 to R541)
  | coreRestart (value : Word)
  | fwUpdateGo (value : Word)
  | fwUpdateAbort (value : Word)
  | handover (value : Word)
  | handoverReady (c : Fin 8)
  | handoverTimeout
  | marchStart (value : Word)
  | marchAbort (value : Word)
  /-- `ue`: a word of the word group is uncorrectable as it is saved; `fails`: see `MarchFail` -/
  | marchWordGroup (ue : Option (Fin 64)) (fails : List MarchFail)
  -- Program trace (R542 to R560)
  | retiredInstruction (src : Fin 40) (pc next : DWord) (machine : Bool) (kind : RetireKind)
  | traceEn (value : Word)
  | trcClear (value : Word)
  | sleep (src : Fin 40)
  | wake (src : Fin 40) (pc : DWord)
  | traceFrameTimeout (src : Fin 40)
  | timePacket (src : Fin 40)
  -- Security and presence (R561 to R576)
  | presenceArm (value : Word)
  | presenceDisarm (value : Word)
  /-- `vfuse`: VFUSE lies within its limits at the write -/
  | execute (value : Word) (vfuse : Bool)
  /-- `stuck`: the entry and word bits that still read 0 after the eighth burn, if any (R565) -/
  | programFuses (stuck : Option (Fin 16))
  | loadBbk
  | tracePriv
  | unseal
  | rollback
  | jtagPrivate
  | presenceHeld
  | windowExpiry
  | erase (value : Word)
  /-- `vbatLow`: VBAT has fallen below 1.5 V; otherwise TAMPER_N has been low for 1 us, with VBAT at 1.6 V or above -/
  | tamper (vbatLow : Bool)
  | fuseDataRead
  -- Resets, start-up, identity (R577 to R599)
  | porN (bootSel : BitVec 2)
  | rstN (bootSel : BitVec 2)
  | warm (value : Word) (bootSel : BitVec 2)
  | perstN (low : Bool)
  | functionLevelReset
  | trstN
  /-- the phase under way ends, `us` microseconds after the release -/
  | resetRelease (us : Word) (found : BootFound)
  | timeLoRead (path : RegPath)
  | deepExit (l : Fin 16)
  | configurationRequest (request : ConfigRequest)
  | registerRead (path : RegPath) (addr : BitVec 20) (be : BitVec 8) (length : Nat)
  | userClockEdge (k : Fin 8) (inputs : FabricInputs)
  | vfuseOutOfLimit
  deriving DecidableEq, Repr

end Sys2Proof
end

