-- ==== Sys2Proof/Decode.lean ====
section
/-! DEFINITION. Words of the table of operations: no row of spec/opcode_table.json gives its command any bits, so no
word spells a command. -/

namespace Sys2Proof

/-- The command that a word of `nbits` bits spells: none, since the table gives no row bits. -/
def decodeTableWord (_nbits _w : Nat) : Option Instr := none

end Sys2Proof
end

