-- ==== Sys2Proof/Config.lean ====
section
/-! DEFINITION. What the spec leaves open: values with no body, so that nothing can be proved of what they are.
Each is named by a log entry under notes/assumptions. -/

namespace Sys2Proof

/-- The value of a combinational loop of Hedgerow LUTs: cell output `o` of block `X`.  The spec states none. -/
opaque Config.fabricLoop (X o : Nat) : Bool

/-- Values that the spec does not state, by the number of draws made before. -/
opaque Config.freeValue (n : Nat) : Nat

/-- A byte of HBM that no copy of its word serves (R230), by the draws made before and its place. -/
opaque Config.poisoned (n key : Nat) : Byte

/-- The SECDED code of a 64-bit word of a network flit (R239): the spec does not give the code's bits. -/
opaque Config.secded : BitVec 64 → BitVec 8

/-- The PCI Express vendor ID (R300): the identifier assigned to the maker, which the spec does not state. -/
opaque Config.vendorId : Nat

/-- AES-256-GCM (R269): key, IV, additional data, ciphertext and tag to the plaintext, or nothing where the tag does
not verify.  The algorithm stands outside the spec. -/
opaque Config.gcmOpen (key : Nat) (iv aad ciphertext tag : List Byte) : Option (List Byte)

/-- AES-256-GCM encryption of a Hallmark (R484): key, IV, additional data and plaintext to ciphertext and tag. -/
opaque Config.gcmSeal (key : Nat) (iv aad plaintext : List Byte) : List Byte × List Byte

/-- The key check value of a 256-bit key, 32 bits (R567, R569). -/
opaque Config.keyCheck (key : Nat) : Nat

/-- SHA-384 of an image: its bytes that are not 0 by offset, and its length; 48 bytes. -/
opaque Config.sha384 (image : List (Nat × Byte)) (length : Nat) : List Byte

/-- An ECDSA P-384 signature verifies under a public key (R525). -/
opaque Config.ecdsaVerify (key message signature : List Byte) : Bool

end Sys2Proof
end

