-- ==== Sys2Proof/Machine/Regs.lean ====
section
/-! DEFINITION. The setup registers (R6 to R10, R595): every field of every register the chapters define, with its
address in the setup window, its place, its access type and its reset value.  The lists are the register tables of
spec/ (chapters 04, 06 to 21), row for row. -/

namespace Sys2Proof.Machine

/-- The access types of R7. -/
inductive Acc where
  | rw | ro | w1c | w1s | wo | rc
  deriving DecidableEq, Repr

/-- One field of a setup register: the register's offset in the setup window, its lowest bit, its width, its
access type and its value after POR_N (R10).  An offset of 0x10_0000 or more names a field that a register shows
through an index: bank `i` of offset `a` is stored at `a + 0x10_0000 * (i + 1)`. -/
structure Fld where
  addr : Nat
  lo : Nat
  width : Nat
  acc : Acc
  rst : Nat
  deriving DecidableEq, Repr

/-- The key under which the register store holds the field. -/
def Fld.key (f : Fld) : Nat := f.addr * 32 + f.lo

/-- Field `f` in bank `i` of an indexed register. -/
def Fld.bank (f : Fld) (i : Nat) : Fld := { f with addr := f.addr + 0x100000 * (i + 1) }

/-- A row of the register tables: `count` registers from `addr` on, `stride` bytes apart, with their fields as
(lowest bit, width, access, reset). -/
structure RegRow where
  addr : Nat
  count : Nat
  stride : Nat
  flds : List (Nat × Nat × Acc × Nat)
  deriving DecidableEq, Repr

def F.IDN_IDENT_FAMILY : Fld := ⟨0x00000, 16, 16, .ro, 0x564b⟩
def F.IDN_IDENT_DEVICE : Fld := ⟨0x00000, 8, 8, .ro, 0x4⟩
def F.IDN_IDENT_TILES : Fld := ⟨0x00000, 0, 8, .ro, 0x0⟩
def F.IDN_REVISION_SILICON : Fld := ⟨0x00004, 24, 8, .ro, 0x0⟩
def F.IDN_REVISION_METAL : Fld := ⟨0x00004, 16, 8, .ro, 0x0⟩
def F.IDN_REVISION_ROM_BUILD : Fld := ⟨0x00004, 0, 16, .ro, 0x0⟩
def F.IDN_SERIAL_LO_SERIAL : Fld := ⟨0x00008, 0, 32, .ro, 0x0⟩
def F.IDN_SERIAL_HI_SERIAL : Fld := ⟨0x0000c, 0, 32, .ro, 0x0⟩
def F.IDN_TIME_LO_TIME : Fld := ⟨0x00010, 0, 32, .ro, 0x0⟩
def F.IDN_TIME_HI_TIME : Fld := ⟨0x00014, 0, 32, .ro, 0x0⟩
def F.CLK_STATUS_RAMPING : Fld := ⟨0x10000, 6, 1, .ro, 0x0⟩
def F.CLK_STATUS_PMB_FAULT : Fld := ⟨0x10000, 5, 1, .w1c, 0x0⟩
def F.CLK_STATUS_THERM_TRIP : Fld := ⟨0x10000, 4, 1, .w1c, 0x0⟩
def F.CLK_STATUS_THROTTLED : Fld := ⟨0x10000, 3, 1, .ro, 0x0⟩
def F.CLK_STATUS_QUIESCE_TIMEOUT : Fld := ⟨0x10000, 2, 1, .w1c, 0x0⟩
def F.CLK_STATUS_REFUSED : Fld := ⟨0x10000, 1, 1, .w1c, 0x0⟩
def F.CLK_STATUS_UNLOCK : Fld := ⟨0x10000, 0, 1, .w1c, 0x0⟩
def F.CLK_PLL_LOCK_LOCK : Fld := ⟨0x10004, 0, 29, .ro, 0x0⟩
def F.CLK_PLL_UNLOCKS_COUNT : Fld := ⟨0x10008, 0, 32, .rc, 0x0⟩
def F.CLK_REFCLK_HOLDOVER : Fld := ⟨0x1000c, 31, 1, .ro, 0x0⟩
def F.CLK_REFCLK_STEERED : Fld := ⟨0x1000c, 30, 1, .ro, 0x0⟩
def F.CLK_REFCLK_LOSSES : Fld := ⟨0x1000c, 0, 16, .rc, 0x0⟩
def F.CLK_SCLK_TARGET : Fld := ⟨0x10010, 16, 11, .ro, 0x0⟩
def F.CLK_SCLK_D : Fld := ⟨0x10010, 0, 11, .ro, 0x0⟩
def F.CLK_SCLK_CTRL_RAMP_INTERVAL : Fld := ⟨0x10014, 16, 5, .rw, 0xa⟩
def F.CLK_SCLK_CTRL_D_MIN : Fld := ⟨0x10014, 0, 11, .rw, 0x100⟩
def F.CLK_SWITCH_BUSY (n : Nat) : Fld := ⟨0x10020 + 4 * n, 31, 1, .ro, 0x0⟩
def F.CLK_SWITCH_STOPPED_SRC (n : Nat) : Fld := ⟨0x10020 + 4 * n, 30, 1, .w1c, 0x0⟩
def F.CLK_SWITCH_CURRENT (n : Nat) : Fld := ⟨0x10020 + 4 * n, 4, 2, .ro, 0x0⟩
def F.CLK_SWITCH_SEL (n : Nat) : Fld := ⟨0x10020 + 4 * n, 0, 2, .rw, 0x0⟩
def F.CLK_GATE_INDEX_NODE : Fld := ⟨0x10100, 0, 7, .rw, 0x0⟩
def F.CLK_GATE_CTRL_OPEN : Fld := ⟨0x10104, 31, 1, .ro, 0x1⟩
def F.CLK_GATE_CTRL_CLOSING : Fld := ⟨0x10104, 30, 1, .ro, 0x0⟩
def F.CLK_GATE_CTRL_ISOLATED : Fld := ⟨0x10104, 29, 1, .ro, 0x0⟩
def F.CLK_GATE_CTRL_FORCE : Fld := ⟨0x10104, 3, 1, .rw, 0x0⟩
def F.CLK_GATE_CTRL_CLOSE : Fld := ⟨0x10104, 1, 1, .wo, 0x0⟩
def F.CLK_GATE_CTRL_REOPEN : Fld := ⟨0x10104, 0, 1, .wo, 0x0⟩
def F.CLK_CLKOUT_SRC : Fld := ⟨0x10110, 16, 5, .rw, 0x0⟩
def F.CLK_CLKOUT_DIV : Fld := ⟨0x10110, 0, 16, .rw, 0x0⟩
def F.CLK_THERM_HYST : Fld := ⟨0x10120, 16, 4, .rw, 0x5⟩
def F.CLK_THERM_TRIP_C : Fld := ⟨0x10120, 8, 8, .rw, 0x64⟩
def F.CLK_THERM_THROTTLE_C : Fld := ⟨0x10120, 0, 8, .rw, 0x5a⟩
def F.CLK_TEMP_MAX_SENSOR : Fld := ⟨0x10124, 16, 8, .ro, 0x0⟩
def F.CLK_TEMP_MAX_SENSOR_HI : Fld := ⟨0x10124, 8, 1, .ro, 0x0⟩
def F.CLK_TEMP_MAX_TEMP : Fld := ⟨0x10124, 0, 8, .ro, 0x0⟩
def F.CLK_POWER_MW : Fld := ⟨0x10128, 0, 32, .ro, 0x0⟩
def F.CLK_POWER_LIMIT_WATTS : Fld := ⟨0x1012c, 0, 12, .rw, 0x1f4⟩
def F.CLK_PMB_REG_EN (n : Nat) : Fld := ⟨0x10200 + 4 * n, 31, 1, .rw, 0x0⟩
def F.CLK_PMB_REG_FAULT (n : Nat) : Fld := ⟨0x10200 + 4 * n, 30, 1, .ro, 0x0⟩
def F.CLK_PMB_REG_RAIL (n : Nat) : Fld := ⟨0x10200 + 4 * n, 8, 5, .rw, 0x0⟩
def F.CLK_PMB_REG_ADDR (n : Nat) : Fld := ⟨0x10200 + 4 * n, 0, 7, .rw, 0x0⟩
def F.RST_STATUS_FIRST_COMMIT : Fld := ⟨0x20000, 13, 1, .ro, 0x0⟩
def F.RST_STATUS_READY : Fld := ⟨0x20000, 12, 1, .ro, 0x0⟩
def F.RST_STATUS_PHASE : Fld := ⟨0x20000, 8, 3, .ro, 0x0⟩
def F.RST_STATUS_HBM_KEPT : Fld := ⟨0x20000, 3, 1, .ro, 0x0⟩
def F.RST_STATUS_CAUSE : Fld := ⟨0x20000, 0, 3, .ro, 0x1⟩
def F.RST_CTRL_WARM : Fld := ⟨0x20004, 31, 1, .wo, 0x0⟩
def F.RST_CTRL_KEY : Fld := ⟨0x20004, 0, 16, .wo, 0x0⟩
def F.RST_PHASE_TIME_US (n : Nat) : Fld := ⟨0x20010 + 4 * n, 0, 32, .ro, 0x0⟩
def F.RST_COUNT_PERST : Fld := ⟨0x20040, 16, 16, .rc, 0x0⟩
def F.RST_COUNT_WARM : Fld := ⟨0x20040, 0, 16, .rc, 0x0⟩
def F.RST_ERROR_FORM_FAIL : Fld := ⟨0x20044, 7, 1, .ro, 0x0⟩
def F.RST_ERROR_PHY_FAIL : Fld := ⟨0x20044, 6, 1, .ro, 0x0⟩
def F.RST_ERROR_HALT : Fld := ⟨0x20044, 5, 1, .ro, 0x0⟩
def F.RST_ERROR_PMB_FAULT : Fld := ⟨0x20044, 4, 1, .ro, 0x0⟩
def F.RST_ERROR_NO_FIRMWARE : Fld := ⟨0x20044, 3, 1, .ro, 0x0⟩
def F.RST_ERROR_THERM_TRIP : Fld := ⟨0x20044, 2, 1, .ro, 0x0⟩
def F.RST_ERROR_START_FAIL : Fld := ⟨0x20044, 1, 1, .ro, 0x0⟩
def F.RST_ERROR_BOOT_FAIL : Fld := ⟨0x20044, 0, 1, .ro, 0x0⟩
def F.RST_ERROR_EN_EN : Fld := ⟨0x20048, 3, 5, .rw, 0x1f⟩
def F.RST_ERROR_EN_EN_FIXED : Fld := ⟨0x20048, 0, 3, .ro, 0x7⟩
def F.LDR_STATUS_REGION : Fld := ⟨0x30000, 16, 6, .ro, 0x0⟩
def F.LDR_STATUS_EVENTS : Fld := ⟨0x30000, 12, 4, .ro, 0x0⟩
def F.LDR_STATUS_BOOT_FAIL : Fld := ⟨0x30000, 11, 1, .w1c, 0x0⟩
def F.LDR_STATUS_PATH : Fld := ⟨0x30000, 8, 2, .ro, 0x0⟩
def F.LDR_STATUS_PARTIAL : Fld := ⟨0x30000, 6, 1, .ro, 0x0⟩
def F.LDR_STATUS_PHASE : Fld := ⟨0x30000, 0, 3, .ro, 0x0⟩
def F.LDR_RESULT_SEGMENT : Fld := ⟨0x30004, 16, 16, .ro, 0x0⟩
def F.LDR_RESULT_PATH : Fld := ⟨0x30004, 8, 2, .ro, 0x0⟩
def F.LDR_RESULT_CODE : Fld := ⟨0x30004, 0, 8, .ro, 0x0⟩
def F.LDR_FAIL_ADDR_ADDR : Fld := ⟨0x30008, 0, 32, .ro, 0x0⟩
def F.LDR_CTRL_ABORT : Fld := ⟨0x3000c, 31, 1, .wo, 0x0⟩
def F.LDR_CTRL_TIMEOUT_MS : Fld := ⟨0x3000c, 0, 16, .rw, 0x3e8⟩
def F.LDR_SEGMENTS_COUNT : Fld := ⟨0x30010, 0, 32, .ro, 0x0⟩
def F.LDR_OWNER_VALID : Fld := ⟨0x30014, 31, 1, .rw, 0x0⟩
def F.LDR_OWNER_GEN : Fld := ⟨0x30014, 12, 4, .rw, 0x0⟩
def F.LDR_OWNER_SESSION : Fld := ⟨0x30014, 0, 12, .rw, 0x0⟩
def F.LDR_BOOT_FELL_BACK : Fld := ⟨0x30018, 9, 1, .ro, 0x0⟩
def F.LDR_BOOT_ENTRY : Fld := ⟨0x30018, 8, 1, .ro, 0x0⟩
def F.LDR_BOOT_BOOT_SEL : Fld := ⟨0x30018, 0, 2, .ro, 0x0⟩
def F.LDR_FLASH_CTRL_START : Fld := ⟨0x3001c, 31, 1, .wo, 0x0⟩
def F.LDR_FLASH_CTRL_ENTRY : Fld := ⟨0x3001c, 0, 1, .rw, 0x0⟩
def F.LDR_STAGE_UNITS_UNITS : Fld := ⟨0x30020, 0, 32, .ro, 0x0⟩
def F.LDR_BIND_BYTES (n : Nat) : Fld := ⟨0x30100 + 4 * n, 0, 32, .rw, 0x0⟩
def F.LDR_REGION_ABORTS (n : Nat) : Fld := ⟨0x30400 + 4 * n, 16, 16, .rc, 0x0⟩
def F.LDR_REGION_STATE (n : Nat) : Fld := ⟨0x30400 + 4 * n, 0, 2, .ro, 0x0⟩
def F.SEC_STATUS_UNSEALED : Fld := ⟨0x40000, 9, 1, .ro, 0x0⟩
def F.SEC_STATUS_SEALED : Fld := ⟨0x40000, 8, 1, .ro, 0x0⟩
def F.SEC_STATUS_ROLLBACK_AUTH : Fld := ⟨0x40000, 7, 1, .ro, 0x0⟩
def F.SEC_STATUS_JTAG_PRIV : Fld := ⟨0x40000, 6, 1, .ro, 0x0⟩
def F.SEC_STATUS_WINDOW : Fld := ⟨0x40000, 5, 1, .ro, 0x0⟩
def F.SEC_STATUS_ARMED : Fld := ⟨0x40000, 4, 1, .ro, 0x0⟩
def F.SEC_STATUS_PRESENCE : Fld := ⟨0x40000, 3, 1, .ro, 0x0⟩
def F.SEC_STATUS_FUSE_BUSY : Fld := ⟨0x40000, 2, 1, .ro, 0x0⟩
def F.SEC_STATUS_VBAT_LOW : Fld := ⟨0x40000, 1, 1, .ro, 0x0⟩
def F.SEC_STATUS_VFUSE_OK : Fld := ⟨0x40000, 0, 1, .ro, 0x0⟩
def F.SEC_PRESENCE_CTRL_EXECUTE : Fld := ⟨0x40004, 31, 1, .wo, 0x0⟩
def F.SEC_PRESENCE_CTRL_DISARM : Fld := ⟨0x40004, 30, 1, .wo, 0x0⟩
def F.SEC_PRESENCE_CTRL_ARM : Fld := ⟨0x40004, 0, 4, .wo, 0x0⟩
def F.SEC_PRESENCE_STATUS_ARMED_CMD : Fld := ⟨0x40008, 28, 4, .ro, 0x0⟩
def F.SEC_PRESENCE_STATUS_LAST_CMD : Fld := ⟨0x40008, 24, 4, .ro, 0x0⟩
def F.SEC_PRESENCE_STATUS_LAST_RESULT : Fld := ⟨0x40008, 16, 8, .ro, 0x0⟩
def F.SEC_PRESENCE_STATUS_SECONDS_LEFT : Fld := ⟨0x40008, 0, 8, .ro, 0x0⟩
def F.SEC_FUSE_INDEX_WORD : Fld := ⟨0x40010, 0, 9, .rw, 0x0⟩
def F.SEC_FUSE_DATA_BITS : Fld := ⟨0x40014, 0, 32, .ro, 0x0⟩
def F.SEC_FUSE_STAGE_INDEX_ENTRY : Fld := ⟨0x40018, 0, 4, .rw, 0x0⟩
def F.SEC_FUSE_STAGE_ADDR_VALID : Fld := ⟨0x4001c, 31, 1, .rw, 0x0⟩
def F.SEC_FUSE_STAGE_ADDR_WORD : Fld := ⟨0x4001c, 0, 9, .rw, 0x0⟩
def F.SEC_FUSE_STAGE_DATA_BITS : Fld := ⟨0x40020, 0, 32, .rw, 0x0⟩
def F.SEC_FUSE_RESULT_ENTRY : Fld := ⟨0x40024, 8, 5, .ro, 0x0⟩
def F.SEC_FUSE_RESULT_RESULT : Fld := ⟨0x40024, 0, 8, .ro, 0x0⟩
def F.SEC_KEY_SLOT_PROGRAMMED (n : Nat) : Fld := ⟨0x40040 + 4 * n, 31, 1, .ro, 0x0⟩
def F.SEC_KEY_SLOT_REVOKED (n : Nat) : Fld := ⟨0x40040 + 4 * n, 30, 1, .ro, 0x0⟩
def F.SEC_KEY_SLOT_SPOILED (n : Nat) : Fld := ⟨0x40040 + 4 * n, 29, 1, .ro, 0x0⟩
def F.SEC_KEY_SLOT_USABLE (n : Nat) : Fld := ⟨0x40040 + 4 * n, 28, 1, .ro, 0x0⟩
def F.SEC_KEY_SLOT_KCV (n : Nat) : Fld := ⟨0x40040 + 4 * n, 0, 16, .ro, 0x0⟩
def F.SEC_BBK_STAGE_KEY (n : Nat) : Fld := ⟨0x40060 + 4 * n, 0, 32, .wo, 0x0⟩
def F.SEC_BBK_ERASE : Fld := ⟨0x40080, 31, 1, .wo, 0x0⟩
def F.SEC_BBK_LOADED : Fld := ⟨0x40080, 30, 1, .ro, 0x0⟩
def F.SEC_BBK_TAMPERED : Fld := ⟨0x40080, 29, 1, .ro, 0x0⟩
def F.SEC_BBK_KCV : Fld := ⟨0x40080, 0, 16, .ro, 0x0⟩
def F.SEC_SVN_MIN_SVN : Fld := ⟨0x40090, 0, 7, .ro, 0x0⟩
def F.HST_STATUS_RATE : Fld := ⟨0x50000, 12, 4, .ro, 0x0⟩
def F.HST_STATUS_WIDTH : Fld := ⟨0x50000, 7, 5, .ro, 0x0⟩
def F.HST_STATUS_SUSPENDED : Fld := ⟨0x50000, 3, 1, .ro, 0x0⟩
def F.HST_STATUS_SWEEP_OVERRUN : Fld := ⟨0x50000, 2, 1, .w1c, 0x0⟩
def F.HST_STATUS_RSVD_ACCESS : Fld := ⟨0x50000, 1, 1, .w1c, 0x0⟩
def F.HST_STATUS_LINK_UP : Fld := ⟨0x50000, 0, 1, .ro, 0x0⟩
def F.HST_CTRL_FETCH_EN : Fld := ⟨0x50004, 0, 1, .rw, 0x0⟩
def F.HST_SWEEP_DB_SWEEP : Fld := ⟨0x50008, 0, 13, .rw, 0x32⟩
def F.HST_SUMMARY_LO_ADDR : Fld := ⟨0x50010, 6, 26, .rw, 0x0⟩
def F.HST_SUMMARY_HI_ADDR : Fld := ⟨0x50014, 0, 32, .rw, 0x0⟩
def F.HST_RSVD_ADDR_OFFSET : Fld := ⟨0x50018, 0, 32, .ro, 0x0⟩
def F.HST_SESS_INDEX_SESSION : Fld := ⟨0x50040, 0, 12, .rw, 0x0⟩
def F.HST_SESS_SQ_LO_ADDR : Fld := ⟨0x50044, 0, 32, .rw, 0x0⟩
def F.HST_SESS_SQ_HI_ADDR : Fld := ⟨0x50048, 0, 32, .rw, 0x0⟩
def F.HST_SESS_CQ_LO_ADDR : Fld := ⟨0x5004c, 0, 32, .rw, 0x0⟩
def F.HST_SESS_CQ_HI_ADDR : Fld := ⟨0x50050, 0, 32, .rw, 0x0⟩
def F.HST_SESS_DB_LO_ADDR : Fld := ⟨0x50054, 0, 32, .rw, 0x0⟩
def F.HST_SESS_DB_HI_ADDR : Fld := ⟨0x50058, 0, 32, .rw, 0x0⟩
def F.HST_SESS_CFG_SQ_LOG2 : Fld := ⟨0x5005c, 27, 5, .rw, 0x0⟩
def F.HST_SESS_CFG_CQ_LOG2 : Fld := ⟨0x5005c, 22, 5, .rw, 0x0⟩
def F.HST_SESS_CFG_VECTOR : Fld := ⟨0x5005c, 10, 11, .rw, 0x0⟩
def F.HST_SESS_CFG_COAL_COUNT : Fld := ⟨0x5005c, 0, 8, .rw, 0x0⟩
def F.HST_SESS_COAL_COAL_TIME : Fld := ⟨0x50060, 0, 16, .rw, 0x0⟩
def F.HST_SESS_CMD_CMD : Fld := ⟨0x50064, 0, 2, .wo, 0x0⟩
def F.HST_SESS_STATE_CMD_REJECT : Fld := ⟨0x50068, 12, 1, .w1c, 0x0⟩
def F.HST_SESS_STATE_ERROR : Fld := ⟨0x50068, 8, 4, .w1c, 0x0⟩
def F.HST_SESS_STATE_GEN : Fld := ⟨0x50068, 4, 4, .ro, 0x0⟩
def F.HST_SESS_STATE_STATE : Fld := ⟨0x50068, 0, 2, .ro, 0x0⟩
def F.HST_STALE_DESCRIPTORS : Fld := ⟨0x50080, 16, 16, .rc, 0x0⟩
def F.HST_STALE_DOORBELLS : Fld := ⟨0x50080, 0, 16, .rc, 0x0⟩
def F.HST_STALE_CPL_COMPLETIONS : Fld := ⟨0x50084, 0, 32, .rc, 0x0⟩
def F.HST_OVERRUNS_COUNT : Fld := ⟨0x50088, 0, 32, .rc, 0x0⟩
def F.CHN_STATUS_CTX_UE : Fld := ⟨0x60000, 3, 1, .w1c, 0x0⟩
def F.CHN_STATUS_ENGINE_TRAP : Fld := ⟨0x60000, 2, 1, .w1c, 0x0⟩
def F.CHN_STATUS_OVERRUN : Fld := ⟨0x60000, 1, 1, .w1c, 0x0⟩
def F.CHN_STATUS_RUNNING : Fld := ⟨0x60000, 0, 1, .ro, 0x0⟩
def F.CHN_CTRL_ENGINES_EN : Fld := ⟨0x60004, 0, 1, .rw, 0x0⟩
def F.CHN_ENGINE_WAIT_WAIT : Fld := ⟨0x60008, 0, 32, .ro, 0x0⟩
def F.CHN_ENGINE_FAULT_TRAP : Fld := ⟨0x6000c, 0, 32, .w1c, 0x0⟩
def F.CHN_ENGINE_STOP_STOP : Fld := ⟨0x60010, 0, 32, .rw, 0x0⟩
def F.CHN_CTX_INDEX_CHANNEL : Fld := ⟨0x60020, 0, 18, .rw, 0x0⟩
def F.CHN_CTX_DATA_BYTES (n : Nat) : Fld := ⟨0x60040 + 4 * n, 0, 32, .ro, 0x0⟩
def F.CHN_READY_CHANNELS (n : Nat) : Fld := ⟨0x60080 + 4 * n, 0, 18, .ro, 0x0⟩
def F.CHN_STALE_ITEMS : Fld := ⟨0x600a0, 16, 16, .rc, 0x0⟩
def F.CHN_STALE_DESCRIPTORS : Fld := ⟨0x600a0, 0, 16, .rc, 0x0⟩
def F.CHN_PORT_DROPS_COUNT : Fld := ⟨0x600a4, 0, 32, .rc, 0x0⟩
def F.CHN_OPEN_COUNT_COUNT : Fld := ⟨0x600a8, 0, 19, .ro, 0x0⟩
def F.CHN_CE_COUNT_COUNT : Fld := ⟨0x600ac, 0, 32, .rc, 0x0⟩
def F.ARY_STATE_POSITION : Fld := ⟨0x70000, 8, 4, .ro, 0x0⟩
def F.ARY_STATE_VOTE_ROOT : Fld := ⟨0x70000, 7, 1, .ro, 0x0⟩
def F.ARY_STATE_MULTI : Fld := ⟨0x70000, 6, 1, .ro, 0x0⟩
def F.ARY_STATE_STATE : Fld := ⟨0x70000, 0, 3, .ro, 0x0⟩
def F.ARY_SCHEDULE_S : Fld := ⟨0x70004, 0, 11, .ro, 0x0⟩
def F.ARY_HOLD_CTRL_ACTIVE : Fld := ⟨0x70010, 9, 1, .ro, 0x0⟩
def F.ARY_HOLD_CTRL_PENDING : Fld := ⟨0x70010, 8, 1, .ro, 0x0⟩
def F.ARY_HOLD_CTRL_AT_MISSED : Fld := ⟨0x70010, 4, 1, .w1c, 0x0⟩
def F.ARY_HOLD_CTRL_MODE : Fld := ⟨0x70010, 2, 1, .rw, 0x0⟩
def F.ARY_HOLD_CTRL_RELEASE : Fld := ⟨0x70010, 1, 1, .wo, 0x0⟩
def F.ARY_HOLD_CTRL_REQUEST : Fld := ⟨0x70010, 0, 1, .wo, 0x0⟩
def F.ARY_HOLD_AT_CYCLE_CYCLE : Fld := ⟨0x70014, 0, 32, .rw, 0x0⟩
def F.ARY_HOLD_AT_STEP_STEP : Fld := ⟨0x70018, 0, 11, .rw, 0x0⟩
def F.ARY_HOLD_STATUS_RESUMING : Fld := ⟨0x70020, 20, 1, .ro, 0x0⟩
def F.ARY_HOLD_STATUS_DIE_FROZEN : Fld := ⟨0x70020, 16, 4, .ro, 0x0⟩
def F.ARY_HOLD_STATUS_SOURCE : Fld := ⟨0x70020, 0, 12, .ro, 0x0⟩
def F.ARY_HOLD_EVENTS_SEEN : Fld := ⟨0x70024, 0, 12, .w1c, 0x0⟩
def F.ARY_LATE_LIMIT_EXP : Fld := ⟨0x70030, 0, 6, .rw, 0x14⟩
def F.ARY_LATE_TIMER_ELAPSED : Fld := ⟨0x70034, 0, 32, .ro, 0x0⟩
def F.ARY_FROZEN_STEP_SIGMA (n : Nat) : Fld := ⟨0x70040 + 4 * n, 0, 32, .ro, 0x0⟩
def F.ARY_CYCLE_LO_CYCLE : Fld := ⟨0x70050, 0, 32, .ro, 0xffffffff⟩
def F.ARY_CYCLE_HI_CYCLE : Fld := ⟨0x70054, 0, 32, .ro, 0xffffffff⟩
def F.ARY_SKEW_MAX_MACHINE : Fld := ⟨0x70058, 16, 16, .rc, 0x0⟩
def F.ARY_SKEW_MAX_DEVICE : Fld := ⟨0x70058, 0, 16, .rc, 0x0⟩
def F.ARY_UNCLAIMED_COUNT (n : Nat) : Fld := ⟨0x70060 + 4 * n, 0, 32, .rc, 0x0⟩
def F.ARY_COUNT_CTRL_CLEAR : Fld := ⟨0x70070, 0, 1, .wo, 0x0⟩
def F.ARY_HELD_NS_LO_COUNT : Fld := ⟨0x70080, 0, 32, .ro, 0x0⟩
def F.ARY_HELD_NS_HI_COUNT : Fld := ⟨0x70084, 0, 32, .ro, 0x0⟩
def F.ARY_EXEC_STEPS_LO_COUNT : Fld := ⟨0x70088, 0, 32, .ro, 0x0⟩
def F.ARY_EXEC_STEPS_HI_COUNT : Fld := ⟨0x7008c, 0, 32, .ro, 0x0⟩
def F.ARY_SRC_NS_LO_COUNT (n : Nat) : Fld := ⟨0x70100 + 16 * n, 0, 32, .ro, 0x0⟩
def F.ARY_SRC_NS_HI_COUNT (n : Nat) : Fld := ⟨0x70104 + 16 * n, 0, 32, .ro, 0x0⟩
def F.ARY_SRC_EPISODES_COUNT (n : Nat) : Fld := ⟨0x70108 + 16 * n, 0, 32, .ro, 0x0⟩
def F.ARY_EXR_STATUS_COLLISION : Fld := ⟨0x70200, 0, 1, .w1c, 0x0⟩
def F.ARY_EXR_COLL_ADDR_WORD : Fld := ⟨0x70204, 0, 17, .ro, 0x0⟩
def F.ARY_EXR_COLL_COUNT_COUNT : Fld := ⟨0x70208, 0, 32, .rc, 0x0⟩
def F.ARY_VIEW_STATUS_FULL : Fld := ⟨0x70210, 17, 1, .ro, 0x0⟩
def F.ARY_VIEW_STATUS_OPEN : Fld := ⟨0x70210, 16, 1, .ro, 0x0⟩
def F.ARY_VIEW_STATUS_PAGES : Fld := ⟨0x70210, 0, 16, .ro, 0x0⟩
def F.ARY_VIEW_PAGES_MAX_PAGES : Fld := ⟨0x70214, 0, 16, .rc, 0x0⟩
def F.ARY_MEM_STALLS_LOG_FULL : Fld := ⟨0x70218, 16, 16, .rc, 0x0⟩
def F.ARY_MEM_STALLS_SPILL : Fld := ⟨0x70218, 0, 16, .rc, 0x0⟩
def F.FLT_STATUS_RESTORING : Fld := ⟨0x80000, 11, 1, .ro, 0x0⟩
def F.FLT_STATUS_HM_BUSY : Fld := ⟨0x80000, 10, 1, .ro, 0x0⟩
def F.FLT_STATUS_RETIRING : Fld := ⟨0x80000, 9, 1, .ro, 0x0⟩
def F.FLT_STATUS_REPLAYING : Fld := ⟨0x80000, 8, 1, .ro, 0x0⟩
def F.FLT_STATUS_LOG_WRAPPED : Fld := ⟨0x80000, 7, 1, .w1c, 0x0⟩
def F.FLT_STATUS_TILE_HALT : Fld := ⟨0x80000, 6, 1, .w1c, 0x0⟩
def F.FLT_STATUS_HBM_HALT : Fld := ⟨0x80000, 5, 1, .w1c, 0x0⟩
def F.FLT_STATUS_LANES_OUT : Fld := ⟨0x80000, 4, 1, .w1c, 0x0⟩
def F.FLT_STATUS_NO_SPARE : Fld := ⟨0x80000, 3, 1, .w1c, 0x0⟩
def F.FLT_STATUS_REPLAY_LIMIT : Fld := ⟨0x80000, 2, 1, .w1c, 0x0⟩
def F.FLT_STATUS_SCHED : Fld := ⟨0x80000, 1, 1, .w1c, 0x0⟩
def F.FLT_STATUS_HALT : Fld := ⟨0x80000, 0, 1, .w1c, 0x0⟩
def F.FLT_CTRL_RETIRE_EN : Fld := ⟨0x80004, 8, 1, .rw, 0x1⟩
def F.FLT_CTRL_REPLAY_LIMIT : Fld := ⟨0x80004, 0, 4, .rw, 0x8⟩
def F.FLT_RETIRE_GO : Fld := ⟨0x80008, 31, 1, .wo, 0x0⟩
def F.FLT_RETIRE_DIE : Fld := ⟨0x80008, 8, 2, .rw, 0x0⟩
def F.FLT_RETIRE_TILE_POS : Fld := ⟨0x80008, 0, 6, .rw, 0x0⟩
def F.FLT_SF_BYTES (n : Nat) : Fld := ⟨0x80010 + 4 * n, 0, 32, .ro, 0x0⟩
def F.FLT_REPLAYS_COUNT : Fld := ⟨0x80030, 0, 32, .rc, 0x0⟩
def F.FLT_REPLAY_CYCLE_LO_CYCLE : Fld := ⟨0x80034, 0, 32, .ro, 0x0⟩
def F.FLT_REPLAY_CYCLE_HI_CYCLE : Fld := ⟨0x80038, 0, 32, .ro, 0x0⟩
def F.FLT_RETIRED_COUNT : Fld := ⟨0x8003c, 0, 32, .ro, 0x0⟩
def F.FLT_CE_TILE_COUNT : Fld := ⟨0x80040, 0, 32, .rc, 0x0⟩
def F.FLT_SPARE_LANES_FREE (n : Nat) : Fld := ⟨0x80050 + 4 * n, 16, 8, .ro, 0x0⟩
def F.FLT_SPARE_TILES_FREE (n : Nat) : Fld := ⟨0x80050 + 4 * n, 0, 2, .ro, 0x0⟩
def F.FLT_TILE_MAP_INDEX_DIE : Fld := ⟨0x80060, 8, 2, .rw, 0x0⟩
def F.FLT_TILE_MAP_INDEX_TILE_POS : Fld := ⟨0x80060, 0, 6, .rw, 0x0⟩
def F.FLT_TILE_MAP_DATA_RETIRED : Fld := ⟨0x80064, 31, 1, .ro, 0x0⟩
def F.FLT_TILE_MAP_DATA_PHYS_TILE : Fld := ⟨0x80064, 0, 7, .ro, 0x0⟩
def F.FLT_LOG_INDEX_NEXT : Fld := ⟨0x80070, 16, 8, .ro, 0x0⟩
def F.FLT_LOG_INDEX_RECORD : Fld := ⟨0x80070, 0, 8, .rw, 0x0⟩
def F.FLT_LOG_DATA_BYTES (n : Nat) : Fld := ⟨0x80074 + 4 * n, 0, 32, .ro, 0x0⟩
def F.FLT_HM_WINDOW_WINDOW : Fld := ⟨0x80098, 0, 4, .rw, 0x0⟩
def F.FLT_HM_SLOT_A_VALID : Fld := ⟨0x8009c, 31, 1, .ro, 0x0⟩
def F.FLT_HM_SLOT_A_WRITING : Fld := ⟨0x8009c, 30, 1, .ro, 0x0⟩
def F.FLT_HM_SLOT_A_SEQ : Fld := ⟨0x8009c, 0, 16, .ro, 0x0⟩
def F.FLT_HM_SLOT_B_VALID : Fld := ⟨0x800a0, 31, 1, .ro, 0x0⟩
def F.FLT_HM_SLOT_B_WRITING : Fld := ⟨0x800a0, 30, 1, .ro, 0x0⟩
def F.FLT_HM_SLOT_B_SEQ : Fld := ⟨0x800a0, 0, 16, .ro, 0x0⟩
def F.FLT_HM_CYCLE_A_LO_CYCLE : Fld := ⟨0x800a4, 0, 32, .ro, 0x0⟩
def F.FLT_HM_CYCLE_A_HI_CYCLE : Fld := ⟨0x800a8, 0, 32, .ro, 0x0⟩
def F.FLT_HM_CYCLE_B_LO_CYCLE : Fld := ⟨0x800ac, 0, 32, .ro, 0x0⟩
def F.FLT_HM_CYCLE_B_HI_CYCLE : Fld := ⟨0x800b0, 0, 32, .ro, 0x0⟩
def F.FLT_HM_PROGRESS_DONE : Fld := ⟨0x800b4, 0, 16, .ro, 0x0⟩
def F.HBM_STATUS_SELF_REFRESH : Fld := ⟨0x90000, 12, 4, .ro, 0x0⟩
def F.HBM_STATUS_PHY_FAIL : Fld := ⟨0x90000, 8, 4, .ro, 0x0⟩
def F.HBM_STATUS_READY : Fld := ⟨0x90000, 4, 4, .ro, 0x0⟩
def F.HBM_STATUS_TABLE_VALID : Fld := ⟨0x90000, 2, 1, .ro, 0x0⟩
def F.HBM_STATUS_WIN_REJECT : Fld := ⟨0x90000, 1, 1, .w1c, 0x0⟩
def F.HBM_STATUS_UE : Fld := ⟨0x90000, 0, 1, .w1c, 0x0⟩
def F.HBM_CTRL_RESTORE_TABLE : Fld := ⟨0x90004, 0, 1, .wo, 0x0⟩
def F.HBM_REFRESH_CTRL_AUTO_HALVE : Fld := ⟨0x90010, 31, 1, .rw, 0x1⟩
def F.HBM_REFRESH_CTRL_HALVED : Fld := ⟨0x90010, 30, 1, .ro, 0x0⟩
def F.HBM_REFRESH_CTRL_TRFC : Fld := ⟨0x90010, 16, 10, .rw, 0x19a⟩
def F.HBM_REFRESH_CTRL_TREFI : Fld := ⟨0x90010, 0, 10, .rw, 0x186⟩
def F.HBM_REFRESH_COUNT_COUNT : Fld := ⟨0x90014, 0, 32, .ro, 0x0⟩
def F.HBM_PHY_CTRL_BUSY : Fld := ⟨0x90020, 4, 4, .ro, 0x0⟩
def F.HBM_PHY_CTRL_APPLY : Fld := ⟨0x90020, 0, 4, .wo, 0x0⟩
def F.HBM_PHY_INDEX_STACK : Fld := ⟨0x90024, 12, 2, .rw, 0x0⟩
def F.HBM_PHY_INDEX_ENTRY : Fld := ⟨0x90024, 0, 11, .rw, 0x0⟩
def F.HBM_PHY_DATA_TAPS : Fld := ⟨0x90028, 0, 8, .rw, 0x0⟩
def F.HBM_SCRUB_CTRL_HOURS : Fld := ⟨0x90030, 8, 8, .rw, 0x18⟩
def F.HBM_SCRUB_CTRL_EN : Fld := ⟨0x90030, 0, 1, .rw, 0x1⟩
def F.HBM_SCRUB_PROGRESS_PASSES : Fld := ⟨0x90034, 16, 16, .ro, 0x0⟩
def F.HBM_SCRUB_PROGRESS_POSITION : Fld := ⟨0x90034, 0, 16, .ro, 0x0⟩
def F.HBM_CE_COUNT_COUNT (n : Nat) : Fld := ⟨0x90040 + 4 * n, 0, 32, .rc, 0x0⟩
def F.HBM_UE_COUNT_MIRRORED : Fld := ⟨0x90050, 16, 16, .rc, 0x0⟩
def F.HBM_UE_COUNT_UNRECOVERED : Fld := ⟨0x90050, 0, 16, .rc, 0x0⟩
def F.HBM_UE_LOC_FROM_SCRUB : Fld := ⟨0x90054, 15, 1, .ro, 0x0⟩
def F.HBM_UE_LOC_OWNER : Fld := ⟨0x90054, 12, 3, .ro, 0x0⟩
def F.HBM_UE_LOC_WINDOW : Fld := ⟨0x90054, 8, 4, .ro, 0x0⟩
def F.HBM_UE_LOC_PC : Fld := ⟨0x90054, 0, 7, .ro, 0x0⟩
def F.HBM_UE_WORD_WORD : Fld := ⟨0x90058, 0, 27, .ro, 0x0⟩
def F.HBM_PC_FAILED_FAILED (n : Nat) : Fld := ⟨0x90060 + 4 * n, 0, 32, .w1c, 0x0⟩
def F.HBM_TEMP_TEMP : Fld := ⟨0x90070, 0, 32, .ro, 0x0⟩
def F.HBM_WIN_CTRL_EN (n : Nat) : Fld := ⟨0x90100 + 32 * n, 31, 1, .rw, 0x0⟩
def F.HBM_WIN_CTRL_OWNER (n : Nat) : Fld := ⟨0x90100 + 32 * n, 28, 3, .rw, 0x0⟩
def F.HBM_WIN_CTRL_GRAIN (n : Nat) : Fld := ⟨0x90100 + 32 * n, 24, 4, .rw, 0x0⟩
def F.HBM_WIN_CTRL_MIRROR (n : Nat) : Fld := ⟨0x90100 + 32 * n, 23, 1, .rw, 0x0⟩
def F.HBM_WIN_CTRL_LOCK (n : Nat) : Fld := ⟨0x90100 + 32 * n, 22, 1, .ro, 0x0⟩
def F.HBM_WIN_CTRL_DEGRADED (n : Nat) : Fld := ⟨0x90100 + 32 * n, 21, 1, .ro, 0x0⟩
def F.HBM_WIN_BASE_BASE (n : Nat) : Fld := ⟨0x90104 + 32 * n, 0, 14, .rw, 0x0⟩
def F.HBM_WIN_SIZE_SIZE (n : Nat) : Fld := ⟨0x90108 + 32 * n, 0, 22, .rw, 0x0⟩
def F.HBM_WIN_SET_SET (n m : Nat) : Fld := ⟨0x90110 + 32 * n + 4 * m, 0, 32, .rw, 0x0⟩
def F.NET_STATUS_TRACE_REJECT : Fld := ⟨0xa0000, 4, 1, .w1c, 0x0⟩
def F.NET_STATUS_TRACE_FULL : Fld := ⟨0xa0000, 3, 1, .w1c, 0x0⟩
def F.NET_STATUS_ISO_ACCESS : Fld := ⟨0xa0000, 2, 1, .w1c, 0x0⟩
def F.NET_STATUS_UE_HOP : Fld := ⟨0xa0000, 1, 1, .w1c, 0x0⟩
def F.NET_STATUS_E2E_FAIL : Fld := ⟨0xa0000, 0, 1, .w1c, 0x0⟩
def F.NET_CTRL_RESEND_US : Fld := ⟨0xa0004, 8, 8, .rw, 0x10⟩
def F.NET_CTRL_RETRIES : Fld := ⟨0xa0004, 0, 4, .rw, 0x4⟩
def F.NET_ARB_W_VC0 : Fld := ⟨0xa0008, 4, 4, .rw, 0x1⟩
def F.NET_ARB_W_VC2 : Fld := ⟨0xa0008, 0, 4, .rw, 0x4⟩
def F.NET_CE_COUNT_COUNT : Fld := ⟨0xa0010, 0, 32, .rc, 0x0⟩
def F.NET_UE_COUNT_COUNT : Fld := ⟨0xa0014, 0, 32, .rc, 0x0⟩
def F.NET_E2E_COUNT_DISCARDS : Fld := ⟨0xa0018, 16, 16, .rc, 0x0⟩
def F.NET_E2E_COUNT_RESENDS : Fld := ⟨0xa0018, 0, 16, .rc, 0x0⟩
def F.NET_UE_LOC_PORT : Fld := ⟨0xa001c, 16, 3, .ro, 0x0⟩
def F.NET_UE_LOC_NODE : Fld := ⟨0xa001c, 0, 11, .ro, 0x0⟩
def F.NET_E2E_LAST_DEST : Fld := ⟨0xa0020, 16, 11, .ro, 0x0⟩
def F.NET_E2E_LAST_SRC : Fld := ⟨0xa0020, 0, 11, .ro, 0x0⟩
def F.NET_ISO_LAST_COUNT : Fld := ⟨0xa0024, 16, 16, .rc, 0x0⟩
def F.NET_ISO_LAST_NODE : Fld := ⟨0xa0024, 0, 11, .ro, 0x0⟩
def F.NET_TRACE_CTRL_EN : Fld := ⟨0xa0040, 31, 1, .rw, 0x0⟩
def F.NET_TRACE_CTRL_CLEAR : Fld := ⟨0xa0040, 4, 1, .wo, 0x0⟩
def F.NET_TRACE_CTRL_WRAP : Fld := ⟨0xa0040, 1, 1, .rw, 0x0⟩
def F.NET_TRACE_WINDOW_WINDOW : Fld := ⟨0xa0044, 0, 4, .rw, 0x0⟩
def F.NET_TRACE_INDEX_NEXT : Fld := ⟨0xa0048, 0, 32, .ro, 0x0⟩
def F.NET_TRACE_LOST_COUNT : Fld := ⟨0xa004c, 0, 32, .rc, 0x0⟩
def F.NET_PROBE_CTRL_EN (n : Nat) : Fld := ⟨0xa0100 + 32 * n, 31, 1, .rw, 0x0⟩
def F.NET_PROBE_CTRL_DIR (n : Nat) : Fld := ⟨0xa0100 + 32 * n, 30, 1, .rw, 0x0⟩
def F.NET_PROBE_CTRL_TRACE (n : Nat) : Fld := ⟨0xa0100 + 32 * n, 29, 1, .rw, 0x0⟩
def F.NET_PROBE_CTRL_VC_MASK (n : Nat) : Fld := ⟨0xa0100 + 32 * n, 24, 4, .rw, 0x0⟩
def F.NET_PROBE_CTRL_TYPE_MASK (n : Nat) : Fld := ⟨0xa0100 + 32 * n, 16, 8, .rw, 0x0⟩
def F.NET_PROBE_CTRL_POINT (n : Nat) : Fld := ⟨0xa0100 + 32 * n, 0, 11, .rw, 0x0⟩
def F.NET_PROBE_SRC_MASK (n : Nat) : Fld := ⟨0xa0104 + 32 * n, 16, 11, .rw, 0x0⟩
def F.NET_PROBE_SRC_NODE (n : Nat) : Fld := ⟨0xa0104 + 32 * n, 0, 11, .rw, 0x0⟩
def F.NET_PROBE_DEST_MASK (n : Nat) : Fld := ⟨0xa0108 + 32 * n, 16, 11, .rw, 0x0⟩
def F.NET_PROBE_DEST_NODE (n : Nat) : Fld := ⟨0xa0108 + 32 * n, 0, 11, .rw, 0x0⟩
def F.NET_PROBE_PKTS_COUNT (n : Nat) : Fld := ⟨0xa010c + 32 * n, 0, 32, .rc, 0x0⟩
def F.NET_PROBE_FLITS_COUNT (n : Nat) : Fld := ⟨0xa0110 + 32 * n, 0, 32, .rc, 0x0⟩
def F.ASY_STATUS_SYNC_SEEN : Fld := ⟨0xb0000, 12, 1, .w1c, 0x0⟩
def F.ASY_STATUS_CFG_REJECT : Fld := ⟨0xb0000, 11, 1, .w1c, 0x0⟩
def F.ASY_STATUS_RED_FULL : Fld := ⟨0xb0000, 10, 1, .w1c, 0x0⟩
def F.ASY_STATUS_TRIG_COLLIDE : Fld := ⟨0xb0000, 9, 1, .w1c, 0x0⟩
def F.ASY_STATUS_TRIG_LATE : Fld := ⟨0xb0000, 8, 1, .w1c, 0x0⟩
def F.ASY_STATUS_SNAP_BUSY : Fld := ⟨0xb0000, 7, 1, .ro, 0x0⟩
def F.ASY_STATUS_WRAPPED : Fld := ⟨0xb0000, 6, 1, .ro, 0x0⟩
def F.ASY_STATUS_DONE : Fld := ⟨0xb0000, 5, 1, .ro, 0x0⟩
def F.ASY_STATUS_TRIGGERED : Fld := ⟨0xb0000, 4, 1, .ro, 0x0⟩
def F.ASY_STATUS_ARMED : Fld := ⟨0xb0000, 3, 1, .ro, 0x0⟩
def F.ASY_STATUS_STATE : Fld := ⟨0xb0000, 0, 3, .ro, 0x0⟩
def F.ASY_CTRL_VECTOR : Fld := ⟨0xb0004, 16, 11, .rw, 0x0⟩
def F.ASY_CTRL_IRQ_EN : Fld := ⟨0xb0004, 9, 1, .rw, 0x0⟩
def F.ASY_CTRL_STORE_INIT : Fld := ⟨0xb0004, 8, 1, .rw, 0x0⟩
def F.ASY_CTRL_FORCE_TRIGGER : Fld := ⟨0xb0004, 2, 1, .wo, 0x0⟩
def F.ASY_CTRL_DISARM : Fld := ⟨0xb0004, 1, 1, .wo, 0x0⟩
def F.ASY_CTRL_ARM : Fld := ⟨0xb0004, 0, 1, .wo, 0x0⟩
def F.ASY_ACQ_WINDOW_WINDOW : Fld := ⟨0xb0010, 0, 4, .rw, 0x0⟩
def F.ASY_ACQ_OFFSET_UNITS : Fld := ⟨0xb0014, 0, 21, .rw, 0x0⟩
def F.ASY_ACQ_SIZE_UNITS : Fld := ⟨0xb0018, 0, 21, .rw, 0x0⟩
def F.ASY_ACQ_WIDTH_W : Fld := ⟨0xb001c, 0, 7, .rw, 0x1⟩
def F.ASY_POST_LO_POST : Fld := ⟨0xb0020, 0, 32, .rw, 0x0⟩
def F.ASY_POST_HI_POST : Fld := ⟨0xb0024, 0, 9, .rw, 0x0⟩
def F.ASY_TRIG_CYCLE_LO_VALUE : Fld := ⟨0xb0028, 0, 32, .ro, 0x0⟩
def F.ASY_TRIG_CYCLE_HI_VALUE : Fld := ⟨0xb002c, 0, 32, .ro, 0x0⟩
def F.ASY_TRIG_SAMPLE_LO_VALUE : Fld := ⟨0xb0030, 0, 32, .ro, 0x0⟩
def F.ASY_TRIG_SAMPLE_HI_VALUE : Fld := ⟨0xb0034, 0, 32, .ro, 0x0⟩
def F.ASY_WR_SAMPLE_LO_VALUE : Fld := ⟨0xb0038, 0, 32, .ro, 0x0⟩
def F.ASY_WR_SAMPLE_HI_VALUE : Fld := ⟨0xb003c, 0, 32, .ro, 0x0⟩
def F.ASY_ARM_CYCLE_LO_VALUE : Fld := ⟨0xb0058, 0, 32, .ro, 0x0⟩
def F.ASY_ARM_CYCLE_HI_VALUE : Fld := ⟨0xb005c, 0, 32, .ro, 0x0⟩
def F.ASY_RED_OFFSET_UNITS : Fld := ⟨0xb0040, 0, 21, .rw, 0x0⟩
def F.ASY_RED_SIZE_UNITS : Fld := ⟨0xb0044, 0, 21, .rw, 0x0⟩
def F.ASY_RED_CTRL_WRAP : Fld := ⟨0xb0048, 1, 1, .rw, 0x0⟩
def F.ASY_RED_CTRL_CLEAR : Fld := ⟨0xb0048, 0, 1, .wo, 0x0⟩
def F.ASY_RED_INDEX_NEXT : Fld := ⟨0xb004c, 0, 32, .ro, 0x0⟩
def F.ASY_RED_LOST_COUNT : Fld := ⟨0xb0050, 0, 32, .rc, 0x0⟩
def F.ASY_PAT_CTRL_EN (n : Nat) : Fld := ⟨0xb0100 + 4 * n, 31, 1, .rw, 0x0⟩
def F.ASY_PAT_CTRL_BLOCK (n : Nat) : Fld := ⟨0xb0100 + 4 * n, 0, 6, .rw, 0x0⟩
def F.ASY_PAT_INDEX_MASK : Fld := ⟨0xb0140, 9, 1, .rw, 0x0⟩
def F.ASY_PAT_INDEX_COMP : Fld := ⟨0xb0140, 5, 4, .rw, 0x0⟩
def F.ASY_PAT_INDEX_WORD : Fld := ⟨0xb0140, 0, 5, .rw, 0x0⟩
def F.ASY_PAT_DATA_BITS : Fld := ⟨0xb0144, 0, 32, .rw, 0x0⟩
def F.ASY_VAL_CTRL_EN (n : Nat) : Fld := ⟨0xb0180 + 32 * n, 31, 1, .rw, 0x0⟩
def F.ASY_VAL_CTRL_SIGNED (n : Nat) : Fld := ⟨0xb0180 + 32 * n, 30, 1, .rw, 0x0⟩
def F.ASY_VAL_CTRL_OP (n : Nat) : Fld := ⟨0xb0180 + 32 * n, 24, 3, .rw, 0x0⟩
def F.ASY_VAL_CTRL_WIDTH (n : Nat) : Fld := ⟨0xb0180 + 32 * n, 16, 6, .rw, 0x0⟩
def F.ASY_VAL_CTRL_FIRST (n : Nat) : Fld := ⟨0xb0180 + 32 * n, 0, 16, .rw, 0x0⟩
def F.ASY_VAL_A_LO_VALUE (n : Nat) : Fld := ⟨0xb0184 + 32 * n, 0, 32, .rw, 0x0⟩
def F.ASY_VAL_A_HI_VALUE (n : Nat) : Fld := ⟨0xb0188 + 32 * n, 0, 32, .rw, 0x0⟩
def F.ASY_VAL_B_LO_VALUE (n : Nat) : Fld := ⟨0xb018c + 32 * n, 0, 32, .rw, 0x0⟩
def F.ASY_VAL_B_HI_VALUE (n : Nat) : Fld := ⟨0xb0190 + 32 * n, 0, 32, .rw, 0x0⟩
def F.ASY_CNT_LIMIT_LO_BITS (n : Nat) : Fld := ⟨0xb0300 + 16 * n, 0, 32, .rw, 0x0⟩
def F.ASY_CNT_LIMIT_HI_BITS (n : Nat) : Fld := ⟨0xb0304 + 16 * n, 0, 16, .rw, 0x0⟩
def F.ASY_CNT_VALUE_LO_BITS (n : Nat) : Fld := ⟨0xb0308 + 16 * n, 0, 32, .ro, 0x0⟩
def F.ASY_CNT_VALUE_HI_BITS (n : Nat) : Fld := ⟨0xb030c + 16 * n, 0, 16, .ro, 0x0⟩
def F.ASY_PROG_LO_WORD (n : Nat) : Fld := ⟨0xb0400 + 8 * n, 0, 32, .rw, 0x0⟩
def F.ASY_PROG_HI_WORD (n : Nat) : Fld := ⟨0xb0404 + 8 * n, 0, 32, .rw, 0x0⟩
def F.ASY_TRK_CTRL_EN (n : Nat) : Fld := ⟨0xb0600 + 8 * n, 31, 1, .rw, 0x0⟩
def F.ASY_TRK_CTRL_SIGNED (n : Nat) : Fld := ⟨0xb0600 + 8 * n, 30, 1, .rw, 0x0⟩
def F.ASY_TRK_CTRL_WIDTH (n : Nat) : Fld := ⟨0xb0600 + 8 * n, 16, 6, .rw, 0x0⟩
def F.ASY_TRK_CTRL_FIRST (n : Nat) : Fld := ⟨0xb0600 + 8 * n, 0, 16, .rw, 0x0⟩
def F.ASY_TRK_INTERVAL_CYCLES (n : Nat) : Fld := ⟨0xb0604 + 8 * n, 0, 32, .rw, 0x0⟩
def F.ASY_TRIG_CTRL_TRIG_CYCLES : Fld := ⟨0xb0700, 0, 4, .rw, 0x4⟩
def F.ASY_TRIG_SETTLE_NS : Fld := ⟨0xb0704, 0, 16, .rw, 0x1c2⟩
def F.ASY_TRIG_LATE_COUNT : Fld := ⟨0xb0708, 0, 32, .rc, 0x0⟩
def F.ASY_TRIG_LINE_OUT_EN (n : Nat) : Fld := ⟨0xb0710 + 4 * n, 31, 1, .rw, 0x0⟩
def F.ASY_TRIG_LINE_IN_EN (n : Nat) : Fld := ⟨0xb0710 + 4 * n, 30, 1, .rw, 0x0⟩
def F.ASY_TRIG_LINE_MODE (n : Nat) : Fld := ⟨0xb0710 + 4 * n, 29, 1, .rw, 0x0⟩
def F.ASY_TRIG_LINE_TRIM (n : Nat) : Fld := ⟨0xb0710 + 4 * n, 16, 7, .rw, 0x0⟩
def F.ASY_TRIG_LINE_PULSE (n : Nat) : Fld := ⟨0xb0710 + 4 * n, 0, 8, .rw, 0x0⟩
def F.ASY_SYNC_CTRL_LOAD_TIME : Fld := ⟨0xb0740, 2, 1, .rw, 0x0⟩
def F.ASY_SYNC_CTRL_FIRE : Fld := ⟨0xb0740, 1, 1, .wo, 0x0⟩
def F.ASY_SYNC_CTRL_DRIVE : Fld := ⟨0xb0740, 0, 1, .rw, 0x0⟩
def F.ASY_SYNC_TIME_LO_TIME : Fld := ⟨0xb0744, 0, 32, .rw, 0x0⟩
def F.ASY_SYNC_TIME_HI_TIME : Fld := ⟨0xb0748, 0, 32, .rw, 0x0⟩
def F.ASY_SNAP_LAST_LO_CYCLE : Fld := ⟨0xb0760, 0, 32, .ro, 0x0⟩
def F.ASY_SNAP_LAST_HI_CYCLE : Fld := ⟨0xb0764, 0, 32, .ro, 0x0⟩
def F.LNK_STATUS_ACTIVE : Fld := ⟨0xc0000, 16, 16, .ro, 0x0⟩
def F.LNK_STATUS_CFG_REJECT : Fld := ⟨0xc0000, 5, 1, .w1c, 0x0⟩
def F.LNK_STATUS_SPARE_USED : Fld := ⟨0xc0000, 4, 1, .w1c, 0x0⟩
def F.LNK_STATUS_DELAY_BREACH : Fld := ⟨0xc0000, 3, 1, .w1c, 0x0⟩
def F.LNK_STATUS_LINK_DOWN : Fld := ⟨0xc0000, 2, 1, .w1c, 0x0⟩
def F.LNK_STATUS_FORM_FAIL : Fld := ⟨0xc0000, 1, 1, .w1c, 0x0⟩
def F.LNK_STATUS_FORMED : Fld := ⟨0xc0000, 0, 1, .ro, 0x0⟩
def F.LNK_MACHINE_FORM : Fld := ⟨0xc0004, 31, 1, .wo, 0x0⟩
def F.LNK_MACHINE_SIZE_M1 : Fld := ⟨0xc0004, 8, 4, .rw, 0x0⟩
def F.LNK_MACHINE_POSITION : Fld := ⟨0xc0004, 0, 4, .rw, 0x0⟩
def F.LNK_FORM_STATUS_REASON : Fld := ⟨0xc0008, 28, 4, .ro, 0x0⟩
def F.LNK_FORM_STATUS_CONFLICT : Fld := ⟨0xc0008, 24, 4, .ro, 0x0⟩
def F.LNK_FORM_STATUS_DOZE_ANY : Fld := ⟨0xc0008, 17, 1, .ro, 0x0⟩
def F.LNK_FORM_STATUS_START_READY : Fld := ⟨0xc0008, 16, 1, .ro, 0x0⟩
def F.LNK_FORM_STATUS_PRESENT : Fld := ⟨0xc0008, 0, 16, .ro, 0x0⟩
def F.LNK_DIAMETER_STEPS : Fld := ⟨0xc000c, 0, 16, .ro, 0x0⟩
def F.LNK_CTRL_DOZE_EN : Fld := ⟨0xc0010, 31, 1, .rw, 0x1⟩
def F.LNK_CTRL_DOZE_IDLE : Fld := ⟨0xc0010, 0, 12, .rw, 0x100⟩
def F.LNK_EYE_MIN : Fld := ⟨0xc0014, 0, 8, .rw, 0x10⟩
def F.LNK_UNMAPPED_TX : Fld := ⟨0xc0018, 16, 16, .rc, 0x0⟩
def F.LNK_UNMAPPED_RX : Fld := ⟨0xc0018, 0, 16, .rc, 0x0⟩
def F.LNK_MAP_INDEX_ENTRY : Fld := ⟨0xc0020, 0, 12, .rw, 0x0⟩
def F.LNK_MAP_DATA_ENTRY : Fld := ⟨0xc0024, 0, 32, .ro, 0x0⟩
def F.LNK_ROUTE_VALID (n : Nat) : Fld := ⟨0xc0040 + 4 * n, 8, 1, .ro, 0x0⟩
def F.LNK_ROUTE_LINK (n : Nat) : Fld := ⟨0xc0040 + 4 * n, 0, 4, .ro, 0x0⟩
def F.LNK_LINK_CFG_EN (n : Nat) : Fld := ⟨0xc0100 + 32 * n, 31, 1, .rw, 0x0⟩
def F.LNK_LINK_CFG_SPARE (n : Nat) : Fld := ⟨0xc0100 + 32 * n, 30, 1, .rw, 0x0⟩
def F.LNK_LINK_CFG_RATE (n : Nat) : Fld := ⟨0xc0100 + 32 * n, 28, 2, .rw, 0x0⟩
def F.LNK_LINK_CFG_FIRST (n : Nat) : Fld := ⟨0xc0100 + 32 * n, 16, 6, .rw, 0x0⟩
def F.LNK_LINK_CFG_WIDTH (n : Nat) : Fld := ⟨0xc0100 + 32 * n, 0, 5, .rw, 0x0⟩
def F.LNK_LINK_STATUS_STAGE (n : Nat) : Fld := ⟨0xc0104 + 32 * n, 28, 4, .ro, 0x0⟩
def F.LNK_LINK_STATUS_DOZE_TX (n : Nat) : Fld := ⟨0xc0104 + 32 * n, 27, 1, .ro, 0x0⟩
def F.LNK_LINK_STATUS_DOZE_RX (n : Nat) : Fld := ⟨0xc0104 + 32 * n, 26, 1, .ro, 0x0⟩
def F.LNK_LINK_STATUS_DEEP (n : Nat) : Fld := ⟨0xc0104 + 32 * n, 25, 1, .ro, 0x0⟩
def F.LNK_LINK_STATUS_SPARE_IN_USE (n : Nat) : Fld := ⟨0xc0104 + 32 * n, 24, 1, .ro, 0x0⟩
def F.LNK_LINK_STATUS_FAILED_LANE (n : Nat) : Fld := ⟨0xc0104 + 32 * n, 20, 4, .ro, 0x0⟩
def F.LNK_LINK_STATUS_FAR_POS (n : Nat) : Fld := ⟨0xc0104 + 32 * n, 16, 4, .ro, 0x0⟩
def F.LNK_LINK_STATUS_FAIL_STAGE (n : Nat) : Fld := ⟨0xc0104 + 32 * n, 12, 4, .ro, 0x0⟩
def F.LNK_LINK_LAT_DATA (n : Nat) : Fld := ⟨0xc0108 + 32 * n, 16, 16, .ro, 0x0⟩
def F.LNK_LINK_LAT_CTRL (n : Nat) : Fld := ⟨0xc0108 + 32 * n, 0, 16, .ro, 0x0⟩
def F.LNK_LINK_FAR_SERIAL (n : Nat) : Fld := ⟨0xc010c + 32 * n, 0, 32, .ro, 0x0⟩
def F.LNK_LINK_ERR_CRC_FAIL (n : Nat) : Fld := ⟨0xc0110 + 32 * n, 16, 16, .rc, 0x0⟩
def F.LNK_LINK_ERR_REPLAYS (n : Nat) : Fld := ⟨0xc0110 + 32 * n, 0, 16, .rc, 0x0⟩
def F.LNK_LINK_CTRL_DEEP (n : Nat) : Fld := ⟨0xc0114 + 32 * n, 31, 1, .rw, 0x0⟩
def F.LNK_LINK_CTRL_RETRAIN (n : Nat) : Fld := ⟨0xc0114 + 32 * n, 30, 1, .wo, 0x0⟩
def F.LNK_LINK_RETRAINS_COUNT (n : Nat) : Fld := ⟨0xc0118 + 32 * n, 0, 32, .rc, 0x0⟩
def F.LNK_LANE_CTLE_FIX (n : Nat) : Fld := ⟨0xc0400 + 4 * n, 31, 1, .rw, 0x0⟩
def F.LNK_LANE_CTLE_SET (n : Nat) : Fld := ⟨0xc0400 + 4 * n, 24, 4, .rw, 0x0⟩
def F.LNK_LANE_CTLE (n : Nat) : Fld := ⟨0xc0400 + 4 * n, 16, 4, .ro, 0x0⟩
def F.LNK_LANE_EYE (n : Nat) : Fld := ⟨0xc0400 + 4 * n, 8, 8, .ro, 0x0⟩
def F.LNK_LANE_SYNC_ERR (n : Nat) : Fld := ⟨0xc0400 + 4 * n, 0, 8, .rc, 0x0⟩
def F.HGR_STATUS_CAP_REFUSED : Fld := ⟨0xd0000, 8, 1, .w1c, 0x0⟩
def F.HGR_STATUS_CAP_BUSY : Fld := ⟨0xd0000, 7, 1, .ro, 0x0⟩
def F.HGR_STATUS_CAP_DONE : Fld := ⟨0xd0000, 6, 1, .ro, 0x0⟩
def F.HGR_STATUS_VCCIO_MISMATCH : Fld := ⟨0xd0000, 5, 1, .w1c, 0x0⟩
def F.HGR_STATUS_RAM_UE : Fld := ⟨0xd0000, 4, 1, .w1c, 0x0⟩
def F.HGR_STATUS_OUTPUTS : Fld := ⟨0xd0000, 2, 1, .ro, 0x0⟩
def F.HGR_STATUS_WRITES : Fld := ⟨0xd0000, 1, 1, .ro, 0x0⟩
def F.HGR_STATUS_GSR : Fld := ⟨0xd0000, 0, 1, .ro, 0x1⟩
def F.HGR_CTRL_PARK_ALL : Fld := ⟨0xd0004, 0, 1, .rw, 0x0⟩
def F.HGR_CFG_FIX_COUNT : Fld := ⟨0xd0008, 0, 32, .rc, 0x0⟩
def F.HGR_RAM_CE_COUNT : Fld := ⟨0xd000c, 0, 32, .rc, 0x0⟩
def F.HGR_RAM_UE_LOC_BLOCK : Fld := ⟨0xd0010, 16, 7, .ro, 0x0⟩
def F.HGR_RAM_UE_LOC_WORD : Fld := ⟨0xd0010, 0, 10, .ro, 0x0⟩
def F.HGR_PLL_0_LOCKED : Fld := ⟨0xd0020, 31, 1, .ro, 0x0⟩
def F.HGR_PLL_0_EN : Fld := ⟨0xd0020, 30, 1, .ro, 0x0⟩
def F.HGR_PLL_0_REF : Fld := ⟨0xd0020, 29, 1, .ro, 0x0⟩
def F.HGR_PLL_0_VCO_MHZ : Fld := ⟨0xd0020, 0, 12, .ro, 0x0⟩
def F.HGR_PLL_1_LOCKED : Fld := ⟨0xd0024, 31, 1, .ro, 0x0⟩
def F.HGR_PLL_1_EN : Fld := ⟨0xd0024, 30, 1, .ro, 0x0⟩
def F.HGR_PLL_1_REF : Fld := ⟨0xd0024, 29, 1, .ro, 0x0⟩
def F.HGR_PLL_1_VCO_MHZ : Fld := ⟨0xd0024, 0, 12, .ro, 0x0⟩
def F.HGR_UCLK_RUNNING (n : Nat) : Fld := ⟨0xd0040 + 4 * n, 31, 1, .ro, 0x0⟩
def F.HGR_UCLK_KHZ (n : Nat) : Fld := ⟨0xd0040 + 4 * n, 0, 19, .ro, 0x0⟩
def F.HGR_BANK_CTRL_PARK (n : Nat) : Fld := ⟨0xd0100 + 16 * n, 0, 2, .rw, 0x0⟩
def F.HGR_BANK_STATUS_PARKED (n : Nat) : Fld := ⟨0xd0104 + 16 * n, 9, 1, .ro, 0x0⟩
def F.HGR_BANK_STATUS_MISMATCH (n : Nat) : Fld := ⟨0xd0104 + 16 * n, 8, 1, .ro, 0x0⟩
def F.HGR_BANK_STATUS_VCCIO (n : Nat) : Fld := ⟨0xd0104 + 16 * n, 0, 3, .ro, 0x0⟩
def F.HGR_CAP_CTRL_ARM : Fld := ⟨0xd0200, 31, 1, .wo, 0x0⟩
def F.HGR_CAP_CTRL_ABORT : Fld := ⟨0xd0200, 30, 1, .wo, 0x0⟩
def F.HGR_CAP_CTRL_MODE : Fld := ⟨0xd0200, 28, 2, .rw, 0x0⟩
def F.HGR_CAP_CTRL_UCLK : Fld := ⟨0xd0200, 24, 3, .rw, 0x0⟩
def F.HGR_CAP_CTRL_LINE : Fld := ⟨0xd0200, 16, 6, .rw, 0x0⟩
def F.HGR_CAP_COUNT_EDGES : Fld := ⟨0xd0204, 0, 32, .rw, 0x0⟩
def F.HGR_CAP_TIME_LO_TIME : Fld := ⟨0xd0208, 0, 32, .ro, 0x0⟩
def F.HGR_CAP_TIME_HI_TIME : Fld := ⟨0xd020c, 0, 32, .ro, 0x0⟩
def F.HGR_CAP_INDEX_WORD : Fld := ⟨0xd0210, 0, 18, .rw, 0x0⟩
def F.HGR_CAP_DATA_BITS : Fld := ⟨0xd0214, 0, 32, .ro, 0x0⟩
def F.HGR_CENSUS_VALID (n : Nat) : Fld := ⟨0xd0300 + 4 * n, 8, 1, .ro, 0x0⟩
def F.HGR_CENSUS_BLOCK (n : Nat) : Fld := ⟨0xd0300 + 4 * n, 0, 8, .ro, 0x0⟩
def F.CTL_STATUS_START_FAIL : Fld := ⟨0xe0000, 5, 1, .w1c, 0x0⟩
def F.CTL_STATUS_FWS_UE : Fld := ⟨0xe0000, 4, 1, .w1c, 0x0⟩
def F.CTL_STATUS_SCR_UE : Fld := ⟨0xe0000, 3, 1, .w1c, 0x0⟩
def F.CTL_STATUS_CORE_TRAP : Fld := ⟨0xe0000, 2, 1, .w1c, 0x0⟩
def F.CTL_STATUS_MT_BUSY : Fld := ⟨0xe0000, 1, 1, .ro, 0x0⟩
def F.CTL_STATUS_FW_UPDATING : Fld := ⟨0xe0000, 0, 1, .ro, 0x0⟩
def F.CTL_CORE_RESET_RESTART : Fld := ⟨0xe0004, 0, 7, .wo, 0x0⟩
def F.CTL_FW_STATUS_SVN : Fld := ⟨0xe0010, 16, 16, .ro, 0x0⟩
def F.CTL_FW_STATUS_RESULT : Fld := ⟨0xe0010, 8, 4, .ro, 0x0⟩
def F.CTL_FW_STATUS_ACTIVE : Fld := ⟨0xe0010, 4, 1, .ro, 0x0⟩
def F.CTL_FW_STATUS_STAGED : Fld := ⟨0xe0010, 3, 1, .ro, 0x0⟩
def F.CTL_FW_STATUS_PHASE : Fld := ⟨0xe0010, 0, 3, .ro, 0x0⟩
def F.CTL_FW_UPDATE_ABORT : Fld := ⟨0xe0014, 2, 1, .wo, 0x0⟩
def F.CTL_FW_UPDATE_HANDOVER : Fld := ⟨0xe0014, 1, 1, .wo, 0x0⟩
def F.CTL_FW_UPDATE_GO : Fld := ⟨0xe0014, 0, 1, .wo, 0x0⟩
def F.CTL_FW_SRC_OFFSET : Fld := ⟨0xe0018, 0, 13, .rw, 0x0⟩
def F.CTL_FW_LEN_BYTES : Fld := ⟨0xe001c, 0, 21, .rw, 0x0⟩
def F.CTL_FW_HANDOVER_READY : Fld := ⟨0xe0020, 0, 8, .w1s, 0x0⟩
def F.CTL_FW_HANDOVER_MS_MS : Fld := ⟨0xe0024, 0, 16, .rw, 0x64⟩
def F.CTL_SCR_CE_COUNT : Fld := ⟨0xe0040, 0, 32, .rc, 0x0⟩
def F.CTL_SCR_UE_LOC_BANK : Fld := ⟨0xe0044, 18, 4, .ro, 0x0⟩
def F.CTL_SCR_UE_LOC_WORD : Fld := ⟨0xe0044, 0, 18, .ro, 0x0⟩
def F.CTL_REPAIR_FWS_SPARES : Fld := ⟨0xe0060, 16, 16, .ro, 0x0⟩
def F.CTL_REPAIR_FWS_USED : Fld := ⟨0xe0060, 0, 16, .ro, 0x0⟩
def F.CTL_REPAIR_CTX_SPARES : Fld := ⟨0xe0064, 16, 16, .ro, 0x0⟩
def F.CTL_REPAIR_CTX_USED : Fld := ⟨0xe0064, 0, 16, .ro, 0x0⟩
def F.CTL_REPAIR_FUSE_SPARES : Fld := ⟨0xe0068, 16, 16, .ro, 0x0⟩
def F.CTL_REPAIR_FUSE_USED : Fld := ⟨0xe0068, 0, 16, .ro, 0x0⟩
def F.CTL_MT_CTRL_ALT : Fld := ⟨0xe0100, 2, 1, .rw, 0x0⟩
def F.CTL_MT_CTRL_ABORT : Fld := ⟨0xe0100, 1, 1, .wo, 0x0⟩
def F.CTL_MT_CTRL_START : Fld := ⟨0xe0100, 0, 1, .wo, 0x0⟩
def F.CTL_MT_TARGET_MODE : Fld := ⟨0xe0104, 31, 1, .rw, 0x0⟩
def F.CTL_MT_TARGET_KIND : Fld := ⟨0xe0104, 16, 4, .rw, 0x0⟩
def F.CTL_MT_TARGET_DIE : Fld := ⟨0xe0104, 8, 8, .rw, 0x0⟩
def F.CTL_MT_TARGET_UNIT : Fld := ⟨0xe0104, 0, 8, .rw, 0x0⟩
def F.CTL_MT_PATTERN_LO_BITS : Fld := ⟨0xe0108, 0, 32, .rw, 0x0⟩
def F.CTL_MT_PATTERN_HI_BITS : Fld := ⟨0xe010c, 0, 32, .rw, 0x0⟩
def F.CTL_MT_PACE_GAP_US : Fld := ⟨0xe0110, 0, 16, .rw, 0x0⟩
def F.CTL_MT_STATUS_SAVE_UE : Fld := ⟨0xe0114, 4, 1, .w1c, 0x0⟩
def F.CTL_MT_STATUS_RESULT : Fld := ⟨0xe0114, 0, 4, .ro, 0x0⟩
def F.CTL_MT_PROGRESS_DONE : Fld := ⟨0xe0118, 0, 16, .ro, 0x0⟩
def F.CTL_MT_FAILS_COUNT : Fld := ⟨0xe011c, 0, 32, .ro, 0x0⟩
def F.CTL_MT_FAIL_INDEX_RECORD : Fld := ⟨0xe0120, 0, 4, .rw, 0x0⟩
def F.CTL_MT_FAIL_ADDR_ELEMENT : Fld := ⟨0xe0124, 27, 5, .ro, 0x0⟩
def F.CTL_MT_FAIL_ADDR_WORD : Fld := ⟨0xe0124, 0, 27, .ro, 0x0⟩
def F.CTL_MT_FAIL_BITS_LO_DIFF : Fld := ⟨0xe0128, 0, 32, .ro, 0x0⟩
def F.CTL_MT_FAIL_BITS_HI_DIFF : Fld := ⟨0xe012c, 0, 32, .ro, 0x0⟩
def F.CTL_MT_FAIL_CHECK_DIFF : Fld := ⟨0xe0130, 0, 8, .ro, 0x0⟩
def F.CTL_MT_ELEM_ELEMENT (n : Nat) : Fld := ⟨0xe0200 + 4 * n, 0, 32, .rw, 0x0⟩
def F.TRC_STATUS_REJECT : Fld := ⟨0xf0000, 5, 1, .w1c, 0x0⟩
def F.TRC_STATUS_PRIV_AUTH : Fld := ⟨0xf0000, 4, 1, .ro, 0x0⟩
def F.TRC_STATUS_OVERFLOW : Fld := ⟨0xf0000, 3, 1, .w1c, 0x0⟩
def F.TRC_STATUS_WRAPPED : Fld := ⟨0xf0000, 2, 1, .ro, 0x0⟩
def F.TRC_STATUS_FULL : Fld := ⟨0xf0000, 1, 1, .w1c, 0x0⟩
def F.TRC_STATUS_ENABLED : Fld := ⟨0xf0000, 0, 1, .ro, 0x0⟩
def F.TRC_CTRL_EN : Fld := ⟨0xf0004, 31, 1, .rw, 0x0⟩
def F.TRC_CTRL_PRIV : Fld := ⟨0xf0004, 30, 1, .rw, 0x0⟩
def F.TRC_CTRL_WRAP : Fld := ⟨0xf0004, 29, 1, .rw, 0x0⟩
def F.TRC_CTRL_CLEAR : Fld := ⟨0xf0004, 28, 1, .wo, 0x0⟩
def F.TRC_CTRL_TS_PERIOD : Fld := ⟨0xf0004, 0, 16, .rw, 0x64⟩
def F.TRC_SOURCES_EN : Fld := ⟨0xf0008, 0, 32, .rw, 0x0⟩
def F.TRC_SOURCES_HI_EN : Fld := ⟨0xf000c, 0, 8, .rw, 0x0⟩
def F.TRC_BUF_WINDOW_WINDOW : Fld := ⟨0xf0010, 0, 4, .rw, 0x0⟩
def F.TRC_BUF_OFFSET_UNITS : Fld := ⟨0xf0014, 0, 24, .rw, 0x0⟩
def F.TRC_BUF_SIZE_UNITS : Fld := ⟨0xf0018, 0, 24, .rw, 0x0⟩
def F.TRC_WRITE_FRAME : Fld := ⟨0xf001c, 0, 32, .ro, 0x0⟩
def F.TRC_LOST_COUNT : Fld := ⟨0xf0020, 0, 32, .rc, 0x0⟩
def F.TRC_SRC_INDEX_SOURCE : Fld := ⟨0xf0040, 0, 6, .rw, 0x0⟩
def F.TRC_SRC_CTRL_START_ON : Fld := ⟨0xf0044, 31, 1, .rw, 0x0⟩
def F.TRC_SRC_CTRL_ON : Fld := ⟨0xf0044, 30, 1, .ro, 0x0⟩
def F.TRC_SRC_CTRL_SLEEPING : Fld := ⟨0xf0044, 29, 1, .ro, 0x0⟩
def F.TRC_SRC_CTRL_ACTION : Fld := ⟨0xf0044, 0, 8, .rw, 0x0⟩
def F.TRC_SRC_BYTES_COUNT : Fld := ⟨0xf0048, 0, 32, .ro, 0x0⟩
def F.TRC_SRC_LOST_COUNT : Fld := ⟨0xf004c, 0, 32, .rc, 0x0⟩
def F.TRC_CMP_LO_LO_ADDR (n : Nat) : Fld := ⟨0xf0050 + 16 * n, 0, 32, .rw, 0x0⟩
def F.TRC_CMP_LO_HI_ADDR (n : Nat) : Fld := ⟨0xf0054 + 16 * n, 0, 32, .rw, 0x0⟩
def F.TRC_CMP_HI_LO_ADDR (n : Nat) : Fld := ⟨0xf0058 + 16 * n, 0, 32, .rw, 0x0⟩
def F.TRC_CMP_HI_HI_ADDR (n : Nat) : Fld := ⟨0xf005c + 16 * n, 0, 32, .rw, 0x0⟩

/-- The registers of the IDN block (spec chapter 21). -/
def regsIDN : List RegRow :=
  [
    ⟨0x00000, 1, 4, [(16, 16, .ro, 0x564b), (8, 8, .ro, 0x4), (0, 8, .ro, 0x0)]⟩,
    ⟨0x00004, 1, 4, [(24, 8, .ro, 0x0), (16, 8, .ro, 0x0), (0, 16, .ro, 0x0)]⟩,
    ⟨0x00008, 1, 4, [(0, 32, .ro, 0x0)]⟩,
    ⟨0x0000c, 1, 4, [(0, 32, .ro, 0x0)]⟩,
    ⟨0x00010, 1, 4, [(0, 32, .ro, 0x0)]⟩,
    ⟨0x00014, 1, 4, [(0, 32, .ro, 0x0)]⟩]

/-- The registers of the CLK block (spec chapter 16). -/
def regsCLK : List RegRow :=
  [
    ⟨0x10000, 1, 4, [(6, 1, .ro, 0x0), (5, 1, .w1c, 0x0), (4, 1, .w1c, 0x0), (3, 1, .ro, 0x0), (2, 1, .w1c, 0x0), (1, 1, .w1c, 0x0), (0, 1, .w1c, 0x0)]⟩,
    ⟨0x10004, 1, 4, [(0, 29, .ro, 0x0)]⟩,
    ⟨0x10008, 1, 4, [(0, 32, .rc, 0x0)]⟩,
    ⟨0x1000c, 1, 4, [(31, 1, .ro, 0x0), (30, 1, .ro, 0x0), (0, 16, .rc, 0x0)]⟩,
    ⟨0x10010, 1, 4, [(16, 11, .ro, 0x0), (0, 11, .ro, 0x0)]⟩,
    ⟨0x10014, 1, 4, [(16, 5, .rw, 0xa), (0, 11, .rw, 0x100)]⟩,
    ⟨0x10020, 27, 4, [(31, 1, .ro, 0x0), (30, 1, .w1c, 0x0), (4, 2, .ro, 0x0), (0, 2, .rw, 0x0)]⟩,
    ⟨0x10100, 1, 4, [(0, 7, .rw, 0x0)]⟩,
    ⟨0x10104, 1, 4, [(31, 1, .ro, 0x1), (30, 1, .ro, 0x0), (29, 1, .ro, 0x0), (3, 1, .rw, 0x0), (1, 1, .wo, 0x0), (0, 1, .wo, 0x0)]⟩,
    ⟨0x10110, 1, 4, [(16, 5, .rw, 0x0), (0, 16, .rw, 0x0)]⟩,
    ⟨0x10120, 1, 4, [(16, 4, .rw, 0x5), (8, 8, .rw, 0x64), (0, 8, .rw, 0x5a)]⟩,
    ⟨0x10124, 1, 4, [(16, 8, .ro, 0x0), (8, 1, .ro, 0x0), (0, 8, .ro, 0x0)]⟩,
    ⟨0x10128, 1, 4, [(0, 32, .ro, 0x0)]⟩,
    ⟨0x1012c, 1, 4, [(0, 12, .rw, 0x1f4)]⟩,
    ⟨0x10200, 16, 4, [(31, 1, .rw, 0x0), (30, 1, .ro, 0x0), (8, 5, .rw, 0x0), (0, 7, .rw, 0x0)]⟩]

/-- The registers of the RST block (spec chapter 20). -/
def regsRST : List RegRow :=
  [
    ⟨0x20000, 1, 4, [(13, 1, .ro, 0x0), (12, 1, .ro, 0x0), (8, 3, .ro, 0x0), (3, 1, .ro, 0x0), (0, 3, .ro, 0x1)]⟩,
    ⟨0x20004, 1, 4, [(31, 1, .wo, 0x0), (0, 16, .wo, 0x0)]⟩,
    ⟨0x20010, 5, 4, [(0, 32, .ro, 0x0)]⟩,
    ⟨0x20040, 1, 4, [(16, 16, .rc, 0x0), (0, 16, .rc, 0x0)]⟩,
    ⟨0x20044, 1, 4, [(7, 1, .ro, 0x0), (6, 1, .ro, 0x0), (5, 1, .ro, 0x0), (4, 1, .ro, 0x0), (3, 1, .ro, 0x0), (2, 1, .ro, 0x0), (1, 1, .ro, 0x0), (0, 1, .ro, 0x0)]⟩,
    ⟨0x20048, 1, 4, [(3, 5, .rw, 0x1f), (0, 3, .ro, 0x7)]⟩]

/-- The registers of the LDR block (spec chapter 09). -/
def regsLDR : List RegRow :=
  [
    ⟨0x30000, 1, 4, [(16, 6, .ro, 0x0), (12, 4, .ro, 0x0), (11, 1, .w1c, 0x0), (8, 2, .ro, 0x0), (6, 1, .ro, 0x0), (0, 3, .ro, 0x0)]⟩,
    ⟨0x30004, 1, 4, [(16, 16, .ro, 0x0), (8, 2, .ro, 0x0), (0, 8, .ro, 0x0)]⟩,
    ⟨0x30008, 1, 4, [(0, 32, .ro, 0x0)]⟩,
    ⟨0x3000c, 1, 4, [(31, 1, .wo, 0x0), (0, 16, .rw, 0x3e8)]⟩,
    ⟨0x30010, 1, 4, [(0, 32, .ro, 0x0)]⟩,
    ⟨0x30014, 1, 4, [(31, 1, .rw, 0x0), (12, 4, .rw, 0x0), (0, 12, .rw, 0x0)]⟩,
    ⟨0x30018, 1, 4, [(9, 1, .ro, 0x0), (8, 1, .ro, 0x0), (0, 2, .ro, 0x0)]⟩,
    ⟨0x3001c, 1, 4, [(31, 1, .wo, 0x0), (0, 1, .rw, 0x0)]⟩,
    ⟨0x30020, 1, 4, [(0, 32, .ro, 0x0)]⟩,
    ⟨0x30100, 66, 4, [(0, 32, .rw, 0x0)]⟩,
    ⟨0x30400, 64, 4, [(16, 16, .rc, 0x0), (0, 2, .ro, 0x0)]⟩]

/-- The registers of the SEC block (spec chapter 19). -/
def regsSEC : List RegRow :=
  [
    ⟨0x40000, 1, 4, [(9, 1, .ro, 0x0), (8, 1, .ro, 0x0), (7, 1, .ro, 0x0), (6, 1, .ro, 0x0), (5, 1, .ro, 0x0), (4, 1, .ro, 0x0), (3, 1, .ro, 0x0), (2, 1, .ro, 0x0), (1, 1, .ro, 0x0), (0, 1, .ro, 0x0)]⟩,
    ⟨0x40004, 1, 4, [(31, 1, .wo, 0x0), (30, 1, .wo, 0x0), (0, 4, .wo, 0x0)]⟩,
    ⟨0x40008, 1, 4, [(28, 4, .ro, 0x0), (24, 4, .ro, 0x0), (16, 8, .ro, 0x0), (0, 8, .ro, 0x0)]⟩,
    ⟨0x40010, 1, 4, [(0, 9, .rw, 0x0)]⟩,
    ⟨0x40014, 1, 4, [(0, 32, .ro, 0x0)]⟩,
    ⟨0x40018, 1, 4, [(0, 4, .rw, 0x0)]⟩,
    ⟨0x4001c, 1, 4, [(31, 1, .rw, 0x0), (0, 9, .rw, 0x0)]⟩,
    ⟨0x40020, 1, 4, [(0, 32, .rw, 0x0)]⟩,
    ⟨0x40024, 1, 4, [(8, 5, .ro, 0x0), (0, 8, .ro, 0x0)]⟩,
    ⟨0x40040, 4, 4, [(31, 1, .ro, 0x0), (30, 1, .ro, 0x0), (29, 1, .ro, 0x0), (28, 1, .ro, 0x0), (0, 16, .ro, 0x0)]⟩,
    ⟨0x40060, 8, 4, [(0, 32, .wo, 0x0)]⟩,
    ⟨0x40080, 1, 4, [(31, 1, .wo, 0x0), (30, 1, .ro, 0x0), (29, 1, .ro, 0x0), (0, 16, .ro, 0x0)]⟩,
    ⟨0x40090, 1, 4, [(0, 7, .ro, 0x0)]⟩]

/-- The registers of the HST block (spec chapter 10). -/
def regsHST : List RegRow :=
  [
    ⟨0x50000, 1, 4, [(12, 4, .ro, 0x0), (7, 5, .ro, 0x0), (3, 1, .ro, 0x0), (2, 1, .w1c, 0x0), (1, 1, .w1c, 0x0), (0, 1, .ro, 0x0)]⟩,
    ⟨0x50004, 1, 4, [(0, 1, .rw, 0x0)]⟩,
    ⟨0x50008, 1, 4, [(0, 13, .rw, 0x32)]⟩,
    ⟨0x50010, 1, 4, [(6, 26, .rw, 0x0)]⟩,
    ⟨0x50014, 1, 4, [(0, 32, .rw, 0x0)]⟩,
    ⟨0x50018, 1, 4, [(0, 32, .ro, 0x0)]⟩,
    ⟨0x50040, 1, 4, [(0, 12, .rw, 0x0)]⟩,
    ⟨0x50044, 1, 4, [(0, 32, .rw, 0x0)]⟩,
    ⟨0x50048, 1, 4, [(0, 32, .rw, 0x0)]⟩,
    ⟨0x5004c, 1, 4, [(0, 32, .rw, 0x0)]⟩,
    ⟨0x50050, 1, 4, [(0, 32, .rw, 0x0)]⟩,
    ⟨0x50054, 1, 4, [(0, 32, .rw, 0x0)]⟩,
    ⟨0x50058, 1, 4, [(0, 32, .rw, 0x0)]⟩,
    ⟨0x5005c, 1, 4, [(27, 5, .rw, 0x0), (22, 5, .rw, 0x0), (10, 11, .rw, 0x0), (0, 8, .rw, 0x0)]⟩,
    ⟨0x50060, 1, 4, [(0, 16, .rw, 0x0)]⟩,
    ⟨0x50064, 1, 4, [(0, 2, .wo, 0x0)]⟩,
    ⟨0x50068, 1, 4, [(12, 1, .w1c, 0x0), (8, 4, .w1c, 0x0), (4, 4, .ro, 0x0), (0, 2, .ro, 0x0)]⟩,
    ⟨0x50080, 1, 4, [(16, 16, .rc, 0x0), (0, 16, .rc, 0x0)]⟩,
    ⟨0x50084, 1, 4, [(0, 32, .rc, 0x0)]⟩,
    ⟨0x50088, 1, 4, [(0, 32, .rc, 0x0)]⟩]

/-- The registers of the CHN block (spec chapter 11). -/
def regsCHN : List RegRow :=
  [
    ⟨0x60000, 1, 4, [(3, 1, .w1c, 0x0), (2, 1, .w1c, 0x0), (1, 1, .w1c, 0x0), (0, 1, .ro, 0x0)]⟩,
    ⟨0x60004, 1, 4, [(0, 1, .rw, 0x0)]⟩,
    ⟨0x60008, 1, 4, [(0, 32, .ro, 0x0)]⟩,
    ⟨0x6000c, 1, 4, [(0, 32, .w1c, 0x0)]⟩,
    ⟨0x60010, 1, 4, [(0, 32, .rw, 0x0)]⟩,
    ⟨0x60020, 1, 4, [(0, 18, .rw, 0x0)]⟩,
    ⟨0x60040, 16, 4, [(0, 32, .ro, 0x0)]⟩,
    ⟨0x60080, 8, 4, [(0, 18, .ro, 0x0)]⟩,
    ⟨0x600a0, 1, 4, [(16, 16, .rc, 0x0), (0, 16, .rc, 0x0)]⟩,
    ⟨0x600a4, 1, 4, [(0, 32, .rc, 0x0)]⟩,
    ⟨0x600a8, 1, 4, [(0, 19, .ro, 0x0)]⟩,
    ⟨0x600ac, 1, 4, [(0, 32, .rc, 0x0)]⟩]

/-- The registers of the ARY block (spec chapter 04 and 06). -/
def regsARY : List RegRow :=
  [
    ⟨0x70000, 1, 4, [(8, 4, .ro, 0x0), (7, 1, .ro, 0x0), (6, 1, .ro, 0x0), (0, 3, .ro, 0x0)]⟩,
    ⟨0x70004, 1, 4, [(0, 11, .ro, 0x0)]⟩,
    ⟨0x70010, 1, 4, [(9, 1, .ro, 0x0), (8, 1, .ro, 0x0), (4, 1, .w1c, 0x0), (2, 1, .rw, 0x0), (1, 1, .wo, 0x0), (0, 1, .wo, 0x0)]⟩,
    ⟨0x70014, 1, 4, [(0, 32, .rw, 0x0)]⟩,
    ⟨0x70018, 1, 4, [(0, 11, .rw, 0x0)]⟩,
    ⟨0x70020, 1, 4, [(20, 1, .ro, 0x0), (16, 4, .ro, 0x0), (0, 12, .ro, 0x0)]⟩,
    ⟨0x70024, 1, 4, [(0, 12, .w1c, 0x0)]⟩,
    ⟨0x70030, 1, 4, [(0, 6, .rw, 0x14)]⟩,
    ⟨0x70034, 1, 4, [(0, 32, .ro, 0x0)]⟩,
    ⟨0x70040, 4, 4, [(0, 32, .ro, 0x0)]⟩,
    ⟨0x70050, 1, 4, [(0, 32, .ro, 0xffffffff)]⟩,
    ⟨0x70054, 1, 4, [(0, 32, .ro, 0xffffffff)]⟩,
    ⟨0x70058, 1, 4, [(16, 16, .rc, 0x0), (0, 16, .rc, 0x0)]⟩,
    ⟨0x70060, 4, 4, [(0, 32, .rc, 0x0)]⟩,
    ⟨0x70070, 1, 4, [(0, 1, .wo, 0x0)]⟩,
    ⟨0x70080, 1, 4, [(0, 32, .ro, 0x0)]⟩,
    ⟨0x70084, 1, 4, [(0, 32, .ro, 0x0)]⟩,
    ⟨0x70088, 1, 4, [(0, 32, .ro, 0x0)]⟩,
    ⟨0x7008c, 1, 4, [(0, 32, .ro, 0x0)]⟩,
    ⟨0x70100, 12, 16, [(0, 32, .ro, 0x0)]⟩,
    ⟨0x70104, 12, 16, [(0, 32, .ro, 0x0)]⟩,
    ⟨0x70108, 12, 16, [(0, 32, .ro, 0x0)]⟩,
    ⟨0x70200, 1, 4, [(0, 1, .w1c, 0x0)]⟩,
    ⟨0x70204, 1, 4, [(0, 17, .ro, 0x0)]⟩,
    ⟨0x70208, 1, 4, [(0, 32, .rc, 0x0)]⟩,
    ⟨0x70210, 1, 4, [(17, 1, .ro, 0x0), (16, 1, .ro, 0x0), (0, 16, .ro, 0x0)]⟩,
    ⟨0x70214, 1, 4, [(0, 16, .rc, 0x0)]⟩,
    ⟨0x70218, 1, 4, [(16, 16, .rc, 0x0), (0, 16, .rc, 0x0)]⟩]

/-- The registers of the FLT block (spec chapter 15). -/
def regsFLT : List RegRow :=
  [
    ⟨0x80000, 1, 4, [(11, 1, .ro, 0x0), (10, 1, .ro, 0x0), (9, 1, .ro, 0x0), (8, 1, .ro, 0x0), (7, 1, .w1c, 0x0), (6, 1, .w1c, 0x0), (5, 1, .w1c, 0x0), (4, 1, .w1c, 0x0), (3, 1, .w1c, 0x0), (2, 1, .w1c, 0x0), (1, 1, .w1c, 0x0), (0, 1, .w1c, 0x0)]⟩,
    ⟨0x80004, 1, 4, [(8, 1, .rw, 0x1), (0, 4, .rw, 0x8)]⟩,
    ⟨0x80008, 1, 4, [(31, 1, .wo, 0x0), (8, 2, .rw, 0x0), (0, 6, .rw, 0x0)]⟩,
    ⟨0x80010, 8, 4, [(0, 32, .ro, 0x0)]⟩,
    ⟨0x80030, 1, 4, [(0, 32, .rc, 0x0)]⟩,
    ⟨0x80034, 1, 4, [(0, 32, .ro, 0x0)]⟩,
    ⟨0x80038, 1, 4, [(0, 32, .ro, 0x0)]⟩,
    ⟨0x8003c, 1, 4, [(0, 32, .ro, 0x0)]⟩,
    ⟨0x80040, 1, 4, [(0, 32, .rc, 0x0)]⟩,
    ⟨0x80050, 4, 4, [(16, 8, .ro, 0x0), (0, 2, .ro, 0x0)]⟩,
    ⟨0x80060, 1, 4, [(8, 2, .rw, 0x0), (0, 6, .rw, 0x0)]⟩,
    ⟨0x80064, 1, 4, [(31, 1, .ro, 0x0), (0, 7, .ro, 0x0)]⟩,
    ⟨0x80070, 1, 4, [(16, 8, .ro, 0x0), (0, 8, .rw, 0x0)]⟩,
    ⟨0x80074, 8, 4, [(0, 32, .ro, 0x0)]⟩,
    ⟨0x80098, 1, 4, [(0, 4, .rw, 0x0)]⟩,
    ⟨0x8009c, 1, 4, [(31, 1, .ro, 0x0), (30, 1, .ro, 0x0), (0, 16, .ro, 0x0)]⟩,
    ⟨0x800a0, 1, 4, [(31, 1, .ro, 0x0), (30, 1, .ro, 0x0), (0, 16, .ro, 0x0)]⟩,
    ⟨0x800a4, 1, 4, [(0, 32, .ro, 0x0)]⟩,
    ⟨0x800a8, 1, 4, [(0, 32, .ro, 0x0)]⟩,
    ⟨0x800ac, 1, 4, [(0, 32, .ro, 0x0)]⟩,
    ⟨0x800b0, 1, 4, [(0, 32, .ro, 0x0)]⟩,
    ⟨0x800b4, 1, 4, [(0, 16, .ro, 0x0)]⟩]

/-- The registers of the HBM block (spec chapter 07). -/
def regsHBM : List RegRow :=
  [
    ⟨0x90000, 1, 4, [(12, 4, .ro, 0x0), (8, 4, .ro, 0x0), (4, 4, .ro, 0x0), (2, 1, .ro, 0x0), (1, 1, .w1c, 0x0), (0, 1, .w1c, 0x0)]⟩,
    ⟨0x90004, 1, 4, [(0, 1, .wo, 0x0)]⟩,
    ⟨0x90010, 1, 4, [(31, 1, .rw, 0x1), (30, 1, .ro, 0x0), (16, 10, .rw, 0x19a), (0, 10, .rw, 0x186)]⟩,
    ⟨0x90014, 1, 4, [(0, 32, .ro, 0x0)]⟩,
    ⟨0x90020, 1, 4, [(4, 4, .ro, 0x0), (0, 4, .wo, 0x0)]⟩,
    ⟨0x90024, 1, 4, [(12, 2, .rw, 0x0), (0, 11, .rw, 0x0)]⟩,
    ⟨0x90028, 1, 4, [(0, 8, .rw, 0x0)]⟩,
    ⟨0x90030, 1, 4, [(8, 8, .rw, 0x18), (0, 1, .rw, 0x1)]⟩,
    ⟨0x90034, 1, 4, [(16, 16, .ro, 0x0), (0, 16, .ro, 0x0)]⟩,
    ⟨0x90040, 4, 4, [(0, 32, .rc, 0x0)]⟩,
    ⟨0x90050, 1, 4, [(16, 16, .rc, 0x0), (0, 16, .rc, 0x0)]⟩,
    ⟨0x90054, 1, 4, [(15, 1, .ro, 0x0), (12, 3, .ro, 0x0), (8, 4, .ro, 0x0), (0, 7, .ro, 0x0)]⟩,
    ⟨0x90058, 1, 4, [(0, 27, .ro, 0x0)]⟩,
    ⟨0x90060, 4, 4, [(0, 32, .w1c, 0x0)]⟩,
    ⟨0x90070, 1, 4, [(0, 32, .ro, 0x0)]⟩,
    ⟨0x90100, 16, 32, [(31, 1, .rw, 0x0), (28, 3, .rw, 0x0), (24, 4, .rw, 0x0), (23, 1, .rw, 0x0), (22, 1, .ro, 0x0), (21, 1, .ro, 0x0)]⟩,
    ⟨0x90104, 16, 32, [(0, 14, .rw, 0x0)]⟩,
    ⟨0x90108, 16, 32, [(0, 22, .rw, 0x0)]⟩,
    ⟨0x90110, 16, 32, [(0, 32, .rw, 0x0)]⟩,
    ⟨0x90114, 16, 32, [(0, 32, .rw, 0x0)]⟩,
    ⟨0x90118, 16, 32, [(0, 32, .rw, 0x0)]⟩,
    ⟨0x9011c, 16, 32, [(0, 32, .rw, 0x0)]⟩]

/-- The registers of the NET block (spec chapter 08). -/
def regsNET : List RegRow :=
  [
    ⟨0xa0000, 1, 4, [(4, 1, .w1c, 0x0), (3, 1, .w1c, 0x0), (2, 1, .w1c, 0x0), (1, 1, .w1c, 0x0), (0, 1, .w1c, 0x0)]⟩,
    ⟨0xa0004, 1, 4, [(8, 8, .rw, 0x10), (0, 4, .rw, 0x4)]⟩,
    ⟨0xa0008, 1, 4, [(4, 4, .rw, 0x1), (0, 4, .rw, 0x4)]⟩,
    ⟨0xa0010, 1, 4, [(0, 32, .rc, 0x0)]⟩,
    ⟨0xa0014, 1, 4, [(0, 32, .rc, 0x0)]⟩,
    ⟨0xa0018, 1, 4, [(16, 16, .rc, 0x0), (0, 16, .rc, 0x0)]⟩,
    ⟨0xa001c, 1, 4, [(16, 3, .ro, 0x0), (0, 11, .ro, 0x0)]⟩,
    ⟨0xa0020, 1, 4, [(16, 11, .ro, 0x0), (0, 11, .ro, 0x0)]⟩,
    ⟨0xa0024, 1, 4, [(16, 16, .rc, 0x0), (0, 11, .ro, 0x0)]⟩,
    ⟨0xa0040, 1, 4, [(31, 1, .rw, 0x0), (4, 1, .wo, 0x0), (1, 1, .rw, 0x0)]⟩,
    ⟨0xa0044, 1, 4, [(0, 4, .rw, 0x0)]⟩,
    ⟨0xa0048, 1, 4, [(0, 32, .ro, 0x0)]⟩,
    ⟨0xa004c, 1, 4, [(0, 32, .rc, 0x0)]⟩,
    ⟨0xa0100, 32, 32, [(31, 1, .rw, 0x0), (30, 1, .rw, 0x0), (29, 1, .rw, 0x0), (24, 4, .rw, 0x0), (16, 8, .rw, 0x0), (0, 11, .rw, 0x0)]⟩,
    ⟨0xa0104, 32, 32, [(16, 11, .rw, 0x0), (0, 11, .rw, 0x0)]⟩,
    ⟨0xa0108, 32, 32, [(16, 11, .rw, 0x0), (0, 11, .rw, 0x0)]⟩,
    ⟨0xa010c, 32, 32, [(0, 32, .rc, 0x0)]⟩,
    ⟨0xa0110, 32, 32, [(0, 32, .rc, 0x0)]⟩]

/-- The registers of the ASY block (spec chapter 12). -/
def regsASY : List RegRow :=
  [
    ⟨0xb0000, 1, 4, [(12, 1, .w1c, 0x0), (11, 1, .w1c, 0x0), (10, 1, .w1c, 0x0), (9, 1, .w1c, 0x0), (8, 1, .w1c, 0x0), (7, 1, .ro, 0x0), (6, 1, .ro, 0x0), (5, 1, .ro, 0x0), (4, 1, .ro, 0x0), (3, 1, .ro, 0x0), (0, 3, .ro, 0x0)]⟩,
    ⟨0xb0004, 1, 4, [(16, 11, .rw, 0x0), (9, 1, .rw, 0x0), (8, 1, .rw, 0x0), (2, 1, .wo, 0x0), (1, 1, .wo, 0x0), (0, 1, .wo, 0x0)]⟩,
    ⟨0xb0010, 1, 4, [(0, 4, .rw, 0x0)]⟩,
    ⟨0xb0014, 1, 4, [(0, 21, .rw, 0x0)]⟩,
    ⟨0xb0018, 1, 4, [(0, 21, .rw, 0x0)]⟩,
    ⟨0xb001c, 1, 4, [(0, 7, .rw, 0x1)]⟩,
    ⟨0xb0020, 1, 4, [(0, 32, .rw, 0x0)]⟩,
    ⟨0xb0024, 1, 4, [(0, 9, .rw, 0x0)]⟩,
    ⟨0xb0028, 1, 4, [(0, 32, .ro, 0x0)]⟩,
    ⟨0xb002c, 1, 4, [(0, 32, .ro, 0x0)]⟩,
    ⟨0xb0030, 1, 4, [(0, 32, .ro, 0x0)]⟩,
    ⟨0xb0034, 1, 4, [(0, 32, .ro, 0x0)]⟩,
    ⟨0xb0038, 1, 4, [(0, 32, .ro, 0x0)]⟩,
    ⟨0xb003c, 1, 4, [(0, 32, .ro, 0x0)]⟩,
    ⟨0xb0058, 1, 4, [(0, 32, .ro, 0x0)]⟩,
    ⟨0xb005c, 1, 4, [(0, 32, .ro, 0x0)]⟩,
    ⟨0xb0040, 1, 4, [(0, 21, .rw, 0x0)]⟩,
    ⟨0xb0044, 1, 4, [(0, 21, .rw, 0x0)]⟩,
    ⟨0xb0048, 1, 4, [(1, 1, .rw, 0x0), (0, 1, .wo, 0x0)]⟩,
    ⟨0xb004c, 1, 4, [(0, 32, .ro, 0x0)]⟩,
    ⟨0xb0050, 1, 4, [(0, 32, .rc, 0x0)]⟩,
    ⟨0xb0100, 16, 4, [(31, 1, .rw, 0x0), (0, 6, .rw, 0x0)]⟩,
    ⟨0xb0140, 1, 4, [(9, 1, .rw, 0x0), (5, 4, .rw, 0x0), (0, 5, .rw, 0x0)]⟩,
    ⟨0xb0144, 1, 4, [(0, 32, .rw, 0x0)]⟩,
    ⟨0xb0180, 8, 32, [(31, 1, .rw, 0x0), (30, 1, .rw, 0x0), (24, 3, .rw, 0x0), (16, 6, .rw, 0x0), (0, 16, .rw, 0x0)]⟩,
    ⟨0xb0184, 8, 32, [(0, 32, .rw, 0x0)]⟩,
    ⟨0xb0188, 8, 32, [(0, 32, .rw, 0x0)]⟩,
    ⟨0xb018c, 8, 32, [(0, 32, .rw, 0x0)]⟩,
    ⟨0xb0190, 8, 32, [(0, 32, .rw, 0x0)]⟩,
    ⟨0xb0300, 4, 16, [(0, 32, .rw, 0x0)]⟩] ++
  [
    ⟨0xb0304, 4, 16, [(0, 16, .rw, 0x0)]⟩,
    ⟨0xb0308, 4, 16, [(0, 32, .ro, 0x0)]⟩,
    ⟨0xb030c, 4, 16, [(0, 16, .ro, 0x0)]⟩,
    ⟨0xb0400, 64, 8, [(0, 32, .rw, 0x0)]⟩,
    ⟨0xb0404, 64, 8, [(0, 32, .rw, 0x0)]⟩,
    ⟨0xb0600, 32, 8, [(31, 1, .rw, 0x0), (30, 1, .rw, 0x0), (16, 6, .rw, 0x0), (0, 16, .rw, 0x0)]⟩,
    ⟨0xb0604, 32, 8, [(0, 32, .rw, 0x0)]⟩,
    ⟨0xb0700, 1, 4, [(0, 4, .rw, 0x4)]⟩,
    ⟨0xb0704, 1, 4, [(0, 16, .rw, 0x1c2)]⟩,
    ⟨0xb0708, 1, 4, [(0, 32, .rc, 0x0)]⟩,
    ⟨0xb0710, 8, 4, [(31, 1, .rw, 0x0), (30, 1, .rw, 0x0), (29, 1, .rw, 0x0), (16, 7, .rw, 0x0), (0, 8, .rw, 0x0)]⟩,
    ⟨0xb0740, 1, 4, [(2, 1, .rw, 0x0), (1, 1, .wo, 0x0), (0, 1, .rw, 0x0)]⟩,
    ⟨0xb0744, 1, 4, [(0, 32, .rw, 0x0)]⟩,
    ⟨0xb0748, 1, 4, [(0, 32, .rw, 0x0)]⟩,
    ⟨0xb0760, 1, 4, [(0, 32, .ro, 0x0)]⟩,
    ⟨0xb0764, 1, 4, [(0, 32, .ro, 0x0)]⟩]

/-- The registers of the LNK block (spec chapter 13). -/
def regsLNK : List RegRow :=
  [
    ⟨0xc0000, 1, 4, [(16, 16, .ro, 0x0), (5, 1, .w1c, 0x0), (4, 1, .w1c, 0x0), (3, 1, .w1c, 0x0), (2, 1, .w1c, 0x0), (1, 1, .w1c, 0x0), (0, 1, .ro, 0x0)]⟩,
    ⟨0xc0004, 1, 4, [(31, 1, .wo, 0x0), (8, 4, .rw, 0x0), (0, 4, .rw, 0x0)]⟩,
    ⟨0xc0008, 1, 4, [(28, 4, .ro, 0x0), (24, 4, .ro, 0x0), (17, 1, .ro, 0x0), (16, 1, .ro, 0x0), (0, 16, .ro, 0x0)]⟩,
    ⟨0xc000c, 1, 4, [(0, 16, .ro, 0x0)]⟩,
    ⟨0xc0010, 1, 4, [(31, 1, .rw, 0x1), (0, 12, .rw, 0x100)]⟩,
    ⟨0xc0014, 1, 4, [(0, 8, .rw, 0x10)]⟩,
    ⟨0xc0018, 1, 4, [(16, 16, .rc, 0x0), (0, 16, .rc, 0x0)]⟩,
    ⟨0xc0020, 1, 4, [(0, 12, .rw, 0x0)]⟩,
    ⟨0xc0024, 1, 4, [(0, 32, .ro, 0x0)]⟩,
    ⟨0xc0040, 16, 4, [(8, 1, .ro, 0x0), (0, 4, .ro, 0x0)]⟩,
    ⟨0xc0100, 16, 32, [(31, 1, .rw, 0x0), (30, 1, .rw, 0x0), (28, 2, .rw, 0x0), (16, 6, .rw, 0x0), (0, 5, .rw, 0x0)]⟩,
    ⟨0xc0104, 16, 32, [(28, 4, .ro, 0x0), (27, 1, .ro, 0x0), (26, 1, .ro, 0x0), (25, 1, .ro, 0x0), (24, 1, .ro, 0x0), (20, 4, .ro, 0x0), (16, 4, .ro, 0x0), (12, 4, .ro, 0x0)]⟩,
    ⟨0xc0108, 16, 32, [(16, 16, .ro, 0x0), (0, 16, .ro, 0x0)]⟩,
    ⟨0xc010c, 16, 32, [(0, 32, .ro, 0x0)]⟩,
    ⟨0xc0110, 16, 32, [(16, 16, .rc, 0x0), (0, 16, .rc, 0x0)]⟩,
    ⟨0xc0114, 16, 32, [(31, 1, .rw, 0x0), (30, 1, .wo, 0x0)]⟩,
    ⟨0xc0118, 16, 32, [(0, 32, .rc, 0x0)]⟩,
    ⟨0xc0400, 64, 4, [(31, 1, .rw, 0x0), (24, 4, .rw, 0x0), (16, 4, .ro, 0x0), (8, 8, .ro, 0x0), (0, 8, .rc, 0x0)]⟩]

/-- The registers of the HGR block (spec chapter 14). -/
def regsHGR : List RegRow :=
  [
    ⟨0xd0000, 1, 4, [(8, 1, .w1c, 0x0), (7, 1, .ro, 0x0), (6, 1, .ro, 0x0), (5, 1, .w1c, 0x0), (4, 1, .w1c, 0x0), (2, 1, .ro, 0x0), (1, 1, .ro, 0x0), (0, 1, .ro, 0x1)]⟩,
    ⟨0xd0004, 1, 4, [(0, 1, .rw, 0x0)]⟩,
    ⟨0xd0008, 1, 4, [(0, 32, .rc, 0x0)]⟩,
    ⟨0xd000c, 1, 4, [(0, 32, .rc, 0x0)]⟩,
    ⟨0xd0010, 1, 4, [(16, 7, .ro, 0x0), (0, 10, .ro, 0x0)]⟩,
    ⟨0xd0020, 1, 4, [(31, 1, .ro, 0x0), (30, 1, .ro, 0x0), (29, 1, .ro, 0x0), (0, 12, .ro, 0x0)]⟩,
    ⟨0xd0024, 1, 4, [(31, 1, .ro, 0x0), (30, 1, .ro, 0x0), (29, 1, .ro, 0x0), (0, 12, .ro, 0x0)]⟩,
    ⟨0xd0040, 8, 4, [(31, 1, .ro, 0x0), (0, 19, .ro, 0x0)]⟩,
    ⟨0xd0100, 8, 16, [(0, 2, .rw, 0x0)]⟩,
    ⟨0xd0104, 8, 16, [(9, 1, .ro, 0x0), (8, 1, .ro, 0x0), (0, 3, .ro, 0x0)]⟩,
    ⟨0xd0200, 1, 4, [(31, 1, .wo, 0x0), (30, 1, .wo, 0x0), (28, 2, .rw, 0x0), (24, 3, .rw, 0x0), (16, 6, .rw, 0x0)]⟩,
    ⟨0xd0204, 1, 4, [(0, 32, .rw, 0x0)]⟩,
    ⟨0xd0208, 1, 4, [(0, 32, .ro, 0x0)]⟩,
    ⟨0xd020c, 1, 4, [(0, 32, .ro, 0x0)]⟩,
    ⟨0xd0210, 1, 4, [(0, 18, .rw, 0x0)]⟩,
    ⟨0xd0214, 1, 4, [(0, 32, .ro, 0x0)]⟩,
    ⟨0xd0300, 64, 4, [(8, 1, .ro, 0x0), (0, 8, .ro, 0x0)]⟩]

/-- The registers of the CTL block (spec chapter 17). -/
def regsCTL : List RegRow :=
  [
    ⟨0xe0000, 1, 4, [(5, 1, .w1c, 0x0), (4, 1, .w1c, 0x0), (3, 1, .w1c, 0x0), (2, 1, .w1c, 0x0), (1, 1, .ro, 0x0), (0, 1, .ro, 0x0)]⟩,
    ⟨0xe0004, 1, 4, [(0, 7, .wo, 0x0)]⟩,
    ⟨0xe0010, 1, 4, [(16, 16, .ro, 0x0), (8, 4, .ro, 0x0), (4, 1, .ro, 0x0), (3, 1, .ro, 0x0), (0, 3, .ro, 0x0)]⟩,
    ⟨0xe0014, 1, 4, [(2, 1, .wo, 0x0), (1, 1, .wo, 0x0), (0, 1, .wo, 0x0)]⟩,
    ⟨0xe0018, 1, 4, [(0, 13, .rw, 0x0)]⟩,
    ⟨0xe001c, 1, 4, [(0, 21, .rw, 0x0)]⟩,
    ⟨0xe0020, 1, 4, [(0, 8, .w1s, 0x0)]⟩,
    ⟨0xe0024, 1, 4, [(0, 16, .rw, 0x64)]⟩,
    ⟨0xe0040, 1, 4, [(0, 32, .rc, 0x0)]⟩,
    ⟨0xe0044, 1, 4, [(18, 4, .ro, 0x0), (0, 18, .ro, 0x0)]⟩,
    ⟨0xe0060, 1, 4, [(16, 16, .ro, 0x0), (0, 16, .ro, 0x0)]⟩,
    ⟨0xe0064, 1, 4, [(16, 16, .ro, 0x0), (0, 16, .ro, 0x0)]⟩,
    ⟨0xe0068, 1, 4, [(16, 16, .ro, 0x0), (0, 16, .ro, 0x0)]⟩,
    ⟨0xe0100, 1, 4, [(2, 1, .rw, 0x0), (1, 1, .wo, 0x0), (0, 1, .wo, 0x0)]⟩,
    ⟨0xe0104, 1, 4, [(31, 1, .rw, 0x0), (16, 4, .rw, 0x0), (8, 8, .rw, 0x0), (0, 8, .rw, 0x0)]⟩,
    ⟨0xe0108, 1, 4, [(0, 32, .rw, 0x0)]⟩,
    ⟨0xe010c, 1, 4, [(0, 32, .rw, 0x0)]⟩,
    ⟨0xe0110, 1, 4, [(0, 16, .rw, 0x0)]⟩,
    ⟨0xe0114, 1, 4, [(4, 1, .w1c, 0x0), (0, 4, .ro, 0x0)]⟩,
    ⟨0xe0118, 1, 4, [(0, 16, .ro, 0x0)]⟩,
    ⟨0xe011c, 1, 4, [(0, 32, .ro, 0x0)]⟩,
    ⟨0xe0120, 1, 4, [(0, 4, .rw, 0x0)]⟩,
    ⟨0xe0124, 1, 4, [(27, 5, .ro, 0x0), (0, 27, .ro, 0x0)]⟩,
    ⟨0xe0128, 1, 4, [(0, 32, .ro, 0x0)]⟩,
    ⟨0xe012c, 1, 4, [(0, 32, .ro, 0x0)]⟩,
    ⟨0xe0130, 1, 4, [(0, 8, .ro, 0x0)]⟩,
    ⟨0xe0200, 32, 4, [(0, 32, .rw, 0x0)]⟩]

/-- The registers of the TRC block (spec chapter 18). -/
def regsTRC : List RegRow :=
  [
    ⟨0xf0000, 1, 4, [(5, 1, .w1c, 0x0), (4, 1, .ro, 0x0), (3, 1, .w1c, 0x0), (2, 1, .ro, 0x0), (1, 1, .w1c, 0x0), (0, 1, .ro, 0x0)]⟩,
    ⟨0xf0004, 1, 4, [(31, 1, .rw, 0x0), (30, 1, .rw, 0x0), (29, 1, .rw, 0x0), (28, 1, .wo, 0x0), (0, 16, .rw, 0x64)]⟩,
    ⟨0xf0008, 1, 4, [(0, 32, .rw, 0x0)]⟩,
    ⟨0xf000c, 1, 4, [(0, 8, .rw, 0x0)]⟩,
    ⟨0xf0010, 1, 4, [(0, 4, .rw, 0x0)]⟩,
    ⟨0xf0014, 1, 4, [(0, 24, .rw, 0x0)]⟩,
    ⟨0xf0018, 1, 4, [(0, 24, .rw, 0x0)]⟩,
    ⟨0xf001c, 1, 4, [(0, 32, .ro, 0x0)]⟩,
    ⟨0xf0020, 1, 4, [(0, 32, .rc, 0x0)]⟩,
    ⟨0xf0040, 1, 4, [(0, 6, .rw, 0x0)]⟩,
    ⟨0xf0044, 1, 4, [(31, 1, .rw, 0x0), (30, 1, .ro, 0x0), (29, 1, .ro, 0x0), (0, 8, .rw, 0x0)]⟩,
    ⟨0xf0048, 1, 4, [(0, 32, .ro, 0x0)]⟩,
    ⟨0xf004c, 1, 4, [(0, 32, .rc, 0x0)]⟩,
    ⟨0xf0050, 4, 16, [(0, 32, .rw, 0x0)]⟩,
    ⟨0xf0054, 4, 16, [(0, 32, .rw, 0x0)]⟩,
    ⟨0xf0058, 4, 16, [(0, 32, .rw, 0x0)]⟩,
    ⟨0xf005c, 4, 16, [(0, 32, .rw, 0x0)]⟩]

/-- The register rows of block `b` (R595). -/
def blockRegs (b : Nat) : List RegRow :=
  match b with
  | 0 => regsIDN
  | 1 => regsCLK
  | 2 => regsRST
  | 3 => regsLDR
  | 4 => regsSEC
  | 5 => regsHST
  | 6 => regsCHN
  | 7 => regsARY
  | 8 => regsFLT
  | 9 => regsHBM
  | 10 => regsNET
  | 11 => regsASY
  | 12 => regsLNK
  | 13 => regsHGR
  | 14 => regsCTL
  | 15 => regsTRC
  | _ => []

/-- Whether the row has a register at the offset. -/
def RegRow.hit (r : RegRow) (a : Nat) : Bool :=
  r.addr ≤ a && (a - r.addr) % r.stride == 0 && (a - r.addr) / r.stride < r.count

/-- The fields of the register at offset `a` of the setup window; none where no register stands (R9). -/
def fieldsAt (a : Nat) : List Fld :=
  match (blockRegs (a / 0x10000)).find? (fun r => r.hit a) with
  | some r => r.flds.map (fun f => ⟨a, f.1, f.2.1, f.2.2.1, f.2.2.2⟩)
  | none => []

end Sys2Proof.Machine
end

