-- ==== Sys2Proof/Machine/Store.lean ====
section
/-! DEFINITION. Sparse stores: the one canonical form in which the model holds memories, tables and registers.
A store lists (key, value) pairs with keys strictly rising; a value equal to what an unlisted key reads as is not
listed, so that equal stores are equal data. -/

namespace Sys2Proof.Machine

/-- A sparse store of values of `β` by a natural-number key. -/
abbrev SMap (β : Type) := List (Nat × β)

/-- A memory of bytes by address. -/
abbrev Memory := List Host.Cell

/-- The value listed for key `a`, if one is. -/
def SMap.find {β : Type} : SMap β → Nat → Option β
  | [], _ => none
  | (k, v) :: m, a => if k = a then some v else SMap.find m a

/-- The store with `v` listed for key `a`. -/
def SMap.put {β : Type} : SMap β → Nat → β → SMap β
  | [], a, v => [(a, v)]
  | (k, w) :: m, a, v =>
    if a < k then (a, v) :: (k, w) :: m else if a = k then (a, v) :: m else (k, w) :: SMap.put m a v

/-- The store with nothing listed for key `a`. -/
def SMap.drop {β : Type} (m : SMap β) (a : Nat) : SMap β := m.filter (fun e => e.1 ≠ a)

/-- The value of key `a`, where an unlisted key reads as `d`. -/
def SMap.get {β : Type} (d : β) (m : SMap β) (a : Nat) : β := (m.find a).getD d

/-- The store with key `a` reading as `v`, where an unlisted key reads as `d`. -/
def SMap.set {β : Type} [DecidableEq β] (d : β) (m : SMap β) (a : Nat) (v : β) : SMap β :=
  if v = d then m.drop a else m.put a v

/-- The store with key `a` reading as `g` of what it read as before. -/
def SMap.modify {β : Type} [DecidableEq β] (d : β) (m : SMap β) (a : Nat) (g : β → β) : SMap β :=
  m.set d a (g (m.get d a))

/-- The keys of a store rise strictly. -/
abbrev SMap.ordered {β : Type} (m : SMap β) : Prop := (m.map Prod.fst).Pairwise (· < ·)

/-- The canonical form of a store whose unlisted keys read as `d`. -/
abbrev SMap.wf {β : Type} (d : β) (m : SMap β) : Prop := m.ordered ∧ ∀ e ∈ m, e.2 ≠ d

/-- The byte at address `a` of a memory whose unlisted bytes read as `fill` of their address. -/
def Memory.read (fill : Nat → Byte) (m : Memory) (a : Nat) : Byte := SMap.get (fill a) m a

/-- The memory with byte `v` at address `a`. -/
def Memory.write (fill : Nat → Byte) (m : Memory) (a : Nat) (v : Byte) : Memory := SMap.set (fill a) m a v

/-- The canonical form of a memory whose unlisted bytes read as `fill` of their address. -/
abbrev Memory.wf (fill : Nat → Byte) (m : Memory) : Prop := SMap.ordered m ∧ ∀ e ∈ m, e.2 ≠ fill e.1

/-- `n` bytes from address `a` on. -/
def Memory.readBytes (fill : Nat → Byte) (m : Memory) (a : Nat) : Nat → List Byte
  | 0 => []
  | n + 1 => Memory.read fill m a :: Memory.readBytes fill m (a + 1) n

/-- The memory with the listed bytes stored from address `a` on, the first at `a`. -/
def Memory.writeBytes (fill : Nat → Byte) (m : Memory) (a : Nat) : List Byte → Memory
  | [] => m
  | b :: bs => Memory.writeBytes fill (Memory.write fill m a b) (a + 1) bs

/-- The memory with the bytes stored whose enable is set: `none` leaves the byte as it is. -/
def Memory.writeEnabled (fill : Nat → Byte) (m : Memory) (a : Nat) : List (Option Byte) → Memory
  | [] => m
  | none :: bs => Memory.writeEnabled fill m (a + 1) bs
  | some b :: bs => Memory.writeEnabled fill (Memory.write fill m a b) (a + 1) bs

/-- The memory with `n` bytes from address `a` on at what unlisted bytes read as. -/
def Memory.clear (m : Memory) (a n : Nat) : Memory := m.filter (fun c => ¬(a ≤ c.1 ∧ c.1 < a + n))

/-- Unlisted bytes that read as zero. -/
def zeroFill (_ : Nat) : Byte := 0

/-- What the start-up test leaves in a memory (R540; DEDUCED): the last element that writes, writes the background
of March C-, which is zeros in words at even addresses and ones in words at odd addresses. -/
def marchFill (a : Nat) : Byte := if a / 8 % 2 = 1 then 0xFF else 0

/-- The number that little-endian bytes spell. -/
def leNat : List Byte → Nat
  | [] => 0
  | b :: bs => b.toNat + 256 * leNat bs

/-- The `n` little-endian bytes of a number. -/
def leBytes : Nat → Nat → List Byte
  | 0, _ => []
  | n + 1, x => BitVec.ofNat 8 x :: leBytes n (x / 256)

/-- `n` bytes of a list from position `i` on, zeros past its end. -/
def slice (bs : List Byte) (i n : Nat) : List Byte := (bs.drop i).take n ++ List.replicate (n - (bs.drop i).length) 0

/-- The little-endian number of `n` bytes from position `i` on. -/
def leAt (bs : List Byte) (i n : Nat) : Nat := leNat (slice bs i n)

/-- The number with bit `i` set to `b`. -/
def setBit (x i : Nat) (b : Bool) : Nat :=
  if x.testBit i = b then x else if b then x + 2 ^ i else x - 2 ^ i

/-- A number held at the largest value of `w` bits when it would pass it (a saturating counter). -/
def saturate (w x : Nat) : Nat := min x (2 ^ w - 1)

/-- The number clamped to the range from `lo` to `hi`. -/
def clamp (lo hi x : Nat) : Nat := max lo (min hi x)

/-- One bit of a number as 0 or 1. -/
def b2n (b : Bool) : Nat := if b then 1 else 0

/-- CRC-32 of IEEE 802.3, reflected polynomial 0xEDB88320, one bit of the shift register. -/
def crc32Step (c : Nat) : Nat := if c % 2 = 1 then (c / 2) ^^^ 0xEDB88320 else c / 2

/-- CRC-32 over a list of bytes, from state `c`. -/
def crc32From (c : Nat) : List Byte → Nat
  | [] => c
  | b :: bs => crc32From ((List.range 8).foldl (fun x _ => crc32Step x) (c ^^^ b.toNat)) bs

/-- CRC-32 of IEEE 802.3 of a list of bytes: initial and final inversion. -/
def crc32 (bs : List Byte) : Nat := (crc32From 0xFFFFFFFF bs) ^^^ 0xFFFFFFFF

/-- A CRC of `n` bits, most significant bit first, without reflection: one data bit enters the register. -/
def crcBit (n poly c : Nat) (b : Bool) : Nat :=
  let t := c * 2 % 2 ^ n
  if c.testBit (n - 1) != b then t ^^^ poly else t

/-- The low `k` bits of `w` enter a CRC register, the highest of them first. -/
def crcBits (n poly w : Nat) : Nat → Nat → Nat
  | 0, c => c
  | k + 1, c => crcBits n poly w k (crcBit n poly c (w.testBit k))

end Sys2Proof.Machine
end

