-- ==== Sys2Proof/Machine/State.lean ====
section
/-! DEFINITION. The state of the device: every register, memory, buffer, counter and queue that the spec gives it,
as plain data, and the state right after reset. -/

namespace Sys2Proof.Machine

/-- Why a step stops with a fault. -/
inductive Fault where
  /-- Raised by no command of this model: where a command names storage that the device does not have, the spec gives
  the answer (R6, R301, R302, R351), and that answer is the command's effect.  Safe: a stop proves nothing false. -/
  | noSuchStorage
  deriving DecidableEq, Repr

/-- Why a command is refused. -/
inductive Refusal where
  /-- Raised by the dispatcher for a command that has no meaning yet.  Safe: the model stops. -/
  | notModelled (mnemonic : String)
  deriving DecidableEq, Repr

/-! ## The array -/

/-- A window entry, stored as a complementary pair of bits (R60). -/
structure Rail where
  t : Bool
  c : Bool
  deriving DecidableEq, Repr

/-- A memory-read bit: value, presence flag (R64) and the READ that targeted it last (R189). -/
structure Mrd where
  val : Bool
  present : Bool
  last : Option Nat
  deriving DecidableEq, Repr

/-- An entry of a crossing or link channel buffer (R105): step tag, value, whether the value is valid (R106),
whether a RECV took it, and the step count of the sending step for carry-over (R474). -/
structure ChanEntry where
  tag : Nat
  val : Bool
  valid : Bool
  taken : Bool
  sent : Nat
  deriving DecidableEq, Repr

/-- A late item (R138): its hold source (0 memory-read bit, 1 crossing, 2 link), its unit and what it waits for. -/
structure LateItem where
  source : Nat
  tilePos : Nat
  cluster : Nat
  /-- 0 to 63 LP, 0x40 PS word, 0x42 memory port -/
  unit : Nat
  /-- LP number, RECV number or memory-port number -/
  index : Nat
  /-- memory-read bit of the cluster for source 0; lane index for sources 1 and 2 -/
  item : Nat
  deriving DecidableEq, Repr

/-- A Schedule Fault as R171 reports it, before the record's DEVICE and OTHERS are filled in. -/
structure SFault where
  code : Nat
  die : Nat
  tilePos : Nat
  cluster : Nat
  unit : Nat
  sigma : Nat
  cycle : Nat
  detail : Nat
  deriving DecidableEq, Repr

/-- A fault of R24 other than a Schedule Fault, as a unit finds it: the fault log's TYPE, MEMORY, cluster and LP
(R493). -/
structure FaultNote where
  type : Nat
  memory : Nat
  tilePos : Nat
  cluster : Nat
  lp : Nat
  detail : Nat
  deriving DecidableEq, Repr

/-- A READ of a memory port in flight or logged (R188, R189, R199). -/
structure MRead where
  rid : Nat
  die : Nat
  tilePos : Nat
  port : Nat
  /-- 0 tile RAM, 1 HBM window, 2 exchange RAM -/
  target : Nat
  window : Nat
  /-- first target bit of the granule -/
  bit : Nat
  /-- number of bits returned -/
  width : Nat
  cluster : Nat
  dest : Nat
  sigma : Nat
  cycle : Nat
  /-- SCLK periods since the issuing step (R194) -/
  age : Nat
  /-- the bits read, once a commit or the return has fixed them -/
  data : Option Nat
  /-- a word of its return was uncorrectable -/
  bad : Bool
  deriving DecidableEq, Repr

/-- A WRITE waiting for the commit of its cycle (R190); a host write of design state carries `port` 16 and ranks
after every design WRITE of its cycle (R210). -/
structure MWrite where
  die : Nat
  tilePos : Nat
  port : Nat
  target : Nat
  window : Nat
  bit : Nat
  width : Nat
  data : Nat
  sigma : Nat
  cycle : Nat
  /-- closed into the commit queue at B1 -/
  closed : Bool
  deriving DecidableEq, Repr

/-- What the units of a die have done in the step that is under way; it lands at the end of the step (R55). -/
structure Stage where
  window : List (Nat × Rail)
  slots : List (Nat × Bool)
  latches : List (Nat × Bool)
  lanes : List (Nat × Bool)
  addrs : List (Nat × Nat)
  datas : List (Nat × Nat)
  reads : List MRead
  writes : List MWrite
  taken : List Nat
  /-- units that have executed in this step -/
  done : List Nat
  deriving DecidableEq, Repr

/-- Nothing done in the step. -/
def Stage.empty : Stage := ⟨[], [], [], [], [], [], [], [], [], []⟩

/-- The boundary copy of one die for one boundary (R26, R198, R474). -/
structure BoundaryCopy where
  /-- the boundary plus 1: 0 for boundary -1 (R36) -/
  next : Nat
  regBits : SMap Bool
  mrd : SMap Mrd
  portIn : SMap Bool
  carry : SMap (List ChanEntry)
  deriving DecidableEq, Repr

/-- A compute die (R12, R16, R23, R53, R99, R110, R114). -/
structure Die where
  /-- step count σ (R16) -/
  sigma : Nat
  /-- cycle counter, 64 bits (R23) -/
  cycle : Nat
  /-- frozen at `sigma` by a hold (R116) -/
  frozen : Bool
  /-- a step count at which the die is to freeze, after a freeze order or a bad vote -/
  freezeAt : Option Nat
  /-- The die met a Schedule Fault and executes no further step (R29). -/
  faulted : Bool
  /-- what the frozen step waits for (R130) -/
  late : List LateItem
  /-- window entries; key (p * 32 + n) * 2048 + address (R57, R60) -/
  window : SMap Rail
  /-- register bits; key (p * 32 + n) * 2048 + r (R61) -/
  regBits : SMap Bool
  /-- pending latches with the step of the LATCH (R92, R93), keyed as register bits -/
  pendLatch : SMap (Option (Bool × Nat))
  /-- receive slots written in this cycle (R62); key (p * 32 + n) * 1024 + slot -/
  slots : SMap (Option Bool)
  /-- memory-read bits; key (p * 32 + n) * 512 + m -/
  mrd : SMap Mrd
  /-- port-input bits; key (p * 32 + n) * 256 + p' (R69) -/
  portIn : SMap Bool
  /-- lanes driven in the last steps of this cycle (R86, R95); key t * 8192 + L -/
  lanes : SMap (Option Bool)
  /-- the lanes of the last cycles it has executed, latest first, for the border of an isolated tile (R290) -/
  pastLanes : List (Nat × SMap (Option Bool))
  /-- address registers of the memory ports (R181); key p * 16 + m -/
  portAddr : SMap Nat
  /-- data registers of the memory ports (R181); key p * 16 + m -/
  portData : SMap Nat
  /-- crossing and link channel buffers (R105, R108); key lane index - 0x2000 -/
  chans : SMap (List ChanEntry)
  /-- inbound channel enables (R110); key lane index - 0x2000 -/
  enables : SMap Bool
  /-- expected delays: CROSS_DELAY at keys 0 to 2 by source range, D_L at 0xC00 + channel (R104, R108) -/
  delays : SMap Nat
  /-- spare map: spare lane to the local lane it replaces (R114) -/
  spareMap : SMap (Option Nat)
  /-- cycles with parity errors of a lane group since its count restarted (R115): the TIME of the first error, the cycle, and
  the restores made before that execution of it -/
  parityTimes : SMap (List (Nat × Nat × Nat))
  /-- physical tile bound to a position, and whether the position has had a tile retired (R3, R479);
  key p, default p -/
  tileMap : SMap (Option Nat)
  /-- physical tiles that may not serve: retired, or failed in the start-up march test (R479, R481) -/
  badTiles : List Nat
  /-- tile faults of a physical tile: the TIME of each (R478) -/
  tileFaults : SMap (List Nat)
  /-- stored words that do not read back clean (R43, R71, R468); key memory * 2^48 + p * 2^40 + word -/
  ecc : SMap Ecc
  /-- the step under way -/
  stage : Stage
  /-- the last four boundary copies (R26) -/
  copies : List BoundaryCopy
  /-- virtual tile bound to a position (R157); key p -/
  tiles : SMap (Option Nat)
  deriving DecidableEq, Repr

/-- A die with nothing loaded. -/
def Die.reset : Die :=
  { sigma := 0, cycle := 0, frozen := false, freezeAt := none, faulted := false, late := [], window := [], regBits := [],
    pendLatch := [], slots := [], mrd := [], portIn := [], lanes := [], pastLanes := [], portAddr := [], portData := [], chans := [],
    enables := [], delays := [], spareMap := [], parityTimes := [], tileMap := [], badTiles := [], tileFaults := [],
    ecc := [], stage := Stage.empty, copies := [], tiles := [] }

/-- A value in flight between two dies (R103). -/
structure Flight where
  src : Nat
  dst : Nat
  chan : Nat
  tag : Nat
  val : Bool
  sent : Nat
  deriving DecidableEq, Repr

/-- A return in the return log (R199): the READ with its data, and the boundary it arrived after (plus one). -/
structure LoggedReturn where
  read : MRead
  arrived : Nat
  deriving DecidableEq, Repr

/-- Global hold (R116 to R145). -/
structure Holds where
  /-- announced holds: source and target step count (R121) -/
  announced : List (Nat × Nat)
  /-- a user hold armed or announced but not yet in force: the cycle (low 32 bits) and step of a MODE 1 target,
  or none for step 0 of the first cycle of the next RUN (R125) -/
  userAt : Option (Option (Nat × Nat))
  /-- the user hold announced was requested with MODE = 1 (R125) -/
  userMode1 : Bool
  /-- step periods since the last die froze (R123) -/
  frozenSteps : Nat
  /-- late timer and the step periods counted toward its next count (R137) -/
  lateTimer : Nat
  lateSteps : Nat
  /-- a resume is in progress from this step count (R131) -/
  resuming : Option Nat
  /-- origins of HOLD blocks already forwarded for the hold in force (R133) -/
  forwarded : List Nat
  /-- the lowest step count that HOLD blocks of the hold in force have named (R134) -/
  remoteMin : Option Nat
  /-- READY reports of the machine's positions with their lowest frozen step counts (R135) -/
  readyFrom : SMap (Option Nat)
  /-- a machine release under way: TIME of T0 and the lowest frozen step count (R135) -/
  release : Option (Nat × Nat)
  /-- cycle plus 1 whose COMMIT_WAIT and HOST_WRITE decisions have been taken (R122) -/
  commitDecided : Nat
  writeDecided : Nat
  deriving DecidableEq, Repr

def Holds.reset : Holds :=
  { announced := [], userAt := none, userMode1 := false, frozenSteps := 0, lateTimer := 0, lateSteps := 0, resuming := none,
    forwarded := [], remoteMin := none, readyFrom := [], release := none, commitDecided := 0, writeDecided := 0 }

/-- The design memories and what waits for their commit (R178 to R204). -/
structure DesignMem where
  /-- tile RAM bytes; key (d * 64 + p) * 524288 + byte -/
  tram : Memory
  /-- exchange RAM bytes (R202) -/
  exr : Memory
  /-- HBM bytes; key pseudo-channel * 2^30 + byte address (R211) -/
  hbm : Memory
  /-- WRITEs not yet released, in the order they were issued -/
  writes : List MWrite
  /-- READs in flight, oldest first -/
  reads : List MRead
  /-- returns that may be needed again (R199) -/
  log : List LoggedReturn
  /-- READs whose return found the log full (R201) -/
  stalled : List Nat
  /-- number of the next READ -/
  nextRid : Nat
  /-- values in flight between dies -/
  flights : List Flight
  /-- words written through port A by the commit in this exchange RAM clock, for R203: word number and its bytes -/
  portA : List (Nat × List (Option Byte))
  /-- exchange RAM words written in this clock, for R204: through port A, word number and its bytes before -/
  before : List (Bool × Nat × List Byte)
  /-- corrected errors of the die-to-die bridge (R106) -/
  bridgeCe : Nat
  deriving DecidableEq, Repr

def DesignMem.reset : DesignMem :=
  { tram := [], exr := [], hbm := [], writes := [], reads := [], log := [], stalled := [], nextRid := 0,
    flights := [], portA := [], before := [], bridgeCe := 0 }

/-! ## The installed Ingot -/

/-- A declared memory window (R152). -/
structure MemWin where
  grain : Nat
  mirror : Bool
  init : Bool
  size : Nat
  set : Nat
  deriving DecidableEq, Repr

/-- The Ingot that the device holds, with the binding in force (R147 to R163). -/
structure Ingot where
  isSealed : Bool
  s : Nat
  nV : Nat
  /-- first virtual tile and count of each die group (R154) -/
  groups : List (Nat × Nat)
  machinePos : Nat
  machineSize : Nat
  identity : List Byte
  machineId : List Byte
  crossDelay : List Nat
  /-- die binding π (R157) -/
  pi : List Nat
  /-- tile binding P_g of each group (R157) -/
  pos : List (List Nat)
  memWins : List MemWin
  /-- device memory window of each Ingot window (R160) -/
  windows : List Nat
  /-- message-port map entries, patched (R160, R163) -/
  msgPorts : List Nat
  linkch : List LinkRecord
  /-- probe map: word per probe bit (R371), patched -/
  probes : SMap Nat
  /-- bridge map entries (R452), patched -/
  bridges : List Nat
  /-- region descriptors (R285 to R288): the bytes of each -/
  regions : List (List Byte)
  /-- VARIANT of each region as loaded (R297) -/
  variants : List (List Byte)
  /-- start-up entries: event, flags and delay (R280) -/
  startup : List (Nat × Nat × Nat)
  deriving DecidableEq, Repr

/-! ## Run control and regions -/

/-- An isolated tile (R289, R290): the cycle from which it is stopped, the values its lanes carried in that cycle's
predecessor (key t * 128 + lane), its border entries by lane (MODE CONST and VALUE), and its unit bytes as they
stood at isolation. -/
structure IsoTile where
  region : Nat
  from_ : Nat
  /-- the cycle at whose B0 it rejoins, once that is fixed (R296): it executes from the cycle after -/
  until_ : Option Nat
  held : SMap Bool
  border : SMap (Option (Bool × Bool))
  old : Memory
  /-- register bits that wait for the rejoin (R292) -/
  shadow : Memory
  deriving DecidableEq, Repr

/-- A coppice region that has left the running design (R289, R296): the cycle from which it is stopped, the cycle at whose
B0 it rejoins once that is fixed, and whether its blocks are held in set-reset. -/
structure RegionRun where
  from_ : Nat
  until_ : Option Nat
  held : Bool
  deriving DecidableEq, Repr

/-- An outstanding RUN: its descriptor and its target boundary, none for an unbounded run (R32). -/
structure RunReq where
  desc : Desc
  target : Option Nat
  deriving DecidableEq, Repr

/-- A pending STOP (next) and its stop boundary (R33). -/
structure StopReq where
  desc : Desc
  boundary : Nat
  deriving DecidableEq, Repr

/-- A recovery in progress (R471 to R477). -/
structure Replay where
  /-- least cycle with a bad vote -/
  cycle : Nat
  /-- the restore has been made -/
  restored : Bool
  /-- replay cannot recover: 0 HBM_HALT, 1 TILE_HALT, 2 REPLAY_LIMIT (R29) -/
  halt : Option Nat
  /-- a die was frozen when the bad vote was cast (R141) -/
  held : Bool
  deriving DecidableEq, Repr

/-- A HALLMARK that runs (R484, R485): the boundary it is of, plus 1, once it is chosen; the windows of owner 3 that it
holds; its image and the image's length. -/
structure HallmarkReq where
  desc : Desc
  dest : Nat
  buffer : HostBuffer
  windows : List Nat
  next : Option Nat
  image : Memory
  length : Nat
  /-- the Hedgerow section still waits for an edge of UCLK0 -/
  fabric : Bool
  /-- in a machine: what each device has found, by position, status and highest SEQ, until every one has; and the positions
  whose parts are not written (R486) -/
  checks : Option (List (Nat × Nat × Nat))
  waits : List Nat
  /-- SEQ chosen for the machine -/
  seq : Option Nat
  deriving DecidableEq, Repr

/-- A RESTORE that runs (R489, R490): the image that has passed its checks, and its boundary. -/
structure RestoreReq where
  desc : Desc
  image : Memory
  cycle : Nat
  /-- SEQ of the record, its slot, and the positions of a machine that have not reported theirs (R489) -/
  seq : Nat
  slot : Nat
  waits : List Nat
  deriving DecidableEq, Repr

/-- A tile retirement that waits for its hold (R478, R479): die and position. -/
structure RetireReq where
  die : Nat
  tilePos : Nat
  deriving DecidableEq, Repr

/-- Run control (R22 to R34). -/
structure RunCtl where
  /-- last committed cycle plus 1; 0 while no cycle is committed -/
  nextCommit : Nat
  /-- the cycle in which FIRST reads 1 (R22) -/
  firstCycle : Option Nat
  /-- votes of the dies; key cycle * 4 + d (R24) -/
  votes : SMap (Option Bool)
  /-- votes of other devices at the vote root; key cycle * 16 + position (R25) -/
  devVotes : SMap (Option Bool)
  /-- the vote root has committed cycles below this (R25) -/
  rootCommit : Nat
  run : Option RunReq
  /-- cycles whose votes or commits have carried STOP (R383) -/
  stopCycles : List Nat
  /-- a start from LOADED or STOPPED waits for SYNC (R398) -/
  waitSync : Bool
  stops : List StopReq
  /-- stop boundary asked for by STOP_MACHINE of the Assay engine (R383) -/
  asyStop : Option Nat
  /-- run-control descriptors that wait behind a HALLMARK or RESTORE, in ring order (R622) -/
  waiting : List Instr
  /-- Schedule Faults detected and not yet resolved (R29, R173) -/
  sfaults : List SFault
  replay : Option Replay
  /-- cycle replayed last and how often (R476) -/
  replayed : Nat × Nat
  /-- restores made, which tell the executions of a cycle apart (R115) -/
  restores : Nat
  hallmark : Option HallmarkReq
  restore : Option RestoreReq
  retire : Option RetireReq
  /-- regions that are isolated, ready, or rejoined in a cycle not yet committed, by region number -/
  regions : SMap (Option RegionRun)
  /-- isolated tiles whose rejoin, in a cycle not yet committed, a new isolation follows; keyed as `State.iso` -/
  pastIso : SMap (Option IsoTile)
  /-- a lane group whose failing lane is to be located in a hold (R115): die and group -/
  sparing : Option (Nat × Nat)
  deriving DecidableEq, Repr

def RunCtl.reset : RunCtl :=
  { nextCommit := 0, firstCycle := none, votes := [], devVotes := [], rootCommit := 0, stopCycles := [], run := none, waitSync := false,
    stops := [], asyStop := none, waiting := [], sfaults := [], replay := none, replayed := (0, 0), restores := 0, hallmark := none,
    restore := none, retire := none, regions := [], pastIso := [], sparing := none }

/-! ## The host side -/

/-- A design-state request as a group collects it (R205, R313). -/
structure DesignReq where
  /-- the machine position whose device sends the request on to this one; none for this device's own (R207) -/
  origin : Option Nat
  desc : Desc
  write : Bool
  address : Nat
  length : Nat
  buffer : Nat
  /-- the bytes to write -/
  data : List Byte
  /-- the bytes read, those that are not 0, by offset -/
  image : Memory
  /-- its status and its RESULT, as far as they are decided, and whether another device that serves it has answered -/
  status : Nat
  result : Nat
  ready : Bool
  deriving DecidableEq, Repr

/-- A completion held for a SUSPENDED session (R329): tag, interrupt flag, status, result. -/
structure HeldCompletion where
  tag : BitVec 16
  irq : Bool
  status : Nat
  result : Nat
  deriving DecidableEq, Repr

/-- A session's table entry (R304) with its ring counts (R309, R317, R322). -/
structure Session where
  /-- 0 CLOSED, 1 OPEN, 2 SUSPENDED -/
  state : Nat
  gen : Nat
  sq : Nat
  cq : Nat
  db : Nat
  sqLog : Nat
  cqLog : Nat
  vector : Nat
  coalCount : Nat
  coalTime : Nat
  /-- descriptors fetched since OPEN or ATTACH -/
  fetched : Nat
  /-- completions posted since OPEN or ATTACH -/
  posted : Nat
  /-- CQ_HEAD last accepted -/
  cqSeen : Nat
  /-- completions posted since the last message, and the TIME of the oldest (R327) -/
  unsignalled : Nat
  oldest : Nat
  error : Nat
  reject : Bool
  held : List HeldCompletion
  /-- the group being fetched (R313) -/
  group : List DesignReq
  /-- the rest of a refused group completes with BAD_DESCRIPTOR (R313) -/
  badGroup : Bool
  /-- fetching has stopped on an error (R326) -/
  stopped : Bool
  deriving DecidableEq, Repr

/-- A session that nothing has opened. -/
def Session.closed : Session :=
  { state := 0, gen := 0, sq := 0, cq := 0, db := 0, sqLog := 0, cqLog := 0, vector := 0, coalCount := 0, coalTime := 0,
    fetched := 0, posted := 0, cqSeen := 0, unsignalled := 0, oldest := 0, error := 0, reject := false, held := [],
    group := [], badGroup := false, stopped := false }

/-- A descriptor as the device has fetched it: the command that its 64 bytes spell, or its header alone where its OPCODE is
reserved (R310, R311). -/
inductive Fetched where
  | cmd (i : Instr)
  | reserved (d : Desc)
  deriving DecidableEq, Repr

/-- The host interface (R300 to R331). -/
structure HostIf where
  sessions : SMap Session
  /-- descriptors fetched and not yet started, oldest first (R309, R312) -/
  fetched : List Fetched
  /-- descriptors fetched and not yet completed; key session * 16 + generation (R305, R321) -/
  live : SMap Nat
  /-- descriptors started and not yet completed; key session * 16 + generation (R310, FENCE) -/
  started : SMap Nat
  /-- descriptors that FENCE holds back, and those behind them, with their sessions (R310, R312) -/
  fenced : List (Nat × Fetched)
  /-- the next descriptor passes its fence -/
  released : Bool
  /-- MSI-X table by 32-bit word (R301); vector control words read 1 until written -/
  msix : SMap (Option Nat)
  /-- pending bits by vector -/
  pba : SMap Bool
  busMaster : Bool
  /-- TIME at which the next sweep falls due, the sweeps in flight, and whether one that fell due waits for one of them to
  end (R324) -/
  sweepDue : Nat
  sweeps : Nat
  sweepWaits : Bool
  deriving DecidableEq, Repr

def HostIf.reset : HostIf :=
  { sweepDue := 0, sweeps := 0, sweepWaits := false, sessions := [], fetched := [], live := [], started := [], fenced := [],
    released := false, msix := [], pba := [], busMaster := false }

/-- What the device sends out of itself, in the order in which it sends it. -/
inductive Out where
  /-- a completion entry written to the ring of a session: completion number, host address, and 16 bytes as a number (R317) -/
  | completion (session number address entry : Nat)
  /-- an MSI-X message (R327) -/
  | msix (vector : Nat)
  /-- bytes written to host memory -/
  | hostWrite (address : Nat) (bytes : List Byte)
  /-- a large transfer to host memory: address, length and the bytes that are not 0 -/
  | hostImage (address length : Nat) (cells : List Host.Cell)
  /-- the fetch word of a session, and its host address (R322) -/
  | fetchWord (session address word : Nat)
  /-- a value returned to a register, memory or SPI read: path code and value -/
  | readValue (path value : Nat)
  /-- an answer other than data: 1 Completer Abort, 2 Unsupported Request, 3 Retry Status, 4 a core's address-misaligned
  exception, 5 poisoned, 6 a malformed request dropped, 7 a core's access fault -/
  | answer (path code : Nat)
  /-- a read of the serial flash (R265): 0 its discoverable parameters, 1 the single-line read 0x03 with 3-byte addresses, 2
  the 1-4-4 read with 4-byte addresses; the divisor of its clock, the address and the bytes -/
  | flashRead (kind div addr len : Nat)
  /-- a control block on a link: link, CTYPE, ORIGIN, CSEQ, payload and CRC8 (R412) -/
  | block (link ctype origin cseq payload crc : Nat)
  /-- a frame on a link (R415): link, its contents, the trailer's ACK_SEQ and NAK, and its CRC16 (R417) -/
  | frame (link : Nat) (mgmt : Bool) (src dest seq base : Nat) (items : List Nat) (ack : Nat) (nak : Bool) (crc : Nat)
  /-- a trigger frame or pulse on a TRIG line (R391, R396): line, target cycle modulo 256 -/
  | trigger (line value : Nat)
  /-- a SYNC pulse (R398) -/
  | sync
  /-- a packet that an interface sends, or that a client gets from its own interface (R251), and its CRC (R240, R243) -/
  | packet (pkt : Packet) (crc : Nat)
  /-- a VOUT_COMMAND of the power steward: the regulator's PMBus address, and the set point in mV (R513, R518) -/
  | vout (address millivolt : Nat)
  deriving DecidableEq, Repr

/-! ## Message channels -/

/-- A channel context (R334). -/
structure ChanCtx where
  gen : Nat
  kind : Nat
  priority : Nat
  /-- 0 FREE, 1 OPEN, 2 CLOSING -/
  state : Nat
  overrun : Bool
  sessionGen : Nat
  session : Nat
  port : Nat
  window : Nat
  sizeLog : Nat
  nextSeq : Nat
  releaseSeq : Nat
  timeoutUs : Nat
  fifoOffset : Nat
  wr : Nat
  rd : Nat
  alloc : Nat
  values : Nat
  drops : Nat
  runtime : Nat
  lastCycle : Nat
  deriving DecidableEq, Repr

/-- A free channel of generation 0 (R332). -/
def ChanCtx.free : ChanCtx :=
  { gen := 0, kind := 0, priority := 0, state := 0, overrun := false, sessionGen := 0, session := 0, port := 0,
    window := 0, sizeLog := 0, nextSeq := 0, releaseSeq := 0, timeoutUs := 0, fifoOffset := 0, wr := 0, rd := 0,
    alloc := 0, values := 0, drops := 0, runtime := 0, lastCycle := 0 }

/-- A work item not yet released (R358, R362). -/
structure WorkItem where
  chan : Nat
  gen : Nat
  seq : Nat
  /-- 1 DESCRIPTOR, 2 RELEASED, 3 TIMEOUT, 4 FLUSH -/
  type : Nat
  position : Nat
  length : Nat
  cycle : Nat
  /-- bytes released and not delivered when it was made, for D2H kinds (R362) -/
  fill : Nat
  /-- the descriptor, its opcode, host address and payload, and whether that came inline, for type 1 -/
  desc : Option Desc
  opcode : Nat
  address : Nat
  payload : List Byte
  inlined : Bool
  /-- engine and slot that hold it -/
  engine : Option (Nat × Nat)
  done : Option DoneRecord
  /-- its completion has been posted by the hub: the release posts none -/
  settled : Bool
  /-- bytes that copy units have moved from the FIFO into its buffer (R349) -/
  moved : Nat
  deriving DecidableEq, Repr

/-- A MSG_SEND released into its FIFO that waits for the commit of the cycle that presents it (R354). -/
structure SentMsg where
  chan : Nat
  gen : Nat
  start : Nat
  length : Nat
  desc : Desc
  /-- the status of its done record -/
  status : Nat
  deriving DecidableEq, Repr

/-- A reservation of a message port (R341): an output value of a cycle, or an input value and the cycle that it is
presented in; no channel where an output value is dropped or an input port presents nothing. -/
structure PortRes where
  out : Bool
  port : Nat
  cycle : Nat
  chan : Option Nat
  gen : Nat
  position : Nat
  length : Nat
  value : Nat
  deriving DecidableEq, Repr

/-- The copy unit of a channel engine (R360). -/
structure CopyUnit where
  src : Nat
  dst : Nat
  length : Nat
  error : Bool
  deriving DecidableEq, Repr

/-- The channel machinery (R332 to R367). -/
structure Chn where
  ctxs : SMap ChanCtx
  /-- items not released, oldest first -/
  items : List WorkItem
  sent : List SentMsg
  /-- ready lists by PRIORITY: channels, first in first out (R359) -/
  ready : SMap (List Nat)
  reserved : List PortRes
  /-- what input ports took in cycles that a replay repeats (R341) -/
  again : List PortRes
  /-- an input port's choice for the cycle it is presented in (R340): port to cycle and channel -/
  chosen : SMap (Option (Nat × Option Nat))
  /-- the channel an input port served last, plus 1 (R340) -/
  served : SMap Nat
  /-- TIME at which a channel's drain timer started (R350) -/
  drain : SMap (Option Nat)
  /-- a drain timer has expired with no buffer posted (R350) -/
  drained : SMap Bool
  /-- CH_CLOSE descriptors that wait for their channels to become FREE (R356) -/
  closing : SMap (List Desc)
  /-- local memory of the engines; key e * 65536 + offset -/
  local_ : Memory
  /-- item slots, done records and descriptor copies (R360); key engine * 1024 + address - 0x10000 -/
  areas : Memory
  copy : SMap CopyUnit
  /-- cycle plus 1 whose OUT_FULL and IN_EMPTY decisions have been taken (R122) -/
  outDecided : Nat
  inDecided : Nat
  deriving DecidableEq, Repr

def Chn.reset : Chn :=
  { ctxs := [], items := [], sent := [], ready := [], reserved := [], again := [], chosen := [], served := [],
    drain := [], drained := [], closing := [], local_ := [], areas := [], copy := [], outDecided := 0, inDecided := 0 }

/-! ## The Assay engine -/

/-- A tracker's interval under way (R389): cycles, minimum and maximum, extended to 64 bits. -/
structure TrkAcc where
  count : Nat
  min : Nat
  max : Nat
  deriving DecidableEq, Repr

/-- The state of the Assay engine after a cycle (R374, R378). -/
structure AsyEng where
  armed : Bool
  state : Nat
  counters : List Nat
  store : Bool
  trigger : Option Nat
  /-- samples stored since ARM -/
  stored : Nat
  /-- the cycle was stored -/
  last : Bool
  tracks : SMap (Option TrkAcc)
  deriving DecidableEq, Repr

/-- A disarmed engine. -/
def AsyEng.idle : AsyEng :=
  { armed := false, state := 0, counters := [0, 0, 0, 0], store := false, trigger := none, stored := 0, last := false,
    tracks := [] }

/-- A cycle in the Assay input stage (R374, R375): its samples and what waits for its commit. -/
structure AsyCycle where
  cycle : Nat
  /-- probe bits sampled, bit i of the number -/
  probes : Nat
  /-- the engine's state after the cycle -/
  eng : AsyEng
  /-- the sample is stored, and the previous cycle was not -/
  stored : Bool
  gap : Bool
  /-- TRIG lines that PULSE_TRIG drives -/
  pulses : List Nat
  stop : Bool
  /-- reduction records to write -/
  records : List (List Byte)
  deriving DecidableEq, Repr

/-- A CAPTURE that runs or waits (R401); the boundary it copies, plus 1, once it is chosen. -/
structure CaptureReq where
  desc : Desc
  tileRam : Bool
  window : Nat
  offset : Nat
  next : Option Nat
  /-- positions of a machine whose images are not written (R401) -/
  waits : List Nat
  deriving DecidableEq, Repr

/-- The Assay engine (R370 to R404). -/
structure Asy where
  /-- the engine's state after the last committed cycle -/
  committed : AsyEng
  stage : List AsyCycle
  /-- samples taken at B5 by the dies; key cycle * 4 + d -/
  sampled : SMap (Option Nat)
  /-- ARM waits for a cycle; the cycle that it applies from -/
  armPending : Bool
  armCycle : Option Nat
  /-- STORE_INIT as ARM found it (R378) -/
  storeInit : Bool
  forcePending : Bool
  forceCycles : List Nat
  /-- EDGE inputs that wait for a cycle -/
  edges : List Nat
  /-- TRIG inputs with the cycles that they apply to -/
  inputs : List (Nat × Nat)
  /-- value of the last frame driven on each line -/
  lastFrame : SMap (Option Nat)
  /-- the hub has cast its delayed votes for cycles below this (R394) -/
  settled : Nat
  capture : Option CaptureReq
  /-- CAPTUREs that wait behind another, in order -/
  captures : List CaptureReq
  /-- committed samples that wait to be written (R375): window, offset in it, and the bytes -/
  waiting : List (Nat × Nat × List Byte)
  deriving DecidableEq, Repr

def Asy.reset : Asy :=
  { committed := AsyEng.idle, stage := [], sampled := [], armPending := false, armCycle := none,
    storeInit := false, forcePending := false, forceCycles := [], edges := [], inputs := [], lastFrame := [], settled := 0,
    capture := none, captures := [], waiting := [] }

/-! ## The Hedgerow fabric -/

/-- What stands in for an isolated hedge block (R290): values of the broadcast lines it drives, drive and value of its
pins, and the import lines it last gave the bridge. -/
structure HgrIso where
  region : Nat
  lines : SMap (Option Bool)
  pins : SMap (Option (Bool × Bool))
  imports : Nat
  deriving DecidableEq, Repr

/-- The Hedgerow fabric (R440 to R464). -/
structure Hgr where
  /-- the configuration frames of R456 and R457; a Hedgerow configuration is loaded -/
  cfg : Memory
  loaded : Bool
  /-- flip-flops; key X * 128 + 2 c + f -/
  ff : SMap Bool
  /-- RAM block contents; key r * 36864 + content bit -/
  ram : SMap Bool
  /-- read data of the RAM ports; key r * 4 + 2 * port + stage -/
  ramOut : SMap Nat
  /-- how an internal 64-bit word of a RAM block reads back; key r * 1024 + word (R449) -/
  ramEcc : SMap Ecc
  /-- input and output registers of the pins; key 2 * pin, 2 * pin + 1 -/
  ioReg : SMap Bool
  /-- pins that read 1 -/
  pins : List Nat
  /-- the class of VCCIO that stands on each bank (R462) -/
  sensed : SMap Nat
  /-- stable registers of the import groups, bit l for bridge line l (R453) -/
  stable : SMap Nat
  /-- export lines with the COMMIT and TAKEN toggles (R452) -/
  lines : SMap Bool
  /-- export bits captured at B3, with their cycles (R454): group, line, value -/
  staged : List (Nat × Nat × Nat × Bool)
  /-- values released and not yet on their lines, by group -/
  waiting : SMap (List (Nat × Bool))
  /-- groups whose TAKEN toggle is due -/
  taken : SMap Bool
  /-- stable registers as B6 of a cycle took them; key cycle * 8 + group (R453) -/
  imports : SMap (Option Nat)
  /-- the shadow of the last capture (R460) -/
  shadowFf : SMap Bool
  shadowRam : SMap Bool
  /-- edges of the capture clock since ARM -/
  capEdges : Nat
  iso : SMap (Option HgrIso)
  deriving DecidableEq, Repr

def Hgr.reset : Hgr :=
  { cfg := [], loaded := false, ff := [], ram := [], ramOut := [], ramEcc := [], ioReg := [], pins := [], sensed := [], stable := [],
    lines := [], staged := [], waiting := [], taken := [], imports := [], shadowFf := [], shadowRam := [],
    capEdges := 0, iso := [] }

/-! ## Axnath links -/

/-- A frame that the sender keeps until it is acknowledged (R415, R425). -/
structure TxFrame where
  mgmt : Bool
  src : Nat
  dest : Nat
  seq : Nat
  base : Nat
  items : List Nat
  deriving DecidableEq, Repr

/-- A link channel entry that waits for a frame (R422): its destination position, step tag and item bits. -/
structure TxEntry where
  src : Nat
  dest : Nat
  tag : Nat
  item : Nat
  deriving DecidableEq, Repr

/-- One link (R405 to R434). -/
structure LinkSt where
  /-- SEQ last accepted -/
  rxSeq : Nat
  /-- SEQ of the next frame -/
  txSeq : Nat
  /-- frames not acknowledged, oldest first -/
  replay : List TxFrame
  queue : List TxEntry
  /-- MGMT frames that wait: source, destination and words -/
  mgmt : List (Nat × Nat × List Nat)
  /-- DATA frames sent since the last MGMT frame (R418) -/
  dataRun : Nat
  /-- consecutive replays without an ACK_SEQ advance (R426) -/
  replays : Nat
  /-- a replay is asked of the far end, and the request is still to be sent (R424) -/
  nak : Bool
  nakDue : Bool
  /-- block times in a row with nothing to send (R418, R433) -/
  txIdle : Nat
  /-- consecutive IDLE and TRACK blocks received, and adaptation frozen (R432) -/
  idle : Nat
  frozen : Bool
  /-- control block last acted on; key CTYPE * 16 + ORIGIN (R413) -/
  seen : SMap (Option Nat)
  /-- EXCHANGE payloads received; key part -/
  exch : SMap (Option Nat)
  /-- largest round trip observed in Measure, in steps at 800 MHz (R428) -/
  roundTrip : Option Nat
  /-- data latency recorded by the first Measure after formation (R429) -/
  latency : Option Nat
  /-- data latency that the last Measure found, and whether it breached the recorded one (R429) -/
  measured : Nat
  breach : Bool
  /-- DEEP_REQ sent and not answered (R434) -/
  deepWait : Bool
  /-- the exit from Deep is under way (R434) -/
  waking : Bool
  /-- control blocks that wait for the exit from Deep: CTYPE, ORIGIN, CSEQ, payload (R434) -/
  ctl : List (Nat × Nat × Nat × Nat)
  deriving DecidableEq, Repr

def LinkSt.reset : LinkSt :=
  { rxSeq := 4095, txSeq := 0, replay := [], queue := [], mgmt := [], dataRun := 0, replays := 0, nak := false,
    nakDue := false, txIdle := 0, idle := 0, frozen := false, seen := [], exch := [], roundTrip := none, latency := none,
    measured := 0, breach := false, deepWait := false,
    waking := false, ctl := [] }

/-- The links and the machine that they form (R405 to R439). -/
structure Lnk where
  links : SMap LinkSt
  /-- the link channel map (R419) -/
  map : SMap Nat
  /-- next CSEQ (R412) -/
  cseq : Nat
  /-- FORM has been written and formation is not decided (R435) -/
  forming : Bool
  /-- the machine's Active links at formation, and now (R435, R438) -/
  full : List GraphEdge
  graph : List GraphEdge
  /-- the graph is cut or too wide (R438) -/
  cut : Bool
  /-- positions that have reported START_READY (R437) -/
  started : List Nat
  /-- this device has sent START_READY, HOLD and READY for the start or hold under way -/
  startSent : Bool
  holdSent : Bool
  readySent : Bool
  /-- votes and bad votes sent for cycles below these -/
  voteSent : Nat
  badSent : Nat
  /-- SCLK periods since reset: stamps of MEASURE (R428) -/
  periods : Nat
  /-- management words received for this position, by source position -/
  mgmtIn : List (Nat × List Nat)
  deriving DecidableEq, Repr

def Lnk.reset : Lnk :=
  { links := [], map := [], cseq := 0, forming := false, full := [], graph := [], cut := false, started := [],
    startSent := false, holdSent := false, readySent := false, voteSent := 0, badSent := 0, periods := 0,
    mgmtIn := [] }

/-! ## Host access to design state -/

/-- A read view (R37, R208): its boundary plus 1, the requests that it serves with their data, and the window pages
that commits have copied since. -/
structure View where
  next : Nat
  reads : List DesignReq
  pages : List Nat
  /-- a HALLMARK of DEST 2 copies from it (R485) -/
  exports : Bool
  deriving DecidableEq, Repr

/-- A staged host write (R38, R210): its requests, the cycle it is bound to once it is applied, and whether it stands
applied. -/
structure HostStage where
  reqs : List DesignReq
  cycle : Option Nat
  applied : Bool
  deriving DecidableEq, Repr

/-- Host access to design state (R35 to R41, R205 to R210). -/
structure DesignHost where
  view : Option View
  /-- groups that wait for the view to close -/
  waiting : List (List DesignReq)
  writes : List HostStage
  /-- requests that another device serves, whose own group is done (R207) -/
  away : List DesignReq
  deriving DecidableEq, Repr

def DesignHost.reset : DesignHost := { view := none, waiting := [], writes := [], away := [] }

/-! ## The HBM controllers -/

/-- What the HBM hub holds beside its registers (R223 to R235). -/
structure HbmSt where
  /-- delays in force in the PHYs; key stack * 2048 + entry (R227) -/
  delays : SMap Nat
  /-- tREFI in units of 10 ns and tRFC in ns, as in force (R224) -/
  timing : Nat × Nat
  /-- written timings with the refreshes left until they take effect (R224) -/
  written : List (Nat × Nat × Nat)
  /-- TIME of each uncorrectable error of a pseudo-channel within the last ms (R231) -/
  ueTimes : SMap (List Nat)
  /-- the pseudo-channel failed its command-parity check on its last command (R231) -/
  parity : SMap Bool
  /-- uncorrectable words of design windows in cycles not yet committed: cycle, word number, and whether it was met in an
  earlier execution of the cycle (R230) -/
  ueSeen : List (Nat × Nat × Bool)
  /-- the preserved window tables in pseudo-channels 0 and 32: the seven registers of each window in order (R233) -/
  table0 : Option (List Nat)
  table32 : Option (List Nat)
  /-- uncorrectable tile RAM words in cycles not yet committed, likewise (R467) -/
  tileSeen : List (Nat × Nat × Bool)
  /-- stored words that do not read back clean; key pseudo-channel * 2^27 + word (R229, R230) -/
  marks : SMap Ecc
  deriving DecidableEq, Repr

def HbmSt.reset : HbmSt :=
  { delays := [], timing := (0x186, 0x19A), written := [], ueTimes := [], parity := [], ueSeen := [],
    table0 := none, table32 := none, tileSeen := [], marks := [] }

/-! ## Clocks and power -/

/-- What the clock block holds beside its registers (R494 to R519). -/
structure ClkSt where
  /-- the ramp plan in force: its target, and the step count at which its next step is due (R511) -/
  plan : Option (Nat × Nat)
  /-- the divisor that the steward wants; none while it wants D_MIN (R516) -/
  want : Option Nat
  /-- the divisors that the other devices want, by position, as the vote root knows them (R512) -/
  wants : SMap Nat
  /-- positions that have not acknowledged the vote root's plan, and the cycle at whose step 0 it starts (R512) -/
  acks : List Nat
  planCycle : Nat
  /-- steward passes in a row with every sensor cool and the power below its limit (R516) -/
  cool : Nat
  /-- no RUN is accepted since a thermal trip (R517) -/
  hot : Bool
  /-- REFCLK is absent (R502) -/
  lost : Bool
  /-- 100 ms of holdover have passed, or R503 asks for the hold at once -/
  expired : Bool
  /-- the part of a nanosecond that SCLK periods have run beyond TIME, in 1/1024 ns -/
  frac : Nat
  deriving DecidableEq, Repr

def ClkSt.reset : ClkSt := { plan := none, want := none, wants := [], acks := [], planCycle := 0, cool := 0, hot := false, lost := false, expired := false, frac := 0 }

/-! ## The package network -/

/-- A packet in a source's retry store, and how often it has been sent (R250). -/
structure NetEntry where
  pkt : Packet
  sent : Nat
  deriving DecidableEq, Repr

/-- The network interfaces (R236 to R259). -/
structure Net where
  store : List NetEntry
  /-- TAGs of the last 256 packets delivered; key destination * 2048 + source -/
  seen : SMap (List Nat)
  /-- requests held by interfaces that quiesce (R253) -/
  held : List Packet
  /-- requests delivered to their blocks and not yet answered (R253) -/
  opened : List Packet
  /-- gate nodes whose clock has restarted and whose block has not yet signalled quiesce exit (R508) -/
  exiting : List Nat
  deriving DecidableEq, Repr

def Net.reset : Net := { store := [], seen := [], held := [], opened := [], exiting := [] }

/-! ## Keys and presence -/

/-- What the security block holds beside its registers (R561 to R573). -/
structure Sec where
  /-- the fuse array and its shadow, 512 words of 32 bits (R561) -/
  fuses : SMap Nat
  shadow : SMap Nat
  /-- the battery-backed key (R568) -/
  bbk : Nat
  /-- TIME at which the presence window closes (R572) -/
  windowEnd : Nat
  /-- entries that the burn under way has still to take, in burn order: stage entry, word, bits (R565) -/
  burn : List (Nat × Nat × Nat)
  deriving DecidableEq, Repr

def Sec.reset : Sec := { fuses := [], shadow := [], bbk := 0, windowEnd := 0, burn := [] }

/-! ## The control cluster -/

/-- Where a control core stands as the spec gives it: the registers of its last restart (R523, R527). -/
structure CoreSt where
  pc : Nat
  a0 : Nat
  a1 : Nat
  machine : Bool
  /-- its store to CTL_FW_HANDOVER waits (R527) -/
  stalled : Bool
  /-- the HANDOVER interrupt is raised -/
  handover : Bool
  deriving DecidableEq, Repr

/-- A core that nothing has started. -/
def CoreSt.idle : CoreSt := ⟨0, 0, 0, true, false, false⟩

/-- A march test that runs (R533 to R539): its target, its program, its background, and the word groups done. -/
structure MarchRun where
  preserving : Bool
  kind : Nat
  die : Nat
  unit : Nat
  alt : Bool
  pattern : Nat
  elems : List Nat
  done : Nat
  deriving DecidableEq, Repr

/-- The control cluster (R520 to R541). -/
structure Ctl where
  cores : SMap CoreSt
  /-- local memories; key core * 131072 + byte -/
  coreMem : Memory
  /-- firmware SRAM; key bank * 1048576 + byte (R524) -/
  fws : Memory
  /-- scratch banks; key bank * 2097152 + byte (R530) -/
  scratch : Memory
  /-- X and Y of the firmware key that the boot ROM has accepted, 96 bytes (R570) -/
  fwKey : Option (List Byte)
  /-- the bank holds a firmware image that has passed its checks; key bank -/
  loaded : SMap Bool
  /-- a firmware image runs (R583) -/
  running : Bool
  /-- what each core has reserved by LR: memory (0 local, 1 firmware SRAM), key of its first byte, length (R522) -/
  reserve : SMap (Option (Nat × Nat × Nat))
  march : Option MarchRun
  /-- the user hold is to be released when the test of a bound tile ends (R536) -/
  deferred : Bool
  deriving DecidableEq, Repr

def Ctl.reset : Ctl :=
  { cores := [], coreMem := [], fws := [], scratch := [], fwKey := none, loaded := [], running := false, reserve := [], march := none,
    deferred := false }

/-! ## Program trace -/

/-- A trace source (R542 to R559). -/
structure TrcSrc where
  /-- branch outcomes that wait, oldest first (R546) -/
  outcomes : List Bool
  /-- the reference address (R547) -/
  ref : Nat
  /-- stream bytes in the FIFO, each with whether it is a packet's header -/
  fifo : List (Byte × Bool)
  /-- bytes emitted since the start of the previous SYNC (R548) -/
  since : Nat
  /-- frames written (R557) -/
  seq : Nat
  /-- packets lost and not yet reported (R559) -/
  lost : Nat
  /-- the next frame carries LOST -/
  mark : Bool
  /-- it runs excluded code (R549) -/
  excluded : Bool
  /-- address of the next instruction to retire -/
  pc : Nat
  /-- REASON of a SYNC due before the next traced instruction -/
  sync : Option Nat
  /-- a TIME packet is due at the next packet boundary (R548) -/
  timeDue : Bool
  deriving DecidableEq, Repr

/-- A source that has emitted nothing. -/
def TrcSrc.idle : TrcSrc :=
  { outcomes := [], ref := 0, fifo := [], since := 0, seq := 0, lost := 0, mark := false, excluded := false, pc := 0, sync := none,
    timeDue := false }

/-! ## The loader -/

/-- A command of a stream's plaintext (R272). -/
inductive LdCmd where
  | write (addr : Nat) (data : List Byte)
  | repeatTo (addrs : List Nat)
  | zero (addr count : Nat)
  | region (n : Nat) (parent variant : List Byte)
  | commit
  | pad
  deriving DecidableEq, Repr

/-- An open load stream (R260 to R273). -/
structure LdStream where
  /-- 1 host, 2 SPI slave, 3 QSPI -/
  path : Nat
  /-- the IMAGE descriptor whose bytes the loader takes -/
  desc : Option Desc
  /-- session and generation that carry a host-path stream -/
  session : Nat × Nat
  isPartial : Bool
  nonce : List Byte
  keySel : Nat
  /-- segments received -/
  position : Nat
  /-- the segment flagged LAST has passed -/
  last : Bool
  /-- the last frame (R273) -/
  frame : Option (List Byte)
  region : Option Nat
  variant : List Byte
  /-- frames covered: first frame and count -/
  covered : List (Nat × Nat)
  /-- stream bytes that the loader has not taken -/
  buffer : List Byte
  binding : List Byte
  deriving DecidableEq, Repr

/-- A full load past its checks: the Ingot, its bytes, the descriptor and path that carried it, and whether it waits
for the machine (R278); what is left of its start-up sequence (R280). -/
structure LdInstall where
  ingot : Ingot
  image : Memory
  desc : Option Desc
  path : Nat
  session : Nat × Nat
  waiting : Bool
  events : List (Nat × Nat)
  deriving DecidableEq, Repr

/-- The loader (R260 to R299). -/
structure Ldr where
  stream : Option LdStream
  /-- the staging area (R274) -/
  staging : Memory
  install : Option LdInstall
  /-- commands of partial streams that have passed their checks and wait for the region to stop (R289), with the
  region -/
  todo : List (Nat × LdCmd)
  /-- an SPI-slave load has reached LOADED (R261) -/
  spiLoaded : Bool
  /-- the self-load of R261: 0 none, 1 entry 0 under way, 2 entry 1 under way -/
  selfTry : Nat
  deriving DecidableEq, Repr

def Ldr.reset : Ldr :=
  { stream := none, staging := [], install := none, todo := [], spiLoaded := false, selfTry := 0 }

/-! ## Start-up -/

/-- What a reset leaves and start-up finds beside registers (R577 to R587). -/
structure Boot where
  /-- subsystem vendor and subsystem ID (R585) -/
  subsystem : Nat × Nat
  /-- regulator entries of the flash header (R585) -/
  regulators : List Nat
  /-- the characterisation record of the flash, where firmware uses it; empty while the fused one is used (R226) -/
  char : List Byte
  /-- the release under way follows a cold reset -/
  cold : Bool
  /-- PERST_N is low -/
  perst : Bool
  deriving DecidableEq, Repr

def Boot.reset : Boot := { subsystem := (0, 0), regulators := [], char := [], cold := true, perst := false }

/-! ## The whole -/

/-- What a part is: its grade (R1), its silicon (R596) and the figures that an implementation fixes. -/
structure Chip where
  /-- the part is a VK4-192 -/
  grade192 : Bool
  silicon : Byte
  metal : Byte
  romBuild : BitVec 16
  /-- transport latency of each ordered die pair, measured at start-up (R103); key src * 4 + dst, 24 unlisted -/
  latency : SMap Nat
  /-- bytes that one entry of the return log occupies (R201) -/
  logEntry : Nat
  deriving DecidableEq, Repr

/-- The state of one device, with the commands that wait. -/
structure State where
  chip : Chip
  /-- register fields that differ from their reset values, by `Fld.key` -/
  regs : SMap Nat
  /-- high halves captured by a read of the low half (R144, R599); key address * 16 + path -/
  capHi : SMap (Option Nat)
  dies : Vector Die 4
  holds : Holds
  mem : DesignMem
  run : RunCtl
  /-- the installed Ingot -/
  ingot : Option Ingot
  /-- isolated tiles; key d * 64 + p -/
  iso : SMap (Option IsoTile)
  /-- tile units of the installed Ingot (R291); key (d * 64 + p) * 2^25 + byte -/
  tileBytes : Memory
  host : HostIf
  chn : Chn
  asy : Asy
  hgr : Hgr
  lnk : Lnk
  design : DesignHost
  hbm : HbmSt
  clk : ClkSt
  net : Net
  sec : Sec
  ctl : Ctl
  trc : SMap TrcSrc
  ldr : Ldr
  boot : Boot
  /-- what the device has sent, oldest first -/
  outs : List Out
  /-- values that the spec leaves open, drawn so far -/
  draws : Nat
  pending : List Instr
  deriving DecidableEq, Repr

def State.reset : State :=
  { chip := ⟨false, 0x41, 0, 0, [], 80⟩, regs := [], capHi := [], dies := Vector.replicate 4 Die.reset,
    holds := Holds.reset, mem := DesignMem.reset, run := RunCtl.reset, ingot := none, iso := [], tileBytes := [], host := HostIf.reset, chn := Chn.reset, asy := Asy.reset, hgr := Hgr.reset, lnk := Lnk.reset, design := DesignHost.reset, hbm := HbmSt.reset, clk := ClkSt.reset, net := Net.reset, sec := Sec.reset, ctl := Ctl.reset, trc := [], ldr := Ldr.reset, boot := Boot.reset, outs := [], draws := 0, pending := [] }

end Sys2Proof.Machine
end

