-- ==== Sys2Proof/Machine/Ops.lean ====
section
/-! DEFINITION. The named operations over the register store, the dies and the clocks that every meaning uses. -/

namespace Sys2Proof.Machine

/-- Key `i` of a store after `k` groups of `n`. -/
abbrev idx (k n i : Nat) : Nat := k * n + i

/-! ### Registers (R6 to R11) -/

/-- The value of a register field. -/
def getF (s : State) (f : Fld) : Nat := SMap.get f.rst s.regs f.key

/-- The state with a register field at `v`, taken to the field's width. -/
def setF (s : State) (f : Fld) (v : Nat) : State :=
  { s with regs := SMap.set f.rst s.regs f.key (v % 2 ^ f.width) }

/-- The field as a truth value. -/
def getB (s : State) (f : Fld) : Bool := getF s f ≠ 0

/-- The state with a one-bit field at `b`. -/
def setB (s : State) (f : Fld) (b : Bool) : State := setF s f (b2n b)

/-- The state with bit `i` of a field at `b`. -/
def setFBit (s : State) (f : Fld) (i : Nat) (b : Bool) : State := setF s f (setBit (getF s f) i b)

/-- The state with `n` added to a saturating counter field. -/
def bumpF (s : State) (f : Fld) (n : Nat) : State := setF s f (saturate f.width (getF s f + n))

/-- The state with `n` added to a wrapping counter field. -/
def wrapF (s : State) (f : Fld) (n : Nat) : State := setF s f (getF s f + n)

/-- A 64-bit value held in two halves. -/
def get64 (s : State) (lo hi : Fld) : Nat := getF s lo + 2 ^ 32 * getF s hi

/-- The state with a 64-bit value in two halves. -/
def set64 (s : State) (lo hi : Fld) (v : Nat) : State := setF (setF s lo v) hi (v / 2 ^ 32)

/-- The state with every field of a block at its reset value, but for the offsets that `keep` holds (R10). -/
def resetBlock (s : State) (b : Nat) (keep : Nat → Bool) : State :=
  { s with regs := s.regs.filter (fun e => (e.1 / 32 / 0x10000 % 16 ≠ b) || keep (e.1 / 32 % 0x10000)) }

/-- The plain value of the register at offset `a`: its fields in their places, zeros elsewhere and in write-only
fields (R7 to R9). -/
def plainReg (s : State) (a : Nat) : Nat :=
  (fieldsAt a).foldl (fun acc f => if f.acc = .wo then acc else acc + getF s f * 2 ^ f.lo) 0

/-- One field after a write of `v` to its register (R7). -/
def writeField (v : Nat) (s : State) (f : Fld) : State :=
  let w := bitsOf v f.lo f.width
  match f.acc with
  | .rw => setF s f w
  | .w1c => setF s f (getF s f - (getF s f &&& w))
  | .w1s => setF s f (getF s f ||| w)
  | .ro | .rc | .wo => s

/-- The register at offset `a` after a write that has no behaviour of its own (R7). -/
def plainWrite (s : State) (a v : Nat) : State := (fieldsAt a).foldl (writeField v) s

/-- The RC fields of the register at offset `a` cleared, as a read leaves them (R7). -/
def clearRC (s : State) (a : Nat) : State :=
  (fieldsAt a).foldl (fun t f => if f.acc = .rc then setF t f 0 else t) s

/-- The code of a path, for captured halves and answers. -/
def pathCode : RegPath → Nat
  | .host => 0
  | .spi => 1
  | .core c => 2 + c

/-! ### Gated blocks (R253, R254, R505) -/

/-- A field of CLK_GATE_CTRL of one node. -/
def gateFld (f : Fld) (n : Nat) : Fld := f.bank n

/-- The gate of a node is open. -/
def gateOpen (s : State) (n : Nat) : Bool := getB s (gateFld F.CLK_GATE_CTRL_OPEN n)

/-- The block of a node is isolated (R253, R254, R508): its gate is closed, or it has not signalled quiesce exit since. -/
def nodeIsolated (s : State) (n : Nat) : Bool :=
  !gateOpen s n || getB s (gateFld F.CLK_GATE_CTRL_ISOLATED n) || s.net.exiting.contains n

/-- The gate node of the block whose register stands at an offset of the setup window; none where no gate covers it. -/
def gateOfReg (a : Nat) : Option Nat :=
  match a / 0x10000 with
  | 0xB => some 66
  | 0xD => some 65
  | 0xF => some 67
  | 0xE => if 0xE0100 ≤ a ∧ a < 0xE0300 then some 68 else none
  | _ => none

/-- The register at an offset belongs to an isolated block (R254); an offset that holds no register does not (R9). -/
def regIsolated (s : State) (a : Nat) : Bool :=
  match gateOfReg a with
  | some g => nodeIsolated s g && fieldsAt a != []
  | none => false

/-- A write to the register at `a` by a command of its own, which an isolated block discards (R254). -/
def gatedWrite (s : State) (a : Nat) (k : State → State) : State :=
  if regIsolated s a then setB s F.NET_STATUS_ISO_ACCESS true else k s

/-! ### Dies -/

/-- The state with die `d` replaced. -/
def setDie (s : State) (d : Fin 4) (x : Die) : State := { s with dies := s.dies.set d x }

/-- The state with die `d` changed by `g`. -/
def onDie (s : State) (d : Fin 4) (g : Die → Die) : State := setDie s d (g s.dies[d])

/-- The state with every die changed by `g`. -/
def onDies (s : State) (g : Die → Die) : State := { s with dies := s.dies.map g }

/-- The four dies in order. -/
def dieList : List (Fin 4) := [0, 1, 2, 3]

/-- Scheduled steps per cycle (R13): 0 while no Ingot is loaded. -/
def stepsS (s : State) : Nat := getF s F.ARY_SCHEDULE_S

/-- Steps of one cycle (R14). -/
def cycleSteps (s : State) : Nat := stepsS s + 12

/-- The step of the cycle at step count `sigma` (R16). -/
def stepOf (s : State) (sigma : Nat) : Nat := sigma % cycleSteps s

/-- The cycle of step count `sigma` (R16). -/
def cycleOf (s : State) (sigma : Nat) : Nat := sigma / cycleSteps s

/-- The emulation state (R30). -/
def emState (s : State) : Nat := getF s F.ARY_STATE_STATE

/-- The machine executes cycles: RUNNING or HELD. -/
def executing (s : State) : Bool := emState s == 2 || emState s == 3

/-- This device is part of a machine of more than one device (R12). -/
def multi (s : State) : Bool := getB s F.ARY_STATE_MULTI

/-- The machine position of this device. -/
def position (s : State) : Nat := getF s F.ARY_STATE_POSITION

/-- This device is the vote root (R25). -/
def voteRoot (s : State) : Bool := !multi s || getB s F.ARY_STATE_VOTE_ROOT

/-- Active tile positions of a die (R2, R3). -/
def activePositions (s : State) : Nat := if s.chip.grade192 then 48 else 64

/-- The TIME counter in ns (R599). -/
def timeNs (s : State) : Nat := get64 s F.IDN_TIME_LO_TIME F.IDN_TIME_HI_TIME

/-- The state with TIME at `t`. -/
def setTime (s : State) (t : Nat) : State := set64 s F.IDN_TIME_LO_TIME F.IDN_TIME_HI_TIME (t % 2 ^ 64)

/-- IDN_SERIAL: words 0 and 1 of the fuse shadow (R562, R596). -/
def deviceSerial (s : State) : Nat := s.sec.shadow.get 0 0 + 2 ^ 32 * s.sec.shadow.get 0 1

/-- The greatest step count of the device's dies. -/
def sigmaMax (s : State) : Nat := dieList.foldl (fun m d => max m s.dies[d].sigma) 0

/-- The least step count of the device's dies. -/
def sigmaMin (s : State) : Nat := dieList.foldl (fun m d => min m s.dies[d].sigma) s.dies[0].sigma

/-- Every die is frozen. -/
def allFrozen (s : State) : Bool := dieList.all (fun d => s.dies[d].frozen)

/-- Some die is frozen. -/
def anyFrozen (s : State) : Bool := dieList.any (fun d => s.dies[d].frozen)

/-- The physical tile bound to a position of a die (R3).  DESIGN CHOICE: where no retirement or failed tile has changed it, that
of the position's own number; R3 and R481 do not give the binding. -/
def physTile (x : Die) (p : Nat) : Nat := (x.tileMap.get none p).getD p

/-- Position `p` of die `d` is the one bound to physical tile `phys`, if one is (R3). -/
def positionOf (s : State) (d : Fin 4) (phys : Nat) : Option Nat :=
  (List.range (activePositions s)).find? (fun p => physTile s.dies[d] p = phys)

end Sys2Proof.Machine
end

