-- ==== Sys2Proof/Machine/Operands.lean ====
section
/-! DEFINITION. Operand forms: the words of the installed images with their patches (R150, R160, R291), the cluster
operand space (R53 to R71), the receive-side lane index (R98), granules (R186) and memory windows (R213 to R217). -/

namespace Sys2Proof.Machine

/-! ### Words of the installed images -/

/-- The first byte of the tile unit of position `p` on die `d`. -/
def unitBase (d p : Nat) : Nat := (d * 64 + p) * 2 ^ 25

/-- The little-endian number of `n` bytes at offset `off` of a tile unit. -/
def unitLe (m : Memory) (d p off n : Nat) : Nat := leNat (Memory.readBytes zeroFill m (unitBase d p + off) n)

/-- Byte offset of the instruction word of LP `j` of cluster `n` for step `t` (R150). -/
def lpOffset (s n t j : Nat) : Nat := 8 * (64 * (s * n + t) + j)

/-- Byte offset of the PS word of cluster `n` for step `t` (R150). -/
def psOffset (s n t : Nat) : Nat := 4 * s * 4096 + 32 * (s * n + t)

/-- Byte offset of the Tables frame (R150, R291): 4.25 S frames in. -/
def tablesOffset (s : Nat) : Nat := 17 * s * 1024

/-- The stored instruction word (R42, R44); words `S` and above are NOP. -/
def lpWord (s : State) (d p n t j : Nat) : Nat :=
  if t < stepsS s then unitLe s.tileBytes d p (lpOffset (stepsS s) n t j) 8 else 0

/-- Function pair entry `i` and its valid bit (R49, R51). -/
def funcPair (s : State) (d p i : Nat) : Nat × Bool :=
  let base := tablesOffset (stepsS s)
  (unitLe s.tileBytes d p (base + 4 * i) 4, (unitLe s.tileBytes d p (base + 1024 + i / 8) 1).testBit (i % 8))

/-- The die group that the binding puts on die `d` (R157). -/
def groupOf (g : Ingot) (d : Nat) : Nat := g.pi.findIdx (· = d)

/-- The tile position that the binding gives group index `i` of group `g` (R157). -/
def bindPos (g : Ingot) (grp i : Nat) : Nat := ((g.pos.getD grp []).getD i i)

/-- The die that the binding gives group `grp` (R157). -/
def bindDie (g : Ingot) (grp : Nat) : Nat := g.pi.getD grp grp

/-- A receive-side lane index as the binding in force patches it, for a receiver on die `d` (R160). -/
def patchLane (g : Ingot) (d lane : Nat) : Nat :=
  if lane < 0x2000 then bindPos g (groupOf g d) (lane / 128) * 128 + lane % 128
  else if lane < 0x2C00 then
    let gs := (groupOf g d + lane / 1024 % 4 + 1) % 4
    let u := (bindDie g gs + 4 - d) % 4
    0x2000 + (u + 3) % 4 * 1024 + lane % 1024
  else lane

/-- The RECVk field of a stored PS word (R82): whether it is enabled, its lane index and its slot. -/
structure RecvField where
  en : Bool
  lane : Nat
  slot : Nat
  deriving DecidableEq, Repr

/-- The stored PS word of cluster `n` for step `t` (R79, R81). -/
def psWord (s : State) (d p n t : Nat) : Nat :=
  if t < stepsS s then unitLe s.tileBytes d p (psOffset (stepsS s) n t) 24 else 0

/-- RECV field `k` of a PS word, with its lane patched. -/
def recvField (s : State) (d w k : Nat) : RecvField :=
  let f := bitsOf w (28 + 25 * k) 25
  let lane := bitsOf f 10 14
  ⟨f.testBit 24, match s.ingot with | some g => patchLane g d lane | none => lane, bitsOf f 0 10⟩

/-- SEND field `k` of a PS word: enabled, and its operand address (R82). -/
def sendField (w k : Nat) : Bool × Nat :=
  let f := bitsOf w (128 + 14 * k) 14
  (f.testBit 13, bitsOf f 0 13)

/-- LATCH field of a PS word: enabled, operand address, register bit (R82). -/
def latchField (w : Nat) : Bool × Nat × Nat :=
  let f := bitsOf w 3 25
  (f.testBit 24, bitsOf f 11 13, bitsOf f 0 11)

/-- A crossing-table entry (R99) with its destination patched (R160). -/
structure CrossEntry where
  en : Bool
  link : Bool
  doff : Nat
  chan : Nat
  deriving DecidableEq, Repr

/-- Crossing-table entry `e` of a tile unit held in `m`, for a sender on die `d`. -/
def crossEntryIn (s : State) (m : Memory) (d p e : Nat) : CrossEntry :=
  let w := unitLe m d p (tablesOffset (stepsS s) + 1056 + 4 * e) 4
  let doff := bitsOf w 28 2
  ⟨w.testBit 31, w.testBit 30,
    if w.testBit 30 then doff else match s.ingot with
      | some g => (bindDie g ((groupOf g d + doff) % 4) + 4 - d) % 4
      | none => doff,
    bitsOf w 0 10⟩

/-- Crossing-table entry `e` as it stands. -/
def crossEntry (s : State) (d p e : Nat) : CrossEntry := crossEntryIn s s.tileBytes d p e

/-- A port binding entry (R162) with its window patched (R160). -/
structure PortBinding where
  en : Bool
  target : Nat
  window : Nat
  cluster : Nat
  deriving DecidableEq, Repr

/-- The port binding entry of memory port `m`. -/
def portBinding (s : State) (d p m : Nat) : PortBinding :=
  let w := unitLe s.tileBytes d p (tablesOffset (stepsS s) + 1568 + 4 * m) 4
  let win := bitsOf w 24 4
  ⟨w.testBit 31, bitsOf w 28 3, match s.ingot with | some g => g.windows.getD win win | none => win, bitsOf w 4 5⟩

/-- The schedule word of memory port `m` for step `t` (R179). -/
def schedWord (s : State) (d p m t : Nat) : Nat :=
  if t < stepsS s then unitLe s.tileBytes d p (tablesOffset (stepsS s) + (1 + m) * 4096 + 4 * t) 4 else 0

/-! ### The operand space (R53) -/

/-- Key of a stored word in a die's error map: memory of R493, position, word. -/
def eccKey (memory p word : Nat) : Nat := memory * 2 ^ 48 + p * 2 ^ 40 + word

/-- How a stored word of a die reads back. -/
def eccOf (x : Die) (memory p word : Nat) : Ecc := x.ecc.get .clean (eccKey memory p word)

/-- FIRST for the cycle that die `d` executes (R22). -/
def firstBit (s : State) (d : Fin 4) : Bool := s.run.firstCycle = some s.dies[d].cycle

/-- What an operand read finds (R54, R60, R62, R65, R71). -/
inductive Opnd where
  | reserved
  | stale
  | absent (bit : Nat)
  /-- a value; whether its rails are equal (R60); how its SECDED group reads (R71) -/
  | val (v : Bool) (mismatch : Bool) (ecc : Ecc)
  deriving DecidableEq, Repr

/-- A stored bit read through SECDED: 0 when uncorrectable (R71). -/
def eccVal (v : Bool) (e : Ecc) : Opnd := .val (v && (e ≠ .uncorrectable)) false e

/-- The operand at address `a` of cluster `n` of position `p` on die `d` (R53). -/
def readOpnd (s : State) (d : Fin 4) (p n a : Nat) : Opnd :=
  let x := s.dies[d]
  let c := p * 32 + n
  if a < 0x800 then
    let r := x.window.get ⟨false, true⟩ (idx c 2048 a)
    .val r.t (r.t == r.c) .clean
  else if a < 0x1000 then
    let r := a - 0x800
    eccVal (x.regBits.get false (idx c 2048 r)) (eccOf x 3 p (n * 64 + r / 64))
  else if a < 0x1400 then
    let r := a - 0x1000
    match x.slots.get none (idx c 1024 r) with
    | none => .stale
    | some v => eccVal v (eccOf x 3 p (n * 64 + 32 + r / 64))
  else if a < 0x1600 then
    let r := a - 0x1400
    let b := x.mrd.get ⟨false, false, none⟩ (idx c 512 r)
    if b.present then eccVal b.val (eccOf x 3 p (n * 64 + 48 + r / 64)) else .absent r
  else if a < 0x1700 then
    let r := a - 0x1600
    eccVal (x.portIn.get false (idx c 256 r)) (eccOf x 3 p (n * 64 + 56 + r / 64))
  else if a = 0x1700 then .val false false .clean
  else if a = 0x1701 then .val true false .clean
  else if a = 0x1702 then .val (firstBit s d) false .clean
  else .reserved

/-- The value of an operand that may be read. -/
def Opnd.value : Opnd → Bool
  | .val v _ _ => v
  | _ => false

/-- The value that the complement read path finds (R60, R75): the complement bit of a window entry, inverted. -/
def Opnd.comp : Opnd → Bool
  | .val v m _ => xor v m
  | _ => false

/-- Window address of output `o` of LP `j` written in step `t` (R57). -/
def windowAddr (t j o : Nat) : Nat := t % 16 * 128 + 2 * j + o

/-! ### Lanes and channels -/

/-- The local lane that SENDk of cluster `n` of position `p` drives (R85). -/
def laneOf (p n k : Nat) : Nat := (p * 32 + n) * 4 + k

/-- The lane index at which a crossing forwarded with DOFF `m` arrives (R101). -/
def arrivalLane (m chan : Nat) : Nat := 0x2000 + (3 - m) * 0x400 + chan

/-- The tag space of a channel at key `k` (lane index - 0x2000): 64 for crossings, 1,024 for links (R103, R108). -/
def tagSpace (k : Nat) : Nat := if k < 0xC00 then 64 else 1024

/-- The expected delay of a channel (R104, R108). -/
def chanDelay (x : Die) (k : Nat) : Nat := if k < 0xC00 then x.delays.get 0 (k / 1024) else x.delays.get 0 k

/-- The expected tag of a channel when the die is at step count `sigma` (R105). -/
def expectedTag (x : Die) (k sigma : Nat) : Nat :=
  let m := tagSpace k
  (sigma + m * (chanDelay x k / m + 1) - chanDelay x k) % m

/-- Tag `t` is older than `e` (R105, R108). -/
def tagOlder (m e t : Nat) : Bool :=
  let df := (e + m - t % m) % m
  1 ≤ df && df < m / 2

/-- Tag `t` is newer than `e` (R105, R108). -/
def tagNewer (m e t : Nat) : Bool :=
  let df := (t + m - e % m) % m
  1 ≤ df && df ≤ m / 2

/-- A lane carries the value of a spare lane where the spare map names it (R114); values do not differ. -/
def spareOf (x : Die) (lane : Nat) : Option Nat :=
  (List.range 128).find? (fun i => x.spareMap.get none i = some lane)

/-- The virtual tile bound to a position of a die, if one is (R157). -/
def boundTile (s : State) (d : Fin 4) (p : Nat) : Option Nat := s.dies[d].tiles.get none p

/-- A march test of a bound tile runs (R536): no die takes a step, and a release of the user hold waits. -/
def marchHolds (s : State) : Bool :=
  match s.ctl.march with
  | some m => decide (m.kind < 6) && match positionOf s (Fin.ofNat 4 m.die) m.unit with
    | some p => (boundTile s (Fin.ofNat 4 m.die) p).isSome
    | none => false
  | none => false

/-- An isolated tile is stopped in cycle `c` (R289, R296). -/
def IsoTile.stops (i : IsoTile) (c : Nat) : Bool :=
  decide (i.from_ ≤ c) && match i.until_ with
    | some k => decide (c ≤ k)
    | none => true

/-- The isolated tile at a position, where it is stopped in the die's cycle. -/
def stoppedTile (s : State) (d : Fin 4) (p : Nat) : Option IsoTile :=
  let here := fun (m : SMap (Option IsoTile)) =>
    (m.get none (d.val * 64 + p)).bind (fun i => if i.stops s.dies[d].cycle then some i else none)
  match here s.iso with
  | some i => some i
  | none => here s.run.pastIso

/-- The tile executes in the die's cycle: it is bound (R78) and not isolated (R289). -/
def tileRuns (s : State) (d : Fin 4) (p : Nat) : Bool := (boundTile s d p).isSome && (stoppedTile s d p).isNone

/-! ### Granules and windows -/

/-- The granule of an access of `w` bits (R186): the least power of two that holds them. -/
def granule (w : Nat) : Nat := ([1, 2, 4, 8, 16, 32, 64, 128, 256].find? (fun g => w ≤ g)).getD 512

/-- Bits of a target (R187). -/
def targetBits (s : State) (target window : Nat) : Nat :=
  match target with
  | 0 => 2 ^ 22
  | 1 => getF s (F.HBM_WIN_SIZE_SIZE window) * 65536 * 8
  | _ => 2 ^ 23

/-- The pseudo-channels of a window, lowest first (R213). -/
def winMembers (s : State) (w : Nat) : List Nat :=
  (List.range 128).filter (fun p => (getF s (F.HBM_WIN_SET_SET w (p / 32))).testBit (p % 32))

/-- Bytes of a window (R213). -/
def winSize (s : State) (w : Nat) : Nat := getF s (F.HBM_WIN_SIZE_SIZE w) * 65536

/-- The grain of a window in bytes; the whole window where it is pinned (R213, R217). -/
def winGrain (s : State) (w : Nat) : Nat :=
  let g := getF s (F.HBM_WIN_CTRL_GRAIN w)
  if g = 15 then winSize s w else 256 * 2 ^ g

/-- The window is enabled with the given owner (R214). -/
def winOwned (s : State) (w owner : Nat) : Bool :=
  getB s (F.HBM_WIN_CTRL_EN w) && getF s (F.HBM_WIN_CTRL_OWNER w) == owner

/-- The window is mirrored (R216). -/
def winMirror (s : State) (w : Nat) : Bool := getB s (F.HBM_WIN_CTRL_MIRROR w)

/-- Pseudo-channel and byte address of offset `x` of a window (R217). -/
def winAddr (s : State) (w x : Nat) : Nat × Nat :=
  let ms := winMembers s w
  let g := winGrain s w
  let k := x / g
  (ms.getD (k % ms.length) 0, getF s (F.HBM_WIN_BASE_BASE w) * 65536 + k / ms.length * g + x % g)

/-- The HBM key of a pseudo-channel and byte address. -/
def hbmKey (pc a : Nat) : Nat := pc * 2 ^ 30 + a

/-- The pseudo-channel has failed (R231). -/
def pcFailed (s : State) (pc : Nat) : Bool := (getF s (F.HBM_PC_FAILED_FAILED (pc / 32))).testBit (pc % 32)

/-- How the word of byte `a` of a pseudo-channel reads back (R229). -/
def hbmMark (s : State) (pc a : Nat) : Ecc := s.hbm.marks.get .clean (pc * 2 ^ 27 + a / 8)

/-- A pseudo-channel gives byte `a`: it has not failed, and the word is not uncorrectable (R230, R231). -/
def hbmGives (s : State) (pc a : Nat) : Bool := !pcFailed s pc && hbmMark s pc a != .uncorrectable

/-- A byte of a window: from copy 0, or from copy 1 where copy 0 does not give it (R216, R230, R231); where no copy gives
it, the spec states no value. -/
def winRead (s : State) (w x : Nat) : Byte :=
  let (pc, a) := winAddr s w x
  if hbmGives s pc a then Memory.read zeroFill s.mem.hbm (hbmKey pc a)
  else if winMirror s w && hbmGives s (pc ^^^ 32) a then Memory.read zeroFill s.mem.hbm (hbmKey (pc ^^^ 32) a)
  else Config.poisoned s.draws (hbmKey pc a)

/-- A byte written to a pseudo-channel, whose word has check bits of its own from then on; a failed one is sent no command
(R231). -/
def hbmPut (s : State) (pc a : Nat) (b : Byte) : State :=
  if pcFailed s pc then s
  else { s with
    mem := { s.mem with hbm := Memory.write zeroFill s.mem.hbm (hbmKey pc a) b }
    hbm := { s.hbm with marks := s.hbm.marks.set .clean (pc * 2 ^ 27 + a / 8) .clean } }

/-- A byte written to every copy of a window (R216, R217). -/
def winWrite (s : State) (w x : Nat) (b : Byte) : State :=
  let (pc, a) := winAddr s w x
  let s := hbmPut s pc a b
  if winMirror s w then hbmPut s (pc ^^^ 32) a b else s

/-- `n` bytes of a window from offset `x` on. -/
def winReadBytes (s : State) (w x : Nat) : Nat → List Byte
  | 0 => []
  | n + 1 => winRead s w x :: winReadBytes s w (x + 1) n

/-- Bytes written to a window from offset `x` on. -/
def winWriteBytes (s : State) (w x : Nat) : List Byte → State
  | [] => s
  | b :: bs => winWriteBytes (winWrite s w x b) w (x + 1) bs

/-- A byte of a design-memory target (R178): tile RAM of (d, p), a window, or the exchange RAM. -/
def targetByte (s : State) (d p target window x : Nat) : Byte :=
  match target with
  | 0 => Memory.read zeroFill s.mem.tram ((d * 64 + p) * 524288 + x)
  | 1 => winRead s window x
  | _ => Memory.read marchFill s.mem.exr x

/-- A byte of a design-memory target as a READ sees it: a word of the exchange RAM that port B has written in the same clock
gives its value before (R204). -/
def seenByte (s : State) (d p target window x : Nat) : Byte :=
  match (if target = 2 then s.mem.before.find? (fun e => !e.1 && e.2.1 = x / 8) else none) with
  | some e => e.2.2.getD (x % 8) 0
  | none => targetByte s d p target window x

/-- A byte written to a design-memory target. -/
def setTargetByte (s : State) (d p target window x : Nat) (b : Byte) : State :=
  match target with
  | 0 => { s with mem := { s.mem with tram := Memory.write zeroFill s.mem.tram ((d * 64 + p) * 524288 + x) b } }
  | 1 => winWrite s window x b
  | _ => { s with mem := { s.mem with exr := Memory.write marchFill s.mem.exr x b } }

/-- `w` bits of a target from bit `b` on, as a number. -/
def targetRead (s : State) (d p target window b : Nat) : Nat → Nat
  | 0 => 0
  | w + 1 =>
    b2n ((seenByte s d p target window (b / 8)).toNat.testBit (b % 8)) + 2 * targetRead s d p target window (b + 1) w

/-- `w` bits of `v` written to a target from bit `b` on. -/
def targetWrite (s : State) (d p target window b v : Nat) : Nat → State
  | 0 => s
  | w + 1 =>
    let o := (targetByte s d p target window (b / 8)).toNat
    targetWrite (setTargetByte s d p target window (b / 8) (BitVec.ofNat 8 (setBit o (b % 8) (v.testBit 0))))
      d p target window (b + 1) (v / 2) w

end Sys2Proof.Machine
end

