-- ==== Sys2Proof/Machine/Flags.lean ====
section
/-! DEFINITION. Flags: hold sources in force (R119, R143), Schedule Fault reports (R169 to R173), the fault log
(R493), bad votes (R24, R471) and freezing (R116, R126, R127). -/

namespace Sys2Proof.Machine

/-! ### Hold sources -/

/-- Source `n` is in force (R119). -/
def sourceOn (s : State) (n : Nat) : Bool := (getF s F.ARY_HOLD_STATUS_SOURCE).testBit n

/-- Source `n` comes into force: its bit of ARY_HOLD_STATUS, its event bit and its episode count (R119, R143). -/
def raiseSource (s : State) (n : Nat) : State :=
  if sourceOn s n then s
  else
    bumpF (setFBit (setFBit s F.ARY_HOLD_STATUS_SOURCE n true) F.ARY_HOLD_EVENTS_SEEN n true)
      (F.ARY_SRC_EPISODES_COUNT n) 1

/-- Source `n` is no longer in force. -/
def clearSource (s : State) (n : Nat) : State := setFBit s F.ARY_HOLD_STATUS_SOURCE n false

/-- HELD while any die is frozen, RUNNING otherwise, for a machine that executes (R30). -/
def showHeld (s : State) : State :=
  if executing s then setF s F.ARY_STATE_STATE (if anyFrozen s then 3 else 2) else s

/-- The step-count differences of ARY_SKEW_MAX after a freeze (R127, R134): between the frozen dies of the device, and from
the lowest frozen step count of the machine, as its HOLD blocks have named it. -/
def noteSkew (s : State) : State :=
  let fr := dieList.filter (fun d => s.dies[d].frozen)
  let hi := fr.foldl (fun m d => max m s.dies[d].sigma) 0
  let lo := fr.foldl (fun m d => min m s.dies[d].sigma) (sigmaMax s)
  let one := match s.holds.remoteMin with | some m => min m lo | none => lo
  let s := setF s F.ARY_SKEW_MAX_DEVICE (max (getF s F.ARY_SKEW_MAX_DEVICE) (saturate 16 (hi - lo)))
  setF s F.ARY_SKEW_MAX_MACHINE (max (getF s F.ARY_SKEW_MAX_MACHINE) (saturate 16 (hi - one)))

/-- The mark, among a die's executed units, of a boundary step whose action has been made (R20). -/
abbrev boundaryKey : Nat := 2 ^ 30

/-- A bad vote of the device waits for its restore (R119, R471): source 9 is in force once a die is frozen. -/
def badVoteHeld (s : State) : Bool :=
  match s.run.replay with
  | some r => !r.restored
  | none => false

/-- Die `d` freezes at its step count: nothing of the step under way lands (R116, R126). -/
def freezeDie (s : State) (d : Fin 4) : State :=
  let s := onDie s d (fun x => { x with
    frozen := true, freezeAt := none
    stage := { Stage.empty with done := x.stage.done.filter (fun k => k = boundaryKey) } })
  let s := setF s (F.ARY_FROZEN_STEP_SIGMA d) s.dies[d].sigma
  let s := setFBit s F.ARY_HOLD_STATUS_DIE_FROZEN d true
  let s := { s with holds := { s.holds with frozenSteps := 0, resuming := none, release := none } }
  let s := if badVoteHeld s then raiseSource s 9 else s
  showHeld (noteSkew (setB s F.ARY_HOLD_STATUS_RESUMING false))

/-- Die `d` is released (R116, R131). -/
def releaseDie (s : State) (d : Fin 4) : State :=
  let s := onDie s d (fun x => { x with frozen := false, late := [], freezeAt := none })
  showHeld (setFBit s F.ARY_HOLD_STATUS_DIE_FROZEN d false)

/-- Die `d` meets late items (R126): it freezes without executing the step, and their sources come into force. -/
def freezeLate (s : State) (d : Fin 4) (items : List LateItem) : State :=
  let s := freezeDie s d
  let s := onDie s d (fun x => { x with late := items })
  items.foldl (fun t i => raiseSource t i.source) s

/-! ### The fault log (R493) -/

/-- The four bytes of a log or report record from byte `4 w` on. -/
def recordWord (bs : List Byte) (w : Nat) : Nat := leAt bs (4 * w) 4

/-- Eight words written to a family of eight registers of 32 bits. -/
def writeWords (s : State) (f : Nat → Fld) (bs : List Byte) : State :=
  (List.range 8).foldl (fun t w => setF t (f w) (recordWord bs w)) s

/-- A record written to the fault log: the ring of 256 (R493). -/
def logRecord (s : State) (bs : List Byte) : State :=
  let i := getF s F.FLT_LOG_INDEX_NEXT
  let lost := getF s ((F.FLT_LOG_DATA_BYTES 0).bank i) % 256 ≠ 0
  let s := writeWords s (fun w => (F.FLT_LOG_DATA_BYTES w).bank i) bs
  let s := if lost then setB s F.FLT_STATUS_LOG_WRAPPED true else s
  setF s F.FLT_LOG_INDEX_NEXT (i + 1)

/-- The 32 bytes of a log record (R493); `0xFF` and `0xFFFF` stand for none. -/
def logBytes (type die phys cluster tilePos lp memory sigma cycle detail : Nat) : List Byte :=
  leBytes 1 type ++ leBytes 1 die ++ leBytes 1 phys ++ leBytes 1 cluster ++ leBytes 2 tilePos ++ leBytes 1 lp ++
    leBytes 1 memory ++ leBytes 8 sigma ++ leBytes 8 cycle ++ leBytes 4 detail ++ leBytes 4 0

/-! ### Schedule Faults -/

/-- The 32 bytes of a report record (R171). -/
def reportBytes (s : State) (f : SFault) (others : Nat) : List Byte :=
  leBytes 2 f.code ++ leBytes 1 f.die ++ leBytes 1 (position s) ++ leBytes 2 f.tilePos ++ leBytes 1 f.cluster ++
    leBytes 1 f.unit ++ leBytes 8 f.sigma ++ leBytes 8 f.cycle ++ leBytes 4 f.detail ++
    leBytes 2 (saturate 16 others) ++ leBytes 2 0

/-- Fault `a` is reported before fault `b` (R173): lowest cycle, lowest step count, lowest die with the hub last. -/
def sfBefore (a b : SFault) : Bool :=
  a.cycle < b.cycle || (a.cycle = b.cycle && (a.sigma < b.sigma || (a.sigma = b.sigma && a.die < b.die)))

/-- The fault that the device reports: the first in the order of R173 and, within a die, of detection order. -/
def chooseSF : List SFault → Option SFault
  | [] => none
  | f :: fs => match chooseSF fs with
    | none => some f
    | some g => if sfBefore g f then some g else some f

/-- The device records Schedule Faults found in one step, in the order of R73, R112 and R185 (R171, R173). -/
def recordSF (s : State) (fs : List SFault) : State :=
  if fs = [] then s
  else
    let all := s.run.sfaults ++ fs
    let s := { s with run := { s.run with sfaults := all } }
    let s := setB s F.FLT_STATUS_SCHED true
    match chooseSF all with
    | none => s
    | some f => writeWords s F.FLT_SF_BYTES (reportBytes s f ((all.filter (fun g => g.sigma = f.sigma)).length - 1))

/-! ### Bad votes -/

/-- The vote of die `d` for cycle `c` becomes bad (R24). -/
def voteBad (s : State) (d : Fin 4) (c : Nat) : State :=
  { s with run := { s.run with votes := s.run.votes.set none (c * 4 + d) (some false) } }

/-- A Schedule Fault on die `d` (R24, R29, R140): the vote of its cycle becomes bad, nothing of the step under way
lands, and the die executes no further step until the machine halts.  No source of R119 comes into force for it. -/
def raiseSF (s : State) (d : Fin 4) (fs : List SFault) : State :=
  if fs = [] then s
  else
    let s := fs.foldl (fun t f => voteBad t d f.cycle) (recordSF s fs)
    onDie s d (fun x => { x with
      faulted := true, stage := { Stage.empty with done := x.stage.done.filter (fun k => k = boundaryKey) } })

/-- Tile faults within the last second, with one more at `now` (R478). -/
def recentTimes (now : Nat) (ts : List Nat) : List Nat := (ts.filter (fun t => now < t + 1000000000)) ++ [now]

/-- The cycle to which a fault of R24 other than a Schedule Fault is charged (R24): the cycle of the die's step count,
and the one after it once the die has cast a good vote for that one (DESIGN CHOICE: the spec charges only Schedule Faults
to a cycle whose good vote is cast). -/
def chargedCycle (s : State) (d : Fin 4) : Nat :=
  let c := cycleOf s s.dies[d].sigma
  if c < s.run.nextCommit || s.run.votes.get none (c * 4 + d) == some (some true) then c + 1 else c

/-- A fault of R24 other than a Schedule Fault is found on die `d`: it is logged and, where it is charged to a tile,
counted as a tile fault (R76, R113, R470, R478). -/
def noteFault (s : State) (d : Fin 4) (f : FaultNote) : State :=
  let x := s.dies[d]
  let phys := if f.tilePos = 0xFFFF then 0xFF else physTile x f.tilePos
  let s := logRecord s (logBytes f.type d phys f.cluster f.tilePos f.lp f.memory x.sigma (chargedCycle s d) f.detail)
  if f.tilePos = 0xFFFF then s
  else onDie s d (fun x => { x with tileFaults := x.tileFaults.modify [] phys (recentTimes (timeNs s)) })

/-- A fault of R24 other than a Schedule Fault makes the vote of the cycle that it is charged to bad at once: the device
is in a recovery, and the die freezes with source 9 at the next step (R471). -/
def badNow (s : State) (d : Fin 4) : State :=
  let c := chargedCycle s d
  let s := voteBad s d c
  let s := set64 s F.FLT_REPLAY_CYCLE_LO_CYCLE F.FLT_REPLAY_CYCLE_HI_CYCLE c
  let s := setB s F.FLT_STATUS_REPLAYING true
  let s := { s with run := { s.run with replay := match s.run.replay with
    | none => some ⟨c, false, none, anyFrozen s⟩
    | some r => some { r with cycle := min r.cycle c, restored := false } } }
  let s := if anyFrozen s then raiseSource s 9 else s
  onDie s d (fun x => { x with freezeAt := some (match x.freezeAt with
    | none => x.sigma + 1
    | some a => min a (x.sigma + 1)) })

/-- Faults found on die `d` in one step, and their bad vote. -/
def noteFaults (s : State) (d : Fin 4) (fs : List FaultNote) : State :=
  if fs = [] then s else badNow (fs.foldl (fun t f => noteFault t d f) s) d

end Sys2Proof.Machine
end

