-- ==== Sys2Proof/Machine/Array.lean ====
section
/-! DEFINITION. The units of the array: logic processors (R42 to R78), port sequencers (R79 to R115) and memory
ports (R178 to R195), each as what it finds and what it does in the step under way. -/

namespace Sys2Proof.Machine

/-- What a unit does in a step: the Schedule Fault it raises, the late items it meets, the faults it finds, how many
words it corrects and what lands at the end of the step. -/
structure UnitOut where
  sf : Option SFault
  late : List LateItem
  faults : List FaultNote
  corrected : Nat
  stage : Stage
  deriving DecidableEq, Repr

/-- A unit that does nothing. -/
def UnitOut.idle : UnitOut := ⟨none, [], [], 0, Stage.empty⟩

/-- Two stages together, the first having landed first. -/
def Stage.both (a b : Stage) : Stage :=
  ⟨a.window ++ b.window, a.slots ++ b.slots, a.latches ++ b.latches, a.lanes ++ b.lanes, a.addrs ++ b.addrs,
    a.datas ++ b.datas, a.reads ++ b.reads, a.writes ++ b.writes, a.taken ++ b.taken, a.done ++ b.done⟩

/-- A Schedule Fault of a unit in the step that die `d` is at. -/
def sfHere (s : State) (d : Fin 4) (p n unit code detail : Nat) : SFault :=
  ⟨code, d, p, n, unit, s.dies[d].sigma, s.dies[d].cycle, detail⟩

/-- DETAIL of an operand fault (R172): SEND number, field, address. -/
def opndDetail (k field a : Nat) : Nat := k * 2 ^ 16 + field * 2 ^ 13 + a % 2 ^ 13

/-- An operand that a unit reads: SEND number, field code and address (R172). -/
structure OpndUse where
  k : Nat
  field : Nat
  addr : Nat
  deriving DecidableEq, Repr

/-- The operand's state; an address above 0x1FFF counts as reserved (R184). -/
def useRead (s : State) (d : Fin 4) (p n : Nat) (u : OpndUse) : Opnd :=
  if 0x1FFF < u.addr then .reserved else readOpnd s d p n u.addr

/-- The first reserved operand of a list, as a fault (R54). -/
def reservedFault (s : State) (d : Fin 4) (p n unit : Nat) (us : List OpndUse) : Option SFault :=
  (us.find? (fun u => useRead s d p n u = .reserved)).map
    (fun u => sfHere s d p n unit 0x04 (opndDetail u.k u.field u.addr))

/-- The first operand of a list that names a slot not written in this cycle, as a fault (R62). -/
def staleFault (s : State) (d : Fin 4) (p n unit : Nat) (us : List OpndUse) : Option SFault :=
  (us.find? (fun u => useRead s d p n u = .stale)).map
    (fun u => sfHere s d p n unit 0x07 (opndDetail u.k u.field u.addr))

/-- The absent memory-read bits of a list of operands (R65). -/
def lateOpnds (s : State) (d : Fin 4) (p n unit index : Nat) (us : List OpndUse) : List LateItem :=
  us.filterMap (fun u => match useRead s d p n u with
    | .absent b => some ⟨0, p, n, unit, index, b⟩
    | _ => none)

/-- Uncorrectable operand groups (R71, R74) of a list of reads, as faults of memory 3. -/
def opndFaults (p n lp : Nat) (os : List Opnd) : List FaultNote :=
  if os.any (fun o => match o with | .val _ _ .uncorrectable => true | _ => false) then [⟨3, 3, p, n, lp, 0⟩] else []

/-- Corrected operand groups of a list of reads (R71). -/
def opndCorrected (os : List Opnd) : Nat :=
  (os.filter (fun o => match o with | .val _ _ .corrected => true | _ => false)).length

/-- A window entry read with equal rails, or an output with equal rails: one dual-rail fault of the LP (R60, R75). -/
def dualFault (p n lp : Nat) (bad : Bool) : List FaultNote := if bad then [⟨1, 0xFF, p, n, lp, 0⟩] else []

/-- Some operand read found equal rails (R60). -/
def anyMismatch (os : List Opnd) : Bool := os.any (fun o => match o with | .val _ m _ => m | _ => false)

/-! ### Logic processors -/

/-- The OP of an instruction word (R44). -/
def opField (w : Nat) : Nat := bitsOf w 60 4

/-- The operand addresses of an instruction word with their field codes, `k` of them (R44, R172). -/
def lpUses (w k : Nat) : List OpndUse :=
  [⟨0, 0, bitsOf w 39 13⟩, ⟨0, 1, bitsOf w 26 13⟩, ⟨0, 2, bitsOf w 13 13⟩, ⟨0, 3, bitsOf w 0 13⟩].take k

/-- The key of LP `j` among the units of a die. -/
def lpKey (p n j : Nat) : Nat := (p * 32 + n) * 128 + j

/-- What an LP finds in its fetched word (R43, R72): the word as executed, its OP a NOP where it is uncorrectable. -/
def lpFetch (s : State) (d : Fin 4) (p n j : Nat) : Nat × Ecc :=
  let t := stepOf s s.dies[d].sigma
  let e := eccOf s.dies[d] 0 p ((n * 1024 + t) * 64 + j)
  (if e = .uncorrectable then 0 else lpWord s d p n t j, e)

/-- The two window writes of an LP (R57, R75): each rail of an output comes from its own read path and look-up, `tr` for
the true rail and `co` for the complement rail, with the rail upsets that strike it. -/
def lpWrites (t p n j : Nat) (tr co : Bool × Bool) (flips : BitVec 4) : List (Nat × Rail) :=
  let base := (p * 32 + n) * 2048
  [(base + windowAddr t j 0, ⟨xor tr.1 flips[0], xor (!co.1) flips[1]⟩),
   (base + windowAddr t j 1, ⟨xor tr.2 flips[2], xor (!co.2) flips[3]⟩)]

/-- The outputs of a function pair at an index (R50). -/
def evalPair (entry i : Nat) : Bool × Bool := (entry.testBit i, entry.testBit (16 + i))

/-- The truth-table index that four operand values form, OPA first (R50). -/
def evalIndex : List Bool → Nat
  | [a, b, c, dd] => 8 * b2n dd + 4 * b2n c + 2 * b2n b + b2n a
  | _ => 0

/-- The faults that operand reads show, and the groups that they correct (R60, R71, R74). -/
def readNotes (p n lp : Nat) (os : List Opnd) : List FaultNote × Nat :=
  (opndFaults p n lp os ++ dualFault p n lp (anyMismatch os), opndCorrected os)

/-- A unit that a Schedule Fault of operands stops (R72, R74, R111): what its reads show is recorded all the same. -/
def sfOut (f : SFault) (faults : List FaultNote) (corrected : Nat) (notes : List FaultNote × Nat) : UnitOut :=
  { UnitOut.idle with sf := some f, faults := faults ++ notes.1, corrected := corrected + notes.2 }

/-- The outputs of an OP on the operand values of one read path (R45, R50). -/
def lpOutputs (op entry : Nat) (vs : List Bool) : Bool × Bool :=
  if op = 1 then evalPair entry (evalIndex vs) else (vs.getD 0 false, vs.getD 1 false)

/-- What an LP does with operands read: faults, corrections and writes, each rail by its own path (R75). -/
def lpFinish (s : State) (d : Fin 4) (p n j : Nat) (os : List Opnd) (op entry : Nat) (extra : List FaultNote)
    (corrected : Nat) (flips : BitVec 4) : UnitOut :=
  let ws := lpWrites (stepOf s s.dies[d].sigma) p n j (lpOutputs op entry (os.map Opnd.value))
    (lpOutputs op entry (os.map Opnd.comp)) flips
  let bad := anyMismatch os || ws.any (fun w => w.2.t == w.2.c)
  { UnitOut.idle with
    faults := extra ++ opndFaults p n j os ++ dualFault p n j bad
    corrected := corrected + opndCorrected os
    stage := { Stage.empty with window := ws, done := [lpKey p n j] } }

/-- What LP `j` does in the step its die is at (R72): `flips` are the rail upsets that strike its outputs. -/
def lpOut (s : State) (d : Fin 4) (p n j : Nat) (flips : BitVec 4) : UnitOut :=
  let (w, e) := lpFetch s d p n j
  let ce := if e = .corrected then 1 else 0
  let op := opField w
  if e = .uncorrectable then
    { UnitOut.idle with faults := [⟨3, 0, p, n, j, 0⟩], stage := { Stage.empty with done := [lpKey p n j] } }
  else if op = 0 then
    { UnitOut.idle with corrected := ce, stage := { Stage.empty with done := [lpKey p n j] } }
  else if 2 < op then { UnitOut.idle with sf := some (sfHere s d p n j 0x05 op), corrected := ce }
  else
    let us := lpUses w (if op = 1 then 4 else 2)
    let fidx := bitsOf w 52 8
    let fe := eccOf s.dies[d] 2 p fidx
    let (entry, valid) := funcPair s d p fidx
    let entry := if fe = .uncorrectable then 0 else entry
    let invalid := op = 1 ∧ fe ≠ .uncorrectable ∧ valid = false
    let ce := ce + (if op = 1 ∧ fe = .corrected then 1 else 0)
    let ff := if op = 1 ∧ fe = .uncorrectable then [⟨3, 2, p, n, j, 0⟩] else []
    let os := us.map (useRead s d p n)
    if invalid then { UnitOut.idle with sf := some (sfHere s d p n j 0x06 fidx), corrected := ce }
    else match reservedFault s d p n j us with
      | some f => sfOut f ff ce (readNotes p n j os)
      | none => match staleFault s d p n j us with
        | some f => sfOut f ff ce (readNotes p n j os)
        | none =>
          let late := lateOpnds s d p n j j us
          if late ≠ [] then { UnitOut.idle with late := late, corrected := ce }
          else lpFinish s d p n j os op entry ff ce flips

/-! ### Port sequencers -/

/-- The fetched PS word, all EN clear where a half is uncorrectable (R80), with how its halves read. -/
def psFetch (s : State) (d : Fin 4) (p n : Nat) : Nat × Ecc × Ecc :=
  let t := stepOf s s.dies[d].sigma
  let e0 := eccOf s.dies[d] 1 p ((n * 1024 + t) * 2)
  let e1 := eccOf s.dies[d] 1 p ((n * 1024 + t) * 2 + 1)
  (if e0 = .uncorrectable ∨ e1 = .uncorrectable then 0 else psWord s d p n t, e0, e1)

/-- The operands of the enabled SENDs and LATCH of a PS word, with their codes (R172). -/
def psUses (w : Nat) : List OpndUse :=
  ((List.range 4).filterMap (fun k =>
    let f := sendField w k
    if f.1 then some ⟨k, 4, f.2⟩ else none)) ++
  (let f := latchField w
   if f.1 then [⟨0, 5, f.2.1⟩] else [])

/-- The enabled RECVs of a PS word with their numbers. -/
def psRecvs (s : State) (d w : Nat) : List (Nat × RecvField) :=
  (List.range 4).filterMap (fun k =>
    let f := recvField s d w k
    if f.en then some (k, f) else none)

/-- A local lane delivers nothing to a RECV of this step (R96). -/
def undrivenLocal (s : State) (d : Fin 4) (lane : Nat) : Bool :=
  let t := stepOf s s.dies[d].sigma
  t < 4 || (boundTile s d (lane / 128)).isNone || activePositions s ≤ lane / 128 ||
    (s.dies[d].lanes.get none ((t - 4) * 8192 + lane)).isNone

/-- A RECV's lane is reserved, disabled or undriven (R91, R96, R110). -/
def undriven (s : State) (d : Fin 4) (lane : Nat) : Bool :=
  if 0x3000 ≤ lane then true
  else if 0x2000 ≤ lane then !(s.dies[d].enables.get false (lane - 0x2000))
  else undrivenLocal s d lane

/-- What a RECV finds in a channel's buffer (R105). -/
inductive ChanFind where
  | entry (e : ChanEntry)
  | late
  /-- the newest tag found -/
  | early (tag : Nat)
  deriving DecidableEq, Repr

/-- The newest of the tags of a list, counted from `e` on. -/
def newestTag (m e : Nat) (ts : List Nat) : Nat :=
  ts.foldl (fun b t => if (b + m - e) % m < (t + m - e) % m then t else b) e

/-- The buffer of channel `k` as a RECV of this step finds it (R105, R108). -/
def chanFind (x : Die) (k : Nat) : ChanFind :=
  let m := tagSpace k
  let e := expectedTag x k x.sigma
  let es := x.chans.get [] k
  match es.find? (fun c => c.tag = e) with
  | some c => .entry c
  | none =>
    let newer := es.filter (fun c => tagNewer m e c.tag)
    if newer = [] then .late else .early (newestTag m e (newer.map ChanEntry.tag))

/-- The value that a RECV takes in this step, where its lane delivers one (R88). -/
def recvValue (s : State) (d : Fin 4) (lane : Nat) : Option Bool :=
  let x := s.dies[d]
  if 0x2000 ≤ lane then
    match chanFind x (lane - 0x2000) with
    | .entry e => some e.val
    | _ => none
  else x.lanes.get none ((stepOf s x.sigma - 4) * 8192 + lane)

/-- The first condition of R111 that a PS word meets: a Schedule Fault or late items, or neither.  Where several fields of
the word meet one condition, the fault names the first of SEND0 to SEND3 and LATCH, or the lowest RECV (DESIGN CHOICE: R111
and R172 do not say which). -/
def psCheck (s : State) (d : Fin 4) (p n : Nat) : Option SFault × List LateItem :=
  let (w, _, _) := psFetch s d p n
  let x := s.dies[d]
  let us := psUses w
  let rs := psRecvs s d w
  let lf := latchField w
  match reservedFault s d p n 0x40 us with
  | some f => (some f, [])
  | none => match staleFault s d p n 0x40 us with
    | some f => (some f, [])
    | none => match rs.find? (fun r => undriven s d r.2.lane) with
      | some r => (some (sfHere s d p n 0x40 0x01 (r.1 * 2 ^ 16 + r.2.lane)), [])
      | none =>
        match rs.filterMap (fun r => if r.2.lane < 0x2000 then none else
            match chanFind x (r.2.lane - 0x2000) with
            | .early tag => some (tag, r.2.lane)
            | _ => none) with
        | (tag, lane) :: _ => (some (sfHere s d p n 0x40 0x03 (tag * 2 ^ 16 + lane)), [])
        | [] => match if lf.1 then x.pendLatch.get none (idx (p * 32 + n) 2048 lf.2.2) else none with
          | some (_, t) => (some (sfHere s d p n 0x40 0x08 (t * 2 ^ 16 + lf.2.2)), [])
          | none =>
            (none, lateOpnds s d p n 0x40 0 us ++ rs.filterMap (fun r =>
              if r.2.lane < 0x2000 then none else match chanFind x (r.2.lane - 0x2000) with
                | .late => some ⟨if r.2.lane < 0x2C00 then 1 else 2, p, n, 0x40, r.1, r.2.lane⟩
                | _ => none))

/-- The key of a PS field among the units of a die: 0 to 3 SEND, 4 to 7 RECV, 8 LATCH. -/
def psKey (p n f : Nat) : Nat := (p * 32 + n) * 128 + 64 + f

/-- What an enabled SENDk drives (R86), with the faults its operand shows and a parity mismatch of its lane's group
at a stage, if one strikes (R113). -/
def sendOut (s : State) (d : Fin 4) (p n k : Nat) (parity : Option (BitVec 4)) : UnitOut :=
  let (w, _, _) := psFetch s d p n
  let f := sendField w k
  if f.1 then
    let o := readOpnd s d p n f.2
    let lane := laneOf p n k
    { UnitOut.idle with
      faults := opndFaults p n 0xFF [o] ++ dualFault p n 0xFF (anyMismatch [o]) ++
        (match parity with
         | some st => [⟨2, 0xFF, 0xFFFF, 0xFF, 0xFF, lane / 16 + st.toNat * 2 ^ 16⟩]
         | none => [])
      corrected := opndCorrected [o]
      stage := { Stage.empty with lanes := [(lane, o.value)], done := [psKey p n k] } }
  else { UnitOut.idle with stage := { Stage.empty with done := [psKey p n k] } }

/-- What an enabled RECVk writes (R88); a RECV of the word with a higher number and the same slot displaces it
(R90). -/
def recvOut (s : State) (d : Fin 4) (p n k : Nat) : UnitOut :=
  let (w, _, _) := psFetch s d p n
  let f := recvField s d w k
  let mark := { Stage.empty with done := [psKey p n (4 + k)] }
  if f.en then
    let beaten := (psRecvs s d w).any (fun r => k < r.1 && r.2.slot == f.slot)
    let taken := if 0x2000 ≤ f.lane then [f.lane - 0x2000] else []
    { UnitOut.idle with stage := { mark with
        taken := taken
        slots := match recvValue s d f.lane with
          | some v => if beaten then [] else [(idx (p * 32 + n) 1024 f.slot, v)]
          | none => [] } }
  else { UnitOut.idle with stage := mark }

/-- What an enabled LATCH records (R92). -/
def latchOut (s : State) (d : Fin 4) (p n : Nat) : UnitOut :=
  let (w, _, _) := psFetch s d p n
  let f := latchField w
  let mark := { Stage.empty with done := [psKey p n 8] }
  if f.1 then
    let o := readOpnd s d p n f.2.1
    { UnitOut.idle with
      faults := opndFaults p n 0xFF [o] ++ dualFault p n 0xFF (anyMismatch [o])
      corrected := opndCorrected [o]
      stage := { mark with latches := [(idx (p * 32 + n) 2048 f.2.2, o.value)] } }
  else { UnitOut.idle with stage := mark }

/-- Two unit outcomes together. -/
def UnitOut.both (a b : UnitOut) : UnitOut :=
  ⟨match a.sf with | some f => some f | none => b.sf, a.late ++ b.late, a.faults ++ b.faults,
    a.corrected + b.corrected, a.stage.both b.stage⟩

/-- The errors of a PS fetch (R80): corrections counted, an uncorrectable half a fault of memory 1. -/
def psEccOut (s : State) (d : Fin 4) (p n : Nat) : UnitOut :=
  let (_, e0, e1) := psFetch s d p n
  { UnitOut.idle with
    corrected := (if e0 = .corrected then 1 else 0) + (if e1 = .corrected then 1 else 0)
    faults := if e0 = .uncorrectable ∨ e1 = .uncorrectable then [⟨3, 1, p, n, 0xFF, 0⟩] else [] }

/-- What a PS word's fields do, those already done left out (R111). -/
def psOut (s : State) (d : Fin 4) (p n : Nat) (done : Nat → Bool) : UnitOut :=
  let chk := psCheck s d p n
  let ecc := psEccOut s d p n
  match chk with
  | (some f, _) => sfOut f ecc.faults ecc.corrected
      (readNotes p n 0xFF ((psUses (psFetch s d p n).1).map (useRead s d p n)))
  | (none, l :: ls) => { ecc with late := l :: ls }
  | (none, []) =>
    let sends := (List.range 4).filterMap (fun k => if done (psKey p n k) then none else some (sendOut s d p n k none))
    let recvs := (List.range 4).filterMap (fun k =>
      if done (psKey p n (4 + k)) then none else some (recvOut s d p n k))
    let latch := if done (psKey p n 8) then [] else [latchOut s d p n]
    (sends ++ recvs ++ latch).foldl UnitOut.both ecc

/-! ### Memory ports -/

/-- The key of a memory port among the units of a die. -/
def portKey (p m : Nat) : Nat := 0x40000 + p * 16 + m

/-- The operation of the word that memory port `m` fetches for this step: none where the port does not execute
(R162, R179); NOP for an uncorrectable word (R180) and for OP 5 to 7 (R182). -/
def portFetch (s : State) (d : Fin 4) (p m : Nat) : Option (Nat × Nat × Ecc) :=
  let t := stepOf s s.dies[d].sigma
  let eb := eccOf s.dies[d] 5 p (0x4000 + m)
  if (portBinding s d p m).en ∧ eb ≠ .uncorrectable then
    let e := eccOf s.dies[d] 5 p (m * 1024 + t)
    let w := if e = .uncorrectable then 0 else schedWord s d p m t
    let op := bitsOf w 29 3
    some (if 4 < op then 0 else op, w, e)
  else none

/-- The operands of a gather (R182, R183): field code 6 for an address, 7 for data (R184). -/
def gatherUses (op w : Nat) : List OpndUse :=
  let src := bitsOf w 11 13
  let count := (if op = 1 then bitsOf w 0 5 else bitsOf w 2 5) + 1
  (List.range count).map (fun i => ⟨0, if op = 1 then 6 else 7, src + i⟩)

/-- A register with `bs` written from bit `lo` on, bits at `lim` or above discarded (R183). -/
def gatherInto (lim r lo : Nat) : List Bool → Nat
  | [] => r
  | b :: bs => gatherInto lim (if lo < lim then setBit r lo b else r) (lo + 1) bs

/-- What memory port `m` does in the step its die is at (R179 to R190). -/
def portOut (s : State) (d : Fin 4) (p m : Nat) : UnitOut :=
  let x := s.dies[d]
  let t := stepOf s x.sigma
  let mark := { Stage.empty with done := [portKey p m] }
  match portFetch s d p m with
  | none => { UnitOut.idle with
      stage := mark
      faults := if (portBinding s d p m).en then [⟨3, 5, p, 0xFF, 0xFF, 0⟩] else [] }
  | some (op, w, e) =>
    let base : UnitOut := { UnitOut.idle with
      stage := mark
      corrected := if e = .corrected then 1 else 0
      faults := if e = .uncorrectable then [⟨3, 5, p, 0xFF, 0xFF, 0⟩] else [] }
    let pb := portBinding s d p m
    let a := x.portAddr.get 0 (p * 16 + m)
    let dat := x.portData.get 0 (p * 16 + m)
    if op = 1 ∨ op = 2 then
      let n := bitsOf w 24 5
      let us := gatherUses op w
      let os := us.map (useRead s d p n)
      let notes := readNotes p n 0xFF os
      match reservedFault s d p n 0x42 us with
      | some f => sfOut f base.faults base.corrected notes
      | none => match staleFault s d p n 0x42 us with
        | some f => sfOut f base.faults base.corrected notes
        | none =>
          let late := lateOpnds s d p n 0x42 m us
          if late ≠ [] then { base with late := late }
          else
            let vs := os.map Opnd.value
            { base with
              faults := base.faults ++ notes.1
              corrected := base.corrected + notes.2
              stage := if op = 1
                then { mark with addrs := [(p * 16 + m, gatherInto 40 a (bitsOf w 5 6) vs)] }
                else { mark with datas := [(p * 16 + m, gatherInto 512 dat (32 * bitsOf w 7 4) vs)] } }
    else if op = 3 ∨ op = 4 then
      let wd := bitsOf w 11 9 + 1
      let g := granule wd
      if targetBits s pb.target pb.window ≤ a * g + g - 1 then
        { base with sf := some (sfHere s d p 0xFF 0x42 0x09 (m * 2 ^ 10 + t)) }
      else if op = 3 then
        { base with stage := { mark with reads :=
            [⟨0, d, p, m, pb.target, pb.window, a * g, wd, pb.cluster, bitsOf w 20 9, x.sigma, x.cycle, 0, none, false⟩] } }
      else
        { base with stage := { mark with writes :=
            [⟨d, p, m, pb.target, pb.window, a * g, wd, dat % 2 ^ wd, x.sigma, x.cycle, false⟩] } }
    else base

/-! ### Isolated tiles -/

/-- The lanes that the border of an isolated tile drives in step `t` (R290): in the steps in which the SEND of the
PS word loaded at isolation is enabled, with the held or the constant value. -/
def borderLanes (s : State) (d : Fin 4) (p : Nat) (i : IsoTile) : List (Nat × Bool) :=
  let t := stepOf s s.dies[d].sigma
  (List.range 128).filterMap (fun l =>
    match i.border.get none l with
    | none => none
    | some (const, v) =>
      let w := if t < stepsS s then unitLe i.old d p (psOffset (stepsS s) (l / 4) t) 24 else 0
      if (sendField w (l % 4)).1 then
        some (p * 128 + l, if const then v else i.held.get false (t * 128 + l))
      else none)

/-! ### The whole step -/

/-- The unit has executed in the step under way. -/
def unitDone (s : State) (d : Fin 4) (k : Nat) : Bool := s.dies[d].stage.done.contains k

/-- The units of cluster `n` that have not executed in this step, LPs before the PS (R112). -/
def clusterOuts (s : State) (d : Fin 4) (p n : Nat) : List UnitOut :=
  ((List.range 64).filterMap (fun j => if unitDone s d (lpKey p n j) then none else some (lpOut s d p n j 0))) ++
    [psOut s d p n (unitDone s d)]

/-- The units of a tile that have not executed in this step, memory ports last (R185). -/
def tileOuts (s : State) (d : Fin 4) (p : Nat) : List UnitOut :=
  if tileRuns s d p then
    ((List.range 32).flatMap (fun n => clusterOuts s d p n)) ++
      ((List.range 16).filterMap (fun m => if unitDone s d (portKey p m) then none else some (portOut s d p m)))
  else match stoppedTile s d p with
    | some i => [{ UnitOut.idle with stage := { Stage.empty with lanes := borderLanes s d p i } }]
    | none => []

/-- Every unit of the die that has not executed in this step, in the order of reporting (R73, R112, R185). -/
def dieOuts (s : State) (d : Fin 4) : List UnitOut := (List.range 64).flatMap (fun p => tileOuts s d p)

/-- A value that a lane forwards (R100): lane, entry and value; an isolated tile uses the entry of its isolation. -/
def forwardsOf (s : State) (d : Fin 4) (lanes : List (Nat × Bool)) : List (Nat × CrossEntry × Bool) :=
  lanes.filterMap (fun l =>
    let p := l.1 / 128
    let e := match stoppedTile s d p with
      | some i => crossEntryIn s i.old d p (l.1 % 128)
      | none => crossEntry s d p (l.1 % 128)
    if e.en ∧ eccOf s.dies[d] 4 p (l.1 % 128) ≠ .uncorrectable then some (l.1, e, l.2) else none)

/-- Lanes whose crossing-table entry is uncorrectable: the entry is unused and the vote is bad (R468). -/
def crossFaults (s : State) (d : Fin 4) (lanes : List (Nat × Bool)) : List FaultNote :=
  lanes.filterMap (fun l =>
    if eccOf s.dies[d] 4 (l.1 / 128) (l.1 % 128) = .uncorrectable then some ⟨3, 4, l.1 / 128, 0xFF, 0xFF, 0⟩ else none)

/-- Two forwarded lanes use the same channel. -/
def sameChannel (a b : Nat × CrossEntry × Bool) : Bool :=
  a.2.1.link == b.2.1.link && a.2.1.doff == b.2.1.doff && a.2.1.chan == b.2.1.chan

/-- The lane `f` is the one that the fault of its channel names: the lowest of two or more (R112). -/
def namesChannel (fs : List (Nat × CrossEntry × Bool)) (f : Nat × CrossEntry × Bool) : Bool :=
  fs.any (fun b => f.1 ≠ b.1 && sameChannel f b) && !fs.any (fun b => decide (b.1 < f.1) && sameChannel f b)

/-- Two or more lanes forward onto one channel in one step (R102): a fault for each such channel, the lowest lane
first (R112). -/
def collisions (s : State) (d : Fin 4) (fs : List (Nat × CrossEntry × Bool)) : List SFault :=
  let fault := fun (f : Nat × CrossEntry × Bool) => sfHere s d (f.1 / 128) (f.1 % 128 / 4) 0x41 0x02
    (f.2.1.chan * 2 ^ 16 + f.2.1.doff * 2 ^ 14 + b2n f.2.1.link * 2 ^ 13 + f.1)
  let low := fun (rest : List SFault) (lane : Nat) => rest.filter (fun g => g.detail % 2 ^ 13 < lane)
  let high := fun (rest : List SFault) (lane : Nat) => rest.filter (fun g => lane < g.detail % 2 ^ 13)
  (fs.filter (namesChannel fs)).foldl (fun rest f => low rest f.1 ++ [fault f] ++ high rest f.1) []

/-- What a scheduled step of a die comes to before it lands: the outcomes of the units that have not executed, the stage
with theirs, the values forwarded, and the Schedule Faults and late items of the step. -/
structure StepFind where
  outs : List UnitOut
  stage : Stage
  forwards : List (Nat × CrossEntry × Bool)
  sfs : List SFault
  late : List LateItem

/-- The step that die `d` is at (R73, R102, R112, R185): every unit is examined, whatever another one finds. -/
def findStep (s : State) (d : Fin 4) : StepFind :=
  let outs := dieOuts s d
  let g := outs.foldl (fun g o => g.both o.stage) s.dies[d].stage
  let fs := forwardsOf s d g.lanes
  ⟨outs, g, fs, outs.filterMap UnitOut.sf ++ collisions s d fs, outs.flatMap UnitOut.late⟩

/-- The faults other than Schedule Faults that the units of a step find are recorded, and their corrections counted (R43,
R71, R76, R80, R180, R468). -/
def noteStep (s : State) (d : Fin 4) (f : StepFind) : State :=
  bumpF (noteFaults s d (f.outs.flatMap UnitOut.faults ++ crossFaults s d f.stage.lanes)) F.FLT_CE_TILE_COUNT
    ((f.outs.map UnitOut.corrected).foldl (· + ·) 0)

/-- A step that does not land (R73, R111, R116, R126): a Schedule Fault of any unit governs, after what the step has found
besides; otherwise late items freeze the die, and the step executes in full once it is released. -/
def stopStep (s : State) (d : Fin 4) (f : StepFind) : State :=
  if f.sfs ≠ [] then raiseSF (noteStep s d f) d f.sfs
  else if f.late ≠ [] then freezeLate s d f.late
  else s

/-- READs numbered from `rid` on. -/
def numberReads (rid : Nat) : List MRead → List MRead
  | [] => []
  | r :: rs => { r with rid := rid } :: numberReads (rid + 1) rs

/-- A READ's claim on its memory-read bits: presence cleared, the READ recorded (R66, R189). -/
def claimBits (x : Die) (r : MRead) : Die :=
  { x with mrd := (List.range r.width).foldl (fun m i =>
      SMap.modify ⟨false, false, none⟩ m (idx (r.tilePos * 32 + r.cluster) 512 ((r.dest + i) % 512))
        (fun b => { b with present := false, last := some r.rid })) x.mrd }

/-- The stage landed in the die's own stores (R55, R57, R88, R92, R95, R183). -/
def landDie (x : Die) (t : Nat) (g : Stage) : Die :=
  { x with
    window := g.window.foldl (fun m w => SMap.set ⟨false, true⟩ m w.1 w.2) x.window
    slots := g.slots.foldl (fun m w => SMap.set none m w.1 (some w.2)) x.slots
    pendLatch := g.latches.foldl (fun m w => SMap.set none m w.1 (some (w.2, t))) x.pendLatch
    lanes := g.lanes.foldl (fun m w => SMap.set none m (t * 8192 + w.1) (some w.2)) x.lanes
    portAddr := g.addrs.foldl (fun m w => SMap.set 0 m w.1 w.2) x.portAddr
    portData := g.datas.foldl (fun m w => SMap.set 0 m w.1 w.2) x.portData
    chans := g.taken.foldl (fun m k => SMap.modify [] m k (fun es =>
      es.map (fun c => if c.tag = expectedTag x k x.sigma then { c with taken := true } else c))) x.chans
    stage := Stage.empty }

/-- The values that the step forwards to other dies, with their step tags (R100, R103). -/
def crossFlights (d : Fin 4) (sigma : Nat) (fs : List (Nat × CrossEntry × Bool)) : List Flight :=
  fs.filterMap (fun f =>
    if f.2.1.link then none
    else some ⟨d, (d.val + f.2.1.doff) % 4, arrivalLane f.2.1.doff f.2.1.chan - 0x2000, sigma % 64, f.2.2, sigma⟩)

/-- A step of die `d` landed: its stage in the die and in the memory pipelines, its values on the crossings. -/
def landStep (s : State) (d : Fin 4) (g : Stage) (fs : List (Nat × CrossEntry × Bool)) : State :=
  let x := s.dies[d]
  let rs := numberReads s.mem.nextRid g.reads
  let s := setDie s d (rs.foldl claimBits (landDie x (stepOf s x.sigma) g))
  { s with mem := { s.mem with
      reads := s.mem.reads ++ rs
      nextRid := s.mem.nextRid + rs.length
      writes := s.mem.writes ++ g.writes
      flights := s.mem.flights ++ crossFlights d x.sigma fs } }

end Sys2Proof.Machine
end

