-- ==== Sys2Proof/Machine/ArrayUnits.lean ====
section
/-! DEFINITION. The commands of the array's units: EVAL, COPY, NOP (R45), SEND, RECV, LATCH (R86 to R93) and the
memory-port operations (R179 to R190).  Each runs one unit in the step that its die is at; what it does lands with the
step. -/

namespace Sys2Proof.Machine

/-- The step count at which the first cycle not to be begun starts, where a stop is in force (R32, R33, R383). -/
def stopSigma (s : State) : Option Nat :=
  let bs := (match s.run.run with
      | some r => (match r.target with | some b => [b] | none => [])
      | none => []) ++
    s.run.stops.map StopReq.boundary ++ (match s.run.asyStop with | some b => [b] | none => [])
  bs.foldl (fun m b => match m with
    | none => some ((b + 1) * cycleSteps s)
    | some x => some (min x ((b + 1) * cycleSteps s))) none

/-- Die `d` executes no further step for a Schedule Fault (R29): it met one itself, or another die met one at a lower
step count; a die that lags behind the fault runs on, so that the earlier cycles get its votes. -/
def pastFault (s : State) (d : Fin 4) : Bool :=
  s.dies[d].faulted || s.run.sfaults.any (fun f => f.sigma < s.dies[d].sigma)

/-- Die `d` executes no further step: it stands at a stop boundary (R32), or a Schedule Fault stops it (R29). -/
def atStop (s : State) (d : Fin 4) : Bool :=
  pastFault s d || match stopSigma s with
  | some x => x ≤ s.dies[d].sigma
  | none => false

/-- Sources of the announced holds whose target is the step that die `d` is at (R121). -/
def announcedHere (s : State) (d : Fin 4) : List Nat :=
  (s.holds.announced.filter (fun h => h.2 = s.dies[d].sigma)).map Prod.fst

/-- Die `d` is to freeze at the step it is at: an order or a bad vote names it, or an announced hold does (R121,
R128). -/
def mustFreeze (s : State) (d : Fin 4) : Bool :=
  (match s.dies[d].freezeAt with | some a => a ≤ s.dies[d].sigma | none => false) || announcedHere s d ≠ []

/-- Die `d` executes: the machine runs and the die is neither frozen, nor to freeze here, nor at a stop boundary. -/
def dieRuns (s : State) (d : Fin 4) : Bool :=
  executing s && !marchHolds s && !s.dies[d].frozen && !atStop s d && !mustFreeze s d && stepsS s != 0

/-- Die `d` is in a scheduled step (R14, R15). -/
def scheduled (s : State) (d : Fin 4) : Bool := dieRuns s d && stepOf s s.dies[d].sigma < stepsS s

/-- A unit's outcome taken by its die: where it is a Schedule Fault or late items, the die's whole step stops for what all
its units meet (R73, R112, R185); otherwise faults and corrections are recorded and the unit's writes wait for the end of
the step (R55, R72, R111, R126). -/
def takeOut (s : State) (d : Fin 4) (o : UnitOut) : State :=
  if o.sf.isSome || o.late ≠ [] then stopStep s d (findStep s d)
  else
    let s := bumpF (noteFaults s d o.faults) F.FLT_CE_TILE_COUNT o.corrected
    onDie s d (fun x => { x with stage := x.stage.both o.stage })

/-- A unit of tile position `p` runs now, where its die is in a scheduled step, its tile runs, `ok` holds of the
word it fetches and it has not run in this step. -/
def runUnit (s : State) (d : Fin 4) (p key : Nat) (ok : Bool) (o : UnitOut) : State :=
  if scheduled s d && tileRuns s d p && ok && !unitDone s d key then takeOut s d o else s

/-- EVAL (R45, R50): the LP looks its four operands up in its function pair and writes both outputs. -/
def execEval (d : Fin 4) (p : Fin 64) (n : Fin 32) (j : Fin 64) (flips : BitVec 4) (s : State) :
    Host.Outcome State Fault Refusal :=
  .next (runUnit s d p (lpKey p n j) (opField (lpFetch s d p n j).1 == 1) (lpOut s d p n j flips))

/-- COPY (R45): the LP writes the values of OPA and OPB. -/
def execCopy (d : Fin 4) (p : Fin 64) (n : Fin 32) (j : Fin 64) (flips : BitVec 4) (s : State) :
    Host.Outcome State Fault Refusal :=
  .next (runUnit s d p (lpKey p n j) (opField (lpFetch s d p n j).1 == 2) (lpOut s d p n j flips))

/-- NOP (R45, R78): the LP writes nothing; a reserved OP raises SF_BAD_OPCODE (R46). -/
def execNop (d : Fin 4) (p : Fin 64) (n : Fin 32) (j : Fin 64) (s : State) : Host.Outcome State Fault Refusal :=
  let op := opField (lpFetch s d p n j).1
  .next (runUnit s d p (lpKey p n j) (op == 0 || 2 < op) (lpOut s d p n j 0))

/-- A PS field's outcome under the check of its whole word (R111). -/
def psFieldOut (s : State) (d : Fin 4) (p n : Nat) (o : UnitOut) : UnitOut :=
  match psCheck s d p n with
  | (some f, _) => { UnitOut.idle with sf := some f }
  | (none, l :: ls) => { UnitOut.idle with late := l :: ls }
  | (none, []) => o

/-- A parity error entered for the group of a lane (R115): the TIME of the cycle's first, for each cycle and each of its
executions. -/
def noteParity (s : State) (d : Fin 4) (lane : Nat) : State :=
  let e := (timeNs s, cycleOf s s.dies[d].sigma, s.run.restores)
  onDie s d (fun x => { x with parityTimes := x.parityTimes.modify [] (lane / 16) (fun es =>
    let es := es.filter (fun g => e.1 < g.1 + 1000000000)
    if es.any (fun g => g.2 = e.2) then es else es ++ [e]) })

/-- SEND (R86): the PS drives its operand onto the lane of field `k`. -/
def execSend (d : Fin 4) (p : Fin 64) (n : Fin 32) (k : Fin 4) (parity : Option (BitVec 4)) (s : State) :
    Host.Outcome State Fault Refusal :=
  let en := (sendField (psFetch s d p n).1 k).1
  let t := runUnit s d p (psKey p n k) en (psFieldOut s d p n (sendOut s d p n k parity))
  .next (if unitDone t d (psKey p n k) && !unitDone s d (psKey p n k) && parity.isSome
    then noteParity t d (laneOf p n k) else t)

/-- RECV (R88): the PS takes the value that its lane delivers into a receive slot. -/
def execRecv (d : Fin 4) (p : Fin 64) (n : Fin 32) (k : Fin 4) (s : State) : Host.Outcome State Fault Refusal :=
  let en := (recvField s d (psFetch s d p n).1 k).en
  .next (runUnit s d p (psKey p n (4 + k)) en (psFieldOut s d p n (recvOut s d p n k)))

/-- LATCH (R92): the PS records its operand as the pending value of a register bit. -/
def execLatch (d : Fin 4) (p : Fin 64) (n : Fin 32) (s : State) : Host.Outcome State Fault Refusal :=
  let en := (latchField (psFetch s d p n).1).1
  .next (runUnit s d p (psKey p n 8) en (psFieldOut s d p n (latchOut s d p n)))

/-- The word that the port fetches has the operation `op` (R182). -/
def portIs (s : State) (d : Fin 4) (p m op : Nat) : Bool :=
  match portFetch s d p m with
  | some (o, _, _) => o == op
  | none => false

/-- GATHER_ADDR (R183): operand bits go into the port's address register. -/
def execGatherAddr (d : Fin 4) (p : Fin 64) (m : Fin 16) (s : State) : Host.Outcome State Fault Refusal :=
  .next (runUnit s d p (portKey p m) (portIs s d p m 1) (portOut s d p m))

/-- GATHER_DATA (R183): operand bits go into the port's data register. -/
def execGatherData (d : Fin 4) (p : Fin 64) (m : Fin 16) (s : State) : Host.Outcome State Fault Refusal :=
  .next (runUnit s d p (portKey p m) (portIs s d p m 2) (portOut s d p m))

/-- READ (R188): the port issues a READ of a granule and its destination bits become absent. -/
def execMemoryPortRead (d : Fin 4) (p : Fin 64) (m : Fin 16) (s : State) : Host.Outcome State Fault Refusal :=
  .next (runUnit s d p (portKey p m) (portIs s d p m 3) (portOut s d p m))

/-- WRITE (R190): the port issues a WRITE of a granule, to be closed into the commit queue at B1. -/
def execMemoryPortWrite (d : Fin 4) (p : Fin 64) (m : Fin 16) (s : State) : Host.Outcome State Fault Refusal :=
  .next (runUnit s d p (portKey p m) (portIs s d p m 4) (portOut s d p m))

/-- NOP schedule word (R182): the port does nothing in the step. -/
def execMemoryPortNop (d : Fin 4) (p : Fin 64) (m : Fin 16) (s : State) : Host.Outcome State Fault Refusal :=
  .next (runUnit s d p (portKey p m) (portIs s d p m 0) (portOut s d p m))

end Sys2Proof.Machine
end

