-- ==== Sys2Proof/Machine/HostOps.lean ====
section
/-! DEFINITION. Completions, interrupts and descriptor groups: what every descriptor's meaning uses of the host side
(R308, R313, R317 to R321, R327, R329). -/

namespace Sys2Proof.Machine

/-- The state with something sent. -/
def emit (s : State) (o : Out) : State := { s with outs := s.outs ++ [o] }

/-- A read of the register at `a` by a command of its own, answered to the host: all ones from an isolated block (R254). -/
def gatedRead (s : State) (a : Nat) (k : State → Nat × State) : State :=
  if regIsolated s a then emit (setB s F.NET_STATUS_ISO_ACCESS true) (.readValue 0 0xFFFFFFFF)
  else emit (k s).2 (.readValue 0 (k s).1)

/-- The entry of a session. -/
def session (s : State) (i : Nat) : Session := s.host.sessions.get Session.closed i

/-- The state with a session's entry replaced. -/
def setSession (s : State) (i : Nat) (e : Session) : State :=
  { s with host := { s.host with sessions := s.host.sessions.set Session.closed i e } }

/-- The state with the count of live descriptors of a session's generation changed. -/
def bumpLive (s : State) (i gen : Nat) (g : Nat → Nat) : State :=
  { s with host := { s.host with live := s.host.live.modify 0 (i * 16 + gen) g } }

/-- The state with the count of started descriptors of a session's generation changed. -/
def bumpStarted (s : State) (i gen : Nat) (g : Nat → Nat) : State :=
  { s with host := { s.host with started := s.host.started.modify 0 (i * 16 + gen) g } }

/-- Descriptors of a session's generation fetched and not yet completed (R305, R321). -/
def liveCount (s : State) (i gen : Nat) : Nat := s.host.live.get 0 (i * 16 + gen)

/-! ### Status values (R319) -/

abbrev stOK : Nat := 0x00
abbrev stWrongState : Nat := 0x01
abbrev stWrongOwner : Nat := 0x02
abbrev stSuperseded : Nat := 0x03
abbrev stFaulted : Nat := 0x04
abbrev stCancelled : Nat := 0x05
abbrev stBadAddress : Nat := 0x06
abbrev stReadOnly : Nat := 0x07
abbrev stSealed : Nat := 0x08
abbrev stTooLarge : Nat := 0x09
abbrev stLoadFailed : Nat := 0x0A
abbrev stBadOpcode : Nat := 0x0B
abbrev stBadDescriptor : Nat := 0x0C
abbrev stHostFault : Nat := 0x0D
abbrev stHostReset : Nat := 0x0E

/-- The RESULT that stands for boundary -1, or for no committed cycle (R320). -/
abbrev minusOne : Nat := 0xFFFFFFFFFFFFFFFF

/-- The RESULT that names the boundary before cycle `next` (R320, R36). -/
def boundaryResult (next : Nat) : Nat := if next = 0 then minusOne else next - 1

/-! ### Interrupts -/

/-- The vector control word of an MSI-X vector has its mask bit set (R301, R327). -/
def vectorMasked (s : State) (v : Nat) : Bool := ((s.host.msix.get none (4 * v + 3)).getD 1).testBit 0

/-- An MSI-X message is sent, or set pending where the vector is masked (R327). -/
def signal (s : State) (v : Nat) : State :=
  if vectorMasked s v then { s with host := { s.host with pba := s.host.pba.set false v true } }
  else emit s (.msix v)

/-- The session's message is sent: what it covers counts no more (R327). -/
def signalSession (s : State) (i : Nat) : State :=
  let e := session s i
  setSession (signal s e.vector) i { e with unsignalled := 0 }

/-! ### Completions -/

/-- Host address of the slot for a session's next completion (R317). -/
def completionSlot (e : Session) : Nat := e.cq + 16 * (e.posted % 2 ^ e.cqLog)

/-- The 16-byte completion entry of a session (R318). -/
def completionEntry (e : Session) (tag status result : Nat) : Nat :=
  result % 2 ^ 64 * 2 ^ 64 + e.fetched % 2 ^ 28 * 2 ^ 36 + e.gen * 2 ^ 32 +
    (if e.posted / 2 ^ e.cqLog % 2 = 0 then 1 else 0) * 2 ^ 31 + status * 2 ^ 16 + tag

/-- A completion entry written to an OPEN session's ring, and the interrupt rule applied (R317, R327). -/
def postCompletion (s : State) (i : Nat) (irq : Bool) (tag status result : Nat) : State :=
  let e := session s i
  let s := emit s (.completion i e.posted (completionSlot e) (completionEntry e tag status result))
  let e := { e with
    posted := e.posted + 1
    oldest := if e.unsignalled = 0 then timeNs s else e.oldest
    unsignalled := e.unsignalled + 1 }
  let s := setSession s i e
  if irq || e.coalCount ≤ e.unsignalled then signalSession s i else s

/-- A descriptor completes (R308, R317, R329): posted to an OPEN session of its generation, held for a SUSPENDED
one, and otherwise discarded and counted. -/
def complete (s : State) (d : Desc) (status result : Nat) : State :=
  let i := d.session.val
  let s := bumpStarted (bumpLive s i d.sgen.toNat (· - 1)) i d.sgen.toNat (· - 1)
  let e := session s i
  if e.state = 0 ∨ e.gen ≠ d.sgen.toNat then bumpF s F.HST_STALE_CPL_COMPLETIONS 1
  else if e.state = 2 then setSession s i { e with held := e.held ++ [⟨d.tag, d.irq, status, result⟩] }
  else postCompletion s i d.irq d.tag.toNat status result

/-- Bytes written to a host buffer, and the descriptor's status: HOST_FAULT where the host refuses them (R319). -/
def hostWrite (s : State) (ok : Bool) (a : Nat) (bs : List Byte) : State :=
  if ok then emit s (.hostWrite a bs) else s

/-! ### Ownership and groups -/

/-- The descriptor's session owns the loaded Ingot (R31, R306). -/
def isOwner (s : State) (d : Desc) : Bool :=
  getB s F.LDR_OWNER_VALID && getF s F.LDR_OWNER_SESSION == d.session.val && getF s F.LDR_OWNER_GEN == d.sgen.toNat

/-- Every request of a list completes with one status. -/
def completeAll (s : State) (rs : List DesignReq) (status result : Nat) : State :=
  rs.foldl (fun t r => complete t r.desc status result) s

/-- Every descriptor of a list completes with one status. -/
def completeDescs (s : State) (ds : List Desc) (status : Nat) : State := ds.foldl (fun t d => complete t d status 0) s

/-- The descriptor stands in a group that it may not stand in (R313): a group is open, is being refused, or begins
with it. -/
def groupBreaks (s : State) (d : Desc) : Bool :=
  let e := session s d.session
  e.group ≠ [] || e.badGroup || d.link

/-- A descriptor that breaks its group: the group completes with BAD_DESCRIPTOR, the descriptor with `status`, and the
rest of the group with BAD_DESCRIPTOR as it comes (R313). -/
def refuseGroup (s : State) (d : Desc) (status : Nat) : State :=
  let e := session s d.session
  let s := completeAll s e.group stBadDescriptor 0
  let s := complete s d status 0
  let e := session s d.session
  setSession s d.session { e with group := [], badGroup := d.link }

/-- A descriptor that may stand in no group, run unless it breaks one (R313). -/
def ungrouped (d : Desc) (k : State → State) (s : State) : State :=
  if groupBreaks s d then refuseGroup s d stBadDescriptor else k s

/-- A run-control descriptor, which may stand in no group: WRONG_OWNER is decided before BAD_DESCRIPTOR (R31, R313). -/
def ungroupedRun (d : Desc) (k : State → State) (s : State) : State :=
  if groupBreaks s d then refuseGroup s d (if isOwner s d then stBadDescriptor else stWrongOwner) else k s

/-- The descriptor's session has fetched it and the session's generation is the descriptor's (R307). -/
def descStale (s : State) (d : Desc) : Bool := (session s d.session).gen ≠ d.sgen.toNat

/-- An earlier descriptor of the session has started and not completed, outside the group that is being collected, which
starts as a whole (R310, R313). -/
def earlierOpen (s : State) (d : Desc) : Bool :=
  s.host.started.get 0 (d.session * 16 + d.sgen.toNat) != (session s d.session).group.length

/-- The descriptor waits (R310, R312): FENCE holds it until every earlier descriptor of its session has completed, or
an earlier one of its session waits so. -/
def mustWait (s : State) (d : Desc) : Bool :=
  !s.host.released && (s.host.fenced.any (fun f => f.1 = d.session) || (d.fence && earlierOpen s d))

/-- A descriptor leaves the descriptors that are fetched and not started.  One whose generation differs is consumed
without effect and counted (R307); one that FENCE holds back waits (R310); any other is started. -/
def startFetched (d : Desc) (f : Fetched) (k : State → State) (s : State) : State :=
  let t := { s with host := { s.host with released := false, fetched := s.host.fetched.erase f } }
  if descStale s d then bumpF (bumpLive t d.session d.sgen.toNat (· - 1)) F.HST_STALE_DESCRIPTORS 1
  else if mustWait s d then { t with host := { t.host with fenced := t.host.fenced ++ [(d.session.val, f)] } }
  else k (bumpStarted t d.session d.sgen.toNat (· + 1))

/-- The descriptor of a command starts, or waits, or is consumed. -/
def startDesc (d : Desc) (i : Instr) (k : State → State) (s : State) : State := startFetched d (.cmd i) k s

/-- A descriptor with a reserved OPCODE completes with BAD_OPCODE, or breaks its group (R311, R313). -/
def badOpcode (d : Desc) (s : State) : State :=
  startFetched d (.reserved d) (ungrouped d (fun s => complete s d stBadOpcode 0)) s

/-- The header of a fetched descriptor. -/
def Fetched.desc : Fetched → Option Desc
  | .reserved d => some d
  | .cmd i => match i with
    | .run d _ _ | .stopNext d | .stopAtCommitted d | .capture d _ _ _ _ | .fetch d _ _ _ _ _ _ _ | .hallmark d _ _ _
    | .restore d _ _ _ _ | .continueAfterFaultClear d | .descriptorNop d | .designRead d _ _ _ | .designWrite d _ _ _ _
    | .image d _ _ _ | .chOpen d _ _ _ _ _ _ _ _ | .chClose d _ | .msgSend d _ _ _ _ _ | .msgRecv d _ _ _
    | .streamPost d _ _ _ | .flush d _ | .clearOverrun d _ | .chQuery d _ _ _ => some d
    | _ => none

/-- The fetched descriptor is one of session `i`. -/
def Fetched.of (i : Nat) (f : Fetched) : Bool :=
  match f.desc with
  | some d => d.session.val == i
  | none => false

end Sys2Proof.Machine
end

