-- ==== Sys2Proof/Machine/Banks.lean ====
section
/-! DEFINITION. The memories of the hub that the host, the control cores and the network reach at the memory itself: port B
of the exchange RAM, the scratch banks, and atomic operations (R202 to R204, R302, R303, R521, R522, R530, R531). -/

namespace Sys2Proof.Machine

/-! ### The memory window (R302, R303) -/

/-- An access of `n` bytes at a memory-window offset touches the reserved range. -/
def touchesReserved (off n : Nat) : Bool := decide (off < 0x2000000) && decide (0x100000 < off + n)

/-- A reserved access (R302): it is recorded; all but a write is answered with Unsupported Request. -/
def reserved (s : State) (off : Nat) (write : Bool) : State :=
  let s := setF (setB s F.HST_STATUS_RSVD_ACCESS true) F.HST_RSVD_ADDR_OFFSET off
  if write then s else emit s (.answer 0 2)

/-- RESERVED_ACCESS (R302). -/
def execReservedAccess (offset : BitVec 26) (write atomic : Bool) (s : State) : Host.Outcome State Fault Refusal :=
  .next (reserved s offset.toNat (write && !atomic))

/-- The bytes of an access from byte `a` on, by word: word number, and the byte enables and values of its eight bytes
from byte 0 of the word on. -/
def wordsOf (a : Nat) (bs : List (Option Byte)) : List (Nat × List (Option Byte)) :=
  let lead := List.replicate (a % 8) none ++ bs
  (List.range ((lead.length + 7) / 8)).map (fun i => (a / 8 + i, (lead.drop (8 * i)).take 8))

/-- A byte that port B enables differs from the byte that port A writes. -/
def bytesDiffer : List (Option Byte) → List (Option Byte) → Bool
  | some b :: bs, some a :: as => b != a || bytesDiffer bs as
  | _ :: bs, _ :: as => bytesDiffer bs as
  | _, _ => false

/-- Bytes stored in the exchange RAM where their enables are set (R202). -/
def exrStore (s : State) (a : Nat) (bs : List (Option Byte)) : State :=
  { s with mem := { s.mem with exr := Memory.writeEnabled marchFill s.mem.exr a bs } }

/-- One word of a port B write (R203): discarded as a whole where port A writes the word in the same clock with other
data. -/
def portBWord (s : State) (w : Nat × List (Option Byte)) : State :=
  if s.mem.portA.any (fun a => a.1 = w.1 && bytesDiffer w.2 a.2) then
    bumpF (setF (setB s F.ARY_EXR_STATUS_COLLISION true) F.ARY_EXR_COLL_ADDR_WORD w.1) F.ARY_EXR_COLL_COUNT_COUNT 1
  else exrStore { s with mem := { s.mem with
    before := s.mem.before ++ [(false, w.1, Memory.readBytes marchFill s.mem.exr (8 * w.1) 8)] } } (8 * w.1) w.2

/-- An access to the exchange RAM through port B lies within it; a host access that runs past its end is a reserved one,
and a core's raises an access fault; the SPI port reaches setup registers alone (R302, R521, R593). -/
def portB (s : State) (path : RegPath) (off n : Nat) (write : Bool) (k : State → State) : State :=
  if path = .spi then s
  else if off + n ≤ 0x100000 then k s
  else match path with
    | .host => reserved s off write
    | p => emit s (.answer (pathCode p) 7)

/-- EXCHANGE_RAM_PORT_B_WRITE (R202, R203). -/
def execExchangeRamPortBWrite (path : RegPath) (offset : BitVec 20) (data : List (Option Byte)) (s : State) :
    Host.Outcome State Fault Refusal :=
  .next (portB s path offset.toNat data.length true (fun s => (wordsOf offset.toNat data).foldl portBWord s))

/-- Bytes as a read returns them, or a poisoned answer where a word of them is uncorrectable (R468). -/
def readAnswer (s : State) (path : Nat) (bs : List Byte) (ecc : Ecc) : State :=
  if ecc = .uncorrectable then emit s (.answer path 5) else emit s (.readValue path (leNat bs))

/-- A byte of the exchange RAM as port B sees it: a word that port A has written in the same clock gives its value before
(R204). -/
def portBByte (s : State) (a : Nat) : Byte :=
  match s.mem.before.find? (fun e => e.1 && e.2.1 = a / 8) with
  | some e => e.2.2.getD (a % 8) 0
  | none => Memory.read marchFill s.mem.exr a

/-- EXCHANGE_RAM_PORT_B_READ (R204). -/
def execExchangeRamPortBRead (path : RegPath) (offset : BitVec 20) (length : Nat) (ecc : Ecc) (s : State) :
    Host.Outcome State Fault Refusal :=
  .next (portB s path offset.toNat length false (fun s =>
    readAnswer s (pathCode path) ((List.range length).map (fun i => portBByte s (offset.toNat + i))) ecc))

/-- What the code of a scratch word shows (R530). -/
def scratchEcc (s : State) (off : Nat) (ecc : Ecc) : State :=
  match ecc with
  | .clean => s
  | .corrected => bumpF s F.CTL_SCR_CE_COUNT 1
  | .uncorrectable =>
    setF (setF (setB s F.CTL_STATUS_SCR_UE true) F.CTL_SCR_UE_LOC_BANK (off / 2097152)) F.CTL_SCR_UE_LOC_WORD
      (off % 2097152 / 8)

/-- Bytes stored in the scratch banks where their enables are set (R530). -/
def scratchStore (s : State) (a : Nat) (bs : List (Option Byte)) : State :=
  { s with ctl := { s.ctl with scratch := Memory.writeEnabled marchFill s.ctl.scratch a bs } }

/-- SCRATCH_BANK_ACCESS (R302, R521, R530, R531): a read, or a write with byte enables, by the host or a core.  A core's
access that runs past the banks raises an access fault; the SPI port reaches setup registers alone. -/
def execScratchBankAccess (site : BankSite) (data : Option (List (Option Byte))) (length : Nat) (ecc : Ecc) (s : State) :
    Host.Outcome State Fault Refusal :=
  let path := site.path
  let off := site.offset.toNat
  let n := match data with
    | some bs => bs.length
    | none => length
  .next (
    if path = .spi then s
    else if 0x2000000 < off + n then (if path = .host then s else emit s (.answer (pathCode path) 7))
    else match data with
      | some bs => scratchStore s off bs
      | none => readAnswer (scratchEcc s off ecc) (pathCode path) (Memory.readBytes marchFill s.ctl.scratch off n) ecc)

/-! ### Atomic operations (R303, R522) -/

/-- The active firmware bank (R524). -/
def activeBank (s : State) : Nat := getF s F.CTL_FW_STATUS_ACTIVE

/-- Where a core's atomic operation finds its word: a key of its own memory, of the firmware SRAM, or of the scratch
banks. -/
inductive AtomicPlace where
  | local_ (key : Nat)
  | firmware (key : Nat)
  | scratch (key : Nat)
  | other
  deriving DecidableEq, Repr

/-- The place of `n` bytes at address `a` of core `c`'s map (R521). -/
def corePlace (s : State) (c : Fin 8) (a n : Nat) : AtomicPlace :=
  if 0x1000000 ≤ a ∧ a + n ≤ 0x1020000 then .local_ (c * 131072 + (a - 0x1000000))
  else if 0x10000000 ≤ a ∧ a + n ≤ 0x10100000 then .firmware (activeBank s * 1048576 + (a - 0x10000000))
  else if 0x10100000 ≤ a ∧ a + n ≤ 0x10200000 then .firmware ((1 - activeBank s) * 1048576 + (a - 0x10100000))
  else if 0x20000000 ≤ a ∧ a + n ≤ 0x22000000 then .scratch (a - 0x20000000)
  else .other

/-- The `n` bytes at a place. -/
def bytesOfPlace (s : State) (p : AtomicPlace) (n : Nat) : List Byte :=
  match p with
  | .local_ k => Memory.readBytes marchFill s.ctl.coreMem k n
  | .firmware k => Memory.readBytes marchFill s.ctl.fws k n
  | .scratch k => Memory.readBytes marchFill s.ctl.scratch k n
  | .other => []

/-- The state with bytes stored at a place. -/
def placeStore (s : State) (p : AtomicPlace) (bs : List Byte) : State :=
  match p with
  | .local_ k => { s with ctl := { s.ctl with coreMem := Memory.writeBytes marchFill s.ctl.coreMem k bs } }
  | .firmware k => { s with ctl := { s.ctl with fws := Memory.writeBytes marchFill s.ctl.fws k bs } }
  | .scratch k => scratchStore s k (bs.map some)
  | .other => s

/-- What the code of the word at a place shows (R468, R530). -/
def placeEcc (s : State) (p : AtomicPlace) (ecc : Ecc) : State :=
  match p with
  | .scratch k => scratchEcc s k ecc
  | .firmware _ => if ecc = .uncorrectable then setB s F.CTL_STATUS_FWS_UE true else s
  | _ => s

/-- A reservation of `n` bytes at a place; none where a core can reserve nothing. -/
def reservation (p : AtomicPlace) (n : Nat) : Option (Nat × Nat × Nat) :=
  match p with
  | .local_ k => some (0, k, n)
  | .firmware k => some (1, k, n)
  | _ => none

/-- What core `c` has reserved. -/
def reserved? (s : State) (c : Nat) : Option (Nat × Nat × Nat) := s.ctl.reserve.get none c

/-- The state with core `c`'s reservation replaced. -/
def setReserve (s : State) (c : Nat) (r : Option (Nat × Nat × Nat)) : State :=
  { s with ctl := { s.ctl with reserve := s.ctl.reserve.set none c r } }

/-- Two reservations have a byte in common. -/
def overlaps (x y : Nat × Nat × Nat) : Bool :=
  x.1 == y.1 && decide (x.2.1 < y.2.1 + y.2.2) && decide (y.2.1 < x.2.1 + x.2.2)

/-- The bytes at a place change: no other core holds a reservation of them any longer. -/
def breakReserves (s : State) (c : Nat) (p : AtomicPlace) (n : Nat) : State :=
  match reservation p n with
  | none => s
  | some r => (List.range 8).foldl (fun t k =>
      if k ≠ c && (reserved? t k).any (overlaps r) then setReserve t k none else t) s

/-- A word of `n` bytes as a signed number. -/
def signedAt (n v : Nat) : Int := if 2 ^ (8 * n - 1) ≤ v then (v : Int) - 2 ^ (8 * n) else v

/-- A word of `n` bytes in a register of 64 bits, extended by its sign. -/
def extended (n v : Nat) : Nat := (signedAt n v % 2 ^ 64).toNat

/-- What an atomic operation stores, from the word before and the operand, both of `n` bytes; nothing for LR and for what the
A extension does not have. -/
def atomicValue (op : AtomicOp) (n old x : Nat) : Option Nat :=
  match op with
  | .xor => some (old ^^^ x)
  | .and => some (old &&& x)
  | .or => some (old ||| x)
  | .min => some (if signedAt n x < signedAt n old then x else old)
  | .max => some (if signedAt n old < signedAt n x then x else old)
  | .minu => some (min old x)
  | .maxu => some (max old x)
  | .cas | .lr | .sc => none

/-- A core's atomic operation on the word of `n` bytes at `a` (R522): address misaligned, an access fault, a trap on an
uncorrectable word, and otherwise `k` at the place. -/
def coreAtomic (s : State) (c : Fin 8) (a n : Nat) (ecc : Ecc) (atBank : Bool) (k : State → AtomicPlace → State) : State :=
  let p := corePlace s c a n
  if a % n ≠ 0 then emit s (.answer (2 + c) 4)
  else if p = .other ∨ (!atBank && (reservation p n).isNone) then emit s (.answer (2 + c) 7)
  else if ecc = .uncorrectable then emit (placeEcc s p ecc) (.answer (2 + c) 5)
  else k (placeEcc s p ecc) p

/-- A read-modify-write of the word of `n` bytes at a place as one indivisible operation: core `c` gets the word before. -/
def coreRmw (c : Fin 8) (n : Nat) (g : Nat → Nat) (s : State) (p : AtomicPlace) : State :=
  let old := leNat (bytesOfPlace s p n)
  emit (breakReserves (placeStore s p (leBytes n (g old))) c p n) (.readValue (2 + c) (extended n old))

/-- LR: the word, and a reservation of it. -/
def coreLr (c : Fin 8) (n : Nat) (s : State) (p : AtomicPlace) : State :=
  emit (setReserve s c (reservation p n)) (.readValue (2 + c) (extended n (leNat (bytesOfPlace s p n))))

/-- SC: the word is stored, and 0 returned, where the core's reservation of it stands; the reservation ends in any case. -/
def coreSc (c : Fin 8) (n x : Nat) (s : State) (p : AtomicPlace) : State :=
  let t := setReserve s c none
  if (reservation p n).isSome && reserved? s c == reservation p n then
    emit (breakReserves (placeStore t p (leBytes n x)) c p n) (.readValue (2 + c) 0)
  else emit t (.readValue (2 + c) 1)

/-- A host AtomicOp of `n` bytes (R303): malformed where it is not naturally aligned, a reserved access where it touches the
reserved range, and Completer Abort in the exchange RAM. -/
def atomicOp (s : State) (off n : Nat) (k : State → Nat → State) : State :=
  if n = 0 ∨ off % n ≠ 0 then emit s (.answer 0 6)
  else if touchesReserved off n then reserved s off false
  else if off < 0x100000 then emit s (.answer 0 1)
  else k s (off - 0x2000000)

/-- A read-modify-write of a scratch bank for the host as one indivisible access (R303, R530): the old value is returned.  An
uncorrectable word is answered poisoned and not written. -/
def scratchRmw (s : State) (a n : Nat) (ecc : Ecc) (g : Nat → Nat) : State :=
  let s := scratchEcc s a ecc
  let bs := Memory.readBytes marchFill s.ctl.scratch a n
  if ecc = .uncorrectable then emit s (.answer 0 5)
  else emit (scratchStore s a ((leBytes n (g (leNat bs))).map some)) (.readValue 0 (leNat bs))

/-- An add or a swap, which the scratch banks perform too, for the host or a core (R303, R522). -/
def bankAtomic (s : State) (site : AtomicSite) (wide : Bool) (ecc : Ecc) (g : Nat → Nat) : State :=
  let n := if wide then 8 else 4
  match site with
  | .host off => atomicOp s off.toNat n (fun s a => scratchRmw s a n ecc g)
  | .core c a => coreAtomic s c a.toNat n ecc true (coreRmw c n g)

/-- FETCH_ADD (R303, R522). -/
def execFetchAdd (site : AtomicSite) (wide : Bool) (operand : DWord) (ecc : Ecc) (s : State) :
    Host.Outcome State Fault Refusal :=
  .next (bankAtomic s site wide ecc (· + operand.toNat))

/-- SWAP (R303, R522). -/
def execSwap (site : AtomicSite) (wide : Bool) (operand : DWord) (ecc : Ecc) (s : State) :
    Host.Outcome State Fault Refusal :=
  .next (bankAtomic s site wide ecc (fun _ => operand.toNat))

/-- CAS (R303): Completer Abort for the host, and nothing changes; other AMOs, LR and SC for a core (R522), which has no
compare and swap, and no operation of another size than 4 or 8 bytes. -/
def execCas (site : AtomicSite) (x : AtomicAccess) (s : State) : Host.Outcome State Fault Refusal :=
  let n := x.size.val
  .next (match site with
    | .host off => atomicOp s off.toNat n (fun s _ => emit s (.answer 0 1))
    | .core c a =>
      if n ≠ 4 ∧ n ≠ 8 then s
      else match x.op with
        | .cas => s
        | .lr => coreAtomic s c a.toNat n x.ecc false (coreLr c n)
        | .sc => coreAtomic s c a.toNat n .clean false (coreSc c n x.operand.toNat)
        | op => coreAtomic s c a.toNat n x.ecc false
            (coreRmw c n (fun old => (atomicValue op n old (x.operand.toNat % 2 ^ (8 * n))).getD old)))

end Sys2Proof.Machine
end

