-- ==== Sys2Proof/Machine/Windows.lean ====
section
/-! DEFINITION. Memory windows over the HBM (R213 to R217, R229 to R231): their geometry, and what the reads of a window meet
and record. -/

namespace Sys2Proof.Machine

/-- The state with the HBM hub changed. -/
def onHbm (s : State) (g : HbmSt → HbmSt) : State := { s with hbm := g s.hbm }

/-! ### Geometry (R213 to R217) -/

/-- Bytes that a window stores in each member (R215). -/
def winSpan (s : State) (n : Nat) : Nat := winSize s n / (winMembers s n).length

/-- First byte address of a window in each member. -/
def winBase (s : State) (n : Nat) : Nat := getF s (F.HBM_WIN_BASE_BASE n) * 65536

/-- The pseudo-channels that a window occupies: its members, and their partners where it is mirrored (R216). -/
def winChannels (s : State) (n : Nat) : List Nat :=
  let ms := winMembers s n
  if winMirror s n then ms ++ ms.map (· ^^^ 32) else ms

/-- DEGRADED of every window as its rule has it (R231). -/
def showDegraded (s : State) : State :=
  (List.range 16).foldl (fun t n => setB t (F.HBM_WIN_CTRL_DEGRADED n) ((winChannels t n).any (pcFailed t))) s

/-- The enabled window that occupies byte `a` of a pseudo-channel, in either copy. -/
def winAt (s : State) (pc a : Nat) : Option Nat :=
  (List.range 16).find? (fun n => getB s (F.HBM_WIN_CTRL_EN n) && (winChannels s n).contains pc &&
    decide (winBase s n ≤ a) && decide (a < winBase s n + winSpan s n))

/-- The offset in window `w` of byte `a` of a pseudo-channel that is a member (R217). -/
def winOffset (s : State) (w pc a : Nat) : Option Nat :=
  let ms := winMembers s w
  let i := ms.findIdx (· = pc)
  let base := winBase s w
  let g := winGrain s w
  if i < ms.length ∧ base ≤ a ∧ a < base + winSpan s w then
    let y := a - base
    some ((y / g * ms.length + i) * g + y % g)
  else none

/-- The offset in window `w` that an HBM byte holds, in either copy. -/
def cellOffset (s : State) (w key : Nat) : Option Nat :=
  let pc := key / 2 ^ 30
  match winOffset s w pc (key % 2 ^ 30) with
  | some x => some x
  | none => if winMirror s w then winOffset s w (pc ^^^ 32) (key % 2 ^ 30) else none

/-! ### Errors (R229 to R231) -/

/-- An uncorrectable error at byte `a` of a pseudo-channel (R230, R231): recorded, counted, and the sixteenth within
1 ms fails the pseudo-channel. -/
def noteUe (s : State) (pc a : Nat) (scrub recovered : Bool) : State :=
  let w := winAt s pc a
  let s := setB s F.HBM_STATUS_UE true
  let s := setB s F.HBM_UE_LOC_FROM_SCRUB scrub
  let s := setF s F.HBM_UE_LOC_OWNER (match w with | some n => getF s (F.HBM_WIN_CTRL_OWNER n) | none => 7)
  let s := setF (setF s F.HBM_UE_LOC_WINDOW (w.getD 0)) F.HBM_UE_LOC_PC pc
  let s := setF s F.HBM_UE_WORD_WORD (a / 8)
  let s := if recovered then bumpF s F.HBM_UE_COUNT_MIRRORED 1 else bumpF s F.HBM_UE_COUNT_UNRECOVERED 1
  let now := timeNs s
  let ts := ((s.hbm.ueTimes.get [] pc).filter (fun t => now < t + 1000000)) ++ [now]
  let s := onHbm s (fun h => { h with ueTimes := h.ueTimes.set [] pc ts })
  if 16 ≤ ts.length then showDegraded (setFBit s (F.HBM_PC_FAILED_FAILED (pc / 32)) (pc % 32) true) else s

/-- No copy of the word at offset `x` of a window is served any more: every access to it is handled as an uncorrectable
error (R231). -/
def winLost (s : State) (w x : Nat) : Bool :=
  let pc := (winAddr s w x).1
  pcFailed s pc && (!winMirror s w || pcFailed s (pc ^^^ 32))

/-- The pseudo-channel that serves offset `x` of a window: that of copy 0, or its partner where copy 0 of a mirrored window
has failed (R231). -/
def servedBy (s : State) (w x : Nat) : Nat :=
  let pc := (winAddr s w x).1
  if winMirror s w && pcFailed s pc then pc ^^^ 32 else pc

/-- How the word at offset `x` of a window reads back (R229 to R231). -/
def winEcc (s : State) (w x : Nat) : Ecc :=
  if winLost s w x then .uncorrectable else hbmMark s (servedBy s w x) (winAddr s w x).2

/-- A stored word as an upset leaves it; a word that is uncorrectable stays so (R229, R230). -/
def upsetHbm (s : State) (pc a : Nat) (e : Ecc) : State :=
  if e = .clean ∨ hbmMark s pc a = .uncorrectable then s
  else onHbm s (fun h => { h with marks := h.marks.set .clean (pc * 2 ^ 27 + a / 8) e })

/-- The word at offset `x` of a window is read (R229, R230): a corrected one is counted; an uncorrectable one is recorded, and
recovered and rewritten from the other copy where that copy gives it.  The second component: no copy gives it. -/
def serveWord (s : State) (w x : Nat) : State × Bool :=
  let pc := servedBy s w x
  let a := (winAddr s w x).2
  match winEcc s w x with
  | .clean => (s, false)
  | .corrected => (bumpF s (F.HBM_CE_COUNT_COUNT (pc / 32)) 1, false)
  | .uncorrectable =>
    let m := winMirror s w && !pcFailed s pc && hbmGives s (pc ^^^ 32) a
    let s := noteUe s pc a false m
    (if m then onHbm s (fun h => { h with marks := h.marks.set .clean (pc * 2 ^ 27 + a / 8) .clean }) else s, !m)

/-- Offsets of the words among bytes `off` to `off + n - 1` of a window that do not read back clean, and of the first byte of
each grain among them that no copy serves any more. -/
def winErrors (s : State) (w off n : Nat) : List Nat :=
  let g := winGrain s w
  let marked := s.hbm.marks.filterMap (fun m =>
    let pc := m.1 / 2 ^ 27
    match cellOffset s w (hbmKey pc (m.1 % 2 ^ 27 * 8)) with
    | some x => if servedBy s w x = pc ∧ off < x + 8 ∧ x < off + n then some x else none
    | none => none)
  let grains := if n = 0 then 0 else min (winMembers s w).length ((off + n - 1) / g - off / g + 1)
  let lost := ((List.range grains).map (fun j => max off ((off / g + j) * g))).filter (winLost s w)
  marked.filter (fun x => !winLost s w x) ++ lost

/-- The reads of `n` bytes of a window from offset `off` on, with what they meet (R229 to R231): the words that no copy gives,
whose return is poisoned. -/
def winServe (s : State) (w off n : Nat) : State × List Nat :=
  (winErrors s w off n).foldl (fun r x =>
    let u := serveWord r.1 w x
    (u.1, if u.2 then r.2 ++ [x] else r.2)) (s, [])

/-- A command of a pseudo-channel passes or fails its parity check (R231): the second failure in a row marks the
pseudo-channel failed. -/
def parityCheck (s : State) (pc : Nat) (fails : Bool) : State :=
  let before := s.hbm.parity.get false pc
  if fails && before then
    showDegraded (setFBit (onHbm s (fun h => { h with parity := h.parity.set false pc false }))
      (F.HBM_PC_FAILED_FAILED (pc / 32)) (pc % 32) true)
  else if fails != before then onHbm s (fun h => { h with parity := h.parity.set false pc fails })
  else s

/-! ### Windows as images -/

/-- The bytes of an image from offset `off` on, `len` of them, moved to offset 0. -/
def imageRange (m : Memory) (off len : Nat) : Memory :=
  m.filterMap (fun c => if off ≤ c.1 ∧ c.1 < off + len then some (c.1 - off, c.2) else none)

/-- Bytes `off` to `off + len - 1` of a window, as an image. -/
def winSlice (s : State) (w off len : Nat) : Memory :=
  if winErrors s w off len = [] then
    s.mem.hbm.foldl (fun m c => match cellOffset s w c.1 with
      | some x => if off ≤ x ∧ x < off + len then Memory.write zeroFill m (x - off) (winRead s w x) else m
      | none => m) []
  else (List.range len).filterMap (fun i =>
    let b := winRead s w (off + i)
    if b = 0 then none else some (i, b))

/-- The contents of a window. -/
def winImage (s : State) (w : Nat) : Memory := winSlice s w 0 (winSize s w)

end Sys2Proof.Machine
end

