-- ==== Sys2Proof/Machine/Channels.lean ====
section
/-! DEFINITION. Message ports and channels: presentations (R336 to R339), FIFOs and records (R335, R346), the
design's side of a channel at the boundary and at commit (R340 to R345), work items and their release (R358 to R366).
The commands over them are in ChannelCommands. -/

namespace Sys2Proof.Machine

/-! ### Message ports -/

/-- A message-port map entry (R163), decoded. -/
structure PortDef where
  out : Bool
  blocking : Bool
  die : Nat
  tile : Nat
  cluster : Nat
  first : Nat
  width : Nat
  port : Nat
  deriving DecidableEq, Repr

/-- The fields of a message-port map entry (R163); none where EN is 0. -/
def decodePort (w : Nat) : Option PortDef :=
  if w.testBit 63 then
    some ⟨w.testBit 62, w.testBit 61, bitsOf w 57 2, bitsOf w 51 6, bitsOf w 46 5, bitsOf w 35 11, bitsOf w 25 10 + 1,
      bitsOf w 0 12⟩
  else none

/-- The declared ports of the installed Ingot. -/
def portList (s : State) : List PortDef :=
  match s.ingot with
  | some g => g.msgPorts.filterMap decodePort
  | none => []

/-- The declared port of a device message port number. -/
def portOf (s : State) (n : Nat) : Option PortDef := (portList s).find? (fun p => p.port = n)

/-- Presentation bit `i` of an input port, as a key of the die's port-input bits (R336). -/
def presInKey (p : PortDef) (i : Nat) : Nat :=
  idx (p.tile * 32 + p.cluster + (p.first + i) / 256) 256 ((p.first + i) % 256)

/-- Presentation bit `i` of an output port, as a key of the die's register bits (R336). -/
def presOutKey (p : PortDef) (i : Nat) : Nat :=
  idx (p.tile * 32 + p.cluster + (p.first + i) / 2048) 2048 ((p.first + i) % 2048)

/-- The port lies in a region that is isolated in the die's cycle `c` (R290): it takes no part in holds. -/
def portIsolated (s : State) (p : PortDef) (c : Nat) : Bool :=
  [s.iso, s.run.pastIso].any (fun m => match m.get none (p.die * 64 + p.tile) with
    | none => false
    | some i => decide (i.from_ ≤ c) && match i.until_ with
      | some k => decide (c < k)
      | none => true)

/-- The payload bytes of a port (R339). -/
def payloadBytes (p : PortDef) : Nat := (p.width + 7) / 8

/-- The bits of an output port in a map of register bits, as a number (R338). -/
def presValue (m : SMap Bool) (p : PortDef) : Nat :=
  (List.range p.width).foldl (fun v i => v + b2n (m.get false (presOutKey p i)) * 2 ^ i) 0

/-! ### Contexts -/

/-- The context of a channel. -/
def chanCtx (s : State) (c : Nat) : ChanCtx := s.chn.ctxs.get ChanCtx.free c

/-- The state with its channel machinery changed. -/
def onChn (s : State) (g : Chn → Chn) : State := { s with chn := g s.chn }

/-- The state with a context replaced. -/
def setCtx (s : State) (c : Nat) (x : ChanCtx) : State :=
  onChn s (fun h => { h with ctxs := h.ctxs.set ChanCtx.free c x })

/-- Kinds 0 and 3 go to the design (R333). -/
def isH2D (kind : Nat) : Bool := kind == 0 || kind == 3

/-- Kinds 0 and 1 carry messages (R333). -/
def isMsg (kind : Nat) : Bool := kind == 0 || kind == 1

/-- The bytes of one record of a channel (R346). -/
def recordLen (p : PortDef) (kind : Nat) : Nat :=
  if isMsg kind then 8 + (payloadBytes p + 7) / 8 * 8 else payloadBytes p

/-- The bytes of one record of a channel; 1 where its port is not declared. -/
def chanRecord (s : State) (x : ChanCtx) : Nat :=
  match portOf s x.port with
  | some p => recordLen p x.kind
  | none => 1

/-- FIFO size in bytes (R334). -/
def fifoSize (x : ChanCtx) : Nat := 2 ^ x.sizeLog

/-- Window offset of FIFO byte `b` (R335). -/
def fifoAddr (x : ChanCtx) (b : Nat) : Nat := x.fifoOffset + b % fifoSize x

/-- `n` bytes of a FIFO from byte `b` on (R335). -/
def fifoRead (s : State) (x : ChanCtx) (b : Nat) : Nat → List Byte
  | 0 => []
  | n + 1 => winRead s x.window (fifoAddr x b) :: fifoRead s x (b + 1) n

/-- What the reads of `n` bytes of a FIFO from byte `b` on meet (R229, R230). -/
def fifoServe (s : State) (x : ChanCtx) (b n : Nat) : State :=
  let k := min n (fifoSize x - b % fifoSize x)
  (winServe (winServe s x.window (fifoAddr x b) k).1 x.window x.fifoOffset (n - k)).1

/-- Bytes written to a FIFO from byte `b` on (R335). -/
def fifoWrite (s : State) (x : ChanCtx) (b : Nat) : List Byte → State
  | [] => s
  | v :: vs => fifoWrite (winWrite s x.window (fifoAddr x b) v) x (b + 1) vs

/-- A value of `r` bytes has room (R335). -/
def hasRoom (x : ChanCtx) (r : Nat) : Bool := x.alloc - x.rd + r ≤ fifoSize x

/-- The 64 bytes of a context (R334). -/
def ctxBytes (x : ChanCtx) : List Byte :=
  leBytes 4 (x.gen * 2 ^ 26 + x.kind * 2 ^ 24 + x.priority * 2 ^ 21 + x.state * 2 ^ 18 + b2n x.overrun * 2 ^ 17 +
    x.sessionGen * 2 ^ 12 + x.session) ++
  leBytes 2 x.port ++ leBytes 1 x.window ++ leBytes 1 x.sizeLog ++ leBytes 2 x.nextSeq ++ leBytes 2 x.releaseSeq ++
  leBytes 4 x.timeoutUs ++ leBytes 8 x.fifoOffset ++ leBytes 8 x.wr ++ leBytes 8 x.rd ++ leBytes 8 x.alloc ++
  leBytes 4 x.values ++ leBytes 4 x.drops ++ leBytes 4 x.runtime ++ leBytes 4 x.lastCycle

/-- The OPEN channels bound to a port (R340). -/
def boundChans (s : State) (port : Nat) : List (Nat × ChanCtx) :=
  s.chn.ctxs.filter (fun e => e.2.state = 1 && e.2.port = port)

/-! ### Reservations -/

/-- The input reservations of a channel, those to be repeated by a replay among them. -/
def inReserved (s : State) (c : Nat) : List PortRes :=
  (s.chn.reserved ++ s.chn.again).filter (fun r => !r.out && r.chan = some c)

/-- Bytes of a channel that input ports have reserved (R341). -/
def inReservedBytes (s : State) (c : Nat) : Nat := ((inReserved s c).map PortRes.length).foldl (· + ·) 0

/-- A port has chosen a record of the channel for a B4 still to come (R340), and not to repeat one (R341). -/
def chosenOf (s : State) (c : Nat) : Bool :=
  s.chn.chosen.any (fun e => match e.2 with
    | some (n, some k) => k = c && !s.chn.again.any (fun r => r.port = e.1 && r.cycle = n)
    | _ => false)

/-- Bytes at the head of a channel that are reserved or chosen. -/
def heldBytes (s : State) (c : Nat) : Nat :=
  inReservedBytes s c + if chosenOf s c then chanRecord s (chanCtx s c) else 0

/-- The record that starts at byte `b` of a channel is one that a port has reserved or chosen. -/
def recordHeld (s : State) (c b : Nat) : Bool :=
  (inReserved s c).any (fun r => r.position = b) || (chosenOf s c && b = (chanCtx s c).rd + inReservedBytes s c)

/-- The released bytes of an H2D channel that no port has reserved are discarded and RD advances past them (R349, R356);
the records that ports have reserved move up to WR. -/
def discardFree (s : State) (c : Nat) : State :=
  let x := chanCtx s c
  let keep := heldBytes s c
  let n := x.wr - (x.rd + keep)
  let up := fun (b : Nat) => if x.rd ≤ b && b < x.rd + keep then b + n else b
  let move := fun (r : PortRes) => if !r.out && r.chan = some c then { r with position := up r.position } else r
  let s := fifoWrite s x (x.rd + n) (fifoRead s x x.rd keep)
  let s := onChn s (fun h => { h with
    reserved := h.reserved.map move
    again := h.again.map move
    sent := h.sent.map (fun m => if m.chan = c then { m with start := up m.start } else m) })
  setCtx s c { x with rd := x.rd + n }

/-- The channel holds a whole released record that no port has reserved (R343, R347). -/
def wholeRecord (s : State) (c : Nat) (x : ChanCtx) : Bool :=
  x.rd + heldBytes s c + chanRecord s x ≤ x.wr

/-- Channel `a` is served before channel `b`: higher PRIORITY, then the next higher channel ID after the one served
last (R340). -/
def servedBefore (last : Nat) (a b : Nat × ChanCtx) : Bool :=
  let rank := fun (e : Nat × ChanCtx) => (e.1 + 262144 - last) % 262144
  b.2.priority < a.2.priority || (a.2.priority = b.2.priority && rank a < rank b)

/-- The channel that an input port serves next, if one holds a whole value (R340). -/
def nextChan (s : State) (port : Nat) : Option Nat :=
  let last := s.chn.served.get 0 port
  let cs := (boundChans s port).filter (fun e => isH2D e.2.kind && wholeRecord s e.1 e.2)
  match cs with
  | [] => none
  | e :: es => some (es.foldl (fun m x => if servedBefore last x m then x else m) e).1

/-- An input port makes its choice for cycle `c` (R340); a replay repeats the choice of the first execution (R341). -/
def chooseIn (s : State) (c : Nat) (p : PortDef) : State :=
  match s.chn.chosen.get none p.port with
  | some (c', some _) => if c' = c then s else onChn s (fun h => { h with chosen := h.chosen.set none p.port none })
  | _ =>
    match s.chn.again.find? (fun r => r.port = p.port && r.cycle = c) with
    | some r => onChn s (fun h => { h with chosen := h.chosen.set none p.port (some (c, r.chan)) })
    | none =>
      let k := nextChan s p.port
      onChn s (fun h => { h with
        chosen := h.chosen.set none p.port (some (c, k))
        served := match k with
          | some i => h.served.set 0 p.port (i + 1)
          | none => h.served })

/-- The port has chosen a record for cycle `c`. -/
def hasChoice (s : State) (c : Nat) (p : PortDef) : Bool :=
  match s.chn.chosen.get none p.port with
  | some (c', some _) => c' = c
  | _ => false

/-- The port has taken a record for cycle `c`. -/
def hasTaken (s : State) (c : Nat) (p : PortDef) : Bool :=
  s.chn.reserved.any (fun r => !r.out && r.port = p.port && r.cycle = c && r.chan.isSome)

/-- The input ports choose for cycle `c + 1`, as at the decision step of cycle `c` (R122, R340). -/
def decideIn (s : State) (c : Nat) : State :=
  let ps := (portList s).filter (fun p => !p.out && !portIsolated s p c && !hasTaken s (c + 1) p)
  onChn (ps.foldl (fun t p => chooseIn t (c + 1) p) s) (fun h => { h with inDecided := max h.inDecided (c + 1) })

/-- Blocking input ports with no message for cycle `c + 1` (R343). -/
def emptyPorts (s : State) (c : Nat) : List PortDef :=
  (portList s).filter (fun p =>
    !p.out && p.blocking && !portIsolated s p c && !hasTaken s (c + 1) p && !hasChoice s (c + 1) p)

/-! ### Output ports -/

/-- Some enabled LATCH of the words loaded for the VALID bit's cluster names it at a step from S - 38 to S - 1
(R342). -/
def validLatched (s : State) (p : PortDef) : Bool :=
  let k := presOutKey p p.width
  let n := k / 2048 % 32
  (List.range 38).any (fun i =>
    let f := latchField (psWord s p.die p.tile n (stepsS s - 38 + i))
    f.1 && f.2.2 = k % 2048)

/-- The VALID bit as a LATCH of the cycle has left it (R342). -/
def validNow (s : State) (p : PortDef) : Bool :=
  let x := s.dies[Fin.ofNat 4 p.die]
  let k := presOutKey p p.width
  match x.pendLatch.get none k with
  | some (v, _) => v
  | none => x.regBits.get false k

/-- The channel bound to an output port (R340). -/
def outChan (s : State) (p : PortDef) : Option (Nat × ChanCtx) :=
  (boundChans s p.port).find? (fun e => !isH2D e.2.kind)

/-- The bound channel has room for one record (R335). -/
def outRoom (s : State) (p : PortDef) : Bool :=
  match outChan s p with
  | some (_, x) => hasRoom x (recordLen p x.kind)
  | none => false

/-- The port's B2 of cycle `c` is behind its die. -/
def outDone (s : State) (p : PortDef) (c : Nat) : Bool :=
  c * cycleSteps s + stepsS s + 2 < s.dies[Fin.ofNat 4 p.die].sigma

/-- Blocking output ports without room at the OUT_FULL decision of cycle `c` (R342). -/
def fullPorts (s : State) (c : Nat) : List PortDef :=
  (portList s).filter (fun p =>
    p.out && p.blocking && !portIsolated s p c && !outDone s p c && !outRoom s p &&
      !(!validLatched s p && !validNow s p))

/-- Blocking output ports that send a value in cycle `c` and have no room (R123, R342). -/
def stuckPorts (s : State) (c : Nat) : List PortDef :=
  (portList s).filter (fun p =>
    p.out && p.blocking && !portIsolated s p c && !outDone s p c && !outRoom s p && validNow s p)

/-- The header of a message record (R346). -/
def recordHeader (cycle tag : Nat) : List Byte := leBytes 2 tag ++ leBytes 6 cycle

/-- The bytes of a record of an output value (R339, R346). -/
def outRecord (p : PortDef) (kind c v : Nat) : List Byte :=
  if isMsg kind then
    recordHeader c 0 ++ slice (leBytes (payloadBytes p) v) 0 ((payloadBytes p + 7) / 8 * 8)
  else leBytes (payloadBytes p) v

/-- An output port at B2 of cycle `c` (R338, R341, R345): nothing, a record reserved, or a value to be dropped. -/
def sendPort (s : State) (c : Nat) (p : PortDef) : State :=
  let x := s.dies[Fin.ofNat 4 p.die]
  if x.regBits.get false (presOutKey p p.width) then
    let v := presValue x.regBits p
    match outChan s p with
    | none => onChn s (fun h => { h with reserved := h.reserved ++ [⟨true, p.port, c, none, 0, 0, 0, v⟩] })
    | some (k, y) =>
      let r := recordLen p y.kind
      if hasRoom y r then
        let s := fifoWrite s y y.alloc (outRecord p y.kind c v)
        let s := setCtx s k { y with alloc := y.alloc + r }
        onChn s (fun h => { h with reserved := h.reserved ++ [⟨true, p.port, c, some k, y.gen, y.alloc, r, v⟩] })
      else onChn s (fun h => { h with reserved := h.reserved ++ [⟨true, p.port, c, some k, y.gen, y.alloc, 0, v⟩] })
  else s

/-- B2 of cycle `c` on die `d`: its output ports enter their values (R20, R338). -/
def outPortsB2 (s : State) (d : Nat) (c : Nat) : State :=
  ((portList s).filter (fun p => p.out && p.die = d && !portIsolated s p c)).foldl (fun t p => sendPort t c p) s

/-! ### Input ports at the boundary -/

/-- The value of a record: its payload's bits (R337, R339). -/
def recordValue (s : State) (x : ChanCtx) (p : PortDef) (b : Nat) : Nat :=
  leNat (fifoRead s x (if isMsg x.kind then b + 8 else b) (payloadBytes p)) % 2 ^ p.width

/-- An input port at B4 of cycle `c` takes the record it chose for cycle `c + 1` (R337, R341). -/
def takePort (s : State) (c : Nat) (p : PortDef) : State :=
  let again := s.chn.again.find? (fun r => r.port = p.port && r.cycle = c + 1)
  let s := match again with
    | some r => onChn s (fun h => { h with
        reserved := h.reserved ++ [r]
        again := h.again.filter (fun q => !(q.port = p.port && q.cycle = c + 1)) })
    | none => match s.chn.chosen.get none p.port with
      | some (c', some k) =>
        if c' = c + 1 then
          let x := chanCtx s k
          let b := x.rd + inReservedBytes s k
          onChn (fifoServe s x b (recordLen p x.kind)) (fun h => { h with reserved := h.reserved ++
            [⟨false, p.port, c + 1, some k, x.gen, b, recordLen p x.kind, recordValue s x p b⟩] })
        else s
      | _ => onChn s (fun h => { h with reserved := h.reserved ++ [⟨false, p.port, c + 1, none, 0, 0, 0, 0⟩] })
  onChn s (fun h => { h with chosen := h.chosen.set none p.port none })

/-- B4 of cycle `c` on die `d` (R20, R337). -/
def inPortsB4 (s : State) (d : Nat) (c : Nat) : State :=
  ((portList s).filter (fun p => !p.out && p.die = d && !portIsolated s p c)).foldl (fun t p => takePort t c p) s

/-- The port-input bits that an input port presents for cycle `c` (R337). -/
def presentPort (s : State) (c : Nat) (m : SMap Bool) (p : PortDef) : SMap Bool :=
  let r := s.chn.reserved.find? (fun r => !r.out && r.port = p.port && r.cycle = c)
  let (v, ok) := match r with
    | some r => (if r.chan.isSome then r.value else 0, r.chan.isSome)
    | none => (0, false)
  let m := (List.range p.width).foldl (fun m i => m.set false (presInKey p i) (v.testBit i)) m
  if p.blocking then m else m.set false (presInKey p p.width) ok

/-- B6 on die `d`: port-input bits for cycle `c` from its message ports (R20, R337). -/
def presentB6 (s : State) (d : Fin 4) (c : Nat) : State :=
  let ps := (portList s).filter (fun p => !p.out && p.die = d.val && !portIsolated s p c)
  onDie s d (fun x => { x with portIn := ps.foldl (presentPort s c) x.portIn })

/-! ### Work items -/

/-- Items of a channel not released. -/
def chanItems (s : State) (c : Nat) : List WorkItem := s.chn.items.filter (fun i => i.chan = c)

/-- Two records of one item. -/
def sameItem (a b : WorkItem) : Bool := a.chan = b.chan && a.gen = b.gen && a.seq = b.seq

/-- The state with an item changed. -/
def onItem (s : State) (i : WorkItem) (g : WorkItem → WorkItem) : State :=
  onChn s (fun h => { h with items := h.items.map (fun j => if sameItem i j then g j else j) })

/-- The bytes that an H2D item reserves lie within the FIFO: it does not wait for room (R348).  A STREAM_POST longer than
its FIFO waits until its channel closes. -/
def hasPlace (s : State) (i : WorkItem) : Bool :=
  let x := chanCtx s i.chan
  i.type ≠ 1 || !isH2D x.kind || i.position + i.length ≤ x.rd + fifoSize x

/-- An item not yet dispatched (R359). -/
def undispatched (i : WorkItem) : Bool := i.engine.isNone && i.done.isNone

/-- An item that an engine may take now (R348, R359): not dispatched, its reservation within the FIFO. -/
def dispatchable (s : State) (i : WorkItem) : Bool := undispatched i && hasPlace s i

/-- The channel stands in its ready list (R359). -/
def chanReady (s : State) (c : Nat) : Bool :=
  let is := chanItems s c
  is.any undispatched && (is.filter (fun i => i.engine.isSome || i.done.isSome)).length < 256

/-- The ready lists after something changed in a channel (R359); `front` puts the channel at the head (R365). -/
def refreshReady (s : State) (c : Nat) (front : Bool) : State :=
  let p := (chanCtx s c).priority
  let l := s.chn.ready.get [] p
  let l' := if chanReady s c then
      (if front then c :: l.filter (· ≠ c) else if l.contains c then l else l ++ [c])
    else l.filter (· ≠ c)
  let s := onChn s (fun h => { h with ready := h.ready.set [] p l' })
  setF s (F.CHN_READY_CHANNELS p) l'.length

/-- A work item made for a channel (R358). -/
def makeItem (s : State) (c : Nat) (i : WorkItem) : State :=
  let x := chanCtx s c
  let s := onChn s (fun h => { h with items := h.items ++ [{ i with
    chan := c, gen := x.gen, seq := x.nextSeq, fill := x.wr - x.rd }] })
  refreshReady (setCtx s c { x with nextSeq := (x.nextSeq + 1) % 65536 }) c false

/-- An item of no particular content. -/
def blankItem : WorkItem :=
  { chan := 0, gen := 0, seq := 0, type := 2, position := 0, length := 0, cycle := 0, fill := 0, desc := none, opcode := 0,
    address := 0, payload := [], inlined := false, engine := none, done := none, settled := false, moved := 0 }

/-- Nothing of a generation of the channel remains in flight (R353, R356). -/
def chanIdle (s : State) (c gen : Nat) : Bool :=
  !(s.chn.items.any (fun i => i.chan = c && i.gen = gen)) &&
    !((s.chn.reserved ++ s.chn.again).any (fun r => r.chan = some c && r.gen = gen)) &&
    !(s.chn.sent.any (fun m => m.chan = c && m.gen = gen)) && !chosenOf s c

/-- A CLOSING channel of which nothing remains in flight becomes FREE (R356). -/
def finishClose (s : State) (c : Nat) : State :=
  let x := chanCtx s c
  if x.state = 2 ∧ chanIdle s c x.gen then
    let ds := s.chn.closing.get [] c
    let s := setCtx s c { ChanCtx.free with gen := (x.gen + 1) % 64 }
    let s := onChn s (fun h => { h with
      closing := h.closing.set [] c [], drain := h.drain.set none c none, drained := h.drained.set false c false })
    let s := setF s F.CHN_OPEN_COUNT_COUNT (getF s F.CHN_OPEN_COUNT_COUNT - 1)
    ds.foldl (fun t d => complete t d stOK 0) s
  else s

/-- The FIFO byte of a D2H channel from which the next value goes to the host: past what done items have removed. -/
def deliveredTo (s : State) (c : Nat) : Nat :=
  (chanCtx s c).rd + ((chanItems s c).map (fun i => match i.done with
    | some r => if i.settled then 0 else r.consumed
    | none => 0)).foldl (· + ·) 0

/-- The RESULT of a work item as R355 gives it: the cycle of the message that a MSG_RECV takes (the one that its own CONSUMED
removes, or the last one removed), the bytes written into a D2H STREAM_POST's buffer, LENGTH of an H2D one. -/
def resultOf (s : State) (i : WorkItem) (r : DoneRecord) : Nat :=
  let x := chanCtx s i.chan
  if isH2D x.kind then i.length
  else if isMsg x.kind then
    let b := if r.consumed = 0 then deliveredTo s i.chan - chanRecord s x else x.rd
    leNat ((fifoRead s x b 8).drop 2)
  else i.moved

/-- One item is released (R364, R366); one that a FLUSH, a close or a host reset has ended has no other effect (R349,
R356, R367). -/
def releaseItem (s : State) (i : WorkItem) (r : DoneRecord) : State :=
  let x := chanCtx s i.chan
  let s := onChn s (fun h => { h with items := h.items.filter (fun j => !sameItem i j) })
  if x.gen ≠ i.gen then bumpF s F.CHN_STALE_ITEMS 1
  else
    let x := { x with releaseSeq := (x.releaseSeq + 1) % 65536 }
    if isH2D x.kind then
      let s := setCtx s i.chan { x with wr := max x.wr (i.position + i.length) }
      let s := if i.settled && i.length ≠ 0 then discardFree s i.chan else s
      match i.desc with
      | some d =>
        if i.settled then s
        else if i.opcode = 0x32 then
          onChn s (fun h => { h with sent := h.sent ++ [⟨i.chan, i.gen, i.position, i.length, d, r.status.toNat⟩] })
        else if r.post then complete s d r.status.toNat ((r.result.map BitVec.toNat).getD i.length)
        else s
      | none => s
    else
      let n := if i.settled then 0 else min r.consumed (x.wr - x.rd)
      let v := (r.result.map BitVec.toNat).getD (resultOf s i r)
      let s := setCtx s i.chan { x with
        rd := x.rd + n, values := (x.values + n / chanRecord s x) % 2 ^ 32 }
      let timer := if x.rd + n < x.wr ∧ x.kind = 2 ∧ x.timeoutUs ≠ 0 then some (timeNs s) else none
      let s := if n = 0 then s else onChn s (fun h => { h with drain := h.drain.set none i.chan timer })
      match i.desc with
      | some d => if r.post && !i.settled then complete s d r.status.toNat v else s
      | none => s

/-- The items of a channel that are done are released in SEQ order, at most `n` of them (R364). -/
def releaseDone (s : State) (c : Nat) : Nat → State
  | 0 => s
  | n + 1 =>
    match (chanItems s c).find? (fun i => i.seq = (chanCtx s c).releaseSeq ∧ i.gen = (chanCtx s c).gen) with
    | some i => match i.done with
      | some r => releaseDone (releaseItem s i r) c n
      | none => s
    | none => s

/-- Items of older generations that are done are dropped and counted (R366). -/
def dropStale (s : State) (c : Nat) : State :=
  ((chanItems s c).filter (fun i => i.gen ≠ (chanCtx s c).gen && i.done.isSome)).foldl
    (fun t i => releaseItem t i ⟨0, false, 0, none⟩) s

/-- Everything that follows a change of a channel's items: releases in order, ready lists, a close that ends. -/
def settleChan (s : State) (c : Nat) : State :=
  finishClose (refreshReady (releaseDone (dropStale s c) c ((chanItems s c).length)) c false) c

/-! ### Dispatch (R359 to R361) -/

/-- The lowest item slot that an engine does not hold. -/
def freeSlot (s : State) (e : Nat) : Option Nat :=
  (List.range 8).find? (fun k => !(s.chn.items.any (fun i => i.engine = some (e, k) && i.done.isNone)))

/-- The channel whose item is dispatched next: the head of the highest ready list (R359). -/
def nextReady (s : State) : Option Nat :=
  [7, 6, 5, 4, 3, 2, 1, 0].findSome? (fun l => (s.chn.ready.get [] l).find? (fun c => (chanItems s c).any (dispatchable s)))

/-- The 32 bytes of a work item (R362). -/
def itemBytes (s : State) (i : WorkItem) : List Byte :=
  let x := chanCtx s i.chan
  let h2d := i.type = 1 ∧ isH2D x.kind
  leBytes 4 (i.chan + i.gen * 2 ^ 18) ++ leBytes 2 i.seq ++ leBytes 1 i.type ++ leBytes 1 (x.priority + 8 * x.kind) ++
    leBytes 8 i.position ++ leBytes 4 (if h2d then i.length else i.fill) ++
    leBytes 2 (match i.desc with | some d => d.tag.toNat | none => 0) ++ leBytes 2 (x.session + x.sessionGen * 4096) ++
    leBytes 8 i.cycle

/-- The 64 bytes of the descriptor of a work item of type 1 (R310, R351). -/
def descBytes (s : State) (i : WorkItem) (d : Desc) : List Byte :=
  let w := match portOf s (chanCtx s i.chan).port with | some p => p.width | none => 0
  let ops := if i.opcode = 0x32 then leBytes 2 w ++ leBytes 1 (b2n i.inlined) ++ leBytes 5 0 ++
      (if i.inlined then slice i.payload 0 32 else leBytes 32 0)
    else leBytes 4 i.length ++ leBytes 36 0
  leBytes 1 i.opcode ++ leBytes 1 (b2n d.irq + 2 * b2n d.link + 4 * b2n d.fence) ++ leBytes 2 d.tag.toNat ++
    leBytes 4 d.sgen.toNat ++ leBytes 4 (i.chan + i.gen * 2 ^ 18) ++ leBytes 4 0 ++ leBytes 8 i.address ++ ops

/-- The item goes into slot `k` of engine `e`, and its descriptor into the slot's copy (R361). -/
def fillSlot (s : State) (e k : Nat) (i : WorkItem) : State :=
  let put := fun (a : Nat) (bs : List Byte) (m : Memory) => Memory.writeBytes zeroFill m (e * 1024 + a) bs
  onChn s (fun h => { h with areas :=
    let m := put (32 * k) (itemBytes s i) h.areas
    match i.desc with
    | some d => if i.type = 1 then put (0x200 + 64 * k) (descBytes s i d) m else m
    | none => m })

/-- An item goes to a slot of an engine, and the load of DISPATCH_TAKE returns its slot plus 1 (R361). -/
def dispatchTo (s : State) (e k : Nat) : State :=
  match nextReady s with
  | none => s
  | some c => match (chanItems s c).find? (dispatchable s) with
    | none => s
    | some i =>
      let s := onItem (fillSlot s e k i) i (fun j => { j with engine := some (e, k) })
      let s := setFBit s F.CHN_ENGINE_WAIT_WAIT e false
      emit (refreshReady s c false) (.readValue (16 + e) (k + 1))

/-- Engines that stall in DISPATCH_TAKE are served while items are ready, the lowest engine first (R361). -/
def serveEngines (s : State) : State :=
  (List.range 32).foldl (fun t e =>
    if (getF t F.CHN_ENGINE_WAIT_WAIT).testBit e && (nextReady t).isSome then
      match freeSlot t e with
      | some k => dispatchTo t e k
      | none => t
    else t) s

/-! ### Commit and abandonment of the ports' reservations (R341, R345) -/

/-- The completion of the MSG_SEND whose record lies at `b`, at the commit of cycle `c` (R354). -/
def completeSent (s : State) (k gen b c : Nat) : State :=
  let mine := fun (m : SentMsg) => m.chan = k && m.gen = gen && m.start = b
  let ms := s.chn.sent.filter mine
  let s := onChn s (fun h => { h with sent := h.sent.filter (fun m => !mine m) })
  ms.foldl (fun t m => complete t m.desc m.status c) s

/-- The release of one reservation at the commit of its cycle (R341, R345, R366). -/
def commitRes (s : State) (r : PortRes) : State :=
  match r.chan with
  | none => if r.out then bumpF s F.CHN_PORT_DROPS_COUNT 1 else s
  | some k =>
    let x := chanCtx s k
    if x.gen ≠ r.gen then bumpF s F.CHN_STALE_ITEMS 1
    else if r.out then
      if r.length = 0 then
        setB (setCtx s k { x with drops := saturate 32 (x.drops + 1), overrun := true }) F.CHN_STATUS_OVERRUN true
      else
        let y := { x with wr := x.wr + r.length, lastCycle := r.cycle % 2 ^ 32 }
        let s := setCtx s k y
        let s := if x.wr = x.rd ∧ x.kind = 2 ∧ x.timeoutUs ≠ 0
          then onChn s (fun h => { h with drain := h.drain.set none k (some (timeNs s)) }) else s
        if x.state = 1 then
          makeItem s k { blankItem with position := y.rd, length := y.wr - y.rd, cycle := r.cycle }
        else s
    else
      let s := setCtx s k { x with
        rd := x.rd + r.length, values := (x.values + 1) % 2 ^ 32, lastCycle := r.cycle % 2 ^ 32 }
      completeSent s k r.gen r.position r.cycle

/-- The channels' part of the commit of cycle `c` (R27, R341); what it makes ready goes to engines that stall (R361). -/
def chnCommit (s : State) (c : Nat) : State :=
  let rs := s.chn.reserved.filter (fun r => r.cycle = c)
  let s := onChn s (fun h => { h with reserved := h.reserved.filter (fun r => r.cycle ≠ c) })
  let s := rs.foldl commitRes s
  serveEngines ((rs.filterMap PortRes.chan).foldl settleChan s)

/-- MSG_SENDs of CLOSING channels whose records no port holds any more complete with CLOSED (R356). -/
def closeSent (s : State) : State :=
  let dead := fun (m : SentMsg) => (chanCtx s m.chan).state = 2 && (chanCtx s m.chan).gen = m.gen &&
    !recordHeld s m.chan m.start
  let ms := s.chn.sent.filter dead
  let s := onChn s (fun h => { h with sent := h.sent.filter (fun m => !dead m) })
  let s := ms.foldl (fun t m => complete t m.desc 0x48 0) s
  (ms.map SentMsg.chan).foldl finishClose s

/-- The channels' part of abandoning every cycle from `b` on (R341): output records return, and input records stay in
their channels, to be taken again in order where the cycles are replayed. -/
def chnAbandon (s : State) (b : Nat) (replayed : Bool) : State :=
  let out := s.chn.reserved.filter (fun r => r.out && b ≤ r.cycle)
  let ins := s.chn.reserved.filter (fun r => !r.out && b < r.cycle)
  let s := onChn s (fun h => { h with
    reserved := h.reserved.filter (fun r => if r.out then r.cycle < b else r.cycle ≤ b)
    again := if replayed then h.again ++ ins else []
    chosen := []
    outDecided := min h.outDecided b
    inDecided := min h.inDecided b })
  let s := (out.filterMap PortRes.chan).foldl (fun t k => setCtx t k { chanCtx t k with alloc := (chanCtx t k).wr }) s
  let s := closeSent s
  ((out ++ ins).filterMap PortRes.chan).foldl finishClose s

end Sys2Proof.Machine
end

