-- ==== Sys2Proof/Machine/ChannelCommands.lean ====
section
/-! DEFINITION. The commands over message channels: the channel descriptors (R351 to R356), the drain timer (R350), the
channel engines (R360 to R365) and the CHN registers that act (R334, R360). -/

namespace Sys2Proof.Machine

/-! ### Descriptor checks (R352) -/

/-- A channel operation that no CLOSING channel takes, and its kinds (R351, R352). -/
structure ChanOp where
  kinds : List Nat
  openOnly : Bool
  deriving DecidableEq, Repr

/-- The first failing check of a channel descriptor other than CH_OPEN (R352). -/
def chanStatus (s : State) (d : Desc) (r : ChanRef) (op : ChanOp) : Option Nat :=
  let x := chanCtx s r.chan
  if r.gen.toNat ≠ x.gen then some 0x40
  else if x.state = 0 then some 0x41
  else if x.session ≠ d.session.val ∨ x.sessionGen ≠ d.sgen.toNat then some stWrongOwner
  else if op.kinds.contains x.kind = false ∨ (op.openOnly ∧ x.state = 2) then some 0x43
  else none

/-- A channel descriptor under the checks of R352; a STALE_CHANNEL is counted. -/
def chanDesc (d : Desc) (i : Instr) (r : ChanRef) (op : ChanOp) (k : State → State) (s : State) : State :=
  startDesc d i (ungrouped d (fun s =>
    match chanStatus s d r op with
    | some st => complete (if st = 0x40 then bumpF s F.CHN_STALE_DESCRIPTORS 1 else s) d st 0
    | none => k s)) s

/-! ### CH_OPEN (R353) -/

/-- The reason for which CH_OPEN fails, if it does (R353). -/
def openStatus (s : State) (c kind priority port timeout offset window sizeLog : Nat) : Option Nat :=
  let x := chanCtx s c
  let pd := match s.ingot with
    | some g => if emState s = 0 then none else (g.msgPorts[port]?).bind decodePort
    | none => none
  if x.state ≠ 0 ∨ chanIdle s c x.gen = false then some 0x42
  else match pd with
    | none => some 0x44
    | some p =>
      let bound := boundChans s p.port
      if (kind < 4 ∧ p.out = isH2D kind) ∨ (p.out ∧ bound ≠ []) ∨ (!p.out ∧ 256 ≤ bound.length) then some 0x44
      else if 16 ≤ window ∨ winOwned s window 3 = false ∨ sizeLog < 12 ∨ 32 < sizeLog ∨ offset % 4096 ≠ 0 ∨
          winSize s window < offset + 2 ^ sizeLog then some 0x45
      else if 4 ≤ kind ∨ 8 ≤ priority ∨ 1000000 < timeout then some stBadDescriptor
      else none

/-- CH_OPEN (R353): the channel becomes OPEN with a fresh context. -/
def execChOpen (d : Desc) (r : ChanRef) (kind priority : Byte) (port : BitVec 16) (timeoutUs : Word)
    (fifoOffset : DWord) (fifoWindow sizeLog2 : Byte) (s : State) : Host.Outcome State Fault Refusal :=
  .next (startDesc d (.chOpen d r kind priority port timeoutUs fifoOffset fifoWindow sizeLog2) (ungrouped d (fun s =>
    match openStatus s r.chan kind.toNat priority.toNat port.toNat timeoutUs.toNat fifoOffset.toNat fifoWindow.toNat
        sizeLog2.toNat with
    | some st => complete s d st 0
    | none =>
      let gen := (chanCtx s r.chan).gen
      let dev := match s.ingot with
        | some g => ((g.msgPorts[port.toNat]?).bind decodePort).elim 0 PortDef.port
        | none => 0
      let s := setCtx s r.chan { ChanCtx.free with
        gen := gen, kind := kind.toNat, priority := priority.toNat, state := 1, sessionGen := d.sgen.toNat,
        session := d.session, port := dev, window := fifoWindow.toNat, sizeLog := sizeLog2.toNat,
        timeoutUs := timeoutUs.toNat, fifoOffset := fifoOffset.toNat }
      complete (wrapF s F.CHN_OPEN_COUNT_COUNT 1) d stOK gen)) s)

/-! ### Closing (R356, R357) -/

/-- A pending item of a channel that closes: its descriptor completes, and it counts as done. -/
def cancelItem (status : Nat) (s : State) (i : WorkItem) : State :=
  let s := match i.desc with
    | some d => if i.settled then s else complete s d status 0
    | none => s
  onItem s i (fun j => { j with
    settled := true
    done := if j.engine.isSome && j.done.isNone then none
      else match j.done with
        | some r => some r
        | none => some ⟨BitVec.ofNat 8 status, false, 0, none⟩ })

/-- MSG_SENDs whose records no port holds complete with a status as their bytes are discarded (R349, R356). -/
def endSent (s : State) (c st : Nat) : State :=
  let gone := fun (m : SentMsg) => m.chan = c && !recordHeld s c m.start
  let ms := s.chn.sent.filter gone
  let s := onChn s (fun h => { h with sent := h.sent.filter (fun m => !gone m) })
  ms.foldl (fun t m => complete t m.desc st 0) s

/-- The boundary that software sees stands: LOADED, STOPPED or FAULTED (R21). -/
def boundaryStands (s : State) : Bool := emState s == 1 || emState s == 4 || emState s == 5

/-- A record that a closing channel has given for the next cycle is part of the visible boundary: its MSG_SEND completes,
and it leaves the channel (R356). -/
def closeTaken (s : State) (c : Nat) : State :=
  let taken := s.chn.reserved.filter (fun r => !r.out && r.chan = some c)
  let s := onChn s (fun h => { h with reserved := h.reserved.map (fun r =>
    if !r.out && r.chan = some c then { r with chan := none } else r) })
  taken.foldl (fun t r => completeSent t c r.gen r.position r.cycle) s

/-- The CLOSING channels as the machine comes to rest (R356). -/
def closeRest (s : State) : State :=
  ((s.chn.ctxs.filter (fun e => e.2.state = 2)).map Prod.fst).foldl (fun t c => finishClose (closeTaken t c) c) s

/-- A channel closes (R356): no further descriptor is recorded here. -/
def closeChan (s : State) (c : Nat) : State :=
  let x := chanCtx s c
  if x.state = 1 then
    let s := endSent (setCtx s c { x with state := 2 }) c 0x48
    let s := if isH2D x.kind then discardFree s c else setCtx s c { chanCtx s c with rd := x.wr }
    let s := (chanItems s c).foldl (cancelItem 0x48) s
    settleChan (if boundaryStands s then closeTaken s c else s) c
  else s

/-- CH_CLOSE (R356): completes when the channel becomes FREE. -/
def execChClose (d : Desc) (r : ChanRef) (s : State) : Host.Outcome State Fault Refusal :=
  .next (chanDesc d (.chClose d r) r ⟨[0, 1, 2, 3], false⟩ (fun s =>
    let s := onChn s (fun h => { h with closing := h.closing.modify [] r.chan (· ++ [d]) })
    if (chanCtx s r.chan).state = 1 then closeChan s r.chan else finishClose s r.chan) s)

/-- Every channel that `which` holds of closes (R357). -/
def closeChans (s : State) (which : ChanCtx → Bool) : State :=
  ((s.chn.ctxs.filter (fun e => e.2.state = 1 && which e.2)).map Prod.fst).foldl closeChan s

/-! ### Channel operations (R354, R355) -/

/-- A work item for a descriptor of an H2D kind: its bytes are reserved at ALLOC (R358). -/
def reserveItem (s : State) (c n : Nat) (i : WorkItem) : State :=
  let x := chanCtx s c
  serveEngines (makeItem (setCtx s c { x with alloc := x.alloc + n }) c { i with position := x.alloc, length := n })

/-- MSG_SEND (R354). -/
def execMsgSend (d : Desc) (r : ChanRef) (addr : DWord) (bits : BitVec 16) (inlined : Bool)
    (payload : List Byte) (s : State) : Host.Outcome State Fault Refusal :=
  .next (chanDesc d (.msgSend d r addr bits inlined payload) r ⟨[0], true⟩ (fun s =>
    match portOf s (chanCtx s r.chan).port with
    | none => complete s d 0x46 0
    | some p =>
      if bits.toNat ≠ p.width ∨ (inlined ∧ 256 < bits.toNat) then complete s d 0x46 0
      else reserveItem s r.chan (recordLen p 0) { blankItem with
        type := 1, desc := some d, opcode := 0x32, address := addr.toNat, payload := slice payload 0 (payloadBytes p)
        inlined := inlined }) s)

/-- The whole values that `room` bytes of a posted buffer receive from the FIFO, for a drain (R350, R355). -/
def drainBytes (s : State) (c room : Nat) : List Byte :=
  let x := chanCtx s c
  let r := chanRecord s x
  let b := deliveredTo s c
  fifoRead s x b (min (x.wr - b) room / r * r)

/-- The oldest posted buffer of a channel receives, behind what deliveries have put into it, every whole value present, and
ends with the timeout flag (R350). -/
def drainInto (s : State) (c : Nat) (i : WorkItem) : State :=
  let bs := drainBytes s c (i.length - i.moved)
  let s := fifoServe s (chanCtx s c) (deliveredTo s c) bs.length
  let s := emit s (.hostWrite (i.address + i.moved) bs)
  let s := onItem s i (fun j => { j with
    moved := i.moved + bs.length
    done := some ⟨0, true, bs.length, some (BitVec.ofNat 64 (2 ^ 32 + i.moved + bs.length))⟩ })
  settleChan s c

/-- The oldest buffer posted to a channel and not yet done. -/
def oldestBuffer (s : State) (c : Nat) : Option WorkItem :=
  (chanItems s c).find? (fun i => i.type = 1 && i.done.isNone && !i.settled)

/-- MSG_RECV (R355): a buffer for one message. -/
def execMsgRecv (d : Desc) (r : ChanRef) (addr : DWord) (length : Word) (s : State) :
    Host.Outcome State Fault Refusal :=
  .next (chanDesc d (.msgRecv d r addr length) r ⟨[1], true⟩ (fun s =>
    match portOf s (chanCtx s r.chan).port with
    | none => complete s d 0x46 0
    | some p =>
      if length.toNat < payloadBytes p then complete s d 0x46 0
      else serveEngines (makeItem s r.chan { blankItem with
        type := 1, desc := some d, opcode := 0x33, address := addr.toNat, length := length.toNat,
        position := (chanCtx s r.chan).rd })) s)

/-- STREAM_POST (R355): a buffer for a stream; where a drain timer has expired with none posted, it is served and
completed at once (R350). -/
def execStreamPost (d : Desc) (r : ChanRef) (addr : DWord) (length : Word) (s : State) :
    Host.Outcome State Fault Refusal :=
  .next (chanDesc d (.streamPost d r addr length) r ⟨[2, 3], true⟩ (fun s =>
    let x := chanCtx s r.chan
    if length = 0 ∨ 2 ^ 24 < length.toNat then complete s d 0x46 0
    else
      let it := { blankItem with type := 1, desc := some d, opcode := 0x34, address := addr.toNat }
      if x.kind = 3 then reserveItem s r.chan length.toNat it
      else
        let s := makeItem s r.chan { it with length := length.toNat, position := x.rd }
        if s.chn.drained.get false r.chan then
          let s := onChn s (fun h => { h with drained := h.drained.set false r.chan false })
          match oldestBuffer s r.chan with
          | some b => drainInto s r.chan b
          | none => s
        else serveEngines s) s)

/-- FLUSH of an H2D kind (R349): what lies in the FIFO is discarded, but for what a port has reserved. -/
def flushIn (s : State) (c : Nat) : State :=
  let x := chanCtx s c
  let r := chanRecord s x
  let pend := (chanItems s c).filter (fun i => !i.settled && hasPlace s i)
  let past := pend.foldl (fun m i => max m (i.position + i.length)) x.wr
  let n := past - (x.rd + heldBytes s c)
  let s := discardFree (endSent s c 0x47) c
  let s := setCtx s c { chanCtx s c with drops := saturate 32 (x.drops + (n + r - 1) / r) }
  pend.foldl (cancelItem 0x47) s

/-- The payload bytes of one value of a channel. -/
def valueBytes (s : State) (x : ChanCtx) : Nat :=
  match portOf s x.port with
  | some p => payloadBytes p
  | none => 1

/-- FLUSH of a D2H kind (R349): every released record is discarded, and deliveries in progress are cancelled. -/
def flushOut (s : State) (c : Nat) : State :=
  let x := chanCtx s c
  let r := chanRecord s x
  let v := valueBytes s x
  let n := x.wr - x.rd
  let held := fun (i : WorkItem) => i.chan = c && i.done.isNone && !i.settled &&
    if i.type = 1 then decide (0 < i.moved) else i.engine.isSome
  let busy := s.chn.items.filter (fun i => held i && i.type = 1)
  let s := setCtx s c { x with rd := x.wr, drops := saturate 32 (x.drops + (n + r - 1) / r) }
  let s := onChn s (fun h => { h with
    drain := h.drain.set none c none
    items := h.items.map (fun i => if held i then { i with settled := true } else i) })
  let s := busy.foldl (fun t i => match i.desc with
    | some d => complete t d 0x47 (i.moved / v * v)
    | none => t) s
  if busy = [] then s else makeItem s c { blankItem with type := 4, position := x.wr }

/-- FLUSH (R349): the FIFO is emptied of what no port and no uncommitted cycle holds. -/
def flushChan (s : State) (c : Nat) : State := if isH2D (chanCtx s c).kind then flushIn s c else flushOut s c

/-- OVERRUN of a channel is cleared, where a CH_CONTROL asks for it (R351). -/
def clearOverrun (s : State) (c : Nat) (clear : Bool) : State :=
  if clear then setCtx s c { chanCtx s c with overrun := false } else s

/-- CH_CONTROL with FLUSH (R349, R351). -/
def execFlush (d : Desc) (c : ChControl) (s : State) : Host.Outcome State Fault Refusal :=
  let k := c.ref.chan
  .next (chanDesc d (.flush d c) c.ref ⟨[0, 1, 2, 3], false⟩ (fun s =>
    serveEngines (settleChan (complete (clearOverrun (flushChan s k) k c.clear) d stOK 0) k)) s)

/-- CH_CONTROL without FLUSH (R351). -/
def execClearOverrun (d : Desc) (c : ChControl) (s : State) : Host.Outcome State Fault Refusal :=
  .next (chanDesc d (.clearOverrun d c) c.ref ⟨[0, 1, 2, 3], false⟩ (fun s =>
    complete (clearOverrun s c.ref.chan c.clear) d stOK 0) s)

/-- CH_QUERY (R351): the 64-byte context goes to host memory. -/
def execChQuery (d : Desc) (r : ChanRef) (addr : DWord) (hostOk : Bool) (s : State) :
    Host.Outcome State Fault Refusal :=
  .next (chanDesc d (.chQuery d r addr hostOk) r ⟨[0, 1, 2, 3], false⟩ (fun s =>
    complete (hostWrite s hostOk addr.toNat (ctxBytes (chanCtx s r.chan))) d (if hostOk then stOK else stHostFault) 0) s)

/-- A drain timer expires (R350, R358): a TIMEOUT item is made, and the oldest posted buffer is filled and ends, or the
next buffer posted will be. -/
def execDrainTimeout (chan : Fin 262144) (s : State) : Host.Outcome State Fault Refusal :=
  let x := chanCtx s chan
  .next (
    if (s.chn.drain.get none chan).isSome ∧ x.state = 1 ∧ x.kind = 2 ∧ x.rd < x.wr then
      let s := onChn s (fun h => { h with drain := h.drain.set none chan none })
      let b := oldestBuffer s chan
      let s := makeItem s chan { blankItem with type := 3, position := x.rd, length := x.wr - x.rd }
      match b with
      | some i => serveEngines (drainInto s chan i)
      | none => serveEngines (onChn s (fun h => { h with drained := h.drained.set false chan true }))
    else s)

/-! ### Engines -/

/-- The channel engines are out of reset (R360). -/
def enginesRun (s : State) : Bool := getB s F.CHN_CTRL_ENGINES_EN

/-- A load from DISPATCH_TAKE (R361). -/
def execDispatchTake (e : Fin 32) (s : State) : Host.Outcome State Fault Refusal :=
  .next (
    if enginesRun s then
      let s := setB s F.CHN_STATUS_RUNNING true
      if (getF s F.CHN_ENGINE_STOP_STOP).testBit e then emit s (.readValue (16 + e) 0)
      else match freeSlot s e with
        | none => emit s (.readValue (16 + e) 0xFFFFFFFF)
        | some k => match nextReady s with
          | none => setFBit s F.CHN_ENGINE_WAIT_WAIT e true
          | some _ => dispatchTo s e k
    else s)

/-- The record that the runtime has written for a MSG_SEND by the time its item is done (R346). -/
def writeSent (s : State) (i : WorkItem) : State :=
  let x := chanCtx s i.chan
  match i.desc with
  | some d =>
    if i.opcode = 0x32 ∧ x.gen = i.gen then
      fifoWrite s x i.position (slice (recordHeader 0 d.tag.toNat ++ i.payload) 0 i.length)
    else s
  | none => s

/-- A store to DISPATCH_DONE (R363, R364): the item of the slot is done, and done items are released in order. -/
def execDispatchDone (e : Fin 32) (slot : Fin 8) (record : DoneRecord) (s : State) : Host.Outcome State Fault Refusal :=
  .next (
    match s.chn.items.find? (fun i => i.engine = some (e.val, slot.val) && i.done.isNone) with
    | some i =>
      let rec' := leBytes 1 record.status.toNat ++ leBytes 1 (b2n record.post) ++ leBytes 2 0 ++ leBytes 4 record.consumed ++
        leBytes 8 ((record.result.map BitVec.toNat).getD (resultOf s i record))
      let s := onChn s (fun h => { h with
        areas := Memory.writeBytes zeroFill h.areas (e.val * 1024 + 0x100 + 16 * slot.val) rec' })
      let s := onItem (writeSent s i) i (fun j => { j with done := some record })
      serveEngines (settleChan s i.chan)
    | none => s)

/-- A location of the copy unit (R360): SPACE 1 local memory, SPACE 2 a FIFO window. -/
def copyOk (s : State) (a n : Nat) : Bool :=
  match bitsOf a 62 2 with
  | 0 => true
  | 1 => bitsOf a 0 62 + n ≤ 65536
  | 2 => winOwned s (bitsOf a 56 4) 3 && bitsOf a 0 40 + n ≤ winSize s (bitsOf a 56 4)
  | _ => false

/-- What a copy unit reads (R360). -/
def copyRead (s : State) (e a n : Nat) (hostData : List Byte) : List Byte :=
  match bitsOf a 62 2 with
  | 0 => slice hostData 0 n
  | 1 => Memory.readBytes marchFill s.chn.local_ (e * 65536 + bitsOf a 0 62) n
  | _ => winReadBytes s (bitsOf a 56 4) (bitsOf a 0 40) n

/-- What a copy unit's read meets in the HBM (R229, R230). -/
def copyMeets (s : State) (a n : Nat) : State :=
  if bitsOf a 62 2 = 2 then (winServe s (bitsOf a 56 4) (bitsOf a 0 40) n).1 else s

/-- What a copy unit writes (R360). -/
def copyWrite (s : State) (e a : Nat) (bs : List Byte) : State :=
  match bitsOf a 62 2 with
  | 0 => emit s (.hostWrite (bitsOf a 0 62) bs)
  | 1 => onChn s (fun h => { h with local_ := Memory.writeBytes marchFill h.local_ (e * 65536 + bitsOf a 0 62) bs })
  | _ => winWriteBytes s (bitsOf a 56 4) (bitsOf a 0 40) bs

/-- Bytes moved into the buffer of a posted item that some engine holds (R349, R350). -/
def noteMoved (s : State) (a n : Nat) : State :=
  match s.chn.items.find? (fun i => i.engine.isSome && i.type = 1 && i.done.isNone && !isH2D (chanCtx s i.chan).kind &&
      i.address ≤ a && a < i.address + i.length) with
  | some i => onItem s i (fun j => { j with moved := j.moved + n })
  | none => s

/-- GO of an engine's copy unit (R360): the copy is made, or ERROR is set. -/
def execCopyUnitGo (e : Fin 32) (src dst : DWord) (length : BitVec 24) (hostData : List Byte) (hostOk : Bool)
    (s : State) : Host.Outcome State Fault Refusal :=
  let n := length.toNat
  let uses := bitsOf src.toNat 62 2 = 0 ∨ bitsOf dst.toNat 62 2 = 0
  let ok := copyOk s src.toNat n && copyOk s dst.toNat n && (hostOk || !uses)
  .next (
    if enginesRun s then
      let s := onChn s (fun h => { h with copy := h.copy.set ⟨0, 0, 0, false⟩ e ⟨src.toNat, dst.toNat, n, !ok⟩ })
      if ok then
        let s' := copyWrite (copyMeets s src.toNat n) e dst.toNat (copyRead s e src.toNat n hostData)
        if bitsOf dst.toNat 62 2 = 0 then noteMoved s' (bitsOf dst.toNat 0 62) n else s'
      else s
    else s)

/-- What engine `e` reads at an address of its own map (R360): local memory, item slots, descriptor copies, and the copy unit,
whose copy is made within the command that starts it, so that BUSY reads 0; none where a read is not allowed. -/
def engineByte (s : State) (e a : Nat) : Option Byte :=
  if a < 0x10000 then some (Memory.read marchFill s.chn.local_ (e * 65536 + a))
  else if a < 0x10100 ∨ (0x10200 ≤ a ∧ a < 0x10400) then some (Memory.read zeroFill s.chn.areas (e * 1024 + (a - 0x10000)))
  else if 0x20010 ≤ a ∧ a < 0x20028 then
    let c := s.chn.copy.get ⟨0, 0, 0, false⟩ e
    (leBytes 8 c.src ++ leBytes 8 c.dst ++ leBytes 4 (c.length + b2n c.error * 2 ^ 29) ++ leBytes 4 0)[a - 0x20010]?
  else none

/-- The items that an engine holds return to the heads of their ready lists (R365). -/
def returnItems (s : State) (e : Nat) : State :=
  let mine := fun (i : WorkItem) => (match i.engine with | some (x, _) => x = e | none => false) && i.done.isNone
  let cs := (s.chn.items.filter mine).map WorkItem.chan
  let s := onChn s (fun h => { h with items := h.items.map (fun i =>
    if mine i then
      { i with engine := none, done := if i.settled then some ⟨0x48, false, 0, none⟩ else none }
    else i) })
  cs.foldl (fun t c => finishClose (releaseDone (refreshReady t c true) c (chanItems t c).length) c) s

/-- An engine traps (R365). -/
def execEngineTrap (e : Fin 32) (s : State) : Host.Outcome State Fault Refusal :=
  .next (
    if enginesRun s then
      let s := setFBit (setB s F.CHN_STATUS_ENGINE_TRAP true) F.CHN_ENGINE_FAULT_TRAP e true
      let s := setFBit s F.CHN_ENGINE_WAIT_WAIT e false
      serveEngines (returnItems s e)
    else s)

/-- A write to CHN_CTX_INDEX (R334). -/
def chnCtxIndex (s : State) (v : Nat) : State :=
  let s := plainWrite s 0x60020 v
  let bs := ctxBytes (chanCtx s (getF s F.CHN_CTX_INDEX_CHANNEL))
  (List.range 16).foldl (fun t w => setF t (F.CHN_CTX_DATA_BYTES w) (recordWord bs w)) s

/-- What the code of a context's words shows (R368): a corrected error counts, and an uncorrectable one closes the
channel as CH_CLOSE does. -/
def contextEcc (s : State) (c : Nat) (ecc : Ecc) : State :=
  match ecc with
  | .clean => s
  | .corrected => bumpF s F.CHN_CE_COUNT_COUNT 1
  | .uncorrectable => closeChan (setB s F.CHN_STATUS_CTX_UE true) c

/-- A write to CHN_CTX_INDEX copies a context into CHN_CTX_DATA (R334, R368). -/
def execChnCtxIndexWrite (value : Word) (ecc : Ecc) (s : State) : Host.Outcome State Fault Refusal :=
  .next (contextEcc (chnCtxIndex s value.toNat) (value.toNat % 2 ^ 18) ecc)

/-- A write to CHN_CTRL (R360): 1 releases the engines from reset, 0 holds them in it, and what they hold returns to
the ready lists. -/
def chnCtrl (s : State) (v : Nat) : State :=
  let s := plainWrite s 0x60004 v
  if enginesRun s then s
  else
    let s := setF (setB s F.CHN_STATUS_RUNNING false) F.CHN_ENGINE_WAIT_WAIT 0
    let s := onChn s (fun h => { h with copy := [] })
    (List.range 32).foldl returnItems s

/-- ENGINES_EN (R360). -/
def execEnginesEn (value : Word) (s : State) : Host.Outcome State Fault Refusal := .next (chnCtrl s value.toNat)

/-! ### Host reset and context errors (R367, R368) -/

/-- A channel operation at a host reset (R367): what is not fully released ends with HOST_RESET. -/
def hostResetItem (s : State) (i : WorkItem) : State :=
  let s := cancelItem stHostReset s i
  let x := chanCtx s i.chan
  if isH2D x.kind then
    onItem (setCtx s i.chan { x with alloc := x.wr }) i (fun j => { j with position := 0, length := 0 })
  else s

/-- The channels' part of a host reset (R367). -/
def chnHostReset (s : State) : State :=
  let is := s.chn.items.filter (fun i => i.type = 1)
  let s := is.foldl hostResetItem s
  (is.map WorkItem.chan).foldl settleChan s

end Sys2Proof.Machine
end

