-- ==== Sys2Proof/Machine/Assay.lean ====
section
/-! DEFINITION. The Assay engine (R370 to R398, R404): sampling at B5, evaluation, release at commit, the trigger bus
and SYNC's registers. -/

namespace Sys2Proof.Machine

/-- The state with the Assay engine changed. -/
def onAsy (s : State) (g : Asy → Asy) : State := { s with asy := g s.asy }

/-- The engine's state after the last evaluated cycle (R374). -/
def asyNow (s : State) : AsyEng :=
  match s.asy.stage.getLast? with
  | some e => e.eng
  | none => s.asy.committed

/-! ### Sampling (R370 to R373) -/

/-- A sealed Ingot is loaded and has not been unsealed (R41, R373, R575). -/
def sealedNow (s : State) : Bool :=
  match s.ingot with
  | some g => g.isSealed && !getB s F.SEC_STATUS_UNSEALED
  | none => false

/-- The probe bits that the taps of die `d` sample (R370, R371): each as its bit of the number. -/
def probeSample (s : State) (d : Fin 4) : Nat :=
  match s.ingot with
  | none => 0
  | some g =>
    if sealedNow s then 0
    else g.probes.foldl (fun v e =>
      let w := e.2
      if w.testBit 63 ∧ bitsOf w 57 2 = d.val ∧
          s.dies[d].regBits.get false (idx (bitsOf w 51 6 * 32 + bitsOf w 46 5) 2048 (bitsOf w 35 11)) then v + 2 ^ e.1
      else v) 0

/-! ### Comparators (R376, R377) -/

/-- A 1,024-bit VALUE (`m` 0) or MASK (`m` 1) of comparator `k` (R376). -/
def patWords (s : State) (m k : Nat) : Nat :=
  (List.range 32).foldl (fun v w => v + getF s (F.ASY_PAT_DATA_BITS.bank (m * 512 + k * 32 + w)) * 2 ^ (32 * w)) 0

/-- Pattern comparator `k` matches (R376). -/
def patMatch (s : State) (p k : Nat) : Bool :=
  getB s (F.ASY_PAT_CTRL_EN k) &&
    ((bitsOf p (1024 * getF s (F.ASY_PAT_CTRL_BLOCK k)) 1024 ^^^ patWords s 0 k) &&& patWords s 1 k) == 0

/-- A number of `w` bits extended to 64 by sign or by zero. -/
def extend64 (signed : Bool) (w x : Nat) : Nat := if signed && x.testBit (w - 1) then 2 ^ 64 - 2 ^ w + x else x

/-- Less than, of two numbers of 64 bits. -/
def less64 (signed : Bool) (a b : Nat) : Bool := if signed then (a + 2 ^ 63) % 2 ^ 64 < (b + 2 ^ 63) % 2 ^ 64 else a < b

/-- The field of `w` probe bits from `first` on, extended to 64 bits (R377). -/
def fieldOf (p first w : Nat) (signed : Bool) : Nat := extend64 signed w (bitsOf (p % 2 ^ 65536) first w)

/-- Value comparator `k` matches (R377). -/
def valMatch (s : State) (p k : Nat) : Bool :=
  let sg := getB s (F.ASY_VAL_CTRL_SIGNED k)
  let x := fieldOf p (getF s (F.ASY_VAL_CTRL_FIRST k)) (getF s (F.ASY_VAL_CTRL_WIDTH k) + 1) sg
  let a := get64 s (F.ASY_VAL_A_LO_VALUE k) (F.ASY_VAL_A_HI_VALUE k)
  let b := get64 s (F.ASY_VAL_B_LO_VALUE k) (F.ASY_VAL_B_HI_VALUE k)
  getB s (F.ASY_VAL_CTRL_EN k) && match getF s (F.ASY_VAL_CTRL_OP k) with
    | 0 => x == a
    | 1 => x != a
    | 2 => less64 sg x a
    | 3 => less64 sg a x
    | 4 => !less64 sg x a && !less64 sg b x
    | 5 => less64 sg x a || less64 sg b x
    | _ => false

/-! ### The sequencer (R378 to R383) -/

/-- Program word `k` (R379). -/
def progWord (s : State) (k : Nat) : Nat := get64 s (F.ASY_PROG_LO_WORD k) (F.ASY_PROG_HI_WORD k)

/-- A source of the sequencer in a cycle (R380); `trig` are the TRIG inputs that apply to it. -/
def seqSource (s : State) (p : Nat) (trig : List Nat) (e : AsyEng) (n : Nat) : Bool :=
  if n < 16 then patMatch s p n
  else if n < 24 then valMatch s p (n - 16)
  else if n < 32 then trig.contains (n - 24)
  else if n < 36 then
    getF s (F.ASY_CNT_LIMIT_LO_BITS (n - 32)) + 2 ^ 32 * getF s (F.ASY_CNT_LIMIT_HI_BITS (n - 32)) ≤
      e.counters.getD (n - 32) 0
  else n == 36

/-- The condition of a program word (R379). -/
def seqFires (s : State) (p : Nat) (trig : List Nat) (e : AsyEng) (w : Nat) : Bool :=
  let a := xor (seqSource s p trig e (bitsOf w 41 6)) (w.testBit 47)
  let b := xor (seqSource s p trig e (bitsOf w 48 6)) (w.testBit 54)
  w.testBit 63 && bitsOf w 60 3 == e.state && match bitsOf w 55 2 with
    | 0 => a
    | 1 => a && b
    | 2 => a || b
    | _ => xor a b

/-- The word that fires in a cycle, if one does (R381). -/
def seqWord (s : State) (p : Nat) (trig : List Nat) (e : AsyEng) : Option Nat :=
  ((List.range 64).map (progWord s)).find? (seqFires s p trig e)

/-- The cycles after the trigger that acquisition stores (R387). -/
def postCycles (s : State) : Nat := min (get64 s F.ASY_POST_LO_POST F.ASY_POST_HI_POST) (2 ^ 40)

/-- Acquisition has ended before cycle `c` (R387). -/
def acqOver (s : State) (e : AsyEng) (c : Nat) : Bool :=
  match e.trigger with
  | some t => t + postCycles s < c
  | none => false

/-- The actions of a word that fires (R382). -/
def seqAct (e : AsyEng) (w : Nat) : AsyEng :=
  let k := bitsOf w 29 2
  { e with
    state := bitsOf w 57 3
    store := if w.testBit 39 then true else if w.testBit 38 then false else e.store
    counters := if w.testBit 32 then
        e.counters.set k (if w.testBit 31 then 0 else saturate 48 (e.counters.getD k 0 + 1))
      else e.counters }

/-! ### Trackers (R389, R390) -/

/-- A tracker's field in a cycle. -/
def trkField (s : State) (p k : Nat) : Nat :=
  fieldOf p (getF s (F.ASY_TRK_CTRL_FIRST k)) (getF s (F.ASY_TRK_CTRL_WIDTH k) + 1) (getB s (F.ASY_TRK_CTRL_SIGNED k))

/-- The 32 bytes of a reduction record (R390). -/
def redRecord (s : State) (c k : Nat) (a : TrkAcc) (part : Bool) : List Byte :=
  leBytes 8 c ++ leBytes 8 a.min ++ leBytes 8 a.max ++ leBytes 1 k ++
    leBytes 1 (b2n (getB s (F.ASY_TRK_CTRL_SIGNED k)) + 2 * b2n part) ++ leBytes 2 0 ++ leBytes 4 (saturate 32 a.count)

/-- A tracker's interval with one more cycle (R389). -/
def trkStep (s : State) (p k : Nat) (a : Option TrkAcc) : TrkAcc :=
  let x := trkField s p k
  let sg := getB s (F.ASY_TRK_CTRL_SIGNED k)
  match a with
  | none => ⟨1, x, x⟩
  | some a => ⟨a.count + 1, if less64 sg x a.min then x else a.min, if less64 sg a.max x then x else a.max⟩

/-- Every enabled tracker advances by a cycle: the intervals that go on, and the records of those that end. -/
def trkAll (s : State) (p c : Nat) (m : SMap (Option TrkAcc)) : SMap (Option TrkAcc) × List (List Byte) :=
  (List.range 32).foldl (fun r k =>
    if getB s (F.ASY_TRK_CTRL_EN k) then
      let a := trkStep s p k (r.1.get none k)
      if getF s (F.ASY_TRK_INTERVAL_CYCLES k) + 1 ≤ a.count then
        (r.1.set none k none, r.2 ++ [redRecord s c k a false])
      else (r.1.set none k (some a), r.2)
    else (r.1.set none k none, r.2)) (m, [])

/-! ### Evaluation (R374, R381) -/

/-- The engine's state with ARM applied (R378). -/
def armEng (s : State) (e : AsyEng) : AsyEng :=
  { AsyEng.idle with armed := true, store := s.asy.storeInit, tracks := e.tracks }

/-- Cycle `c` evaluated with probe bits `p` from engine state `e` (R374 to R389). -/
def evalCycle (s : State) (p c : Nat) (e : AsyEng) : AsyCycle :=
  let e := if s.asy.armCycle = some c then armEng s e else e
  let run := e.armed && !acqOver s e c
  let trig := (s.asy.inputs.filter (fun i => i.2 = c)).map Prod.fst
  let w := if run then seqWord s p trig e else none
  let e1 := match w with | some w => seqAct e w | none => e
  let hit := run && (s.asy.forceCycles.contains c || (match w with | some w => w.testBit 40 | none => false))
  let e2 := { e1 with trigger := if hit && e1.trigger.isNone then some c else e1.trigger }
  let keep := run && e2.store
  let (tr, recs) := trkAll s p c e2.tracks
  { cycle := c, probes := p, stored := keep, gap := !e.last
    eng := { e2 with stored := e2.stored + b2n keep, last := keep, tracks := tr }
    pulses := match w with | some w => if w.testBit 36 then [bitsOf w 33 3] else [] | none => []
    stop := match w with | some w => w.testBit 37 | none => false
    records := recs }

/-- What waits for the first cycle whose evaluation begins now takes cycle `c` (R378, R383, R396). -/
def bindPending (s : State) (c : Nat) : State :=
  let s := if s.asy.armPending then
      set64 (onAsy s (fun a => { a with armPending := false, armCycle := some c }))
        F.ASY_ARM_CYCLE_LO_VALUE F.ASY_ARM_CYCLE_HI_VALUE c
    else s
  onAsy s (fun a => { a with
    forcePending := false
    forceCycles := if a.forcePending then a.forceCycles ++ [c] else a.forceCycles
    edges := []
    inputs := a.inputs ++ a.edges.map (fun l => (l, c)) })

/-- Cycle `c` is evaluated and enters the input stage (R374, R375). -/
def evaluate (s : State) (p c : Nat) : State :=
  let s := bindPending s c
  let e := evalCycle s p c (asyNow s)
  onAsy s (fun a => { a with stage := a.stage ++ [e] })

/-- B5 of cycle `c` on die `d` (R20, R370): its taps sample, and the cycle is evaluated when every die has sampled. -/
def sampleB5 (s : State) (d : Fin 4) (c : Nat) : State :=
  let s := onAsy s (fun a => { a with sampled := a.sampled.set none (c * 4 + d) (some (probeSample s d)) })
  let vs := dieList.filterMap (fun x => s.asy.sampled.get none (c * 4 + x))
  if vs.length = 4 then
    let s := onAsy s (fun a => { a with sampled := a.sampled.filter (fun e => e.1 / 4 ≠ c) })
    evaluate s (vs.foldl (· ||| ·) 0) c
  else s

/-- The engine evaluates again from cycle `t` on, with the samples it holds (R393). -/
def evaluateAgain (s : State) (t : Nat) : State :=
  let es := s.asy.stage.filter (fun e => t ≤ e.cycle)
  let s := onAsy s (fun a => { a with stage := a.stage.filter (fun e => e.cycle < t) })
  es.foldl (fun u e => onAsy u (fun a => { a with stage := a.stage ++ [evalCycle u e.probes e.cycle (asyNow u)] })) s

/-! ### Release at commit (R375, R382 to R390) -/

/-- Bytes of a sample of W blocks (R384). -/
def sampleLen (s : State) : Nat := 32 + 128 * getF s F.ASY_ACQ_WIDTH_W

/-- Bytes of the acquisition buffer (R384). -/
def acqBytes (s : State) : Nat :=
  let u := getF s F.ASY_ACQ_SIZE_UNITS
  (if u = 0 then 1048576 else u) * 65536

/-- Samples that the buffer holds (R384). -/
def acqCapacity (s : State) : Nat := acqBytes s / sampleLen s

/-- The acquisition window is enabled with owner 1 and holds the buffer (R384, R404). -/
def acqWindowOk (s : State) : Bool :=
  let w := getF s F.ASY_ACQ_WINDOW_WINDOW
  winOwned s w 1 && getF s F.ASY_ACQ_OFFSET_UNITS * 65536 + acqBytes s ≤ winSize s w

/-- The bytes of a sample (R385). -/
def sampleBytes (s : State) (e : AsyCycle) : List Byte :=
  leBytes 8 e.cycle ++ leBytes 1 (b2n (e.eng.trigger = some e.cycle) + 2 * b2n e.gap) ++ leBytes 1 e.eng.state ++
    leBytes 6 0 ++ leBytes 8 (timeNs s) ++ leBytes 8 0 ++ leBytes (128 * getF s F.ASY_ACQ_WIDTH_W) e.probes

/-- A stored cycle's sample takes its place in the buffer, and waits there to be written (R375, R386). -/
def writeSample (s : State) (e : AsyCycle) : State :=
  let n := get64 s F.ASY_WR_SAMPLE_LO_VALUE F.ASY_WR_SAMPLE_HI_VALUE
  let s := onAsy s (fun a => { a with waiting := a.waiting ++ [(getF s F.ASY_ACQ_WINDOW_WINDOW,
    getF s F.ASY_ACQ_OFFSET_UNITS * 65536 + n % acqCapacity s * sampleLen s, sampleBytes s e)] })
  let s := set64 s F.ASY_WR_SAMPLE_LO_VALUE F.ASY_WR_SAMPLE_HI_VALUE (n + 1)
  if n + 1 = acqCapacity s then setB s F.ASY_STATUS_WRAPPED true else s

/-- Too many committed samples wait to be written: the hub declares no commit (R375). -/
def samplesWait (s : State) : Bool := decide (12 ≤ s.asy.waiting.length)

/-- The oldest sample that waits is written; how fast samples are written is not stated (DESIGN CHOICE). -/
def drainSample (s : State) : State :=
  match s.asy.waiting with
  | [] => s
  | x :: xs => winWriteBytes (onAsy s (fun a => { a with waiting := xs })) x.1 x.2.1 x.2.2

/-- Reduction records that the ring holds (R390). -/
def redCapacity (s : State) : Nat := getF s F.ASY_RED_SIZE_UNITS * 2048

/-- A reduction record is written to the ring, or dropped (R390). -/
def writeRecord (s : State) (bs : List Byte) : State :=
  let n := getF s F.ASY_RED_INDEX_NEXT
  let put := fun (t : State) (i : Nat) =>
    setF (winWriteBytes t (getF t F.ASY_ACQ_WINDOW_WINDOW) (getF t F.ASY_RED_OFFSET_UNITS * 65536 + 32 * i) bs)
      F.ASY_RED_INDEX_NEXT (i + 1)
  if n < redCapacity s then put s n
  else if getB s F.ASY_RED_CTRL_WRAP && redCapacity s ≠ 0 then put s 0
  else setB (bumpF s F.ASY_RED_LOST_COUNT 1) F.ASY_STATUS_RED_FULL true

/-- TRIG_CYCLES (R392): 0 and 1 are taken as 2. -/
def trigCycles (s : State) : Nat := max 2 (getF s F.ASY_TRIG_CTRL_TRIG_CYCLES)

/-- PULSE_TRIG of a committed cycle drives a line (R392, R396): a frame with its target, or an edge pulse. -/
def pulseTrig (s : State) (c l : Nat) : State :=
  if getB s (F.ASY_TRIG_LINE_OUT_EN l) then
    if getB s (F.ASY_TRIG_LINE_MODE l) then emit s (.trigger l (256 + max 1 (getF s (F.ASY_TRIG_LINE_PULSE l))))
    else
      let t := (c + trigCycles s) % 256
      emit (onAsy s (fun a => { a with lastFrame := a.lastFrame.set none l (some t) })) (.trigger l t)
  else s

/-- Acquisition ends at DONE (R387). -/
def acqDone (s : State) : State :=
  let s := setB (setB s F.ASY_STATUS_DONE true) F.ASY_STATUS_ARMED false
  let s := onAsy s (fun a => { a with
    armCycle := none
    committed := { a.committed with armed := false }
    stage := a.stage.map (fun e => { e with eng := { e.eng with armed := false }, stored := false }) })
  if getB s F.ASY_CTRL_IRQ_EN then signal s (getF s F.ASY_CTRL_VECTOR) else s

/-- The Assay engine's part of the commit of cycle `c` (R27, R375): what the cycle's evaluation held back. -/
def commitAsy (s : State) (e : AsyCycle) : State :=
  let c := e.cycle
  let armed := getB s F.ASY_STATUS_ARMED
  let before := get64 s F.ASY_WR_SAMPLE_LO_VALUE F.ASY_WR_SAMPLE_HI_VALUE
  let s := onAsy s (fun a => { a with
    committed := e.eng
    stage := a.stage.filter (fun x => c < x.cycle)
    inputs := a.inputs.filter (fun i => c < i.2)
    forceCycles := a.forceCycles.filter (fun x => c < x) })
  let s := setF s F.ASY_STATUS_STATE e.eng.state
  let s := (List.range 4).foldl (fun t k =>
    let v := e.eng.counters.getD k 0
    setF (setF t (F.ASY_CNT_VALUE_LO_BITS k) v) (F.ASY_CNT_VALUE_HI_BITS k) (v / 2 ^ 32)) s
  let s := if armed && e.stored then writeSample s e else s
  let s := if armed && e.eng.trigger = some c then
      set64 (set64 (setB s F.ASY_STATUS_TRIGGERED true) F.ASY_TRIG_CYCLE_LO_VALUE F.ASY_TRIG_CYCLE_HI_VALUE c)
        F.ASY_TRIG_SAMPLE_LO_VALUE F.ASY_TRIG_SAMPLE_HI_VALUE before
    else s
  let s := e.records.foldl writeRecord s
  let s := e.pulses.foldl (fun t l => pulseTrig t c l) s
  let s := if e.stop then { s with run := { s.run with asyStop := some c } } else s
  match e.eng.trigger with
  | some t => if armed && t + postCycles s ≤ c then acqDone s else s
  | none => s

/-- The Assay engine's part of the commit of cycle `c`. -/
def asyCommit (s : State) (c : Nat) : State :=
  match s.asy.stage.find? (fun e => e.cycle = c) with
  | some e => commitAsy s e
  | none => s

/-- The engine is restored to the boundary before cycle `b` (R374). -/
def asyAbandon (s : State) (b : Nat) : State :=
  onAsy s (fun a => { a with
    stage := a.stage.filter (fun e => e.cycle < b)
    sampled := a.sampled.filter (fun e => e.1 / 4 < b)
    settled := min a.settled b })

/-! ### ARM, DISARM, FORCE_TRIGGER (R378, R380, R383, R387, R404) -/

/-- A program word that makes ARM fail (R380). -/
def badWord (w : Nat) : Bool :=
  w.testBit 63 && (36 < bitsOf w 41 6 || (bitsOf w 55 2 ≠ 0 && 36 < bitsOf w 48 6) || (w.testBit 39 && w.testBit 38))

/-- The reduction ring and the acquisition buffer overlap (R390). -/
def redOverlaps (s : State) : Bool :=
  let r0 := getF s F.ASY_RED_OFFSET_UNITS * 65536
  let r1 := r0 + getF s F.ASY_RED_SIZE_UNITS * 65536
  let a0 := getF s F.ASY_ACQ_OFFSET_UNITS * 65536
  !(decide (r1 ≤ a0) || decide (a0 + acqBytes s ≤ r0))

/-- The configuration breaks a rule that ARM checks (R377, R380, R384, R390, R404). -/
def armRefused (s : State) : Bool :=
  let w := getF s F.ASY_ACQ_WIDTH_W
  ((List.range 64).map (progWord s)).any badWord ||
    (List.range 8).any (fun k => decide (5 < getF s (F.ASY_VAL_CTRL_OP k))) ||
    w == 0 || decide (64 < w) || decide (1048576 < getF s F.ASY_ACQ_SIZE_UNITS) || !acqWindowOk s || acqCapacity s == 0 ||
    (getF s F.ASY_RED_SIZE_UNITS != 0 && redOverlaps s)

/-- DISARM (R387): acquisition and the sequencer end with the last committed cycle, every stored sample is kept, and DONE
stays 0. -/
def asyDisarm (s : State) : State :=
  let s := setB s F.ASY_STATUS_ARMED false
  onAsy s (fun a => { a with
    armPending := false, armCycle := none
    committed := { a.committed with armed := false }
    stage := a.stage.map (fun e => { e with
      eng := { a.committed with armed := false, tracks := e.eng.tracks }
      stored := false, pulses := [], stop := false }) })

/-- ARM (R378, R404); an acquisition that runs ends with the last committed cycle first (DESIGN CHOICE: what its uncommitted
cycles would store is not said). -/
def asyArm (s : State) : State :=
  if armRefused s then setB s F.ASY_STATUS_CFG_REJECT true
  else
    let s := asyDisarm s
    let s := setB (setB (setB (setB s F.ASY_STATUS_ARMED true) F.ASY_STATUS_DONE false) F.ASY_STATUS_TRIGGERED false)
      F.ASY_STATUS_WRAPPED false
    let s := set64 s F.ASY_WR_SAMPLE_LO_VALUE F.ASY_WR_SAMPLE_HI_VALUE 0
    onAsy s (fun a => { a with armPending := true, armCycle := none, storeInit := getB s F.ASY_CTRL_STORE_INIT })

/-- A write to ASY_CTRL (R378, R383, R387): its fields, then DISARM, FORCE_TRIGGER and ARM. -/
def asyCtrlWrite (s : State) (v : Nat) : State :=
  let s := plainWrite s 0xB0004 v
  let s := if v.testBit 1 then asyDisarm s else s
  let s := if v.testBit 2 then onAsy s (fun a => { a with forcePending := true }) else s
  if v.testBit 0 then asyArm s else s

/-- ARM (R378): a write of 1 to ASY_CTRL.ARM. -/
def execArm (value : Word) (s : State) : Host.Outcome State Fault Refusal :=
  .next (gatedWrite s 0xB0004 (asyCtrlWrite · value.toNat))

/-- DISARM (R387): a write of 1 to ASY_CTRL.DISARM. -/
def execDisarm (value : Word) (s : State) : Host.Outcome State Fault Refusal :=
  .next (gatedWrite s 0xB0004 (asyCtrlWrite · value.toNat))

/-- FORCE_TRIGGER (R383): a write of 1 to ASY_CTRL.FORCE_TRIGGER. -/
def execForceTrigger (value : Word) (s : State) : Host.Outcome State Fault Refusal :=
  .next (gatedWrite s 0xB0004 (asyCtrlWrite · value.toNat))

/-! ### Tracker and ring registers (R389, R390, R404) -/

/-- The reduction ring lies in the acquisition window and does not overlap the buffer (R390, R404). -/
def redOk (s : State) : Bool :=
  let w := getF s F.ASY_ACQ_WINDOW_WINDOW
  winOwned s w 1 && decide ((getF s F.ASY_RED_OFFSET_UNITS + getF s F.ASY_RED_SIZE_UNITS) * 65536 ≤ winSize s w) && !redOverlaps s

/-- A write to ASY_TRK_CTRL_k (R389, R404): EN starts the tracker, whose first cycle is the next to commit, or ends its interval
with a partial record; while EN is 1 only a write that changes EN alone has an effect. -/
def trkWrite (s : State) (k v : Nat) : State :=
  let was := getB s (F.ASY_TRK_CTRL_EN k)
  let want := v.testBit 31
  if was && (want || v % 2 ^ 31 != plainReg s (F.ASY_TRK_CTRL_EN k).addr % 2 ^ 31) then s
  else if was then
    let s := match s.asy.committed.tracks.get none k with
      | some a => writeRecord s (redRecord s (s.run.nextCommit - 1) k a true)
      | none => s
    let s := onAsy s (fun a => { a with
      committed := { a.committed with tracks := a.committed.tracks.set none k none }
      stage := a.stage.map (fun e => { e with
        eng := { e.eng with tracks := e.eng.tracks.set none k none }
        records := e.records.filter (fun r => leAt r 24 1 ≠ k) }) })
    setB s (F.ASY_TRK_CTRL_EN k) false
  else
    let s := plainWrite s (F.ASY_TRK_CTRL_EN k).addr (v % 2 ^ 31)
    if want then
      if redOk s then evaluateAgain (setB s (F.ASY_TRK_CTRL_EN k) true) s.run.nextCommit
      else setB s F.ASY_STATUS_CFG_REJECT true
    else s

/-- A write to a tracker's CTRL register (R389). -/
def execTrackerEnable (k : Fin 32) (value : Word) (s : State) : Host.Outcome State Fault Refusal :=
  .next (gatedWrite s (0xB0600 + 8 * k) (trkWrite · k value.toNat))

/-- A write to ASY_RED_CTRL (R390). -/
def redCtrlWrite (s : State) (v : Nat) : State :=
  let s := plainWrite s 0xB0048 v
  if v.testBit 0 then setF s F.ASY_RED_INDEX_NEXT 0 else s

/-- CLEAR of the reduction ring (R390). -/
def execRedClear (value : Word) (s : State) : Host.Outcome State Fault Refusal :=
  .next (gatedWrite s 0xB0048 (redCtrlWrite · value.toNat))

/-- The word of ASY_PAT_DATA that ASY_PAT_INDEX selects (R376). -/
def patField (s : State) : Fld :=
  F.ASY_PAT_DATA_BITS.bank
    (getF s F.ASY_PAT_INDEX_MASK * 512 + getF s F.ASY_PAT_INDEX_COMP * 32 + getF s F.ASY_PAT_INDEX_WORD)

/-- A write to ASY_PAT_DATA: ignored while ARMED (R404); the index advances (R376). -/
def patWrite (s : State) (v : Nat) : State :=
  wrapF (if getB s F.ASY_STATUS_ARMED then s else setF s (patField s) v) F.ASY_PAT_INDEX_WORD 1

/-- A read of ASY_PAT_DATA: the value, and the index advanced (R376). -/
def patRead (s : State) : Nat × State := (getF s (patField s), wrapF s F.ASY_PAT_INDEX_WORD 1)

/-- An access to ASY_PAT_DATA (R376). -/
def execPatDataAccess (write : Option Word) (s : State) : Host.Outcome State Fault Refusal :=
  .next (match write with
    | some v => gatedWrite s 0xB0144 (patWrite · v.toNat)
    | none => gatedRead s 0xB0144 patRead)

/-! ### The trigger bus (R391 to R396) -/

/-- The line takes frames. -/
def frameIn (s : State) (l : Nat) : Bool := getB s (F.ASY_TRIG_LINE_IN_EN l) && !getB s (F.ASY_TRIG_LINE_MODE l)

/-- Some line has IN_EN set in FRAME mode (R394). -/
def anyFrameIn (s : State) : Bool := (List.range 8).any (frameIn s)

/-- Every die of the device has voted for cycle `c` (R24). -/
def diesVoted (s : State) (c : Nat) : Bool := dieList.all (fun d => (s.run.votes.get none (c * 4 + d)).isSome)

/-- The device's vote for cycle `c` is cast: with FRAME inputs, after the settle time (R394). -/
def voteCast (s : State) (c : Nat) : Bool :=
  diesVoted s c && (!anyFrameIn s || decide (c < s.asy.settled))

/-- The cycle that a frame's target names (R393): in the 256 cycles after the last committed one. -/
def frameTarget (s : State) (t : Nat) : Nat := s.run.nextCommit + (t + 256 - s.run.nextCommit % 256) % 256

/-- A frame on a FRAME-mode input (R393); TRIG is not sampled while REFCLK is lost (R502). -/
def execTrigFrame (line : Fin 8) (target : Byte) (s : State) : Host.Outcome State Fault Refusal :=
  let t := frameTarget s target.toNat
  .next (
    if frameIn s line && !s.clk.lost then
      if voteCast s t then setB (bumpF s F.ASY_TRIG_LATE_COUNT 1) F.ASY_STATUS_TRIG_LATE true
      else
        let s := onAsy s (fun a => { a with inputs := a.inputs ++ [(line.val, t)] })
        evaluateAgain s t
    else s)

/-- A collision (R392): the frame is sent again once the line has been idle. -/
def execTrigCollide (line : Fin 8) (s : State) : Host.Outcome State Fault Refusal :=
  .next (
    match if s.clk.lost then none else s.asy.lastFrame.get none line with
    | some t => emit (setB s F.ASY_STATUS_TRIG_COLLIDE true) (.trigger line t)
    | none => s)

/-- An edge on an EDGE-mode input (R396). -/
def execTrigEdge (line : Fin 8) (s : State) : Host.Outcome State Fault Refusal :=
  .next (
    if getB s (F.ASY_TRIG_LINE_IN_EN line) && getB s (F.ASY_TRIG_LINE_MODE line) && !s.clk.lost then
      onAsy s (fun a => { a with edges := a.edges ++ [line.val] })
    else s)

/-- The settle time of the next cycle without a vote has passed (R394): the hub casts its vote. -/
def execTrigSettleVote (s : State) : Host.Outcome State Fault Refusal :=
  let t := max s.asy.settled s.run.nextCommit
  .next (
    if anyFrameIn s && diesVoted s t && decide (t ≤ s.run.nextCommit + trigCycles s - 1) then
      onAsy s (fun a => { a with settled := t + 1 })
    else s)

/-! ### SYNC (R398) -/

/-- A write to ASY_SYNC_CTRL (R398): FIRE drives one pulse from a device that drives SYNC. -/
def syncCtrlWrite (s : State) (v : Nat) : State :=
  let s := plainWrite s 0xB0740 v
  if v.testBit 1 && getB s F.ASY_SYNC_CTRL_DRIVE then emit s .sync else s

/-- FIRE (R398). -/
def execFire (value : Word) (s : State) : Host.Outcome State Fault Refusal :=
  .next (gatedWrite s 0xB0740 (syncCtrlWrite · value.toNat))

end Sys2Proof.Machine
end

