-- ==== Sys2Proof/Machine/Hedgerow.lean ====
section
/-! DEFINITION. The Hedgerow fabric (R440 to R464): configuration words, cells, routes, RAM blocks, user clocks, the
bridge, capture and the user pins. -/

namespace Sys2Proof.Machine

/-- The state with the fabric changed. -/
def onHgr (s : State) (g : Hgr → Hgr) : State := { s with hgr := g s.hgr }

/-! ### Configuration words (R456, R457) -/

/-- The first byte of block frame `f` of block `x` in the section. -/
def blockFrame (x f : Nat) : Nat := (1 + 8 * x + f) * 4096

/-- A configuration byte of block frame `f` of block `x`. -/
def cfgByte (s : State) (x f b : Nat) : Nat := (Memory.read zeroFill s.hgr.cfg (blockFrame x f + b)).toNat

/-- A number of `n` configuration bytes. -/
def cfgLe (s : State) (x f b n : Nat) : Nat := leNat (Memory.readBytes zeroFill s.hgr.cfg (blockFrame x f + b) n)

/-- A byte of the fabric header. -/
def headerByte (s : State) (b : Nat) : Nat := (Memory.read zeroFill s.hgr.cfg b).toNat

/-- Global set-reset holds the block's flip-flops (R289, R441). -/
def blockReset (s : State) (x : Nat) : Bool := getB s F.HGR_STATUS_GSR || (s.hgr.iso.get none x).isSome

/-- Flip-flop `f` of cell `c` of block `x`: INIT while set-reset is asserted (R441). -/
def ffValue (s : State) (x c f : Nat) : Bool :=
  if blockReset s x then (cfgByte s x 1 (64 * c + 20 + f)).testBit 2 else s.hgr.ff.get false (x * 128 + 2 * c + f)

/-- The bank of block `x`'s pins, and the first pin attached to it (R442): even blocks 32 n to 32 n + 22. -/
def blockPin (x : Nat) : Option Nat := if x % 2 = 0 ∧ x % 32 < 24 then some (48 * (x / 32) + 2 * (x % 32)) else none

/-- The pin slot of a pin: block and slot (R457, R461). -/
def pinSlot (pin : Nat) : Nat × Nat := (32 * (pin / 48) + 2 * (pin % 48 / 4), pin % 4)

/-- Byte `b` of the slot of a pin. -/
def slotByte (s : State) (pin b : Nat) : Nat := cfgByte s (pinSlot pin).1 3 (16 * (pinSlot pin).2 + b)

/-- What the fabric reads from a pin (R461): the pad, or its input register. -/
def pinInput (s : State) (pin : Nat) : Bool :=
  if (slotByte s pin 2).testBit 3 then s.hgr.ioReg.get false (2 * pin) else s.hgr.pins.contains pin

/-! ### RAM blocks (R447) -/

/-- Word width of a SHAPE (R447). -/
def ramWidth (shape : Nat) : Nat := match shape with | 0 => 36 | 1 => 18 | 2 => 9 | _ => 72

/-- SHAPE of RAM block `r`. -/
def ramShape (s : State) (r : Nat) : Nat := cfgByte s (2 * r + 1) 4 0 % 4

/-- A word of a RAM block (R447). -/
def ramWord (s : State) (r w : Nat) : Nat :=
  let n := ramWidth (ramShape s r)
  (List.range n).foldl (fun v b => v + b2n (s.hgr.ram.get false (r * 36864 + w * n + b)) * 2 ^ b) 0

/-- A RAM block's contents with a word written (R447). -/
def setRamWord (m : SMap Bool) (r n w v : Nat) : SMap Bool :=
  (List.range n).foldl (fun m b => SMap.set false m (r * 36864 + w * n + b) (v.testBit b)) m

/-- The data that a port of RAM block `r` presents (R448). -/
def ramData (s : State) (r port : Nat) : Nat :=
  let reg := (cfgByte s (2 * r + 1) 4 2).testBit port
  s.hgr.ramOut.get 0 (r * 4 + 2 * port + b2n reg)

/-! ### Routes (R440, R443, R444, R450) -/

/-- The block that drives broadcast line `l`, if one does (R293, R450). -/
def lineDriver (s : State) (l : Nat) : Option Nat :=
  if getB s (F.HGR_CENSUS_VALID l) then some (getF s (F.HGR_CENSUS_BLOCK l)) else none

/-- The value that stands in for broadcast line `l` while its driver is isolated (R290). -/
def heldLine (s : State) (l : Nat) : Option Bool := s.hgr.iso.findSome? (fun e => e.2.bind (fun i => i.lines.get none l))

/-- The block that drives broadcast line `l`: its driver is enabled, and it is not isolated (R290, R450). -/
def liveDriver (s : State) (l : Nat) : Option Nat :=
  match lineDriver s l with
  | none => none
  | some y => if (s.hgr.iso.get none y).isNone && (cfgLe s y 0 0 8).testBit l then some y else none

/-- A node of the fabric: cell output `n` (`src` false) or local source `n` (`src` true) of block `x`, through at most
`fuel` cells (R440, R443, R444). -/
def fabricNode (s : State) : Nat → Bool → Nat → Nat → Bool
  | 0, _, x, n => Config.fabricLoop x n
  | fuel + 1, false, x, n =>
    let c := n / 3
    if n % 3 = 1 then ffValue s x c 0
    else if n % 3 = 2 then ffValue s x c 1
    else
      let i := (List.range 6).foldl (fun v k =>
        v + b2n (fabricNode s fuel true x (cfgLe s x 1 (64 * c + 8 + 2 * k) 2 % 1024)) * 2 ^ k) 0
      (cfgLe s x 1 (64 * c) 8).testBit i
  | fuel + 1, true, x, n =>
    let out := fun (y sel : Nat) => if sel < 192 then fabricNode s fuel false y sel else false
    if n < 192 then fabricNode s fuel false x n
    else if n < 288 then
      let g := cfgLe s x 2 (2 * (n - 192)) 2 % 16384
      if g < 12288 then out (g / 48) (cfgByte s (g / 48) 2 (256 + g % 48))
      else
        let l := g - 12288
        match heldLine s l with
        | some v => v
        | none => match liveDriver s l with
          | some y => out y (cfgByte s y 0 (8 + l))
          | none => false
    else if n < 304 then s.hgr.lines.get false (16 * x + (n - 288))
    else if n < 308 then
      match blockPin x with
      | some p => pinInput s (p + (n - 304))
      | none => false
    else if n < 452 then
      if x % 2 = 1 then
        let k := n - 308
        (ramData s (x / 2) (k / 72)).testBit (k % 72)
      else false
    else false

/-- The deepest chain of cells that a route without a loop can pass. -/
abbrev fabricDepth : Nat := 40000

/-- Cell output select `sel` of block `x`: 0 where it names none (R457). -/
def selValue (s : State) (x sel : Nat) : Bool := if sel < 192 then fabricNode s fabricDepth false x sel else false

/-- Bridge import line `l` (R443, R457): the value its block gives, or what it last gave while isolated (R290). -/
def importLine (s : State) (l : Nat) : Bool :=
  let x := l / 16
  match s.hgr.iso.get none x with
  | some i => i.imports.testBit (l % 16)
  | none => selValue s x (cfgByte s x 2 (512 + l % 16))

/-- Broadcast line `l` (R450). -/
def broadcastLine (s : State) (l : Nat) : Bool :=
  match heldLine s l with
  | some v => v
  | none => match liveDriver s l with
    | some y => selValue s y (cfgByte s y 0 (8 + l))
    | none => false

/-- No supply stands on a bank (R462). -/
def bankAbsent (s : State) (n : Nat) : Bool := s.hgr.sensed.get 0 n == 0

/-- The pins of a bank are in park state (R463). -/
def bankParked (s : State) (n : Nat) : Bool :=
  !getB s F.HGR_STATUS_OUTPUTS || getB s (F.HGR_BANK_STATUS_MISMATCH n) || getB s F.HGR_CTRL_PARK_ALL

/-- The state with PARKED of every bank as its rule has it (R463). -/
def showParked (s : State) : State :=
  (List.range 8).foldl (fun t n => setB t (F.HGR_BANK_STATUS_PARKED n) (bankParked t n)) s

/-- The output register of a pin (R441, R461): its initial value while its block is held in set-reset. -/
def outputReg (s : State) (pin : Nat) : Bool :=
  if blockReset s (pinSlot pin).1 then (slotByte s pin 3).testBit 0 else s.hgr.ioReg.get false (2 * pin + 1)

/-- What the slot of a pin drives (R457, R461, R463): none while it is parked, without supply, an input or disabled. -/
def slotDrive (s : State) (pin : Nat) : Option Bool :=
  let (x, k) := pinSlot pin
  if bankParked s (pin / 48) || bankAbsent s (pin / 48) then none
  else match s.hgr.iso.get none x with
    | some i => match i.pins.get none pin with
      | some (true, v) => some v
      | _ => none
    | none =>
      let dir := slotByte s pin 1 % 4
      let oe := cfgByte s x 3 (68 + k)
      if slotByte s pin 0 = 0 ∨ dir = 0 ∨ dir = 3 ∨ (oe ≠ 255 ∧ selValue s x oe = false) then none
      else if (slotByte s pin 2).testBit 7 then some (outputReg s pin)
      else some (selValue s x (cfgByte s x 3 (64 + k)))

/-- The pin is the second one of an LVDS pair (R461). -/
def lvdsN (s : State) (pin : Nat) : Bool := pin % 2 == 1 && slotByte s (pin - 1) 0 == 9

/-- What a pin drives (R461): the second pin of an LVDS pair drives the complement of the first. -/
def pinDrive (s : State) (pin : Nat) : Option Bool :=
  if lvdsN s pin then (slotDrive s (pin - 1)).map (!·) else slotDrive s pin

/-- The pull of a pin: 0 none, 1 up, 2 down, 3 keeper (R461 to R463). -/
def pinPull (s : State) (pin : Nat) : Nat :=
  let n := pin / 48
  if bankAbsent s n then 0
  else if bankParked s n then
    match getF s (F.HGR_BANK_CTRL_PARK n) with
    | 1 => 2
    | 2 => 0
    | _ => 1
  else bitsOf (slotByte s pin 1) 6 2

/-- The termination of a pin in ohms, 0 for none (R461): SSTL and HSTL inputs to half the supply, LVDS inputs across the
pair. -/
def pinTermination (s : State) (pin : Nat) : Nat :=
  let p := if lvdsN s pin then pin - 1 else pin
  let std := slotByte s p 0
  let dir := slotByte s p 1 % 4
  if bankParked s (pin / 48) || bankAbsent s (pin / 48) || !(slotByte s p 1).testBit 5 || !(dir == 0 || dir == 2) then 0
  else if std = 9 then 100
  else if 6 ≤ std ∧ std ≤ 8 then 50
  else 0

/-! ### A user clock edge (R441, R447, R448, R453) -/

/-- The flip-flops that take a value at an edge of UCLK `k`, with their values (R441). -/
def ffUpdates (s : State) (k : Nat) : List (Nat × Bool) :=
  (List.range 256).flatMap (fun x =>
    if blockReset s x then []
    else (List.range 64).flatMap (fun c =>
      (List.range 2).filterMap (fun f =>
        let w := cfgByte s x 1 (64 * c + 20 + f)
        let src := fun i => fabricNode s fabricDepth true x (cfgLe s x 1 (64 * c + 8 + 2 * i) 2 % 1024)
        if bitsOf w 4 3 = k ∧ (w.testBit 1 = false ∨ src 4) then
          some (x * 128 + 2 * c + f, if w.testBit 0 then src 5 else fabricNode s fabricDepth false x (3 * c))
        else none)))

/-- What port `port` of RAM block `r` does at an edge of its clock: its word, the data it writes, if it does. -/
def ramPort (s : State) (r port : Nat) : Option (Nat × Option Nat) :=
  let x := 2 * r + 1
  let sel := fun i => selValue s x (cfgByte s x 4 (16 + 96 * port + i))
  let num := fun lo n => (List.range n).foldl (fun v i => v + b2n (sel (lo + i)) * 2 ^ i) 0
  let n := ramWidth (ramShape s r)
  let words := 36864 / n
  if sel 85 then
    let w := num 0 12 % words
    let we := sel 84 && (ramShape s r ≠ 3 || port = 0) && getB s F.HGR_STATUS_WRITES
    some (w, if we then some (num 12 72 % 2 ^ n) else none)
  else none

/-- The user clock of a port of RAM block `r` (R457). -/
def ramClock (s : State) (r port : Nat) : Nat := bitsOf (cfgByte s (2 * r + 1) 4 1) (4 * port) 3

/-- The internal words that word `w` of RAM block `r` lies in, as keys of their marks (R449). -/
def ramWords (s : State) (r w : Nat) : List Nat :=
  let n := ramWidth (ramShape s r)
  (List.range ((w * n + n - 1) / 64 - w * n / 64 + 1)).map (fun i => r * 1024 + w * n / 64 + i)

/-- An upset of a RAM block (R449): the bits as they read from then on.  A word that reads back corrected keeps its value. -/
def upsetRam (h : Hgr) (u : Fin 128 × Fin 576 × BitVec 64 × Ecc) : Hgr :=
  let base := u.1.val * 36864 + u.2.1.val * 64
  { h with
    ramEcc := h.ramEcc.set .clean (u.1 * 1024 + u.2.1) u.2.2.2
    ram := if u.2.2.2 = .uncorrectable then
      (List.range 64).foldl (fun m i => if u.2.2.1.getLsbD i then SMap.modify false m (base + i) (!·) else m) h.ram
    else h.ram }

/-- RAM block `r` at an edge of UCLK `k`: both ports read the old word, then port A's write and port B's (R448).  DESIGN
CHOICE: a write gives the internal words that it touches fresh check bits. -/
def ramEdge (s : State) (k : Nat) (h : Hgr) (r : Nat) : Hgr :=
  let n := ramWidth (ramShape s r)
  let act := fun port => if ramClock s r port = k then ramPort s r port else none
  let out := fun (h : Hgr) (port : Nat) =>
    if ramClock s r port = k then
      let first := s.hgr.ramOut.get 0 (r * 4 + 2 * port)
      let m := h.ramOut.set 0 (r * 4 + 2 * port + 1) first
      { h with ramOut := match act port with
        | some (w, _) => if ramShape s r = 3 ∧ port = 0 then m else m.set 0 (r * 4 + 2 * port) (ramWord s r w)
        | none => m }
    else h
  let wr := fun (h : Hgr) (a : Option (Nat × Option Nat)) => match a with
    | some (w, some v) => { h with
      ram := setRamWord h.ram r n w v
      ramEcc := (ramWords s r w).foldl (fun m i => SMap.set .clean m i .clean) h.ramEcc }
    | _ => h
  wr (wr (out (out h 0) 1) (act 1)) (act 0)

/-- Read errors of the RAM words that an edge reads (R449). -/
def ramErrors (s : State) (k : Nat) (t : State) (r : Nat) : State :=
  [0, 1].foldl (fun t port =>
    if ramClock s r port = k ∧ ¬(ramShape s r = 3 ∧ port = 0) then
      match ramPort s r port with
      | some (w, _) => (ramWords s r w).foldl (fun t i =>
        match s.hgr.ramEcc.get .clean i with
        | .clean => t
        | .corrected => bumpF t F.HGR_RAM_CE_COUNT 1
        | .uncorrectable =>
          setF (setF (setB t F.HGR_STATUS_RAM_UE true) F.HGR_RAM_UE_LOC_BLOCK r) F.HGR_RAM_UE_LOC_WORD (i % 1024)) t
      | none => t
    else t) t

/-- The pin registers on UCLK `k` at its edge (R461). -/
def ioEdge (s : State) (k : Nat) (m : SMap Bool) : SMap Bool :=
  (List.range 384).foldl (fun m pin =>
    let b := slotByte s pin 2
    let (x, j) := pinSlot pin
    let m := if b.testBit 3 ∧ b % 8 = k then m.set false (2 * pin) (s.hgr.pins.contains pin) else m
    if b.testBit 7 ∧ bitsOf b 4 3 = k ∧ blockReset s x = false then
      m.set false (2 * pin + 1) (selValue s x (cfgByte s x 3 (64 + j)))
    else m) m

/-! ### The bridge (R452 to R455) -/

/-- A bridge map entry (R452), decoded. -/
structure BridgeDef where
  out : Bool
  group : Nat
  die : Nat
  tile : Nat
  cluster : Nat
  first : Nat
  width : Nat
  line : Nat
  deriving DecidableEq, Repr

/-- The fields of a bridge map entry (R452); none where EN is 0. -/
def decodeBridge (w : Nat) : Option BridgeDef :=
  if w.testBit 63 then
    some ⟨w.testBit 62, bitsOf w 59 3, bitsOf w 57 2, bitsOf w 51 6, bitsOf w 46 5, bitsOf w 35 11, bitsOf w 25 10 + 1,
      bitsOf w 0 12⟩
  else none

/-- The bridge entries of the installed Ingot. -/
def bridgeList (s : State) : List BridgeDef :=
  match s.ingot with
  | some g => g.bridges.filterMap decodeBridge
  | none => []

/-- IMPEN of the block that owns a line (R453). -/
def lineEnabled (s : State) (l : Nat) : Bool := (cfgLe s (l / 16) 0 72 2).testBit (l % 16)

/-- Port-input bit of bit `i` of an import entry (R452). -/
def bridgeInKey (b : BridgeDef) (i : Nat) : Nat :=
  idx (b.tile * 32 + b.cluster + (b.first + i) / 256) 256 ((b.first + i) % 256)

/-- Register bit of bit `i` of an export entry (R452). -/
def bridgeOutKey (b : BridgeDef) (i : Nat) : Nat :=
  idx (b.tile * 32 + b.cluster + (b.first + i) / 2048) 2048 ((b.first + i) % 2048)

/-- The import lines of a group, each at its bit (R453). -/
def groupLines (s : State) (g : Nat) : Nat :=
  ((bridgeList s).filter (fun b => !b.out && b.group = g)).foldl (fun v b =>
    (List.range b.width).foldl (fun v i => setBit v (b.line + i) (importLine s (b.line + i))) v) 0

/-- STROBE of an import group (R453): its lines are captured and moved to its stable register.  DESIGN CHOICE: the move
completes at once; R453 gives only the time within which it completes. -/
def strobeGroup (s : State) (g : Nat) : State :=
  if importLine s (4080 + g) then
    let v := groupLines s g
    onHgr s (fun h => { h with stable := h.stable.set 0 g v })
  else s

/-- The TAKEN toggles due at an edge of UCLK `k` (R453). -/
def takenEdge (s : State) (k : Nat) (h : Hgr) : Hgr :=
  (List.range 8).foldl (fun h g =>
    if headerByte s (32 + g) = k ∧ h.taken.get false g then
      { h with taken := h.taken.set false g false
               lines := h.lines.modify false (4088 + g) (!·) }
    else h) h

/-! ### Capture (R459, R460) -/

/-- A capture fires: flip-flops and RAM words go to the shadow (R459). -/
def fireCapture (s : State) : State :=
  let ffs := (List.range 16384).foldl (fun m i =>
    SMap.set false m (i * 2) (ffValue s (i / 64) (i % 64) 0) |> fun m =>
    SMap.set false m (i * 2 + 1) (ffValue s (i / 64) (i % 64) 1)) []
  let s := onHgr s (fun h => { h with shadowFf := ffs, shadowRam := h.ram })
  let s := set64 s F.HGR_CAP_TIME_LO_TIME F.HGR_CAP_TIME_HI_TIME (timeNs s)
  setB (setB s F.HGR_STATUS_CAP_BUSY false) F.HGR_STATUS_CAP_DONE true

/-- The armed capture fires at this edge of UCLK `k` (R459), the `e`-th since ARM; `line` is the broadcast line. -/
def captureDue (s : State) (k e : Nat) (line : Bool) : Bool :=
  getB s F.HGR_STATUS_CAP_BUSY && getF s F.HGR_CAP_CTRL_UCLK == k &&
    match getF s F.HGR_CAP_CTRL_MODE with
    | 1 => decide (max 1 (getF s F.HGR_CAP_COUNT_EDGES) ≤ e)
    | 2 => line
    | _ => true

/-- A rising edge of UCLK `k`, with the pins that read 1 and the upset of a RAM block, where there is one (R441, R448, R449,
R453, R459). -/
def uclkEdge (s : State) (k : Nat) (ins : FabricInputs) : State :=
  if getB s (F.HGR_UCLK_RUNNING k) then
    let s := onHgr s (fun h =>
      let h := { h with pins := ins.pins.map Fin.val }
      match ins.upset with
      | some u => upsetRam h u
      | none => h)
    let line := broadcastLine s (getF s F.HGR_CAP_CTRL_LINE)
    let s1 := ((List.range 8).filter (fun g => headerByte s (32 + g) = k)).foldl strobeGroup s
    let h := (List.range 128).foldl (ramEdge s k) s1.hgr
    let h := { h with
      ff := (ffUpdates s k).foldl (fun m u => m.set false u.1 u.2) h.ff
      ioReg := ioEdge s k h.ioReg }
    let s1 := { s1 with hgr := takenEdge s k h }
    let s1 := (List.range 128).foldl (ramErrors s k) s1
    if getB s F.HGR_STATUS_CAP_BUSY && getF s F.HGR_CAP_CTRL_UCLK == k then
      let e := s.hgr.capEdges + 1
      let s1 := onHgr s1 (fun h => { h with capEdges := e })
      if captureDue s k e line then fireCapture s1 else s1
    else s1
  else s

/-- STROBE of an import group (R453). -/
def execStrobe (g : Fin 8) (s : State) : Host.Outcome State Fault Refusal :=
  .next (if s.hgr.loaded && getB s (F.HGR_UCLK_RUNNING (headerByte s (32 + g))) then strobeGroup s g else s)

/-- Released export values reach their lines, and COMMIT inverts (R454). -/
def execExportUpdate (g : Fin 8) (s : State) : Host.Outcome State Fault Refusal :=
  let w := s.hgr.waiting.get [] g
  .next (
    if w ≠ [] ∧ getB s (F.HGR_UCLK_RUNNING (headerByte s (40 + g))) then
      onHgr s (fun h => { h with
        lines := (w.foldl (fun m e => m.set false e.1 e.2) h.lines).modify false (4080 + g) (!·)
        waiting := h.waiting.set [] g [] })
    else s)

/-! ### The bridge at the boundary -/

/-- B3 of cycle `c` on die `d` (R20, R454): export bits are captured. -/
def exportB3 (s : State) (d : Fin 4) (c : Nat) : State :=
  let bs := (bridgeList s).filter (fun b => b.out && b.die = d.val)
  onHgr s (fun h => { h with staged := h.staged ++ bs.flatMap (fun b => (List.range b.width).map (fun i =>
    (c, b.group, b.line + i, s.dies[d].regBits.get false (bridgeOutKey b i)))) })

/-- The bridge's part of the commit of cycle `c` (R27, R454): the latest released values of a group are the ones that
its next update presents. -/
def hgrCommit (s : State) (c : Nat) : State :=
  let now := s.hgr.staged.filter (fun e => e.1 = c)
  onHgr s (fun h => { h with
    staged := h.staged.filter (fun e => e.1 ≠ c)
    waiting := (List.range 8).foldl (fun m g =>
      let vs := (now.filter (fun e => e.2.1 = g)).map (fun e => e.2.2)
      if vs = [] then m else m.set [] g vs) h.waiting
    imports := h.imports.filter (fun e => c ≤ e.1 / 8) })

/-- The bridge's part of abandoning every cycle from `b` on: recorded imports stay for the replay (R453). -/
def hgrAbandon (s : State) (b : Nat) (replayed : Bool) : State :=
  onHgr s (fun h => { h with
    staged := h.staged.filter (fun e => e.1 < b)
    imports := if replayed then h.imports else h.imports.filter (fun e => e.1 / 8 < b) })

/-- The stable register of a group is recorded for B6 of cycle `c`; its TAKEN toggle becomes due where `fed` (R453). -/
def recordImport (c : Nat) (fed : Nat → Bool) (h : Hgr) (g : Nat) : Hgr :=
  { h with
    imports := h.imports.set none (c * 8 + g) (some (h.stable.get 0 g))
    taken := if fed g then h.taken.set false g true else h.taken }

/-- The stable registers that B6 of cycle `c` takes are recorded, once (R453). -/
def recordImports (s : State) (c : Nat) : State :=
  let fed := fun g => (bridgeList s).any (fun b => !b.out && b.group = g)
  if (s.hgr.imports.get none (c * 8)).isSome then s
  else onHgr s (fun h => (List.range 8).foldl (recordImport c fed) h)

/-- B6 of cycle `c` on die `d` (R453): port-input bits from the bridge. -/
def importB6 (s : State) (d : Fin 4) (c : Nat) : State :=
  let s := recordImports s c
  let bs := (bridgeList s).filter (fun b => !b.out && b.die = d.val)
  let put := fun (m : SMap Bool) (b : BridgeDef) => (List.range b.width).foldl (fun m i =>
    if lineEnabled s (b.line + i) then
      SMap.set false m (bridgeInKey b i) (((s.hgr.imports.get none (c * 8 + b.group)).getD 0).testBit (b.line + i))
    else m) m
  onDie s d (fun x => { x with portIn := bs.foldl put x.portIn })

/-- Port-input bits of die `d` that no message port and no enabled import bit feeds read 0 (R69, R453). -/
def clearUnfed (s : State) (d : Fin 4) : State :=
  let fed := (bridgeList s).flatMap (fun b => if !b.out && b.die = d.val then
      (List.range b.width).filterMap (fun i => if lineEnabled s (b.line + i) then none else some (bridgeInKey b i))
    else [])
  onDie s d (fun x => { x with portIn := fed.foldl (fun m k => m.set false k false) x.portIn })

/-- The enabled import bits of die `d`, as keys of its port-input bits. -/
def importKeys (s : State) (d : Fin 4) : List Nat :=
  (bridgeList s).flatMap (fun b => if !b.out && b.die = d.val then
    (List.range b.width).filterMap (fun i => if lineEnabled s (b.line + i) then some (bridgeInKey b i) else none)
  else [])

/-- The port-input bits of die `d` that its message ports present. -/
def portKeys (s : State) (d : Fin 4) : List (Nat × Nat) :=
  ((portList s).filter (fun p => !p.out && p.die = d.val)).flatMap (fun p =>
    (List.range (if p.blocking then p.width else p.width + 1)).map (fun i => (presInKey p i, p.port)))

/-- Two sources present onto one port-input bit of die `d` (R170, R455, R172): one fault for each such bit, which names
the message port where one of the sources is one. -/
def portMapFaults (s : State) (d : Fin 4) : List SFault :=
  let ks := importKeys s d
  let ps := portKeys s d
  let mk := fun (k port : Nat) => (⟨0x0A, d, k / 8192, k / 256 % 32, 0x43, s.dies[d].sigma, s.dies[d].cycle,
    k % 256 * 2 ^ 12 + port⟩ : SFault)
  (ps.filter (fun p => ks.contains p.1)).map (fun p => mk p.1 p.2) ++
    (ks.eraseDups.filter (fun k => decide (1 < ks.count k) && !ps.any (fun p => p.1 = k))).map (fun k => mk k 0xFFF)

/-! ### Capture commands (R459, R460) -/

/-- ARM is refused (R460); `loading` is set while a load installs or starts up. -/
def captureRefused (s : State) : Bool :=
  sealedNow s || (3 ≤ getF s F.LDR_STATUS_PHASE && getF s F.LDR_STATUS_PHASE ≤ 4) || !s.hgr.loaded

/-- A write to HGR_CAP_CTRL (R459, R460): its fields, then ABORT and ARM. -/
def capCtrlWrite (s : State) (v : Nat) : State :=
  let s := plainWrite s 0xD0200 v
  let s := if v.testBit 30 then setB s F.HGR_STATUS_CAP_BUSY false else s
  if v.testBit 31 then
    if captureRefused s then setB s F.HGR_STATUS_CAP_REFUSED true
    else onHgr (setB (setB s F.HGR_STATUS_CAP_BUSY true) F.HGR_STATUS_CAP_DONE false) (fun h => { h with capEdges := 0 })
  else s

/-- ARM of a fabric capture (R459). -/
def execCaptureArm (value : Word) (s : State) : Host.Outcome State Fault Refusal :=
  .next (gatedWrite s 0xD0200 (capCtrlWrite · value.toNat))

/-- ABORT of a fabric capture (R459). -/
def execCaptureAbort (value : Word) (s : State) : Host.Outcome State Fault Refusal :=
  .next (gatedWrite s 0xD0200 (capCtrlWrite · value.toNat))

/-- The chosen edge of an armed capture comes (R459). -/
def execCaptureFire (s : State) : Host.Outcome State Fault Refusal :=
  .next (if getB s F.HGR_STATUS_CAP_BUSY then fireCapture s else s)

/-- A word of the shadow (R460). -/
def shadowWord (s : State) (w : Nat) : Nat :=
  let bit := fun (i : Nat) =>
    if w < 1024 then s.hgr.shadowFf.get false (32 * w + i)
    else s.hgr.shadowRam.get false ((w - 1024) / 1152 * 36864 + (w - 1024) % 1152 * 32 + i)
  (List.range 32).foldl (fun v i => v + b2n (bit i) * 2 ^ i) 0

/-- A read of HGR_CAP_DATA: the shadow word, and the index advanced (R460). -/
def capRead (s : State) : Nat × State := (shadowWord s (getF s F.HGR_CAP_INDEX_WORD), wrapF s F.HGR_CAP_INDEX_WORD 1)

/-- A read of HGR_CAP_DATA (R460). -/
def execCapDataRead (s : State) : Host.Outcome State Fault Refusal :=
  .next (gatedRead s 0xD0214 capRead)

/-! ### Supplies and scrub (R458, R462) -/

/-- The VCCIO class that a standard requires (R461): the code of R462. -/
def standardClass (n : Nat) : Nat :=
  match n with
  | 1 => 1
  | 2 | 6 | 7 => 2
  | 3 | 8 => 3
  | 4 | 9 => 4
  | 5 => 5
  | _ => 0

/-- A used pin of the bank requires another VCCIO than `sensed` (R462). -/
def bankMismatch (s : State) (n sensed : Nat) : Bool :=
  (List.range 48).any (fun j =>
    let std := slotByte s (48 * n + j) 0
    std ≠ 0 && slotByte s (48 * n + j) 1 % 4 ≠ 3 && standardClass std ≠ sensed)

/-- A bank's sensed class changes (R462): it parks when it becomes mismatched and is released once it has matched for
1 ms. -/
def execVccioMismatch (bank : Fin 8) (sensed : BitVec 3) (settled : Bool) (s : State) :
    Host.Outcome State Fault Refusal :=
  let s := onHgr (setF s (F.HGR_BANK_STATUS_VCCIO bank) sensed.toNat) (fun h =>
    { h with sensed := h.sensed.set 0 bank sensed.toNat })
  let bad := bankMismatch s bank sensed.toNat
  let was := getB s (F.HGR_BANK_STATUS_MISMATCH bank)
  .next (
    if getB s F.HGR_STATUS_OUTPUTS then
      if bad then
        let s := if was then s else setB s F.HGR_STATUS_VCCIO_MISMATCH true
        showParked (setB s (F.HGR_BANK_STATUS_MISMATCH bank) true)
      else if was && settled then showParked (setB s (F.HGR_BANK_STATUS_MISMATCH bank) false)
      else s
    else s)

/-- The copies of configuration bit (`b`, `i`) that have flipped (R458): a copy that flips twice stands as before. -/
def flippedCopies (upsets : List (Fin 3 × Fin 8392704 × Fin 8)) (b i : Nat) : Nat :=
  (List.range 3).countP (fun c => upsets.countP (fun u => u.1.val = c ∧ u.2.1.val = b ∧ u.2.2.val = i) % 2 = 1)

/-- One configuration bit at the scrub (R458): its minority copy is rewritten and counted, and the majority is what the fabric
uses. -/
def scrubBit (s : State) (copies b i : Nat) : State :=
  let s := if copies = 1 ∨ copies = 2 then bumpF s F.HGR_CFG_FIX_COUNT 1 else s
  if 2 ≤ copies then
    onHgr s (fun h => { h with
      cfg := Memory.write zeroFill h.cfg b ((Memory.read zeroFill h.cfg b) ^^^ BitVec.ofNat 8 (2 ^ i)) })
  else s

/-- The configuration scrub compares the three copies of every bit (R458). -/
def execCfgScrub (upsets : List (Fin 3 × Fin 8392704 × Fin 8)) (s : State) : Host.Outcome State Fault Refusal :=
  .next (if s.hgr.loaded then
    ((upsets.map (fun u => (u.2.1.val, u.2.2.val))).eraseDups).foldl (fun t q =>
      scrubBit t (flippedCopies upsets q.1 q.2) q.1 q.2) s
  else s)

/-! ### Loading the fabric -/

/-- The flip-flops at their INIT values, for the blocks that `which` holds of (R281, R441). -/
def initFfs (s : State) (which : Nat → Bool) : SMap Bool :=
  let keep := s.hgr.ff.filter (fun e => !which (e.1 / 128))
  s.hgr.cfg.foldl (fun m e =>
    let fr := e.1 / 4096
    let x := (fr - 1) / 8
    let b := e.1 % 4096
    if 0 < fr ∧ (fr - 1) % 8 = 1 ∧ which x ∧ 20 ≤ b % 64 ∧ b % 64 < 22 ∧ e.2.toNat.testBit 2 then
      m.set false (x * 128 + 2 * (b / 64) + (b % 64 - 20)) true
    else m) keep

/-- The output registers at their initial values, for the blocks that `which` holds of (R281, R461). -/
def initIo (s : State) (which : Nat → Bool) : SMap Bool :=
  let keep := s.hgr.ioReg.filter (fun e => e.1 % 2 = 0 ∨ !which (pinSlot (e.1 / 2)).1)
  s.hgr.cfg.foldl (fun m e =>
    let fr := e.1 / 4096
    let x := (fr - 1) / 8
    let b := e.1 % 4096
    match blockPin x with
    | some p => if 0 < fr ∧ (fr - 1) % 8 = 3 ∧ which x ∧ b < 64 ∧ b % 16 = 3 ∧ e.2.toNat.testBit 0 then
        m.set false (2 * (p + b / 16) + 1) true
      else m
    | none => m) keep

/-- The RAM blocks at their initial contents, for the blocks that `which` holds of (R457). -/
def initRams (s : State) (which : Nat → Bool) : SMap Bool :=
  let keep := s.hgr.ram.filter (fun e => !which (2 * (e.1 / 36864) + 1))
  s.hgr.cfg.foldl (fun m e =>
    let fr := e.1 / 4096
    let x := (fr - 1) / 8
    let f := (fr - 1) % 8
    let b := (f - 5) * 4096 + e.1 % 4096
    if 0 < fr ∧ (f = 5 ∨ f = 6) ∧ which x ∧ x % 2 = 1 ∧ b < 4608 then
      (List.range 8).foldl (fun m i => SMap.set false m (x / 2 * 36864 + 8 * b + i) (e.2.toNat.testBit i)) m
    else m) keep

end Sys2Proof.Machine
end

