-- ==== Sys2Proof/Machine/Holds.lean ====
section
/-! DEFINITION. Global hold (R116 to R145): causes, announced holds, freezing, readiness, resume, user holds, the late
timer and the accounting registers. -/

namespace Sys2Proof.Machine

/-- The state with the hold machinery changed. -/
def onHolds (s : State) (g : Holds → Holds) : State := { s with holds := g s.holds }

/-! ### Causes (R119, R122) -/

/-- A coppice region is to rejoin at B0 of cycle `k` (R296). -/
def rejoinDue (s : State) (k : Nat) : Bool :=
  s.run.regions.any (fun e => match e.2 with
    | some r => r.until_ == some k
    | none => false)

/-- A carry-over entry of boundary `k` for die `d` has not arrived (R474). -/
def carryMissing (s : State) (d : Fin 4) (k : Nat) : Bool :=
  s.mem.flights.any (fun f => f.dst = d.val && cycleOf s f.sent ≤ k &&
    k < cycleOf s (f.sent + chanDelay s.dies[d] f.chan))

/-- B0 of cycle `k` waits (R26, R296, R474). -/
def commitWait (s : State) (k : Nat) : Bool :=
  (3 ≤ k && s.run.nextCommit ≤ k - 3) || (rejoinDue s k && s.run.nextCommit < k) ||
    (4 ≤ k && dieList.any (fun d => carryMissing s d (k - 4)))

/-- A staged host write waits for B1 of cycle `k` (R38). -/
def hostWriteWaits (s : State) (k : Nat) : Bool :=
  s.design.writes.any (fun w => !w.applied && match w.cycle with | some c => c = k | none => true)

/-- The cycle in progress: that of the most advanced die (R32, R125). -/
def currentCycle (s : State) : Nat := cycleOf s (sigmaMax s)

/-- The source number of a boundary hold (R119). -/
def holdSource : BoundaryHold → Nat
  | .commitWait => 5
  | .hostWrite => 6
  | .outFull => 3
  | .inEmpty => 4

/-- The boundary step at which a boundary hold freezes the dies (R122). -/
def holdStep : BoundaryHold → Nat
  | .commitWait => 0
  | .hostWrite => 1
  | .outFull => 2
  | .inEmpty => 4

/-- The hold is announced for cycle `c` (R122): its cause as the hub sees it. -/
def holdCause (s : State) (h : BoundaryHold) (c : Nat) : Bool :=
  match h with
  | .commitWait => commitWait s c
  | .hostWrite => hostWriteWaits s c
  | .outFull => fullPorts s c ≠ []
  | .inEmpty => emptyPorts s c ≠ []

/-- The cause of source `n` still stands (R122, R123, R125). -/
def causeStands (s : State) (n : Nat) : Bool :=
  let c := currentCycle s
  match n with
  | 3 => stuckPorts s c ≠ []
  | 4 => emptyPorts s c ≠ []
  | 5 => commitWait s c
  | 6 => hostWriteWaits s c
  | 7 => getB s F.ARY_HOLD_CTRL_ACTIVE
  | 8 => s.run.retire.isSome || s.run.sparing.isSome
  | 10 => getB s F.CLK_REFCLK_HOLDOVER
  | _ => false

/-- A hold of source `n` announced for step count `t` (R121, R124). -/
def announce (s : State) (n t : Nat) : State :=
  onHolds s (fun h => { h with announced := h.announced ++ [(n, t)] })

/-- Announced holds withdrawn (R124). -/
def withdraw (s : State) (drop : Nat × Nat → Bool) : State :=
  onHolds s (fun h => { h with announced := h.announced.filter (fun a => !drop a) })

/-- Cycle plus 1 for which a boundary hold has been decided last (R122). -/
def decidedTo (s : State) (h : BoundaryHold) : Nat :=
  match h with
  | .commitWait => s.holds.commitDecided
  | .hostWrite => s.holds.writeDecided
  | .outFull => s.chn.outDecided
  | .inEmpty => s.chn.inDecided

/-- The decision of a boundary hold for cycle `c` is on record, and an input port's choice with it (R122, R340). -/
def noteDecision (s : State) (h : BoundaryHold) (c : Nat) : State :=
  match h with
  | .commitWait => onHolds s (fun x => { x with commitDecided := max x.commitDecided (c + 1) })
  | .hostWrite => onHolds s (fun x => { x with writeDecided := max x.writeDecided (c + 1) })
  | .outFull => onChn s (fun x => { x with outDecided := max x.outDecided (c + 1) })
  | .inEmpty => decideIn s c

/-- The hub decides a boundary hold of cycle `c` (R122): messages and room are reserved, and a hold is announced where
its cause stands. -/
def decide_ (s : State) (h : BoundaryHold) (c : Nat) : State :=
  let s := noteDecision s h c
  let t := c * cycleSteps s + stepsS s + holdStep h
  if holdCause s h c then announce (withdraw s (fun a => a.1 = holdSource h)) (holdSource h) t
  else withdraw s (fun a => a.1 = holdSource h ∧ a.2 = t)

/-- The most advanced die is at the decision step of a boundary hold that its cycle has not had decided yet, or, where
the machine began to execute behind that step, between it and the hold's target (R122). -/
def decisionDue (s : State) (h : BoundaryHold) : Bool :=
  let t := stepOf s (sigmaMax s)
  executing s && stepsS s != 0 && decide (stepsS s + holdStep h ≤ t + 16) && decide (t < stepsS s + holdStep h) &&
    decide (decidedTo s h ≤ cycleOf s (sigmaMax s))

/-- BOUNDARY_HOLD_DECISION (R122): the most advanced die reaches a decision step. -/
def execBoundaryHoldDecision (h : BoundaryHold) (s : State) : Host.Outcome State Fault Refusal :=
  .next (if decisionDue s h then decide_ s h (cycleOf s (sigmaMax s)) else s)

/-- The four boundary holds, in the order of their steps. -/
def boundaryHolds : List BoundaryHold := [.commitWait, .hostWrite, .outFull, .inEmpty]

/-- The decisions that are due are taken (R122). -/
def takeDecisions (s : State) : State :=
  boundaryHolds.foldl (fun t h => if decisionDue t h then decide_ t h (cycleOf t (sigmaMax t)) else t) s

/-! ### Freezing (R126 to R128) -/

/-- The pending user hold is announced for step count `t` (R125): the latest announcement of source 7 is its own; an
earlier one is of a user hold that was cancelled while dies ran, which R123 still lets freeze the dies. -/
def userDue (s : State) (t : Nat) : Bool :=
  getB s F.ARY_HOLD_CTRL_PENDING && (s.holds.announced.filter (fun a => a.1 = 7)).getLast? = some (7, t)

/-- The user hold comes into force where a die stands at its target (R125). -/
def userTakes (s : State) (d : Fin 4) : State :=
  if userDue s s.dies[d].sigma then
    setB (setB s F.ARY_HOLD_CTRL_PENDING false) F.ARY_HOLD_CTRL_ACTIVE true
  else s

/-- Die `d` freezes for announced holds and orders that name its step (R121, R128). -/
def freezeHere (s : State) (d : Fin 4) : State :=
  userTakes ((announcedHere s d).foldl raiseSource (freezeDie s d)) d

/-- A freeze order reaches die `d` (R127): it freezes where it stands. -/
def orderFreeze (s : State) (d : Fin 4) : State :=
  if executing s && !s.dies[d].frozen && anyFrozen s then freezeHere s d else s

/-- A freeze order reaches a die (R127). -/
def execFreezeOrder (d : Fin 4) (s : State) : Host.Outcome State Fault Refusal := .next (orderFreeze s d)

/-- The lowest step count of a frozen die. -/
def frozenMin (s : State) : Option Nat :=
  (dieList.filter (fun d => s.dies[d].frozen)).foldl (fun m d => match m with
    | none => some s.dies[d].sigma
    | some x => some (min x s.dies[d].sigma)) none

/-- The die skew bound (R127): no die executes a step 24 or more beyond the least frozen one. -/
def skewBound (s : State) (d : Fin 4) : Bool :=
  match frozenMin s with
  | some m => m + 24 ≤ s.dies[d].sigma
  | none => false

/-! ### Readiness and resume (R130 to R132) -/

/-- A late item is present now (R65, R105). -/
def itemPresent (s : State) (d : Fin 4) (i : LateItem) : Bool :=
  let x := s.dies[d]
  if i.source = 0 then (x.mrd.get ⟨false, false, none⟩ (idx (i.tilePos * 32 + i.cluster) 512 i.item)).present
  else match chanFind x (i.item - 0x2000) with
    | .late => false
    | _ => true

/-- A frozen die is ready (R130). -/
def dieReady (s : State) (d : Fin 4) : Bool := s.dies[d].frozen && s.dies[d].late.all (itemPresent s d)

/-- The device is ready (R130): source 11 is disregarded, as READY has it (R135). -/
def deviceReady (s : State) : Bool :=
  dieList.all (dieReady s) && [3, 4, 5, 6, 7, 8, 9, 10].all (fun n => !sourceOn s n) && s.run.sfaults = [] &&
    s.run.replay.isNone

/-- Late sources none of whose items is absent any more leave force (R119). -/
def refreshLate (s : State) : State :=
  [0, 1, 2].foldl (fun t n =>
    if sourceOn t n && !(dieList.any (fun d => t.dies[d].frozen &&
        t.dies[d].late.any (fun i => i.source = n && !itemPresent t d i)))
    then clearSource t n else t) s

/-- The decisions of boundary holds that lie behind the dies and whose targets lie ahead are taken again (R124). -/
def redecide (s : State) : State :=
  let m := sigmaMax s
  let c := cycleOf s m
  let t := stepOf s m
  boundaryHolds.foldl (fun u h =>
    if stepsS u + holdStep h ≤ t + 16 && t < stepsS u + holdStep h then decide_ u h c else u) s

/-- The resume is complete (R131, R137): the late timer starts again. -/
def resumeDone (s : State) : State :=
  if anyFrozen s then setB s F.ARY_HOLD_STATUS_RESUMING true
  else
    let s := onHolds s (fun h => { h with resuming := none, lateTimer := 0, lateSteps := 0, forwarded := [], remoteMin := none })
    setB (clearSource s 11) F.ARY_HOLD_STATUS_RESUMING false

/-- The frozen dies whose step count is at most `m` are released (R131). -/
def releaseUpTo (s : State) (m : Nat) : State :=
  let s := dieList.foldl (fun t d => if t.dies[d].frozen && decide (t.dies[d].sigma ≤ m) then releaseDie t d else t) s
  resumeDone s

/-- A resume begins (R130, R131): the dies with the lowest frozen step count are released first. -/
def beginResume (s : State) : State :=
  match frozenMin s with
  | none => s
  | some m =>
    let s := redecide (refreshLate s)
    let s := [0, 1, 2].foldl clearSource s
    let s := onHolds s (fun h => { h with resuming := some m })
    releaseUpTo s m

/-- The other dies of a resume are released as the running dies reach their steps (R131). -/
def continueResume (s : State) : State :=
  match s.holds.resuming with
  | none => s
  | some _ =>
    let run := dieList.filter (fun d => !s.dies[d].frozen)
    match run with
    | [] => s
    | d :: ds => releaseUpTo s (ds.foldl (fun m e => min m s.dies[e].sigma) s.dies[d].sigma)

/-- An announced hold whose cause has cleared is released at least 4 step periods after the freeze (R123). -/
def releaseAnnounced (s : State) : State :=
  if allFrozen s && decide (4 ≤ s.holds.frozenSteps) then
    let s := if sourceOn s 4 then decideIn s (currentCycle s) else s
    [3, 4, 5, 6, 7, 8, 10].foldl (fun t n =>
      if sourceOn t n && !causeStands t n then
        clearSource (withdraw t (fun a => a.1 = n && decide (a.2 ≤ sigmaMax t))) n
      else t) s
  else s

/-- ANNOUNCED_HOLD_RELEASE (R123). -/
def execAnnouncedHoldRelease (s : State) : Host.Outcome State Fault Refusal := .next (releaseAnnounced s)

/-! ### User holds (R125, R142) -/

/-- The user hold's target in RUNNING or HELD: the step count, and whether a MODE 1 target was missed (R125). -/
def userTarget (s : State) : Nat × Bool × Bool :=
  let m := sigmaMax s
  let early := if allFrozen s then m else m + 16
  if getF s F.ARY_HOLD_CTRL_MODE = 1 then
    let c0 := cycleOf s m
    let c := c0 + (getF s F.ARY_HOLD_AT_CYCLE_CYCLE + 2 ^ 32 - c0 % 2 ^ 32) % 2 ^ 32
    let t := c * cycleSteps s + getF s F.ARY_HOLD_AT_STEP_STEP
    if stepsS s + 11 < getF s F.ARY_HOLD_AT_STEP_STEP ∨ t < m + 16 then (early, true, false) else (t, false, true)
  else (early, false, false)

/-- A user hold is pending or active. -/
def userHeld (s : State) : Bool := getB s F.ARY_HOLD_CTRL_PENDING || getB s F.ARY_HOLD_CTRL_ACTIVE

/-- Announced holds whose target the frozen dies stand at come into force (R124). -/
def enforceFrozen (s : State) : State :=
  if allFrozen s then
    dieList.foldl (fun t d => userTakes ((announcedHere t d).foldl raiseSource t) d) s
  else s

/-- REQUEST (R125). -/
def userRequest (s : State) : State :=
  if userHeld s || emState s = 0 then s
  else if executing s then
    let (t, missed, mode1) := userTarget s
    let s := if missed then setB s F.ARY_HOLD_CTRL_AT_MISSED true else s
    let s := onHolds s (fun h => { h with userMode1 := mode1 })
    enforceFrozen (announce (setB s F.ARY_HOLD_CTRL_PENDING true) 7 t)
  else
    let m1 := getF s F.ARY_HOLD_CTRL_MODE = 1
    let missed := m1 && decide (stepsS s + 11 < getF s F.ARY_HOLD_AT_STEP_STEP)
    let s := if missed then setB s F.ARY_HOLD_CTRL_AT_MISSED true else s
    let at_ := if m1 && !missed then some (getF s F.ARY_HOLD_AT_CYCLE_CYCLE, getF s F.ARY_HOLD_AT_STEP_STEP) else none
    onHolds (setB s F.ARY_HOLD_CTRL_PENDING true) (fun h => { h with userAt := some at_ })

/-- The user hold ends, or is cancelled (R125). Its announcement is withdrawn while every die is frozen (R124); while
a die runs it stays, and the dies still freeze at its target (R123). -/
def userReleaseNow (s : State) : State :=
  let s := setB (setB s F.ARY_HOLD_CTRL_PENDING false) F.ARY_HOLD_CTRL_ACTIVE false
  let s := onHolds s (fun h => { h with userAt := none })
  if executing s && !allFrozen s then s else withdraw s (fun a => a.1 = 7)

/-- RELEASE (R125); under a march test of a bound tile it takes effect when the test ends (R536). -/
def userRelease (s : State) : State :=
  if marchHolds s then { s with ctl := { s.ctl with deferred := true } } else userReleaseNow s

/-- A write to ARY_HOLD_CTRL (R125): its fields, then RELEASE, then REQUEST. -/
def holdCtrlWrite (s : State) (v : Nat) : State :=
  let s := plainWrite s 0x70010 v
  let s := if v.testBit 1 then userRelease s else s
  if v.testBit 0 then userRequest s else s

/-- REQUEST of a user hold (R125). -/
def execRequest (value : Word) (s : State) : Host.Outcome State Fault Refusal := .next (holdCtrlWrite s value.toNat)

/-- RELEASE of a user hold (R125). -/
def execRelease (value : Word) (s : State) : Host.Outcome State Fault Refusal := .next (holdCtrlWrite s value.toNat)

/-- The user hold as the machine comes to rest at boundary `next - 1` (R125, R142); the latest announcement of source 7 is
its own. -/
def carryUserHold (s : State) (next : Nat) : State :=
  if userHeld s then
    let t := (s.holds.announced.filter (fun a => a.1 = 7)).getLast?.map Prod.snd
    let keep := match t with
      | some t => if s.holds.userMode1 && decide (next ≤ cycleOf s t) then
          some (cycleOf s t % 2 ^ 32, stepOf s t) else none
      | none => match s.holds.userAt with
        | some (some a) => some a
        | _ => none
    let s := setB (setB s F.ARY_HOLD_CTRL_PENDING true) F.ARY_HOLD_CTRL_ACTIVE false
    onHolds s (fun h => { h with userAt := some keep, announced := h.announced.filter (fun a => a.1 ≠ 7) })
  else s

/-- A user hold that waits for a RUN is announced as the RUN starts at cycle `c` (R125). -/
def armUserHold (s : State) (c : Nat) : State :=
  match s.holds.userAt with
  | none => s
  | some a =>
    let t := match a with
      | none => c * cycleSteps s
      | some (cy, st) => (c + (cy + 2 ^ 32 - c % 2 ^ 32) % 2 ^ 32) * cycleSteps s + st
    announce (onHolds s (fun h => { h with userAt := none, userMode1 := a.isSome })) 7 t

/-! ### Ends of holds (R140 to R142) -/

/-- Every hold in force or announced ends, but for a user hold where it is kept (R140, R142).  The late timer starts again
with it (DESIGN CHOICE where the machine comes to rest in STOPPED: R137 names the end of a resume, R140 a Schedule Fault). -/
def endHolds (s : State) (keepUser : Bool) (next : Nat) : State :=
  let s := if keepUser then carryUserHold s next
    else onHolds (setB (setB s F.ARY_HOLD_CTRL_PENDING false) F.ARY_HOLD_CTRL_ACTIVE false)
      (fun h => { h with userAt := none })
  let s := onHolds s (fun h => { h with
    announced := h.announced.filter (fun a => a.1 = 8), lateTimer := 0, lateSteps := 0, resuming := none, forwarded := [],
    remoteMin := none, readyFrom := [], release := none, commitDecided := min h.commitDecided next, writeDecided := min h.writeDecided next })
  setB ((List.range 12).foldl clearSource s) F.ARY_HOLD_STATUS_RESUMING false

/-! ### The late timer (R137, R138) -/

/-- LATE_LIMIT, none where EXP is 0 (R137). -/
def lateLimit (s : State) : Option Nat :=
  let e := getF s F.ARY_LATE_LIMIT_EXP
  if e = 0 then none else some (2 ^ clamp 10 40 e)

/-- The late timer advances in a step period (R137): a die is frozen, a source 0 to 4 is in force and none of 5 to
10. -/
def lateTick (s : State) : State :=
  if anyFrozen s && [0, 1, 2, 3, 4].any (sourceOn s) && [5, 6, 7, 8, 9, 10].all (fun n => !sourceOn s n) then
    onHolds s (fun h =>
      if h.lateSteps + 1 < cycleSteps s then { h with lateSteps := h.lateSteps + 1 }
      else { h with lateSteps := 0, lateTimer := h.lateTimer + 1 })
  else s

/-- Late item `a` of a die comes before `b` (R138). -/
def itemBefore (a b : LateItem) : Bool :=
  let key := fun (i : LateItem) => ((i.tilePos * 64 + i.cluster) * 256 + i.unit) * 65536 + i.index
  key a < key b

/-- The oldest absent item of a list. -/
def oldestItem : List LateItem → Option LateItem
  | [] => none
  | i :: is => match oldestItem is with
    | none => some i
    | some j => if itemBefore j i then some j else some i

/-- The oldest absent item of the device: its die and step count (R138). -/
def oldestLate (s : State) : Option (Fin 4 × Nat × LateItem) :=
  (dieList.filterMap (fun d => if s.dies[d].frozen then
      (oldestItem (s.dies[d].late.filter (fun i => !itemPresent s d i))).map (fun i => (d, s.dies[d].sigma, i))
    else none)).foldl (fun m e => match m with
    | none => some e
    | some x => if e.2.1 < x.2.1 then some e else some x) none

/-- A message port that source 3 or 4 waits for (R138): the step count of the boundary step that it stands at, the source
and the port. -/
structure WaitingPort where
  sigma : Nat
  source : Nat
  port : Nat
  deriving DecidableEq, Repr

/-- The message ports that sources 3 and 4 wait for: at B2 and at B4 of the cycle in progress (R119, R138). -/
def waitingPorts (s : State) : List WaitingPort :=
  let c := currentCycle s
  let t := c * cycleSteps s + stepsS s
  (if sourceOn s 3 then (stuckPorts s c).map (fun p => ⟨t + 2, 3, p.port⟩) else []) ++
    (if sourceOn s 4 then (emptyPorts s c).map (fun p => ⟨t + 4, 4, p.port⟩) else [])

/-- Port `a` is older than port `b` (R138): lowest step count, then lowest port number. -/
def WaitingPort.before (a b : WaitingPort) : Bool := a.sigma < b.sigma || (a.sigma == b.sigma && a.port < b.port)

/-- SF_STARVED (R138, R172), with the die whose vote it makes bad.  The record of a waiting port has UNIT 0x43 and the
hub's DIE 0xFF, and it is charged to die 0 (DESIGN CHOICE: R171 does not name the UNIT of a waiting port). -/
def starvedFault (s : State) : Option (Fin 4 × SFault) :=
  let lowPort := (waitingPorts s).foldl (fun (m : Option WaitingPort) e => match m with
    | none => some e
    | some x => if e.before x then some e else some x) none
  let port := lowPort.map (fun p => ((0 : Fin 4), (⟨0x0B, 0xFF, 0xFFFF, 0xFF, 0x43, p.sigma, cycleOf s p.sigma,
    p.source * 2 ^ 28 + p.port⟩ : SFault)))
  match oldestLate s with
  | some (d, t, i) =>
    if lowPort.any (fun p => decide (p.sigma < t)) then port
    else some (d, ⟨0x0B, d, i.tilePos, i.cluster, if i.source = 0 then (if i.unit = 0x42 then 0x42 else i.unit) else 0x40,
      t, s.dies[d].cycle, i.source * 2 ^ 28 + i.item⟩)
  | none => port

/-- The late timer reaches LATE_LIMIT (R138): the device raises SF_STARVED. -/
def execSfStarved (s : State) : Host.Outcome State Fault Refusal :=
  .next (
    match lateLimit s with
    | some l =>
      if l ≤ s.holds.lateTimer then
        match starvedFault s with
        | some (d, f) => raiseSF s d [f]
        | none => s
      else s
    | none => s)

/-! ### Accounting (R143, R144) -/

/-- A write to ARY_COUNT_CTRL (R144): CLEAR zeroes every accounting count, the skew and the events at once. -/
def countCtrlWrite (s : State) (v : Nat) : State :=
  if v.testBit 0 then
    let s := (List.range 12).foldl (fun t n =>
      setF (setF (setF t (F.ARY_SRC_NS_LO_COUNT n) 0) (F.ARY_SRC_NS_HI_COUNT n) 0) (F.ARY_SRC_EPISODES_COUNT n) 0) s
    let s := setF (setF s F.ARY_HELD_NS_LO_COUNT 0) F.ARY_HELD_NS_HI_COUNT 0
    let s := setF (setF s F.ARY_EXEC_STEPS_LO_COUNT 0) F.ARY_EXEC_STEPS_HI_COUNT 0
    setF (setF (setF s F.ARY_SKEW_MAX_MACHINE 0) F.ARY_SKEW_MAX_DEVICE 0) F.ARY_HOLD_EVENTS_SEEN 0
  else s

/-- CLEAR (R144). -/
def execClear (value : Word) (s : State) : Host.Outcome State Fault Refusal := .next (countCtrlWrite s value.toNat)

/-- The offsets of the _LO registers of 64-bit accounting counts (R144). -/
def isCountLo (a : Nat) : Bool :=
  a = 0x70080 || a = 0x70088 || (0x70100 ≤ a && a < 0x701C0 && a % 16 = 0)

/-- The offsets of their _HI registers. -/
def isCountHi (a : Nat) : Bool :=
  a = 0x70084 || a = 0x7008C || (0x70104 ≤ a && a < 0x701C4 && a % 16 = 4)

/-- A read of a _LO register: its value, and the _HI half captured for the next read of it (R144): under path `k`, or
under 15 where any path's read takes it. -/
def countLoRead (s : State) (k a : Nat) : Nat × State :=
  (plainReg s a, { s with capHi := s.capHi.set none ((a + 4) * 16 + k) (some (plainReg s (a + 4))) })

/-- A read of a _HI register: the captured half where one waits (R144). -/
def countHiRead (s : State) (k a : Nat) : Nat × State :=
  match s.capHi.get none (a * 16 + k) with
  | some v => (v, { s with capHi := s.capHi.set none (a * 16 + k) none })
  | none => (plainReg s a, s)

/-- The captures of the accounting counts, which no path owns (R144). -/
abbrev anyPath : Nat := 15

/-- A read of a _LO register of a 64-bit count (R144). -/
def execCountLoRead (path : RegPath) (addr : BitVec 20) (s : State) : Host.Outcome State Fault Refusal :=
  let a := addr.toNat
  .next (
    if isCountLo a then
      let r := countLoRead s anyPath a
      emit r.2 (.readValue (pathCode path) r.1)
    else s)

end Sys2Proof.Machine
end

