-- ==== Sys2Proof/Machine/Arrivals.lean ====
section
/-! DEFINITION. What arrives in the channel buffers of a die: crossing values (R103 to R106), link channel entries
(R108, R423) and the carry-over entries of the boundary copies (R474). -/

namespace Sys2Proof.Machine

/-- A value that the spec does not state (a log entry names the places), and the state with one more drawn. -/
def drawFree (s : State) : Nat × State := (Config.freeValue s.draws, { s with draws := s.draws + 1 })

/-- The expected step count of an entry of channel `k` (R104, R108). -/
def expectedStep (x : Die) (k sent : Nat) : Nat := sent + chanDelay x k

/-- The entry is a carry-over entry of the boundary before cycle `next` (R474): sent before it, expected from it on. -/
def carriesOver (s : State) (x : Die) (k next sent : Nat) : Bool :=
  decide (cycleOf s sent < next) && decide (next ≤ cycleOf s (expectedStep x k sent))

/-- An entry that has arrived joins every boundary copy that it carries over (R474). -/
def joinCopies (s : State) (x : Die) (k : Nat) (e : ChanEntry) : List BoundaryCopy :=
  x.copies.map (fun c => if carriesOver s x k c.next e.sent then { c with carry := c.carry.modify [] k (· ++ [e]) } else c)

/-- An entry arrives in the buffer of channel `k` of die `d` (R105, R108). -/
def arrive (s : State) (d : Fin 4) (k : Nat) (e : ChanEntry) : State :=
  let x := s.dies[d]
  setDie s d { x with chans := x.chans.modify [] k (· ++ [e]), copies := joinCopies s x k e }

/-- The oldest value in flight on a channel, and the others. -/
def takeFlight (fs : List Flight) (src dst k : Nat) : Option (Flight × List Flight) :=
  match fs with
  | [] => none
  | f :: rest =>
    if f.src = src ∧ f.dst = dst ∧ f.chan = k then some (f, rest)
    else (takeFlight rest src dst k).map (fun r => (r.1, f :: r.2))

/-- CROSSING_ARRIVAL (R103, R106): the oldest value that die `src` has forwarded to die `dst` on a channel arrives.  An
uncorrectable error makes the receiving die's vote bad, and the value is a value that the spec does not state. -/
def execCrossingArrival (src dst : Fin 4) (chan : Fin 1024) (ecc : Ecc) (s : State) :
    Host.Outcome State Fault Refusal :=
  let k := arrivalLane ((dst.val + 4 - src.val) % 4) chan - 0x2000
  .next (
    match takeFlight s.mem.flights src dst k with
    | none => s
    | some (f, rest) =>
      let s := { s with mem := { s.mem with flights := rest } }
      match ecc with
      | .clean => arrive s dst k ⟨f.tag, f.val, true, false, f.sent⟩
      | .corrected =>
        arrive { s with mem := { s.mem with bridgeCe := s.mem.bridgeCe + 1 } } dst k ⟨f.tag, f.val, true, false, f.sent⟩
      | .uncorrectable =>
        let (v, s) := drawFree s
        badNow (arrive s dst k ⟨f.tag, v.testBit 0, false, false, f.sent⟩) dst)

/-- The step count nearest to `near` that has the low `w` bits of `v` (R414). -/
def extendNear (w near v : Nat) : Nat :=
  let m := 2 ^ w
  let up := near + (v + m - near % m) % m
  let down := up - m
  if up < m ∨ up - near ≤ near - down then up else down

/-- A link channel entry for inbound channel `c` of die `d` (R108, R423). -/
def deliverEntry (s : State) (d : Fin 4) (c tag : Nat) (v : Bool) : State :=
  let x := s.dies[d]
  let k := 0xC00 + c
  if x.enables.get false k then
    let sent := extendNear 10 (x.sigma - chanDelay x k) tag
    if (x.chans.get [] k).any (fun e => e.tag = tag % 1024) then
      raiseSF s d [⟨0x02, d, 0xFFFF, 0xFF, 0x41, sent, cycleOf s sent, c * 2 ^ 16 + 2 ^ 13 + 0x1FFF⟩]
    else arrive s d k ⟨tag % 1024, v, true, false, sent⟩
  else bumpF s F.LNK_UNMAPPED_RX 1

end Sys2Proof.Machine
end

