-- ==== Sys2Proof/Machine/Links.lean ====
section
/-! DEFINITION. Axnath links (R405 to R439): control blocks, frames, retry, bring-up, spare lanes, Doze and Deep, the
machine graph, and the link side of holds, votes and starts (R25, R133 to R135, R437). -/

namespace Sys2Proof.Machine

/-- The state of link `l`. -/
def link (s : State) (l : Nat) : LinkSt := s.lnk.links.get LinkSt.reset l

/-- The state with the links' state changed. -/
def onLnk (s : State) (g : Lnk → Lnk) : State := { s with lnk := g s.lnk }

/-- The state with link `l` changed. -/
def onLink (s : State) (l : Nat) (g : LinkSt → LinkSt) : State :=
  onLnk s (fun n => { n with links := n.links.set LinkSt.reset l (g (link s l)) })

/-- The bring-up stage of link `l` (R427). -/
def linkStage (s : State) (l : Nat) : Nat := getF s (F.LNK_LINK_STATUS_STAGE l)

/-- Link `l` is Active. -/
def linkActive (s : State) (l : Nat) : Bool := linkStage s l == 7

/-- The Active links. -/
def activeLinks (s : State) : List Nat := (List.range 16).filter (linkActive s)

/-- The device is at rest: EMPTY, LOADED, STOPPED or FAULTED (R433, R434). -/
def atRest (s : State) : Bool := !executing s

/-! ### The machine graph (R435 to R438) -/

/-- Devices of the machine. -/
def machineSize (s : State) : Nat := getF s F.LNK_MACHINE_SIZE_M1 + 1

/-- The lesser of two costs, none being the greatest. -/
def minCost : Option Nat → Option Nat → Option Nat
  | none, b => b
  | a, none => a
  | some a, some b => some (min a b)

/-- Costs to a destination with paths of one more link allowed. -/
def relaxCosts (w : GraphEdge → Nat) (g : List GraphEdge) (m : List (Option Nat)) : List (Option Nat) :=
  (List.range 16).map (fun p => g.foldl (fun best e =>
    if e.a.toNat = p then minCost best ((m.getD e.b.toNat none).map (· + w e)) else best) (m.getD p none))

/-- The least summed cost from every position to `dest` over the edges of a graph. -/
def costsTo (w : GraphEdge → Nat) (g : List GraphEdge) (dest : Nat) : List (Option Nat) :=
  (List.range 16).foldl (fun m _ => relaxCosts w g m)
    ((List.range 16).map (fun p => if p = dest then some 0 else none))

/-- The first link of the least-cost path from `me` to `dest`; ties go to the lower link number (R435). -/
def firstLink (w : GraphEdge → Nat) (g : List GraphEdge) (me dest : Nat) : Option Nat :=
  let m := costsTo w g dest
  ((g.filter (fun e => e.a.toNat = me)).foldl (fun (best : Option (Nat × Nat)) e =>
    match m.getD e.b.toNat none with
    | none => best
    | some c =>
      let k := (c + w e, e.link.val)
      match best with
      | none => some k
      | some b => if k.1 < b.1 ∨ (k.1 = b.1 ∧ k.2 < b.2) then some k else some b) none).map Prod.snd

/-- The graph with its edges reversed. -/
def reverseGraph (g : List GraphEdge) : List GraphEdge := g.map (fun e => { e with a := e.b, b := e.a })

/-- The edge by which the least-κ path from `root` reaches position `q`: least cost, then lower position, then lower
link. -/
def parentEdge (g : List GraphEdge) (root q : Nat) : Option GraphEdge :=
  let m := costsTo GraphEdge.kappa (reverseGraph g) root
  let key := fun (e : GraphEdge) => match m.getD e.a.toNat none with
    | none => none
    | some c => some (((c + e.kappa) * 16 + e.a.toNat) * 16 + e.link.val)
  (g.filter (fun e => e.b.toNat = q)).foldl (fun best e =>
    match key e, best with
    | none, b => b
    | some _, none => some e
    | some k, some b => match key b with
      | none => some e
      | some kb => if k < kb then some e else some b) none

/-- The links on which position `me` passes on what travels from `root` along the paths of least Σκ (R437). -/
def treeLinks (g : List GraphEdge) (root me : Nat) : List Nat :=
  (List.range 16).filterMap (fun q =>
    if q = root then none else match parentEdge g root q with
      | some e => if e.a.toNat = me then some e.link.val else none
      | none => none)

/-- The greatest least Σκ between two positions of the machine (R134, R436); none where some pair is cut. -/
def holdDiameter (g : List GraphEdge) (size : Nat) : Option Nat :=
  (List.range size).foldl (fun m q =>
    let cs := costsTo GraphEdge.kappa g q
    (List.range size).foldl (fun m p => match m, cs.getD p none with
      | some x, some c => some (max x c)
      | _, _ => none) m) (some 0)

/-! ### Sending -/

/-- The CRC8 of a control block (R412): polynomial 0x07 from 0, over bits 63 to 8. -/
def blockCrc (ct origin cseq payload : Nat) : Nat :=
  crcBits 8 0x07 (ct % 2 ^ 6 * 2 ^ 50 + origin % 16 * 2 ^ 46 + cseq % 16 * 2 ^ 42 + payload % 2 ^ 42) 56 0

/-- The CRC8 of a received control block passes. -/
def blockOk (ct : Nat) (b : CtlBlock) : Bool :=
  b.crc.toNat == blockCrc ct b.origin.toNat b.cseq.toNat b.payload.toNat

/-- A control block is driven on link `l`. -/
def driveBlock (s : State) (l ct origin cseq payload : Nat) : State :=
  emit s (.block l ct origin cseq payload (blockCrc ct origin cseq payload))

/-- A control block that is sent once on link `l`, in bring-up or while nothing else is sent; CSEQ advances (R412, R413). -/
def sendOnce (s : State) (l ct payload : Nat) : State :=
  let n := s.lnk.cseq
  driveBlock (onLnk s (fun x => { x with cseq := (n + 1) % 16 })) l ct (position s) n payload

/-- A TRACK block (R414): the bits of its sequence are free values, since the spec names neither its polynomial nor its start. -/
def sendTrack (s : State) (l : Nat) : State :=
  let (v, s) := drawFree s
  sendOnce s l 0x02 (v % 2 ^ 42)

/-- The transmitter of link `l` leaves Doze, with 4 TRACK blocks first (R433). -/
def leaveDoze (s : State) (l : Nat) : State :=
  if getB s (F.LNK_LINK_STATUS_DOZE_TX l) then
    (List.range 4).foldl (fun t _ => sendTrack t l) (setB s (F.LNK_LINK_STATUS_DOZE_TX l) false)
  else s

/-- Something is queued for link `l`: its transmitter leaves Doze (R433), and the link leaves Deep (R434). -/
def wakeLink (s : State) (l : Nat) : State :=
  let s := leaveDoze (onLink s l (fun x => { x with txIdle := 0 })) l
  if getB s (F.LNK_LINK_STATUS_DEEP l) then
    onLink (setF (setB (setB s (F.LNK_LINK_STATUS_DEEP l) false) (F.LNK_LINK_CTRL_DEEP l) false)
      (F.LNK_LINK_STATUS_STAGE l) 1) l (fun x => { x with waking := true })
  else s

/-- A control block goes out on link `l`, three copies with one CSEQ (R413); it waits for the exit from Deep, and is not
sent on another link that is not Active. -/
def putBlock (ct origin cseq payload : Nat) (s : State) (l : Nat) : State :=
  let s := wakeLink s l
  if linkActive s l then driveBlock s l ct origin cseq payload
  else if (link s l).waking then onLink s l (fun x => { x with ctl := x.ctl ++ [(ct, origin, cseq, payload)] })
  else s

/-- A new control block of this device on the links of a list: CSEQ advances (R412). -/
def sendBlock (s : State) (ls : List Nat) (ct payload : Nat) : State :=
  let n := s.lnk.cseq
  ls.foldl (putBlock ct (position s) n payload) (onLnk s (fun x => { x with cseq := (n + 1) % 16 }))

/-- A control block passed on as it came. -/
def passOn (s : State) (ls : List Nat) (ct : Nat) (b : CtlBlock) : State :=
  ls.foldl (putBlock ct b.origin.toNat b.cseq.toNat b.payload.toNat) s

/-- The link towards the vote root (R437). -/
def rootLink (s : State) : List Nat := (firstLink GraphEdge.kappa s.lnk.graph (position s) 0).toList

/-- The links on which the vote root's blocks go on (R437). -/
def fromRoot (s : State) : List Nat := treeLinks s.lnk.graph 0 (position s)

/-- The first copy of a control block whose CRC8 passes is acted on; further copies are ignored (R413). -/
def onFirst (s : State) (l ct : Nat) (b : CtlBlock) (k : State → State) : State :=
  let key := ct * 16 + b.origin.toNat
  if blockOk ct b && linkStage s l != 0 && (link s l).seen.get none key != some b.cseq.toNat then
    k (setB (onLink s l (fun x => { x with seen := x.seen.set none key (some b.cseq.toNat), idle := 0 }))
      (F.LNK_LINK_STATUS_DOZE_RX l) false)
  else s

/-! ### Machine holds (R133 to R135) -/

/-- Every die of the device is ordered to freeze with source 11, and releases not yet made are cancelled (R133,
R135). -/
def holdDevice (s : State) : State :=
  if executing s then
    let s := raiseSource s 11
    let s := onDies s (fun x => if x.frozen then x else { x with freezeAt := some (match x.freezeAt with
      | some a => min a (x.sigma + 1)
      | none => x.sigma + 1) })
    onHolds s (fun h => { h with release := none, resuming := none })
  else s

/-- The identity of a hold by its HOLD block (R133): the originating device, the block's CSEQ, and the step count. -/
def holdKey (origin cseq payload : Nat) : Nat := (origin * 16 + cseq) * 2 ^ 21 + payload % 2 ^ 21

/-- A hold begins, or begins again: READY reports of an earlier one count no more (R132, R135). -/
def newHold (s : State) : State :=
  onHolds (onLnk s (fun x => { x with readySent := false })) (fun h => { h with readyFrom := [] })

/-- The device sends HOLD for a hold of its own (R133): it names its lowest frozen step count. -/
def sendHold (s : State) : State :=
  let m := ((frozenMin s).getD (sigmaMin s)) % 2 ^ 21
  let s := onHolds (newHold s) (fun h => { h with forwarded := h.forwarded ++ [holdKey (position s) s.lnk.cseq m] })
  onLnk (sendBlock s (activeLinks s) 0x08 m) (fun x => { x with holdSent := true })

/-- A HOLD block of a hold not met before (R133, R134): forwarded on every other active link; the device's dies are ordered
to freeze. -/
def takeHold (s : State) (l key : Nat) (b : CtlBlock) : State :=
  let m := extendNear 21 (sigmaMin s) b.payload.toNat
  let s := onHolds (newHold s) (fun h => { h with
    forwarded := h.forwarded ++ [key], remoteMin := some (min m (h.remoteMin.getD m)) })
  let s := passOn s ((activeLinks s).filter (· ≠ l)) 0x08 b
  holdDevice (if anyFrozen s then noteSkew s else s)

/-- HOLD (R133): a copy of a block that has been forwarded for the same hold is ignored. -/
def execHoldBlock (l : Fin 16) (b : CtlBlock) (s : State) : Host.Outcome State Fault Refusal :=
  .next (onFirst s l 0x08 b (fun s =>
    let key := holdKey b.origin.toNat b.cseq.toNat b.payload.toNat
    if s.holds.forwarded.contains key then s else takeHold s l key b))

/-- Steps at 800 MHz in ns, rounded up (R135, R428). -/
def stepsToNs (n : Nat) : Nat := (5 * n + 3) / 4

/-- The least of a list of step counts. -/
def leastOf (xs : List Nat) : Nat := match xs with
  | [] => 0
  | y :: ys => ys.foldl min y

/-- Every device of the machine has reported READY (R135). -/
def allReady (s : State) : Bool :=
  (List.range (machineSize s)).all (fun p => (s.holds.readyFrom.get none p).isSome)

/-- The vote root sends RESUME when every device is ready, itself among them now (R117, R130, R135, R433). -/
def rootResume (s : State) : State :=
  if voteRoot s && multi s && deviceReady s && allReady s && !s.lnk.cut && s.holds.release.isNone then
    let m := leastOf ((List.range (machineSize s)).filterMap (fun p => s.holds.readyFrom.get none p))
    let t0 := timeNs s + stepsToNs (getF s F.LNK_DIAMETER_STEPS) + (if getB s F.LNK_FORM_STATUS_DOZE_ANY then 200 else 0)
    let s := onHolds s (fun h => { h with readyFrom := [], release := some (t0, m) })
    sendBlock s (fromRoot s) 0x0A (m % 2 ^ 21 * 2 ^ 21 + t0 % 2 ^ 21)
  else s

/-- READY (R135): at the vote root it counts; any other hub passes it on. -/
def execReadyBlock (l : Fin 16) (b : CtlBlock) (s : State) : Host.Outcome State Fault Refusal :=
  .next (onFirst s l 0x09 b (fun s =>
    if voteRoot s then
      let v := extendNear 21 (sigmaMin s) b.payload.toNat
      rootResume (onHolds s (fun h => { h with readyFrom := h.readyFrom.set none b.origin.toNat (some v) }))
    else passOn s (rootLink s) 0x09 b))

/-- RESUME (R135): each die's release is scheduled relative to T0. -/
def execResumeBlock (l : Fin 16) (b : CtlBlock) (s : State) : Host.Outcome State Fault Refusal :=
  .next (onFirst s l 0x0A b (fun s =>
    let p := b.payload.toNat
    let m := extendNear 21 (sigmaMin s) (p / 2 ^ 21)
    let t0 := extendNear 21 (timeNs s) p
    let s := passOn s (fromRoot s) 0x0A b
    if executing s then onHolds s (fun h => { h with release := some (t0, m) }) else s))

/-! ### Votes and commits (R25, R383) -/

/-- A bad vote stands for cycle `c` on some die. -/
def voteIsBad (s : State) (c : Nat) : Bool := dieList.any (fun d => s.run.votes.get none (c * 4 + d) == some (some false))

/-- STOP_MACHINE fires in cycle `c` (R383). -/
def stopFires (s : State) (c : Nat) : Bool := s.asy.stage.any (fun e => e.cycle = c && e.stop)

/-- The vote root records the vote of a position (R25, R383). -/
def recordVote (s : State) (p c : Nat) (bad stop : Bool) : State :=
  { s with run := { s.run with
    devVotes := s.run.devVotes.set none (c * 16 + p) (some (!bad))
    stopCycles := if stop then s.run.stopCycles ++ [c] else s.run.stopCycles } }

/-- The device's vote for cycle `c` goes to the vote root. -/
def sendVote (s : State) (c : Nat) (bad : Bool) : State :=
  if voteRoot s then recordVote s (position s) c bad (stopFires s c)
  else sendBlock s (rootLink s) 0x0B (b2n bad * 2 ^ 41 + b2n (stopFires s c) * 2 ^ 40 + c % 2 ^ 21)

/-- The votes that are due: a bad vote at once (R471), and every other in order as it is cast (R25). -/
def sendVotes (s : State) : State :=
  (List.range 4).foldl (fun t i =>
    let c := t.run.nextCommit + i
    if voteIsBad t c && decide (t.lnk.badSent ≤ c) then
      onLnk (sendVote t c true) (fun x => { x with badSent := c + 1, voteSent := max x.voteSent (c + 1) })
    else if voteCast t c && decide (t.lnk.voteSent ≤ c) then
      onLnk (sendVote t c false) (fun x => { x with voteSent := c + 1 })
    else t) s

/-- VOTE (R25): the vote root records it; any other hub passes it on. -/
def execVoteBlock (l : Fin 16) (b : CtlBlock) (s : State) : Host.Outcome State Fault Refusal :=
  .next (onFirst s l 0x0B b (fun s =>
    let p := b.payload.toNat
    if voteRoot s then recordVote s b.origin.toNat (extendNear 21 s.run.nextCommit p) (p.testBit 41) (p.testBit 40)
    else passOn s (rootLink s) 0x0B b))

/-- The vote root's COMMIT of cycle `c` goes out (R25, R383). -/
def sendCommit (s : State) (c : Nat) : State :=
  if multi s && voteRoot s then
    sendBlock s (fromRoot s) 0x0C (b2n (s.run.stopCycles.contains c) * 2 ^ 40 + c % 2 ^ 21)
  else s

/-- COMMIT (R25): the machine has committed the cycle; the block goes on. -/
def execCommitBlock (l : Fin 16) (b : CtlBlock) (s : State) : Host.Outcome State Fault Refusal :=
  .next (onFirst s l 0x0C b (fun s =>
    let c := extendNear 21 s.run.nextCommit b.payload.toNat
    let s := { s with run := { s.run with
      rootCommit := max s.run.rootCommit (c + 1)
      stopCycles := if b.payload.toNat.testBit 40 then s.run.stopCycles ++ [c] else s.run.stopCycles } }
    passOn s (fromRoot s) 0x0C b))

/-- What the links forget when every cycle from `b` on is abandoned. -/
def lnkAbandon (s : State) (b : Nat) : State :=
  let s := onLnk s (fun x => { x with voteSent := min x.voteSent b, badSent := min x.badSent b })
  { s with run := { s.run with
    devVotes := s.run.devVotes.filter (fun v => v.1 / 16 < b)
    stopCycles := s.run.stopCycles.filter (· < b) } }

/-! ### The start of the machine (R437) -/

/-- A position has reported START_READY: when every one has, the vote root fires SYNC where it drives it. -/
def startReport (s : State) (p : Nat) : State :=
  let ps := if s.lnk.started.contains p then s.lnk.started else s.lnk.started ++ [p]
  let s := onLnk s (fun x => { x with started := ps })
  if (List.range (machineSize s)).all (fun q => ps.contains q) && !getB s F.LNK_FORM_STATUS_START_READY then
    let s := setB s F.LNK_FORM_STATUS_START_READY true
    if getB s F.ASY_SYNC_CTRL_DRIVE then emit s .sync else s
  else s

/-- START_READY (R437). -/
def execStartReadyBlock (l : Fin 16) (b : CtlBlock) (s : State) : Host.Outcome State Fault Refusal :=
  .next (onFirst s l 0x0D b (fun s =>
    if voteRoot s then startReport s b.origin.toNat else passOn s (rootLink s) 0x0D b))

/-- The device reports that it is ready to start, once no link is on its way out of Deep (R434, R437). -/
def sendStartReady (s : State) : State :=
  if multi s && s.run.waitSync && !s.lnk.startSent && (List.range 16).all (fun l => !(link s l).waking) then
    let s := onLnk s (fun x => { x with startSent := true })
    if voteRoot s then startReport s 0 else sendBlock s (rootLink s) 0x0D 0
  else s

/-! ### Idle blocks (R418, R432) -/

/-- An IDLE or TRACK block is received: one more in a row. -/
def idleIn (s : State) (l ct : Nat) (b : CtlBlock) : State :=
  if blockOk ct b && linkActive s l then
    onLink (setB s (F.LNK_LINK_STATUS_DOZE_RX l) false) l (fun x => { x with idle := min 4096 (x.idle + 1) })
  else s

/-- IDLE (R418). -/
def execIdleBlock (l : Fin 16) (b : CtlBlock) (s : State) : Host.Outcome State Fault Refusal := .next (idleIn s l 1 b)

/-- TRACK (R418). -/
def execTrackBlock (l : Fin 16) (b : CtlBlock) (s : State) : Host.Outcome State Fault Refusal := .next (idleIn s l 2 b)

/-- A receiver freezes its CTLE adaptation after 4,096 idle blocks (R432). -/
def execAdaptationFreeze (l : Fin 16) (s : State) : Host.Outcome State Fault Refusal :=
  .next (if 4096 ≤ (link s l).idle then onLink s l (fun x => { x with frozen := true }) else s)

/-! ### Leaving and reaching Active (R426, R427, R438) -/

/-- The hold diameter is reported, and the machine holds where the graph is cut or too wide (R438). -/
def judgeGraph (s : State) : State :=
  if getB s F.LNK_STATUS_FORMED && multi s then
    let df := holdDiameter s.lnk.graph (machineSize s)
    let cut := match df with | some x => decide (224 < x) | none => true
    let s := setF s F.LNK_DIAMETER_STEPS (match df with | some x => saturate 16 x | none => 0xFFFF)
    let s := onLnk s (fun x => { x with cut := cut })
    if cut then holdDevice s else s
  else s

/-- An edge of the machine graph that runs over this device's link `l`, by `full`'s account of its far end. -/
def ownEdge (s : State) (l : Nat) (e : GraphEdge) : Bool :=
  (e.a.toNat == position s && e.link.val == l) ||
    (e.b.toNat == position s && e.a.toNat == getF s (F.LNK_LINK_STATUS_FAR_POS l))

/-- Link `l` leaves Active for a stage: LINK_DOWN is set but on the way into Deep, the departure is counted, and the
control paths are recomputed (R427, R438). -/
def leaveActive (s : State) (l stage : Nat) (deep : Bool) : State :=
  let was := linkActive s l
  let s := setFBit (setF s (F.LNK_LINK_STATUS_STAGE l) stage) F.LNK_STATUS_ACTIVE l false
  let s := setB (setB s (F.LNK_LINK_STATUS_DOZE_TX l) false) (F.LNK_LINK_STATUS_DOZE_RX l) false
  if was then
    let s := bumpF s (F.LNK_LINK_RETRAINS_COUNT l) 1
    let s := if deep then s else setB s F.LNK_STATUS_LINK_DOWN true
    judgeGraph (onLnk s (fun x => { x with graph := x.graph.filter (fun e => !ownEdge s l e) }))
  else s

/-- The link retrains from the Train stage; its replay buffer and SEQ numbers stay (R426). -/
def retrainLink (s : State) (l : Nat) : State :=
  if 2 ≤ linkStage s l then onLink (leaveActive s l 2 false) l (fun x => { x with replays := 0, nak := false, nakDue := false }) else s

/-! ### Frames (R415 to R426) -/

/-- The word of four 16-bit items, the first at its top (R416). -/
def itemWord (items : List Nat) (j : Nat) : Nat :=
  items.getD (4 * j) 0 % 2 ^ 16 * 2 ^ 48 + items.getD (4 * j + 1) 0 % 2 ^ 16 * 2 ^ 32 +
    items.getD (4 * j + 2) 0 % 2 ^ 16 * 2 ^ 16 + items.getD (4 * j + 3) 0 % 2 ^ 16

/-- The header block of a frame (R415). -/
def frameHeader (mgmt : Bool) (src dest seq base : Nat) (items : List Nat) : Nat :=
  (if mgmt then 0x21 else 0x20) * 2 ^ 58 + src % 16 * 2 ^ 54 + dest % 16 * 2 ^ 50 + seq % 2 ^ 12 * 2 ^ 38 +
    (if mgmt then 0 else base % 2 ^ 10) * 2 ^ 28 +
    (if mgmt then (items.length + 3) / 4 else items.length) % 2 ^ 7 * 2 ^ 21

/-- The CRC16 of a frame (R417): polynomial 0x1021 from 0xFFFF, over blocks 0 to 30 and the trailer's bits 63 to 16. -/
def frameCrc (mgmt : Bool) (src dest seq base : Nat) (items : List Nat) (ack : Nat) (nak : Bool) : Nat :=
  let c := crcBits 16 0x1021 (frameHeader mgmt src dest seq base items) 64 0xFFFF
  let c := (List.range 30).foldl (fun c j => crcBits 16 0x1021 (itemWord items j) 64 c) c
  crcBits 16 0x1021 (ack % 2 ^ 12 * 2 ^ 36 + b2n nak * 2 ^ 35) 48 c

/-- The CRC16 of a received frame passes. -/
def frameOk (mgmt : Bool) (f : LinkFrame) : Bool :=
  f.crc.toNat == frameCrc mgmt f.srcPos.toNat f.destPos.toNat f.seq.toNat f.baseTag.toNat (f.items.map BitVec.toNat)
    f.ackSeq.toNat f.nak

/-- A frame is driven on link `l`, its trailer with the SEQ last accepted, a NAK where one is due, and the CRC16. -/
def driveFrame (s : State) (l : Nat) (f : TxFrame) : State :=
  let x := link s l
  let s := emit s (.frame l f.mgmt f.src f.dest f.seq f.base f.items x.rxSeq x.nakDue
    (frameCrc f.mgmt f.src f.dest f.seq f.base f.items x.rxSeq x.nakDue))
  onLink s l (fun x => { x with nakDue := false })

/-- Frames not acknowledged go out again in order (R425, R426). -/
def replayFrames (s : State) (l : Nat) : State :=
  let x := link s l
  if x.replay = [] then s
  else
    let s := x.replay.foldl (fun t f => driveFrame t l f) s
    let s := bumpF s (F.LNK_LINK_ERR_REPLAYS l) x.replay.length
    let s := onLink s l (fun x => { x with replays := x.replays + 1 })
    if 8 ≤ (link s l).replays then retrainLink s l else s

/-- `a` is not newer than `b`, modulo 4,096. -/
def seqCovered (a b : Nat) : Bool := (b + 4096 - a % 4096) % 4096 < 2048

/-- ACK_SEQ and NAK as received (R425): covered frames leave the replay buffer, and a NAK asks for the rest again. -/
def takeAck (s : State) (l ack : Nat) (nak : Bool) : State :=
  let x := link s l
  let rest := x.replay.filter (fun f => !seqCovered f.seq ack)
  let s := if rest.length < x.replay.length then onLink s l (fun x => { x with replay := rest, replays := 0 }) else s
  if nak then replayFrames s l else s

/-- ACK (R425). -/
def execAckBlock (l : Fin 16) (b : CtlBlock) (s : State) : Host.Outcome State Fault Refusal :=
  .next (onFirst s l 0x03 b (fun s => if linkActive s l then takeAck s l (bitsOf b.payload.toNat 30 12) (b.payload.toNat.testBit 29) else s))

/-- No ACK_SEQ advance for 2 µs while frames are outstanding (R425). -/
def execLinkReplayTimeout (l : Fin 16) (s : State) : Host.Outcome State Fault Refusal :=
  .next (if linkActive s l then replayFrames s l else s)

/-- A replay is asked of the far end (R424): once, in the trailer of the next frame, or in an ACK block where none is ready. -/
def askReplay (s : State) (l : Nat) : State :=
  if (link s l).nak then s else onLink s l (fun x => { x with nak := true, nakDue := true })

/-- The request in an ACK block (R424). -/
def sendNak (s : State) (l : Nat) : State :=
  sendBlock (onLink s l (fun x => { x with nakDue := false })) [l] 0x03 ((link s l).rxSeq * 2 ^ 30 + 2 ^ 29)

/-- An accepted frame is acknowledged in an ACK block (R425). -/
def ackFrame (s : State) (l : Nat) : State := sendBlock s [l] 0x03 ((link s l).rxSeq * 2 ^ 30)

/-- The entries of a DATA frame's items with their step tags (R416). -/
def frameEntries (base : Nat) : Nat → List (BitVec 16) → List (Nat × Nat)
  | _, [] => []
  | off, i :: is =>
    let v := i.toNat
    if v.testBit 15 then frameEntries base (v % 1024) is else ((base + off) % 1024, v) :: frameEntries base off is

/-- The data route to a position (R435). -/
def routeTo (s : State) (p : Nat) : Option Nat :=
  if getB s (F.LNK_ROUTE_VALID p) then some (getF s (F.LNK_ROUTE_LINK p)) else none

/-- An entry waits for a DATA frame to a position (R422); the link that it is queued for wakes. -/
def queueEntry (s : State) (src dest tag item : Nat) : State :=
  match routeTo s dest with
  | none => s
  | some l => onLink (wakeLink s l) l (fun x => { x with queue := x.queue ++ [⟨src, dest, tag, item⟩] })

/-- The entries of an accepted DATA frame: delivered at their position, or passed on (R422, R423). -/
def takeEntries (s : State) (f : LinkFrame) : State :=
  (frameEntries f.baseTag.toNat 0 f.items).foldl (fun t e =>
    if f.destPos.toNat = position t then
      deliverEntry t (Fin.ofNat 4 (bitsOf e.2 13 2)) (bitsOf e.2 3 10) e.1 (e.2.testBit 2)
    else queueEntry t f.srcPos.toNat f.destPos.toNat e.1 e.2) s

/-- Management traffic to a position waits for a MGMT frame of link `l` (R416): the word that holds its destination and its
length, and one flit whose contents the spec does not give: free values. -/
def queueMgmt (s : State) (l dest : Nat) : State :=
  let ws := [dest % 16, 32] ++ (List.range 16).map (fun i => Config.freeValue (s.draws + i) % 65536) ++ [0, 0]
  onLink (wakeLink { s with draws := s.draws + 16 } l) l (fun x => { x with mgmt := x.mgmt ++ [(position s, dest, ws)] })

/-- Management traffic to a position goes out on its data route (R416, R435). -/
def sendMgmt (s : State) (dest : Nat) : State :=
  match routeTo s dest with
  | none => s
  | some l => queueMgmt s l dest

/-- The other positions of the machine; none on a device alone. -/
def otherPositions (s : State) : List Nat :=
  if multi s then (List.range (machineSize s)).filter (· ≠ position s) else []

/-- The words of an accepted MGMT frame: kept at their position, or passed on (R416). -/
def takeWords (s : State) (f : LinkFrame) : State :=
  let ws := f.items.map BitVec.toNat
  if f.destPos.toNat = position s then onLnk s (fun x => { x with mgmtIn := x.mgmtIn ++ [(f.srcPos.toNat, ws)] })
  else match routeTo s f.destPos.toNat with
    | none => s
    | some l => onLink (wakeLink s l) l (fun x => { x with mgmt := x.mgmt ++ [(f.srcPos.toNat, f.destPos.toNat, ws)] })

/-- A frame is received (R424, R432): accepted where its CRC16 passes and its SEQ is next, and where, after a freeze of
adaptation, the eye margin held. -/
def frameIn_ (s : State) (l : Nat) (mgmt : Bool) (f : LinkFrame) (k : State → State) : State :=
  if !linkActive s l then s
  else
    let s := onLink (setB s (F.LNK_LINK_STATUS_DOZE_RX l) false) l (fun x => { x with idle := 0 })
    if !frameOk mgmt f then askReplay (bumpF s (F.LNK_LINK_ERR_CRC_FAIL l) 1) l
    else if (link s l).frozen && decide (f.eye.toNat < getF s F.LNK_EYE_MIN) then retrainLink (sendNak s l) l
    else
      let s := onLink s l (fun x => { x with frozen := false })
      let s := takeAck s l f.ackSeq.toNat f.nak
      let n := f.seq.toNat
      if n = ((link s l).rxSeq + 1) % 4096 then
        ackFrame (k (onLink s l (fun x => { x with rxSeq := n, nak := false, nakDue := false }))) l
      else if seqCovered n (link s l).rxSeq then s
      else askReplay s l

/-- DATA frame (R424, R423). -/
def execDataFrame (l : Fin 16) (f : LinkFrame) (s : State) : Host.Outcome State Fault Refusal :=
  .next (frameIn_ s l false f (fun t => takeEntries t f))

/-- The items of queued entries for one position, from step tag `base` on, at most `n` of them: the items, and how many
entries they hold (R416). -/
def packItems (src dest base : Nat) : Nat → Nat → List TxEntry → List Nat × Nat
  | 0, _, _ => ([], 0)
  | _, _, [] => ([], 0)
  | n + 1, off, e :: es =>
    if e.src ≠ src ∨ e.dest ≠ dest then ([], 0)
    else
      let o := (e.tag + 1024 - base % 1024) % 1024
      if o = off then
        let r := packItems src dest base n off es
        (e.item :: r.1, r.2 + 1)
      else match n with
        | 0 => ([], 0)
        | m + 1 =>
          let r := packItems src dest base m o es
          ((0x8000 + o) :: e.item :: r.1, r.2 + 1)

/-- A frame goes out and is kept until it is acknowledged (R415, R425). -/
def sendFrame (s : State) (l : Nat) (mgmt : Bool) (src dest base : Nat) (items : List Nat) : State :=
  let f : TxFrame := ⟨mgmt, src, dest, (link s l).txSeq, base, items⟩
  onLink (driveFrame s l f) l (fun x => { x with txSeq := (x.txSeq + 1) % 4096, replay := x.replay ++ [f], txIdle := 0 })

/-- The sender of a link has nothing to send at a block time (R418, R424): a NAK that is due goes out in an ACK block; otherwise
IDLE, and TRACK in place of every 256th, but for a transmitter that dozes. -/
def idleLink (s : State) (l : Nat) : State :=
  if (link s l).nakDue then sendNak s l
  else if getB s (F.LNK_LINK_STATUS_DOZE_TX l) then s
  else
    let n := (link s l).txIdle + 1
    let s := if n % 256 = 0 then sendTrack s l else sendOnce s l 0x01 0
    onLink s l (fun x => { x with txIdle := n })

/-- The sender of a link at a block time (R418, R425): a DATA frame whenever entries are queued; a MGMT frame when none
are, or after 15 DATA frames with one waiting; idle blocks when nothing waits; no frame while the replay buffer is full.  One
frame or block goes out in an SCLK period (DESIGN CHOICE). -/
def pumpLink (s : State) (l : Nat) : State :=
  let x := link s l
  if !linkActive s l || decide (512 ≤ x.replay.length) then s
  else match x.mgmt, x.queue with
    | (a, b, ws) :: ms, q =>
      if q = [] ∨ 15 ≤ x.dataRun then
        onLink (sendFrame s l true a b 0 ws) l (fun x => { x with mgmt := ms, dataRun := 0 })
      else match q with
        | [] => s
        | e :: _ =>
          let r := packItems e.src e.dest e.tag 120 0 q
          onLink (sendFrame s l false e.src e.dest e.tag r.1) l (fun x =>
            { x with queue := x.queue.drop r.2, dataRun := x.dataRun + 1 })
    | [], e :: es =>
      let r := packItems e.src e.dest e.tag 120 0 (e :: es)
      onLink (sendFrame s l false e.src e.dest e.tag r.1) l (fun x =>
        { x with queue := x.queue.drop r.2, dataRun := 0 })
    | [], [] => idleLink s l

/-- A value forwarded onto outbound link channel `c` of die `d` in the step of tag σ (R422). -/
def linkForward (s : State) (d c sigma : Nat) (v : Bool) : State :=
  let e := s.lnk.map.get 0 (1024 * d + c)
  if e.testBit 31 then
    queueEntry s (position s) (bitsOf e 23 4) (sigma % 1024)
      (bitsOf e 21 2 * 2 ^ 13 + bitsOf e 0 10 * 8 + b2n v * 4)
  else bumpF s F.LNK_UNMAPPED_TX 1

/-! ### Bring-up (R427 to R429) -/

/-- The numerator of a rate over 32 (R405). -/
def rate32 (r : Nat) : Nat := match r with | 0 => 330 | 1 => 512 | 2 => 825 | _ => 1024

/-- The least integer not below `a / b`. -/
def ceilDiv (a b : Nat) : Nat := (a + b - 1) / b

/-- Control latency κ (R428) of a round trip of `rt` steps over `w` lanes of rate code `r`. -/
def controlLatency (rt w r : Nat) : Nat :=
  ceilDiv ((rt - 8) * 10 * w * rate32 r + 67584) (20 * w * rate32 r) + 1

/-- Data latency ℓ (R428). -/
def dataLatency (rt w r : Nat) : Nat :=
  ceilDiv ((rt - 8) * 10 * w * rate32 r + 2162688) (20 * w * rate32 r) + 6

/-- The four EXCHANGE payloads of link `l` (R414). -/
def exchangePayload (s : State) (l part : Nat) : Nat :=
  let serial := deviceSerial s
  match part with
  | 0 => getF s (F.LNK_LINK_CFG_WIDTH l) + b2n (getB s (F.LNK_LINK_CFG_SPARE l)) * 2 ^ 5 +
      getF s (F.LNK_LINK_CFG_RATE l) * 2 ^ 6 + l * 2 ^ 8 + getF s F.LNK_MACHINE_POSITION * 2 ^ 12 +
      getF s F.LNK_MACHINE_SIZE_M1 * 2 ^ 16 + b2n (getB s F.LNK_CTRL_DOZE_EN) * 2 ^ 20
  | 1 => serial % 2 ^ 32
  | 2 => serial / 2 ^ 32 % 2 ^ 32
  | _ => 0

/-- Both ends agree on WIDTH, SPARE and RATE (R427). -/
def exchangeAgrees (s : State) (l : Nat) : Bool :=
  (List.range 4).all (fun i => ((link s l).exch.get none i).isSome) &&
    ((link s l).exch.get none 0).map (· % 2 ^ 8) == some (exchangePayload s l 0 % 2 ^ 8)

/-- EXCHANGE_0 to 3 (R427): what the far end is. -/
def execExchangeBlock (l : Fin 16) (part : Fin 4) (b : CtlBlock) (s : State) : Host.Outcome State Fault Refusal :=
  .next (onFirst s l (0x10 + part.val) b (fun s =>
    let p := b.payload.toNat
    let s := onLink s l (fun x => { x with exch := x.exch.set none part (some p) })
    if part.val = 0 then setF s (F.LNK_LINK_STATUS_FAR_POS l) (bitsOf p 12 4)
    else if part.val = 1 then setF s (F.LNK_LINK_FAR_SERIAL l) p
    else s))

/-- MEASURE (R428): answered with an ECHO of its stamp. -/
def execMeasureBlock (l : Fin 16) (b : CtlBlock) (s : State) : Host.Outcome State Fault Refusal :=
  .next (onFirst s l 0x14 b (fun s => sendOnce s l 0x15 (b.payload.toNat % 2 ^ 21)))

/-- ECHO (R428): a round trip, in steps at 800 MHz, of which the largest counts. -/
def execEchoBlock (l : Fin 16) (b : CtlBlock) (s : State) : Host.Outcome State Fault Refusal :=
  .next (onFirst s l 0x15 b (fun s =>
    if linkStage s l = 6 then
      let periods := (s.lnk.periods + 2 ^ 21 - b.payload.toNat % 2 ^ 21) % 2 ^ 21
      let rt := ceilDiv (periods * getF s F.CLK_SCLK_D) 256
      onLink s l (fun x => { x with roundTrip := some (max rt (x.roundTrip.getD 0)) })
    else s))

/-- Train (R410, R427): the codes found; none where some lane's eye is too narrow. -/
def trainLanes (s : State) (l : Nat) (codes : List (BitVec 4 × Byte)) : Option State :=
  let first := getF s (F.LNK_LINK_CFG_FIRST l)
  let n := getF s (F.LNK_LINK_CFG_WIDTH l) + b2n (getB s (F.LNK_LINK_CFG_SPARE l))
  if codes.length = n ∧ codes.all (fun c => getF s F.LNK_EYE_MIN ≤ c.2.toNat) then
    some ((List.range n).foldl (fun t i =>
      let c := codes.getD i (0, 0)
      let fixed := getB t (F.LNK_LANE_CTLE_FIX (first + i))
      setF (setF t (F.LNK_LANE_CTLE (first + i))
        (if fixed then getF t (F.LNK_LANE_CTLE_SET (first + i)) else c.1.toNat)) (F.LNK_LANE_EYE (first + i)) c.2.toNat) s)
  else none

/-- Link `l` becomes Active: its edges rejoin the control graph, and what waited goes out (R426, R434, R438). -/
def becomeActive (s : State) (l : Nat) : State :=
  let s := setFBit (setF s (F.LNK_LINK_STATUS_STAGE l) 7) F.LNK_STATUS_ACTIVE l true
  let back := s.lnk.full.filter (fun e => ownEdge s l e && !s.lnk.graph.contains e)
  let s := judgeGraph (onLnk s (fun x => { x with graph := x.graph ++ back }))
  let ctl := (link s l).ctl
  let s := onLink s l (fun x => { x with waking := false, ctl := [], replays := 0 })
  let s := ctl.foldl (fun t c => putBlock c.1 c.2.1 c.2.2.1 c.2.2.2 t l) s
  (link s l).replay.foldl (fun t f => driveFrame t l f) s

/-- The data latency grows to `new` beyond the margin of the recorded one (R429): the link is held in Measure. -/
def breachLink (s : State) (l : Nat) : State :=
  onLink (setB s F.LNK_STATUS_DELAY_BREACH true) l (fun x => { x with breach := true })

/-- Measure ends (R428, R429) with the larger of the two ends' figures: the latencies, or a breach that holds the link in
Measure until it is disabled or the machine is formed again. -/
def endMeasure (s : State) (l farTrip : Nat) : State :=
  match (link s l).roundTrip with
  | none => s
  | some own =>
    let rt := max own farTrip
    let w := getF s (F.LNK_LINK_CFG_WIDTH l)
    let r := getF s (F.LNK_LINK_CFG_RATE l)
    let new := dataLatency rt w r
    let kept := (link s l).latency.getD new
    if (link s l).breach then s
    else if kept + 4 < new then breachLink s l
    else
      let s := onLink s l (fun x => { x with latency := some kept, measured := new })
      becomeActive (setF (setF s (F.LNK_LINK_LAT_DATA l) kept) (F.LNK_LINK_LAT_CTRL l) (controlLatency rt w r)) l

/-- The stage of a link's bring-up passes, and the next starts (R427). -/
def stagePass (s : State) (l : Nat) (codes : List (BitVec 4 × Byte)) (farTrip : Nat) : State :=
  let next := fun (t : State) (n : Nat) => setF t (F.LNK_LINK_STATUS_STAGE l) n
  match linkStage s l with
  | 1 => next s 2
  | 2 => match trainLanes s l codes with
    | some t => next t 3
    | none => s
  | 3 => next s 4
  | 4 =>
    let s := onLink (next s 5) l (fun x => { x with exch := [], seen := [] })
    (List.range 4).foldl (fun t i => sendOnce t l (0x10 + i) (exchangePayload t l i)) s
  | 5 =>
    if exchangeAgrees s l then
      let s := onLink (next s 6) l (fun x => { x with roundTrip := none })
      (List.range 64).foldl (fun t _ => sendOnce t l 0x14 (t.lnk.periods % 2 ^ 21)) s
    else s
  | 6 => endMeasure s l farTrip
  | _ => s

/-- A bring-up stage passes (R427). -/
def execLinkStagePass (l : Fin 16) (f : StageFinds) (s : State) : Host.Outcome State Fault Refusal :=
  .next (stagePass s l f.codes f.farTrip)

/-- A stage fails or times out: back to Detect (R427).  Detect has no timeout, and a breach holds in Measure (R429). -/
def execLinkStageTimeout (l : Fin 16) (s : State) : Host.Outcome State Fault Refusal :=
  let g := linkStage s l
  .next (
    if 2 ≤ g ∧ g ≤ 6 ∧ (link s l).breach = false then
      setF (bumpF (setF s (F.LNK_LINK_STATUS_FAIL_STAGE l) g) (F.LNK_LINK_RETRAINS_COUNT l) 1) (F.LNK_LINK_STATUS_STAGE l) 1
    else s)

/-! ### Spare lanes (R430, R431) -/

/-- The link has a spare that is not in use. -/
def spareFree (s : State) (l : Nat) : Bool :=
  getB s (F.LNK_LINK_CFG_SPARE l) && !getB s (F.LNK_LINK_STATUS_SPARE_IN_USE l)

/-- The slots of lane `k` move onto the spare (R430), and the recorded data latency is restored from the spare's skew, or, where
that would need more than the margin, the link is held in Measure (R429). -/
def useSpare (s : State) (l k skew : Nat) : State :=
  let s := setF (setB s (F.LNK_LINK_STATUS_SPARE_IN_USE l) true) (F.LNK_LINK_STATUS_FAILED_LANE l) k
  let s := setB s F.LNK_STATUS_SPARE_USED true
  let x := link s l
  if x.latency.getD x.measured + 4 < x.measured + skew then breachLink (leaveActive s l 6 false) l else s

/-- A lane is judged failing (R430, R431); its sync errors count on its register. -/
def execLaneFailing (l : Fin 16) (k : BitVec 4) (f : LaneFault) (s : State) : Host.Outcome State Fault Refusal :=
  .next (
    if linkActive s l && decide (k.toNat < getF s (F.LNK_LINK_CFG_WIDTH l)) then
      let s := bumpF s (F.LNK_LANE_SYNC_ERR (getF s (F.LNK_LINK_CFG_FIRST l) + k.toNat)) f.syncErrs.toNat
      if spareFree s l then useSpare (sendBlock s [l.val] 0x16 k.toNat) l k.toNat f.skew else retrainLink s l
    else s)

/-- SPARE_SWITCH (R430). -/
def execSpareSwitchBlock (l : Fin 16) (b : SpareSwitch) (s : State) : Host.Outcome State Fault Refusal :=
  .next (onFirst s l 0x16 b.block (fun s =>
    if linkActive s l && spareFree s l then useSpare s l (b.block.payload.toNat % 16) b.skew else s))

/-! ### Doze and Deep (R433, R434) -/

/-- The idle block times after which the transmitter of link `l` may doze have passed (R433): DOZE_IDLE, at least 16. -/
def dozeDue (s : State) (l : Nat) : Bool :=
  let x := link s l
  x.queue == [] && x.mgmt == [] && !x.nakDue && decide (max 16 (getF s F.LNK_CTRL_DOZE_IDLE) ≤ x.txIdle)

/-- A transmitter enters Doze (R433): the device's own where it may, or the far one, whose signal goes idle. -/
def execDozeEntry (e : LinkEnd) (s : State) : Host.Outcome State Fault Refusal :=
  let l := e.link
  .next (
    if e.far then (if linkActive s l then setB s (F.LNK_LINK_STATUS_DOZE_RX l) true else s)
    else if getB s F.LNK_CTRL_DOZE_EN && linkActive s l && dozeDue s l && (atRest s || allFrozen s) then
      setB s (F.LNK_LINK_STATUS_DOZE_TX l) true
    else s)

/-- Something is queued for a dozing transmitter (R433), or the far one's signal returns. -/
def execDozeExit (e : LinkEnd) (s : State) : Host.Outcome State Fault Refusal :=
  .next (if e.far then setB s (F.LNK_LINK_STATUS_DOZE_RX e.link) false else leaveDoze s e.link)

/-- Both ends turn the link off (R434). -/
def enterDeep (s : State) (l : Nat) : State :=
  onLink (setB (leaveActive s l 0 true) (F.LNK_LINK_STATUS_DEEP l) true) l (fun x => { x with deepWait := false })

/-- A request for Deep that has not been answered ends: DEEP returns to 0 (R434). -/
def dropDeep (s : State) (l : Nat) : State :=
  if (link s l).deepWait then onLink (setB s (F.LNK_LINK_CTRL_DEEP l) false) l (fun x => { x with deepWait := false }) else s

/-- The link leaves Deep, Detect to Measure, or asks for it no longer (R434). -/
def leaveDeep (s : State) (l : Nat) : State :=
  if getB s (F.LNK_LINK_STATUS_DEEP l) then wakeLink s l else dropDeep s l

/-- Every link leaves Deep, as the device leaves its states of rest (R434). -/
def leaveAllDeep (s : State) : State := (List.range 16).foldl leaveDeep s

/-- DEEP_REQ (R434): answered while the device is at rest. -/
def execDeepReqBlock (l : Fin 16) (b : CtlBlock) (s : State) : Host.Outcome State Fault Refusal :=
  .next (onFirst s l 0x17 b (fun s =>
    if atRest s && linkActive s l then enterDeep (sendBlock s [l.val] 0x18 0) l else s))

/-- DEEP_ACK (R434). -/
def execDeepAckBlock (l : Fin 16) (b : CtlBlock) (s : State) : Host.Outcome State Fault Refusal :=
  .next (onFirst s l 0x18 b (fun s =>
    if (link s l).deepWait && atRest s then enterDeep s l else dropDeep s l))

/-- A write to LNK_LINK_CTRL_n (R426, R434). -/
def linkCtrlWrite (s : State) (l v : Nat) : State :=
  let deep := v.testBit 31
  let s := if deep then
      if getB s (F.LNK_LINK_STATUS_DEEP l) || (link s l).deepWait then s
      else if executing s || !linkActive s l then setB s (F.LNK_LINK_CTRL_DEEP l) false
      else
        let s := sendBlock (setB s (F.LNK_LINK_CTRL_DEEP l) true) [l] 0x17 0
        onLink s l (fun x => { x with deepWait := true })
    else leaveDeep (onLink (setB s (F.LNK_LINK_CTRL_DEEP l) false) l (fun x => { x with deepWait := false })) l
  if v.testBit 30 then retrainLink s l else s

/-- A write of DEEP (R434). -/
def execDeep (l : Fin 16) (value : Word) (s : State) : Host.Outcome State Fault Refusal :=
  .next (linkCtrlWrite s l value.toNat)

/-- RETRAIN (R426). -/
def execRetrain (l : Fin 16) (value : Word) (s : State) : Host.Outcome State Fault Refusal :=
  .next (linkCtrlWrite s l value.toNat)

/-- No DEEP_ACK within 10 µs: DEEP returns to 0 (R434). -/
def execDeepAckTimeout (l : Fin 16) (s : State) : Host.Outcome State Fault Refusal :=
  .next (dropDeep s l)

/-- The far end's signal returns on a link in Deep (R434). -/
def execDeepExit (l : Fin 16) (s : State) : Host.Outcome State Fault Refusal := .next (leaveDeep s l)

/-! ### Enabling a link (R406) -/

/-- The lanes of an enabled link, the spare included. -/
def linkLanes (s : State) (l : Nat) : List Nat :=
  (List.range (getF s (F.LNK_LINK_CFG_WIDTH l) + b2n (getB s (F.LNK_LINK_CFG_SPARE l)))).map
    (· + getF s (F.LNK_LINK_CFG_FIRST l))

/-- The checks of R406. -/
def linkCfgOk (s : State) (l : Nat) : Bool :=
  let w := getF s (F.LNK_LINK_CFG_WIDTH l)
  let ls := linkLanes s l
  let others := (List.range 16).filter (fun m => m ≠ l && getB s (F.LNK_LINK_CFG_EN m))
  decide (1 ≤ w) && decide (w ≤ 16) && (!getB s (F.LNK_LINK_CFG_SPARE l) || w == 4 || w == 8 || w == 16) &&
    ls.all (· < 64) && others.all (fun m => (linkLanes s m).all (fun x => !ls.contains x)) &&
    others.all (fun m => getF s (F.LNK_LINK_CFG_RATE m) == getF s (F.LNK_LINK_CFG_RATE l) ||
      (linkLanes s m).all (fun x => ls.all (fun y => x / 4 ≠ y / 4)))

/-- A write to LNK_LINK_CFG_n (R406): EN = 1 under its checks; EN = 0 turns the link off. -/
def linkCfgWrite (s : State) (l v : Nat) : State :=
  if getB s (F.LNK_LINK_CFG_EN l) then
    if v.testBit 31 then s
    else
      let s := leaveActive (setB s (F.LNK_LINK_CFG_EN l) false) l 0 false
      let s := setB (setB s (F.LNK_LINK_STATUS_DEEP l) false) (F.LNK_LINK_STATUS_SPARE_IN_USE l) false
      onLnk s (fun x => { x with links := x.links.set LinkSt.reset l LinkSt.reset })
  else
    let s := plainWrite s (0xC0100 + 32 * l) (v % 2 ^ 31)
    if v.testBit 31 then
      if linkCfgOk s l then setF (setB s (F.LNK_LINK_CFG_EN l) true) (F.LNK_LINK_STATUS_STAGE l) 1
      else setB s F.LNK_STATUS_CFG_REJECT true
    else s

/-- A write of EN to LNK_LINK_CFG_n (R406). -/
def execLinkCfgEnable (l : Fin 16) (value : Word) (s : State) : Host.Outcome State Fault Refusal :=
  .next (linkCfgWrite s l value.toNat)

/-! ### Forming a machine (R435 to R438) -/

/-- The machine is formed of the positions and the graph found (R435). -/
def formMachine (s : State) (g : List GraphEdge) (present : Nat) (doze : Bool) : State :=
  let me := getF s F.LNK_MACHINE_POSITION
  let s := setB (setF s F.LNK_FORM_STATUS_PRESENT present) F.LNK_FORM_STATUS_DOZE_ANY doze
  let s := setF (setB s F.LNK_STATUS_FORMED true) F.LNK_DIAMETER_STEPS ((holdDiameter g (machineSize s)).getD 0)
  let s := setB (setF s F.ARY_STATE_POSITION me) F.ARY_STATE_MULTI (decide (0 < getF s F.LNK_MACHINE_SIZE_M1))
  let s := setB s F.ARY_STATE_VOTE_ROOT (me == 0)
  let s := onLnk s (fun x => { x with forming := false, full := g, graph := g, cut := false })
  (List.range 16).foldl (fun t p =>
    match (if p = me then none else firstLink GraphEdge.ell g me p) with
    | some l => setF (setB t (F.LNK_ROUTE_VALID p) true) (F.LNK_ROUTE_LINK p) l
    | none => setF (setB t (F.LNK_ROUTE_VALID p) false) (F.LNK_ROUTE_LINK p) 0) s

/-- The table of this device's Active links goes to the far end of each (R435); its contents are free values, and what the
other hubs pass on of theirs comes with the formation check. -/
def formTables (s : State) : State :=
  (activeLinks s).foldl (fun t l => queueMgmt t l (getF t (F.LNK_LINK_STATUS_FAR_POS l))) s

/-- A write to LNK_MACHINE (R435): ignored outside EMPTY; FORM starts formation, and a device alone forms at once. -/
def machineWrite (s : State) (v : Nat) : State :=
  if emState s ≠ 0 then s
  else
    let s := plainWrite s 0xC0004 v
    if v.testBit 31 then
      let s := setF (setF (setB s F.LNK_STATUS_FORMED false) F.LNK_FORM_STATUS_REASON 0) F.LNK_FORM_STATUS_CONFLICT 0
      let s := (List.range 16).foldl (fun t l => onLink t l (fun x =>
        { x with latency := if linkActive t l then x.latency else none, breach := false })) s
      if getF s F.LNK_MACHINE_SIZE_M1 = 0 then
        formMachine s [] (2 ^ getF s F.LNK_MACHINE_POSITION) (getB s F.LNK_CTRL_DOZE_EN)
      else formTables (onLnk s (fun x => { x with forming := true }))
    else s

/-- FORM (R435). -/
def execForm (value : Word) (s : State) : Host.Outcome State Fault Refusal := .next (machineWrite s value.toNat)

/-- Two different serials claim one position: the lowest such (R436). -/
def duplicatePos (ps : List PeerReport) : Option Nat :=
  (List.range 16).find? (fun p => ps.any (fun a => ps.any (fun b =>
    a.position.toNat = p && b.position.toNat = p && a.serial ≠ b.serial)))

/-- Formation fails (R436). -/
def formFails (s : State) (reason conflict : Nat) : State :=
  let s := setF (setF (setB s F.LNK_STATUS_FORM_FAIL true) F.LNK_FORM_STATUS_REASON reason) F.LNK_FORM_STATUS_CONFLICT conflict
  onLnk s (fun x => { x with forming := false })

/-- The formation check (R435, R436): `peers` are the reports of the positions reached, `graph` the Active links. -/
def execFormationCheck (peers : List PeerReport) (graph : List GraphEdge) (s : State) :
    Host.Outcome State Fault Refusal :=
  let me : PeerReport := ⟨BitVec.ofNat 4 (getF s F.LNK_MACHINE_POSITION),
    BitVec.ofNat 64 (deviceSerial s), BitVec.ofNat 4 (getF s F.LNK_MACHINE_SIZE_M1),
    getB s F.LNK_CTRL_DOZE_EN⟩
  let ps := me :: peers
  let n := machineSize s
  let present := (List.range 16).foldl (fun m p => if ps.any (fun a => a.position.toNat = p) then m + 2 ^ p else m) 0
  .next (
    if s.lnk.forming then
      let s := setF s F.LNK_FORM_STATUS_PRESENT present
      match duplicatePos ps with
      | some p => formFails s 1 p
      | none =>
        if ps.any (fun a => a.sizeM1.toNat + 1 ≠ n || decide (n ≤ a.position.toNat)) then formFails s 2 0
        else if (List.range n).any (fun p => !present.testBit p) || (holdDiameter graph n).isNone then formFails s 3 0
        else if 224 < (holdDiameter graph n).getD 0 then formFails s 4 0
        else formMachine s graph present (ps.any PeerReport.dozeEn)
    else s)

/-- A link of a formed machine leaves Active, and the control paths are recomputed (R438). -/
def execLinkLeavesActive (l : Fin 16) (graph : List GraphEdge) (s : State) : Host.Outcome State Fault Refusal :=
  let s := if linkActive s l then leaveActive s l 1 false else s
  .next (if getB s F.LNK_STATUS_FORMED then judgeGraph (onLnk s (fun x => { x with graph := graph })) else s)

/-! ### The link channel map (R419) -/

/-- A read of LNK_MAP_DATA: the entry, and the index advanced (R419). -/
def mapRead (s : State) : Nat × State :=
  (s.lnk.map.get 0 (getF s F.LNK_MAP_INDEX_ENTRY), wrapF s F.LNK_MAP_INDEX_ENTRY 1)

/-- A read of LNK_MAP_DATA (R419). -/
def execLnkMapDataRead (s : State) : Host.Outcome State Fault Refusal :=
  let r := mapRead s
  .next (emit r.2 (.readValue 0 r.1))

/-! ### What the hub does on its own in an SCLK period -/

/-- The device has reported READY, or is to release dies, and a cause of a hold stands on it all the same (R117, R132):
a die has frozen again in a release, or a further source has come into force. -/
def holdsAgain (s : State) : Bool :=
  s.lnk.readySent && s.holds.resuming.isNone && !deviceReady s

/-- The device is held as if for the first time: releases not yet made are cancelled, and HOLD is due (R132, R133). -/
def holdAnew (s : State) : State :=
  onHolds (onLnk (newHold s) (fun x => { x with holdSent := false })) (fun h => { h with release := none })

/-- HOLD and READY of a device in a machine (R133, R135). -/
def holdTraffic (s : State) : State :=
  if multi s && executing s then
    if !anyFrozen s then onLnk s (fun x => { x with holdSent := false, readySent := false })
    else
      let s := if holdsAgain s then holdAnew s else s
      let s := if !s.lnk.holdSent && [0, 1, 2, 3, 4, 5, 6, 7, 8, 9, 10].any (sourceOn s) then sendHold s else s
      if deviceReady s && !s.lnk.readySent then
        let m := sigmaMin s
        let s := onLnk s (fun x => { x with readySent := true })
        if voteRoot s then
          rootResume (onHolds s (fun h => { h with readyFrom := h.readyFrom.set none 0 (some m) }))
        else sendBlock s (rootLink s) 0x09 (m % 2 ^ 21)
      else if voteRoot s then rootResume s else s
  else s

/-- The links in one SCLK period: stamps, votes, holds, the start, and frames. -/
def linksTick (s : State) : State :=
  let s := onLnk s (fun x => { x with periods := x.periods + 1 })
  let s := if multi s && executing s then sendVotes s else s
  let s := sendStartReady (holdTraffic s)
  (List.range 16).foldl pumpLink s

end Sys2Proof.Machine
end

