-- ==== Sys2Proof/Machine/Hbm.lean ====
section
/-! DEFINITION. The HBM subsystem (R211 to R235): the registers of the windows, refresh, PHY delays, scrub and the preserved
window tables. -/

namespace Sys2Proof.Machine

/-! ### Windows (R213 to R219) -/

/-- The stack of a pseudo-channel is READY (R227). -/
def stackReady (s : State) (pc : Nat) : Bool := (getF s F.HBM_STATUS_READY).testBit (pc / 32)

/-- Two windows occupy a common byte (R219). -/
def winOverlap (s : State) (a b : Nat) : Bool :=
  (winChannels s a).any (fun p => (winChannels s b).contains p) &&
    decide (winBase s a < winBase s b + winSpan s b) && decide (winBase s b < winBase s a + winSpan s a)

/-- The checks of R219 (and R228) on window `n`. -/
def winOk (s : State) (n : Nat) : Bool :=
  let ms := winMembers s n
  let g := getF s (F.HBM_WIN_CTRL_GRAIN n)
  decide (getF s (F.HBM_WIN_CTRL_OWNER n) < 6) && (decide (g < 9) || g == 15) &&
    [1, 2, 4, 8, 16, 32, 64, 128].contains ms.length && getF s (F.HBM_WIN_SIZE_SIZE n) != 0 &&
    (g != 15 || ms.length == 1) &&
    getF s (F.HBM_WIN_SIZE_SIZE n) % ms.length == 0 && decide (winBase s n + winSpan s n ≤ 0x3FFF0000) &&
    (!winMirror s n || ms.all (fun p => !ms.contains (p ^^^ 32))) &&
    (List.range 16).all (fun m => m = n || !getB s (F.HBM_WIN_CTRL_EN m) || !winOverlap s n m) &&
    (winChannels s n).all (fun p => !pcFailed s p && stackReady s p)

/-- A write to HBM_WIN_CTRL_n (R218 to R220): while EN is 1 only EN may change, and not where LOCK is set; EN = 1
is checked. -/
def winCtrlWrite (s : State) (n v : Nat) : State :=
  if getB s (F.HBM_WIN_CTRL_EN n) then
    let same := getF s (F.HBM_WIN_CTRL_OWNER n) == bitsOf v 28 3 && getF s (F.HBM_WIN_CTRL_GRAIN n) == bitsOf v 24 4 &&
      winMirror s n == v.testBit 23
    if !v.testBit 31 && same && !getB s (F.HBM_WIN_CTRL_LOCK n) then setB s (F.HBM_WIN_CTRL_EN n) false else s
  else
    let s := showDegraded (plainWrite s (0x90100 + 32 * n) (v % 2 ^ 31))
    if v.testBit 31 then
      if winOk s n then setB s (F.HBM_WIN_CTRL_EN n) true else setB s F.HBM_STATUS_WIN_REJECT true
    else s

/-- A write to HBM_WIN_BASE_n, SIZE_n or SET_n: ignored while EN is 1 (R218). -/
def winCfgWrite (s : State) (a v : Nat) : State :=
  if getB s (F.HBM_WIN_CTRL_EN ((a - 0x90100) / 32)) then s else showDegraded (plainWrite s a v)

/-- A write of EN (R219). -/
def execWindowEnable (n : Fin 16) (value : Word) (s : State) : Host.Outcome State Fault Refusal :=
  .next (winCtrlWrite s n value.toNat)

/-- A write to HBM_PC_FAILED_m (R231): a pseudo-channel returns to service when every window that it serves is
disabled. -/
def pcFailedWrite (s : State) (m v : Nat) : State :=
  showDegraded ((List.range 32).foldl (fun t b =>
    if v.testBit b && (List.range 16).all (fun n =>
        !getB t (F.HBM_WIN_CTRL_EN n) || !(winChannels t n).contains (32 * m + b))
    then setFBit t (F.HBM_PC_FAILED_FAILED m) b false else t) s)

/-- A write of 1 to HBM_PC_FAILED (R231). -/
def execPcFailedWrite (m : Fin 4) (value : Word) (s : State) : Host.Outcome State Fault Refusal :=
  .next (pcFailedWrite s m value.toNat)

/-! ### Refresh (R223 to R225) -/

/-- A write to HBM_REFRESH_CTRL (R224): the clamped values are stored, and take effect at the refresh after the next. -/
def refreshCtrlWrite (s : State) (v : Nat) : State :=
  let t := clamp 195 780 (bitsOf v 0 10)
  let r := clamp 160 1000 (bitsOf v 16 10)
  let s := setB s F.HBM_REFRESH_CTRL_AUTO_HALVE (v.testBit 31)
  let s := setF (setF s F.HBM_REFRESH_CTRL_TREFI t) F.HBM_REFRESH_CTRL_TRFC r
  onHbm s (fun h => { h with written := h.written ++ [(2, t, r)] })

/-- Some stack, or every stack, by a bound on the temperatures that HBM_TEMP holds. -/
def stackTemps (s : State) : List Nat := (List.range 4).map (fun i => bitsOf (getF s F.HBM_TEMP_TEMP) (8 * i) 8)

/-- A refresh of every pseudo-channel (R223 to R225). -/
def execRefresh (s : State) : Host.Outcome State Fault Refusal :=
  let s := wrapF s F.HBM_REFRESH_COUNT_COUNT 1
  let due := s.hbm.written.map (fun w => (w.1 - 1, w.2))
  let s := onHbm s (fun h => { h with
    timing := (due.filter (fun w => w.1 = 0)).foldl (fun _ w => w.2) h.timing
    written := due.filter (fun w => w.1 ≠ 0) })
  let hot := (stackTemps s).any (85 < ·)
  let cool := (stackTemps s).all (· ≤ 80)
  .next (
    if !getB s F.HBM_REFRESH_CTRL_AUTO_HALVE then setB s F.HBM_REFRESH_CTRL_HALVED false
    else if hot then setB s F.HBM_REFRESH_CTRL_HALVED true
    else if cool then setB s F.HBM_REFRESH_CTRL_HALVED false
    else s)

/-! ### PHY delays (R226 to R228) -/

/-- The delay entry that HBM_PHY_INDEX names, as a field. -/
def phyField (s : State) : Fld :=
  F.HBM_PHY_DATA_TAPS.bank (getF s F.HBM_PHY_INDEX_STACK * 2048 + getF s F.HBM_PHY_INDEX_ENTRY)

/-- A write to HBM_PHY_DATA: ignored for a READY stack; the index advances (R228). -/
def phyWrite (s : State) (v : Nat) : State :=
  let s' := if (getF s F.HBM_STATUS_READY).testBit (getF s F.HBM_PHY_INDEX_STACK) then s else setF s (phyField s) v
  wrapF s' F.HBM_PHY_INDEX_ENTRY 1

/-- A read of HBM_PHY_DATA: the entry, and the index advanced. -/
def phyRead (s : State) : Nat × State := (getF s (phyField s), wrapF s F.HBM_PHY_INDEX_ENTRY 1)

/-- An access to HBM_PHY_DATA (R227). -/
def execPhyDataAccess (write : Option Word) (s : State) : Host.Outcome State Fault Refusal :=
  .next (match write with
    | some v => phyWrite s v.toNat
    | none => let r := phyRead s; emit r.2 (.readValue 0 r.1))

/-- APPLY of one stack (R227): its delays are loaded, and it is READY or has failed. -/
def applyStack (s : State) (i : Nat) (pass : Bool) : State :=
  if (getF s F.HBM_STATUS_READY).testBit i then s
  else
    let taps := fun e => getF s (F.HBM_PHY_DATA_TAPS.bank (i * 2048 + e))
    let s := onHbm s (fun h => { h with
      delays := (List.range 2048).foldl (fun m e => m.set 0 (i * 2048 + e) (taps e)) h.delays })
    let s := setFBit s F.HBM_STATUS_PHY_FAIL i (!pass)
    if pass then setFBit (setFBit s F.HBM_STATUS_READY i true) F.HBM_STATUS_SELF_REFRESH i false else s

/-- A write to HBM_PHY_CTRL (R227). -/
def phyCtrlWrite (s : State) (v pass : Nat) : State :=
  (List.range 4).foldl (fun t i => if v.testBit i then applyStack t i (pass.testBit i) else t) s

/-- APPLY (R227). -/
def execApply (value : Word) (pass : BitVec 4) (s : State) : Host.Outcome State Fault Refusal :=
  .next (phyCtrlWrite s value.toNat pass.toNat)

/-! ### The preserved table (R233, R235) -/

/-- The seven registers of each window in order. -/
def windowTable (s : State) : List Nat :=
  (List.range 16).flatMap (fun n => [0, 4, 8, 0x10, 0x14, 0x18, 0x1C].map (fun o => plainReg s (0x90100 + 32 * n + o)))

/-- A window comes back from the table (R235). -/
def restoreWindow (t : List Nat) (s : State) (n : Nat) : State :=
  let w := fun i => t.getD (7 * n + i) 0
  let s := setF (setF (setF s (F.HBM_WIN_CTRL_OWNER n) (bitsOf (w 0) 28 3)) (F.HBM_WIN_CTRL_GRAIN n) (bitsOf (w 0) 24 4))
    (F.HBM_WIN_CTRL_MIRROR n) (bitsOf (w 0) 23 1)
  let s := setF (setF s (F.HBM_WIN_BASE_BASE n) (w 1)) (F.HBM_WIN_SIZE_SIZE n) (w 2)
  let s := (List.range 4).foldl (fun u m => setF u (F.HBM_WIN_SET_SET n m) (w (3 + m))) s
  let s := setB s (F.HBM_WIN_CTRL_LOCK n) false
  setB s (F.HBM_WIN_CTRL_EN n) ((w 0).testBit 31 && (winChannels s n).all (stackReady s))

/-- RESTORE_TABLE (R235): `c0` and `c1` say whether the copies in pseudo-channels 0 and 32 pass their checks. -/
def restoreTable (s : State) (c0 c1 : Bool) : State :=
  let r0 := stackReady s 0
  let r1 := stackReady s 32
  if r0 || r1 then
    match (if r0 && c0 then s.hbm.table0 else none) <|> (if r1 && c1 then s.hbm.table32 else none) with
    | some t => showDegraded ((List.range 16).foldl (restoreWindow t) (setB s F.HBM_STATUS_TABLE_VALID true))
    | none => setB s F.HBM_STATUS_TABLE_VALID false
  else s

/-- RESTORE_TABLE (R235). -/
def execRestoreTable (value : Word) (copy0 copy1 : Bool) (s : State) : Host.Outcome State Fault Refusal :=
  .next (if value.toNat.testBit 0 then restoreTable s copy0 copy1 else s)

/-! ### Errors (R229 to R232) -/

/-- The scrub reads the word of byte `a` of a pseudo-channel (R232): a corrected word is written back, an uncorrectable one
rewritten from the other copy where that copy gives it. -/
def scrubHbm (s : State) (pc a : Nat) : State :=
  let clear := fun (t : State) => onHbm t (fun h => { h with marks := h.marks.set .clean (pc * 2 ^ 27 + a / 8) .clean })
  match hbmMark s pc a with
  | .clean => s
  | .corrected => clear (bumpF s (F.HBM_CE_COUNT_COUNT (pc / 32)) 1)
  | .uncorrectable =>
    let m := match winAt s pc a with
      | some n => winMirror s n && hbmGives s (pc ^^^ 32) a
      | none => false
    let s := noteUe s pc a true m
    if m then clear s else s

/-- The background scrub of one word (R232), which it finds as `ecc` where the word holds no earlier error; a scrub command
that fails its parity check reads nothing (R231).  `upset` is what has befallen another word since (R229). -/
def execScrub (pc : Fin 128) (word : BitVec 27) (f : HbmFinds) (upset : Option (Fin 128 × BitVec 27 × Ecc)) (s : State) :
    Host.Outcome State Fault Refusal :=
  let a := word.toNat * 8
  let s :=
    if !(getB s F.HBM_SCRUB_CTRL_EN && stackReady s pc && !pcFailed s pc) then s
    else if f.parity then parityCheck s pc true
    else
      let s := scrubHbm (upsetHbm (parityCheck s pc false) pc a f.ecc) pc a
      let done := pc.val * 2 ^ 27 + word.toNat + 1
      if done = 2 ^ 34 then setF (wrapF s F.HBM_SCRUB_PROGRESS_PASSES 1) F.HBM_SCRUB_PROGRESS_POSITION 0
      else setF s F.HBM_SCRUB_PROGRESS_POSITION (done / 2 ^ 18)
  .next (match upset with
    | some u => upsetHbm s u.1 (u.2.1.toNat * 8) u.2.2
    | none => s)

end Sys2Proof.Machine
end

