-- ==== Sys2Proof/Machine/Memory.lean ====
section
/-! DEFINITION. The design memories' pipelines (R186 to R204): the order of accesses, forwarding, returns, the return
log, and the release of WRITEs at commit. -/

namespace Sys2Proof.Machine

/-! ### Order and forwarding (R191, R192) -/

/-- WRITE `a` precedes `b` (R191): step count, then die, tile position, port. -/
def writeBefore (a b : MWrite) : Bool :=
  a.sigma < b.sigma || (a.sigma = b.sigma && (a.die < b.die || (a.die = b.die &&
    (a.tilePos < b.tilePos || (a.tilePos = b.tilePos && a.port ≤ b.port)))))

/-- A WRITE put into an ordered list, after those that precede it. -/
def insertWrite (w : MWrite) : List MWrite → List MWrite
  | [] => [w]
  | x :: xs => if writeBefore w x && !writeBefore x w then w :: x :: xs else x :: insertWrite w xs

/-- WRITEs in the order of R191. -/
def orderWrites (ws : List MWrite) : List MWrite := ws.foldl (fun acc w => insertWrite w acc) []

/-- A WRITE goes to the target that a READ reads. -/
def sameTarget (r : MRead) (w : MWrite) : Bool :=
  r.target == w.target && (r.target != 0 || (r.die == w.die && r.tilePos == w.tilePos)) &&
    (r.target != 1 || r.window == w.window)

/-- A READ's bits with a WRITE laid over them. -/
def overlay (r : MRead) (acc : Nat) (w : MWrite) : Nat :=
  (List.range w.width).foldl (fun a i =>
    if r.bit ≤ w.bit + i ∧ w.bit + i < r.bit + r.width then setBit a (w.bit + i - r.bit) (w.data.testBit i) else a) acc

/-- The uncommitted WRITEs that precede a READ and go to its target, in order. -/
def writesBefore (s : State) (r : MRead) : List MWrite :=
  orderWrites (s.mem.writes.filter (fun w => sameTarget r w && decide (w.sigma < r.sigma)))

/-- The bits that a READ returns (R192). -/
def readBits (s : State) (r : MRead) : Nat :=
  (writesBefore s r).foldl (overlay r) (targetRead s r.die r.tilePos r.target r.window r.bit r.width)

/-- A READ of tile RAM is forwarded from an entry beyond the 4,096 that a tile position keeps (R193). -/
def spilledRead (s : State) (r : MRead) : Bool :=
  r.target == 0 && ((orderWrites (s.mem.writes.filter (sameTarget r))).drop 4096).any (fun w =>
    decide (w.sigma < r.sigma) && decide (w.bit < r.bit + r.width) && decide (r.bit < w.bit + w.width))

/-! ### Returns (R188, R189, R199) -/

/-- Two READs are one schedule entry's, in two executions of its cycle (R200). -/
def sameRead (a b : MRead) : Bool :=
  a.die == b.die && a.tilePos == b.tilePos && a.port == b.port && a.sigma == b.sigma

/-- A return written into the memory-read bits that still record its READ (R189). -/
def applyReturn (r : MRead) (m : SMap Mrd) : SMap Mrd :=
  (List.range r.width).foldl (fun m i =>
    SMap.modify ⟨false, false, none⟩ m (idx (r.tilePos * 32 + r.cluster) 512 ((r.dest + i) % 512)) (fun b =>
      if b.last = some r.rid then { b with val := (r.data.getD 0).testBit i, present := true } else b)) m

/-- The cycle in which a return arrives at die `d` now (R199): that after the newest boundary copy. -/
def arrivalCycle (s : State) (d : Fin 4) : Nat := s.dies[d].copies.foldl (fun m c => max m c.next) 0

/-- A return reaches its bits and the log (R189, R199). -/
def deliverReturn (s : State) (r : MRead) : State :=
  let d : Fin 4 := Fin.ofNat 4 r.die
  let s := onDie s d (fun x => { x with mrd := applyReturn r x.mrd })
  { s with mem := { s.mem with
    reads := s.mem.reads.filter (fun q => q.rid ≠ r.rid)
    stalled := s.mem.stalled.filter (· ≠ r.rid)
    log := s.mem.log.filter (fun e => !sameRead e.read r) ++ [⟨r, arrivalCycle s d⟩] } }

/-- The return log has room for one more return (R201). -/
def logRoom (s : State) : Bool := decide ((s.mem.log.length + 1) * s.chip.logEntry ≤ 2 ^ 28)

/-- A return arrives, or waits where the log is full (R199, R201); one that the log holds already needs no room. -/
def takeReturn (s : State) (r : MRead) : State :=
  let r := { r with data := some (r.data.getD (readBits s r)) }
  let s := if spilledRead s r then bumpF s F.ARY_MEM_STALLS_SPILL 1 else s
  if logRoom s || s.mem.log.any (fun e => sameRead e.read r) then deliverReturn s r
  else bumpF { s with mem := { s.mem with
    stalled := s.mem.stalled ++ [r.rid]
    reads := s.mem.reads.map (fun q => if q.rid = r.rid then r else q) } } F.ARY_MEM_STALLS_LOG_FULL 1

/-- Returns that found the log full arrive while it has room (R201). -/
def deliverStalled (s : State) : State :=
  s.mem.stalled.foldl (fun t i =>
    match t.mem.reads.find? (fun r => r.rid = i) with
    | some r => if logRoom t then deliverReturn t r else t
    | none => t) s

/-- Replay cannot recover the fault under recovery (R29). -/
def unrecoverable (s : State) (cause : Nat) : State :=
  { s with run := { s.run with replay := s.run.replay.map (fun r => { r with halt := some cause }) } }

/-- Word `w` of tile RAM is uncorrectable in cycle `c`: it cannot be recovered where an earlier execution of the cycle met
it too (R467). -/
def tileRamAgain (s : State) (c w : Nat) : State :=
  let again := s.hbm.tileSeen.contains (c, w, true)
  let s := onHbm s (fun h => { h with tileSeen := h.tileSeen ++ [(c, w, false)] })
  if again then unrecoverable s 1 else s

/-- An uncorrectable word of tile RAM (R467, R468): the vote is bad, and a word that fails again in a re-executed cycle
cannot be recovered. -/
def tileRamUe (s : State) (r : MRead) : State :=
  let d : Fin 4 := Fin.ofNat 4 r.die
  let w := (r.die * 64 + r.tilePos) * 2 ^ 16 + r.bit / 64
  tileRamAgain (noteFaults s d [⟨3, 6, r.tilePos, 0xFF, 0xFF, 0⟩]) s.dies[d].cycle w

/-- An uncorrectable word of an HBM design window, at offset `x`, on a READ's return (R230). -/
def designUe (s : State) (r : MRead) (x : Nat) : State :=
  let d : Fin 4 := Fin.ofNat 4 r.die
  let pa := winAddr s r.window x
  let w := pa.1 * 2 ^ 27 + pa.2 / 8
  let again := s.hbm.ueSeen.contains (s.dies[d].cycle, w, true)
  let s := onHbm s (fun h => { h with ueSeen := h.ueSeen ++ [(s.dies[d].cycle, w, false)] })
  let s := noteFaults s d [⟨4, 0xFF, 0xFFFF, 0xFF, 0xFF, 0⟩]
  if again then unrecoverable s 0 else s

/-- What the target's code shows on a return, `e` that of its first word (R202, R229, R230, R468), and whether a word of the
return is uncorrectable. -/
def returnEcc (s : State) (r : MRead) (e : Ecc) : State × Bool :=
  let x := r.bit / 8
  match r.target with
  | 0 => match e with
    | .clean => (s, false)
    | .corrected => (bumpF s F.FLT_CE_TILE_COUNT 1, false)
    | .uncorrectable => (tileRamUe s r, true)
  | 1 =>
    let (t, xs) := winServe (upsetHbm s (servedBy s r.window x) (winAddr s r.window x).2 e) r.window x ((r.width + 7) / 8)
    match xs with
    | [] => (t, false)
    | y :: _ => (designUe t r y, true)
  | _ => if e = .uncorrectable then (badNow s (Fin.ofNat 4 r.die), true) else (s, false)

/-- The stack that a READ of an HBM window needs is READY (R227, R497). -/
def readServed (s : State) (r : MRead) : Bool :=
  r.target != 1 || stackReady s (servedBy s r.window (r.bit / 8))

/-- The READ's return is in the log, and the READ takes it from there (R200).  A return with an uncorrectable word is no
value that the READ can take: the target is accessed afresh (DEDUCED from R230 and R467, which have the error met again). -/
def inLog (s : State) (r : MRead) : Bool := s.mem.log.any (fun e => sameRead e.read r && !e.read.bad)

/-- Every WRITE that precedes a READ of a shared target has been issued: no die is still to execute a step before the READ's
(R191, R192). -/
def writesIssued (s : State) (r : MRead) : Bool := r.target == 0 || decide (r.sigma ≤ sigmaMin s)

/-- A READ accesses its target, whose first word reads as `ecc`, and its return arrives. -/
def accessReturn (s : State) (r : MRead) (ecc : Ecc) : State :=
  let u := returnEcc s r ecc
  takeReturn u.1 { r with bad := u.2 }

/-- MEMORY_RETURN (R188, R194, R199): the return of a READ in flight; one of tile RAM is present no earlier than six
steps after its READ, one of an HBM window waits while its stack is not READY (R497), and one whose command fails its parity
check is asked for again (R231). -/
def execMemoryReturn (rid : Nat) (f : HbmFinds) (s : State) : Host.Outcome State Fault Refusal :=
  .next (
    match s.mem.reads.find? (fun r => r.rid = rid) with
    | none => s
    | some r =>
      if s.mem.stalled.contains rid || (r.target == 0 && decide (r.age < 6)) || !writesIssued s r then s
      else if inLog s r then takeReturn s r
      else if !readServed s r then s
      else if r.target = 1 then
        let s := parityCheck s (servedBy s r.window (r.bit / 8)) f.parity
        if f.parity then s else accessReturn s r f.ecc
      else accessReturn s r f.ecc)

/-- The tile RAM pipeline (R194): READs six SCLK periods old return, but for those forwarded from a spilled entry. -/
def tileReturns (s : State) : State :=
  (s.mem.reads.filter (fun r => r.target == 0 && decide (6 ≤ r.age) && !spilledRead s r &&
    !s.mem.stalled.contains r.rid)).foldl takeReturn s

/-- READs grow older by an SCLK period (R194). -/
def ageReads (s : State) : State :=
  { s with mem := { s.mem with reads := s.mem.reads.map (fun r => { r with age := r.age + 1 }) } }

/-- Re-executed READs whose returns are in the log take them from it (R200). -/
def takeLogged (s : State) : State :=
  { s with mem := { s.mem with reads := s.mem.reads.map (fun r =>
    if r.data.isNone then match s.mem.log.find? (fun e => sameRead e.read r && e.read.rid != r.rid && !e.read.bad) with
      | some e => { r with data := e.read.data }
      | none => r
    else r) } }

/-! ### Release at commit (R27, R190) -/

/-- READs of cycles up to `c` see what the release of cycle `c` would hide: their bits are fixed before it (R192). -/
def fixReads (s : State) (c : Nat) : State :=
  { s with mem := { s.mem with reads := s.mem.reads.map (fun r =>
    if r.cycle ≤ c ∧ r.data.isNone then { r with data := some (readBits s r) } else r) } }

/-- The window pages of 64 KiB that the WRITEs of a list touch: window * 2^22 + page. -/
def pagesOf (ws : List MWrite) : List Nat :=
  (ws.filter (fun w => w.target = 1)).map (fun w => w.window * 2 ^ 22 + w.bit / 8 / 65536)

/-- Pages that an open read view has yet to copy before the commit of cycle `c` (R37). -/
def newPages (s : State) (c : Nat) : List Nat :=
  match s.design.view with
  | none => []
  | some v => ((pagesOf (s.mem.writes.filter (fun w => w.cycle = c))).filter (fun p => !v.pages.contains p)).dedup

/-- The view reserve cannot take the pages of the commit of cycle `c` (R37, R208). -/
def viewBlocks (s : State) (c : Nat) : Bool :=
  match s.design.view with
  | none => false
  | some v => decide (c ≥ v.next) && newPages s c ≠ [] && decide (28672 < v.pages.length + (newPages s c).length)

/-- One WRITE released to its target; a word of the exchange RAM passes through port A (R190, R203). -/
def releaseWrite (s : State) (w : MWrite) : State :=
  let was := fun (i : Nat) => Memory.readBytes marchFill s.mem.exr (8 * (w.bit / 64 + i)) 8
  let s := targetWrite s w.die w.tilePos w.target w.window w.bit w.data w.width
  if w.target = 2 then
    (List.range ((w.bit % 64 + w.width + 63) / 64)).foldl (fun t i =>
      let word := w.bit / 64 + i
      { t with mem := { t.mem with
        portA := t.mem.portA ++ [(word, (Memory.readBytes marchFill t.mem.exr (8 * word) 8).map some)]
        before := t.mem.before ++ [(true, word, was i)] } }) s
  else s

/-- The memory side of the commit of cycle `c` (R27, R190, R199). -/
def memCommit (s : State) (c : Nat) : State :=
  let pages := newPages s c
  let s := fixReads s c
  let ws := orderWrites (s.mem.writes.filter (fun w => w.cycle = c))
  let s := { s with mem := { s.mem with writes := s.mem.writes.filter (fun w => w.cycle ≠ c), portA := [], before := [] } }
  let s := ws.foldl releaseWrite s
  let s := { s with
    mem := { s.mem with log := s.mem.log.filter (fun e => c < e.arrived) }
    design := { s.design with view := s.design.view.map (fun v => { v with pages := v.pages ++ pages }) }
    hbm := { s.hbm with ueSeen := s.hbm.ueSeen.filter (fun e => c < e.1), tileSeen := s.hbm.tileSeen.filter (fun e => c < e.1) } }
  deliverStalled s

/-! ### Abandoning cycles (R199, R200, R473) -/

/-- The memory side of a restore to the boundary before cycle `nb`: WRITEs and READs of later cycles are discarded, and
the log stays whole for a replay, and so do the uncorrectable words met.  A READ of an earlier cycle whose return had an
uncorrectable word is in flight again. -/
def memAbandon (s : State) (nb : Nat) (replayed : Bool) : State :=
  let past := fun (l : List (Nat × Nat × Bool)) => if replayed then l.map (fun e => (e.1, e.2.1, true)) else []
  let s := onHbm s (fun h => { h with ueSeen := past h.ueSeen, tileSeen := past h.tileSeen })
  let again := (s.mem.log.filter (fun e => e.read.bad && decide (e.read.cycle < nb) && decide (nb ≤ e.arrived))).map (fun e =>
    { e.read with data := none, bad := false })
  let log := s.mem.log.filter (fun e => !e.read.bad)
  { s with mem := { s.mem with
    writes := s.mem.writes.filter (fun w => w.cycle < nb)
    reads := s.mem.reads.filter (fun r => r.cycle < nb) ++ again
    stalled := s.mem.stalled.filter (fun i => s.mem.reads.any (fun r => r.rid = i && decide (r.cycle < nb)))
    log := if replayed then log else log.filter (fun e => e.read.cycle < nb)
    flights := s.mem.flights.filter (fun f => cycleOf s f.sent < nb) } }

/-- The logged returns that a restore to the boundary before cycle `nb` applies again to die `d` (R199). -/
def logAgain (s : State) (d nb : Nat) (m : SMap Mrd) : SMap Mrd :=
  (s.mem.log.filter (fun e => e.read.die = d ∧ e.read.cycle < nb ∧ nb ≤ e.arrived ∧ !e.read.bad)).foldl (fun m e =>
    applyReturn e.read m) m

end Sys2Proof.Machine
end

