-- ==== Sys2Proof/Machine/Regions.lean ====
section
/-! DEFINITION. Coppice regions in the running machine (R285, R286, R289, R290, R296): isolation, the border, and the
rejoin. -/

namespace Sys2Proof.Machine

/-! ### Descriptors (R285, R286) -/

/-- A region descriptor (R285), decoded. -/
structure RegionDef where
  number : Nat
  tiles : List Nat
  blocks : List Nat
  /-- border entries (R286) -/
  border : List Nat
  deriving DecidableEq, Repr

/-- A length up to the next multiple of 16. -/
def pad16 (n : Nat) : Nat := (n + 15) / 16 * 16

/-- Bytes of a region record. -/
def regionLength (bs : List Byte) : Nat :=
  16 + pad16 (2 * leAt bs 8 2) + pad16 (leAt bs 10 2) + pad16 (8 * leAt bs 12 2)

/-- A region record's fields. -/
def decodeRegion (bs : List Byte) : RegionDef :=
  let nt := leAt bs 8 2
  let nb := leAt bs 10 2
  let b := 16 + pad16 (2 * nt)
  let e := b + pad16 nb
  ⟨leAt bs 0 1, (List.range nt).map (fun i => leAt bs (16 + 2 * i) 2), (List.range nb).map (fun i => leAt bs (b + i) 1),
    (List.range (leAt bs 12 2)).map (fun i => leAt bs (e + 8 * i) 8)⟩

/-- The descriptor of region `n` of the installed Ingot. -/
def regionOf (s : State) (n : Nat) : Option RegionDef :=
  match s.ingot with
  | some g => (g.regions.map decodeRegion).find? (fun r => r.number = n)
  | none => none

/-- Die and position that the binding in force gives virtual tile `v` (R157). -/
def boundPlace (s : State) (v : Nat) : Option (Fin 4 × Nat) :=
  dieList.findSome? (fun d => ((List.range 64).find? (fun p => boundTile s d p = some v)).map (fun p => (d, p)))

/-- Die and position of each tile of a region. -/
def regionPlaces (s : State) (r : RegionDef) : List (Nat × Fin 4 × Nat) :=
  r.tiles.filterMap (fun v => (boundPlace s v).map (fun q => (v, q.1, q.2)))

/-! ### Isolation (R289, R290) -/

/-- The values of a cycle's lanes of position `p`, by step and lane. -/
def tileLanes (lanes : SMap (Option Bool)) (p : Nat) : SMap Bool :=
  lanes.filterMap (fun e =>
    if e.1 % 8192 / 128 = p ∧ e.2 = some true then some (e.1 / 8192 * 128 + e.1 % 128, true) else none)

/-- What the lanes of position `p` carried in the cycle before cycle `j`, where the die has executed it (R290). -/
def heldLanes (x : Die) (p j : Nat) : SMap Bool :=
  match x.pastLanes.find? (fun e => e.1 + 1 = j) with
  | some e => tileLanes e.2 p
  | none => []

/-- The first cycle to begin from now on (R289): the next cycle to run where the machine rests. -/
def firstToBegin (s : State) : Nat := if executing s then ceilDiv (sigmaMax s) (cycleSteps s) else s.run.nextCommit

/-- MODE CONST and VALUE of a border entry (R286). -/
def borderMode (w : Nat) : Bool × Bool := (w.testBit 61, w.testBit 60)

/-- A tile's rejoin in a cycle not yet committed is kept apart from the isolation that follows it: a replay of that cycle
repeats it (R296). -/
def keepRejoin (s : State) (k : Nat) : State :=
  match s.iso.get none k with
  | some i => if i.until_.isSome then { s with run := { s.run with pastIso := s.run.pastIso.set none k (some i) } } else s
  | none => s

/-- A tile of a region is isolated from cycle `j` on. -/
def isolateTile (s : State) (n j : Nat) (r : RegionDef) (v : Nat) (d : Fin 4) (p : Nat) : State :=
  let border := r.border.foldl (fun (m : SMap (Option (Bool × Bool))) w =>
    if bitsOf w 62 2 = 0 ∧ bitsOf w 16 16 = v then m.set none (bitsOf w 0 16) (some (borderMode w)) else m) []
  let old := s.tileBytes.filter (fun c => unitBase d p ≤ c.1 ∧ c.1 < unitBase d p + 2 ^ 25)
  let tile : IsoTile := ⟨n, j, none, heldLanes s.dies[d] p j, border, old, []⟩
  let s := keepRejoin s (d.val * 64 + p)
  { s with iso := s.iso.set none (d.val * 64 + p) (some tile) }

/-- A block of a region is isolated: what stands in for its lines, its pins and its bridge lines (R290). -/
def isolateBlock (s : State) (n : Nat) (r : RegionDef) (x : Nat) : State :=
  let lines := r.border.foldl (fun (m : SMap (Option Bool)) w =>
    let l := bitsOf w 0 16
    if bitsOf w 62 2 = 1 ∧ lineDriver s l = some x then
      m.set none l (some (if w.testBit 61 then w.testBit 60 else broadcastLine s l))
    else m) []
  let pins := r.border.foldl (fun (m : SMap (Option (Bool × Bool))) w =>
    let q := bitsOf w 0 16
    if bitsOf w 62 2 = 2 ∧ (pinSlot q).1 = x then
      m.set none q (some (if w.testBit 61 then (true, w.testBit 60)
        else match pinDrive s q with | some v => (true, v) | none => (false, false)))
    else m) []
  let imports := (List.range 16).foldl (fun v i => v + b2n (importLine s (16 * x + i)) * 2 ^ i) 0
  onHgr s (fun h => { h with iso := h.iso.set none x (some ⟨n, lines, pins, imports⟩) })

/-- The record of a region that has left the running design. -/
def regionRun (s : State) (n : Nat) : Option RegionRun := s.run.regions.get none n

/-- The state with a region's record replaced. -/
def setRegionRun (s : State) (n : Nat) (r : Option RegionRun) : State :=
  { s with run := { s.run with regions := s.run.regions.set none n r } }

/-- The blocks of a region are held in set-reset, each as it stands before any of them is (R289, R290). -/
def isolateBlocks (s : State) (n : Nat) (r : RegionDef) : State :=
  (r.blocks.map (fun x => (isolateBlock s n r x).hgr.iso.get none x)).zip r.blocks |>.foldl
    (fun t e => onHgr t (fun h => { h with iso := h.iso.set none e.2 e.1 })) s

/-- The blocks of the isolated regions whose first stopped cycle has been reached by the most advanced die, or of a machine
at rest, are held from now on (R289). -/
def holdBlocks (s : State) : State :=
  s.run.regions.foldl (fun t e => match e.2, regionOf s e.1 with
    | some q, some r =>
      if !q.held && (!executing s || decide (q.from_ * cycleSteps s ≤ sigmaMax s)) then
        setRegionRun (isolateBlocks t e.1 r) e.1 (some { q with held := true })
      else t
    | _, _ => t) s

/-- A region is isolated (R289): its tiles and its blocks from the first cycle to begin. -/
def isolateRegion (s : State) (n : Nat) : State :=
  match regionOf s n with
  | none => s
  | some r =>
    let j := firstToBegin s
    let t := (regionPlaces s r).foldl (fun t q => isolateTile t n j r q.1 q.2.1 q.2.2) s
    holdBlocks (setF (setRegionRun t n (some ⟨j, none, false⟩)) (F.LDR_REGION_STATE n) 1)

/-- The region has stopped: the cycle before its first stopped cycle is committed (R289). -/
def regionStopped (s : State) (n : Nat) : Bool :=
  match regionRun s n with
  | some r => decide (r.from_ ≤ s.run.nextCommit)
  | none => true

/-! ### Rejoin (R296) -/

/-- Register bits that a byte store of a cluster's initial register bits gives position `p` (R291). -/
def shadowBits (m : Memory) (p : Nat) : List Nat :=
  m.flatMap (fun c => (List.range 8).filterMap (fun b =>
    if c.2.toNat.testBit b then some ((p * 32 + c.1 / 256) * 2048 + c.1 % 256 * 8 + b) else none))

/-- A store's keys of position `p` replaced by those listed, where keys of a cluster span `w`. -/
def replaceTile (m : SMap Bool) (p w : Nat) (ks : List Nat) : SMap Bool :=
  ks.foldl (fun m k => m.set false k true) (m.filter (fun e => e.1 / w / 32 ≠ p))

/-- A tile rejoins at the boundary before cycle `nb` (R296): shadow register bits, and nothing in its window, slots and
memory-read bits. -/
def rejoinTile (s : State) (d : Fin 4) (p nb : Nat) (i : IsoTile) : State :=
  let ks := shadowBits i.shadow p
  onDie s d (fun x => { x with
    regBits := replaceTile x.regBits p 2048 ks
    pendLatch := x.pendLatch.filter (fun e => e.1 / 65536 ≠ p)
    window := x.window.filter (fun e => e.1 / 65536 ≠ p)
    slots := x.slots.filter (fun e => e.1 / 32768 ≠ p)
    mrd := x.mrd.filter (fun e => e.1 / 16384 ≠ p)
    ecc := x.ecc.filter (fun e => e.1 / 2 ^ 40 % 256 ≠ p)
    copies := x.copies.map (fun c => if c.next = nb then { c with
      regBits := replaceTile c.regBits p 2048 ks, mrd := c.mrd.filter (fun e => e.1 / 16384 ≠ p) } else c) })

/-- The blocks of a region leave their isolation: flip-flops and RAM at their initial values (R296). -/
def rejoinBlocks (s : State) (n : Nat) : State :=
  let which := fun x => match s.hgr.iso.get none x with | some i => i.region == n | none => false
  let ffs := initFfs s which
  let rams := initRams s which
  let regs := initIo s which
  onHgr s (fun h => { h with
    ff := ffs, ram := rams, ioReg := regs
    ramEcc := h.ramEcc.filter (fun e => !which (2 * (e.1 / 1024) + 1))
    iso := h.iso.filter (fun e => match e.2 with | some i => i.region ≠ n | none => true) })

/-- The isolated tiles of a die whose rejoin is at B0 of cycle `k`. -/
def rejoinsAt (s : State) (d : Fin 4) (k : Nat) : List (Nat × IsoTile) :=
  (s.iso ++ s.run.pastIso).filterMap (fun e => match e.2 with
    | some i => if e.1 / 64 = d.val ∧ i.until_ = some k then some (e.1 % 64, i) else none
    | none => none)

/-- The regions that rejoin at B0 of cycle `k` and that no die has brought back yet. -/
def regionsDue (s : State) (k : Nat) : List Nat :=
  s.run.regions.filterMap (fun e => match e.2 with
    | some r => if r.until_ = some k ∧ getF s (F.LDR_REGION_STATE e.1) = 2 then some e.1 else none
    | none => none)

/-- B0 of cycle `k` on die `d` (R296): its tiles rejoin; with the first die to take the step, the blocks of their regions
do.  A repeated rejoin (in a replay of the cycle) leaves blocks that are back as they are: the fabric is not replayed. -/
def rejoinB0 (s : State) (d : Fin 4) (k : Nat) : State :=
  let ns := regionsDue s k
  let s := (rejoinsAt s d k).foldl (fun t e => rejoinTile t d e.1 (k + 1) e.2) s
  ns.foldl (fun t n => setF (rejoinBlocks t n) (F.LDR_REGION_STATE n) 0) s

/-- The first cycle whose B0 no die has begun (R296). -/
def firstB0 (s : State) : Nat :=
  dieList.foldl (fun m d =>
    let x := s.dies[d]
    let st := stepOf s x.sigma
    max m (cycleOf s x.sigma + if stepsS s < st ∨ (st = stepsS s ∧ x.stage.done.contains boundaryKey) then 1 else 0)) 0

/-- The cycle at whose B0 a region that is ready now rejoins (R296): the first whose B0 no die has begun, or, where the hub
has decided that no commit wait holds that B0 and the cycle before it is not committed, the one after it, since no hold could
be announced any more (DESIGN CHOICE, from R120). -/
def rejoinCycle (s : State) : Nat :=
  let k := firstB0 s
  let t := k * cycleSteps s + stepsS s
  if s.holds.commitDecided ≤ k || k ≤ s.run.nextCommit || s.holds.announced.any (fun a => a.1 = 5 && a.2 = t) then k
  else k + 1

/-- A region rejoins at the visible boundary of a machine at rest (R296). -/
def rejoinAtRest (s : State) (n : Nat) : State :=
  let ts := s.iso.filterMap (fun e => match e.2 with
    | some i => if i.region = n then some (e.1, i) else none
    | none => none)
  let s := ts.foldl (fun t e => rejoinTile t (Fin.ofNat 4 (e.1 / 64)) (e.1 % 64) s.run.nextCommit e.2) s
  let s := { s with iso := s.iso.filter (fun e => match e.2 with | some i => i.region ≠ n | none => true) }
  setF (rejoinBlocks (setRegionRun s n none) n) (F.LDR_REGION_STATE n) 0

/-- A region is ready (R296): it rejoins at once where the machine rests, and otherwise at B0 of its cycle. -/
def regionBecomesReady (s : State) (n : Nat) : State :=
  let s := setF s (F.LDR_REGION_STATE n) 2
  if executing s then
    let k := rejoinCycle s
    let s := setRegionRun s n ((regionRun s n).map (fun r => { r with until_ := some k }))
    { s with iso := s.iso.map (fun e => (e.1, match e.2 with
      | some i => if i.region = n then some { i with until_ := some k } else some i
      | none => none)) }
  else rejoinAtRest s n

/-- The commit of cycle `c`: a rejoin at its B0 is not repeated any more. -/
def regionCommit (s : State) (c : Nat) : State :=
  let stays := fun (e : Nat × Option IsoTile) => match e.2 with | some i => i.until_ ≠ some c | none => true
  { s with
    iso := s.iso.filter stays
    run := { s.run with
      pastIso := s.run.pastIso.filter stays
      regions := s.run.regions.filter (fun e => match e.2 with | some r => r.until_ ≠ some c | none => true) } }

/-- Cycles from `nb` on are discarded: a rejoin in one of them is to be repeated (R296). -/
def regionsBack (s : State) (nb : Nat) : State :=
  s.run.regions.foldl (fun t e => match e.2 with
    | some r => match r.until_ with
      | some k => if nb ≤ k then setF t (F.LDR_REGION_STATE e.1) 2 else t
      | none => t
    | none => t) s

/-- The machine comes to rest (R296): regions that are ready rejoin at once, at the visible boundary; a rejoin of an
abandoned cycle that a new isolation follows takes effect there too. -/
def restRegions (s : State) : State :=
  let past := s.run.pastIso
  let s := past.foldl (fun t e => match e.2 with
    | some i => rejoinTile t (Fin.ofNat 4 (e.1 / 64)) (e.1 % 64) t.run.nextCommit i
    | none => t) s
  let s := { s with run := { s.run with pastIso := [] } }
  holdBlocks ((List.range 64).foldl (fun t n => if getF t (F.LDR_REGION_STATE n) = 2 then rejoinAtRest t n else t) s)

end Sys2Proof.Machine
end

