-- ==== Sys2Proof/Machine/Boundary.lean ====
section
/-! DEFINITION. The boundary phase (R20, R26): the twelve boundary steps of a die, the boundary copies (R26, R198,
R474), and one step of a die (R14 to R17). -/

namespace Sys2Proof.Machine

/-- The newest boundary copy of the boundary before cycle `nb`, if one is held. -/
def copyOf (x : Die) (nb : Nat) : Option BoundaryCopy := x.copies.find? (fun c => c.next = nb)

/-- A boundary copy put among the last four (R26); one of the same boundary is replaced. -/
def putCopy (cs : List BoundaryCopy) (c : BoundaryCopy) : List BoundaryCopy :=
  let all := cs.filter (fun e => e.next < c.next) ++ [c]
  all.drop (all.length - 4)

/-- The copy of the boundary before cycle `nb` changed. -/
def onCopy (x : Die) (nb : Nat) (g : BoundaryCopy → BoundaryCopy) : Die :=
  { x with copies := x.copies.map (fun c => if c.next = nb then g c else c) }

/-- The carry-over entries of the boundary before cycle `nb` that have arrived (R474). -/
def carryEntries (s : State) (x : Die) (nb : Nat) : SMap (List ChanEntry) :=
  x.chans.filterMap (fun e =>
    let es := e.2.filter (fun c => carriesOver s x e.1 nb c.sent)
    if es = [] then none else some (e.1, es))

/-- The boundary copy of what a die holds as the boundary before cycle `nb` (R26, R198). -/
def takeCopy (s : State) (x : Die) (nb : Nat) : BoundaryCopy :=
  ⟨nb, x.regBits, x.mrd, x.portIn, carryEntries s x nb⟩

/-- Every pending latch becomes the value of its register bit (R20, R92). -/
def transferLatches (x : Die) : Die :=
  { x with
    regBits := x.pendLatch.foldl (fun m e => match e.2 with
      | some v => m.set false e.1 v.1
      | none => m) x.regBits
    pendLatch := [] }

/-- B0 of cycle `c` (R20): the latch transfer, and the boundary copy; regions that are ready rejoin (R296). -/
def boundaryB0 (s : State) (d : Fin 4) (c : Nat) : State :=
  let s := onDie s d (fun x =>
    let x := transferLatches x
    { x with copies := putCopy x.copies (takeCopy s x (c + 1)) })
  rejoinB0 s d c

/-! ### Host writes to register bits (R38, R39, R206, R210) -/

/-- SPACE of a design address (R205). -/
def spaceOf (a : Nat) : Nat := bitsOf a 60 4

/-- OFFSET of a design address (R205). -/
def offsetOf (a : Nat) : Nat := a % 2 ^ 52

/-- The die and position that a virtual tile is bound to (R157). -/
def tilePlace (s : State) (v : Nat) : Option (Fin 4 × Nat) :=
  ((List.range 256).find? (fun i => (s.dies[Fin.ofNat 4 (i / 64)]).tiles.get none (i % 64) = some v)).map
    (fun i => (Fin.ofNat 4 (i / 64), i % 64))

/-- A register bit of the boundary before cycle `nb` written (R39, R210). -/
def setRegBit (s : State) (d : Fin 4) (nb k : Nat) (b : Bool) : State :=
  onDie s d (fun x => onCopy { x with regBits := x.regBits.set false k b } nb
    (fun c => { c with regBits := c.regBits.set false k b }))

/-- Of bytes of register bits written from an offset of SPACE 0 on, those that die `d` holds. -/
def writeRegBytes (s : State) (d : Fin 4) (nb off : Nat) : List Byte → State
  | [] => s
  | b :: bs =>
    let s := match tilePlace s (off / 8192) with
      | some (e, p) => if e = d then (List.range 8).foldl (fun t i =>
          setRegBit t d nb ((p * 32 + off % 8192 / 256) * 2048 + off % 256 * 8 + i) (b.toNat.testBit i)) s else s
      | none => s
    writeRegBytes s d nb (off + 1) bs

/-- The host writes to register bits of die `d` that are applied in cycle `c` (R38, R210). -/
def hostRegBits (s : State) (d : Fin 4) (c : Nat) : State :=
  ((s.design.writes.filter (fun w => w.applied && w.cycle == some c)).flatMap HostStage.reqs).foldl (fun t r =>
    if spaceOf r.address = 0 && bitsOf r.address 52 4 == position t then
      writeRegBytes t d (c + 1) (offsetOf r.address) (slice r.data 0 r.length)
    else t) s

/-- B1 of cycle `c` (R20, R38): the die's WRITEs of the cycle close into the commit queue, and host writes that are applied
in it reach the die's register bits. -/
def boundaryB1 (s : State) (d : Fin 4) (c : Nat) : State :=
  let s := hostRegBits s d c
  { s with mem := { s.mem with writes := s.mem.writes.map (fun w =>
      if w.die = d.val ∧ w.cycle = c then { w with closed := true } else w) } }

/-- B6 of cycle `c` (R20, R69): port-input bits for cycle `c + 1`; they belong to the boundary of `c`. -/
def boundaryB6 (s : State) (d : Fin 4) (c : Nat) : State :=
  let s := clearUnfed (importB6 (presentB6 s d (c + 1)) d c) d
  let s := onDie s d (fun x => onCopy x (c + 1) (fun b => { b with portIn := x.portIn }))
  let fs := portMapFaults s d
  if fs = [] then s else raiseSF s d fs

/-- B8 of cycle `c` (R20, R24): the die's vote, good where no fault has made it bad. -/
def boundaryB8 (s : State) (d : Fin 4) (c : Nat) : State :=
  if (s.run.votes.get none (c * 4 + d)).isSome then s
  else { s with run := { s.run with votes := s.run.votes.set none (c * 4 + d) (some true) } }

/-- The action of boundary step `i` of cycle `c` on die `d` (R20). -/
def boundaryAction (s : State) (d : Fin 4) (c i : Nat) : State :=
  match i with
  | 0 => boundaryB0 s d c
  | 1 => boundaryB1 s d c
  | 2 => outPortsB2 s d c
  | 3 => exportB3 s d c
  | 4 => inPortsB4 s d c
  | 5 => sampleB5 s d c
  | 6 => boundaryB6 s d c
  | 7 => onDie s d (fun x => { x with cycle := (x.cycle + 1) % 2 ^ 64 })
  | 8 => boundaryB8 s d c
  | 9 => onDie s d (fun x => { x with slots := [] })
  | _ => s

/-- The boundary hold of a boundary step (R122). -/
def holdOfStep (i : Nat) : Option BoundaryHold := boundaryHolds.find? (fun h => holdStep h = i)

/-- The source for which a die holds at boundary step `i` of cycle `c` where the hub has taken no decision on the step's
hold (R26, R122): its cause.  Once the decision is taken a hold is announced or there is none (R120), but that no die
executes B0 of cycle `k` before cycle `k - 3` is committed (R26). -/
def holdsAt (s : State) (c i : Nat) : Option Nat :=
  match holdOfStep i with
  | none => none
  | some h =>
    if (decidedTo s h ≤ c && holdCause s h c) || (h = .commitWait && decide (3 ≤ c) && decide (s.run.nextCommit ≤ c - 3))
    then some (holdSource h) else none

/-- Die `d` is in a boundary step that it may execute. -/
def inBoundary (s : State) (d : Fin 4) : Bool := dieRuns s d && decide (stepsS s ≤ stepOf s s.dies[d].sigma)

/-- The boundary step that die `d` is at is executed, once: its hold, or its action. -/
def boundaryStep (s : State) (d : Fin 4) : State :=
  let c := cycleOf s s.dies[d].sigma
  let i := stepOf s s.dies[d].sigma - stepsS s
  if unitDone s d boundaryKey then s
  else
    match holdsAt s c i with
    | some n => raiseSource (freezeDie s d) n
    | none => boundaryAction (onDie s d (fun x => { x with stage := { x.stage with done := x.stage.done ++ [boundaryKey] } })) d c i

/-- BOUNDARY_PHASE (R20): the boundary step that the die is at. -/
def execBoundaryPhase (d : Fin 4) (s : State) : Host.Outcome State Fault Refusal :=
  .next (if inBoundary s d then boundaryStep s d else s)

/-! ### One step of a die -/

/-- Entries older than expected are discarded in every step that a die executes (R105, R108): the channel's entries, and
how many of those discarded no RECV took. -/
def discardOld (x : Die) (k : Nat) (es : List ChanEntry) : List ChanEntry × Nat :=
  let m := tagSpace k
  let e := expectedTag x k x.sigma
  let old := es.filter (fun c => tagOlder m e c.tag)
  (es.filter (fun c => !tagOlder m e c.tag), (old.filter (fun c => !c.taken)).length)

/-- The die examines every channel buffer (R105). -/
def examineChannels (s : State) (d : Fin 4) : State :=
  let x := s.dies[d]
  let rs := x.chans.map (fun e => (e.1, discardOld x e.1 e.2))
  let s := setDie s d { x with chans := rs.filterMap (fun r => if r.2.1 = [] then none else some (r.1, r.2.1)) }
  bumpF s (F.ARY_UNCLAIMED_COUNT d) ((rs.map (fun r => r.2.2)).foldl (· + ·) 0)

/-- The die goes on to its next step; at the end of a cycle its lanes and memory-port registers start afresh (R16, R96,
R181). -/
def advanceDie (s : State) (d : Fin 4) : State :=
  let x := { s.dies[d] with sigma := s.dies[d].sigma + 1, stage := Stage.empty }
  if stepOf s x.sigma = 0 then
    let c := cycleOf s x.sigma
    let past := ((c - 1, x.lanes) :: x.pastLanes.filter (fun e => e.1 + 1 ≠ c)).take 6
    let s := setDie s d { x with lanes := [], pastLanes := past, portAddr := [], portData := [] }
    { s with iso := s.iso.map (fun e => (e.1, match e.2 with
      | some i => if e.1 / 64 = d.val ∧ i.from_ = c then some { i with held := tileLanes x.lanes (e.1 % 64) } else some i
      | none => none)) }
  else setDie s d x

/-- Values that the step puts onto outbound link channels (R107, R422). -/
def linkForwards (s : State) (d sigma : Nat) (fs : List (Nat × CrossEntry × Bool)) : State :=
  fs.foldl (fun t f => if f.2.1.link then linkForward t d f.2.1.chan sigma f.2.2 else t) s

/-- A scheduled step of die `d`: the units that have not executed execute, Schedule Faults and late items come first,
and otherwise the step lands (R55, R72, R73, R102, R105, R111, R126). -/
def scheduledStep (s : State) (d : Fin 4) : State :=
  let f := findStep s d
  if f.sfs ≠ [] || f.late ≠ [] then stopStep s d f
  else
    let sigma := s.dies[d].sigma
    let s := takeLogged (landStep (noteStep s d f) d f.stage f.forwards)
    advanceDie (examineChannels (linkForwards s d sigma f.forwards) d) d

/-- Die `d` in one step period (R17, R121, R127): it freezes where it must, and otherwise executes its step. -/
def stepDie (s : State) (d : Fin 4) : State :=
  if !executing s || s.dies[d].frozen || stepsS s = 0 then s
  else if mustFreeze s d || skewBound s d then freezeHere s d
  else if atStop s d then s
  else
    if stepOf s s.dies[d].sigma < stepsS s then scheduledStep s d
    else
      let t := boundaryStep s d
      if t.dies[d].frozen then t else advanceDie (examineChannels t d) d

end Sys2Proof.Machine
end

