-- ==== Sys2Proof/Machine/Images.lean ====
section
/-! DEFINITION. Images: the bytes of memory windows, the placement of virtual tiles (R206), the snapshot image (R402),
and the Hallmark image with its commit record (R483, R487, R488). -/

namespace Sys2Proof.Machine

/-! ### Windows as images -/

/-- Bytes `off` to `off + len - 1` of a stored memory whose unlisted bytes read as `fill` says, as an image. -/
def storedImage (fill : Nat → Byte) (m : Memory) (off len : Nat) : Memory :=
  (List.range len).filterMap (fun i =>
    let b := Memory.read fill m (off + i)
    if b = 0 then none else some (i, b))

/-- The byte of a key of the HBM store lies within bytes `off` to `off + len - 1` of a window, and is written with them. -/
def winHolds (s : State) (w off len key : Nat) : Bool :=
  match cellOffset s w key with
  | some x => decide (off ≤ x) && decide (x < off + len) && !pcFailed s (key / 2 ^ 30)
  | none => false

/-- Bytes `off` to `off + len - 1` of window `w` at 0, in every copy. -/
def winClear (s : State) (w off len : Nat) : State :=
  { s with
    mem := { s.mem with hbm := s.mem.hbm.filter (fun c => !winHolds s w off len c.1) }
    hbm := { s.hbm with marks := s.hbm.marks.filter (fun m =>
      !winHolds s w off len (hbmKey (m.1 / 2 ^ 27) (m.1 % 2 ^ 27 * 8))) } }

/-- An image of `len` bytes stored in window `w` from offset `off` on. -/
def winStore (s : State) (w off len : Nat) (m : Memory) : State :=
  m.foldl (fun t c => if c.1 < len then winWrite t w (off + c.1) c.2 else t) (winClear s w off len)

/-- A list of bytes as an image. -/
def imageOf (bs : List Byte) : Memory := Memory.writeBytes zeroFill [] 0 bs

/-- An image moved up by `off`. -/
def shiftImage (off : Nat) (m : Memory) : Memory := m.map (fun c => (off + c.1, c.2))

/-- Bit `b` of byte `a` of an image set. -/
def setImageBit (m : Memory) (a b : Nat) : Memory :=
  Memory.write zeroFill m a (BitVec.ofNat 8 (setBit (Memory.read zeroFill m a).toNat b true))

/-! ### Virtual tiles (R206) -/

/-- The virtual tile at a place. -/
def tileAt (s : State) (d : Fin 4) (p : Nat) : Option Nat := s.dies[d].tiles.get none p

/-- Number of virtual tiles of the installed Ingot. -/
def tileCount (s : State) : Nat := match s.ingot with | some g => g.nV | none => 0

/-- The copy of the boundary before cycle `nb` of a die; what the die holds where none is kept. -/
def boundaryOf (s : State) (d : Fin 4) (nb : Nat) : BoundaryCopy :=
  match copyOf s.dies[d] nb with
  | some c => c
  | none => takeCopy s s.dies[d] nb

/-- The memory-read bits of the boundary before cycle `nb` once every READ of an earlier cycle has returned (R482). -/
def mrdComplete (s : State) (d : Fin 4) (nb : Nat) : SMap Mrd :=
  let m := logAgain s d nb (boundaryOf s d nb).mrd
  (s.mem.reads.filter (fun r => r.die = d.val ∧ r.cycle < nb)).foldl (fun m r =>
    applyReturn { r with data := some (r.data.getD (readBits s r)) } m) m

/-- Bits of a cluster store laid into an image: key (p * 32 + n) * size + i of die `d` goes to bit i of the bytes of its
tile and cluster. -/
def layBits (s : State) (d : Fin 4) (size tileBytes base clusterBytes : Nat) (m : Memory) (k : Nat) : Memory :=
  match tileAt s d (k / size / 32) with
  | some v => setImageBit m (v * tileBytes + base + k / size % 32 * clusterBytes + k % size / 8) (k % size % 8)
  | none => m

/-- Keys of a store of bits that read 1. -/
def onKeys (m : SMap Bool) : List Nat := m.filterMap (fun e => if e.2 then some e.1 else none)

/-- Register bits of the boundary before cycle `nb`, as SPACE 0 lays them out (R206). -/
def registerImage (s : State) (nb : Nat) : Memory :=
  dieList.foldl (fun m d => (onKeys (boundaryOf s d nb).regBits).foldl (layBits s d 2048 8192 0 256) m) []

/-- Port-input bits of the boundary before cycle `nb`, as SPACE 4 lays them out. -/
def portImage (s : State) (nb : Nat) : Memory :=
  dieList.foldl (fun m d => (onKeys (boundaryOf s d nb).portIn).foldl (layBits s d 256 1024 0 32) m) []

/-- Tile RAM as it stands, as SPACE 1 lays it out. -/
def tileRamImage (s : State) : Memory :=
  s.mem.tram.foldl (fun m c =>
    let place := c.1 / 524288
    match tileAt s (Fin.ofNat 4 (place / 64)) (place % 64) with
    | some v => Memory.write zeroFill m (v * 524288 + c.1 % 524288) c.2
    | none => m) []

/-! ### Snapshot images (R402) -/

/-- Bytes of a snapshot image. -/
def snapshotLength (s : State) (tileRam : Bool) : Nat :=
  0x1000 + tileCount s * 8192 + (if tileRam then tileCount s * 524288 else 0)

/-- IDENTITY of the installed Ingot, 48 bytes. -/
def ingotIdentity (s : State) : List Byte := match s.ingot with | some g => slice g.identity 0 48 | none => []

/-- MACHINE_ID of the installed Ingot, 16 bytes. -/
def ingotMachineId (s : State) : List Byte := match s.ingot with | some g => slice g.machineId 0 16 | none => []

/-- The snapshot image of the boundary before cycle `nb` (R402). -/
def snapshotImage (s : State) (nb : Nat) (tileRam : Bool) : Memory :=
  let head := leBytes 4 0x50534B56 ++ leBytes 2 0x0100 ++ leBytes 1 (b2n tileRam) ++ leBytes 1 (position s) ++
    leBytes 8 (boundaryResult nb) ++ leBytes 2 (tileCount s) ++ leBytes 6 0 ++ ingotIdentity s
  imageOf head ++ shiftImage 0x1000 (registerImage s nb) ++
    (if tileRam then shiftImage (0x1000 + tileCount s * 8192) (tileRamImage s) else [])

/-! ### Hallmark slots (R483, R488) -/

/-- The Hallmark window (R483). -/
def hmWindow (s : State) : Nat := getF s F.FLT_HM_WINDOW_WINDOW

/-- The Hallmark window is enabled with owner 2 and mirrored (R483, R484). -/
def hmReady (s : State) : Bool := winOwned s (hmWindow s) 2 && winMirror s (hmWindow s)

/-- Bytes of a Hallmark slot (R483). -/
def slotBytes (s : State) : Nat := (winSize s (hmWindow s) - 2 ^ 31) / 2 / 65536 * 65536

/-- Offset of slot 0 (A) or 1 (B) in the Hallmark window (R483). -/
def slotOffset (s : State) (i : Nat) : Nat := 2 ^ 31 + i * slotBytes s

/-- The first 148 bytes of a slot's commit record. -/
def slotRecord (s : State) (i : Nat) : List Byte := winReadBytes s (hmWindow s) (slotOffset s i) 148

/-- A commit record is valid (R488). -/
def recordValid (bs : List Byte) : Bool :=
  leAt bs 0 4 == 0x43484B56 && leAt bs 144 4 == crc32 (slice bs 4 140)

/-- SEQ of a slot's valid record; 0 where it has none. -/
def slotSeq (s : State) (i : Nat) : Nat := if recordValid (slotRecord s i) then leAt (slotRecord s i) 8 8 else 0

/-- The commit record of an image (R488). -/
def commitRecord (s : State) (seq nb : Nat) (image : Memory) (length : Nat) : List Byte :=
  let sealed_ := match s.ingot with | some g => g.isSealed | none => false
  let body := leBytes 2 0x0100 ++ leBytes 2 (b2n sealed_) ++ leBytes 8 seq ++ leBytes 8 (boundaryResult nb) ++
    leBytes 8 length ++ slice (Config.sha384 image length) 0 48 ++ ingotIdentity s ++ ingotMachineId s
  leBytes 4 0x43484B56 ++ body ++ leBytes 4 (crc32 body)

/-- FLT_HM_SLOT and FLT_HM_CYCLE show a slot's record (R488). -/
def showSlot (s : State) (i : Nat) : State :=
  let r := slotRecord s i
  let ok := recordValid r
  let cy := if ok then leAt r 16 8 else 0
  if i = 0 then
    let s := setF (setB s F.FLT_HM_SLOT_A_VALID ok) F.FLT_HM_SLOT_A_SEQ (slotSeq s i)
    set64 s F.FLT_HM_CYCLE_A_LO_CYCLE F.FLT_HM_CYCLE_A_HI_CYCLE cy
  else
    let s := setF (setB s F.FLT_HM_SLOT_B_VALID ok) F.FLT_HM_SLOT_B_SEQ (slotSeq s i)
    set64 s F.FLT_HM_CYCLE_B_LO_CYCLE F.FLT_HM_CYCLE_B_HI_CYCLE cy

/-- WRITING of a slot. -/
def slotWriting (i : Nat) : Fld := if i = 0 then F.FLT_HM_SLOT_A_WRITING else F.FLT_HM_SLOT_B_WRITING

/-! ### Hallmark images (R482, R487) -/

/-- A section of a Hallmark image: KIND, INDEX, length, and contents by offset in the section. -/
structure Section_ where
  kind : Nat
  index : Nat
  length : Nat
  data : Memory
  deriving DecidableEq, Repr

/-- The next multiple of 4,096 bytes. -/
def pageUp (n : Nat) : Nat := (n + 4095) / 4096 * 4096

/-- A receive-side lane of die `d` as the canonical binding names it (R98, R487). -/
def canonicalLane (g : Ingot) (d lane : Nat) : Nat :=
  if lane < 0x2C00 then
    let src := (d + 1 + (lane - 0x2000) / 1024) % 4
    0x2000 + (groupOf g src + 3 + 4 - groupOf g d) % 4 * 1024 + lane % 1024
  else lane

/-- The carry-over entries of the boundary before cycle `nb` of a die: those in its copy, and those still in flight. -/
def carryOver (s : State) (d : Fin 4) (nb : Nat) : List (Nat × ChanEntry) :=
  let x := s.dies[d]
  ((boundaryOf s d nb).carry.flatMap (fun e => e.2.map (fun c => (e.1, c)))) ++
    (s.mem.flights.filter (fun f => f.dst = d.val ∧ carriesOver s x f.chan nb f.sent)).map
      (fun f => (f.chan, ⟨f.tag, f.val, true, false, f.sent⟩))

/-- The sum of the declared delays of a die's enabled inbound channels (R487). -/
def delaySum (x : Die) : Nat := ((onKeys x.enables).map (chanDelay x)).foldl (· + ·) 0

/-- The carry-over section of die group `grp` (R487). -/
def carrySection (s : State) (g : Ingot) (nb grp : Nat) : Section_ :=
  let d : Fin 4 := Fin.ofNat 4 (bindDie g grp)
  let es := carryOver s d nb
  let bytes := leBytes 4 es.length ++ leBytes 12 0 ++ es.flatMap (fun e =>
    leBytes 2 (canonicalLane g d (0x2000 + e.1)) ++ leBytes 2 e.2.tag ++ leBytes 1 (b2n e.2.val) ++ leBytes 3 0)
  ⟨2, grp, pageUp (16 + 8 * delaySum s.dies[d]), imageOf bytes⟩

/-- The tile-state section (R487). -/
def tileSection (s : State) (nb : Nat) : Section_ :=
  let m := dieList.foldl (fun m d =>
    let b := boundaryOf s d nb
    let r := mrdComplete s d nb
    let m := (onKeys b.regBits).foldl (layBits s d 2048 13312 0 256) m
    let m := (onKeys b.portIn).foldl (layBits s d 256 13312 8192 32) m
    let m := (r.filterMap (fun e => if e.2.val then some e.1 else none)).foldl (layBits s d 512 13312 9216 64) m
    (r.filterMap (fun e => if e.2.present then some e.1 else none)).foldl (layBits s d 512 13312 11264 64) m) []
  ⟨1, 0, tileCount s * 13312, m⟩

/-- The channel-context section (R487). -/
def contextSection (s : State) : Section_ :=
  let rec' := fun (c : Nat) (x : ChanCtx) =>
    leBytes 4 c ++ (if x.state = 0 then leBytes 68 0 else leBytes 1 1 ++ leBytes 3 0 ++ ctxBytes x)
  ⟨6, 0, 262144 * 72, (List.range 262144).foldl (fun m c =>
    Memory.writeBytes zeroFill m (72 * c) (rec' c (chanCtx s c))) []⟩

/-- The Hedgerow section: the shadow words of R460 of the fabric as it stands (R482, R487). -/
def fabricSection (s : State) : Section_ :=
  let m := (List.range 32768).foldl (fun m i =>
    if ffValue s (i / 128) (i % 128 / 2) (i % 2) then setImageBit m (i / 8) (i % 8) else m) []
  let m := (onKeys s.hgr.ram).foldl (fun m k => setImageBit m (4096 + k / 8) (k % 8)) m
  ⟨7, 0, 593920, m⟩

/-- The sections of a Hallmark of the boundary before cycle `nb`, but for the fabric (R487). -/
def hallmarkSections (s : State) (nb : Nat) (windows : List Nat) : List Section_ :=
  match s.ingot with
  | none => []
  | some g =>
    [tileSection s nb] ++ (List.range g.groups.length).map (carrySection s g nb) ++
      [⟨3, 0, tileCount s * 524288, tileRamImage s⟩] ++
      (List.range g.memWins.length).map (fun i =>
        let w := g.windows.getD i i
        ⟨4, i, winSize s w, winImage s w⟩) ++
      windows.map (fun w => ⟨5, w, winSize s w, winImage s w⟩) ++ [contextSection s]

/-- Sections with their offsets, from `off` on (R487). -/
def placeSections (off : Nat) : List Section_ → List (Nat × Section_)
  | [] => []
  | x :: xs => (off, x) :: placeSections (pageUp (off + x.length)) xs

/-- The image of a list of sections, and its length (R487). -/
def hallmarkImage (s : State) (nb : Nat) (xs : List Section_) : Memory × Nat :=
  let ps := placeSections 0x10000 xs
  let variants := match s.ingot with | some g => g.variants | none => []
  let head := leBytes 4 0x4D484B56 ++ leBytes 2 0x0100 ++ leBytes 1 (position s) ++ leBytes 1 (b2n s.hgr.loaded) ++
    leBytes 8 (boundaryResult nb) ++ ingotIdentity s ++ ingotMachineId s ++
    (List.range 64).flatMap (fun i => slice (variants.getD i []) 0 16) ++
    ps.flatMap (fun p => leBytes 1 p.2.kind ++ leBytes 1 p.2.index ++ leBytes 2 0 ++ leBytes 6 p.1 ++ leBytes 6 p.2.length)
  (imageOf head ++ ps.flatMap (fun p => shiftImage p.1 p.2.data),
    match ps.getLast? with | some p => p.1 + p.2.length | none => 0x10000)

/-- The length of the image of a Hallmark that holds the stream FIFO windows of a list (R484, R487). -/
def hallmarkLength (s : State) (windows : List Nat) : Nat :=
  match s.ingot with
  | none => 0
  | some g =>
    let ls := [tileCount s * 13312] ++
      (List.range g.groups.length).map (fun grp => pageUp (16 + 8 * delaySum s.dies[Fin.ofNat 4 (bindDie g grp)])) ++
      [tileCount s * 524288] ++ (List.range g.memWins.length).map (fun i => winSize s (g.windows.getD i i)) ++
      windows.map (winSize s) ++ [262144 * 72] ++ (if s.hgr.loaded then [593920] else [])
    ls.foldl (fun a l => pageUp a + l) 0x10000

end Sys2Proof.Machine
end

