-- ==== Sys2Proof/Machine/Snapshot.lean ====
section
/-! DEFINITION. CAPTURE and FETCH (R399 to R403), Hallmarks and their restore (R482 to R491), and the order in which
run-control descriptors are accepted (R31, R622). -/

namespace Sys2Proof.Machine

/-- The state with run control changed. -/
def onRun (s : State) (g : RunCtl → RunCtl) : State := { s with run := g s.run }

/-- A run-control descriptor of the owning session (R31, R622): any other session's completes with WRONG_OWNER; one that
comes while a RESTORE runs, or where `alone` while a HALLMARK runs, or behind one that waits, waits (R312, R622). -/
def runGate (d : Desc) (i : Instr) (alone : Bool) (k : State → State) (s : State) : State :=
  if !isOwner s d then complete s d stWrongOwner 0
  else if s.run.restore.isSome || s.run.waiting ≠ [] || (alone && s.run.hallmark.isSome) then
    onRun s (fun r => { r with waiting := r.waiting ++ [i] })
  else k s

/-- A run-control descriptor that has waited is accepted and judged (R31, R622). -/
def runNow (d : Desc) (k : State → State) (s : State) : State :=
  if isOwner s d then k s else complete s d stWrongOwner 0

/-- Some region is isolated or ready (R297). -/
def regionsOpen (s : State) : Bool := (List.range 64).any (fun n => getF s (F.LDR_REGION_STATE n) != 0)

/-- The machine rests at a visible boundary: STOPPED or FAULTED. -/
def restsVisible (s : State) : Bool := emState s == 4 || emState s == 5

/-! ### CAPTURE (R400 to R402) -/

/-- The capture that runs takes the boundary before cycle `nb`, where it has none yet. -/
def takeCapture (s : State) (nb : Nat) : State :=
  match s.asy.capture with
  | some c =>
    if c.next.isNone then
      let s := winStore s c.window c.offset (snapshotLength s c.tileRam) (snapshotImage s nb c.tileRam)
      onAsy s (fun a => { a with capture := some { c with next := some nb } })
    else s
  | none => s

/-- A range of the Hallmark window meets the view reserve or a slot (R400). -/
def meetsHallmark (s : State) (w off : Nat) : Bool :=
  w == hmWindow s && decide (off < 2 ^ 31 + 2 * slotBytes s)

/-- The status for which CAPTURE fails, if it does (R400). -/
def captureStatus (s : State) (tileRam : Bool) (w off : Nat) : Option Nat :=
  if !(executing s || restsVisible s) || regionsOpen s then some stWrongState
  else if sealedNow s then some stSealed
  else if off % 4096 ≠ 0 ∨ !winOwned s w 2 ∨ winSize s w < off + snapshotLength s tileRam ∨ meetsHallmark s w off then
    some stBadAddress
  else none

/-- CAPTURE accepted (R401); in a machine it travels to every device. -/
def acceptCapture (s : State) (c : CaptureReq) : State :=
  match captureStatus s c.tileRam c.window c.offset with
  | some st => complete s c.desc st 0
  | none =>
    let s := (otherPositions s).foldl sendMgmt (onAsy s (fun a => { a with capture := some { c with waits := otherPositions s } }))
    if restsVisible s then takeCapture s s.run.nextCommit else s

/-- CAPTURE as it comes (R399, R401). -/
def captureBody (d : Desc) (function : Nat) (tileRam : Bool) (w off : Nat) (s : State) : State :=
  if 2 ≤ function then complete s d stBadDescriptor 0
  else
    let c : CaptureReq := ⟨d, tileRam, w, off, none, []⟩
    if s.asy.capture.isSome then onAsy s (fun a => { a with captures := a.captures ++ [c] }) else acceptCapture s c

/-- SNAPSHOT CAPTURE (R400). -/
def execCapture (d : Desc) (function : Byte) (tileRam : Bool) (w : Fin 16) (off : DWord) (s : State) :
    Host.Outcome State Fault Refusal :=
  let i := Instr.capture d function tileRam w off
  .next (startDesc d i (ungroupedRun d (runGate d i false (captureBody d function.toNat tileRam w off.toNat))) s)

/-- CAPTUREs that wait are accepted in order, until one runs. -/
def nextCapture (s : State) : Nat → State
  | 0 => s
  | n + 1 =>
    match s.asy.capture, s.asy.captures with
    | none, c :: cs => nextCapture (acceptCapture (onAsy s (fun a => { a with captures := cs })) c) n
    | _, _ => s

/-- CAPTURE_COMPLETE (R401): the image is written, on every device of a machine. -/
def execCaptureComplete (s : State) : Host.Outcome State Fault Refusal :=
  .next (
    match s.asy.capture with
    | some ⟨d, _, _, _, some nb, []⟩ =>
      let s := set64 s F.ASY_SNAP_LAST_LO_CYCLE F.ASY_SNAP_LAST_HI_CYCLE (boundaryResult nb)
      let s := complete (onAsy s (fun a => { a with capture := none })) d stOK (boundaryResult nb)
      nextCapture s s.asy.captures.length
    | _ => s)

/-! ### FETCH (R403) -/

/-- The range meets a slot whose valid record is SEALED, unless the loaded Ingot is its own and unsealed (R403). -/
def fetchSealed (s : State) (w off len : Nat) : Bool :=
  sealedNow s || (List.range 2).any (fun i =>
    let r := slotRecord s i
    w == hmWindow s && decide (off < slotOffset s i + slotBytes s) && decide (slotOffset s i < off + len) &&
      recordValid r && (leAt r 6 2).testBit 0 && !(slice r 80 48 == ingotIdentity s && s.ingot.isSome))

/-- FETCH (R399, R403). -/
def fetchBody (d : Desc) (function source : Nat) (w off addr len : Nat) (hostOk : Bool) (s : State) : State :=
  if 2 ≤ function ∨ 1 < source then complete s d stBadDescriptor 0
  else if getB s F.LDR_OWNER_VALID && !isOwner s d then complete s d stWrongOwner 0
  else if !winOwned s w (source + 1) ∨ winSize s w < off + len ∨ off % 8 ≠ 0 ∨ len % 8 ≠ 0 ∨ 2 ^ 32 < len ∨ addr % 8 ≠ 0 then
    complete s d stBadAddress 0
  else if source = 1 && fetchSealed s w off len then complete s d stSealed 0
  else
    let t := (winServe s w off len).1
    if hostOk then complete (emit t (.hostImage addr len (winSlice s w off len))) d stOK 0 else complete t d stHostFault 0

/-- SNAPSHOT FETCH (R403). -/
def execFetch (d : Desc) (function source : Byte) (w : Fin 16) (off addr len : DWord) (hostOk : Bool) (s : State) :
    Host.Outcome State Fault Refusal :=
  .next (startDesc d (.fetch d function source w off addr len hostOk)
    (ungrouped d (fetchBody d function.toNat source.toNat w off.toNat addr.toNat len.toNat hostOk)) s)

/-! ### HALLMARK (R484, R485) -/

/-- What the reads of the windows that a Hallmark records meet in the HBM (R229, R230). -/
def hallmarkMeets (s : State) (windows : List Nat) : State :=
  ((match s.ingot with | some g => g.windows | none => []) ++ windows).foldl (fun t w => (winServe t w 0 (winSize t w)).1) s

/-- A Hallmark to a host buffer opens the read view of its boundary or shares it; none where a view of another boundary is
open (R208, R485). -/
def hallmarkView (s : State) (nb : Nat) : Option State :=
  let with_ := fun (v : View) => { s with design := { s.design with view := some v } }
  match s.design.view with
  | none => some (setB (with_ ⟨nb, [], [], true⟩) F.ARY_VIEW_STATUS_OPEN (executing s))
  | some v => if v.next = nb then some (with_ { v with exports := true }) else none

/-- The Hallmark that runs takes the boundary before cycle `nb`, where it has none yet; the fabric follows. -/
def takeHallmark (s : State) (nb : Nat) : State :=
  match s.run.hallmark with
  | some h =>
    if h.next.isNone && h.checks.isNone then
      match if h.dest = 2 then hallmarkView s nb else some s with
      | none => s
      | some s =>
      let fab : List Section_ := if s.hgr.loaded then [⟨7, 0, 593920, []⟩] else []
      let m := hallmarkImage s nb (hallmarkSections s nb h.windows ++ fab)
      onRun (hallmarkMeets s h.windows) (fun r => { r with hallmark := some { h with
        next := some nb, image := m.1, length := m.2, fabric := s.hgr.loaded } })
    else s
  | none => s

/-- The fabric's section of the Hallmark that runs, at the first edge of UCLK0 after its boundary (R482). -/
def hallmarkFabric (s : State) : State :=
  match s.run.hallmark with
  | some h =>
    if h.fabric then
      onRun s (fun r => { r with hallmark := some { h with
        image := h.image ++ shiftImage (h.length - 593920) (fabricSection s).data, fabric := false } })
    else s
  | none => s

/-- A rising edge of a user clock (R441); an edge of UCLK0 also takes the fabric for a Hallmark (R482). -/
def execUserClockEdge (k : Fin 8) (inputs : FabricInputs) (s : State) : Host.Outcome State Fault Refusal :=
  let t := uclkEdge s k inputs
  .next (if k = 0 && getB s (F.HGR_UCLK_RUNNING 0) then hallmarkFabric t else t)

/-- Enabled windows of owner 3 (R482). -/
def fifoWindows (s : State) : List Nat := (List.range 16).filter (fun w => winOwned s w 3)

/-- The status for which HALLMARK fails, if it does (R484). -/
def hallmarkStatus (s : State) (dest addr len : Nat) : Option Nat :=
  let size := hallmarkLength s (fifoWindows s) + 4096
  if !(executing s || restsVisible s) || regionsOpen s then some stWrongState
  else if dest = 2 ∧ sealedNow s then some stSealed
  else if 2 < dest ∨ (dest = 2 ∧ multi s) ∨ !hmReady s ∨ addr % 4096 ≠ 0 then some stBadAddress
  else if (if dest = 2 then len else slotBytes s) < size then some stTooLarge
  else none

/-- A slot's commit record is overwritten with zeros (R485, R489). -/
def voidSlot (s : State) (i : Nat) : State := showSlot (winClear s (hmWindow s) (slotOffset s i) 4096) i

/-- A HALLMARK begins (R485, R486). -/
def beginHallmark (d : Desc) (dest : Nat) (b : HostBuffer) (seq : Option Nat) (s : State) : State :=
  let s := if dest < 2 then setB (voidSlot s dest) (slotWriting dest) true else s
  let s := setF (setB s F.FLT_STATUS_HM_BUSY true) F.FLT_HM_PROGRESS_DONE 0
  let q : HallmarkReq := ⟨d, dest, b, fifoWindows s, none, [], 0, false, none, otherPositions s, seq⟩
  let s := onRun s (fun r => { r with hallmark := some q })
  let s := (otherPositions s).foldl sendMgmt s
  if restsVisible s then takeHallmark s s.run.nextCommit else s

/-- The highest SEQ of the valid records of this device (R486). -/
def slotSeqMax (s : State) : Nat := max (slotSeq s 0) (slotSeq s 1)

/-- The HALLMARK of a machine goes on once every device has said what it finds (R486): it completes with the status of the
lowest position that finds one, or begins with one SEQ for all. -/
def judgeHallmark (s : State) : State :=
  match s.run.hallmark with
  | some h => match h.checks with
    | some cs =>
      if cs.length = machineSize s then
        match (List.range 16).findSome? (fun p => (cs.find? (fun c => c.1 = p && c.2.1 ≠ stOK)).map (fun c => c.2.1)) with
        | some st => complete (onRun s (fun r => { r with hallmark := none })) h.desc st 0
        | none => beginHallmark h.desc h.dest h.buffer (some ((cs.map (fun c => c.2.2)).foldl max 0 + 1)) s
      else s
    | none => s
  | none => s

/-- HALLMARK accepted (R484, R485); in a machine every device judges it first (R486). -/
def hallmarkBody (d : Desc) (dest : Nat) (b : HostBuffer) (len : Nat) (s : State) : State :=
  if multi s then
    let own := (position s, (hallmarkStatus s dest b.address.toNat len).getD stOK, slotSeqMax s)
    let s := onRun s (fun r => { r with hallmark := some ⟨d, dest, b, [], none, [], 0, false, some [own], [], none⟩ })
    judgeHallmark ((otherPositions s).foldl sendMgmt s)
  else match hallmarkStatus s dest b.address.toNat len with
    | some st => complete s d st 0
    | none => beginHallmark d dest b none s

/-- HALLMARK (R484). -/
def execHallmark (d : Desc) (dest : Byte) (b : HostBuffer) (len : DWord) (s : State) : Host.Outcome State Fault Refusal :=
  let i := Instr.hallmark d dest b len
  .next (startDesc d i (ungroupedRun d (runGate d i true (hallmarkBody d dest.toNat b len.toNat))) s)

/-! ### RESTORE (R489, R490) -/

/-- An entry of an image's section table (R487): kind, index, offset, length. -/
def sectionEntry (m : Memory) (i : Nat) : Nat × Nat × Nat × Nat :=
  let bs := Memory.readBytes zeroFill m (0x450 + 16 * i) 16
  (leAt bs 0 1, leAt bs 1 1, leAt bs 4 6, leAt bs 10 6)

/-- The contents of a section of an image. -/
def sectionData (m : Memory) (kind index : Nat) : Memory :=
  match (List.range 48).find? (fun i => (sectionEntry m i).1 = kind ∧ (sectionEntry m i).2.1 = index) with
  | some i => imageRange m (sectionEntry m i).2.2.1 (sectionEntry m i).2.2.2
  | none => []

/-- The status with its reason for which RESTORE fails its first checks, if it does (R489). -/
def restoreStatus (s : State) (source addr len : Nat) : Option Nat :=
  if !(emState s == 1 || restsVisible s) || regionsOpen s then some stWrongState
  else if 2 < source ∨ !hmReady s ∨ (source = 2 ∧ (addr % 4096 ≠ 0 ∨ multi s)) then some stBadAddress
  else if source = 2 ∧ sealedNow s then some stSealed
  else if source = 2 ∧ slotBytes s < len then some stTooLarge
  else none

/-- The reason for which a slot cannot be restored, if there is one (R489). -/
def restoreReason (s : State) (slot : Nat) (image : Memory) : Option Nat :=
  let r := slotRecord s slot
  let len := leAt r 24 8
  let variants := match s.ingot with | some g => g.variants | none => []
  if !recordValid r ∨ slotBytes s < 4096 + len then some 1
  else if slice (Config.sha384 image len) 0 48 ≠ slice r 32 48 then some 2
  else if slice r 80 48 ≠ ingotIdentity s then some 3
  else if (List.range 64).any (fun i => Memory.readBytes zeroFill image (0x50 + 16 * i) 16 ≠ slice (variants.getD i []) 0 16) then some 4
  else if s.chn.ctxs.any (fun e => e.2.state ≠ 0) then some 5
  else none

/-- The image of a slot passes its checks, and its restore begins; in a machine every device reports its slot (R489). -/
def restoreSlot (d : Desc) (slot : Nat) (s : State) : State :=
  let n := leAt (slotRecord s slot) 24 8
  let image := winSlice s (hmWindow s) (slotOffset s slot + 4096) n
  let reason := restoreReason s slot image
  let s := (winServe s (hmWindow s) (slotOffset s slot) (4096 + n)).1
  match reason with
  | some r => complete s d stWrongState r
  | none =>
    (otherPositions s).foldl sendMgmt (onRun (setB s F.FLT_STATUS_RESTORING true) (fun r => { r with
      restore := some ⟨d, image, leAt (slotRecord s slot) 16 8, leAt (slotRecord s slot) 8 8, slot, otherPositions s⟩ }))

/-- RESTORE accepted (R489): the buffer of SOURCE 2 is copied into slot B first; a read of it that fails leaves slot B without
a valid record (R319). -/
def restoreBody (d : Desc) (source addr len : Nat) (buffer : Option (List Byte)) (s : State) : State :=
  match restoreStatus s source addr len with
  | some st => complete s d st 0
  | none =>
    if source = 2 then
      match buffer with
      | some bs =>
        restoreSlot d 1 (showSlot (winStore (voidSlot s 1) (hmWindow s) (slotOffset s 1) len (imageOf (bs.take len))) 1)
      | none => complete (voidSlot s 1) d stHostFault 0
    else restoreSlot d (if source = 0 then 0 else 1) s

/-- RESTORE (R489). -/
def execRestore (d : Desc) (source : Byte) (addr len : DWord) (image : Option (List Byte)) (s : State) :
    Host.Outcome State Fault Refusal :=
  let i := Instr.restore d source addr len image
  .next (startDesc d i (ungroupedRun d (runGate d i true (restoreBody d source.toNat addr.toNat len.toNat image))) s)

/-- Bits that read 1 in a part of each tile's record of the tile-state section: cluster store keys of die `d`. -/
def tileBits (s : State) (m : Memory) (d : Fin 4) (base clusterBytes size : Nat) : List Nat :=
  m.flatMap (fun c =>
    let q := c.1 % 13312
    match tilePlace s (c.1 / 13312) with
    | some (e, p) =>
      if e = d ∧ base ≤ q ∧ q < base + 32 * clusterBytes then
        (List.range 8).filterMap (fun b => if c.2.toNat.testBit b
          then some ((p * 32 + (q - base) / clusterBytes) * size + (q - base) % clusterBytes * 8 + b) else none)
      else []
    | none => [])

/-- A store of bits with the keys of a list at 1. -/
def bitStore (ks : List Nat) : SMap Bool := ks.foldl (fun m k => m.set false k true) []

/-- The carry-over entries that a section records for die `d`, as they are bound now (R487, R490). -/
def restoredCarry (s : State) (g : Ingot) (m : Memory) (d : Fin 4) (nb : Nat) : SMap (List ChanEntry) :=
  let bs := fun (a n : Nat) => leNat (Memory.readBytes zeroFill m a n)
  (List.range (bs 0 4)).foldl (fun acc i =>
    let a := 16 + 8 * i
    let k := patchLane g d (bs a 2) - 0x2000
    let tag := bs (a + 2) 2
    let n := tagSpace k
    let last := nb * cycleSteps s - 1
    let sent := last - (last + n - tag % n) % n
    acc.modify [] k (· ++ [⟨tag, (bs (a + 4) 1).testBit 0, true, false, sent⟩])) []

/-- A die as a restore leaves it (R59, R490). -/
def restoredDie (s : State) (image : Memory) (nb : Nat) (d : Fin 4) : Die :=
  let x := s.dies[d]
  let t := sectionData image 1 0
  let present := tileBits s t d 11264 64 512
  let vals := tileBits s t d 9216 64 512
  let mrd := present.foldl (fun m k => SMap.set ⟨false, false, none⟩ m k ⟨vals.contains k, true, none⟩) []
  let carry := match s.ingot with
    | some g => restoredCarry s g (sectionData image 2 (groupOf g d)) d nb
    | none => []
  let x := { x with
    sigma := nb * cycleSteps s, cycle := nb, frozen := false, freezeAt := none, faulted := false, late := [], window := [],
    regBits := bitStore (tileBits s t d 0 256 2048), pendLatch := [], slots := [], mrd := mrd,
    portIn := bitStore (tileBits s t d 8192 32 256), lanes := [], portAddr := [], portData := [], chans := carry,
    stage := Stage.empty, ecc := x.ecc.filter (fun e => e.1 / 2 ^ 48 ≠ 3) }
  { x with copies := [⟨nb, x.regBits, x.mrd, x.portIn, carry⟩] }

/-- A recorded channel comes back (R490). -/
def restoreChannel (d : Desc) (m : Memory) (s : State) (i : Nat) : State :=
  let bs := Memory.readBytes zeroFill m (72 * i) 72
  if (leAt bs 4 1).testBit 0 then
    let c := leAt bs 0 4
    let at_ := fun (o n : Nat) => leAt bs (8 + o) n
    let w := at_ 0 4
    let s := if (chanCtx s c).state = 0 then wrapF s F.CHN_OPEN_COUNT_COUNT 1 else s
    setCtx s c { ChanCtx.free with
      gen := ((chanCtx s c).gen + 1) % 64, kind := bitsOf w 24 2, priority := bitsOf w 21 3, state := 1,
      overrun := w.testBit 17, sessionGen := d.sgen.toNat, session := d.session, port := at_ 4 2, window := at_ 6 1,
      sizeLog := at_ 7 1, nextSeq := at_ 8 2, releaseSeq := at_ 8 2, timeoutUs := at_ 12 4, fifoOffset := at_ 16 8,
      wr := at_ 24 8, rd := at_ 32 8, alloc := at_ 24 8, values := at_ 48 4, drops := at_ 52 4, runtime := at_ 56 4,
      lastCycle := at_ 60 4 }
  else s

/-- Tile RAM as a section records it. -/
def restoredTileRam (s : State) (m : Memory) : Memory :=
  m.foldl (fun acc c => match tilePlace s (c.1 / 524288) with
    | some (d, p) => Memory.write zeroFill acc ((d * 64 + p) * 524288 + c.1 % 524288) c.2
    | none => acc) []

/-- Tile RAM as a section records it, with nothing in flight. -/
def restoreMem (s : State) (m : Memory) : State :=
  { s with mem := { s.mem with
    tram := restoredTileRam s m, writes := [], reads := [], log := [], stalled := [], flights := [] } }

/-- The fabric as a section records it (R460, R487). -/
def restoreFabric (s : State) (m : Memory) : State :=
  let bits := m.flatMap (fun c => (List.range 8).filterMap (fun b =>
    if c.2.toNat.testBit b then some (8 * c.1 + b) else none))
  onHgr s (fun h => { h with
    ff := bitStore (bits.filter (· < 32768))
    ram := bitStore ((bits.filter (32768 ≤ ·)).map (· - 32768)) })

/-- Every part of the Hallmark written, and the machine STOPPED at its boundary (R490). -/
def applyRestore (s : State) (r : RestoreReq) : State :=
  let nb := (r.cycle + 1) % 2 ^ 64
  let s := { s with dies := Vector.ofFn (fun d => restoredDie s r.image nb d) }
  let s := restoreMem s (sectionData r.image 3 0)
  let s := match s.ingot with
    | some g => (List.range g.memWins.length).foldl (fun t i =>
        let w := g.windows.getD i i
        winStore t w 0 (winSize t w) (sectionData r.image 4 i)) s
    | none => s
  let s := (fifoWindows s).foldl (fun t w =>
    if (List.range 48).any (fun i => (sectionEntry r.image i).1 = 5 ∧ (sectionEntry r.image i).2.1 = w)
    then winStore t w 0 (winSize t w) (sectionData r.image 5 w) else t) s
  let s := (List.range 262144).foldl (restoreChannel r.desc (sectionData r.image 6 0)) s
  let s := if (Memory.read zeroFill r.image 7).toNat.testBit 0 && s.hgr.loaded
    then restoreFabric s (sectionData r.image 7 0) else s
  let s := onRun s (fun c => { c with
    nextCommit := nb, firstCycle := some nb, votes := [], devVotes := [], stopCycles := [], rootCommit := nb, asyStop := none,
    replay := none, sfaults := [], replayed := (0, 0), restore := none })
  let s := asyAbandon s nb
  let s := onAsy s (fun a => { a with stage := [], sampled := [], settled := nb })
  let s := onChn s (fun h => { h with reserved := [], again := [], chosen := [], outDecided := nb, inDecided := nb })
  let s := onHolds s (fun h => { h with commitDecided := nb, writeDecided := nb })
  let s := setF (setB s F.FLT_STATUS_RESTORING false) F.ARY_STATE_STATE 4
  if (session s r.desc.session).state = 0 ∨ (session s r.desc.session).gen ≠ r.desc.sgen.toNat then
    closeChans s (fun x => x.session = r.desc.session.val ∧ x.sessionGen = r.desc.sgen.toNat)
  else s

/-- RESTORE_COMPLETE (R490): in a machine once every device has passed, and then every device restores. -/
def execRestoreComplete (s : State) : Host.Outcome State Fault Refusal :=
  .next (
    match s.run.restore with
    | some r => if r.waits = [] then complete ((otherPositions s).foldl sendMgmt (applyRestore s r)) r.desc stOK r.cycle else s
    | none => s)

end Sys2Proof.Machine
end

