-- ==== Sys2Proof/Machine/DesignState.lean ====
section
/-! DEFINITION. Host access to design state (R35 to R41, R205 to R210, R313, R314): groups, read views, staged writes. -/

namespace Sys2Proof.Machine

/-- The state with host access to design state changed. -/
def onDesign (s : State) (g : DesignHost → DesignHost) : State := { s with design := g s.design }

/-! ### Addresses (R205 to R207) -/

/-- WINDOW of a design address. -/
def windowOf (a : Nat) : Nat := bitsOf a 56 4

/-- DEVICE of a design address. -/
def deviceOf (a : Nat) : Nat := bitsOf a 52 4

/-- Bytes of one virtual tile in a space (R206); 0 where the space is not by tile. -/
def tileStride (space : Nat) : Nat := match space with | 0 => 8192 | 1 => 524288 | 4 => 1024 | _ => 0

/-- The device memory window of an Ingot window index, where the Ingot declares it. -/
def designWindow (s : State) (w : Nat) : Option Nat :=
  match s.ingot with
  | some g => if w < g.memWins.length then some (g.windows.getD w w) else none
  | none => none

/-- Bytes of a space on this device (R206). -/
def spaceBytes (s : State) (space w : Nat) : Nat :=
  match space with
  | 2 => match designWindow s w with | some v => winSize s v | none => 0
  | 3 => 2 ^ 20
  | _ => tileCount s * tileStride space

/-- The request is for this device. -/
def isLocal (s : State) (r : DesignReq) : Bool := deviceOf r.address == position s

/-- A virtual tile that the request touches lies in an isolated or ready region (R297). -/
def touchesRegion (s : State) (r : DesignReq) : Bool :=
  let st := tileStride (spaceOf r.address)
  st != 0 && s.iso.any (fun e => (match e.2 with | some i => getF s (F.LDR_REGION_STATE i.region) != 0 | none => false) &&
    match tileAt s (Fin.ofNat 4 (e.1 / 64)) (e.1 % 64) with
    | some v => decide (v * st < offsetOf r.address + r.length) && decide (offsetOf r.address < (v + 1) * st)
    | none => false)

/-- The request breaks a rule of R207, order 3. -/
def badAddress (s : State) (r : DesignReq) : Bool :=
  let sp := spaceOf r.address
  let w := windowOf r.address
  decide (offsetOf r.address % 8 ≠ 0) || decide (r.length % 8 ≠ 0) || decide (r.buffer % 8 ≠ 0) || decide (4 < sp) ||
    (sp != 2 && w != 0) || (if multi s then decide (machineSize s ≤ deviceOf r.address) else !isLocal s r) ||
    (isLocal s r && ((sp == 2 && (designWindow s w).isNone) ||
      decide (spaceBytes s sp w < offsetOf r.address + r.length) || touchesRegion s r))

/-- The status of a request that cannot be served, orders 1 to 5 of R207. -/
def designStatus (s : State) (r : DesignReq) : Option Nat :=
  if r.write && !isOwner s r.desc then some stWrongOwner
  else if emState s = 0 then some stWrongState
  else if badAddress s r then some stBadAddress
  else if r.write ∧ spaceOf r.address = 4 then some stReadOnly
  else if sealedNow s then some stSealed
  else none

/-! ### Reading (R36, R37, R208) -/

/-- The bytes of a request at the boundary before cycle `nb`, as the device holds them while it is the last committed
boundary. -/
def designData (s : State) (nb : Nat) (r : DesignReq) : Memory :=
  let off := offsetOf r.address
  match spaceOf r.address with
  | 0 => imageRange (registerImage s nb) off r.length
  | 1 => imageRange (tileRamImage s) off r.length
  | 2 => match designWindow s (windowOf r.address) with
    | some w => winSlice s w off r.length
    | none => []
  | 3 => storedImage marchFill s.mem.exr off r.length
  | _ => imageRange (portImage s nb) off r.length

/-- ARY_VIEW_STATUS and the largest count of pages (R37). -/
def showView (s : State) : State :=
  match s.design.view with
  | some v =>
    let s := setF s F.ARY_VIEW_STATUS_PAGES v.pages.length
    setF s F.ARY_VIEW_PAGES_MAX_PAGES (max (getF s F.ARY_VIEW_PAGES_MAX_PAGES) v.pages.length)
  | none => setF (setB (setB s F.ARY_VIEW_STATUS_OPEN false) F.ARY_VIEW_STATUS_FULL false) F.ARY_VIEW_STATUS_PAGES 0

/-- Reads with their data as of the boundary before cycle `nb`; that of another device comes with its answer (R207). -/
def withData (s : State) (nb : Nat) (rs : List DesignReq) : List DesignReq :=
  rs.map (fun r =>
    if r.status = stOK && isLocal s r then { r with image := designData s nb r, result := boundaryResult nb, ready := true }
    else { r with ready := r.status != stOK })

/-- The requests that other devices serve travel to them (R207). -/
def sendAway (s : State) (rs : List DesignReq) : State :=
  (rs.filter (fun r => r.status = stOK && !isLocal s r)).foldl (fun t r => sendMgmt t (deviceOf r.address)) s

/-- Reads `rs` whose data is `rs'` open a view, share one of their boundary, or wait (R36, R208). -/
def openView (s : State) (rs rs' : List DesignReq) : State :=
  let nb := s.run.nextCommit
  match s.design.view with
  | none => setB (onDesign s (fun d => { d with view := some ⟨nb, rs', [], false⟩ })) F.ARY_VIEW_STATUS_OPEN (executing s)
  | some v =>
    if v.next = nb then setB (onDesign s (fun d => { d with view := some { v with reads := v.reads ++ rs' } }))
      F.ARY_VIEW_STATUS_OPEN (executing s || getB s F.ARY_VIEW_STATUS_OPEN)
    else onDesign s (fun d => { d with waiting := d.waiting ++ [rs] })

/-- The view that the reads `rs` would share or open is there for them now. -/
def viewFree (s : State) : Bool :=
  match s.design.view with
  | none => true
  | some v => v.next == s.run.nextCommit

/-- What the reads of design windows meet in the HBM (R229, R230). -/
def meetReads (s : State) (rs : List DesignReq) : State :=
  (rs.filter (fun r => r.status = stOK && isLocal s r && spaceOf r.address = 2)).foldl (fun t r =>
    match designWindow t (windowOf r.address) with
    | some w => (winServe t w (offsetOf r.address) r.length).1
    | none => t) s

/-- A group of reads is served (R36, R208), and what other devices hold is asked of them (R207). -/
def serveReads (s : State) (rs : List DesignReq) : State :=
  openView (if viewFree s then meetReads (sendAway s rs) rs else s) rs (withData s s.run.nextCommit rs)

/-! ### Writing (R38, R39, R210) -/

/-- The words of 64 bits of a request to a memory, as WRITEs of cycle `c` at step count `sigma` that come after every
design WRITE (R210). -/
def hostWrites (s : State) (r : DesignReq) (c sigma : Nat) : List MWrite :=
  let off := offsetOf r.address
  (List.range (r.length / 8)).filterMap (fun i =>
    let v := leAt r.data (8 * i) 8
    let o := off + 8 * i
    match spaceOf r.address with
    | 1 => (tilePlace s (o / 524288)).map (fun q => ⟨q.1, q.2, 16, 0, 0, o % 524288 * 8, 64, v, sigma, c, true⟩)
    | 2 => (designWindow s (windowOf r.address)).map (fun w => ⟨4, 0, 16, 1, w, o * 8, 64, v, sigma, c, true⟩)
    | 3 => some ⟨4, 0, 16, 2, 0, o * 8, 64, v, sigma, c, true⟩
    | _ => none)

/-- A request applied to the visible boundary at once (R39). -/
def applyNow (s : State) (nb : Nat) (r : DesignReq) : State :=
  if isLocal s r then
    if spaceOf r.address = 0 then dieList.foldl (fun t d => writeRegBytes t d nb (offsetOf r.address) (slice r.data 0 r.length)) s
    else (hostWrites s r 0 0).foldl (fun t w => targetWrite t w.die w.tilePos w.target w.window w.bit w.data w.width) s
  else s

/-- A request applied in the boundary phase of cycle `k` (R38, R210): a write of a memory enters its commit queue; each
die writes its register bits in B1. -/
def applyStaged (s : State) (k : Nat) (r : DesignReq) : State :=
  if isLocal s r then
    { s with mem := { s.mem with writes := s.mem.writes ++ hostWrites s r k (k * cycleSteps s + stepsS s + 1) } }
  else s

/-- A request is done: its descriptor completes, or its answer travels to the device that sent it on (R207). -/
def finishReq (s : State) (r : DesignReq) (status result : Nat) : State :=
  match r.origin with
  | none => complete s r.desc status result
  | some p => sendMgmt s p

/-- Every request of a list is done with one status. -/
def finishAll (s : State) (rs : List DesignReq) (status result : Nat) : State :=
  rs.foldl (fun t r => finishReq t r status result) s

/-- A group of writes is done at a boundary: those of this device complete, and those of other devices as they have
answered, or when they do (R207, R314). -/
def finishWrites (s : State) (rs : List DesignReq) (result : Nat) : State :=
  rs.foldl (fun t r =>
    if isLocal t r then finishReq t r stOK result
    else if r.ready then finishReq t r r.status r.result
    else onDesign t (fun d => { d with away := d.away ++ [r] })) s

/-- A group of writes applied to the visible boundary, and its completions (R39). -/
def writeAtRest (s : State) (rs : List DesignReq) : State :=
  let nb := s.run.nextCommit
  finishWrites (rs.foldl (fun t r => applyNow t nb r) s) rs (boundaryResult nb)

/-- A group of writes is staged while the machine executes, and applied at once while it rests (R38, R39); one whose buffer
the device cannot read has no effect (R319). -/
def serveWrites (s : State) (rs : List DesignReq) : State :=
  if 2 ^ 28 < (rs.map DesignReq.length).foldl (· + ·) 0 then finishAll s rs stTooLarge 0
  else
    let s := finishAll s (rs.filter (fun r => r.status ≠ stOK)) stHostFault 0
    let ok := rs.filter (fun r => r.status = stOK)
    let s := sendAway s ok
    if ok = [] then s
    else if executing s then onDesign s (fun d => { d with writes := d.writes ++ [⟨ok, none, false⟩] })
    else writeAtRest s ok

/-! ### Groups (R313, R314) -/

/-- A whole group starts: each request is judged for itself, and those that pass are served together (R207, R314); a read
that fails completes with its group, behind the group's data. -/
def startGroup (s : State) (rs : List DesignReq) : State :=
  let fails := fun (r : DesignReq) => (designStatus s r).isSome
  let judged := rs.map (fun r => { r with status := (designStatus s r).getD r.status })
  let failed := judged.filter fails
  if rs.all fails || rs.any DesignReq.write then
    let s' := failed.foldl (fun t r => finishReq t r r.status 0) s
    if rs.all fails then s' else serveWrites s' (judged.filter (fun r => !fails r))
  else serveReads s judged

/-- G_MAX of a session (R313). -/
def groupMax (e : Session) : Nat := min 1024 (min (2 ^ e.sqLog) (2 ^ e.cqLog))

/-- A request as it comes. -/
def newReq (origin : Option Nat) (d : Desc) (write : Bool) (address length buffer : Nat) (data : List Byte) : DesignReq :=
  { origin := origin, desc := d, write := write, address := address, length := length, buffer := buffer, data := data
    image := [], status := stOK, result := 0, ready := false }

/-- A design-state descriptor joins its group; the last of a group starts it (R313). -/
def collect (r : DesignReq) (s : State) : State :=
  let i := r.desc.session.val
  let e := session s i
  if e.badGroup then
    let s := complete s r.desc stBadDescriptor 0
    setSession s i { session s i with badGroup := r.desc.link }
  else
    let g := e.group ++ [r]
    if e.group.any (fun q => q.write ≠ r.write) || (r.desc.link && decide (groupMax e ≤ g.length)) then
      let s := completeAll s g stBadDescriptor 0
      setSession s i { session s i with group := [], badGroup := r.desc.link }
    else if r.desc.link then setSession s i { e with group := g }
    else startGroup (setSession s i { e with group := [] }) g

/-- DESIGN_READ (R35, R207, R313). -/
def execDesignRead (d : Desc) (address length buffer : DWord) (s : State) : Host.Outcome State Fault Refusal :=
  .next (startDesc d (.designRead d address length buffer)
    (collect (newReq none d false address.toNat length.toNat buffer.toNat [])) s)

/-- DESIGN_WRITE (R38, R39, R207, R313); HOST_FAULT where the device cannot read the buffer (R319). -/
def execDesignWrite (d : Desc) (address length buffer : DWord) (data : Option (List Byte)) (s : State) :
    Host.Outcome State Fault Refusal :=
  .next (startDesc d (.designWrite d address length buffer data)
    (collect { newReq none d true address.toNat length.toNat buffer.toNat (data.getD []) with
      status := if data.isSome then stOK else stHostFault }) s)

/-- Groups that wait for a view are served in order, as far as they can be.  DESIGN CHOICE: each reads the boundary that is
committed when it is served, not the one at its arrival, which R36 does not settle. -/
def serveWaiting (s : State) : State :=
  let gs := s.design.waiting
  gs.foldl serveReads (onDesign s (fun d => { d with waiting := [] }))

/-- The open view closes once no read and no Hallmark uses it: a Hallmark that waits for it at rest goes on, and the groups that
wait are served (R36, R208, R485). -/
def closeView (s : State) : State :=
  match s.design.view with
  | some v =>
    if v.reads = [] && !v.exports then
      let s := showView (onDesign s (fun d => { d with view := none }))
      let s := match s.run.hallmark with
        | some h => if h.dest = 2 && restsVisible s then takeHallmark s s.run.nextCommit else s
        | none => s
      serveWaiting s
    else s
  | none => s

/-- The Hallmark to a host buffer is done with its view (R485). -/
def endView (s : State) : State :=
  closeView (onDesign s (fun d => { d with view := d.view.map (fun v => { v with exports := false }) }))

/-- HALLMARK_COMPLETE (R485): the image, and the commit record last; HOST_FAULT where the host refuses the buffer of DEST 2
(R319). -/
def execHallmarkComplete (s : State) : Host.Outcome State Fault Refusal :=
  .next (
    match s.run.hallmark with
    | some ⟨d, dest, ⟨addr, hostOk⟩, _, some nb, image, length, false, _, [], seq⟩ =>
      let rec' := commitRecord s (seq.getD (slotSeqMax s + 1)) nb image length
      let s := onRun (setB s F.FLT_STATUS_HM_BUSY false) (fun r => { r with hallmark := none })
      let s := setF s F.FLT_HM_PROGRESS_DONE 0
      let s := if dest < 2 then
          let s := winStore s (hmWindow s) (slotOffset s dest) (4096 + length) (imageOf rec' ++ shiftImage 4096 image)
          showSlot (setB s (slotWriting dest) false) dest
        else if hostOk then emit s (.hostImage addr.toNat (4096 + length) (imageOf rec' ++ shiftImage 4096 image))
        else s
      let s := if dest < 2 || hostOk then complete s d stOK (boundaryResult nb) else complete s d stHostFault 0
      if dest = 2 then endView s else s
    | _ => s)

/-- What a read of the open view ends with, where writes to the host ranges `bad` fail (R319). -/
def readStatus (bad : List (Nat × Nat)) (r : DesignReq) : Nat :=
  if r.status = stOK && r.origin.isNone && bad.any (fun b => decide (b.1 < r.buffer + r.length) && decide (r.buffer < b.1 + b.2))
  then stHostFault else r.status

/-- The data of the reads of a view goes to the host, and their completions after all of it (R314, R319). -/
def deliverReads (s : State) (bad : List (Nat × Nat)) (rs : List DesignReq) : State :=
  let s := (rs.filter (fun r => readStatus bad r = stOK && r.origin.isNone)).foldl
    (fun t r => emit t (.hostImage r.buffer r.length r.image)) s
  rs.foldl (fun t r => finishReq t r (readStatus bad r) (if readStatus bad r = stOK then r.result else 0)) s

/-- DESIGN_READ_COMPLETE (R37, R208, R314): once the data of every read of the open view is there, it goes to the host, the
reads complete, and the view closes. -/
def execDesignReadComplete (bad : List (Nat × Nat)) (s : State) : Host.Outcome State Fault Refusal :=
  .next (
    match s.design.view with
    | none => s
    | some v =>
      if v.reads.all DesignReq.ready then
        closeView (onDesign (deliverReads s bad v.reads) (fun d => { d with view := d.view.map (fun v => { v with reads := [] }) }))
      else s)

/-- HOST_WRITE_APPLY (R38, R210): in the hold of source 6, whose first die stands at B1 of cycle `k`, the staged writes
become part of boundary `k`. -/
def execHostWriteApply (s : State) : Host.Outcome State Fault Refusal :=
  let k := currentCycle s
  let due := fun (w : HostStage) => !w.applied && (match w.cycle with | some c => c == k | none => true)
  .next (
    if executing s && sourceOn s 6 && allFrozen s && sigmaMax s = k * cycleSteps s + stepsS s + 1 then
      let s := (s.design.writes.filter due).foldl (fun t w => w.reqs.foldl (fun t r => applyStaged t k r) t) s
      onDesign s (fun d => { d with writes := d.writes.map (fun w =>
        if due w then { w with cycle := some k, applied := true } else w) })
    else s)

/-! ### What other events do to staged writes and views -/

/-- The commit of cycle `c`: the writes applied in it complete (R38). -/
def designCommit (s : State) (c : Nat) : State :=
  let mine := fun (w : HostStage) => w.applied && w.cycle == some c
  let done := s.design.writes.filter mine
  let s := onDesign s (fun d => { d with writes := d.writes.filter (fun w => !mine w) })
  done.foldl (fun t w => finishWrites t w.reqs c) (showView s)

/-- A replay from cycle `nb` on: writes applied in it are applied again in their cycles (R38). -/
def designReplay (s : State) (nb : Nat) : State :=
  onDesign s (fun d => { d with writes := d.writes.map (fun w =>
    if w.applied && (match w.cycle with | some c => decide (nb ≤ c) | none => false) then { w with applied := false } else w) })

/-- Every staged write ends with a status, without effect (R34, R38). -/
def designEnd (s : State) (status result : Nat) : State :=
  let ws := s.design.writes
  ws.foldl (fun t w => finishAll t w.reqs status result) (onDesign s (fun d => { d with writes := [] }))

/-- The machine comes to rest: writes that still wait take effect at the visible boundary (R39). -/
def designRest (s : State) : State :=
  let ws := s.design.writes
  ws.foldl (fun t w => writeAtRest t w.reqs) (onDesign s (fun d => { d with writes := [] }))

/-- A full load: every outstanding design-state request completes with CANCELLED (R34). -/
def designCancel (s : State) : State :=
  let s := designEnd s stCancelled 0
  let rs := (match s.design.view with | some v => v.reads | none => []) ++ s.design.waiting.flatten ++ s.design.away
  showView (finishAll (onDesign s (fun _ => DesignHost.reset)) rs stCancelled 0)

/-! ### Requests between the devices of a machine (R207) -/

/-- A request of the device at position `p` is served here: judged for what this device holds, orders 2 to 5 of R207. -/
def serveFor (s : State) (p : Nat) (r : DesignReq) : State :=
  if emState s = 0 ∨ badAddress s r ∨ (r.write ∧ spaceOf r.address = 4) ∨ sealedNow s then sendMgmt s p
  else if r.write then serveWrites s [r] else serveReads s [r]

/-- The answer of position `p` to the oldest request that it serves for this device, of a kind, changes one of a list. -/
def answerFirst (p : Nat) (write : Bool) (g : DesignReq → DesignReq) : List DesignReq → Option (List DesignReq)
  | [] => none
  | r :: rs =>
    if r.write = write && !r.ready && r.origin.isNone && deviceOf r.address = p then some (g r :: rs)
    else (answerFirst p write g rs).map (r :: ·)

/-- The answer reaches the first of a list of staged groups that waits for it. -/
def answerStaged (p : Nat) (g : DesignReq → DesignReq) : List HostStage → Option (List HostStage)
  | [] => none
  | w :: ws => match answerFirst p true g w.reqs with
    | some rs => some ({ w with reqs := rs } :: ws)
    | none => (answerStaged p g ws).map (w :: ·)

/-- An answered write whose group is done completes (R314). -/
def finishAway (s : State) : State :=
  let done := s.design.away.filter DesignReq.ready
  done.foldl (fun t r => finishReq t r r.status r.result) (onDesign s (fun d => { d with
    away := d.away.filter (fun r => !r.ready) }))

/-- The answer of position `p` arrives: to a read of the open view, to a staged write, or to a write whose group is done. -/
def takeReply (s : State) (p : Nat) (write : Bool) (status result : Nat) (data : List Byte) : State :=
  let g := fun (r : DesignReq) => { r with ready := true, status := status, result := result, image := imageOf data }
  if write then
    match answerFirst p true g s.design.away, answerStaged p g s.design.writes with
    | some rs, _ => finishAway (onDesign s (fun d => { d with away := rs }))
    | none, some ws => onDesign s (fun d => { d with writes := ws })
    | none, none => s
  else match s.design.view with
    | some v => match answerFirst p false g v.reads with
      | some rs => onDesign s (fun d => { d with view := some { v with reads := rs } })
      | none => s
    | none => s

end Sys2Proof.Machine
end

