-- ==== Sys2Proof/Machine/RunControl.lean ====
section
/-! DEFINITION. Run control (R22 to R34): the commit of a cycle, the restore to a boundary, replay and the entry into
FAULTED (R29, R471 to R477), RUN, STOP and CONTINUE_AFTER_FAULT_CLEAR, the start of a machine (R397), and resume (R130). -/

namespace Sys2Proof.Machine

/-! ### Restoring a boundary (R473) -/

/-- The words of the memories that a restore repairs hold no uncorrectable error after it (R470), and those of the CVS,
which it writes anew, hold none at all (R473). -/
def repairWords (m : SMap Ecc) : SMap Ecc := m.filter (fun e => e.2 ≠ .uncorrectable ∧ e.1 / 2 ^ 48 ≠ 3)

/-- Die `d` at the boundary before cycle `nb` (R473): register bits, memory-read bits, port-input bits and carry-over from
the copy, receive slots cleared, the window as it is (R59). -/
def restoreDie (s : State) (d : Fin 4) (nb : Nat) : Die :=
  let x := s.dies[d]
  let b := boundaryOf s d nb
  { x with
    sigma := nb * cycleSteps s, cycle := nb, freezeAt := none, faulted := false, late := [], regBits := b.regBits, pendLatch := [],
    slots := [], mrd := logAgain s d nb b.mrd, portIn := b.portIn, lanes := [], portAddr := [], portData := [],
    chans := b.carry, ecc := repairWords x.ecc, stage := Stage.empty,
    copies := x.copies.filter (fun c => c.next ≤ nb) }

/-- Every effect tagged with cycle `nb` or later is discarded, and every die stands at the boundary before it (R29,
R473); the cycles are to be replayed, or not. -/
def restoreTo (s : State) (nb : Nat) (replayed : Bool) : State :=
  let s := lnkAbandon (hgrAbandon (asyAbandon (chnAbandon s nb replayed) nb) nb replayed) nb
  let s := regionsBack (memAbandon s nb replayed) nb
  let s := onRun s (fun r => { r with votes := r.votes.filter (fun v => v.1 / 4 < nb) })
  { s with dies := Vector.ofFn (fun d => restoreDie s d nb) }

/-! ### Coming to rest -/

/-- Every die is released, as the machine leaves its execution. -/
def thawAll (s : State) : State := dieList.foldl (fun t d =>
  setFBit (onDie t d (fun x => { x with frozen := false, late := [], freezeAt := none }))
    F.ARY_HOLD_STATUS_DIE_FROZEN d false) s

/-- What waits for a boundary takes the one at which the machine rests (R32). -/
def takeVisible (s : State) : State := takeHallmark (takeCapture s s.run.nextCommit) s.run.nextCommit

/-- The outstanding RUN, if there is one, ends with a status naming the last committed boundary (R33). -/
def endRun (s : State) (status : Nat) : State :=
  match s.run.run with
  | some r => complete (onRun s (fun c => { c with run := none, waitSync := false })) r.desc status (boundaryResult s.run.nextCommit)
  | none => s

/-- Every pending STOP (next) ends with a status naming the last committed boundary (R33). -/
def endStops (s : State) (status : Nat) : State :=
  s.run.stops.foldl (fun t q => complete t q.desc status (boundaryResult s.run.nextCommit))
    (onRun s (fun c => { c with stops := [] }))

/-- The machine rests at the last committed boundary in STOPPED (R32, R142): holds end, but for a user hold. -/
def restStopped (s : State) : State :=
  let nb := s.run.nextCommit
  let s := restRegions (restoreTo s nb false)
  let s := thawAll (endHolds s true nb)
  let s := onRun (setF s F.ARY_STATE_STATE 4) (fun r => { r with asyStop := none, replay := none, stopCycles := [] })
  let s := closeRest s
  designRest (takeVisible (setB s F.FLT_STATUS_REPLAYING false))

/-- The machine halts in FAULTED at the last committed boundary (R29, R30, R140): every outstanding RUN and STOP ends,
and staged writes are discarded. -/
def enterFaulted (s : State) (cause : State → State) : State :=
  let nb := s.run.nextCommit
  let s := restRegions (restoreTo s nb false)
  let s := thawAll (endHolds s false nb)
  let s := onRun (setF (setB (cause s) F.FLT_STATUS_HALT true) F.ARY_STATE_STATE 5) (fun r =>
    { r with asyStop := none, replay := none, sfaults := [], stopCycles := [] })
  let s := setB s F.FLT_STATUS_REPLAYING false
  let s := endStops (endRun (designEnd (closeRest s) stFaulted 0) stFaulted) stFaulted
  takeVisible s

/-- The cause bits of FLT_STATUS for a fault that replay cannot recover (R30, R476): 0 HBM_HALT, 1 TILE_HALT, 2
REPLAY_LIMIT, with its record. -/
def haltCause (c : Nat) (s : State) : State :=
  match c with
  | 0 => setB s F.FLT_STATUS_HBM_HALT true
  | 1 => setB s F.FLT_STATUS_TILE_HALT true
  | _ =>
    let cy := (s.run.replay.map Replay.cycle).getD s.run.nextCommit
    logRecord (setB s F.FLT_STATUS_REPLAY_LIMIT true) (logBytes 8 0xFF 0xFF 0xFF 0xFFFF 0xFF 0xFF (sigmaMin s) cy 0)

/-! ### Commit (R25, R27) -/

/-- Every die of the device has voted good for cycle `c`. -/
def votedGood (s : State) (c : Nat) : Bool := dieList.all (fun d => s.run.votes.get none (c * 4 + d) == some (some true))

/-- The machine has the votes for cycle `c` (R25): the device's own, those of every device at the vote root, and the vote
root's word elsewhere. -/
def machineVotes (s : State) (c : Nat) : Bool :=
  if !multi s then true
  else if voteRoot s then
    (List.range (machineSize s)).all (fun p => p = position s || s.run.devVotes.get none (c * 16 + p) == some (some true))
  else decide (c < s.run.rootCommit)

/-- The vote root's ramp plan starts within three cycles of cycle `c`, and some device has not acknowledged it (R512). -/
def rampWaits (s : State) (c : Nat) : Bool := multi s && voteRoot s && s.clk.acks ≠ [] && decide (s.clk.planCycle ≤ c + 3)

/-- Cycle `c` may commit: it is the next, its votes are good and cast (R25, R394), no replay or halt is due in it,
no read view is in its way (R37), fewer than 12 committed samples wait to be written (R375), and no ramp plan waits for it
(R512). -/
def canCommit (s : State) (c : Nat) : Bool :=
  executing s && c == s.run.nextCommit && votedGood s c && voteCast s c && machineVotes s c && !viewBlocks s c && !samplesWait s && !rampWaits s c

/-- The boundary at which the machine is to rest, if one is asked for (R32, R33). -/
def restBoundary (s : State) (c : Nat) : Bool :=
  (match s.run.run with | some r => r.target == some c | none => false) || s.run.stops.any (fun q => q.boundary == c)

/-- The machine rests at boundary `c`, the last committed one, which a RUN or STOPs have asked for (R32, R33). -/
def reachRest (s : State) (c : Nat) : State :=
  let s := restStopped s
  let s := match s.run.run with
    | some r => if r.target = some c then endRun s stOK else s
    | none => s
  endStops s stOK

/-- What the commit of cycle `c` ends: a stop that the Assay engine asked for (R383), a RUN that reaches its target, a
STOP that reaches its boundary (R32, R33). -/
def afterCommit (s : State) (c : Nat) : State :=
  if s.run.asyStop = some c || s.run.stopCycles.contains c then
    let s := endRun s stCancelled
    let s := restStopped (designEnd s stCancelled 0)
    endStops s stOK
  else if restBoundary s c then reachRest s c
  else s

/-- A boundary that a descriptor has just asked for is committed already, its dies being in the boundary phase of its cycle:
the machine rests there at once (R32). -/
def restIfReached (s : State) : State :=
  if executing s && decide (0 < s.run.nextCommit) && restBoundary s (s.run.nextCommit - 1)
  then reachRest s (s.run.nextCommit - 1) else s

/-- The commit of cycle `c`: every effect that waited for it is released (R27), and what ends with it ends. -/
def commitCycle (s : State) (c : Nat) : State :=
  let s := sendCommit s c
  let s := onRun s (fun r => { r with
    nextCommit := c + 1
    firstCycle := if r.firstCycle = some c then none else r.firstCycle
    votes := r.votes.filter (fun v => c < v.1 / 4)
    devVotes := r.devVotes.filter (fun v => c < v.1 / 16) })
  let s := regionCommit (memCommit s c) c
  let s := asyCommit (hgrCommit (chnCommit s c) c) c
  let s := designCommit s c
  let s := if c = 0 then setB s F.RST_STATUS_FIRST_COMMIT true else s
  let s := takeHallmark (takeCapture s (c + 1)) (c + 1)
  afterCommit s c

/-- CYCLE_COMMIT (R25): the next cycle commits once its votes are there; a full view reserve makes it wait (R37). -/
def execCycleCommit (s : State) : Host.Outcome State Fault Refusal :=
  let c := s.run.nextCommit
  .next (
    if canCommit s c then commitCycle (setB s F.ARY_VIEW_STATUS_FULL false) c
    else if viewBlocks s c then setB s F.ARY_VIEW_STATUS_FULL true
    else s)

/-! ### Faults and replay (R471 to R477) -/

/-- No die executes: each is frozen or stands at a stop boundary. -/
def allQuiet (s : State) : Bool := dieList.all (fun d => s.dies[d].frozen || atStop s d)

/-- An earlier cycle than `c` can still commit (R29, R472): the hub waits for it.  In a machine that is a cycle whose votes
are there; one that lacks a vote of another device is abandoned, since the command that asks comes once every die of the
machine is frozen (DESIGN CHOICE: no control block says so to a hub). -/
def earlierPending (s : State) (c : Nat) : Bool :=
  decide (s.run.nextCommit < c) && votedGood s s.run.nextCommit && machineVotes s s.run.nextCommit

/-- The fault log's TYPE and place of a fault that a die detects (R493). -/
def dieFaultNote : DieFault → List FaultNote
  | .dualRail p n lp => [⟨1, 0xFF, p, n, lp, 0⟩]
  | .laneParity g st => [⟨2, 0xFF, 0xFFFF, 0xFF, 0xFF, g + st.toNat * 2 ^ 16⟩]
  | .memory p n m => [⟨3, m.toNat, p, n, 0xFF, 0⟩]
  | .hbm _ => [⟨4, 0xFF, 0xFFFF, 0xFF, 0xFF, 0⟩]
  | .dieClock => []

/-- FAULT_REPLAY (R471, R497): a die that executes detects a fault other than a Schedule Fault; its vote becomes bad and
it freezes at the next step.  An error of a boundary copy met while a restore is due cannot be recovered (R468). -/
def execFaultReplay (d : Fin 4) (fault : DieFault) (s : State) : Host.Outcome State Fault Refusal :=
  .next (
    if executing s then
      match fault with
      | .dieClock => badNow s d
      | .laneParity g _ => noteParity (noteFaults s d (dieFaultNote fault)) d (16 * g)
      | .memory p _ m =>
        if m = 7 then
          if s.run.replay.isSome then unrecoverable ((dieFaultNote fault).foldl (fun t f => noteFault t d f) s) 1 else s
        else
          let t := noteFaults s d (dieFaultNote fault)
          if m = 6 then tileRamAgain t s.dies[d].cycle (2 ^ 30 + d.val * 64 + p.val) else t
      | _ => noteFaults s d (dieFaultNote fault)
    else s)

/-- The replay limit of FLT_CTRL; 0 is taken as 1 (R476). -/
def replayLimit (s : State) : Nat := max 1 (getF s F.FLT_CTRL_REPLAY_LIMIT)

/-- A die freezes at step 0 of the first cycle to be replayed, with source 9, until the restore is complete everywhere
(R141, R475). -/
def holdForReplay (s : State) : State :=
  dieList.foldl (fun t d =>
    let t := setF (setFBit (onDie t d (fun x => { x with frozen := true })) F.ARY_HOLD_STATUS_DIE_FROZEN d true)
      (F.ARY_FROZEN_STEP_SIGMA d) t.dies[d].sigma
    t) (raiseSource s 9)

/-- The restore of a replay: the machine stands at boundary b, the last committed one, held with source 9 (R472, R473).
Announced holds of abandoned cycles end (R141); SPARING work that is due is done at this step 0, so that a tile or lane that
fails in every execution is replaced before the replay limit (R124, R466). -/
def makeRestore (s : State) (r : Replay) : State :=
  let nb := s.run.nextCommit
  let s := designReplay (restoreTo s nb true) nb
  let s := bumpF s F.FLT_REPLAYS_COUNT 1
  let s := onRun s (fun c => { c with
    restores := c.restores + 1
    replay := some { r with restored := true }
    replayed := if c.replayed.1 = r.cycle then (r.cycle, c.replayed.2 + 1) else (r.cycle, 1) })
  let s := [0, 1, 2, 3, 4, 5, 6, 11].foldl clearSource s
  let keep := fun (a : Nat × Nat) =>
    if a.1 = 7 then some a else if a.1 = 8 then some (8, nb * cycleSteps s) else none
  let s := onHolds s (fun h => { h with
    announced := h.announced.filterMap keep, resuming := none, release := none
    readyFrom := h.readyFrom.filter (fun e => e.2 = some (nb * cycleSteps s))
    commitDecided := min h.commitDecided nb, writeDecided := min h.writeDecided nb })
  let s := onLnk s (fun x => { x with readySent := false })
  let s := if s.holds.announced.any (fun a => a.1 = 8) then raiseSource s 8 else s
  showHeld (holdForReplay (setB s F.ARY_HOLD_STATUS_RESUMING false))

/-- RESTORE_BOUNDARY (R472, R473): with every die at rest in the hold and no earlier cycle left to commit, the restore to
the last committed boundary is made; or the machine halts where replay cannot recover (R29, R476).  On a device of a
machine that holds for another device's fault, the command is that device's restore reaching it. -/
def execRestoreBoundary (s : State) : Host.Outcome State Fault Refusal :=
  .next (
    if executing s && allQuiet s && s.run.sfaults = [] then
      match s.run.replay with
      | some r =>
        if earlierPending s r.cycle then s
        else match r.halt with
          | some c => enterFaulted s (haltCause c)
          | none =>
            if s.run.replayed.1 = r.cycle && decide (replayLimit s ≤ s.run.replayed.2) && decide (1 ≤ s.run.replayed.2)
            then enterFaulted s (haltCause 2)
            else makeRestore s r
      | none => if multi s && sourceOn s 11 then makeRestore s ⟨s.run.nextCommit, false, none, true⟩ else s
    else s)

/-- The PLLs of the four dies are stable (R497). -/
def diePllsLocked (s : State) : Bool := (List.range 4).all (fun d => (getF s F.CLK_PLL_LOCK_LOCK).testBit (3 + d))

/-- REPLAY_RELEASE (R475): the restore is complete on every device, and the dies are released at step 0 of cycle b + 1; a
user hold that stood or was pending in a hold when the bad vote came keeps them there (R141); another pending one keeps its
target (R125), and work of source 8 is done first. -/
def execReplayRelease (s : State) : Host.Outcome State Fault Refusal :=
  .next (
    match s.run.replay with
    | some r =>
      if r.restored && executing s && diePllsLocked s then
        let s := setB (clearSource s 9) F.FLT_STATUS_REPLAYING false
        let s := onRun s (fun c => { c with replay := none })
        if getB s F.ARY_HOLD_CTRL_ACTIVE || (r.held && getB s F.ARY_HOLD_CTRL_PENDING) then
          let s := withdraw (raiseSource s 7) (fun a => a.1 = 7)
          setB (setB s F.ARY_HOLD_CTRL_PENDING false) F.ARY_HOLD_CTRL_ACTIVE true
        else if multi s || sourceOn s 8 then s
        else resumeDone (dieList.foldl releaseDie s)
      else s
    | none => s)

/-- The fault that the device reports is charged to this cycle. -/
def faultCycle (s : State) : Nat := ((chooseSF s.run.sfaults).map SFault.cycle).getD 0

/-- SCHEDULE_FAULT_HALT (R29, R477): with the dies at rest and the earlier cycles resolved, the machine halts in FAULTED
at the last committed boundary. -/
def execScheduleFaultHalt (s : State) : Host.Outcome State Fault Refusal :=
  .next (
    if executing s && s.run.sfaults ≠ [] && allQuiet s && !earlierPending s (faultCycle s) then enterFaulted s (fun t => t) else s)

/-! ### RUN, STOP, CONTINUE_AFTER_FAULT_CLEAR (R32, R33) -/

/-- The cycle after the last boundary that die `d` has reached; a boundary is the end of its cycle's boundary phase. -/
def boundaryReached (s : State) (d : Fin 4) : Nat := cycleOf s s.dies[d].sigma

/-- The cycle after the last boundary that every die has reached (R32). -/
def reachedByAll (s : State) : Nat := (dieList.map (boundaryReached s)).foldl min (boundaryReached s 0)

/-- The machine begins to execute at the visible boundary (R32, R589). -/
def beginRunning (s : State) : State :=
  let s := onRun s (fun r => { r with waitSync := false })
  let s := onLnk s (fun x => { x with started := [], startSent := false, holdSent := false, readySent := false })
  let s := setB (setF s F.ARY_STATE_STATE 2) F.LNK_FORM_STATUS_START_READY false
  armUserHold (leaveAllDeep s) s.run.nextCommit

/-- A start from LOADED or STOPPED: at once on a device alone, and with SYNC in a machine (R398). -/
def startMachine (s : State) : State :=
  let s := if emState s = 1 then onRun s (fun r => { r with firstCycle := some 0 }) else s
  if multi s then onRun (leaveAllDeep s) (fun r => { r with waitSync := true }) else beginRunning s

/-- RUN accepted (R32, R33); a thermal trip refuses it until every sensor has cooled (R517). -/
def runBody (d : Desc) (n : Nat) (unbounded : Bool) (s : State) : State :=
  let e := emState s
  if (n = 0 ∧ !unbounded) ∨ e = 0 ∨ 4 < e ∨ s.clk.hot then complete s d stWrongState 0
  else
    let s := endRun (endStops s stSuperseded) stSuperseded
    let k := if executing s then reachedByAll s else s.run.nextCommit
    let s := onRun s (fun r => { r with run := some ⟨d, if unbounded then none else some (k + n - 1)⟩ })
    if executing s then restIfReached s else startMachine s

/-- RUN (R32). -/
def execRun (d : Desc) (n : DWord) (unbounded : Bool) (s : State) : Host.Outcome State Fault Refusal :=
  let i := Instr.run d n unbounded
  .next (startDesc d i (ungroupedRun d (runGate d i false (runBody d n.toNat unbounded))) s)

/-- STOP (next) accepted (R32, R33). -/
def stopNextBody (d : Desc) (s : State) : State :=
  if executing s then
    let b := match s.run.stops with
      | q :: _ => q.boundary
      | [] => currentCycle s
    restIfReached (onRun (endRun s stCancelled) (fun r => { r with stops := r.stops ++ [⟨d, b⟩] }))
  else if emState s = 4 then complete (endRun s stCancelled) d stOK (boundaryResult s.run.nextCommit)
  else complete s d stWrongState 0

/-- STOP (next) (R32). -/
def execStopNext (d : Desc) (s : State) : Host.Outcome State Fault Refusal :=
  let i := Instr.stopNext d
  .next (startDesc d i (ungroupedRun d (runGate d i false (stopNextBody d))) s)

/-- STOP (at committed) accepted (R32, R33): every uncommitted cycle is abandoned. -/
def stopCommittedBody (d : Desc) (s : State) : State :=
  if executing s then
    let s := endRun s stCancelled
    let s := restStopped (designEnd s stCancelled 0)
    complete (endStops s stOK) d stOK (boundaryResult s.run.nextCommit)
  else if emState s = 4 then complete (endRun s stCancelled) d stOK (boundaryResult s.run.nextCommit)
  else complete s d stWrongState 0

/-- STOP (at committed) (R32). -/
def execStopAtCommitted (d : Desc) (s : State) : Host.Outcome State Fault Refusal :=
  let i := Instr.stopAtCommitted d
  .next (startDesc d i (ungroupedRun d (runGate d i false (stopCommittedBody d))) s)

/-- CONTINUE_AFTER_FAULT_CLEAR accepted (R32, R492). -/
def continueBody (d : Desc) (s : State) : State :=
  if emState s = 5 && !getB s F.FLT_STATUS_HALT then
    complete (setF s F.ARY_STATE_STATE 4) d stOK (boundaryResult s.run.nextCommit)
  else complete s d stWrongState 0

/-- CONTINUE_AFTER_FAULT_CLEAR (R32). -/
def execContinueAfterFaultClear (d : Desc) (s : State) : Host.Outcome State Fault Refusal :=
  let i := Instr.continueAfterFaultClear d
  .next (startDesc d i (ungroupedRun d (runGate d i false (continueBody d))) s)

/-- NOP (R311). -/
def execDescriptorNop (d : Desc) (s : State) : Host.Outcome State Fault Refusal :=
  .next (startDesc d (.descriptorNop d) (ungrouped d (fun s => complete s d stOK 0)) s)

/-- A run-control descriptor that waited is accepted (R622). -/
def acceptWaiting (i : Instr) (s : State) : State :=
  match i with
  | .run d n u => runNow d (runBody d n.toNat u) s
  | .stopNext d => runNow d (stopNextBody d) s
  | .stopAtCommitted d => runNow d (stopCommittedBody d) s
  | .capture d f t w o => runNow d (captureBody d f.toNat t w o.toNat) s
  | .hallmark d t b l => runNow d (hallmarkBody d t.toNat b l.toNat) s
  | .restore d t a l m => runNow d (restoreBody d t.toNat a.toNat l.toNat m) s
  | .continueAfterFaultClear d => runNow d (continueBody d) s
  | _ => s

/-- The descriptor may be accepted now (R622): no RESTORE runs, and where it is a HALLMARK or a RESTORE no HALLMARK. -/
def mayAccept (s : State) (i : Instr) : Bool :=
  s.run.restore.isNone && (s.run.hallmark.isNone || match i with
    | .hallmark _ _ _ _ | .restore _ _ _ _ _ => false
    | _ => true)

/-- WAITING_DESCRIPTOR_ACCEPT (R622): the first descriptor that waits behind a HALLMARK or RESTORE is accepted, once what it
waits for has completed. -/
def execWaitingDescriptorAccept (s : State) : Host.Outcome State Fault Refusal :=
  .next (
    match s.run.waiting with
    | i :: is =>
      if mayAccept s i then acceptWaiting i (onRun s (fun r => { r with waiting := is })) else s
    | [] => s)

/-! ### SYNC and resume -/

/-- A sampled edge of SYNC takes effect (R397, R398): TIME is loaded and a pending start begins. -/
def takeSync (s : State) : State :=
  let s := setB s F.ASY_STATUS_SYNC_SEEN true
  let s := if getB s F.ASY_SYNC_CTRL_LOAD_TIME then setTime s (get64 s F.ASY_SYNC_TIME_LO_TIME F.ASY_SYNC_TIME_HI_TIME) else s
  if s.run.waitSync && multi s then beginRunning s else s

/-- SYNC (R397, R398): 64 REFCLK edges after a falling edge; it is not sampled while REFCLK is lost (R502). -/
def execSync (s : State) : Host.Outcome State Fault Refusal := .next (if s.clk.lost then s else takeSync s)

/-- RESUME (R130, R131, R135): the hub begins a resume of a device that is ready; in a machine the vote root sends
RESUME. -/
def execResume (s : State) : Host.Outcome State Fault Refusal :=
  .next (
    if executing s && deviceReady s then
      if multi s then rootResume s
      else if s.holds.resuming.isNone then beginResume s else s
    else s)

/-! ### What ends with a load (R34) -/

/-- Every outstanding run-control descriptor completes with a status (R34, R279), and what it had begun is abandoned. -/
def endRunControl (s : State) (status : Nat) : State :=
  let s := endStops (endRun s status) status
  let ds := (match s.asy.capture with | some c => [c.desc] | none => []) ++ s.asy.captures.map CaptureReq.desc ++
    (match s.run.hallmark with | some h => [h.desc] | none => []) ++ (match s.run.restore with | some r => [r.desc] | none => []) ++
    s.run.waiting.filterMap (fun i => match i with
      | .run d _ _ | .stopNext d | .stopAtCommitted d | .capture d _ _ _ _ | .hallmark d _ _ _ | .restore d _ _ _ _
      | .continueAfterFaultClear d => some d
      | _ => none)
  let s := ds.foldl (fun t d => complete t d status 0) s
  let s := onAsy s (fun a => { a with capture := none, captures := [] })
  let s := setB (setB s F.FLT_STATUS_HM_BUSY false) F.FLT_STATUS_RESTORING false
  onRun s (fun r => { r with hallmark := none, restore := none, waiting := [] })

/-- Every outstanding run-control descriptor completes with CANCELLED (R34). -/
def cancelRunControl (s : State) : State := endRunControl s stCancelled

end Sys2Proof.Machine
end

