-- ==== Sys2Proof/Machine/March.lean ====
section
/-! DEFINITION. The march test engine (R533 to R541): its program, its failures, and the groups that it tests. -/

namespace Sys2Proof.Machine

/-- The state with the control cluster changed. -/
def onCtl (s : State) (g : Ctl → Ctl) : State := { s with ctl := g s.ctl }

/-! ### The program (R534, R535) -/

/-- The elements that run: those before the first with VALID 0. -/
def marchProgram (s : State) : List Nat :=
  ((List.range 32).map (fun k => getF s (F.CTL_MT_ELEM_ELEMENT k))).takeWhile (fun e => e.testBit 31)

/-- ORDER of an element. -/
def elemOrder (e : Nat) : Nat := bitsOf e 29 2

/-- The operations of an element in order: 0 R0, 1 R1, 2 W0, 3 W1; a pause has none. -/
def elemOps (e : Nat) : List Nat :=
  if elemOrder e = 2 then [] else (List.range (bitsOf e 26 3 + 1)).map (fun i => bitsOf e (10 + 2 * i) 2)

/-- One operation on a word whose cells hold their data: what the word holds afterwards (none: what it held before the
test; false: the background; true: its complement), and the compares that differ in every bit. -/
def marchOp (st : Option Bool × Nat) (op : Nat) : Option Bool × Nat :=
  match op with
  | 2 => (some false, st.2)
  | 3 => (some true, st.2)
  | _ => (st.1, st.2 + (match st.1 with | some v => b2n (v != (op == 1)) | none => 0))

/-- What the words hold after a program, and the failures per word of each element. -/
def marchRunWord (es : List Nat) : Option Bool × List Nat :=
  es.foldl (fun acc e =>
    let r := (elemOps e).foldl marchOp (acc.1, 0)
    (r.1, acc.2 ++ [r.2])) (none, [])

/-- The data bits of the background of a word (R535). -/
def background (m : MarchRun) (word : Nat) : Nat :=
  if m.alt && word % 2 == 1 then 2 ^ 64 - 1 - m.pattern else m.pattern

/-! ### Failures (R538) -/

/-- A failure: word, element, difference. -/
abbrev Failure := Nat × Nat × Nat

/-- The place of a word in an element's order. -/
def orderPlace (e base n w : Nat) : Nat := if elemOrder e = 1 then base + n - 1 - w else w - base

/-- A failure put in its place among those of its element. -/
def insertFail (e base n : Nat) (f : Failure) : List Failure → List Failure
  | [] => [f]
  | g :: gs => if orderPlace e base n f.1 < orderPlace e base n g.1 then f :: g :: gs else g :: insertFail e base n f gs

/-- The first failures of element `i`: those that its cells cause, and those that the program itself causes in every
word, of which the first 16 words are enough. -/
def elemFailures (e i k base n : Nat) (cells : List Failure) : List Failure :=
  let words := (List.range (min n 16)).map (fun j => if elemOrder e = 1 then base + n - 1 - j else base + j)
  let own := words.flatMap (fun w => List.replicate (min k 16) (w, i, 2 ^ 72 - 1))
  (cells.filter (fun f => f.2.1 = i)).foldl (fun acc f => insertFail e base n f acc) own

/-- The failures of the program over `n` words from `base` on: how many, and the first of them in order. -/
def marchFailures (es : List Nat) (base n : Nat) (cells : List Failure) : Nat × List Failure :=
  let ks := (marchRunWord es).2
  let cs := cells.filter (fun f => base ≤ f.1 ∧ f.1 < base + n ∧ f.2.1 < es.length ∧ f.2.2 ≠ 0)
  ((ks.foldl (· + ·) 0) * n + cs.length,
    (List.range es.length).flatMap (fun i => elemFailures (es.getD i 0) i (ks.getD i 0) base n cs))

/-- A failure's record (R538). -/
def recordFail (s : State) (i : Nat) (f : Failure) : State :=
  if i < 16 then
    let s := setF (setF s (F.CTL_MT_FAIL_ADDR_ELEMENT.bank i) f.2.1) (F.CTL_MT_FAIL_ADDR_WORD.bank i) f.1
    let s := setF (setF s (F.CTL_MT_FAIL_BITS_LO_DIFF.bank i) f.2.2) (F.CTL_MT_FAIL_BITS_HI_DIFF.bank i) (f.2.2 / 2 ^ 32)
    setF s (F.CTL_MT_FAIL_CHECK_DIFF.bank i) (f.2.2 / 2 ^ 64)
  else s

/-- Failures counted, and the first 16 of the test recorded (R538). -/
def noteFailures (s : State) (n : Nat) (fs : List Failure) : State :=
  let c := getF s F.CTL_MT_FAILS_COUNT
  let s := (List.range (min fs.length 16)).foldl (fun t j => recordFail t (c + j) (fs.getD j (0, 0, 0))) s
  bumpF s F.CTL_MT_FAILS_COUNT n

/-! ### Groups (R533) -/

/-- Words of 64 data bits in a group; the words of a cluster's row count once (PRESUMED where the spec gives no size). -/
def groupWords (kind : Nat) : Nat :=
  match kind with
  | 0 => 65536 | 1 => 3072 | 2 => 60 | 3 => 65536 | 4 => 8392 | 5 => 240
  | 8 => 131072 | 9 => 131072 | 10 => 262144 | 11 => 2097152 | 12 => 131072 | 13 => 576 | _ => 8192

/-- The group exists.  DESIGN CHOICE: the physical tiles 48 to 63 of a VK4-192, of whose test the spec says nothing, are tested
as unbound tiles are. -/
def groupExists (kind die unit : Nat) : Bool :=
  (decide (kind < 6) && decide (die < 4) && decide (unit < 66)) || kind == 8 || kind == 9 ||
    (kind == 10 && decide (unit < 16)) || kind == 11 || kind == 12 || (kind == 13 && decide (unit < 128)) ||
    (kind == 14 && decide (unit < 32))

/-- The physical tile serves no bound position: it is spare, retired or unbound. -/
def tileFree (s : State) (die unit : Nat) : Bool :=
  match positionOf s (Fin.ofNat 4 die) unit with
  | some p => (boundTile s (Fin.ofNat 4 die) p).isNone
  | none => true

/-- The machine is at rest for a preserving test of a bound tile (R536). -/
def marchRest (s : State) : Bool :=
  emState s == 1 || emState s == 4 || emState s == 5 || (emState s == 3 && getB s F.ARY_HOLD_CTRL_ACTIVE)

/-- No channel is OPEN or CLOSING. -/
def noChannels (s : State) : Bool := s.chn.ctxs.all (fun e => e.2.state == 0)

/-- The mode is allowed on the group (R533). -/
def marchAllowed (s : State) (preserving : Bool) (kind die unit : Nat) : Bool :=
  groupExists kind die unit &&
    if kind < 6 then tileFree s die unit || (preserving && marchRest s)
    else match kind with
      | 8 => preserving || getF s F.CTL_FW_STATUS_PHASE == 0 || getF s F.CTL_FW_STATUS_PHASE == 4
      | 9 => preserving
      | 10 => true
      | 11 => preserving || (emState s == 0 && noChannels s)
      | 12 => if preserving then !executing s else emState s == 0
      | 13 => getB s F.HGR_STATUS_GSR
      | _ => preserving || ((getF s F.CHN_ENGINE_STOP_STOP).testBit unit &&
          !s.chn.items.any (fun i => match i.engine with | some (e, _) => e == unit | none => false))

/-! ### A test's end -/

/-- The test ends with a result; a release of the user hold that waited for it takes effect (R536). -/
def endTest (s : State) (result : Nat) : State :=
  let was := s.ctl.deferred
  let s := onCtl s (fun c => { c with march := none, deferred := false })
  let s := setB (setF s F.CTL_MT_STATUS_RESULT result) F.CTL_STATUS_MT_BUSY false
  if was then userReleaseNow s else s

/-- The result of a test that ran through: FAILED with any failure (R538). -/
def testResult (s : State) : Nat := if getF s F.CTL_MT_FAILS_COUNT = 0 then 2 else 3

/-- `n` words of `f` written as bytes from key `k` on. -/
def fillWords (k : Nat) (f : Nat → Nat) : Nat → Memory → Memory
  | 0, m => m
  | n + 1, m => fillWords k f n (Memory.writeBytes marchFill m (k + 8 * n) (leBytes 8 (f n)))

/-- A scratch bank filled with words. -/
def fillScratch (s : State) (bank : Nat) (w : Nat → Nat) : State :=
  onCtl s (fun c => { c with scratch := fillWords (bank * 2097152) w 262144 c.scratch })

/-- The exchange RAM filled with words. -/
def fillExr (s : State) (w : Nat → Nat) : State :=
  { s with mem := { s.mem with exr := fillWords 0 w 131072 s.mem.exr } }

/-- A channel context as its 16 words of 32 bits lie in the context SRAM (R334). -/
def ctxOf (w : Nat → Nat) : ChanCtx :=
  let pair := fun i => w i + w (i + 1) * 2 ^ 32
  { gen := bitsOf (w 0) 26 6, kind := bitsOf (w 0) 24 2, priority := bitsOf (w 0) 21 3, state := bitsOf (w 0) 18 2
    overrun := (w 0).testBit 17, sessionGen := bitsOf (w 0) 12 4, session := bitsOf (w 0) 0 12
    port := bitsOf (w 1) 0 12, window := bitsOf (w 1) 16 4, sizeLog := bitsOf (w 1) 24 8
    nextSeq := bitsOf (w 2) 0 16, releaseSeq := bitsOf (w 2) 16 16, timeoutUs := bitsOf (w 3) 0 20
    fifoOffset := pair 4, wr := pair 6, rd := pair 8, alloc := pair 10
    values := w 12, drops := w 13, runtime := w 14, lastCycle := w 15 }

/-- The context SRAM filled with words of 64 bits, of which those at even addresses are alike, and those at odd ones. -/
def fillCtxs (s : State) (w : Nat → Nat) : State :=
  let x := ctxOf (fun i => w (i / 2 % 2) / 2 ^ (32 * (i % 2)) % 2 ^ 32)
  { s with chn := { s.chn with ctxs :=
    if x = ChanCtx.free then [] else (List.range 262144).foldl (fun m c => SMap.set ChanCtx.free m c x) [] } }

/-- What a destructive test leaves in its group: what the program wrote last (R534, R535). -/
def testLeaves (s : State) (m : MarchRun) : State :=
  match (marchRunWord m.elems).1 with
  | none => s
  | some v =>
    let w := fun i => if v then 2 ^ 64 - 1 - background m i else background m i
    match m.kind with
    | 8 =>
      let b := 1 - getF s F.CTL_FW_STATUS_ACTIVE
      setB (onCtl s (fun c => { c with
        fws := fillWords (b * 1048576) w 131072 c.fws, loaded := c.loaded.set false b false })) F.CTL_FW_STATUS_STAGED false
    | 10 => fillScratch s m.unit w
    | 11 => fillCtxs s w
    | 12 => fillExr s w
    | 13 => { s with hgr := { s.hgr with
        ram := (List.range 36864).foldl (fun r i => r.set false (m.unit * 36864 + i) ((w (i / 64)).testBit (i % 64))) s.hgr.ram
        ramEcc := s.hgr.ramEcc.filter (fun e => e.1 / 1024 ≠ m.unit) } }
    | 14 => { s with chn := { s.chn with local_ := fillWords (m.unit * 65536) w 8192 s.chn.local_ } }
    | _ => s

/-- The memories of R468 in a tile's group, by their numbers in the fault log (R493). -/
def groupMemories (kind : Nat) : List Nat :=
  match kind with | 0 => [0] | 1 => [1] | 2 => [3] | 3 => [6] | 4 => [2, 4, 5] | _ => []

/-- A preserving test also scrubs (R537): what it corrected reads back clean. -/
def testScrubs (s : State) (m : MarchRun) : State :=
  if m.kind < 6 then
    match positionOf s (Fin.ofNat 4 m.die) m.unit with
    | some p => onDie s (Fin.ofNat 4 m.die) (fun x => { x with
        ecc := x.ecc.filter (fun e => ¬(e.2 = .corrected ∧ (groupMemories m.kind).contains (e.1 / 2 ^ 48) ∧ e.1 / 2 ^ 40 % 256 = p)) })
    | none => s
  else if m.kind = 13 then
    { s with hgr := { s.hgr with ramEcc := s.hgr.ramEcc.filter (fun e => ¬(e.2 = .corrected ∧ e.1 / 1024 = m.unit)) } }
  else s

/-! ### Commands -/

/-- START (R533): a test begins, or is refused. -/
def marchStart (s : State) : State :=
  let es := marchProgram s
  let pre := getB s F.CTL_MT_TARGET_MODE
  let kind := getF s F.CTL_MT_TARGET_KIND
  let die := getF s F.CTL_MT_TARGET_DIE
  let unit := getF s F.CTL_MT_TARGET_UNIT
  if s.ctl.march.isSome then s
  else if es.any (fun e => elemOrder e = 3) || !marchAllowed s pre kind die unit then setF s F.CTL_MT_STATUS_RESULT 5
  else
    let m : MarchRun := ⟨pre, kind, die, unit, getB s F.CTL_MT_CTRL_ALT,
      get64 s F.CTL_MT_PATTERN_LO_BITS F.CTL_MT_PATTERN_HI_BITS, es, 0⟩
    let s := onCtl s (fun c => { c with march := some m })
    let s := setF (setF s F.CTL_MT_FAILS_COUNT 0) F.CTL_MT_PROGRESS_DONE 0
    let s := (List.range 16).foldl (fun t i => recordFail t i (0, 0, 0)) s
    setB (setF s F.CTL_MT_STATUS_RESULT 1) F.CTL_STATUS_MT_BUSY true

/-- ABORT (R539): a running test ends; the word group in progress has been restored. -/
def marchAbort (s : State) : State := if s.ctl.march.isSome then endTest s 4 else s

/-- A write to CTL_MT_CTRL (R533, R539): its field, then ABORT, then START. -/
def mtCtrlWrite (s : State) (v : Nat) : State :=
  let s := plainWrite s 0xE0100 v
  let s := if v.testBit 1 then marchAbort s else s
  if v.testBit 0 then marchStart s else s

/-- A write to CTL_MT_ELEM_k: ignored while a test runs. -/
def mtElemWrite (s : State) (k v : Nat) : State :=
  if s.ctl.march.isSome then s else setF s (F.CTL_MT_ELEM_ELEMENT k) v

/-- MARCH_START (R533). -/
def execMarchStart (value : Word) (s : State) : Host.Outcome State Fault Refusal :=
  .next (gatedWrite s 0xE0100 (mtCtrlWrite · value.toNat))

/-- MARCH_ABORT (R539). -/
def execMarchAbort (value : Word) (s : State) : Host.Outcome State Fault Refusal :=
  .next (gatedWrite s 0xE0100 (mtCtrlWrite · value.toNat))

/-- A word that cannot be saved (R537): its word group stays unchanged, and the test ends with FAILED. -/
def saveUe (s : State) (m : MarchRun) (w : Nat) : State :=
  let s := setB s F.CTL_MT_STATUS_SAVE_UE true
  let s := if m.kind = 10 then
      setF (setF (setB s F.CTL_STATUS_SCR_UE true) F.CTL_SCR_UE_LOC_BANK m.unit) F.CTL_SCR_UE_LOC_WORD w
    else if m.kind = 8 ∨ m.kind = 9 then setB s F.CTL_STATUS_FWS_UE true else s
  endTest s 3

/-- The next word group of a preserving test (R537). -/
def wordGroup (s : State) (m : MarchRun) (ue : Option (Fin 64)) (cells : List Failure) : State :=
  let base := 64 * m.done
  let n := min 64 (groupWords m.kind - base)
  match ue with
  | some w => saveUe s m (base + w.val)
  | none =>
    let (k, fs) := marchFailures m.elems base n cells
    let s := noteFailures s k fs
    let m := { m with done := m.done + 1 }
    let s := onCtl s (fun c => { c with march := some m })
    let s := setF s F.CTL_MT_PROGRESS_DONE (min 65535 (64 * m.done * 65536 / groupWords m.kind))
    if groupWords m.kind ≤ 64 * m.done then endTest (testScrubs s m) (testResult s) else s

/-- A destructive test, to its end. -/
def wholeGroup (s : State) (m : MarchRun) (cells : List Failure) : State :=
  let (k, fs) := marchFailures m.elems 0 (groupWords m.kind) cells
  let s := setF (noteFailures s k fs) F.CTL_MT_PROGRESS_DONE 65535
  endTest (testLeaves s m) (testResult s)

/-- MARCH_WORD_GROUP (R537): the running test goes on, by a word group where it preserves, and to its end where it does
not. -/
def execMarchWordGroup (ue : Option (Fin 64)) (fails : List MarchFail) (s : State) :
    Host.Outcome State Fault Refusal :=
  let cells := fails.map (fun f => (f.word, f.elem.val, f.diff.toNat))
  match s.ctl.march with
  | none => .next s
  | some m => .next (if m.preserving then wordGroup s m ue cells else wholeGroup s m cells)

/-- A retirement that names the tile under test ends the test (R536). -/
def marchMeets (s : State) (d : Fin 4) (p : Nat) : State :=
  match s.ctl.march with
  | some m => if m.kind < 6 ∧ m.die = d.val ∧ m.unit = physTile s.dies[d] p then endTest s 4 else s
  | none => s

end Sys2Proof.Machine
end

