-- ==== Sys2Proof/Machine/Retire.lean ====
section
/-! DEFINITION. Tile retirement (R478 to R481), lane sparing (R114, R115), the tile scrubbers (R469) and the registers
of the FLT block that have a behaviour of their own (R478, R493). -/

namespace Sys2Proof.Machine

/-! ### Tile retirement -/

/-- The unused spares of die `d` that passed the start-up march test, lowest first (R479).  DESIGN CHOICE: R2 gives only how
many tiles a die has; the two spares are physical tiles 64 and 65 on both grades, and a VK4-192 leaves 48 to 63 unused. -/
def freeSpares (s : State) (d : Fin 4) : List Nat :=
  [64, 65].filter (fun t => !s.dies[d].badTiles.contains t && (positionOf s d t).isNone)

/-- Unused spare lanes of die `d` (R114). -/
def freeLanes (s : State) (d : Fin 4) : List Nat := (List.range 128).filter (fun i => (s.dies[d].spareMap.get none i).isNone)

/-- FLT_SPARE of die `d` as it stands. -/
def showSpares (s : State) (d : Fin 4) : State :=
  setF (setF s (F.FLT_SPARE_LANES_FREE d) (freeLanes s d).length) (F.FLT_SPARE_TILES_FREE d) (freeSpares s d).length

/-- No spare is available (R480): NO_SPARE and a record. -/
def noSpare (s : State) (d : Fin 4) (p : Nat) : State :=
  let x := s.dies[d]
  setB (logRecord s (logBytes 9 d (physTile x p) 0xFF p 0xFF 0xFF x.sigma x.cycle 0)) F.FLT_STATUS_NO_SPARE true

/-- Steps 2 to 5 of R479: position `p` is bound to the lowest spare, whose memories are loaded from the installed copy and
whose state is the failing tile's; the old tile serves no more. -/
def rebind (s : State) (d : Fin 4) (p : Nat) : State :=
  match freeSpares s d with
  | [] => noSpare s d p
  | t :: _ =>
    let x := s.dies[d]
    let old := physTile x p
    let s := onDie s d (fun x => { x with
      tileMap := x.tileMap.set none p (some t), badTiles := x.badTiles ++ [old]
      ecc := x.ecc.filter (fun e => e.1 / 2 ^ 40 % 256 ≠ p ∨ e.1 / 2 ^ 48 = 3) })
    let s := bumpF s F.FLT_RETIRED_COUNT 1
    showSpares (logRecord s (logBytes 6 d old 0xFF p 0xFF 0xFF x.sigma x.cycle t)) d

/-- The first step 0 that a hold announced now can name (R121, R124, R479). -/
def nextCycleStart (s : State) : Nat :=
  let lead := if !allFrozen s then 16 else if sigmaMin s = sigmaMax s then 0 else 1
  ceilDiv (sigmaMax s + lead) (cycleSteps s) * cycleSteps s

/-- The retirement of the tile at a position begins (R478, R479): under a hold where the machine executes and the position
is bound, and at once otherwise. -/
def beginRetire (s : State) (d : Fin 4) (p : Nat) : State :=
  let s := marchMeets s d p
  if freeSpares s d = [] then noSpare s d p
  else if executing s && (boundTile s d p).isSome then
    let s := onRun s (fun r => { r with retire := some ⟨d, p⟩ })
    enforceFrozen (announce (setB s F.FLT_STATUS_RETIRING true) 8 (nextCycleStart s))
  else rebind s d p

/-- The dies stand in the hold of a retirement, and the cycle before it is committed (R479); or the machine is at rest. -/
def retireDue (s : State) : Bool :=
  !executing s || (allFrozen s && sourceOn s 8 && stepOf s (sigmaMin s) == 0 && decide (currentCycle s ≤ s.run.nextCommit))

/-- A retirement under its hold ends (R479): the position is rebound, or the machine halts where the copy fails. -/
def endRetire (s : State) (d : Fin 4) (p : Nat) (copyOk : Bool) : State :=
  let s := withdraw (setB (onRun s (fun r => { r with retire := none })) F.FLT_STATUS_RETIRING false) (fun a => a.1 = 8)
  if copyOk then rebind s d p
  else if executing s then enterFaulted s (fun t => setB t F.FLT_STATUS_TILE_HALT true)
  else setB s F.FLT_STATUS_TILE_HALT true

/-- The tile has recorded three tile faults within the last second (R478). -/
def tileFailing (s : State) (d : Fin 4) (phys : Nat) : Bool :=
  decide (3 ≤ ((s.dies[d].tileFaults.get [] phys).filter (fun t => timeNs s < t + 1000000000)).length)

/-- TILE_RETIREMENT (R478, R479): a tile with three tile faults begins its retirement, and a retirement whose hold has come
ends. -/
def execTileRetirement (d : Fin 4) (phys : Fin 66) (copyOk : Bool) (s : State) : Host.Outcome State Fault Refusal :=
  .next (
    match s.run.retire with
    | some r => if r.die = d.val && physTile s.dies[d] r.tilePos = phys.val && retireDue s then endRetire s d r.tilePos copyOk else s
    | none =>
      match positionOf s d phys with
      | some p => if getB s F.FLT_CTRL_RETIRE_EN && tileFailing s d phys then beginRetire s d p else s
      | none => s)

/-- A write to FLT_RETIRE (R478): its fields, then GO. -/
def retireWrite (s : State) (v : Nat) : State :=
  let s := plainWrite s 0x80008 v
  let p := getF s F.FLT_RETIRE_TILE_POS
  if v.testBit 31 && decide (p < activePositions s) && s.run.retire.isNone then
    beginRetire s (Fin.ofNat 4 (getF s F.FLT_RETIRE_DIE)) p
  else s

/-- GO of FLT_RETIRE (R478). -/
def execGo (value : Word) (s : State) : Host.Outcome State Fault Refusal := .next (retireWrite s value.toNat)

/-! ### Lane sparing (R114, R115) -/

/-- The lane group has recorded parity errors in three cycles within the last second (R115). -/
def groupFailing (s : State) (d : Fin 4) (g : Nat) : Bool :=
  decide (3 ≤ ((s.dies[d].parityTimes.get [] g).filter (fun e => timeNs s < e.1 + 1000000000)).length)

/-- The spare lanes of die `d` are all in use: LANES_OUT and a record. -/
def lanesOut (s : State) (d : Fin 4) : State :=
  let x := s.dies[d]
  setB (logRecord s (logBytes 10 d 0xFF 0xFF 0xFFFF 0xFF 0xFF x.sigma x.cycle 0)) F.FLT_STATUS_LANES_OUT true

/-- A spare replaces a failing lane (R114, R115). -/
def spareLane (s : State) (d : Fin 4) (lane : Nat) : State :=
  match freeLanes s d with
  | [] => lanesOut s d
  | i :: rest =>
    let x := s.dies[d]
    let s := onDie s d (fun x => { x with spareMap := x.spareMap.set none i (some lane) })
    let s := showSpares (logRecord s (logBytes 7 d 0xFF 0xFF 0xFFFF 0xFF 0xFF x.sigma x.cycle (lane + i * 65536))) d
    if rest = [] then lanesOut s d else s

/-- The failing lane of a group is located (R115): a spare replaces it, or, where none is found, the group's count
restarts. -/
def locateLane (s : State) (d : Fin 4) (g : Nat) (failing : Option (Fin 16)) : State :=
  let s := onRun s (fun r => { r with sparing := none })
  let s := if s.run.retire.isNone then withdraw s (fun a => a.1 = 8) else s
  let s := onDie s d (fun x => { x with parityTimes := x.parityTimes.set [] g [] })
  match failing with
  | some k => spareLane s d (16 * g + k)
  | none => s

/-- A hold of source 8 for the location of a lane is announced as early as HOLD_LEAD allows (R115, R119). -/
def announceSparing (s : State) : State :=
  if !sourceOn s 8 && !s.holds.announced.any (fun a => a.1 = 8) then
    enforceFrozen (announce s 8 (if allFrozen s then sigmaMax s else sigmaMax s + 16))
  else s

/-- LANE_SPARING (R115, R119): a group with three parity errors asks for its hold, and in that hold firmware finds the
failing lane, or finds none.  An array at rest needs no hold. -/
def execLaneSparing (d : Fin 4) (group : Fin 512) (failing : Option (Fin 16)) (s : State) :
    Host.Outcome State Fault Refusal :=
  .next (
    match s.run.sparing with
    | some (e, g) =>
      if e = d.val && g = group.val && (!executing s || (allFrozen s && sourceOn s 8)) then locateLane s d group failing
      else s
    | none =>
      if groupFailing s d group then
        if executing s then announceSparing (onRun s (fun r => { r with sparing := some (d.val, group.val) }))
        else locateLane s d group failing
      else s)

/-! ### Tile scrubbers (R469) -/

/-- The memories that hold their errors until a fetch meets them: instruction, PS, function table, crossing table and
schedule words (R468, R470). -/
def heldMemory (mem : Nat) : Bool := [0, 1, 2, 4, 5].contains mem

/-- A word of position `p` as an upset leaves it (R468): the memories of `heldMemory` and the CVS (R71) hold the error
until a read meets it. -/
def upsetWord (s : State) (d : Fin 4) (p mem word : Nat) (e : Ecc) : State :=
  if heldMemory mem || mem = 3 then onDie s d (fun x => { x with ecc := x.ecc.set .clean (eccKey mem p word) e }) else s

/-- The scrubber of position `p` reads one word, which it finds as `ecc` (R469): a corrected word is written back, and an
uncorrectable one stays until a fetch meets it. -/
def scrubWord (s : State) (d : Fin 4) (p mem word : Nat) (ecc : Ecc) : State :=
  if heldMemory mem || mem = 6 then
    let k := eccKey mem p word
    let was := s.dies[d].ecc.get .clean k
    match (if was = .uncorrectable then was else if ecc = .clean then was else ecc) with
    | .clean => s
    | .corrected => bumpF (onDie s d (fun x => { x with ecc := x.ecc.set .clean k .clean })) F.FLT_CE_TILE_COUNT 1
    | .uncorrectable =>
      if heldMemory mem then onDie s d (fun x => { x with ecc := x.ecc.set .clean k .uncorrectable }) else s
  else s

/-- TILE_SCRUB (R469): the scrubber of a position reads one word; `upset` is what has befallen another of its words since
(R468, R43, R71). -/
def execTileScrub (d : Fin 4) (phys : Fin 66) (w : TileWord) (ecc : Ecc) (upset : Option (TileWord × Ecc)) (s : State) :
    Host.Outcome State Fault Refusal :=
  .next (
    match positionOf s d phys with
    | some p =>
      let s := scrubWord s d p w.mem.toNat w.word.toNat ecc
      match upset with
      | some u => upsetWord s d p u.1.mem.toNat u.1.word.toNat u.2
      | none => s
    | none => s)

/-! ### Computed registers of the FLT block -/

/-- FLT_TILE_MAP_DATA: the entry that FLT_TILE_MAP_INDEX names.  DESIGN CHOICE: an inactive position, of which the spec says
nothing, shows its own number. -/
def tileMapData (s : State) : Nat :=
  let x := s.dies[Fin.ofNat 4 (getF s F.FLT_TILE_MAP_INDEX_DIE)]
  let p := getF s F.FLT_TILE_MAP_INDEX_TILE_POS
  physTile x p + 2 ^ 31 * b2n (x.tileMap.get none p).isSome

/-- FLT_LOG_DATA_w: four bytes of the record that FLT_LOG_INDEX.RECORD names (R493). -/
def logData (s : State) (w : Nat) : Nat := getF s ((F.FLT_LOG_DATA_BYTES w).bank (getF s F.FLT_LOG_INDEX_RECORD))

end Sys2Proof.Machine
end

