-- ==== Sys2Proof/Machine/Clocks.lean ====
section
/-! DEFINITION. Clocks, islands and power (R494 to R519): PLLs, clock switches, holdover, the gate tree, the SCLK ramp and
the power steward. -/

namespace Sys2Proof.Machine

/-- The state with the clock block changed. -/
def onClk (s : State) (g : ClkSt → ClkSt) : State := { s with clk := g s.clk }

/-- PLL `p` is judged stable (R496). -/
def pllLocked (s : State) (p : Nat) : Bool := (getF s F.CLK_PLL_LOCK_LOCK).testBit p

/-! ### Clock switches (R500, R501) -/

/-- The PLL that feeds island `i` (R495, R498). -/
def islandPll (i : Nat) : Nat :=
  if i < 4 then i + 3 else if i = 4 then 2 else if i = 5 then 1 else if i = 6 then 0 else i

/-- The divisor D after a switch of a die's island (R509): 0 while SCLK runs from REFCLK; a start on the PLLs is at the
slowest divisor (DESIGN CHOICE: the spec gives the first value only as the start of the ramp to D_MIN). -/
def settleSclk (s : State) : State :=
  let onPll := (List.range 4).all (fun i => getF s (F.CLK_SWITCH_CURRENT i) == 1)
  let d := getF s F.CLK_SCLK_D
  if !onPll then
    setB (setF (setF (onClk s (fun c => { c with plan := none })) F.CLK_SCLK_D 0) F.CLK_SCLK_TARGET 0) F.CLK_STATUS_RAMPING false
  else if d = 0 then setF (setF s F.CLK_SCLK_D 1024) F.CLK_SCLK_TARGET 1024
  else s

/-- The switch of island `i` completes on the source that SEL names. -/
def completeSwitch (s : State) (i : Nat) : State :=
  let sel := if getF s (F.CLK_SWITCH_SEL i) = 3 then 0 else getF s (F.CLK_SWITCH_SEL i)
  settleSclk (setF (setB s (F.CLK_SWITCH_BUSY i) false) (F.CLK_SWITCH_CURRENT i) sel)

/-- A write to CLK_SWITCH_i (R501): `oldRuns` and `newRuns` say whether the two sources show edges. -/
def switchWrite (s : State) (i v : Nat) (oldRuns newRuns : Bool) : State :=
  let s := plainWrite s (0x10020 + 4 * i) v
  let sel := if bitsOf v 0 2 = 3 then 0 else bitsOf v 0 2
  if sel = getF s (F.CLK_SWITCH_CURRENT i) then setB s (F.CLK_SWITCH_BUSY i) false
  else if sel = 2 || newRuns then
    completeSwitch (if oldRuns then s else setB s (F.CLK_SWITCH_STOPPED_SRC i) true) i
  else setB s (F.CLK_SWITCH_BUSY i) true

/-- CLOCK_SWITCH (R500, R501). -/
def execClockSwitch (i : Fin 27) (value : Word) (oldRuns newRuns : Bool) (s : State) : Host.Outcome State Fault Refusal :=
  .next (switchWrite s i value.toNat oldRuns newRuns)

/-- A source of island `i` shows edges, as far as the device's own state tells: REFCLK unless it is lost, the PLL once it
is stable, and off never. -/
def sourceRuns (s : State) (i src : Nat) : Bool :=
  match src with
  | 0 => !s.clk.lost
  | 1 => pllLocked s (islandPll i)
  | _ => false

/-! ### PLLs (R495 to R497) -/

/-- Byte `b` of the group of the fabric header that sets HPLL `h` (R456). -/
def hpllByte (s : State) (h b : Nat) : Nat := headerByte s (16 * h + b)

/-- HPLL `h` is locked, and its user clocks run, or are gated low (R451, R497). -/
def showUclks (s : State) (h : Nat) (on : Bool) : State :=
  let s := setB s (if h = 0 then F.HGR_PLL_0_LOCKED else F.HGR_PLL_1_LOCKED) (on && s.hgr.loaded && hpllByte s h 0 != 0)
  (List.range 4).foldl (fun t j =>
    setB t (F.HGR_UCLK_RUNNING (4 * h + j)) (on && t.hgr.loaded && hpllByte t h 0 != 0 && hpllByte t h (4 + j) != 0)) s

/-- The device's holdover ends (R504): the die PLLs and the system PLL are stable again. -/
def endHoldover (s : State) : State :=
  if getB s F.CLK_REFCLK_HOLDOVER && !s.clk.lost && diePllsLocked s && pllLocked s 0 then
    let s := setB (setB s F.CLK_REFCLK_HOLDOVER false) F.CLK_REFCLK_STEERED false
    onClk (bumpF s F.CLK_REFCLK_LOSSES 1) (fun c => { c with expired := false })
  else s

/-- PLL `p` is judged stable (R496): its LOCK bit, and what waits for it. -/
def pllStable (s : State) (p : Nat) : State :=
  let s := setFBit s F.CLK_PLL_LOCK_LOCK p true
  let s := (List.range 27).foldl (fun t i =>
    if islandPll i = p && getF t (F.CLK_SWITCH_SEL i) == 1 && getF t (F.CLK_SWITCH_CURRENT i) != 1 then completeSwitch t i
    else t) s
  let s := if 27 ≤ p then showUclks s (p - 27) true else s
  endHoldover s

/-- PLL_STABLE (R496); checks are suspended while REFCLK is lost (R502). -/
def execPllStable (p : Fin 29) (s : State) : Host.Outcome State Fault Refusal :=
  .next (if s.clk.lost then s else pllStable s p)

/-- The links that have a lane on quad `q` (R405). -/
def quadLinks (s : State) (q : Nat) : List Nat :=
  (List.range 16).filter (fun l => getB s (F.LNK_LINK_CFG_EN l) && (linkLanes s l).any (fun k => k / 4 = q))

/-- The consequences of the unlock of PLL `p` (R497). -/
def unlocked (s : State) (p : Nat) : State :=
  if p = 0 ∨ p = 1 then setF (setB s F.CLK_STATUS_UNLOCK true) (F.CLK_SWITCH_CURRENT (if p = 0 then 6 else 5)) 0
  else if p = 2 then s
  else if p < 7 then (if executing s then badNow s (Fin.ofNat 4 (p - 3)) else s)
  else if p < 11 then
    setFBit (setFBit s F.HBM_STATUS_READY (p - 7) false) F.HBM_STATUS_SELF_REFRESH (p - 7)
      ((getF s F.HBM_STATUS_READY).testBit (p - 7) || (getF s F.HBM_STATUS_SELF_REFRESH).testBit (p - 7))
  else if p < 27 then (quadLinks s (p - 11)).foldl retrainLink s
  else showUclks s (p - 27) false

/-- PLL_UNLOCK (R497): two failed checks of a stable PLL. -/
def execPllUnlock (p : Fin 29) (s : State) : Host.Outcome State Fault Refusal :=
  .next (
    if pllLocked s p && !s.clk.lost then
      unlocked (bumpF (setFBit s F.CLK_PLL_LOCK_LOCK p false) F.CLK_PLL_UNLOCKS_COUNT 1) p
    else s)

/-! ### Holdover (R502 to R504) -/

/-- A hold of source `n` announced as early as HOLD_LEAD allows (R121). -/
def announceSoon (s : State) (n : Nat) : State :=
  if executing s && !sourceOn s n && !s.holds.announced.any (fun a => a.1 = n) then
    enforceFrozen (announce s n (if allFrozen s then sigmaMax s else sigmaMax s + 16))
  else s

/-- The hold of source 10 is due (R502, R503). -/
def clockHold (s : State) : State := announceSoon (onClk s (fun c => { c with expired := true })) 10

/-- REFCLK_LOSS (R502, R503). -/
def execRefclkLoss (s : State) : Host.Outcome State Fault Refusal :=
  let s := onClk (setB s F.CLK_REFCLK_HOLDOVER true) (fun c => { c with lost := true })
  .next (
    if multi s && !voteRoot s then
      if rootLink s ≠ [] && (rootLink s).all (linkActive s) then setB s F.CLK_REFCLK_STEERED true else clockHold s
    else s)

/-- During holdover the first link of the route towards the vote root has left Active: this device is steered no more, and its
hold of source 10 is due (R503). -/
def steeringLost (s : State) : State :=
  if getB s F.CLK_REFCLK_STEERED && s.clk.lost && !(rootLink s ≠ [] && (rootLink s).all (linkActive s)) then
    clockHold (setB s F.CLK_REFCLK_STEERED false)
  else s

/-- HOLDOVER_EXPIRY (R502). -/
def execHoldoverExpiry (s : State) : Host.Outcome State Fault Refusal :=
  .next (if s.clk.lost then clockHold s else s)

/-- REFCLK_RETURN (R504): every PLL is judged again, and switches that wait for REFCLK complete. -/
def execRefclkReturn (s : State) : Host.Outcome State Fault Refusal :=
  .next (
    if s.clk.lost then
      let s := onClk (setF s F.CLK_PLL_LOCK_LOCK 0) (fun c => { c with lost := false })
      (List.range 27).foldl (fun t i =>
        if getB t (F.CLK_SWITCH_BUSY i) && (getF t (F.CLK_SWITCH_SEL i) == 0 || getF t (F.CLK_SWITCH_SEL i) == 3) then completeSwitch t i
        else t) s
    else s)

/-! ### SCLK and its ramp (R509 to R512) -/

/-- One ramp step of the divisor `d` towards `t` (R510). -/
def rampTo (t d : Nat) : Nat := if d < t then min t (d * 32 / 31) else max t (ceilDiv (d * 32) 33)

/-- RAMP_INTERVAL in units of 100 ns. -/
def rampInterval (s : State) : Nat := clamp 1 20 (getF s F.CLK_SCLK_CTRL_RAMP_INTERVAL)

/-- Steps from a ramp step that leaves the divisor at `d` to the next (R510). -/
def rampGap (s : State) (d : Nat) : Nat := ceilDiv (rampInterval s * 20480) d

/-- D_MIN, clamped (R516). -/
def dMin (s : State) : Nat := clamp 256 1024 (getF s F.CLK_SCLK_CTRL_D_MIN)

/-- A plan towards `t` from step count `s0` comes into force in place of any other (R511). -/
def setPlan (s : State) (t s0 : Nat) : State :=
  let d := getF s F.CLK_SCLK_D
  let t := clamp 256 1024 t
  if d = 0 then s
  else if d = t then
    setB (setF (onClk s (fun c => { c with plan := none })) F.CLK_SCLK_TARGET d) F.CLK_STATUS_RAMPING false
  else setB (setF (onClk s (fun c => { c with plan := some (t, s0) })) F.CLK_SCLK_TARGET t) F.CLK_STATUS_RAMPING true

/-- Byte `i` of the characterisation data that fuse word `w` and those after it hold (R562). -/
def fusedByte (s : State) (w i : Nat) : Nat := s.sec.shadow.get 0 (w + i / 4) / 2 ^ (8 * (i % 4)) % 256

/-- The set point of VDD_C of die `d` at divisor `D`, in mV: that of the listed frequency which is not below f_SCLK
(R562, R586). -/
def vddC (s : State) (d : Fin 4) (D : Nat) : Nat :=
  let i := min 15 ((204800 - 200 * D + 40 * D - 1) / (40 * D))
  600 + (if s.boot.char.isEmpty then fusedByte s 193 (16 * d + i) else leAt s.boot.char (8208 + 16 * d + i) 1)

/-- The steward has the regulators of VDD_C go to the set points of divisor `D` (R513, R518). -/
def setVoltages (s : State) (D : Nat) : State :=
  (List.range 16).foldl (fun t n => dieList.foldl (fun t (d : Fin 4) =>
    if getB s (F.CLK_PMB_REG_EN n) && getF s (F.CLK_PMB_REG_RAIL n) == d.val then
      emit t (.vout (getF s (F.CLK_PMB_REG_ADDR n)) (vddC s d D))
    else t) t) s

/-- A plan may name step count `s0` (R511, R512): 16 steps ahead on a device alone, and step 0 of a cycle at least 1,024
cycles after the last committed one in a machine. -/
def planTime (s : State) (s0 : Nat) : Bool :=
  if multi s then stepsS s != 0 && stepOf s s0 == 0 && decide (s.run.nextCommit + 1023 ≤ cycleOf s s0)
  else decide (sigmaMax s + 16 ≤ s0)

/-- The target of a plan towards the divisor `t` that this device wants: in a machine, the largest that any device wants
(R512). -/
def planTarget (s : State) (t : Nat) : Nat := clamp 256 1024 ((s.clk.wants.map Prod.snd).foldl max t)

/-- The vote root's plan travels to every other device, which acknowledges it (R512). -/
def spreadPlan (s : State) (s0 : Nat) : State :=
  let s := onClk s (fun c => { c with acks := otherPositions s, planCycle := cycleOf s s0 })
  (otherPositions s).foldl sendMgmt s

/-- RAMP_PLAN (R511, R512): before a plan that speeds up, the steward raises the core voltages (R513).  In a machine only the
vote root makes plans. -/
def execRampPlan (target : BitVec 11) (sigma0 : Nat) (s : State) : Host.Outcome State Fault Refusal :=
  let t := planTarget s target.toNat
  .next (
    if planTime s sigma0 && voteRoot s then
      spreadPlan (setPlan (if t < getF s F.CLK_SCLK_D then setVoltages s t else s) t sigma0) sigma0
    else s)

/-- A ramp step may be taken now (R511): every die stands at its step count or beyond and none is held; on a device
alone, also while every die is frozen or the array is at rest. -/
def rampReady (s : State) (due : Nat) : Bool :=
  if executing s then
    if anyFrozen s then !multi s && allFrozen s && s.holds.resuming.isNone
    else s.holds.resuming.isNone && decide (due ≤ sigmaMin s)
  else !multi s || decide (due ≤ sigmaMin s)

/-- RAMP_STEP (R510, R511): after a plan that slowed down has finished, the steward lowers the core voltages (R513). -/
def execRampStep (s : State) : Host.Outcome State Fault Refusal :=
  .next (
    match s.clk.plan with
    | none => s
    | some (t, due) =>
      if rampReady s due then
        let d0 := getF s F.CLK_SCLK_D
        let d := rampTo t d0
        let s := setF s F.CLK_SCLK_D d
        if d = t then
          let s := if d0 < d then setVoltages s d else s
          setB (setF (onClk s (fun c => { c with plan := none })) F.CLK_SCLK_TARGET d) F.CLK_STATUS_RAMPING false
        else onClk s (fun c => { c with plan := some (t, due + rampGap s d) })
      else s)

/-! ### CLKOUT (R514) -/

/-- The source of CLKOUT: 15 to 31 are taken as 0, which holds it low. -/
def clkoutSource (s : State) : Nat := if 14 < getF s F.CLK_CLKOUT_SRC then 0 else getF s F.CLK_CLKOUT_SRC

/-- Source periods for which CLKOUT is high, and low, of one of its periods; (0, 0) where it shows the source itself. -/
def clkoutDuty (s : State) : Nat × Nat :=
  let n := getF s F.CLK_CLKOUT_DIV + 1
  if n = 1 then (0, 0) else (n / 2, n - n / 2)

/-! ### The power steward (R515 to R518) -/

/-- THROTTLED stands while the wanted divisor exceeds D_MIN (R516). -/
def showThrottled (s : State) : State :=
  setB s F.CLK_STATUS_THROTTLED (match s.clk.want with | some w => decide (dMin s < w) | none => false)

/-- The steward's wanted divisor (R516); in a machine a change of it is sent to the vote root (R512). -/
def wantDivisor (s : State) (w : Option Nat) : State :=
  let t := showThrottled (onClk s (fun k => { k with want := w }))
  if multi s && !voteRoot s && w != s.clk.want then sendMgmt t 0 else t

/-- POWER_STEWARD_TICK (R515, R516, R518); the temperatures of the HBM stacks are read at the same rate (R225). -/
def execPowerStewardTick (r : StewardReadings) (s : State) : Host.Outcome State Fault Refusal :=
  let n := r.hotSensor.val
  let c := r.hotTemp.toNat
  let s := setF (setF (setF s F.CLK_TEMP_MAX_SENSOR n) F.CLK_TEMP_MAX_SENSOR_HI (n / 256)) F.CLK_TEMP_MAX_TEMP c
  let s := setF (setF s F.CLK_POWER_MW r.powerMw.toNat) F.HBM_TEMP_TEMP r.stackTemps.toNat
  let thr := getF s F.CLK_THERM_THROTTLE_C
  let lim := getF s F.CLK_POWER_LIMIT_WATTS * 1000
  let d := getF s F.CLK_SCLK_D
  let s := onClk s (fun k => { k with hot := k.hot && decide (thr ≤ c) })
  let cooled := decide (c + getF s F.CLK_THERM_HYST ≤ thr) && decide (r.powerMw.toNat < lim)
  let s := onClk s (fun k => { k with cool := if cooled then k.cool + 1 else 0 })
  let want : Option Nat :=
    if getB s F.CLK_STATUS_PMB_FAULT && (List.range 16).any (fun i => getB s (F.CLK_PMB_REG_FAULT i)) then some 1024
    else if d = 0 then s.clk.want
    else if thr < c ∨ lim < r.powerMw.toNat then some (rampTo 1024 d)
    else if 10 ≤ s.clk.cool then some (max (dMin s) (rampTo 256 d))
    else s.clk.want
  .next (wantDivisor s want)

/-- The machine stops at the last committed boundary without a descriptor (R517). -/
def stopCommitted (s : State) : State :=
  if executing s then endStops (restStopped (designEnd (endRun s stCancelled) stCancelled 0)) stOK else s

/-- The plan of a thermal trip (R517): at once on a device alone; in a machine the vote root makes it, 1,024 cycles ahead
(R512). -/
def tripPlan (s : State) : State :=
  if !multi s then setPlan s 1024 (sigmaMax s + 16)
  else if voteRoot s then
    let s0 := (s.run.nextCommit + 1024) * cycleSteps s
    spreadPlan (setPlan s 1024 s0) s0
  else wantDivisor s (some 1024)

/-- THERMAL_TRIP (R517): in a machine it stops every device. -/
def execThermalTrip (s : State) : Host.Outcome State Fault Refusal :=
  let s := tripPlan s
  let s := (otherPositions s).foldl sendMgmt s
  let s := stopCommitted s
  .next (onClk (setB s F.CLK_STATUS_THERM_TRIP true) (fun c => { c with hot := true }))

/-- PMB_ALERT (R518): STATUS_WORD of every regulator is read; `faulty` says which show a fault or fail to answer. -/
def execPmbAlert (faulty : BitVec 16) (s : State) : Host.Outcome State Fault Refusal :=
  let s := setB s F.CLK_STATUS_PMB_FAULT true
  let s := (List.range 16).foldl (fun t i =>
    setB t (F.CLK_PMB_REG_FAULT i) (getB t (F.CLK_PMB_REG_EN i) && faulty.toNat.testBit i)) s
  .next (
    if (List.range 16).any (fun i => getB s (F.CLK_PMB_REG_FAULT i)) then
      wantDivisor s (some 1024)
    else s)

/-! ### Status outputs (R581) -/

/-- Reset is held: no phase of the start-up has begun. -/
def resetHeld (s : State) : Bool := getF s F.RST_STATUS_PHASE == 0

/-- ALERT_N is driven low (R581). -/
def alertLow (s : State) : Bool :=
  !resetHeld s && (getB s F.CLK_REFCLK_HOLDOVER || getB s F.CLK_STATUS_THROTTLED || getB s F.CLK_STATUS_PMB_FAULT)

end Sys2Proof.Machine
end

