-- ==== Sys2Proof/Machine/Management.lean ====
section
/-! DEFINITION. What the management traffic between the devices of a machine carries about design state, captures, Hallmarks and
the SCLK ramp (R207, R401, R416, R486, R489, R490, R512, R517), as its last frame brings it. -/

namespace Sys2Proof.Machine

/-- The descriptor header that stands for a request of another device: it completes nowhere here. -/
def remoteDesc : Desc := ⟨0, 0, 0, false, false, false⟩

/-- The device at position `p` has written its part (R401, R486). -/
def partDone (s : State) (hallmark : Bool) (p : Nat) : State :=
  if hallmark then onRun s (fun r => { r with hallmark := r.hallmark.map (fun h => { h with waits := h.waits.filter (· ≠ p) }) })
  else onAsy s (fun a => { a with capture := a.capture.map (fun c => { c with waits := c.waits.filter (· ≠ p) }) })

/-- This device's part of another device's CAPTURE (R401): its image as of the boundary before cycle `nb`. -/
def captureFor (s : State) (p : Nat) (tileRam : Bool) (w off nb : Nat) : State :=
  sendMgmt (winStore s w off (snapshotLength s tileRam) (snapshotImage s nb tileRam)) p

/-- This device's part of another device's HALLMARK (R486): its image as of the boundary before cycle `nb`, and its record. -/
def hallmarkFor (s : State) (p slot seq nb : Nat) : State :=
  let fab : List Section_ := if s.hgr.loaded then [fabricSection s] else []
  let m := hallmarkImage s nb (hallmarkSections s nb (fifoWindows s) ++ fab)
  let body := imageOf (commitRecord s seq nb m.1 m.2) ++ shiftImage 4096 m.1
  sendMgmt (showSlot (winStore s (hmWindow s) (slotOffset s slot) (4096 + m.2) body) slot) p

/-- What the device at position `p` finds for this device's HALLMARK (R486). -/
def takeHallmarkCheck (s : State) (p status seq : Nat) : State :=
  judgeHallmark (onRun s (fun r => { r with hallmark := r.hallmark.map (fun h => { h with
    checks := h.checks.map (fun cs => cs.filter (fun c => c.1 ≠ p) ++ [(p, status, seq)]) }) }))

/-- What the device at position `p` finds in its slot for this device's RESTORE (R489): reason 6 where it does not agree. -/
def takeRestoreCheck (s : State) (p : Nat) (pass : Bool) (cycle seq : Nat) (machineId : BitVec 128) : State :=
  match s.run.restore with
  | some r =>
    if pass && cycle = r.cycle && seq = r.seq && machineId.toNat = leNat (ingotMachineId s) then
      onRun s (fun x => { x with restore := some { r with waits := r.waits.filter (· ≠ p) } })
    else complete (onRun (setB s F.FLT_STATUS_RESTORING false) (fun x => { x with restore := none })) r.desc stWrongState 6
  | none => s

/-- This device's part of another device's RESTORE, which every device has passed (R490).  The restored channels are bound to
the owning session of this device. -/
def restoreFor (s : State) (slot : Nat) : State :=
  let n := leAt (slotRecord s slot) 24 8
  let d := { remoteDesc with
    session := Fin.ofNat 4096 (getF s F.LDR_OWNER_SESSION), sgen := BitVec.ofNat 4 (getF s F.LDR_OWNER_GEN) }
  applyRestore s ⟨d, winSlice s (hmWindow s) (slotOffset s slot + 4096) n, leAt (slotRecord s slot) 16 8,
    leAt (slotRecord s slot) 8 8, slot, []⟩

/-- The plan of the vote root reaches this device, which acknowledges it (R512). -/
def planFor (s : State) (p t s0 : Nat) : State := sendMgmt (setPlan (if t < getF s F.CLK_SCLK_D then setVoltages s t else s) t s0) p

/-- Management traffic of the device at position `p` takes effect. -/
def takeTraffic (s : State) (p : Nat) (m : MgmtTraffic) : State :=
  match m with
  | .designRead a n => serveFor s p (newReq (some p) remoteDesc false a.toNat n.toNat 0 [])
  | .designWrite a bs => serveFor s p (newReq (some p) remoteDesc true a.toNat bs.length 0 bs)
  | .designReply w st r bs => takeReply s p w st.toNat r.toNat bs
  | .capture t w o n => captureFor s p t w.val o.toNat n.toNat
  | .hallmark t q n => hallmarkFor s p (t.toNat % 2) q.toNat n.toNat
  | .check _ _ => sendMgmt s p
  | .hallmarkCheck st q => takeHallmarkCheck s p st.toNat q.toNat
  | .restoreCheck ok c q i => takeRestoreCheck s p ok c.toNat q.toNat i
  | .restore k => restoreFor s (k.toNat % 2)
  | .partDone h => partDone s h p
  | .rampWant t => onClk s (fun c => { c with wants := c.wants.set 256 p t.toNat })
  | .rampPlan t s0 => if p = 0 then planFor s p (clamp 256 1024 t.toNat) s0.toNat else s
  | .rampAck => onClk s (fun c => { c with acks := c.acks.filter (· ≠ p) })
  | .thermalStop => stopCommitted s

/-- MGMT frame (R424, R416): an accepted frame for this position ends management traffic that takes effect. -/
def execMgmtFrame (l : Fin 16) (f : MgmtIn) (s : State) : Host.Outcome State Fault Refusal :=
  .next (frameIn_ s l true f.frame (fun t =>
    let t := takeWords t f.frame
    match f.carries with
    | some m => if f.frame.destPos.toNat = position t then takeTraffic t f.frame.srcPos.toNat m else t
    | none => t))

end Sys2Proof.Machine
end

