-- ==== Sys2Proof/Machine/Net.lean ====
section
/-! DEFINITION. The package network (R236 to R259): delivery, acknowledgement and resending of packets, the interfaces of
gated blocks, probes and the trace ring. -/

namespace Sys2Proof.Machine

/-- The state with the network changed. -/
def onNet (s : State) (g : Net → Net) : State := { s with net := g s.net }

/-! ### Nodes (R237, R238) -/

/-- DIE and UNIT of a node ID. -/
def nodeDie (n : Nat) : Nat := n / 256

/-- UNIT of a node ID. -/
def nodeUnit (n : Nat) : Nat := n % 256

/-- The node ID names an endpoint: an active tile position, or a unit of the tables (R237, R238). -/
def nodeExists (s : State) (n : Nat) : Bool :=
  if nodeDie n < 4 then decide (nodeUnit n < activePositions s) || (decide (64 ≤ nodeUnit n) && decide (nodeUnit n < 68))
  else nodeDie n == 4 && decide (nodeUnit n < 0x92)

/-- The node is a tile position. -/
def isTileNode (n : Nat) : Bool := decide (nodeDie n < 4) && decide (nodeUnit n < 64)

/-- The gate node of the block at a node ID (R505); none for what no gate covers. -/
def gateOfNode (n : Nat) : Option Nat :=
  let u := nodeUnit n
  if nodeDie n < 4 then (if u < 66 then some (nodeDie n + 1) else none)
  else if nodeDie n ≠ 4 then none
  else if u < 0x40 then some (45 + u / 16)
  else if u < 0x47 then some (38 + (u - 0x40))
  else if u < 0x48 then none
  else if u < 0x68 then some (6 + (u - 0x48))
  else if u < 0x78 then some (70 + (u - 0x68))
  else if u = 0x7A then some 66
  else if u = 0x7C then some 69
  else if u = 0x7E then some 65
  else if u = 0x7F then some 67
  else if 0x80 ≤ u ∧ u < 0x90 then some (49 + (u - 0x80))
  else if u = 0x90 then some 68
  else none

/-- The node ID that stands for a gate node: that of its block, the lowest where it has several. -/
def nodeOfGate (g : Nat) : Nat :=
  if 1 ≤ g ∧ g ≤ 4 then (g - 1) * 256 + 0x40
  else 1024 + (
    if 6 ≤ g ∧ g ≤ 37 then 0x48 + (g - 6)
    else if g ≤ 44 then 0x40 + (g - 38)
    else if g ≤ 48 then (g - 45) * 16
    else if g ≤ 64 then 0x80 + (g - 49)
    else match g with
      | 65 => 0x7E
      | 66 => 0x7A
      | 67 => 0x7F
      | 68 => 0x90
      | 69 => 0x7C
      | _ => 0x68 + (g - 70))

/-- The block at a node is isolated (R253). -/
def netIsolated (s : State) (n : Nat) : Bool := match gateOfNode n with | some g => nodeIsolated s g | none => false

/-- The block at a node is asked to quiesce: its interface holds new requests (R253). -/
def netHolds (s : State) (n : Nat) : Bool :=
  match gateOfNode n with
  | some g => getB s (gateFld F.CLK_GATE_CTRL_CLOSING g)
  | none => false

/-! ### Packets and flits (R239 to R244) -/

/-- The header flit as a number, its CRC field as given (R240). -/
def headerFlit (p : Packet) (crc : Nat) : Nat :=
  p.type.toNat * 2 ^ 252 + p.vc.toNat * 2 ^ 250 + p.len.toNat * 2 ^ 245 + p.dest.toNat * 2 ^ 234 + p.src.toNat * 2 ^ 223 +
    p.tag.toNat * 2 ^ 207 + p.status.toNat * 2 ^ 203 + p.addr.toNat * 2 ^ 96 + crc * 2 ^ 64 + p.aux.toNat

/-- The header that a flit spells. -/
def headerOf_ (x : Nat) (payload : List (BitVec 256)) : Packet :=
  let f := fun (lo w : Nat) => bitsOf x lo w
  ⟨BitVec.ofNat 4 (f 252 4), BitVec.ofNat 2 (f 250 2), BitVec.ofNat 5 (f 245 5), BitVec.ofNat 11 (f 234 11),
    BitVec.ofNat 11 (f 223 11), BitVec.ofNat 16 (f 207 16), BitVec.ofNat 4 (f 203 4), BitVec.ofNat 64 (f 96 64),
    BitVec.ofNat 64 (f 0 64), payload⟩

/-- The end-to-end CRC over a header flit without its CRC, and the payload (R243). -/
def flitsCrc (header : Nat) (payload : List (BitVec 256)) : Nat :=
  crc32 (leBytes 32 header ++ payload.flatMap (fun f => leBytes 32 f.toNat))

/-- The end-to-end CRC of a packet, as its source interface computes it (R243). -/
def packetCrc (p : Packet) : Nat := flitsCrc (headerFlit p 0) p.payload

/-- The virtual channels that a packet of a type may travel on (R241); every one for a reserved type. -/
def vcAllowed (type vc : Nat) : Bool :=
  match type with
  | 0 => vc == 0 || vc == 3
  | 1 => vc == 0 || vc == 2 || vc == 3
  | 2 | 3 | 4 => vc == 1 || vc == 3
  | 5 => vc == 3
  | _ => true

/-- The source interface injects a packet: its LEN is at most 16 (R249), and its VC is one that carries its type (R241). -/
def sourceTakes (p : Packet) : Bool := decide (p.len.toNat ≤ 16) && vcAllowed p.type.toNat p.vc.toNat

/-- A flit on the wire (R239): data [255:0] under four codes [287:256], and three copies of HEAD, TAIL, POISON and VC[1:0]. -/
structure Flit where
  bits : BitVec 288
  side : BitVec 15
  deriving DecidableEq, Repr

/-- 64-bit word `i` of a flit's data, with its code. -/
def flitWord (x : BitVec 288) (i : Nat) : BitVec 64 × BitVec 8 :=
  (x.extractLsb' (64 * i) 64, x.extractLsb' (256 + 8 * i) 8)

/-- The data of a flit. -/
def flitData (x : BitVec 288) : BitVec 256 := x.extractLsb' 0 256

/-- A flit as an interface builds it: each word under its code. -/
def makeFlit (data : BitVec 256) (head tail : Bool) (vc : BitVec 2) : Flit :=
  let code := (List.range 4).foldl
    (fun c i => c + (Config.secded (data.extractLsb' (64 * i) 64)).toNat * 2 ^ (256 + 8 * i)) 0
  let side := BitVec.ofNat 5 (b2n head + 2 * b2n tail + 8 * vc.toNat)
  ⟨BitVec.ofNat 288 (data.toNat + code), side ++ side ++ side⟩

/-- The flits of a packet: the header, which carries the CRC, and the payload. -/
def packetFlits (p : Packet) : List Flit :=
  let n := p.payload.length
  makeFlit (BitVec.ofNat 256 (headerFlit p (packetCrc p))) true (n == 0) p.vc ::
    p.payload.mapIdx (fun i x => makeFlit x false (i + 1 == n) p.vc)

/-- Bit by bit, the majority of the three sideband copies. -/
def majority (x : BitVec 15) : BitVec 5 :=
  let a := x.extractLsb' 0 5
  let b := x.extractLsb' 5 5
  let c := x.extractLsb' 10 5
  (a &&& b) ||| (a &&& c) ||| (b &&& c)

/-- How the code of a word in which `n` bits flip shows them: SECDED corrects one and detects two. -/
def flipsShow (n : Nat) (beyond : Ecc) : Ecc :=
  match n with
  | 0 => .clean
  | 1 => .corrected
  | 2 => .uncorrectable
  | _ => beyond

/-- Bits that are set. -/
def ones (n x : Nat) : Nat := (List.range n).foldl (fun k i => k + b2n (x.testBit i)) 0

/-- What an upset makes of word `i` of a flit. -/
def wordShows (u : HopUpset) (i : Nat) : Ecc :=
  let w := flitWord u.bits i
  flipsShow (ones 64 w.1.toNat + ones 8 w.2.toNat) u.beyond

/-- The flips of an upset that go on: all but a single one of a word, which the router corrects. -/
def flipsLeft (u : HopUpset) : BitVec 288 :=
  (List.range 4).foldl (fun x i =>
    let w := flitWord u.bits i
    if ones 64 w.1.toNat + ones 8 w.2.toNat ≤ 1 then x
    else x ||| BitVec.ofNat 288 (w.1.toNat * 2 ^ (64 * i) + w.2.toNat * 2 ^ (256 + 8 * i))) 0

/-- The router where an upset strikes a flit checks it (R239, R248): it forwards the flit corrected, with POISON set where a word
is uncorrectable, and its sideband bits as the majority has them. -/
def hopFlit (u : HopUpset) (f : Flit) : Flit :=
  let m := majority (f.side ^^^ u.side) ||| (if (List.range 4).any (fun i => wordShows u i = .uncorrectable) then 4 else 0)
  ⟨f.bits ^^^ flipsLeft u, m ++ m ++ m⟩

/-- What the router counts and records of it (R248). -/
def hopCounts (s : State) (u : HopUpset) : State :=
  (List.range 4).foldl (fun t i =>
    match wordShows u i with
    | .clean => t
    | .corrected => bumpF t F.NET_CE_COUNT_COUNT 1
    | .uncorrectable => setF (setF (bumpF (setB t F.NET_STATUS_UE_HOP true) F.NET_UE_COUNT_COUNT 1) F.NET_UE_LOC_PORT u.port.toNat)
        F.NET_UE_LOC_NODE u.node.toNat) s

/-- A packet as its destination reads it: its header and payload, the CRC field, whether a flit is poisoned, and the CRC over
what came. -/
structure Received where
  pkt : Packet
  crc : Nat
  poison : Bool
  check : Nat
  deriving DecidableEq, Repr

/-- The flits from HEAD to TAIL, delimited by their sideband bits (R249); none where either is lost. -/
def delimited (fs : List Flit) : Option (List Flit) :=
  match fs.dropWhile (fun f => !(majority f.side).getLsbD 0) with
  | [] => none
  | gs => (gs.findIdx? (fun f => (majority f.side).getLsbD 1)).map (fun i => gs.take (i + 1))

/-- The packet that flits spell. -/
def readFlits (fs : List Flit) : Option Received :=
  match delimited fs with
  | some (h :: t) =>
    let x := (flitData h.bits).toNat
    let payload := t.map (fun f => flitData f.bits)
    let crc := bitsOf x 64 32
    some ⟨headerOf_ x payload, crc, (h :: t).any (fun f => (majority f.side).getLsbD 2), flitsCrc (x - crc * 2 ^ 64) payload⟩
  | _ => none

/-- What the destination reads of a packet after the upsets on its way; none where it finds no packet.  What nothing strikes
arrives as it was sent. -/
def received (p : Packet) (us : List HopUpset) : Option Received :=
  if us = [] then some ⟨p, packetCrc p, false, packetCrc p⟩
  else readFlits (us.foldl (fun fs u => fs.modify u.flit (hopFlit u)) (packetFlits p))

/-- The destination discards what it read (R249). -/
def packetBad (r : Received) : Bool :=
  r.poison || r.crc != r.check || decide (5 < r.pkt.type.toNat) || decide (16 < r.pkt.len.toNat) ||
    r.pkt.len.toNat != r.pkt.payload.length

/-- The packet is a request that its block answers. -/
def isRequest (p : Packet) : Bool := decide (p.type.toNat < 2)

/-- The packet is a response (R241). -/
def isResponse (p : Packet) : Bool := decide (2 ≤ p.type.toNat) && decide (p.type.toNat ≤ 4)

/-! ### Probes and the trace ring (R255 to R258) -/

/-- A probe's comparison of a node ID. -/
def nodeMatch (mask node n : Nat) : Bool := (n ^^^ node) &&& mask == 0

/-- Probe `n` matches the packet at `point`, at its ejection port or its injection port (R255). -/
def probeMatch (s : State) (n : Nat) (p : Packet) (point : Nat) (eject : Bool) : Bool :=
  getB s (F.NET_PROBE_CTRL_EN n) && getB s (F.NET_PROBE_CTRL_DIR n) == eject && getF s (F.NET_PROBE_CTRL_POINT n) == point &&
    (getF s (F.NET_PROBE_CTRL_VC_MASK n)).testBit p.vc.toNat && decide (p.type.toNat < 8) &&
    (getF s (F.NET_PROBE_CTRL_TYPE_MASK n)).testBit p.type.toNat &&
    nodeMatch (getF s (F.NET_PROBE_SRC_MASK n)) (getF s (F.NET_PROBE_SRC_NODE n)) p.src.toNat &&
    nodeMatch (getF s (F.NET_PROBE_DEST_MASK n)) (getF s (F.NET_PROBE_DEST_NODE n)) p.dest.toNat

/-- A tile node bound to a sealed Ingot that has not been unsealed (R257). -/
def sealedNode (s : State) (n : Nat) : Bool :=
  isTileNode n && sealedNow s && (boundTile s (Fin.ofNat 4 (nodeDie n)) (nodeUnit n)).isSome

/-- The 32 bytes of a trace record (R258). -/
def traceRecord (s : State) (n : Nat) (p : Packet) (crc : Nat) (eject again : Bool) : List Byte :=
  leBytes 8 (timeNs s) ++ leBytes 1 (n + 128 * b2n eject) ++ leBytes 1 (p.type.toNat + 16 * p.vc.toNat + 64 * b2n again) ++
    leBytes 2 p.src.toNat ++ leBytes 2 p.dest.toNat ++ leBytes 2 p.tag.toNat ++ leBytes 1 p.len.toNat ++ leBytes 1 p.status.toNat ++
    leBytes 2 0 ++ leBytes 8 p.addr.toNat ++ leBytes 4 crc

/-- Records that the trace ring holds. -/
def ringSize (s : State) : Nat := winSize s (getF s F.NET_TRACE_WINDOW_WINDOW) / 32

/-- A record written to the trace ring (R256): a full ring wraps, also one that filled before WRAP was set, or ends tracing.  A record that the trace path cannot
take at once is dropped and counted. -/
def ringWrite (s : State) (bs : List Byte) (busy : Bool) : State :=
  let w := getF s F.NET_TRACE_WINDOW_WINDOW
  let next := getF s F.NET_TRACE_INDEX_NEXT
  let i := if ringSize s ≤ next ∧ getB s F.NET_TRACE_CTRL_WRAP then 0 else next
  if !(getB s F.NET_TRACE_CTRL_EN && winOwned s w 5 && decide (i < ringSize s)) then s
  else if busy then bumpF s F.NET_TRACE_LOST_COUNT 1
  else
    let s := setF (winWriteBytes s w (32 * i) bs) F.NET_TRACE_INDEX_NEXT (i + 1)
    if i + 1 < ringSize s then s
    else if getB s F.NET_TRACE_CTRL_WRAP then setF s F.NET_TRACE_INDEX_NEXT 0
    else setB (setB s F.NET_STATUS_TRACE_FULL true) F.NET_TRACE_CTRL_EN false

/-- A packet passes a point: every probe that matches it counts it, and traces it where it may (R255 to R257). -/
def passPoint (s : State) (p : Packet) (crc point : Nat) (eject again busy : Bool) : State :=
  (List.range 32).foldl (fun t n =>
    if probeMatch t n p point eject then
      let t := bumpF (bumpF t (F.NET_PROBE_PKTS_COUNT n) 1) (F.NET_PROBE_FLITS_COUNT n) (1 + p.payload.length)
      if getB t (F.NET_PROBE_CTRL_TRACE n) && !sealedNode t p.src.toNat && !sealedNode t p.dest.toNat then
        ringWrite t (traceRecord t n p crc eject again) busy
      else t
    else t) s

/-! ### The retry store (R250, R251) -/

/-- The packet is in its source's retry store. -/
def stored (s : State) (p : Packet) : Bool := s.net.store.any (fun e => e.pkt = p)

/-- Packets of a source that are outstanding. -/
def outstanding (s : State) (src : BitVec 11) : Nat := (s.net.store.filter (fun e => e.pkt.src = src)).length

/-- A response of type `ty` acknowledges a packet of type `of_` (R250). -/
def acknowledges (ty of_ : Nat) : Bool :=
  if of_ = 0 then ty == 2 || ty == 4 else if of_ = 1 then ty == 3 || ty == 4 else ty == 3

/-- The packet `r` answers the packet `p`, which has reached its destination (R250). -/
def answers (r p : Packet) : Bool :=
  r.src = p.dest && r.dest = p.src && r.tag = p.tag && acknowledges r.type.toNat p.type.toNat

/-- The source injects a packet for the first time (R250): kept, unless it is an ACK, until it is acknowledged.  A request that
it answers is open no longer (R253). -/
def inject (s : State) (p : Packet) (busy : Bool) : State :=
  if stored s p then s
  else
    let s := passPoint s p (packetCrc p) p.src.toNat false false busy
    onNet s (fun n => { n with
      store := if p.type.toNat = 3 then n.store else n.store ++ [⟨p, 1⟩]
      opened := n.opened.filter (fun q => !answers p q) })

/-- A response reaches the source of what it acknowledges: the retry store lets the packet go. -/
def retireEntry (s : State) (p : Packet) : State :=
  onNet s (fun n => { n with store := n.store.filter (fun e => !answers p e.pkt) })

/-- The VC of an answer (R244): VC1 for VC0 and VC2, and VC3 for VC3; an acknowledged response keeps its own. -/
def answerVc (p : Packet) : BitVec 2 := if p.vc = 3 then 3 else 1

/-- The packet that answers `p`, with its payload; its ADDR is not stated, and free. -/
def answerPacket (p : Packet) (type status : Nat) (addr : DWord) (payload : List (BitVec 256)) : Packet :=
  ⟨BitVec.ofNat 4 type, answerVc p, BitVec.ofNat 5 payload.length, p.src, p.dest, p.tag, BitVec.ofNat 4 status, addr, 0, payload⟩

/-- The destination of `p` sends a packet in answer, with the CRC that its interface computes. -/
def answerWith (s : State) (p : Packet) (type status : Nat) (payload : List (BitVec 256)) : State :=
  let (a, s) := drawFree s
  let r := answerPacket p type status (BitVec.ofNat 64 a) payload
  emit s (.packet r (packetCrc r))

/-- An answer of a header alone. -/
def answer (s : State) (p : Packet) (type status : Nat) : State := answerWith s p type status []

/-! ### Targets (R241, R242) -/

/-- Bytes in flits of 32; what lies past the last byte is not stated and 0 (DESIGN CHOICE). -/
def bytesFlits (bs : List Byte) : List (BitVec 256) :=
  (List.range ((bs.length + 31) / 32)).map (fun i => BitVec.ofNat 256 (leNat (slice bs (32 * i) 32)))

/-- The bytes that a WRITE_REQ writes from ADDR on, by enable: every one of the flits before the last, and those of the last
that AUX enables (R240). -/
def requestBytes (p : Packet) : List (Option Byte) :=
  let n := p.payload.length
  (p.payload.mapIdx (fun i f => (leBytes 32 f.toNat).mapIdx (fun k b =>
    if i + 1 < n || p.aux.getLsbD k then some b else none))).flatten

/-- Free bytes, where the spec does not say what stands at a target's addresses. -/
def freeBytes (s : State) : Nat → List Byte × State
  | 0 => ([], s)
  | n + 1 =>
    let (v, s) := drawFree s
    let (bs, s) := freeBytes s n
    (BitVec.ofNat 8 v :: bs, s)

/-- What `n` bytes at address `a` of the unit at a hub node read, and the state after: a scratch bank, port B of the exchange
RAM, and a channel engine's local memory, each from its first byte on (DEDUCED); at any other target, or past the end, free
values. -/
def unitRead (s : State) (u a n : Nat) (ecc : Ecc) : List Byte × State :=
  if 0x68 ≤ u ∧ u < 0x78 ∧ a + n ≤ 2097152 then
    let x := (u - 0x68) * 2097152 + a
    (Memory.readBytes marchFill s.ctl.scratch x n, scratchEcc s x ecc)
  else if u = 0x7C ∧ a + n ≤ 0x100000 then ((List.range n).map (fun i => portBByte s (a + i)), s)
  else if 0x48 ≤ u ∧ u < 0x68 ∧ a + n ≤ 0x10000 then
    (Memory.readBytes marchFill s.chn.local_ ((u - 0x48) * 65536 + a) n, s)
  else freeBytes s n

/-- A write of bytes at address `a` of the unit at a hub node, at the same targets; at any other it is the command of the
target's own chapter. -/
def unitWrite (s : State) (u a : Nat) (bs : List (Option Byte)) : State :=
  let n := bs.length
  if 0x68 ≤ u ∧ u < 0x78 ∧ a + n ≤ 2097152 then scratchStore s ((u - 0x68) * 2097152 + a) bs
  else if u = 0x7C ∧ a + n ≤ 0x100000 then (wordsOf a bs).foldl portBWord s
  else if 0x48 ≤ u ∧ u < 0x68 ∧ a + n ≤ 0x10000 then
    { s with chn := { s.chn with local_ := Memory.writeEnabled marchFill s.chn.local_ ((u - 0x48) * 65536 + a) bs } }
  else s

/-- The unit of the hub that a request goes to; 0x100 for one of another die. -/
def hubUnit (p : Packet) : Nat := if nodeDie p.dest.toNat = 4 then nodeUnit p.dest.toNat else 0x100

/-- The target answers a READ_REQ (R241, R242): AUX[8:0] + 1 bytes, or POISON where it holds them as uncorrectable. -/
def serveRead (s : State) (p : Packet) (ecc : Ecc) : State :=
  let r := unitRead s (hubUnit p) p.addr.toNat (p.aux.toNat % 512 + 1) ecc
  if ecc = .uncorrectable then answer r.2 p 4 4 else answerWith r.2 p 2 0 (bytesFlits r.1)

/-- The target takes a WRITE_REQ. -/
def serveWrite (s : State) (p : Packet) : State := unitWrite s (hubUnit p) p.addr.toNat (requestBytes p)

/-- A request that its target has taken and not answered (R253). -/
def leaveOpen (s : State) (p : Packet) : State := onNet s (fun n => { n with opened := n.opened ++ [p] })

/-- A delivered packet and what comes of it (R241, R242, R250): data for a read, an ACK otherwise, nothing for an ACK. -/
def serve (s : State) (p : Packet) (finds : TargetFinds) : State :=
  match p.type.toNat with
  | 0 =>
    match finds with
    | .served ecc => serveRead s p ecc
    | .denied => answer s p 4 6
    | .timeout => answer s p 4 5
    | .later => leaveOpen s p
  | 1 =>
    match finds with
    | .served _ => answer (serveWrite s p) p 3 0
    | .denied => answer s p 4 6
    | .timeout => answer s p 4 5
    | .later => leaveOpen (serveWrite s p) p
  | 3 => s
  | _ => answer s p 3 0

/-! ### Delivery (R248 to R250, R253) -/

/-- A packet is delivered to its block; its TAG is kept, but for that of an ACK, which is another packet's. -/
def deliver (s : State) (p : Packet) (finds : TargetFinds) : State :=
  let k := p.dest.toNat * 2048 + p.src.toNat
  let s := if p.type.toNat = 3 then s
    else onNet s (fun n => { n with seen := n.seen.modify [] k (fun ts => (ts ++ [p.tag.toNat]).drop (ts.length - 255)) })
  serve (if isResponse p then retireEntry s p else s) p finds

/-- The destination has delivered a packet of this source and TAG (R250). -/
def seenBefore (s : State) (p : Packet) : Bool :=
  p.type.toNat != 3 && (s.net.seen.get [] (p.dest.toNat * 2048 + p.src.toNat)).contains p.tag.toNat

/-- A packet that was delivered before is acknowledged again, unless its answer is still to come: by the response that the
interface still keeps, or by an ACK; a read whose response it keeps no longer is answered anew (DESIGN CHOICE). -/
def acknowledgeAgain (s : State) (p : Packet) (finds : TargetFinds) : State :=
  if s.net.opened.contains p then s
  else match s.net.store.find? (fun e => answers e.pkt p) with
    | some e => emit s (.packet e.pkt (packetCrc e.pkt))
    | none => if p.type.toNat = 0 then serve s p finds else answer s p 3 0

/-- A response to an isolated block (R253): a forced isolation discards it, and a clean close, after which none is due, does
not. -/
def lateResponse (s : State) (p : Packet) : State :=
  if (gateOfNode p.dest.toNat).any (fun g => getB s (gateFld F.CLK_GATE_CTRL_ISOLATED g)) then
    bumpF s F.NET_E2E_COUNT_DISCARDS 1
  else deliver s p .later

/-- A packet that has passed the checks of R249 reaches its destination's interface (R238, R250, R253).  An event for an
isolated block is neither taken nor answered. -/
def accept (s : State) (p : Packet) (finds : TargetFinds) : State :=
  let n := p.dest.toNat
  if !nodeExists s n then answer s p 4 2
  else if seenBefore s p then acknowledgeAgain s p finds
  else if netIsolated s n then
    if isRequest p then answer s p 4 1 else if isResponse p then lateResponse s p else s
  else if netHolds s n && isRequest p then
    if s.net.held.contains p then s else onNet s (fun x => { x with held := x.held ++ [p] })
  else deliver s p finds

/-- What the destination makes of the flits that come (R249). -/
def arriveAt (s : State) (r : Option Received) (finds : TargetFinds) (busy : Bool) : State :=
  match r with
  | none => bumpF s F.NET_E2E_COUNT_DISCARDS 1
  | some r =>
    let s := passPoint s r.pkt r.crc r.pkt.dest.toNat true (seenBefore s r.pkt) busy
    if packetBad r then bumpF s F.NET_E2E_COUNT_DISCARDS 1 else accept s r.pkt finds

/-- PACKET_DELIVERY (R243, R248, R249): a packet goes from its source's interface to its destination's; a source with 256
packets outstanding injects no more (R250). -/
def execPacketDelivery (p : Packet) (w : PacketWay) (s : State) : Host.Outcome State Fault Refusal :=
  .next (
    if !sourceTakes p then s
    else if !stored s p && p.type.toNat != 3 && decide (256 ≤ outstanding s p.src) then s
    else arriveAt (w.upsets.foldl hopCounts (inject s p w.busy)) (received p w.upsets) w.finds w.busy)

/-- What a client of the source gets when a packet is given up (R251).  A memory port's requests and the commit's releases
travel from tiles on VC0 (R244); every other client gets ERROR_RESP with E2E. -/
def giveUp (s : State) (p : Packet) : State :=
  let s := setF (setF (setB s F.NET_STATUS_E2E_FAIL true) F.NET_E2E_LAST_DEST p.dest.toNat) F.NET_E2E_LAST_SRC p.src.toNat
  if isTileNode p.src.toNat && executing s && p.vc = 0 && p.type.toNat = 0 then badNow s (Fin.ofNat 4 (nodeDie p.src.toNat))
  else if isTileNode p.src.toNat && executing s && p.vc = 0 && p.type.toNat = 1 then
    enterFaulted s (fun t =>
      logRecord (setB t F.FLT_STATUS_HBM_HALT true)
        (logBytes 5 (nodeDie p.src.toNat) 0xFF 0xFF (nodeUnit p.src.toNat) 0xFF 0xFF (sigmaMin s) s.run.nextCommit 0))
  else answer s p 4 3

/-- PACKET_RESEND (R250, R251): RESEND_US pass without acknowledgement of the oldest such packet of the source. -/
def execPacketResend (key : PacketKey) (busy : Bool) (s : State) : Host.Outcome State Fault Refusal :=
  .next (
    match s.net.store.find? (fun e => e.pkt.src = key.src ∧ e.pkt.tag = key.tag) with
    | none => s
    | some e =>
      let others := fun (n : Net) => n.store.filter (fun x => x ≠ e)
      if getF s F.NET_CTRL_RETRIES < e.sent then giveUp (onNet s (fun n => { n with store := others n })) e.pkt
      else
        let s := onNet s (fun n => { n with store := n.store.map (fun x => if x = e then { x with sent := x.sent + 1 } else x) })
        let s := passPoint (bumpF s F.NET_E2E_COUNT_RESENDS 1) e.pkt (packetCrc e.pkt) e.pkt.src.toNat false false busy
        emit s (.packet e.pkt (packetCrc e.pkt)))

/-! ### The trace ring's control (R256) -/

/-- A write to NET_TRACE_CTRL (R256): CLEAR, WRAP, and EN, which needs an enabled window of the firmware. -/
def netTraceWrite (s : State) (v : Nat) : State :=
  let s := setB s F.NET_TRACE_CTRL_WRAP (v.testBit 1)
  let s := if v.testBit 4 then setF s F.NET_TRACE_INDEX_NEXT 0 else s
  if v.testBit 31 && !getB s F.NET_TRACE_CTRL_EN && !winOwned s (getF s F.NET_TRACE_WINDOW_WINDOW) 5 then
    setB s F.NET_STATUS_TRACE_REJECT true
  else setB s F.NET_TRACE_CTRL_EN (v.testBit 31)

/-- TRACE_CLEAR (R256). -/
def execTraceClear (value : Word) (s : State) : Host.Outcome State Fault Refusal := .next (netTraceWrite s value.toNat)

/-- TRACE_ENABLE (R256). -/
def execTraceEnable (value : Word) (s : State) : Host.Outcome State Fault Refusal := .next (netTraceWrite s value.toNat)

end Sys2Proof.Machine
end

