-- ==== Sys2Proof/Machine/Security.lean ====
section
/-! DEFINITION. Keys, sealing and physical presence (R561 to R576): the fuse array, the battery-backed key and the
presence protocol. -/

namespace Sys2Proof.Machine

/-- The state with the security block changed. -/
def onSec (s : State) (g : Sec → Sec) : State := { s with sec := g s.sec }

/-! ### Fuses (R561 to R563) -/

/-- A word of the fuse shadow. -/
def fuseShadow (s : State) (w : Nat) : Nat := s.sec.shadow.get 0 w

/-- A word of the fuse array. -/
def fuseWord (s : State) (w : Nat) : Nat := s.sec.fuses.get 0 w

/-- The eight words of key slot `k` in a copy of the fuses, as a number of 256 bits (R562). -/
def slotKey (m : SMap Nat) (k : Nat) : Nat :=
  (List.range 8).foldl (fun v i => v + m.get 0 (2 + 8 * k + i) * 2 ^ (32 * i)) 0

/-- The KCV of a key (R562). -/
def kcv (key : Nat) : Nat := Config.keyCheck key % 65536

/-- Key slot `k` is usable (R563). -/
def slotUsable (s : State) (k : Nat) : Bool :=
  let w := fuseShadow s (34 + k)
  w.testBit 31 && !w.testBit 30 && kcv (slotKey s.sec.shadow k) == w % 65536

/-- Key slot `k` is spoiled (R563). -/
def slotSpoiled (s : State) (k : Nat) : Bool := !(fuseShadow s (34 + k)).testBit 31 && slotKey s.sec.shadow k ≠ 0

/-- The key that KEY_SEL names, where it is usable (R563, R568). -/
def loadKey (s : State) (sel : Nat) : Option Nat :=
  if sel < 4 then (if slotUsable s sel then some (slotKey s.sec.shadow sel) else none)
  else if sel = 4 ∧ getB s F.SEC_BBK_LOADED ∧ (fuseShadow s 52).testBit 1 = false then some s.sec.bbk
  else none

/-- SEC_KEY_SLOT_k as a read returns it. -/
def keySlotRead (s : State) (k : Nat) : Nat :=
  let w := fuseShadow s (34 + k)
  b2n (w.testBit 31) * 2 ^ 31 + b2n (w.testBit 30) * 2 ^ 30 + b2n (slotSpoiled s k) * 2 ^ 29 +
    b2n (slotUsable s k) * 2 ^ 28 + w % 65536

/-- Bits that are 1 in a number of `n` bits. -/
def popcount (x : Nat) : Nat → Nat
  | 0 => 0
  | n + 1 => x % 2 + popcount (x / 2) n

/-- The minimum SVN (R562): a thermometer of 64 bits. -/
def minSvn (s : State) : Nat := popcount (fuseShadow s 50) 32 + popcount (fuseShadow s 51) 32

/-- A read of SEC_FUSE_DATA (R561): the shadow word, 0 for key words; the index advances. -/
def fuseDataRead (s : State) : Nat × State :=
  let w := getF s F.SEC_FUSE_INDEX_WORD
  (if 2 ≤ w ∧ w ≤ 33 then 0 else fuseShadow s w, wrapF s F.SEC_FUSE_INDEX_WORD 1)

/-- FUSE_DATA_READ (R561). -/
def execFuseDataRead (s : State) : Host.Outcome State Fault Refusal :=
  let (v, s) := fuseDataRead s
  .next (emit s (.readValue 0 v))

/-! ### Staged entries (R564) -/

/-- The stage of an entry, banked by SEC_FUSE_STAGE_INDEX. -/
def stageFld (f : Fld) (e : Nat) : Fld := f.bank e

/-- The valid entries of the stage, in order: entry, word, bits. -/
def stagedEntries (s : State) : List (Nat × Nat × Nat) :=
  ((List.range 16).filter (fun e => getB s (stageFld F.SEC_FUSE_STAGE_ADDR_VALID e))).map (fun e =>
    (e, getF s (stageFld F.SEC_FUSE_STAGE_ADDR_WORD e), getF s (stageFld F.SEC_FUSE_STAGE_DATA_BITS e)))

/-- The word is a slot state word. -/
def isStateWord (w : Nat) : Bool := decide (34 ≤ w) && decide (w < 38)

/-- The entry only sets REVOKED of a slot state word: it is valid for any slot (R564). -/
def onlyRevokes (held w bits : Nat) : Bool := isStateWord w && bits.testBit 30 && ((held ||| bits) == held ||| 2 ^ 30)

/-- The check that an entry of the stage fails, if any, in the order of R564. -/
def entryCheck (s : State) (es : List (Nat × Nat × Nat)) (e : Nat × Nat × Nat) : Option Nat :=
  let w := e.2.1
  let bits := e.2.2
  let held := fuseWord s w
  if onlyRevokes held w bits then none
  else if held &&& bits ≠ held then some 1
  else if (53 ≤ w ∧ w ≤ 63) ∨ (209 ≤ w ∧ w ≤ 221) ∨ (w < 2 ∧ (fuseWord s 0 ≠ 0 ∨ fuseWord s 1 ≠ 0)) then some 2
  else if 2 ≤ w ∧ w ≤ 33 ∧ (slotKey s.sec.fuses ((w - 2) / 8) ≠ 0 ∨ (fuseWord s (34 + (w - 2) / 8)).testBit 31) then some 3
  else if isStateWord w ∧ bits.testBit 31 ∧ held.testBit 31 = false ∧
      (List.range 8).any (fun i => !es.any (fun x => x.2.1 = 2 + 8 * (w - 34) + i)) then some 4
  else if w = 52 ∧ held.testBit 0 ∧ bits / 2 ≠ 0 then some 5
  else none

/-- The first entry of the stage that fails a check, with its result (R564). -/
def stageFailure (s : State) : Option (Nat × Nat) :=
  let es := stagedEntries s
  es.findSome? (fun e => (entryCheck s es e).map (fun r => (e.1, r)))

/-- The order in which a burn takes the entries (R565): slot state words after all others. -/
def burnOrder (es : List (Nat × Nat × Nat)) : List (Nat × Nat × Nat) :=
  es.filter (fun e => !isStateWord e.2.1) ++ es.filter (fun e => isStateWord e.2.1)

/-- A word burned and verified: it is copied into the shadow at once (R565). -/
def burnEntry (s : State) (e : Nat × Nat × Nat) : State :=
  let v := fuseWord s e.2.1 ||| e.2.2
  onSec s (fun h => { h with fuses := h.fuses.set 0 e.2.1 v, shadow := h.shadow.set 0 e.2.1 v })

/-- A word whose burn did not verify: some of its bits are burned (a free value), and the shadow keeps the word. -/
def burnPart (s : State) (e : Nat × Nat × Nat) : State :=
  let (v, s) := drawFree s
  onSec s (fun h => { h with fuses := h.fuses.set 0 e.2.1 (h.fuses.get 0 e.2.1 ||| (e.2.2 &&& v)) })

/-- The result of a presence command. -/
def presenceResult (s : State) (entry result : Nat) : State :=
  setF (setF (setF s F.SEC_FUSE_RESULT_ENTRY entry) F.SEC_FUSE_RESULT_RESULT result)
    F.SEC_PRESENCE_STATUS_LAST_RESULT result

/-- The burn under way ends. -/
def endBurn (s : State) (entry result : Nat) : State :=
  presenceResult (setB (onSec s (fun h => { h with burn := [] })) F.SEC_STATUS_FUSE_BUSY false) entry result

/-- A burn that is interrupted after some of its words (R566): how many is a free value.  The bit in progress is
completed. -/
def breakBurn (s : State) : State :=
  if s.sec.burn = [] then s
  else
    let (v, s) := drawFree s
    let es := s.sec.burn
    let n := v % es.length
    let s := (es.take n).foldl burnEntry s
    match es.drop n with
    | e :: _ => endBurn (burnPart s e) e.1 6
    | [] => s

/-! ### The presence protocol (R572, R573) -/

/-- The staged key of LOAD_BBK is cleared (R569). -/
def clearBbkStage (s : State) : State := (List.range 8).foldl (fun t w => setF t (F.SEC_BBK_STAGE_KEY w) 0) s

/-- The window closes; a staged key is cleared with it (R569). -/
def closeWindow (s : State) : State :=
  if getB s F.SEC_STATUS_WINDOW then
    clearBbkStage (setF (setB s F.SEC_STATUS_WINDOW false) F.SEC_PRESENCE_STATUS_SECONDS_LEFT 0)
  else s

/-- The armed command is disarmed. -/
def disarm (s : State) : State :=
  setF (setB (closeWindow s) F.SEC_STATUS_ARMED false) F.SEC_PRESENCE_STATUS_ARMED_CMD 0

/-- A command is armed (R572, R573): codes 1 to 6 arm, and a later ARM replaces the armed command. -/
def arm (s : State) (c : Nat) : State :=
  if 1 ≤ c ∧ c ≤ 6 then setF (setB (closeWindow s) F.SEC_STATUS_ARMED true) F.SEC_PRESENCE_STATUS_ARMED_CMD c else s

/-- LOAD_BBK (R569): the staged key goes to the key register. -/
def loadBbk (s : State) : State :=
  let key := (List.range 8).foldl (fun v w => v + getF s (F.SEC_BBK_STAGE_KEY w) * 2 ^ (32 * w)) 0
  let s := onSec s (fun h => { h with bbk := key })
  clearBbkStage (setF (setB (setB s F.SEC_BBK_LOADED true) F.SEC_BBK_TAMPERED false) F.SEC_BBK_KCV (kcv key))

/-- The battery-backed key is erased (R568). -/
def eraseBbk (s : State) : State :=
  setF (setB (onSec s (fun h => { h with bbk := 0 })) F.SEC_BBK_LOADED false) F.SEC_BBK_KCV 0

/-- UNSEAL (R575). -/
def unsealIngot (s : State) : State :=
  match s.ingot with
  | some g => if g.isSealed then setB s F.SEC_STATUS_UNSEALED true else s
  | none => s

/-- What the armed command does as it runs (R573). -/
def presenceEffect (s : State) (c : Nat) : State :=
  match c with
  | 1 => match stageFailure s with
    | some (e, r) => presenceResult s e r
    | none => setB (onSec s (fun h => { h with burn := burnOrder (stagedEntries s) })) F.SEC_STATUS_FUSE_BUSY true
  | 2 => loadBbk s
  | 3 => setB s F.TRC_STATUS_PRIV_AUTH true
  | 4 => unsealIngot s
  | 5 => setB s F.SEC_STATUS_ROLLBACK_AUTH true
  | _ => setB s F.SEC_STATUS_JTAG_PRIV true

/-- EXECUTE is refused without using up the authorisation: PROGRAM_FUSES with VFUSE out of its limits (R567) or while
a burn runs, JTAG_PRIVATE with JTAG_PRIVATE_OFF (R573). -/
def presenceRefused (s : State) (c : Nat) : Bool :=
  (c == 1 && (!getB s F.SEC_STATUS_VFUSE_OK || getB s F.SEC_STATUS_FUSE_BUSY)) || (c == 6 && (fuseShadow s 52).testBit 0)

/-- EXECUTE (R572): within the open window the armed command runs once; the window closes and the command is
disarmed. -/
def executeArmed (s : State) : State :=
  let c := getF s F.SEC_PRESENCE_STATUS_ARMED_CMD
  if getB s F.SEC_STATUS_WINDOW ∧ getB s F.SEC_STATUS_ARMED ∧ presenceRefused s c = false then
    let s := setF (setF s F.SEC_PRESENCE_STATUS_LAST_CMD c) F.SEC_PRESENCE_STATUS_LAST_RESULT 0
    disarm (presenceEffect s c)
  else s

/-- A write to SEC_PRESENCE_CTRL (R572); of several bits, DISARM acts first, then EXECUTE, then ARM. -/
def presenceCtrlWrite (s : State) (v : Nat) : State :=
  let s := if v.testBit 30 then clearBbkStage (disarm s) else s
  let s := if v.testBit 31 then executeArmed s else s
  arm s (v % 16)

/-- A write to a staging register (R572): it disarms the command that the stage belongs to, and lands. -/
def stageWrite (s : State) (c : Nat) (k : State → State) : State :=
  k (if getF s F.SEC_PRESENCE_STATUS_ARMED_CMD = c then disarm s else s)

/-- A write to SEC_FUSE_STAGE_INDEX, ADDR or DATA (R564, R572). -/
def fuseStageWrite (s : State) (a v : Nat) : State :=
  stageWrite s 1 (fun s =>
    let e := getF s F.SEC_FUSE_STAGE_INDEX_ENTRY
    if a = 0x40018 then setF s F.SEC_FUSE_STAGE_INDEX_ENTRY v
    else if a = 0x4001C then
      setF (setB s (stageFld F.SEC_FUSE_STAGE_ADDR_VALID e) (v.testBit 31)) (stageFld F.SEC_FUSE_STAGE_ADDR_WORD e) v
    else setF s (stageFld F.SEC_FUSE_STAGE_DATA_BITS e) v) 

/-- A read of SEC_FUSE_STAGE_ADDR or DATA. -/
def fuseStageRead (s : State) (a : Nat) : Nat :=
  let e := getF s F.SEC_FUSE_STAGE_INDEX_ENTRY
  if a = 0x4001C then
    b2n (getB s (stageFld F.SEC_FUSE_STAGE_ADDR_VALID e)) * 2 ^ 31 + getF s (stageFld F.SEC_FUSE_STAGE_ADDR_WORD e)
  else getF s (stageFld F.SEC_FUSE_STAGE_DATA_BITS e)

/-- A write to SEC_BBK_STAGE_w (R569, R572). -/
def bbkStageWrite (s : State) (w v : Nat) : State := stageWrite s 2 (fun s => setF s (F.SEC_BBK_STAGE_KEY w) v)

/-- A write to SEC_BBK (R568). -/
def bbkWrite (s : State) (v : Nat) : State := if v.testBit 31 then eraseBbk s else s

/-- PRESENCE_ARM (R572). -/
def execPresenceArm (value : Word) (s : State) : Host.Outcome State Fault Refusal :=
  .next (presenceCtrlWrite s value.toNat)

/-- PRESENCE_DISARM (R572). -/
def execPresenceDisarm (value : Word) (s : State) : Host.Outcome State Fault Refusal :=
  .next (presenceCtrlWrite s value.toNat)

/-- EXECUTE (R572): the write, with VFUSE as the board applies it (R567). -/
def execExecute (value : Word) (vfuse : Bool) (s : State) : Host.Outcome State Fault Refusal :=
  .next (presenceCtrlWrite (setB s F.SEC_STATUS_VFUSE_OK vfuse) value.toNat)

/-- PROGRAM_FUSES (R565): the burn under way runs to its end, or to the first word that does not verify. -/
def execProgramFuses (stuck : Option (Fin 16)) (s : State) : Host.Outcome State Fault Refusal :=
  if s.sec.burn = [] then .next s
  else
    let fails := fun (e : Nat × Nat × Nat) => match stuck with | some k => e.1 == k.val | none => false
    let s' := (s.sec.burn.takeWhile (fun e => !fails e)).foldl burnEntry s
    match s.sec.burn.find? fails with
    | some e => .next (endBurn (burnPart s' e) e.1 6)
    | none => .next (endBurn s' 0 0)

/-- The armed command is `c`, and EXECUTE runs it. -/
def runIfArmed (s : State) (c : Nat) : State := if getF s F.SEC_PRESENCE_STATUS_ARMED_CMD = c then executeArmed s else s

/-- LOAD_BBK (R569). -/
def execLoadBbk (s : State) : Host.Outcome State Fault Refusal := .next (runIfArmed s 2)

/-- TRACE_PRIV (R551). -/
def execTracePriv (s : State) : Host.Outcome State Fault Refusal := .next (runIfArmed s 3)

/-- UNSEAL (R575). -/
def execUnseal (s : State) : Host.Outcome State Fault Refusal := .next (runIfArmed s 4)

/-- ROLLBACK (R573, R528). -/
def execRollback (s : State) : Host.Outcome State Fault Refusal := .next (runIfArmed s 5)

/-- JTAG_PRIVATE (R573). -/
def execJtagPrivate (s : State) : Host.Outcome State Fault Refusal := .next (runIfArmed s 6)

/-- PRESENCE_HELD (R572): PRESENCE_N has stayed low for 2 s; the window opens for 60 s where a command is armed. -/
def execPresenceHeld (s : State) : Host.Outcome State Fault Refusal :=
  let s := setB s F.SEC_STATUS_PRESENCE true
  if getB s F.SEC_STATUS_ARMED then
    let s := onSec s (fun h => { h with windowEnd := timeNs s + 60000000000 })
    .next (setF (setB s F.SEC_STATUS_WINDOW true) F.SEC_PRESENCE_STATUS_SECONDS_LEFT 60)
  else .next s

/-- The 60 s of the window end (R572). -/
def windowEnds (s : State) : State :=
  if getB s F.SEC_STATUS_WINDOW then setB (disarm s) F.SEC_STATUS_PRESENCE false else s

/-- WINDOW_EXPIRY (R572). -/
def execWindowExpiry (s : State) : Host.Outcome State Fault Refusal := .next (windowEnds s)

/-- The window as time passes: SECONDS_LEFT counts down, and the window closes at its end (R572). -/
def windowTick (s : State) : State :=
  if getB s F.SEC_STATUS_WINDOW then
    if s.sec.windowEnd ≤ timeNs s then windowEnds s
    else setF s F.SEC_PRESENCE_STATUS_SECONDS_LEFT ((s.sec.windowEnd - timeNs s + 999999999) / 1000000000)
  else s

/-- ERASE (R568). -/
def execErase (value : Word) (s : State) : Host.Outcome State Fault Refusal := .next (bbkWrite s value.toNat)

/-- TAMPER (R568): the key is erased and TAMPERED is set, whatever the other rails do. -/
def execTamper (vbatLow : Bool) (s : State) : Host.Outcome State Fault Refusal :=
  .next (setB (setB (eraseBbk s) F.SEC_BBK_TAMPERED true) F.SEC_STATUS_VBAT_LOW vbatLow)

/-- VFUSE_OUT_OF_LIMIT (R566): VFUSE_OK falls, and a burn under way ends with FUSE_FAIL after the bit in progress. -/
def execVfuseOutOfLimit (s : State) : Host.Outcome State Fault Refusal :=
  .next (breakBurn (setB s F.SEC_STATUS_VFUSE_OK false))

end Sys2Proof.Machine
end

