-- ==== Sys2Proof/Machine/Trace.lean ====
section
/-! DEFINITION. Program trace (R542 to R560): packets, streams, frames and the ring. -/

namespace Sys2Proof.Machine

/-- A trace source. -/
def trcSrc (s : State) (i : Nat) : TrcSrc := s.trc.get TrcSrc.idle i

/-- The state with a trace source changed. -/
def onTrc (s : State) (i : Nat) (g : TrcSrc → TrcSrc) : State := { s with trc := s.trc.modify TrcSrc.idle i g }

/-- A register of a trace source (TRC_SRC_INDEX). -/
def srcFld (f : Fld) (i : Nat) : Fld := f.bank i

/-- The source's trace state is ON (R542). -/
def traceOn (s : State) (i : Nat) : Bool := getB s (srcFld F.TRC_SRC_CTRL_ON i)

/-- The source is enabled in TRC_SOURCES, and tracing runs (R553). -/
def traceRuns (s : State) (i : Nat) : Bool :=
  getB s F.TRC_STATUS_ENABLED && getB s F.TRC_CTRL_EN &&
    (if i < 32 then (getF s F.TRC_SOURCES_EN).testBit i else (getF s F.TRC_SOURCES_HI_EN).testBit (i - 32))

/-- Machine-mode code is excluded (R549). -/
def tracePrivate (s : State) : Bool := !getB s F.TRC_CTRL_PRIV

/-! ### Packets (R544 to R547) -/

/-- SYNC (R545). -/
def syncPacket (s : State) (reason pc : Nat) : List Byte := leBytes 1 1 ++ leBytes 1 reason ++ leBytes 8 pc ++ leBytes 8 (timeNs s)

/-- TIME. -/
def timePacket (s : State) : List Byte := leBytes 1 2 ++ leBytes 8 (timeNs s)

/-- SLEEP. -/
def sleepPacket (s : State) : List Byte := leBytes 1 3 ++ leBytes 8 (timeNs s)

/-- STOP. -/
def stopPacket (s : State) (reason cause pc : Nat) : List Byte :=
  leBytes 1 5 ++ leBytes 1 reason ++ leBytes 1 cause ++ leBytes 8 pc ++ leBytes 8 (timeNs s)

/-- OVERFLOW. -/
def overflowPacket (n : Nat) : List Byte := leBytes 1 6 ++ leBytes 2 (min n 0xFFFF)

/-- TRAP. -/
def trapPacket (cause epc : Nat) : List Byte := leBytes 1 7 ++ leBytes 1 cause ++ leBytes 8 epc

/-- BRANCH (R546): outcomes, the oldest in bit 0, under a marker bit. -/
def branchPacket (os : List Bool) : List Byte :=
  leBytes 1 (0x80 + 2 ^ os.length + (List.range os.length).foldl (fun v i => v + b2n (os.getD i false) * 2 ^ i) 0)

/-- The least number of low bytes that turn the reference address into the target (R547). -/
def addrBytes (ref target : Nat) : Nat :=
  ((List.range 8).find? (fun n => ref / 2 ^ (8 * (n + 1)) == target / 2 ^ (8 * (n + 1)))).getD 7 + 1

/-- ADDR (R547). -/
def addrPacket (ref target : Nat) : List Byte :=
  let n := addrBytes ref target
  leBytes 1 (0x3F + n) ++ leBytes n target

/-! ### Frames and the ring (R557, R558) -/

/-- Frames that the ring holds. -/
def ringFrames (s : State) : Nat := 64 * getF s F.TRC_BUF_SIZE_UNITS

/-- The unit takes packets and writes frames: its gate is open, and the ring is not full (R558, R559). -/
def traceFlows (s : State) : Bool :=
  gateOpen s 67 && !getB s F.TRC_STATUS_FULL && (getB s F.TRC_CTRL_WRAP || decide (getF s F.TRC_WRITE_FRAME < ringFrames s))

/-- The ring filled (R558): WRAP 0 stops all writing and sets FULL. -/
def noteFull (s : State) : State :=
  if getB s F.TRC_CTRL_WRAP = false ∧ ringFrames s ≤ getF s F.TRC_WRITE_FRAME then setB s F.TRC_STATUS_FULL true else s

/-- The frame of a source's oldest bytes (R557). -/
def traceFrame (i : Nat) (x : TrcSrc) : List Byte :=
  let bs := x.fifo.take 60
  leBytes 1 (i + b2n x.mark * 64) ++ leBytes 1 ((bs.findIdx? (fun b => b.2)).getD 0xFF) ++ leBytes 1 x.seq ++
    leBytes 1 bs.length ++ slice (bs.map Prod.fst) 0 60

/-- A frame written to the ring (R558). -/
def writeFrame (s : State) (i : Nat) : State :=
  let x := trcSrc s i
  let f := getF s F.TRC_WRITE_FRAME
  let s := if ringFrames s ≤ f then setB s F.TRC_STATUS_WRAPPED true else s
  let s := winWriteBytes s (getF s F.TRC_BUF_WINDOW_WINDOW)
    (getF s F.TRC_BUF_OFFSET_UNITS * 4096 + 64 * (f % ringFrames s)) (traceFrame i x)
  let s := wrapF s F.TRC_WRITE_FRAME 1
  onTrc s i (fun x => { x with fifo := x.fifo.drop 60, seq := x.seq + 1, mark := false })

/-- Whole frames of a source are written as they fill; at most as many as the FIFO holds. -/
def fillFrames (s : State) (i : Nat) : Nat → State
  | 0 => s
  | n + 1 => if traceFlows s ∧ 60 ≤ (trcSrc s i).fifo.length then fillFrames (noteFull (writeFrame s i)) i n else s

/-- A drain (R554, R557): every byte of a source's stream is written. -/
def drainSource (s : State) (i : Nat) : State :=
  let s := fillFrames s i 18
  if traceFlows s ∧ (trcSrc s i).fifo ≠ [] then noteFull (writeFrame s i) else s

/-! ### Streams -/

/-- A packet lost (R559). -/
def losePacket (s : State) (i : Nat) : State :=
  let s := bumpF (bumpF s F.TRC_LOST_COUNT 1) (srcFld F.TRC_SRC_LOST_COUNT i) 1
  onTrc (setB s F.TRC_STATUS_OVERFLOW true) i (fun x => { x with lost := x.lost + 1 })

/-- A packet of a source that finds room in the FIFO (R557, R559). -/
def putPacket (s : State) (i : Nat) (bs : List Byte) : State :=
  if traceFlows s ∧ (trcSrc s i).fifo.length + bs.length ≤ 1024 then
    let s := wrapF s (srcFld F.TRC_SRC_BYTES_COUNT i) bs.length
    let s := onTrc s i (fun x => { x with
      fifo := x.fifo ++ (List.range bs.length).map (fun k => (bs.getD k 0, k == 0)), since := x.since + bs.length })
    fillFrames s i 18
  else losePacket (noteFull s) i

/-- A packet of a source; a TIME that is due follows it (R548). -/
def emitPacket (s : State) (i : Nat) (bs : List Byte) : State :=
  let s := putPacket s i bs
  if (trcSrc s i).timeDue then putPacket (onTrc s i (fun x => { x with timeDue := false })) i (timePacket s) else s

/-- A SYNC (R545): it names the address that later ADDRs refer to. -/
def emitSync (s : State) (i reason pc : Nat) : State :=
  let s := onTrc s i (fun x => { x with since := 0, ref := pc, sync := none })
  emitPacket s i (syncPacket s reason pc)

/-- Pending outcomes go out before any other packet (R546). -/
def flushOutcomes (s : State) (i : Nat) : State :=
  let os := (trcSrc s i).outcomes
  if os = [] then s else emitPacket (onTrc s i (fun x => { x with outcomes := [] })) i (branchPacket os)

/-- A conditional branch retires (R546). -/
def noteBranch (s : State) (i : Nat) (taken : Bool) : State :=
  let s := onTrc s i (fun x => { x with outcomes := x.outcomes ++ [taken] })
  if 6 ≤ (trcSrc s i).outcomes.length then flushOutcomes s i else s

/-- An indirect jump retires (R547). -/
def noteTarget (s : State) (i target : Nat) : State :=
  let s := flushOutcomes s i
  let bs := addrPacket (trcSrc s i).ref target
  emitPacket (onTrc s i (fun x => { x with ref := target })) i bs

/-- The report of lost packets once 64 bytes are free (R559). -/
def recoverLoss (s : State) (i pc : Nat) : State :=
  let x := trcSrc s i
  if x.lost ≠ 0 ∧ traceFlows s ∧ x.fifo.length + 64 ≤ 1024 then
    let s := onTrc (flushOutcomes s i) i (fun x => { x with lost := 0, mark := true })
    emitSync (emitPacket s i (overflowPacket x.lost)) i 3 pc
  else s

/-- The comparators of a source match an instruction at `pc` for an action (R552). -/
def comparators (s : State) (i action pc : Nat) : Bool :=
  (List.range 4).any (fun k =>
    bitsOf (getF s (srcFld F.TRC_SRC_CTRL_ACTION i)) (2 * k) 2 == action &&
      decide (get64 s (srcFld (F.TRC_CMP_LO_LO_ADDR k) i) (srcFld (F.TRC_CMP_LO_HI_ADDR k) i) ≤ pc) &&
      decide (pc ≤ get64 s (srcFld (F.TRC_CMP_HI_LO_ADDR k) i) (srcFld (F.TRC_CMP_HI_HI_ADDR k) i)))

/-- The SYNC that is due before a traced instruction at `pc`: a range start, a return from excluded code, or one that
an enable left due (R545, R549, R552, R553). -/
def dueSync (s : State) (i pc : Nat) : State :=
  let x := trcSrc s i
  if traceOn s i = false ∧ comparators s i 1 pc then
    emitSync (setB (onTrc s i (fun x => { x with excluded := false, outcomes := [] })) (srcFld F.TRC_SRC_CTRL_ON i) true) i 1 pc
  else
    let s := onTrc s i (fun x => { x with excluded := false })
    if traceOn s i then
      match x.sync with
      | some r => emitSync s i r pc
      | none => if x.excluded then emitSync s i 4 pc else s
    else s

/-- What a traced instruction reports (R543, R546, R547, R550). -/
def traceKind (s : State) (i : Nat) (k : RetireKind) : State :=
  match k with
  | .branch t => noteBranch s i t
  | .indirect t => noteTarget s i t.toNat
  | .mret t => noteTarget s i t.toNat
  | .plain => s
  | .trap _ _ _ => s

/-- The periodic SYNC (R548). -/
def periodicSync (s : State) (i next : Nat) : State :=
  if traceOn s i ∧ 4096 ≤ (trcSrc s i).since then emitSync (flushOutcomes s i) i 0 next else s

/-- A traced source retires an instruction that is not excluded (R542 to R552). -/
def retireTraced (s : State) (i pc next : Nat) (k : RetireKind) : State :=
  let s := dueSync s i pc
  let s := if traceOn s i then traceKind (recoverLoss s i pc) i k else s
  let s := if traceOn s i ∧ comparators s i 2 pc then
      emitPacket (flushOutcomes (setB s (srcFld F.TRC_SRC_CTRL_ON i) false) i) i (stopPacket s 0 0 next)
    else s
  periodicSync s i next

/-- A source takes a trap (R549, R550). -/
def traceTrap (s : State) (i pc : Nat) (machine : Bool) (cause handler : Nat) : State :=
  let s := onTrc s i (fun x => { x with pc := handler })
  if tracePrivate s then
    let s := if traceOn s i ∧ machine = false then
        let s := flushOutcomes (recoverLoss s i pc) i
        emitPacket s i (stopPacket s 1 cause pc)
      else s
    onTrc s i (fun x => { x with excluded := true })
  else if traceOn s i then emitSync (emitPacket (flushOutcomes (recoverLoss s i pc) i) i (trapPacket cause pc)) i 6 handler
  else s

/-- An instruction of excluded code retires (R549): a return to user mode emits the SYNC. -/
def retireExcluded (s : State) (i : Nat) (k : RetireKind) : State :=
  let s := onTrc s i (fun x => { x with excluded := true })
  match k with
  | .mret t =>
    let s := onTrc s i (fun x => { x with excluded := false, pc := t.toNat })
    if traceOn s i then emitSync s i 4 t.toNat else s
  | _ => s

/-- A machine-mode trap of a control core that the monitor reports shows in CTL_STATUS; the cores are sources 0 to 7. -/
def noteCoreTrap (s : State) (i : Nat) (k : RetireKind) : State :=
  match k with
  | .trap _ _ true => if i < 8 then setB s F.CTL_STATUS_CORE_TRAP true else s
  | _ => s

/-- RETIRED_INSTRUCTION (R542). -/
def execRetiredInstruction (src : Fin 40) (pc next : DWord) (machine : Bool) (kind : RetireKind) (s : State) :
    Host.Outcome State Fault Refusal :=
  let i := src.val
  let s := noteCoreTrap s i kind
  if traceRuns s i then
    .next (match kind with
      | .trap c h _ => traceTrap s i pc.toNat machine c.toNat h.toNat
      | k =>
        if machine && tracePrivate s then retireExcluded s i k
        else retireTraced (onTrc s i (fun x => { x with pc := next.toNat })) i pc.toNat next.toNat k)
  else .next s

/-! ### Enable, sleep and wake (R553 to R556) -/

/-- The ring may be written (R558): its window is enabled with owner 5, and the ring fits it. -/
def ringOk (s : State) : Bool :=
  let w := getF s F.TRC_BUF_WINDOW_WINDOW
  winOwned s w 5 && getF s F.TRC_BUF_SIZE_UNITS != 0 &&
    decide ((getF s F.TRC_BUF_OFFSET_UNITS + getF s F.TRC_BUF_SIZE_UNITS) * 4096 ≤ winSize s w)

/-- A source as EN rises (R553). -/
def enableSource (s : State) (i : Nat) : State :=
  let on := traceRuns s i && getB s (srcFld F.TRC_SRC_CTRL_START_ON i)
  let s := setF (setB s (srcFld F.TRC_SRC_CTRL_ON i) on) (srcFld F.TRC_SRC_BYTES_COUNT i) 0
  onTrc s i (fun x => { TrcSrc.idle with pc := x.pc, excluded := x.excluded, sync := if on then some 5 else none })

/-- A source as EN falls (R553): what it has pending, STOP, and its drain. -/
def disableSource (s : State) (i : Nat) : State :=
  let x := trcSrc s i
  let s := if traceOn s i ∧ x.excluded = false then
      emitPacket (flushOutcomes (recoverLoss s i x.pc) i) i (stopPacket s 2 0 x.pc)
    else s
  drainSource (setB s (srcFld F.TRC_SRC_CTRL_ON i) false) i

/-- Every trace source. -/
def trcSources : List Nat := List.range 40

/-- A source that is ON and runs code that is traced. -/
def traceLive (s : State) (i : Nat) : Bool := traceRuns s i && traceOn s i && !(trcSrc s i).excluded

/-- Frames can be written again (R558, R559): what the sources hold goes out, and each reports what it has lost. -/
def resumeTrace (s : State) : State :=
  trcSources.foldl (fun t i =>
    let t := fillFrames t i 18
    if traceLive t i then recoverLoss t i (trcSrc t i).pc else t) s

/-- A write to TRC_CTRL (R548, R551, R553, R558). -/
def trcCtrlWrite (s : State) (v : Nat) : State :=
  let s := if v.testBit 28 ∧ getB s F.TRC_STATUS_ENABLED = false then
      setB (setF s F.TRC_WRITE_FRAME 0) F.TRC_STATUS_WRAPPED false else s
  let s := setF (setB s F.TRC_CTRL_WRAP (v.testBit 29)) F.TRC_CTRL_TS_PERIOD v
  let s := if v.testBit 30 = false then setB s F.TRC_CTRL_PRIV false
    else if getB s F.TRC_STATUS_PRIV_AUTH then setB s F.TRC_CTRL_PRIV true else s
  if v.testBit 31 then
    if getB s F.TRC_CTRL_EN then resumeTrace (noteFull s)
    else if ringOk s then
      noteFull (trcSources.foldl enableSource (setB (setB s F.TRC_CTRL_EN true) F.TRC_STATUS_ENABLED true))
    else setB s F.TRC_STATUS_REJECT true
  else if getB s F.TRC_CTRL_EN then
    setB (trcSources.foldl disableSource (setB s F.TRC_CTRL_EN false)) F.TRC_STATUS_ENABLED false
  else s

/-- TRACE_EN (R553). -/
def execTraceEn (value : Word) (s : State) : Host.Outcome State Fault Refusal :=
  .next (gatedWrite s 0xF0004 (trcCtrlWrite · value.toNat))

/-- TRC_CLEAR (R558). -/
def execTrcClear (value : Word) (s : State) : Host.Outcome State Fault Refusal :=
  .next (gatedWrite s 0xF0004 (trcCtrlWrite · value.toNat))

/-- SLEEP (R554): pending outcomes, SLEEP, and the drain before the source's clock is gated. -/
def execSleep (src : Fin 40) (s : State) : Host.Outcome State Fault Refusal :=
  let i := src.val
  if traceLive s i then
    let t := flushOutcomes (recoverLoss s i (trcSrc s i).pc) i
    .next (drainSource (setB (emitPacket t i (sleepPacket s)) (srcFld F.TRC_SRC_CTRL_SLEEPING i) true) i)
  else .next s

/-- WAKE (R555). -/
def execWake (src : Fin 40) (pc : DWord) (s : State) : Host.Outcome State Fault Refusal :=
  let i := src.val
  let s := onTrc (setB s (srcFld F.TRC_SRC_CTRL_SLEEPING i) false) i (fun x => { x with pc := pc.toNat })
  if traceLive s i then .next (emitSync (emitPacket (recoverLoss s i pc.toNat) i (leBytes 1 4)) i 2 pc.toNat) else .next s

/-- TRACE_FRAME_TIMEOUT (R557): a source's oldest byte has waited 10 us. -/
def execTraceFrameTimeout (src : Fin 40) (s : State) : Host.Outcome State Fault Refusal := .next (drainSource s src.val)

/-- TIME_PACKET (R548): TS_PERIOD has passed; a TIME follows the next packet of a source that is ON. -/
def execTimePacket (src : Fin 40) (s : State) : Host.Outcome State Fault Refusal :=
  if traceRuns s src.val ∧ traceOn s src.val ∧ getF s F.TRC_CTRL_TS_PERIOD ≠ 0 then .next (onTrc s src.val (fun x => { x with timeDue := true }))
  else .next s

/-- A write to a register of the selected source, or of the ring: ignored while ENABLED (R553). -/
def trcCfgWrite (s : State) (a v : Nat) : State :=
  if getB s F.TRC_STATUS_ENABLED then s
  else if a < 0xF0044 then plainWrite s a v
  else
    let i := getF s F.TRC_SRC_INDEX_SOURCE
    if i < 40 then (fieldsAt a).foldl (fun t f => writeField v t (srcFld f i)) s else s

/-- A read of a register of the selected source; RC fields clear. -/
def trcSrcRead (s : State) (a : Nat) : Nat × State :=
  let i := getF s F.TRC_SRC_INDEX_SOURCE
  let fs := (fieldsAt a).map (fun f => srcFld f i)
  if i < 40 then
    (fs.foldl (fun v f => v + getF s f * 2 ^ f.lo) 0, fs.foldl (fun t f => if f.acc = .rc then setF t f 0 else t) s)
  else (0, s)

end Sys2Proof.Machine
end

