-- ==== Sys2Proof/Machine/Gates.lean ====
section
/-! DEFINITION. The gate tree and the bus-quiesce handshake (R252 to R254, R505 to R508, R556). -/

namespace Sys2Proof.Machine

/-! ### The gate tree (R505 to R508) -/

/-- The parent of a node; the root has none. -/
def gateParent (n : Nat) : Option Nat :=
  if n = 0 then none else if (6 ≤ n ∧ n ≤ 44) ∨ (66 ≤ n ∧ n ≤ 68) ∨ (70 ≤ n ∧ n ≤ 85) then some 5 else some 0

/-- The condition that a close also requires (R505). -/
def gateMayClose (s : State) (n : Nat) : Bool :=
  if n = 0 ∨ n = 5 then false
  else if n ≤ 4 ∨ n = 69 then emState s == 0
  else if n ≤ 37 then
    (getF s F.CHN_ENGINE_STOP_STOP).testBit (n - 6) &&
      s.chn.items.all (fun i => match i.engine with | some e => e.1 ≠ n - 6 | none => true)
  else if n ≤ 44 then true
  else if n ≤ 48 then (getF s F.HBM_STATUS_SELF_REFRESH).testBit (n - 45)
  else if n ≤ 64 then (quadLinks s (n - 49)).all (fun l => linkStage s l == 0 || getB s (F.LNK_LINK_STATUS_DEEP l))
  else if n = 65 then !s.hgr.loaded
  else if n = 66 then
    !getB s F.ASY_STATUS_ARMED && (List.range 32).all (fun k => !getB s (F.ASY_TRK_CTRL_EN k)) && s.asy.capture.isNone
  else if n = 68 then !getB s F.CTL_STATUS_MT_BUSY
  else true

/-- A node has an open child. -/
def childOpen (s : State) (n : Nat) : Bool := (List.range 86).any (fun m => gateParent m = some n && gateOpen s m)

/-! ### What an interface holds (R253) -/

/-- The requests that an interface holds for a gate node's block. -/
def heldFor (s : State) (g : Nat) : List Packet := s.net.held.filter (fun p => gateOfNode p.dest.toNat = some g)

/-- Those requests leave the interface, each as `k` has it. -/
def releaseHeld (s : State) (g : Nat) (k : State → Packet → State) : State :=
  (heldFor s g).foldl k (onNet s (fun n => { n with held := n.held.filter (fun p => gateOfNode p.dest.toNat ≠ some g) }))

/-- They are delivered: each block answers in its own time. -/
def deliverHeld (s : State) (g : Nat) : State := releaseHeld s g (fun t p => deliver t p .later)

/-- The requests delivered to a gate node's block and not answered. -/
def openFor (s : State) (g : Nat) : List Packet := s.net.opened.filter (fun p => gateOfNode p.dest.toNat = some g)

/-- The trace source of a channel engine's or a control core's gate node (R542, R556). -/
def sourceOfGate (g : Nat) : Option Nat :=
  if 6 ≤ g ∧ g ≤ 37 then some (g + 2) else if 38 ≤ g ∧ g ≤ 44 then some (g - 38) else none

/-- The drain of a node's trace source (R554, R556). -/
def drainGate (s : State) (g : Nat) : State :=
  match sourceOfGate g with
  | some i => drainSource s i
  | none => s

/-- The block of a node is quiet (R253, R556): every request delivered to it is answered, and its trace stream is drained.
Every packet that it has handed over has been injected: a handed-over packet is a command of its own. -/
def gateQuiet (s : State) (g : Nat) : Bool :=
  (openFor s g).isEmpty && (match sourceOfGate g with | some i => (trcSrc s i).fifo.isEmpty | none => true)

/-! ### REOPEN and CLOSE (R506 to R508) -/

/-- REOPEN of a node (R506, R508): its clock restarts, and its block is asked to signal quiesce exit; a request to close that is
pending is withdrawn, and what the interface held is delivered. -/
def gateReopen (s : State) (n : Nat) : State :=
  if (match gateParent n with | some p => gateOpen s p | none => true) then
    if gateOpen s n then
      deliverHeld (setB s (gateFld F.CLK_GATE_CTRL_CLOSING n) false) n
    else
      let t := onNet (setB s (gateFld F.CLK_GATE_CTRL_OPEN n) true) (fun x => { x with exiting := x.exiting ++ [n] })
      if n = 67 then resumeTrace t else t
  else setB s F.CLK_STATUS_REFUSED true

/-- The blocks that were asked to signal quiesce exit do so (R508): the isolation ends (R254). -/
def gatesExit (s : State) : State :=
  onNet (s.net.exiting.foldl (fun t n => setB t (gateFld F.CLK_GATE_CTRL_ISOLATED n) false) s) (fun x => { x with exiting := [] })

/-- CLOSE of a node (R506, R507): refused, or the block's interface is asked to quiesce. -/
def gateClose (s : State) (n : Nat) : State :=
  if !gateOpen s n then s
  else if gateMayClose s n && !childOpen s n then drainGate (setB s (gateFld F.CLK_GATE_CTRL_CLOSING n) true) n
  else setB s F.CLK_STATUS_REFUSED true

/-- A write to CLK_GATE_CTRL (R506): FORCE, then REOPEN, then CLOSE, of the node that CLK_GATE_INDEX names. -/
def gateCtrlWrite (s : State) (v : Nat) : State :=
  let n := getF s F.CLK_GATE_INDEX_NODE
  if n < 86 then
    let s := setB s (gateFld F.CLK_GATE_CTRL_FORCE n) (v.testBit 3)
    let s := if v.testBit 0 then gateReopen s n else s
    if v.testBit 1 then gateClose s n else s
  else s

/-- GATE_CLOSE (R506, R507). -/
def execGateClose (value : Word) (s : State) : Host.Outcome State Fault Refusal := .next (gateCtrlWrite s value.toNat)

/-- GATE_REOPEN (R508). -/
def execGateReopen (value : Word) (s : State) : Host.Outcome State Fault Refusal := .next (gateCtrlWrite s value.toNat)

/-- CLK_GATE_CTRL as it reads: the node that CLK_GATE_INDEX names. -/
def gateCtrlRead (s : State) : Nat :=
  let n := getF s F.CLK_GATE_INDEX_NODE
  if n < 86 then
    [F.CLK_GATE_CTRL_OPEN, F.CLK_GATE_CTRL_CLOSING, F.CLK_GATE_CTRL_ISOLATED, F.CLK_GATE_CTRL_FORCE].foldl
      (fun a f => a + getF s (gateFld f n) * 2 ^ f.lo) 0
  else 0

/-! ### Quiesce (R253, R507) -/

/-- The gate of a node closes, and its interface answers what it holds (R253). -/
def closeGate (s : State) (g : Nat) : State :=
  let s := setB (setB s (gateFld F.CLK_GATE_CTRL_CLOSING g) false) (gateFld F.CLK_GATE_CTRL_OPEN g) false
  releaseHeld s g (fun t p => answer t p 4 1)

/-- A block is isolated by force (R253): what it has not answered is answered for it. -/
def forceGate (s : State) (g : Nat) : State :=
  let s := bumpF (setF (setB s (gateFld F.CLK_GATE_CTRL_ISOLATED g) true) F.NET_ISO_LAST_NODE (nodeOfGate g)) F.NET_ISO_LAST_COUNT 1
  let open_ := openFor s g
  let s := onNet s (fun n => { n with opened := n.opened.filter (fun p => gateOfNode p.dest.toNat ≠ some g) })
  closeGate (open_.foldl (fun t p => answer t p 4 1) s) g

/-- QUIESCE_REPORT (R253, R507, R556): the interface of a node that closes reports its block quiet, and the gate closes; it
reports nothing of a block that is not. -/
def execQuiesceReport (node : Fin 86) (s : State) : Host.Outcome State Fault Refusal :=
  .next (
    if getB s (gateFld F.CLK_GATE_CTRL_CLOSING node) then
      let s := drainGate s node
      if gateQuiet s node then closeGate s node else s
    else s)

/-- QUIESCE_TIMEOUT (R507): the block is not quiet within 4,096 periods; FORCE isolates it, and otherwise the request is
withdrawn. -/
def execQuiesceTimeout (node : Fin 86) (s : State) : Host.Outcome State Fault Refusal :=
  .next (
    if getB s (gateFld F.CLK_GATE_CTRL_CLOSING node) then
      if getB s (gateFld F.CLK_GATE_CTRL_FORCE node) then forceGate s node
      else
        deliverHeld (setB (setB s (gateFld F.CLK_GATE_CTRL_CLOSING node) false) F.CLK_STATUS_QUIESCE_TIMEOUT true) node
    else s)

end Sys2Proof.Machine
end

