-- ==== Sys2Proof/Machine/Control.lean ====
section
/-! DEFINITION. Control cores, firmware banks and the live update (R520 to R529), and the firmware checks that the boot
ROM shares with it (R570, R571, R583). -/

namespace Sys2Proof.Machine

/-- Bytes of a firmware bank. -/
def bankBytes (s : State) (b off n : Nat) : List Byte := Memory.readBytes marchFill s.ctl.fws (b * 1048576 + off) n

/-- The address of ENTRY of a bank in the active view (R521, R525). -/
def entryAddress (s : State) (b : Nat) : Nat := 0x10000000 + leNat (bankBytes s b 16 4)

/-- The control cores. -/
def coreList : List Nat := List.range 8

/-- A core restarts in machine mode at ENTRY of the active view (R523, R527), with no reservation. -/
def restartCore (s : State) (c a1 : Nat) : State :=
  onCtl s (fun x => { x with
    cores := x.cores.set CoreSt.idle c ⟨entryAddress s (activeBank s), c, a1, true, false, false⟩
    reserve := x.reserve.set none c none })

/-- A write to CTL_CORE_RESET (R523). -/
def coreResetWrite (s : State) (v : Nat) : State :=
  (List.range 7).foldl (fun t c => if v.testBit c then restartCore t c 2 else t) s

/-- CORE_RESTART (R523). -/
def execCoreRestart (value : Word) (s : State) : Host.Outcome State Fault Refusal := .next (coreResetWrite s value.toNat)

/-! ### Firmware images (R525, R528, R571) -/

/-- The signature of an image verifies under the firmware key (R571). -/
def signatureOk (s : State) (bs : List Byte) : Bool :=
  match s.ctl.fwKey with
  | none => false
  | some key =>
    let signed := bs.take 128 ++ bs.drop 256
    Config.ecdsaVerify key (Config.sha384 (imageOf signed) signed.length) (slice bs 128 96)

/-- The header of an image of `len` bytes keeps its layout (R525, R571). -/
def headerOk (bs : List Byte) (len : Nat) : Bool :=
  leAt bs 0 4 == 0x57464B56 && leAt bs 4 2 == 0x0100 && leAt bs 12 4 == len && decide (256 ≤ len) &&
    leAt bs 20 108 == 0 && leAt bs 224 32 == 0

/-- SVN of an image (R525). -/
def imageSvn (bs : List Byte) : Nat := leAt bs 6 2

/-- The image is refused with ROLLBACK (R528). -/
def svnRefused (s : State) (svn : Nat) : Bool :=
  decide (svn < minSvn s) || (decide (svn < getF s F.CTL_FW_STATUS_SVN) && !getB s F.SEC_STATUS_ROLLBACK_AUTH)

/-- An image older than the running one uses up the rollback authorisation (R528, R573). -/
def useRollback (s : State) (svn : Nat) : State :=
  if svn < getF s F.CTL_FW_STATUS_SVN then setB s F.SEC_STATUS_ROLLBACK_AUTH false else s

/-- The result of PHASE 2 for an image of `len` bytes (R526): none where it passes. -/
def imageCheck (s : State) (bs : List Byte) (len : Nat) : Option Nat :=
  if 1048576 < len ∨ 1048576 < leAt bs 12 4 then some 4
  else if headerOk bs len = false then some 1
  else if signatureOk s bs = false then some 2
  else if svnRefused s (imageSvn bs) then some 3
  else none

/-! ### The live update (R526, R527) -/

/-- PHASE of the update. -/
def fwPhase (s : State) : Nat := getF s F.CTL_FW_STATUS_PHASE

/-- PHASE and FW_UPDATING. -/
def setPhase (s : State) (p : Nat) : State :=
  setB (setF s F.CTL_FW_STATUS_PHASE p) F.CTL_STATUS_FW_UPDATING (decide (1 ≤ p ∧ p ≤ 3))

/-- The update ends with a result. -/
def endUpdate (s : State) (result : Nat) : State := setF (setPhase s 4) F.CTL_FW_STATUS_RESULT result

/-- GO (R526). -/
def fwGo (s : State) : State :=
  if fwPhase s = 0 ∨ fwPhase s = 4 then
    setB (setF (setPhase s 1) F.CTL_FW_STATUS_RESULT 0) F.CTL_FW_STATUS_STAGED false
  else setF s F.CTL_FW_STATUS_RESULT 7

/-- PHASE 1 (R526): the image goes from the scratch banks into the inactive bank. -/
def fwCopy (s : State) : State :=
  let b := 1 - activeBank s
  let n := min (getF s F.CTL_FW_LEN_BYTES) 1048576
  let bs := Memory.readBytes marchFill s.ctl.scratch (getF s F.CTL_FW_SRC_OFFSET * 4096) n
  setPhase (onCtl s (fun c => { c with
    fws := Memory.writeBytes marchFill c.fws (b * 1048576) bs, loaded := c.loaded.set false b false })) 2

/-- The HANDOVER interrupt is raised on every core (R527). -/
def beginHandover (s : State) : State :=
  let s := setF (setPhase s 3) F.CTL_FW_HANDOVER_READY 0
  coreList.foldl (fun t c => onCtl t (fun x => { x with
    cores := x.cores.modify CoreSt.idle c (fun k => { k with handover := true, stalled := false }) })) s

/-- PHASE 2 (R526): the staged image is checked; the first failure ends the update. -/
def fwCheck (s : State) : State :=
  let b := 1 - activeBank s
  let n := getF s F.CTL_FW_LEN_BYTES
  let bs := bankBytes s b 0 (min n 1048576)
  match imageCheck s bs n with
  | some r => endUpdate s r
  | none =>
    let s := useRollback s (imageSvn bs)
    let s := onCtl s (fun c => { c with loaded := c.loaded.set false b true })
    beginHandover (setB s F.CTL_FW_STATUS_STAGED true)

/-- The update engine at work: a phase of an update under way ends (DESIGN CHOICE: on an empty queue). -/
def fwTick (s : State) : State :=
  match fwPhase s with
  | 1 => fwCopy s
  | 2 => fwCheck s
  | _ => s

/-- HANDOVER (R527, R528): the staged image is handed over without a copy. -/
def fwHandover (s : State) : State :=
  if (fwPhase s = 0 ∨ fwPhase s = 4) ∧ getB s F.CTL_FW_STATUS_STAGED then
    let svn := imageSvn (bankBytes s (1 - activeBank s) 0 256)
    if svnRefused s svn then endUpdate s 3 else beginHandover (useRollback s svn)
  else s

/-- ABORT (R526): it ends PHASE 1 or 2. -/
def fwAbort (s : State) : State := if fwPhase s = 1 ∨ fwPhase s = 2 then endUpdate s 6 else s

/-- A write to CTL_FW_UPDATE: of several bits, ABORT acts first, then GO, then HANDOVER. -/
def fwUpdateWrite (s : State) (v : Nat) : State :=
  let s := if v.testBit 2 then fwAbort s else s
  let s := if v.testBit 0 then fwGo s else s
  if v.testBit 1 then fwHandover s else s

/-- FW_UPDATE_GO (R526). -/
def execFwUpdateGo (value : Word) (s : State) : Host.Outcome State Fault Refusal := .next (fwUpdateWrite s value.toNat)

/-- FW_UPDATE_ABORT (R526). -/
def execFwUpdateAbort (value : Word) (s : State) : Host.Outcome State Fault Refusal := .next (fwUpdateWrite s value.toNat)

/-- HANDOVER (R527). -/
def execHandover (value : Word) (s : State) : Host.Outcome State Fault Refusal := .next (fwUpdateWrite s value.toNat)

/-- The views swap and the eight cores restart (R527). -/
def swapViews (s : State) : State :=
  let old := activeBank s
  let new := 1 - old
  let s := setF s F.CTL_FW_STATUS_ACTIVE new
  let s := setB s F.CTL_FW_STATUS_STAGED (s.ctl.loaded.get false old)
  let s := setF s F.CTL_FW_STATUS_SVN (imageSvn (bankBytes s new 0 256))
  let s := setF s F.CTL_FW_HANDOVER_READY 0
  let s := onCtl s (fun c => { c with running := true })
  endUpdate (coreList.foldl (fun t c => restartCore t c 1) s) 0

/-- Core `c` stores to its bit of CTL_FW_HANDOVER (R527): the store stalls it, and the eighth bit swaps the views. -/
def handoverReady (s : State) (c : Nat) : State :=
  if fwPhase s = 3 ∧ c < 8 then
    let s := setFBit s F.CTL_FW_HANDOVER_READY c true
    let s := onCtl s (fun x => { x with cores := x.cores.modify CoreSt.idle c (fun k => { k with stalled := true }) })
    if getF s F.CTL_FW_HANDOVER_READY = 0xFF then swapViews s else s
  else s

/-- A write to CTL_FW_HANDOVER by way of path `path`: a core sets its own bit, and no one else sets one (R527). -/
def handoverWrite (s : State) (path : RegPath) (v : Nat) : State :=
  match path with
  | .core c => if v.testBit c then handoverReady s c else s
  | _ => s

/-- HANDOVER_READY (R527). -/
def execHandoverReady (c : Fin 8) (s : State) : Host.Outcome State Fault Refusal := .next (handoverReady s c)

/-- HANDOVER_TIMEOUT (R527): every stalled store completes, and the cores go on in the old firmware. -/
def execHandoverTimeout (s : State) : Host.Outcome State Fault Refusal :=
  if fwPhase s = 3 then
    let s := setF s F.CTL_FW_HANDOVER_READY 0
    .next (endUpdate (coreList.foldl (fun t c => onCtl t (fun x => { x with
      cores := x.cores.modify CoreSt.idle c (fun k => { k with handover := false, stalled := false }) })) s) 5)
  else .next s

/-! ### Boot (R570, R583) -/

/-- The firmware key record of the flash is the one that the fuses vouch for (R570). -/
def acceptKey (s : State) (bs : List Byte) : Option (List Byte) :=
  let digest := (List.range 12).flatMap (fun i => leBytes 4 (fuseShadow s (38 + i)))
  let key := slice bs 4 96
  if digest.any (· ≠ 0) ∧ leAt bs 0 4 = 0x4B504B56 ∧ slice (Config.sha384 (imageOf key) 96) 0 48 = digest then some key else none

/-- A firmware image of the flash passes (R583). -/
def bootOk (s : State) (bs : List Byte) : Bool := (imageCheck s bs (leAt bs 12 4)).isNone && decide (leAt bs 12 4 ≤ bs.length)

/-- The flash header is valid (R585). -/
def flashHeaderOk (bs : List Byte) : Bool :=
  bs.length == 256 && leAt bs 0 4 == 0x48464B56 && leAt bs 252 4 == crc32 (bs.take 252)

/-- Boot firmware uses the characterisation record of the flash (R226, R585, R586): the header places it, its signature
verifies, it is of this part, and it is later than the fused one. -/
def charOk (s : State) (f : FlashRegions) : Bool :=
  let o := leAt f.header 12 4
  let bs := f.char
  flashHeaderOk f.header && o % 4096 == 0 && decide (0x2000 ≤ o) && decide (o ≤ 0xD000) && bs.length == 8384 &&
    leAt bs 0 4 == 0x52434B56 && leAt bs 4 1 == 1 && leAt bs 8 8 == deviceSerial s &&
    decide (fuseShadow s 64 % 256 < leAt bs 5 1) &&
    (match s.ctl.fwKey with
    | none => false
    | some key => Config.ecdsaVerify key (Config.sha384 (imageOf (bs.take 8288)) 8288) (slice bs 8288 96))

/-- The tap count of delay entry `e` of HBM stack `i` in the record that firmware uses (R562, R586). -/
def delayTap (s : State) (i e : Nat) : Nat :=
  if s.boot.char.isEmpty then fusedByte s 65 (128 * i + e / 16) else leAt s.boot.char (16 + 2048 * i + e) 1

/-- Firmware writes every delay entry of every stack through HBM_PHY_INDEX and HBM_PHY_DATA (R227). -/
def bringDelays (s : State) : State :=
  (List.range 4).foldl (fun t i =>
    (List.range 2048).foldl (fun u e => phyWrite u (delayTap s i e))
      (setF (setF t F.HBM_PHY_INDEX_STACK i) F.HBM_PHY_INDEX_ENTRY 0)) s

/-- The boot ROM loads firmware (R570, R583): the first of the images that passes goes into bank A and
runs, and begins bring-up with the delays of the HBM PHY (R226). -/
def bootFirmware (s : State) (f : FlashRegions) : State :=
  let s := onCtl s (fun c => { c with fwKey := acceptKey s f.key })
  let s := { s with boot := { s.boot with char := if charOk s f then f.char else [] } }
  match [f.imageA, f.imageB].find? (fun bs => bootOk s (bs.take (max 256 (leAt bs 12 4)))) with
  | none => setB s F.CTL_STATUS_START_FAIL true
  | some bs =>
    let s := onCtl s (fun c => { c with
      fws := Memory.writeBytes marchFill c.fws 0 (bs.take (leAt bs 12 4)), loaded := c.loaded.set false 0 true, running := true })
    let s := setF (setF s F.CTL_FW_STATUS_ACTIVE 0) F.CTL_FW_STATUS_SVN (imageSvn bs)
    bringDelays (coreList.foldl (fun t c => restartCore t c 0) s)

end Sys2Proof.Machine
end

