-- ==== Sys2Proof/Machine/Ingot.lean ====
section
/-! DEFINITION. The Ingot as a byte image (R147 to R163, R285 to R288, R371, R420, R452, R456): its fields, the checks of
R165 in their order, and the tables that the device keeps of it. -/

namespace Sys2Proof.Machine

/-! ### Fields (R147 to R152) -/

/-- The little-endian number of `n` bytes at offset `a` of an image. -/
def im (m : Memory) (a n : Nat) : Nat := leNat (Memory.readBytes zeroFill m a n)

/-- A section of an image: its OFFSET and LENGTH. -/
structure Sect where
  off : Nat
  len : Nat
  deriving DecidableEq, Repr

/-- The section of a KIND, if the image holds one (R149). -/
def findSect? (m : Memory) (kind : Nat) : Option Sect :=
  ((List.range 16).find? (fun i => im m (0x80 + 32 * i) 4 = kind)).map (fun i =>
    ⟨im m (0x88 + 32 * i) 8, im m (0x90 + 32 * i) 8⟩)

/-- The section of a KIND; an empty one where the image holds none. -/
def sectionOr (m : Memory) (kind : Nat) : Sect := (findSect? m kind).getD ⟨0, 0⟩

/-- A byte list of a section. -/
def sectBytes (m : Memory) (kind : Nat) : List Byte :=
  let x := sectionOr m kind
  Memory.readBytes zeroFill m x.off x.len

def igS (m : Memory) : Nat := im m 0x008 2
def igTiles (m : Memory) : Nat := im m 0x00A 2
def igGroups (m : Memory) : Nat := im m 0x00C 1
def igFirst (m : Memory) (g : Nat) : Nat := im m (0x010 + 2 * g) 2
def igCount (m : Memory) (g : Nat) : Nat := im m (0x018 + g) 1
def igCross (m : Memory) (i : Nat) : Nat := im m (0x01C + i) 1
def igWins (m : Memory) : Nat := im m 0x028 1
def igRegions (m : Memory) : Nat := im m 0x029 1
def igPorts (m : Memory) : Nat := im m 0x02A 2
def igLinks (m : Memory) : Nat := im m 0x02C 2
def igMachineSize (m : Memory) : Nat := im m 0x00E 1
def igMachinePos (m : Memory) : Nat := im m 0x00D 1

/-- The die group of a virtual tile (R154). -/
def tileGroup (m : Memory) (v : Nat) : Option Nat :=
  (List.range 4).find? (fun g => igFirst m g ≤ v ∧ v < igFirst m g + igCount m g)

/-- CROSS_DELAY from group `a` to group `b` (R148). -/
def crossDelay (m : Memory) (a b : Nat) : Nat := igCross m (3 * a + (b + 4 - a) % 4 - 1)

/-- Bytes of a tile image (R150). -/
def tileImageBytes (s : Nat) : Nat := 17 * s * 1024 + 131 * 4096

/-- The first byte of the tile image of virtual tile `v`. -/
def tileImage (m : Memory) (v : Nat) : Nat := (sectionOr m 1).off + v * tileImageBytes (igS m)

/-- The first byte of the memory-port frames of virtual tile `v` (R151). -/
def portFrames (m : Memory) (v : Nat) : Nat := (sectionOr m 3).off + v * 17 * 4096

/-- The PS word of cluster `n` of virtual tile `v` for step `t`. -/
def igPsWord (m : Memory) (v n t : Nat) : Nat := im m (tileImage m v + psOffset (igS m) n t) 24

/-- The enabled RECV lanes of a virtual tile: canonical LANE of each (R82). -/
def igRecvs (m : Memory) (v : Nat) : List Nat :=
  (List.range 32).flatMap (fun n => (List.range (igS m)).flatMap (fun t =>
    let w := igPsWord m v n t
    (List.range 4).filterMap (fun k =>
      let f := bitsOf w (28 + 25 * k) 25
      if f.testBit 24 then some (bitsOf f 10 14) else none)))

/-- Crossing-table entry `e` of virtual tile `v` (R99). -/
def igCrossEntry (m : Memory) (v e : Nat) : Nat := im m (tileImage m v + tablesOffset (igS m) + 1056 + 4 * e) 4

/-- The enabled crossing-table entries of virtual tile `v`: lane and entry. -/
def igCrossings (m : Memory) (v : Nat) : List (Nat × Nat) :=
  (List.range 128).filterMap (fun e => let w := igCrossEntry m v e; if w.testBit 31 then some (e, w) else none)

/-- The port binding entry of memory port `p` of virtual tile `v` (R151, R162). -/
def igBinding (m : Memory) (v p : Nat) : Nat := im m (portFrames m v + 4 * p) 4

/-- The 64-bit entries of a section. -/
def words64 (m : Memory) (kind : Nat) : List Nat :=
  let x := sectionOr m kind
  (List.range (x.len / 8)).map (fun i => im m (x.off + 8 * i) 8)

/-- Virtual tiles. -/
def igTileList (m : Memory) : List Nat := List.range (igTiles m)

/-! ### Regions (R285 to R287) -/

/-- The records of the REGION section, of which there are `n`. -/
def splitRegions : Nat → List Byte → List (List Byte)
  | 0, _ => []
  | n + 1, bs => bs.take (regionLength bs) :: splitRegions n (bs.drop (regionLength bs))

/-- The region records of an image. -/
def igRegionList (m : Memory) : List (List Byte) := splitRegions (igRegions m) (sectBytes m 9)

/-- A configuration byte of a block in an image's HEDGEROW section (R456). -/
def igCfg (m : Memory) (x f b n : Nat) : Nat := im m ((sectionOr m 8).off + blockFrame x f + b) n

/-- BDRV of block `x` in an image. -/
def igBdrv (m : Memory) (x : Nat) : Nat := if (findSect? m 8).isSome then igCfg m x 0 0 8 else 0

/-- The pins that block `x` drives in an image (R457, R461): used slots that are outputs or bidirectional. -/
def igBlockPins (m : Memory) (x : Nat) : List Nat :=
  match blockPin x with
  | none => []
  | some p => ((List.range 4).filter (fun k =>
      igCfg m x 3 (16 * k) 1 ≠ 0 ∧ (igCfg m x 3 (16 * k + 1) 1 % 4 = 1 ∨ igCfg m x 3 (16 * k + 1) 1 % 4 = 2))).map (p + ·)

/-- A border signal: KIND, UNIT, INDEX. -/
abbrev BorderSignal := Nat × Nat × Nat

/-- The border of a region (R287). -/
def regionBorder (m : Memory) (r : RegionDef) : List BorderSignal :=
  let lanes := r.tiles.flatMap (fun v =>
    let named := (igTileList m).filter (fun u => !r.tiles.contains u && tileGroup m u == tileGroup m v)
    let i := v - igFirst m ((tileGroup m v).getD 0)
    let read := named.flatMap (fun u => (igRecvs m u).filter (fun l => l < 0x2000 ∧ l / 128 = i))
    (List.range 128).filterMap (fun l =>
      if read.contains (i * 128 + l) || (igCrossEntry m v l).testBit 31 then some (0, v, l) else none))
  let lines := r.blocks.flatMap (fun x => (List.range 64).filterMap (fun l =>
    if (igBdrv m x).testBit l then some (1, 0, l) else none))
  lanes ++ lines ++ r.blocks.flatMap (fun x => (igBlockPins m x).map (fun p => (2, 0, p)))

/-- The signal that a border entry names (R286). -/
def entrySignal (w : Nat) : BorderSignal := (bitsOf w 62 2, bitsOf w 16 16, bitsOf w 0 16)

/-- An element stands twice in a list. -/
def hasDup : List Nat → Bool
  | [] => false
  | x :: xs => xs.contains x || hasDup xs

/-- The region checks of R288. -/
def regionsOk (m : Memory) : Bool :=
  let rs := (igRegionList m).map decodeRegion
  !hasDup (rs.map RegionDef.number) && rs.all (fun r => decide (r.number < igRegions m)) &&
    !hasDup (rs.flatMap RegionDef.tiles) && !hasDup (rs.flatMap RegionDef.blocks) &&
    rs.all (fun r => r.tiles.all (· < igTiles m) && (r.blocks == [] || (findSect? m 8).isSome) &&
      (let b := regionBorder m r
       let e := r.border.map entrySignal
       b.all (e.contains ·) && e.all (b.contains ·)))

/-! ### LR_FORMAT -/

/-- A MEMWIN record's fields: INDEX, GRAIN, FLAGS, SIZE, SET (R152). -/
def memWinAt (m : Memory) (i : Nat) : Nat × MemWin :=
  let a := (sectionOr m 2).off + 32 * i
  (im m a 1, ⟨im m (a + 1) 1, (im m (a + 2) 1).testBit 0, (im m (a + 2) 1).testBit 1, im m (a + 8) 8, im m (a + 16) 16⟩)

/-- Members of a SET. -/
def setMembers (set : Nat) : List Nat := (List.range 128).filter (fun p => set.testBit p)

/-- The MEMWIN section keeps R152. -/
def memWinsOk (m : Memory) : Bool :=
  decide (igWins m ≤ 16) && (sectionOr m 2).len == 32 * igWins m && (List.range (igWins m)).all (fun i =>
    let (n, w) := memWinAt m i
    let k := (setMembers w.set).length
    n == i && (decide (w.grain < 9) || w.grain == 15) && [1, 2, 4, 8, 16, 32, 64, 128].contains k && w.size % (k * 65536) == 0)

/-- The records of the HBMINIT section from offset `a` on, at most `fuel` of them: window, offset, length and first data
byte of each; none where they do not fill the section exactly or break R222. -/
def hbmInits (m : Memory) (stop : Nat) : Nat → Nat → Option (List (Nat × Nat × Nat × Nat))
  | 0, a => if a = stop then some [] else none
  | fuel + 1, a =>
    if a = stop then some []
    else
      let len := im m (a + 4) 4
      let off := im m (a + 8) 8
      if stop < a + 16 + len ∨ len % 16 ≠ 0 ∨ len < 16 ∨ 2 ^ 31 < len ∨ off % 8 ≠ 0 ∨ im m (a + 1) 3 ≠ 0 then none
      else (hbmInits m stop fuel (a + 16 + len)).map ((im m a 1, off, len, a + 16) :: ·)

/-- The HBMINIT records of an image. -/
def igInits (m : Memory) : Option (List (Nat × Nat × Nat × Nat)) :=
  match findSect? m 10 with
  | none => some []
  | some x => hbmInits m (x.off + x.len) (x.len / 32 + 1) x.off

/-- MODE of the start-up sequence and its entries: event and delay (R280). -/
def igStartup (m : Memory) : Nat × List (Nat × Nat) :=
  match findSect? m 11 with
  | none => (0, [])
  | some x => (im m x.off 1, (List.range 4).map (fun i => (im m (x.off + 4 + 4 * i) 1, im m (x.off + 6 + 4 * i) 2)))

/-- The STARTUP section keeps R280. -/
def startupOk (m : Memory) : Bool :=
  match findSect? m 11 with
  | none => true
  | some x =>
    let (mode, es) := igStartup m
    x.len == 32 && decide (mode ≤ 1) && im m (x.off + 1) 3 == 0 && im m (x.off + 20) 12 == 0 &&
      (List.range 4).all (fun i => im m (x.off + 5 + 4 * i) 1 == 0) &&
      (mode == 0 || [1, 2, 3, 4].all (fun e => (es.map Prod.fst).contains e))

/-- The PROBE section keeps R372. -/
def probesOk (m : Memory) : Bool :=
  let ws := (words64 m 6).filter (fun w => w.testBit 63)
  !hasDup (ws.map (fun w => bitsOf w 0 16)) &&
    (List.range 256).all (fun p => decide ((ws.filter (fun w => bitsOf w 51 8 = p)).length ≤ 256))

/-- The bridge entries in use, decoded. -/
def igBridges (m : Memory) : List BridgeDef := (words64 m 7).filterMap decodeBridge

/-- The BRIDGE section keeps R452. -/
def bridgesOk (m : Memory) : Bool :=
  let bs := igBridges m
  bs.all (fun b => decide (b.line + b.width ≤ 4080)) &&
    !hasDup ((bs.filter (fun b => b.out)).flatMap (fun b => (List.range b.width).map (b.line + ·)))

/-- The settings of a Hedgerow PLL keep R451: the reference is REFCLK at 100 MHz, or a pin at 10 to 250 MHz. -/
def hpllOk (m : Memory) (h : Nat) : Bool :=
  let b := fun i => im m ((sectionOr m 8).off + 16 * h + i) 1
  let mult := im m ((sectionOr m 8).off + 16 * h + 2) 2
  b 0 == 0 || (decide (b 0 ≤ 1) && decide (b 1 ≤ 1) &&
    (if b 1 = 0 then decide (20 ≤ mult) && decide (mult ≤ 40) else decide (8 ≤ mult) && decide (mult ≤ 400)) &&
    (List.range 4).all (fun j => b (4 + j) == 0 || (decide (4 ≤ b (4 + j)) &&
      (b 1 == 1 || decide (100 * mult ≤ 500 * b (4 + j))))))

/-- DRIVE codes that a standard lists (R461): how many, from 0 on. -/
def driveCodes (std : Nat) : Nat := match std with | 1 => 2 | 2 => 3 | 3 => 4 | 4 => 4 | 5 => 4 | _ => 1

/-- A pin slot keeps R461; `k` is its slot and `other` the STANDARD of the other pin of its pair. -/
def slotOk (std drive k other : Nat) : Bool :=
  std == 0 || (decide (std ≤ 9) && decide (drive < driveCodes std) && (std != 9 || k % 2 == 0) && !(k % 2 == 1 && other == 9))

/-- The local selects and the pin slots of the HEDGEROW section keep R443 and R461. -/
def fabricOk (m : Memory) : Bool :=
  match findSect? m 8 with
  | none => true
  | some x =>
    x.len == 2049 * 4096 && hpllOk m 0 && hpllOk m 1 && (List.range 256).all (fun b =>
      (List.range 64).all (fun c => (List.range 6).all (fun i => decide (igCfg m b 1 (64 * c + 8 + 2 * i) 2 % 1024 < 452))) &&
      ((blockPin b).isNone || (List.range 4).all (fun k =>
        slotOk (igCfg m b 3 (16 * k) 1) (bitsOf (igCfg m b 3 (16 * k + 1) 1) 2 2) k (igCfg m b 3 (16 * (k ^^^ 1)) 1))))

/-- An enabled crossing-table entry keeps R623. -/
def crossEntryOk (w : Nat) : Bool :=
  (w.testBit 30 == (bitsOf w 28 2 == 0)) && bitsOf w 10 18 == 0

/-- No enabled port binding entry has a reserved TARGET (R162). -/
def bindingTargetsOk (m : Memory) : Bool :=
  (igTileList m).all (fun v => (List.range 16).all (fun p =>
    let w := igBinding m v p
    !w.testBit 31 || decide (bitsOf w 28 3 ≤ 2)))

/-- The sections keep their layouts (R149 to R151); that a breach of these is LR_FORMAT is a DESIGN CHOICE.  Sections that a
higher minor version adds are ignored (R177). -/
def layoutOk (m : Memory) : Bool :=
  let all := ((List.range 16).map (fun i => im m (0x80 + 32 * i) 4)).filter (· ≠ 0)
  let kinds := all.filter (· ≤ 11)
  (im m 4 1 != 0 || all.all (· ≤ 11)) && !hasDup kinds && [1, 2, 3].all (kinds.contains ·) &&
    (sectionOr m 1).off % 4096 == 0 && (sectionOr m 3).off % 4096 == 0 && (sectionOr m 8).off % 4096 == 0 &&
    (sectionOr m 1).len == igTiles m * tileImageBytes (igS m) && (sectionOr m 3).len == igTiles m * 17 * 4096 &&
    (sectionOr m 4).len == 8 * igPorts m && (sectionOr m 5).len == 16 * igLinks m &&
    (sectionOr m 6).len % 8 == 0 && (sectionOr m 7).len % 8 == 0 && decide (igRegions m ≤ 64) &&
    decide (igPorts m ≤ 4096) && decide (igLinks m ≤ 4096)

/-- LR_FORMAT does not apply (R165, order 1). -/
def formatOk (m : Memory) : Bool :=
  im m 0 4 == 0x49344B56 && im m 5 1 == 1 && layoutOk m && memWinsOk m && bindingTargetsOk m && (igInits m).isSome &&
    startupOk m && probesOk m && bridgesOk m && fabricOk m &&
    (igTileList m).all (fun v => (igCrossings m v).all (fun e => crossEntryOk e.2))

/-! ### The other checks of R165 -/

/-- Bytes of an Ingot: to the end of its last section (R275). -/
def igLength (m : Memory) : Nat :=
  (List.range 16).foldl (fun e i =>
    if im m (0x80 + 32 * i) 4 = 0 then e else max e (im m (0x88 + 32 * i) 8 + im m (0x90 + 32 * i) 8)) 640

/-- Frames of the extent (R275). -/
def igExtent (m : Memory) : Nat := (igLength m + 4095) / 4096

/-- IDENTITY matches the received Ingot (R147). -/
def digestOk (m : Memory) : Bool :=
  let n := igLength m
  slice (Config.sha384 (m.filter (fun c => c.1 < n ∧ ¬(0x30 ≤ c.1 ∧ c.1 < 0x60))) n) 0 48 ==
    Memory.readBytes zeroFill m 0x30 48

/-- LR_SCHEDULE does not apply (R13). -/
def scheduleOk (m : Memory) : Bool := igS m % 8 == 0 && decide (64 ≤ igS m) && decide (igS m ≤ 1024)

/-- LR_GROUPS does not apply (R154). -/
def groupsOk (m : Memory) : Bool :=
  let n := igGroups m
  decide (1 ≤ n) && decide (n ≤ 4) && decide (1 ≤ igTiles m) && decide (igTiles m ≤ 256) &&
    (List.range 4).all (fun g => decide (g < n) == (igCount m g != 0)) &&
    ((List.range n).map (igCount m)).foldl (· + ·) 0 == igTiles m &&
    (List.range n).all (fun g => decide (igFirst m g + igCount m g ≤ igTiles m) &&
      (List.range n).all (fun h => h == g || decide (igFirst m g + igCount m g ≤ igFirst m h) ||
        decide (igFirst m h + igCount m h ≤ igFirst m g)))

/-- π of a binding block (R276). -/
def bindPi (m : Memory) (bs : List Byte) : List Nat :=
  (List.range (igGroups m)).map (fun g => if (leAt bs 0 1).testBit 0 then leAt bs (4 + g) 1 else g)

/-- P_g of a binding block (R276). -/
def bindPg (m : Memory) (bs : List Byte) : List (List Nat) :=
  (List.range (igGroups m)).map (fun g => (List.range (igCount m g)).map (fun i =>
    if (leAt bs 0 1).testBit 1 then leAt bs (8 + 64 * g + i) 1 else i))

/-- LR_BINDING does not apply (R157). -/
def bindingOk (s : State) (m : Memory) (bs : List Byte) : Bool :=
  !hasDup (bindPi m bs) && (bindPi m bs).all (· < 4) &&
    (bindPg m bs).all (fun ps => !hasDup ps && ps.all (· < activePositions s))

/-- A DIE and TILE_POS of a map entry name a tile of the Ingot (R165, order 9). -/
def mapEntryBound (m : Memory) (w : Nat) : Bool :=
  !w.testBit 63 || (decide (bitsOf w 57 2 < igGroups m) && decide (bitsOf w 51 6 < igCount m (bitsOf w 57 2)))

/-- The pairs of groups between which virtual tile `v` forwards. -/
def igPairs (m : Memory) (v : Nat) : List (Nat × Nat) :=
  let g := (tileGroup m v).getD 0
  ((igCrossings m v).filter (fun e => !e.2.testBit 30)).map (fun e => (g, (g + bitsOf e.2 28 2) % 4))

/-- A LINKCH record (R420): receiving group, channel, D_L, sending position, group, channel. -/
structure IgLink where
  rxGroup : Nat
  rxChan : Nat
  dl : Nat
  txPos : Nat
  txGroup : Nat
  txChan : Nat
  deriving DecidableEq, Repr

/-- The LINKCH records of an image. -/
def igLinkList (m : Memory) : List IgLink :=
  (List.range (igLinks m)).map (fun i =>
    let a := (sectionOr m 5).off + 16 * i
    ⟨im m a 1, im m (a + 2) 2, im m (a + 4) 2, im m (a + 6) 1, im m (a + 7) 1, im m (a + 8) 2⟩)

/-- LR_UNBOUND_REF does not apply (R165, order 9). -/
def refsOk (m : Memory) : Bool :=
  (igTileList m).all (fun v =>
    let g := (tileGroup m v).getD 0
    (igRecvs m v).all (fun l =>
      if l < 0x2000 then decide (l / 128 < igCount m g)
      else !decide (l < 0x2C00) || decide ((g + l / 1024 % 4 + 1) % 4 < igGroups m)) &&
    (igPairs m v).all (fun p => decide (p.2 < igGroups m) && crossDelay m p.1 p.2 != 0)) &&
  ((words64 m 4) ++ (words64 m 6) ++ (words64 m 7)).all (mapEntryBound m) &&
  (igLinkList m).all (fun r => decide (r.rxGroup < igGroups m))

/-- The latency of the data path from position `p` to `dest` (R429, R435): Σℓ, and 16 steps for each relay. -/
def pathLatency (g : List GraphEdge) (dest : Nat) : Nat → Nat → Option Nat
  | 0, _ => none
  | fuel + 1, p =>
    if p = dest then some 0
    else match firstLink GraphEdge.ell g p dest with
      | none => none
      | some l => match g.find? (fun e => e.a.toNat = p ∧ e.link.val = l) with
        | none => none
        | some e => (pathLatency g dest fuel e.b.toNat).map (fun r =>
            e.ell + r + if e.b.toNat = dest then 0 else 16)

/-- Measured latency of an ordered pair of dies (R103, R104). -/
def dieLatency (s : State) (src dst : Nat) : Nat := s.chip.latency.get 24 (src * 4 + dst)

/-- LR_DELAY does not apply (R104, R108, R148, R420). -/
def delaysOk (s : State) (m : Memory) (bs : List Byte) : Bool :=
  let pi := bindPi m bs
  (List.range 12).all (fun i => igCross m i == 0 || (decide (20 ≤ igCross m i) && decide (igCross m i ≤ 28))) &&
    (igTileList m).all (fun v => (igPairs m v).all (fun p =>
      decide (dieLatency s (pi.getD p.1 0) (pi.getD p.2 0) ≤ crossDelay m p.1 p.2))) &&
    (igLinkList m).all (fun r =>
      (igLinkList m).all (fun q => !(q.rxGroup == r.rxGroup && q.rxChan == r.rxChan) || q.dl == r.dl) &&
      match (if r.txPos = position s then none else pathLatency s.lnk.full (position s) 17 r.txPos) with
      | some l => decide (l ≤ r.dl) && decide (r.dl ≤ l + 255)
      | none => true)

/-- The design windows of the Ingot in force released (R220, R277). -/
def releaseWindows (s : State) : State :=
  (List.range 16).foldl (fun t n =>
    if getB t (F.HBM_WIN_CTRL_LOCK n) then setB (setB t (F.HBM_WIN_CTRL_LOCK n) false) (F.HBM_WIN_CTRL_EN n) false else t) s

/-- The registers of window `n` for a declared window at BASE `b` (R220). -/
def writeWindow (s : State) (n : Nat) (w : MemWin) (b : Nat) : State :=
  let s := setF (setF s (F.HBM_WIN_CTRL_OWNER n) 0) (F.HBM_WIN_CTRL_GRAIN n) w.grain
  let s := setF (setB s (F.HBM_WIN_CTRL_MIRROR n) w.mirror) (F.HBM_WIN_SIZE_SIZE n) (w.size / 65536)
  let s := (List.range 4).foldl (fun t k => setF t (F.HBM_WIN_SET_SET n k) (w.set / 2 ^ (32 * k))) s
  setF s (F.HBM_WIN_BASE_BASE n) b

/-- One declared window enabled at the lowest BASE at which R219 passes, in the lowest free device window, with LOCK
(R220); a SIZE beyond its register's 22 bits fits at none. -/
def enableWindow (s : State) (w : MemWin) : Option (State × Nat) :=
  match (List.range 16).find? (fun n => !getB s (F.HBM_WIN_CTRL_EN n)) with
  | none => none
  | some n =>
    match (if w.size / 65536 < 2 ^ 22 then (List.range 16384).find? (fun b => winOk (writeWindow s n w b) n) else none) with
    | none => none
    | some b => some (showDegraded (setB (setB (writeWindow s n w b) (F.HBM_WIN_CTRL_EN n) true) (F.HBM_WIN_CTRL_LOCK n) true), n)

/-- Every declared window enabled in order; none where one fails (R220). -/
def enableWindows (s : State) : List MemWin → Option (State × List Nat)
  | [] => some (s, [])
  | w :: ws => match enableWindow s w with
    | none => none
    | some (t, n) => (enableWindows t ws).map (fun r => (r.1, n :: r.2))

/-- The declared windows. -/
def igMemWins (m : Memory) : List MemWin := (List.range (igWins m)).map (fun i => (memWinAt m i).2)

/-- LR_WINDOW does not apply (R162, R165, R220, R222). -/
def windowsOk (s : State) (m : Memory) : Bool :=
  (enableWindows (releaseWindows s) (igMemWins m)).isSome &&
    (igTileList m).all (fun v => (List.range 16).all (fun p =>
      let w := igBinding m v p
      !(w.testBit 31 && bitsOf w 28 3 == 1) || decide (bitsOf w 24 4 < igWins m))) &&
    ((igInits m).getD []).all (fun r => match (igMemWins m)[r.1]? with
      | some w => w.init && decide (r.2.1 + r.2.2.1 ≤ w.size)
      | none => false)

/-- The message ports in use, decoded. -/
def igPortList (m : Memory) : List PortDef := (words64 m 4).filterMap decodePort

/-- Bits of a port's presentation (R336). -/
def presBits (p : PortDef) : Nat := if !p.out && p.blocking then p.width else p.width + 1

/-- The presentation of an entry runs past cluster 31. -/
def runsPast (cluster first bits u : Nat) : Bool := decide (31 < cluster + (first + bits - 1) / u)

/-- IMPEN of the block that owns an import line, in an image (R453). -/
def igLineEnabled (m : Memory) (l : Nat) : Bool := (findSect? m 8).isSome && (igCfg m (l / 16) 0 72 2).testBit (l % 16)

/-- The port-input bits that the entries of an image present onto (R452). -/
def igPresented (m : Memory) : List Nat :=
  ((igPortList m).filter (fun p => !p.out)).flatMap (fun p =>
    (List.range (presBits p)).map (fun i => p.die * 2 ^ 20 + presInKey p i)) ++
  ((igBridges m).filter (fun b => !b.out)).flatMap (fun b =>
    ((List.range b.width).filter (fun i => igLineEnabled m (b.line + i))).map (fun i => b.die * 2 ^ 20 + bridgeInKey b i))

/-- LR_MSGPORT does not apply (R165, R336, R452). -/
def portsOk (m : Memory) : Bool :=
  (igPortList m).all (fun p => (p.out || decide (p.first < 256)) &&
    !runsPast p.cluster p.first (presBits p) (if p.out then 2048 else 256)) &&
  (igBridges m).all (fun b => !runsPast b.cluster b.first b.width (if b.out then 2048 else 256)) &&
  !hasDup (igPresented m)

/-- The parts of LR_MACHINE that one device can judge alone (R165, R421). -/
def machineOk (s : State) (m : Memory) : Bool :=
  (igLinkList m).all (fun r => multi s && decide (r.txPos < igMachineSize m) && r.txPos != igMachinePos m)

/-- The reason of R165 for which the loader rejects an Ingot, in their order, up to LR_MSGPORT; then LR_MACHINE of an Ingot that
is no part of a machine set; one that is meets it after the machine wait (R278). -/
def ingotReason (s : State) (m : Memory) (bs : List Byte) : Option Nat :=
  if formatOk m = false then some 0x01
  else if digestOk m = false then some 0x02
  else if im m 0x70 2 ≠ 0x564B ∨ im m 0x72 1 ≠ 0x04 then some 0x03
  else if s.chip.silicon.toNat < im m 0x0F 1 then some 0x04
  else if scheduleOk m = false then some 0x05
  else if (List.range 4).any (fun g => activePositions s < igCount m g) then some 0x06
  else if groupsOk m = false then some 0x07
  else if bindingOk s m bs = false then some 0x08
  else if refsOk m = false then some 0x09
  else if delaysOk s m bs = false then some 0x0A
  else if windowsOk s m = false then some 0x0B
  else if portsOk m = false then some 0x0C
  else if igMachineSize m ≤ 1 ∧ machineOk s m = false then some 0x0D
  else none

/-- Two blocks enable one broadcast line (R294). -/
def censusClash (m : Memory) : Bool :=
  (List.range 64).any (fun l => decide (1 < ((List.range 256).filter (fun x => (igBdrv m x).testBit l)).length))

/-! ### What the device keeps of an Ingot -/

/-- A map entry with DIE and TILE_POS patched (R160). -/
def patchMapEntry (pi : List Nat) (pg : List (List Nat)) (w : Nat) : Nat :=
  let g := bitsOf w 57 2
  let p := bitsOf w 51 6
  if w.testBit 63 then
    w - g * 2 ^ 57 - p * 2 ^ 51 + pi.getD g g % 4 * 2 ^ 57 + (pg.getD g []).getD p p % 64 * 2 ^ 51
  else w

/-- Message-port map entry `i`, patched (R160); the device port allocated to a port is its index. -/
def patchPort (pi : List Nat) (pg : List (List Nat)) (w i : Nat) : Nat :=
  let v := patchMapEntry pi pg w
  if w.testBit 63 then v - v % 4096 + i else v

/-- The Ingot that an image and a binding block give (R147 to R163); its device windows are chosen at installation. -/
def decodeIngot (m : Memory) (bs : List Byte) : Ingot :=
  let pi := bindPi m bs
  let pg := bindPg m bs
  { isSealed := (im m 6 2).testBit 0, s := igS m, nV := igTiles m
    groups := (List.range (igGroups m)).map (fun g => (igFirst m g, igCount m g))
    machinePos := igMachinePos m, machineSize := igMachineSize m
    identity := Memory.readBytes zeroFill m 0x30 48, machineId := Memory.readBytes zeroFill m 0x60 16
    crossDelay := (List.range 12).map (igCross m), pi := pi, pos := pg, memWins := igMemWins m, windows := []
    msgPorts := (List.range (words64 m 4).length).map (fun i => patchPort pi pg ((words64 m 4).getD i 0) i)
    linkch := (igLinkList m).map (fun r =>
      ⟨BitVec.ofNat 4 (igMachinePos m), Fin.ofNat 4 (pi.getD r.rxGroup 0), Fin.ofNat 1024 r.rxChan, BitVec.ofNat 16 r.dl,
        BitVec.ofNat 4 r.txPos, Fin.ofNat 4 r.txGroup, Fin.ofNat 1024 r.txChan⟩)
    probes := ((words64 m 6).filter (fun w => w.testBit 63)).foldl (fun t w => t.set 0 (bitsOf w 0 16) (patchMapEntry pi pg w)) []
    bridges := (words64 m 7).map (patchMapEntry pi pg)
    regions := igRegionList m, variants := List.replicate 64 (List.replicate 16 0)
    startup := (igStartup m).2.map (fun e => (e.1, (igStartup m).1, e.2)) }

end Sys2Proof.Machine
end

