-- ==== Sys2Proof/Machine/Install.lean ====
section
/-! DEFINITION. The ends of load streams (R260, R261, R271, R298), the installation of a checked Ingot (R277, R279) and the
start-up sequence (R280 to R283). -/

namespace Sys2Proof.Machine

/-! ### Result codes (R298) -/

abbrev lsWindow : Nat := 0x0B
abbrev lrMachine : Nat := 0x0D
abbrev lrRegion : Nat := 0x0E
abbrev lsSegment : Nat := 0x20
abbrev lsSequence : Nat := 0x21
abbrev lsKey : Nat := 0x22
abbrev lsAuth : Nat := 0x23
abbrev lsCommand : Nat := 0x24
abbrev lsTooLarge : Nat := 0x25
abbrev lsOutOfRegion : Nat := 0x26
abbrev lsBorder : Nat := 0x27
abbrev lsCensus : Nat := 0x28
abbrev lsParent : Nat := 0x29
abbrev lsState : Nat := 0x2A
abbrev lsBusy : Nat := 0x2B
abbrev lsPath : Nat := 0x2C
abbrev lsTimeout : Nat := 0x2D
abbrev lsCancelled : Nat := 0x2E
abbrev lsPathLost : Nat := 0x2F
abbrev lsOverflow : Nat := 0x30
abbrev lsPllFail : Nat := 0x31
abbrev lsFlash : Nat := 0x32
abbrev lsIncomplete : Nat := 0x33

/-- SEGMENT where no segment is named (R298). -/
abbrev noSegment : Nat := 0xFFFF

/-- The state with the loader changed. -/
def onLdr (s : State) (g : Ldr → Ldr) : State := { s with ldr := g s.ldr }

/-! ### Streams open and end -/

/-- The result of a stream as LDR_RESULT and the completion that ends it report it (R298, R320). -/
def reportLoad (s : State) (path : Nat) (desc : Option Desc) (code seg : Nat) : State :=
  let s := setF (setF (setF s F.LDR_RESULT_CODE code) F.LDR_RESULT_PATH path) F.LDR_RESULT_SEGMENT seg
  match desc with
  | some d => complete s d (if code = 0 then stOK else stLoadFailed) (code + seg % 65536 * 65536)
  | none => s

/-- The loader has a stream open: one that it takes bytes of, or one past its COMMIT (R260, R278). -/
def loaderOpen (s : State) : Bool := s.ldr.stream.isSome || s.ldr.install.isSome

/-- A stream of `path` with nothing taken. -/
def freshStream (path : Nat) (desc : Option Desc) (session : Nat × Nat) (binding : List Byte) : LdStream :=
  { path := path, desc := desc, session := session, isPartial := false, nonce := [], keySel := 0, position := 0,
    last := false, frame := none, region := none, variant := [], covered := [], buffer := [], binding := binding }

/-- A stream is open. -/
def beginStream (s : State) (x : LdStream) : State :=
  let s := onLdr s (fun h => { h with stream := some x, staging := [] })
  setF (setF (setF (setF s F.LDR_STATUS_PATH x.path) F.LDR_STATUS_PHASE 1) F.LDR_SEGMENTS_COUNT 0) F.LDR_FAIL_ADDR_ADDR 0

/-- A path is accepted (R261). -/
def pathAccepted (s : State) (path : Nat) : Bool :=
  match getF s F.LDR_BOOT_BOOT_SEL with
  | 0 => path != 3
  | 2 => path == 2 || s.ldr.spiLoaded
  | _ => true

/-- A stream is offered (R260, R261): it opens, or it ends at once with LS_BUSY or LS_PATH. -/
def offerStream (s : State) (x : LdStream) : State :=
  if loaderOpen s then reportLoad s x.path x.desc lsBusy noSegment
  else if pathAccepted s x.path = false then reportLoad s x.path x.desc lsPath noSegment
  else beginStream s x

/-- A QSPI stream from directory entry `e` is offered (R266, R267). -/
def offerFlash (s : State) (e : Nat) : State :=
  let t := offerStream s (freshStream 3 none (0, 0) [])
  if loaderOpen s then t else setF t F.LDR_BOOT_ENTRY e

/-- The self-load goes on after the end of a QSPI stream (R261). -/
def selfLoadEnds (s : State) (path code : Nat) : State :=
  if path ≠ 3 ∨ s.ldr.selfTry = 0 then s
  else if code = 0 then onLdr s (fun h => { h with selfTry := 0 })
  else if s.ldr.selfTry = 1 then offerFlash (onLdr s (fun h => { h with selfTry := 2 })) 1
  else
    let s := onLdr s (fun h => { h with selfTry := 0 })
    if getF s F.LDR_BOOT_BOOT_SEL = 1 then setB s F.LDR_STATUS_BOOT_FAIL true else setB s F.LDR_BOOT_FELL_BACK true

/-- The open stream has ended: nothing of it shows in LDR_STATUS, and its result is reported. -/
def closeLoad (s : State) (path : Nat) (desc : Option Desc) (code seg : Nat) : State :=
  let s := setB (setF (setF (setF s F.LDR_STATUS_PATH 0) F.LDR_STATUS_PHASE 0) F.LDR_STATUS_REGION 0) F.LDR_STATUS_PARTIAL false
  selfLoadEnds (reportLoad s path desc code seg) path code

/-- The stream `x` ends with a code (R271, R295, R298): the staging area is discarded; what a partial stream has had
accepted stays to be written. -/
def endStream (s : State) (x : LdStream) (code seg : Nat) : State :=
  let s := onLdr s (fun h => { h with
    stream := none, staging := [], todo := h.todo.filter (fun c => c.2 ≠ .commit) })
  let s := match x.isPartial, x.region with
    | true, some n => if code = 0 then s else bumpF s (F.LDR_REGION_ABORTS n) 1
    | _, _ => s
  closeLoad s x.path x.desc code seg

/-- The load past COMMIT ends with a code. -/
def endInstall (s : State) (i : LdInstall) (code : Nat) : State :=
  closeLoad (onLdr s (fun h => { h with install := none, staging := [] })) i.path i.desc code noSegment

/-! ### Installation (R277) -/

/-- The loader's blocks of registers show no Ingot: the machine is in EMPTY (R277, order 1). -/
def showEmpty (s : State) : State :=
  let s := setF (setF s F.ARY_STATE_STATE 0) F.ARY_SCHEDULE_S 0
  let s := setB (setB (setB s F.HGR_STATUS_OUTPUTS false) F.HGR_STATUS_WRITES false) F.HGR_STATUS_GSR true
  showParked s

/-- Every region is joined (R277). -/
def joinRegions (s : State) : State :=
  let s := (List.range 64).foldl (fun t n => setF t (F.LDR_REGION_STATE n) 0) s
  onHgr (onLdr { s with iso := [] } (fun h => { h with todo := [] })) (fun h => { h with iso := [] })

/-- Outstanding work on design state ends, and the machine enters EMPTY (R277, order 1; R34, R357, R388).  DESIGN CHOICE:
descriptors that a FENCE holds back, and those of a LINK group that is being collected, have not started and are kept; R34 says
nothing of them.  Samples that were committed are written all the same. -/
def leaveIngot (s : State) : State :=
  let s := chnAbandon (closeChans s (fun _ => true)) 0 false
  let s := designCancel (cancelRunControl s)
  let s := endHolds s false 0
  let s := (List.range 32).foldl (fun t k => setB t (F.ASY_TRK_CTRL_EN k) false) (asyDisarm s)
  let s := setB (setB s F.SEC_STATUS_UNSEALED false) F.SEC_STATUS_SEALED false
  let s := joinRegions (showEmpty s)
  { s with
    holds := Holds.reset
    run := { RunCtl.reset with firstCycle := some 0 }
    chn := { s.chn with reserved := [], again := [], chosen := [], outDecided := 0, inDecided := 0 }
    asy := { Asy.reset with waiting := s.asy.waiting }
    mem := { s.mem with writes := [], reads := [], log := [], stalled := [], flights := [], portA := [], before := [] }
    hbm := { s.hbm with ueSeen := [], tileSeen := [] }
    lnk := { s.lnk with map := [], started := [], startSent := false, holdSent := false, readySent := false, voteSent := 0,
                        badSent := 0 } }

/-- The place of virtual tile `v` in an Ingot with its binding (R157). -/
def ingotPlace (g : Ingot) (m : Memory) (v : Nat) : Nat × Nat :=
  let grp := (tileGroup m v).getD 0
  (g.pi.getD grp grp % 4, (g.pos.getD grp []).getD (v - igFirst m grp) 0 % 64)

/-- A byte of the TILE section (R150): where it goes among the tile units, if it does. -/
def tileByteAt (g : Ingot) (m : Memory) (a : Nat) : Option Nat :=
  let x := sectionOr m 1
  let n := tileImageBytes g.s
  let (d, p) := ingotPlace g m ((a - x.off) / n)
  let o := (a - x.off) % n
  if x.off ≤ a ∧ a < x.off + x.len ∧ o < tablesOffset g.s + 1568 then some (unitBase d p + o) else none

/-- A byte of the MEMPORT section (R151): where it goes among the tile units, if it does. -/
def portByteAt (g : Ingot) (m : Memory) (a : Nat) : Option Nat :=
  let x := sectionOr m 3
  let (d, p) := ingotPlace g m ((a - x.off) / 69632)
  let o := (a - x.off) % 69632
  if x.off ≤ a ∧ a < x.off + x.len then
    if o < 64 then some (unitBase d p + tablesOffset g.s + 1568 + o)
    else if 4096 ≤ o then some (unitBase d p + tablesOffset g.s + o)
    else none
  else none

/-- A byte of the initial tile RAM (R150): its byte among the tile RAMs. -/
def ramByteAt (g : Ingot) (m : Memory) (a : Nat) : Option Nat :=
  let x := sectionOr m 1
  let n := tileImageBytes g.s
  let (d, p) := ingotPlace g m ((a - x.off) / n)
  let o := (a - x.off) % n
  let ram := tablesOffset g.s + 12288
  if x.off ≤ a ∧ a < x.off + x.len ∧ ram ≤ o then some ((d * 64 + p) * 524288 + (o - ram)) else none

/-- A byte of the initial register bits (R150): die, and key of its first bit. -/
def regByteAt (g : Ingot) (m : Memory) (a : Nat) : Option (Nat × Nat) :=
  let x := sectionOr m 1
  let n := tileImageBytes g.s
  let (d, p) := ingotPlace g m ((a - x.off) / n)
  let o := (a - x.off) % n
  let base := tablesOffset g.s + 4096
  if x.off ≤ a ∧ a < x.off + x.len ∧ base ≤ o ∧ o < base + 8192 then
    some (d, (p * 32 + (o - base) / 256) * 2048 + (o - base) % 256 * 8)
  else none

/-- A memory of the bytes of an image that a placement takes. -/
def placeBytes (m : Memory) (at_ : Nat → Option Nat) (base : Memory) : Memory :=
  m.foldl (fun t c => match at_ c.1 with | some k => Memory.write zeroFill t k c.2 | none => t) base

/-- Crossing channels that an Ingot sends over (R99, R160): sending and receiving die, the receiver's key, and the
declared delay. -/
def ingotCrossings (g : Ingot) (m : Memory) : List (Nat × Nat × Nat × Nat) :=
  (igTileList m).flatMap (fun v =>
    let a := (tileGroup m v).getD 0
    ((igCrossings m v).filter (fun e => !e.2.testBit 30)).map (fun e =>
      let b := (a + bitsOf e.2 28 2) % 4
      let src := g.pi.getD a a
      let dst := g.pi.getD b b
      (src, dst, (3 - (dst + 4 - src) % 4) * 1024 + bitsOf e.2 0 10, crossDelay m a b)))

/-- The die as installation leaves it (R277, order 3): tiles bound, channels enabled, nothing executed. -/
def installDie (g : Ingot) (m : Memory) (d : Nat) (x : Die) : Die :=
  let ins := (ingotCrossings g m).filter (fun c => c.2.1 = d)
  let links := g.linkch.filter (fun r => r.rxDie.val = d)
  let tiles := (igTileList m).foldl (fun (t : SMap (Option Nat)) v =>
    let q := ingotPlace g m v
    if q.1 = d then t.set none q.2 (some v) else t) []
  let enables := ins.foldl (fun (t : SMap Bool) c => t.set false c.2.2.1 true) []
  let enables := links.foldl (fun (t : SMap Bool) r => t.set false (0xC00 + r.rxChan.val) true) enables
  let delays := ins.foldl (fun (t : SMap Nat) c => t.set 0 (c.2.2.1 / 1024) c.2.2.2) []
  let delays := links.foldl (fun (t : SMap Nat) r => t.set 0 (0xC00 + r.rxChan.val) r.dl.toNat) delays
  { Die.reset with
    spareMap := x.spareMap, parityTimes := x.parityTimes, tileMap := x.tileMap, badTiles := x.badTiles
    tileFaults := x.tileFaults, tiles := tiles, enables := enables, delays := delays }

/-- The tile positions, maps and tables are written (R277, order 3). -/
def installTiles (s : State) (g : Ingot) (m : Memory) : State :=
  let tiles := placeBytes m (portByteAt g m) (placeBytes m (tileByteAt g m) [])
  { s with
    ingot := some g, tileBytes := tiles
    dies := Vector.ofFn (fun (d : Fin 4) => installDie g m d.val s.dies[d])
    mem := { s.mem with tram := placeBytes m (ramByteAt g m) [] } }

/-- A design window zeroed (R221). -/
def zeroWindow (s : State) (w : Nat) : State := winClear s w 0 (winSize s w)

/-- The design windows zeroed, and HBMINIT written (R221, R222, R277 order 4). -/
def installWindows (s : State) (g : Ingot) (m : Memory) : State :=
  ((igInits m).getD []).foldl (fun t r =>
    let (w, off, len, data) := r
    winStore t (g.windows.getD w w) off len (imageRange m data len)) (g.windows.foldl zeroWindow s)

/-- A byte of the HEDGEROW section by its place in the configuration. -/
def fabricBytes (m : Memory) : Memory :=
  match findSect? m 8 with
  | none => []
  | some x => m.filterMap (fun c => if x.off ≤ c.1 ∧ c.1 < x.off + x.len then some (c.1 - x.off, c.2) else none)

/-- The census of an image on the census registers (R293). -/
def showCensus (s : State) (census : List (Option Nat)) : State :=
  (List.range 64).foldl (fun t l => match census.getD l none with
    | some x => setF (setB t (F.HGR_CENSUS_VALID l) true) (F.HGR_CENSUS_BLOCK l) x
    | none => setF (setB t (F.HGR_CENSUS_VALID l) false) (F.HGR_CENSUS_BLOCK l) 0) s

/-- The census of an Ingot (R293). -/
def ingotCensus (m : Memory) : List (Option Nat) :=
  (List.range 64).map (fun l => (List.range 256).find? (fun x => (igBdrv m x).testBit l))

/-- The registers of HPLL `h` and of its user clocks (R451). -/
def installPll (s : State) (h : Nat) : State :=
  let en := s.hgr.loaded && hpllByte s h 0 != 0
  let pin := en && hpllByte s h 1 != 0
  let mult := hpllByte s h 2 + 256 * hpllByte s h 3
  let (vco, s) := if pin then drawFree s else (100 * mult, s)
  let s := setB (setB (setF s (if h = 0 then F.HGR_PLL_0_VCO_MHZ else F.HGR_PLL_1_VCO_MHZ) (if en then vco else 0))
    (if h = 0 then F.HGR_PLL_0_EN else F.HGR_PLL_1_EN) en) (if h = 0 then F.HGR_PLL_0_REF else F.HGR_PLL_1_REF) pin
  let s := setFBit s F.CLK_PLL_LOCK_LOCK (27 + h) false
  (List.range 4).foldl (fun t j =>
    let div := hpllByte t h (4 + j)
    setF t (F.HGR_UCLK_KHZ (4 * h + j)) (if en && div != 0 then vco * 1000 / div else 0)) (showUclks s h false)

/-- The HEDGEROW frames are written into the fabric, under global set-reset (R277, order 5). -/
def installFabric (s : State) (m : Memory) : State :=
  let s := { s with hgr := { Hgr.reset with
    cfg := fabricBytes m, loaded := (findSect? m 8).isSome, pins := s.hgr.pins, sensed := s.hgr.sensed
    shadowFf := s.hgr.shadowFf, shadowRam := s.hgr.shadowRam, capEdges := s.hgr.capEdges } }
  let rams := initRams s (fun _ => true)
  let s := onHgr s (fun h => { h with ram := rams })
  installPll (installPll (showCensus s (ingotCensus m)) 0) 1

/-- The events of the start-up sequence in order, with their delays; 0 stands for events 2, 3 and 4 at one instant (R280,
R282). -/
def startupEvents (m : Memory) : List (Nat × Nat) :=
  if (igStartup m).1 = 1 then (igStartup m).2 else [(1, 0), (0, 0)]

/-- Nothing of an Ingot stands in the array. -/
def dropIngot (s : State) : State := { s with ingot := none, tileBytes := [] }

/-- The Ingot is installed (R277); the start-up sequence follows.  A design window that cannot be enabled any more ends
the load in EMPTY. -/
def installNow (s : State) (i : LdInstall) : State :=
  let s := releaseWindows (leaveIngot s)
  match enableWindows s i.ingot.memWins with
  | none => endInstall (dropIngot s) i lsWindow
  | some (t, ws) =>
    let g := { i.ingot with windows := ws }
    let s := installFabric (installWindows (installTiles t g i.image) g i.image) i.image
    let s := setF (setF s F.LDR_STATUS_PHASE 4) F.LDR_STATUS_EVENTS 0
    onLdr s (fun h => { h with
      staging := [], install := some { i with ingot := g, waiting := false, events := startupEvents i.image } })

/-! ### The start-up sequence (R280 to R283) -/

/-- Every HPLL that the fabric enables is locked (R281). -/
def hpllsLocked (s : State) : Bool :=
  (List.range 2).all (fun h => !(s.hgr.loaded && hpllByte s h 0 != 0) || pllLocked s (27 + h))

/-- OUTPUTS (R281): banks leave park state, but for those whose supply does not match (R462). -/
def eventOutputs (s : State) : State :=
  let s := setB s F.HGR_STATUS_OUTPUTS true
  showParked ((List.range 8).foldl (fun t n =>
    let t := setF t (F.HGR_BANK_STATUS_VCCIO n) (t.hgr.sensed.get 0 n)
    let bad := bankMismatch t n (t.hgr.sensed.get 0 n)
    setB (if bad then setB t F.HGR_STATUS_VCCIO_MISMATCH true else t) (F.HGR_BANK_STATUS_MISMATCH n) bad) s)

/-- Initial register bits of die `d` (R150). -/
def initialRegs (g : Ingot) (m : Memory) (d : Nat) : SMap Bool :=
  m.foldl (fun t c => match regByteAt g m c.1 with
    | some (e, k) => if e = d then
        (List.range 8).foldl (fun t b => if c.2.toNat.testBit b then SMap.set false t (k + b) true else t) t
      else t
    | none => t) []

/-- INIT (R281): flip-flops leave set-reset; register bits take their initial values. -/
def eventInit (s : State) (i : LdInstall) : State :=
  let ffs := initFfs s (fun _ => true)
  let regs := initIo s (fun _ => true)
  let s := setB (onHgr s (fun h => { h with ff := ffs, ioReg := regs })) F.HGR_STATUS_GSR false
  let t := { s with dies := Vector.ofFn (fun (d : Fin 4) => { s.dies[d] with
    regBits := initialRegs i.ingot i.image d.val, window := [], slots := [] }) }
  { t with dies := Vector.ofFn (fun (d : Fin 4) => { t.dies[d] with copies := [takeCopy t t.dies[d] 0] }) }

/-- One event takes effect. -/
def startupEffect (s : State) (i : LdInstall) : Nat → State
  | 1 => s
  | 2 => eventOutputs s
  | 3 => eventInit s i
  | _ => setB s F.HGR_STATUS_WRITES true

/-- An event has completed (R281). -/
def doEvent (i : LdInstall) (s : State) (e : Nat) : State :=
  setFBit (startupEffect s i e) F.LDR_STATUS_EVENTS (e - 1) true

/-- The owner of a loaded Ingot (R262, R279, R306): the session of a host-path load, while it stands in its generation. -/
def setOwner (s : State) (i : LdInstall) : State :=
  let e := session s i.session.1
  if i.path = 1 ∧ e.state ≠ 0 ∧ e.gen = i.session.2 then
    setF (setF (setB s F.LDR_OWNER_VALID true) F.LDR_OWNER_SESSION i.session.1) F.LDR_OWNER_GEN i.session.2
  else setB s F.LDR_OWNER_VALID false

/-- The last event has completed: the machine enters LOADED (R282). -/
def enterLoaded (s : State) (i : LdInstall) : State :=
  let s := setF (setF s F.ARY_STATE_STATE 1) F.ARY_SCHEDULE_S i.ingot.s
  let s := setOwner (setB s F.SEC_STATUS_SEALED i.ingot.isSealed) i
  endInstall (if i.path = 2 then onLdr s (fun h => { h with spiLoaded := true }) else s) i 0

/-- The next event of the start-up sequence (R282): PLL_LOCK waits for its PLLs. -/
def startupStep (s : State) : State :=
  match s.ldr.install with
  | none => s
  | some i => match i.events with
    | [] => s
    | (e, _) :: es =>
      if i.waiting ∨ (e = 1 ∧ hpllsLocked s = false) then s
      else
        let s := (if e = 0 then [2, 3, 4] else [e]).foldl (doEvent i) s
        if es = [] then enterLoaded s i
        else onLdr s (fun h => { h with install := some { i with events := es } })

/-- STARTUP_EVENT (R280 to R282): the next event of the start-up sequence, once its delay has passed. -/
def execStartupEvent (s : State) : Host.Outcome State Fault Refusal := .next (startupStep s)

/-- PLL_LOCK times out (R283): the machine stays in EMPTY, and the Ingot stays written but is not usable. -/
def pllTimeout (s : State) : State :=
  match s.ldr.install with
  | none => s
  | some i => match i.events with
    | (1, _) :: _ => if i.waiting ∨ hpllsLocked s then s else endInstall (showEmpty s) i lsPllFail
    | _ => s

/-- LS_PLL (R283). -/
def execLsPll (s : State) : Host.Outcome State Fault Refusal := .next (pllTimeout s)

end Sys2Proof.Machine
end

