-- ==== Sys2Proof/Machine/Loader.lean ====
section
/-! DEFINITION. Load streams (R260 to R299): paths, segments and their checks, commands, full loads up to installation, and
the streams of coppice regions. -/

namespace Sys2Proof.Machine

/-! ### Segments (R268 to R270) -/

/-- A segment header is as R268 states (R270, check 1). -/
def headerFits (h : List Byte) : Bool :=
  let len := leAt h 12 4
  let flags := leAt h 7 1
  h.length == 64 && leAt h 0 4 == 0x47534B56 && leAt h 4 2 == 0x0100 && decide (flags < 4) && decide (16 ≤ len) &&
    decide (len ≤ 65536) && len % 16 == 0 && (flags.testBit 0 || len == 65536) && leAt h 24 4 == leAt h 8 4 &&
    leAt h 28 36 == 0

/-- The segment that the bytes of a stream begin with, and the bytes after it: one whose header does not fit is taken with
its header alone. -/
def cutSegment (bs : List Byte) : Option (List Byte × List Byte × List Byte × List Byte) :=
  let h := bs.take 64
  let n := leAt h 12 4
  if bs.length < 64 then none
  else if headerFits h = false then some (h, [], [], [])
  else if bs.length < 80 + n then none
  else some (h, (bs.drop 64).take n, (bs.drop (64 + n)).take 16, bs.drop (80 + n))

/-- Check 2 of R270. -/
def inSequence (x : LdStream) (h : List Byte) : Bool :=
  !x.last && leAt h 8 4 == x.position &&
    (x.position == 0 || (slice h 16 8 == x.nonce && leAt h 6 1 == x.keySel && bitsOf (leAt h 7 1) 1 1 == b2n x.isPartial))

/-! ### Commands (R272) -/

/-- The addresses of a list of frame addresses. -/
def addrList : Nat → List Byte → List Nat
  | 0, _ => []
  | n + 1, bs => leAt bs 0 4 :: addrList n (bs.drop 4)

/-- The command that a plaintext begins with, and its length; none where it is not well formed. -/
def parseCmd (bs : List Byte) : Option (LdCmd × Nat) :=
  let count := leAt bs 2 2
  let addr := leAt bs 4 4
  let arg := leAt bs 8 4
  let body := bs.drop 16
  if bs.length < 16 ∨ leAt bs 1 1 ≠ 0 then none
  else match leAt bs 0 1 with
    | 1 => if body.length < 4096 then none else some (.write addr (body.take 4096), 4112)
    | 2 =>
      let n := pad16 (4 * count)
      if count < 1 ∨ 4092 < count ∨ body.length < n ∨ (slice body (4 * count) (n - 4 * count)).any (· ≠ 0) then none
      else some (.repeatTo (addrList count body), 16 + n)
    | 3 => if arg = 0 then none else some (.zero addr arg, 16)
    | 4 => if body.length < 64 then none else some (.region (arg % 64) (slice body 0 48) (slice body 48 16), 80)
    | 5 => some (.commit, 16)
    | 6 =>
      if arg % 16 ≠ 0 ∨ 65520 < arg ∨ body.length < arg ∨ (body.take arg).any (· ≠ 0) then none
      else some (.pad, 16 + arg)
    | _ => none

/-- The commands of a plaintext, at most `fuel` of them. -/
def parseCmds : Nat → List Byte → Option (List LdCmd)
  | 0, bs => if bs = [] then some [] else none
  | fuel + 1, bs =>
    if bs = [] then some []
    else match parseCmd bs with
      | none => none
      | some (c, n) => (parseCmds fuel (bs.drop n)).map (c :: ·)

/-- A WRITE_FRAME. -/
def LdCmd.isWrite : LdCmd → Bool
  | .write _ _ => true
  | _ => false

/-- A REPEAT_FRAME. -/
def LdCmd.isRepeat : LdCmd → Bool
  | .repeatTo _ => true
  | _ => false

/-- A SET_REGION. -/
def LdCmd.isRegion : LdCmd → Bool
  | .region _ _ _ => true
  | _ => false

/-- Every REPEAT_FRAME of a list comes after a WRITE_FRAME of the stream (R272). -/
def repeatsFollow (had : Bool) : List LdCmd → Bool
  | [] => true
  | c :: cs => (had || !c.isRepeat) && repeatsFollow (had || c.isWrite) cs

/-- Every command of a segment stands where R272 allows. -/
def placesOk (x : LdStream) (cs : List LdCmd) : Bool :=
  repeatsFollow x.frame.isSome cs &&
    (cs.drop 1).all (fun c => !c.isRegion) && (cs.head?.elim false LdCmd.isRegion == (x.isPartial && x.position == 0)) &&
    cs.dropLast.all (· ≠ .commit) && (decide (cs.getLast? = some .commit) == x.last)

/-- The commands of a segment's plaintext, in their places (R270, check 5). -/
def segmentCmds (x : LdStream) (plain : List Byte) : Option (List LdCmd) :=
  match parseCmds (plain.length / 16 + 1) plain with
  | some cs => if placesOk x cs then some cs else none
  | none => none

/-! ### Frames (R273, R274, R291) -/

/-- Frames that a command writes: first address, count, and the data of each. -/
structure FrameWrite where
  addr : Nat
  count : Nat
  data : List Byte
  deriving DecidableEq, Repr

/-- What a command writes, with the last frame before it (R273). -/
def cmdWrites (frame : List Byte) : LdCmd → List FrameWrite
  | .write a d => [⟨a, 1, d⟩]
  | .repeatTo as => as.map (fun a => ⟨a, 1, frame⟩)
  | .zero a n => [⟨a, n, []⟩]
  | _ => []

/-- The last frame after a command (R273). -/
def nextFrame (frame : List Byte) : LdCmd → List Byte
  | .write _ d => d
  | _ => frame

/-- What a list of commands writes, in order. -/
def listWrites (frame : List Byte) : List LdCmd → List FrameWrite
  | [] => []
  | c :: cs => cmdWrites frame c ++ listWrites (nextFrame frame c) cs

/-- The enabled image window (R214, R274): the lowest of owner 4. -/
def imageWindow (s : State) : Option Nat := (List.range 16).find? (fun w => winOwned s w 4)

/-- LDR_STAGE_UNITS: the staging area's size in units of 64 KiB (R274). -/
def stageUnits (s : State) : Nat := match imageWindow s with | some w => getF s (F.HBM_WIN_SIZE_SIZE w) | none => 0

/-- Frames of a tile unit (R291). -/
def unitFrames (s : State) : Nat := 17 * stepsS s / 4 + 147

/-- The region that a stream has named, as the Ingot declares it; an empty one where it declares none. -/
def streamRegion (s : State) (x : LdStream) : RegionDef :=
  ((x.region.bind (regionOf s)).getD ⟨64, [], [], []⟩)

/-- Frames of the unit that a partial-stream address names, where it lies in the region (R291): 0 where it does not. -/
def unitOf (s : State) (r : RegionDef) (addr : Nat) : Nat :=
  let u := bitsOf addr 22 8
  match bitsOf addr 30 2 with
  | 0 => if r.tiles.contains u then unitFrames s else 0
  | 1 => if r.blocks.contains u then 8 else 0
  | _ => 0

/-- Check 6 of R270: the code and address of the first frame outside the stream's target. -/
def outsideTarget (s : State) (x : LdStream) (ws : List FrameWrite) : Option (Nat × Nat) :=
  if x.isPartial then
    let r := streamRegion s x
    ws.findSome? (fun w =>
      let f := bitsOf w.addr 0 22
      let n := unitOf s r w.addr
      if n ≤ f then some (lsOutOfRegion, w.addr)
      else if n < f + w.count then some (lsOutOfRegion, w.addr - f + n)
      else none)
  else
    let limit := stageUnits s * 16
    ws.findSome? (fun w => if limit < w.addr + w.count then some (lsTooLarge, max w.addr limit) else none)

/-- The Tables frame of a tile unit. -/
def tablesFrame (s : State) : Nat := 17 * stepsS s / 4

/-- Check 7 of R270 (R292): the address of the first Tables frame whose crossing table or port binding differs from what is
loaded. -/
def borderChange (s : State) (ws : List FrameWrite) : Option Nat :=
  ws.findSome? (fun w =>
    let f := bitsOf w.addr 0 22
    let t := tablesFrame s
    if bitsOf w.addr 30 2 = 0 ∧ f ≤ t ∧ t < f + w.count then
      match boundPlace s (bitsOf w.addr 22 8) with
      | some (d, p) =>
        if slice w.data 1056 576 ≠ Memory.readBytes zeroFill s.tileBytes (unitBase d p + tablesOffset (stepsS s) + 1056) 576
        then some (w.addr - f + t) else none
      | none => none
    else none)

/-- The census after an accepted frame 0 of block `x` (R294); none where it fails. -/
def censusStep (c : List (Option Nat)) (x bdrv : Nat) : Option (List (Option Nat)) :=
  if (List.range 64).all (fun l => !bdrv.testBit l || c.getD l none == none || c.getD l none == some x) then
    some ((List.range 64).map (fun l =>
      if bdrv.testBit l then some x else if c.getD l none = some x then none else c.getD l none))
  else none

/-- The census as it stands. -/
def censusNow (s : State) : List (Option Nat) := (List.range 64).map (lineDriver s)

/-- A write holds frame 0 of a block unit. -/
def FrameWrite.block? (w : FrameWrite) : Option Nat :=
  if bitsOf w.addr 30 2 = 1 ∧ bitsOf w.addr 0 22 = 0 then some (bitsOf w.addr 22 8) else none

/-- Check 8 of R270 (R294): the census after the frames of a partial stream, or the address of the first that fails. -/
def censusAfter (c : List (Option Nat)) : List FrameWrite → Except Nat (List (Option Nat))
  | [] => .ok c
  | w :: ws => match w.block? with
    | none => censusAfter c ws
    | some x => match censusStep c x (leAt w.data 0 8) with
      | some c' => censusAfter c' ws
      | none => .error w.addr

/-- The address at which check 8 fails, if it does. -/
def censusFails (c : List (Option Nat)) (ws : List FrameWrite) : Option Nat :=
  match censusAfter c ws with
  | .error a => some a
  | .ok _ => none

/-- Checks 6 to 8 of R270, in their order. -/
def frameFailure (s : State) (x : LdStream) (ws : List FrameWrite) : Option (Nat × Nat) :=
  match outsideTarget s x ws with
  | some e => some e
  | none =>
    if x.isPartial then match borderChange s ws with
      | some a => some (lsBorder, a)
      | none => (censusFails (censusNow s) ws).map (fun a => (lsCensus, a))
    else none

/-! ### Frames of a partial stream are written (R292) -/

/-- The data of a frame stored at byte `a` of a memory. -/
def putFrame (m : Memory) (a : Nat) (data : List Byte) : Memory :=
  Memory.writeBytes zeroFill (Memory.clear m a 4096) a (data.take 4096)

/-- A frame stored among the installed tile units. -/
def storeTileBytes (s : State) (a : Nat) (data : List Byte) : State := { s with tileBytes := putFrame s.tileBytes a data }

/-- A frame stored in tile RAM. -/
def storeTram (s : State) (a : Nat) (data : List Byte) : State :=
  { s with mem := { s.mem with tram := putFrame s.mem.tram a data } }

/-- Frame `f` of the tile unit of (d, p) is written (R291, R292). -/
def putTileFrame (s : State) (d p f : Nat) (data : List Byte) : State :=
  let t := tablesFrame s
  if f < t + 17 then storeTileBytes s (unitBase d p + 4096 * f) data
  else if f < t + 19 then
    { s with iso := s.iso.modify none (d * 64 + p) (fun i => i.map (fun x =>
      { x with shadow := putFrame x.shadow (4096 * (f - t - 17)) data })) }
  else storeTram s ((d * 64 + p) * 524288 + 4096 * (f - t - 19)) data

/-- One frame of a partial stream is written. -/
def putUnitFrame (s : State) (addr : Nat) (data : List Byte) : State :=
  let u := bitsOf addr 22 8
  let f := bitsOf addr 0 22
  if bitsOf addr 30 2 = 0 then
    match boundPlace s u with
    | some (d, p) => putTileFrame s d p f data
    | none => s
  else onHgr s (fun h => { h with cfg := putFrame h.cfg (blockFrame u f) data })

/-- What a command of a partial stream writes. -/
def putWrite (s : State) (w : FrameWrite) : State :=
  (List.range w.count).foldl (fun t i => putUnitFrame t (w.addr + i) w.data) s

/-- Frames `a` to `b - 1` are covered by the ranges `cs`, in at most `fuel` of them. -/
def reaches (cs : List (Nat × Nat)) : Nat → Nat → Nat → Bool
  | 0, a, b => decide (b ≤ a)
  | fuel + 1, a, b =>
    if b ≤ a then true
    else match cs.find? (fun c => c.1 ≤ a ∧ a < c.1 + c.2) with
      | none => false
      | some c => reaches cs fuel (c.1 + c.2) b

/-- Every frame from `a` on, `n` of them, is covered. -/
def coversAll (cs : List (Nat × Nat)) (a n : Nat) : Bool := reaches cs (cs.length + 1) a (a + n)

/-- Every frame of every unit of a region is covered (R296). -/
def regionCovered (s : State) (r : RegionDef) (cs : List (Nat × Nat)) : Bool :=
  r.tiles.all (fun v => coversAll cs (v * 2 ^ 22) (unitFrames s)) &&
    r.blocks.all (fun x => coversAll cs (2 ^ 30 + x * 2 ^ 22) 8)

/-- The variant of region `n` as loaded (R297). -/
def setVariant (s : State) (n : Nat) (v : List Byte) : State :=
  { s with ingot := s.ingot.map (fun g => { g with variants := g.variants.set n v }) }

/-- COMMIT of a partial stream (R296). -/
def commitPartial (s : State) (x : LdStream) : State :=
  match x.region with
  | none => endStream s x lsIncomplete noSegment
  | some n =>
    if regionCovered s (streamRegion s x) x.covered then
      endStream (regionBecomesReady (setVariant s n x.variant) n) x 0 noSegment
    else endStream s x lsIncomplete noSegment

/-- One command that waits for the region to stop takes effect. -/
def applyWaiting (s : State) (c : Nat × LdCmd) : State :=
  match c.2 with
  | .commit => match s.ldr.stream with
    | some x => commitPartial s x
    | none => s
  | k => (cmdWrites [] k).foldl putWrite s

/-- The commands of regions that have stopped take effect in order (R289). -/
def loaderTick (s : State) : State :=
  let now := s.ldr.todo.filter (fun c => regionStopped s c.1)
  if now = [] then s
  else now.foldl applyWaiting (onLdr s (fun h => { h with todo := h.todo.filter (fun c => !regionStopped s c.1) }))

/-! ### Full loads (R274, R275, R278) -/

/-- What a command of a full stream writes to the staging area. -/
def stageWrite' (m : Memory) (w : FrameWrite) : Memory :=
  if w.data = [] then Memory.clear m (4096 * w.addr) (4096 * w.count) else putFrame m (4096 * w.addr) w.data

/-- The checks after the machine wait (R275): regions, then the census; the Ingot is installed where both pass. -/
def finishChecks (s : State) (i : LdInstall) : State :=
  if regionsOk i.image = false then endInstall s i lrRegion
  else if censusClash i.image then endInstall s i lsCensus
  else installNow s i

/-- The load request that a full stream has carried. -/
def installOf (s : State) (x : LdStream) : LdInstall :=
  { ingot := decodeIngot s.ldr.staging x.binding, image := s.ldr.staging, desc := x.desc, path := x.path
    session := x.session, waiting := false, events := [] }

/-- COMMIT of a full stream (R275, R278): in a machine, its header and its LINKCH records go to the other positions. -/
def commitFull (s : State) (x : LdStream) : State :=
  let m := s.ldr.staging
  if coversAll x.covered 0 (igExtent m) = false then endStream s x lsIncomplete noSegment
  else if emState s = 2 ∨ emState s = 3 then endStream s x lsState noSegment
  else match ingotReason s m x.binding with
    | some code => endStream s x code noSegment
    | none =>
      let i := installOf s x
      if 1 < igMachineSize m then
        let s := onLdr s (fun h => { h with stream := none, install := some { i with waiting := true } })
        (otherPositions s).foldl sendMgmt (setF s F.LDR_STATUS_PHASE 5)
      else finishChecks (onLdr s (fun h => { h with stream := none, install := some i })) i

/-- The link channel map that LINKCH records give the device at position `p` (R421). -/
def linkMap (g : Ingot) (p : Nat) (rs : List LinkRecord) : SMap Nat :=
  (rs.filter (fun r => r.txPos.toNat = p)).foldl (fun (t : SMap Nat) r =>
    t.set 0 (1024 * (g.pi.getD r.txDie.val 0 % 4) + r.txChan.val)
      (2 ^ 31 + r.rxPos.toNat * 2 ^ 23 + r.rxDie.val * 2 ^ 21 + r.rxChan.val)) []

/-- The machine set agrees (R165 order 13, R278, R421): every position has reported once, with one S, one MACHINE_ID and
one MACHINE_SIZE; every TX_POS is another position of the set; no outbound channel is named twice. -/
def setAgrees (g : Ingot) (hs : List MachineHeader) (rs : List LinkRecord) : Bool :=
  hs.length == g.machineSize && !hasDup (hs.map (fun h => h.position.toNat)) &&
    hs.all (fun h => decide (h.position.toNat < g.machineSize) && h.machineSize == g.machineSize && h.s == g.s &&
      h.machineId.toNat == leNat g.machineId) &&
    rs.all (fun r => decide (r.txPos.toNat < g.machineSize) && r.txPos != r.rxPos) &&
    !hasDup (rs.map (fun r => (r.txPos.toNat * 4 + r.txDie.val) * 1024 + r.txChan.val))

/-- This device's own header, as the machine wait exchanges it. -/
def ownHeader (g : Ingot) : MachineHeader :=
  ⟨BitVec.ofNat 4 g.machinePos, g.s, BitVec.ofNat 128 (leNat g.machineId), g.machineSize⟩

/-- The machine wait ends with what the other positions have sent (R278).  DESIGN CHOICE: the emulation state is not judged
again, though the machine may have left the state in which the load began. -/
def machineWaitEnds (s : State) (headers : List MachineHeader) (links : List LinkRecord) : State :=
  match s.ldr.install with
  | none => s
  | some i =>
    if i.waiting = false then s
    else
      let rs := i.ingot.linkch ++ links
      if machineOk s i.image && setAgrees i.ingot (ownHeader i.ingot :: headers) rs then
        let t := finishChecks s i
        if t.ldr.install.isSome then onLnk t (fun x => { x with map := linkMap i.ingot i.ingot.machinePos rs }) else t
      else endInstall s i lrMachine

/-! ### Commands take effect -/

/-- Commands without REPEAT_FRAME: each address with the last frame's data. -/
def plainCmds (frame : List Byte) : List LdCmd → List LdCmd
  | [] => []
  | .repeatTo as :: cs => as.map (fun a => LdCmd.write a frame) ++ plainCmds frame cs
  | .write a d :: cs => .write a d :: plainCmds d cs
  | .zero a n :: cs => .zero a n :: plainCmds frame cs
  | .commit :: cs => .commit :: plainCmds frame cs
  | _ :: cs => plainCmds frame cs

/-- A region is isolated, or stays so (R289). -/
def isolateAgain (s : State) (n : Nat) : State :=
  if getF s (F.LDR_REGION_STATE n) = 0 then isolateRegion s n
  else
    let s := setRegionRun s n ((regionRun s n).map (fun r => { r with until_ := none }))
    setF { s with iso := s.iso.map (fun e => (e.1, match e.2 with
      | some i => if i.region = n then some { i with until_ := none } else some i
      | none => none)) } (F.LDR_REGION_STATE n) 1

/-- SET_REGION may isolate the region (R289): the machine is not in EMPTY, the region is declared, PARENT is the loaded
Ingot's IDENTITY. -/
def parentOk (s : State) (n : Nat) (parent : List Byte) : Bool :=
  emState s != 0 && (regionOf s n).isSome && (match s.ingot with | some g => parent == g.identity | none => false)

/-- The stream with the region that a command names. -/
def noteRegion (x : LdStream) : List LdCmd → LdStream
  | .region n _ v :: _ => { x with isPartial := true, region := some n, variant := v }
  | _ => x

/-- LDR_STATUS for the open stream. -/
def showStream (s : State) (x : LdStream) : State :=
  setF (setB s F.LDR_STATUS_PARTIAL x.isPartial) F.LDR_STATUS_REGION (x.region.getD 0)

/-- Accepted commands of a partial stream. -/
def actPartial (s : State) (x : LdStream) (cs : List LdCmd) (seg : Nat) : State :=
  let n := x.region.getD 0
  let go := fun (s : State) =>
    let s := match censusAfter (censusNow s) (listWrites (x.frame.getD []) cs) with
      | .ok c => showCensus s c
      | .error _ => s
    let ws := listWrites (x.frame.getD []) cs
    let y := { x with
      covered := (ws.map (fun w => (w.addr, w.count))) ++ x.covered
      frame := cs.foldl (fun f c => match c with | .write _ d => some d | _ => f) x.frame }
    loaderTick (onLdr s (fun h => { h with
      stream := some y, todo := h.todo ++ (plainCmds (x.frame.getD []) cs).map (fun c => (n, c)) }))
  match cs with
  | .region _ parent _ :: _ =>
    if parentOk s n parent then go (isolateAgain s n) else endStream s x lsParent seg
  | _ => go s

/-- Accepted commands of a full stream. -/
def actFull (s : State) (x : LdStream) (cs : List LdCmd) : State :=
  let ws := listWrites (x.frame.getD []) cs
  let y := { x with
    covered := (ws.map (fun w => (w.addr, w.count))) ++ x.covered
    frame := cs.foldl (fun f c => match c with | .write _ d => some d | _ => f) x.frame }
  let s := onLdr s (fun h => { h with stream := some y, staging := ws.foldl stageWrite' h.staging })
  if cs.getLast? = some .commit then commitFull s y else s

/-- Commands of the open stream meet checks 6 to 8 and take effect (R270); `seg` is the segment that holds them, and `pass`
the segments that have passed with it. -/
def takeCmds (s : State) (x : LdStream) (cs : List LdCmd) (seg pass : Nat) : State :=
  let x := noteRegion x cs
  let s := showStream s x
  match frameFailure s x (listWrites (x.frame.getD []) cs) with
  | some (code, a) => setF (endStream s x code seg) F.LDR_FAIL_ADDR_ADDR a
  | none =>
    let s := setF s F.LDR_SEGMENTS_COUNT (getF s F.LDR_SEGMENTS_COUNT + pass)
    if x.isPartial then actPartial s x cs seg else actFull s x cs

/-- A segment received on the open stream (R270). -/
def takeSegment (s : State) (x : LdStream) (h ct tag : List Byte) : State :=
  let seg := x.position
  if headerFits h = false ∨ ct.length ≠ leAt h 12 4 ∨ tag.length ≠ 16 then endStream s x lsSegment seg
  else if inSequence x h = false then endStream s x lsSequence seg
  else
    let flags := leAt h 7 1
    let x := if x.position = 0 then { x with
      nonce := slice h 16 8, keySel := leAt h 6 1, isPartial := flags.testBit 1 } else x
    let x := { x with last := flags.testBit 0 }
    match loadKey s (leAt h 6 1) with
    | none => endStream s x lsKey seg
    | some key => match Config.gcmOpen key (slice h 16 12) h ct tag with
      | none => endStream s x lsAuth seg
      | some plain => match segmentCmds x plain with
        | none => endStream s x lsCommand seg
        | some cs => takeCmds s { x with position := x.position + 1 } cs seg 1

/-- The segments that the bytes of the open stream hold are taken, at most `fuel` of them.  A QSPI stream that goes on
after its last segment fails (R267). -/
def feed : Nat → State → State
  | 0, s => s
  | fuel + 1, s => match s.ldr.stream with
    | none => s
    | some x =>
      if x.last then s
      else match cutSegment x.buffer with
        | none => s
        | some (h, ct, tag, rest) =>
          if x.path = 3 ∧ bitsOf (leAt h 7 1) 0 1 = 1 ∧ rest ≠ [] then endStream s x lsFlash x.position
          else feed fuel (takeSegment s { x with buffer := rest } h ct tag)

/-- Bytes arrive on the open stream. -/
def arriveBytes (s : State) (bs : List Byte) : State :=
  match s.ldr.stream with
  | none => s
  | some x =>
    let y := { x with buffer := x.buffer ++ bs }
    feed (y.buffer.length / 80 + 1) (onLdr s (fun h => { h with stream := some y }))

/-! ### The commands of the loader -/

/-- COUNT, ARG and the bytes of a command are in their ranges (R272). -/
def cmdFits : LdCmd → Bool
  | .write _ d => d.length == 4096
  | .repeatTo as => decide (1 ≤ as.length) && decide (as.length ≤ 4092)
  | .zero _ n => n != 0
  | .region _ _ _ => true
  | .commit => true
  | .pad => true

/-- One command on the open stream, where it may stand (R272). -/
def streamCmd (s : State) (c : LdCmd) : State :=
  match s.ldr.stream with
  | none => s
  | some x =>
    if x.last then s
    else if !cmdFits c || (c.isRepeat && x.frame.isNone) || (c.isRegion && (x.position != 0 || x.frame.isSome || x.region.isSome || x.covered != []))
    then endStream s x lsCommand x.position
    else takeCmds s (if c = .commit then { x with last := true } else x) [c] x.position 0

/-- SEGMENT (R268 to R270): a segment arrives on the open stream. -/
def execSegment (header ciphertext tag : List Byte) (s : State) : Host.Outcome State Fault Refusal :=
  .next (match s.ldr.stream with
    | none => s
    | some x => takeSegment s x header ciphertext tag)

/-- WRITE_FRAME (R272, R273). -/
def execWriteFrame (addr : Word) (data : List Byte) (s : State) : Host.Outcome State Fault Refusal :=
  .next (streamCmd s (.write addr.toNat data))

/-- REPEAT_FRAME (R272, R273). -/
def execRepeatFrame (addrs : List Word) (s : State) : Host.Outcome State Fault Refusal :=
  .next (streamCmd s (.repeatTo (addrs.map BitVec.toNat)))

/-- ZERO_FRAMES (R272). -/
def execZeroFrames (addr count : Word) (s : State) : Host.Outcome State Fault Refusal :=
  .next (streamCmd s (.zero addr.toNat count.toNat))

/-- SET_REGION (R272, R289). -/
def execSetRegion (region : Fin 64) (parent variant : List Byte) (s : State) : Host.Outcome State Fault Refusal :=
  .next (streamCmd s (.region region.val parent variant))

/-- COMMIT (R272, R275, R296). -/
def execCommit (s : State) : Host.Outcome State Fault Refusal := .next (streamCmd s .commit)

/-- PAD (R272): writes nothing; a byte of it that is not 0 is not well formed. -/
def execPad (count : Word) (bytes : List Byte) (s : State) : Host.Outcome State Fault Refusal :=
  .next (match s.ldr.stream with
    | none => s
    | some x =>
      if x.last then s
      else if count.toNat % 16 ≠ 0 ∨ 65520 < count.toNat ∨ bytes.any (· ≠ 0) then endStream s x lsCommand x.position
      else takeCmds s x [.pad] x.position 0)

/-- Free bytes of the stream FIFO, which holds 131,232 (R264). -/
def fifoFree (s : State) : Nat :=
  131232 - (match s.ldr.stream with | some x => if x.path = 2 then x.buffer.length else 0 | none => 0)

/-- The binding block of LDR_BIND (R276). -/
def bindBlock (s : State) : List Byte := (List.range 66).flatMap (fun w => leBytes 4 (getF s (F.LDR_BIND_BYTES w)))

/-- SPI_STREAM (R263, R264): a byte with no stream open offers one; the first byte that finds the FIFO full is discarded, and
ends the stream. -/
def spiBytes (s : State) (bs : List Byte) : State :=
  if bs = [] then s
  else
    let s := match s.ldr.stream with
      | some x => if x.path = 2 then s else offerStream s (freshStream 2 none (0, 0) (bindBlock s))
      | none => offerStream s (freshStream 2 none (0, 0) (bindBlock s))
    match s.ldr.stream with
    | some x =>
      if x.path ≠ 2 then s
      else
        let free := fifoFree s
        let t := arriveBytes s (bs.take free)
        match t.ldr.stream with
        | some y => if free < bs.length ∧ y.path = 2 then endStream t y lsOverflow y.position else t
        | none => t
    | none => s

/-- SPI_STREAM, command 0x10 (R263, R264): the bytes after the command. -/
def execSpiStream (bytes : List Byte) (s : State) : Host.Outcome State Fault Refusal :=
  .next (if leAt bytes 0 1 = 0x10 then spiBytes s (bytes.drop 1) else s)

/-- MACHINE_WAIT_END (R278, R421). -/
def execMachineWaitEnd (headers : List MachineHeader) (links : List LinkRecord) (s : State) :
    Host.Outcome State Fault Refusal := .next (machineWaitEnds s headers links)

/-- The open stream ends before its COMMIT, or in the machine wait (R271). -/
def breakLoad (s : State) (code : Nat) : State :=
  match s.ldr.stream with
  | some x => endStream s x code noSegment
  | none => match s.ldr.install with
    | some i => if i.waiting then endInstall s i code else s
    | none => s

/-- LS_TIMEOUT (R271, R278): no stream byte has come for TIMEOUT_MS, 0 meaning never; the machine wait ends with positions
that have not reported. -/
def loadTimeout (s : State) : State :=
  match s.ldr.stream with
  | some x => if getF s F.LDR_CTRL_TIMEOUT_MS = 0 ∨ x.last then s else endStream s x lsTimeout noSegment
  | none => match s.ldr.install with
    | some i => if i.waiting then endInstall s i lrMachine else s
    | none => s

/-- LS_TIMEOUT (R271). -/
def execLsTimeout (s : State) : Host.Outcome State Fault Refusal := .next (loadTimeout s)

/-- A write to LDR_CTRL (R271, R299). -/
def ldrCtrlWrite (s : State) (v : Nat) : State :=
  let s := plainWrite s 0x3000C v
  if v.testBit 31 then breakLoad s lsCancelled else s

/-- ABORT (R271). -/
def execAbort (value : Word) (s : State) : Host.Outcome State Fault Refusal := .next (ldrCtrlWrite s value.toNat)

/-- A write to LDR_FLASH_CTRL (R267): a QSPI load is offered. -/
def flashCtrlWrite (s : State) (v : Nat) : State :=
  let s := plainWrite s 0x3001C v
  if v.testBit 31 then offerFlash s (bitsOf v 0 1) else s

/-- FLASH_START (R267). -/
def execFlashStart (value : Word) (s : State) : Host.Outcome State Fault Refusal := .next (flashCtrlWrite s value.toNat)

/-- The loader's read of `n` bytes of the serial flash at `a` with the divisor wanted (R265), and its bytes; none where it
fails.  The single-line read has 3-byte addresses and a divisor of 8 at least. -/
def flashBytes (s : State) (f : FlashPart) (div a n : Nat) : State × Option (List Byte) :=
  (emit s (.flashRead (if f.quad then 2 else 1) (if f.quad then div else max 8 div) a n),
   if f.bad.any (fun b => decide (b.1 < a + n) && decide (a < b.1 + b.2)) then none
   else some ((List.range n).map (fun i =>
     Memory.read (fun _ => 0xFF) f.cells (if f.quad then a + i else (a + i) % 2 ^ 24))))

/-- The stream of the open QSPI load has arrived whole; it fails where its bytes end short of its last segment (R267). -/
def flashStream (s : State) (x : LdStream) (bs binding : List Byte) : State :=
  if bs = [] then endStream s x lsFlash x.position
  else
    let t := feed (bs.length / 80 + 1) (onLdr s (fun h => { h with stream := some { x with binding := binding, buffer := bs } }))
    match t.ldr.stream with
    | some z => if z.path = 3 ∧ z.last = false ∧ (z.buffer ≠ [] ∨ 0 < z.position) then endStream t z lsFlash z.position else t
    | none => t

/-- Bytes of a binding block (R276). -/
abbrev bindingBytes : Nat := 264

/-- The entry of the image directory is followed (R266): its stream, with its binding block. -/
def flashEntry (s : State) (x : LdStream) (f : FlashPart) (e : List Byte) : State :=
  if leAt e 0 4 ≠ 0x44494B56 then endStream s x lsFlash x.position
  else
    let div := max 2 (leAt e 16 1)
    let (s, binding) := if leAt e 12 4 = 0 then (s, some []) else flashBytes s f div (leAt e 12 4) bindingBytes
    let (s, stream) := flashBytes s f div (leAt e 4 4) (leAt e 8 4)
    match binding, stream with
    | some b, some bs => flashStream s x bs b
    | _, _ => endStream s x lsFlash x.position

/-- The open QSPI load reads the flash (R265, R266): its parameters at a divisor of 8, and the directory entry. -/
def flashLoad (s : State) (f : FlashPart) : State :=
  match s.ldr.stream with
  | none => s
  | some x =>
    if x.path ≠ 3 then s
    else
      let (s, e) := flashBytes (emit s (.flashRead 0 8 0 256)) f 8 (0x1000 + 32 * getF s F.LDR_BOOT_ENTRY) 32
      match e with
      | some e => flashEntry s x f e
      | none => endStream s x lsFlash x.position

/-- QSPI_SELF_LOAD (R261, R265 to R267). -/
def execQspiSelfLoad (flash : FlashChip) (bad : List (Nat × Nat)) (s : State) : Host.Outcome State Fault Refusal :=
  .next (flashLoad s ⟨flash.cells, bad, flash.quad⟩)

/-- A write to LDR_OWNER (R279). -/
def ownerWrite (s : State) (v : Nat) : State :=
  if v.testBit 31 then (if getB s F.LDR_OWNER_VALID then s else plainWrite s 0x30014 v)
  else if getB s F.LDR_OWNER_VALID then endRunControl (plainWrite s 0x30014 v) stWrongOwner
  else plainWrite s 0x30014 v

/-- LDR_OWNER_WRITE (R279). -/
def execLdrOwnerWrite (value : Word) (s : State) : Host.Outcome State Fault Refusal := .next (ownerWrite s value.toNat)

/-- REGION_REJOIN (R296): a region that is ready rejoins: at once in a machine at rest, otherwise as dies that stand at B0
of its cycle take that step. -/
def rejoinNow (s : State) (n : Nat) : State :=
  if getF s (F.LDR_REGION_STATE n) ≠ 2 then s
  else if executing s then
    dieList.foldl (fun t d =>
      if (regionsDue t t.dies[d].cycle).contains n && inBoundary t d && stepOf t t.dies[d].sigma == stepsS t then
        boundaryStep t d
      else t) s
  else rejoinAtRest s n

/-- REGION_REJOIN (R296). -/
def execRegionRejoin (region : Fin 64) (s : State) : Host.Outcome State Fault Refusal := .next (rejoinNow s region.val)

/-! ### The IMAGE descriptor (R315, R316) -/

/-- The loader has taken the bytes of the IMAGE descriptor: it completes OK unless it has carried COMMIT or ended the
stream (R316). -/
def imageTaken (s : State) (d : Desc) : State :=
  match s.ldr.stream with
  | some x =>
    if x.path = 1 ∧ x.desc = some d ∧ x.last = false then
      complete (onLdr s (fun h => { h with stream := some { x with desc := none } })) d stOK 0
    else s
  | none => s

/-- The bytes of an IMAGE descriptor go to the stream of its session (R316). -/
def imageBytes (s : State) (d : Desc) (bytes : Option (List Byte)) : State :=
  match s.ldr.stream, bytes with
  | some x, some bs =>
    imageTaken (arriveBytes (onLdr s (fun h => { h with stream := some { x with desc := some d } })) bs) d
  | some x, none => complete (onLdr s (fun h => { h with stream := some { x with desc := none } })) d stHostFault 0
  | none, _ => s

/-- The open stream is the one that the session of a descriptor carries, short of its COMMIT. -/
def carries (s : State) (d : Desc) : Bool :=
  match s.ldr.stream with
  | some x => x.path == 1 && x.session == (d.session.val, d.sgen.toNat) && !x.last
  | none => false

/-- IMAGE, once it is started (R315, R316); a binding block that the device cannot read opens no stream (R319). -/
def imageDesc (s : State) (d : Desc) (start : Bool) (bytes binding : Option (List Byte)) : State :=
  if start then
    if getB s F.LDR_OWNER_VALID && !isOwner s d then complete s d stWrongOwner 0
    else match binding with
      | none => complete s d stHostFault 0
      | some b =>
        if loaderOpen s || !pathAccepted s 1 then offerStream s (freshStream 1 (some d) (d.session.val, d.sgen.toNat) b)
        else imageBytes (offerStream s (freshStream 1 (some d) (d.session.val, d.sgen.toNat) b)) d bytes
  else if carries s d then imageBytes s d bytes
  else complete s d stCancelled 0

/-- IMAGE (R262, R315, R316). -/
def execImage (desc : Desc) (start : Bool) (bytes binding : Option (List Byte)) (s : State) :
    Host.Outcome State Fault Refusal :=
  .next (startDesc desc (.image desc start bytes binding) (ungrouped desc (fun s => imageDesc s desc start bytes binding)) s)

/-- The stream of a lost session ends (R271). -/
def sessionLost (s : State) (i gen : Nat) : State :=
  match s.ldr.stream with
  | some x => if x.path = 1 ∧ x.session = (i, gen) then endStream s x lsPathLost noSegment else s
  | none => match s.ldr.install with
    | some y => if y.waiting ∧ y.path = 1 ∧ y.session = (i, gen) then endInstall s y lsPathLost else s
    | none => s

/-- The loader's part of a host reset (R271, R328, R329). -/
def loaderHostReset (s : State) : State :=
  match s.ldr.stream with
  | some x => if x.path = 1 then endStream s x lsPathLost noSegment else s
  | none => match s.ldr.install with
    | some y => if y.waiting ∧ y.path = 1 then endInstall s y lsPathLost else s
    | none => s

end Sys2Proof.Machine
end

