-- ==== Sys2Proof/Machine/Host.lean ====
section
/-! DEFINITION. The host interface (R304 to R331): sessions, the doorbell sweep and interrupts. -/

namespace Sys2Proof.Machine

/-! ### The session table (R304 to R306) -/

/-- The session that HST_SESS_INDEX names. -/
def indexed (s : State) : Nat := getF s F.HST_SESS_INDEX_SESSION

/-- A write to HST_SESS_INDEX loads the indexed session's entry (R304). -/
def sessIndexWrite (s : State) (v : Nat) : State :=
  let s := plainWrite s 0x50040 v
  let e := session s (indexed s)
  let s := set64 (set64 (set64 s F.HST_SESS_SQ_LO_ADDR F.HST_SESS_SQ_HI_ADDR e.sq) F.HST_SESS_CQ_LO_ADDR
    F.HST_SESS_CQ_HI_ADDR e.cq) F.HST_SESS_DB_LO_ADDR F.HST_SESS_DB_HI_ADDR e.db
  let s := setF (setF s F.HST_SESS_CFG_SQ_LOG2 e.sqLog) F.HST_SESS_CFG_CQ_LOG2 e.cqLog
  setF (setF (setF s F.HST_SESS_CFG_VECTOR e.vector) F.HST_SESS_CFG_COAL_COUNT e.coalCount)
    F.HST_SESS_COAL_COAL_TIME e.coalTime

/-- SESS_INDEX_WRITE (R304). -/
def execSessIndexWrite (value : Word) (s : State) : Host.Outcome State Fault Refusal := .next (sessIndexWrite s value.toNat)

/-- A session's entry with the staging copy taken into it and its counts at 0 (R304). -/
def takeStaging (s : State) (e : Session) : Session :=
  { e with
    state := 1
    sq := get64 s F.HST_SESS_SQ_LO_ADDR F.HST_SESS_SQ_HI_ADDR
    cq := get64 s F.HST_SESS_CQ_LO_ADDR F.HST_SESS_CQ_HI_ADDR
    db := get64 s F.HST_SESS_DB_LO_ADDR F.HST_SESS_DB_HI_ADDR
    sqLog := getF s F.HST_SESS_CFG_SQ_LOG2, cqLog := getF s F.HST_SESS_CFG_CQ_LOG2
    vector := getF s F.HST_SESS_CFG_VECTOR, coalCount := getF s F.HST_SESS_CFG_COAL_COUNT
    coalTime := getF s F.HST_SESS_COAL_COAL_TIME
    fetched := 0, posted := 0, cqSeen := 0, unsignalled := 0, oldest := 0, error := 0, held := [], group := []
    badGroup := false, stopped := false }

/-- The staged configuration passes R305. -/
def configOk (e : Session) : Bool :=
  decide (4 ≤ e.sqLog) && decide (e.sqLog ≤ 16) && decide (4 ≤ e.cqLog) && decide (e.cqLog ≤ 16) && e.sq % 64 == 0 &&
    e.cq % 64 == 0 && e.db % 16 == 0 && decide (e.vector ≤ 2047)

/-- The device still holds an item of the session's current generation (R305). -/
def itemsHeld (s : State) (i : Nat) : Bool :=
  let g := (session s i).gen
  liveCount s i g != 0 || s.chn.ctxs.any (fun c => c.2.state != 0 && c.2.session == i && c.2.sessionGen == g)

/-- HST_STATUS.SUSPENDED as it stands (R331). -/
def showSuspended (s : State) : State := setB s F.HST_STATUS_SUSPENDED (s.host.sessions.any (fun e => e.2.state = 2))

/-- A command that is refused (R304). -/
def rejectCmd (s : State) : State := setSession s (indexed s) { session s (indexed s) with reject := true }

/-- OPEN (R304, R305). -/
def openSession (s : State) : State :=
  let i := indexed s
  let e := takeStaging s (session s i)
  if (session s i).state = 0 ∧ configOk e ∧ itemsHeld s i = false then setSession s i e else rejectCmd s

/-- Descriptors of a closed session that are fetched and not started, or that a fence holds back, are dropped, and their
completions with them (R308). -/
def dropFenced (s : State) (i gen : Nat) : State :=
  let n := (s.host.fenced.filter (fun f => f.1 = i)).length + (s.host.fetched.filter (Fetched.of i)).length
  let s := { s with host := { s.host with
    fenced := s.host.fenced.filter (fun f => f.1 ≠ i), fetched := s.host.fetched.filter (fun f => !f.of i) } }
  bumpF (bumpLive s i gen (· - n)) F.HST_STALE_CPL_COMPLETIONS n

/-- CLOSE (R304, R306, R308, R330, R357). -/
def closeSession (s : State) : State :=
  let i := indexed s
  let e := session s i
  if e.state = 0 then rejectCmd s
  else
    let owner := getB s F.LDR_OWNER_VALID && getF s F.LDR_OWNER_SESSION == i && getF s F.LDR_OWNER_GEN == e.gen
    let s := setSession s i { e with state := 0, gen := (e.gen + 1) % 16, held := [], group := [], badGroup := false }
    let s := bumpF s F.HST_STALE_CPL_COMPLETIONS e.held.length
    let s := dropFenced (completeAll s e.group stCancelled 0) i e.gen
    let s := closeChans s (fun c => c.session = i && c.sessionGen = e.gen)
    let s := sessionLost s i e.gen
    showSuspended (if owner then ownerWrite s (getF s F.LDR_OWNER_GEN * 4096 + i) else s)

/-- ATTACH (R304, R305, R330): held completions are posted first. -/
def attachSession (s : State) : State :=
  let i := indexed s
  let e := takeStaging s (session s i)
  if (session s i).state = 2 ∧ configOk e then
    let hs := (session s i).held
    showSuspended (hs.foldl (fun t h => postCompletion t i h.irq h.tag.toNat h.status h.result) (setSession s i e))
  else rejectCmd s

/-- A write to HST_SESS_CMD (R304). -/
def sessCmdWrite (s : State) (v : Nat) : State :=
  match v % 4 with
  | 1 => openSession s
  | 2 => closeSession s
  | 3 => attachSession s
  | _ => s

/-- OPEN (R304). -/
def execSessOpen (s : State) : Host.Outcome State Fault Refusal := .next (sessCmdWrite s 1)

/-- CLOSE (R304, R306). -/
def execSessClose (s : State) : Host.Outcome State Fault Refusal := .next (sessCmdWrite s 2)

/-- ATTACH (R330). -/
def execSessAttach (s : State) : Host.Outcome State Fault Refusal := .next (sessCmdWrite s 3)

/-- HST_SESS_STATE as a read returns it: of the indexed session (R304, R331). -/
def sessStateRead (s : State) : Nat :=
  let e := session s (indexed s)
  b2n e.reject * 2 ^ 12 + e.error % 16 * 2 ^ 8 + e.gen % 16 * 2 ^ 4 + e.state % 4

/-- A write to HST_SESS_STATE: its W1C fields (R331). -/
def sessStateWrite (s : State) (v : Nat) : State :=
  let i := indexed s
  let e := session s i
  setSession s i { e with reject := e.reject && !v.testBit 12, error := e.error - (e.error &&& bitsOf v 8 4) }

/-! ### The doorbell sweep (R307, R309, R321 to R326) -/

/-- The device's read of `n` bytes of host memory at `a`; none where it fails (R319, R326). -/
def hostBytes (m : HostMem) (a n : Nat) : Option (List Byte) :=
  if m.bad.any (fun b => decide (b.1 < a + n) && decide (a < b.1 + b.2)) then none
  else some (Memory.readBytes zeroFill m.cells a n)

/-- A write of `n` bytes to host memory at `a` succeeds (R319). -/
def hostTakes (m : HostMem) (a n : Nat) : Bool := !m.bad.any (fun b => decide (b.1 < a + n) && decide (a < b.1 + b.2))

/-- The header of descriptor bytes read for session `i` (R310). -/
def headerOf (i : Fin 4096) (b : List Byte) : Desc :=
  let f := leAt b 1 1
  ⟨i, BitVec.ofNat 4 (leAt b 4 1), BitVec.ofNat 16 (leAt b 2 2), f.testBit 0, f.testBit 1, f.testBit 2⟩

/-- The CHANNEL word of descriptor bytes (R310). -/
def chanRefOf (b : List Byte) : ChanRef := ⟨Fin.ofNat 262144 (leAt b 8 4 % 2 ^ 18), BitVec.ofNat 6 (leAt b 8 4 / 2 ^ 18)⟩

/-- The 8 bytes from byte `o` of a descriptor on. -/
def descDWord (b : List Byte) (o : Nat) : DWord := BitVec.ofNat 64 (leAt b o 8)

/-- A SNAPSHOT descriptor (R399). -/
def snapshotOf (d : Desc) (b : List Byte) (m : HostMem) : Instr :=
  let f := BitVec.ofNat 8 (leAt b 16 1)
  let w := Fin.ofNat 16 (leAt b 24 1)
  if f = 1 then
    .fetch d f (BitVec.ofNat 8 (leAt b 17 1)) w (descDWord b 32) (descDWord b 40) (descDWord b 48) (hostTakes m (leAt b 40 8) (leAt b 48 8))
  else .capture d f ((leAt b 17 1).testBit 0) w (descDWord b 32)

/-- A MSG_SEND descriptor with its payload (R351, R354). -/
def msgSendOf (d : Desc) (r : ChanRef) (b : List Byte) (m : HostMem) : Instr :=
  let n := (leAt b 24 2 + 7) / 8
  let inl := (leAt b 26 1).testBit 0
  .msgSend d r (descDWord b 16) (BitVec.ofNat 16 (leAt b 24 2)) inl
    (if inl then slice b 32 (min n 32) else (hostBytes m (leAt b 16 8) n).getD [])

/-- The command that the 64 bytes of a descriptor spell, with what the device reads of host memory for it (R309 to R311, R351);
a reserved OPCODE spells none. -/
def descCommand (d : Desc) (b : List Byte) (m : HostMem) : Option Instr :=
  let r := chanRefOf b
  let w := descDWord b
  match leAt b 0 1 with
  | 0x00 => some (.descriptorNop d)
  | 0x01 => some (.run d (w 16) ((leAt b 24 1).testBit 0))
  | 0x02 => some (if (leAt b 16 1).testBit 0 then .stopAtCommitted d else .stopNext d)
  | 0x03 => some (snapshotOf d b m)
  | 0x04 => some (.hallmark d (BitVec.ofNat 8 (leAt b 16 1)) ⟨w 24, hostTakes m (leAt b 24 8) (leAt b 32 8)⟩ (w 32))
  | 0x05 => some (.restore d (BitVec.ofNat 8 (leAt b 16 1)) (w 24) (w 32)
      (if leAt b 16 1 = 2 then hostBytes m (leAt b 24 8) (min (leAt b 32 8) (2 ^ 37)) else some []))
  | 0x06 => some (.continueAfterFaultClear d)
  | 0x10 =>
    let start := (leAt b 28 1).testBit 0
    some (.image d start (hostBytes m (leAt b 16 8) (leAt b 24 4))
      (if start && leAt b 32 8 != 0 then hostBytes m (leAt b 32 8) bindingBytes else some []))
  | 0x20 => some (.designRead d (w 16) (w 24) (w 32))
  | 0x21 => some (.designWrite d (w 16) (w 24) (w 32) (hostBytes m (leAt b 32 8) (min (leAt b 24 8) (2 ^ 28))))
  | 0x30 => some (.chOpen d r (BitVec.ofNat 8 (leAt b 16 1)) (BitVec.ofNat 8 (leAt b 17 1 % 8)) (BitVec.ofNat 16 (leAt b 18 2))
      (BitVec.ofNat 32 (leAt b 20 4)) (w 24) (BitVec.ofNat 8 (leAt b 32 1)) (BitVec.ofNat 8 (leAt b 33 1)))
  | 0x31 => some (.chClose d r)
  | 0x32 => some (msgSendOf d r b m)
  | 0x33 => some (.msgRecv d r (w 16) (BitVec.ofNat 32 (leAt b 24 4)))
  | 0x34 => some (.streamPost d r (w 16) (BitVec.ofNat 32 (leAt b 24 4)))
  | 0x35 =>
    let c := leAt b 16 1
    some (if c.testBit 0 then .flush d ⟨r, c.testBit 1⟩ else .clearOverrun d ⟨r, c.testBit 1⟩)
  | 0x36 => some (.chQuery d r (w 16) (hostTakes m (leAt b 16 8) 64))
  | _ => none

/-- A descriptor as the device fetches it for session `i`. -/
def fetchedOf (i : Nat) (b : List Byte) (m : HostMem) : Fetched :=
  let d := headerOf (Fin.ofNat 4096 i) b
  match descCommand d b m with
  | some c => .cmd c
  | none => .reserved d

/-- Host address of descriptor number `n` of a session (R309). -/
def descSlot (e : Session) (n : Nat) : Nat := e.sq + 64 * (n % 2 ^ e.sqLog)

/-- A session ring error (R326): its cause is shown, and fetching stops. -/
def ringError (s : State) (i cause : Nat) : State :=
  setSession s i { session s i with error := cause, stopped := true }

/-- The completion ring has room for one more completion (R321). -/
def cqRoom (s : State) (i : Nat) : Bool :=
  let e := session s i
  decide (e.posted - e.cqSeen + liveCount s i e.gen < 2 ^ e.cqLog)

/-- A descriptor is fetched: it counts as held until it completes, and it starts in its turn (R312, R321). -/
def fetchOne (s : State) (i : Nat) (f : Fetched) : State :=
  let e := session s i
  let s := bumpLive (setSession s i { e with fetched := e.fetched + 1 }) i e.gen (· + 1)
  { s with host := { s.host with fetched := s.host.fetched ++ [f] } }

/-- The descriptors now available are fetched, `n` of them at most (R307, R309, R321): one with a stale generation is
consumed and takes no room; a read that fails is a session ring error (R326). -/
def fetchRing (i : Nat) (m : HostMem) : Nat → State → State
  | 0, s => s
  | n + 1, s =>
    let e := session s i
    match hostBytes m (descSlot e e.fetched) 64 with
    | none => ringError s i 3
    | some b =>
      if leAt b 4 1 % 16 ≠ e.gen then
        fetchRing i m n (bumpF (setSession s i { e with fetched := e.fetched + 1 }) F.HST_STALE_DESCRIPTORS 1)
      else if cqRoom s i then fetchRing i m n (fetchOne s i (fetchedOf i b m))
      else s

/-- The fetch word of a session (R322). -/
def fetchWord (e : Session) : Nat := e.gen * 2 ^ 60 + e.cqSeen % 2 ^ 28 * 2 ^ 28 + e.fetched % 2 ^ 28

/-- Counts of 28 bits: how far `a` is past `b`. -/
def past28 (a b : Nat) : Nat := (a + 2 ^ 28 - b % 2 ^ 28) % 2 ^ 28

/-- The doorbell of a flagged session is read (R322 to R324, R326): its word lies in bytes 0 to 7 of the session's slot, the
fetch word in bytes 8 to 15. -/
def doorbell (m : HostMem) (s : State) (i : Nat) : State :=
  let e := session s i
  if e.state ≠ 1 ∨ e.stopped then s
  else match hostBytes m e.db 8 with
    | none => ringError s i 3
    | some b =>
      let w := leNat b
      let n := past28 (bitsOf w 0 28) e.fetched
      let c := past28 (bitsOf w 28 28) e.cqSeen
      if bitsOf w 60 4 ≠ e.gen then bumpF s F.HST_STALE_DOORBELLS 1
      else if 2 ^ e.sqLog < n then ringError s i 1
      else if e.posted - e.cqSeen < c then ringError s i 2
      else if n = 0 ∧ c = 0 then s
      else
        let s := fetchRing i m n (setSession s i { e with cqSeen := e.cqSeen + c })
        emit s (.fetchWord i (e.db + 8) (fetchWord (session s i)))

/-- The host address of the summary bitmap (R324). -/
def summaryAddr (s : State) : Nat := getF s F.HST_SUMMARY_HI_ADDR * 2 ^ 32 + getF s F.HST_SUMMARY_LO_ADDR * 64

/-- The sessions that a summary bitmap flags (R324): session `i` is bit `i mod 64` of little-endian word `i / 64`, which is
bit `i mod 8` of byte `i / 8`. -/
def flagged (bs : List Byte) : List Nat :=
  (List.range 4096).filter (fun i => (leAt bs (i / 8) 1).testBit (i % 8))

/-- A sweep starts (R324): the next falls due DB_SWEEP later. -/
def startSweep (s : State) : State :=
  { s with host := { s.host with
    sweeps := s.host.sweeps + 1, sweepDue := timeNs s + 10 * clamp 10 6400 (getF s F.HST_SWEEP_DB_SWEEP), sweepWaits := false } }

/-- A sweep ends; the one that waited for it starts (R324). -/
def endSweep (s : State) : State :=
  let s := { s with host := { s.host with sweeps := s.host.sweeps - 1 } }
  if s.host.sweepWaits then startSweep s else s

/-- DOORBELL_SWEEP (R324): the bitmap, the doorbells of the sessions that it flags, and what their submission rings hold. -/
def execDoorbellSweep (cells : List (Nat × Byte)) (bad : List (Nat × Nat)) (lost : List (Fin 4096)) (s : State) :
    Host.Outcome State Fault Refusal :=
  let host : HostMem := ⟨cells, bad⟩
  .next (
    if getB s F.HST_CTRL_FETCH_EN && s.host.busMaster then
      let s := lost.foldl (fun t i => if (session t i).state = 1 then ringError t i 4 else t) (endSweep s)
      match hostBytes host (summaryAddr s) 512 with
      | some bs => (flagged bs).foldl (doorbell host) s
      | none => s
    else endSweep s)

/-- COALESCE_TIMEOUT (R327): the oldest completion not yet signalled is COAL_TIME x 100 ns old. -/
def execCoalesceTimeout (i : Fin 4096) (s : State) : Host.Outcome State Fault Refusal :=
  let e := session s i
  .next (if e.state = 1 ∧ e.coalTime ≠ 0 ∧ e.unsignalled ≠ 0 ∧ e.oldest + 100 * e.coalTime ≤ timeNs s
    then signalSession s i else s)

/-! ### The MSI-X table (R301, R327) -/

/-- A 32-bit word of the MSI-X table or of the pending-bit array. -/
def msixRead (s : State) (a : Nat) : Nat :=
  if a < 0x5C000 then
    let w := (a - 0x54000) / 4
    (s.host.msix.get none w).getD (if w % 4 = 3 then 1 else 0)
  else if a < 0x5C100 then
    (List.range 32).foldl (fun v b => v + b2n (s.host.pba.get false ((a - 0x5C000) * 8 + b)) * 2 ^ b) 0
  else 0

/-- A 32-bit write to the MSI-X table: a pending vector whose mask is taken off sends its message (R327).  The pending-bit
array is read-only. -/
def msixWrite (s : State) (a v : Nat) : State :=
  if a < 0x5C000 then
    let w := (a - 0x54000) / 4
    let s := { s with host := { s.host with msix := s.host.msix.set none w (some v) } }
    let n := w / 4
    if w % 4 = 3 ∧ v.testBit 0 = false ∧ s.host.pba.get false n then
      emit { s with host := { s.host with pba := s.host.pba.set false n false } } (.msix n)
    else s
  else s

end Sys2Proof.Machine
end

