-- ==== Sys2Proof/Machine/Resets.lean ====
section
/-! DEFINITION. Resets and start-up (R577 to R592): what each class of reset keeps, and the phases from release to
service. -/

namespace Sys2Proof.Machine

/-! ### What a reset keeps (R580) -/

/-- Registers that RST_N keeps, by block and offset (R492, R576, R591, and the HBM block's rule). -/
def warmKept (b a : Nat) : Bool :=
  match b with
  | 2 => a == 0x40 || a == 0x48
  | 4 => a == 0x80
  | 8 => a == 0x3C || (decide (0x50 ≤ a) && decide (a ≤ 0x64)) || (decide (0x98 ≤ a) && decide (a ≤ 0xB4))
  | 9 => decide (0x60 ≤ a) && decide (a < 0x70)
  | _ => false

/-- The register fields whose block and offset `keep` holds of. -/
def keptRegs (s : State) (keep : Nat → Nat → Bool) : SMap Nat :=
  s.regs.filter (fun e => keep (e.1 / 32 / 0x10000 % 16) (e.1 / 32 % 0x10000))

/-- The state right after POR_N (R577, R580): the VBAT domain and the fuses stay. -/
def coldReset (s : State) (bootSel : Nat) : State :=
  let s := breakBurn s
  let r := State.reset
  setF { r with
    chip := s.chip
    regs := keptRegs s (fun b a => b == 4 && a == 0x80)
    sec := { Sec.reset with fuses := s.sec.fuses, bbk := s.sec.bbk }
    hgr := { r.hgr with pins := s.hgr.pins, sensed := s.hgr.sensed }
    clk := { r.clk with lost := s.clk.lost }
    boot := { r.boot with perst := s.boot.perst }
    outs := s.outs, draws := s.draws, pending := s.pending } F.LDR_BOOT_BOOT_SEL bootSel

/-- POR_N (R577). -/
def execPorN (bootSel : BitVec 2) (s : State) : Host.Outcome State Fault Refusal := .next (coldReset s bootSel.toNat)

/-- A die after RST_N (R481, R580): nothing but its tile map and its spares. -/
def warmDie (x : Die) : Die :=
  { Die.reset with spareMap := x.spareMap, tileMap := x.tileMap, badTiles := x.badTiles }

/-- Stacks whose contents outlast RST_N (R233, R579): those that are READY, and those in self-refresh. -/
def keptStacks (s : State) : Nat := getF s F.HBM_STATUS_READY ||| getF s F.HBM_STATUS_SELF_REFRESH

/-- The state right after RST_N or the warm reset of RST_CTRL, of cause `cause` (R577 to R580, R591). -/
def warmState (s : State) (cause bootSel : Nat) : State :=
  let s := breakBurn s
  let kept := keptStacks s
  let r := State.reset
  let early := s.boot.cold && decide (getF s F.RST_STATUS_PHASE ≤ 1)
  let table := some (windowTable s)
  let t := { r with
    chip := s.chip
    regs := keptRegs s warmKept
    dies := s.dies.map warmDie
    mem := { r.mem with hbm := s.mem.hbm.filter (fun c => kept.testBit (c.1 / 2 ^ 35)) }
    hbm := { r.hbm with
      table0 := if stackReady s 0 then table else s.hbm.table0
      table32 := if stackReady s 32 then table else s.hbm.table32
      marks := s.hbm.marks.filter (fun c => kept.testBit (c.1 / 2 ^ 32)) }
    sec := { Sec.reset with fuses := s.sec.fuses, shadow := s.sec.shadow, bbk := s.sec.bbk }
    hgr := { r.hgr with pins := s.hgr.pins, sensed := s.hgr.sensed }
    clk := { r.clk with lost := s.clk.lost }
    boot := { r.boot with perst := s.boot.perst, cold := early }
    outs := s.outs, draws := s.draws, pending := s.pending }
  let t := setB (setB t F.FLT_HM_SLOT_A_WRITING false) F.FLT_HM_SLOT_B_WRITING false
  let t := setF (setF t F.RST_STATUS_CAUSE cause) F.RST_STATUS_HBM_KEPT (b2n (getF s F.HBM_STATUS_READY == 15))
  bumpF (setF (setF t F.HBM_STATUS_SELF_REFRESH kept) F.LDR_BOOT_BOOT_SEL bootSel) F.RST_COUNT_WARM 1

/-- RST_N is asserted: POR_N, while it is still low, overrides it (R579). -/
def warmReset (s : State) (cause bootSel : Nat) : State :=
  if s.boot.cold && getF s F.RST_STATUS_PHASE == 0 then s else warmState s cause bootSel

/-- RST_N (R577). -/
def execRstN (bootSel : BitVec 2) (s : State) : Host.Outcome State Fault Refusal := .next (warmReset s 2 bootSel.toNat)

/-- A write to RST_CTRL (R592): WARM with KEY 0x5257. -/
def rstCtrlWrite (s : State) (v bootSel : Nat) : State :=
  if v.testBit 31 ∧ v % 65536 = 0x5257 then warmReset s 3 bootSel else s

/-- WARM (R592). -/
def execWarm (value : Word) (bootSel : BitVec 2) (s : State) : Host.Outcome State Fault Refusal :=
  .next (rstCtrlWrite s value.toNat bootSel.toNat)

/-! ### Host reset (R328, R329) -/

/-- A session at a host reset: OPEN becomes SUSPENDED; a group fetched in part has no effect (R329). -/
def suspendSession (s : State) (i : Nat) : State :=
  let e := session s i
  if e.state = 1 then
    let s := setSession s i { e with state := 2, group := [], badGroup := false }
    completeAll s e.group stHostReset 0
  else s

/-- Reads of design state whose data has not gone to the host end (R329); those of other devices go on. -/
def endReads (s : State) : State :=
  let mine := fun (r : DesignReq) => r.origin.isNone
  let vs := match s.design.view with | some v => v.reads | none => []
  let rs := (vs ++ s.design.waiting.flatten).filter mine
  let s := onDesign s (fun d => { d with
    view := d.view.map (fun v => { v with reads := v.reads.filter (fun r => !mine r) })
    waiting := (d.waiting.map (fun g => g.filter (fun r => !mine r))).filter (· ≠ []) })
  closeView (completeAll s rs stHostReset 0)

/-- A fetched descriptor that a host reset ends (R329, R367): one that would still read or write host memory. -/
def endsAtReset (f : Fetched) : Bool :=
  match f with
  | .reserved _ => false
  | .cmd i => match i with
    | .designRead _ _ _ _ | .designWrite _ _ _ _ _ | .fetch _ _ _ _ _ _ _ _ | .image _ _ _ _ | .msgSend _ _ _ _ _ _
    | .msgRecv _ _ _ _ | .streamPost _ _ _ _ => true
    | .restore _ source _ _ _ => source == 2
    | .hallmark _ dest _ _ => dest == 2
    | _ => false

/-- A descriptor that has been fetched and not started ends with HOST_RESET (R329). -/
def endFetched (s : State) (f : Fetched) : State :=
  match f.desc with
  | some d => complete (bumpStarted s d.session d.sgen.toNat (· + 1)) d stHostReset 0
  | none => s

/-- Fetched descriptors that have not been accepted, and that a host reset ends (R329): those that wait to start, that FENCE
holds back, or that wait behind a HALLMARK or a RESTORE. -/
def endUnstarted (s : State) : State :=
  let gone := (s.host.fetched.filter endsAtReset) ++ ((s.host.fenced.map Prod.snd).filter endsAtReset)
  let waits := (s.run.waiting.map Fetched.cmd).filter endsAtReset
  let s := { s with host := { s.host with
    fetched := s.host.fetched.filter (fun f => !endsAtReset f), fenced := s.host.fenced.filter (fun f => !endsAtReset f.2) } }
  let s := onRun s (fun r => { r with waiting := r.waiting.filter (fun i => !endsAtReset (.cmd i)) })
  completeDescs (gone.foldl endFetched s) (waits.filterMap Fetched.desc) stHostReset

/-- A Hallmark to a host buffer is abandoned (R491). -/
def endExport (s : State) : State :=
  match s.run.hallmark with
  | some h =>
    if h.dest = 2 then
      endView (complete (onRun (setB s F.FLT_STATUS_HM_BUSY false) (fun r => { r with hallmark := none })) h.desc stHostReset 0)
    else s
  | none => s

/-- PERST_N or Function Level Reset (R328, R329). -/
def hostReset (s : State) : State :=
  let s := (s.host.sessions.map Prod.fst).foldl suspendSession s
  let s := loaderHostReset (chnHostReset (endExport (endUnstarted (endReads s))))
  let s := resetBlock s 5 (fun _ => false)
  let s := { s with host := { s.host with
    msix := [], pba := [], busMaster := false, sweepDue := 0, sweeps := 0, sweepWaits := false } }
  bumpF (showSuspended s) F.RST_COUNT_PERST 1

/-- PERST_N (R328): its level; a wider reset in force overrides it (R579). -/
def execPerstN (low : Bool) (s : State) : Host.Outcome State Fault Refusal :=
  .next (
    if low = s.boot.perst then s
    else
      let s := { s with boot := { s.boot with perst := low } }
      if low && getF s F.RST_STATUS_PHASE != 0 then hostReset s else s)

/-- FUNCTION_LEVEL_RESET (R328). -/
def execFunctionLevelReset (s : State) : Host.Outcome State Fault Refusal := .next (hostReset s)

/-- TRST_N (R573): the private JTAG authorisation ends. -/
def execTrstN (s : State) : Host.Outcome State Fault Refusal := .next (setB s F.SEC_STATUS_JTAG_PRIV false)

/-- A rate and a width that the link has negotiated: free values among those that R300 lists. -/
def linkUp (s : State) : State :=
  if getB s F.HST_STATUS_LINK_UP then s
  else
    let (r, s) := drawFree s
    let (w, s) := drawFree s
    setF (setF (setB s F.HST_STATUS_LINK_UP true) F.HST_STATUS_RATE (1 + r % 5)) F.HST_STATUS_WIDTH (2 ^ (w % 5))

/-- What an item of R300 reads: a size for a base address register as the register reads after ones are written to it, with
its type bits; 1 where a capability is there or a bit is set, 0 where it is not.  The vendor ID is the one assigned to the
maker, which the spec does not state: a free value. -/
def configValue (s : State) (c : ConfigItem) : Nat :=
  match c with
  | .vendorId => Config.vendorId % 65536
  | .deviceId => 0x564B
  | .subsystemVendor => s.boot.subsystem.1
  | .subsystemId => s.boot.subsystem.2
  | .classCode => 0x120000
  | .bar n => if n = 0 then 2 ^ 64 - 2 ^ 20 + 4 else if n = 2 then 2 ^ 64 - 2 ^ 26 + 12 else 0
  | .maxPayload => 512
  | .maxReadRequest => 4096
  | .msixVectors => 2048
  | .msixTable => 0x54000
  | .msixPba => 0x5C000
  | .atomic32 | .atomic64 | .aer | .flr => 1
  | .msi | .cas128 | .ats | .pasid | .sriov => 0

/-- CONFIGURATION_REQUEST (R300, R587): the link trains from phase 2 (R621); Configuration Request Retry Status until phase 4
ends, an answer from then on. -/
def execConfigurationRequest (q : ConfigRequest) (s : State) : Host.Outcome State Fault Refusal :=
  .next (
    if getF s F.RST_STATUS_PHASE < 2 ∨ s.boot.perst then s
    else
      let s := linkUp s
      if getF s F.RST_STATUS_PHASE < 5 then emit s (.answer 0 3)
      else
        let s := match q.item with
          | some c => emit s (.readValue 0 (configValue s c))
          | none => s
        match q.busMaster with
        | some b => { s with host := { s.host with busMaster := b } }
        | none => s)

/-! ### Start-up (R582 to R588) -/

/-- Repair entry `i` of the fuses is VALID (R562): `w` is the word of entry 0. -/
def repairValid (s : State) (w i : Nat) : Bool := (fuseShadow s (w + i / 2)).testBit (16 * (i % 2) + 15)

/-- VALID repair entries of a range. -/
def repairsUsed (s : State) (w first n : Nat) : Nat := ((List.range n).filter (fun i => repairValid s w (first + i))).length

/-- Phase 1 (R561, R582, R532): the fuse shadow is loaded, and the repairs are applied. -/
def phaseFuses (s : State) : State :=
  let s := if s.boot.cold then onSec s (fun h => { h with shadow := h.fuses }) else s
  let s := setF (setF s F.CTL_REPAIR_FWS_SPARES 64) F.CTL_REPAIR_FWS_USED (repairsUsed s 224 0 64)
  let s := setF (setF s F.CTL_REPAIR_CTX_SPARES 512) F.CTL_REPAIR_CTX_USED (repairsUsed s 224 64 512)
  setF (setF s F.CTL_REPAIR_FUSE_SPARES 4) F.CTL_REPAIR_FUSE_USED (repairsUsed s 222 0 4)

/-- Phase 2 (R582): the system and network PLLs are stable, and their islands run from them. -/
def phaseClocks (s : State) : State :=
  let s := pllStable (pllStable s 0) 1
  [5, 6].foldl (fun t i => completeSwitch (setF t (F.CLK_SWITCH_SEL i) 1) i) s

/-- Tile maps built afresh (R3, R481): each position of die `d` whose tile fails takes the lowest spare that passes. -/
def buildMap (bad : List Nat) (s : State) (d : Fin 4) : State :=
  let s := onDie s d (fun x => { x with badTiles := bad, tileMap := [] })
  let s := (List.range (activePositions s)).foldl (fun t p =>
    if bad.contains p then match freeSpares t d with
      | q :: _ => onDie t d (fun x => { x with tileMap := x.tileMap.set none p (some q) })
      | [] => setB t F.FLT_STATUS_NO_SPARE true
    else t) s
  showSpares s d

/-- Tile maps kept (R588): a position whose tile fails now takes a spare, where one passes. -/
def keepMap (bad : List Nat) (s : State) (d : Fin 4) : State :=
  let bound := fun q => (positionOf s d q).isSome
  let new := bad.filter (fun q => !s.dies[d].badTiles.contains q)
  let s := onDie s d (fun x => { x with badTiles := x.badTiles ++ new.filter (fun q => !bound q) })
  let s := (new.filter bound).foldl (fun t q => match positionOf t d q with
    | some p => rebind t d p
    | none => t) s
  showSpares s d

/-- A fuse-repaired memory fails the start-up test (R540): START_FAIL, and the failures on record (R538). -/
def startFail (s : State) (fs : List Failure) : State :=
  if fs = [] then s
  else setB (setF (noteFailures s fs.length fs) F.CTL_MT_STATUS_RESULT 3) F.CTL_STATUS_START_FAIL true

/-- Phase 3 (R540, R588): the start-up test's tile results make the tile maps; a fuse-repaired memory that fails sets
START_FAIL. -/
def phaseMarch (s : State) (f : BootFound) : State :=
  let bad := fun (d : Fin 4) => (f.badTiles.filter (fun t => t.1 = d)).map (fun t => t.2.val)
  let s := dieList.foldl (fun t d => if s.boot.cold then buildMap (bad d) t d else keepMap (bad d) t d) s
  startFail s (f.memFails.map (fun f => (f.word, f.elem.val, f.diff.toNat)))

/-- Phase 4 (R570, R583, R585): the boot ROM reads the flash header and loads firmware. -/
def phaseBoot (s : State) (f : FlashRegions) : State :=
  let h := f.header
  let s := if flashHeaderOk h then
      { s with boot := { s.boot with
        subsystem := (leAt h 6 2, leAt h 8 2)
        regulators := (List.range (min 16 (leAt h 10 1))).map (fun i => leAt h (16 + 4 * i) 4) } }
    else s
  bootFirmware s f

/-- Phase 5 (R582, R585): firmware has brought the device up; entries of REG stand in CLK_PMB_REG. -/
def phaseBringup (s : State) : State :=
  let es := s.boot.regulators
  (List.range es.length).foldl (fun t n => plainWrite t (F.CLK_PMB_REG_EN n).addr (es.getD n 0)) s

/-- Phase 6 begins (R261, R582): READY, and the boot source acts. -/
def phaseService (s : State) : State :=
  let s := setB s F.RST_STATUS_READY true
  let b := getF s F.LDR_BOOT_BOOT_SEL
  if b = 1 ∨ b = 3 then offerFlash (onLdr s (fun h => { h with selfTry := 1 })) 0 else s

/-- Phase `p` ends `us` microseconds after the release. -/
def phaseEnds (s : State) (p us : Nat) : State :=
  setF (setF s (F.RST_PHASE_TIME_US (p - 1)) us) F.RST_STATUS_PHASE (p + 1)

/-- The phase under way ends (R582): phase 0 with the release of the reset, phase 2 once REFCLK is there (R621), phase 5
once firmware runs. -/
def nextPhase (s : State) (us : Nat) (f : BootFound) : State :=
  match getF s F.RST_STATUS_PHASE with
  | 0 => setF (setTime s 0) F.RST_STATUS_PHASE 1
  | 1 => phaseEnds (phaseFuses s) 1 us
  | 2 => if s.clk.lost then s else phaseEnds (phaseClocks s) 2 us
  | 3 => phaseEnds (phaseMarch s f) 3 us
  | 4 => phaseEnds (phaseBoot s f.flash) 4 us
  | 5 => if s.ctl.running then phaseService (phaseEnds (phaseBringup s) 5 us) else s
  | _ => s

/-- RESET_RELEASE (R582). -/
def execResetRelease (us : Word) (found : BootFound) (s : State) : Host.Outcome State Fault Refusal :=
  .next (nextPhase s us.toNat found)

/-! ### Pins of state (R284, R581) -/

/-- RST_ERROR (R591).  NO_FIRMWARE is 0, its reset value, until the boot ROM has looked for firmware (R583). -/
def rstError (s : State) : Nat :=
  getF s F.LDR_STATUS_BOOT_FAIL + getF s F.CTL_STATUS_START_FAIL * 2 + getF s F.CLK_STATUS_THERM_TRIP * 4 +
    b2n (decide (4 < getF s F.RST_STATUS_PHASE) && !s.ctl.running) * 8 + getF s F.CLK_STATUS_PMB_FAULT * 16 + getF s F.FLT_STATUS_HALT * 32 +
    b2n (getF s F.HBM_STATUS_PHY_FAIL != 0) * 64 + getF s F.LNK_STATUS_FORM_FAIL * 128

/-- ERROR_N is low (R581). -/
def errorLow (s : State) : Bool :=
  !resetHeld s && (rstError s &&& (getF s F.RST_ERROR_EN_EN * 8 + getF s F.RST_ERROR_EN_EN_FIXED)) != 0

/-- ECLK is high (R23): it rises at step 0 of a cycle and falls at B0, and a hold stretches the level.  It follows die 0,
and its level is that of the last step which the die has begun (DESIGN CHOICE: in a hold the dies may stand apart). -/
def eclkHigh (s : State) : Bool :=
  executing s && decide (0 < stepOf s s.dies[0].sigma) && decide (stepOf s s.dies[0].sigma ≤ stepsS s)

/-- DONE is high (R282, R284): an Ingot is loaded. -/
def doneHigh (s : State) : Bool := !resetHeld s && emState s != 0

end Sys2Proof.Machine
end

