-- ==== Sys2Proof/Machine/RegAccess.lean ====
section
/-! DEFINITION. Accesses to setup registers on the three paths (R6 to R11, R254, R263, R301, R593, R594, R596, R599): the
behaviour that each register has of its own, block by block, and the plain one of every other. -/

namespace Sys2Proof.Machine

/-! ### Writes -/

/-- A switch of island `i` (R501), its sources as the device's own state shows them. -/
def switchReg (s : State) (i v : Nat) : State :=
  switchWrite s i v (sourceRuns s i (getF s (F.CLK_SWITCH_CURRENT i)))
    (sourceRuns s i (if bitsOf v 0 2 = 3 then 0 else bitsOf v 0 2))

/-- A write to a CLK register. -/
def writeClk (s : State) (a v : Nat) : State :=
  if a = 0x10104 then gateCtrlWrite s v
  else if 0x10020 ≤ a ∧ a < 0x1008C then switchReg s ((a - 0x10020) / 4) v
  else plainWrite s a v

/-- A write to an LDR register. -/
def writeLdr (s : State) (a v : Nat) : State :=
  if a = 0x3000C then ldrCtrlWrite s v
  else if a = 0x30014 then ownerWrite s v
  else if a = 0x3001C then flashCtrlWrite s v
  else plainWrite s a v

/-- A write to a SEC register. -/
def writeSec (s : State) (a v : Nat) : State :=
  if a = 0x40004 then presenceCtrlWrite s v
  else if a = 0x40018 ∨ a = 0x4001C ∨ a = 0x40020 then fuseStageWrite s a v
  else if 0x40060 ≤ a ∧ a < 0x40080 then bbkStageWrite s ((a - 0x40060) / 4) v
  else if a = 0x40080 then bbkWrite s v
  else plainWrite s a v

/-- A write to an HST register, or to the MSI-X structures; DB_SWEEP is clamped (R331). -/
def writeHst (s : State) (a v : Nat) : State :=
  if a = 0x50040 then sessIndexWrite s v
  else if a = 0x50064 then sessCmdWrite s v
  else if a = 0x50068 then sessStateWrite s v
  else if 0x54000 ≤ a then msixWrite s a v
  else if a = 0x50008 then setF s F.HST_SWEEP_DB_SWEEP (clamp 10 6400 (v % 2 ^ 13))
  else plainWrite s a v

/-- A write to CHN_ENGINE_STOP (R361): an engine that waits for an item gets 0 at once. -/
def engineStopWrite (s : State) (v : Nat) : State :=
  (List.range 32).foldl (fun t e =>
    if v.testBit e && (getF t F.CHN_ENGINE_WAIT_WAIT).testBit e then
      emit (setFBit t F.CHN_ENGINE_WAIT_WAIT e false) (.readValue (16 + e) 0)
    else t) (plainWrite s 0x60010 v)

/-- A write to a CHN register. -/
def writeChn (s : State) (a v : Nat) : State :=
  if a = 0x60004 then chnCtrl s v
  else if a = 0x60010 then engineStopWrite s v
  else if a = 0x60020 then chnCtxIndex s v
  else plainWrite s a v

/-- A write to an ARY register. -/
def writeAry (s : State) (a v : Nat) : State :=
  if a = 0x70010 then holdCtrlWrite s v
  else if a = 0x70070 then countCtrlWrite s v
  else plainWrite s a v

/-- A write to an HBM register; where what the hub would read back is not part of the write, it is a free value. -/
def writeHbm (s : State) (a v : Nat) : State :=
  if a = 0x90004 then
    let (c, s) := drawFree s
    if v.testBit 0 then restoreTable s (c.testBit 0) (c.testBit 1) else s
  else if a = 0x90010 then refreshCtrlWrite s v
  else if a = 0x90020 then
    let (c, s) := drawFree s
    phyCtrlWrite s v c
  else if a = 0x90028 then phyWrite s v
  else if 0x90060 ≤ a ∧ a < 0x90070 then pcFailedWrite s ((a - 0x90060) / 4) v
  else if 0x90100 ≤ a ∧ a < 0x90300 then
    if a % 32 = 0 then winCtrlWrite s ((a - 0x90100) / 32) v else winCfgWrite s a v
  else plainWrite s a v

/-- Offsets of the ASY registers that are not written while ARMED is 1 (R404). -/
def asyHeld (a : Nat) : Bool :=
  (decide (0xB0010 ≤ a) && decide (a ≤ 0xB0024)) || (decide (0xB0100 ≤ a) && decide (a < 0xB0140)) ||
    (decide (0xB0180 ≤ a) && decide (a < 0xB0600))

/-- A write to an ASY register. -/
def writeAsy (s : State) (a v : Nat) : State :=
  if a = 0xB0004 then asyCtrlWrite s v
  else if a = 0xB0048 then redCtrlWrite s v
  else if a = 0xB0144 then patWrite s v
  else if a = 0xB0740 then syncCtrlWrite s v
  else if 0xB0600 ≤ a ∧ a < 0xB0700 then
    let k := (a - 0xB0600) / 8
    if a % 8 = 0 then trkWrite s k v else if getB s (F.ASY_TRK_CTRL_EN k) then s else plainWrite s a v
  else if asyHeld a && getB s F.ASY_STATUS_ARMED then s
  else plainWrite s a v

/-- A write to a LNK register. -/
def writeLnk (s : State) (a v : Nat) : State :=
  if a = 0xC0004 then machineWrite s v
  else if 0xC0100 ≤ a ∧ a < 0xC0300 ∧ a % 32 = 0 then linkCfgWrite s ((a - 0xC0100) / 32) v
  else if 0xC0100 ≤ a ∧ a < 0xC0300 ∧ a % 32 = 0x14 then linkCtrlWrite s ((a - 0xC0100) / 32) v
  else plainWrite s a v

/-- A write to an HGR register. -/
def writeHgr (s : State) (a v : Nat) : State :=
  if a = 0xD0004 then showParked (plainWrite s a v)
  else if a = 0xD0200 then capCtrlWrite s v
  else plainWrite s a v

/-- A write to a CTL register. -/
def writeCtl (s : State) (path : RegPath) (a v : Nat) : State :=
  if a = 0xE0004 then coreResetWrite s v
  else if a = 0xE0014 then fwUpdateWrite s v
  else if a = 0xE0020 then handoverWrite s path v
  else if a = 0xE0100 then mtCtrlWrite s v
  else if 0xE0200 ≤ a ∧ a < 0xE0280 then mtElemWrite s ((a - 0xE0200) / 4) v
  else plainWrite s a v

/-- A write to a TRC register. -/
def writeTrc (s : State) (a v : Nat) : State :=
  if a = 0xF0004 then trcCtrlWrite s v
  else if (0xF0008 ≤ a ∧ a < 0xF001C) ∨ (0xF0044 ≤ a ∧ a < 0xF0100) then trcCfgWrite s a v
  else plainWrite s a v

/-- A whole write of 32 bits to the register at offset `a`: discarded in an isolated block (R254). -/
def regWrite (s : State) (path : RegPath) (a v : Nat) : State :=
  if regIsolated s a then setB s F.NET_STATUS_ISO_ACCESS true
  else match a / 0x10000 with
    | 1 => writeClk s a v
    | 2 => if a = 0x20004 then rstCtrlWrite s v (getF s F.LDR_BOOT_BOOT_SEL) else plainWrite s a v
    | 3 => writeLdr s a v
    | 4 => writeSec s a v
    | 5 => writeHst s a v
    | 6 => writeChn s a v
    | 7 => writeAry s a v
    | 8 => if a = 0x80008 then retireWrite s v else plainWrite s a v
    | 9 => writeHbm s a v
    | 10 => if a = 0xA0040 then netTraceWrite s v else plainWrite s a v
    | 11 => writeAsy s a v
    | 12 => writeLnk s a v
    | 13 => writeHgr s a v
    | 14 => writeCtl s path a v
    | 15 => writeTrc s a v
    | _ => plainWrite s a v

/-! ### Reads -/

/-- IDN_IDENT, IDN_REVISION and IDN_SERIAL (R596): 0 before the end of start-up phase 1. -/
def identRead (s : State) (a : Nat) : Nat :=
  if getF s F.RST_STATUS_PHASE ≤ 1 then 0
  else if a = 0 then 0x564B0400 + (if s.chip.grade192 then 0x30 else 0x40)
  else if a = 4 then s.chip.silicon.toNat * 2 ^ 24 + s.chip.metal.toNat * 2 ^ 16 + s.chip.romBuild.toNat
  else fuseShadow s ((a - 8) / 4)

/-- Reads of the IDN block (R596, R599). -/
def readIdn (s : State) (path a : Nat) : Nat × State :=
  if a < 0x10 ∧ a % 4 = 0 then (identRead s a, s)
  else if a = 0x10 then countLoRead s path a
  else if a = 0x14 then countHiRead s path a
  else (plainReg s a, s)

/-- The last committed cycle, all ones while none has committed (ARY_CYCLE). -/
def cycleRead (s : State) : Nat := if s.run.nextCommit = 0 then 2 ^ 64 - 1 else s.run.nextCommit - 1

/-- Reads of the ARY block; ARY_LATE_TIMER saturates (R137). -/
def readAry (s : State) (a : Nat) : Nat × State :=
  if isCountLo a then countLoRead s anyPath a
  else if isCountHi a then countHiRead s anyPath a
  else if a = 0x70034 then (min s.holds.lateTimer (2 ^ 32 - 1), s)
  else if a = 0x70050 then (cycleRead s % 2 ^ 32, s)
  else if a = 0x70054 then (cycleRead s / 2 ^ 32, s)
  else (plainReg s a, clearRC s a)

/-- Reads of the SEC block. -/
def readSec (s : State) (a : Nat) : Nat × State :=
  if a = 0x40014 then fuseDataRead s
  else if a = 0x4001C ∨ a = 0x40020 then (fuseStageRead s a, s)
  else if 0x40040 ≤ a ∧ a < 0x40050 then (keySlotRead s ((a - 0x40040) / 4), s)
  else if a = 0x40090 then (minSvn s, s)
  else (plainReg s a, s)

/-- Reads of a march-test record (R538): of the one that CTL_MT_FAIL_INDEX names. -/
def marchFailRead (s : State) (a : Nat) : Nat :=
  ((fieldsAt a).map (fun f => f.bank (getF s F.CTL_MT_FAIL_INDEX_RECORD))).foldl (fun v f => v + getF s f * 2 ^ f.lo) 0

/-- A read of FLT_HM_PROGRESS: how far a Hallmark or a restore that runs has come is a free value. -/
def progressRead (s : State) : Nat × State :=
  if getB s F.FLT_STATUS_HM_BUSY || getB s F.FLT_STATUS_RESTORING then
    let (v, s) := drawFree s
    (v % 2 ^ 16, s)
  else (plainReg s 0x800B4, s)

/-- Reads of the registers that have a behaviour of their own, outside the blocks above; none for every other. -/
def readOwn (s : State) (a : Nat) : Option (Nat × State) :=
  if a = 0x10104 then some (gateCtrlRead s, s)
  else if a = 0x20044 then some (rstError s, s)
  else if a = 0x30020 then some (stageUnits s, s)
  else if a = 0x50068 then some (sessStateRead s, s)
  else if 0x54000 ≤ a ∧ a < 0x60000 then some (msixRead s a, s)
  else if a = 0x80064 then some (tileMapData s, s)
  else if 0x80074 ≤ a ∧ a < 0x80094 then some (logData s ((a - 0x80074) / 4), s)
  else if a = 0x800B4 then some (progressRead s)
  else if a = 0x90028 then some (phyRead s)
  else if a = 0xB0000 then some (plainReg s a + b2n s.asy.capture.isSome * 2 ^ F.ASY_STATUS_SNAP_BUSY.lo, s)
  else if a = 0xB0144 then some (patRead s)
  else if a = 0xC0024 then some (mapRead s)
  else if a = 0xD0214 then some (capRead s)
  else if 0xE0124 ≤ a ∧ a < 0xE0134 then some (marchFailRead s a, s)
  else if 0xF0044 ≤ a ∧ a < 0xF0100 then some (trcSrcRead s a)
  else none

/-- A read of 32 bits of the register at offset `a` on a path: its value, and the state it leaves (R7, R9, R254). -/
def regRead (s : State) (path a : Nat) : Nat × State :=
  if regIsolated s a then (0xFFFFFFFF, setB s F.NET_STATUS_ISO_ACCESS true)
  else match a / 0x10000 with
    | 0 => readIdn s path a
    | 4 => readSec s a
    | 7 => readAry s a
    | _ => match readOwn s a with
      | some r => r
      | none => (plainReg s a, clearRC s a)

/-! ### Widths and byte enables (R6, R301) -/

/-- The offset lies in the MSI-X table or the pending-bit array. -/
def isMsix (a : Nat) : Bool := decide (0x54000 ≤ a) && decide (a < 0x5C100)

/-- Every byte enable of an access of `n` bytes is set. -/
def allEnabled (be n : Nat) : Bool := (List.range n).all (fun i => be.testBit i)

/-- An access of `n` bytes at an offset lies in more than one register (R6). -/
def spansRegs (a n : Nat) : Bool := decide (4 < a % 4 + n)

/-- What an access to a setup register may do on its path (R6, R301). -/
inductive RegWay where
  /-- one whole register -/
  | whole
  /-- two registers of the MSI-X structures -/
  | pair
  /-- part of a register -/
  | part
  /-- Completer Abort, code 1, or an exception on a core: address misaligned, code 4, or an access fault, code 7 -/
  | abort (code : Nat)
  /-- no effect -/
  | nothing
  deriving DecidableEq, Repr

/-- How the access at offset `a` of `n` bytes goes. -/
def regWay (path : RegPath) (a be n : Nat) : RegWay :=
  if isMsix a then
    if n = 4 ∧ a % 4 = 0 then .whole else if n = 8 ∧ a % 8 = 0 then .pair else .nothing
  else match path with
    | .core _ => if a % n ≠ 0 then .abort 4 else if n = 4 then .whole else .abort 7
    | .spi => if a % 4 = 0 then .whole else .nothing
    | .host => if spansRegs a n then .abort 1 else if n = 4 ∧ allEnabled be 4 then .whole else .part

/-- REGISTER_WRITE (R6, R7, R301). -/
def execRegisterWrite (path : RegPath) (addr : BitVec 20) (value : DWord) (be : BitVec 8) (length : Nat) (s : State) :
    Host.Outcome State Fault Refusal :=
  let a := addr.toNat
  .next (match regWay path a be.toNat length with
    | .whole => regWrite s path a (value.toNat % 2 ^ 32)
    | .pair => regWrite (regWrite s path a (value.toNat % 2 ^ 32)) path (a + 4) (value.toNat / 2 ^ 32)
    | .abort c => emit s (.answer (pathCode path) c)
    | .part | .nothing => s)

/-- A read answered with its value. -/
def answerRead (s : State) (path a : Nat) : State :=
  let r := regRead s path a
  emit r.2 (.readValue path r.1)

/-- REGISTER_READ (R6, R7, R254, R301): part of a register reads as the whole. -/
def execRegisterRead (path : RegPath) (addr : BitVec 20) (be : BitVec 8) (length : Nat) (s : State) :
    Host.Outcome State Fault Refusal :=
  let a := addr.toNat
  let p := pathCode path
  .next (match regWay path a be.toNat length with
    | .whole => answerRead s p a
    | .part => answerRead s p (a / 4 * 4)
    | .pair =>
      let l := regRead s p a
      let h := regRead l.2 p (a + 4)
      emit h.2 (.readValue p (l.1 + h.1 * 2 ^ 32))
    | .abort c => emit s (.answer p c)
    | .nothing => emit s (.readValue p 0))

/-- TIME_LO_READ (R599): the high half is captured for the path's next read of IDN_TIME_HI. -/
def execTimeLoRead (path : RegPath) (s : State) : Host.Outcome State Fault Refusal :=
  .next (answerRead s (pathCode path) 0x10)

/-! ### The SPI slave port (R263, R264) -/

/-- The setup-window offset of a transaction, its most significant byte first (R263). -/
def spiOffset (bytes : List Byte) : Nat := leAt bytes 1 1 * 65536 + leAt bytes 2 1 * 256 + leAt bytes 3 1

/-- REG_WRITE, command 0x02 (R263, R6), with its data least significant byte first; an offset that is not a multiple of 4, or
past the setup window, names no register.  A transaction whose first byte is another command is none of this one's. -/
def execSpiRegWrite (command : Byte) (rest : List Byte) (s : State) : Host.Outcome State Fault Refusal :=
  let bytes := command :: rest
  let a := spiOffset bytes
  .next (
    if leAt bytes 0 1 = 0x02 ∧ 8 ≤ bytes.length ∧ a % 4 = 0 ∧ a < 0x100000 then regWrite s .spi a (leAt bytes 4 4) else s)

/-- REG_READ, command 0x0B (R263, R6): the four data bytes follow the dummy byte, the least significant first. -/
def execSpiRegRead (bytes : List Byte) (s : State) : Host.Outcome State Fault Refusal :=
  let a := spiOffset bytes
  .next (
    if leAt bytes 0 1 = 0x0B ∧ 5 ≤ bytes.length then
      if a % 4 = 0 ∧ a < 0x100000 then answerRead s 1 a else emit s (.readValue 1 0)
    else s)

/-- STATUS, command 0x05 (R263, R264): ROOM, a stream is open, the last stream ended with a code other than 0. -/
def execSpiStatus (s : State) : Host.Outcome State Fault Refusal :=
  .next (emit s (.readValue 1 (b2n (decide (65616 ≤ fifoFree s)) + 2 * b2n (loaderOpen s) +
    4 * b2n (getF s F.LDR_RESULT_CODE != 0))))

end Sys2Proof.Machine
end

