-- ==== Sys2Proof/Machine/Tick.lean ====
section
/-! DEFINITION. What happens at the clock while no command waits: a descriptor that a fence has held back starts, and
otherwise one SCLK period passes (R15 to R20, R121 to R143, R194, R509, R599). -/

namespace Sys2Proof.Machine

/-! ### Descriptors behind a fence (R310, R312) -/

/-- Nothing holds the descriptor back any more: every earlier one of its session has completed, or it carries no
FENCE and only stood behind one that did. -/
def fenceOpen (s : State) (f : Fetched) : Bool :=
  match f.desc with
  | some d => !d.fence || !earlierOpen s d
  | none => true

/-- The first waiting descriptor that may start, and the others; the descriptors of one session keep their order
(R312). -/
def pickFenced (s : State) (seen : List Nat) : List (Nat × Fetched) → Option (Fetched × List (Nat × Fetched))
  | [] => none
  | f :: fs =>
    if !seen.contains f.1 && fenceOpen s f.2 then some (f.2, fs)
    else (pickFenced s (f.1 :: seen) fs).map (fun r => (r.1, f :: r.2))

/-- The waiting descriptor that starts now, and the state without it. -/
def nextFenced (s : State) : Option (Fetched × State) :=
  (pickFenced s [] s.host.fenced).map (fun r =>
    (r.1, { s with host := { s.host with fenced := r.2, released := true } }))

/-! ### Sweeps (R324) -/

/-- The device sweeps: FETCH_EN, and Bus Master Enable. -/
def sweepsOn (s : State) : Bool := getB s F.HST_CTRL_FETCH_EN && s.host.busMaster

/-- A sweep starts as it falls due; with eight in flight it waits for one to end, and counts an overrun. -/
def sweepTick (s : State) : State :=
  if sweepsOn s && !s.host.sweepWaits && decide (s.host.sweepDue ≤ timeNs s) then
    if s.host.sweeps < 8 then startSweep s
    else bumpF (setB { s with host := { s.host with sweepWaits := true } } F.HST_STATUS_SWEEP_OVERRUN true) F.HST_OVERRUNS_COUNT 1
  else s

/-! ### One SCLK period -/

/-- The length of an SCLK period in 1/1024 ns (R509): D / 204.8 GHz, and one REFCLK period while SCLK runs from it. -/
def periodUnits (s : State) : Nat :=
  let d := getF s F.CLK_SCLK_D
  if d = 0 then 10240 else 5 * d

/-- The nanoseconds that TIME advances in this period (R599). -/
def periodNs (s : State) : Nat := (s.clk.frac + periodUnits s) / 1024

/-- A machine release (R135): from T0 on, the dies that stand at `m`, then at each step count after it, are released,
one step count each period.  None is released while a cause of the hold remains on the device (R117). -/
def machineRelease (s : State) : State :=
  match s.holds.release with
  | none => s
  | some (t0, m) =>
    if timeNs s < t0 || (s.holds.resuming.isNone && !deviceReady s) then s
    else
      let s := if s.holds.resuming.isSome then s
        else onHolds ([0, 1, 2].foldl clearSource (redecide (refreshLate s))) (fun h => { h with resuming := some m })
      let s := releaseUpTo s m
      onHolds s (fun h => { h with release := if anyFrozen s then some (t0, m + 1) else none })

/-- Releases of a resume under way (R131, R135). -/
def releaseTick (s : State) : State := if s.holds.release.isSome then machineRelease s else continueResume s

/-- The step clock of die `d` runs: its island's switch is not gated off (R501). -/
def sclkRuns (s : State) (d : Fin 4) : Bool := getF s (F.CLK_SWITCH_CURRENT d) != 2

/-- Every die in one step period (R17). -/
def arrayTick (s : State) : State :=
  if marchHolds s then s else dieList.foldl (fun t d => if sclkRuns s d then stepDie t d else t) s

/-- A 64-bit count advances. -/
def bump64 (s : State) (lo hi : Fld) (n : Nat) : State := set64 s lo hi (get64 s lo hi + n)

/-- Hold accounting over a period (R143): `ran` says whether die 0 executed a step. -/
def accountTick (s : State) (ns : Nat) (ran : Bool) : State :=
  let s := (List.range 12).foldl (fun t n =>
    if sourceOn t n then bump64 t (F.ARY_SRC_NS_LO_COUNT n) (F.ARY_SRC_NS_HI_COUNT n) ns else t) s
  let s := if anyFrozen s then bump64 s F.ARY_HELD_NS_LO_COUNT F.ARY_HELD_NS_HI_COUNT ns else s
  if ran then bump64 s F.ARY_EXEC_STEPS_LO_COUNT F.ARY_EXEC_STEPS_HI_COUNT 1 else s

/-- The step periods since the last die froze (R123), and the late timer (R137). -/
def holdTick (s : State) : State :=
  lateTick (onHolds s (fun h => { h with frozenSteps := if anyFrozen s then h.frozenSteps + 1 else 0 }))

/-- TIME at the end of the period (R599). -/
def timeTick (s : State) : State :=
  let u := s.clk.frac + periodUnits s
  setTime (onClk s (fun c => { c with frac := u % 1024 })) (timeNs s + u / 1024)

/-- The oldest committed sample is written, once every stack of its window is READY (R227, R375). -/
def sampleTick (s : State) : State :=
  if (s.asy.waiting.take 1).all (fun x => (winMembers s x.1).all (stackReady s)) then drainSample s else s

/-- A new clock of the design memories: no port has been served in it, and no word has a value before it (R202, R204). -/
def newClock (s : State) : State := { s with mem := { s.mem with portA := [], before := [] } }

/-- One SCLK period of the block (DESIGN CHOICE: what a step does while no command waits). -/
def tick (s : State) : State :=
  let ns := periodNs s
  let s := releaseTick (tileReturns (newClock (gatesExit s)))
  let sigma := s.dies[0].sigma
  let s := takeDecisions (holdBlocks (arrayTick s))
  let s := accountTick (holdTick s) ns (decide (sigma < s.dies[0].sigma))
  let s := sweepTick (ageReads (timeTick s))
  let s := steeringLost (linksTick (sampleTick s))
  let s := if s.clk.expired && getB s F.CLK_REFCLK_HOLDOVER then announceSoon s 10 else s
  loaderTick (windowTick (fwTick s))

end Sys2Proof.Machine
end

