-- ==== Sys2Proof/Machine/Dispatch.lean ====
section
/-! DEFINITION. The meaning of each command: one arm for each constructor, in the order of spec/opcode_table.json. -/

namespace Sys2Proof.Machine

def exec (i : Instr) (s : State) : Host.Outcome State Fault Refusal :=
  match i with
  | .eval d p n j flips => Sys2Proof.Machine.execEval d p n j flips s
  | .copy d p n j flips => Sys2Proof.Machine.execCopy d p n j flips s
  | .nop d p n j => Sys2Proof.Machine.execNop d p n j s
  | .send d p n k parity => Sys2Proof.Machine.execSend d p n k parity s
  | .recv d p n k => Sys2Proof.Machine.execRecv d p n k s
  | .latch d p n => Sys2Proof.Machine.execLatch d p n s
  | .gatherAddr d p m => Sys2Proof.Machine.execGatherAddr d p m s
  | .gatherData d p m => Sys2Proof.Machine.execGatherData d p m s
  | .memoryPortRead d p m => Sys2Proof.Machine.execMemoryPortRead d p m s
  | .memoryPortWrite d p m => Sys2Proof.Machine.execMemoryPortWrite d p m s
  | .memoryPortNop d p m => Sys2Proof.Machine.execMemoryPortNop d p m s
  | .boundaryPhase d => Sys2Proof.Machine.execBoundaryPhase d s
  | .cycleCommit => Sys2Proof.Machine.execCycleCommit s
  | .memoryReturn rid finds => Sys2Proof.Machine.execMemoryReturn rid finds s
  | .crossingArrival src dst chan ecc => Sys2Proof.Machine.execCrossingArrival src dst chan ecc s
  | .boundaryHoldDecision h => Sys2Proof.Machine.execBoundaryHoldDecision h s
  | .freezeOrder d => Sys2Proof.Machine.execFreezeOrder d s
  | .announcedHoldRelease => Sys2Proof.Machine.execAnnouncedHoldRelease s
  | .resume => Sys2Proof.Machine.execResume s
  | .sfStarved => Sys2Proof.Machine.execSfStarved s
  | .request value => Sys2Proof.Machine.execRequest value s
  | .release value => Sys2Proof.Machine.execRelease value s
  | .clear value => Sys2Proof.Machine.execClear value s
  | .countLoRead path addr => Sys2Proof.Machine.execCountLoRead path addr s
  | .faultReplay d fault => Sys2Proof.Machine.execFaultReplay d fault s
  | .restoreBoundary => Sys2Proof.Machine.execRestoreBoundary s
  | .replayRelease => Sys2Proof.Machine.execReplayRelease s
  | .scheduleFaultHalt => Sys2Proof.Machine.execScheduleFaultHalt s
  | .tileRetirement d phys copyOk => Sys2Proof.Machine.execTileRetirement d phys copyOk s
  | .go value => Sys2Proof.Machine.execGo value s
  | .laneSparing d group failing => Sys2Proof.Machine.execLaneSparing d group failing s
  | .run desc n unbounded => Sys2Proof.Machine.execRun desc n unbounded s
  | .stopNext desc => Sys2Proof.Machine.execStopNext desc s
  | .stopAtCommitted desc => Sys2Proof.Machine.execStopAtCommitted desc s
  | .capture desc function tileRam window offset => Sys2Proof.Machine.execCapture desc function tileRam window offset s
  | .fetch desc function source window offset addr length hostOk => Sys2Proof.Machine.execFetch desc function source window offset addr length hostOk s
  | .hallmark desc dest buffer length => Sys2Proof.Machine.execHallmark desc dest buffer length s
  | .restore desc source addr length image => Sys2Proof.Machine.execRestore desc source addr length image s
  | .continueAfterFaultClear desc => Sys2Proof.Machine.execContinueAfterFaultClear desc s
  | .descriptorNop desc => Sys2Proof.Machine.execDescriptorNop desc s
  | .waitingDescriptorAccept => Sys2Proof.Machine.execWaitingDescriptorAccept s
  | .captureComplete => Sys2Proof.Machine.execCaptureComplete s
  | .hallmarkComplete => Sys2Proof.Machine.execHallmarkComplete s
  | .restoreComplete => Sys2Proof.Machine.execRestoreComplete s
  | .designRead desc address length buffer => Sys2Proof.Machine.execDesignRead desc address length buffer s
  | .designWrite desc address length buffer data => Sys2Proof.Machine.execDesignWrite desc address length buffer data s
  | .designReadComplete bad => Sys2Proof.Machine.execDesignReadComplete bad s
  | .hostWriteApply => Sys2Proof.Machine.execHostWriteApply s
  | .image desc start bytes binding => Sys2Proof.Machine.execImage desc start bytes binding s
  | .doorbellSweep cells bad lost => Sys2Proof.Machine.execDoorbellSweep cells bad lost s
  | .coalesceTimeout session => Sys2Proof.Machine.execCoalesceTimeout session s
  | .sessOpen => Sys2Proof.Machine.execSessOpen s
  | .sessClose => Sys2Proof.Machine.execSessClose s
  | .sessAttach => Sys2Proof.Machine.execSessAttach s
  | .sessIndexWrite value => Sys2Proof.Machine.execSessIndexWrite value s
  | .exchangeRamPortBWrite path offset data => Sys2Proof.Machine.execExchangeRamPortBWrite path offset data s
  | .exchangeRamPortBRead path offset length ecc => Sys2Proof.Machine.execExchangeRamPortBRead path offset length ecc s
  | .scratchBankAccess site data length ecc => Sys2Proof.Machine.execScratchBankAccess site data length ecc s
  | .fetchAdd site wide operand ecc => Sys2Proof.Machine.execFetchAdd site wide operand ecc s
  | .swap site wide operand ecc => Sys2Proof.Machine.execSwap site wide operand ecc s
  | .cas site access => Sys2Proof.Machine.execCas site access s
  | .reservedAccess offset write atomic => Sys2Proof.Machine.execReservedAccess offset write atomic s
  | .registerWrite path addr value be length => Sys2Proof.Machine.execRegisterWrite path addr value be length s
  | .spiRegWrite command bytes => Sys2Proof.Machine.execSpiRegWrite command bytes s
  | .spiRegRead bytes => Sys2Proof.Machine.execSpiRegRead bytes s
  | .spiStatus => Sys2Proof.Machine.execSpiStatus s
  | .spiStream bytes => Sys2Proof.Machine.execSpiStream bytes s
  | .segment header ciphertext tag => Sys2Proof.Machine.execSegment header ciphertext tag s
  | .writeFrame addr data => Sys2Proof.Machine.execWriteFrame addr data s
  | .repeatFrame addrs => Sys2Proof.Machine.execRepeatFrame addrs s
  | .zeroFrames addr count => Sys2Proof.Machine.execZeroFrames addr count s
  | .setRegion region parent variant => Sys2Proof.Machine.execSetRegion region parent variant s
  | .commit => Sys2Proof.Machine.execCommit s
  | .pad count bytes => Sys2Proof.Machine.execPad count bytes s
  | .startupEvent => Sys2Proof.Machine.execStartupEvent s
  | .lsPll => Sys2Proof.Machine.execLsPll s
  | .machineWaitEnd headers links => Sys2Proof.Machine.execMachineWaitEnd headers links s
  | .lsTimeout => Sys2Proof.Machine.execLsTimeout s
  | .abort value => Sys2Proof.Machine.execAbort value s
  | .flashStart value => Sys2Proof.Machine.execFlashStart value s
  | .qspiSelfLoad flash bad => Sys2Proof.Machine.execQspiSelfLoad flash bad s
  | .ldrOwnerWrite value => Sys2Proof.Machine.execLdrOwnerWrite value s
  | .regionRejoin region => Sys2Proof.Machine.execRegionRejoin region s
  | .chOpen desc ref kind priority port timeoutUs fifoOffset fifoWindow sizeLog2 => Sys2Proof.Machine.execChOpen desc ref kind priority port timeoutUs fifoOffset fifoWindow sizeLog2 s
  | .chClose desc ref => Sys2Proof.Machine.execChClose desc ref s
  | .msgSend desc ref addr bits inlined payload => Sys2Proof.Machine.execMsgSend desc ref addr bits inlined payload s
  | .msgRecv desc ref addr length => Sys2Proof.Machine.execMsgRecv desc ref addr length s
  | .streamPost desc ref addr length => Sys2Proof.Machine.execStreamPost desc ref addr length s
  | .flush desc control => Sys2Proof.Machine.execFlush desc control s
  | .clearOverrun desc control => Sys2Proof.Machine.execClearOverrun desc control s
  | .chQuery desc ref addr hostOk => Sys2Proof.Machine.execChQuery desc ref addr hostOk s
  | .drainTimeout chan => Sys2Proof.Machine.execDrainTimeout chan s
  | .dispatchTake e => Sys2Proof.Machine.execDispatchTake e s
  | .dispatchDone e slot record => Sys2Proof.Machine.execDispatchDone e slot record s
  | .copyUnitGo e src dst length hostData hostOk => Sys2Proof.Machine.execCopyUnitGo e src dst length hostData hostOk s
  | .engineTrap e => Sys2Proof.Machine.execEngineTrap e s
  | .chnCtxIndexWrite value ecc => Sys2Proof.Machine.execChnCtxIndexWrite value ecc s
  | .enginesEn value => Sys2Proof.Machine.execEnginesEn value s
  | .arm value => Sys2Proof.Machine.execArm value s
  | .disarm value => Sys2Proof.Machine.execDisarm value s
  | .forceTrigger value => Sys2Proof.Machine.execForceTrigger value s
  | .trackerEnable k value => Sys2Proof.Machine.execTrackerEnable k value s
  | .redClear value => Sys2Proof.Machine.execRedClear value s
  | .patDataAccess write => Sys2Proof.Machine.execPatDataAccess write s
  | .trigFrame line target => Sys2Proof.Machine.execTrigFrame line target s
  | .trigCollide line => Sys2Proof.Machine.execTrigCollide line s
  | .trigEdge line => Sys2Proof.Machine.execTrigEdge line s
  | .trigSettleVote => Sys2Proof.Machine.execTrigSettleVote s
  | .sync => Sys2Proof.Machine.execSync s
  | .fire value => Sys2Proof.Machine.execFire value s
  | .holdBlock l b => Sys2Proof.Machine.execHoldBlock l b s
  | .readyBlock l b => Sys2Proof.Machine.execReadyBlock l b s
  | .resumeBlock l b => Sys2Proof.Machine.execResumeBlock l b s
  | .voteBlock l b => Sys2Proof.Machine.execVoteBlock l b s
  | .commitBlock l b => Sys2Proof.Machine.execCommitBlock l b s
  | .startReadyBlock l b => Sys2Proof.Machine.execStartReadyBlock l b s
  | .idleBlock l b => Sys2Proof.Machine.execIdleBlock l b s
  | .trackBlock l b => Sys2Proof.Machine.execTrackBlock l b s
  | .ackBlock l b => Sys2Proof.Machine.execAckBlock l b s
  | .exchangeBlock l part b => Sys2Proof.Machine.execExchangeBlock l part b s
  | .measureBlock l b => Sys2Proof.Machine.execMeasureBlock l b s
  | .echoBlock l b => Sys2Proof.Machine.execEchoBlock l b s
  | .spareSwitchBlock l b => Sys2Proof.Machine.execSpareSwitchBlock l b s
  | .deepReqBlock l b => Sys2Proof.Machine.execDeepReqBlock l b s
  | .deepAckBlock l b => Sys2Proof.Machine.execDeepAckBlock l b s
  | .dataFrame l f => Sys2Proof.Machine.execDataFrame l f s
  | .mgmtFrame l f => Sys2Proof.Machine.execMgmtFrame l f s
  | .linkReplayTimeout l => Sys2Proof.Machine.execLinkReplayTimeout l s
  | .linkStagePass l finds => Sys2Proof.Machine.execLinkStagePass l finds s
  | .linkStageTimeout l => Sys2Proof.Machine.execLinkStageTimeout l s
  | .laneFailing l k fault => Sys2Proof.Machine.execLaneFailing l k fault s
  | .linkLeavesActive l graph => Sys2Proof.Machine.execLinkLeavesActive l graph s
  | .linkCfgEnable l value => Sys2Proof.Machine.execLinkCfgEnable l value s
  | .form value => Sys2Proof.Machine.execForm value s
  | .formationCheck peers graph => Sys2Proof.Machine.execFormationCheck peers graph s
  | .deep l value => Sys2Proof.Machine.execDeep l value s
  | .deepAckTimeout l => Sys2Proof.Machine.execDeepAckTimeout l s
  | .retrain l value => Sys2Proof.Machine.execRetrain l value s
  | .dozeEntry side => Sys2Proof.Machine.execDozeEntry side s
  | .dozeExit side => Sys2Proof.Machine.execDozeExit side s
  | .adaptationFreeze l => Sys2Proof.Machine.execAdaptationFreeze l s
  | .lnkMapDataRead => Sys2Proof.Machine.execLnkMapDataRead s
  | .apply value pass => Sys2Proof.Machine.execApply value pass s
  | .restoreTable value copy0 copy1 => Sys2Proof.Machine.execRestoreTable value copy0 copy1 s
  | .windowEnable n value => Sys2Proof.Machine.execWindowEnable n value s
  | .pcFailedWrite m value => Sys2Proof.Machine.execPcFailedWrite m value s
  | .phyDataAccess write => Sys2Proof.Machine.execPhyDataAccess write s
  | .refresh => Sys2Proof.Machine.execRefresh s
  | .scrub pc word finds upset => Sys2Proof.Machine.execScrub pc word finds upset s
  | .tileScrub d phys word ecc upset => Sys2Proof.Machine.execTileScrub d phys word ecc upset s
  | .packetDelivery pkt way => Sys2Proof.Machine.execPacketDelivery pkt way s
  | .packetResend key busy => Sys2Proof.Machine.execPacketResend key busy s
  | .quiesceReport node => Sys2Proof.Machine.execQuiesceReport node s
  | .traceClear value => Sys2Proof.Machine.execTraceClear value s
  | .traceEnable value => Sys2Proof.Machine.execTraceEnable value s
  | .captureArm value => Sys2Proof.Machine.execCaptureArm value s
  | .captureAbort value => Sys2Proof.Machine.execCaptureAbort value s
  | .captureFire => Sys2Proof.Machine.execCaptureFire s
  | .capDataRead => Sys2Proof.Machine.execCapDataRead s
  | .strobe g => Sys2Proof.Machine.execStrobe g s
  | .exportUpdate g => Sys2Proof.Machine.execExportUpdate g s
  | .vccioMismatch bank sensed settled => Sys2Proof.Machine.execVccioMismatch bank sensed settled s
  | .cfgScrub upsets => Sys2Proof.Machine.execCfgScrub upsets s
  | .pllStable p => Sys2Proof.Machine.execPllStable p s
  | .pllUnlock p => Sys2Proof.Machine.execPllUnlock p s
  | .clockSwitch k value oldRuns newRuns => Sys2Proof.Machine.execClockSwitch k value oldRuns newRuns s
  | .refclkLoss => Sys2Proof.Machine.execRefclkLoss s
  | .holdoverExpiry => Sys2Proof.Machine.execHoldoverExpiry s
  | .refclkReturn => Sys2Proof.Machine.execRefclkReturn s
  | .gateClose value => Sys2Proof.Machine.execGateClose value s
  | .gateReopen value => Sys2Proof.Machine.execGateReopen value s
  | .quiesceTimeout node => Sys2Proof.Machine.execQuiesceTimeout node s
  | .rampStep => Sys2Proof.Machine.execRampStep s
  | .rampPlan target sigma0 => Sys2Proof.Machine.execRampPlan target sigma0 s
  | .powerStewardTick r => Sys2Proof.Machine.execPowerStewardTick r s
  | .thermalTrip => Sys2Proof.Machine.execThermalTrip s
  | .pmbAlert faulty => Sys2Proof.Machine.execPmbAlert faulty s
  | .coreRestart value => Sys2Proof.Machine.execCoreRestart value s
  | .fwUpdateGo value => Sys2Proof.Machine.execFwUpdateGo value s
  | .fwUpdateAbort value => Sys2Proof.Machine.execFwUpdateAbort value s
  | .handover value => Sys2Proof.Machine.execHandover value s
  | .handoverReady c => Sys2Proof.Machine.execHandoverReady c s
  | .handoverTimeout => Sys2Proof.Machine.execHandoverTimeout s
  | .marchStart value => Sys2Proof.Machine.execMarchStart value s
  | .marchAbort value => Sys2Proof.Machine.execMarchAbort value s
  | .marchWordGroup ue fails => Sys2Proof.Machine.execMarchWordGroup ue fails s
  | .retiredInstruction src pc next machine kind => Sys2Proof.Machine.execRetiredInstruction src pc next machine kind s
  | .traceEn value => Sys2Proof.Machine.execTraceEn value s
  | .trcClear value => Sys2Proof.Machine.execTrcClear value s
  | .sleep src => Sys2Proof.Machine.execSleep src s
  | .wake src pc => Sys2Proof.Machine.execWake src pc s
  | .traceFrameTimeout src => Sys2Proof.Machine.execTraceFrameTimeout src s
  | .timePacket src => Sys2Proof.Machine.execTimePacket src s
  | .presenceArm value => Sys2Proof.Machine.execPresenceArm value s
  | .presenceDisarm value => Sys2Proof.Machine.execPresenceDisarm value s
  | .execute value vfuse => Sys2Proof.Machine.execExecute value vfuse s
  | .programFuses stuck => Sys2Proof.Machine.execProgramFuses stuck s
  | .loadBbk => Sys2Proof.Machine.execLoadBbk s
  | .tracePriv => Sys2Proof.Machine.execTracePriv s
  | .unseal => Sys2Proof.Machine.execUnseal s
  | .rollback => Sys2Proof.Machine.execRollback s
  | .jtagPrivate => Sys2Proof.Machine.execJtagPrivate s
  | .presenceHeld => Sys2Proof.Machine.execPresenceHeld s
  | .windowExpiry => Sys2Proof.Machine.execWindowExpiry s
  | .erase value => Sys2Proof.Machine.execErase value s
  | .tamper vbatLow => Sys2Proof.Machine.execTamper vbatLow s
  | .fuseDataRead => Sys2Proof.Machine.execFuseDataRead s
  | .porN bootSel => Sys2Proof.Machine.execPorN bootSel s
  | .rstN bootSel => Sys2Proof.Machine.execRstN bootSel s
  | .warm value bootSel => Sys2Proof.Machine.execWarm value bootSel s
  | .perstN low => Sys2Proof.Machine.execPerstN low s
  | .functionLevelReset => Sys2Proof.Machine.execFunctionLevelReset s
  | .trstN => Sys2Proof.Machine.execTrstN s
  | .resetRelease us found => Sys2Proof.Machine.execResetRelease us found s
  | .timeLoRead path => Sys2Proof.Machine.execTimeLoRead path s
  | .deepExit l => Sys2Proof.Machine.execDeepExit l s
  | .configurationRequest request => Sys2Proof.Machine.execConfigurationRequest request s
  | .registerRead path addr be length => Sys2Proof.Machine.execRegisterRead path addr be length s
  | .userClockEdge k inputs => Sys2Proof.Machine.execUserClockEdge k inputs s
  | .vfuseOutOfLimit => Sys2Proof.Machine.execVfuseOutOfLimit s

end Sys2Proof.Machine
end

