-- ==== Sys2Proof/Machine/Step.lean ====
section
/-! DEFINITION. One step of the block: the command at the front of the queue, or, where none waits, the clock. -/

namespace Sys2Proof.Machine

/-- A fetched descriptor runs: as the command that it spells, or as a reserved OPCODE (R311). -/
def runFetched (f : Fetched) (s : State) : Host.Outcome State Fault Refusal :=
  match f with
  | .cmd i => exec i s
  | .reserved d => .next (badOpcode d s)

/-- What a step does while no command waits: a descriptor that a fence has held back starts, or the oldest that is fetched
and not started, and otherwise one SCLK period passes (DESIGN CHOICE). -/
def idleStep (s : State) : Host.Outcome State Fault Refusal :=
  match nextFenced s, s.host.fetched with
  | some (f, t), _ => runFetched f t
  | none, f :: _ => runFetched f s
  | none, [] => .next (tick s)

/-- One step: the command at the front of the queue runs with the queue's rest. -/
def step (s : State) : Host.Outcome State Fault Refusal :=
  match s.pending with
  | c :: rest => exec c { s with pending := rest }
  | [] => idleStep s

/-- The state with the command that a table word spells put at the front of its queue; unchanged where the word spells
none. -/
def State.withFetchWord (s : State) (nbits w : Nat) : State :=
  match Sys2Proof.decodeTableWord nbits w with
  | some c => { s with pending := c :: s.pending }
  | none => s

end Sys2Proof.Machine
end

