-- ==== Sys2Proof/Machine/Lands.lean ====
section
/-! DEFINITION. The lands of the package (R600 to R608) and the states of the land groups that follow from the device's own
state (R621). -/

namespace Sys2Proof.Machine

/-- The rails of R614. -/
inductive SupplyRail where
  | vss
  | vddC (d : Fin 4)
  | vddSa (d : Fin 4)
  | vddHub
  | vddHbm
  | vddqHbm
  | vppHbm
  | vddLnk
  | vddaLnk
  | vddPcie
  | vddAux
  | vccio (n : Fin 8)
  | vbat
  | vfuse
  deriving DecidableEq, Repr

/-- The signals of R604 to R607; `n`: the N leg of a pair. -/
inductive Signal where
  | lnkTx (lane : Fin 64) (n : Bool)
  | lnkRx (lane : Fin 64) (n : Bool)
  | pcieTx (lane : Fin 16) (n : Bool)
  | pcieRx (lane : Fin 16) (n : Bool)
  | uio (pin : Fin 384)
  | refclk (n : Bool)
  | clkout (n : Bool)
  | porN
  | rstN
  | perstN
  | errorN
  | alertN
  | done
  | bootSel (b : Fin 2)
  | presenceN
  | tamperN
  | trig (k : Fin 8)
  | sync
  | qspiSck
  | qspiCsN
  | qspiIo (k : Fin 4)
  | sspiSck
  | sspiCsN
  | sspiMosi
  | sspiMiso
  | tck
  | tms
  | tdi
  | tdo
  | trstN
  | pmbScl
  | pmbSda
  | pmbAlertN
  deriving DecidableEq, Repr

/-- What a land carries. -/
inductive LandUse where
  | signal (x : Signal)
  | rail (r : SupplyRail)
  | reserved
  deriving DecidableEq, Repr

/-- The letters that name rows (R601). -/
def rowLetters : List String := ["A", "B", "C", "D", "E", "F", "G", "H", "J", "K", "L", "M", "N", "P", "T", "U", "V", "W", "Y"]

/-- The name of the row of an index, 1 to 64 (R601). -/
def rowName (i : Nat) : String := ["", "A", "B", "C"].getD ((i - 1) / 19) "" ++ rowLetters.getD ((i - 1) % 19) ""

/-- A land of a region or column whose rail alternates with VSS (R603). -/
def railOr (row col : Nat) (r : SupplyRail) : LandUse := .rail (if (row + col) % 2 = 0 then .vss else r)

/-- The link band (R602, R604): rows A to H. -/
def linkBand (row col : Nat) : LandUse :=
  let n := col % 2 == 0
  match row with
  | 2 | 4 => .signal (.lnkTx (Fin.ofNat 64 ((col - 1) / 2 + 32 * (row / 4))) n)
  | 6 => .signal (.lnkRx (Fin.ofNat 64 ((col - 1) / 2)) n)
  | 8 => .signal (.lnkRx (Fin.ofNat 64 ((col - 1) / 2 + 32)) n)
  | _ => .rail .vss

/-- The rail of a row and column between the columns of the user I/O (R602). -/
def coreRail (row col : Nat) : SupplyRail :=
  let die := fun (i : Nat) => Fin.ofNat 4 (i + if col < 33 then 0 else 1)
  if row = 9 then .vddaLnk
  else if row < 13 then .vddLnk
  else if row < 27 then .vddC (die 0)
  else if row < 31 then .vddSa (die 0)
  else if row < 35 then .vddSa (die 2)
  else if row < 49 then .vddC (die 2)
  else if row < 52 then .vddHub
  else if row < 55 then .vddHbm
  else if row = 55 then .vddqHbm
  else if col < 17 then .vppHbm
  else if col < 43 then .vddPcie
  else .vddAux

/-- The user I/O columns (R602, R606): rows J to BW. -/
def uioLand (row col : Nat) : LandUse :=
  let n := (row - 9) / 12 + if col < 33 then 0 else 4
  let j := (row - 9) % 12 * 4 + (if col < 33 then col - 1 else col - 61)
  if col = 6 ∨ col = 59 then .rail .vss
  else if col = 5 ∨ col = 60 then railOr row col (.vccio (Fin.ofNat 8 n))
  else .signal (.uio (Fin.ofNat 384 (48 * n + j)))

/-- The host band (R602, R605). -/
def hostBand (row col : Nat) : LandUse :=
  let lane := Fin.ofNat 16 ((col - 1) / 2)
  let n := col % 2 == 0
  match row with
  | 59 => .signal (.pcieRx lane n)
  | 61 => .signal (.pcieTx lane n)
  | _ => .rail .vss

/-- Row CC of the control band (R607). -/
def controlCC (col : Nat) : LandUse :=
  if 53 ≤ col ∧ col ≤ 60 then .signal (.trig (Fin.ofNat 8 (col - 53)))
  else match col with
    | 33 => .signal (.refclk false)
    | 34 => .signal (.refclk true)
    | 36 => .signal (.clkout false)
    | 37 => .signal (.clkout true)
    | 39 => .signal .porN
    | 40 => .signal .rstN
    | 41 => .signal .perstN
    | 42 => .signal .errorN
    | 43 => .signal .alertN
    | 44 => .signal .done
    | 45 => .signal (.bootSel 0)
    | 46 => .signal (.bootSel 1)
    | 47 => .signal .presenceN
    | 48 => .signal .tamperN
    | 49 => .rail .vbat
    | 51 | 52 => .rail .vfuse
    | 61 => .signal .sync
    | 63 | 64 => .reserved
    | _ => .rail .vss

/-- Row CE of the control band (R607). -/
def controlCE (col : Nat) : LandUse :=
  if 54 ≤ col then .reserved
  else if 35 ≤ col ∧ col ≤ 38 then .signal (.qspiIo (Fin.ofNat 4 (col - 35)))
  else match col with
    | 33 => .signal .qspiSck
    | 34 => .signal .qspiCsN
    | 40 => .signal .sspiSck
    | 41 => .signal .sspiCsN
    | 42 => .signal .sspiMosi
    | 43 => .signal .sspiMiso
    | 45 => .signal .tck
    | 46 => .signal .tms
    | 47 => .signal .tdi
    | 48 => .signal .tdo
    | 49 => .signal .trstN
    | 51 => .signal .pmbScl
    | 52 => .signal .pmbSda
    | 53 => .signal .pmbAlertN
    | _ => .rail .vss

/-- What the land of a row index and a column, each 1 to 64, carries (R602 to R607). -/
def landUse (row col : Nat) : LandUse :=
  if row < 9 then linkBand row col
  else if row < 57 then (if 7 ≤ col ∧ col ≤ 58 then railOr row col (coreRail row col) else uioLand row col)
  else if row = 57 then .rail .vss
  else if col < 33 then hostBand row col
  else if row = 60 then controlCC col
  else if row = 62 then controlCE col
  else .rail .vss

/-! ### Land states (R621) -/

/-- CLKOUT: its source, held low until phase 6 (R514, R621). -/
def clkoutShown (s : State) : Nat := if getF s F.RST_STATUS_PHASE < 6 then 0 else clkoutSource s

/-- The Axnath transmitters of a link are in electrical idle (R427, R621): it is Off, in Detect, or in Deep. -/
def linkTxIdle (s : State) (l : Nat) : Bool :=
  getF s (F.LNK_LINK_STATUS_STAGE l) < 2 || getF s (F.LNK_LINK_STATUS_DEEP l) == 1

/-- SSPI_MISO is driven while SSPI_CS_N is low, from phase 1 (R621). -/
def misoDriven (s : State) (csLow : Bool) : Bool := csLow && !resetHeld s

/-- A line of TRIG or SYNC may be driven (R621): from phase 6. -/
def trigDriven (s : State) : Bool := getF s F.RST_STATUS_PHASE == 6

end Sys2Proof.Machine
end

