-- ==== Sys2Proof/Safety.lean ====
section
/-! DEFINITION. The terms that claims use: what a run of the block never breaks, how a command answers, and what it leaves
unchanged. -/

namespace Sys2Proof.Machine

/-- The register store, the tiles' bytes, the TRAM, the exchange RAM, the HBM and the scratch RAM are in their canonical
form: keys rise strictly, and no byte is listed that reads as an unlisted one does. -/
structure Canonical (s : State) : Prop where
  regs : SMap.ordered s.regs
  tileBytes : Memory.wf zeroFill s.tileBytes
  tram : Memory.wf zeroFill s.mem.tram
  exr : Memory.wf marchFill s.mem.exr
  hbm : Memory.wf zeroFill s.mem.hbm
  scratch : Memory.wf marchFill s.ctl.scratch

/-- Every fuse bit that is burned in `s` is burned in `t` (R564: a fuse bit only changes from 0 to 1). -/
def FusesStay (s t : State) : Prop := ∀ w i, (fuseWord s w).testBit i = true → (fuseWord t w).testBit i = true

/-- What the device had sent in `s` it has sent in `t`, in the same order. -/
def SentStays (s t : State) : Prop := s.outs <+: t.outs

/-! ### How a command answers, and its frame -/

/-- The command answers a next state, and `P` holds of it. -/
def Answers (c : Sys2Proof.Instr) (s : State) (P : State → Prop) : Prop := ∃ t, exec c s = .next t ∧ P t

/-- Every register field but those of `fs` reads the same in both states. -/
def FieldsBut (s t : State) (fs : List Fld) : Prop := ∀ f : Fld, (∀ g ∈ fs, f.key ≠ g.key) → getF t f = getF s f

/-- Nothing but register fields of `fs` differs. -/
def OnlyFields (s t : State) (fs : List Fld) : Prop := FieldsBut s t fs ∧ t = { s with regs := t.regs }

/-- Every die but `d` is the same. -/
def DiesBut (s t : State) (d : Fin 4) : Prop := ∀ e : Fin 4, e ≠ d → t.dies[e] = s.dies[e]

/-! ### Units of the array -/

/-- A unit may run: its die is in a scheduled step, its tile executes, and it has not run in this step. -/
def UnitReady (s : State) (d : Fin 4) (p key : Nat) : Prop :=
  scheduled s d = true ∧ tileRuns s d p = true ∧ unitDone s d key = false

/-- A unit of die `d` has run without fault: what it writes waits for the end of the step, and nothing else differs but
the count of corrected tile errors, which a unit that reads through a code may raise. -/
def Staged (s t : State) (d : Fin 4) (g : Stage) : Prop :=
  t.dies[d] = { s.dies[d] with stage := s.dies[d].stage.both g } ∧ DiesBut s t d ∧
    FieldsBut s t [F.FLT_CE_TILE_COUNT] ∧ t = { s with regs := t.regs, dies := t.dies }

/-! ### Descriptors -/

/-- A descriptor runs as it comes: its session is OPEN in the descriptor's generation, nothing holds it back, and it
stands in no group. -/
def DescRuns (s : State) (d : Sys2Proof.Desc) : Prop :=
  (session s d.session).state = 1 ∧ descStale s d = false ∧ mustWait s d = false ∧ groupBreaks s d = false

/-- After what it had sent in `s`, and `before`, the device has posted the descriptor's completion to its session's ring:
nothing but an interrupt follows it. -/
def Posts (s t : State) (d : Sys2Proof.Desc) (before : List Out) (status result : Nat) : Prop :=
  let e := session s d.session
  let c := Out.completion d.session e.posted (completionSlot e) (completionEntry e d.tag.toNat status result)
  t.outs = s.outs ++ before ++ [c] ∨ t.outs = s.outs ++ before ++ [c, .msix e.vector]

/-! ### Links -/

/-- A control block of type `ct` on link `l` is acted on (R413): its CRC8 passes, the link is on, and no copy of it has
been acted on. -/
def Heard (s : State) (l ct : Nat) (b : Sys2Proof.CtlBlock) : Prop :=
  blockOk ct b = true ∧ linkStage s l ≠ 0 ∧ (link s l).seen.get none (ct * 16 + b.origin.toNat) ≠ some b.cseq.toNat

/-- Link `k` carries frames and blocks: it is Active, and not in Deep. -/
def Carries (s : State) (k : Nat) : Prop := linkActive s k = true ∧ getB s (F.LNK_LINK_STATUS_DEEP k) = false

/-! ### Loads -/

/-- The load stream has ended, and LDR_RESULT shows the code. -/
def LoadEnded (t : State) (code : Nat) : Prop := t.ldr.stream = none ∧ getF t F.LDR_RESULT_CODE = code

end Sys2Proof.Machine
end

