-- ==== Sys2Proof/Certificates/Slice0/Obligations.lean ====
section
/-! DEFINITION. The statements for the provers. -/

open Sys2Proof Sys2Proof.Machine

/-- EVAL (R45, R50, R57), COPY and NOP (R45): a logic processor whose instruction word and function pair read clean.
EVAL indexes its pair with the operand values, OPA in the lowest place, and stages both outputs with their complements;
COPY stages the values of OPA and OPB; NOP stages nothing.  Nothing else differs. -/
def Obligations.LogicProcessorStagesItsOutputs : Prop :=
  ∀ (s : State) (d : Fin 4) (p : Fin 64) (n : Fin 32) (j : Fin 64) (v0 v1 v2 v3 : Bool),
    let t := stepOf s s.dies[d].sigma
    let w := lpWord s d p n t j
    let base := (p.val * 32 + n.val) * 2048 + t % 16 * 128 + 2 * j.val
    let mark := { Stage.empty with done := [lpKey p n j] }
    let pair := funcPair s d p (bitsOf w 52 8)
    let index := 8 * b2n v3 + 4 * b2n v2 + 2 * b2n v1 + b2n v0
    UnitReady s d p (lpKey p n j) → eccOf s.dies[d] 0 p ((n * 1024 + t) * 64 + j) = .clean →
    (bitsOf w 60 4 = 1 → eccOf s.dies[d] 2 p (bitsOf w 52 8) = .clean → pair.2 = true →
      readOpnd s d p n (bitsOf w 39 13) = .val v0 false .clean → readOpnd s d p n (bitsOf w 26 13) = .val v1 false .clean →
      readOpnd s d p n (bitsOf w 13 13) = .val v2 false .clean → readOpnd s d p n (bitsOf w 0 13) = .val v3 false .clean →
      Answers (.eval d p n j 0) s (fun u => Staged s u d { mark with window :=
        [(base, ⟨pair.1.testBit index, !pair.1.testBit index⟩),
         (base + 1, ⟨pair.1.testBit (16 + index), !pair.1.testBit (16 + index)⟩)] })) ∧
    (bitsOf w 60 4 = 2 →
      readOpnd s d p n (bitsOf w 39 13) = .val v0 false .clean → readOpnd s d p n (bitsOf w 26 13) = .val v1 false .clean →
      Answers (.copy d p n j 0) s (fun u => Staged s u d { mark with window := [(base, ⟨v0, !v0⟩), (base + 1, ⟨v1, !v1⟩)] })) ∧
    (bitsOf w 60 4 = 0 → Answers (.nop d p n j) s (fun u => Staged s u d mark))

/-- SEND, RECV and LATCH (R86, R88, R90, R92): the fields of a port-sequencer word that reads clean and meets no condition
of R111.  SEND drives its operand's value onto its lane; RECV puts the value that its lane delivers into its slot unless an
enabled RECV of a higher number names the same slot, and takes the entry of a channel buffer; LATCH records the value of
its operand as the pending value of its register bit.  Nothing else differs. -/
def Obligations.PortSequencerFieldsStage : Prop :=
  ∀ (s : State) (d : Fin 4) (p : Fin 64) (n : Fin 32) (k : Fin 4) (v : Bool),
    let t := stepOf s s.dies[d].sigma
    let w := psWord s d p n t
    let f := recvField s d w k
    let mark := fun (i : Nat) => { Stage.empty with done := [psKey p n i] }
    let beaten := decide (∃ h : Fin 4, k < h ∧ (recvField s d w h).en = true ∧ (recvField s d w h).slot = f.slot)
    let put := if beaten then [] else [((p.val * 32 + n.val) * 1024 + f.slot, v)]
    eccOf s.dies[d] 1 p ((n * 1024 + t) * 2) = .clean → eccOf s.dies[d] 1 p ((n * 1024 + t) * 2 + 1) = .clean →
    psCheck s d p n = (none, []) →
    (UnitReady s d p (psKey p n k) → (sendField w k).1 = true → readOpnd s d p n (sendField w k).2 = .val v false .clean →
      Answers (.send d p n k none) s (fun u =>
        Staged s u d { mark k with lanes := [((p.val * 32 + n.val) * 4 + k.val, v)] })) ∧
    (UnitReady s d p (psKey p n (4 + k)) → f.en = true → f.lane < 0x2000 →
      s.dies[d].lanes.get none ((t - 4) * 8192 + f.lane) = some v →
      Answers (.recv d p n k) s (fun u => Staged s u d { mark (4 + k) with slots := put })) ∧
    (UnitReady s d p (psKey p n (4 + k)) → f.en = true → 0x2000 ≤ f.lane → ∀ e : ChanEntry,
      chanFind s.dies[d] (f.lane - 0x2000) = .entry e → e.val = v →
      Answers (.recv d p n k) s (fun u =>
        Staged s u d { mark (4 + k) with slots := put, taken := [f.lane - 0x2000] })) ∧
    (UnitReady s d p (psKey p n 8) → (latchField w).1 = true → readOpnd s d p n (latchField w).2.1 = .val v false .clean →
      Answers (.latch d p n) s (fun u =>
        Staged s u d { mark 8 with latches := [((p.val * 32 + n.val) * 2048 + (latchField w).2.2, v)] }))

/-- The memory-port operations (R182, R183, R186, R188, R190): a port that is enabled and whose words read clean.  A gather
copies COUNT + 1 operand bits, from SRC on, into the address register (40 bits) or the data register (512 bits) and loses
the bits past its end; READ and WRITE name the granule that the address register selects in the port's target, which must
lie in the target; a NOP does nothing.  Nothing lands before the step does. -/
def Obligations.MemoryPortStagesItsOperation : Prop :=
  ∀ (s : State) (d : Fin 4) (p : Fin 64) (m : Fin 16) (vs : List Bool),
    let x := s.dies[d]
    let t := stepOf s x.sigma
    let w := schedWord s d p m t
    let pb := portBinding s d p m
    let mark := { Stage.empty with done := [portKey p m] }
    let a := x.portAddr.get 0 (p * 16 + m)
    let g := granule (bitsOf w 11 9 + 1)
    UnitReady s d p (portKey p m) → pb.en = true → eccOf x 5 p (0x4000 + m) = .clean →
    eccOf x 5 p (m * 1024 + t) = .clean →
    (bitsOf w 29 3 = 1 → vs.length = bitsOf w 0 5 + 1 → bitsOf w 11 13 + vs.length ≤ 0x2000 →
      (∀ i (h : i < vs.length), readOpnd s d p (bitsOf w 24 5) (bitsOf w 11 13 + i) = .val vs[i] false .clean) →
      Answers (.gatherAddr d p m) s (fun u =>
        Staged s u d { mark with addrs := [(p.val * 16 + m.val, gatherInto 40 a (bitsOf w 5 6) vs)] })) ∧
    (bitsOf w 29 3 = 2 → vs.length = bitsOf w 2 5 + 1 → bitsOf w 11 13 + vs.length ≤ 0x2000 →
      (∀ i (h : i < vs.length), readOpnd s d p (bitsOf w 24 5) (bitsOf w 11 13 + i) = .val vs[i] false .clean) →
      Answers (.gatherData d p m) s (fun u => Staged s u d { mark with datas :=
        [(p.val * 16 + m.val, gatherInto 512 (x.portData.get 0 (p * 16 + m)) (32 * bitsOf w 7 4) vs)] })) ∧
    (bitsOf w 29 3 = 3 → a * g + g - 1 < targetBits s pb.target pb.window →
      Answers (.memoryPortRead d p m) s (fun u => Staged s u d { mark with reads :=
        [⟨0, d, p, m, pb.target, pb.window, a * g, bitsOf w 11 9 + 1, pb.cluster, bitsOf w 20 9, x.sigma, x.cycle, 0, none, false⟩] })) ∧
    (bitsOf w 29 3 = 4 → a * g + g - 1 < targetBits s pb.target pb.window →
      Answers (.memoryPortWrite d p m) s (fun u => Staged s u d { mark with writes :=
        [⟨d, p, m, pb.target, pb.window, a * g, bitsOf w 11 9 + 1,
          x.portData.get 0 (p * 16 + m) % 2 ^ (bitsOf w 11 9 + 1), x.sigma, x.cycle, false⟩] })) ∧
    (bitsOf w 29 3 = 0 ∨ 4 < bitsOf w 29 3 → Answers (.memoryPortNop d p m) s (fun u => Staged s u d mark))

/-- The boundary phase (R20, R23, R24, R92): a die that is in the boundary step it may execute and for which no hold stands
takes the step's action.  B0 gives each register bit with a pending latch its value and leaves no latch pending; B7
counts the cycle; B8 casts a good vote unless the vote of the cycle is there already; B9 empties the receive slots. -/
def Obligations.BoundaryPhaseActs : Prop :=
  ∀ (s : State) (d : Fin 4),
    let x := s.dies[d]
    let c := cycleOf s x.sigma
    let i := stepOf s x.sigma - stepsS s
    inBoundary s d = true → unitDone s d boundaryKey = false → holdsAt s c i = none →
    (i = 0 → SMap.ordered x.pendLatch → rejoinsAt s d c = [] →
      Answers (.boundaryPhase d) s (fun t => t.dies[d].pendLatch = [] ∧ ∀ k,
        t.dies[d].regBits.get false k = match x.pendLatch.get none k with | some v => v.1 | none => x.regBits.get false k)) ∧
    (i = 7 → Answers (.boundaryPhase d) s (fun t => t.dies[d].cycle = (x.cycle + 1) % 2 ^ 64 ∧ t.dies[d].sigma = x.sigma ∧
      DiesBut s t d ∧ t = { s with dies := t.dies })) ∧
    (i = 8 → Answers (.boundaryPhase d) s (fun t => DiesBut s t d ∧ t = { s with dies := t.dies, run := t.run } ∧
      t.run.votes.get none (c * 4 + d) = some ((s.run.votes.get none (c * 4 + d)).getD true))) ∧
    (i = 9 → Answers (.boundaryPhase d) s (fun t => t.dies[d].slots = [] ∧ t.dies[d].regBits = x.regBits ∧ DiesBut s t d ∧
      t = { s with dies := t.dies }))

/-- The commit of a cycle (R25, R37): where the next cycle to commit has its votes and no read view is in its way, it
commits, and the next one is the one after it; its own WRITEs wait no more.  Where the view reserve is full the commit
waits, and ARY_VIEW_STATUS says so. -/
def Obligations.CycleCommitAdvances : Prop :=
  ∀ s : State,
    let c := s.run.nextCommit
    (canCommit s c = true →
      Answers .cycleCommit s (fun t => t.run.nextCommit = c + 1 ∧ ∀ w ∈ t.mem.writes, w ∈ s.mem.writes ∧ w.cycle ≠ c)) ∧
    (viewBlocks s c = true →
      Answers .cycleCommit s (fun t => OnlyFields s t [F.ARY_VIEW_STATUS_FULL] ∧ getB t F.ARY_VIEW_STATUS_FULL = true)) ∧
    (canCommit s c = false → viewBlocks s c = false → Answers .cycleCommit s (fun t => t = s))

/-- A READ's return (R189, R194, R199): a READ of tile RAM or of the exchange RAM in flight that is old enough, before whose
step no WRITE is still to be issued, whose target's word reads clean, and for which the log has room reaches the memory-read
bits that still record it, with the bits that the target and the WRITEs before it give, and is in flight no more. -/
def Obligations.MemoryReturnReachesItsBits : Prop :=
  ∀ (s : State) (rid : Nat) (r : MRead),
    let d : Fin 4 := Fin.ofNat 4 r.die
    s.mem.reads.find? (fun q => q.rid = rid) = some r → s.mem.stalled.contains rid = false →
    (r.target = 0 ∧ 6 ≤ r.age ∨ r.target = 2) → writesIssued s r = true → r.data = none → logRoom s = true →
    Answers (.memoryReturn rid ⟨.clean, false⟩) s (fun t =>
      t.dies[d].mrd = applyReturn { r with data := some (readBits s r) } s.dies[d].mrd ∧ DiesBut s t d ∧
      (∀ q ∈ t.mem.reads, q.rid ≠ rid) ∧ t.mem.tram = s.mem.tram ∧ t.mem.exr = s.mem.exr ∧ t.mem.hbm = s.mem.hbm)

/-- A crossing value's arrival (R101, R103, R105): the oldest value in flight from one die to another on a channel joins the
channel's buffer on the receiving die with its tag and its value, and is in flight no more; nothing arrives where nothing is
in flight. -/
def Obligations.CrossingArrivalJoinsItsBuffer : Prop :=
  ∀ (s : State) (src dst : Fin 4) (chan : Fin 1024),
    let k := (3 - (dst.val + 4 - src.val) % 4) * 0x400 + chan.val
    (∀ f rest, takeFlight s.mem.flights src dst k = some (f, rest) →
      Answers (.crossingArrival src dst chan .clean) s (fun t => t.mem.flights = rest ∧
        t.dies[dst].chans.get [] k = s.dies[dst].chans.get [] k ++ [⟨f.tag, f.val, true, false, f.sent⟩] ∧
        (∀ j, j ≠ k → t.dies[dst].chans.get [] j = s.dies[dst].chans.get [] j) ∧ DiesBut s t dst ∧
        t = { s with dies := t.dies, mem := { s.mem with flights := rest } })) ∧
    (takeFlight s.mem.flights src dst k = none →
      ∀ e, Answers (.crossingArrival src dst chan e) s (fun t => t = s))

/-- The decision of a boundary hold (R121, R122).  Where it is due, once for a cycle, from 16 steps before the boundary step
of the hold on, the decision goes on record for the cycle, and no die freezes by it: the hub announces a commit wait (source
5) or a host write (source 6) whose cause stands for that boundary step, in place of earlier announcements of that source,
and withdraws an announcement for that boundary step where the cause does not stand.  Where it is not due nothing happens.
A freeze order (R116, R126, R127), while another die is frozen: a running die freezes at the step it is at.  Nothing of the step under way lands, its
step count stays and shows in ARY_FROZEN_STEP, its bit of DIE_FROZEN is set, and the machine is HELD.  An order that reaches
a frozen die changes nothing. -/
def Obligations.BoundaryHoldsAreAnnouncedAndDiesFreeze : Prop :=
  (∀ (s : State) (h : BoundaryHold),
     let c := cycleOf s (sigmaMax s)
     let n := holdSource h
     let target := c * cycleSteps s + stepsS s + holdStep h
     (decisionDue s h = true → Answers (.boundaryHoldDecision h) s (fun t =>
       t.dies = s.dies ∧ t.regs = s.regs ∧ decidedTo t h = c + 1)) ∧
     (decisionDue s h = true → h = .commitWait ∨ h = .hostWrite → holdCause s h c = true →
       Answers (.boundaryHoldDecision h) s (fun t =>
         t.holds.announced = s.holds.announced.filter (fun a => a.1 ≠ n) ++ [(n, target)] ∧ t = { s with holds := t.holds })) ∧
     (decisionDue s h = true → h = .commitWait ∨ h = .hostWrite → holdCause s h c = false →
       Answers (.boundaryHoldDecision h) s (fun t =>
         t.holds.announced = s.holds.announced.filter (fun a => a ≠ (n, target)) ∧ t = { s with holds := t.holds })) ∧
     (decisionDue s h = false → Answers (.boundaryHoldDecision h) s (fun t => t = s))) ∧
  (∀ (s : State) (d : Fin 4),
     let kept := { Stage.empty with done := s.dies[d].stage.done.filter (fun k => k = boundaryKey) }
     (executing s = true → s.dies[d].frozen = false → anyFrozen s = true →
       Answers (.freezeOrder d) s (fun t =>
         t.dies[d] = { s.dies[d] with frozen := true, freezeAt := none, stage := kept } ∧ DiesBut s t d ∧
         getF t (F.ARY_FROZEN_STEP_SIGMA d) = s.dies[d].sigma % 2 ^ 32 ∧
         (getF t F.ARY_HOLD_STATUS_DIE_FROZEN).testBit d = true ∧ emState t = 3)) ∧
     (s.dies[d].frozen = true → Answers (.freezeOrder d) s (fun t => t = s)))

/-- The release of an announced hold (R123): four step periods after the last die froze, a hold of source 5, 6, 8 or 10
leaves force where its cause has cleared and stays where it has not, while source 4 is not in force; before that nothing is
released.  No die resumes by it.
Resume (R130, R131): on an executing device alone that is ready, with no resume under way, the hub releases the frozen dies
with the lowest step count and no other.  A device that is not ready stays as it is.
REQUEST and RELEASE of ARY_HOLD_CTRL (R125): in an executing machine with no user hold and no march test, a REQUEST in MODE 0 makes the hold
pending and announces it, 16 steps beyond the most advanced die while one runs; a RELEASE leaves no user hold pending or
active.  The dies stay as they are. -/
def Obligations.HoldsEndAndDiesResume : Prop :=
  (∀ s : State,
     (allFrozen s = true → 4 ≤ s.holds.frozenSteps → ∀ n ∈ [5, 6, 8, 10], sourceOn s 4 = false → sourceOn s n = true →
       Answers .announcedHoldRelease s (fun t => sourceOn t n = causeStands s n ∧ t.dies = s.dies)) ∧
     (s.holds.frozenSteps < 4 → Answers .announcedHoldRelease s (fun t => t = s))) ∧
  (∀ s : State,
     (executing s = true → deviceReady s = true → multi s = false → s.holds.resuming = none →
       Answers .resume s (fun t => ∀ d : Fin 4, t.dies[d].frozen = decide (sigmaMin s < s.dies[d].sigma) ∧
         t.dies[d].sigma = s.dies[d].sigma ∧ t.dies[d].regBits = s.dies[d].regBits)) ∧
     (deviceReady s = false → Answers .resume s (fun t => t = s))) ∧
  (∀ (s : State) (v : Word), emState s = 2 ∨ emState s = 3 → marchHolds s = false →
     (v.getLsbD 0 = true → v.getLsbD 1 = false → v.getLsbD 2 = false → userHeld s = false → allFrozen s = false →
       Answers (.request v) s (fun t => getB t F.ARY_HOLD_CTRL_PENDING = true ∧ getB t F.ARY_HOLD_CTRL_ACTIVE = false ∧
         t.holds.announced = s.holds.announced ++ [(7, sigmaMax s + 16)] ∧ t.dies = s.dies)) ∧
     (v.getLsbD 0 = false → v.getLsbD 1 = true →
       Answers (.release v) s (fun t => getB t F.ARY_HOLD_CTRL_PENDING = false ∧ getB t F.ARY_HOLD_CTRL_ACTIVE = false ∧
         t.dies = s.dies ∧ (allFrozen s = true → ∀ a ∈ t.holds.announced, a.1 ≠ 7))))

/-- SF_STARVED (R138, R24): once the late timer has reached LATE_LIMIT the device raises the fault that names the oldest
absent item: code 0x0B, on a die whose vote for the fault's cycle becomes bad and which executes no further step.  Before
that, or with LATE_LIMIT off, nothing is raised.
A Schedule Fault halts the machine (R29, R30): with every die at rest and no earlier cycle left to commit, the machine
enters FAULTED with HALT set and every die at the last committed boundary, released; no Schedule Fault stays under
resolution.  While an earlier cycle can still commit nothing happens. -/
def Obligations.ScheduleFaultsHaltTheMachine : Prop :=
  (∀ s : State,
     (∀ l d f, lateLimit s = some l → l ≤ s.holds.lateTimer → starvedFault s = some (d, f) →
       Answers .sfStarved s (fun t => f.code = 0x0B ∧ t.run.sfaults = s.run.sfaults ++ [f] ∧
         t.run.votes.get none (f.cycle * 4 + d) = some (some false) ∧ t.dies[d].faulted = true ∧
         getB t F.FLT_STATUS_SCHED = true ∧ DiesBut s t d)) ∧
     ((match lateLimit s with | some l => decide (s.holds.lateTimer < l) | none => true) = true →
       Answers .sfStarved s (fun t => t = s))) ∧
  (∀ s : State, executing s = true → s.run.sfaults ≠ [] → allQuiet s = true →
     (earlierPending s (faultCycle s) = false → Answers .scheduleFaultHalt s (fun t =>
       emState t = 5 ∧ getB t F.FLT_STATUS_HALT = true ∧ t.run.sfaults = [] ∧
       ∀ d : Fin 4, t.dies[d].sigma = s.run.nextCommit * cycleSteps s ∧ t.dies[d].frozen = false)) ∧
     (earlierPending s (faultCycle s) = true → Answers .scheduleFaultHalt s (fun t => t = s)))

/-- Hold accounting (R144): CLEAR zeroes every episode, time and step count, the skew and the events at one instant and
nothing else; a read of a _LO register answers it and captures the _HI half, which the next read of the _HI register
returns, and no later one. -/
def Obligations.HoldCountsAreClearedAndCaptured : Prop :=
  ∀ (s : State),
    (∀ v : Word, v.getLsbD 0 = true → Answers (.clear v) s (fun t =>
      (∀ n : Fin 12, getF t (F.ARY_SRC_NS_LO_COUNT n) = 0 ∧ getF t (F.ARY_SRC_NS_HI_COUNT n) = 0 ∧
        getF t (F.ARY_SRC_EPISODES_COUNT n) = 0) ∧
      getF t F.ARY_HELD_NS_LO_COUNT = 0 ∧ getF t F.ARY_HELD_NS_HI_COUNT = 0 ∧ getF t F.ARY_EXEC_STEPS_LO_COUNT = 0 ∧
      getF t F.ARY_EXEC_STEPS_HI_COUNT = 0 ∧ getF t F.ARY_SKEW_MAX_MACHINE = 0 ∧ getF t F.ARY_SKEW_MAX_DEVICE = 0 ∧
      getF t F.ARY_HOLD_EVENTS_SEEN = 0 ∧ OnlyFields s t ([F.ARY_HELD_NS_LO_COUNT, F.ARY_HELD_NS_HI_COUNT,
        F.ARY_EXEC_STEPS_LO_COUNT, F.ARY_EXEC_STEPS_HI_COUNT, F.ARY_SKEW_MAX_MACHINE, F.ARY_SKEW_MAX_DEVICE,
        F.ARY_HOLD_EVENTS_SEEN] ++ (List.range 12).flatMap (fun n => [F.ARY_SRC_NS_LO_COUNT n, F.ARY_SRC_NS_HI_COUNT n,
        F.ARY_SRC_EPISODES_COUNT n])))) ∧
    (∀ (path : RegPath) (addr : BitVec 20), isCountLo addr.toNat = true → Answers (.countLoRead path addr) s (fun t =>
      t.outs = s.outs ++ [.readValue (pathCode path) (plainReg s addr.toNat)] ∧
      t.capHi.get none ((addr.toNat + 4) * 16 + anyPath) = some (plainReg s (addr.toNat + 4)) ∧
      t = { s with outs := t.outs, capHi := t.capHi })) ∧
    (∀ (path : RegPath) (addr : BitVec 20) (x : Nat), isCountLo addr.toNat = true →
      s.capHi.get none ((addr.toNat + 4) * 16 + anyPath) = some x →
      Answers (.registerRead path (addr + 4) 0x0F 4) s (fun t => t.outs = s.outs ++ [.readValue (pathCode path) x] ∧
        t.regs = s.regs ∧ t.capHi.get none ((addr.toNat + 4) * 16 + anyPath) = none))

/-- A detected fault and its recovery (R24, R471 to R475).  A die that detects a fault other than a Schedule Fault votes bad
for the cycle that it is charged to and is to freeze at the next step, and the device is in a recovery.  With every die at rest, no earlier cycle
left to commit and the replay limit not reached, the restore puts every die at step 0 of the first uncommitted cycle,
frozen.  Once the restore is complete, the die PLLs are locked and neither a user hold nor source 8 stands, a device alone releases its
dies there. -/
def Obligations.FaultIsReplayedFromTheCommittedBoundary : Prop :=
  ∀ s : State, executing s = true →
    (∀ (d : Fin 4) (p : Fin 64) (n : Fin 32) (j : Fin 64), Answers (.faultReplay d (.dualRail p n j)) s (fun t =>
      t.run.votes.get none (chargedCycle s d * 4 + d) = some (some false) ∧ t.run.replay.isSome = true ∧
      getB t F.FLT_STATUS_REPLAYING = true ∧ (∃ a, t.dies[d].freezeAt = some a ∧ a ≤ s.dies[d].sigma + 1) ∧
      t.dies[d].regBits = s.dies[d].regBits ∧ DiesBut s t d)) ∧
    (∀ r : Replay, s.run.replay = some r → r.halt = none → allQuiet s = true → s.run.sfaults = [] →
      earlierPending s r.cycle = false → s.run.replayed.1 ≠ r.cycle →
      Answers .restoreBoundary s (fun t => ∀ d : Fin 4, t.dies[d].sigma = s.run.nextCommit * cycleSteps s ∧
        t.dies[d].cycle = s.run.nextCommit ∧ t.dies[d].frozen = true ∧ t.dies[d].pendLatch = [])) ∧
    (∀ r : Replay, s.run.replay = some r → r.restored = true → diePllsLocked s = true → multi s = false →
      getB s F.ARY_HOLD_CTRL_ACTIVE = false → getB s F.ARY_HOLD_CTRL_PENDING = false → sourceOn s 8 = false →
      Answers .replayRelease s (fun t => t.run.replay = none ∧ sourceOn t 9 = false ∧
        getB t F.FLT_STATUS_REPLAYING = false ∧
        ∀ d : Fin 4, t.dies[d].frozen = false ∧ t.dies[d].sigma = s.dies[d].sigma))

/-- The retirement of a tile and the sparing of a lane (R114, R115, R478, R479) in a machine that executes nothing and with
no march test.  GO of FLT_RETIRE rebinds the named active position to the lowest free spare tile, and so does a tile with
three tile faults within a second, where RETIRE_EN is set; the old tile serves no more.  A lane group with parity errors in three cycles within a
second has its failing lane replaced by the lowest free spare lane, and its count restarts.
A tile scrubber's read (R468, R469): a corrected word of an instruction, port-sequencer, function, crossing or schedule
memory, or of tile RAM, is written back and counted; an uncorrectable one of the former stays so until a fetch meets it; a
clean one changes nothing.  An upset of a word of one of the former, or of a CVS group, stands in it from then on. -/
def Obligations.SparesReplaceAndScrubsWriteBack : Prop :=
  (∀ (s : State) (d : Fin 4), executing s = false → s.ctl.march = none →
     (∀ (p : Fin 64) (spare : Nat) (more : List Nat), freeSpares s d = spare :: more → p < activePositions s →
       s.run.retire = none → Answers (.go (BitVec.ofNat 32 (2 ^ 31 + d.val * 2 ^ 8 + p))) s (fun t =>
         physTile t.dies[d] p = spare ∧ t.dies[d].badTiles = s.dies[d].badTiles ++ [physTile s.dies[d] p] ∧
         DiesBut s t d)) ∧
     (∀ (phys : Fin 66) (p : Nat) (spare : Nat) (more : List Nat), freeSpares s d = spare :: more →
       positionOf s d phys = some p → s.run.retire = none → getB s F.FLT_CTRL_RETIRE_EN = true → tileFailing s d phys = true →
       Answers (.tileRetirement d phys true) s (fun t => physTile t.dies[d] p = spare ∧
         t.dies[d].badTiles = s.dies[d].badTiles ++ [physTile s.dies[d] p] ∧ DiesBut s t d)) ∧
     (∀ (g : Fin 512) (k : Fin 16) (i : Nat) (more : List Nat), s.run.sparing = none → groupFailing s d g = true →
       freeLanes s d = i :: more → Answers (.laneSparing d g (some k)) s (fun t =>
         t.dies[d].spareMap.get none i = some (16 * g.val + k.val) ∧ t.dies[d].parityTimes.get [] g = [] ∧ DiesBut s t d))) ∧
  (∀ (s : State) (d : Fin 4) (phys : Fin 66) (w : TileWord) (p : Nat),
     let m := w.mem.toNat
     let k := eccKey m p w.word.toNat
     positionOf s d phys = some p → s.dies[d].ecc.get .clean k = .clean →
     (m ∈ [0, 1, 2, 4, 5, 6] → Answers (.tileScrub d phys w .corrected none) s (fun t =>
       t.dies[d].ecc.get .clean k = .clean ∧ getF t F.FLT_CE_TILE_COUNT =
         saturate F.FLT_CE_TILE_COUNT.width (getF s F.FLT_CE_TILE_COUNT + 1) ∧ DiesBut s t d)) ∧
     (m ∈ [0, 1, 2, 4, 5] → Answers (.tileScrub d phys w .uncorrectable none) s (fun t =>
       t.dies[d].ecc.get .clean k = .uncorrectable ∧ t.regs = s.regs ∧ DiesBut s t d)) ∧
     Answers (.tileScrub d phys w .clean none) s (fun t => t = s) ∧
     (∀ (u : TileWord × Ecc), u.1.mem.toNat < 6 → Answers (.tileScrub d phys w .clean (some u)) s (fun t =>
       t.dies[d].ecc.get .clean (eccKey u.1.mem.toNat p u.1.word.toNat) = u.2 ∧ t.regs = s.regs ∧ DiesBut s t d)))

/-- RUN, STOP and CONTINUE_AFTER_FAULT_CLEAR of the owning session (R31 to R33) on a device alone, with no RUN or STOP
outstanding, no Hallmark being restored and no descriptor waiting.  RUN of `n` cycles from LOADED or STOPPED, on a device that is not too hot, begins to execute with the boundary
that it is to reach; STOP (next) in an executing machine waits for the boundary of the cycle in progress, and rests there at once
where that is committed already; STOP (at committed)
abandons the uncommitted cycles and rests in STOPPED at the last committed boundary; CONTINUE_AFTER_FAULT_CLEAR leaves
FAULTED for STOPPED once HALT is clear. -/
def Obligations.RunControlDescriptorsAct : Prop :=
  ∀ (s : State) (d : Desc), DescRuns s d → isOwner s d = true → s.run.restore = none → s.run.waiting = [] → s.run.run = none →
    s.run.stops = [] → multi s = false →
    (∀ (n : DWord), n ≠ 0 → emState s = 1 ∨ emState s = 4 → s.clk.hot = false →
      Answers (.run d n false) s (fun t => emState t = 2 ∧ t.run.nextCommit = s.run.nextCommit ∧
        t.run.run = some ⟨d, some (s.run.nextCommit + n.toNat - 1)⟩ ∧ t.dies = s.dies)) ∧
    (executing s = true → s.run.nextCommit ≤ currentCycle s →
      Answers (.stopNext d) s (fun t => t.run.stops = [⟨d, currentCycle s⟩] ∧ t.dies = s.dies ∧ t.regs = s.regs ∧
        t.outs = s.outs)) ∧
    (executing s = true → s.run.nextCommit = currentCycle s + 1 →
      Answers (.stopNext d) s (fun t => t.run.stops = [] ∧ emState t = 4 ∧ t.run.nextCommit = s.run.nextCommit)) ∧
    (executing s = true → Answers (.stopAtCommitted d) s (fun t => emState t = 4 ∧
      t.run.nextCommit = s.run.nextCommit ∧
      ∀ e : Fin 4, t.dies[e].sigma = s.run.nextCommit * cycleSteps s ∧ t.dies[e].frozen = false)) ∧
    (emState s = 4 → Answers (.stopAtCommitted d) s (fun t =>
      Posts s t d [] stOK (boundaryResult s.run.nextCommit) ∧ t.run = s.run ∧ t.dies = s.dies)) ∧
    (emState s = 5 → getB s F.FLT_STATUS_HALT = false →
      Answers (.continueAfterFaultClear d) s (fun t => Posts s t d [] stOK (boundaryResult s.run.nextCommit) ∧
        emState t = 4 ∧ t.run = s.run ∧ t.dies = s.dies))

/-- Descriptors of any session: NOP completes OK (R311); a run-control descriptor of a session that does not own the loaded
Ingot completes with WRONG_OWNER and does nothing else (R31); a descriptor whose generation is not its session's is counted
as stale and has no effect (R307).
A run-control descriptor that waits (R622): once no RESTORE runs, the first of those that wait is accepted, a STOP (next)
also while a HALLMARK runs, and the others wait on; a HALLMARK or a RESTORE waits while a HALLMARK runs, and every one while a
RESTORE runs. -/
def Obligations.DescriptorsWaitOrDoNotAct : Prop :=
  (∀ (s : State) (d : Desc),
     (DescRuns s d → Answers (.descriptorNop d) s (fun t =>
       Posts s t d [] stOK 0 ∧ t = { s with host := t.host, outs := t.outs })) ∧
     (DescRuns s d → isOwner s d = false → ∀ (n : DWord) (u : Bool),
       ∀ c ∈ [Instr.run d n u, .stopNext d, .stopAtCommitted d, .continueAfterFaultClear d], Answers c s (fun t =>
         Posts s t d [] stWrongOwner 0 ∧ t = { s with host := t.host, outs := t.outs })) ∧
     (descStale s d = true → ∀ (n : DWord) (u : Bool),
       ∀ c ∈ [Instr.run d n u, .stopNext d, .stopAtCommitted d, .continueAfterFaultClear d, .descriptorNop d],
       Answers c s (fun t => t = { s with host := t.host, regs := t.regs } ∧
         getF t F.HST_STALE_DESCRIPTORS = saturate F.HST_STALE_DESCRIPTORS.width (getF s F.HST_STALE_DESCRIPTORS + 1)))) ∧
  (∀ (s : State) (d : Desc) (more : List Instr),
     (s.run.waiting = .stopNext d :: more → isOwner s d = true → s.run.restore = none → executing s = true →
       s.run.nextCommit ≤ currentCycle s → s.run.stops = [] → s.run.run = none →
       Answers .waitingDescriptorAccept s (fun t => t.run.waiting = more ∧ t.run.stops = [⟨d, currentCycle s⟩])) ∧
     (s.run.restore.isSome = true → Answers .waitingDescriptorAccept s (fun t => t = s)) ∧
     (∀ (dest : Byte) (b : HostBuffer) (addr len : DWord) (image : Option (List Byte)), s.run.hallmark.isSome = true →
       s.run.waiting = .hallmark d dest b len :: more ∨ s.run.waiting = .restore d dest addr len image :: more →
       Answers .waitingDescriptorAccept s (fun t => t = s)))

/-- CAPTURE and its end (R400, R401) on a device alone: an accepted CAPTURE on a machine at rest stores the snapshot image of the visible
boundary in its window at once, and on an executing machine waits for the next boundary to commit; when its image is written
it completes OK with the boundary, which ASY_SNAP_LAST shows. -/
def Obligations.CaptureStoresOneBoundary : Prop :=
  ∀ (s : State) (d : Desc),
    (∀ (f : Bool) (w : Fin 16) (off : DWord), DescRuns s d → isOwner s d = true → s.run.restore = none →
      s.run.waiting = [] → multi s = false → s.asy.capture = none → captureStatus s f w off.toNat = none →
      Answers (.capture d 0 f w off) s (fun t => t.dies = s.dies ∧
        if restsVisible s then t.asy.capture = some ⟨d, f, w, off.toNat, some s.run.nextCommit, []⟩ ∧
          t.mem.hbm = (winStore s w off.toNat (snapshotLength s f) (snapshotImage s s.run.nextCommit f)).mem.hbm
        else t.asy.capture = some ⟨d, f, w, off.toNat, none, []⟩ ∧ t.mem = s.mem)) ∧
    (∀ (f : Bool) (w off nb : Nat), (session s d.session).state = 1 → descStale s d = false →
      s.asy.capture = some ⟨d, f, w, off, some nb, []⟩ → s.asy.captures = [] →
      Answers .captureComplete s (fun t => Posts s t d [] stOK (boundaryResult nb) ∧ t.asy.capture = none ∧
        getF t F.ASY_SNAP_LAST_LO_CYCLE = boundaryResult nb % 2 ^ 32 ∧ t.mem = s.mem ∧ t.dies = s.dies))

/-- FETCH (R403): a range of a window of the source's owner, aligned, within the window, not sealed and read back clean, goes to the host
buffer, and FETCH completes OK; where the host refuses the bytes it completes with HOST_FAULT.  Nothing else changes. -/
def Obligations.FetchCopiesAWindowRange : Prop :=
  ∀ (s : State) (d : Desc) (source : Byte) (w : Fin 16) (off addr len : DWord), DescRuns s d → source.toNat ≤ 1 →
    getB s F.LDR_OWNER_VALID = false ∨ isOwner s d = true → winOwned s w (source.toNat + 1) = true →
    off.toNat + len.toNat ≤ winSize s w → off.toNat % 8 = 0 → len.toNat % 8 = 0 → len.toNat ≤ 2 ^ 32 → addr.toNat % 8 = 0 →
    source = 0 ∨ fetchSealed s w off.toNat len.toNat = false → winErrors s w off.toNat len.toNat = [] →
    Answers (.fetch d 0 source w off addr len true) s (fun t => t = { s with host := t.host, outs := t.outs } ∧
      Posts s t d [.hostImage addr.toNat len.toNat (winSlice s w off.toNat len.toNat)] stOK 0) ∧
    Answers (.fetch d 0 source w off addr len false) s (fun t => t = { s with host := t.host, outs := t.outs } ∧
      Posts s t d [] stHostFault 0)

/-- HALLMARK and its end (R484, R485, R319) on a device alone: an accepted HALLMARK sets HM_BUSY, and takes the visible boundary
at once where the machine rests, unless it is for a host buffer and a view of another boundary is open, and a later one
otherwise; a Hallmark that is complete is written to its slot or host buffer with its commit record, HM_BUSY clears, and it
completes OK with its boundary, or with HOST_FAULT where the host refuses the buffer. -/
def Obligations.HallmarkTakesAndWritesOneBoundary : Prop :=
  ∀ (s : State) (d : Desc),
    (∀ (dest : Byte) (b : HostBuffer) (len : DWord), DescRuns s d → isOwner s d = true → s.run.restore = none → s.run.hallmark = none →
      s.run.waiting = [] → multi s = false → hallmarkStatus s dest.toNat b.address.toNat len.toNat = none →
      Answers (.hallmark d dest b len) s (fun t => getB t F.FLT_STATUS_HM_BUSY = true ∧ t.dies = s.dies ∧
        ∃ h, t.run.hallmark = some h ∧ h.desc = d ∧ h.dest = dest.toNat ∧ h.buffer = b ∧
          h.next = if restsVisible s && (dest != 2 || viewFree s) then some s.run.nextCommit else none)) ∧
    (∀ h : HallmarkReq, (session s d.session).state = 1 → descStale s d = false → s.run.hallmark = some h → h.desc = d →
      h.dest ≤ 2 → h.fabric = false → h.waits = [] → s.design.waiting = [] → ∀ nb, h.next = some nb →
      Answers .hallmarkComplete s (fun t => t.run.hallmark = none ∧ getB t F.FLT_STATUS_HM_BUSY = false ∧
        t.dies = s.dies ∧
        if h.dest < 2 then Posts s t d [] stOK (boundaryResult nb)
        else t.mem = s.mem ∧
          if h.buffer.takes then
            ∃ cells, Posts s t d [.hostImage h.buffer.address.toNat (4096 + h.length) cells] stOK (boundaryResult nb)
          else Posts s t d [] stHostFault 0))

/-- RESTORE and its end (R489, R490) on a device alone: a RESTORE from a slot that passes every check holds the device in RESTORING with the
dies as they are; one whose slot fails a check completes with WRONG_STATE and the check's reason.  When a restore is complete
the machine is STOPPED with every die at step 0 of the cycle after the Hallmark's, none frozen, and it completes OK. -/
def Obligations.RestoreRestsAtTheHallmarksBoundary : Prop :=
  ∀ (s : State) (d : Desc), multi s = false →
    (∀ (source : Byte) (addr len : DWord) (bytes : Option (List Byte)),
      let r := slotRecord s source.toNat
      let image := winSlice s (hmWindow s) (slotOffset s source.toNat + 4096) (leAt r 24 8)
      DescRuns s d → isOwner s d = true → s.run.restore = none → s.run.hallmark = none → s.run.waiting = [] →
      source.toNat ≤ 1 →
      restoreStatus s source.toNat addr.toNat len.toNat = none →
      Answers (.restore d source addr len bytes) s (fun t => t.dies = s.dies ∧ t.mem = s.mem ∧
        match restoreReason s source.toNat image with
        | some x => Posts s t d [] stWrongState x ∧ t.run.restore = none
        | none => t.run.restore = some ⟨d, image, leAt r 16 8, leAt r 8 8, source.toNat, []⟩ ∧ getB t F.FLT_STATUS_RESTORING = true)) ∧
    (∀ r : RestoreReq, s.run.restore = some r → r.waits = [] → (session s r.desc.session).state = 1 → descStale s r.desc = false →
      Answers .restoreComplete s (fun t => Posts s t r.desc [] stOK r.cycle ∧ emState t = 4 ∧ t.run.restore = none ∧
        t.run.nextCommit = (r.cycle + 1) % 2 ^ 64 ∧ ∀ e : Fin 4, t.dies[e].frozen = false ∧
          t.dies[e].cycle = (r.cycle + 1) % 2 ^ 64 ∧ t.dies[e].sigma = (r.cycle + 1) % 2 ^ 64 * cycleSteps s))

/-- DESIGN_READ and DESIGN_WRITE outside a group (R35 to R39, R207, R319), of state that this device holds: a read that may be
served opens a view of the last committed boundary and takes its data there; a write that may be served is staged while the
machine executes, and at rest takes effect on the visible boundary at once and completes OK; one whose buffer the device cannot
read completes with HOST_FAULT and has no effect; either completes with the status of R207 that it meets.
The ends of design-state requests (R37, R38, R210): the data of the reads of a view goes to the host, they complete OK with
the view's boundary, and the view closes; a staged write to the exchange RAM is applied in the hold of source 6, with every die
frozen and the first of them at B1 of the cycle in progress, as a WRITE of that cycle that comes after every design WRITE. -/
def Obligations.DesignStateRequestsAreServedAndEnd : Prop :=
  (∀ (s : State) (d : Desc) (address length buffer : DWord) (data : List Byte), DescRuns s d →
     let r := newReq none d false address.toNat length.toNat buffer.toNat []
     let w := newReq none d true address.toNat length.toNat buffer.toNat data
     let nb := s.run.nextCommit
     (∀ st, designStatus s r = some st → Answers (.designRead d address length buffer) s (fun t =>
       Posts s t d [] st 0 ∧ t.design = s.design ∧ t.mem = s.mem ∧ t.dies = s.dies)) ∧
     (designStatus s r = none → s.design.view = none → isLocal s r = true →
       Answers (.designRead d address length buffer) s (fun t => t.outs = s.outs ∧
         getB t F.ARY_VIEW_STATUS_OPEN = executing s ∧ t.design.view = some ⟨nb,
           [{ r with image := designData s nb r, result := boundaryResult nb, ready := true }], [], false⟩)) ∧
     (∀ st, designStatus s w = some st → Answers (.designWrite d address length buffer (some data)) s (fun t =>
       Posts s t d [] st 0 ∧ t.design = s.design ∧ t.mem = s.mem ∧ t.dies = s.dies)) ∧
     (designStatus s w = none → length.toNat ≤ 2 ^ 28 → executing s = true → isLocal s w = true →
       Answers (.designWrite d address length buffer (some data)) s (fun t =>
         t.design.writes = s.design.writes ++ [⟨[w], none, false⟩] ∧ t.mem = s.mem ∧ t.dies = s.dies ∧ t.outs = s.outs)) ∧
     (designStatus s w = none → length.toNat = 8 → executing s = false → spaceOf address.toNat = 3 → isLocal s w = true →
       Answers (.designWrite d address length buffer (some data)) s (fun t =>
         Posts s t d [] stOK (boundaryResult nb) ∧
         t.mem = (targetWrite s 4 0 2 0 (offsetOf address.toNat * 8) (leAt data 0 8) 64).mem)) ∧
     (designStatus s w = none → length.toNat ≤ 2 ^ 28 →
       Answers (.designWrite d address length buffer none) s (fun t =>
         Posts s t d [] stHostFault 0 ∧ t.design = s.design ∧ t.mem = s.mem ∧ t.dies = s.dies))) ∧
  (∀ (s : State) (r : DesignReq),
     (∀ v : View, s.design.view = some v → v.reads = [r] → v.exports = false → s.design.waiting = [] →
       s.run.hallmark = none → r.origin = none → r.ready = true → r.status = stOK → r.result = boundaryResult v.next →
       (session s r.desc.session).state = 1 → descStale s r.desc = false →
       Answers (.designReadComplete []) s (fun t => t.design.view = none ∧ getB t F.ARY_VIEW_STATUS_OPEN = false ∧
         Posts s t r.desc [.hostImage r.buffer r.length r.image] stOK (boundaryResult v.next) ∧ t.mem = s.mem)) ∧
     (let k := currentCycle s
       let sigma := k * cycleSteps s + stepsS s + 1
       executing s = true → sourceOn s 6 = true → allFrozen s = true → sigmaMax s = sigma →
       s.design.writes = [⟨[r], none, false⟩] → spaceOf r.address = 3 → isLocal s r = true → r.length = 8 →
       Answers .hostWriteApply s (fun t => t.design.writes = [⟨[r], some k, true⟩] ∧ t.dies = s.dies ∧
         t.mem.writes = s.mem.writes ++ [⟨4, 0, 16, 2, 0, offsetOf r.address * 8, 64, leAt r.data 0 8, sigma, k, true⟩])))

/-- Port B of the exchange RAM as the host and the cores reach it (R202 to R204): a write with byte enables in a clock in which
port A writes nothing stores exactly the enabled bytes, and a word that port A writes with other data is discarded and
recorded; a read answers the bytes, those of a word that port A has written in the same clock as they were before, and is
poisoned where a word of them is uncorrectable.  The SPI port does not reach it. -/
def Obligations.ExchangeRamPortBReadsAndWrites : Prop :=
  ∀ (s : State) (off : BitVec 20) (path : RegPath),
    (∀ bs : List (Option Byte), path ≠ .spi → s.mem.portA = [] → off.toNat + bs.length ≤ 0x100000 →
      Answers (.exchangeRamPortBWrite path off bs) s (fun t =>
        t = { s with mem := { s.mem with exr := t.mem.exr, before := t.mem.before } } ∧
        ∀ x, Memory.read marchFill t.mem.exr x =
          if off.toNat ≤ x then (bs.getD (x - off.toNat) none).getD (Memory.read marchFill s.mem.exr x)
          else Memory.read marchFill s.mem.exr x)) ∧
    (∀ (w : Nat) (b c : Byte) (more : List (Option Byte)), path ≠ .spi → off.toNat = 8 * w →
      s.mem.portA = [(w, some c :: more)] → b ≠ c →
      Answers (.exchangeRamPortBWrite path off [some b]) s (fun t => t.mem = s.mem ∧
        getB t F.ARY_EXR_STATUS_COLLISION = true ∧ getF t F.ARY_EXR_COLL_ADDR_WORD = w % 2 ^ F.ARY_EXR_COLL_ADDR_WORD.width)) ∧
    (∀ (n : Nat) (e : Ecc), path ≠ .spi → off.toNat + n ≤ 0x100000 →
      Answers (.exchangeRamPortBRead path off n e) s (fun t => t = { s with outs := s.outs ++
        [if e = .uncorrectable then .answer (pathCode path) 5
          else .readValue (pathCode path) (leNat ((List.range n).map (fun i => portBByte s (off.toNat + i))))] })) ∧
    (∀ (n : Nat) (e : Ecc) (bs : List (Option Byte)), Answers (.exchangeRamPortBRead .spi off n e) s (fun t => t = s) ∧
      Answers (.exchangeRamPortBWrite .spi off bs) s (fun t => t = s))

/-- The scratch banks as the host and the cores reach them, and atomic operations (R303, R522, R530, R531): a write stores
exactly the enabled bytes; a read answers the bytes; FetchAdd and Swap answer the old value, to a core extended by its sign, and
leave the sum, or the operand, in its place, and no other byte changes; the CAS of the host is answered with Completer Abort and
changes nothing.
The AMOs, LR and SC of a core in its local memory and the firmware SRAM (R522), a word of 4 or 8 bytes at an aligned
address: an AMO returns the old value extended by its sign and leaves its result in the word; LR returns the value and reserves
the word; SC stores and returns 0 where the core's reservation of the word stands, changes nothing and returns 1 where it does
not, and ends the reservation.  An address that is not aligned is an exception, with no other effect.
The reserved range of the memory window (R302): a write to it is dropped and recorded; any other access is recorded and
answered with Unsupported Request. -/
def Obligations.ScratchBanksAndReservedRangeAct : Prop :=
  (∀ (s : State),
     (∀ (site : BankSite) (bs : List (Option Byte)) (n : Nat) (e : Ecc), site.path ≠ .spi →
       let off := site.offset
       off.toNat + bs.length ≤ 0x2000000 → Answers (.scratchBankAccess site (some bs) n e) s (fun t =>
         t = { s with ctl := { s.ctl with scratch := t.ctl.scratch } } ∧
         ∀ x, Memory.read marchFill t.ctl.scratch x =
           if off.toNat ≤ x then (bs.getD (x - off.toNat) none).getD (Memory.read marchFill s.ctl.scratch x)
           else Memory.read marchFill s.ctl.scratch x)) ∧
     (∀ (site : BankSite) (n : Nat), site.path ≠ .spi → site.offset.toNat + n ≤ 0x2000000 →
       Answers (.scratchBankAccess site none n .clean) s (fun t => t = { s with outs := s.outs ++
         [.readValue (pathCode site.path) (leNat (Memory.readBytes marchFill s.ctl.scratch site.offset.toNat n))] })) ∧
     (∀ (site : AtomicSite) (off : Nat) (wide : Bool) (v : DWord),
       let n := if wide then 8 else 4
       let old := leNat (Memory.readBytes marchFill s.ctl.scratch off n)
       let answer := match site with
         | .host _ => Out.readValue 0 old
         | .core c _ => .readValue (2 + c.val) (extended n old)
       let place := match site with
         | .host o => o.toNat = 0x2000000 + off
         | .core _ a => a.toNat = 0x20000000 + off
       place → off % n = 0 → off + n ≤ 0x2000000 →
       Answers (.fetchAdd site wide v .clean) s (fun t => t.outs = s.outs ++ [answer] ∧
         leNat (Memory.readBytes marchFill t.ctl.scratch off n) = (old + v.toNat) % 2 ^ (8 * n) ∧
         ∀ x, x < off ∨ off + n ≤ x → Memory.read marchFill t.ctl.scratch x = Memory.read marchFill s.ctl.scratch x) ∧
       Answers (.swap site wide v .clean) s (fun t => t.outs = s.outs ++ [answer] ∧
         leNat (Memory.readBytes marchFill t.ctl.scratch off n) = v.toNat % 2 ^ (8 * n) ∧
         ∀ x, x < off ∨ off + n ≤ x → Memory.read marchFill t.ctl.scratch x = Memory.read marchFill s.ctl.scratch x)) ∧
     (∀ (off : BitVec 26) (size : Fin 17) (v : DWord) (e : Ecc), 0x2000000 ≤ off.toNat → size.val ≠ 0 →
       off.toNat % size.val = 0 →
       Answers (.cas (.host off) ⟨size, .cas, v, e⟩) s (fun t => t = { s with outs := s.outs ++ [.answer 0 1] }))) ∧
  (∀ (s : State) (c : Fin 8) (addr v : DWord) (size : Fin 17), size.val = 4 ∨ size.val = 8 →
     let n := size.val
     let p := corePlace s c addr.toNat n
     let old := leNat (bytesOfPlace s p n)
     let answer := Out.readValue (2 + c.val) (extended n old)
     (addr.toNat % n = 0 → (reservation p n).isSome = true →
       (∀ op x, atomicValue op n old (v.toNat % 2 ^ (8 * n)) = some x →
         Answers (.cas (.core c addr) ⟨size, op, v, .clean⟩) s (fun t => t.outs = s.outs ++ [answer] ∧
           bytesOfPlace t p n = leBytes n x)) ∧
       Answers (.cas (.core c addr) ⟨size, .lr, v, .clean⟩) s (fun t => t.outs = s.outs ++ [answer] ∧
         reserved? t c = reservation p n ∧ bytesOfPlace t p n = bytesOfPlace s p n) ∧
       (reserved? s c = reservation p n → Answers (.cas (.core c addr) ⟨size, .sc, v, .clean⟩) s (fun t =>
         t.outs = s.outs ++ [.readValue (2 + c.val) 0] ∧ reserved? t c = none ∧ bytesOfPlace t p n = leBytes n v.toNat)) ∧
       (reserved? s c ≠ reservation p n → Answers (.cas (.core c addr) ⟨size, .sc, v, .clean⟩) s (fun t =>
         t.outs = s.outs ++ [.readValue (2 + c.val) 1] ∧ reserved? t c = none ∧
         bytesOfPlace t p n = bytesOfPlace s p n))) ∧
     (addr.toNat % n ≠ 0 → ∀ op, op ≠ .cas → Answers (.cas (.core c addr) ⟨size, op, v, .clean⟩) s (fun t =>
       t = { s with outs := s.outs ++ [.answer (2 + c.val) 4] }))) ∧
  (∀ (s : State) (off : BitVec 26) (w a : Bool),
     Answers (.reservedAccess off w a) s (fun t => getB t F.HST_STATUS_RSVD_ACCESS = true ∧
       getF t F.HST_RSVD_ADDR_OFFSET = off.toNat ∧ t.outs = (if w && !a then s.outs else s.outs ++ [.answer 0 2]) ∧
       t = { s with regs := t.regs, outs := t.outs }))

/-- Commands of the session table (R304 to R306, R329, R330), on the session that HST_SESS_INDEX names.  OPEN of a CLOSED
session whose staged configuration passes R305 and of which the device holds nothing opens it with its counts at 0; one of a
session that is not CLOSED is rejected.  CLOSE of one with no group being collected closes it and advances its generation.  ATTACH of a SUSPENDED session whose
configuration passes opens it and first posts the completion that it held.
A write to HST_SESS_INDEX (R304): it names a session, and the staging registers show that session's entry. -/
def Obligations.SessionTableCommandsAct : Prop :=
  (∀ s : State,
     let i := indexed s
     let e := session s i
     (e.state = 0 → configOk (takeStaging s e) = true → itemsHeld s i = false → Answers .sessOpen s (fun t =>
       session t i = takeStaging s e ∧ (session t i).state = 1 ∧ (session t i).fetched = 0 ∧ (session t i).gen = e.gen ∧
       (∀ j, j ≠ i → session t j = session s j) ∧ t.regs = s.regs)) ∧
     (e.state ≠ 0 → Answers .sessOpen s (fun t => session t i = { e with reject := true } ∧
       (∀ j, j ≠ i → session t j = session s j) ∧ t.regs = s.regs)) ∧
     (e.state ≠ 0 → e.group = [] → Answers .sessClose s (fun t => (session t i).state = 0 ∧
       (session t i).gen = (e.gen + 1) % 16 ∧ (session t i).held = [])) ∧
     (∀ h, e.state = 2 → configOk (takeStaging s e) = true → e.held = [h] → Answers .sessAttach s (fun t =>
       (session t i).state = 1 ∧ (session t i).posted = 1 ∧ (session t i).held = [] ∧
       Out.completion i 0 (completionSlot (takeStaging s e)) (completionEntry (takeStaging s e) h.tag.toNat h.status h.result) ∈ t.outs))) ∧
  (∀ (s : State) (v : Word),
     let e := session s (v.toNat % 2 ^ 12)
     Answers (.sessIndexWrite v) s (fun t => indexed t = v.toNat % 2 ^ 12 ∧
       getF t F.HST_SESS_SQ_LO_ADDR = e.sq % 2 ^ 32 ∧ getF t F.HST_SESS_SQ_HI_ADDR = e.sq / 2 ^ 32 % 2 ^ 32 ∧
       getF t F.HST_SESS_CQ_LO_ADDR = e.cq % 2 ^ 32 ∧ getF t F.HST_SESS_DB_LO_ADDR = e.db % 2 ^ 32 ∧
       getF t F.HST_SESS_CFG_SQ_LOG2 = e.sqLog % 2 ^ 5 ∧ getF t F.HST_SESS_CFG_CQ_LOG2 = e.cqLog % 2 ^ 5 ∧
       getF t F.HST_SESS_CFG_VECTOR = e.vector % 2 ^ 11 ∧ t = { s with regs := t.regs }))

/-- The doorbell sweep (R321 to R326, R331) over one flagged session that is OPEN and fetches: a doorbell of its generation that
announces one descriptor has it fetched from its slot and counted, with the fetch word written; a doorbell read that fails is a
ring error, which stops fetching, and so is a completion write that has failed; with fetching disabled nothing is read.
The coalescing timeout (R327): an OPEN session with COAL_TIME set and completions not signalled, the oldest of them
COAL_TIME x 100 ns old, has its MSI-X message sent, or set pending where its vector is masked, and its count restarts; a session
with nothing to signal, or nothing that old, stays as it is. -/
def Obligations.DoorbellAndCoalesceCommandsAct : Prop :=
  (∀ (s : State) (i : Fin 4096) (m : HostMem),
     let e := session s i
     (getB s F.HST_CTRL_FETCH_EN = true → s.host.busMaster = true → e.state = 1 → e.stopped = false →
       (∀ bits b slot, hostBytes m (summaryAddr s) 512 = some bits → flagged bits = [i.val] →
         hostBytes m e.db 8 = some b → hostBytes m (descSlot e e.fetched) 64 = some slot → bitsOf (leNat b) 60 4 = e.gen →
         past28 (bitsOf (leNat b) 0 28) e.fetched = 1 → past28 (bitsOf (leNat b) 28 28) e.cqSeen = 0 →
         leAt slot 4 1 % 16 = e.gen → cqRoom s i = true →
         Answers (.doorbellSweep m.cells m.bad []) s (fun t =>
           session t i = { e with fetched := e.fetched + 1 } ∧ liveCount t i e.gen = liveCount s i e.gen + 1 ∧
           t.host.fetched = s.host.fetched ++ [fetchedOf i slot m] ∧
           t.outs = s.outs ++ [.fetchWord i (e.db + 8) (fetchWord { e with fetched := e.fetched + 1 })] ∧ t.regs = s.regs)) ∧
       (∀ bits, hostBytes m (summaryAddr s) 512 = some bits → flagged bits = [i.val] → hostBytes m e.db 8 = none →
         Answers (.doorbellSweep m.cells m.bad []) s (fun t =>
           session t i = { e with error := 3, stopped := true } ∧ t.outs = s.outs)) ∧
       (hostBytes m (summaryAddr s) 512 = none → Answers (.doorbellSweep m.cells m.bad [i]) s (fun t =>
         session t i = { e with error := 4, stopped := true } ∧ t.outs = s.outs))) ∧
     (getB s F.HST_CTRL_FETCH_EN = false → ∀ lost, Answers (.doorbellSweep m.cells m.bad lost) s (fun t =>
       t = { s with host := t.host } ∧ t.host.sessions = s.host.sessions ∧ t.host.fetched = s.host.fetched))) ∧
  (∀ (s : State) (i : Fin 4096),
     let e := session s i
     (e.state = 1 → e.coalTime ≠ 0 → e.unsignalled ≠ 0 → e.oldest + 100 * e.coalTime ≤ timeNs s →
       Answers (.coalesceTimeout i) s (fun t => session t i = { e with unsignalled := 0 } ∧
         if vectorMasked s e.vector then t.outs = s.outs ∧ t.host.pba.get false e.vector = true
         else t.outs = s.outs ++ [.msix e.vector])) ∧
     (e.unsignalled = 0 ∨ timeNs s < e.oldest + 100 * e.coalTime → Answers (.coalesceTimeout i) s (fun t => t = s)))

/-- IMAGE (R262, R315, R316): START with no owner and no load under way opens a stream of the descriptor's session on the
host path, whose bytes wait where they make no whole segment, and the descriptor completes OK; one that goes on with a stream
that is not open completes with CANCELLED.  Where the device cannot read the binding block, START opens no stream and completes with
HOST_FAULT (R319).
Bytes after command 0x10 on the SPI slave (R263, R264): fewer than a whole segment of them wait in the FIFO of the stream
that they open or belong to.  Where more come than the FIFO has room for, those that fit arrive as they would alone, and then
the byte that finds the FIFO full ends the stream, if it is still open, with LS_OVERFLOW.  A transaction whose first byte is
no command is ignored. -/
def Obligations.HostAndSpiStreamsTakeBytes : Prop :=
  (∀ (s : State) (d : Desc) (bs binding : List Byte), DescRuns s d → s.ldr.stream = none →
     (loaderOpen s = false → pathAccepted s 1 = true → getB s F.LDR_OWNER_VALID = false → bs.length < 64 →
       Answers (.image d true (some bs) (some binding)) s (fun t => Posts s t d [] stOK 0 ∧ getF t F.LDR_STATUS_PATH = 1 ∧
         ∃ x, t.ldr.stream = some x ∧ x.path = 1 ∧ x.session = (d.session.val, d.sgen.toNat) ∧ x.buffer = bs ∧
           x.binding = binding)) ∧
     (getB s F.LDR_OWNER_VALID = false → Answers (.image d true (some bs) none) s (fun t =>
       Posts s t d [] stHostFault 0 ∧ t.ldr = s.ldr)) ∧
     Answers (.image d false (some bs) (some binding)) s (fun t => Posts s t d [] stCancelled 0 ∧ t.ldr = s.ldr)) ∧
  (∀ (s : State) (bs : List Byte), bs ≠ [] →
     (∀ c : Byte, c ≠ 0x10 → c ≠ 0x02 → c ≠ 0x05 → c ≠ 0x0B → exec (.spiStream (c :: bs)) s = .next s) ∧
     (loaderOpen s = false → pathAccepted s 2 = true → bs.length < 64 → Answers (.spiStream (0x10 :: bs)) s (fun t =>
       ∃ x, t.ldr.stream = some x ∧ x.path = 2 ∧ x.buffer = bs ∧ x.binding = bindBlock s)) ∧
     (∀ x, s.ldr.stream = some x → x.path = 2 → x.buffer.length + bs.length < 64 → Answers (.spiStream (0x10 :: bs)) s (fun t =>
       t.ldr.stream = some { x with buffer := x.buffer ++ bs } ∧ t.regs = s.regs)) ∧
     (∀ x, s.ldr.stream = some x → x.path = 2 → x.buffer.length < 131232 → 131232 < x.buffer.length + bs.length →
       Answers (.spiStream (0x10 :: bs.take (131232 - x.buffer.length))) s (fun u => Answers (.spiStream (0x10 :: bs)) s (fun t =>
         match u.ldr.stream with
         | some y => if y.path = 2 then LoadEnded t lsOverflow else t = u
         | none => t = u))))

/-- A segment on an open stream (R270): its checks in their order.  One whose header does not fit, or that is out of
sequence, ends the stream with its code; one that passes is decrypted with the key that it names, and where authentication or
its commands fail the stream ends with their code; the frames of one that is neither last nor partial and lies within the
staging area are staged, and the stream goes on at the next position. -/
def Obligations.SegmentIsCheckedThenStaged : Prop :=
  ∀ (s : State) (x : LdStream) (h ct tag : List Byte), s.ldr.stream = some x → x.path ≠ 3 →
    (headerFits h = false → Answers (.segment h ct tag) s (fun t => LoadEnded t lsSegment)) ∧
    (headerFits h = true → ct.length = leAt h 12 4 → tag.length = 16 → inSequence x h = false →
      Answers (.segment h ct tag) s (fun t => LoadEnded t lsSequence)) ∧
    (headerFits h = true → ct.length = leAt h 12 4 → tag.length = 16 → inSequence x h = true → 0 < x.position →
      x.isPartial = false → leAt h 7 1 = 0 → ∀ key, loadKey s (leAt h 6 1) = some key →
      Answers (.segment h ct tag) s (fun t => match Config.gcmOpen key (slice h 16 12) h ct tag with
        | none => LoadEnded t lsAuth
        | some plain => match segmentCmds { x with last := false } plain with
          | none => LoadEnded t lsCommand
          | some cs => match outsideTarget s x (listWrites (x.frame.getD []) cs) with
            | some e => LoadEnded t e.1
            | none => t.ldr.staging = (listWrites (x.frame.getD []) cs).foldl stageWrite' s.ldr.staging ∧
                ∃ y, t.ldr.stream = some y ∧ y.position = x.position + 1))

/-- The frame commands of a full stream (R272 to R274).  WRITE_FRAME stores 4,096 bytes at its frame address in the staging
area and keeps them as the last frame; REPEAT_FRAME stores the last frame at its address; ZERO_FRAMES leaves zeros; PAD writes
nothing; no other byte changes.  ZERO_FRAMES of no frame ends the stream with LS_COMMAND, and a frame beyond the
staging area ends it with LS_TOO_LARGE and names the address. -/
def Obligations.FrameCommandsFillTheStagingArea : Prop :=
  ∀ (s : State) (x : LdStream) (addr : Word),
    let at_ := fun (t : State) (a : Nat) => Memory.read zeroFill t.ldr.staging a
    let base := 4096 * addr.toNat
    let outside := fun (n a : Nat) => a < base ∨ base + 4096 * n ≤ a
    s.ldr.stream = some x → x.isPartial = false → x.last = false → x.path ≠ 3 →
    (∀ data : List Byte, data.length = 4096 → addr.toNat + 1 ≤ stageUnits s * 16 →
      Answers (.writeFrame addr data) s (fun t => (∀ i : Fin 4096, at_ t (base + i) = data.getD i 0) ∧
        (∀ a, outside 1 a → at_ t a = at_ s a) ∧ ∃ y, t.ldr.stream = some y ∧ y.frame = some data)) ∧
    (∀ frame : List Byte, x.frame = some frame → frame.length = 4096 → addr.toNat + 1 ≤ stageUnits s * 16 →
      Answers (.repeatFrame [addr]) s (fun t => (∀ i : Fin 4096, at_ t (base + i) = frame.getD i 0) ∧
        (∀ a, outside 1 a → at_ t a = at_ s a))) ∧
    (∀ n : Word, n ≠ 0 → addr.toNat + n.toNat ≤ stageUnits s * 16 → Answers (.zeroFrames addr n) s (fun t =>
      ∀ a, at_ t a = if outside n.toNat a then at_ s a else 0)) ∧
    (∀ n : Word, n.toNat % 16 = 0 → n.toNat ≤ 65520 → Answers (.pad n (List.replicate n.toNat 0)) s (fun t =>
      t.ldr.staging = s.ldr.staging ∧ t.ldr.stream.isSome = true)) ∧
    Answers (.zeroFrames addr 0) s (fun t => LoadEnded t lsCommand) ∧
    (∀ data : List Byte, data.length = 4096 → stageUnits s * 16 ≤ addr.toNat → Answers (.writeFrame addr data) s (fun t =>
      LoadEnded t lsTooLarge ∧ getF t F.LDR_FAIL_ADDR_ADDR = addr.toNat))

/-- SET_REGION and COMMIT (R275, R289, R296).  SET_REGION at the start of a stream, with the loaded Ingot's IDENTITY as
PARENT, isolates a declared joined region; with another PARENT the stream ends with LS_PARENT.  COMMIT of a full stream whose
frames do not cover the Ingot ends it with LS_INCOMPLETE, and of one that does while the machine executes with LS_STATE.
COMMIT of a partial stream whose region is covered and has stopped ends it OK, and the region waits to rejoin. -/
def Obligations.SetRegionAndCommitAct : Prop :=
  ∀ (s : State) (x : LdStream), s.ldr.stream = some x → x.last = false → x.path ≠ 3 → s.ldr.todo = [] →
    (∀ (n : Fin 64) (parent variant : List Byte), x.position = 0 → x.frame = none → x.region = none → x.covered = [] →
      getF s (F.LDR_REGION_STATE n) = 0 →
      Answers (.setRegion n parent variant) s (fun t => if parentOk s n parent then
          getF t (F.LDR_REGION_STATE n) = 1 ∧ getB t F.LDR_STATUS_PARTIAL = true ∧
          ∃ y, t.ldr.stream = some y ∧ y.region = some n.val ∧ y.isPartial = true ∧ y.variant = variant
        else LoadEnded t lsParent)) ∧
    (x.isPartial = false → coversAll x.covered 0 (igExtent s.ldr.staging) = false →
      Answers .commit s (fun t => LoadEnded t lsIncomplete)) ∧
    (x.isPartial = false → coversAll x.covered 0 (igExtent s.ldr.staging) = true → executing s = true →
      Answers .commit s (fun t => LoadEnded t lsState)) ∧
    (∀ n : Nat, n < 64 → x.isPartial = true → x.region = some n → regionStopped s n = true → executing s = true →
      regionCovered s (streamRegion s x) x.covered = true →
      Answers .commit s (fun t => LoadEnded t 0 ∧ getF t (F.LDR_REGION_STATE n) = 2))

/-- What ends a load before its COMMIT (R267, R271, R278, R283): no byte for TIMEOUT_MS; ABORT; positions of the machine
that do not agree as the machine wait ends; PLL_LOCK of the start-up sequence timing out, which leaves the machine in
EMPTY.
The start-up sequence (R280 to R282): an event that waits for nothing takes effect and the next one follows; with the
last of them the outputs drive, writes are on, set-reset is off and the machine enters LOADED with the load's result OK. -/
def Obligations.LoadsEndOrStartUp : Prop :=
  (∀ s : State,
     (∀ x, s.ldr.stream = some x → x.path ≠ 3 → x.last = false → getF s F.LDR_CTRL_TIMEOUT_MS ≠ 0 →
       Answers .lsTimeout s (fun t => LoadEnded t lsTimeout)) ∧
     (∀ x (v : Word), s.ldr.stream = some x → x.path ≠ 3 → v.getLsbD 31 = true →
       Answers (.abort v) s (fun t => LoadEnded t lsCancelled ∧ getF t F.LDR_CTRL_TIMEOUT_MS = v.toNat % 2 ^ 16)) ∧
     (∀ i (hs : List MachineHeader) (ls : List LinkRecord), s.ldr.stream = none → s.ldr.install = some i →
       i.waiting = true → i.path ≠ 3 →
       Answers (.machineWaitEnd hs ls) s (fun t =>
         if machineOk s i.image && setAgrees i.ingot (ownHeader i.ingot :: hs) (i.ingot.linkch ++ ls) then
           regionsOk i.image = true → censusClash i.image = false → t.ldr = (installNow s i).ldr
         else LoadEnded t lrMachine ∧ t.ldr.install = none)) ∧
     (∀ i dl es, s.ldr.stream = none → s.ldr.install = some i → i.waiting = false → i.events = (1, dl) :: es → i.path ≠ 3 →
       hpllsLocked s = false →
       Answers .lsPll s (fun t => LoadEnded t lsPllFail ∧ emState t = 0 ∧ t.ldr.install = none))) ∧
  (∀ (s : State) (i : LdInstall) (dl : Nat), s.ldr.install = some i → i.waiting = false → i.path = 1 →
     (∀ e es, i.events = (2, dl) :: e :: es → Answers .startupEvent s (fun t =>
       getB t F.HGR_STATUS_OUTPUTS = true ∧ (getF t F.LDR_STATUS_EVENTS).testBit 1 = true ∧
       t.ldr.install = some { i with events := e :: es } ∧ emState t = emState s)) ∧
     (i.events = [(0, dl)] → s.ldr.stream = none → Answers .startupEvent s (fun t => emState t = 1 ∧
       stepsS t = i.ingot.s % 2 ^ 11 ∧ getB t F.HGR_STATUS_OUTPUTS = true ∧ getB t F.HGR_STATUS_WRITES = true ∧
       getB t F.HGR_STATUS_GSR = false ∧ LoadEnded t 0 ∧ t.ldr.install = none)))

/-- Loads from the serial flash (R261, R267): START opens a stream on the QSPI path from the entry that it names.  A
self-load from entry 0 whose directory entry cannot be read, or has another MAGIC, ends with LS_FLASH and goes on from
entry 1; when that fails too, BOOT_FAIL or FELL_BACK is set as BOOT_SEL says.
Ownership of a loaded Ingot, and the rejoin of a region at rest (R279, R296): a write to LDR_OWNER with VALID claims it
for the session that it names where nobody owns it, and one without VALID gives it up; a ready region of a machine at rest
rejoins at once. -/
def Obligations.FlashLoadsOwnershipAndRejoin : Prop :=
  (∀ s : State,
     (∀ v : Word, loaderOpen s = false → pathAccepted s 3 = true → v.getLsbD 31 = true →
       Answers (.flashStart v) s (fun t => getF t F.LDR_BOOT_ENTRY = b2n (v.getLsbD 0) ∧
         ∃ x, t.ldr.stream = some x ∧ x.path = 3 ∧ x.position = 0 ∧ x.buffer = [])) ∧
     (∀ x (f : FlashPart), s.ldr.stream = some x → x.path = 3 →
       (∀ e, (flashBytes s f 8 (0x1000 + 32 * getF s F.LDR_BOOT_ENTRY) 32).2 = some e → leAt e 0 4 ≠ 0x44494B56) →
       s.ldr.install = none → pathAccepted s 3 = true →
       (s.ldr.selfTry = 1 → Answers (.qspiSelfLoad ⟨f.cells, f.quad⟩ f.bad) s (fun t => getF t F.LDR_RESULT_CODE = lsFlash ∧
         getF t F.LDR_BOOT_ENTRY = 1 ∧ t.ldr.selfTry = 2 ∧ ∃ y, t.ldr.stream = some y ∧ y.path = 3 ∧ y.position = 0)) ∧
       (s.ldr.selfTry = 2 → Answers (.qspiSelfLoad ⟨f.cells, f.quad⟩ f.bad) s (fun t => LoadEnded t lsFlash ∧ t.ldr.selfTry = 0 ∧
         if getF s F.LDR_BOOT_BOOT_SEL = 1 then getB t F.LDR_STATUS_BOOT_FAIL = true else getB t F.LDR_BOOT_FELL_BACK = true)))) ∧
  (∀ s : State,
     (∀ v : Word, v.getLsbD 31 = true → getB s F.LDR_OWNER_VALID = false → Answers (.ldrOwnerWrite v) s (fun t =>
       getB t F.LDR_OWNER_VALID = true ∧ getF t F.LDR_OWNER_SESSION = v.toNat % 2 ^ 12 ∧
       getF t F.LDR_OWNER_GEN = v.toNat / 2 ^ 12 % 2 ^ 4 ∧
       OnlyFields s t [F.LDR_OWNER_VALID, F.LDR_OWNER_SESSION, F.LDR_OWNER_GEN])) ∧
     (∀ v : Word, v.getLsbD 31 = false → Answers (.ldrOwnerWrite v) s (fun t => getB t F.LDR_OWNER_VALID = false)) ∧
     (∀ n : Fin 64, getF s (F.LDR_REGION_STATE n) = 2 → executing s = false → Answers (.regionRejoin n) s (fun t =>
       getF t (F.LDR_REGION_STATE n) = 0 ∧ ∀ k i, (k, some i) ∈ t.iso → i.region ≠ n)))

/-- The channel descriptors (R349, R351 to R356), run as they come.  Where a check of R352 fails, the descriptor completes
with its status and no channel changes.  CH_OPEN opens a fresh context and answers the generation; MSG_SEND and an H2D
STREAM_POST reserve FIFO bytes, MSG_RECV and a D2H STREAM_POST queue a buffer, each as a DESCRIPTOR work item; CH_CLOSE leaves
the channel OPEN no more, and FREE in its next generation where nothing is in flight; FLUSH empties the FIFO but for what
ports hold; CLEAR_OVERRUN, alone or beside FLUSH, clears its flag; CH_QUERY writes the context to the host. -/
def Obligations.ChannelDescriptorsAct : Prop :=
  ∀ (s : State) (d : Desc) (r : ChanRef) (addr : DWord), DescRuns s d →
    let x := chanCtx s r.chan
    let queued := fun (t : State) (opcode position length : Nat) => ∃ j ∈ t.chn.items, j.type = 1 ∧ j.chan = r.chan.val ∧
      j.gen = x.gen ∧ j.seq = x.nextSeq ∧ j.desc = some d ∧ j.opcode = opcode ∧ j.address = addr.toNat ∧
      j.position = position ∧ j.length = length
    let passes := fun (kinds : List Nat) (openOnly : Bool) => chanStatus s d r ⟨kinds, openOnly⟩ = none
    (∀ (bits : BitVec 16) (inl : Bool) (bs : List Byte) (len : Word) (ok clear : Bool) (st : Nat),
      ∀ e ∈ [(Instr.chClose d r, [0, 1, 2, 3], false), (.msgSend d r addr bits inl bs, [0], true),
        (.msgRecv d r addr len, [1], true), (.streamPost d r addr len, [2, 3], true), (.flush d ⟨r, clear⟩, [0, 1, 2, 3], false),
        (.clearOverrun d ⟨r, clear⟩, [0, 1, 2, 3], false), (.chQuery d r addr ok, [0, 1, 2, 3], false)],
      chanStatus s d r ⟨e.2.1, e.2.2⟩ = some st → Answers e.1 s (fun t => Posts s t d [] st 0 ∧ t.chn = s.chn)) ∧
    (∀ (kind priority window sizeLog : Byte) (port : BitVec 16) (us : Word) (off : DWord),
      let st := openStatus s r.chan kind.toNat priority.toNat port.toNat us.toNat off.toNat window.toNat sizeLog.toNat
      (st = none → Answers (.chOpen d r kind priority port us off window sizeLog) s (fun t => Posts s t d [] stOK x.gen ∧
        getF t F.CHN_OPEN_COUNT_COUNT = (getF s F.CHN_OPEN_COUNT_COUNT + 1) % 2 ^ F.CHN_OPEN_COUNT_COUNT.width ∧
        (∃ dev, chanCtx t r.chan = { ChanCtx.free with
          gen := x.gen, kind := kind.toNat, priority := priority.toNat, state := 1, sessionGen := d.sgen.toNat,
          session := d.session, port := dev, window := window.toNat, sizeLog := sizeLog.toNat, timeoutUs := us.toNat,
          fifoOffset := off.toNat }) ∧ ∀ c, c ≠ r.chan.val → chanCtx t c = chanCtx s c)) ∧
      (∀ n, st = some n → Answers (.chOpen d r kind priority port us off window sizeLog) s (fun t =>
        Posts s t d [] n 0 ∧ t.chn = s.chn))) ∧
    (passes [0, 1, 2, 3] false → x.state = 1 → Answers (.chClose d r) s (fun t => (chanCtx t r.chan).state ≠ 1 ∧
      (s.chn.items = [] → s.chn.reserved = [] → s.chn.again = [] → s.chn.sent = [] → s.chn.chosen = [] →
        s.chn.closing.get [] r.chan = [] → Posts s t d [] stOK 0 ∧
        chanCtx t r.chan = { ChanCtx.free with gen := (x.gen + 1) % 64 }))) ∧
    (∀ (p : PortDef) (inl : Bool) (bs : List Byte) (bits : BitVec 16), passes [0] true → portOf s x.port = some p →
      bits.toNat = p.width → (inl = true → bits.toNat ≤ 256) → Answers (.msgSend d r addr bits inl bs) s (fun t =>
        queued t 0x32 x.alloc (recordLen p 0) ∧ (chanCtx t r.chan).alloc = x.alloc + recordLen p 0)) ∧
    (∀ (p : PortDef) (len : Word), passes [1] true → portOf s x.port = some p →
      (payloadBytes p ≤ len.toNat → Answers (.msgRecv d r addr len) s (fun t => queued t 0x33 x.rd len.toNat)) ∧
      (len.toNat < payloadBytes p → Answers (.msgRecv d r addr len) s (fun t => Posts s t d [] 0x46 0 ∧ t.chn = s.chn))) ∧
    (∀ len : Word, passes [2, 3] true → 0 < len.toNat → len.toNat ≤ 2 ^ 24 →
      (x.kind = 3 → Answers (.streamPost d r addr len) s (fun t =>
        queued t 0x34 x.alloc len.toNat ∧ (chanCtx t r.chan).alloc = x.alloc + len.toNat)) ∧
      (x.kind = 2 → s.chn.drained.get false r.chan = false →
        Answers (.streamPost d r addr len) s (fun t => queued t 0x34 x.rd len.toNat)) ∧
      (x.kind = 2 → s.chn.drained.get false r.chan = true → oldestBuffer s r.chan = none →
        Answers (.streamPost d r addr len) s (fun t =>
          Out.hostWrite addr.toNat (drainBytes s r.chan len.toNat) ∈ t.outs ∧ t.chn.drained.get false r.chan = false))) ∧
    (passes [0, 1, 2, 3] false → x.state = 1 → ∀ clear, Answers (.flush d ⟨r, clear⟩) s (fun t =>
      (chanCtx t r.chan).overrun = (x.overrun && !clear) ∧
      (isH2D x.kind = false → (chanCtx t r.chan).rd = x.wr) ∧
      (isH2D x.kind = true → s.chn.items = [] → (chanCtx t r.chan).rd = max x.rd (x.wr - heldBytes s r.chan)) ∧
      (s.chn.items = [] → s.chn.sent = [] → Posts s t d [] stOK 0))) ∧
    (passes [0, 1, 2, 3] false → ∀ clear, Answers (.clearOverrun d ⟨r, clear⟩) s (fun t => Posts s t d [] stOK 0 ∧
      chanCtx t r.chan = { x with overrun := x.overrun && !clear } ∧ ∀ c, c ≠ r.chan.val → chanCtx t c = chanCtx s c)) ∧
    (passes [0, 1, 2, 3] false → ∀ ok, Answers (.chQuery d r addr ok) s (fun t => t.chn = s.chn ∧
      if ok then Posts s t d [.hostWrite addr.toNat (ctxBytes x)] stOK 0 else Posts s t d [] stHostFault 0))

/-- The channel engines (R358 to R365) and the drain timer (R350).  DISPATCH_TAKE answers 0 to an engine that is stopped,
all ones to one with no slot, the slot plus 1 with the item given to it, and leaves one with nothing to take waiting.
DISPATCH_DONE ends the item of a slot, and the head of an H2D channel is released.  A copy moves its bytes or shows ERROR.  A
trap, or a write of 0 to ENGINES_EN, takes back what is not done.  CHN_CTX_INDEX shows a context in CHN_CTX_DATA; a corrected
error of its code counts, and an uncorrectable one closes the channel (R334, R368). -/
def Obligations.ChannelEnginesTakeCopyAndEndItems : Prop :=
  ∀ (s : State) (e : Fin 32),
    let free := fun (t : State) => ∀ j ∈ t.chn.items, ∀ k, j.engine = some (e.val, k) → j.done ≠ none
    (enginesRun s = true →
      ((getF s F.CHN_ENGINE_STOP_STOP).testBit e = true → Answers (.dispatchTake e) s (fun t =>
        t.outs = s.outs ++ [.readValue (16 + e) 0] ∧ t.chn = s.chn)) ∧
      ((getF s F.CHN_ENGINE_STOP_STOP).testBit e = false → freeSlot s e = none → Answers (.dispatchTake e) s (fun t =>
        t.outs = s.outs ++ [.readValue (16 + e) 0xFFFFFFFF] ∧ t.chn = s.chn)) ∧
      (∀ k, (getF s F.CHN_ENGINE_STOP_STOP).testBit e = false → freeSlot s e = some k → nextReady s = none →
        Answers (.dispatchTake e) s (fun t => t.outs = s.outs ∧ t.chn = s.chn ∧
          (getF t F.CHN_ENGINE_WAIT_WAIT).testBit e = true)) ∧
      (∀ k c i, (getF s F.CHN_ENGINE_STOP_STOP).testBit e = false → freeSlot s e = some k → nextReady s = some c →
        (chanItems s c).find? (dispatchable s) = some i → Answers (.dispatchTake e) s (fun t =>
          t.outs = s.outs ++ [.readValue (16 + e) (k + 1)] ∧ { i with engine := some (e.val, k) } ∈ t.chn.items ∧
          getB t F.CHN_STATUS_RUNNING = true))) ∧
    (∀ (k : Fin 8) (rec : DoneRecord) (i : WorkItem), i.engine = some (e.val, k.val) → i.done = none →
      (s.chn.items.find? (fun j => j.engine = some (e.val, k.val) && j.done.isNone) = some i →
        Answers (.dispatchDone e k rec) s (fun t => ∀ j ∈ t.chn.items, sameItem i j = true → j.done = some rec)) ∧
      (s.chn.items = [i] → (chanCtx s i.chan).state = 1 → isH2D (chanCtx s i.chan).kind = true →
        i.gen = (chanCtx s i.chan).gen → i.seq = (chanCtx s i.chan).releaseSeq →
        Answers (.dispatchDone e k rec) s (fun t => t.chn.items = [] ∧
          (chanCtx t i.chan).wr = max (chanCtx s i.chan).wr (i.position + i.length) ∧
          (chanCtx t i.chan).releaseSeq = (i.seq + 1) % 65536))) ∧
    (∀ (src dst : DWord) (n : BitVec 24) (host : List Byte) (ok : Bool), enginesRun s = true →
      let bs := copyRead s e src.toNat n.toNat host
      let may := copyOk s src.toNat n.toNat && copyOk s dst.toNat n.toNat &&
        (ok || decide (bitsOf src.toNat 62 2 ≠ 0 ∧ bitsOf dst.toNat 62 2 ≠ 0))
      let at_ := e.val * 65536 + bitsOf dst.toNat 0 62
      (may = false → Answers (.copyUnitGo e src dst n host ok) s (fun t =>
        t.chn.copy.get ⟨0, 0, 0, false⟩ e = ⟨src.toNat, dst.toNat, n.toNat, true⟩ ∧
        t = { s with chn := { s.chn with copy := t.chn.copy } })) ∧
      (may = true → bitsOf src.toNat 62 2 ≠ 2 → bitsOf dst.toNat 62 2 = 1 → Answers (.copyUnitGo e src dst n host ok) s (fun t =>
        (∀ a, Memory.read marchFill t.chn.local_ a = if at_ ≤ a
          then (bs[a - at_]?).getD (Memory.read marchFill s.chn.local_ a) else Memory.read marchFill s.chn.local_ a) ∧
        t = { s with chn := { s.chn with copy := t.chn.copy, local_ := t.chn.local_ } })) ∧
      (may = true → bitsOf src.toNat 62 2 = 2 → bitsOf dst.toNat 62 2 = 1 → Answers (.copyUnitGo e src dst n host ok) s (fun t =>
        ∀ a, Memory.read marchFill t.chn.local_ a = if at_ ≤ a
          then (bs[a - at_]?).getD (Memory.read marchFill s.chn.local_ a) else Memory.read marchFill s.chn.local_ a)) ∧
      (may = true → bitsOf dst.toNat 62 2 = 0 → Answers (.copyUnitGo e src dst n host ok) s (fun t =>
        t.outs.getLast? = some (.hostWrite (bitsOf dst.toNat 0 62) bs) ∧ t.chn.local_ = s.chn.local_ ∧
        (bitsOf src.toNat 62 2 ≠ 2 → t.outs = s.outs ++ [.hostWrite (bitsOf dst.toNat 0 62) bs] ∧ t.regs = s.regs))) ∧
      (may = true → Answers (.copyUnitGo e src dst n host ok) s (fun t =>
        t.chn.copy.get ⟨0, 0, 0, false⟩ e = ⟨src.toNat, dst.toNat, n.toNat, false⟩))) ∧
    (enginesRun s = true → Answers (.engineTrap e) s (fun t => getB t F.CHN_STATUS_ENGINE_TRAP = true ∧
      (getF t F.CHN_ENGINE_FAULT_TRAP).testBit e = true ∧ (getF t F.CHN_ENGINE_WAIT_WAIT).testBit e = false ∧ free t)) ∧
    (∀ v : Word, (v.getLsbD 0 = true → Answers (.enginesEn v) s (fun t => enginesRun t = true ∧
        OnlyFields s t [F.CHN_CTRL_ENGINES_EN])) ∧
      (v.getLsbD 0 = false → Answers (.enginesEn v) s (fun t => enginesRun t = false ∧
        getB t F.CHN_STATUS_RUNNING = false ∧ getF t F.CHN_ENGINE_WAIT_WAIT = 0 ∧ t.chn.copy = [] ∧ free t))) ∧
    (∀ c : Fin 262144, let x := chanCtx s c
      (s.chn.drain.get none c = none → Answers (.drainTimeout c) s (fun t => t = s)) ∧
      ((s.chn.drain.get none c).isSome = true → x.state = 1 → x.kind = 2 → x.rd < x.wr →
        (∀ i, oldestBuffer s c = some i → Answers (.drainTimeout c) s (fun t =>
          Out.hostWrite (i.address + i.moved) (drainBytes s c (i.length - i.moved)) ∈ t.outs)) ∧
        (oldestBuffer s c = none → Answers (.drainTimeout c) s (fun t => t.chn.drained.get false c = true ∧
          t.chn.drain.get none c = none ∧ ∃ j ∈ t.chn.items, j.type = 3 ∧ j.chan = c.val ∧ j.position = x.rd ∧
            j.length = x.wr - x.rd)))) ∧
    (∀ v : Word, Answers (.chnCtxIndexWrite v .clean) s (fun t => getF t F.CHN_CTX_INDEX_CHANNEL = v.toNat % 2 ^ 18 ∧
      t = { s with regs := t.regs } ∧ ∀ w : Fin 16,
        getF t (F.CHN_CTX_DATA_BYTES w) = recordWord (ctxBytes (chanCtx s (v.toNat % 2 ^ 18))) w % 2 ^ 32) ∧
      Answers (.chnCtxIndexWrite v .corrected) s (fun t =>
        getF t F.CHN_CE_COUNT_COUNT = min (getF s F.CHN_CE_COUNT_COUNT + 1) (2 ^ 32 - 1)) ∧
      Answers (.chnCtxIndexWrite v .uncorrectable) s (fun t => getB t F.CHN_STATUS_CTX_UE = true ∧
        (chanCtx t (v.toNat % 2 ^ 18)).state ≠ 1))

/-- Commands of the Assay engine (R254, R376, R378, R380, R383, R387, R389, R390, R404), while its node is not isolated.  ARM
under a configuration that passes arms the engine from the next evaluated cycle, with STORE_INIT as it is then, and restarts
its counts; under one that does not, it sets CFG_REJECT and arms nothing.  DISARM keeps what is stored and DONE as it is; FORCE_TRIGGER waits for the next cycle; a tracker starts where the
ring fits its window, and stops with its interval ended; CLEAR restarts the ring; ASY_PAT_DATA reads and writes the word that
its index names, and the index advances.  Where the engine's node is isolated none of them acts: ISO_ACCESS is set. -/
def Obligations.AssayCommandsAct : Prop :=
  ∀ (s : State) (v : Word),
    let s1 := plainWrite s 0xB0004 v.toNat
    let ended := fun (t : State) => t.asy.committed.armed = false ∧ t.asy.waiting = s.asy.waiting ∧
      ∀ e ∈ t.asy.stage, e.eng.armed = false ∧ e.stored = false ∧ e.pulses = [] ∧ e.stop = false
    (nodeIsolated s 66 = true → ∀ k : Fin 32, (∀ i ∈ [Instr.arm v, .disarm v, .forceTrigger v, .trackerEnable k v, .redClear v,
        .patDataAccess (some v)], exec i s = .next (setB s F.NET_STATUS_ISO_ACCESS true)) ∧
      Answers (.patDataAccess none) s (fun t => getB t F.NET_STATUS_ISO_ACCESS = true ∧
        t = { s with regs := t.regs, outs := s.outs ++ [.readValue 0 0xFFFFFFFF] })) ∧
    (nodeIsolated s 66 = false →
    (v.getLsbD 0 = true → v.getLsbD 1 = false → v.getLsbD 2 = false → Answers (.arm v) s (fun t =>
      if armRefused s1 then getB t F.ASY_STATUS_CFG_REJECT = true ∧ t = { s with regs := t.regs } ∧
        getB t F.ASY_STATUS_ARMED = getB s F.ASY_STATUS_ARMED
      else getB t F.ASY_STATUS_ARMED = true ∧ getB t F.ASY_STATUS_DONE = false ∧ getB t F.ASY_STATUS_TRIGGERED = false ∧
        getB t F.ASY_STATUS_WRAPPED = false ∧ getF t F.ASY_WR_SAMPLE_LO_VALUE = 0 ∧ getF t F.ASY_WR_SAMPLE_HI_VALUE = 0 ∧
        t.asy.armPending = true ∧ t.asy.armCycle = none ∧ t.asy.storeInit = getB s1 F.ASY_CTRL_STORE_INIT ∧ ended t ∧
        t = { s with regs := t.regs, asy := t.asy })) ∧
    (v.getLsbD 0 = false → v.getLsbD 1 = true → v.getLsbD 2 = false → Answers (.disarm v) s (fun t =>
      getB t F.ASY_STATUS_ARMED = false ∧ getB t F.ASY_STATUS_DONE = getB s F.ASY_STATUS_DONE ∧
      t.asy.armPending = false ∧ ended t ∧ t = { s with regs := t.regs, asy := t.asy })) ∧
    (v.getLsbD 0 = false → v.getLsbD 1 = false → v.getLsbD 2 = true → Answers (.forceTrigger v) s (fun t =>
      t = { s with regs := t.regs, asy := { s.asy with forcePending := true } })) ∧
    (∀ k : Fin 32, let s2 := plainWrite s (F.ASY_TRK_CTRL_EN k).addr (v.toNat % 2 ^ 31)
      (getB s (F.ASY_TRK_CTRL_EN k) = true → v.getLsbD 31 = true → Answers (.trackerEnable k v) s (fun t => t = s)) ∧
      (getB s (F.ASY_TRK_CTRL_EN k) = true → v.getLsbD 31 = false → Answers (.trackerEnable k v) s (fun t =>
        if v.toNat = plainReg s (F.ASY_TRK_CTRL_EN k).addr % 2 ^ 31 then
          getB t (F.ASY_TRK_CTRL_EN k) = false ∧ t.asy.committed.tracks.get none k = none
        else t = s)) ∧
      (getB s (F.ASY_TRK_CTRL_EN k) = false → v.getLsbD 31 = true → Answers (.trackerEnable k v) s (fun t =>
        t = { s with regs := t.regs, asy := t.asy } ∧ getB t (F.ASY_TRK_CTRL_EN k) = redOk s2 ∧
        (redOk s2 = false → getB t F.ASY_STATUS_CFG_REJECT = true ∧ t.asy = s.asy))) ∧
      (getB s (F.ASY_TRK_CTRL_EN k) = false → v.getLsbD 31 = false → exec (.trackerEnable k v) s = .next s2)) ∧
    (v.getLsbD 0 = true → Answers (.redClear v) s (fun t => getF t F.ASY_RED_INDEX_NEXT = 0 ∧
      OnlyFields s t [F.ASY_RED_INDEX_NEXT, F.ASY_RED_CTRL_WRAP])) ∧
    (getB s F.ASY_STATUS_ARMED = false → Answers (.patDataAccess (some v)) s (fun t =>
      getF t (patField s) = v.toNat ∧ getF t F.ASY_PAT_INDEX_WORD = (getF s F.ASY_PAT_INDEX_WORD + 1) % 2 ^ 5 ∧
      OnlyFields s t [patField s, F.ASY_PAT_INDEX_WORD])) ∧
    (getB s F.ASY_STATUS_ARMED = true → Answers (.patDataAccess (some v)) s (fun t =>
      OnlyFields s t [F.ASY_PAT_INDEX_WORD])) ∧
    Answers (.patDataAccess none) s (fun t => t.outs = s.outs ++ [.readValue 0 (getF s (patField s))] ∧
      getF t F.ASY_PAT_INDEX_WORD = (getF s F.ASY_PAT_INDEX_WORD + 1) % 2 ^ 5 ∧ FieldsBut s t [F.ASY_PAT_INDEX_WORD] ∧
      t = { s with regs := t.regs, outs := t.outs }))

/-- The trigger bus and SYNC (R392 to R394, R396 to R398, R502), while REFCLK is present; while it is lost none of their pins is
sampled.  A frame on a FRAME input becomes an input of the cycle that it
names, or, after that cycle's vote, sets TRIG_LATE and is counted; a collision sends the frame again; an edge on an EDGE input
waits for the next cycle; a settle time that has passed casts the vote.  FIRE drives a pulse from a device that drives SYNC; a
pulse sets SYNC_SEEN and, with LOAD_TIME, loads TIME. -/
def Obligations.TriggerBusAndSyncAct : Prop :=
  ∀ (s : State) (l : Fin 8),
    (s.clk.lost = true → ∀ (b : Byte), ∀ i ∈ [Instr.trigFrame l b, .trigCollide l, .trigEdge l, .sync], exec i s = .next s) ∧
    (s.clk.lost = false →
    (∀ b : Byte, let c := frameTarget s b.toNat
      (frameIn s l = true → voteCast s c = false → Answers (.trigFrame l b) s (fun t =>
        t.asy.inputs = s.asy.inputs ++ [(l.val, c)] ∧ t = { s with asy := t.asy } ∧
        ∀ e ∈ t.asy.stage, ∃ e' ∈ s.asy.stage, e.cycle = e'.cycle ∧ e.probes = e'.probes)) ∧
      (frameIn s l = true → voteCast s c = true → Answers (.trigFrame l b) s (fun t =>
        getB t F.ASY_STATUS_TRIG_LATE = true ∧ OnlyFields s t [F.ASY_STATUS_TRIG_LATE, F.ASY_TRIG_LATE_COUNT] ∧
        getF t F.ASY_TRIG_LATE_COUNT = saturate F.ASY_TRIG_LATE_COUNT.width (getF s F.ASY_TRIG_LATE_COUNT + 1))) ∧
      (frameIn s l = false → Answers (.trigFrame l b) s (fun t => t = s))) ∧
    (∀ x, s.asy.lastFrame.get none l = some x → Answers (.trigCollide l) s (fun t =>
      getB t F.ASY_STATUS_TRIG_COLLIDE = true ∧ FieldsBut s t [F.ASY_STATUS_TRIG_COLLIDE] ∧
      t = { s with regs := t.regs, outs := s.outs ++ [.trigger l x] })) ∧
    (getB s (F.ASY_TRIG_LINE_IN_EN l) = true → getB s (F.ASY_TRIG_LINE_MODE l) = true → Answers (.trigEdge l) s (fun t =>
      t = { s with asy := { s.asy with edges := s.asy.edges ++ [l.val] } })) ∧
    (∀ c, c = max s.asy.settled s.run.nextCommit →
      anyFrameIn s = true → diesVoted s c = true → c + 1 ≤ s.run.nextCommit + trigCycles s →
      Answers .trigSettleVote s (fun t => t = { s with asy := { s.asy with settled := c + 1 } } ∧ voteCast t c = true)) ∧
    (∀ v : Word, nodeIsolated s 66 = false → v.getLsbD 1 = true → getB (plainWrite s 0xB0740 v.toNat) F.ASY_SYNC_CTRL_DRIVE = true →
      Answers (.fire v) s (fun t => t = { s with regs := t.regs, outs := s.outs ++ [.sync] })) ∧
    (s.run.waitSync = false → Answers .sync s (fun t => getB t F.ASY_STATUS_SYNC_SEEN = true ∧
      timeNs t = (if getB s F.ASY_SYNC_CTRL_LOAD_TIME then get64 s F.ASY_SYNC_TIME_LO_TIME F.ASY_SYNC_TIME_HI_TIME
        else timeNs s) % 2 ^ 64 ∧
      OnlyFields s t [F.ASY_STATUS_SYNC_SEEN, F.IDN_TIME_LO_TIME, F.IDN_TIME_HI_TIME])) ∧
    (s.run.waitSync = true → multi s = true → Answers .sync s (fun t => emState t = 2 ∧ t.run.waitSync = false ∧
      getB t F.ASY_STATUS_SYNC_SEEN = true)))

/-- The machine's control blocks (R25, R133, R135, R412, R413, R418, R437).  A block that is not the first copy, or fails its
CRC8, does nothing.  The HOLD of a hold not met before orders every running die to freeze with source 11 and goes on over the
other links, and one that has been forwarded holds nothing; READY, VOTE and
START_READY are recorded at the vote root and elsewhere go on towards it; RESUME schedules the releases and COMMIT commits,
and both go on from the root; an IDLE or TRACK block counts one more in a row. -/
def Obligations.MachineControlBlocksAct : Prop :=
  ∀ (s : State) (l : Fin 16) (b : CtlBlock),
    let p := b.payload.toNat
    let o := b.origin.toNat
    let relayed := fun (ct k : Nat) => Out.block k ct o b.cseq.toNat p (blockCrc ct o b.cseq.toNat p)
    (∀ skew : Nat, ∀ e ∈ [(Instr.holdBlock l b, 8), (.readyBlock l b, 9), (.resumeBlock l b, 0xA), (.voteBlock l b, 0xB),
        (.commitBlock l b, 0xC), (.startReadyBlock l b, 0xD), (.ackBlock l b, 3), (.measureBlock l b, 0x14),
        (.echoBlock l b, 0x15), (.spareSwitchBlock l ⟨b, skew⟩, 0x16), (.deepReqBlock l b, 0x17), (.deepAckBlock l b, 0x18)],
      ¬Heard s l e.2 b → Answers e.1 s (fun t => t = s)) ∧
    let key := holdKey o b.cseq.toNat p
    (Heard s l 8 b → key ∈ s.holds.forwarded → Answers (.holdBlock l b) s (fun t =>
      t.outs = s.outs ∧ t.holds = s.holds ∧ t.dies = s.dies ∧ t.run = s.run)) ∧
    (Heard s l 8 b → key ∉ s.holds.forwarded → Answers (.holdBlock l b) s (fun t =>
      key ∈ t.holds.forwarded ∧ t.holds.readyFrom = [] ∧
      (executing s = true → sourceOn t 11 = true ∧ t.holds.release = none ∧ ∀ d : Fin 4,
        t.dies[d].freezeAt = if s.dies[d].frozen then s.dies[d].freezeAt
          else some (min (s.dies[d].freezeAt.getD (s.dies[d].sigma + 1)) (s.dies[d].sigma + 1))) ∧
      (executing s = false → t.dies = s.dies) ∧
      ∀ k : Fin 16, k ≠ l → Carries s k → relayed 8 k ∈ t.outs)) ∧
    (∀ e ∈ [(Instr.readyBlock l b, 9), (.voteBlock l b, 0xB), (.startReadyBlock l b, 0xD)],
      ∀ k : Fin 16, Heard s l e.2 b → voteRoot s = false → rootLink s = [k.val] → Carries s k →
      Answers e.1 s (fun t => t.outs.getLast? = some (relayed e.2 k) ∧
        (getB s (F.LNK_LINK_STATUS_DOZE_TX k) = false → t.outs = s.outs ++ [relayed e.2 k]) ∧
        t.run = s.run ∧ t.holds = s.holds ∧ t.dies = s.dies)) ∧
    (Heard s l 9 b → voteRoot s = true →
      let from_ := s.holds.readyFrom.set none o (some (extendNear 21 (sigmaMin s) p))
      let all := (List.range (machineSize s)).all (fun q => (from_.get none q).isSome)
      (all = false ∨ deviceReady s = false → Answers (.readyBlock l b) s (fun t => t.holds = { s.holds with readyFrom := from_ } ∧
        t.outs = s.outs)) ∧
      (all = true → deviceReady s = true → multi s = true → s.lnk.cut = false → s.holds.release = none → Answers (.readyBlock l b) s (fun t =>
        t.holds = { s.holds with
          readyFrom := []
          release := some (timeNs s + stepsToNs (getF s F.LNK_DIAMETER_STEPS) +
            (if getB s F.LNK_FORM_STATUS_DOZE_ANY then 200 else 0),
            leastOf ((List.range (machineSize s)).filterMap (fun q => from_.get none q))) }))) ∧
    (Heard s l 0xA b → Answers (.resumeBlock l b) s (fun t =>
      (executing s = true →
        t.holds.release = some (extendNear 21 (timeNs s) p, extendNear 21 (sigmaMin s) (p / 2 ^ 21))) ∧
      ∀ k : Fin 16, k.val ∈ fromRoot s → Carries s k → relayed 0xA k ∈ t.outs)) ∧
    (Heard s l 0xB b → voteRoot s = true → Answers (.voteBlock l b) s (fun t =>
      let c := extendNear 21 s.run.nextCommit p
      t.run.devVotes.get none (c * 16 + o) = some (!p.testBit 41) ∧ t.outs = s.outs ∧
      t.run.stopCycles = if p.testBit 40 then s.run.stopCycles ++ [c] else s.run.stopCycles)) ∧
    (Heard s l 0xC b → Answers (.commitBlock l b) s (fun t =>
      let c := extendNear 21 s.run.nextCommit p
      t.run.rootCommit = max s.run.rootCommit (c + 1) ∧
      t.run.stopCycles = (if p.testBit 40 then s.run.stopCycles ++ [c] else s.run.stopCycles) ∧
      ∀ k : Fin 16, k.val ∈ fromRoot s → Carries s k → relayed 0xC k ∈ t.outs)) ∧
    (Heard s l 0xD b → voteRoot s = true → getB s F.LNK_FORM_STATUS_START_READY = false →
      Answers (.startReadyBlock l b) s (fun t => o ∈ t.lnk.started ∧
        getB t F.LNK_FORM_STATUS_START_READY = (List.range (machineSize s)).all (fun q => t.lnk.started.contains q) ∧
        t.outs = if getB t F.LNK_FORM_STATUS_START_READY && getB s F.ASY_SYNC_CTRL_DRIVE
          then s.outs ++ [.sync] else s.outs)) ∧
    (∀ e ∈ [(Instr.idleBlock l b, 1), (.trackBlock l b, 2)],
      (blockOk e.2 b = true → linkActive s l = true → Answers e.1 s (fun t =>
        link t l = { link s l with idle := min 4096 ((link s l).idle + 1) } ∧ t.outs = s.outs ∧
        getB t (F.LNK_LINK_STATUS_DOZE_RX l) = false)) ∧
      (blockOk e.2 b = false ∨ linkActive s l = false → Answers e.1 s (fun t => t = s)))

/-- Blocks and frames of one link (R416, R417, R422 to R430, R432, R434).  An acknowledgement frees the frames that it covers, and
a NAK, like a replay timeout, sends the rest again, or retrains the link at the eighth time; EXCHANGE tells the far end's
position and serial; MEASURE is answered with ECHO, whose round trip counts where it is the largest; SPARE_SWITCH and DEEP_REQ
do what they ask where the link may, and a spare whose skew needs more than the margin is a breach.  A frame in sequence is accepted, acknowledged and its contents kept or queued onwards;
one whose CRC16 fails asks for a replay, and the first after a freeze of adaptation whose eye is too narrow retrains the link. -/
def Obligations.LinkBlocksAndFramesAct : Prop :=
  ∀ (s : State) (l : Fin 16) (b : CtlBlock),
    let p := b.payload.toNat
    let x := link s l
    let resent := fun (fs : List TxFrame) => fs.mapIdx (fun i f =>
      let nak := decide (i = 0) && x.nakDue
      Out.frame l.val f.mgmt f.src f.dest f.seq f.base f.items x.rxSeq nak
        (frameCrc f.mgmt f.src f.dest f.seq f.base f.items x.rxSeq nak))
    let said := fun (ct n q : Nat) => Out.block l.val ct (position s) n q (blockCrc ct (position s) n q)
    (Heard s l 3 b → linkActive s l = true → x.replays < 7 → Answers (.ackBlock l b) s (fun t =>
      let rest := x.replay.filter (fun f => !seqCovered f.seq (bitsOf p 30 12))
      (link t l).replay = rest ∧ t.outs = s.outs ++ (if p.testBit 29 then resent rest else []))) ∧
    (linkActive s l = true → x.replay ≠ [] → Answers (.linkReplayTimeout l) s (fun t =>
      t.outs = s.outs ++ resent x.replay ∧ (link t l).replay = x.replay ∧
      linkStage t l = (if x.replays < 7 then 7 else 2) ∧ getF t (F.LNK_LINK_ERR_REPLAYS l) =
        saturate 16 (getF s (F.LNK_LINK_ERR_REPLAYS l) + x.replay.length))) ∧
    (∀ part : Fin 4, Heard s l (0x10 + part.val) b → Answers (.exchangeBlock l part b) s (fun t =>
      (link t l).exch.get none part = some p ∧ t.outs = s.outs ∧
      (part = 0 → getF t (F.LNK_LINK_STATUS_FAR_POS l) = bitsOf p 12 4) ∧
      (part = 1 → getF t (F.LNK_LINK_FAR_SERIAL l) = p % 2 ^ 32))) ∧
    (Heard s l 0x14 b → Answers (.measureBlock l b) s (fun t =>
      t.outs = s.outs ++ [said 0x15 s.lnk.cseq (p % 2 ^ 21)] ∧
      t.lnk.cseq = (s.lnk.cseq + 1) % 16)) ∧
    (Heard s l 0x15 b → linkStage s l = 6 → Answers (.echoBlock l b) s (fun t => (link t l).roundTrip =
      some (max (ceilDiv ((s.lnk.periods + 2 ^ 21 - p % 2 ^ 21) % 2 ^ 21 * getF s F.CLK_SCLK_D) 256)
        (x.roundTrip.getD 0)))) ∧
    (∀ skew : Nat, Heard s l 0x16 b → linkActive s l = true → spareFree s l = true → Answers (.spareSwitchBlock l ⟨b, skew⟩) s (fun t =>
      getB t (F.LNK_LINK_STATUS_SPARE_IN_USE l) = true ∧ getF t (F.LNK_LINK_STATUS_FAILED_LANE l) = p % 16 ∧
      getB t F.LNK_STATUS_SPARE_USED = true ∧
      if x.latency.getD x.measured + 4 < x.measured + skew
      then getB t F.LNK_STATUS_DELAY_BREACH = true ∧ linkStage t l = 6 else linkStage t l = 7)) ∧
    (Heard s l 0x17 b → Carries s l → executing s = false → Answers (.deepReqBlock l b) s (fun t =>
      t.outs.getLast? = some (said 0x18 s.lnk.cseq 0) ∧ linkStage t l = 0 ∧
      getB t (F.LNK_LINK_STATUS_DEEP l) = true)) ∧
    (Heard s l 0x17 b → executing s = true → Answers (.deepReqBlock l b) s (fun t =>
      t.outs = s.outs ∧ linkStage t l = linkStage s l)) ∧
    (Heard s l 0x18 b → x.deepWait = true → Answers (.deepAckBlock l b) s (fun t => (link t l).deepWait = false ∧
      if executing s then getB t (F.LNK_LINK_CTRL_DEEP l) = false ∧ linkStage t l = linkStage s l
      else linkStage t l = 0 ∧ getB t (F.LNK_LINK_STATUS_DEEP l) = true)) ∧
    (∀ f : LinkFrame, Carries s l → (f.nak = true → x.replays < 7) →
      let may := x.frozen = false ∨ getF s F.LNK_EYE_MIN ≤ f.eye.toNat
      let accepted := fun (t : State) => (link t l).rxSeq = f.seq.toNat ∧ (link t l).nak = false ∧
        ∃ n, said 3 n (f.seq.toNat * 2 ^ 30) ∈ t.outs
      (∀ c ∈ [(Instr.dataFrame l f, false), (.mgmtFrame l ⟨f, none⟩, true)],
        (frameOk c.2 f = true → may → f.seq.toNat = (x.rxSeq + 1) % 4096 → Answers c.1 s accepted) ∧
        (frameOk c.2 f = true → ¬may → Answers c.1 s (fun t => linkStage t l = 2 ∧ (link t l).rxSeq = x.rxSeq)) ∧
        (frameOk c.2 f = false → Answers c.1 s (fun t => t.outs = s.outs ∧ (link t l).nak = true ∧ (link t l).rxSeq = x.rxSeq ∧
          getF t (F.LNK_LINK_ERR_CRC_FAIL l) = saturate 16 (getF s (F.LNK_LINK_ERR_CRC_FAIL l) + 1) ∧ t.dies = s.dies))) ∧
      (may → f.seq.toNat = (x.rxSeq + 1) % 4096 →
        (frameOk true f = true → f.destPos.toNat = position s →
          let kept := s.lnk.mgmtIn ++ [(f.srcPos.toNat, f.items.map BitVec.toNat)]
          Answers (.mgmtFrame l ⟨f, none⟩) s (fun t => t.lnk.mgmtIn = kept) ∧
          (∀ target : BitVec 11, Answers (.mgmtFrame l ⟨f, some (.rampWant target)⟩) s (fun t => accepted t ∧
            t.lnk.mgmtIn = kept ∧ t.clk.wants.get 256 f.srcPos.toNat = target.toNat)) ∧
          Answers (.mgmtFrame l ⟨f, some .rampAck⟩) s (fun t => accepted t ∧ t.lnk.mgmtIn = kept ∧
            t.clk.acks = s.clk.acks.filter (· ≠ f.srcPos.toNat)) ∧
          ∀ h, s.run.hallmark = some h → Answers (.mgmtFrame l ⟨f, some (.partDone true)⟩) s (fun t => accepted t ∧
            t.lnk.mgmtIn = kept ∧
            t.run.hallmark = some { h with waits := h.waits.filter (· ≠ f.srcPos.toNat) })) ∧
        (∀ k i, frameOk false f = true → f.destPos.toNat ≠ position s → routeTo s f.destPos.toNat = some k → f.items = [i] → i.getLsbD 15 = false →
          Answers (.dataFrame l f) s (fun t => (link t k).queue = (link s k).queue ++
            [⟨f.srcPos.toNat, f.destPos.toNat, f.baseTag.toNat % 1024, i.toNat⟩]))))

/-- The commands on a link and on the machine (R406, R419, R426 to R430, R432 to R436, R438).  Bring-up goes on stage by stage, a stage that
times out leads back to Detect, and Measure ends in Active with the latencies of the larger round trip, or in a breach that holds; a failing lane moves to the
spare or retrains the link; enabling, forming, Deep, Doze, retraining and the map read do what their registers ask, under
their checks. -/
def Obligations.LinkCommandsAct : Prop :=
  ∀ (s : State) (l : Fin 16) (v : Word),
    let g := linkStage s l
    let x := link s l
    let deep := fun (t : State) => getB t (F.LNK_LINK_STATUS_DEEP l)
    let sent := fun (t : State) (ct p : Nat) =>
      ∃ n, Out.block l.val ct (position s) n p (blockCrc ct (position s) n p) ∈ t.outs
    (∀ (codes : List (BitVec 4 × Byte)) (far : Nat),
      (g = 1 ∨ g = 3 → Answers (.linkStagePass l ⟨codes, far⟩) s (fun t => t = setF s (F.LNK_LINK_STATUS_STAGE l) (g + 1))) ∧
      (g = 2 → Answers (.linkStagePass l ⟨codes, far⟩) s (fun t => match trainLanes s l codes with
        | some u => t = setF u (F.LNK_LINK_STATUS_STAGE l) 3
        | none => t = s)) ∧
      (g = 4 → Answers (.linkStagePass l ⟨codes, far⟩) s (fun t => linkStage t l = 5 ∧
        ∀ i : Fin 4, sent t (0x10 + i) (exchangePayload s l i))) ∧
      (g = 5 → exchangeAgrees s l = true → Answers (.linkStagePass l ⟨codes, far⟩) s (fun t => linkStage t l = 6 ∧
        (link t l).roundTrip = none ∧ sent t 0x14 (s.lnk.periods % 2 ^ 21))) ∧
      (g = 6 → x.breach = true → exec (.linkStagePass l ⟨codes, far⟩) s = .next s) ∧
      (∀ own, g = 6 → x.roundTrip = some own → deep s = false → x.breach = false →
        let rt := max own far
        let w := getF s (F.LNK_LINK_CFG_WIDTH l)
        let r := getF s (F.LNK_LINK_CFG_RATE l)
        let kept := x.latency.getD (dataLatency rt w r)
        (dataLatency rt w r ≤ kept + 4 → Answers (.linkStagePass l ⟨codes, far⟩) s (fun t => linkActive t l = true ∧
          getF t (F.LNK_LINK_LAT_DATA l) = kept % 2 ^ 16 ∧
          getF t (F.LNK_LINK_LAT_CTRL l) = controlLatency rt w r % 2 ^ 16 ∧ (link t l).latency = some kept)) ∧
        (kept + 4 < dataLatency rt w r → Answers (.linkStagePass l ⟨codes, far⟩) s (fun t =>
          getB t F.LNK_STATUS_DELAY_BREACH = true ∧ FieldsBut s t [F.LNK_STATUS_DELAY_BREACH] ∧
          link t l = { x with breach := true })))) ∧
    (2 ≤ g → g ≤ 6 → x.breach = false → Answers (.linkStageTimeout l) s (fun t => linkStage t l = 1 ∧
      getF t (F.LNK_LINK_STATUS_FAIL_STAGE l) = g ∧
      getF t (F.LNK_LINK_RETRAINS_COUNT l) = saturate 32 (getF s (F.LNK_LINK_RETRAINS_COUNT l) + 1) ∧
      t = { s with regs := t.regs })) ∧
    (∀ (k : BitVec 4) (n : BitVec 8) (skew : Nat), Carries s l → k.toNat < getF s (F.LNK_LINK_CFG_WIDTH l) →
      Answers (.laneFailing l k ⟨n, skew⟩) s (fun t =>
      if spareFree s l then getB t (F.LNK_LINK_STATUS_SPARE_IN_USE l) = true ∧
        getF t (F.LNK_LINK_STATUS_FAILED_LANE l) = k.toNat ∧ sent t 0x16 k.toNat
      else linkStage t l = 2 ∧ getB t F.LNK_STATUS_LINK_DOWN = true)) ∧
    (∀ graph, linkActive s l = true → getB s F.LNK_STATUS_FORMED = true → multi s = true →
      Answers (.linkLeavesActive l graph) s (fun t => linkStage t l = 1 ∧ getB t F.LNK_STATUS_LINK_DOWN = true ∧
        t.lnk.graph = graph ∧ getF t F.LNK_DIAMETER_STEPS =
          (match holdDiameter graph (machineSize s) with | some n => saturate 16 n | none => 0xFFFF) ∧
        t.lnk.cut = (match holdDiameter graph (machineSize s) with | some n => decide (224 < n) | none => true) ∧
        (executing s = true → t.lnk.cut = true → sourceOn t 11 = true))) ∧
    (getB s (F.LNK_LINK_CFG_EN l) = false → v.getLsbD 31 = true → Answers (.linkCfgEnable l v) s (fun t =>
      if linkCfgOk (plainWrite s (0xC0100 + 32 * l) (v.toNat % 2 ^ 31)) l
      then getB t (F.LNK_LINK_CFG_EN l) = true ∧ linkStage t l = 1
      else getB t (F.LNK_LINK_CFG_EN l) = false ∧ getB t F.LNK_STATUS_CFG_REJECT = true)) ∧
    (getB s (F.LNK_LINK_CFG_EN l) = true →
      (v.getLsbD 31 = true → Answers (.linkCfgEnable l v) s (fun t => t = s)) ∧
      (v.getLsbD 31 = false → Answers (.linkCfgEnable l v) s (fun t => getB t (F.LNK_LINK_CFG_EN l) = false ∧
        linkStage t l = 0 ∧ link t l = LinkSt.reset))) ∧
    (emState s ≠ 0 → Answers (.form v) s (fun t => t = s)) ∧
    (emState s = 0 → v.getLsbD 31 = true → Answers (.form v) s (fun t =>
      getF t F.LNK_MACHINE_POSITION = v.toNat % 16 ∧ machineSize t = v.toNat / 256 % 16 + 1 ∧
      (machineSize t = 1 → getB t F.LNK_STATUS_FORMED = true ∧ multi t = false ∧ position t = v.toNat % 16) ∧
      (machineSize t ≠ 1 → getB t F.LNK_STATUS_FORMED = false ∧ t.lnk.forming = true))) ∧
    (∀ (peers : List PeerReport) (graph : List GraphEdge), s.lnk.forming = true →
      let pos := getF s F.LNK_MACHINE_POSITION
      let ps := ⟨BitVec.ofNat 4 pos, BitVec.ofNat 64 (deviceSerial s),
        BitVec.ofNat 4 (getF s F.LNK_MACHINE_SIZE_M1), getB s F.LNK_CTRL_DOZE_EN⟩ :: peers
      let n := machineSize s
      let present := (List.range 16).foldl (fun m q =>
        if ps.any (fun a => a.position.toNat = q) then m + 2 ^ q else m) 0
      let reason := if (duplicatePos ps).isSome then 1
        else if ps.any (fun a => a.sizeM1.toNat + 1 ≠ n || decide (n ≤ a.position.toNat)) then 2
        else if (List.range n).any (fun q => !present.testBit q) || (holdDiameter graph n).isNone then 3
        else if 224 < (holdDiameter graph n).getD 0 then 4 else 0
      Answers (.formationCheck peers graph) s (fun t => t.lnk.forming = false ∧
        if reason = 0 then getB t F.LNK_STATUS_FORMED = true ∧ position t = pos ∧ t.lnk.graph = graph ∧
          multi t = decide (1 < n) ∧ getB t F.ARY_STATE_VOTE_ROOT = (pos == 0)
        else getB t F.LNK_STATUS_FORM_FAIL = true ∧ getF t F.LNK_FORM_STATUS_REASON = reason ∧
          getB t F.LNK_STATUS_FORMED = getB s F.LNK_STATUS_FORMED)) ∧
    (v.getLsbD 31 = true → v.getLsbD 30 = false → deep s = false → x.deepWait = false →
      (executing s = false → linkActive s l = true → Answers (.deep l v) s (fun t =>
        getB t (F.LNK_LINK_CTRL_DEEP l) = true ∧ (link t l).deepWait = true ∧ sent t 0x17 0)) ∧
      (executing s = true → Answers (.deep l v) s (fun t => getB t (F.LNK_LINK_CTRL_DEEP l) = false ∧
        t.outs = s.outs ∧ (link t l).deepWait = false))) ∧
    (x.deepWait = true → Answers (.deepAckTimeout l) s (fun t => getB t (F.LNK_LINK_CTRL_DEEP l) = false ∧
      (link t l).deepWait = false ∧ t.outs = s.outs)) ∧
    (v.getLsbD 31 = false → v.getLsbD 30 = true → deep s = false → 2 ≤ g → Answers (.retrain l v) s (fun t =>
      linkStage t l = 2 ∧ (link t l).replay = x.replay ∧ (link t l).rxSeq = x.rxSeq)) ∧
    (linkActive s l = true → Answers (.dozeEntry ⟨l, true⟩) s (fun t => getB t (F.LNK_LINK_STATUS_DOZE_RX l) = true ∧
      OnlyFields s t [F.LNK_LINK_STATUS_DOZE_RX l])) ∧
    Answers (.dozeExit ⟨l, true⟩) s (fun t => getB t (F.LNK_LINK_STATUS_DOZE_RX l) = false ∧
      OnlyFields s t [F.LNK_LINK_STATUS_DOZE_RX l]) ∧
    (getB s F.LNK_CTRL_DOZE_EN = true → linkActive s l = true → dozeDue s l = true →
      (executing s = false ∨ allFrozen s = true) → Answers (.dozeEntry ⟨l, false⟩) s (fun t => getB t (F.LNK_LINK_STATUS_DOZE_TX l) = true ∧
        OnlyFields s t [F.LNK_LINK_STATUS_DOZE_TX l])) ∧
    Answers (.dozeExit ⟨l, false⟩) s (fun t => getB t (F.LNK_LINK_STATUS_DOZE_TX l) = false ∧
      FieldsBut s t [F.LNK_LINK_STATUS_DOZE_TX l] ∧
      t.outs.length = s.outs.length + if getB s (F.LNK_LINK_STATUS_DOZE_TX l) then 4 else 0) ∧
    (4096 ≤ x.idle → Answers (.adaptationFreeze l) s (fun t => link t l = { x with frozen := true })) ∧
    (deep s = true → Answers (.deepExit l) s (fun t => deep t = false ∧ linkStage t l = 1)) ∧
    Answers .lnkMapDataRead s (fun t =>
      t.outs = s.outs ++ [.readValue 0 (s.lnk.map.get 0 (getF s F.LNK_MAP_INDEX_ENTRY))] ∧
      getF t F.LNK_MAP_INDEX_ENTRY = (getF s F.LNK_MAP_INDEX_ENTRY + 1) % 2 ^ 12)

/-- Commands of the HBM subsystem (R219, R220, R223 to R228, R231, R232, R235).  APPLY loads a stack's delays and makes it
READY or failed; RESTORE_TABLE brings the windows back from a copy that passes; a window is enabled under its checks and
disabled unless it is locked; a pseudo-channel that no enabled window uses returns to service; HBM_PHY_DATA reads and writes
the entry that its index names; a refresh counts, halves by temperature and takes timings that are due; the scrub counts and
writes back a corrected word, records an uncorrectable one, and advances; a scrub command that fails its parity check marks the
pseudo-channel failed if the one before did too. -/
def Obligations.HbmCommandsAct : Prop :=
  ∀ (s : State) (v : Word),
    (∀ (i : Fin 4) (pass : BitVec 4), v.getLsbD i = true → (getF s F.HBM_STATUS_READY).testBit i = false →
      Answers (.apply v pass) s (fun t => (getF t F.HBM_STATUS_READY).testBit i = pass.getLsbD i ∧
        (getF t F.HBM_STATUS_PHY_FAIL).testBit i = !pass.getLsbD i ∧
        (pass.getLsbD i = true → (getF t F.HBM_STATUS_SELF_REFRESH).testBit i = false) ∧
        (∀ e, e < 2048 → t.hbm.delays.get 0 (i * 2048 + e) = getF s (F.HBM_PHY_DATA_TAPS.bank (i * 2048 + e))) ∧
        FieldsBut s t [F.HBM_STATUS_READY, F.HBM_STATUS_PHY_FAIL, F.HBM_STATUS_SELF_REFRESH])) ∧
    let copy := fun (c0 c1 : Bool) => (if stackReady s 0 && c0 then s.hbm.table0 else none) <|>
      (if stackReady s 32 && c1 then s.hbm.table32 else none)
    (∀ (c0 c1 : Bool) (tb : List Nat), v.getLsbD 0 = true → copy c0 c1 = some tb → Answers (.restoreTable v c0 c1) s (fun t =>
        getB t F.HBM_STATUS_TABLE_VALID = true ∧ ∀ n : Fin 16, let w := fun i => tb.getD (7 * n + i) 0
          getF t (F.HBM_WIN_CTRL_OWNER n) = bitsOf (w 0) 28 3 ∧ getF t (F.HBM_WIN_CTRL_GRAIN n) = bitsOf (w 0) 24 4 ∧
          winMirror t n = (w 0).testBit 23 ∧ getF t (F.HBM_WIN_BASE_BASE n) = w 1 % 2 ^ 14 ∧
          getF t (F.HBM_WIN_SIZE_SIZE n) = w 2 % 2 ^ 22 ∧ getB t (F.HBM_WIN_CTRL_LOCK n) = false ∧
          (∀ m : Fin 4, getF t (F.HBM_WIN_SET_SET n m) = w (3 + m) % 2 ^ 32) ∧
          getB t (F.HBM_WIN_CTRL_EN n) = ((w 0).testBit 31 && (winChannels t n).all (stackReady t)))) ∧
    (∀ c0 c1 : Bool, v.getLsbD 0 = true → (stackReady s 0 || stackReady s 32) = true →
      copy c0 c1 = none → Answers (.restoreTable v c0 c1) s (fun t =>
        getB t F.HBM_STATUS_TABLE_VALID = false ∧ OnlyFields s t [F.HBM_STATUS_TABLE_VALID])) ∧
    (∀ n : Fin 16,
      (getB s (F.HBM_WIN_CTRL_EN n) = false → v.getLsbD 31 = true → Answers (.windowEnable n v) s (fun t =>
        if winOk (showDegraded (plainWrite s (0x90100 + 32 * n) (v.toNat % 2 ^ 31))) n
        then getB t (F.HBM_WIN_CTRL_EN n) = true
        else getB t (F.HBM_WIN_CTRL_EN n) = false ∧ getB t F.HBM_STATUS_WIN_REJECT = true)) ∧
      (getB s (F.HBM_WIN_CTRL_EN n) = true → v.getLsbD 31 = false → getF s (F.HBM_WIN_CTRL_OWNER n) = bitsOf v.toNat 28 3 →
        getF s (F.HBM_WIN_CTRL_GRAIN n) = bitsOf v.toNat 24 4 → winMirror s n = v.getLsbD 23 →
        Answers (.windowEnable n v) s (fun t => getB t (F.HBM_WIN_CTRL_EN n) = getB s (F.HBM_WIN_CTRL_LOCK n) ∧
          OnlyFields s t [F.HBM_WIN_CTRL_EN n])) ∧
      (getB s (F.HBM_WIN_CTRL_EN n) = true → v.getLsbD 31 = true → Answers (.windowEnable n v) s (fun t => t = s))) ∧
    (∀ m : Fin 4, Answers (.pcFailedWrite m v) s (fun t => t = { s with regs := t.regs } ∧ ∀ b : Fin 32,
      (getF t (F.HBM_PC_FAILED_FAILED m)).testBit b = ((getF s (F.HBM_PC_FAILED_FAILED m)).testBit b &&
        !(v.getLsbD b && (List.range 16).all (fun n =>
          !getB s (F.HBM_WIN_CTRL_EN n) || !(winChannels s n).contains (32 * m + b)))))) ∧
    ((getF s F.HBM_STATUS_READY).testBit (getF s F.HBM_PHY_INDEX_STACK) = false → Answers (.phyDataAccess (some v)) s (fun t =>
      getF t (phyField s) = v.toNat % 2 ^ 8 ∧ getF t F.HBM_PHY_INDEX_ENTRY = (getF s F.HBM_PHY_INDEX_ENTRY + 1) % 2 ^ 11 ∧
      OnlyFields s t [phyField s, F.HBM_PHY_INDEX_ENTRY])) ∧
    Answers (.phyDataAccess none) s (fun t => t.outs = s.outs ++ [.readValue 0 (getF s (phyField s))] ∧
      getF t F.HBM_PHY_INDEX_ENTRY = (getF s F.HBM_PHY_INDEX_ENTRY + 1) % 2 ^ 11 ∧
      FieldsBut s t [F.HBM_PHY_INDEX_ENTRY]) ∧
    (Answers .refresh s (fun t => getF t F.HBM_REFRESH_COUNT_COUNT = (getF s F.HBM_REFRESH_COUNT_COUNT + 1) % 2 ^ 32 ∧
      OnlyFields { s with hbm := t.hbm } t [F.HBM_REFRESH_COUNT_COUNT, F.HBM_REFRESH_CTRL_HALVED] ∧
      (getB s F.HBM_REFRESH_CTRL_AUTO_HALVE = false → getB t F.HBM_REFRESH_CTRL_HALVED = false) ∧
      (getB s F.HBM_REFRESH_CTRL_AUTO_HALVE = true → (stackTemps s).any (85 < ·) = true →
        getB t F.HBM_REFRESH_CTRL_HALVED = true) ∧
      (getB s F.HBM_REFRESH_CTRL_AUTO_HALVE = true → (stackTemps s).all (· ≤ 80) = true →
        getB t F.HBM_REFRESH_CTRL_HALVED = false) ∧
      (∀ a b, s.hbm.written = [(1, a, b)] → t.hbm.timing = (a, b) ∧ t.hbm.written = []) ∧
      (∀ a b, s.hbm.written = [(2, a, b)] → t.hbm.timing = s.hbm.timing ∧ t.hbm.written = [(1, a, b)]))) ∧
    (∀ (pc : Fin 128) (w : BitVec 27) (e : Ecc), getB s F.HBM_SCRUB_CTRL_EN = true → stackReady s pc = true →
      pcFailed s pc = false → s.hbm.parity.get false pc = false →
      let was := hbmMark s pc (8 * w.toNat)
      let m := if e = .clean ∨ was = .uncorrectable then was else e
      Answers (.scrub pc w ⟨e, false⟩ none) s (fun t =>
        getF t F.HBM_SCRUB_PROGRESS_POSITION = (pc.val * 2 ^ 27 + w.toNat + 1) / 2 ^ 18 % 2 ^ 16 ∧
        (m = .clean → OnlyFields s t [F.HBM_SCRUB_PROGRESS_POSITION, F.HBM_SCRUB_PROGRESS_PASSES]) ∧
        (m = .corrected → getF t (F.HBM_CE_COUNT_COUNT (pc / 32)) =
          saturate 32 (getF s (F.HBM_CE_COUNT_COUNT (pc / 32)) + 1) ∧ hbmMark t pc (8 * w.toNat) = .clean) ∧
        (m = .uncorrectable → getB t F.HBM_STATUS_UE = true ∧ getF t F.HBM_UE_LOC_PC = pc.val ∧
          getF t F.HBM_UE_WORD_WORD = w.toNat ∧ getB t F.HBM_UE_LOC_FROM_SCRUB = true))) ∧
    (∀ (pc : Fin 128) (w : BitVec 27) (e : Ecc), getB s F.HBM_SCRUB_CTRL_EN = true → stackReady s pc = true →
      pcFailed s pc = false → Answers (.scrub pc w ⟨e, true⟩ none) s (fun t =>
        t = { s with hbm := t.hbm, regs := t.regs } ∧ pcFailed t pc = s.hbm.parity.get false pc ∧
        t.hbm.parity.get false pc = !s.hbm.parity.get false pc)) ∧
    (∀ (pc : Fin 128) (w : BitVec 27) (e : Ecc) (par : Bool), getB s F.HBM_SCRUB_CTRL_EN = false →
      exec (.scrub pc w ⟨e, par⟩ none) s = .next s) ∧
    (∀ (pc q : Fin 128) (w u : BitVec 27) (e f : Ecc) (par : Bool), Answers (.scrub pc w ⟨e, par⟩ none) s (fun t =>
      exec (.scrub pc w ⟨e, par⟩ (some (q, u, f))) s = .next (upsetHbm t q (u.toNat * 8) f)))

/-- The package network (R241 to R244, R248 to R251, R253, R256).  A packet whose flits come through is answered: with data, an
ACK or what its target finds where it is delivered, again where it has been, with an error where its node does not exist or is
isolated; one that fails the destination's checks is discarded and counted, and one that its source may not inject goes nowhere.
A response lets go what it acknowledges.  A packet not acknowledged is sent again until RETRIES, and then given up.  A closing
block that is quiet closes its gate, and its interface refuses what it held; one that is not within its time is isolated by FORCE,
with everything that it has not answered refused, or stays open.  CLEAR and EN act on the trace ring. -/
def Obligations.NetworkCommandsAct : Prop :=
  ∀ s : State,
    let said := fun (q : Packet) (ty st : Nat) (bs : List (BitVec 256)) (o : Out) =>
      ∃ a, let r := answerPacket q ty st a bs
        o = .packet r (packetCrc r)
    (∀ (p : Packet) (us : List HopUpset) (finds : TargetFinds) (b : Bool),
      (sourceTakes p = false → exec (.packetDelivery p ⟨us, finds, b⟩) s = .next s) ∧
      (sourceTakes p = true → stored s p = true ∨ p.type.toNat = 3 ∨ outstanding s p.src < 256 →
        let act := Instr.packetDelivery p ⟨us, finds, b⟩
        let u := us.foldl hopCounts (inject s p b)
        (received p us = none ∨ (∃ r, received p us = some r ∧ packetBad r = true) → Answers act s (fun t => t.outs = s.outs ∧
          getF t F.NET_E2E_COUNT_DISCARDS = saturate 16 (getF s F.NET_E2E_COUNT_DISCARDS + 1) ∧ t.net.seen = s.net.seen ∧
          (p.type.toNat ≠ 3 → stored t p = true))) ∧
        (∀ r, received p us = some r → packetBad r = false → r.pkt.type.toNat < 2 →
          let q := r.pkt
          let n := q.dest.toNat
          let reply := fun (t : State) (ty st : Nat) (bs : List (BitVec 256)) =>
            (∃ o, t.outs = s.outs ++ [o] ∧ said q ty st bs o) ∧ (p.type.toNat ≠ 3 → stored t p = true)
          let taken := nodeExists s n = true ∧ seenBefore s q = false ∧ netIsolated s n = false
          (nodeExists s n = false → Answers act s (fun t => reply t 4 2 [])) ∧
          (nodeExists s n = true → seenBefore s q = false → netIsolated s n = true →
            Answers act s (fun t => reply t 4 1 [] ∧ t.net.seen = s.net.seen)) ∧
          (taken → netHolds s n = true → q ∉ s.net.held → Answers act s (fun t =>
            t.outs = s.outs ∧ t.net.held = s.net.held ++ [q] ∧ t.net.seen = s.net.seen)) ∧
          (taken → netHolds s n = false → Answers act s (fun t => seenBefore t q = true ∧
            match finds with
            | .served e => if q.type.toNat = 1 then reply t 3 0 []
                else if e = .uncorrectable then reply t 4 4 []
                else reply t 2 0 (bytesFlits (unitRead s (hubUnit q) q.addr.toNat (q.aux.toNat % 512 + 1) e).1)
            | .denied => reply t 4 6 []
            | .timeout => reply t 4 5 []
            | .later => t.outs = s.outs ∧ q ∈ t.net.opened)) ∧
          (nodeExists s n = true → seenBefore s q = true →
            (q ∈ u.net.opened → Answers act s (fun t => t.outs = s.outs)) ∧
            (q ∉ u.net.opened → ∀ e, u.net.store.find? (fun e => answers e.pkt q) = some e →
              Answers act s (fun t => t.outs = s.outs ++ [.packet e.pkt (packetCrc e.pkt)])) ∧
            (q ∉ u.net.opened → u.net.store.find? (fun e => answers e.pkt q) = none → q.type.toNat = 1 →
              Answers act s (fun t => reply t 3 0 [])))) ∧
        (∀ r, received p us = some r → packetBad r = false → isResponse r.pkt = true →
          nodeExists s r.pkt.dest.toNat = true → seenBefore s r.pkt = false → netIsolated s r.pkt.dest.toNat = false →
          Answers act s (fun t => (∀ e ∈ t.net.store, answers r.pkt e.pkt = false) ∧
            if r.pkt.type.toNat = 3 then t.outs = s.outs
            else ∃ o, t.outs = s.outs ++ [o] ∧ said r.pkt 3 0 [] o)))) ∧
    (∀ (src : BitVec 11) (tag : BitVec 16) (e : NetEntry) (b : Bool),
      s.net.store.find? (fun e => e.pkt.src = src ∧ e.pkt.tag = tag) = some e →
      (e.sent ≤ getF s F.NET_CTRL_RETRIES → Answers (.packetResend ⟨src, tag⟩ b) s (fun t =>
        t.outs = s.outs ++ [.packet e.pkt (packetCrc e.pkt)] ∧ { e with sent := e.sent + 1 } ∈ t.net.store ∧
        getF t F.NET_E2E_COUNT_RESENDS = saturate 16 (getF s F.NET_E2E_COUNT_RESENDS + 1))) ∧
      (getF s F.NET_CTRL_RETRIES < e.sent → Answers (.packetResend ⟨src, tag⟩ b) s (fun t =>
        getB t F.NET_STATUS_E2E_FAIL = true ∧ e ∉ t.net.store ∧
        let ofTile := isTileNode src.toNat && executing s && e.pkt.vc = 0
        if ofTile && e.pkt.type.toNat = 0 then getB t F.FLT_STATUS_REPLAYING = true
        else if ofTile && e.pkt.type.toNat = 1 then emState t = 5 ∧ getB t F.FLT_STATUS_HBM_HALT = true
        else getF t F.NET_E2E_LAST_SRC = src.toNat ∧ getF t F.NET_E2E_LAST_DEST = e.pkt.dest.toNat ∧
          ∃ o, t.outs = s.outs ++ [o] ∧ said e.pkt 4 3 [] o))) ∧
    (∀ g : Fin 86, let f := fun (x : Fld) => gateFld x g
      let s' := drainGate s g
      let refused := fun (u t : State) (ps : List Packet) =>
        ∃ os, List.Forall₂ (fun o p => said p 4 1 [] o) os ps ∧ t.outs = u.outs ++ os
      (getB s (f F.CLK_GATE_CTRL_CLOSING) = true →
        (gateQuiet s' g = true → Answers (.quiesceReport g) s (fun t => getB t (f F.CLK_GATE_CTRL_OPEN) = false ∧
          getB t (f F.CLK_GATE_CTRL_CLOSING) = false ∧ refused s' t (heldFor s g) ∧ heldFor t g = [])) ∧
        (gateQuiet s' g = false → exec (.quiesceReport g) s = .next s')) ∧
      (getB s (f F.CLK_GATE_CTRL_CLOSING) = false → Answers (.quiesceReport g) s (fun t => t = s) ∧
        Answers (.quiesceTimeout g) s (fun t => t = s)) ∧
      (getB s (f F.CLK_GATE_CTRL_CLOSING) = true → getB s (f F.CLK_GATE_CTRL_FORCE) = true →
        Answers (.quiesceTimeout g) s (fun t => getB t (f F.CLK_GATE_CTRL_ISOLATED) = true ∧
          getB t (f F.CLK_GATE_CTRL_OPEN) = false ∧ getF t F.NET_ISO_LAST_NODE = nodeOfGate g ∧
          refused s t (openFor s g ++ heldFor s g) ∧ heldFor t g = [] ∧ openFor t g = [])) ∧
      (getB s (f F.CLK_GATE_CTRL_CLOSING) = true → getB s (f F.CLK_GATE_CTRL_FORCE) = false →
        Answers (.quiesceTimeout g) s (fun t => getB t F.CLK_STATUS_QUIESCE_TIMEOUT = true ∧
          getB t (f F.CLK_GATE_CTRL_CLOSING) = false ∧ heldFor t g = [] ∧
          getB t (f F.CLK_GATE_CTRL_OPEN) = getB s (f F.CLK_GATE_CTRL_OPEN)))) ∧
    (∀ v : Word, let w := getF s F.NET_TRACE_WINDOW_WINDOW
      (v.getLsbD 4 = true → Answers (.traceClear v) s (fun t => getF t F.NET_TRACE_INDEX_NEXT = 0)) ∧
      (v.getLsbD 31 = true → getB s F.NET_TRACE_CTRL_EN = false → Answers (.traceEnable v) s (fun t =>
        getB t F.NET_TRACE_CTRL_EN = winOwned s w 5 ∧ getB t F.NET_TRACE_CTRL_WRAP = v.getLsbD 1 ∧
        (winOwned s w 5 = false → getB t F.NET_STATUS_TRACE_REJECT = true) ∧ t = { s with regs := t.regs })))

/-- Clocks (R496, R497, R500 to R504, R506 to R508).  A PLL judged stable shows its LOCK bit and completes the switches that
wait for it; an unlock clears the bit, is counted, and stops what the PLL feeds; a switch is made where the new source runs,
or waits; a lost REFCLK is held over, steered where a link leads to the root, and an expiry announces the hold of source 10;
its return has every PLL judged again; a gate closes or reopens under its conditions, or is refused, and a block whose gate
reopens stays isolated until it has signalled quiesce exit. -/
def Obligations.ClockCommandsAct : Prop :=
  ∀ (s : State),
    (∀ p : Fin 29, (s.clk.lost = true → Answers (.pllStable p) s (fun t => t = s)) ∧
      (s.clk.lost = false → Answers (.pllStable p) s (fun t => (getF t F.CLK_PLL_LOCK_LOCK).testBit p = true ∧
        (∀ i : Fin 27, islandPll i = p → getF s (F.CLK_SWITCH_SEL i) = 1 → getF t (F.CLK_SWITCH_CURRENT i) = 1) ∧
        (p = 27 → s.hgr.loaded = true → hpllByte s 0 0 ≠ 0 → getB t F.HGR_PLL_0_LOCKED = true ∧
          ∀ j : Fin 4, getB t (F.HGR_UCLK_RUNNING j) = (hpllByte s 0 (4 + j) != 0)))) ∧
      (pllLocked s p = true → s.clk.lost = false → Answers (.pllUnlock p) s (fun t =>
        (getF t F.CLK_PLL_LOCK_LOCK).testBit p = false ∧
        getF t F.CLK_PLL_UNLOCKS_COUNT = saturate 32 (getF s F.CLK_PLL_UNLOCKS_COUNT + 1) ∧
        (p = 0 → getB t F.CLK_STATUS_UNLOCK = true ∧ getF t (F.CLK_SWITCH_CURRENT 6) = 0) ∧
        (p = 1 → getB t F.CLK_STATUS_UNLOCK = true ∧ getF t (F.CLK_SWITCH_CURRENT 5) = 0) ∧
        (∀ d : Fin 4, p.val = 3 + d.val → executing s = true →
          t.run.votes.get none (chargedCycle s d * 4 + d) = some (some false)) ∧
        (∀ i : Fin 4, p.val = 7 + i.val → (getF t F.HBM_STATUS_READY).testBit i = false) ∧
        (p = 27 → ∀ j : Fin 4, getB t (F.HGR_UCLK_RUNNING j) = false))) ∧
      (pllLocked s p = false → Answers (.pllUnlock p) s (fun t => t = s))) ∧
    (∀ (i : Fin 27) (v : Word) (old new : Bool),
      let sel := if bitsOf v.toNat 0 2 = 3 then 0 else bitsOf v.toNat 0 2
      (sel = getF s (F.CLK_SWITCH_CURRENT i) ∨ sel = 2 ∨ new = true → Answers (.clockSwitch i v old new) s (fun t =>
        getF t (F.CLK_SWITCH_CURRENT i) = sel ∧ getB t (F.CLK_SWITCH_BUSY i) = false ∧
        (sel ≠ getF s (F.CLK_SWITCH_CURRENT i) → old = false → getB t (F.CLK_SWITCH_STOPPED_SRC i) = true))) ∧
      (sel ≠ getF s (F.CLK_SWITCH_CURRENT i) → sel ≠ 2 → new = false → Answers (.clockSwitch i v old new) s (fun t =>
        getF t (F.CLK_SWITCH_CURRENT i) = getF s (F.CLK_SWITCH_CURRENT i) ∧ getB t (F.CLK_SWITCH_BUSY i) = true))) ∧
    Answers .refclkLoss s (fun t => getB t F.CLK_REFCLK_HOLDOVER = true ∧ t.clk.lost = true ∧
      ((multi s = false ∨ voteRoot s = true) → t.holds = s.holds) ∧
      (multi s = true → voteRoot s = false → rootLink s ≠ [] → (rootLink s).all (linkActive s) = true →
        getB t F.CLK_REFCLK_STEERED = true ∧ t.holds = s.holds)) ∧
    (s.clk.lost = true → Answers .holdoverExpiry s (fun t => t.clk.expired = true ∧
      (executing s = true → sourceOn s 10 = false → s.holds.announced.any (fun a => a.1 = 10) = false →
        allFrozen s = false → t.holds.announced = s.holds.announced ++ [(10, sigmaMax s + 16)]))) ∧
    (s.clk.lost = false → Answers .holdoverExpiry s (fun t => t = s) ∧ Answers .refclkReturn s (fun t => t = s)) ∧
    (s.clk.lost = true → Answers .refclkReturn s (fun t => t.clk.lost = false ∧ getF t F.CLK_PLL_LOCK_LOCK = 0 ∧
      ∀ i : Fin 27, getB s (F.CLK_SWITCH_BUSY i) = true → getF s (F.CLK_SWITCH_SEL i) = 0 →
        getF t (F.CLK_SWITCH_CURRENT i) = 0 ∧ getB t (F.CLK_SWITCH_BUSY i) = false)) ∧
    (∀ v : Word, let n := getF s F.CLK_GATE_INDEX_NODE
      let f := fun (t : State) (x : Fld) => getB t (gateFld x n)
      let parentOpen := match gateParent n with | some p => gateOpen s p | none => true
      n < 86 →
      (v.getLsbD 0 = false → v.getLsbD 1 = true → gateOpen s n = true → Answers (.gateClose v) s (fun t =>
        f t F.CLK_GATE_CTRL_FORCE = v.getLsbD 3 ∧
        if gateMayClose s n && !childOpen s n then f t F.CLK_GATE_CTRL_CLOSING = true
        else getB t F.CLK_STATUS_REFUSED = true ∧ f t F.CLK_GATE_CTRL_CLOSING = f s F.CLK_GATE_CTRL_CLOSING)) ∧
      (v.getLsbD 0 = true → v.getLsbD 1 = false → Answers (.gateReopen v) s (fun t =>
        if parentOpen then f t F.CLK_GATE_CTRL_OPEN = true ∧
          if gateOpen s n then f t F.CLK_GATE_CTRL_CLOSING = false ∧ heldFor t n = [] else nodeIsolated t n = true ∧ n ∈ t.net.exiting
        else getB t F.CLK_STATUS_REFUSED = true ∧ f t F.CLK_GATE_CTRL_OPEN = f s F.CLK_GATE_CTRL_OPEN)))

/-- SCLK, temperature and power (R225, R510 to R512, R515 to R518).  A plan that may name its step count comes into force, in a
machine towards the largest divisor that any device wants and at the vote root alone; a ramp step
that is due moves the divisor towards the target and ends there, or plans the next; the steward records what it reads and,
above a limit, wants a slower clock; a thermal trip stops the machine and plans the slowest; an alert of the power bus marks
the regulators that show a fault. -/
def Obligations.PowerCommandsAct : Prop :=
  ∀ (s : State),
    (∀ (tg : BitVec 11) (s0 : Nat), let d := getF s F.CLK_SCLK_D
      let goal := planTarget s tg.toNat
      (planTime s s0 = true → voteRoot s = true → d ≠ 0 → Answers (.rampPlan tg s0) s (fun t =>
        t.clk.plan = (if d = goal then none else some (goal, s0)) ∧ getF t F.CLK_SCLK_TARGET = goal ∧
        getB t F.CLK_STATUS_RAMPING = decide (d ≠ goal) ∧ getF t F.CLK_SCLK_D = d ∧ t.clk.acks = otherPositions s)) ∧
      (planTime s s0 = false ∨ voteRoot s = false → Answers (.rampPlan tg s0) s (fun t => t = s))) ∧
    (∀ tg due, s.clk.plan = some (tg, due) → rampReady s due = true →
      let d := rampTo tg (getF s F.CLK_SCLK_D)
      (d = tg → Answers .rampStep s (fun t => getF t F.CLK_SCLK_D = d % 2 ^ 11 ∧ t.clk.plan = none ∧
        getB t F.CLK_STATUS_RAMPING = false)) ∧
      (d ≠ tg → Answers .rampStep s (fun t => getF t F.CLK_SCLK_D = d % 2 ^ 11 ∧
        t.clk.plan = some (tg, due + rampGap s d)))) ∧
    (s.clk.plan = none → Answers .rampStep s (fun t => t = s)) ∧
    (∀ r : StewardReadings, Answers (.powerStewardTick r) s (fun t =>
      getF t F.CLK_TEMP_MAX_TEMP = r.hotTemp.toNat ∧ getF t F.CLK_TEMP_MAX_SENSOR = r.hotSensor.val % 2 ^ 8 ∧
      getF t F.CLK_POWER_MW = r.powerMw.toNat ∧ getF t F.HBM_TEMP_TEMP = r.stackTemps.toNat ∧
      (getB s F.CLK_STATUS_PMB_FAULT = false → getF s F.CLK_SCLK_D ≠ 0 →
        getF s F.CLK_THERM_THROTTLE_C < r.hotTemp.toNat ∨ getF s F.CLK_POWER_LIMIT_WATTS * 1000 < r.powerMw.toNat →
        t.clk.want = some (rampTo 1024 (getF s F.CLK_SCLK_D)) ∧
        getB t F.CLK_STATUS_THROTTLED = decide (dMin s < rampTo 1024 (getF s F.CLK_SCLK_D))) ∧
      (multi s = false ∨ voteRoot s = true → FieldsBut s t [F.HBM_TEMP_TEMP, F.CLK_TEMP_MAX_TEMP, F.CLK_TEMP_MAX_SENSOR, F.CLK_TEMP_MAX_SENSOR_HI, F.CLK_POWER_MW,
        F.CLK_STATUS_THROTTLED] ∧ t = { s with regs := t.regs, clk := t.clk }))) ∧
    Answers .thermalTrip s (fun t => getB t F.CLK_STATUS_THERM_TRIP = true ∧ t.clk.hot = true ∧
      (executing s = true → emState t = 4) ∧
      if voteRoot s then getF s F.CLK_SCLK_D ≠ 0 → getF t F.CLK_SCLK_TARGET = 1024 else t.clk.want = some 1024) ∧
    (∀ m : BitVec 16, Answers (.pmbAlert m) s (fun t => getB t F.CLK_STATUS_PMB_FAULT = true ∧
      (∀ i : Fin 16, getB t (F.CLK_PMB_REG_FAULT i) = (getB s (F.CLK_PMB_REG_EN i) && m.getLsbD i)) ∧
      ((List.finRange 16).any (fun i => getB s (F.CLK_PMB_REG_EN i) && m.getLsbD i) = true → t.clk.want = some 1024)))

/-- The control cores and their firmware (R523, R526, R527).  A restart sets a core to ENTRY in machine mode, with no reservation; GO starts an
update where none runs, and ABORT ends its first two phases; HANDOVER of a staged image that is not too old interrupts every
core; the last core to store to CTL_FW_HANDOVER swaps the views and restarts all eight in the new firmware, and HANDOVER_MS
without it leaves the old one running. -/
def Obligations.FirmwareCommandsAct : Prop :=
  ∀ (s : State) (v : Word),
    let core := fun (t : State) (c : Fin 8) => t.ctl.cores.get CoreSt.idle c
    let ph := fwPhase s
    let only := fun (i : Nat) => ∀ j ∈ [0, 1, 2], v.getLsbD j = decide (j = i)
    let new := 1 - activeBank s
    Answers (.coreRestart v) s (fun t => t = { s with ctl := { s.ctl with cores := t.ctl.cores, reserve := t.ctl.reserve } } ∧
      ∀ c : Fin 8, t.ctl.reserve.get none c = (if v.getLsbD c && decide (c.val < 7) then none else s.ctl.reserve.get none c) ∧
      core t c = if v.getLsbD c && decide (c.val < 7) then ⟨entryAddress s (activeBank s), c, 2, true, false, false⟩
        else core s c) ∧
    (only 0 → Answers (.fwUpdateGo v) s (fun t => t = { s with regs := t.regs } ∧
      if ph = 0 ∨ ph = 4 then fwPhase t = 1 ∧ getB t F.CTL_STATUS_FW_UPDATING = true ∧
        getF t F.CTL_FW_STATUS_RESULT = 0 ∧ getB t F.CTL_FW_STATUS_STAGED = false
      else fwPhase t = ph ∧ getF t F.CTL_FW_STATUS_RESULT = 7)) ∧
    (only 2 → Answers (.fwUpdateAbort v) s (fun t => if ph = 1 ∨ ph = 2 then fwPhase t = 4 ∧
        getF t F.CTL_FW_STATUS_RESULT = 6 ∧ getB t F.CTL_STATUS_FW_UPDATING = false else t = s)) ∧
    (only 1 → ph = 0 ∨ ph = 4 → getB s F.CTL_FW_STATUS_STAGED = true → Answers (.handover v) s (fun t =>
      if svnRefused s (imageSvn (bankBytes s new 0 256)) then fwPhase t = 4 ∧ getF t F.CTL_FW_STATUS_RESULT = 3
      else fwPhase t = 3 ∧ getF t F.CTL_FW_HANDOVER_READY = 0 ∧
        ∀ c : Fin 8, core t c = { core s c with handover := true, stalled := false })) ∧
    (only 1 → getB s F.CTL_FW_STATUS_STAGED = false → Answers (.handover v) s (fun t => t = s)) ∧
    (∀ c : Fin 8, ph = 3 → Answers (.handoverReady c) s (fun t =>
      if setBit (getF s F.CTL_FW_HANDOVER_READY) c true % 2 ^ 8 = 0xFF then activeBank t = new ∧ fwPhase t = 4 ∧
        getF t F.CTL_FW_STATUS_RESULT = 0 ∧ getF t F.CTL_FW_STATUS_SVN = imageSvn (bankBytes s new 0 256) % 2 ^ 16 ∧
        ∀ k : Fin 8, core t k = ⟨entryAddress s new, k, 1, true, false, false⟩
      else (getF t F.CTL_FW_HANDOVER_READY).testBit c = true ∧ core t c = { core s c with stalled := true } ∧
        activeBank t = activeBank s)) ∧
    (ph = 3 → Answers .handoverTimeout s (fun t => fwPhase t = 4 ∧ getF t F.CTL_FW_STATUS_RESULT = 5 ∧
      getF t F.CTL_FW_HANDOVER_READY = 0 ∧ activeBank t = activeBank s ∧
      ∀ c : Fin 8, core t c = { core s c with handover := false, stalled := false })) ∧
    (ph ≠ 3 → ∀ c : Fin 8, Answers (.handoverReady c) s (fun t => t = s) ∧ Answers .handoverTimeout s (fun t => t = s))

/-- The march test (R254, R533, R537 to R539), while its node is not isolated.  START with a program and a group that are allowed begins a test, and otherwise
answers REFUSED; ABORT ends it; a word group of a preserving test counts the failures of its words and goes on, or ends the
test after the last, and one that cannot be saved ends it with FAILED; a destructive test runs to its end. -/
def Obligations.MarchCommandsAct : Prop :=
  ∀ (s : State) (v : Word),
    let s1 := plainWrite s 0xE0100 v.toNat
    let pre := getB s F.CTL_MT_TARGET_MODE
    let kind := getF s F.CTL_MT_TARGET_KIND
    let die := getF s F.CTL_MT_TARGET_DIE
    let unit := getF s F.CTL_MT_TARGET_UNIT
    let refused := (marchProgram s).any (fun e => elemOrder e = 3) || !marchAllowed s pre kind die unit
    let ended := fun (t : State) (r : Nat) => t.ctl.march = none ∧ getF t F.CTL_MT_STATUS_RESULT = r ∧
      getB t F.CTL_STATUS_MT_BUSY = false
    (nodeIsolated s 68 = true → ∀ i ∈ [Instr.marchStart v, .marchAbort v],
      exec i s = .next (setB s F.NET_STATUS_ISO_ACCESS true)) ∧
    (nodeIsolated s 68 = false → v.getLsbD 0 = true → v.getLsbD 1 = false → s.ctl.march = none → Answers (.marchStart v) s (fun t =>
      if refused then getF t F.CTL_MT_STATUS_RESULT = 5 ∧ t.ctl = s.ctl
      else getF t F.CTL_MT_STATUS_RESULT = 1 ∧ getB t F.CTL_STATUS_MT_BUSY = true ∧ getF t F.CTL_MT_FAILS_COUNT = 0 ∧
        t.ctl = { s.ctl with march := some ⟨pre, kind, die, unit, getB s1 F.CTL_MT_CTRL_ALT,
          get64 s F.CTL_MT_PATTERN_LO_BITS F.CTL_MT_PATTERN_HI_BITS, marchProgram s, 0⟩ })) ∧
    (∀ m, s.ctl.march = some m → s.ctl.deferred = false →
      (nodeIsolated s 68 = false → v.getLsbD 0 = false → v.getLsbD 1 = true → Answers (.marchAbort v) s (fun t => ended t 4)) ∧
      (∀ fails : List MarchFail,
        let cells := fails.map (fun f => (f.word, f.elem.val, f.diff.toNat))
        let n := min 64 (groupWords m.kind - 64 * m.done)
        let count := fun (k : Nat) => saturate 32 (getF s F.CTL_MT_FAILS_COUNT + k)
        let part := count (marchFailures m.elems (64 * m.done) n cells).1
        let whole := count (marchFailures m.elems 0 (groupWords m.kind) cells).1
        (∀ w : Fin 64, m.preserving = true → Answers (.marchWordGroup (some w) fails) s (fun t => ended t 3 ∧
          getB t F.CTL_MT_STATUS_SAVE_UE = true)) ∧
        (m.preserving = true → Answers (.marchWordGroup none fails) s (fun t => getF t F.CTL_MT_FAILS_COUNT = part ∧
          if groupWords m.kind ≤ 64 * (m.done + 1) then ended t (if part = 0 then 2 else 3)
          else t.ctl.march = some { m with done := m.done + 1 })) ∧
        (m.preserving = false → ∀ ue, Answers (.marchWordGroup ue fails) s (fun t => getF t F.CTL_MT_FAILS_COUNT = whole ∧
          ended t (if whole = 0 then 2 else 3))))) ∧
    (s.ctl.march = none → ∀ ue fails, Answers (.marchWordGroup ue fails) s (fun t => t = s))

/-- Program trace of an enabled source (R542, R545 to R550, R554, R555, R557).  Outcomes gather, and the sixth goes out with
them in one BRANCH byte; an indirect jump gives an ADDR; a trap in traced code gives TRAP and SYNC; excluded code gives
nothing; SLEEP and the frame timeout drain what waits into a frame; WAKE gives WAKE and SYNC; TIME_PACKET has a TIME follow
the next packet. -/
def Obligations.TraceSourcesReport : Prop :=
  ∀ (s : State) (i : Fin 40) (pc next : DWord) (m : Bool),
    let x := trcSrc s i
    let mark := fun (bs : List Byte) => (List.range bs.length).map (fun k => (bs.getD k 0, k == 0))
    let quiet := traceRuns s i = true ∧ traceOn s i = true ∧ x.sync = none ∧ x.excluded = false ∧ x.lost = 0 ∧
      x.timeDue = false ∧ comparators s i 2 pc.toNat = false ∧ x.since + 30 < 4096 ∧ traceFlows s = true ∧
      x.fifo.length + 30 < 60 ∧ x.outcomes.length < 6
    (traceRuns s i = false → ∀ k, (∀ c h, k ≠ .trap c h true) →
      Answers (.retiredInstruction i pc next m k) s (fun t => t = s)) ∧
    (traceRuns s i = false → ∀ c h, Answers (.retiredInstruction i pc next m (.trap c h true)) s (fun t =>
      if i.val < 8 then getB t F.CTL_STATUS_CORE_TRAP = true ∧ OnlyFields s t [F.CTL_STATUS_CORE_TRAP] else t = s)) ∧
    (quiet → (m && tracePrivate s) = false →
      Answers (.retiredInstruction i pc next m .plain) s (fun t => trcSrc t i = { x with pc := next.toNat } ∧
        t = { s with trc := t.trc }) ∧
      (∀ b, x.outcomes.length < 5 → Answers (.retiredInstruction i pc next m (.branch b)) s (fun t =>
        trcSrc t i = { x with pc := next.toNat, outcomes := x.outcomes ++ [b] } ∧ t = { s with trc := t.trc })) ∧
      (∀ b, x.outcomes.length = 5 → Answers (.retiredInstruction i pc next m (.branch b)) s (fun t =>
        (trcSrc t i).outcomes = [] ∧ (trcSrc t i).fifo = x.fifo ++ mark (branchPacket (x.outcomes ++ [b])))) ∧
      (∀ a : DWord, x.outcomes = [] → Answers (.retiredInstruction i pc next m (.indirect a)) s (fun t =>
        (trcSrc t i).ref = a.toNat ∧ (trcSrc t i).fifo = x.fifo ++ mark (addrPacket x.ref a.toNat)))) ∧
    (quiet → tracePrivate s = false → x.outcomes = [] → ∀ (c : Byte) (h : DWord),
      Answers (.retiredInstruction i pc next m (.trap c h false)) s (fun t => (trcSrc t i).pc = h.toNat ∧
        (trcSrc t i).fifo = x.fifo ++ mark (trapPacket c.toNat pc.toNat) ++ mark (syncPacket s 6 h.toNat))) ∧
    (traceRuns s i = true → m = true → tracePrivate s = true →
      Answers (.retiredInstruction i pc next m .plain) s (fun t => trcSrc t i = { x with excluded := true } ∧
        t = { s with trc := t.trc })) ∧
    (quiet → x.outcomes = [] → Answers (.sleep i) s (fun t => getB t (srcFld F.TRC_SRC_CTRL_SLEEPING i) = true ∧
      (trcSrc t i).fifo = [] ∧ (trcSrc t i).seq = x.seq + 1 ∧
      getF t F.TRC_WRITE_FRAME = (getF s F.TRC_WRITE_FRAME + 1) % 2 ^ 32)) ∧
    (quiet → Answers (.wake i pc) s (fun t => getB t (srcFld F.TRC_SRC_CTRL_SLEEPING i) = false ∧
      (trcSrc t i).fifo = x.fifo ++ mark (leBytes 1 4) ++ mark (syncPacket s 2 pc.toNat) ∧ (trcSrc t i).ref = pc.toNat)) ∧
    (traceFlows s = true → x.fifo ≠ [] → x.fifo.length < 60 → Answers (.traceFrameTimeout i) s (fun t =>
      trcSrc t i = { x with fifo := [], seq := x.seq + 1, mark := false } ∧
      getF t F.TRC_WRITE_FRAME = (getF s F.TRC_WRITE_FRAME + 1) % 2 ^ 32)) ∧
    (x.fifo = [] → Answers (.traceFrameTimeout i) s (fun t => t = s)) ∧
    (traceRuns s i = true → traceOn s i = true → getF s F.TRC_CTRL_TS_PERIOD ≠ 0 → Answers (.timePacket i) s (fun t =>
      trcSrc t i = { x with timeDue := true } ∧ t = { s with trc := t.trc })) ∧
    (traceRuns s i = false ∨ traceOn s i = false ∨ getF s F.TRC_CTRL_TS_PERIOD = 0 → exec (.timePacket i) s = .next s) ∧
    (traceLive s i = false → exec (.sleep i) s = .next s)

/-- EN and CLEAR of TRC_CTRL (R254, R551, R553, R558), while the trace unit's node is not isolated.  EN over a ring that its window holds enables tracing and turns the selected
sources on that start so; over another it sets REJECT; EN = 0 turns every source off.  CLEAR while nothing is traced restarts
the ring.  PRIV is set only under its authorisation. -/
def Obligations.TraceControlActs : Prop :=
  ∀ (s : State) (v : Word),
    let selected := fun (i : Nat) =>
      if i < 32 then (getF s F.TRC_SOURCES_EN).testBit i else (getF s F.TRC_SOURCES_HI_EN).testBit (i - 32)
    (nodeIsolated s 67 = true → ∀ i ∈ [Instr.traceEn v, .trcClear v], exec i s = .next (setB s F.NET_STATUS_ISO_ACCESS true)) ∧
    (nodeIsolated s 67 = false →
    (v.getLsbD 31 = true → getB s F.TRC_CTRL_EN = true → Answers (.traceEn v) s (fun t => getB t F.TRC_CTRL_EN = true ∧
      getB t F.TRC_CTRL_WRAP = v.getLsbD 29)) ∧
    (v.getLsbD 31 = true → getB s F.TRC_CTRL_EN = false → Answers (.traceEn v) s (fun t =>
      if ringOk s then getB t F.TRC_CTRL_EN = true ∧ getB t F.TRC_STATUS_ENABLED = true ∧ ∀ i : Fin 40,
        traceOn t i = (selected i && getB s (srcFld F.TRC_SRC_CTRL_START_ON i)) ∧ (trcSrc t i).fifo = []
      else getB t F.TRC_STATUS_REJECT = true ∧ getB t F.TRC_CTRL_EN = false ∧ t.trc = s.trc)) ∧
    (v.getLsbD 31 = false → getB s F.TRC_CTRL_EN = true → Answers (.traceEn v) s (fun t =>
      getB t F.TRC_CTRL_EN = false ∧ getB t F.TRC_STATUS_ENABLED = false ∧ ∀ i : Fin 40, traceOn t i = false)) ∧
    (v.getLsbD 28 = true → v.getLsbD 31 = false → getB s F.TRC_STATUS_ENABLED = false → getB s F.TRC_CTRL_EN = false →
      Answers (.trcClear v) s (fun t => getF t F.TRC_WRITE_FRAME = 0 ∧ getB t F.TRC_STATUS_WRAPPED = false ∧
        getB t F.TRC_CTRL_WRAP = v.getLsbD 29 ∧ getB t F.TRC_CTRL_PRIV =
          (v.getLsbD 30 && (getB s F.TRC_STATUS_PRIV_AUTH || getB s F.TRC_CTRL_PRIV)) ∧ t = { s with regs := t.regs })))

/-- The presence protocol (R528, R551, R569, R572, R573, R575).  ARM arms a listed command and closes the window; DISARM
closes it and clears what is staged; PRESENCE_N held opens the window of an armed command for 60 s, and its end disarms.
EXECUTE within the window runs the armed command once and disarms it: the burn begins where the stage passes its checks, the
staged key is loaded, or the command's flag is set.  Outside the window nothing happens. -/
def Obligations.PresenceCommandsAct : Prop :=
  ∀ (s : State) (v : Word),
    let c := getF s F.SEC_PRESENCE_STATUS_ARMED_CMD
    let open_ := getB s F.SEC_STATUS_WINDOW = true ∧ getB s F.SEC_STATUS_ARMED = true
    let spent := fun (t : State) => getB t F.SEC_STATUS_ARMED = false ∧ getB t F.SEC_STATUS_WINDOW = false ∧
      getF t F.SEC_PRESENCE_STATUS_ARMED_CMD = 0
    let key := (List.range 8).foldl (fun a w => a + getF s (F.SEC_BBK_STAGE_KEY w) * 2 ^ (32 * w)) 0
    (v.getLsbD 30 = false → v.getLsbD 31 = false → Answers (.presenceArm v) s (fun t =>
      if 1 ≤ v.toNat % 16 ∧ v.toNat % 16 ≤ 6 then getB t F.SEC_STATUS_ARMED = true ∧
        getF t F.SEC_PRESENCE_STATUS_ARMED_CMD = v.toNat % 16 ∧ getB t F.SEC_STATUS_WINDOW = false
      else t = s)) ∧
    (v.getLsbD 30 = true → v.getLsbD 31 = false → v.toNat % 16 = 0 → Answers (.presenceDisarm v) s (fun t =>
      spent t ∧ ∀ w : Fin 8, getF t (F.SEC_BBK_STAGE_KEY w) = 0)) ∧
    (∀ vf : Bool, let s1 := setB s F.SEC_STATUS_VFUSE_OK vf
      v.getLsbD 30 = false → v.getLsbD 31 = true → v.toNat % 16 = 0 →
      (open_ → presenceRefused s1 c = false → Answers (.execute v vf) s (fun t => spent t ∧
        getF t F.SEC_PRESENCE_STATUS_LAST_CMD = c % 2 ^ 4 ∧
        (c = 1 → match stageFailure s with
          | some (_, r) => getF t F.SEC_PRESENCE_STATUS_LAST_RESULT = r ∧ t.sec.burn = s.sec.burn
          | none => t.sec.burn = burnOrder (stagedEntries s) ∧ getB t F.SEC_STATUS_FUSE_BUSY = true) ∧
        (c = 3 → getB t F.TRC_STATUS_PRIV_AUTH = true))) ∧
      (¬open_ ∨ presenceRefused s1 c = true → Answers (.execute v vf) s (fun t => t = s1))) ∧
    (∀ e ∈ [(Instr.loadBbk, 2), (.tracePriv, 3), (.unseal, 4), (.rollback, 5), (.jtagPrivate, 6)],
      (c ≠ e.2 ∨ ¬open_ → Answers e.1 s (fun t => t = s)) ∧
      (c = e.2 → open_ → presenceRefused s c = false → Answers e.1 s (fun t => spent t ∧
        getF t F.SEC_PRESENCE_STATUS_LAST_CMD = e.2))) ∧
    (open_ →
      (c = 2 → Answers .loadBbk s (fun t => t.sec.bbk = key ∧ getB t F.SEC_BBK_LOADED = true ∧
        getB t F.SEC_BBK_TAMPERED = false ∧ getF t F.SEC_BBK_KCV = kcv key ∧
        ∀ w : Fin 8, getF t (F.SEC_BBK_STAGE_KEY w) = 0)) ∧
      (c = 3 → Answers .tracePriv s (fun t => getB t F.TRC_STATUS_PRIV_AUTH = true)) ∧
      (∀ g, c = 4 → s.ingot = some g → g.isSealed = true → Answers .unseal s (fun t =>
        getB t F.SEC_STATUS_UNSEALED = true ∧ sealedNow t = false)) ∧
      (c = 5 → Answers .rollback s (fun t => getB t F.SEC_STATUS_ROLLBACK_AUTH = true)) ∧
      (c = 6 → (fuseShadow s 52).testBit 0 = false → Answers .jtagPrivate s (fun t =>
        getB t F.SEC_STATUS_JTAG_PRIV = true))) ∧
    Answers .presenceHeld s (fun t => getB t F.SEC_STATUS_PRESENCE = true ∧
      if getB s F.SEC_STATUS_ARMED then getB t F.SEC_STATUS_WINDOW = true ∧
        getF t F.SEC_PRESENCE_STATUS_SECONDS_LEFT = 60 ∧ t.sec.windowEnd = timeNs s + 60000000000
      else OnlyFields s t [F.SEC_STATUS_PRESENCE]) ∧
    (getB s F.SEC_STATUS_WINDOW = true → Answers .windowExpiry s (fun t => spent t ∧ getB t F.SEC_STATUS_PRESENCE = false)) ∧
    (getB s F.SEC_STATUS_WINDOW = false → Answers .windowExpiry s (fun t => t = s))

/-- Fuses (R561, R565, R566).  A burn that runs to its end leaves every bit of its entries
set, in the array and in the shadow, and result 0; one that meets a word that does not verify, or VFUSE out of its limits, ends
with result 6.  A read of SEC_FUSE_DATA answers the shadow word, or 0 for a key word. -/
def Obligations.FuseCommandsAct : Prop :=
  ∀ s : State,
    let done := fun (t : State) (r : Nat) => t.sec.burn = [] ∧ getB t F.SEC_STATUS_FUSE_BUSY = false ∧
      getF t F.SEC_FUSE_RESULT_RESULT = r ∧ getF t F.SEC_PRESENCE_STATUS_LAST_RESULT = r
    (s.sec.burn = [] → ∀ k, Answers (.programFuses k) s (fun t => t = s)) ∧
    (s.sec.burn ≠ [] → Answers (.programFuses none) s (fun t => done t 0 ∧ ∀ e ∈ s.sec.burn,
      fuseWord t e.2.1 &&& e.2.2 = e.2.2 ∧ fuseShadow t e.2.1 = fuseWord t e.2.1)) ∧
    (∀ (k : Fin 16) (e : Nat × Nat × Nat), s.sec.burn.find? (fun e => e.1 == k.val) = some e →
      Answers (.programFuses (some k)) s (fun t => done t 6 ∧ getF t F.SEC_FUSE_RESULT_ENTRY = k.val)) ∧
    Answers .vfuseOutOfLimit s (fun t => getB t F.SEC_STATUS_VFUSE_OK = false ∧
      (s.sec.burn = [] → OnlyFields s t [F.SEC_STATUS_VFUSE_OK]) ∧ (s.sec.burn ≠ [] → done t 6)) ∧
    Answers .fuseDataRead s (fun t => let w := getF s F.SEC_FUSE_INDEX_WORD
      t.outs = s.outs ++ [.readValue 0 (if 2 ≤ w ∧ w ≤ 33 then 0 else fuseShadow s w)] ∧
      getF t F.SEC_FUSE_INDEX_WORD = (w + 1) % 2 ^ 9 ∧ t.sec = s.sec)

/-- The battery-backed key (R568).  VBAT below its limit and TAMPER_N erase it to zero, clear LOADED and set TAMPERED; a write
of ERASE erases it and leaves TAMPERED as it was.  KEY_SEL 4 gives the key where LOADED is 1 and BBK_OFF is 0; at any other
time a segment that names it ends its stream with check 3. -/
def Obligations.BatteryBackedKeyIsErasedAndUsable : Prop :=
  ∀ (s : State) (v : Word),
    let usable := getB s F.SEC_BBK_LOADED = true ∧ (fuseShadow s 52).testBit 1 = false
    (∀ low : Bool, Answers (.tamper low) s (fun t => t.sec = { s.sec with bbk := 0 } ∧ getB t F.SEC_BBK_LOADED = false ∧
      getB t F.SEC_BBK_TAMPERED = true ∧ getB t F.SEC_STATUS_VBAT_LOW = low)) ∧
    (v.getLsbD 31 = true → Answers (.erase v) s (fun t => t.sec = { s.sec with bbk := 0 } ∧
      getB t F.SEC_BBK_LOADED = false ∧ getF t F.SEC_BBK_KCV = 0 ∧
      getB t F.SEC_BBK_TAMPERED = getB s F.SEC_BBK_TAMPERED)) ∧
    (v.getLsbD 31 = false → Answers (.erase v) s (fun t => t = s)) ∧
    (usable → loadKey s 4 = some s.sec.bbk) ∧ (¬usable → loadKey s 4 = none) ∧
    (∀ (x : LdStream) (h ct tag : List Byte), s.ldr.stream = some x → x.path ≠ 3 → headerFits h = true →
      ct.length = leAt h 12 4 → tag.length = 16 → inSequence x h = true → leAt h 6 1 = 4 → ¬usable →
      Answers (.segment h ct tag) s (fun t => LoadEnded t lsKey))

/-- Commands of the Hedgerow fabric (R254, R441, R453, R454, R458 to R460, R462, R463).  While the fabric's node is not isolated a
capture is armed where it may be, aborted,
and at its edge copies the flip-flops and the RAM with the time; a strobe moves a group's lines to its stable register; an
export update presents what was released and toggles COMMIT; a bank whose supply does not match parks, and is released once
it has matched; the configuration scrub counts and rewrites each bit's minority copy, and two flipped copies out of three win; at an
edge of a user clock that runs the flip-flops on it take their values, and no others. -/
def Obligations.HedgerowCommandsAct : Prop :=
  ∀ (s : State) (v : Word),
    let key := fun (x : Fin 256) (c : Fin 64) (f : Fin 2) => x.val * 128 + 2 * c.val + f.val
    (nodeIsolated s 65 = true → (∀ i ∈ [Instr.captureArm v, .captureAbort v],
        exec i s = .next (setB s F.NET_STATUS_ISO_ACCESS true)) ∧
      Answers .capDataRead s (fun t => getB t F.NET_STATUS_ISO_ACCESS = true ∧
        t = { s with regs := t.regs, outs := s.outs ++ [.readValue 0 0xFFFFFFFF] })) ∧
    (nodeIsolated s 65 = false → v.getLsbD 31 = true → v.getLsbD 30 = false → Answers (.captureArm v) s (fun t =>
      if captureRefused s then getB t F.HGR_STATUS_CAP_REFUSED = true ∧ t.hgr = s.hgr ∧
        getB t F.HGR_STATUS_CAP_BUSY = getB s F.HGR_STATUS_CAP_BUSY
      else getB t F.HGR_STATUS_CAP_BUSY = true ∧ getB t F.HGR_STATUS_CAP_DONE = false ∧
        t.hgr = { s.hgr with capEdges := 0 })) ∧
    (nodeIsolated s 65 = false → v.getLsbD 31 = false → v.getLsbD 30 = true → Answers (.captureAbort v) s (fun t =>
      getB t F.HGR_STATUS_CAP_BUSY = false ∧ t = { s with regs := t.regs })) ∧
    (getB s F.HGR_STATUS_CAP_BUSY = true → Answers .captureFire s (fun t => t.hgr.shadowRam = s.hgr.ram ∧
      (∀ (x : Fin 256) (c : Fin 64) (f : Fin 2), t.hgr.shadowFf.get false (key x c f) = ffValue s x c f) ∧
      getB t F.HGR_STATUS_CAP_BUSY = false ∧ getB t F.HGR_STATUS_CAP_DONE = true ∧
      getF t F.HGR_CAP_TIME_LO_TIME = timeNs s % 2 ^ 32)) ∧
    (getB s F.HGR_STATUS_CAP_BUSY = false → Answers .captureFire s (fun t => t = s)) ∧
    (nodeIsolated s 65 = false → Answers .capDataRead s (fun t => t.outs = s.outs ++ [.readValue 0 (shadowWord s (getF s F.HGR_CAP_INDEX_WORD))] ∧
      getF t F.HGR_CAP_INDEX_WORD = (getF s F.HGR_CAP_INDEX_WORD + 1) % 2 ^ 18 ∧ FieldsBut s t [F.HGR_CAP_INDEX_WORD])) ∧
    (∀ g : Fin 8, (s.hgr.loaded = true → getB s (F.HGR_UCLK_RUNNING (headerByte s (32 + g))) = true →
        importLine s (4080 + g) = true → Answers (.strobe g) s (fun t => t.hgr.stable.get 0 g = groupLines s g ∧
          t = { s with hgr := { s.hgr with stable := t.hgr.stable } })) ∧
      (importLine s (4080 + g) = false → Answers (.strobe g) s (fun t => t = s)) ∧
      (∀ (l : Fin 4080) (b : Bool), s.hgr.waiting.get [] g = [(l.val, b)] →
        getB s (F.HGR_UCLK_RUNNING (headerByte s (40 + g))) = true → Answers (.exportUpdate g) s (fun t =>
          t.hgr.lines.get false l = b ∧ t.hgr.lines.get false (4080 + g) = !s.hgr.lines.get false (4080 + g) ∧
          t.hgr.waiting.get [] g = [] ∧ t.regs = s.regs)) ∧
      (s.hgr.waiting.get [] g = [] → Answers (.exportUpdate g) s (fun t => t = s))) ∧
    (∀ (n : Fin 8) (c : BitVec 3) (settled : Bool), getB s F.HGR_STATUS_OUTPUTS = true →
      (bankMismatch s n c.toNat = true → Answers (.vccioMismatch n c settled) s (fun t =>
        getB t (F.HGR_BANK_STATUS_MISMATCH n) = true ∧ getB t (F.HGR_BANK_STATUS_PARKED n) = true ∧
        getF t (F.HGR_BANK_STATUS_VCCIO n) = c.toNat ∧ t.hgr.sensed.get 0 n = c.toNat ∧
        (getB s (F.HGR_BANK_STATUS_MISMATCH n) = false → getB t F.HGR_STATUS_VCCIO_MISMATCH = true))) ∧
      (bankMismatch s n c.toNat = false → settled = true → getB s (F.HGR_BANK_STATUS_MISMATCH n) = true →
        Answers (.vccioMismatch n c settled) s (fun t => getB t (F.HGR_BANK_STATUS_MISMATCH n) = false ∧
          getB t (F.HGR_BANK_STATUS_PARKED n) = getB s F.HGR_CTRL_PARK_ALL))) ∧
    (∀ us : List (Fin 3 × Fin 8392704 × Fin 8),
      let bits := (us.map (fun u => (u.2.1.val, u.2.2.val))).eraseDups
      let flipped := fun (q : Nat × Nat) => flippedCopies us q.1 q.2
      (s.hgr.loaded = false → exec (.cfgScrub us) s = .next s) ∧
      (s.hgr.loaded = true → Answers (.cfgScrub us) s (fun t =>
        getF t F.HGR_CFG_FIX_COUNT = saturate 32 (getF s F.HGR_CFG_FIX_COUNT + bits.countP (fun q => 0 < flipped q ∧ flipped q < 3)) ∧
        (∀ (b : Nat) (i : Fin 8), (Memory.read zeroFill t.hgr.cfg b).getLsbD i =
          xor ((Memory.read zeroFill s.hgr.cfg b).getLsbD i) (decide (2 ≤ flipped (b, i.val)))) ∧
        FieldsBut s t [F.HGR_CFG_FIX_COUNT] ∧ t = { s with regs := t.regs, hgr := { s.hgr with cfg := t.hgr.cfg } }))) ∧
    (∀ (k : Fin 8) (ins : FabricInputs), let s1 := onHgr s (fun h =>
        let h := { h with pins := ins.pins.map Fin.val }
        match ins.upset with
        | some u => upsetRam h u
        | none => h)
      (getB s (F.HGR_UCLK_RUNNING k) = true → Answers (.userClockEdge k ins) s (fun t =>
        t.hgr.pins = ins.pins.map Fin.val ∧ t.hgr.ff = (ffUpdates s1 k).foldl (fun m u => m.set false u.1 u.2) s.hgr.ff ∧
        ∀ (x : Fin 256) (c : Fin 64) (f : Fin 2), bitsOf (cfgByte s x 1 (64 * c + 20 + f)) 4 3 ≠ k →
          t.hgr.ff.get false (key x c f) = s.hgr.ff.get false (key x c f))) ∧
      (getB s (F.HGR_UCLK_RUNNING k) = false → Answers (.userClockEdge k ins) s (fun t => t = s)))

/-- Resets (R328, R329, R573, R577 to R580, R591, R592).  POR_N leaves every register outside the SEC block at its reset value, but for
BOOT_SEL, which shows the pins, and keeps the fuses where none is being burned, and the battery-backed key with LOADED; RST_N and the keyed WARM also keep the fuse shadow, the tile maps, and the HBM of the
stacks that stand, and write the window table into stack 0's and stack 1's copies where those are ready; PERST_N and a Function Level Reset suspend the open sessions and, where no load is under way, leave the array as it is; TRST_N ends the
private JTAG authorisation. -/
def Obligations.ResetsKeepWhatTheirClassKeeps : Prop :=
  ∀ s : State,
    let kept := getF s F.HBM_STATUS_READY ||| getF s F.HBM_STATUS_SELF_REFRESH
    let warm := fun (t : State) (cause : Nat) (sel : BitVec 2) => getF t F.RST_STATUS_CAUSE = cause ∧
      getF t F.RST_STATUS_PHASE = 0 ∧ emState t = 0 ∧ getF t F.LDR_BOOT_BOOT_SEL = sel.toNat ∧
      getF t F.RST_COUNT_WARM = saturate 16 (getF s F.RST_COUNT_WARM + 1) ∧
      t.sec.shadow = (breakBurn s).sec.shadow ∧ t.sec.bbk = s.sec.bbk ∧ t.dies = s.dies.map warmDie ∧
      (∀ a, Memory.read zeroFill t.mem.hbm a = if kept.testBit (a / 2 ^ 35) then Memory.read zeroFill s.mem.hbm a else 0) ∧
      t.hbm.table0 = (if stackReady s 0 then some (windowTable s) else s.hbm.table0) ∧
      t.hbm.table32 = (if stackReady s 32 then some (windowTable s) else s.hbm.table32)
    let host := fun (t : State) => (∀ i : Fin 4096, (session s i).state = 1 → (session t i).state = 2) ∧
      t.host.busMaster = false ∧ getF t F.RST_COUNT_PERST = saturate 16 (getF s F.RST_COUNT_PERST + 1) ∧
      (s.ldr.stream = none → s.ldr.install = none → t.dies = s.dies ∧ emState t = emState s)
    let early := s.boot.cold && getF s F.RST_STATUS_PHASE == 0
    (∀ sel : BitVec 2, Answers (.porN sel) s (fun t => getF t F.LDR_BOOT_BOOT_SEL = sel.toNat ∧ t.sec.bbk = s.sec.bbk ∧
      (s.sec.burn = [] → t.sec.fuses = s.sec.fuses) ∧ t.dies = State.reset.dies ∧ t.mem = State.reset.mem ∧
      t.host = State.reset.host ∧ t.chn = State.reset.chn ∧ getB t F.SEC_BBK_LOADED = getB s F.SEC_BBK_LOADED ∧
      ∀ f : Fld, f.lo < 32 → f.addr / 0x10000 % 16 ≠ 4 → f.key ≠ F.LDR_BOOT_BOOT_SEL.key → getF t f = f.rst)) ∧
    (∀ sel : BitVec 2, (early = false → Answers (.rstN sel) s (fun t => warm t 2 sel)) ∧
      (early = true → Answers (.rstN sel) s (fun t => t = s))) ∧
    (∀ (v : Word) (sel : BitVec 2), let keyed := v.getLsbD 31 && v.toNat % 65536 == 0x5257
      (keyed = true → early = false → Answers (.warm v sel) s (fun t => warm t 3 sel)) ∧
      (keyed = false → Answers (.warm v sel) s (fun t => t = s))) ∧
    (s.boot.perst = false → getF s F.RST_STATUS_PHASE ≠ 0 → Answers (.perstN true) s (fun t => host t ∧ t.boot.perst = true)) ∧
    (∀ low : Bool, s.boot.perst = low → Answers (.perstN low) s (fun t => t = s)) ∧
    Answers .functionLevelReset s host ∧
    Answers .trstN s (fun t => getB t F.SEC_STATUS_JTAG_PRIV = false ∧ OnlyFields s t [F.SEC_STATUS_JTAG_PRIV])

/-- Start-up (R582, R587, R540): each phase that ends records its time and leads to the next: the fuse shadow is loaded on a
cold start, the clocks lock where REFCLK is present, the memory test reports, firmware runs or the device waits, and READY follows.  A configuration
request is answered with Configuration Request Retry Status from phase 2 until phase 4 has ended, and then with the item's value. -/
def Obligations.StartupPhasesFollowOneAnother : Prop :=
  ∀ (s : State),
    let ph := getF s F.RST_STATUS_PHASE
    (∀ (us : Word) (found : BootFound),
      (ph = 0 → Answers (.resetRelease us found) s (fun t => getF t F.RST_STATUS_PHASE = 1 ∧ timeNs t = 0 ∧
        OnlyFields s t [F.RST_STATUS_PHASE, F.IDN_TIME_LO_TIME, F.IDN_TIME_HI_TIME])) ∧
      (ph = 2 → s.clk.lost = true → Answers (.resetRelease us found) s (fun t => t = s)) ∧
      (1 ≤ ph → ph ≤ 4 → (ph = 2 → s.clk.lost = false) → Answers (.resetRelease us found) s (fun t => getF t F.RST_STATUS_PHASE = ph + 1 ∧
        getF t (F.RST_PHASE_TIME_US (ph - 1)) = us.toNat ∧
        (ph = 1 → s.boot.cold = true → t.sec.shadow = s.sec.fuses) ∧
        (ph = 1 → s.boot.cold = false → t.sec.shadow = s.sec.shadow) ∧
        (ph = 2 → pllLocked t 0 = true ∧ pllLocked t 1 = true ∧
          getF t (F.CLK_SWITCH_CURRENT 5) = 1 ∧ getF t (F.CLK_SWITCH_CURRENT 6) = 1) ∧
        (ph = 3 → found.memFails ≠ [] → getB t F.CTL_STATUS_START_FAIL = true ∧ getF t F.CTL_MT_STATUS_RESULT = 3))) ∧
      (ph = 5 → s.ctl.running = true → Answers (.resetRelease us found) s (fun t => getF t F.RST_STATUS_PHASE = 6 ∧
        getB t F.RST_STATUS_READY = true)) ∧
      (ph = 5 → s.ctl.running = false → Answers (.resetRelease us found) s (fun t => t = s)) ∧
      (5 < ph → Answers (.resetRelease us found) s (fun t => t = s))) ∧
    (∀ (bm : Option Bool) (item : Option ConfigItem),
      (ph < 2 ∨ s.boot.perst = true → Answers (.configurationRequest ⟨bm, item⟩) s (fun t => t = s)) ∧
      (s.boot.perst = false → 2 ≤ ph → ph < 5 → Answers (.configurationRequest ⟨bm, item⟩) s (fun t =>
        t.outs = s.outs ++ [.answer 0 3] ∧ t.host = s.host ∧ getB t F.HST_STATUS_LINK_UP = true)) ∧
      (s.boot.perst = false → 5 ≤ ph → Answers (.configurationRequest ⟨bm, item⟩) s (fun t =>
        t.outs = s.outs ++ (match item with | some c => [.readValue 0 (configValue s c)] | none => []) ∧
        t.host.busMaster = bm.getD s.host.busMaster)))

/-- Register accesses (R6, R7, R9, R254, R263, R599).  An access of the host that spans registers is aborted, and one of a core that is misaligned (4) or aligned and no whole
word (7: the two codes are the model's spelling of the exceptions); one to an isolated block is discarded, or reads all ones, and sets ISO_ACCESS.  Shown on CLK_CLKOUT, CLK_STATUS
and NET_CE_COUNT: a write sets RW fields and clears W1C bits written with 1 and nothing else, and a read answers the fields
and clears those that clear on read.  The SPI slave's REG_WRITE, REG_READ and
STATUS transactions reach the same registers, and a transaction that begins with any other byte than the four has no effect. -/
def Obligations.RegisterAccessesFollowTheirTypes : Prop :=
  ∀ (s : State) (path : RegPath),
    let p := pathCode path
    let full : BitVec 8 := 0x0F
    (∀ v : DWord, Answers (.registerWrite path 0x10110 v full 4) s (fun t =>
        getF t F.CLK_CLKOUT_SRC = bitsOf v.toNat 16 5 ∧ getF t F.CLK_CLKOUT_DIV = bitsOf v.toNat 0 16 ∧
        OnlyFields s t [F.CLK_CLKOUT_SRC, F.CLK_CLKOUT_DIV]) ∧
      Answers (.registerWrite path 0x10000 v full 4) s (fun t =>
        (v.getLsbD 1 = true → getB t F.CLK_STATUS_REFUSED = false) ∧
        (v.getLsbD 1 = false → getF s F.CLK_STATUS_REFUSED < 2 → getF t F.CLK_STATUS_REFUSED = getF s F.CLK_STATUS_REFUSED) ∧
        getF t F.CLK_STATUS_RAMPING = getF s F.CLK_STATUS_RAMPING ∧ t = { s with regs := t.regs })) ∧
    Answers (.registerRead path 0x10110 full 4) s (fun t => t = { s with outs := s.outs ++
      [.readValue p (getF s F.CLK_CLKOUT_SRC * 2 ^ 16 + getF s F.CLK_CLKOUT_DIV)] }) ∧
    Answers (.registerRead path 0xA0010 full 4) s (fun t => t.outs = s.outs ++ [.readValue p (getF s F.NET_CE_COUNT_COUNT)] ∧
      getF t F.NET_CE_COUNT_COUNT = 0 ∧ FieldsBut s t [F.NET_CE_COUNT_COUNT]) ∧
    (∀ (a : BitVec 20) (v : DWord), a.toNat % 4 = 0 → isMsix a.toNat = false → regIsolated s a.toNat = true →
      Answers (.registerWrite path a v full 4) s (fun t => getB t F.NET_STATUS_ISO_ACCESS = true ∧
        OnlyFields s t [F.NET_STATUS_ISO_ACCESS]) ∧
      Answers (.registerRead path a full 4) s (fun t => getB t F.NET_STATUS_ISO_ACCESS = true ∧
        t.outs = s.outs ++ [.readValue p 0xFFFFFFFF] ∧ FieldsBut s t [F.NET_STATUS_ISO_ACCESS])) ∧
    (∀ (a : BitVec 20) (v : DWord) (be : BitVec 8) (n : Nat) (c : Fin 8), isMsix a.toNat = false →
      (4 < a.toNat % 4 + n → Answers (.registerWrite .host a v be n) s (fun t => t = { s with outs := s.outs ++ [.answer 0 1] }) ∧
        Answers (.registerRead .host a be n) s (fun t => t = { s with outs := s.outs ++ [.answer 0 1] })) ∧
      (a.toNat % n ≠ 0 → Answers (.registerWrite (.core c) a v be n) s (fun t => t = { s with outs := s.outs ++ [.answer (2 + c) 4] }) ∧
        Answers (.registerRead (.core c) a be n) s (fun t => t = { s with outs := s.outs ++ [.answer (2 + c) 4] })) ∧
      (a.toNat % n = 0 → n ≠ 4 → Answers (.registerWrite (.core c) a v be n) s (fun t => t = { s with outs := s.outs ++ [.answer (2 + c) 7] }) ∧
        Answers (.registerRead (.core c) a be n) s (fun t => t = { s with outs := s.outs ++ [.answer (2 + c) 7] }))) ∧
    (∀ (command : Byte) (rest : List Byte),
      let bytes := command :: rest
      let a := spiOffset bytes
      (leAt bytes 0 1 = 0x02 → 8 ≤ bytes.length → (a % 4 = 0 → a < 0x100000 →
          Answers (.spiRegWrite command rest) s (fun t => regWrite s .spi a (leAt bytes 4 4) = t)) ∧
        (a % 4 ≠ 0 ∨ 0x100000 ≤ a → Answers (.spiRegWrite command rest) s (fun t => t = s))) ∧
      (leAt bytes 0 1 = 0x0B → 5 ≤ bytes.length → (a % 4 = 0 → a < 0x100000 → Answers (.spiRegRead bytes) s (fun t =>
          t.outs = (regRead s 1 a).2.outs ++ [.readValue 1 (regRead s 1 a).1] ∧ t = { (regRead s 1 a).2 with outs := t.outs })) ∧
        (a % 4 ≠ 0 ∨ 0x100000 ≤ a → Answers (.spiRegRead bytes) s (fun t => t = { s with outs := s.outs ++ [.readValue 1 0] }))) ∧
      Answers .spiStatus s (fun t => t = { s with outs := s.outs ++
        [.readValue 1 (b2n (decide (65616 ≤ fifoFree s)) + 2 * b2n (loaderOpen s) + 4 * b2n (getF s F.LDR_RESULT_CODE != 0))] }) ∧
      (leAt bytes 0 1 ∉ [0x02, 0x0B, 0x05, 0x10] → Answers (.spiRegWrite command rest) s (fun t => t = s) ∧
        Answers (.spiRegRead bytes) s (fun t => t = s) ∧ Answers (.spiStream bytes) s (fun t => t = s))) ∧
    Answers (.timeLoRead path) s (fun t => t.outs = s.outs ++ [.readValue p (plainReg s 0x10)] ∧
      t.capHi.get none (0x14 * 16 + p) = some (plainReg s 0x14) ∧ t = { s with outs := t.outs, capHi := t.capHi })

/-- Offsets of a block that hold no register (R9): a write is ignored, a read answers 0, and neither does anything else.  Not
meant are the MSI-X structures, which have their own rules. -/
def Obligations.OffsetsWithoutARegisterReadZero : Prop :=
  ∀ (s : State) (path : RegPath) (a : BitVec 20) (v : DWord), a.toNat % 4 = 0 → fieldsAt a.toNat = [] →
    isMsix a.toNat = false →
    Answers (.registerWrite path a v 0x0F 4) s (fun t => t = s) ∧
    Answers (.registerRead path a 0x0F 4) s (fun t => t = { s with outs := s.outs ++ [.readValue (pathCode path) 0] })

/-- A step takes the command at the front of the queue (the model's queue: log entry 1): it is that command run on the state
with the queue's rest. -/
def Obligations.StepRunsTheFrontCommand : Prop :=
  ∀ (c : Sys2Proof.Instr) (rest : List Sys2Proof.Instr) (s : State),
    step { s with pending := c :: rest } = exec c { s with pending := rest }

/-- A step with no command waiting (the model's choice, log entry 2): where a fence has let a descriptor go, that descriptor
runs; otherwise the oldest descriptor that is fetched and not started runs; where there is none, one SCLK period passes.  No
step stops. -/
def Obligations.StepWithoutACommandIsOneClockPeriod : Prop :=
  ∀ s : State, s.pending = [] → (∀ r, nextFenced s = some r → step s = runFetched r.1 r.2) ∧
    (∀ f fs, nextFenced s = none → s.host.fetched = f :: fs → step s = runFetched f s) ∧
    (nextFenced s = none → s.host.fetched = [] → step s = .next (tick s)) ∧ ∃ t, step s = .next t

/-- What reset leaves (R7, R30): every register field reads its reset value, the machine is EMPTY, no command waits, nothing
has been sent, no session or channel is open, no Ingot is loaded, and the stores named in Canonical are in their canonical
form.  Where the spec gives no reset value,
the value is the model's choice: log entries 4 to 6. -/
def Obligations.ResetLeavesTheResetValues : Prop :=
  (∀ f : Fld, getF State.reset f = f.rst) ∧ emState State.reset = 0 ∧ State.reset.pending = [] ∧ State.reset.outs = [] ∧
    (∀ i, (session State.reset i).state = 0) ∧ (∀ c, (chanCtx State.reset c).state = 0) ∧
    State.reset.ingot = none ∧ Canonical State.reset

/-- Every step keeps the register store in order and the tiles' bytes, the TRAM, the exchange RAM, the HBM and the scratch
RAM in their canonical form (the model's form of memory, log entry 3): keys rise strictly, and no byte is listed that reads as
an unlisted one. -/
def Obligations.EveryStepKeepsTheCanonicalForm : Prop :=
  ∀ s t : State, step s = .next t → Canonical s → Canonical t

/-- A fuse bit can only be changed from 0 to 1 (R564): whatever happens in a step, every fuse bit that was 1 is 1. -/
def Obligations.NoStepClearsAFuseBit : Prop :=
  ∀ s t : State, step s = .next t → FusesStay s t

/-- The frame that every command keeps (R1 for the chip; the queue and the record of what was sent are the model's, log
entry 1): the queue and the chip's own facts stay as they are, and what the device had sent it has sent. -/
def Obligations.EveryCommandKeepsQueueChipAndWhatWasSent : Prop :=
  ∀ (c : Sys2Proof.Instr) (s t : State), exec c s = .next t →
    t.pending = s.pending ∧ t.chip = s.chip ∧ SentStays s t ∧ s.draws ≤ t.draws

/-- No command stops the block (the model has no fault and no refusal for what may be commanded): every command answers a next
state in every state. -/
def Obligations.EveryCommandAnswersANextState : Prop :=
  ∀ (c : Sys2Proof.Instr) (s : State), ∃ t, exec c s = .next t
end

