-- ==== Sys2Proof/Laws/Store.lean ====
section
/-! SUPPORT. Laws of the sparse stores: a read after a write, and the canonical form that every store operation keeps. -/

namespace Sys2Proof.Machine

variable {β : Type}

/-! ### Reads after writes -/

@[simp] theorem SMap.find_put_same (m : SMap β) (a : Nat) (v : β) : (m.put a v).find a = some v := by
  induction m with
  | nil => simp [SMap.put, SMap.find]
  | cons e m ih =>
    obtain ⟨k, w⟩ := e
    simp only [SMap.put]
    split
    · simp [SMap.find]
    · split
      · simp [SMap.find]
      · rename_i h1 h2
        have hk : k ≠ a := fun h => h2 h.symm
        simpa [SMap.find, hk] using ih

@[simp] theorem SMap.find_put_other (m : SMap β) {a b : Nat} (h : b ≠ a) (v : β) : (m.put a v).find b = m.find b := by
  induction m with
  | nil => simp [SMap.put, SMap.find, h.symm]
  | cons e m ih =>
    obtain ⟨k, w⟩ := e
    simp only [SMap.put]
    split
    · simp [SMap.find, h.symm]
    · split
      · rename_i h1 h2
        subst h2
        simp [SMap.find, h.symm]
      · simp [SMap.find, ih]

@[simp] theorem SMap.find_drop_same (m : SMap β) (a : Nat) : (m.drop a).find a = none := by
  induction m with
  | nil => rfl
  | cons e m ih =>
    obtain ⟨k, w⟩ := e
    by_cases hk : k = a
    · simpa [SMap.drop, hk] using ih
    · simpa [SMap.drop, SMap.find, hk] using ih

@[simp] theorem SMap.find_drop_other (m : SMap β) {a b : Nat} (h : b ≠ a) : (m.drop a).find b = m.find b := by
  induction m with
  | nil => rfl
  | cons e m ih =>
    obtain ⟨k, w⟩ := e
    by_cases hk : k = a
    · subst hk
      simpa [SMap.drop, SMap.find, h.symm] using ih
    · by_cases hb : k = b
      · subst hb
        simp [SMap.drop, SMap.find, hk]
      · simpa [SMap.drop, SMap.find, hk, hb] using ih

variable [DecidableEq β]

/-- A key reads as what was set for it. -/
@[simp] theorem SMap.get_set_same (d : β) (m : SMap β) (a : Nat) (v : β) : SMap.get d (SMap.set d m a v) a = v := by
  unfold SMap.get SMap.set
  split
  · simp_all
  · simp

/-- A write of one key leaves every other key's value alone, whatever each reads as unlisted. -/
@[simp] theorem SMap.get_set_other (d e : β) (m : SMap β) {a b : Nat} (h : b ≠ a) (v : β) :
    SMap.get e (SMap.set d m a v) b = SMap.get e m b := by
  unfold SMap.get SMap.set
  split <;> simp [h]

/-- A byte reads as what was written. -/
@[simp] theorem Memory.read_write_same (fill : Nat → Byte) (m : Memory) (a : Nat) (v : Byte) :
    Memory.read fill (Memory.write fill m a v) a = v := by simp [Memory.read, Memory.write]

/-- A write of one byte leaves every other byte alone. -/
@[simp] theorem Memory.read_write_other (fill : Nat → Byte) (m : Memory) {a b : Nat} (h : b ≠ a) (v : Byte) :
    Memory.read fill (Memory.write fill m a v) b = Memory.read fill m b := by simp [Memory.read, Memory.write, h]

/-! ### Order -/

omit [DecidableEq β] in
theorem SMap.ordered_nil : SMap.ordered ([] : SMap β) := List.Pairwise.nil

omit [DecidableEq β] in
theorem SMap.ordered_filter (p : Nat × β → Bool) {m : SMap β} (h : m.ordered) : SMap.ordered (m.filter p) :=
  List.Pairwise.sublist (List.Sublist.map _ List.filter_sublist) h

omit [DecidableEq β] in
theorem SMap.ordered_cons {k : Nat} {w : β} {m : SMap β} :
    SMap.ordered ((k, w) :: m) ↔ (∀ e ∈ m, k < e.1) ∧ m.ordered := by
  simp [SMap.ordered]

omit [DecidableEq β] in
theorem SMap.mem_put {m : SMap β} {a : Nat} {v : β} {e : Nat × β} (h : e ∈ m.put a v) : e = (a, v) ∨ e ∈ m := by
  induction m with
  | nil => simpa [SMap.put] using h
  | cons x m ih =>
    obtain ⟨k, w⟩ := x
    simp only [SMap.put] at h
    split at h
    · simpa using h
    · split at h
      · rcases List.mem_cons.1 h with h | h
        · exact .inl h
        · exact .inr (List.mem_cons_of_mem _ h)
      · rcases List.mem_cons.1 h with h | h
        · exact .inr (h ▸ List.mem_cons_self)
        · rcases ih h with h | h
          · exact .inl h
          · exact .inr (List.mem_cons_of_mem _ h)

omit [DecidableEq β] in
theorem SMap.ordered_put {m : SMap β} (h : m.ordered) (a : Nat) (v : β) : (m.put a v).ordered := by
  induction m with
  | nil => simp [SMap.put, SMap.ordered]
  | cons x m ih =>
    obtain ⟨k, w⟩ := x
    obtain ⟨hk, hm⟩ := SMap.ordered_cons.1 h
    simp only [SMap.put]
    split
    · rename_i hak
      refine SMap.ordered_cons.2 ⟨fun e he => ?_, h⟩
      rcases List.mem_cons.1 he with he | he
      · exact he ▸ hak
      · exact Nat.lt_trans hak (hk e he)
    · split
      · rename_i hak
        exact SMap.ordered_cons.2 ⟨fun e he => hak ▸ hk e he, hm⟩
      · rename_i h1 h2
        refine SMap.ordered_cons.2 ⟨fun e he => ?_, ih hm⟩
        rcases SMap.mem_put he with he | he
        · rw [he]; simp only; omega
        · exact hk e he

theorem SMap.ordered_set (d : β) {m : SMap β} (h : m.ordered) (a : Nat) (v : β) : (SMap.set d m a v).ordered := by
  unfold SMap.set
  split
  · exact SMap.ordered_filter _ h
  · exact SMap.ordered_put h a v

/-! ### Canonical byte memories -/

theorem Memory.wf_nil (fill : Nat → Byte) : Memory.wf fill [] :=
  ⟨SMap.ordered_nil, fun _ h => absurd h List.not_mem_nil⟩

theorem Memory.wf_filter (fill : Nat → Byte) (p : Host.Cell → Bool) {m : Memory} (h : Memory.wf fill m) :
    Memory.wf fill (m.filter p) :=
  ⟨SMap.ordered_filter _ h.1, fun e he => h.2 e (List.mem_of_mem_filter he)⟩

/-- A write keeps the canonical form. -/
theorem Memory.wf_write (fill : Nat → Byte) {m : Memory} (h : Memory.wf fill m) (a : Nat) (v : Byte) :
    Memory.wf fill (Memory.write fill m a v) := by
  refine ⟨SMap.ordered_set _ h.1 a v, fun e he => ?_⟩
  unfold Memory.write SMap.set at he
  split at he
  · exact h.2 e (List.mem_of_mem_filter he)
  · rename_i hv
    rcases SMap.mem_put he with he | he
    · rw [he]; exact hv
    · exact h.2 e he

/-- Writing a run of bytes keeps the canonical form. -/
theorem Memory.wf_writeBytes (fill : Nat → Byte) (bs : List Byte) {m : Memory} (h : Memory.wf fill m) (a : Nat) :
    Memory.wf fill (Memory.writeBytes fill m a bs) := by
  induction bs generalizing m a with
  | nil => exact h
  | cons b bs ih => exact ih (Memory.wf_write fill h a b) (a + 1)

/-- Writing enabled bytes keeps the canonical form. -/
theorem Memory.wf_writeEnabled (fill : Nat → Byte) (bs : List (Option Byte)) {m : Memory} (h : Memory.wf fill m) (a : Nat) :
    Memory.wf fill (Memory.writeEnabled fill m a bs) := by
  induction bs generalizing m a with
  | nil => exact h
  | cons b bs ih =>
    cases b with
    | none => exact ih h (a + 1)
    | some b => exact ih (Memory.wf_write fill h a b) (a + 1)

/-- A fold of operations that keep the canonical form keeps it. -/
theorem Memory.wf_foldl {α : Type} (fill : Nat → Byte) (g : Memory → α → Memory)
    (hg : ∀ m a, Memory.wf fill m → Memory.wf fill (g m a)) (l : List α) {m : Memory} (h : Memory.wf fill m) :
    Memory.wf fill (l.foldl g m) := by
  induction l generalizing m with
  | nil => exact h
  | cons a l ih => exact ih (hg m a h)

/-- Clearing a range keeps the canonical form. -/
theorem Memory.wf_clear (fill : Nat → Byte) {m : Memory} (h : Memory.wf fill m) (a n : Nat) :
    Memory.wf fill (Memory.clear m a n) := Memory.wf_filter fill _ h

end Sys2Proof.Machine
end

