-- ==== Sys2Proof/Laws/Keeps.lean ====
section
/-! SUPPORT. What every operation of the block keeps: the queue and the chip, what has been sent, the free values drawn,
burned fuses, and the canonical form of the stores. Each operation has one lemma, which says that it keeps what the state
that it starts from keeps. -/

namespace Sys2Proof.Machine

/-- The stores are in their canonical form. -/
structure StoresOk (regs : SMap Nat) (tiles tram exr hbm scratch : Memory) : Prop where
  regs : SMap.ordered regs
  tiles : Memory.wf zeroFill tiles
  tram : Memory.wf zeroFill tram
  exr : Memory.wf marchFill exr
  hbm : Memory.wf zeroFill hbm
  scratch : Memory.wf marchFill scratch

/-- Components of a later state against state `r`: the queue and the chip are its own, nothing sent is taken back, free
values are drawn forward, burned fuses stay, and the stores stay canonical. -/
structure KeepsAs (r : State) (pending : List Instr) (chip : Chip) (outs : List Out) (draws : Nat) (fuses : SMap Nat)
    (regs : SMap Nat) (tiles tram exr hbm scratch : Memory) : Prop where
  pending : pending = r.pending
  chip : chip = r.chip
  outs : r.outs <+: outs
  draws : r.draws ≤ draws
  fuses : ∀ w i, (r.sec.fuses.get 0 w).testBit i = true → (fuses.get 0 w).testBit i = true
  stores : StoresOk r.regs r.tileBytes r.mem.tram r.mem.exr r.mem.hbm r.ctl.scratch → StoresOk regs tiles tram exr hbm scratch

/-- State `t` keeps what `r` has. -/
def Keeps (r t : State) : Prop :=
  KeepsAs r t.pending t.chip t.outs t.draws t.sec.fuses t.regs t.tileBytes t.mem.tram t.mem.exr t.mem.hbm t.ctl.scratch

variable {r s : State}

theorem Keeps.refl (s : State) : Keeps s s :=
  ⟨rfl, rfl, List.prefix_refl _, Nat.le_refl _, fun _ _ h => h, fun h => h⟩

theorem Keeps.upd {x : State} {capHi} {dies} {holds} {mem : DesignMem} {run} {ingot} {iso} {host} {chn} {asy} {hgr} {lnk}
    {design} {hbm} {clk} {net} {sec : Sec} {ctl : Ctl} {trc} {ldr} {boot} (h : Keeps r x) (h1 : mem.tram = x.mem.tram)
    (h2 : mem.exr = x.mem.exr) (h3 : mem.hbm = x.mem.hbm) (h4 : sec.fuses = x.sec.fuses)
    (h5 : ctl.scratch = x.ctl.scratch) :
    Keeps r (State.mk x.chip x.regs capHi dies holds mem run ingot iso x.tileBytes host chn asy hgr lnk design hbm clk net sec
      ctl trc ldr boot x.outs x.draws x.pending) := by
  unfold Keeps
  simp only [h1, h2, h3, h4, h5]
  exact h

theorem Keeps.ite {c : Prop} [Decidable c] {a b : State} (ha : Keeps r a) (hb : Keeps r b) :
    Keeps r (if c then a else b) := by split <;> assumption

theorem Keeps.foldl {α : Type} {l : List α} {g : State → α → State} (hg : ∀ t a, Keeps r t → Keeps r (g t a))
    (h : Keeps r s) : Keeps r (l.foldl g s) := by
  induction l generalizing s with
  | nil => exact h
  | cons a l ih => exact ih (hg s a h)

theorem Keeps.foldl_fst {α β : Type} {l : List α} {g : State × β → α → State × β} {p : State × β}
    (hg : ∀ q a, Keeps r q.1 → Keeps r (g q a).1) (h : Keeps r p.1) : Keeps r (l.foldl g p).1 := by
  induction l generalizing p with
  | nil => exact h
  | cons a l ih => exact ih (hg p a h)

/-- Where an outcome is a next state, that state keeps what `r` has. -/
structure OutKeeps (r : State) (o : Host.Outcome State Fault Refusal) : Prop where
  keeps : ∀ t, o = .next t → Keeps r t

theorem OutKeeps.next {t : State} (h : Keeps r t) : OutKeeps r (.next t) := ⟨fun _ e => by cases e; exact h⟩

theorem Keeps.of_fst {β : Type} {p : State × β} {t : State} {b : β} (e : p = (t, b)) (h : Keeps r p.1) : Keeps r t := by
  rw [e] at h; exact h

theorem Keeps.of_snd {β : Type} {p : β × State} {t : State} {b : β} (e : p = (b, t)) (h : Keeps r p.2) : Keeps r t := by
  rw [e] at h; exact h

theorem Keeps.draw (h : Keeps r s) (n : Nat) : Keeps r { s with draws := s.draws + n } :=
  ⟨h.pending, h.chip, h.outs, Nat.le_add_right_of_le h.draws, h.fuses, h.stores⟩

theorem Keeps.mem (h : Keeps r s) (m : DesignMem) (h1 : Memory.wf zeroFill s.mem.tram → Memory.wf zeroFill m.tram)
    (h2 : Memory.wf marchFill s.mem.exr → Memory.wf marchFill m.exr)
    (h3 : Memory.wf zeroFill s.mem.hbm → Memory.wf zeroFill m.hbm) : Keeps r { s with mem := m } :=
  ⟨h.pending, h.chip, h.outs, h.draws, h.fuses, fun hs =>
    let k := h.stores hs
    ⟨k.regs, k.tiles, h1 k.tram, h2 k.exr, h3 k.hbm, k.scratch⟩⟩

theorem Keeps.tiles (h : Keeps r s) (m : Memory) (h1 : Memory.wf zeroFill s.tileBytes → Memory.wf zeroFill m) :
    Keeps r { s with tileBytes := m } :=
  ⟨h.pending, h.chip, h.outs, h.draws, h.fuses, fun hs =>
    let k := h.stores hs
    ⟨k.regs, h1 k.tiles, k.tram, k.exr, k.hbm, k.scratch⟩⟩

theorem Keeps.ctl (h : Keeps r s) (c : Ctl) (h1 : Memory.wf marchFill s.ctl.scratch → Memory.wf marchFill c.scratch) :
    Keeps r { s with ctl := c } :=
  ⟨h.pending, h.chip, h.outs, h.draws, h.fuses, fun hs =>
    let k := h.stores hs
    ⟨k.regs, k.tiles, k.tram, k.exr, k.hbm, h1 k.scratch⟩⟩

theorem Keeps.sec (h : Keeps r s) (c : Sec)
    (h1 : ∀ w i, (s.sec.fuses.get 0 w).testBit i = true → (c.fuses.get 0 w).testBit i = true) :
    Keeps r { s with sec := c } :=
  ⟨h.pending, h.chip, h.outs, h.draws, fun w i hw => h1 w i (h.fuses w i hw), h.stores⟩

end Sys2Proof.Machine
end

