-- ==== Sys2Proof/Laws/KeepsOps.lean ====
section
/-! SUPPORT. What the operations of Machine/Ops.lean keep. -/

namespace Sys2Proof.Machine

variable {r : State}

set_option linter.unusedTactic false
set_option linter.unreachableTactic false

theorem setF_keeps {s : State} (h : Keeps r s) (f : Fld) (v : Nat) : Keeps r (setF s f v) :=
  ⟨h.pending, h.chip, h.outs, h.draws, h.fuses, fun hs =>
    let k := h.stores hs
    ⟨SMap.ordered_set _ k.regs _ _, k.tiles, k.tram, k.exr, k.hbm, k.scratch⟩⟩

theorem setB_keeps {s : State} (f : Fld) (b : Bool) (h : Keeps r s) :
    Keeps r (setB s f b) := by
  unfold setB
  repeat' first
    | with_reducible assumption
    | with_reducible rfl
    | intro _
    | (with_reducible first | apply setF_keeps | apply Keeps.ite | apply Keeps.foldl)
    | split
    | fail_if_no_progress (with_reducible (apply Keeps.upd <;> try rfl))

theorem setFBit_keeps {s : State} (f : Fld) (i : Nat) (b : Bool) (h : Keeps r s) :
    Keeps r (setFBit s f i b) := by
  unfold setFBit
  repeat' first
    | with_reducible assumption
    | with_reducible rfl
    | intro _
    | (with_reducible first | apply setF_keeps | apply Keeps.ite | apply Keeps.foldl)
    | split
    | fail_if_no_progress (with_reducible (apply Keeps.upd <;> try rfl))

theorem bumpF_keeps {s : State} (f : Fld) (n : Nat) (h : Keeps r s) :
    Keeps r (bumpF s f n) := by
  unfold bumpF
  repeat' first
    | with_reducible assumption
    | with_reducible rfl
    | intro _
    | (with_reducible first | apply setF_keeps | apply Keeps.ite | apply Keeps.foldl)
    | split
    | fail_if_no_progress (with_reducible (apply Keeps.upd <;> try rfl))

theorem wrapF_keeps {s : State} (f : Fld) (n : Nat) (h : Keeps r s) :
    Keeps r (wrapF s f n) := by
  unfold wrapF
  repeat' first
    | with_reducible assumption
    | with_reducible rfl
    | intro _
    | (with_reducible first | apply setF_keeps | apply Keeps.ite | apply Keeps.foldl)
    | split
    | fail_if_no_progress (with_reducible (apply Keeps.upd <;> try rfl))

theorem set64_keeps {s : State} (lo : Fld) (hi : Fld) (v : Nat) (h : Keeps r s) :
    Keeps r (set64 s lo hi v) := by
  unfold set64
  repeat' first
    | with_reducible assumption
    | with_reducible rfl
    | intro _
    | (with_reducible first | apply setF_keeps | apply Keeps.ite | apply Keeps.foldl)
    | split
    | fail_if_no_progress (with_reducible (apply Keeps.upd <;> try rfl))

theorem resetBlock_keeps {s : State} (h : Keeps r s) (b : Nat) (keep : Nat → Bool) : Keeps r (resetBlock s b keep) :=
  ⟨h.pending, h.chip, h.outs, h.draws, h.fuses, fun hs =>
    let k := h.stores hs
    ⟨SMap.ordered_filter _ k.regs, k.tiles, k.tram, k.exr, k.hbm, k.scratch⟩⟩

theorem writeField_keeps (v : Nat) {s : State} (f : Fld) (h : Keeps r s) :
    Keeps r (writeField v s f) := by
  unfold writeField
  repeat' first
    | with_reducible assumption
    | with_reducible rfl
    | intro _
    | (with_reducible first | apply setF_keeps | apply Keeps.ite | apply Keeps.foldl)
    | split
    | fail_if_no_progress (with_reducible (apply Keeps.upd <;> try rfl))

theorem plainWrite_keeps {s : State} (a : Nat) (v : Nat) (h : Keeps r s) :
    Keeps r (plainWrite s a v) := by
  unfold plainWrite
  repeat' first
    | with_reducible assumption
    | with_reducible rfl
    | intro _
    | (with_reducible first | apply writeField_keeps | apply Keeps.ite | apply Keeps.foldl)
    | split
    | fail_if_no_progress (with_reducible (apply Keeps.upd <;> try rfl))

theorem clearRC_keeps {s : State} (a : Nat) (h : Keeps r s) :
    Keeps r (clearRC s a) := by
  unfold clearRC
  repeat' first
    | with_reducible assumption
    | with_reducible rfl
    | intro _
    | (with_reducible first | apply setF_keeps | apply Keeps.ite | apply Keeps.foldl)
    | split
    | fail_if_no_progress (with_reducible (apply Keeps.upd <;> try rfl))

theorem gatedWrite_keeps {s : State} (a : Nat) {k : State → State} (h : Keeps r s) (h_k : ∀ t, Keeps r t → Keeps r (k t)) :
    Keeps r (gatedWrite s a k) := by
  unfold gatedWrite
  repeat' first
    | with_reducible assumption
    | with_reducible rfl
    | intro _
    | (with_reducible first | apply h_k | apply setB_keeps | apply Keeps.ite | apply Keeps.foldl)
    | split
    | fail_if_no_progress (with_reducible (apply Keeps.upd <;> try rfl))

theorem setDie_keeps {s : State} (d : Fin 4) (x : Die) (h : Keeps r s) :
    Keeps r (setDie s d x) := by
  unfold setDie
  repeat' first
    | with_reducible assumption
    | with_reducible rfl
    | intro _
    | (with_reducible first | apply Keeps.ite | apply Keeps.foldl)
    | split
    | fail_if_no_progress (with_reducible (apply Keeps.upd <;> try rfl))

theorem onDie_keeps {s : State} (d : Fin 4) (g : Die → Die) (h : Keeps r s) :
    Keeps r (onDie s d g) := by
  unfold onDie
  repeat' first
    | with_reducible assumption
    | with_reducible rfl
    | intro _
    | (with_reducible first | apply setDie_keeps | apply Keeps.ite | apply Keeps.foldl)
    | split
    | fail_if_no_progress (with_reducible (apply Keeps.upd <;> try rfl))

theorem onDies_keeps {s : State} (g : Die → Die) (h : Keeps r s) :
    Keeps r (onDies s g) := by
  unfold onDies
  repeat' first
    | with_reducible assumption
    | with_reducible rfl
    | intro _
    | (with_reducible first | apply Keeps.ite | apply Keeps.foldl)
    | split
    | fail_if_no_progress (with_reducible (apply Keeps.upd <;> try rfl))

theorem setTime_keeps {s : State} (t : Nat) (h : Keeps r s) :
    Keeps r (setTime s t) := by
  unfold setTime
  repeat' first
    | with_reducible assumption
    | with_reducible rfl
    | intro _
    | (with_reducible first | apply set64_keeps | apply Keeps.ite | apply Keeps.foldl)
    | split
    | fail_if_no_progress (with_reducible (apply Keeps.upd <;> try rfl))

end Sys2Proof.Machine
end

