-- ==== Sys2Proof/Laws/KeepsOperands.lean ====
section
/-! SUPPORT. What the operations of Machine/Operands.lean keep. -/

namespace Sys2Proof.Machine

variable {r : State}

set_option linter.unusedTactic false
set_option linter.unreachableTactic false

theorem hbmPut_keeps {s : State} (pc a : Nat) (b : Byte) (h : Keeps r s) : Keeps r (hbmPut s pc a b) := by
  unfold hbmPut
  split
  · exact h
  · exact ⟨h.pending, h.chip, h.outs, h.draws, h.fuses, fun hs =>
      let k := h.stores hs
      ⟨k.regs, k.tiles, k.tram, k.exr, Memory.wf_write zeroFill k.hbm _ b, k.scratch⟩⟩

theorem winWrite_keeps {s : State} (w x : Nat) (b : Byte) (h : Keeps r s) : Keeps r (winWrite s w x b) := by
  unfold winWrite
  dsimp only
  split
  · exact hbmPut_keeps _ _ _ (hbmPut_keeps _ _ _ h)
  · exact hbmPut_keeps _ _ _ h

theorem winWriteBytes_keeps {s : State} (w x : Nat) (bs : List Byte) (h : Keeps r s) :
    Keeps r (winWriteBytes s w x bs) := by
  induction bs generalizing s x with
  | nil => exact h
  | cons b bs ih => exact ih (x + 1) (winWrite_keeps w x b h)

theorem setTargetByte_keeps {s : State} (d p target window x : Nat) (b : Byte) (h : Keeps r s) :
    Keeps r (setTargetByte s d p target window x b) := by
  unfold setTargetByte
  split
  · exact Keeps.mem h _ (fun k => Memory.wf_write zeroFill k _ b) (fun k => k) (fun k => k)
  · exact winWrite_keeps window x b h
  · exact Keeps.mem h _ (fun k => k) (fun k => Memory.wf_write marchFill k _ b) (fun k => k)

theorem targetWrite_keeps {s : State} (d p target window b v w : Nat) (h : Keeps r s) :
    Keeps r (targetWrite s d p target window b v w) := by
  induction w generalizing s b v with
  | zero => exact h
  | succ w ih => exact ih _ _ (setTargetByte_keeps d p target window _ _ h)

end Sys2Proof.Machine
end

