-- ==== Sys2Proof/Laws/KeepsFlags.lean ====
section
/-! SUPPORT. What the operations of Machine/Flags.lean keep. -/

namespace Sys2Proof.Machine

variable {r : State}

set_option linter.unusedTactic false
set_option linter.unreachableTactic false

theorem raiseSource_keeps {s : State} (n : Nat) (h : Keeps r s) :
    Keeps r (raiseSource s n) := by
  unfold raiseSource
  repeat' first
    | with_reducible assumption
    | with_reducible rfl
    | intro _
    | (with_reducible first | apply bumpF_keeps | apply setFBit_keeps | apply Keeps.ite | apply Keeps.foldl)
    | split
    | fail_if_no_progress (with_reducible (apply Keeps.upd <;> try rfl))

theorem clearSource_keeps {s : State} (n : Nat) (h : Keeps r s) :
    Keeps r (clearSource s n) := by
  unfold clearSource
  repeat' first
    | with_reducible assumption
    | with_reducible rfl
    | intro _
    | (with_reducible first | apply setFBit_keeps | apply Keeps.ite | apply Keeps.foldl)
    | split
    | fail_if_no_progress (with_reducible (apply Keeps.upd <;> try rfl))

theorem showHeld_keeps {s : State} (h : Keeps r s) :
    Keeps r (showHeld s) := by
  unfold showHeld
  repeat' first
    | with_reducible assumption
    | with_reducible rfl
    | intro _
    | (with_reducible first | apply setF_keeps | apply Keeps.ite | apply Keeps.foldl)
    | split
    | fail_if_no_progress (with_reducible (apply Keeps.upd <;> try rfl))

theorem noteSkew_keeps {s : State} (h : Keeps r s) :
    Keeps r (noteSkew s) := by
  unfold noteSkew
  repeat' first
    | with_reducible assumption
    | with_reducible rfl
    | intro _
    | (with_reducible first | apply setF_keeps | apply Keeps.ite | apply Keeps.foldl)
    | split
    | fail_if_no_progress (with_reducible (apply Keeps.upd <;> try rfl))

theorem freezeDie_keeps {s : State} (d : Fin 4) (h : Keeps r s) :
    Keeps r (freezeDie s d) := by
  unfold freezeDie
  repeat' first
    | with_reducible assumption
    | with_reducible rfl
    | intro _
    | (with_reducible first | apply onDie_keeps | apply setF_keeps | apply setFBit_keeps | apply raiseSource_keeps | apply showHeld_keeps | apply noteSkew_keeps | apply setB_keeps | apply Keeps.ite | apply Keeps.foldl)
    | split
    | fail_if_no_progress (with_reducible (apply Keeps.upd <;> try rfl))

theorem releaseDie_keeps {s : State} (d : Fin 4) (h : Keeps r s) :
    Keeps r (releaseDie s d) := by
  unfold releaseDie
  repeat' first
    | with_reducible assumption
    | with_reducible rfl
    | intro _
    | (with_reducible first | apply onDie_keeps | apply showHeld_keeps | apply setFBit_keeps | apply Keeps.ite | apply Keeps.foldl)
    | split
    | fail_if_no_progress (with_reducible (apply Keeps.upd <;> try rfl))

theorem freezeLate_keeps {s : State} (d : Fin 4) (items : List LateItem) (h : Keeps r s) :
    Keeps r (freezeLate s d items) := by
  unfold freezeLate
  repeat' first
    | with_reducible assumption
    | with_reducible rfl
    | intro _
    | (with_reducible first | apply freezeDie_keeps | apply onDie_keeps | apply raiseSource_keeps | apply Keeps.ite | apply Keeps.foldl)
    | split
    | fail_if_no_progress (with_reducible (apply Keeps.upd <;> try rfl))

theorem writeWords_keeps {s : State} (f : Nat → Fld) (bs : List Byte) (h : Keeps r s) :
    Keeps r (writeWords s f bs) := by
  unfold writeWords
  repeat' first
    | with_reducible assumption
    | with_reducible rfl
    | intro _
    | (with_reducible first | apply setF_keeps | apply Keeps.ite | apply Keeps.foldl)
    | split
    | fail_if_no_progress (with_reducible (apply Keeps.upd <;> try rfl))

theorem logRecord_keeps {s : State} (bs : List Byte) (h : Keeps r s) :
    Keeps r (logRecord s bs) := by
  unfold logRecord
  repeat' first
    | with_reducible assumption
    | with_reducible rfl
    | intro _
    | (with_reducible first | apply writeWords_keeps | apply setB_keeps | apply setF_keeps | apply Keeps.ite | apply Keeps.foldl)
    | split
    | fail_if_no_progress (with_reducible (apply Keeps.upd <;> try rfl))

theorem recordSF_keeps {s : State} (fs : List SFault) (h : Keeps r s) :
    Keeps r (recordSF s fs) := by
  unfold recordSF
  repeat' first
    | with_reducible assumption
    | with_reducible rfl
    | intro _
    | extract_lets
    | (with_reducible first | apply setB_keeps | apply writeWords_keeps | apply Keeps.ite | apply Keeps.foldl)
    | split
    | fail_if_no_progress (with_reducible (apply Keeps.upd <;> try rfl))
    | dsimp +zetaDelta only

theorem voteBad_keeps {s : State} (d : Fin 4) (c : Nat) (h : Keeps r s) :
    Keeps r (voteBad s d c) := by
  unfold voteBad
  repeat' first
    | with_reducible assumption
    | with_reducible rfl
    | intro _
    | (with_reducible first | apply Keeps.ite | apply Keeps.foldl)
    | split
    | fail_if_no_progress (with_reducible (apply Keeps.upd <;> try rfl))

theorem raiseSF_keeps {s : State} (d : Fin 4) (fs : List SFault) (h : Keeps r s) :
    Keeps r (raiseSF s d fs) := by
  unfold raiseSF
  repeat' first
    | with_reducible assumption
    | with_reducible rfl
    | intro _
    | (with_reducible first | apply voteBad_keeps | apply recordSF_keeps | apply onDie_keeps | apply Keeps.ite | apply Keeps.foldl)
    | split
    | fail_if_no_progress (with_reducible (apply Keeps.upd <;> try rfl))

theorem noteFault_keeps {s : State} (d : Fin 4) (f : FaultNote) (h : Keeps r s) :
    Keeps r (noteFault s d f) := by
  unfold noteFault
  repeat' first
    | with_reducible assumption
    | with_reducible rfl
    | intro _
    | (with_reducible first | apply logRecord_keeps | apply onDie_keeps | apply Keeps.ite | apply Keeps.foldl)
    | split
    | fail_if_no_progress (with_reducible (apply Keeps.upd <;> try rfl))

theorem badNow_keeps {s : State} (d : Fin 4) (h : Keeps r s) :
    Keeps r (badNow s d) := by
  unfold badNow
  repeat' first
    | with_reducible assumption
    | with_reducible rfl
    | intro _
    | (with_reducible first | apply voteBad_keeps | apply set64_keeps | apply setB_keeps | apply raiseSource_keeps | apply onDie_keeps | apply Keeps.ite | apply Keeps.foldl)
    | split
    | fail_if_no_progress (with_reducible (apply Keeps.upd <;> try rfl))

theorem noteFaults_keeps {s : State} (d : Fin 4) (fs : List FaultNote) (h : Keeps r s) :
    Keeps r (noteFaults s d fs) := by
  unfold noteFaults
  repeat' first
    | with_reducible assumption
    | with_reducible rfl
    | intro _
    | (with_reducible first | apply badNow_keeps | apply noteFault_keeps | apply Keeps.ite | apply Keeps.foldl)
    | split
    | fail_if_no_progress (with_reducible (apply Keeps.upd <;> try rfl))

end Sys2Proof.Machine
end

