-- ==== Sys2Proof/Laws/KeepsArray.lean ====
section
/-! SUPPORT. What the operations of Machine/Array.lean keep. -/

namespace Sys2Proof.Machine

variable {r : State}

set_option linter.unusedTactic false
set_option linter.unreachableTactic false

theorem noteStep_keeps {s : State} (d : Fin 4) (f : StepFind) (h : Keeps r s) :
    Keeps r (noteStep s d f) := by
  unfold noteStep
  repeat' first
    | with_reducible assumption
    | with_reducible rfl
    | intro _
    | (with_reducible first | apply bumpF_keeps | apply noteFaults_keeps | apply Keeps.ite | apply Keeps.foldl)
    | split
    | fail_if_no_progress (with_reducible (apply Keeps.upd <;> try rfl))

theorem stopStep_keeps {s : State} (d : Fin 4) (f : StepFind) (h : Keeps r s) :
    Keeps r (stopStep s d f) := by
  unfold stopStep
  repeat' first
    | with_reducible assumption
    | with_reducible rfl
    | intro _
    | (with_reducible first | apply raiseSF_keeps | apply noteStep_keeps | apply freezeLate_keeps | apply Keeps.ite | apply Keeps.foldl)
    | split
    | fail_if_no_progress (with_reducible (apply Keeps.upd <;> try rfl))

theorem landStep_keeps {s : State} (d : Fin 4) (g : Stage) (fs : List (Nat × CrossEntry × Bool)) (h : Keeps r s) :
    Keeps r (landStep s d g fs) := by
  unfold landStep
  repeat' first
    | with_reducible assumption
    | with_reducible rfl
    | intro _
    | (with_reducible first | apply setDie_keeps | apply Keeps.ite | apply Keeps.foldl)
    | split
    | fail_if_no_progress (with_reducible (apply Keeps.upd <;> try rfl))

end Sys2Proof.Machine
end

