-- ==== Sys2Proof/Laws/KeepsArrayUnits.lean ====
section
/-! SUPPORT. What the operations of Machine/ArrayUnits.lean keep. -/

namespace Sys2Proof.Machine

variable {r : State}

set_option linter.unusedTactic false
set_option linter.unreachableTactic false

theorem takeOut_keeps {s : State} (d : Fin 4) (o : UnitOut) (h : Keeps r s) :
    Keeps r (takeOut s d o) := by
  unfold takeOut
  repeat' first
    | with_reducible assumption
    | with_reducible rfl
    | intro _
    | (with_reducible first | apply stopStep_keeps | apply bumpF_keeps | apply noteFaults_keeps | apply onDie_keeps | apply Keeps.ite | apply Keeps.foldl)
    | split
    | fail_if_no_progress (with_reducible (apply Keeps.upd <;> try rfl))

theorem runUnit_keeps {s : State} (d : Fin 4) (p : Nat) (key : Nat) (ok : Bool) (o : UnitOut) (h : Keeps r s) :
    Keeps r (runUnit s d p key ok o) := by
  unfold runUnit
  repeat' first
    | with_reducible assumption
    | with_reducible rfl
    | intro _
    | (with_reducible first | apply takeOut_keeps | apply Keeps.ite | apply Keeps.foldl)
    | split
    | fail_if_no_progress (with_reducible (apply Keeps.upd <;> try rfl))

theorem execEval_keeps (d : Fin 4) (p : Fin 64) (n : Fin 32) (j : Fin 64) (flips : BitVec 4) {s : State} (h : Keeps r s) :
    OutKeeps r (execEval d p n j flips s) := by
  unfold execEval
  repeat' first
    | with_reducible assumption
    | with_reducible rfl
    | intro _
    | extract_lets
    | (with_reducible first | apply runUnit_keeps | apply OutKeeps.next | apply Keeps.ite | apply Keeps.foldl)
    | split
    | fail_if_no_progress (with_reducible (apply Keeps.upd <;> try rfl))
    | dsimp +zetaDelta only

theorem execCopy_keeps (d : Fin 4) (p : Fin 64) (n : Fin 32) (j : Fin 64) (flips : BitVec 4) {s : State} (h : Keeps r s) :
    OutKeeps r (execCopy d p n j flips s) := by
  unfold execCopy
  repeat' first
    | with_reducible assumption
    | with_reducible rfl
    | intro _
    | extract_lets
    | (with_reducible first | apply runUnit_keeps | apply OutKeeps.next | apply Keeps.ite | apply Keeps.foldl)
    | split
    | fail_if_no_progress (with_reducible (apply Keeps.upd <;> try rfl))
    | dsimp +zetaDelta only

theorem execNop_keeps (d : Fin 4) (p : Fin 64) (n : Fin 32) (j : Fin 64) {s : State} (h : Keeps r s) :
    OutKeeps r (execNop d p n j s) := by
  unfold execNop
  repeat' first
    | with_reducible assumption
    | with_reducible rfl
    | intro _
    | extract_lets
    | (with_reducible first | apply runUnit_keeps | apply OutKeeps.next | apply Keeps.ite | apply Keeps.foldl)
    | split
    | fail_if_no_progress (with_reducible (apply Keeps.upd <;> try rfl))
    | dsimp +zetaDelta only

theorem noteParity_keeps {s : State} (d : Fin 4) (lane : Nat) (h : Keeps r s) :
    Keeps r (noteParity s d lane) := by
  unfold noteParity
  repeat' first
    | with_reducible assumption
    | with_reducible rfl
    | intro _
    | (with_reducible first | apply onDie_keeps | apply Keeps.ite | apply Keeps.foldl)
    | split
    | fail_if_no_progress (with_reducible (apply Keeps.upd <;> try rfl))

theorem execSend_keeps (d : Fin 4) (p : Fin 64) (n : Fin 32) (k : Fin 4) (parity : Option (BitVec 4)) {s : State} (h : Keeps r s) :
    OutKeeps r (execSend d p n k parity s) := by
  unfold execSend
  repeat' first
    | with_reducible assumption
    | with_reducible rfl
    | intro _
    | extract_lets
    | (with_reducible first | apply runUnit_keeps | apply noteParity_keeps | apply OutKeeps.next | apply Keeps.ite | apply Keeps.foldl)
    | split
    | fail_if_no_progress (with_reducible (apply Keeps.upd <;> try rfl))
    | dsimp +zetaDelta only

theorem execRecv_keeps (d : Fin 4) (p : Fin 64) (n : Fin 32) (k : Fin 4) {s : State} (h : Keeps r s) :
    OutKeeps r (execRecv d p n k s) := by
  unfold execRecv
  repeat' first
    | with_reducible assumption
    | with_reducible rfl
    | intro _
    | extract_lets
    | (with_reducible first | apply runUnit_keeps | apply OutKeeps.next | apply Keeps.ite | apply Keeps.foldl)
    | split
    | fail_if_no_progress (with_reducible (apply Keeps.upd <;> try rfl))
    | dsimp +zetaDelta only

theorem execLatch_keeps (d : Fin 4) (p : Fin 64) (n : Fin 32) {s : State} (h : Keeps r s) :
    OutKeeps r (execLatch d p n s) := by
  unfold execLatch
  repeat' first
    | with_reducible assumption
    | with_reducible rfl
    | intro _
    | extract_lets
    | (with_reducible first | apply runUnit_keeps | apply OutKeeps.next | apply Keeps.ite | apply Keeps.foldl)
    | split
    | fail_if_no_progress (with_reducible (apply Keeps.upd <;> try rfl))
    | dsimp +zetaDelta only

theorem execGatherAddr_keeps (d : Fin 4) (p : Fin 64) (m : Fin 16) {s : State} (h : Keeps r s) :
    OutKeeps r (execGatherAddr d p m s) := by
  unfold execGatherAddr
  repeat' first
    | with_reducible assumption
    | with_reducible rfl
    | intro _
    | extract_lets
    | (with_reducible first | apply runUnit_keeps | apply OutKeeps.next | apply Keeps.ite | apply Keeps.foldl)
    | split
    | fail_if_no_progress (with_reducible (apply Keeps.upd <;> try rfl))
    | dsimp +zetaDelta only

theorem execGatherData_keeps (d : Fin 4) (p : Fin 64) (m : Fin 16) {s : State} (h : Keeps r s) :
    OutKeeps r (execGatherData d p m s) := by
  unfold execGatherData
  repeat' first
    | with_reducible assumption
    | with_reducible rfl
    | intro _
    | extract_lets
    | (with_reducible first | apply runUnit_keeps | apply OutKeeps.next | apply Keeps.ite | apply Keeps.foldl)
    | split
    | fail_if_no_progress (with_reducible (apply Keeps.upd <;> try rfl))
    | dsimp +zetaDelta only

theorem execMemoryPortRead_keeps (d : Fin 4) (p : Fin 64) (m : Fin 16) {s : State} (h : Keeps r s) :
    OutKeeps r (execMemoryPortRead d p m s) := by
  unfold execMemoryPortRead
  repeat' first
    | with_reducible assumption
    | with_reducible rfl
    | intro _
    | extract_lets
    | (with_reducible first | apply runUnit_keeps | apply OutKeeps.next | apply Keeps.ite | apply Keeps.foldl)
    | split
    | fail_if_no_progress (with_reducible (apply Keeps.upd <;> try rfl))
    | dsimp +zetaDelta only

theorem execMemoryPortWrite_keeps (d : Fin 4) (p : Fin 64) (m : Fin 16) {s : State} (h : Keeps r s) :
    OutKeeps r (execMemoryPortWrite d p m s) := by
  unfold execMemoryPortWrite
  repeat' first
    | with_reducible assumption
    | with_reducible rfl
    | intro _
    | extract_lets
    | (with_reducible first | apply runUnit_keeps | apply OutKeeps.next | apply Keeps.ite | apply Keeps.foldl)
    | split
    | fail_if_no_progress (with_reducible (apply Keeps.upd <;> try rfl))
    | dsimp +zetaDelta only

theorem execMemoryPortNop_keeps (d : Fin 4) (p : Fin 64) (m : Fin 16) {s : State} (h : Keeps r s) :
    OutKeeps r (execMemoryPortNop d p m s) := by
  unfold execMemoryPortNop
  repeat' first
    | with_reducible assumption
    | with_reducible rfl
    | intro _
    | extract_lets
    | (with_reducible first | apply runUnit_keeps | apply OutKeeps.next | apply Keeps.ite | apply Keeps.foldl)
    | split
    | fail_if_no_progress (with_reducible (apply Keeps.upd <;> try rfl))
    | dsimp +zetaDelta only

end Sys2Proof.Machine
end

