-- ==== Sys2Proof/Laws/KeepsHostOps.lean ====
section
/-! SUPPORT. What the operations of Machine/HostOps.lean keep. -/

namespace Sys2Proof.Machine

variable {r : State}

set_option linter.unusedTactic false
set_option linter.unreachableTactic false

theorem emit_keeps {s : State} (h : Keeps r s) (o : Out) : Keeps r (emit s o) :=
  ⟨h.pending, h.chip, h.outs.trans (List.prefix_append _ _), h.draws, h.fuses, h.stores⟩

theorem gatedRead_keeps {s : State} (a : Nat) {k : State → Nat × State} (h : Keeps r s) (h_k : ∀ t, Keeps r t → Keeps r (k t).2) :
    Keeps r (gatedRead s a k) := by
  unfold gatedRead
  repeat' first
    | with_reducible assumption
    | with_reducible rfl
    | intro _
    | extract_lets
    | (with_reducible first | apply h_k | apply emit_keeps | apply setB_keeps | apply Keeps.ite | apply Keeps.foldl)
    | split
    | fail_if_no_progress (with_reducible (apply Keeps.upd <;> try rfl))
    | dsimp +zetaDelta only

theorem setSession_keeps {s : State} (i : Nat) (e : Session) (h : Keeps r s) :
    Keeps r (setSession s i e) := by
  unfold setSession
  repeat' first
    | with_reducible assumption
    | with_reducible rfl
    | intro _
    | (with_reducible first | apply Keeps.ite | apply Keeps.foldl)
    | split
    | fail_if_no_progress (with_reducible (apply Keeps.upd <;> try rfl))

theorem bumpLive_keeps {s : State} (i : Nat) (gen : Nat) (g : Nat → Nat) (h : Keeps r s) :
    Keeps r (bumpLive s i gen g) := by
  unfold bumpLive
  repeat' first
    | with_reducible assumption
    | with_reducible rfl
    | intro _
    | (with_reducible first | apply Keeps.ite | apply Keeps.foldl)
    | split
    | fail_if_no_progress (with_reducible (apply Keeps.upd <;> try rfl))

theorem bumpStarted_keeps {s : State} (i : Nat) (gen : Nat) (g : Nat → Nat) (h : Keeps r s) :
    Keeps r (bumpStarted s i gen g) := by
  unfold bumpStarted
  repeat' first
    | with_reducible assumption
    | with_reducible rfl
    | intro _
    | (with_reducible first | apply Keeps.ite | apply Keeps.foldl)
    | split
    | fail_if_no_progress (with_reducible (apply Keeps.upd <;> try rfl))

theorem signal_keeps {s : State} (v : Nat) (h : Keeps r s) :
    Keeps r (signal s v) := by
  unfold signal
  repeat' first
    | with_reducible assumption
    | with_reducible rfl
    | intro _
    | (with_reducible first | apply emit_keeps | apply Keeps.ite | apply Keeps.foldl)
    | split
    | fail_if_no_progress (with_reducible (apply Keeps.upd <;> try rfl))

theorem signalSession_keeps {s : State} (i : Nat) (h : Keeps r s) :
    Keeps r (signalSession s i) := by
  unfold signalSession
  repeat' first
    | with_reducible assumption
    | with_reducible rfl
    | intro _
    | (with_reducible first | apply setSession_keeps | apply signal_keeps | apply Keeps.ite | apply Keeps.foldl)
    | split
    | fail_if_no_progress (with_reducible (apply Keeps.upd <;> try rfl))

theorem postCompletion_keeps {s : State} (i : Nat) (irq : Bool) (tag : Nat) (status : Nat) (result : Nat) (h : Keeps r s) :
    Keeps r (postCompletion s i irq tag status result) := by
  unfold postCompletion
  repeat' first
    | with_reducible assumption
    | with_reducible rfl
    | intro _
    | (with_reducible first | apply emit_keeps | apply setSession_keeps | apply signalSession_keeps | apply Keeps.ite | apply Keeps.foldl)
    | split
    | fail_if_no_progress (with_reducible (apply Keeps.upd <;> try rfl))

theorem complete_keeps {s : State} (d : Desc) (status : Nat) (result : Nat) (h : Keeps r s) :
    Keeps r (complete s d status result) := by
  unfold complete
  repeat' first
    | with_reducible assumption
    | with_reducible rfl
    | intro _
    | (with_reducible first | apply bumpStarted_keeps | apply bumpLive_keeps | apply bumpF_keeps | apply setSession_keeps | apply postCompletion_keeps | apply Keeps.ite | apply Keeps.foldl)
    | split
    | fail_if_no_progress (with_reducible (apply Keeps.upd <;> try rfl))

theorem hostWrite_keeps {s : State} (ok : Bool) (a : Nat) (bs : List Byte) (h : Keeps r s) :
    Keeps r (hostWrite s ok a bs) := by
  unfold hostWrite
  repeat' first
    | with_reducible assumption
    | with_reducible rfl
    | intro _
    | (with_reducible first | apply emit_keeps | apply Keeps.ite | apply Keeps.foldl)
    | split
    | fail_if_no_progress (with_reducible (apply Keeps.upd <;> try rfl))

theorem completeAll_keeps {s : State} (rs : List DesignReq) (status : Nat) (result : Nat) (h : Keeps r s) :
    Keeps r (completeAll s rs status result) := by
  unfold completeAll
  repeat' first
    | with_reducible assumption
    | with_reducible rfl
    | intro _
    | (with_reducible first | apply complete_keeps | apply Keeps.ite | apply Keeps.foldl)
    | split
    | fail_if_no_progress (with_reducible (apply Keeps.upd <;> try rfl))

theorem completeDescs_keeps {s : State} (ds : List Desc) (status : Nat) (h : Keeps r s) :
    Keeps r (completeDescs s ds status) := by
  unfold completeDescs
  repeat' first
    | with_reducible assumption
    | with_reducible rfl
    | intro _
    | (with_reducible first | apply complete_keeps | apply Keeps.ite | apply Keeps.foldl)
    | split
    | fail_if_no_progress (with_reducible (apply Keeps.upd <;> try rfl))

theorem refuseGroup_keeps {s : State} (d : Desc) (status : Nat) (h : Keeps r s) :
    Keeps r (refuseGroup s d status) := by
  unfold refuseGroup
  repeat' first
    | with_reducible assumption
    | with_reducible rfl
    | intro _
    | (with_reducible first | apply completeAll_keeps | apply complete_keeps | apply setSession_keeps | apply Keeps.ite | apply Keeps.foldl)
    | split
    | fail_if_no_progress (with_reducible (apply Keeps.upd <;> try rfl))

theorem ungrouped_keeps (d : Desc) {k : State → State} {s : State} (h_k : ∀ t, Keeps r t → Keeps r (k t)) (h : Keeps r s) :
    Keeps r (ungrouped d k s) := by
  unfold ungrouped
  repeat' first
    | with_reducible assumption
    | with_reducible rfl
    | intro _
    | (with_reducible first | apply h_k | apply refuseGroup_keeps | apply Keeps.ite | apply Keeps.foldl)
    | split
    | fail_if_no_progress (with_reducible (apply Keeps.upd <;> try rfl))

theorem ungroupedRun_keeps (d : Desc) {k : State → State} {s : State} (h_k : ∀ t, Keeps r t → Keeps r (k t)) (h : Keeps r s) :
    Keeps r (ungroupedRun d k s) := by
  unfold ungroupedRun
  repeat' first
    | with_reducible assumption
    | with_reducible rfl
    | intro _
    | (with_reducible first | apply h_k | apply refuseGroup_keeps | apply Keeps.ite | apply Keeps.foldl)
    | split
    | fail_if_no_progress (with_reducible (apply Keeps.upd <;> try rfl))

theorem startFetched_keeps (d : Desc) (f : Fetched) {k : State → State} {s : State} (h_k : ∀ t, Keeps r t → Keeps r (k t)) (h : Keeps r s) :
    Keeps r (startFetched d f k s) := by
  unfold startFetched
  repeat' first
    | with_reducible assumption
    | with_reducible rfl
    | intro _
    | (with_reducible first | apply h_k | apply bumpF_keeps | apply bumpLive_keeps | apply bumpStarted_keeps | apply Keeps.ite | apply Keeps.foldl)
    | split
    | fail_if_no_progress (with_reducible (apply Keeps.upd <;> try rfl))

theorem startDesc_keeps (d : Desc) (i : Instr) {k : State → State} {s : State} (h_k : ∀ t, Keeps r t → Keeps r (k t)) (h : Keeps r s) :
    Keeps r (startDesc d i k s) := by
  unfold startDesc
  repeat' first
    | with_reducible assumption
    | with_reducible rfl
    | intro _
    | (with_reducible first | apply h_k | apply startFetched_keeps | apply Keeps.ite | apply Keeps.foldl)
    | split
    | fail_if_no_progress (with_reducible (apply Keeps.upd <;> try rfl))

theorem badOpcode_keeps (d : Desc) {s : State} (h : Keeps r s) :
    Keeps r (badOpcode d s) := by
  unfold badOpcode
  repeat' first
    | with_reducible assumption
    | with_reducible rfl
    | intro _
    | (with_reducible first | apply startFetched_keeps | apply ungrouped_keeps | apply complete_keeps | apply Keeps.ite | apply Keeps.foldl)
    | split
    | fail_if_no_progress (with_reducible (apply Keeps.upd <;> try rfl))

end Sys2Proof.Machine
end

