-- ==== Sys2Proof/Laws/KeepsWindows.lean ====
section
/-! SUPPORT. What the operations of Machine/Windows.lean keep. -/

namespace Sys2Proof.Machine

variable {r : State}

set_option linter.unusedTactic false
set_option linter.unreachableTactic false

theorem onHbm_keeps {s : State} (g : HbmSt → HbmSt) (h : Keeps r s) :
    Keeps r (onHbm s g) := by
  unfold onHbm
  repeat' first
    | with_reducible assumption
    | with_reducible rfl
    | intro _
    | (with_reducible first | apply Keeps.ite | apply Keeps.foldl)
    | split
    | fail_if_no_progress (with_reducible (apply Keeps.upd <;> try rfl))

theorem showDegraded_keeps {s : State} (h : Keeps r s) :
    Keeps r (showDegraded s) := by
  unfold showDegraded
  repeat' first
    | with_reducible assumption
    | with_reducible rfl
    | intro _
    | (with_reducible first | apply setB_keeps | apply Keeps.ite | apply Keeps.foldl)
    | split
    | fail_if_no_progress (with_reducible (apply Keeps.upd <;> try rfl))

theorem noteUe_keeps {s : State} (pc : Nat) (a : Nat) (scrub : Bool) (recovered : Bool) (h : Keeps r s) :
    Keeps r (noteUe s pc a scrub recovered) := by
  unfold noteUe
  repeat' first
    | with_reducible assumption
    | with_reducible rfl
    | intro _
    | (with_reducible first | apply setB_keeps | apply setF_keeps | apply bumpF_keeps | apply onHbm_keeps | apply showDegraded_keeps | apply setFBit_keeps | apply Keeps.ite | apply Keeps.foldl)
    | split
    | fail_if_no_progress (with_reducible (apply Keeps.upd <;> try rfl))

theorem upsetHbm_keeps {s : State} (pc : Nat) (a : Nat) (e : Ecc) (h : Keeps r s) :
    Keeps r (upsetHbm s pc a e) := by
  unfold upsetHbm
  repeat' first
    | with_reducible assumption
    | with_reducible rfl
    | intro _
    | (with_reducible first | apply onHbm_keeps | apply Keeps.ite | apply Keeps.foldl)
    | split
    | fail_if_no_progress (with_reducible (apply Keeps.upd <;> try rfl))

theorem serveWord_keeps {s : State} (w : Nat) (x : Nat) (h : Keeps r s) :
    Keeps r (serveWord s w x).1 := by
  unfold serveWord
  repeat' first
    | with_reducible assumption
    | with_reducible rfl
    | intro _
    | (with_reducible first | apply bumpF_keeps | apply noteUe_keeps | apply onHbm_keeps | apply Keeps.ite | apply Keeps.foldl)
    | split
    | fail_if_no_progress (with_reducible (apply Keeps.upd <;> try rfl))

theorem winServe_keeps {s : State} (w off n : Nat) (h : Keeps r s) : Keeps r (winServe s w off n).1 := by
  unfold winServe
  exact Keeps.foldl_fst (fun p a hp => serveWord_keeps _ _ hp) h

theorem parityCheck_keeps {s : State} (pc : Nat) (fails : Bool) (h : Keeps r s) :
    Keeps r (parityCheck s pc fails) := by
  unfold parityCheck
  repeat' first
    | with_reducible assumption
    | with_reducible rfl
    | intro _
    | (with_reducible first | apply showDegraded_keeps | apply setFBit_keeps | apply onHbm_keeps | apply Keeps.ite | apply Keeps.foldl)
    | split
    | fail_if_no_progress (with_reducible (apply Keeps.upd <;> try rfl))

end Sys2Proof.Machine
end

