-- ==== Sys2Proof/Laws/KeepsChannels.lean ====
section
/-! SUPPORT. What the operations of Machine/Channels.lean keep. -/

namespace Sys2Proof.Machine

variable {r : State}

set_option linter.unusedTactic false
set_option linter.unreachableTactic false

theorem onChn_keeps {s : State} (g : Chn → Chn) (h : Keeps r s) :
    Keeps r (onChn s g) := by
  unfold onChn
  repeat' first
    | with_reducible assumption
    | with_reducible rfl
    | intro _
    | (with_reducible first | apply Keeps.ite | apply Keeps.foldl)
    | split
    | fail_if_no_progress (with_reducible (apply Keeps.upd <;> try rfl))

theorem setCtx_keeps {s : State} (c : Nat) (x : ChanCtx) (h : Keeps r s) :
    Keeps r (setCtx s c x) := by
  unfold setCtx
  repeat' first
    | with_reducible assumption
    | with_reducible rfl
    | intro _
    | (with_reducible first | apply onChn_keeps | apply Keeps.ite | apply Keeps.foldl)
    | split
    | fail_if_no_progress (with_reducible (apply Keeps.upd <;> try rfl))

theorem fifoServe_keeps {s : State} (x : ChanCtx) (b : Nat) (n : Nat) (h : Keeps r s) :
    Keeps r (fifoServe s x b n) := by
  unfold fifoServe
  repeat' first
    | with_reducible assumption
    | with_reducible rfl
    | intro _
    | (with_reducible first | apply winServe_keeps | apply Keeps.ite | apply Keeps.foldl)
    | split
    | fail_if_no_progress (with_reducible (apply Keeps.upd <;> try rfl))

theorem fifoWrite_keeps {s : State} (x : ChanCtx) (b : Nat) (y0 : List Byte) (h : Keeps r s) :
    Keeps r (fifoWrite s x b y0) := by
  induction y0 generalizing s x b with
  | nil =>
    unfold fifoWrite
    repeat' first
      | with_reducible assumption
      | with_reducible rfl
      | intro _
      | (with_reducible first | apply winWrite_keeps | apply Keeps.ite | apply Keeps.foldl)
      | split
      | fail_if_no_progress (with_reducible (apply Keeps.upd <;> try rfl))
  | cons _ _ ih =>
    unfold fifoWrite
    repeat' first
      | with_reducible assumption
      | with_reducible rfl
      | intro _
      | (with_reducible first | apply ih | apply winWrite_keeps | apply Keeps.ite | apply Keeps.foldl)
      | split
      | fail_if_no_progress (with_reducible (apply Keeps.upd <;> try rfl))

theorem discardFree_keeps {s : State} (c : Nat) (h : Keeps r s) :
    Keeps r (discardFree s c) := by
  unfold discardFree
  repeat' first
    | with_reducible assumption
    | with_reducible rfl
    | intro _
    | (with_reducible first | apply fifoWrite_keeps | apply onChn_keeps | apply setCtx_keeps | apply Keeps.ite | apply Keeps.foldl)
    | split
    | fail_if_no_progress (with_reducible (apply Keeps.upd <;> try rfl))

theorem chooseIn_keeps {s : State} (c : Nat) (p : PortDef) (h : Keeps r s) :
    Keeps r (chooseIn s c p) := by
  unfold chooseIn
  repeat' first
    | with_reducible assumption
    | with_reducible rfl
    | intro _
    | (with_reducible first | apply onChn_keeps | apply Keeps.ite | apply Keeps.foldl)
    | split
    | fail_if_no_progress (with_reducible (apply Keeps.upd <;> try rfl))

theorem decideIn_keeps {s : State} (c : Nat) (h : Keeps r s) :
    Keeps r (decideIn s c) := by
  unfold decideIn
  repeat' first
    | with_reducible assumption
    | with_reducible rfl
    | intro _
    | (with_reducible first | apply onChn_keeps | apply chooseIn_keeps | apply Keeps.ite | apply Keeps.foldl)
    | split
    | fail_if_no_progress (with_reducible (apply Keeps.upd <;> try rfl))

theorem sendPort_keeps {s : State} (c : Nat) (p : PortDef) (h : Keeps r s) :
    Keeps r (sendPort s c p) := by
  unfold sendPort
  repeat' first
    | with_reducible assumption
    | with_reducible rfl
    | intro _
    | (with_reducible first | apply onChn_keeps | apply fifoWrite_keeps | apply setCtx_keeps | apply Keeps.ite | apply Keeps.foldl)
    | split
    | fail_if_no_progress (with_reducible (apply Keeps.upd <;> try rfl))

theorem outPortsB2_keeps {s : State} (d : Nat) (c : Nat) (h : Keeps r s) :
    Keeps r (outPortsB2 s d c) := by
  unfold outPortsB2
  repeat' first
    | with_reducible assumption
    | with_reducible rfl
    | intro _
    | (with_reducible first | apply sendPort_keeps | apply Keeps.ite | apply Keeps.foldl)
    | split
    | fail_if_no_progress (with_reducible (apply Keeps.upd <;> try rfl))

theorem takePort_keeps {s : State} (c : Nat) (p : PortDef) (h : Keeps r s) :
    Keeps r (takePort s c p) := by
  unfold takePort
  repeat' first
    | with_reducible assumption
    | with_reducible rfl
    | intro _
    | (with_reducible first | apply onChn_keeps | apply fifoServe_keeps | apply Keeps.ite | apply Keeps.foldl)
    | split
    | fail_if_no_progress (with_reducible (apply Keeps.upd <;> try rfl))

theorem inPortsB4_keeps {s : State} (d : Nat) (c : Nat) (h : Keeps r s) :
    Keeps r (inPortsB4 s d c) := by
  unfold inPortsB4
  repeat' first
    | with_reducible assumption
    | with_reducible rfl
    | intro _
    | (with_reducible first | apply takePort_keeps | apply Keeps.ite | apply Keeps.foldl)
    | split
    | fail_if_no_progress (with_reducible (apply Keeps.upd <;> try rfl))

theorem presentB6_keeps {s : State} (d : Fin 4) (c : Nat) (h : Keeps r s) :
    Keeps r (presentB6 s d c) := by
  unfold presentB6
  repeat' first
    | with_reducible assumption
    | with_reducible rfl
    | intro _
    | (with_reducible first | apply onDie_keeps | apply Keeps.ite | apply Keeps.foldl)
    | split
    | fail_if_no_progress (with_reducible (apply Keeps.upd <;> try rfl))

theorem onItem_keeps {s : State} (i : WorkItem) (g : WorkItem → WorkItem) (h : Keeps r s) :
    Keeps r (onItem s i g) := by
  unfold onItem
  repeat' first
    | with_reducible assumption
    | with_reducible rfl
    | intro _
    | (with_reducible first | apply onChn_keeps | apply Keeps.ite | apply Keeps.foldl)
    | split
    | fail_if_no_progress (with_reducible (apply Keeps.upd <;> try rfl))

theorem refreshReady_keeps {s : State} (c : Nat) (front : Bool) (h : Keeps r s) :
    Keeps r (refreshReady s c front) := by
  unfold refreshReady
  repeat' first
    | with_reducible assumption
    | with_reducible rfl
    | intro _
    | (with_reducible first | apply onChn_keeps | apply setF_keeps | apply Keeps.ite | apply Keeps.foldl)
    | split
    | fail_if_no_progress (with_reducible (apply Keeps.upd <;> try rfl))

theorem makeItem_keeps {s : State} (c : Nat) (i : WorkItem) (h : Keeps r s) :
    Keeps r (makeItem s c i) := by
  unfold makeItem
  repeat' first
    | with_reducible assumption
    | with_reducible rfl
    | intro _
    | (with_reducible first | apply onChn_keeps | apply refreshReady_keeps | apply setCtx_keeps | apply Keeps.ite | apply Keeps.foldl)
    | split
    | fail_if_no_progress (with_reducible (apply Keeps.upd <;> try rfl))

theorem finishClose_keeps {s : State} (c : Nat) (h : Keeps r s) :
    Keeps r (finishClose s c) := by
  unfold finishClose
  repeat' first
    | with_reducible assumption
    | with_reducible rfl
    | intro _
    | (with_reducible first | apply setCtx_keeps | apply onChn_keeps | apply setF_keeps | apply complete_keeps | apply Keeps.ite | apply Keeps.foldl)
    | split
    | fail_if_no_progress (with_reducible (apply Keeps.upd <;> try rfl))

theorem releaseItem_keeps {s : State} (i : WorkItem) (r_ : DoneRecord) (h : Keeps r s) :
    Keeps r (releaseItem s i r_) := by
  unfold releaseItem
  repeat' first
    | with_reducible assumption
    | with_reducible rfl
    | intro _
    | (with_reducible first | apply onChn_keeps | apply bumpF_keeps | apply setCtx_keeps | apply discardFree_keeps | apply complete_keeps | apply Keeps.ite | apply Keeps.foldl)
    | split
    | fail_if_no_progress (with_reducible (apply Keeps.upd <;> try rfl))

theorem releaseDone_keeps {s : State} (c : Nat) (y0 : Nat) (h : Keeps r s) :
    Keeps r (releaseDone s c y0) := by
  induction y0 generalizing s c with
  | zero =>
    unfold releaseDone
    repeat' first
      | with_reducible assumption
      | with_reducible rfl
      | intro _
      | (with_reducible first | apply releaseItem_keeps | apply Keeps.ite | apply Keeps.foldl)
      | split
      | fail_if_no_progress (with_reducible (apply Keeps.upd <;> try rfl))
  | succ _ ih =>
    unfold releaseDone
    repeat' first
      | with_reducible assumption
      | with_reducible rfl
      | intro _
      | (with_reducible first | apply ih | apply releaseItem_keeps | apply Keeps.ite | apply Keeps.foldl)
      | split
      | fail_if_no_progress (with_reducible (apply Keeps.upd <;> try rfl))

theorem dropStale_keeps {s : State} (c : Nat) (h : Keeps r s) :
    Keeps r (dropStale s c) := by
  unfold dropStale
  repeat' first
    | with_reducible assumption
    | with_reducible rfl
    | intro _
    | (with_reducible first | apply releaseItem_keeps | apply Keeps.ite | apply Keeps.foldl)
    | split
    | fail_if_no_progress (with_reducible (apply Keeps.upd <;> try rfl))

theorem settleChan_keeps {s : State} (c : Nat) (h : Keeps r s) :
    Keeps r (settleChan s c) := by
  unfold settleChan
  repeat' first
    | with_reducible assumption
    | with_reducible rfl
    | intro _
    | (with_reducible first | apply finishClose_keeps | apply refreshReady_keeps | apply releaseDone_keeps | apply dropStale_keeps | apply Keeps.ite | apply Keeps.foldl)
    | split
    | fail_if_no_progress (with_reducible (apply Keeps.upd <;> try rfl))

theorem fillSlot_keeps {s : State} (e : Nat) (k : Nat) (i : WorkItem) (h : Keeps r s) :
    Keeps r (fillSlot s e k i) := by
  unfold fillSlot
  repeat' first
    | with_reducible assumption
    | with_reducible rfl
    | intro _
    | (with_reducible first | apply onChn_keeps | apply Keeps.ite | apply Keeps.foldl)
    | split
    | fail_if_no_progress (with_reducible (apply Keeps.upd <;> try rfl))

theorem dispatchTo_keeps {s : State} (e : Nat) (k : Nat) (h : Keeps r s) :
    Keeps r (dispatchTo s e k) := by
  unfold dispatchTo
  repeat' first
    | with_reducible assumption
    | with_reducible rfl
    | intro _
    | (with_reducible first | apply onItem_keeps | apply fillSlot_keeps | apply setFBit_keeps | apply emit_keeps | apply refreshReady_keeps | apply Keeps.ite | apply Keeps.foldl)
    | split
    | fail_if_no_progress (with_reducible (apply Keeps.upd <;> try rfl))

theorem serveEngines_keeps {s : State} (h : Keeps r s) :
    Keeps r (serveEngines s) := by
  unfold serveEngines
  repeat' first
    | with_reducible assumption
    | with_reducible rfl
    | intro _
    | (with_reducible first | apply dispatchTo_keeps | apply Keeps.ite | apply Keeps.foldl)
    | split
    | fail_if_no_progress (with_reducible (apply Keeps.upd <;> try rfl))

theorem completeSent_keeps {s : State} (k : Nat) (gen : Nat) (b : Nat) (c : Nat) (h : Keeps r s) :
    Keeps r (completeSent s k gen b c) := by
  unfold completeSent
  repeat' first
    | with_reducible assumption
    | with_reducible rfl
    | intro _
    | (with_reducible first | apply onChn_keeps | apply complete_keeps | apply Keeps.ite | apply Keeps.foldl)
    | split
    | fail_if_no_progress (with_reducible (apply Keeps.upd <;> try rfl))

theorem commitRes_keeps {s : State} (r_ : PortRes) (h : Keeps r s) :
    Keeps r (commitRes s r_) := by
  unfold commitRes
  repeat' first
    | with_reducible assumption
    | with_reducible rfl
    | intro _
    | (with_reducible first | apply bumpF_keeps | apply setB_keeps | apply setCtx_keeps | apply onChn_keeps | apply makeItem_keeps | apply completeSent_keeps | apply Keeps.ite | apply Keeps.foldl)
    | split
    | fail_if_no_progress (with_reducible (apply Keeps.upd <;> try rfl))

theorem chnCommit_keeps {s : State} (c : Nat) (h : Keeps r s) :
    Keeps r (chnCommit s c) := by
  unfold chnCommit
  repeat' first
    | with_reducible assumption
    | with_reducible rfl
    | intro _
    | (with_reducible first | apply onChn_keeps | apply commitRes_keeps | apply serveEngines_keeps | apply settleChan_keeps | apply Keeps.ite | apply Keeps.foldl)
    | split
    | fail_if_no_progress (with_reducible (apply Keeps.upd <;> try rfl))

theorem closeSent_keeps {s : State} (h : Keeps r s) :
    Keeps r (closeSent s) := by
  unfold closeSent
  repeat' first
    | with_reducible assumption
    | with_reducible rfl
    | intro _
    | (with_reducible first | apply onChn_keeps | apply complete_keeps | apply finishClose_keeps | apply Keeps.ite | apply Keeps.foldl)
    | split
    | fail_if_no_progress (with_reducible (apply Keeps.upd <;> try rfl))

theorem chnAbandon_keeps {s : State} (b : Nat) (replayed : Bool) (h : Keeps r s) :
    Keeps r (chnAbandon s b replayed) := by
  unfold chnAbandon
  repeat' first
    | with_reducible assumption
    | with_reducible rfl
    | intro _
    | (with_reducible first | apply onChn_keeps | apply setCtx_keeps | apply closeSent_keeps | apply finishClose_keeps | apply Keeps.ite | apply Keeps.foldl)
    | split
    | fail_if_no_progress (with_reducible (apply Keeps.upd <;> try rfl))

end Sys2Proof.Machine
end

