-- ==== Sys2Proof/Laws/KeepsChannelCommands.lean ====
section
/-! SUPPORT. What the operations of Machine/ChannelCommands.lean keep. -/

namespace Sys2Proof.Machine

variable {r : State}

set_option linter.unusedTactic false
set_option linter.unreachableTactic false

theorem chanDesc_keeps (d : Desc) (i : Instr) (r_ : ChanRef) (op : ChanOp) {k : State → State} {s : State} (h_k : ∀ t, Keeps r t → Keeps r (k t)) (h : Keeps r s) :
    Keeps r (chanDesc d i r_ op k s) := by
  unfold chanDesc
  repeat' first
    | with_reducible assumption
    | with_reducible rfl
    | intro _
    | (with_reducible first | apply h_k | apply startDesc_keeps | apply ungrouped_keeps | apply complete_keeps | apply bumpF_keeps | apply Keeps.ite | apply Keeps.foldl)
    | split
    | fail_if_no_progress (with_reducible (apply Keeps.upd <;> try rfl))

theorem execChOpen_keeps (d : Desc) (r_ : ChanRef) (kind : Byte) (priority : Byte) (port : BitVec 16) (timeoutUs : Word) (fifoOffset : DWord) (fifoWindow : Byte) (sizeLog2 : Byte) {s : State} (h : Keeps r s) :
    OutKeeps r (execChOpen d r_ kind priority port timeoutUs fifoOffset fifoWindow sizeLog2 s) := by
  unfold execChOpen
  repeat' first
    | with_reducible assumption
    | with_reducible rfl
    | intro _
    | (with_reducible first | apply startDesc_keeps | apply ungrouped_keeps | apply complete_keeps | apply setCtx_keeps | apply wrapF_keeps | apply OutKeeps.next | apply Keeps.ite | apply Keeps.foldl)
    | split
    | fail_if_no_progress (with_reducible (apply Keeps.upd <;> try rfl))

theorem cancelItem_keeps (status : Nat) {s : State} (i : WorkItem) (h : Keeps r s) :
    Keeps r (cancelItem status s i) := by
  unfold cancelItem
  repeat' first
    | with_reducible assumption
    | with_reducible rfl
    | intro _
    | (with_reducible first | apply complete_keeps | apply onItem_keeps | apply Keeps.ite | apply Keeps.foldl)
    | split
    | fail_if_no_progress (with_reducible (apply Keeps.upd <;> try rfl))

theorem endSent_keeps {s : State} (c : Nat) (st : Nat) (h : Keeps r s) :
    Keeps r (endSent s c st) := by
  unfold endSent
  repeat' first
    | with_reducible assumption
    | with_reducible rfl
    | intro _
    | (with_reducible first | apply onChn_keeps | apply complete_keeps | apply Keeps.ite | apply Keeps.foldl)
    | split
    | fail_if_no_progress (with_reducible (apply Keeps.upd <;> try rfl))

theorem closeTaken_keeps {s : State} (c : Nat) (h : Keeps r s) :
    Keeps r (closeTaken s c) := by
  unfold closeTaken
  repeat' first
    | with_reducible assumption
    | with_reducible rfl
    | intro _
    | (with_reducible first | apply onChn_keeps | apply completeSent_keeps | apply Keeps.ite | apply Keeps.foldl)
    | split
    | fail_if_no_progress (with_reducible (apply Keeps.upd <;> try rfl))

theorem closeRest_keeps {s : State} (h : Keeps r s) :
    Keeps r (closeRest s) := by
  unfold closeRest
  repeat' first
    | with_reducible assumption
    | with_reducible rfl
    | intro _
    | (with_reducible first | apply finishClose_keeps | apply closeTaken_keeps | apply Keeps.ite | apply Keeps.foldl)
    | split
    | fail_if_no_progress (with_reducible (apply Keeps.upd <;> try rfl))

theorem closeChan_keeps {s : State} (c : Nat) (h : Keeps r s) :
    Keeps r (closeChan s c) := by
  unfold closeChan
  repeat' first
    | with_reducible assumption
    | with_reducible rfl
    | intro _
    | (with_reducible first | apply endSent_keeps | apply setCtx_keeps | apply discardFree_keeps | apply cancelItem_keeps | apply settleChan_keeps | apply closeTaken_keeps | apply Keeps.ite | apply Keeps.foldl)
    | split
    | fail_if_no_progress (with_reducible (apply Keeps.upd <;> try rfl))

theorem execChClose_keeps (d : Desc) (r_ : ChanRef) {s : State} (h : Keeps r s) :
    OutKeeps r (execChClose d r_ s) := by
  unfold execChClose
  repeat' first
    | with_reducible assumption
    | with_reducible rfl
    | intro _
    | (with_reducible first | apply chanDesc_keeps | apply onChn_keeps | apply closeChan_keeps | apply finishClose_keeps | apply OutKeeps.next | apply Keeps.ite | apply Keeps.foldl)
    | split
    | fail_if_no_progress (with_reducible (apply Keeps.upd <;> try rfl))

theorem closeChans_keeps {s : State} (which : ChanCtx → Bool) (h : Keeps r s) :
    Keeps r (closeChans s which) := by
  unfold closeChans
  repeat' first
    | with_reducible assumption
    | with_reducible rfl
    | intro _
    | (with_reducible first | apply closeChan_keeps | apply Keeps.ite | apply Keeps.foldl)
    | split
    | fail_if_no_progress (with_reducible (apply Keeps.upd <;> try rfl))

theorem reserveItem_keeps {s : State} (c : Nat) (n : Nat) (i : WorkItem) (h : Keeps r s) :
    Keeps r (reserveItem s c n i) := by
  unfold reserveItem
  repeat' first
    | with_reducible assumption
    | with_reducible rfl
    | intro _
    | (with_reducible first | apply serveEngines_keeps | apply makeItem_keeps | apply setCtx_keeps | apply Keeps.ite | apply Keeps.foldl)
    | split
    | fail_if_no_progress (with_reducible (apply Keeps.upd <;> try rfl))

theorem execMsgSend_keeps (d : Desc) (r_ : ChanRef) (addr : DWord) (bits : BitVec 16) (inlined : Bool) (payload : List Byte) {s : State} (h : Keeps r s) :
    OutKeeps r (execMsgSend d r_ addr bits inlined payload s) := by
  unfold execMsgSend
  repeat' first
    | with_reducible assumption
    | with_reducible rfl
    | intro _
    | (with_reducible first | apply chanDesc_keeps | apply complete_keeps | apply reserveItem_keeps | apply OutKeeps.next | apply Keeps.ite | apply Keeps.foldl)
    | split
    | fail_if_no_progress (with_reducible (apply Keeps.upd <;> try rfl))

theorem drainInto_keeps {s : State} (c : Nat) (i : WorkItem) (h : Keeps r s) :
    Keeps r (drainInto s c i) := by
  unfold drainInto
  repeat' first
    | with_reducible assumption
    | with_reducible rfl
    | intro _
    | (with_reducible first | apply fifoServe_keeps | apply emit_keeps | apply onItem_keeps | apply settleChan_keeps | apply Keeps.ite | apply Keeps.foldl)
    | split
    | fail_if_no_progress (with_reducible (apply Keeps.upd <;> try rfl))

theorem execMsgRecv_keeps (d : Desc) (r_ : ChanRef) (addr : DWord) (length : Word) {s : State} (h : Keeps r s) :
    OutKeeps r (execMsgRecv d r_ addr length s) := by
  unfold execMsgRecv
  repeat' first
    | with_reducible assumption
    | with_reducible rfl
    | intro _
    | (with_reducible first | apply chanDesc_keeps | apply complete_keeps | apply serveEngines_keeps | apply makeItem_keeps | apply OutKeeps.next | apply Keeps.ite | apply Keeps.foldl)
    | split
    | fail_if_no_progress (with_reducible (apply Keeps.upd <;> try rfl))

theorem execStreamPost_keeps (d : Desc) (r_ : ChanRef) (addr : DWord) (length : Word) {s : State} (h : Keeps r s) :
    OutKeeps r (execStreamPost d r_ addr length s) := by
  unfold execStreamPost
  repeat' first
    | with_reducible assumption
    | with_reducible rfl
    | intro _
    | extract_lets
    | (with_reducible first | apply chanDesc_keeps | apply complete_keeps | apply reserveItem_keeps | apply makeItem_keeps | apply onChn_keeps | apply drainInto_keeps | apply serveEngines_keeps | apply OutKeeps.next | apply Keeps.ite | apply Keeps.foldl)
    | split
    | fail_if_no_progress (with_reducible (apply Keeps.upd <;> try rfl))
    | dsimp +zetaDelta only

theorem flushIn_keeps {s : State} (c : Nat) (h : Keeps r s) :
    Keeps r (flushIn s c) := by
  unfold flushIn
  repeat' first
    | with_reducible assumption
    | with_reducible rfl
    | intro _
    | (with_reducible first | apply discardFree_keeps | apply endSent_keeps | apply setCtx_keeps | apply cancelItem_keeps | apply Keeps.ite | apply Keeps.foldl)
    | split
    | fail_if_no_progress (with_reducible (apply Keeps.upd <;> try rfl))

theorem flushOut_keeps {s : State} (c : Nat) (h : Keeps r s) :
    Keeps r (flushOut s c) := by
  unfold flushOut
  repeat' first
    | with_reducible assumption
    | with_reducible rfl
    | intro _
    | (with_reducible first | apply setCtx_keeps | apply onChn_keeps | apply complete_keeps | apply makeItem_keeps | apply Keeps.ite | apply Keeps.foldl)
    | split
    | fail_if_no_progress (with_reducible (apply Keeps.upd <;> try rfl))

theorem flushChan_keeps {s : State} (c : Nat) (h : Keeps r s) :
    Keeps r (flushChan s c) := by
  unfold flushChan
  repeat' first
    | with_reducible assumption
    | with_reducible rfl
    | intro _
    | extract_lets
    | (with_reducible first | apply flushIn_keeps | apply flushOut_keeps | apply Keeps.ite | apply Keeps.foldl)
    | split
    | fail_if_no_progress (with_reducible (apply Keeps.upd <;> try rfl))
    | dsimp +zetaDelta only

theorem clearOverrun_keeps {s : State} (c : Nat) (clear : Bool) (h : Keeps r s) :
    Keeps r (clearOverrun s c clear) := by
  unfold clearOverrun
  repeat' first
    | with_reducible assumption
    | with_reducible rfl
    | intro _
    | (with_reducible first | apply setCtx_keeps | apply Keeps.ite | apply Keeps.foldl)
    | split
    | fail_if_no_progress (with_reducible (apply Keeps.upd <;> try rfl))

theorem execFlush_keeps (d : Desc) (c : ChControl) {s : State} (h : Keeps r s) :
    OutKeeps r (execFlush d c s) := by
  unfold execFlush
  repeat' first
    | with_reducible assumption
    | with_reducible rfl
    | intro _
    | (with_reducible first | apply chanDesc_keeps | apply serveEngines_keeps | apply settleChan_keeps | apply complete_keeps | apply clearOverrun_keeps | apply flushChan_keeps | apply OutKeeps.next | apply Keeps.ite | apply Keeps.foldl)
    | split
    | fail_if_no_progress (with_reducible (apply Keeps.upd <;> try rfl))

theorem execClearOverrun_keeps (d : Desc) (c : ChControl) {s : State} (h : Keeps r s) :
    OutKeeps r (execClearOverrun d c s) := by
  unfold execClearOverrun
  repeat' first
    | with_reducible assumption
    | with_reducible rfl
    | intro _
    | (with_reducible first | apply chanDesc_keeps | apply complete_keeps | apply clearOverrun_keeps | apply OutKeeps.next | apply Keeps.ite | apply Keeps.foldl)
    | split
    | fail_if_no_progress (with_reducible (apply Keeps.upd <;> try rfl))

theorem execChQuery_keeps (d : Desc) (r_ : ChanRef) (addr : DWord) (hostOk : Bool) {s : State} (h : Keeps r s) :
    OutKeeps r (execChQuery d r_ addr hostOk s) := by
  unfold execChQuery
  repeat' first
    | with_reducible assumption
    | with_reducible rfl
    | intro _
    | (with_reducible first | apply chanDesc_keeps | apply complete_keeps | apply hostWrite_keeps | apply OutKeeps.next | apply Keeps.ite | apply Keeps.foldl)
    | split
    | fail_if_no_progress (with_reducible (apply Keeps.upd <;> try rfl))

theorem execDrainTimeout_keeps (chan : Fin 262144) {s : State} (h : Keeps r s) :
    OutKeeps r (execDrainTimeout chan s) := by
  unfold execDrainTimeout
  repeat' first
    | with_reducible assumption
    | with_reducible rfl
    | intro _
    | extract_lets
    | (with_reducible first | apply onChn_keeps | apply makeItem_keeps | apply serveEngines_keeps | apply drainInto_keeps | apply OutKeeps.next | apply Keeps.ite | apply Keeps.foldl)
    | split
    | fail_if_no_progress (with_reducible (apply Keeps.upd <;> try rfl))
    | dsimp +zetaDelta only

theorem execDispatchTake_keeps (e : Fin 32) {s : State} (h : Keeps r s) :
    OutKeeps r (execDispatchTake e s) := by
  unfold execDispatchTake
  repeat' first
    | with_reducible assumption
    | with_reducible rfl
    | intro _
    | (with_reducible first | apply setB_keeps | apply emit_keeps | apply setFBit_keeps | apply dispatchTo_keeps | apply OutKeeps.next | apply Keeps.ite | apply Keeps.foldl)
    | split
    | fail_if_no_progress (with_reducible (apply Keeps.upd <;> try rfl))

theorem writeSent_keeps {s : State} (i : WorkItem) (h : Keeps r s) :
    Keeps r (writeSent s i) := by
  unfold writeSent
  repeat' first
    | with_reducible assumption
    | with_reducible rfl
    | intro _
    | (with_reducible first | apply fifoWrite_keeps | apply Keeps.ite | apply Keeps.foldl)
    | split
    | fail_if_no_progress (with_reducible (apply Keeps.upd <;> try rfl))

theorem execDispatchDone_keeps (e : Fin 32) (slot : Fin 8) (record : DoneRecord) {s : State} (h : Keeps r s) :
    OutKeeps r (execDispatchDone e slot record s) := by
  unfold execDispatchDone
  repeat' first
    | with_reducible assumption
    | with_reducible rfl
    | intro _
    | (with_reducible first | apply onChn_keeps | apply onItem_keeps | apply writeSent_keeps | apply serveEngines_keeps | apply settleChan_keeps | apply OutKeeps.next | apply Keeps.ite | apply Keeps.foldl)
    | split
    | fail_if_no_progress (with_reducible (apply Keeps.upd <;> try rfl))

theorem copyMeets_keeps {s : State} (a : Nat) (n : Nat) (h : Keeps r s) :
    Keeps r (copyMeets s a n) := by
  unfold copyMeets
  repeat' first
    | with_reducible assumption
    | with_reducible rfl
    | intro _
    | (with_reducible first | apply winServe_keeps | apply Keeps.ite | apply Keeps.foldl)
    | split
    | fail_if_no_progress (with_reducible (apply Keeps.upd <;> try rfl))

theorem copyWrite_keeps {s : State} (e : Nat) (a : Nat) (bs : List Byte) (h : Keeps r s) :
    Keeps r (copyWrite s e a bs) := by
  unfold copyWrite
  repeat' first
    | with_reducible assumption
    | with_reducible rfl
    | intro _
    | (with_reducible first | apply emit_keeps | apply onChn_keeps | apply winWriteBytes_keeps | apply Keeps.ite | apply Keeps.foldl)
    | split
    | fail_if_no_progress (with_reducible (apply Keeps.upd <;> try rfl))

theorem noteMoved_keeps {s : State} (a : Nat) (n : Nat) (h : Keeps r s) :
    Keeps r (noteMoved s a n) := by
  unfold noteMoved
  repeat' first
    | with_reducible assumption
    | with_reducible rfl
    | intro _
    | (with_reducible first | apply onItem_keeps | apply Keeps.ite | apply Keeps.foldl)
    | split
    | fail_if_no_progress (with_reducible (apply Keeps.upd <;> try rfl))

theorem execCopyUnitGo_keeps (e : Fin 32) (src : DWord) (dst : DWord) (length : BitVec 24) (hostData : List Byte) (hostOk : Bool) {s : State} (h : Keeps r s) :
    OutKeeps r (execCopyUnitGo e src dst length hostData hostOk s) := by
  unfold execCopyUnitGo
  repeat' first
    | with_reducible assumption
    | with_reducible rfl
    | intro _
    | (with_reducible first | apply onChn_keeps | apply copyWrite_keeps | apply copyMeets_keeps | apply noteMoved_keeps | apply OutKeeps.next | apply Keeps.ite | apply Keeps.foldl)
    | split
    | fail_if_no_progress (with_reducible (apply Keeps.upd <;> try rfl))

theorem returnItems_keeps {s : State} (e : Nat) (h : Keeps r s) :
    Keeps r (returnItems s e) := by
  unfold returnItems
  repeat' first
    | with_reducible assumption
    | with_reducible rfl
    | intro _
    | (with_reducible first | apply onChn_keeps | apply finishClose_keeps | apply releaseDone_keeps | apply refreshReady_keeps | apply Keeps.ite | apply Keeps.foldl)
    | split
    | fail_if_no_progress (with_reducible (apply Keeps.upd <;> try rfl))

theorem execEngineTrap_keeps (e : Fin 32) {s : State} (h : Keeps r s) :
    OutKeeps r (execEngineTrap e s) := by
  unfold execEngineTrap
  repeat' first
    | with_reducible assumption
    | with_reducible rfl
    | intro _
    | (with_reducible first | apply setFBit_keeps | apply setB_keeps | apply serveEngines_keeps | apply returnItems_keeps | apply OutKeeps.next | apply Keeps.ite | apply Keeps.foldl)
    | split
    | fail_if_no_progress (with_reducible (apply Keeps.upd <;> try rfl))

theorem chnCtxIndex_keeps {s : State} (v : Nat) (h : Keeps r s) :
    Keeps r (chnCtxIndex s v) := by
  unfold chnCtxIndex
  repeat' first
    | with_reducible assumption
    | with_reducible rfl
    | intro _
    | (with_reducible first | apply plainWrite_keeps | apply setF_keeps | apply Keeps.ite | apply Keeps.foldl)
    | split
    | fail_if_no_progress (with_reducible (apply Keeps.upd <;> try rfl))

theorem contextEcc_keeps {s : State} (c : Nat) (ecc : Ecc) (h : Keeps r s) :
    Keeps r (contextEcc s c ecc) := by
  unfold contextEcc
  repeat' first
    | with_reducible assumption
    | with_reducible rfl
    | intro _
    | (with_reducible first | apply bumpF_keeps | apply closeChan_keeps | apply setB_keeps | apply Keeps.ite | apply Keeps.foldl)
    | split
    | fail_if_no_progress (with_reducible (apply Keeps.upd <;> try rfl))

theorem execChnCtxIndexWrite_keeps (value : Word) (ecc : Ecc) {s : State} (h : Keeps r s) :
    OutKeeps r (execChnCtxIndexWrite value ecc s) := by
  unfold execChnCtxIndexWrite
  repeat' first
    | with_reducible assumption
    | with_reducible rfl
    | intro _
    | (with_reducible first | apply contextEcc_keeps | apply chnCtxIndex_keeps | apply OutKeeps.next | apply Keeps.ite | apply Keeps.foldl)
    | split
    | fail_if_no_progress (with_reducible (apply Keeps.upd <;> try rfl))

theorem chnCtrl_keeps {s : State} (v : Nat) (h : Keeps r s) :
    Keeps r (chnCtrl s v) := by
  unfold chnCtrl
  repeat' first
    | with_reducible assumption
    | with_reducible rfl
    | intro _
    | (with_reducible first | apply plainWrite_keeps | apply setF_keeps | apply setB_keeps | apply onChn_keeps | apply returnItems_keeps | apply Keeps.ite | apply Keeps.foldl)
    | split
    | fail_if_no_progress (with_reducible (apply Keeps.upd <;> try rfl))

theorem execEnginesEn_keeps (value : Word) {s : State} (h : Keeps r s) :
    OutKeeps r (execEnginesEn value s) := by
  unfold execEnginesEn
  repeat' first
    | with_reducible assumption
    | with_reducible rfl
    | intro _
    | (with_reducible first | apply chnCtrl_keeps | apply OutKeeps.next | apply Keeps.ite | apply Keeps.foldl)
    | split
    | fail_if_no_progress (with_reducible (apply Keeps.upd <;> try rfl))

theorem hostResetItem_keeps {s : State} (i : WorkItem) (h : Keeps r s) :
    Keeps r (hostResetItem s i) := by
  unfold hostResetItem
  repeat' first
    | with_reducible assumption
    | with_reducible rfl
    | intro _
    | (with_reducible first | apply cancelItem_keeps | apply onItem_keeps | apply setCtx_keeps | apply Keeps.ite | apply Keeps.foldl)
    | split
    | fail_if_no_progress (with_reducible (apply Keeps.upd <;> try rfl))

theorem chnHostReset_keeps {s : State} (h : Keeps r s) :
    Keeps r (chnHostReset s) := by
  unfold chnHostReset
  repeat' first
    | with_reducible assumption
    | with_reducible rfl
    | intro _
    | (with_reducible first | apply hostResetItem_keeps | apply settleChan_keeps | apply Keeps.ite | apply Keeps.foldl)
    | split
    | fail_if_no_progress (with_reducible (apply Keeps.upd <;> try rfl))

end Sys2Proof.Machine
end

