-- ==== Sys2Proof/Laws/KeepsAssay.lean ====
section
/-! SUPPORT. What the operations of Machine/Assay.lean keep. -/

namespace Sys2Proof.Machine

variable {r : State}

set_option linter.unusedTactic false
set_option linter.unreachableTactic false

theorem onAsy_keeps {s : State} (g : Asy → Asy) (h : Keeps r s) :
    Keeps r (onAsy s g) := by
  unfold onAsy
  repeat' first
    | with_reducible assumption
    | with_reducible rfl
    | intro _
    | (with_reducible first | apply Keeps.ite | apply Keeps.foldl)
    | split
    | fail_if_no_progress (with_reducible (apply Keeps.upd <;> try rfl))

theorem bindPending_keeps {s : State} (c : Nat) (h : Keeps r s) :
    Keeps r (bindPending s c) := by
  unfold bindPending
  repeat' first
    | with_reducible assumption
    | with_reducible rfl
    | intro _
    | (with_reducible first | apply set64_keeps | apply onAsy_keeps | apply Keeps.ite | apply Keeps.foldl)
    | split
    | fail_if_no_progress (with_reducible (apply Keeps.upd <;> try rfl))

theorem evaluate_keeps {s : State} (p : Nat) (c : Nat) (h : Keeps r s) :
    Keeps r (evaluate s p c) := by
  unfold evaluate
  repeat' first
    | with_reducible assumption
    | with_reducible rfl
    | intro _
    | (with_reducible first | apply bindPending_keeps | apply onAsy_keeps | apply Keeps.ite | apply Keeps.foldl)
    | split
    | fail_if_no_progress (with_reducible (apply Keeps.upd <;> try rfl))

theorem sampleB5_keeps {s : State} (d : Fin 4) (c : Nat) (h : Keeps r s) :
    Keeps r (sampleB5 s d c) := by
  unfold sampleB5
  repeat' first
    | with_reducible assumption
    | with_reducible rfl
    | intro _
    | (with_reducible first | apply onAsy_keeps | apply evaluate_keeps | apply Keeps.ite | apply Keeps.foldl)
    | split
    | fail_if_no_progress (with_reducible (apply Keeps.upd <;> try rfl))

theorem evaluateAgain_keeps {s : State} (t : Nat) (h : Keeps r s) :
    Keeps r (evaluateAgain s t) := by
  unfold evaluateAgain
  repeat' first
    | with_reducible assumption
    | with_reducible rfl
    | intro _
    | (with_reducible first | apply onAsy_keeps | apply Keeps.ite | apply Keeps.foldl)
    | split
    | fail_if_no_progress (with_reducible (apply Keeps.upd <;> try rfl))

theorem writeSample_keeps {s : State} (e : AsyCycle) (h : Keeps r s) :
    Keeps r (writeSample s e) := by
  unfold writeSample
  repeat' first
    | with_reducible assumption
    | with_reducible rfl
    | intro _
    | (with_reducible first | apply onAsy_keeps | apply set64_keeps | apply setB_keeps | apply Keeps.ite | apply Keeps.foldl)
    | split
    | fail_if_no_progress (with_reducible (apply Keeps.upd <;> try rfl))

theorem drainSample_keeps {s : State} (h : Keeps r s) :
    Keeps r (drainSample s) := by
  unfold drainSample
  repeat' first
    | with_reducible assumption
    | with_reducible rfl
    | intro _
    | (with_reducible first | apply winWriteBytes_keeps | apply onAsy_keeps | apply Keeps.ite | apply Keeps.foldl)
    | split
    | fail_if_no_progress (with_reducible (apply Keeps.upd <;> try rfl))

theorem writeRecord_keeps {s : State} (bs : List Byte) (h : Keeps r s) :
    Keeps r (writeRecord s bs) := by
  unfold writeRecord
  repeat' first
    | with_reducible assumption
    | with_reducible rfl
    | intro _
    | (with_reducible first | apply setF_keeps | apply winWriteBytes_keeps | apply setB_keeps | apply bumpF_keeps | apply Keeps.ite | apply Keeps.foldl)
    | split
    | fail_if_no_progress (with_reducible (apply Keeps.upd <;> try rfl))

theorem pulseTrig_keeps {s : State} (c : Nat) (l : Nat) (h : Keeps r s) :
    Keeps r (pulseTrig s c l) := by
  unfold pulseTrig
  repeat' first
    | with_reducible assumption
    | with_reducible rfl
    | intro _
    | (with_reducible first | apply emit_keeps | apply onAsy_keeps | apply Keeps.ite | apply Keeps.foldl)
    | split
    | fail_if_no_progress (with_reducible (apply Keeps.upd <;> try rfl))

theorem acqDone_keeps {s : State} (h : Keeps r s) :
    Keeps r (acqDone s) := by
  unfold acqDone
  repeat' first
    | with_reducible assumption
    | with_reducible rfl
    | intro _
    | (with_reducible first | apply setB_keeps | apply onAsy_keeps | apply signal_keeps | apply Keeps.ite | apply Keeps.foldl)
    | split
    | fail_if_no_progress (with_reducible (apply Keeps.upd <;> try rfl))

theorem commitAsy_keeps {s : State} (e : AsyCycle) (h : Keeps r s) :
    Keeps r (commitAsy s e) := by
  unfold commitAsy
  repeat' first
    | with_reducible assumption
    | with_reducible rfl
    | intro _
    | (with_reducible first | apply onAsy_keeps | apply setF_keeps | apply writeSample_keeps | apply set64_keeps | apply setB_keeps | apply writeRecord_keeps | apply pulseTrig_keeps | apply acqDone_keeps | apply Keeps.ite | apply Keeps.foldl)
    | split
    | fail_if_no_progress (with_reducible (apply Keeps.upd <;> try rfl))

theorem asyCommit_keeps {s : State} (c : Nat) (h : Keeps r s) :
    Keeps r (asyCommit s c) := by
  unfold asyCommit
  repeat' first
    | with_reducible assumption
    | with_reducible rfl
    | intro _
    | (with_reducible first | apply commitAsy_keeps | apply Keeps.ite | apply Keeps.foldl)
    | split
    | fail_if_no_progress (with_reducible (apply Keeps.upd <;> try rfl))

theorem asyAbandon_keeps {s : State} (b : Nat) (h : Keeps r s) :
    Keeps r (asyAbandon s b) := by
  unfold asyAbandon
  repeat' first
    | with_reducible assumption
    | with_reducible rfl
    | intro _
    | (with_reducible first | apply onAsy_keeps | apply Keeps.ite | apply Keeps.foldl)
    | split
    | fail_if_no_progress (with_reducible (apply Keeps.upd <;> try rfl))

theorem asyDisarm_keeps {s : State} (h : Keeps r s) :
    Keeps r (asyDisarm s) := by
  unfold asyDisarm
  repeat' first
    | with_reducible assumption
    | with_reducible rfl
    | intro _
    | (with_reducible first | apply setB_keeps | apply onAsy_keeps | apply Keeps.ite | apply Keeps.foldl)
    | split
    | fail_if_no_progress (with_reducible (apply Keeps.upd <;> try rfl))

theorem asyArm_keeps {s : State} (h : Keeps r s) :
    Keeps r (asyArm s) := by
  unfold asyArm
  repeat' first
    | with_reducible assumption
    | with_reducible rfl
    | intro _
    | (with_reducible first | apply setB_keeps | apply asyDisarm_keeps | apply set64_keeps | apply onAsy_keeps | apply Keeps.ite | apply Keeps.foldl)
    | split
    | fail_if_no_progress (with_reducible (apply Keeps.upd <;> try rfl))

theorem asyCtrlWrite_keeps {s : State} (v : Nat) (h : Keeps r s) :
    Keeps r (asyCtrlWrite s v) := by
  unfold asyCtrlWrite
  repeat' first
    | with_reducible assumption
    | with_reducible rfl
    | intro _
    | (with_reducible first | apply plainWrite_keeps | apply asyDisarm_keeps | apply onAsy_keeps | apply asyArm_keeps | apply Keeps.ite | apply Keeps.foldl)
    | split
    | fail_if_no_progress (with_reducible (apply Keeps.upd <;> try rfl))

theorem execArm_keeps (value : Word) {s : State} (h : Keeps r s) :
    OutKeeps r (execArm value s) := by
  unfold execArm
  repeat' first
    | with_reducible assumption
    | with_reducible rfl
    | intro _
    | (with_reducible first | apply gatedWrite_keeps | apply asyCtrlWrite_keeps | apply OutKeeps.next | apply Keeps.ite | apply Keeps.foldl)
    | split
    | fail_if_no_progress (with_reducible (apply Keeps.upd <;> try rfl))

theorem execDisarm_keeps (value : Word) {s : State} (h : Keeps r s) :
    OutKeeps r (execDisarm value s) := by
  unfold execDisarm
  repeat' first
    | with_reducible assumption
    | with_reducible rfl
    | intro _
    | (with_reducible first | apply gatedWrite_keeps | apply asyCtrlWrite_keeps | apply OutKeeps.next | apply Keeps.ite | apply Keeps.foldl)
    | split
    | fail_if_no_progress (with_reducible (apply Keeps.upd <;> try rfl))

theorem execForceTrigger_keeps (value : Word) {s : State} (h : Keeps r s) :
    OutKeeps r (execForceTrigger value s) := by
  unfold execForceTrigger
  repeat' first
    | with_reducible assumption
    | with_reducible rfl
    | intro _
    | (with_reducible first | apply gatedWrite_keeps | apply asyCtrlWrite_keeps | apply OutKeeps.next | apply Keeps.ite | apply Keeps.foldl)
    | split
    | fail_if_no_progress (with_reducible (apply Keeps.upd <;> try rfl))

theorem trkWrite_keeps {s : State} (k : Nat) (v : Nat) (h : Keeps r s) :
    Keeps r (trkWrite s k v) := by
  unfold trkWrite
  repeat' first
    | with_reducible assumption
    | with_reducible rfl
    | intro _
    | (with_reducible first | apply writeRecord_keeps | apply onAsy_keeps | apply setB_keeps | apply plainWrite_keeps | apply evaluateAgain_keeps | apply Keeps.ite | apply Keeps.foldl)
    | split
    | fail_if_no_progress (with_reducible (apply Keeps.upd <;> try rfl))

theorem execTrackerEnable_keeps (k : Fin 32) (value : Word) {s : State} (h : Keeps r s) :
    OutKeeps r (execTrackerEnable k value s) := by
  unfold execTrackerEnable
  repeat' first
    | with_reducible assumption
    | with_reducible rfl
    | intro _
    | (with_reducible first | apply gatedWrite_keeps | apply trkWrite_keeps | apply OutKeeps.next | apply Keeps.ite | apply Keeps.foldl)
    | split
    | fail_if_no_progress (with_reducible (apply Keeps.upd <;> try rfl))

theorem redCtrlWrite_keeps {s : State} (v : Nat) (h : Keeps r s) :
    Keeps r (redCtrlWrite s v) := by
  unfold redCtrlWrite
  repeat' first
    | with_reducible assumption
    | with_reducible rfl
    | intro _
    | (with_reducible first | apply plainWrite_keeps | apply setF_keeps | apply Keeps.ite | apply Keeps.foldl)
    | split
    | fail_if_no_progress (with_reducible (apply Keeps.upd <;> try rfl))

theorem execRedClear_keeps (value : Word) {s : State} (h : Keeps r s) :
    OutKeeps r (execRedClear value s) := by
  unfold execRedClear
  repeat' first
    | with_reducible assumption
    | with_reducible rfl
    | intro _
    | (with_reducible first | apply gatedWrite_keeps | apply redCtrlWrite_keeps | apply OutKeeps.next | apply Keeps.ite | apply Keeps.foldl)
    | split
    | fail_if_no_progress (with_reducible (apply Keeps.upd <;> try rfl))

theorem patWrite_keeps {s : State} (v : Nat) (h : Keeps r s) :
    Keeps r (patWrite s v) := by
  unfold patWrite
  repeat' first
    | with_reducible assumption
    | with_reducible rfl
    | intro _
    | (with_reducible first | apply wrapF_keeps | apply setF_keeps | apply Keeps.ite | apply Keeps.foldl)
    | split
    | fail_if_no_progress (with_reducible (apply Keeps.upd <;> try rfl))

theorem patRead_keeps {s : State} (h : Keeps r s) :
    Keeps r (patRead s).2 := by
  unfold patRead
  repeat' first
    | with_reducible assumption
    | with_reducible rfl
    | intro _
    | (with_reducible first | apply wrapF_keeps | apply Keeps.ite | apply Keeps.foldl)
    | split
    | fail_if_no_progress (with_reducible (apply Keeps.upd <;> try rfl))

theorem execPatDataAccess_keeps (write : Option Word) {s : State} (h : Keeps r s) :
    OutKeeps r (execPatDataAccess write s) := by
  unfold execPatDataAccess
  repeat' first
    | with_reducible assumption
    | with_reducible rfl
    | intro _
    | (with_reducible first | apply gatedWrite_keeps | apply patWrite_keeps | apply gatedRead_keeps | apply patRead_keeps | apply OutKeeps.next | apply Keeps.ite | apply Keeps.foldl)
    | split
    | fail_if_no_progress (with_reducible (apply Keeps.upd <;> try rfl))

theorem execTrigFrame_keeps (line : Fin 8) (target : Byte) {s : State} (h : Keeps r s) :
    OutKeeps r (execTrigFrame line target s) := by
  unfold execTrigFrame
  repeat' first
    | with_reducible assumption
    | with_reducible rfl
    | intro _
    | (with_reducible first | apply setB_keeps | apply bumpF_keeps | apply onAsy_keeps | apply evaluateAgain_keeps | apply OutKeeps.next | apply Keeps.ite | apply Keeps.foldl)
    | split
    | fail_if_no_progress (with_reducible (apply Keeps.upd <;> try rfl))

theorem execTrigCollide_keeps (line : Fin 8) {s : State} (h : Keeps r s) :
    OutKeeps r (execTrigCollide line s) := by
  unfold execTrigCollide
  repeat' first
    | with_reducible assumption
    | with_reducible rfl
    | intro _
    | (with_reducible first | apply emit_keeps | apply setB_keeps | apply OutKeeps.next | apply Keeps.ite | apply Keeps.foldl)
    | split
    | fail_if_no_progress (with_reducible (apply Keeps.upd <;> try rfl))

theorem execTrigEdge_keeps (line : Fin 8) {s : State} (h : Keeps r s) :
    OutKeeps r (execTrigEdge line s) := by
  unfold execTrigEdge
  repeat' first
    | with_reducible assumption
    | with_reducible rfl
    | intro _
    | (with_reducible first | apply onAsy_keeps | apply OutKeeps.next | apply Keeps.ite | apply Keeps.foldl)
    | split
    | fail_if_no_progress (with_reducible (apply Keeps.upd <;> try rfl))

theorem execTrigSettleVote_keeps {s : State} (h : Keeps r s) :
    OutKeeps r (execTrigSettleVote s) := by
  unfold execTrigSettleVote
  repeat' first
    | with_reducible assumption
    | with_reducible rfl
    | intro _
    | (with_reducible first | apply onAsy_keeps | apply OutKeeps.next | apply Keeps.ite | apply Keeps.foldl)
    | split
    | fail_if_no_progress (with_reducible (apply Keeps.upd <;> try rfl))

theorem syncCtrlWrite_keeps {s : State} (v : Nat) (h : Keeps r s) :
    Keeps r (syncCtrlWrite s v) := by
  unfold syncCtrlWrite
  repeat' first
    | with_reducible assumption
    | with_reducible rfl
    | intro _
    | (with_reducible first | apply plainWrite_keeps | apply emit_keeps | apply Keeps.ite | apply Keeps.foldl)
    | split
    | fail_if_no_progress (with_reducible (apply Keeps.upd <;> try rfl))

theorem execFire_keeps (value : Word) {s : State} (h : Keeps r s) :
    OutKeeps r (execFire value s) := by
  unfold execFire
  repeat' first
    | with_reducible assumption
    | with_reducible rfl
    | intro _
    | (with_reducible first | apply gatedWrite_keeps | apply syncCtrlWrite_keeps | apply OutKeeps.next | apply Keeps.ite | apply Keeps.foldl)
    | split
    | fail_if_no_progress (with_reducible (apply Keeps.upd <;> try rfl))

end Sys2Proof.Machine
end

