-- ==== Sys2Proof/Laws/KeepsHedgerow.lean ====
section
/-! SUPPORT. What the operations of Machine/Hedgerow.lean keep. -/

namespace Sys2Proof.Machine

variable {r : State}

set_option linter.unusedTactic false
set_option linter.unreachableTactic false

theorem onHgr_keeps {s : State} (g : Hgr → Hgr) (h : Keeps r s) :
    Keeps r (onHgr s g) := by
  unfold onHgr
  repeat' first
    | with_reducible assumption
    | with_reducible rfl
    | intro _
    | (with_reducible first | apply Keeps.ite | apply Keeps.foldl)
    | split
    | fail_if_no_progress (with_reducible (apply Keeps.upd <;> try rfl))

theorem showParked_keeps {s : State} (h : Keeps r s) :
    Keeps r (showParked s) := by
  unfold showParked
  repeat' first
    | with_reducible assumption
    | with_reducible rfl
    | intro _
    | (with_reducible first | apply setB_keeps | apply Keeps.ite | apply Keeps.foldl)
    | split
    | fail_if_no_progress (with_reducible (apply Keeps.upd <;> try rfl))

theorem ramErrors_keeps {s : State} (k : Nat) {t : State} (r_ : Nat) (h : Keeps r s) (h_t : Keeps r t) :
    Keeps r (ramErrors s k t r_) := by
  unfold ramErrors
  repeat' first
    | with_reducible assumption
    | with_reducible rfl
    | intro _
    | extract_lets
    | (with_reducible first | apply bumpF_keeps | apply setF_keeps | apply setB_keeps | apply Keeps.ite | apply Keeps.foldl)
    | split
    | fail_if_no_progress (with_reducible (apply Keeps.upd <;> try rfl))
    | dsimp +zetaDelta only

theorem strobeGroup_keeps {s : State} (g : Nat) (h : Keeps r s) :
    Keeps r (strobeGroup s g) := by
  unfold strobeGroup
  repeat' first
    | with_reducible assumption
    | with_reducible rfl
    | intro _
    | (with_reducible first | apply onHgr_keeps | apply Keeps.ite | apply Keeps.foldl)
    | split
    | fail_if_no_progress (with_reducible (apply Keeps.upd <;> try rfl))

theorem fireCapture_keeps {s : State} (h : Keeps r s) :
    Keeps r (fireCapture s) := by
  unfold fireCapture
  repeat' first
    | with_reducible assumption
    | with_reducible rfl
    | intro _
    | (with_reducible first | apply onHgr_keeps | apply set64_keeps | apply setB_keeps | apply Keeps.ite | apply Keeps.foldl)
    | split
    | fail_if_no_progress (with_reducible (apply Keeps.upd <;> try rfl))

theorem uclkEdge_keeps {s : State} (k : Nat) (ins : FabricInputs) (h : Keeps r s) :
    Keeps r (uclkEdge s k ins) := by
  unfold uclkEdge
  repeat' first
    | with_reducible assumption
    | with_reducible rfl
    | intro _
    | (with_reducible first | apply onHgr_keeps | apply strobeGroup_keeps | apply ramErrors_keeps | apply fireCapture_keeps | apply Keeps.ite | apply Keeps.foldl)
    | split
    | fail_if_no_progress (with_reducible (apply Keeps.upd <;> try rfl))

theorem execStrobe_keeps (g : Fin 8) {s : State} (h : Keeps r s) :
    OutKeeps r (execStrobe g s) := by
  unfold execStrobe
  repeat' first
    | with_reducible assumption
    | with_reducible rfl
    | intro _
    | (with_reducible first | apply strobeGroup_keeps | apply OutKeeps.next | apply Keeps.ite | apply Keeps.foldl)
    | split
    | fail_if_no_progress (with_reducible (apply Keeps.upd <;> try rfl))

theorem execExportUpdate_keeps (g : Fin 8) {s : State} (h : Keeps r s) :
    OutKeeps r (execExportUpdate g s) := by
  unfold execExportUpdate
  repeat' first
    | with_reducible assumption
    | with_reducible rfl
    | intro _
    | (with_reducible first | apply onHgr_keeps | apply OutKeeps.next | apply Keeps.ite | apply Keeps.foldl)
    | split
    | fail_if_no_progress (with_reducible (apply Keeps.upd <;> try rfl))

theorem exportB3_keeps {s : State} (d : Fin 4) (c : Nat) (h : Keeps r s) :
    Keeps r (exportB3 s d c) := by
  unfold exportB3
  repeat' first
    | with_reducible assumption
    | with_reducible rfl
    | intro _
    | (with_reducible first | apply onHgr_keeps | apply Keeps.ite | apply Keeps.foldl)
    | split
    | fail_if_no_progress (with_reducible (apply Keeps.upd <;> try rfl))

theorem hgrCommit_keeps {s : State} (c : Nat) (h : Keeps r s) :
    Keeps r (hgrCommit s c) := by
  unfold hgrCommit
  repeat' first
    | with_reducible assumption
    | with_reducible rfl
    | intro _
    | (with_reducible first | apply onHgr_keeps | apply Keeps.ite | apply Keeps.foldl)
    | split
    | fail_if_no_progress (with_reducible (apply Keeps.upd <;> try rfl))

theorem hgrAbandon_keeps {s : State} (b : Nat) (replayed : Bool) (h : Keeps r s) :
    Keeps r (hgrAbandon s b replayed) := by
  unfold hgrAbandon
  repeat' first
    | with_reducible assumption
    | with_reducible rfl
    | intro _
    | (with_reducible first | apply onHgr_keeps | apply Keeps.ite | apply Keeps.foldl)
    | split
    | fail_if_no_progress (with_reducible (apply Keeps.upd <;> try rfl))

theorem recordImports_keeps {s : State} (c : Nat) (h : Keeps r s) :
    Keeps r (recordImports s c) := by
  unfold recordImports
  repeat' first
    | with_reducible assumption
    | with_reducible rfl
    | intro _
    | (with_reducible first | apply onHgr_keeps | apply Keeps.ite | apply Keeps.foldl)
    | split
    | fail_if_no_progress (with_reducible (apply Keeps.upd <;> try rfl))

theorem importB6_keeps {s : State} (d : Fin 4) (c : Nat) (h : Keeps r s) :
    Keeps r (importB6 s d c) := by
  unfold importB6
  repeat' first
    | with_reducible assumption
    | with_reducible rfl
    | intro _
    | (with_reducible first | apply recordImports_keeps | apply onDie_keeps | apply Keeps.ite | apply Keeps.foldl)
    | split
    | fail_if_no_progress (with_reducible (apply Keeps.upd <;> try rfl))

theorem clearUnfed_keeps {s : State} (d : Fin 4) (h : Keeps r s) :
    Keeps r (clearUnfed s d) := by
  unfold clearUnfed
  repeat' first
    | with_reducible assumption
    | with_reducible rfl
    | intro _
    | (with_reducible first | apply onDie_keeps | apply Keeps.ite | apply Keeps.foldl)
    | split
    | fail_if_no_progress (with_reducible (apply Keeps.upd <;> try rfl))

theorem capCtrlWrite_keeps {s : State} (v : Nat) (h : Keeps r s) :
    Keeps r (capCtrlWrite s v) := by
  unfold capCtrlWrite
  repeat' first
    | with_reducible assumption
    | with_reducible rfl
    | intro _
    | (with_reducible first | apply plainWrite_keeps | apply setB_keeps | apply onHgr_keeps | apply Keeps.ite | apply Keeps.foldl)
    | split
    | fail_if_no_progress (with_reducible (apply Keeps.upd <;> try rfl))

theorem execCaptureArm_keeps (value : Word) {s : State} (h : Keeps r s) :
    OutKeeps r (execCaptureArm value s) := by
  unfold execCaptureArm
  repeat' first
    | with_reducible assumption
    | with_reducible rfl
    | intro _
    | (with_reducible first | apply gatedWrite_keeps | apply capCtrlWrite_keeps | apply OutKeeps.next | apply Keeps.ite | apply Keeps.foldl)
    | split
    | fail_if_no_progress (with_reducible (apply Keeps.upd <;> try rfl))

theorem execCaptureAbort_keeps (value : Word) {s : State} (h : Keeps r s) :
    OutKeeps r (execCaptureAbort value s) := by
  unfold execCaptureAbort
  repeat' first
    | with_reducible assumption
    | with_reducible rfl
    | intro _
    | (with_reducible first | apply gatedWrite_keeps | apply capCtrlWrite_keeps | apply OutKeeps.next | apply Keeps.ite | apply Keeps.foldl)
    | split
    | fail_if_no_progress (with_reducible (apply Keeps.upd <;> try rfl))

theorem execCaptureFire_keeps {s : State} (h : Keeps r s) :
    OutKeeps r (execCaptureFire s) := by
  unfold execCaptureFire
  repeat' first
    | with_reducible assumption
    | with_reducible rfl
    | intro _
    | (with_reducible first | apply fireCapture_keeps | apply OutKeeps.next | apply Keeps.ite | apply Keeps.foldl)
    | split
    | fail_if_no_progress (with_reducible (apply Keeps.upd <;> try rfl))

theorem capRead_keeps {s : State} (h : Keeps r s) :
    Keeps r (capRead s).2 := by
  unfold capRead
  repeat' first
    | with_reducible assumption
    | with_reducible rfl
    | intro _
    | (with_reducible first | apply wrapF_keeps | apply Keeps.ite | apply Keeps.foldl)
    | split
    | fail_if_no_progress (with_reducible (apply Keeps.upd <;> try rfl))

theorem execCapDataRead_keeps {s : State} (h : Keeps r s) :
    OutKeeps r (execCapDataRead s) := by
  unfold execCapDataRead
  repeat' first
    | with_reducible assumption
    | with_reducible rfl
    | intro _
    | (with_reducible first | apply gatedRead_keeps | apply capRead_keeps | apply OutKeeps.next | apply Keeps.ite | apply Keeps.foldl)
    | split
    | fail_if_no_progress (with_reducible (apply Keeps.upd <;> try rfl))

theorem execVccioMismatch_keeps (bank : Fin 8) (sensed : BitVec 3) (settled : Bool) {s : State} (h : Keeps r s) :
    OutKeeps r (execVccioMismatch bank sensed settled s) := by
  unfold execVccioMismatch
  repeat' first
    | with_reducible assumption
    | with_reducible rfl
    | intro _
    | (with_reducible first | apply onHgr_keeps | apply setF_keeps | apply setB_keeps | apply showParked_keeps | apply OutKeeps.next | apply Keeps.ite | apply Keeps.foldl)
    | split
    | fail_if_no_progress (with_reducible (apply Keeps.upd <;> try rfl))

theorem scrubBit_keeps {s : State} (copies : Nat) (b : Nat) (i : Nat) (h : Keeps r s) :
    Keeps r (scrubBit s copies b i) := by
  unfold scrubBit
  repeat' first
    | with_reducible assumption
    | with_reducible rfl
    | intro _
    | (with_reducible first | apply bumpF_keeps | apply onHgr_keeps | apply Keeps.ite | apply Keeps.foldl)
    | split
    | fail_if_no_progress (with_reducible (apply Keeps.upd <;> try rfl))

theorem execCfgScrub_keeps (upsets : List (Fin 3 × Fin 8392704 × Fin 8)) {s : State} (h : Keeps r s) :
    OutKeeps r (execCfgScrub upsets s) := by
  unfold execCfgScrub
  repeat' first
    | with_reducible assumption
    | with_reducible rfl
    | intro _
    | (with_reducible first | apply scrubBit_keeps | apply OutKeeps.next | apply Keeps.ite | apply Keeps.foldl)
    | split
    | fail_if_no_progress (with_reducible (apply Keeps.upd <;> try rfl))

end Sys2Proof.Machine
end

