-- ==== Sys2Proof/Laws/KeepsHolds.lean ====
section
/-! SUPPORT. What the operations of Machine/Holds.lean keep. -/

namespace Sys2Proof.Machine

variable {r : State}

set_option linter.unusedTactic false
set_option linter.unreachableTactic false

theorem onHolds_keeps {s : State} (g : Holds → Holds) (h : Keeps r s) :
    Keeps r (onHolds s g) := by
  unfold onHolds
  repeat' first
    | with_reducible assumption
    | with_reducible rfl
    | intro _
    | (with_reducible first | apply Keeps.ite | apply Keeps.foldl)
    | split
    | fail_if_no_progress (with_reducible (apply Keeps.upd <;> try rfl))

theorem announce_keeps {s : State} (n : Nat) (t : Nat) (h : Keeps r s) :
    Keeps r (announce s n t) := by
  unfold announce
  repeat' first
    | with_reducible assumption
    | with_reducible rfl
    | intro _
    | (with_reducible first | apply onHolds_keeps | apply Keeps.ite | apply Keeps.foldl)
    | split
    | fail_if_no_progress (with_reducible (apply Keeps.upd <;> try rfl))

theorem withdraw_keeps {s : State} (drop : Nat × Nat → Bool) (h : Keeps r s) :
    Keeps r (withdraw s drop) := by
  unfold withdraw
  repeat' first
    | with_reducible assumption
    | with_reducible rfl
    | intro _
    | (with_reducible first | apply onHolds_keeps | apply Keeps.ite | apply Keeps.foldl)
    | split
    | fail_if_no_progress (with_reducible (apply Keeps.upd <;> try rfl))

theorem noteDecision_keeps {s : State} (h_ : BoundaryHold) (c : Nat) (h : Keeps r s) :
    Keeps r (noteDecision s h_ c) := by
  unfold noteDecision
  repeat' first
    | with_reducible assumption
    | with_reducible rfl
    | intro _
    | (with_reducible first | apply onHolds_keeps | apply onChn_keeps | apply decideIn_keeps | apply Keeps.ite | apply Keeps.foldl)
    | split
    | fail_if_no_progress (with_reducible (apply Keeps.upd <;> try rfl))

theorem decide__keeps {s : State} (h_ : BoundaryHold) (c : Nat) (h : Keeps r s) :
    Keeps r (decide_ s h_ c) := by
  unfold decide_
  repeat' first
    | with_reducible assumption
    | with_reducible rfl
    | intro _
    | (with_reducible first | apply noteDecision_keeps | apply announce_keeps | apply withdraw_keeps | apply Keeps.ite | apply Keeps.foldl)
    | split
    | fail_if_no_progress (with_reducible (apply Keeps.upd <;> try rfl))

theorem execBoundaryHoldDecision_keeps (h_ : BoundaryHold) {s : State} (h : Keeps r s) :
    OutKeeps r (execBoundaryHoldDecision h_ s) := by
  unfold execBoundaryHoldDecision
  repeat' first
    | with_reducible assumption
    | with_reducible rfl
    | intro _
    | (with_reducible first | apply decide__keeps | apply OutKeeps.next | apply Keeps.ite | apply Keeps.foldl)
    | split
    | fail_if_no_progress (with_reducible (apply Keeps.upd <;> try rfl))

theorem takeDecisions_keeps {s : State} (h : Keeps r s) :
    Keeps r (takeDecisions s) := by
  unfold takeDecisions
  repeat' first
    | with_reducible assumption
    | with_reducible rfl
    | intro _
    | (with_reducible first | apply decide__keeps | apply Keeps.ite | apply Keeps.foldl)
    | split
    | fail_if_no_progress (with_reducible (apply Keeps.upd <;> try rfl))

theorem userTakes_keeps {s : State} (d : Fin 4) (h : Keeps r s) :
    Keeps r (userTakes s d) := by
  unfold userTakes
  repeat' first
    | with_reducible assumption
    | with_reducible rfl
    | intro _
    | (with_reducible first | apply setB_keeps | apply Keeps.ite | apply Keeps.foldl)
    | split
    | fail_if_no_progress (with_reducible (apply Keeps.upd <;> try rfl))

theorem freezeHere_keeps {s : State} (d : Fin 4) (h : Keeps r s) :
    Keeps r (freezeHere s d) := by
  unfold freezeHere
  repeat' first
    | with_reducible assumption
    | with_reducible rfl
    | intro _
    | (with_reducible first | apply userTakes_keeps | apply raiseSource_keeps | apply freezeDie_keeps | apply Keeps.ite | apply Keeps.foldl)
    | split
    | fail_if_no_progress (with_reducible (apply Keeps.upd <;> try rfl))

theorem orderFreeze_keeps {s : State} (d : Fin 4) (h : Keeps r s) :
    Keeps r (orderFreeze s d) := by
  unfold orderFreeze
  repeat' first
    | with_reducible assumption
    | with_reducible rfl
    | intro _
    | (with_reducible first | apply freezeHere_keeps | apply Keeps.ite | apply Keeps.foldl)
    | split
    | fail_if_no_progress (with_reducible (apply Keeps.upd <;> try rfl))

theorem execFreezeOrder_keeps (d : Fin 4) {s : State} (h : Keeps r s) :
    OutKeeps r (execFreezeOrder d s) := by
  unfold execFreezeOrder
  repeat' first
    | with_reducible assumption
    | with_reducible rfl
    | intro _
    | (with_reducible first | apply orderFreeze_keeps | apply OutKeeps.next | apply Keeps.ite | apply Keeps.foldl)
    | split
    | fail_if_no_progress (with_reducible (apply Keeps.upd <;> try rfl))

theorem refreshLate_keeps {s : State} (h : Keeps r s) :
    Keeps r (refreshLate s) := by
  unfold refreshLate
  repeat' first
    | with_reducible assumption
    | with_reducible rfl
    | intro _
    | (with_reducible first | apply clearSource_keeps | apply Keeps.ite | apply Keeps.foldl)
    | split
    | fail_if_no_progress (with_reducible (apply Keeps.upd <;> try rfl))

theorem redecide_keeps {s : State} (h : Keeps r s) :
    Keeps r (redecide s) := by
  unfold redecide
  repeat' first
    | with_reducible assumption
    | with_reducible rfl
    | intro _
    | (with_reducible first | apply decide__keeps | apply Keeps.ite | apply Keeps.foldl)
    | split
    | fail_if_no_progress (with_reducible (apply Keeps.upd <;> try rfl))

theorem resumeDone_keeps {s : State} (h : Keeps r s) :
    Keeps r (resumeDone s) := by
  unfold resumeDone
  repeat' first
    | with_reducible assumption
    | with_reducible rfl
    | intro _
    | (with_reducible first | apply setB_keeps | apply onHolds_keeps | apply clearSource_keeps | apply Keeps.ite | apply Keeps.foldl)
    | split
    | fail_if_no_progress (with_reducible (apply Keeps.upd <;> try rfl))

theorem releaseUpTo_keeps {s : State} (m : Nat) (h : Keeps r s) :
    Keeps r (releaseUpTo s m) := by
  unfold releaseUpTo
  repeat' first
    | with_reducible assumption
    | with_reducible rfl
    | intro _
    | (with_reducible first | apply releaseDie_keeps | apply resumeDone_keeps | apply Keeps.ite | apply Keeps.foldl)
    | split
    | fail_if_no_progress (with_reducible (apply Keeps.upd <;> try rfl))

theorem beginResume_keeps {s : State} (h : Keeps r s) :
    Keeps r (beginResume s) := by
  unfold beginResume
  repeat' first
    | with_reducible assumption
    | with_reducible rfl
    | intro _
    | (with_reducible first | apply redecide_keeps | apply refreshLate_keeps | apply clearSource_keeps | apply onHolds_keeps | apply releaseUpTo_keeps | apply Keeps.ite | apply Keeps.foldl)
    | split
    | fail_if_no_progress (with_reducible (apply Keeps.upd <;> try rfl))

theorem continueResume_keeps {s : State} (h : Keeps r s) :
    Keeps r (continueResume s) := by
  unfold continueResume
  repeat' first
    | with_reducible assumption
    | with_reducible rfl
    | intro _
    | extract_lets
    | (with_reducible first | apply releaseUpTo_keeps | apply Keeps.ite | apply Keeps.foldl)
    | split
    | fail_if_no_progress (with_reducible (apply Keeps.upd <;> try rfl))
    | dsimp +zetaDelta only

theorem releaseAnnounced_keeps {s : State} (h : Keeps r s) :
    Keeps r (releaseAnnounced s) := by
  unfold releaseAnnounced
  repeat' first
    | with_reducible assumption
    | with_reducible rfl
    | intro _
    | (with_reducible first | apply decideIn_keeps | apply clearSource_keeps | apply withdraw_keeps | apply Keeps.ite | apply Keeps.foldl)
    | split
    | fail_if_no_progress (with_reducible (apply Keeps.upd <;> try rfl))

theorem execAnnouncedHoldRelease_keeps {s : State} (h : Keeps r s) :
    OutKeeps r (execAnnouncedHoldRelease s) := by
  unfold execAnnouncedHoldRelease
  repeat' first
    | with_reducible assumption
    | with_reducible rfl
    | intro _
    | (with_reducible first | apply releaseAnnounced_keeps | apply OutKeeps.next | apply Keeps.ite | apply Keeps.foldl)
    | split
    | fail_if_no_progress (with_reducible (apply Keeps.upd <;> try rfl))

theorem enforceFrozen_keeps {s : State} (h : Keeps r s) :
    Keeps r (enforceFrozen s) := by
  unfold enforceFrozen
  repeat' first
    | with_reducible assumption
    | with_reducible rfl
    | intro _
    | (with_reducible first | apply userTakes_keeps | apply raiseSource_keeps | apply Keeps.ite | apply Keeps.foldl)
    | split
    | fail_if_no_progress (with_reducible (apply Keeps.upd <;> try rfl))

theorem userRequest_keeps {s : State} (h : Keeps r s) :
    Keeps r (userRequest s) := by
  unfold userRequest
  repeat' first
    | with_reducible assumption
    | with_reducible rfl
    | intro _
    | (with_reducible first | apply setB_keeps | apply onHolds_keeps | apply enforceFrozen_keeps | apply announce_keeps | apply Keeps.ite | apply Keeps.foldl)
    | split
    | fail_if_no_progress (with_reducible (apply Keeps.upd <;> try rfl))

theorem userReleaseNow_keeps {s : State} (h : Keeps r s) :
    Keeps r (userReleaseNow s) := by
  unfold userReleaseNow
  repeat' first
    | with_reducible assumption
    | with_reducible rfl
    | intro _
    | (with_reducible first | apply setB_keeps | apply onHolds_keeps | apply withdraw_keeps | apply Keeps.ite | apply Keeps.foldl)
    | split
    | fail_if_no_progress (with_reducible (apply Keeps.upd <;> try rfl))

theorem userRelease_keeps {s : State} (h : Keeps r s) :
    Keeps r (userRelease s) := by
  unfold userRelease
  repeat' first
    | with_reducible assumption
    | with_reducible rfl
    | intro _
    | (with_reducible first | apply userReleaseNow_keeps | apply Keeps.ite | apply Keeps.foldl)
    | split
    | fail_if_no_progress (with_reducible (apply Keeps.upd <;> try rfl))

theorem holdCtrlWrite_keeps {s : State} (v : Nat) (h : Keeps r s) :
    Keeps r (holdCtrlWrite s v) := by
  unfold holdCtrlWrite
  repeat' first
    | with_reducible assumption
    | with_reducible rfl
    | intro _
    | (with_reducible first | apply plainWrite_keeps | apply userRelease_keeps | apply userRequest_keeps | apply Keeps.ite | apply Keeps.foldl)
    | split
    | fail_if_no_progress (with_reducible (apply Keeps.upd <;> try rfl))

theorem execRequest_keeps (value : Word) {s : State} (h : Keeps r s) :
    OutKeeps r (execRequest value s) := by
  unfold execRequest
  repeat' first
    | with_reducible assumption
    | with_reducible rfl
    | intro _
    | (with_reducible first | apply holdCtrlWrite_keeps | apply OutKeeps.next | apply Keeps.ite | apply Keeps.foldl)
    | split
    | fail_if_no_progress (with_reducible (apply Keeps.upd <;> try rfl))

theorem execRelease_keeps (value : Word) {s : State} (h : Keeps r s) :
    OutKeeps r (execRelease value s) := by
  unfold execRelease
  repeat' first
    | with_reducible assumption
    | with_reducible rfl
    | intro _
    | (with_reducible first | apply holdCtrlWrite_keeps | apply OutKeeps.next | apply Keeps.ite | apply Keeps.foldl)
    | split
    | fail_if_no_progress (with_reducible (apply Keeps.upd <;> try rfl))

theorem carryUserHold_keeps {s : State} (next : Nat) (h : Keeps r s) :
    Keeps r (carryUserHold s next) := by
  unfold carryUserHold
  repeat' first
    | with_reducible assumption
    | with_reducible rfl
    | intro _
    | (with_reducible first | apply setB_keeps | apply onHolds_keeps | apply Keeps.ite | apply Keeps.foldl)
    | split
    | fail_if_no_progress (with_reducible (apply Keeps.upd <;> try rfl))

theorem armUserHold_keeps {s : State} (c : Nat) (h : Keeps r s) :
    Keeps r (armUserHold s c) := by
  unfold armUserHold
  repeat' first
    | with_reducible assumption
    | with_reducible rfl
    | intro _
    | (with_reducible first | apply announce_keeps | apply onHolds_keeps | apply Keeps.ite | apply Keeps.foldl)
    | split
    | fail_if_no_progress (with_reducible (apply Keeps.upd <;> try rfl))

theorem endHolds_keeps {s : State} (keepUser : Bool) (next : Nat) (h : Keeps r s) :
    Keeps r (endHolds s keepUser next) := by
  unfold endHolds
  repeat' first
    | with_reducible assumption
    | with_reducible rfl
    | intro _
    | (with_reducible first | apply carryUserHold_keeps | apply onHolds_keeps | apply setB_keeps | apply clearSource_keeps | apply Keeps.ite | apply Keeps.foldl)
    | split
    | fail_if_no_progress (with_reducible (apply Keeps.upd <;> try rfl))

theorem lateTick_keeps {s : State} (h : Keeps r s) :
    Keeps r (lateTick s) := by
  unfold lateTick
  repeat' first
    | with_reducible assumption
    | with_reducible rfl
    | intro _
    | (with_reducible first | apply onHolds_keeps | apply Keeps.ite | apply Keeps.foldl)
    | split
    | fail_if_no_progress (with_reducible (apply Keeps.upd <;> try rfl))

theorem execSfStarved_keeps {s : State} (h : Keeps r s) :
    OutKeeps r (execSfStarved s) := by
  unfold execSfStarved
  repeat' first
    | with_reducible assumption
    | with_reducible rfl
    | intro _
    | (with_reducible first | apply raiseSF_keeps | apply OutKeeps.next | apply Keeps.ite | apply Keeps.foldl)
    | split
    | fail_if_no_progress (with_reducible (apply Keeps.upd <;> try rfl))

theorem countCtrlWrite_keeps {s : State} (v : Nat) (h : Keeps r s) :
    Keeps r (countCtrlWrite s v) := by
  unfold countCtrlWrite
  repeat' first
    | with_reducible assumption
    | with_reducible rfl
    | intro _
    | (with_reducible first | apply setF_keeps | apply Keeps.ite | apply Keeps.foldl)
    | split
    | fail_if_no_progress (with_reducible (apply Keeps.upd <;> try rfl))

theorem execClear_keeps (value : Word) {s : State} (h : Keeps r s) :
    OutKeeps r (execClear value s) := by
  unfold execClear
  repeat' first
    | with_reducible assumption
    | with_reducible rfl
    | intro _
    | (with_reducible first | apply countCtrlWrite_keeps | apply OutKeeps.next | apply Keeps.ite | apply Keeps.foldl)
    | split
    | fail_if_no_progress (with_reducible (apply Keeps.upd <;> try rfl))

theorem countLoRead_keeps {s : State} (k : Nat) (a : Nat) (h : Keeps r s) :
    Keeps r (countLoRead s k a).2 := by
  unfold countLoRead
  repeat' first
    | with_reducible assumption
    | with_reducible rfl
    | intro _
    | (with_reducible first | apply Keeps.ite | apply Keeps.foldl)
    | split
    | fail_if_no_progress (with_reducible (apply Keeps.upd <;> try rfl))

theorem countHiRead_keeps {s : State} (k : Nat) (a : Nat) (h : Keeps r s) :
    Keeps r (countHiRead s k a).2 := by
  unfold countHiRead
  repeat' first
    | with_reducible assumption
    | with_reducible rfl
    | intro _
    | (with_reducible first | apply Keeps.ite | apply Keeps.foldl)
    | split
    | fail_if_no_progress (with_reducible (apply Keeps.upd <;> try rfl))

theorem execCountLoRead_keeps (path : RegPath) (addr : BitVec 20) {s : State} (h : Keeps r s) :
    OutKeeps r (execCountLoRead path addr s) := by
  unfold execCountLoRead
  repeat' first
    | with_reducible assumption
    | with_reducible rfl
    | intro _
    | (with_reducible first | apply countLoRead_keeps | apply emit_keeps | apply OutKeeps.next | apply Keeps.ite | apply Keeps.foldl)
    | split
    | fail_if_no_progress (with_reducible (apply Keeps.upd <;> try rfl))

end Sys2Proof.Machine
end

