-- ==== Sys2Proof/Laws/KeepsArrivals.lean ====
section
/-! SUPPORT. What the operations of Machine/Arrivals.lean keep. -/

namespace Sys2Proof.Machine

variable {r : State}

set_option linter.unusedTactic false
set_option linter.unreachableTactic false

theorem drawFree_keeps {s : State} (h : Keeps r s) : Keeps r (drawFree s).2 :=
  ⟨h.pending, h.chip, h.outs, Nat.le_succ_of_le h.draws, h.fuses, h.stores⟩

theorem arrive_keeps {s : State} (d : Fin 4) (k : Nat) (e : ChanEntry) (h : Keeps r s) :
    Keeps r (arrive s d k e) := by
  unfold arrive
  repeat' first
    | with_reducible assumption
    | with_reducible rfl
    | intro _
    | (with_reducible first | apply setDie_keeps | apply Keeps.ite | apply Keeps.foldl)
    | split
    | fail_if_no_progress (with_reducible (apply Keeps.upd <;> try rfl))

theorem execCrossingArrival_keeps (src : Fin 4) (dst : Fin 4) (chan : Fin 1024) (ecc : Ecc) {s : State} (h : Keeps r s) :
    OutKeeps r (execCrossingArrival src dst chan ecc s) := by
  unfold execCrossingArrival
  repeat' first
    | with_reducible assumption
    | with_reducible rfl
    | intro _
    | (with_reducible first | apply arrive_keeps | apply drawFree_keeps | apply badNow_keeps | apply OutKeeps.next | apply Keeps.ite | apply Keeps.foldl)
    | split
    | fail_if_no_progress (with_reducible (apply Keeps.upd <;> try rfl))

theorem deliverEntry_keeps {s : State} (d : Fin 4) (c : Nat) (tag : Nat) (v : Bool) (h : Keeps r s) :
    Keeps r (deliverEntry s d c tag v) := by
  unfold deliverEntry
  repeat' first
    | with_reducible assumption
    | with_reducible rfl
    | intro _
    | (with_reducible first | apply raiseSF_keeps | apply arrive_keeps | apply bumpF_keeps | apply Keeps.ite | apply Keeps.foldl)
    | split
    | fail_if_no_progress (with_reducible (apply Keeps.upd <;> try rfl))

end Sys2Proof.Machine
end

