-- ==== Sys2Proof/Laws/KeepsLinks.lean ====
section
/-! SUPPORT. What the operations of Machine/Links.lean keep. -/

namespace Sys2Proof.Machine

variable {r : State}

set_option linter.unusedTactic false
set_option linter.unreachableTactic false

theorem onLnk_keeps {s : State} (g : Lnk → Lnk) (h : Keeps r s) :
    Keeps r (onLnk s g) := by
  unfold onLnk
  repeat' first
    | with_reducible assumption
    | with_reducible rfl
    | intro _
    | (with_reducible first | apply Keeps.ite | apply Keeps.foldl)
    | split
    | fail_if_no_progress (with_reducible (apply Keeps.upd <;> try rfl))

theorem onLink_keeps {s : State} (l : Nat) (g : LinkSt → LinkSt) (h : Keeps r s) :
    Keeps r (onLink s l g) := by
  unfold onLink
  repeat' first
    | with_reducible assumption
    | with_reducible rfl
    | intro _
    | (with_reducible first | apply onLnk_keeps | apply Keeps.ite | apply Keeps.foldl)
    | split
    | fail_if_no_progress (with_reducible (apply Keeps.upd <;> try rfl))

theorem driveBlock_keeps {s : State} (l : Nat) (ct : Nat) (origin : Nat) (cseq : Nat) (payload : Nat) (h : Keeps r s) :
    Keeps r (driveBlock s l ct origin cseq payload) := by
  unfold driveBlock
  repeat' first
    | with_reducible assumption
    | with_reducible rfl
    | intro _
    | (with_reducible first | apply emit_keeps | apply Keeps.ite | apply Keeps.foldl)
    | split
    | fail_if_no_progress (with_reducible (apply Keeps.upd <;> try rfl))

theorem sendOnce_keeps {s : State} (l : Nat) (ct : Nat) (payload : Nat) (h : Keeps r s) :
    Keeps r (sendOnce s l ct payload) := by
  unfold sendOnce
  repeat' first
    | with_reducible assumption
    | with_reducible rfl
    | intro _
    | (with_reducible first | apply driveBlock_keeps | apply onLnk_keeps | apply Keeps.ite | apply Keeps.foldl)
    | split
    | fail_if_no_progress (with_reducible (apply Keeps.upd <;> try rfl))

theorem sendTrack_keeps {s : State} (l : Nat) (h : Keeps r s) :
    Keeps r (sendTrack s l) := by
  unfold sendTrack
  repeat' first
    | with_reducible assumption
    | with_reducible rfl
    | intro _
    | (with_reducible first | apply drawFree_keeps | apply sendOnce_keeps | apply Keeps.ite | apply Keeps.foldl)
    | split
    | fail_if_no_progress (with_reducible (apply Keeps.upd <;> try rfl))

theorem leaveDoze_keeps {s : State} (l : Nat) (h : Keeps r s) :
    Keeps r (leaveDoze s l) := by
  unfold leaveDoze
  repeat' first
    | with_reducible assumption
    | with_reducible rfl
    | intro _
    | (with_reducible first | apply sendTrack_keeps | apply setB_keeps | apply Keeps.ite | apply Keeps.foldl)
    | split
    | fail_if_no_progress (with_reducible (apply Keeps.upd <;> try rfl))

theorem wakeLink_keeps {s : State} (l : Nat) (h : Keeps r s) :
    Keeps r (wakeLink s l) := by
  unfold wakeLink
  repeat' first
    | with_reducible assumption
    | with_reducible rfl
    | intro _
    | (with_reducible first | apply leaveDoze_keeps | apply onLink_keeps | apply setF_keeps | apply setB_keeps | apply Keeps.ite | apply Keeps.foldl)
    | split
    | fail_if_no_progress (with_reducible (apply Keeps.upd <;> try rfl))

theorem putBlock_keeps (ct : Nat) (origin : Nat) (cseq : Nat) (payload : Nat) {s : State} (l : Nat) (h : Keeps r s) :
    Keeps r (putBlock ct origin cseq payload s l) := by
  unfold putBlock
  repeat' first
    | with_reducible assumption
    | with_reducible rfl
    | intro _
    | (with_reducible first | apply wakeLink_keeps | apply driveBlock_keeps | apply onLink_keeps | apply Keeps.ite | apply Keeps.foldl)
    | split
    | fail_if_no_progress (with_reducible (apply Keeps.upd <;> try rfl))

theorem sendBlock_keeps {s : State} (ls : List Nat) (ct : Nat) (payload : Nat) (h : Keeps r s) :
    Keeps r (sendBlock s ls ct payload) := by
  unfold sendBlock
  repeat' first
    | with_reducible assumption
    | with_reducible rfl
    | intro _
    | (with_reducible first | apply putBlock_keeps | apply onLnk_keeps | apply Keeps.ite | apply Keeps.foldl)
    | split
    | fail_if_no_progress (with_reducible (apply Keeps.upd <;> try rfl))

theorem passOn_keeps {s : State} (ls : List Nat) (ct : Nat) (b : CtlBlock) (h : Keeps r s) :
    Keeps r (passOn s ls ct b) := by
  unfold passOn
  repeat' first
    | with_reducible assumption
    | with_reducible rfl
    | intro _
    | (with_reducible first | apply putBlock_keeps | apply Keeps.ite | apply Keeps.foldl)
    | split
    | fail_if_no_progress (with_reducible (apply Keeps.upd <;> try rfl))

theorem onFirst_keeps {s : State} (l : Nat) (ct : Nat) (b : CtlBlock) {k : State → State} (h : Keeps r s) (h_k : ∀ t, Keeps r t → Keeps r (k t)) :
    Keeps r (onFirst s l ct b k) := by
  unfold onFirst
  repeat' first
    | with_reducible assumption
    | with_reducible rfl
    | intro _
    | (with_reducible first | apply h_k | apply setB_keeps | apply onLink_keeps | apply Keeps.ite | apply Keeps.foldl)
    | split
    | fail_if_no_progress (with_reducible (apply Keeps.upd <;> try rfl))

theorem holdDevice_keeps {s : State} (h : Keeps r s) :
    Keeps r (holdDevice s) := by
  unfold holdDevice
  repeat' first
    | with_reducible assumption
    | with_reducible rfl
    | intro _
    | (with_reducible first | apply raiseSource_keeps | apply onDies_keeps | apply onHolds_keeps | apply Keeps.ite | apply Keeps.foldl)
    | split
    | fail_if_no_progress (with_reducible (apply Keeps.upd <;> try rfl))

theorem newHold_keeps {s : State} (h : Keeps r s) :
    Keeps r (newHold s) := by
  unfold newHold
  repeat' first
    | with_reducible assumption
    | with_reducible rfl
    | intro _
    | (with_reducible first | apply onHolds_keeps | apply onLnk_keeps | apply Keeps.ite | apply Keeps.foldl)
    | split
    | fail_if_no_progress (with_reducible (apply Keeps.upd <;> try rfl))

theorem sendHold_keeps {s : State} (h : Keeps r s) :
    Keeps r (sendHold s) := by
  unfold sendHold
  repeat' first
    | with_reducible assumption
    | with_reducible rfl
    | intro _
    | (with_reducible first | apply onHolds_keeps | apply newHold_keeps | apply onLnk_keeps | apply sendBlock_keeps | apply Keeps.ite | apply Keeps.foldl)
    | split
    | fail_if_no_progress (with_reducible (apply Keeps.upd <;> try rfl))

theorem takeHold_keeps {s : State} (l : Nat) (key : Nat) (b : CtlBlock) (h : Keeps r s) :
    Keeps r (takeHold s l key b) := by
  unfold takeHold
  repeat' first
    | with_reducible assumption
    | with_reducible rfl
    | intro _
    | (with_reducible first | apply onHolds_keeps | apply newHold_keeps | apply passOn_keeps | apply holdDevice_keeps | apply noteSkew_keeps | apply Keeps.ite | apply Keeps.foldl)
    | split
    | fail_if_no_progress (with_reducible (apply Keeps.upd <;> try rfl))

theorem execHoldBlock_keeps (l : Fin 16) (b : CtlBlock) {s : State} (h : Keeps r s) :
    OutKeeps r (execHoldBlock l b s) := by
  unfold execHoldBlock
  repeat' first
    | with_reducible assumption
    | with_reducible rfl
    | intro _
    | (with_reducible first | apply onFirst_keeps | apply takeHold_keeps | apply OutKeeps.next | apply Keeps.ite | apply Keeps.foldl)
    | split
    | fail_if_no_progress (with_reducible (apply Keeps.upd <;> try rfl))

theorem rootResume_keeps {s : State} (h : Keeps r s) :
    Keeps r (rootResume s) := by
  unfold rootResume
  repeat' first
    | with_reducible assumption
    | with_reducible rfl
    | intro _
    | (with_reducible first | apply onHolds_keeps | apply sendBlock_keeps | apply Keeps.ite | apply Keeps.foldl)
    | split
    | fail_if_no_progress (with_reducible (apply Keeps.upd <;> try rfl))

theorem execReadyBlock_keeps (l : Fin 16) (b : CtlBlock) {s : State} (h : Keeps r s) :
    OutKeeps r (execReadyBlock l b s) := by
  unfold execReadyBlock
  repeat' first
    | with_reducible assumption
    | with_reducible rfl
    | intro _
    | (with_reducible first | apply onFirst_keeps | apply rootResume_keeps | apply onHolds_keeps | apply passOn_keeps | apply OutKeeps.next | apply Keeps.ite | apply Keeps.foldl)
    | split
    | fail_if_no_progress (with_reducible (apply Keeps.upd <;> try rfl))

theorem execResumeBlock_keeps (l : Fin 16) (b : CtlBlock) {s : State} (h : Keeps r s) :
    OutKeeps r (execResumeBlock l b s) := by
  unfold execResumeBlock
  repeat' first
    | with_reducible assumption
    | with_reducible rfl
    | intro _
    | (with_reducible first | apply onFirst_keeps | apply passOn_keeps | apply onHolds_keeps | apply OutKeeps.next | apply Keeps.ite | apply Keeps.foldl)
    | split
    | fail_if_no_progress (with_reducible (apply Keeps.upd <;> try rfl))

theorem recordVote_keeps {s : State} (p : Nat) (c : Nat) (bad : Bool) (stop : Bool) (h : Keeps r s) :
    Keeps r (recordVote s p c bad stop) := by
  unfold recordVote
  repeat' first
    | with_reducible assumption
    | with_reducible rfl
    | intro _
    | (with_reducible first | apply Keeps.ite | apply Keeps.foldl)
    | split
    | fail_if_no_progress (with_reducible (apply Keeps.upd <;> try rfl))

theorem sendVote_keeps {s : State} (c : Nat) (bad : Bool) (h : Keeps r s) :
    Keeps r (sendVote s c bad) := by
  unfold sendVote
  repeat' first
    | with_reducible assumption
    | with_reducible rfl
    | intro _
    | (with_reducible first | apply recordVote_keeps | apply sendBlock_keeps | apply Keeps.ite | apply Keeps.foldl)
    | split
    | fail_if_no_progress (with_reducible (apply Keeps.upd <;> try rfl))

theorem sendVotes_keeps {s : State} (h : Keeps r s) :
    Keeps r (sendVotes s) := by
  unfold sendVotes
  repeat' first
    | with_reducible assumption
    | with_reducible rfl
    | intro _
    | (with_reducible first | apply onLnk_keeps | apply sendVote_keeps | apply Keeps.ite | apply Keeps.foldl)
    | split
    | fail_if_no_progress (with_reducible (apply Keeps.upd <;> try rfl))

theorem execVoteBlock_keeps (l : Fin 16) (b : CtlBlock) {s : State} (h : Keeps r s) :
    OutKeeps r (execVoteBlock l b s) := by
  unfold execVoteBlock
  repeat' first
    | with_reducible assumption
    | with_reducible rfl
    | intro _
    | (with_reducible first | apply onFirst_keeps | apply recordVote_keeps | apply passOn_keeps | apply OutKeeps.next | apply Keeps.ite | apply Keeps.foldl)
    | split
    | fail_if_no_progress (with_reducible (apply Keeps.upd <;> try rfl))

theorem sendCommit_keeps {s : State} (c : Nat) (h : Keeps r s) :
    Keeps r (sendCommit s c) := by
  unfold sendCommit
  repeat' first
    | with_reducible assumption
    | with_reducible rfl
    | intro _
    | (with_reducible first | apply sendBlock_keeps | apply Keeps.ite | apply Keeps.foldl)
    | split
    | fail_if_no_progress (with_reducible (apply Keeps.upd <;> try rfl))

theorem execCommitBlock_keeps (l : Fin 16) (b : CtlBlock) {s : State} (h : Keeps r s) :
    OutKeeps r (execCommitBlock l b s) := by
  unfold execCommitBlock
  repeat' first
    | with_reducible assumption
    | with_reducible rfl
    | intro _
    | (with_reducible first | apply onFirst_keeps | apply passOn_keeps | apply OutKeeps.next | apply Keeps.ite | apply Keeps.foldl)
    | split
    | fail_if_no_progress (with_reducible (apply Keeps.upd <;> try rfl))

theorem lnkAbandon_keeps {s : State} (b : Nat) (h : Keeps r s) :
    Keeps r (lnkAbandon s b) := by
  unfold lnkAbandon
  repeat' first
    | with_reducible assumption
    | with_reducible rfl
    | intro _
    | (with_reducible first | apply onLnk_keeps | apply Keeps.ite | apply Keeps.foldl)
    | split
    | fail_if_no_progress (with_reducible (apply Keeps.upd <;> try rfl))

theorem startReport_keeps {s : State} (p : Nat) (h : Keeps r s) :
    Keeps r (startReport s p) := by
  unfold startReport
  repeat' first
    | with_reducible assumption
    | with_reducible rfl
    | intro _
    | (with_reducible first | apply onLnk_keeps | apply setB_keeps | apply emit_keeps | apply Keeps.ite | apply Keeps.foldl)
    | split
    | fail_if_no_progress (with_reducible (apply Keeps.upd <;> try rfl))

theorem execStartReadyBlock_keeps (l : Fin 16) (b : CtlBlock) {s : State} (h : Keeps r s) :
    OutKeeps r (execStartReadyBlock l b s) := by
  unfold execStartReadyBlock
  repeat' first
    | with_reducible assumption
    | with_reducible rfl
    | intro _
    | (with_reducible first | apply onFirst_keeps | apply startReport_keeps | apply passOn_keeps | apply OutKeeps.next | apply Keeps.ite | apply Keeps.foldl)
    | split
    | fail_if_no_progress (with_reducible (apply Keeps.upd <;> try rfl))

theorem sendStartReady_keeps {s : State} (h : Keeps r s) :
    Keeps r (sendStartReady s) := by
  unfold sendStartReady
  repeat' first
    | with_reducible assumption
    | with_reducible rfl
    | intro _
    | (with_reducible first | apply onLnk_keeps | apply startReport_keeps | apply sendBlock_keeps | apply Keeps.ite | apply Keeps.foldl)
    | split
    | fail_if_no_progress (with_reducible (apply Keeps.upd <;> try rfl))

theorem idleIn_keeps {s : State} (l : Nat) (ct : Nat) (b : CtlBlock) (h : Keeps r s) :
    Keeps r (idleIn s l ct b) := by
  unfold idleIn
  repeat' first
    | with_reducible assumption
    | with_reducible rfl
    | intro _
    | (with_reducible first | apply onLink_keeps | apply setB_keeps | apply Keeps.ite | apply Keeps.foldl)
    | split
    | fail_if_no_progress (with_reducible (apply Keeps.upd <;> try rfl))

theorem execIdleBlock_keeps (l : Fin 16) (b : CtlBlock) {s : State} (h : Keeps r s) :
    OutKeeps r (execIdleBlock l b s) := by
  unfold execIdleBlock
  repeat' first
    | with_reducible assumption
    | with_reducible rfl
    | intro _
    | (with_reducible first | apply idleIn_keeps | apply OutKeeps.next | apply Keeps.ite | apply Keeps.foldl)
    | split
    | fail_if_no_progress (with_reducible (apply Keeps.upd <;> try rfl))

theorem execTrackBlock_keeps (l : Fin 16) (b : CtlBlock) {s : State} (h : Keeps r s) :
    OutKeeps r (execTrackBlock l b s) := by
  unfold execTrackBlock
  repeat' first
    | with_reducible assumption
    | with_reducible rfl
    | intro _
    | (with_reducible first | apply idleIn_keeps | apply OutKeeps.next | apply Keeps.ite | apply Keeps.foldl)
    | split
    | fail_if_no_progress (with_reducible (apply Keeps.upd <;> try rfl))

theorem execAdaptationFreeze_keeps (l : Fin 16) {s : State} (h : Keeps r s) :
    OutKeeps r (execAdaptationFreeze l s) := by
  unfold execAdaptationFreeze
  repeat' first
    | with_reducible assumption
    | with_reducible rfl
    | intro _
    | (with_reducible first | apply onLink_keeps | apply OutKeeps.next | apply Keeps.ite | apply Keeps.foldl)
    | split
    | fail_if_no_progress (with_reducible (apply Keeps.upd <;> try rfl))

theorem judgeGraph_keeps {s : State} (h : Keeps r s) :
    Keeps r (judgeGraph s) := by
  unfold judgeGraph
  repeat' first
    | with_reducible assumption
    | with_reducible rfl
    | intro _
    | (with_reducible first | apply setF_keeps | apply onLnk_keeps | apply holdDevice_keeps | apply Keeps.ite | apply Keeps.foldl)
    | split
    | fail_if_no_progress (with_reducible (apply Keeps.upd <;> try rfl))

theorem leaveActive_keeps {s : State} (l : Nat) (stage : Nat) (deep : Bool) (h : Keeps r s) :
    Keeps r (leaveActive s l stage deep) := by
  unfold leaveActive
  repeat' first
    | with_reducible assumption
    | with_reducible rfl
    | intro _
    | (with_reducible first | apply setFBit_keeps | apply setF_keeps | apply setB_keeps | apply bumpF_keeps | apply judgeGraph_keeps | apply onLnk_keeps | apply Keeps.ite | apply Keeps.foldl)
    | split
    | fail_if_no_progress (with_reducible (apply Keeps.upd <;> try rfl))

theorem retrainLink_keeps {s : State} (l : Nat) (h : Keeps r s) :
    Keeps r (retrainLink s l) := by
  unfold retrainLink
  repeat' first
    | with_reducible assumption
    | with_reducible rfl
    | intro _
    | (with_reducible first | apply onLink_keeps | apply leaveActive_keeps | apply Keeps.ite | apply Keeps.foldl)
    | split
    | fail_if_no_progress (with_reducible (apply Keeps.upd <;> try rfl))

theorem driveFrame_keeps {s : State} (l : Nat) (f : TxFrame) (h : Keeps r s) :
    Keeps r (driveFrame s l f) := by
  unfold driveFrame
  repeat' first
    | with_reducible assumption
    | with_reducible rfl
    | intro _
    | (with_reducible first | apply emit_keeps | apply onLink_keeps | apply Keeps.ite | apply Keeps.foldl)
    | split
    | fail_if_no_progress (with_reducible (apply Keeps.upd <;> try rfl))

theorem replayFrames_keeps {s : State} (l : Nat) (h : Keeps r s) :
    Keeps r (replayFrames s l) := by
  unfold replayFrames
  repeat' first
    | with_reducible assumption
    | with_reducible rfl
    | intro _
    | (with_reducible first | apply driveFrame_keeps | apply bumpF_keeps | apply onLink_keeps | apply retrainLink_keeps | apply Keeps.ite | apply Keeps.foldl)
    | split
    | fail_if_no_progress (with_reducible (apply Keeps.upd <;> try rfl))

theorem takeAck_keeps {s : State} (l : Nat) (ack : Nat) (nak : Bool) (h : Keeps r s) :
    Keeps r (takeAck s l ack nak) := by
  unfold takeAck
  repeat' first
    | with_reducible assumption
    | with_reducible rfl
    | intro _
    | (with_reducible first | apply onLink_keeps | apply replayFrames_keeps | apply Keeps.ite | apply Keeps.foldl)
    | split
    | fail_if_no_progress (with_reducible (apply Keeps.upd <;> try rfl))

theorem execAckBlock_keeps (l : Fin 16) (b : CtlBlock) {s : State} (h : Keeps r s) :
    OutKeeps r (execAckBlock l b s) := by
  unfold execAckBlock
  repeat' first
    | with_reducible assumption
    | with_reducible rfl
    | intro _
    | (with_reducible first | apply onFirst_keeps | apply takeAck_keeps | apply OutKeeps.next | apply Keeps.ite | apply Keeps.foldl)
    | split
    | fail_if_no_progress (with_reducible (apply Keeps.upd <;> try rfl))

theorem execLinkReplayTimeout_keeps (l : Fin 16) {s : State} (h : Keeps r s) :
    OutKeeps r (execLinkReplayTimeout l s) := by
  unfold execLinkReplayTimeout
  repeat' first
    | with_reducible assumption
    | with_reducible rfl
    | intro _
    | (with_reducible first | apply replayFrames_keeps | apply OutKeeps.next | apply Keeps.ite | apply Keeps.foldl)
    | split
    | fail_if_no_progress (with_reducible (apply Keeps.upd <;> try rfl))

theorem askReplay_keeps {s : State} (l : Nat) (h : Keeps r s) :
    Keeps r (askReplay s l) := by
  unfold askReplay
  repeat' first
    | with_reducible assumption
    | with_reducible rfl
    | intro _
    | (with_reducible first | apply onLink_keeps | apply Keeps.ite | apply Keeps.foldl)
    | split
    | fail_if_no_progress (with_reducible (apply Keeps.upd <;> try rfl))

theorem sendNak_keeps {s : State} (l : Nat) (h : Keeps r s) :
    Keeps r (sendNak s l) := by
  unfold sendNak
  repeat' first
    | with_reducible assumption
    | with_reducible rfl
    | intro _
    | (with_reducible first | apply sendBlock_keeps | apply onLink_keeps | apply Keeps.ite | apply Keeps.foldl)
    | split
    | fail_if_no_progress (with_reducible (apply Keeps.upd <;> try rfl))

theorem ackFrame_keeps {s : State} (l : Nat) (h : Keeps r s) :
    Keeps r (ackFrame s l) := by
  unfold ackFrame
  repeat' first
    | with_reducible assumption
    | with_reducible rfl
    | intro _
    | (with_reducible first | apply sendBlock_keeps | apply Keeps.ite | apply Keeps.foldl)
    | split
    | fail_if_no_progress (with_reducible (apply Keeps.upd <;> try rfl))

theorem queueEntry_keeps {s : State} (src : Nat) (dest : Nat) (tag : Nat) (item : Nat) (h : Keeps r s) :
    Keeps r (queueEntry s src dest tag item) := by
  unfold queueEntry
  repeat' first
    | with_reducible assumption
    | with_reducible rfl
    | intro _
    | (with_reducible first | apply onLink_keeps | apply wakeLink_keeps | apply Keeps.ite | apply Keeps.foldl)
    | split
    | fail_if_no_progress (with_reducible (apply Keeps.upd <;> try rfl))

theorem takeEntries_keeps {s : State} (f : LinkFrame) (h : Keeps r s) :
    Keeps r (takeEntries s f) := by
  unfold takeEntries
  repeat' first
    | with_reducible assumption
    | with_reducible rfl
    | intro _
    | (with_reducible first | apply deliverEntry_keeps | apply queueEntry_keeps | apply Keeps.ite | apply Keeps.foldl)
    | split
    | fail_if_no_progress (with_reducible (apply Keeps.upd <;> try rfl))

theorem queueMgmt_keeps {s : State} (l dest : Nat) (h : Keeps r s) : Keeps r (queueMgmt s l dest) := by
  unfold queueMgmt
  exact onLink_keeps _ _ (wakeLink_keeps _ (Keeps.draw h 16))

theorem sendMgmt_keeps {s : State} (dest : Nat) (h : Keeps r s) :
    Keeps r (sendMgmt s dest) := by
  unfold sendMgmt
  repeat' first
    | with_reducible assumption
    | with_reducible rfl
    | intro _
    | (with_reducible first | apply queueMgmt_keeps | apply Keeps.ite | apply Keeps.foldl)
    | split
    | fail_if_no_progress (with_reducible (apply Keeps.upd <;> try rfl))

theorem takeWords_keeps {s : State} (f : LinkFrame) (h : Keeps r s) :
    Keeps r (takeWords s f) := by
  unfold takeWords
  repeat' first
    | with_reducible assumption
    | with_reducible rfl
    | intro _
    | (with_reducible first | apply onLnk_keeps | apply onLink_keeps | apply wakeLink_keeps | apply Keeps.ite | apply Keeps.foldl)
    | split
    | fail_if_no_progress (with_reducible (apply Keeps.upd <;> try rfl))

theorem frameIn__keeps {s : State} (l : Nat) (mgmt : Bool) (f : LinkFrame) {k : State → State} (h : Keeps r s) (h_k : ∀ t, Keeps r t → Keeps r (k t)) :
    Keeps r (frameIn_ s l mgmt f k) := by
  unfold frameIn_
  repeat' first
    | with_reducible assumption
    | with_reducible rfl
    | intro _
    | (with_reducible first | apply h_k | apply onLink_keeps | apply setB_keeps | apply askReplay_keeps | apply bumpF_keeps | apply retrainLink_keeps | apply sendNak_keeps | apply takeAck_keeps | apply ackFrame_keeps | apply Keeps.ite | apply Keeps.foldl)
    | split
    | fail_if_no_progress (with_reducible (apply Keeps.upd <;> try rfl))

theorem execDataFrame_keeps (l : Fin 16) (f : LinkFrame) {s : State} (h : Keeps r s) :
    OutKeeps r (execDataFrame l f s) := by
  unfold execDataFrame
  repeat' first
    | with_reducible assumption
    | with_reducible rfl
    | intro _
    | (with_reducible first | apply frameIn__keeps | apply takeEntries_keeps | apply OutKeeps.next | apply Keeps.ite | apply Keeps.foldl)
    | split
    | fail_if_no_progress (with_reducible (apply Keeps.upd <;> try rfl))

theorem sendFrame_keeps {s : State} (l : Nat) (mgmt : Bool) (src : Nat) (dest : Nat) (base : Nat) (items : List Nat) (h : Keeps r s) :
    Keeps r (sendFrame s l mgmt src dest base items) := by
  unfold sendFrame
  repeat' first
    | with_reducible assumption
    | with_reducible rfl
    | intro _
    | (with_reducible first | apply onLink_keeps | apply driveFrame_keeps | apply Keeps.ite | apply Keeps.foldl)
    | split
    | fail_if_no_progress (with_reducible (apply Keeps.upd <;> try rfl))

theorem idleLink_keeps {s : State} (l : Nat) (h : Keeps r s) :
    Keeps r (idleLink s l) := by
  unfold idleLink
  repeat' first
    | with_reducible assumption
    | with_reducible rfl
    | intro _
    | (with_reducible first | apply sendNak_keeps | apply sendTrack_keeps | apply sendOnce_keeps | apply onLink_keeps | apply Keeps.ite | apply Keeps.foldl)
    | split
    | fail_if_no_progress (with_reducible (apply Keeps.upd <;> try rfl))

theorem pumpLink_keeps {s : State} (l : Nat) (h : Keeps r s) :
    Keeps r (pumpLink s l) := by
  unfold pumpLink
  repeat' first
    | with_reducible assumption
    | with_reducible rfl
    | intro _
    | (with_reducible first | apply onLink_keeps | apply sendFrame_keeps | apply idleLink_keeps | apply Keeps.ite | apply Keeps.foldl)
    | split
    | fail_if_no_progress (with_reducible (apply Keeps.upd <;> try rfl))

theorem linkForward_keeps {s : State} (d : Nat) (c : Nat) (sigma : Nat) (v : Bool) (h : Keeps r s) :
    Keeps r (linkForward s d c sigma v) := by
  unfold linkForward
  repeat' first
    | with_reducible assumption
    | with_reducible rfl
    | intro _
    | (with_reducible first | apply queueEntry_keeps | apply bumpF_keeps | apply Keeps.ite | apply Keeps.foldl)
    | split
    | fail_if_no_progress (with_reducible (apply Keeps.upd <;> try rfl))

theorem execExchangeBlock_keeps (l : Fin 16) (part : Fin 4) (b : CtlBlock) {s : State} (h : Keeps r s) :
    OutKeeps r (execExchangeBlock l part b s) := by
  unfold execExchangeBlock
  repeat' first
    | with_reducible assumption
    | with_reducible rfl
    | intro _
    | (with_reducible first | apply onFirst_keeps | apply onLink_keeps | apply setF_keeps | apply OutKeeps.next | apply Keeps.ite | apply Keeps.foldl)
    | split
    | fail_if_no_progress (with_reducible (apply Keeps.upd <;> try rfl))

theorem execMeasureBlock_keeps (l : Fin 16) (b : CtlBlock) {s : State} (h : Keeps r s) :
    OutKeeps r (execMeasureBlock l b s) := by
  unfold execMeasureBlock
  repeat' first
    | with_reducible assumption
    | with_reducible rfl
    | intro _
    | (with_reducible first | apply onFirst_keeps | apply sendOnce_keeps | apply OutKeeps.next | apply Keeps.ite | apply Keeps.foldl)
    | split
    | fail_if_no_progress (with_reducible (apply Keeps.upd <;> try rfl))

theorem execEchoBlock_keeps (l : Fin 16) (b : CtlBlock) {s : State} (h : Keeps r s) :
    OutKeeps r (execEchoBlock l b s) := by
  unfold execEchoBlock
  repeat' first
    | with_reducible assumption
    | with_reducible rfl
    | intro _
    | (with_reducible first | apply onFirst_keeps | apply onLink_keeps | apply OutKeeps.next | apply Keeps.ite | apply Keeps.foldl)
    | split
    | fail_if_no_progress (with_reducible (apply Keeps.upd <;> try rfl))

theorem trainLanes_keeps {s t : State} {l : Nat} {codes : List (BitVec 4 × Byte)} (e : trainLanes s l codes = some t)
    (h : Keeps r s) : Keeps r t := by
  unfold trainLanes at e
  extract_lets at e
  split at e
  · cases e
    exact Keeps.foldl (fun t i ht => setF_keeps (setF_keeps ht _ _) _ _) h
  · cases e

theorem becomeActive_keeps {s : State} (l : Nat) (h : Keeps r s) :
    Keeps r (becomeActive s l) := by
  unfold becomeActive
  repeat' first
    | with_reducible assumption
    | with_reducible rfl
    | intro _
    | (with_reducible first | apply setFBit_keeps | apply setF_keeps | apply judgeGraph_keeps | apply onLnk_keeps | apply onLink_keeps | apply putBlock_keeps | apply driveFrame_keeps | apply Keeps.ite | apply Keeps.foldl)
    | split
    | fail_if_no_progress (with_reducible (apply Keeps.upd <;> try rfl))

theorem breachLink_keeps {s : State} (l : Nat) (h : Keeps r s) :
    Keeps r (breachLink s l) := by
  unfold breachLink
  repeat' first
    | with_reducible assumption
    | with_reducible rfl
    | intro _
    | (with_reducible first | apply onLink_keeps | apply setB_keeps | apply Keeps.ite | apply Keeps.foldl)
    | split
    | fail_if_no_progress (with_reducible (apply Keeps.upd <;> try rfl))

theorem endMeasure_keeps {s : State} (l : Nat) (farTrip : Nat) (h : Keeps r s) :
    Keeps r (endMeasure s l farTrip) := by
  unfold endMeasure
  repeat' first
    | with_reducible assumption
    | with_reducible rfl
    | intro _
    | (with_reducible first | apply breachLink_keeps | apply onLink_keeps | apply becomeActive_keeps | apply setF_keeps | apply Keeps.ite | apply Keeps.foldl)
    | split
    | fail_if_no_progress (with_reducible (apply Keeps.upd <;> try rfl))

theorem stagePass_keeps {s : State} (l : Nat) (codes : List (BitVec 4 × Byte)) (farTrip : Nat) (h : Keeps r s) :
    Keeps r (stagePass s l codes farTrip) := by
  unfold stagePass
  repeat' first
    | with_reducible assumption
    | with_reducible rfl
    | intro _
    | extract_lets
    | (with_reducible first | apply trainLanes_keeps (by assumption) | apply setF_keeps | apply onLink_keeps | apply sendOnce_keeps | apply endMeasure_keeps | apply Keeps.ite | apply Keeps.foldl)
    | split
    | fail_if_no_progress (with_reducible (apply Keeps.upd <;> try rfl))
    | dsimp +zetaDelta only

theorem execLinkStagePass_keeps (l : Fin 16) (f : StageFinds) {s : State} (h : Keeps r s) :
    OutKeeps r (execLinkStagePass l f s) := by
  unfold execLinkStagePass
  repeat' first
    | with_reducible assumption
    | with_reducible rfl
    | intro _
    | (with_reducible first | apply stagePass_keeps | apply OutKeeps.next | apply Keeps.ite | apply Keeps.foldl)
    | split
    | fail_if_no_progress (with_reducible (apply Keeps.upd <;> try rfl))

theorem execLinkStageTimeout_keeps (l : Fin 16) {s : State} (h : Keeps r s) :
    OutKeeps r (execLinkStageTimeout l s) := by
  unfold execLinkStageTimeout
  repeat' first
    | with_reducible assumption
    | with_reducible rfl
    | intro _
    | (with_reducible first | apply setF_keeps | apply bumpF_keeps | apply OutKeeps.next | apply Keeps.ite | apply Keeps.foldl)
    | split
    | fail_if_no_progress (with_reducible (apply Keeps.upd <;> try rfl))

theorem useSpare_keeps {s : State} (l : Nat) (k : Nat) (skew : Nat) (h : Keeps r s) :
    Keeps r (useSpare s l k skew) := by
  unfold useSpare
  repeat' first
    | with_reducible assumption
    | with_reducible rfl
    | intro _
    | (with_reducible first | apply setF_keeps | apply setB_keeps | apply breachLink_keeps | apply leaveActive_keeps | apply Keeps.ite | apply Keeps.foldl)
    | split
    | fail_if_no_progress (with_reducible (apply Keeps.upd <;> try rfl))

theorem execLaneFailing_keeps (l : Fin 16) (k : BitVec 4) (f : LaneFault) {s : State} (h : Keeps r s) :
    OutKeeps r (execLaneFailing l k f s) := by
  unfold execLaneFailing
  repeat' first
    | with_reducible assumption
    | with_reducible rfl
    | intro _
    | (with_reducible first | apply bumpF_keeps | apply useSpare_keeps | apply sendBlock_keeps | apply retrainLink_keeps | apply OutKeeps.next | apply Keeps.ite | apply Keeps.foldl)
    | split
    | fail_if_no_progress (with_reducible (apply Keeps.upd <;> try rfl))

theorem execSpareSwitchBlock_keeps (l : Fin 16) (b : SpareSwitch) {s : State} (h : Keeps r s) :
    OutKeeps r (execSpareSwitchBlock l b s) := by
  unfold execSpareSwitchBlock
  repeat' first
    | with_reducible assumption
    | with_reducible rfl
    | intro _
    | (with_reducible first | apply onFirst_keeps | apply useSpare_keeps | apply OutKeeps.next | apply Keeps.ite | apply Keeps.foldl)
    | split
    | fail_if_no_progress (with_reducible (apply Keeps.upd <;> try rfl))

theorem execDozeEntry_keeps (e : LinkEnd) {s : State} (h : Keeps r s) :
    OutKeeps r (execDozeEntry e s) := by
  unfold execDozeEntry
  repeat' first
    | with_reducible assumption
    | with_reducible rfl
    | intro _
    | (with_reducible first | apply setB_keeps | apply OutKeeps.next | apply Keeps.ite | apply Keeps.foldl)
    | split
    | fail_if_no_progress (with_reducible (apply Keeps.upd <;> try rfl))

theorem execDozeExit_keeps (e : LinkEnd) {s : State} (h : Keeps r s) :
    OutKeeps r (execDozeExit e s) := by
  unfold execDozeExit
  repeat' first
    | with_reducible assumption
    | with_reducible rfl
    | intro _
    | (with_reducible first | apply setB_keeps | apply leaveDoze_keeps | apply OutKeeps.next | apply Keeps.ite | apply Keeps.foldl)
    | split
    | fail_if_no_progress (with_reducible (apply Keeps.upd <;> try rfl))

theorem enterDeep_keeps {s : State} (l : Nat) (h : Keeps r s) :
    Keeps r (enterDeep s l) := by
  unfold enterDeep
  repeat' first
    | with_reducible assumption
    | with_reducible rfl
    | intro _
    | (with_reducible first | apply onLink_keeps | apply setB_keeps | apply leaveActive_keeps | apply Keeps.ite | apply Keeps.foldl)
    | split
    | fail_if_no_progress (with_reducible (apply Keeps.upd <;> try rfl))

theorem dropDeep_keeps {s : State} (l : Nat) (h : Keeps r s) :
    Keeps r (dropDeep s l) := by
  unfold dropDeep
  repeat' first
    | with_reducible assumption
    | with_reducible rfl
    | intro _
    | (with_reducible first | apply onLink_keeps | apply setB_keeps | apply Keeps.ite | apply Keeps.foldl)
    | split
    | fail_if_no_progress (with_reducible (apply Keeps.upd <;> try rfl))

theorem leaveDeep_keeps {s : State} (l : Nat) (h : Keeps r s) :
    Keeps r (leaveDeep s l) := by
  unfold leaveDeep
  repeat' first
    | with_reducible assumption
    | with_reducible rfl
    | intro _
    | (with_reducible first | apply wakeLink_keeps | apply dropDeep_keeps | apply Keeps.ite | apply Keeps.foldl)
    | split
    | fail_if_no_progress (with_reducible (apply Keeps.upd <;> try rfl))

theorem leaveAllDeep_keeps {s : State} (h : Keeps r s) :
    Keeps r (leaveAllDeep s) := by
  unfold leaveAllDeep
  repeat' first
    | with_reducible assumption
    | with_reducible rfl
    | intro _
    | (with_reducible first | apply leaveDeep_keeps | apply Keeps.ite | apply Keeps.foldl)
    | split
    | fail_if_no_progress (with_reducible (apply Keeps.upd <;> try rfl))

theorem execDeepReqBlock_keeps (l : Fin 16) (b : CtlBlock) {s : State} (h : Keeps r s) :
    OutKeeps r (execDeepReqBlock l b s) := by
  unfold execDeepReqBlock
  repeat' first
    | with_reducible assumption
    | with_reducible rfl
    | intro _
    | (with_reducible first | apply onFirst_keeps | apply enterDeep_keeps | apply sendBlock_keeps | apply OutKeeps.next | apply Keeps.ite | apply Keeps.foldl)
    | split
    | fail_if_no_progress (with_reducible (apply Keeps.upd <;> try rfl))

theorem execDeepAckBlock_keeps (l : Fin 16) (b : CtlBlock) {s : State} (h : Keeps r s) :
    OutKeeps r (execDeepAckBlock l b s) := by
  unfold execDeepAckBlock
  repeat' first
    | with_reducible assumption
    | with_reducible rfl
    | intro _
    | (with_reducible first | apply onFirst_keeps | apply enterDeep_keeps | apply dropDeep_keeps | apply OutKeeps.next | apply Keeps.ite | apply Keeps.foldl)
    | split
    | fail_if_no_progress (with_reducible (apply Keeps.upd <;> try rfl))

theorem linkCtrlWrite_keeps {s : State} (l : Nat) (v : Nat) (h : Keeps r s) :
    Keeps r (linkCtrlWrite s l v) := by
  unfold linkCtrlWrite
  repeat' first
    | with_reducible assumption
    | with_reducible rfl
    | intro _
    | (with_reducible first | apply setB_keeps | apply sendBlock_keeps | apply onLink_keeps | apply leaveDeep_keeps | apply retrainLink_keeps | apply Keeps.ite | apply Keeps.foldl)
    | split
    | fail_if_no_progress (with_reducible (apply Keeps.upd <;> try rfl))

theorem execDeep_keeps (l : Fin 16) (value : Word) {s : State} (h : Keeps r s) :
    OutKeeps r (execDeep l value s) := by
  unfold execDeep
  repeat' first
    | with_reducible assumption
    | with_reducible rfl
    | intro _
    | (with_reducible first | apply linkCtrlWrite_keeps | apply OutKeeps.next | apply Keeps.ite | apply Keeps.foldl)
    | split
    | fail_if_no_progress (with_reducible (apply Keeps.upd <;> try rfl))

theorem execRetrain_keeps (l : Fin 16) (value : Word) {s : State} (h : Keeps r s) :
    OutKeeps r (execRetrain l value s) := by
  unfold execRetrain
  repeat' first
    | with_reducible assumption
    | with_reducible rfl
    | intro _
    | (with_reducible first | apply linkCtrlWrite_keeps | apply OutKeeps.next | apply Keeps.ite | apply Keeps.foldl)
    | split
    | fail_if_no_progress (with_reducible (apply Keeps.upd <;> try rfl))

theorem execDeepAckTimeout_keeps (l : Fin 16) {s : State} (h : Keeps r s) :
    OutKeeps r (execDeepAckTimeout l s) := by
  unfold execDeepAckTimeout
  repeat' first
    | with_reducible assumption
    | with_reducible rfl
    | intro _
    | (with_reducible first | apply dropDeep_keeps | apply OutKeeps.next | apply Keeps.ite | apply Keeps.foldl)
    | split
    | fail_if_no_progress (with_reducible (apply Keeps.upd <;> try rfl))

theorem execDeepExit_keeps (l : Fin 16) {s : State} (h : Keeps r s) :
    OutKeeps r (execDeepExit l s) := by
  unfold execDeepExit
  repeat' first
    | with_reducible assumption
    | with_reducible rfl
    | intro _
    | (with_reducible first | apply leaveDeep_keeps | apply OutKeeps.next | apply Keeps.ite | apply Keeps.foldl)
    | split
    | fail_if_no_progress (with_reducible (apply Keeps.upd <;> try rfl))

theorem linkCfgWrite_keeps {s : State} (l : Nat) (v : Nat) (h : Keeps r s) :
    Keeps r (linkCfgWrite s l v) := by
  unfold linkCfgWrite
  repeat' first
    | with_reducible assumption
    | with_reducible rfl
    | intro _
    | (with_reducible first | apply leaveActive_keeps | apply setB_keeps | apply onLnk_keeps | apply plainWrite_keeps | apply setF_keeps | apply Keeps.ite | apply Keeps.foldl)
    | split
    | fail_if_no_progress (with_reducible (apply Keeps.upd <;> try rfl))

theorem execLinkCfgEnable_keeps (l : Fin 16) (value : Word) {s : State} (h : Keeps r s) :
    OutKeeps r (execLinkCfgEnable l value s) := by
  unfold execLinkCfgEnable
  repeat' first
    | with_reducible assumption
    | with_reducible rfl
    | intro _
    | (with_reducible first | apply linkCfgWrite_keeps | apply OutKeeps.next | apply Keeps.ite | apply Keeps.foldl)
    | split
    | fail_if_no_progress (with_reducible (apply Keeps.upd <;> try rfl))

theorem formMachine_keeps {s : State} (g : List GraphEdge) (present : Nat) (doze : Bool) (h : Keeps r s) :
    Keeps r (formMachine s g present doze) := by
  unfold formMachine
  repeat' first
    | with_reducible assumption
    | with_reducible rfl
    | intro _
    | (with_reducible first | apply setB_keeps | apply setF_keeps | apply onLnk_keeps | apply Keeps.ite | apply Keeps.foldl)
    | split
    | fail_if_no_progress (with_reducible (apply Keeps.upd <;> try rfl))

theorem formTables_keeps {s : State} (h : Keeps r s) :
    Keeps r (formTables s) := by
  unfold formTables
  repeat' first
    | with_reducible assumption
    | with_reducible rfl
    | intro _
    | (with_reducible first | apply queueMgmt_keeps | apply Keeps.ite | apply Keeps.foldl)
    | split
    | fail_if_no_progress (with_reducible (apply Keeps.upd <;> try rfl))

theorem machineWrite_keeps {s : State} (v : Nat) (h : Keeps r s) :
    Keeps r (machineWrite s v) := by
  unfold machineWrite
  repeat' first
    | with_reducible assumption
    | with_reducible rfl
    | intro _
    | (with_reducible first | apply plainWrite_keeps | apply setF_keeps | apply setB_keeps | apply onLink_keeps | apply formMachine_keeps | apply formTables_keeps | apply onLnk_keeps | apply Keeps.ite | apply Keeps.foldl)
    | split
    | fail_if_no_progress (with_reducible (apply Keeps.upd <;> try rfl))

theorem execForm_keeps (value : Word) {s : State} (h : Keeps r s) :
    OutKeeps r (execForm value s) := by
  unfold execForm
  repeat' first
    | with_reducible assumption
    | with_reducible rfl
    | intro _
    | (with_reducible first | apply machineWrite_keeps | apply OutKeeps.next | apply Keeps.ite | apply Keeps.foldl)
    | split
    | fail_if_no_progress (with_reducible (apply Keeps.upd <;> try rfl))

theorem formFails_keeps {s : State} (reason : Nat) (conflict : Nat) (h : Keeps r s) :
    Keeps r (formFails s reason conflict) := by
  unfold formFails
  repeat' first
    | with_reducible assumption
    | with_reducible rfl
    | intro _
    | (with_reducible first | apply setF_keeps | apply setB_keeps | apply onLnk_keeps | apply Keeps.ite | apply Keeps.foldl)
    | split
    | fail_if_no_progress (with_reducible (apply Keeps.upd <;> try rfl))

theorem execFormationCheck_keeps (peers : List PeerReport) (graph : List GraphEdge) {s : State} (h : Keeps r s) :
    OutKeeps r (execFormationCheck peers graph s) := by
  unfold execFormationCheck
  repeat' first
    | with_reducible assumption
    | with_reducible rfl
    | intro _
    | (with_reducible first | apply setF_keeps | apply formFails_keeps | apply formMachine_keeps | apply OutKeeps.next | apply Keeps.ite | apply Keeps.foldl)
    | split
    | fail_if_no_progress (with_reducible (apply Keeps.upd <;> try rfl))

theorem execLinkLeavesActive_keeps (l : Fin 16) (graph : List GraphEdge) {s : State} (h : Keeps r s) :
    OutKeeps r (execLinkLeavesActive l graph s) := by
  unfold execLinkLeavesActive
  repeat' first
    | with_reducible assumption
    | with_reducible rfl
    | intro _
    | (with_reducible first | apply leaveActive_keeps | apply judgeGraph_keeps | apply onLnk_keeps | apply OutKeeps.next | apply Keeps.ite | apply Keeps.foldl)
    | split
    | fail_if_no_progress (with_reducible (apply Keeps.upd <;> try rfl))

theorem mapRead_keeps {s : State} (h : Keeps r s) :
    Keeps r (mapRead s).2 := by
  unfold mapRead
  repeat' first
    | with_reducible assumption
    | with_reducible rfl
    | intro _
    | (with_reducible first | apply wrapF_keeps | apply Keeps.ite | apply Keeps.foldl)
    | split
    | fail_if_no_progress (with_reducible (apply Keeps.upd <;> try rfl))

theorem execLnkMapDataRead_keeps {s : State} (h : Keeps r s) :
    OutKeeps r (execLnkMapDataRead s) := by
  unfold execLnkMapDataRead
  repeat' first
    | with_reducible assumption
    | with_reducible rfl
    | intro _
    | (with_reducible first | apply mapRead_keeps | apply emit_keeps | apply OutKeeps.next | apply Keeps.ite | apply Keeps.foldl)
    | split
    | fail_if_no_progress (with_reducible (apply Keeps.upd <;> try rfl))

theorem holdAnew_keeps {s : State} (h : Keeps r s) :
    Keeps r (holdAnew s) := by
  unfold holdAnew
  repeat' first
    | with_reducible assumption
    | with_reducible rfl
    | intro _
    | (with_reducible first | apply onHolds_keeps | apply onLnk_keeps | apply newHold_keeps | apply Keeps.ite | apply Keeps.foldl)
    | split
    | fail_if_no_progress (with_reducible (apply Keeps.upd <;> try rfl))

theorem holdTraffic_keeps {s : State} (h : Keeps r s) :
    Keeps r (holdTraffic s) := by
  unfold holdTraffic
  repeat' first
    | with_reducible assumption
    | with_reducible rfl
    | intro _
    | (with_reducible first | apply onLnk_keeps | apply holdAnew_keeps | apply sendHold_keeps | apply rootResume_keeps | apply onHolds_keeps | apply sendBlock_keeps | apply Keeps.ite | apply Keeps.foldl)
    | split
    | fail_if_no_progress (with_reducible (apply Keeps.upd <;> try rfl))

theorem linksTick_keeps {s : State} (h : Keeps r s) :
    Keeps r (linksTick s) := by
  unfold linksTick
  repeat' first
    | with_reducible assumption
    | with_reducible rfl
    | intro _
    | (with_reducible first | apply onLnk_keeps | apply sendVotes_keeps | apply sendStartReady_keeps | apply holdTraffic_keeps | apply pumpLink_keeps | apply Keeps.ite | apply Keeps.foldl)
    | split
    | fail_if_no_progress (with_reducible (apply Keeps.upd <;> try rfl))

end Sys2Proof.Machine
end

