-- ==== Sys2Proof/Laws/KeepsHbm.lean ====
section
/-! SUPPORT. What the operations of Machine/Hbm.lean keep. -/

namespace Sys2Proof.Machine

variable {r : State}

set_option linter.unusedTactic false
set_option linter.unreachableTactic false

theorem winCtrlWrite_keeps {s : State} (n : Nat) (v : Nat) (h : Keeps r s) :
    Keeps r (winCtrlWrite s n v) := by
  unfold winCtrlWrite
  repeat' first
    | with_reducible assumption
    | with_reducible rfl
    | intro _
    | (with_reducible first | apply setB_keeps | apply showDegraded_keeps | apply plainWrite_keeps | apply Keeps.ite | apply Keeps.foldl)
    | split
    | fail_if_no_progress (with_reducible (apply Keeps.upd <;> try rfl))

theorem winCfgWrite_keeps {s : State} (a : Nat) (v : Nat) (h : Keeps r s) :
    Keeps r (winCfgWrite s a v) := by
  unfold winCfgWrite
  repeat' first
    | with_reducible assumption
    | with_reducible rfl
    | intro _
    | (with_reducible first | apply showDegraded_keeps | apply plainWrite_keeps | apply Keeps.ite | apply Keeps.foldl)
    | split
    | fail_if_no_progress (with_reducible (apply Keeps.upd <;> try rfl))

theorem execWindowEnable_keeps (n : Fin 16) (value : Word) {s : State} (h : Keeps r s) :
    OutKeeps r (execWindowEnable n value s) := by
  unfold execWindowEnable
  repeat' first
    | with_reducible assumption
    | with_reducible rfl
    | intro _
    | (with_reducible first | apply winCtrlWrite_keeps | apply OutKeeps.next | apply Keeps.ite | apply Keeps.foldl)
    | split
    | fail_if_no_progress (with_reducible (apply Keeps.upd <;> try rfl))

theorem pcFailedWrite_keeps {s : State} (m : Nat) (v : Nat) (h : Keeps r s) :
    Keeps r (pcFailedWrite s m v) := by
  unfold pcFailedWrite
  repeat' first
    | with_reducible assumption
    | with_reducible rfl
    | intro _
    | (with_reducible first | apply showDegraded_keeps | apply setFBit_keeps | apply Keeps.ite | apply Keeps.foldl)
    | split
    | fail_if_no_progress (with_reducible (apply Keeps.upd <;> try rfl))

theorem execPcFailedWrite_keeps (m : Fin 4) (value : Word) {s : State} (h : Keeps r s) :
    OutKeeps r (execPcFailedWrite m value s) := by
  unfold execPcFailedWrite
  repeat' first
    | with_reducible assumption
    | with_reducible rfl
    | intro _
    | (with_reducible first | apply pcFailedWrite_keeps | apply OutKeeps.next | apply Keeps.ite | apply Keeps.foldl)
    | split
    | fail_if_no_progress (with_reducible (apply Keeps.upd <;> try rfl))

theorem refreshCtrlWrite_keeps {s : State} (v : Nat) (h : Keeps r s) :
    Keeps r (refreshCtrlWrite s v) := by
  unfold refreshCtrlWrite
  repeat' first
    | with_reducible assumption
    | with_reducible rfl
    | intro _
    | (with_reducible first | apply setB_keeps | apply setF_keeps | apply onHbm_keeps | apply Keeps.ite | apply Keeps.foldl)
    | split
    | fail_if_no_progress (with_reducible (apply Keeps.upd <;> try rfl))

theorem execRefresh_keeps {s : State} (h : Keeps r s) :
    OutKeeps r (execRefresh s) := by
  unfold execRefresh
  repeat' first
    | with_reducible assumption
    | with_reducible rfl
    | intro _
    | (with_reducible first | apply wrapF_keeps | apply onHbm_keeps | apply setB_keeps | apply OutKeeps.next | apply Keeps.ite | apply Keeps.foldl)
    | split
    | fail_if_no_progress (with_reducible (apply Keeps.upd <;> try rfl))

theorem phyWrite_keeps {s : State} (v : Nat) (h : Keeps r s) :
    Keeps r (phyWrite s v) := by
  unfold phyWrite
  repeat' first
    | with_reducible assumption
    | with_reducible rfl
    | intro _
    | (with_reducible first | apply setF_keeps | apply wrapF_keeps | apply Keeps.ite | apply Keeps.foldl)
    | split
    | fail_if_no_progress (with_reducible (apply Keeps.upd <;> try rfl))

theorem phyRead_keeps {s : State} (h : Keeps r s) :
    Keeps r (phyRead s).2 := by
  unfold phyRead
  repeat' first
    | with_reducible assumption
    | with_reducible rfl
    | intro _
    | (with_reducible first | apply wrapF_keeps | apply Keeps.ite | apply Keeps.foldl)
    | split
    | fail_if_no_progress (with_reducible (apply Keeps.upd <;> try rfl))

theorem execPhyDataAccess_keeps (write : Option Word) {s : State} (h : Keeps r s) :
    OutKeeps r (execPhyDataAccess write s) := by
  unfold execPhyDataAccess
  repeat' first
    | with_reducible assumption
    | with_reducible rfl
    | intro _
    | (with_reducible first | apply phyWrite_keeps | apply phyRead_keeps | apply emit_keeps | apply OutKeeps.next | apply Keeps.ite | apply Keeps.foldl)
    | split
    | fail_if_no_progress (with_reducible (apply Keeps.upd <;> try rfl))

theorem applyStack_keeps {s : State} (i : Nat) (pass : Bool) (h : Keeps r s) :
    Keeps r (applyStack s i pass) := by
  unfold applyStack
  repeat' first
    | with_reducible assumption
    | with_reducible rfl
    | intro _
    | (with_reducible first | apply onHbm_keeps | apply setFBit_keeps | apply Keeps.ite | apply Keeps.foldl)
    | split
    | fail_if_no_progress (with_reducible (apply Keeps.upd <;> try rfl))

theorem phyCtrlWrite_keeps {s : State} (v : Nat) (pass : Nat) (h : Keeps r s) :
    Keeps r (phyCtrlWrite s v pass) := by
  unfold phyCtrlWrite
  repeat' first
    | with_reducible assumption
    | with_reducible rfl
    | intro _
    | (with_reducible first | apply applyStack_keeps | apply Keeps.ite | apply Keeps.foldl)
    | split
    | fail_if_no_progress (with_reducible (apply Keeps.upd <;> try rfl))

theorem execApply_keeps (value : Word) (pass : BitVec 4) {s : State} (h : Keeps r s) :
    OutKeeps r (execApply value pass s) := by
  unfold execApply
  repeat' first
    | with_reducible assumption
    | with_reducible rfl
    | intro _
    | (with_reducible first | apply phyCtrlWrite_keeps | apply OutKeeps.next | apply Keeps.ite | apply Keeps.foldl)
    | split
    | fail_if_no_progress (with_reducible (apply Keeps.upd <;> try rfl))

theorem restoreWindow_keeps (t : List Nat) {s : State} (n : Nat) (h : Keeps r s) :
    Keeps r (restoreWindow t s n) := by
  unfold restoreWindow
  repeat' first
    | with_reducible assumption
    | with_reducible rfl
    | intro _
    | (with_reducible first | apply setF_keeps | apply setB_keeps | apply Keeps.ite | apply Keeps.foldl)
    | split
    | fail_if_no_progress (with_reducible (apply Keeps.upd <;> try rfl))

theorem restoreTable_keeps {s : State} (c0 : Bool) (c1 : Bool) (h : Keeps r s) :
    Keeps r (restoreTable s c0 c1) := by
  unfold restoreTable
  repeat' first
    | with_reducible assumption
    | with_reducible rfl
    | intro _
    | (with_reducible first | apply showDegraded_keeps | apply restoreWindow_keeps | apply setB_keeps | apply Keeps.ite | apply Keeps.foldl)
    | split
    | fail_if_no_progress (with_reducible (apply Keeps.upd <;> try rfl))

theorem execRestoreTable_keeps (value : Word) (copy0 : Bool) (copy1 : Bool) {s : State} (h : Keeps r s) :
    OutKeeps r (execRestoreTable value copy0 copy1 s) := by
  unfold execRestoreTable
  repeat' first
    | with_reducible assumption
    | with_reducible rfl
    | intro _
    | (with_reducible first | apply restoreTable_keeps | apply OutKeeps.next | apply Keeps.ite | apply Keeps.foldl)
    | split
    | fail_if_no_progress (with_reducible (apply Keeps.upd <;> try rfl))

theorem scrubHbm_keeps {s : State} (pc : Nat) (a : Nat) (h : Keeps r s) :
    Keeps r (scrubHbm s pc a) := by
  unfold scrubHbm
  repeat' first
    | with_reducible assumption
    | with_reducible rfl
    | intro _
    | (with_reducible first | apply onHbm_keeps | apply bumpF_keeps | apply noteUe_keeps | apply Keeps.ite | apply Keeps.foldl)
    | split
    | fail_if_no_progress (with_reducible (apply Keeps.upd <;> try rfl))

theorem execScrub_keeps (pc : Fin 128) (word : BitVec 27) (f : HbmFinds) (upset : Option (Fin 128 × BitVec 27 × Ecc)) {s : State} (h : Keeps r s) :
    OutKeeps r (execScrub pc word f upset s) := by
  unfold execScrub
  repeat' first
    | with_reducible assumption
    | with_reducible rfl
    | intro _
    | (with_reducible first | apply parityCheck_keeps | apply scrubHbm_keeps | apply upsetHbm_keeps | apply setF_keeps | apply wrapF_keeps | apply OutKeeps.next | apply Keeps.ite | apply Keeps.foldl)
    | split
    | fail_if_no_progress (with_reducible (apply Keeps.upd <;> try rfl))

end Sys2Proof.Machine
end

