-- ==== Sys2Proof/Laws/KeepsMemory.lean ====
section
/-! SUPPORT. What the operations of Machine/Memory.lean keep. -/

namespace Sys2Proof.Machine

variable {r : State}

set_option linter.unusedTactic false
set_option linter.unreachableTactic false

theorem deliverReturn_keeps {s : State} (r_ : MRead) (h : Keeps r s) :
    Keeps r (deliverReturn s r_) := by
  unfold deliverReturn
  repeat' first
    | with_reducible assumption
    | with_reducible rfl
    | intro _
    | (with_reducible first | apply onDie_keeps | apply Keeps.ite | apply Keeps.foldl)
    | split
    | fail_if_no_progress (with_reducible (apply Keeps.upd <;> try rfl))

theorem takeReturn_keeps {s : State} (r_ : MRead) (h : Keeps r s) :
    Keeps r (takeReturn s r_) := by
  unfold takeReturn
  repeat' first
    | with_reducible assumption
    | with_reducible rfl
    | intro _
    | (with_reducible first | apply bumpF_keeps | apply deliverReturn_keeps | apply Keeps.ite | apply Keeps.foldl)
    | split
    | fail_if_no_progress (with_reducible (apply Keeps.upd <;> try rfl))

theorem deliverStalled_keeps {s : State} (h : Keeps r s) :
    Keeps r (deliverStalled s) := by
  unfold deliverStalled
  repeat' first
    | with_reducible assumption
    | with_reducible rfl
    | intro _
    | (with_reducible first | apply deliverReturn_keeps | apply Keeps.ite | apply Keeps.foldl)
    | split
    | fail_if_no_progress (with_reducible (apply Keeps.upd <;> try rfl))

theorem unrecoverable_keeps {s : State} (cause : Nat) (h : Keeps r s) :
    Keeps r (unrecoverable s cause) := by
  unfold unrecoverable
  repeat' first
    | with_reducible assumption
    | with_reducible rfl
    | intro _
    | (with_reducible first | apply Keeps.ite | apply Keeps.foldl)
    | split
    | fail_if_no_progress (with_reducible (apply Keeps.upd <;> try rfl))

theorem tileRamAgain_keeps {s : State} (c : Nat) (w : Nat) (h : Keeps r s) :
    Keeps r (tileRamAgain s c w) := by
  unfold tileRamAgain
  repeat' first
    | with_reducible assumption
    | with_reducible rfl
    | intro _
    | (with_reducible first | apply onHbm_keeps | apply unrecoverable_keeps | apply Keeps.ite | apply Keeps.foldl)
    | split
    | fail_if_no_progress (with_reducible (apply Keeps.upd <;> try rfl))

theorem tileRamUe_keeps {s : State} (r_ : MRead) (h : Keeps r s) :
    Keeps r (tileRamUe s r_) := by
  unfold tileRamUe
  repeat' first
    | with_reducible assumption
    | with_reducible rfl
    | intro _
    | (with_reducible first | apply tileRamAgain_keeps | apply noteFaults_keeps | apply Keeps.ite | apply Keeps.foldl)
    | split
    | fail_if_no_progress (with_reducible (apply Keeps.upd <;> try rfl))

theorem designUe_keeps {s : State} (r_ : MRead) (x : Nat) (h : Keeps r s) :
    Keeps r (designUe s r_ x) := by
  unfold designUe
  repeat' first
    | with_reducible assumption
    | with_reducible rfl
    | intro _
    | (with_reducible first | apply onHbm_keeps | apply noteFaults_keeps | apply unrecoverable_keeps | apply Keeps.ite | apply Keeps.foldl)
    | split
    | fail_if_no_progress (with_reducible (apply Keeps.upd <;> try rfl))

theorem returnEcc_keeps {s : State} (r_ : MRead) (e : Ecc) (h : Keeps r s) :
    Keeps r (returnEcc s r_ e).1 := by
  unfold returnEcc
  repeat' first
    | with_reducible assumption
    | with_reducible rfl
    | intro _
    | extract_lets
    | (with_reducible first | apply bumpF_keeps | apply tileRamUe_keeps | apply winServe_keeps | apply upsetHbm_keeps | apply designUe_keeps | apply badNow_keeps | apply Keeps.ite | apply Keeps.foldl)
    | split
    | (refine Keeps.of_fst (by assumption) ?_)
    | (refine Keeps.of_snd (by assumption) ?_)
    | fail_if_no_progress (with_reducible (apply Keeps.upd <;> try rfl))
    | dsimp +zetaDelta only

theorem accessReturn_keeps {s : State} (r_ : MRead) (ecc : Ecc) (h : Keeps r s) :
    Keeps r (accessReturn s r_ ecc) := by
  unfold accessReturn
  repeat' first
    | with_reducible assumption
    | with_reducible rfl
    | intro _
    | (with_reducible first | apply returnEcc_keeps | apply takeReturn_keeps | apply Keeps.ite | apply Keeps.foldl)
    | split
    | fail_if_no_progress (with_reducible (apply Keeps.upd <;> try rfl))

theorem execMemoryReturn_keeps (rid : Nat) (f : HbmFinds) {s : State} (h : Keeps r s) :
    OutKeeps r (execMemoryReturn rid f s) := by
  unfold execMemoryReturn
  repeat' first
    | with_reducible assumption
    | with_reducible rfl
    | intro _
    | (with_reducible first | apply takeReturn_keeps | apply parityCheck_keeps | apply accessReturn_keeps | apply OutKeeps.next | apply Keeps.ite | apply Keeps.foldl)
    | split
    | fail_if_no_progress (with_reducible (apply Keeps.upd <;> try rfl))

theorem tileReturns_keeps {s : State} (h : Keeps r s) :
    Keeps r (tileReturns s) := by
  unfold tileReturns
  repeat' first
    | with_reducible assumption
    | with_reducible rfl
    | intro _
    | (with_reducible first | apply takeReturn_keeps | apply Keeps.ite | apply Keeps.foldl)
    | split
    | fail_if_no_progress (with_reducible (apply Keeps.upd <;> try rfl))

theorem ageReads_keeps {s : State} (h : Keeps r s) :
    Keeps r (ageReads s) := by
  unfold ageReads
  repeat' first
    | with_reducible assumption
    | with_reducible rfl
    | intro _
    | (with_reducible first | apply Keeps.ite | apply Keeps.foldl)
    | split
    | fail_if_no_progress (with_reducible (apply Keeps.upd <;> try rfl))

theorem takeLogged_keeps {s : State} (h : Keeps r s) :
    Keeps r (takeLogged s) := by
  unfold takeLogged
  repeat' first
    | with_reducible assumption
    | with_reducible rfl
    | intro _
    | (with_reducible first | apply Keeps.ite | apply Keeps.foldl)
    | split
    | fail_if_no_progress (with_reducible (apply Keeps.upd <;> try rfl))

theorem fixReads_keeps {s : State} (c : Nat) (h : Keeps r s) :
    Keeps r (fixReads s c) := by
  unfold fixReads
  repeat' first
    | with_reducible assumption
    | with_reducible rfl
    | intro _
    | (with_reducible first | apply Keeps.ite | apply Keeps.foldl)
    | split
    | fail_if_no_progress (with_reducible (apply Keeps.upd <;> try rfl))

theorem releaseWrite_keeps {s : State} (w : MWrite) (h : Keeps r s) :
    Keeps r (releaseWrite s w) := by
  unfold releaseWrite
  repeat' first
    | with_reducible assumption
    | with_reducible rfl
    | intro _
    | (with_reducible first | apply targetWrite_keeps | apply Keeps.ite | apply Keeps.foldl)
    | split
    | fail_if_no_progress (with_reducible (apply Keeps.upd <;> try rfl))

theorem memCommit_keeps {s : State} (c : Nat) (h : Keeps r s) :
    Keeps r (memCommit s c) := by
  unfold memCommit
  repeat' first
    | with_reducible assumption
    | with_reducible rfl
    | intro _
    | (with_reducible first | apply fixReads_keeps | apply releaseWrite_keeps | apply deliverStalled_keeps | apply Keeps.ite | apply Keeps.foldl)
    | split
    | fail_if_no_progress (with_reducible (apply Keeps.upd <;> try rfl))

theorem memAbandon_keeps {s : State} (nb : Nat) (replayed : Bool) (h : Keeps r s) :
    Keeps r (memAbandon s nb replayed) := by
  unfold memAbandon
  repeat' first
    | with_reducible assumption
    | with_reducible rfl
    | intro _
    | (with_reducible first | apply onHbm_keeps | apply Keeps.ite | apply Keeps.foldl)
    | split
    | fail_if_no_progress (with_reducible (apply Keeps.upd <;> try rfl))

end Sys2Proof.Machine
end

