-- ==== Sys2Proof/Laws/KeepsRegions.lean ====
section
/-! SUPPORT. What the operations of Machine/Regions.lean keep. -/

namespace Sys2Proof.Machine

variable {r : State}

set_option linter.unusedTactic false
set_option linter.unreachableTactic false

theorem keepRejoin_keeps {s : State} (k : Nat) (h : Keeps r s) :
    Keeps r (keepRejoin s k) := by
  unfold keepRejoin
  repeat' first
    | with_reducible assumption
    | with_reducible rfl
    | intro _
    | (with_reducible first | apply Keeps.ite | apply Keeps.foldl)
    | split
    | fail_if_no_progress (with_reducible (apply Keeps.upd <;> try rfl))

theorem isolateTile_keeps {s : State} (n : Nat) (j : Nat) (r_ : RegionDef) (v : Nat) (d : Fin 4) (p : Nat) (h : Keeps r s) :
    Keeps r (isolateTile s n j r_ v d p) := by
  unfold isolateTile
  repeat' first
    | with_reducible assumption
    | with_reducible rfl
    | intro _
    | (with_reducible first | apply keepRejoin_keeps | apply Keeps.ite | apply Keeps.foldl)
    | split
    | fail_if_no_progress (with_reducible (apply Keeps.upd <;> try rfl))

theorem isolateBlock_keeps {s : State} (n : Nat) (r_ : RegionDef) (x : Nat) (h : Keeps r s) :
    Keeps r (isolateBlock s n r_ x) := by
  unfold isolateBlock
  repeat' first
    | with_reducible assumption
    | with_reducible rfl
    | intro _
    | (with_reducible first | apply onHgr_keeps | apply Keeps.ite | apply Keeps.foldl)
    | split
    | fail_if_no_progress (with_reducible (apply Keeps.upd <;> try rfl))

theorem setRegionRun_keeps {s : State} (n : Nat) (r_ : Option RegionRun) (h : Keeps r s) :
    Keeps r (setRegionRun s n r_) := by
  unfold setRegionRun
  repeat' first
    | with_reducible assumption
    | with_reducible rfl
    | intro _
    | (with_reducible first | apply Keeps.ite | apply Keeps.foldl)
    | split
    | fail_if_no_progress (with_reducible (apply Keeps.upd <;> try rfl))

theorem isolateBlocks_keeps {s : State} (n : Nat) (r_ : RegionDef) (h : Keeps r s) :
    Keeps r (isolateBlocks s n r_) := by
  unfold isolateBlocks
  repeat' first
    | with_reducible assumption
    | with_reducible rfl
    | intro _
    | (with_reducible first | apply onHgr_keeps | apply isolateBlock_keeps | apply Keeps.ite | apply Keeps.foldl)
    | split
    | fail_if_no_progress (with_reducible (apply Keeps.upd <;> try rfl))

theorem holdBlocks_keeps {s : State} (h : Keeps r s) :
    Keeps r (holdBlocks s) := by
  unfold holdBlocks
  repeat' first
    | with_reducible assumption
    | with_reducible rfl
    | intro _
    | (with_reducible first | apply setRegionRun_keeps | apply isolateBlocks_keeps | apply Keeps.ite | apply Keeps.foldl)
    | split
    | fail_if_no_progress (with_reducible (apply Keeps.upd <;> try rfl))

theorem isolateRegion_keeps {s : State} (n : Nat) (h : Keeps r s) :
    Keeps r (isolateRegion s n) := by
  unfold isolateRegion
  repeat' first
    | with_reducible assumption
    | with_reducible rfl
    | intro _
    | (with_reducible first | apply isolateTile_keeps | apply holdBlocks_keeps | apply setF_keeps | apply setRegionRun_keeps | apply Keeps.ite | apply Keeps.foldl)
    | split
    | fail_if_no_progress (with_reducible (apply Keeps.upd <;> try rfl))

theorem rejoinTile_keeps {s : State} (d : Fin 4) (p : Nat) (nb : Nat) (i : IsoTile) (h : Keeps r s) :
    Keeps r (rejoinTile s d p nb i) := by
  unfold rejoinTile
  repeat' first
    | with_reducible assumption
    | with_reducible rfl
    | intro _
    | (with_reducible first | apply onDie_keeps | apply Keeps.ite | apply Keeps.foldl)
    | split
    | fail_if_no_progress (with_reducible (apply Keeps.upd <;> try rfl))

theorem rejoinBlocks_keeps {s : State} (n : Nat) (h : Keeps r s) :
    Keeps r (rejoinBlocks s n) := by
  unfold rejoinBlocks
  repeat' first
    | with_reducible assumption
    | with_reducible rfl
    | intro _
    | (with_reducible first | apply onHgr_keeps | apply Keeps.ite | apply Keeps.foldl)
    | split
    | fail_if_no_progress (with_reducible (apply Keeps.upd <;> try rfl))

theorem rejoinB0_keeps {s : State} (d : Fin 4) (k : Nat) (h : Keeps r s) :
    Keeps r (rejoinB0 s d k) := by
  unfold rejoinB0
  repeat' first
    | with_reducible assumption
    | with_reducible rfl
    | intro _
    | (with_reducible first | apply rejoinTile_keeps | apply setF_keeps | apply rejoinBlocks_keeps | apply Keeps.ite | apply Keeps.foldl)
    | split
    | fail_if_no_progress (with_reducible (apply Keeps.upd <;> try rfl))

theorem rejoinAtRest_keeps {s : State} (n : Nat) (h : Keeps r s) :
    Keeps r (rejoinAtRest s n) := by
  unfold rejoinAtRest
  repeat' first
    | with_reducible assumption
    | with_reducible rfl
    | intro _
    | (with_reducible first | apply rejoinTile_keeps | apply setF_keeps | apply rejoinBlocks_keeps | apply setRegionRun_keeps | apply Keeps.ite | apply Keeps.foldl)
    | split
    | fail_if_no_progress (with_reducible (apply Keeps.upd <;> try rfl))

theorem regionBecomesReady_keeps {s : State} (n : Nat) (h : Keeps r s) :
    Keeps r (regionBecomesReady s n) := by
  unfold regionBecomesReady
  repeat' first
    | with_reducible assumption
    | with_reducible rfl
    | intro _
    | (with_reducible first | apply setF_keeps | apply setRegionRun_keeps | apply rejoinAtRest_keeps | apply Keeps.ite | apply Keeps.foldl)
    | split
    | fail_if_no_progress (with_reducible (apply Keeps.upd <;> try rfl))

theorem regionCommit_keeps {s : State} (c : Nat) (h : Keeps r s) :
    Keeps r (regionCommit s c) := by
  unfold regionCommit
  repeat' first
    | with_reducible assumption
    | with_reducible rfl
    | intro _
    | (with_reducible first | apply Keeps.ite | apply Keeps.foldl)
    | split
    | fail_if_no_progress (with_reducible (apply Keeps.upd <;> try rfl))

theorem regionsBack_keeps {s : State} (nb : Nat) (h : Keeps r s) :
    Keeps r (regionsBack s nb) := by
  unfold regionsBack
  repeat' first
    | with_reducible assumption
    | with_reducible rfl
    | intro _
    | (with_reducible first | apply setF_keeps | apply Keeps.ite | apply Keeps.foldl)
    | split
    | fail_if_no_progress (with_reducible (apply Keeps.upd <;> try rfl))

theorem restRegions_keeps {s : State} (h : Keeps r s) :
    Keeps r (restRegions s) := by
  unfold restRegions
  repeat' first
    | with_reducible assumption
    | with_reducible rfl
    | intro _
    | (with_reducible first | apply rejoinTile_keeps | apply holdBlocks_keeps | apply rejoinAtRest_keeps | apply Keeps.ite | apply Keeps.foldl)
    | split
    | fail_if_no_progress (with_reducible (apply Keeps.upd <;> try rfl))

end Sys2Proof.Machine
end

