-- ==== Sys2Proof/Laws/KeepsBoundary.lean ====
section
/-! SUPPORT. What the operations of Machine/Boundary.lean keep. -/

namespace Sys2Proof.Machine

variable {r : State}

set_option linter.unusedTactic false
set_option linter.unreachableTactic false

theorem boundaryB0_keeps {s : State} (d : Fin 4) (c : Nat) (h : Keeps r s) :
    Keeps r (boundaryB0 s d c) := by
  unfold boundaryB0
  repeat' first
    | with_reducible assumption
    | with_reducible rfl
    | intro _
    | (with_reducible first | apply onDie_keeps | apply rejoinB0_keeps | apply Keeps.ite | apply Keeps.foldl)
    | split
    | fail_if_no_progress (with_reducible (apply Keeps.upd <;> try rfl))

theorem setRegBit_keeps {s : State} (d : Fin 4) (nb : Nat) (k : Nat) (b : Bool) (h : Keeps r s) :
    Keeps r (setRegBit s d nb k b) := by
  unfold setRegBit
  repeat' first
    | with_reducible assumption
    | with_reducible rfl
    | intro _
    | (with_reducible first | apply onDie_keeps | apply Keeps.ite | apply Keeps.foldl)
    | split
    | fail_if_no_progress (with_reducible (apply Keeps.upd <;> try rfl))

theorem writeRegBytes_keeps {s : State} (d : Fin 4) (nb : Nat) (off : Nat) (y0 : List Byte) (h : Keeps r s) :
    Keeps r (writeRegBytes s d nb off y0) := by
  induction y0 generalizing s d nb off with
  | nil =>
    unfold writeRegBytes
    repeat' first
      | with_reducible assumption
      | with_reducible rfl
      | intro _
      | (with_reducible first | apply setRegBit_keeps | apply Keeps.ite | apply Keeps.foldl)
      | split
      | fail_if_no_progress (with_reducible (apply Keeps.upd <;> try rfl))
  | cons _ _ ih =>
    unfold writeRegBytes
    repeat' first
      | with_reducible assumption
      | with_reducible rfl
      | intro _
      | (with_reducible first | apply ih | apply setRegBit_keeps | apply Keeps.ite | apply Keeps.foldl)
      | split
      | fail_if_no_progress (with_reducible (apply Keeps.upd <;> try rfl))

theorem hostRegBits_keeps {s : State} (d : Fin 4) (c : Nat) (h : Keeps r s) :
    Keeps r (hostRegBits s d c) := by
  unfold hostRegBits
  repeat' first
    | with_reducible assumption
    | with_reducible rfl
    | intro _
    | (with_reducible first | apply writeRegBytes_keeps | apply Keeps.ite | apply Keeps.foldl)
    | split
    | fail_if_no_progress (with_reducible (apply Keeps.upd <;> try rfl))

theorem boundaryB1_keeps {s : State} (d : Fin 4) (c : Nat) (h : Keeps r s) :
    Keeps r (boundaryB1 s d c) := by
  unfold boundaryB1
  repeat' first
    | with_reducible assumption
    | with_reducible rfl
    | intro _
    | (with_reducible first | apply hostRegBits_keeps | apply Keeps.ite | apply Keeps.foldl)
    | split
    | fail_if_no_progress (with_reducible (apply Keeps.upd <;> try rfl))

theorem boundaryB6_keeps {s : State} (d : Fin 4) (c : Nat) (h : Keeps r s) :
    Keeps r (boundaryB6 s d c) := by
  unfold boundaryB6
  repeat' first
    | with_reducible assumption
    | with_reducible rfl
    | intro _
    | extract_lets
    | (with_reducible first | apply clearUnfed_keeps | apply importB6_keeps | apply presentB6_keeps | apply onDie_keeps | apply raiseSF_keeps | apply Keeps.ite | apply Keeps.foldl)
    | split
    | (refine Keeps.of_fst (by assumption) ?_)
    | (refine Keeps.of_snd (by assumption) ?_)
    | fail_if_no_progress (with_reducible (apply Keeps.upd <;> try rfl))
    | dsimp +zetaDelta only

theorem boundaryB8_keeps {s : State} (d : Fin 4) (c : Nat) (h : Keeps r s) :
    Keeps r (boundaryB8 s d c) := by
  unfold boundaryB8
  repeat' first
    | with_reducible assumption
    | with_reducible rfl
    | intro _
    | (with_reducible first | apply Keeps.ite | apply Keeps.foldl)
    | split
    | fail_if_no_progress (with_reducible (apply Keeps.upd <;> try rfl))

theorem boundaryAction_keeps {s : State} (d : Fin 4) (c : Nat) (i : Nat) (h : Keeps r s) :
    Keeps r (boundaryAction s d c i) := by
  unfold boundaryAction
  repeat' first
    | with_reducible assumption
    | with_reducible rfl
    | intro _
    | (with_reducible first | apply boundaryB0_keeps | apply boundaryB1_keeps | apply outPortsB2_keeps | apply exportB3_keeps | apply inPortsB4_keeps | apply sampleB5_keeps | apply boundaryB6_keeps | apply onDie_keeps | apply boundaryB8_keeps | apply Keeps.ite | apply Keeps.foldl)
    | split
    | fail_if_no_progress (with_reducible (apply Keeps.upd <;> try rfl))

theorem boundaryStep_keeps {s : State} (d : Fin 4) (h : Keeps r s) :
    Keeps r (boundaryStep s d) := by
  unfold boundaryStep
  repeat' first
    | with_reducible assumption
    | with_reducible rfl
    | intro _
    | extract_lets
    | (with_reducible first | apply raiseSource_keeps | apply freezeDie_keeps | apply boundaryAction_keeps | apply onDie_keeps | apply Keeps.ite | apply Keeps.foldl)
    | split
    | (refine Keeps.of_fst (by assumption) ?_)
    | (refine Keeps.of_snd (by assumption) ?_)
    | fail_if_no_progress (with_reducible (apply Keeps.upd <;> try rfl))
    | dsimp +zetaDelta only

theorem execBoundaryPhase_keeps (d : Fin 4) {s : State} (h : Keeps r s) :
    OutKeeps r (execBoundaryPhase d s) := by
  unfold execBoundaryPhase
  repeat' first
    | with_reducible assumption
    | with_reducible rfl
    | intro _
    | (with_reducible first | apply boundaryStep_keeps | apply OutKeeps.next | apply Keeps.ite | apply Keeps.foldl)
    | split
    | fail_if_no_progress (with_reducible (apply Keeps.upd <;> try rfl))

theorem examineChannels_keeps {s : State} (d : Fin 4) (h : Keeps r s) :
    Keeps r (examineChannels s d) := by
  unfold examineChannels
  repeat' first
    | with_reducible assumption
    | with_reducible rfl
    | intro _
    | (with_reducible first | apply setDie_keeps | apply bumpF_keeps | apply Keeps.ite | apply Keeps.foldl)
    | split
    | fail_if_no_progress (with_reducible (apply Keeps.upd <;> try rfl))

theorem advanceDie_keeps {s : State} (d : Fin 4) (h : Keeps r s) :
    Keeps r (advanceDie s d) := by
  unfold advanceDie
  repeat' first
    | with_reducible assumption
    | with_reducible rfl
    | intro _
    | (with_reducible first | apply setDie_keeps | apply Keeps.ite | apply Keeps.foldl)
    | split
    | fail_if_no_progress (with_reducible (apply Keeps.upd <;> try rfl))

theorem linkForwards_keeps {s : State} (d : Nat) (sigma : Nat) (fs : List (Nat × CrossEntry × Bool)) (h : Keeps r s) :
    Keeps r (linkForwards s d sigma fs) := by
  unfold linkForwards
  repeat' first
    | with_reducible assumption
    | with_reducible rfl
    | intro _
    | (with_reducible first | apply linkForward_keeps | apply Keeps.ite | apply Keeps.foldl)
    | split
    | fail_if_no_progress (with_reducible (apply Keeps.upd <;> try rfl))

theorem scheduledStep_keeps {s : State} (d : Fin 4) (h : Keeps r s) :
    Keeps r (scheduledStep s d) := by
  unfold scheduledStep
  repeat' first
    | with_reducible assumption
    | with_reducible rfl
    | intro _
    | (with_reducible first | apply stopStep_keeps | apply takeLogged_keeps | apply landStep_keeps | apply noteStep_keeps | apply advanceDie_keeps | apply examineChannels_keeps | apply linkForwards_keeps | apply Keeps.ite | apply Keeps.foldl)
    | split
    | fail_if_no_progress (with_reducible (apply Keeps.upd <;> try rfl))

theorem stepDie_keeps {s : State} (d : Fin 4) (h : Keeps r s) :
    Keeps r (stepDie s d) := by
  unfold stepDie
  repeat' first
    | with_reducible assumption
    | with_reducible rfl
    | intro _
    | (with_reducible first | apply freezeHere_keeps | apply scheduledStep_keeps | apply boundaryStep_keeps | apply advanceDie_keeps | apply examineChannels_keeps | apply Keeps.ite | apply Keeps.foldl)
    | split
    | fail_if_no_progress (with_reducible (apply Keeps.upd <;> try rfl))

end Sys2Proof.Machine
end

