-- ==== Sys2Proof/Laws/KeepsImages.lean ====
section
/-! SUPPORT. What the operations of Machine/Images.lean keep. -/

namespace Sys2Proof.Machine

variable {r : State}

set_option linter.unusedTactic false
set_option linter.unreachableTactic false

theorem winClear_keeps {s : State} (w off len : Nat) (h : Keeps r s) : Keeps r (winClear s w off len) :=
  Keeps.mem h _ (fun k => k) (fun k => k) (fun k => Memory.wf_filter _ _ k)

theorem winStore_keeps {s : State} (w : Nat) (off : Nat) (len : Nat) (m : Memory) (h : Keeps r s) :
    Keeps r (winStore s w off len m) := by
  unfold winStore
  repeat' first
    | with_reducible assumption
    | with_reducible rfl
    | intro _
    | (with_reducible first | apply winWrite_keeps | apply winClear_keeps | apply Keeps.ite | apply Keeps.foldl)
    | split
    | fail_if_no_progress (with_reducible (apply Keeps.upd <;> try rfl))

theorem showSlot_keeps {s : State} (i : Nat) (h : Keeps r s) :
    Keeps r (showSlot s i) := by
  unfold showSlot
  repeat' first
    | with_reducible assumption
    | with_reducible rfl
    | intro _
    | (with_reducible first | apply setF_keeps | apply setB_keeps | apply set64_keeps | apply Keeps.ite | apply Keeps.foldl)
    | split
    | fail_if_no_progress (with_reducible (apply Keeps.upd <;> try rfl))

end Sys2Proof.Machine
end

