-- ==== Sys2Proof/Laws/KeepsSnapshot.lean ====
section
/-! SUPPORT. What the operations of Machine/Snapshot.lean keep. -/

namespace Sys2Proof.Machine

variable {r : State}

set_option linter.unusedTactic false
set_option linter.unreachableTactic false

theorem restoredTileRam_wf (s : State) (m : Memory) : Memory.wf zeroFill (restoredTileRam s m) := by
  refine Memory.wf_foldl _ _ (fun m c k => ?_) m (Memory.wf_nil _)
  split
  · exact Memory.wf_write _ k _ _
  · exact k

theorem onRun_keeps {s : State} (g : RunCtl → RunCtl) (h : Keeps r s) :
    Keeps r (onRun s g) := by
  unfold onRun
  repeat' first
    | with_reducible assumption
    | with_reducible rfl
    | intro _
    | (with_reducible first | apply Keeps.ite | apply Keeps.foldl)
    | split
    | fail_if_no_progress (with_reducible (apply Keeps.upd <;> try rfl))

theorem runGate_keeps (d : Desc) (i : Instr) (alone : Bool) {k : State → State} {s : State} (h_k : ∀ t, Keeps r t → Keeps r (k t)) (h : Keeps r s) :
    Keeps r (runGate d i alone k s) := by
  unfold runGate
  repeat' first
    | with_reducible assumption
    | with_reducible rfl
    | intro _
    | (with_reducible first | apply h_k | apply complete_keeps | apply onRun_keeps | apply Keeps.ite | apply Keeps.foldl)
    | split
    | fail_if_no_progress (with_reducible (apply Keeps.upd <;> try rfl))

theorem runNow_keeps (d : Desc) {k : State → State} {s : State} (h_k : ∀ t, Keeps r t → Keeps r (k t)) (h : Keeps r s) :
    Keeps r (runNow d k s) := by
  unfold runNow
  repeat' first
    | with_reducible assumption
    | with_reducible rfl
    | intro _
    | (with_reducible first | apply h_k | apply complete_keeps | apply Keeps.ite | apply Keeps.foldl)
    | split
    | fail_if_no_progress (with_reducible (apply Keeps.upd <;> try rfl))

theorem takeCapture_keeps {s : State} (nb : Nat) (h : Keeps r s) :
    Keeps r (takeCapture s nb) := by
  unfold takeCapture
  repeat' first
    | with_reducible assumption
    | with_reducible rfl
    | intro _
    | (with_reducible first | apply winStore_keeps | apply onAsy_keeps | apply Keeps.ite | apply Keeps.foldl)
    | split
    | fail_if_no_progress (with_reducible (apply Keeps.upd <;> try rfl))

theorem acceptCapture_keeps {s : State} (c : CaptureReq) (h : Keeps r s) :
    Keeps r (acceptCapture s c) := by
  unfold acceptCapture
  repeat' first
    | with_reducible assumption
    | with_reducible rfl
    | intro _
    | (with_reducible first | apply complete_keeps | apply sendMgmt_keeps | apply onAsy_keeps | apply takeCapture_keeps | apply Keeps.ite | apply Keeps.foldl)
    | split
    | fail_if_no_progress (with_reducible (apply Keeps.upd <;> try rfl))

theorem captureBody_keeps (d : Desc) (function : Nat) (tileRam : Bool) (w : Nat) (off : Nat) {s : State} (h : Keeps r s) :
    Keeps r (captureBody d function tileRam w off s) := by
  unfold captureBody
  repeat' first
    | with_reducible assumption
    | with_reducible rfl
    | intro _
    | (with_reducible first | apply complete_keeps | apply onAsy_keeps | apply acceptCapture_keeps | apply Keeps.ite | apply Keeps.foldl)
    | split
    | fail_if_no_progress (with_reducible (apply Keeps.upd <;> try rfl))

theorem execCapture_keeps (d : Desc) (function : Byte) (tileRam : Bool) (w : Fin 16) (off : DWord) {s : State} (h : Keeps r s) :
    OutKeeps r (execCapture d function tileRam w off s) := by
  unfold execCapture
  repeat' first
    | with_reducible assumption
    | with_reducible rfl
    | intro _
    | (with_reducible first | apply startDesc_keeps | apply ungroupedRun_keeps | apply runGate_keeps | apply captureBody_keeps | apply OutKeeps.next | apply Keeps.ite | apply Keeps.foldl)
    | split
    | fail_if_no_progress (with_reducible (apply Keeps.upd <;> try rfl))

theorem nextCapture_keeps {s : State} (y0 : Nat) (h : Keeps r s) :
    Keeps r (nextCapture s y0) := by
  induction y0 generalizing s with
  | zero =>
    unfold nextCapture
    repeat' first
      | with_reducible assumption
      | with_reducible rfl
      | intro _
      | (with_reducible first | apply acceptCapture_keeps | apply onAsy_keeps | apply Keeps.ite | apply Keeps.foldl)
      | split
      | fail_if_no_progress (with_reducible (apply Keeps.upd <;> try rfl))
  | succ _ ih =>
    unfold nextCapture
    repeat' first
      | with_reducible assumption
      | with_reducible rfl
      | intro _
      | (with_reducible first | apply ih | apply acceptCapture_keeps | apply onAsy_keeps | apply Keeps.ite | apply Keeps.foldl)
      | split
      | fail_if_no_progress (with_reducible (apply Keeps.upd <;> try rfl))

theorem execCaptureComplete_keeps {s : State} (h : Keeps r s) :
    OutKeeps r (execCaptureComplete s) := by
  unfold execCaptureComplete
  repeat' first
    | with_reducible assumption
    | with_reducible rfl
    | intro _
    | (with_reducible first | apply set64_keeps | apply complete_keeps | apply onAsy_keeps | apply nextCapture_keeps | apply OutKeeps.next | apply Keeps.ite | apply Keeps.foldl)
    | split
    | fail_if_no_progress (with_reducible (apply Keeps.upd <;> try rfl))

theorem fetchBody_keeps (d : Desc) (function : Nat) (source : Nat) (w : Nat) (off : Nat) (addr : Nat) (len : Nat) (hostOk : Bool) {s : State} (h : Keeps r s) :
    Keeps r (fetchBody d function source w off addr len hostOk s) := by
  unfold fetchBody
  repeat' first
    | with_reducible assumption
    | with_reducible rfl
    | intro _
    | (with_reducible first | apply complete_keeps | apply winServe_keeps | apply emit_keeps | apply Keeps.ite | apply Keeps.foldl)
    | split
    | fail_if_no_progress (with_reducible (apply Keeps.upd <;> try rfl))

theorem execFetch_keeps (d : Desc) (function : Byte) (source : Byte) (w : Fin 16) (off : DWord) (addr : DWord) (len : DWord) (hostOk : Bool) {s : State} (h : Keeps r s) :
    OutKeeps r (execFetch d function source w off addr len hostOk s) := by
  unfold execFetch
  repeat' first
    | with_reducible assumption
    | with_reducible rfl
    | intro _
    | (with_reducible first | apply startDesc_keeps | apply ungrouped_keeps | apply fetchBody_keeps | apply OutKeeps.next | apply Keeps.ite | apply Keeps.foldl)
    | split
    | fail_if_no_progress (with_reducible (apply Keeps.upd <;> try rfl))

theorem hallmarkMeets_keeps {s : State} (windows : List Nat) (h : Keeps r s) :
    Keeps r (hallmarkMeets s windows) := by
  unfold hallmarkMeets
  repeat' first
    | with_reducible assumption
    | with_reducible rfl
    | intro _
    | (with_reducible first | apply winServe_keeps | apply Keeps.ite | apply Keeps.foldl)
    | split
    | fail_if_no_progress (with_reducible (apply Keeps.upd <;> try rfl))

theorem hallmarkView_keeps {s t : State} {nb : Nat} (e : hallmarkView s nb = some t) (h : Keeps r s) : Keeps r t := by
  unfold hallmarkView at e
  split at e
  · cases e
    exact setB_keeps _ _ (Keeps.upd h rfl rfl rfl rfl rfl)
  · split at e
    · cases e
      exact Keeps.upd h rfl rfl rfl rfl rfl
    · cases e

theorem takeHallmark_keeps {s : State} (nb : Nat) (h : Keeps r s) : Keeps r (takeHallmark s nb) := by
  unfold takeHallmark
  split
  · split
    · split
      · exact h
      · rename_i t e
        refine onRun_keeps _ (hallmarkMeets_keeps _ ?_)
        split at e
        · exact hallmarkView_keeps e h
        · cases e; exact h
    · exact h
  · exact h

theorem hallmarkFabric_keeps {s : State} (h : Keeps r s) :
    Keeps r (hallmarkFabric s) := by
  unfold hallmarkFabric
  repeat' first
    | with_reducible assumption
    | with_reducible rfl
    | intro _
    | (with_reducible first | apply onRun_keeps | apply Keeps.ite | apply Keeps.foldl)
    | split
    | fail_if_no_progress (with_reducible (apply Keeps.upd <;> try rfl))

theorem execUserClockEdge_keeps (k : Fin 8) (inputs : FabricInputs) {s : State} (h : Keeps r s) :
    OutKeeps r (execUserClockEdge k inputs s) := by
  unfold execUserClockEdge
  repeat' first
    | with_reducible assumption
    | with_reducible rfl
    | intro _
    | (with_reducible first | apply uclkEdge_keeps | apply hallmarkFabric_keeps | apply OutKeeps.next | apply Keeps.ite | apply Keeps.foldl)
    | split
    | fail_if_no_progress (with_reducible (apply Keeps.upd <;> try rfl))

theorem voidSlot_keeps {s : State} (i : Nat) (h : Keeps r s) :
    Keeps r (voidSlot s i) := by
  unfold voidSlot
  repeat' first
    | with_reducible assumption
    | with_reducible rfl
    | intro _
    | (with_reducible first | apply showSlot_keeps | apply winClear_keeps | apply Keeps.ite | apply Keeps.foldl)
    | split
    | fail_if_no_progress (with_reducible (apply Keeps.upd <;> try rfl))

theorem beginHallmark_keeps (d : Desc) (dest : Nat) (b : HostBuffer) (seq : Option Nat) {s : State} (h : Keeps r s) :
    Keeps r (beginHallmark d dest b seq s) := by
  unfold beginHallmark
  repeat' first
    | with_reducible assumption
    | with_reducible rfl
    | intro _
    | (with_reducible first | apply setB_keeps | apply voidSlot_keeps | apply setF_keeps | apply onRun_keeps | apply sendMgmt_keeps | apply takeHallmark_keeps | apply Keeps.ite | apply Keeps.foldl)
    | split
    | fail_if_no_progress (with_reducible (apply Keeps.upd <;> try rfl))

theorem judgeHallmark_keeps {s : State} (h : Keeps r s) :
    Keeps r (judgeHallmark s) := by
  unfold judgeHallmark
  repeat' first
    | with_reducible assumption
    | with_reducible rfl
    | intro _
    | (with_reducible first | apply complete_keeps | apply onRun_keeps | apply beginHallmark_keeps | apply Keeps.ite | apply Keeps.foldl)
    | split
    | fail_if_no_progress (with_reducible (apply Keeps.upd <;> try rfl))

theorem hallmarkBody_keeps (d : Desc) (dest : Nat) (b : HostBuffer) (len : Nat) {s : State} (h : Keeps r s) :
    Keeps r (hallmarkBody d dest b len s) := by
  unfold hallmarkBody
  repeat' first
    | with_reducible assumption
    | with_reducible rfl
    | intro _
    | (with_reducible first | apply onRun_keeps | apply judgeHallmark_keeps | apply sendMgmt_keeps | apply complete_keeps | apply beginHallmark_keeps | apply Keeps.ite | apply Keeps.foldl)
    | split
    | fail_if_no_progress (with_reducible (apply Keeps.upd <;> try rfl))

theorem execHallmark_keeps (d : Desc) (dest : Byte) (b : HostBuffer) (len : DWord) {s : State} (h : Keeps r s) :
    OutKeeps r (execHallmark d dest b len s) := by
  unfold execHallmark
  repeat' first
    | with_reducible assumption
    | with_reducible rfl
    | intro _
    | (with_reducible first | apply startDesc_keeps | apply ungroupedRun_keeps | apply runGate_keeps | apply hallmarkBody_keeps | apply OutKeeps.next | apply Keeps.ite | apply Keeps.foldl)
    | split
    | fail_if_no_progress (with_reducible (apply Keeps.upd <;> try rfl))

theorem restoreSlot_keeps (d : Desc) (slot : Nat) {s : State} (h : Keeps r s) : Keeps r (restoreSlot d slot s) := by
  have h1 : Keeps r (winServe s (hmWindow s) (slotOffset s slot) (4096 + leAt (slotRecord s slot) 24 8)).1 :=
    winServe_keeps _ _ _ h
  unfold restoreSlot
  dsimp only
  split
  · exact complete_keeps _ _ _ h1
  · exact Keeps.foldl (fun t a ht => sendMgmt_keeps _ ht) (onRun_keeps _ (setB_keeps _ _ h1))

theorem restoreBody_keeps (d : Desc) (source : Nat) (addr : Nat) (len : Nat) (buffer : Option (List Byte)) {s : State} (h : Keeps r s) :
    Keeps r (restoreBody d source addr len buffer s) := by
  unfold restoreBody
  repeat' first
    | with_reducible assumption
    | with_reducible rfl
    | intro _
    | extract_lets
    | (with_reducible first | apply complete_keeps | apply restoreSlot_keeps | apply showSlot_keeps | apply winStore_keeps | apply voidSlot_keeps | apply Keeps.ite | apply Keeps.foldl)
    | split
    | (refine Keeps.of_fst (by assumption) ?_)
    | (refine Keeps.of_snd (by assumption) ?_)
    | fail_if_no_progress (with_reducible (apply Keeps.upd <;> try rfl))
    | dsimp +zetaDelta only

theorem execRestore_keeps (d : Desc) (source : Byte) (addr : DWord) (len : DWord) (image : Option (List Byte)) {s : State} (h : Keeps r s) :
    OutKeeps r (execRestore d source addr len image s) := by
  unfold execRestore
  repeat' first
    | with_reducible assumption
    | with_reducible rfl
    | intro _
    | (with_reducible first | apply startDesc_keeps | apply ungroupedRun_keeps | apply runGate_keeps | apply restoreBody_keeps | apply OutKeeps.next | apply Keeps.ite | apply Keeps.foldl)
    | split
    | fail_if_no_progress (with_reducible (apply Keeps.upd <;> try rfl))

theorem restoreChannel_keeps (d : Desc) (m : Memory) {s : State} (i : Nat) (h : Keeps r s) :
    Keeps r (restoreChannel d m s i) := by
  unfold restoreChannel
  repeat' first
    | with_reducible assumption
    | with_reducible rfl
    | intro _
    | (with_reducible first | apply wrapF_keeps | apply setCtx_keeps | apply Keeps.ite | apply Keeps.foldl)
    | split
    | fail_if_no_progress (with_reducible (apply Keeps.upd <;> try rfl))

theorem restoreMem_keeps {s : State} (m : Memory) (h : Keeps r s) : Keeps r (restoreMem s m) :=
  Keeps.mem h _ (fun _ => restoredTileRam_wf s m) (fun k => k) (fun k => k)

theorem restoreFabric_keeps {s : State} (m : Memory) (h : Keeps r s) :
    Keeps r (restoreFabric s m) := by
  unfold restoreFabric
  repeat' first
    | with_reducible assumption
    | with_reducible rfl
    | intro _
    | (with_reducible first | apply onHgr_keeps | apply Keeps.ite | apply Keeps.foldl)
    | split
    | fail_if_no_progress (with_reducible (apply Keeps.upd <;> try rfl))

theorem applyRestore_keeps {s : State} (r_ : RestoreReq) (h : Keeps r s) :
    Keeps r (applyRestore s r_) := by
  unfold applyRestore
  repeat' first
    | with_reducible assumption
    | with_reducible rfl
    | intro _
    | extract_lets
    | (with_reducible first | apply restoreMem_keeps | apply winStore_keeps | apply restoreChannel_keeps | apply restoreFabric_keeps | apply onRun_keeps | apply asyAbandon_keeps | apply onAsy_keeps | apply onChn_keeps | apply onHolds_keeps | apply setF_keeps | apply setB_keeps | apply closeChans_keeps | apply Keeps.ite | apply Keeps.foldl)
    | split
    | (refine Keeps.of_fst (by assumption) ?_)
    | (refine Keeps.of_snd (by assumption) ?_)
    | fail_if_no_progress (with_reducible (apply Keeps.upd <;> try rfl))
    | dsimp +zetaDelta only

theorem execRestoreComplete_keeps {s : State} (h : Keeps r s) :
    OutKeeps r (execRestoreComplete s) := by
  unfold execRestoreComplete
  repeat' first
    | with_reducible assumption
    | with_reducible rfl
    | intro _
    | (with_reducible first | apply complete_keeps | apply sendMgmt_keeps | apply applyRestore_keeps | apply OutKeeps.next | apply Keeps.ite | apply Keeps.foldl)
    | split
    | fail_if_no_progress (with_reducible (apply Keeps.upd <;> try rfl))

end Sys2Proof.Machine
end

