-- ==== Sys2Proof/Laws/KeepsDesignState.lean ====
section
/-! SUPPORT. What the operations of Machine/DesignState.lean keep. -/

namespace Sys2Proof.Machine

variable {r : State}

set_option linter.unusedTactic false
set_option linter.unreachableTactic false

theorem onDesign_keeps {s : State} (g : DesignHost → DesignHost) (h : Keeps r s) :
    Keeps r (onDesign s g) := by
  unfold onDesign
  repeat' first
    | with_reducible assumption
    | with_reducible rfl
    | intro _
    | (with_reducible first | apply Keeps.ite | apply Keeps.foldl)
    | split
    | fail_if_no_progress (with_reducible (apply Keeps.upd <;> try rfl))

theorem showView_keeps {s : State} (h : Keeps r s) :
    Keeps r (showView s) := by
  unfold showView
  repeat' first
    | with_reducible assumption
    | with_reducible rfl
    | intro _
    | (with_reducible first | apply setF_keeps | apply setB_keeps | apply Keeps.ite | apply Keeps.foldl)
    | split
    | fail_if_no_progress (with_reducible (apply Keeps.upd <;> try rfl))

theorem sendAway_keeps {s : State} (rs : List DesignReq) (h : Keeps r s) :
    Keeps r (sendAway s rs) := by
  unfold sendAway
  repeat' first
    | with_reducible assumption
    | with_reducible rfl
    | intro _
    | (with_reducible first | apply sendMgmt_keeps | apply Keeps.ite | apply Keeps.foldl)
    | split
    | fail_if_no_progress (with_reducible (apply Keeps.upd <;> try rfl))

theorem openView_keeps {s : State} (rs : List DesignReq) (rs' : List DesignReq) (h : Keeps r s) :
    Keeps r (openView s rs rs') := by
  unfold openView
  repeat' first
    | with_reducible assumption
    | with_reducible rfl
    | intro _
    | (with_reducible first | apply setB_keeps | apply onDesign_keeps | apply Keeps.ite | apply Keeps.foldl)
    | split
    | fail_if_no_progress (with_reducible (apply Keeps.upd <;> try rfl))

theorem meetReads_keeps {s : State} (rs : List DesignReq) (h : Keeps r s) :
    Keeps r (meetReads s rs) := by
  unfold meetReads
  repeat' first
    | with_reducible assumption
    | with_reducible rfl
    | intro _
    | (with_reducible first | apply winServe_keeps | apply Keeps.ite | apply Keeps.foldl)
    | split
    | fail_if_no_progress (with_reducible (apply Keeps.upd <;> try rfl))

theorem serveReads_keeps {s : State} (rs : List DesignReq) (h : Keeps r s) :
    Keeps r (serveReads s rs) := by
  unfold serveReads
  repeat' first
    | with_reducible assumption
    | with_reducible rfl
    | intro _
    | (with_reducible first | apply openView_keeps | apply meetReads_keeps | apply sendAway_keeps | apply Keeps.ite | apply Keeps.foldl)
    | split
    | fail_if_no_progress (with_reducible (apply Keeps.upd <;> try rfl))

theorem applyNow_keeps {s : State} (nb : Nat) (r_ : DesignReq) (h : Keeps r s) :
    Keeps r (applyNow s nb r_) := by
  unfold applyNow
  repeat' first
    | with_reducible assumption
    | with_reducible rfl
    | intro _
    | (with_reducible first | apply writeRegBytes_keeps | apply targetWrite_keeps | apply Keeps.ite | apply Keeps.foldl)
    | split
    | fail_if_no_progress (with_reducible (apply Keeps.upd <;> try rfl))

theorem applyStaged_keeps {s : State} (k : Nat) (r_ : DesignReq) (h : Keeps r s) :
    Keeps r (applyStaged s k r_) := by
  unfold applyStaged
  repeat' first
    | with_reducible assumption
    | with_reducible rfl
    | intro _
    | (with_reducible first | apply Keeps.ite | apply Keeps.foldl)
    | split
    | fail_if_no_progress (with_reducible (apply Keeps.upd <;> try rfl))

theorem finishReq_keeps {s : State} (r_ : DesignReq) (status : Nat) (result : Nat) (h : Keeps r s) :
    Keeps r (finishReq s r_ status result) := by
  unfold finishReq
  repeat' first
    | with_reducible assumption
    | with_reducible rfl
    | intro _
    | (with_reducible first | apply complete_keeps | apply sendMgmt_keeps | apply Keeps.ite | apply Keeps.foldl)
    | split
    | fail_if_no_progress (with_reducible (apply Keeps.upd <;> try rfl))

theorem finishAll_keeps {s : State} (rs : List DesignReq) (status : Nat) (result : Nat) (h : Keeps r s) :
    Keeps r (finishAll s rs status result) := by
  unfold finishAll
  repeat' first
    | with_reducible assumption
    | with_reducible rfl
    | intro _
    | (with_reducible first | apply finishReq_keeps | apply Keeps.ite | apply Keeps.foldl)
    | split
    | fail_if_no_progress (with_reducible (apply Keeps.upd <;> try rfl))

theorem finishWrites_keeps {s : State} (rs : List DesignReq) (result : Nat) (h : Keeps r s) :
    Keeps r (finishWrites s rs result) := by
  unfold finishWrites
  repeat' first
    | with_reducible assumption
    | with_reducible rfl
    | intro _
    | (with_reducible first | apply finishReq_keeps | apply onDesign_keeps | apply Keeps.ite | apply Keeps.foldl)
    | split
    | fail_if_no_progress (with_reducible (apply Keeps.upd <;> try rfl))

theorem writeAtRest_keeps {s : State} (rs : List DesignReq) (h : Keeps r s) :
    Keeps r (writeAtRest s rs) := by
  unfold writeAtRest
  repeat' first
    | with_reducible assumption
    | with_reducible rfl
    | intro _
    | (with_reducible first | apply finishWrites_keeps | apply applyNow_keeps | apply Keeps.ite | apply Keeps.foldl)
    | split
    | fail_if_no_progress (with_reducible (apply Keeps.upd <;> try rfl))

theorem serveWrites_keeps {s : State} (rs : List DesignReq) (h : Keeps r s) :
    Keeps r (serveWrites s rs) := by
  unfold serveWrites
  repeat' first
    | with_reducible assumption
    | with_reducible rfl
    | intro _
    | (with_reducible first | apply finishAll_keeps | apply sendAway_keeps | apply onDesign_keeps | apply writeAtRest_keeps | apply Keeps.ite | apply Keeps.foldl)
    | split
    | fail_if_no_progress (with_reducible (apply Keeps.upd <;> try rfl))

theorem startGroup_keeps {s : State} (rs : List DesignReq) (h : Keeps r s) :
    Keeps r (startGroup s rs) := by
  unfold startGroup
  repeat' first
    | with_reducible assumption
    | with_reducible rfl
    | intro _
    | (with_reducible first | apply finishReq_keeps | apply serveWrites_keeps | apply serveReads_keeps | apply Keeps.ite | apply Keeps.foldl)
    | split
    | fail_if_no_progress (with_reducible (apply Keeps.upd <;> try rfl))

theorem collect_keeps (r_ : DesignReq) {s : State} (h : Keeps r s) :
    Keeps r (collect r_ s) := by
  unfold collect
  repeat' first
    | with_reducible assumption
    | with_reducible rfl
    | intro _
    | (with_reducible first | apply complete_keeps | apply setSession_keeps | apply completeAll_keeps | apply startGroup_keeps | apply Keeps.ite | apply Keeps.foldl)
    | split
    | fail_if_no_progress (with_reducible (apply Keeps.upd <;> try rfl))

theorem execDesignRead_keeps (d : Desc) (address : DWord) (length : DWord) (buffer : DWord) {s : State} (h : Keeps r s) :
    OutKeeps r (execDesignRead d address length buffer s) := by
  unfold execDesignRead
  repeat' first
    | with_reducible assumption
    | with_reducible rfl
    | intro _
    | (with_reducible first | apply startDesc_keeps | apply collect_keeps | apply OutKeeps.next | apply Keeps.ite | apply Keeps.foldl)
    | split
    | fail_if_no_progress (with_reducible (apply Keeps.upd <;> try rfl))

theorem execDesignWrite_keeps (d : Desc) (address : DWord) (length : DWord) (buffer : DWord) (data : Option (List Byte)) {s : State} (h : Keeps r s) :
    OutKeeps r (execDesignWrite d address length buffer data s) := by
  unfold execDesignWrite
  repeat' first
    | with_reducible assumption
    | with_reducible rfl
    | intro _
    | (with_reducible first | apply startDesc_keeps | apply collect_keeps | apply OutKeeps.next | apply Keeps.ite | apply Keeps.foldl)
    | split
    | fail_if_no_progress (with_reducible (apply Keeps.upd <;> try rfl))

theorem serveWaiting_keeps {s : State} (h : Keeps r s) :
    Keeps r (serveWaiting s) := by
  unfold serveWaiting
  repeat' first
    | with_reducible assumption
    | with_reducible rfl
    | intro _
    | (with_reducible first | apply serveReads_keeps | apply onDesign_keeps | apply Keeps.ite | apply Keeps.foldl)
    | split
    | fail_if_no_progress (with_reducible (apply Keeps.upd <;> try rfl))

theorem closeView_keeps {s : State} (h : Keeps r s) :
    Keeps r (closeView s) := by
  unfold closeView
  repeat' first
    | with_reducible assumption
    | with_reducible rfl
    | intro _
    | (with_reducible first | apply showView_keeps | apply onDesign_keeps | apply takeHallmark_keeps | apply serveWaiting_keeps | apply Keeps.ite | apply Keeps.foldl)
    | split
    | fail_if_no_progress (with_reducible (apply Keeps.upd <;> try rfl))

theorem endView_keeps {s : State} (h : Keeps r s) :
    Keeps r (endView s) := by
  unfold endView
  repeat' first
    | with_reducible assumption
    | with_reducible rfl
    | intro _
    | (with_reducible first | apply closeView_keeps | apply onDesign_keeps | apply Keeps.ite | apply Keeps.foldl)
    | split
    | fail_if_no_progress (with_reducible (apply Keeps.upd <;> try rfl))

theorem execHallmarkComplete_keeps {s : State} (h : Keeps r s) :
    OutKeeps r (execHallmarkComplete s) := by
  unfold execHallmarkComplete
  repeat' first
    | with_reducible assumption
    | with_reducible rfl
    | intro _
    | (with_reducible first | apply onRun_keeps | apply setB_keeps | apply setF_keeps | apply winStore_keeps | apply showSlot_keeps | apply emit_keeps | apply complete_keeps | apply endView_keeps | apply OutKeeps.next | apply Keeps.ite | apply Keeps.foldl)
    | split
    | fail_if_no_progress (with_reducible (apply Keeps.upd <;> try rfl))

theorem deliverReads_keeps {s : State} (bad : List (Nat × Nat)) (rs : List DesignReq) (h : Keeps r s) :
    Keeps r (deliverReads s bad rs) := by
  unfold deliverReads
  repeat' first
    | with_reducible assumption
    | with_reducible rfl
    | intro _
    | (with_reducible first | apply emit_keeps | apply finishReq_keeps | apply Keeps.ite | apply Keeps.foldl)
    | split
    | fail_if_no_progress (with_reducible (apply Keeps.upd <;> try rfl))

theorem execDesignReadComplete_keeps (bad : List (Nat × Nat)) {s : State} (h : Keeps r s) :
    OutKeeps r (execDesignReadComplete bad s) := by
  unfold execDesignReadComplete
  repeat' first
    | with_reducible assumption
    | with_reducible rfl
    | intro _
    | (with_reducible first | apply closeView_keeps | apply onDesign_keeps | apply deliverReads_keeps | apply OutKeeps.next | apply Keeps.ite | apply Keeps.foldl)
    | split
    | fail_if_no_progress (with_reducible (apply Keeps.upd <;> try rfl))

theorem execHostWriteApply_keeps {s : State} (h : Keeps r s) :
    OutKeeps r (execHostWriteApply s) := by
  unfold execHostWriteApply
  repeat' first
    | with_reducible assumption
    | with_reducible rfl
    | intro _
    | (with_reducible first | apply applyStaged_keeps | apply onDesign_keeps | apply OutKeeps.next | apply Keeps.ite | apply Keeps.foldl)
    | split
    | fail_if_no_progress (with_reducible (apply Keeps.upd <;> try rfl))

theorem designCommit_keeps {s : State} (c : Nat) (h : Keeps r s) :
    Keeps r (designCommit s c) := by
  unfold designCommit
  repeat' first
    | with_reducible assumption
    | with_reducible rfl
    | intro _
    | (with_reducible first | apply onDesign_keeps | apply finishWrites_keeps | apply showView_keeps | apply Keeps.ite | apply Keeps.foldl)
    | split
    | fail_if_no_progress (with_reducible (apply Keeps.upd <;> try rfl))

theorem designReplay_keeps {s : State} (nb : Nat) (h : Keeps r s) :
    Keeps r (designReplay s nb) := by
  unfold designReplay
  repeat' first
    | with_reducible assumption
    | with_reducible rfl
    | intro _
    | (with_reducible first | apply onDesign_keeps | apply Keeps.ite | apply Keeps.foldl)
    | split
    | fail_if_no_progress (with_reducible (apply Keeps.upd <;> try rfl))

theorem designEnd_keeps {s : State} (status : Nat) (result : Nat) (h : Keeps r s) :
    Keeps r (designEnd s status result) := by
  unfold designEnd
  repeat' first
    | with_reducible assumption
    | with_reducible rfl
    | intro _
    | (with_reducible first | apply finishAll_keeps | apply onDesign_keeps | apply Keeps.ite | apply Keeps.foldl)
    | split
    | fail_if_no_progress (with_reducible (apply Keeps.upd <;> try rfl))

theorem designRest_keeps {s : State} (h : Keeps r s) :
    Keeps r (designRest s) := by
  unfold designRest
  repeat' first
    | with_reducible assumption
    | with_reducible rfl
    | intro _
    | (with_reducible first | apply writeAtRest_keeps | apply onDesign_keeps | apply Keeps.ite | apply Keeps.foldl)
    | split
    | fail_if_no_progress (with_reducible (apply Keeps.upd <;> try rfl))

theorem designCancel_keeps {s : State} (h : Keeps r s) :
    Keeps r (designCancel s) := by
  unfold designCancel
  repeat' first
    | with_reducible assumption
    | with_reducible rfl
    | intro _
    | (with_reducible first | apply designEnd_keeps | apply showView_keeps | apply finishAll_keeps | apply onDesign_keeps | apply Keeps.ite | apply Keeps.foldl)
    | split
    | fail_if_no_progress (with_reducible (apply Keeps.upd <;> try rfl))

theorem serveFor_keeps {s : State} (p : Nat) (r_ : DesignReq) (h : Keeps r s) :
    Keeps r (serveFor s p r_) := by
  unfold serveFor
  repeat' first
    | with_reducible assumption
    | with_reducible rfl
    | intro _
    | (with_reducible first | apply sendMgmt_keeps | apply serveWrites_keeps | apply serveReads_keeps | apply Keeps.ite | apply Keeps.foldl)
    | split
    | fail_if_no_progress (with_reducible (apply Keeps.upd <;> try rfl))

theorem finishAway_keeps {s : State} (h : Keeps r s) :
    Keeps r (finishAway s) := by
  unfold finishAway
  repeat' first
    | with_reducible assumption
    | with_reducible rfl
    | intro _
    | (with_reducible first | apply finishReq_keeps | apply onDesign_keeps | apply Keeps.ite | apply Keeps.foldl)
    | split
    | fail_if_no_progress (with_reducible (apply Keeps.upd <;> try rfl))

theorem takeReply_keeps {s : State} (p : Nat) (write : Bool) (status : Nat) (result : Nat) (data : List Byte) (h : Keeps r s) :
    Keeps r (takeReply s p write status result data) := by
  unfold takeReply
  repeat' first
    | with_reducible assumption
    | with_reducible rfl
    | intro _
    | (with_reducible first | apply finishAway_keeps | apply onDesign_keeps | apply Keeps.ite | apply Keeps.foldl)
    | split
    | fail_if_no_progress (with_reducible (apply Keeps.upd <;> try rfl))

end Sys2Proof.Machine
end

