-- ==== Sys2Proof/Laws/KeepsRunControl.lean ====
section
/-! SUPPORT. What the operations of Machine/RunControl.lean keep. -/

namespace Sys2Proof.Machine

variable {r : State}

set_option linter.unusedTactic false
set_option linter.unreachableTactic false

theorem restoreTo_keeps {s : State} (nb : Nat) (replayed : Bool) (h : Keeps r s) :
    Keeps r (restoreTo s nb replayed) := by
  unfold restoreTo
  repeat' first
    | with_reducible assumption
    | with_reducible rfl
    | intro _
    | (with_reducible first | apply lnkAbandon_keeps | apply hgrAbandon_keeps | apply asyAbandon_keeps | apply chnAbandon_keeps | apply regionsBack_keeps | apply memAbandon_keeps | apply onRun_keeps | apply Keeps.ite | apply Keeps.foldl)
    | split
    | fail_if_no_progress (with_reducible (apply Keeps.upd <;> try rfl))

theorem thawAll_keeps {s : State} (h : Keeps r s) :
    Keeps r (thawAll s) := by
  unfold thawAll
  repeat' first
    | with_reducible assumption
    | with_reducible rfl
    | intro _
    | (with_reducible first | apply setFBit_keeps | apply onDie_keeps | apply Keeps.ite | apply Keeps.foldl)
    | split
    | fail_if_no_progress (with_reducible (apply Keeps.upd <;> try rfl))

theorem takeVisible_keeps {s : State} (h : Keeps r s) :
    Keeps r (takeVisible s) := by
  unfold takeVisible
  repeat' first
    | with_reducible assumption
    | with_reducible rfl
    | intro _
    | (with_reducible first | apply takeHallmark_keeps | apply takeCapture_keeps | apply Keeps.ite | apply Keeps.foldl)
    | split
    | fail_if_no_progress (with_reducible (apply Keeps.upd <;> try rfl))

theorem endRun_keeps {s : State} (status : Nat) (h : Keeps r s) :
    Keeps r (endRun s status) := by
  unfold endRun
  repeat' first
    | with_reducible assumption
    | with_reducible rfl
    | intro _
    | (with_reducible first | apply complete_keeps | apply onRun_keeps | apply Keeps.ite | apply Keeps.foldl)
    | split
    | fail_if_no_progress (with_reducible (apply Keeps.upd <;> try rfl))

theorem endStops_keeps {s : State} (status : Nat) (h : Keeps r s) :
    Keeps r (endStops s status) := by
  unfold endStops
  repeat' first
    | with_reducible assumption
    | with_reducible rfl
    | intro _
    | (with_reducible first | apply complete_keeps | apply onRun_keeps | apply Keeps.ite | apply Keeps.foldl)
    | split
    | fail_if_no_progress (with_reducible (apply Keeps.upd <;> try rfl))

theorem restStopped_keeps {s : State} (h : Keeps r s) :
    Keeps r (restStopped s) := by
  unfold restStopped
  repeat' first
    | with_reducible assumption
    | with_reducible rfl
    | intro _
    | (with_reducible first | apply restRegions_keeps | apply restoreTo_keeps | apply thawAll_keeps | apply endHolds_keeps | apply onRun_keeps | apply setF_keeps | apply closeRest_keeps | apply designRest_keeps | apply takeVisible_keeps | apply setB_keeps | apply Keeps.ite | apply Keeps.foldl)
    | split
    | fail_if_no_progress (with_reducible (apply Keeps.upd <;> try rfl))

theorem enterFaulted_keeps {s : State} {cause : State → State} (h : Keeps r s) (h_cause : ∀ t, Keeps r t → Keeps r (cause t)) :
    Keeps r (enterFaulted s cause) := by
  unfold enterFaulted
  repeat' first
    | with_reducible assumption
    | with_reducible rfl
    | intro _
    | (with_reducible first | apply h_cause | apply restRegions_keeps | apply restoreTo_keeps | apply thawAll_keeps | apply endHolds_keeps | apply onRun_keeps | apply setF_keeps | apply setB_keeps | apply endStops_keeps | apply endRun_keeps | apply designEnd_keeps | apply closeRest_keeps | apply takeVisible_keeps | apply Keeps.ite | apply Keeps.foldl)
    | split
    | fail_if_no_progress (with_reducible (apply Keeps.upd <;> try rfl))

theorem haltCause_keeps (c : Nat) {s : State} (h : Keeps r s) :
    Keeps r (haltCause c s) := by
  unfold haltCause
  repeat' first
    | with_reducible assumption
    | with_reducible rfl
    | intro _
    | (with_reducible first | apply setB_keeps | apply logRecord_keeps | apply Keeps.ite | apply Keeps.foldl)
    | split
    | fail_if_no_progress (with_reducible (apply Keeps.upd <;> try rfl))

theorem reachRest_keeps {s : State} (c : Nat) (h : Keeps r s) :
    Keeps r (reachRest s c) := by
  unfold reachRest
  repeat' first
    | with_reducible assumption
    | with_reducible rfl
    | intro _
    | (with_reducible first | apply restStopped_keeps | apply endRun_keeps | apply endStops_keeps | apply Keeps.ite | apply Keeps.foldl)
    | split
    | fail_if_no_progress (with_reducible (apply Keeps.upd <;> try rfl))

theorem afterCommit_keeps {s : State} (c : Nat) (h : Keeps r s) :
    Keeps r (afterCommit s c) := by
  unfold afterCommit
  repeat' first
    | with_reducible assumption
    | with_reducible rfl
    | intro _
    | (with_reducible first | apply endRun_keeps | apply restStopped_keeps | apply designEnd_keeps | apply endStops_keeps | apply reachRest_keeps | apply Keeps.ite | apply Keeps.foldl)
    | split
    | fail_if_no_progress (with_reducible (apply Keeps.upd <;> try rfl))

theorem restIfReached_keeps {s : State} (h : Keeps r s) :
    Keeps r (restIfReached s) := by
  unfold restIfReached
  repeat' first
    | with_reducible assumption
    | with_reducible rfl
    | intro _
    | (with_reducible first | apply reachRest_keeps | apply Keeps.ite | apply Keeps.foldl)
    | split
    | fail_if_no_progress (with_reducible (apply Keeps.upd <;> try rfl))

theorem commitCycle_keeps {s : State} (c : Nat) (h : Keeps r s) :
    Keeps r (commitCycle s c) := by
  unfold commitCycle
  repeat' first
    | with_reducible assumption
    | with_reducible rfl
    | intro _
    | (with_reducible first | apply sendCommit_keeps | apply onRun_keeps | apply regionCommit_keeps | apply memCommit_keeps | apply asyCommit_keeps | apply hgrCommit_keeps | apply chnCommit_keeps | apply designCommit_keeps | apply setB_keeps | apply takeHallmark_keeps | apply takeCapture_keeps | apply afterCommit_keeps | apply Keeps.ite | apply Keeps.foldl)
    | split
    | fail_if_no_progress (with_reducible (apply Keeps.upd <;> try rfl))

theorem execCycleCommit_keeps {s : State} (h : Keeps r s) :
    OutKeeps r (execCycleCommit s) := by
  unfold execCycleCommit
  repeat' first
    | with_reducible assumption
    | with_reducible rfl
    | intro _
    | (with_reducible first | apply commitCycle_keeps | apply setB_keeps | apply OutKeeps.next | apply Keeps.ite | apply Keeps.foldl)
    | split
    | fail_if_no_progress (with_reducible (apply Keeps.upd <;> try rfl))

theorem execFaultReplay_keeps (d : Fin 4) (fault : DieFault) {s : State} (h : Keeps r s) :
    OutKeeps r (execFaultReplay d fault s) := by
  unfold execFaultReplay
  repeat' first
    | with_reducible assumption
    | with_reducible rfl
    | intro _
    | (with_reducible first | apply badNow_keeps | apply noteParity_keeps | apply noteFaults_keeps | apply unrecoverable_keeps | apply noteFault_keeps | apply tileRamAgain_keeps | apply OutKeeps.next | apply Keeps.ite | apply Keeps.foldl)
    | split
    | fail_if_no_progress (with_reducible (apply Keeps.upd <;> try rfl))

theorem holdForReplay_keeps {s : State} (h : Keeps r s) :
    Keeps r (holdForReplay s) := by
  unfold holdForReplay
  repeat' first
    | with_reducible assumption
    | with_reducible rfl
    | intro _
    | (with_reducible first | apply setF_keeps | apply setFBit_keeps | apply onDie_keeps | apply raiseSource_keeps | apply Keeps.ite | apply Keeps.foldl)
    | split
    | fail_if_no_progress (with_reducible (apply Keeps.upd <;> try rfl))

theorem makeRestore_keeps {s : State} (r_ : Replay) (h : Keeps r s) :
    Keeps r (makeRestore s r_) := by
  unfold makeRestore
  repeat' first
    | with_reducible assumption
    | with_reducible rfl
    | intro _
    | (with_reducible first | apply designReplay_keeps | apply restoreTo_keeps | apply bumpF_keeps | apply onRun_keeps | apply clearSource_keeps | apply onHolds_keeps | apply onLnk_keeps | apply raiseSource_keeps | apply showHeld_keeps | apply holdForReplay_keeps | apply setB_keeps | apply Keeps.ite | apply Keeps.foldl)
    | split
    | fail_if_no_progress (with_reducible (apply Keeps.upd <;> try rfl))

theorem execRestoreBoundary_keeps {s : State} (h : Keeps r s) :
    OutKeeps r (execRestoreBoundary s) := by
  unfold execRestoreBoundary
  repeat' first
    | with_reducible assumption
    | with_reducible rfl
    | intro _
    | (with_reducible first | apply enterFaulted_keeps | apply haltCause_keeps | apply makeRestore_keeps | apply OutKeeps.next | apply Keeps.ite | apply Keeps.foldl)
    | split
    | fail_if_no_progress (with_reducible (apply Keeps.upd <;> try rfl))

theorem execReplayRelease_keeps {s : State} (h : Keeps r s) :
    OutKeeps r (execReplayRelease s) := by
  unfold execReplayRelease
  repeat' first
    | with_reducible assumption
    | with_reducible rfl
    | intro _
    | (with_reducible first | apply setB_keeps | apply clearSource_keeps | apply onRun_keeps | apply withdraw_keeps | apply raiseSource_keeps | apply resumeDone_keeps | apply releaseDie_keeps | apply OutKeeps.next | apply Keeps.ite | apply Keeps.foldl)
    | split
    | fail_if_no_progress (with_reducible (apply Keeps.upd <;> try rfl))

theorem execScheduleFaultHalt_keeps {s : State} (h : Keeps r s) :
    OutKeeps r (execScheduleFaultHalt s) := by
  unfold execScheduleFaultHalt
  repeat' first
    | with_reducible assumption
    | with_reducible rfl
    | intro _
    | extract_lets
    | (with_reducible first | apply enterFaulted_keeps | apply OutKeeps.next | apply Keeps.ite | apply Keeps.foldl)
    | split
    | (refine Keeps.of_fst (by assumption) ?_)
    | (refine Keeps.of_snd (by assumption) ?_)
    | fail_if_no_progress (with_reducible (apply Keeps.upd <;> try rfl))
    | dsimp +zetaDelta only

theorem beginRunning_keeps {s : State} (h : Keeps r s) :
    Keeps r (beginRunning s) := by
  unfold beginRunning
  repeat' first
    | with_reducible assumption
    | with_reducible rfl
    | intro _
    | (with_reducible first | apply onRun_keeps | apply onLnk_keeps | apply setB_keeps | apply setF_keeps | apply armUserHold_keeps | apply leaveAllDeep_keeps | apply Keeps.ite | apply Keeps.foldl)
    | split
    | fail_if_no_progress (with_reducible (apply Keeps.upd <;> try rfl))

theorem startMachine_keeps {s : State} (h : Keeps r s) :
    Keeps r (startMachine s) := by
  unfold startMachine
  repeat' first
    | with_reducible assumption
    | with_reducible rfl
    | intro _
    | (with_reducible first | apply onRun_keeps | apply leaveAllDeep_keeps | apply beginRunning_keeps | apply Keeps.ite | apply Keeps.foldl)
    | split
    | fail_if_no_progress (with_reducible (apply Keeps.upd <;> try rfl))

theorem runBody_keeps (d : Desc) (n : Nat) (unbounded : Bool) {s : State} (h : Keeps r s) :
    Keeps r (runBody d n unbounded s) := by
  unfold runBody
  repeat' first
    | with_reducible assumption
    | with_reducible rfl
    | intro _
    | (with_reducible first | apply complete_keeps | apply endRun_keeps | apply endStops_keeps | apply onRun_keeps | apply restIfReached_keeps | apply startMachine_keeps | apply Keeps.ite | apply Keeps.foldl)
    | split
    | fail_if_no_progress (with_reducible (apply Keeps.upd <;> try rfl))

theorem execRun_keeps (d : Desc) (n : DWord) (unbounded : Bool) {s : State} (h : Keeps r s) :
    OutKeeps r (execRun d n unbounded s) := by
  unfold execRun
  repeat' first
    | with_reducible assumption
    | with_reducible rfl
    | intro _
    | (with_reducible first | apply startDesc_keeps | apply ungroupedRun_keeps | apply runGate_keeps | apply runBody_keeps | apply OutKeeps.next | apply Keeps.ite | apply Keeps.foldl)
    | split
    | fail_if_no_progress (with_reducible (apply Keeps.upd <;> try rfl))

theorem stopNextBody_keeps (d : Desc) {s : State} (h : Keeps r s) :
    Keeps r (stopNextBody d s) := by
  unfold stopNextBody
  repeat' first
    | with_reducible assumption
    | with_reducible rfl
    | intro _
    | (with_reducible first | apply restIfReached_keeps | apply onRun_keeps | apply endRun_keeps | apply complete_keeps | apply Keeps.ite | apply Keeps.foldl)
    | split
    | fail_if_no_progress (with_reducible (apply Keeps.upd <;> try rfl))

theorem execStopNext_keeps (d : Desc) {s : State} (h : Keeps r s) :
    OutKeeps r (execStopNext d s) := by
  unfold execStopNext
  repeat' first
    | with_reducible assumption
    | with_reducible rfl
    | intro _
    | (with_reducible first | apply startDesc_keeps | apply ungroupedRun_keeps | apply runGate_keeps | apply stopNextBody_keeps | apply OutKeeps.next | apply Keeps.ite | apply Keeps.foldl)
    | split
    | fail_if_no_progress (with_reducible (apply Keeps.upd <;> try rfl))

theorem stopCommittedBody_keeps (d : Desc) {s : State} (h : Keeps r s) :
    Keeps r (stopCommittedBody d s) := by
  unfold stopCommittedBody
  repeat' first
    | with_reducible assumption
    | with_reducible rfl
    | intro _
    | (with_reducible first | apply endRun_keeps | apply restStopped_keeps | apply designEnd_keeps | apply complete_keeps | apply endStops_keeps | apply Keeps.ite | apply Keeps.foldl)
    | split
    | fail_if_no_progress (with_reducible (apply Keeps.upd <;> try rfl))

theorem execStopAtCommitted_keeps (d : Desc) {s : State} (h : Keeps r s) :
    OutKeeps r (execStopAtCommitted d s) := by
  unfold execStopAtCommitted
  repeat' first
    | with_reducible assumption
    | with_reducible rfl
    | intro _
    | (with_reducible first | apply startDesc_keeps | apply ungroupedRun_keeps | apply runGate_keeps | apply stopCommittedBody_keeps | apply OutKeeps.next | apply Keeps.ite | apply Keeps.foldl)
    | split
    | fail_if_no_progress (with_reducible (apply Keeps.upd <;> try rfl))

theorem continueBody_keeps (d : Desc) {s : State} (h : Keeps r s) :
    Keeps r (continueBody d s) := by
  unfold continueBody
  repeat' first
    | with_reducible assumption
    | with_reducible rfl
    | intro _
    | (with_reducible first | apply complete_keeps | apply setF_keeps | apply Keeps.ite | apply Keeps.foldl)
    | split
    | fail_if_no_progress (with_reducible (apply Keeps.upd <;> try rfl))

theorem execContinueAfterFaultClear_keeps (d : Desc) {s : State} (h : Keeps r s) :
    OutKeeps r (execContinueAfterFaultClear d s) := by
  unfold execContinueAfterFaultClear
  repeat' first
    | with_reducible assumption
    | with_reducible rfl
    | intro _
    | (with_reducible first | apply startDesc_keeps | apply ungroupedRun_keeps | apply runGate_keeps | apply continueBody_keeps | apply OutKeeps.next | apply Keeps.ite | apply Keeps.foldl)
    | split
    | fail_if_no_progress (with_reducible (apply Keeps.upd <;> try rfl))

theorem execDescriptorNop_keeps (d : Desc) {s : State} (h : Keeps r s) :
    OutKeeps r (execDescriptorNop d s) := by
  unfold execDescriptorNop
  repeat' first
    | with_reducible assumption
    | with_reducible rfl
    | intro _
    | (with_reducible first | apply startDesc_keeps | apply ungrouped_keeps | apply complete_keeps | apply OutKeeps.next | apply Keeps.ite | apply Keeps.foldl)
    | split
    | fail_if_no_progress (with_reducible (apply Keeps.upd <;> try rfl))

theorem acceptWaiting_keeps (i : Instr) {s : State} (h : Keeps r s) :
    Keeps r (acceptWaiting i s) := by
  unfold acceptWaiting
  repeat' first
    | with_reducible assumption
    | with_reducible rfl
    | intro _
    | (with_reducible first | apply runNow_keeps | apply runBody_keeps | apply stopNextBody_keeps | apply stopCommittedBody_keeps | apply captureBody_keeps | apply hallmarkBody_keeps | apply restoreBody_keeps | apply continueBody_keeps | apply Keeps.ite | apply Keeps.foldl)
    | split
    | fail_if_no_progress (with_reducible (apply Keeps.upd <;> try rfl))

theorem execWaitingDescriptorAccept_keeps {s : State} (h : Keeps r s) :
    OutKeeps r (execWaitingDescriptorAccept s) := by
  unfold execWaitingDescriptorAccept
  repeat' first
    | with_reducible assumption
    | with_reducible rfl
    | intro _
    | (with_reducible first | apply acceptWaiting_keeps | apply onRun_keeps | apply OutKeeps.next | apply Keeps.ite | apply Keeps.foldl)
    | split
    | fail_if_no_progress (with_reducible (apply Keeps.upd <;> try rfl))

theorem takeSync_keeps {s : State} (h : Keeps r s) :
    Keeps r (takeSync s) := by
  unfold takeSync
  repeat' first
    | with_reducible assumption
    | with_reducible rfl
    | intro _
    | (with_reducible first | apply setB_keeps | apply setTime_keeps | apply beginRunning_keeps | apply Keeps.ite | apply Keeps.foldl)
    | split
    | fail_if_no_progress (with_reducible (apply Keeps.upd <;> try rfl))

theorem execSync_keeps {s : State} (h : Keeps r s) :
    OutKeeps r (execSync s) := by
  unfold execSync
  repeat' first
    | with_reducible assumption
    | with_reducible rfl
    | intro _
    | (with_reducible first | apply takeSync_keeps | apply OutKeeps.next | apply Keeps.ite | apply Keeps.foldl)
    | split
    | fail_if_no_progress (with_reducible (apply Keeps.upd <;> try rfl))

theorem execResume_keeps {s : State} (h : Keeps r s) :
    OutKeeps r (execResume s) := by
  unfold execResume
  repeat' first
    | with_reducible assumption
    | with_reducible rfl
    | intro _
    | (with_reducible first | apply rootResume_keeps | apply beginResume_keeps | apply OutKeeps.next | apply Keeps.ite | apply Keeps.foldl)
    | split
    | fail_if_no_progress (with_reducible (apply Keeps.upd <;> try rfl))

theorem endRunControl_keeps {s : State} (status : Nat) (h : Keeps r s) :
    Keeps r (endRunControl s status) := by
  unfold endRunControl
  repeat' first
    | with_reducible assumption
    | with_reducible rfl
    | intro _
    | (with_reducible first | apply endStops_keeps | apply endRun_keeps | apply complete_keeps | apply onAsy_keeps | apply setB_keeps | apply onRun_keeps | apply Keeps.ite | apply Keeps.foldl)
    | split
    | fail_if_no_progress (with_reducible (apply Keeps.upd <;> try rfl))

theorem cancelRunControl_keeps {s : State} (h : Keeps r s) :
    Keeps r (cancelRunControl s) := by
  unfold cancelRunControl
  repeat' first
    | with_reducible assumption
    | with_reducible rfl
    | intro _
    | (with_reducible first | apply endRunControl_keeps | apply Keeps.ite | apply Keeps.foldl)
    | split
    | fail_if_no_progress (with_reducible (apply Keeps.upd <;> try rfl))

end Sys2Proof.Machine
end

