-- ==== Sys2Proof/Laws/KeepsMarch.lean ====
section
/-! SUPPORT. What the operations of Machine/March.lean keep. -/

namespace Sys2Proof.Machine

variable {r : State}

set_option linter.unusedTactic false
set_option linter.unreachableTactic false

theorem fillWords_wf (k : Nat) (f : Nat → Nat) (n : Nat) {m : Memory} (h : Memory.wf marchFill m) :
    Memory.wf marchFill (fillWords k f n m) := by
  induction n generalizing m with
  | zero => exact h
  | succ n ih => exact ih (Memory.wf_writeBytes _ _ h _)

theorem scratchWords_keeps {s : State} (k : Nat) (f : Nat → Nat) (n : Nat) (h : Keeps r s) :
    Keeps r (onCtl s (fun c => { c with scratch := fillWords k f n c.scratch })) :=
  Keeps.ctl h _ (fun hw => fillWords_wf k f n hw)

theorem exrWords_keeps {s : State} (k : Nat) (f : Nat → Nat) (n : Nat) (h : Keeps r s) :
    Keeps r { s with mem := { s.mem with exr := fillWords k f n s.mem.exr } } :=
  Keeps.mem h _ (fun hw => hw) (fun hw => fillWords_wf k f n hw) (fun hw => hw)

theorem onCtl_keeps {s : State} {g : Ctl → Ctl} (hg : ∀ c, (g c).scratch = c.scratch) (h : Keeps r s) :
    Keeps r (onCtl s g) := Keeps.ctl h _ (fun k => (hg s.ctl).symm ▸ k)

theorem recordFail_keeps {s : State} (i : Nat) (f : Failure) (h : Keeps r s) :
    Keeps r (recordFail s i f) := by
  unfold recordFail
  repeat' first
    | with_reducible assumption
    | with_reducible rfl
    | intro _
    | (with_reducible first | apply setF_keeps | apply Keeps.ite | apply Keeps.foldl)
    | split
    | fail_if_no_progress (with_reducible (apply Keeps.upd <;> try rfl))

theorem noteFailures_keeps {s : State} (n : Nat) (fs : List Failure) (h : Keeps r s) :
    Keeps r (noteFailures s n fs) := by
  unfold noteFailures
  repeat' first
    | with_reducible assumption
    | with_reducible rfl
    | intro _
    | (with_reducible first | apply recordFail_keeps | apply bumpF_keeps | apply Keeps.ite | apply Keeps.foldl)
    | split
    | fail_if_no_progress (with_reducible (apply Keeps.upd <;> try rfl))

theorem endTest_keeps {s : State} (result : Nat) (h : Keeps r s) :
    Keeps r (endTest s result) := by
  unfold endTest
  repeat' first
    | with_reducible assumption
    | with_reducible rfl
    | intro _
    | (with_reducible first | apply onCtl_keeps | apply setB_keeps | apply setF_keeps | apply userReleaseNow_keeps | apply Keeps.ite | apply Keeps.foldl)
    | split
    | fail_if_no_progress (with_reducible (apply Keeps.upd <;> try rfl))

theorem fillScratch_keeps {s : State} (b : Nat) (w : Nat → Nat) (h : Keeps r s) : Keeps r (fillScratch s b w) := by
  unfold fillScratch
  exact scratchWords_keeps (b * 2097152) w 262144 h

theorem fillExr_keeps {s : State} (w : Nat → Nat) (h : Keeps r s) : Keeps r (fillExr s w) := by
  unfold fillExr
  exact exrWords_keeps 0 w 131072 h

theorem fillCtxs_keeps {s : State} (w : Nat → Nat) (h : Keeps r s) :
    Keeps r (fillCtxs s w) := by
  unfold fillCtxs
  repeat' first
    | with_reducible assumption
    | with_reducible rfl
    | intro _
    | (with_reducible first | apply Keeps.ite | apply Keeps.foldl)
    | split
    | fail_if_no_progress (with_reducible (apply Keeps.upd <;> try rfl))

theorem testLeaves_keeps {s : State} (m : MarchRun) (h : Keeps r s) :
    Keeps r (testLeaves s m) := by
  unfold testLeaves
  repeat' first
    | with_reducible assumption
    | with_reducible rfl
    | intro _
    | extract_lets
    | (with_reducible first | apply setB_keeps | apply onCtl_keeps | apply fillScratch_keeps | apply fillCtxs_keeps | apply fillExr_keeps | apply Keeps.ite | apply Keeps.foldl)
    | split
    | (refine Keeps.of_fst (by assumption) ?_)
    | (refine Keeps.of_snd (by assumption) ?_)
    | fail_if_no_progress (with_reducible (apply Keeps.upd <;> try rfl))
    | dsimp +zetaDelta only

theorem testScrubs_keeps {s : State} (m : MarchRun) (h : Keeps r s) :
    Keeps r (testScrubs s m) := by
  unfold testScrubs
  repeat' first
    | with_reducible assumption
    | with_reducible rfl
    | intro _
    | (with_reducible first | apply onDie_keeps | apply Keeps.ite | apply Keeps.foldl)
    | split
    | fail_if_no_progress (with_reducible (apply Keeps.upd <;> try rfl))

theorem marchStart_keeps {s : State} (h : Keeps r s) :
    Keeps r (marchStart s) := by
  unfold marchStart
  repeat' first
    | with_reducible assumption
    | with_reducible rfl
    | intro _
    | (with_reducible first | apply setF_keeps | apply onCtl_keeps | apply recordFail_keeps | apply setB_keeps | apply Keeps.ite | apply Keeps.foldl)
    | split
    | fail_if_no_progress (with_reducible (apply Keeps.upd <;> try rfl))

theorem marchAbort_keeps {s : State} (h : Keeps r s) :
    Keeps r (marchAbort s) := by
  unfold marchAbort
  repeat' first
    | with_reducible assumption
    | with_reducible rfl
    | intro _
    | (with_reducible first | apply endTest_keeps | apply Keeps.ite | apply Keeps.foldl)
    | split
    | fail_if_no_progress (with_reducible (apply Keeps.upd <;> try rfl))

theorem mtCtrlWrite_keeps {s : State} (v : Nat) (h : Keeps r s) :
    Keeps r (mtCtrlWrite s v) := by
  unfold mtCtrlWrite
  repeat' first
    | with_reducible assumption
    | with_reducible rfl
    | intro _
    | (with_reducible first | apply plainWrite_keeps | apply marchAbort_keeps | apply marchStart_keeps | apply Keeps.ite | apply Keeps.foldl)
    | split
    | fail_if_no_progress (with_reducible (apply Keeps.upd <;> try rfl))

theorem mtElemWrite_keeps {s : State} (k : Nat) (v : Nat) (h : Keeps r s) :
    Keeps r (mtElemWrite s k v) := by
  unfold mtElemWrite
  repeat' first
    | with_reducible assumption
    | with_reducible rfl
    | intro _
    | (with_reducible first | apply setF_keeps | apply Keeps.ite | apply Keeps.foldl)
    | split
    | fail_if_no_progress (with_reducible (apply Keeps.upd <;> try rfl))

theorem execMarchStart_keeps (value : Word) {s : State} (h : Keeps r s) :
    OutKeeps r (execMarchStart value s) := by
  unfold execMarchStart
  repeat' first
    | with_reducible assumption
    | with_reducible rfl
    | intro _
    | (with_reducible first | apply gatedWrite_keeps | apply mtCtrlWrite_keeps | apply OutKeeps.next | apply Keeps.ite | apply Keeps.foldl)
    | split
    | fail_if_no_progress (with_reducible (apply Keeps.upd <;> try rfl))

theorem execMarchAbort_keeps (value : Word) {s : State} (h : Keeps r s) :
    OutKeeps r (execMarchAbort value s) := by
  unfold execMarchAbort
  repeat' first
    | with_reducible assumption
    | with_reducible rfl
    | intro _
    | (with_reducible first | apply gatedWrite_keeps | apply mtCtrlWrite_keeps | apply OutKeeps.next | apply Keeps.ite | apply Keeps.foldl)
    | split
    | fail_if_no_progress (with_reducible (apply Keeps.upd <;> try rfl))

theorem saveUe_keeps {s : State} (m : MarchRun) (w : Nat) (h : Keeps r s) :
    Keeps r (saveUe s m w) := by
  unfold saveUe
  repeat' first
    | with_reducible assumption
    | with_reducible rfl
    | intro _
    | (with_reducible first | apply setB_keeps | apply setF_keeps | apply endTest_keeps | apply Keeps.ite | apply Keeps.foldl)
    | split
    | fail_if_no_progress (with_reducible (apply Keeps.upd <;> try rfl))

theorem wordGroup_keeps {s : State} (m : MarchRun) (ue : Option (Fin 64)) (cells : List Failure) (h : Keeps r s) :
    Keeps r (wordGroup s m ue cells) := by
  unfold wordGroup
  repeat' first
    | with_reducible assumption
    | with_reducible rfl
    | intro _
    | (with_reducible first | apply saveUe_keeps | apply noteFailures_keeps | apply onCtl_keeps | apply setF_keeps | apply endTest_keeps | apply testScrubs_keeps | apply Keeps.ite | apply Keeps.foldl)
    | split
    | fail_if_no_progress (with_reducible (apply Keeps.upd <;> try rfl))

theorem wholeGroup_keeps {s : State} (m : MarchRun) (cells : List Failure) (h : Keeps r s) :
    Keeps r (wholeGroup s m cells) := by
  unfold wholeGroup
  repeat' first
    | with_reducible assumption
    | with_reducible rfl
    | intro _
    | (with_reducible first | apply setF_keeps | apply noteFailures_keeps | apply endTest_keeps | apply testLeaves_keeps | apply Keeps.ite | apply Keeps.foldl)
    | split
    | fail_if_no_progress (with_reducible (apply Keeps.upd <;> try rfl))

theorem execMarchWordGroup_keeps (ue : Option (Fin 64)) (fails : List MarchFail) {s : State} (h : Keeps r s) :
    OutKeeps r (execMarchWordGroup ue fails s) := by
  unfold execMarchWordGroup
  repeat' first
    | with_reducible assumption
    | with_reducible rfl
    | intro _
    | (with_reducible first | apply wordGroup_keeps | apply wholeGroup_keeps | apply OutKeeps.next | apply Keeps.ite | apply Keeps.foldl)
    | split
    | fail_if_no_progress (with_reducible (apply Keeps.upd <;> try rfl))

theorem marchMeets_keeps {s : State} (d : Fin 4) (p : Nat) (h : Keeps r s) :
    Keeps r (marchMeets s d p) := by
  unfold marchMeets
  repeat' first
    | with_reducible assumption
    | with_reducible rfl
    | intro _
    | (with_reducible first | apply endTest_keeps | apply Keeps.ite | apply Keeps.foldl)
    | split
    | fail_if_no_progress (with_reducible (apply Keeps.upd <;> try rfl))

end Sys2Proof.Machine
end

