-- ==== Sys2Proof/Laws/KeepsRetire.lean ====
section
/-! SUPPORT. What the operations of Machine/Retire.lean keep. -/

namespace Sys2Proof.Machine

variable {r : State}

set_option linter.unusedTactic false
set_option linter.unreachableTactic false

theorem showSpares_keeps {s : State} (d : Fin 4) (h : Keeps r s) :
    Keeps r (showSpares s d) := by
  unfold showSpares
  repeat' first
    | with_reducible assumption
    | with_reducible rfl
    | intro _
    | (with_reducible first | apply setF_keeps | apply Keeps.ite | apply Keeps.foldl)
    | split
    | fail_if_no_progress (with_reducible (apply Keeps.upd <;> try rfl))

theorem noSpare_keeps {s : State} (d : Fin 4) (p : Nat) (h : Keeps r s) :
    Keeps r (noSpare s d p) := by
  unfold noSpare
  repeat' first
    | with_reducible assumption
    | with_reducible rfl
    | intro _
    | (with_reducible first | apply setB_keeps | apply logRecord_keeps | apply Keeps.ite | apply Keeps.foldl)
    | split
    | fail_if_no_progress (with_reducible (apply Keeps.upd <;> try rfl))

theorem rebind_keeps {s : State} (d : Fin 4) (p : Nat) (h : Keeps r s) :
    Keeps r (rebind s d p) := by
  unfold rebind
  repeat' first
    | with_reducible assumption
    | with_reducible rfl
    | intro _
    | (with_reducible first | apply noSpare_keeps | apply onDie_keeps | apply bumpF_keeps | apply showSpares_keeps | apply logRecord_keeps | apply Keeps.ite | apply Keeps.foldl)
    | split
    | fail_if_no_progress (with_reducible (apply Keeps.upd <;> try rfl))

theorem beginRetire_keeps {s : State} (d : Fin 4) (p : Nat) (h : Keeps r s) :
    Keeps r (beginRetire s d p) := by
  unfold beginRetire
  repeat' first
    | with_reducible assumption
    | with_reducible rfl
    | intro _
    | (with_reducible first | apply marchMeets_keeps | apply noSpare_keeps | apply onRun_keeps | apply enforceFrozen_keeps | apply announce_keeps | apply setB_keeps | apply rebind_keeps | apply Keeps.ite | apply Keeps.foldl)
    | split
    | fail_if_no_progress (with_reducible (apply Keeps.upd <;> try rfl))

theorem endRetire_keeps {s : State} (d : Fin 4) (p : Nat) (copyOk : Bool) (h : Keeps r s) :
    Keeps r (endRetire s d p copyOk) := by
  unfold endRetire
  repeat' first
    | with_reducible assumption
    | with_reducible rfl
    | intro _
    | (with_reducible first | apply withdraw_keeps | apply setB_keeps | apply onRun_keeps | apply rebind_keeps | apply enterFaulted_keeps | apply Keeps.ite | apply Keeps.foldl)
    | split
    | fail_if_no_progress (with_reducible (apply Keeps.upd <;> try rfl))

theorem execTileRetirement_keeps (d : Fin 4) (phys : Fin 66) (copyOk : Bool) {s : State} (h : Keeps r s) :
    OutKeeps r (execTileRetirement d phys copyOk s) := by
  unfold execTileRetirement
  repeat' first
    | with_reducible assumption
    | with_reducible rfl
    | intro _
    | (with_reducible first | apply endRetire_keeps | apply beginRetire_keeps | apply OutKeeps.next | apply Keeps.ite | apply Keeps.foldl)
    | split
    | fail_if_no_progress (with_reducible (apply Keeps.upd <;> try rfl))

theorem retireWrite_keeps {s : State} (v : Nat) (h : Keeps r s) :
    Keeps r (retireWrite s v) := by
  unfold retireWrite
  repeat' first
    | with_reducible assumption
    | with_reducible rfl
    | intro _
    | (with_reducible first | apply plainWrite_keeps | apply beginRetire_keeps | apply Keeps.ite | apply Keeps.foldl)
    | split
    | fail_if_no_progress (with_reducible (apply Keeps.upd <;> try rfl))

theorem execGo_keeps (value : Word) {s : State} (h : Keeps r s) :
    OutKeeps r (execGo value s) := by
  unfold execGo
  repeat' first
    | with_reducible assumption
    | with_reducible rfl
    | intro _
    | (with_reducible first | apply retireWrite_keeps | apply OutKeeps.next | apply Keeps.ite | apply Keeps.foldl)
    | split
    | fail_if_no_progress (with_reducible (apply Keeps.upd <;> try rfl))

theorem lanesOut_keeps {s : State} (d : Fin 4) (h : Keeps r s) :
    Keeps r (lanesOut s d) := by
  unfold lanesOut
  repeat' first
    | with_reducible assumption
    | with_reducible rfl
    | intro _
    | (with_reducible first | apply setB_keeps | apply logRecord_keeps | apply Keeps.ite | apply Keeps.foldl)
    | split
    | fail_if_no_progress (with_reducible (apply Keeps.upd <;> try rfl))

theorem spareLane_keeps {s : State} (d : Fin 4) (lane : Nat) (h : Keeps r s) :
    Keeps r (spareLane s d lane) := by
  unfold spareLane
  repeat' first
    | with_reducible assumption
    | with_reducible rfl
    | intro _
    | (with_reducible first | apply lanesOut_keeps | apply onDie_keeps | apply showSpares_keeps | apply logRecord_keeps | apply Keeps.ite | apply Keeps.foldl)
    | split
    | fail_if_no_progress (with_reducible (apply Keeps.upd <;> try rfl))

theorem locateLane_keeps {s : State} (d : Fin 4) (g : Nat) (failing : Option (Fin 16)) (h : Keeps r s) :
    Keeps r (locateLane s d g failing) := by
  unfold locateLane
  repeat' first
    | with_reducible assumption
    | with_reducible rfl
    | intro _
    | (with_reducible first | apply onRun_keeps | apply withdraw_keeps | apply onDie_keeps | apply spareLane_keeps | apply Keeps.ite | apply Keeps.foldl)
    | split
    | fail_if_no_progress (with_reducible (apply Keeps.upd <;> try rfl))

theorem announceSparing_keeps {s : State} (h : Keeps r s) :
    Keeps r (announceSparing s) := by
  unfold announceSparing
  repeat' first
    | with_reducible assumption
    | with_reducible rfl
    | intro _
    | (with_reducible first | apply enforceFrozen_keeps | apply announce_keeps | apply Keeps.ite | apply Keeps.foldl)
    | split
    | fail_if_no_progress (with_reducible (apply Keeps.upd <;> try rfl))

theorem execLaneSparing_keeps (d : Fin 4) (group : Fin 512) (failing : Option (Fin 16)) {s : State} (h : Keeps r s) :
    OutKeeps r (execLaneSparing d group failing s) := by
  unfold execLaneSparing
  repeat' first
    | with_reducible assumption
    | with_reducible rfl
    | intro _
    | (with_reducible first | apply locateLane_keeps | apply announceSparing_keeps | apply onRun_keeps | apply OutKeeps.next | apply Keeps.ite | apply Keeps.foldl)
    | split
    | fail_if_no_progress (with_reducible (apply Keeps.upd <;> try rfl))

theorem upsetWord_keeps {s : State} (d : Fin 4) (p : Nat) (mem : Nat) (word : Nat) (e : Ecc) (h : Keeps r s) :
    Keeps r (upsetWord s d p mem word e) := by
  unfold upsetWord
  repeat' first
    | with_reducible assumption
    | with_reducible rfl
    | intro _
    | (with_reducible first | apply onDie_keeps | apply Keeps.ite | apply Keeps.foldl)
    | split
    | fail_if_no_progress (with_reducible (apply Keeps.upd <;> try rfl))

theorem scrubWord_keeps {s : State} (d : Fin 4) (p : Nat) (mem : Nat) (word : Nat) (ecc : Ecc) (h : Keeps r s) :
    Keeps r (scrubWord s d p mem word ecc) := by
  unfold scrubWord
  repeat' first
    | with_reducible assumption
    | with_reducible rfl
    | intro _
    | extract_lets
    | (with_reducible first | apply bumpF_keeps | apply onDie_keeps | apply Keeps.ite | apply Keeps.foldl)
    | split
    | (refine Keeps.of_fst (by assumption) ?_)
    | (refine Keeps.of_snd (by assumption) ?_)
    | fail_if_no_progress (with_reducible (apply Keeps.upd <;> try rfl))
    | dsimp +zetaDelta only

theorem execTileScrub_keeps (d : Fin 4) (phys : Fin 66) (w : TileWord) (ecc : Ecc) (upset : Option (TileWord × Ecc)) {s : State} (h : Keeps r s) :
    OutKeeps r (execTileScrub d phys w ecc upset s) := by
  unfold execTileScrub
  repeat' first
    | with_reducible assumption
    | with_reducible rfl
    | intro _
    | extract_lets
    | (with_reducible first | apply scrubWord_keeps | apply upsetWord_keeps | apply OutKeeps.next | apply Keeps.ite | apply Keeps.foldl)
    | split
    | (refine Keeps.of_fst (by assumption) ?_)
    | (refine Keeps.of_snd (by assumption) ?_)
    | fail_if_no_progress (with_reducible (apply Keeps.upd <;> try rfl))
    | dsimp +zetaDelta only

end Sys2Proof.Machine
end

