-- ==== Sys2Proof/Laws/KeepsClocks.lean ====
section
/-! SUPPORT. What the operations of Machine/Clocks.lean keep. -/

namespace Sys2Proof.Machine

variable {r : State}

set_option linter.unusedTactic false
set_option linter.unreachableTactic false

theorem onClk_keeps {s : State} (g : ClkSt → ClkSt) (h : Keeps r s) :
    Keeps r (onClk s g) := by
  unfold onClk
  repeat' first
    | with_reducible assumption
    | with_reducible rfl
    | intro _
    | (with_reducible first | apply Keeps.ite | apply Keeps.foldl)
    | split
    | fail_if_no_progress (with_reducible (apply Keeps.upd <;> try rfl))

theorem settleSclk_keeps {s : State} (h : Keeps r s) :
    Keeps r (settleSclk s) := by
  unfold settleSclk
  repeat' first
    | with_reducible assumption
    | with_reducible rfl
    | intro _
    | (with_reducible first | apply setB_keeps | apply setF_keeps | apply onClk_keeps | apply Keeps.ite | apply Keeps.foldl)
    | split
    | fail_if_no_progress (with_reducible (apply Keeps.upd <;> try rfl))

theorem completeSwitch_keeps {s : State} (i : Nat) (h : Keeps r s) :
    Keeps r (completeSwitch s i) := by
  unfold completeSwitch
  repeat' first
    | with_reducible assumption
    | with_reducible rfl
    | intro _
    | (with_reducible first | apply settleSclk_keeps | apply setF_keeps | apply setB_keeps | apply Keeps.ite | apply Keeps.foldl)
    | split
    | fail_if_no_progress (with_reducible (apply Keeps.upd <;> try rfl))

theorem switchWrite_keeps {s : State} (i : Nat) (v : Nat) (oldRuns : Bool) (newRuns : Bool) (h : Keeps r s) :
    Keeps r (switchWrite s i v oldRuns newRuns) := by
  unfold switchWrite
  repeat' first
    | with_reducible assumption
    | with_reducible rfl
    | intro _
    | (with_reducible first | apply plainWrite_keeps | apply setB_keeps | apply completeSwitch_keeps | apply Keeps.ite | apply Keeps.foldl)
    | split
    | fail_if_no_progress (with_reducible (apply Keeps.upd <;> try rfl))

theorem execClockSwitch_keeps (i : Fin 27) (value : Word) (oldRuns : Bool) (newRuns : Bool) {s : State} (h : Keeps r s) :
    OutKeeps r (execClockSwitch i value oldRuns newRuns s) := by
  unfold execClockSwitch
  repeat' first
    | with_reducible assumption
    | with_reducible rfl
    | intro _
    | (with_reducible first | apply switchWrite_keeps | apply OutKeeps.next | apply Keeps.ite | apply Keeps.foldl)
    | split
    | fail_if_no_progress (with_reducible (apply Keeps.upd <;> try rfl))

theorem showUclks_keeps {s : State} (h_ : Nat) (on : Bool) (h : Keeps r s) :
    Keeps r (showUclks s h_ on) := by
  unfold showUclks
  repeat' first
    | with_reducible assumption
    | with_reducible rfl
    | intro _
    | (with_reducible first | apply setB_keeps | apply Keeps.ite | apply Keeps.foldl)
    | split
    | fail_if_no_progress (with_reducible (apply Keeps.upd <;> try rfl))

theorem endHoldover_keeps {s : State} (h : Keeps r s) :
    Keeps r (endHoldover s) := by
  unfold endHoldover
  repeat' first
    | with_reducible assumption
    | with_reducible rfl
    | intro _
    | (with_reducible first | apply setB_keeps | apply onClk_keeps | apply bumpF_keeps | apply Keeps.ite | apply Keeps.foldl)
    | split
    | fail_if_no_progress (with_reducible (apply Keeps.upd <;> try rfl))

theorem pllStable_keeps {s : State} (p : Nat) (h : Keeps r s) :
    Keeps r (pllStable s p) := by
  unfold pllStable
  repeat' first
    | with_reducible assumption
    | with_reducible rfl
    | intro _
    | (with_reducible first | apply setFBit_keeps | apply completeSwitch_keeps | apply showUclks_keeps | apply endHoldover_keeps | apply Keeps.ite | apply Keeps.foldl)
    | split
    | fail_if_no_progress (with_reducible (apply Keeps.upd <;> try rfl))

theorem execPllStable_keeps (p : Fin 29) {s : State} (h : Keeps r s) :
    OutKeeps r (execPllStable p s) := by
  unfold execPllStable
  repeat' first
    | with_reducible assumption
    | with_reducible rfl
    | intro _
    | (with_reducible first | apply pllStable_keeps | apply OutKeeps.next | apply Keeps.ite | apply Keeps.foldl)
    | split
    | fail_if_no_progress (with_reducible (apply Keeps.upd <;> try rfl))

theorem unlocked_keeps {s : State} (p : Nat) (h : Keeps r s) :
    Keeps r (unlocked s p) := by
  unfold unlocked
  repeat' first
    | with_reducible assumption
    | with_reducible rfl
    | intro _
    | (with_reducible first | apply setF_keeps | apply setB_keeps | apply badNow_keeps | apply setFBit_keeps | apply retrainLink_keeps | apply showUclks_keeps | apply Keeps.ite | apply Keeps.foldl)
    | split
    | fail_if_no_progress (with_reducible (apply Keeps.upd <;> try rfl))

theorem execPllUnlock_keeps (p : Fin 29) {s : State} (h : Keeps r s) :
    OutKeeps r (execPllUnlock p s) := by
  unfold execPllUnlock
  repeat' first
    | with_reducible assumption
    | with_reducible rfl
    | intro _
    | (with_reducible first | apply unlocked_keeps | apply bumpF_keeps | apply setFBit_keeps | apply OutKeeps.next | apply Keeps.ite | apply Keeps.foldl)
    | split
    | fail_if_no_progress (with_reducible (apply Keeps.upd <;> try rfl))

theorem announceSoon_keeps {s : State} (n : Nat) (h : Keeps r s) :
    Keeps r (announceSoon s n) := by
  unfold announceSoon
  repeat' first
    | with_reducible assumption
    | with_reducible rfl
    | intro _
    | (with_reducible first | apply enforceFrozen_keeps | apply announce_keeps | apply Keeps.ite | apply Keeps.foldl)
    | split
    | fail_if_no_progress (with_reducible (apply Keeps.upd <;> try rfl))

theorem clockHold_keeps {s : State} (h : Keeps r s) :
    Keeps r (clockHold s) := by
  unfold clockHold
  repeat' first
    | with_reducible assumption
    | with_reducible rfl
    | intro _
    | (with_reducible first | apply announceSoon_keeps | apply onClk_keeps | apply Keeps.ite | apply Keeps.foldl)
    | split
    | fail_if_no_progress (with_reducible (apply Keeps.upd <;> try rfl))

theorem execRefclkLoss_keeps {s : State} (h : Keeps r s) :
    OutKeeps r (execRefclkLoss s) := by
  unfold execRefclkLoss
  repeat' first
    | with_reducible assumption
    | with_reducible rfl
    | intro _
    | (with_reducible first | apply onClk_keeps | apply setB_keeps | apply clockHold_keeps | apply OutKeeps.next | apply Keeps.ite | apply Keeps.foldl)
    | split
    | fail_if_no_progress (with_reducible (apply Keeps.upd <;> try rfl))

theorem steeringLost_keeps {s : State} (h : Keeps r s) :
    Keeps r (steeringLost s) := by
  unfold steeringLost
  repeat' first
    | with_reducible assumption
    | with_reducible rfl
    | intro _
    | (with_reducible first | apply clockHold_keeps | apply setB_keeps | apply Keeps.ite | apply Keeps.foldl)
    | split
    | fail_if_no_progress (with_reducible (apply Keeps.upd <;> try rfl))

theorem execHoldoverExpiry_keeps {s : State} (h : Keeps r s) :
    OutKeeps r (execHoldoverExpiry s) := by
  unfold execHoldoverExpiry
  repeat' first
    | with_reducible assumption
    | with_reducible rfl
    | intro _
    | (with_reducible first | apply clockHold_keeps | apply OutKeeps.next | apply Keeps.ite | apply Keeps.foldl)
    | split
    | fail_if_no_progress (with_reducible (apply Keeps.upd <;> try rfl))

theorem execRefclkReturn_keeps {s : State} (h : Keeps r s) :
    OutKeeps r (execRefclkReturn s) := by
  unfold execRefclkReturn
  repeat' first
    | with_reducible assumption
    | with_reducible rfl
    | intro _
    | (with_reducible first | apply onClk_keeps | apply setF_keeps | apply completeSwitch_keeps | apply OutKeeps.next | apply Keeps.ite | apply Keeps.foldl)
    | split
    | fail_if_no_progress (with_reducible (apply Keeps.upd <;> try rfl))

theorem setPlan_keeps {s : State} (t : Nat) (s0 : Nat) (h : Keeps r s) :
    Keeps r (setPlan s t s0) := by
  unfold setPlan
  repeat' first
    | with_reducible assumption
    | with_reducible rfl
    | intro _
    | (with_reducible first | apply setB_keeps | apply setF_keeps | apply onClk_keeps | apply Keeps.ite | apply Keeps.foldl)
    | split
    | fail_if_no_progress (with_reducible (apply Keeps.upd <;> try rfl))

theorem setVoltages_keeps {s : State} (D : Nat) (h : Keeps r s) :
    Keeps r (setVoltages s D) := by
  unfold setVoltages
  repeat' first
    | with_reducible assumption
    | with_reducible rfl
    | intro _
    | (with_reducible first | apply emit_keeps | apply Keeps.ite | apply Keeps.foldl)
    | split
    | fail_if_no_progress (with_reducible (apply Keeps.upd <;> try rfl))

theorem spreadPlan_keeps {s : State} (s0 : Nat) (h : Keeps r s) :
    Keeps r (spreadPlan s s0) := by
  unfold spreadPlan
  repeat' first
    | with_reducible assumption
    | with_reducible rfl
    | intro _
    | (with_reducible first | apply onClk_keeps | apply sendMgmt_keeps | apply Keeps.ite | apply Keeps.foldl)
    | split
    | fail_if_no_progress (with_reducible (apply Keeps.upd <;> try rfl))

theorem execRampPlan_keeps (target : BitVec 11) (sigma0 : Nat) {s : State} (h : Keeps r s) :
    OutKeeps r (execRampPlan target sigma0 s) := by
  unfold execRampPlan
  repeat' first
    | with_reducible assumption
    | with_reducible rfl
    | intro _
    | (with_reducible first | apply spreadPlan_keeps | apply setPlan_keeps | apply setVoltages_keeps | apply OutKeeps.next | apply Keeps.ite | apply Keeps.foldl)
    | split
    | fail_if_no_progress (with_reducible (apply Keeps.upd <;> try rfl))

theorem execRampStep_keeps {s : State} (h : Keeps r s) :
    OutKeeps r (execRampStep s) := by
  unfold execRampStep
  repeat' first
    | with_reducible assumption
    | with_reducible rfl
    | intro _
    | (with_reducible first | apply setF_keeps | apply setVoltages_keeps | apply setB_keeps | apply onClk_keeps | apply OutKeeps.next | apply Keeps.ite | apply Keeps.foldl)
    | split
    | fail_if_no_progress (with_reducible (apply Keeps.upd <;> try rfl))

theorem showThrottled_keeps {s : State} (h : Keeps r s) :
    Keeps r (showThrottled s) := by
  unfold showThrottled
  repeat' first
    | with_reducible assumption
    | with_reducible rfl
    | intro _
    | (with_reducible first | apply setB_keeps | apply Keeps.ite | apply Keeps.foldl)
    | split
    | fail_if_no_progress (with_reducible (apply Keeps.upd <;> try rfl))

theorem wantDivisor_keeps {s : State} (w : Option Nat) (h : Keeps r s) :
    Keeps r (wantDivisor s w) := by
  unfold wantDivisor
  repeat' first
    | with_reducible assumption
    | with_reducible rfl
    | intro _
    | (with_reducible first | apply showThrottled_keeps | apply onClk_keeps | apply sendMgmt_keeps | apply Keeps.ite | apply Keeps.foldl)
    | split
    | fail_if_no_progress (with_reducible (apply Keeps.upd <;> try rfl))

theorem execPowerStewardTick_keeps (r_ : StewardReadings) {s : State} (h : Keeps r s) :
    OutKeeps r (execPowerStewardTick r_ s) := by
  unfold execPowerStewardTick
  repeat' first
    | with_reducible assumption
    | with_reducible rfl
    | intro _
    | (with_reducible first | apply setF_keeps | apply onClk_keeps | apply wantDivisor_keeps | apply OutKeeps.next | apply Keeps.ite | apply Keeps.foldl)
    | split
    | fail_if_no_progress (with_reducible (apply Keeps.upd <;> try rfl))

theorem stopCommitted_keeps {s : State} (h : Keeps r s) :
    Keeps r (stopCommitted s) := by
  unfold stopCommitted
  repeat' first
    | with_reducible assumption
    | with_reducible rfl
    | intro _
    | (with_reducible first | apply endStops_keeps | apply restStopped_keeps | apply designEnd_keeps | apply endRun_keeps | apply Keeps.ite | apply Keeps.foldl)
    | split
    | fail_if_no_progress (with_reducible (apply Keeps.upd <;> try rfl))

theorem tripPlan_keeps {s : State} (h : Keeps r s) :
    Keeps r (tripPlan s) := by
  unfold tripPlan
  repeat' first
    | with_reducible assumption
    | with_reducible rfl
    | intro _
    | (with_reducible first | apply setPlan_keeps | apply spreadPlan_keeps | apply wantDivisor_keeps | apply Keeps.ite | apply Keeps.foldl)
    | split
    | fail_if_no_progress (with_reducible (apply Keeps.upd <;> try rfl))

theorem execThermalTrip_keeps {s : State} (h : Keeps r s) :
    OutKeeps r (execThermalTrip s) := by
  unfold execThermalTrip
  repeat' first
    | with_reducible assumption
    | with_reducible rfl
    | intro _
    | (with_reducible first | apply tripPlan_keeps | apply sendMgmt_keeps | apply stopCommitted_keeps | apply onClk_keeps | apply setB_keeps | apply OutKeeps.next | apply Keeps.ite | apply Keeps.foldl)
    | split
    | fail_if_no_progress (with_reducible (apply Keeps.upd <;> try rfl))

theorem execPmbAlert_keeps (faulty : BitVec 16) {s : State} (h : Keeps r s) :
    OutKeeps r (execPmbAlert faulty s) := by
  unfold execPmbAlert
  repeat' first
    | with_reducible assumption
    | with_reducible rfl
    | intro _
    | (with_reducible first | apply setB_keeps | apply wantDivisor_keeps | apply OutKeeps.next | apply Keeps.ite | apply Keeps.foldl)
    | split
    | fail_if_no_progress (with_reducible (apply Keeps.upd <;> try rfl))

end Sys2Proof.Machine
end

