-- ==== Sys2Proof/Laws/KeepsManagement.lean ====
section
/-! SUPPORT. What the operations of Machine/Management.lean keep. -/

namespace Sys2Proof.Machine

variable {r : State}

set_option linter.unusedTactic false
set_option linter.unreachableTactic false

theorem partDone_keeps {s : State} (hallmark : Bool) (p : Nat) (h : Keeps r s) :
    Keeps r (partDone s hallmark p) := by
  unfold partDone
  repeat' first
    | with_reducible assumption
    | with_reducible rfl
    | intro _
    | (with_reducible first | apply onRun_keeps | apply onAsy_keeps | apply Keeps.ite | apply Keeps.foldl)
    | split
    | fail_if_no_progress (with_reducible (apply Keeps.upd <;> try rfl))

theorem captureFor_keeps {s : State} (p : Nat) (tileRam : Bool) (w : Nat) (off : Nat) (nb : Nat) (h : Keeps r s) :
    Keeps r (captureFor s p tileRam w off nb) := by
  unfold captureFor
  repeat' first
    | with_reducible assumption
    | with_reducible rfl
    | intro _
    | (with_reducible first | apply sendMgmt_keeps | apply winStore_keeps | apply Keeps.ite | apply Keeps.foldl)
    | split
    | fail_if_no_progress (with_reducible (apply Keeps.upd <;> try rfl))

theorem hallmarkFor_keeps {s : State} (p : Nat) (slot : Nat) (seq : Nat) (nb : Nat) (h : Keeps r s) :
    Keeps r (hallmarkFor s p slot seq nb) := by
  unfold hallmarkFor
  repeat' first
    | with_reducible assumption
    | with_reducible rfl
    | intro _
    | (with_reducible first | apply sendMgmt_keeps | apply showSlot_keeps | apply winStore_keeps | apply Keeps.ite | apply Keeps.foldl)
    | split
    | fail_if_no_progress (with_reducible (apply Keeps.upd <;> try rfl))

theorem takeHallmarkCheck_keeps {s : State} (p : Nat) (status : Nat) (seq : Nat) (h : Keeps r s) :
    Keeps r (takeHallmarkCheck s p status seq) := by
  unfold takeHallmarkCheck
  repeat' first
    | with_reducible assumption
    | with_reducible rfl
    | intro _
    | (with_reducible first | apply judgeHallmark_keeps | apply onRun_keeps | apply Keeps.ite | apply Keeps.foldl)
    | split
    | fail_if_no_progress (with_reducible (apply Keeps.upd <;> try rfl))

theorem takeRestoreCheck_keeps {s : State} (p : Nat) (pass : Bool) (cycle : Nat) (seq : Nat) (machineId : BitVec 128) (h : Keeps r s) :
    Keeps r (takeRestoreCheck s p pass cycle seq machineId) := by
  unfold takeRestoreCheck
  repeat' first
    | with_reducible assumption
    | with_reducible rfl
    | intro _
    | (with_reducible first | apply onRun_keeps | apply complete_keeps | apply setB_keeps | apply Keeps.ite | apply Keeps.foldl)
    | split
    | fail_if_no_progress (with_reducible (apply Keeps.upd <;> try rfl))

theorem restoreFor_keeps {s : State} (slot : Nat) (h : Keeps r s) :
    Keeps r (restoreFor s slot) := by
  unfold restoreFor
  repeat' first
    | with_reducible assumption
    | with_reducible rfl
    | intro _
    | (with_reducible first | apply applyRestore_keeps | apply Keeps.ite | apply Keeps.foldl)
    | split
    | fail_if_no_progress (with_reducible (apply Keeps.upd <;> try rfl))

theorem planFor_keeps {s : State} (p : Nat) (t : Nat) (s0 : Nat) (h : Keeps r s) :
    Keeps r (planFor s p t s0) := by
  unfold planFor
  repeat' first
    | with_reducible assumption
    | with_reducible rfl
    | intro _
    | (with_reducible first | apply sendMgmt_keeps | apply setPlan_keeps | apply setVoltages_keeps | apply Keeps.ite | apply Keeps.foldl)
    | split
    | fail_if_no_progress (with_reducible (apply Keeps.upd <;> try rfl))

theorem takeTraffic_keeps {s : State} (p : Nat) (m : MgmtTraffic) (h : Keeps r s) :
    Keeps r (takeTraffic s p m) := by
  unfold takeTraffic
  repeat' first
    | with_reducible assumption
    | with_reducible rfl
    | intro _
    | (with_reducible first | apply serveFor_keeps | apply takeReply_keeps | apply captureFor_keeps | apply hallmarkFor_keeps | apply sendMgmt_keeps | apply takeHallmarkCheck_keeps | apply takeRestoreCheck_keeps | apply restoreFor_keeps | apply partDone_keeps | apply onClk_keeps | apply planFor_keeps | apply stopCommitted_keeps | apply Keeps.ite | apply Keeps.foldl)
    | split
    | fail_if_no_progress (with_reducible (apply Keeps.upd <;> try rfl))

theorem execMgmtFrame_keeps (l : Fin 16) (f : MgmtIn) {s : State} (h : Keeps r s) :
    OutKeeps r (execMgmtFrame l f s) := by
  unfold execMgmtFrame
  repeat' first
    | with_reducible assumption
    | with_reducible rfl
    | intro _
    | (with_reducible first | apply frameIn__keeps | apply takeWords_keeps | apply takeTraffic_keeps | apply OutKeeps.next | apply Keeps.ite | apply Keeps.foldl)
    | split
    | fail_if_no_progress (with_reducible (apply Keeps.upd <;> try rfl))

end Sys2Proof.Machine
end

