-- ==== Sys2Proof/Laws/KeepsBanks.lean ====
section
/-! SUPPORT. What the operations of Machine/Banks.lean keep. -/

namespace Sys2Proof.Machine

variable {r : State}

set_option linter.unusedTactic false
set_option linter.unreachableTactic false

theorem reserved_keeps {s : State} (off : Nat) (write : Bool) (h : Keeps r s) :
    Keeps r (reserved s off write) := by
  unfold reserved
  repeat' first
    | with_reducible assumption
    | with_reducible rfl
    | intro _
    | (with_reducible first | apply setF_keeps | apply setB_keeps | apply emit_keeps | apply Keeps.ite | apply Keeps.foldl)
    | split
    | fail_if_no_progress (with_reducible (apply Keeps.upd <;> try rfl))

theorem execReservedAccess_keeps (offset : BitVec 26) (write : Bool) (atomic : Bool) {s : State} (h : Keeps r s) :
    OutKeeps r (execReservedAccess offset write atomic s) := by
  unfold execReservedAccess
  repeat' first
    | with_reducible assumption
    | with_reducible rfl
    | intro _
    | (with_reducible first | apply reserved_keeps | apply OutKeeps.next | apply Keeps.ite | apply Keeps.foldl)
    | split
    | fail_if_no_progress (with_reducible (apply Keeps.upd <;> try rfl))

theorem exrStore_keeps {s : State} (a : Nat) (bs : List (Option Byte)) (h : Keeps r s) : Keeps r (exrStore s a bs) :=
  Keeps.mem h _ (fun k => k) (fun k => Memory.wf_writeEnabled _ bs k a) (fun k => k)

theorem portBWord_keeps {s : State} (w : Nat × List (Option Byte)) (h : Keeps r s) :
    Keeps r (portBWord s w) := by
  unfold portBWord
  repeat' first
    | with_reducible assumption
    | with_reducible rfl
    | intro _
    | (with_reducible first | apply bumpF_keeps | apply setF_keeps | apply setB_keeps | apply exrStore_keeps | apply Keeps.ite | apply Keeps.foldl)
    | split
    | fail_if_no_progress (with_reducible (apply Keeps.upd <;> try rfl))

theorem portB_keeps {s : State} (path : RegPath) (off : Nat) (n : Nat) (write : Bool) {k : State → State} (h : Keeps r s) (h_k : ∀ t, Keeps r t → Keeps r (k t)) :
    Keeps r (portB s path off n write k) := by
  unfold portB
  repeat' first
    | with_reducible assumption
    | with_reducible rfl
    | intro _
    | (with_reducible first | apply h_k | apply reserved_keeps | apply emit_keeps | apply Keeps.ite | apply Keeps.foldl)
    | split
    | fail_if_no_progress (with_reducible (apply Keeps.upd <;> try rfl))

theorem execExchangeRamPortBWrite_keeps (path : RegPath) (offset : BitVec 20) (data : List (Option Byte)) {s : State} (h : Keeps r s) :
    OutKeeps r (execExchangeRamPortBWrite path offset data s) := by
  unfold execExchangeRamPortBWrite
  repeat' first
    | with_reducible assumption
    | with_reducible rfl
    | intro _
    | (with_reducible first | apply portB_keeps | apply portBWord_keeps | apply OutKeeps.next | apply Keeps.ite | apply Keeps.foldl)
    | split
    | fail_if_no_progress (with_reducible (apply Keeps.upd <;> try rfl))

theorem readAnswer_keeps {s : State} (path : Nat) (bs : List Byte) (ecc : Ecc) (h : Keeps r s) :
    Keeps r (readAnswer s path bs ecc) := by
  unfold readAnswer
  repeat' first
    | with_reducible assumption
    | with_reducible rfl
    | intro _
    | (with_reducible first | apply emit_keeps | apply Keeps.ite | apply Keeps.foldl)
    | split
    | fail_if_no_progress (with_reducible (apply Keeps.upd <;> try rfl))

theorem execExchangeRamPortBRead_keeps (path : RegPath) (offset : BitVec 20) (length : Nat) (ecc : Ecc) {s : State} (h : Keeps r s) :
    OutKeeps r (execExchangeRamPortBRead path offset length ecc s) := by
  unfold execExchangeRamPortBRead
  repeat' first
    | with_reducible assumption
    | with_reducible rfl
    | intro _
    | (with_reducible first | apply portB_keeps | apply readAnswer_keeps | apply OutKeeps.next | apply Keeps.ite | apply Keeps.foldl)
    | split
    | fail_if_no_progress (with_reducible (apply Keeps.upd <;> try rfl))

theorem scratchEcc_keeps {s : State} (off : Nat) (ecc : Ecc) (h : Keeps r s) :
    Keeps r (scratchEcc s off ecc) := by
  unfold scratchEcc
  repeat' first
    | with_reducible assumption
    | with_reducible rfl
    | intro _
    | (with_reducible first | apply bumpF_keeps | apply setF_keeps | apply setB_keeps | apply Keeps.ite | apply Keeps.foldl)
    | split
    | fail_if_no_progress (with_reducible (apply Keeps.upd <;> try rfl))

theorem scratchStore_keeps {s : State} (a : Nat) (bs : List (Option Byte)) (h : Keeps r s) :
    Keeps r (scratchStore s a bs) := Keeps.ctl h _ (fun k => Memory.wf_writeEnabled _ bs k a)

theorem execScratchBankAccess_keeps (site : BankSite) (data : Option (List (Option Byte))) (length : Nat) (ecc : Ecc) {s : State} (h : Keeps r s) :
    OutKeeps r (execScratchBankAccess site data length ecc s) := by
  unfold execScratchBankAccess
  repeat' first
    | with_reducible assumption
    | with_reducible rfl
    | intro _
    | (with_reducible first | apply emit_keeps | apply scratchStore_keeps | apply readAnswer_keeps | apply scratchEcc_keeps | apply OutKeeps.next | apply Keeps.ite | apply Keeps.foldl)
    | split
    | fail_if_no_progress (with_reducible (apply Keeps.upd <;> try rfl))

theorem placeStore_keeps {s : State} (p : AtomicPlace) (bs : List Byte) (h : Keeps r s) :
    Keeps r (placeStore s p bs) := by
  unfold placeStore
  repeat' first
    | with_reducible assumption
    | with_reducible rfl
    | intro _
    | (with_reducible first | apply scratchStore_keeps | apply Keeps.ite | apply Keeps.foldl)
    | split
    | fail_if_no_progress (with_reducible (apply Keeps.upd <;> try rfl))

theorem placeEcc_keeps {s : State} (p : AtomicPlace) (ecc : Ecc) (h : Keeps r s) :
    Keeps r (placeEcc s p ecc) := by
  unfold placeEcc
  repeat' first
    | with_reducible assumption
    | with_reducible rfl
    | intro _
    | (with_reducible first | apply scratchEcc_keeps | apply setB_keeps | apply Keeps.ite | apply Keeps.foldl)
    | split
    | fail_if_no_progress (with_reducible (apply Keeps.upd <;> try rfl))

theorem setReserve_keeps {s : State} (c : Nat) (r_ : Option (Nat × Nat × Nat)) (h : Keeps r s) :
    Keeps r (setReserve s c r_) := by
  unfold setReserve
  repeat' first
    | with_reducible assumption
    | with_reducible rfl
    | intro _
    | (with_reducible first | apply Keeps.ite | apply Keeps.foldl)
    | split
    | fail_if_no_progress (with_reducible (apply Keeps.upd <;> try rfl))

theorem breakReserves_keeps {s : State} (c : Nat) (p : AtomicPlace) (n : Nat) (h : Keeps r s) :
    Keeps r (breakReserves s c p n) := by
  unfold breakReserves
  repeat' first
    | with_reducible assumption
    | with_reducible rfl
    | intro _
    | (with_reducible first | apply setReserve_keeps | apply Keeps.ite | apply Keeps.foldl)
    | split
    | fail_if_no_progress (with_reducible (apply Keeps.upd <;> try rfl))

theorem coreAtomic_keeps {s : State} (c : Fin 8) (a : Nat) (n : Nat) (ecc : Ecc) (atBank : Bool) {k : State → AtomicPlace → State} (h : Keeps r s) (h_k : ∀ t x, Keeps r t → Keeps r (k t x)) :
    Keeps r (coreAtomic s c a n ecc atBank k) := by
  unfold coreAtomic
  repeat' first
    | with_reducible assumption
    | with_reducible rfl
    | intro _
    | (with_reducible first | apply h_k | apply emit_keeps | apply placeEcc_keeps | apply Keeps.ite | apply Keeps.foldl)
    | split
    | fail_if_no_progress (with_reducible (apply Keeps.upd <;> try rfl))

theorem coreRmw_keeps (c : Fin 8) (n : Nat) (g : Nat → Nat) {s : State} (p : AtomicPlace) (h : Keeps r s) :
    Keeps r (coreRmw c n g s p) := by
  unfold coreRmw
  repeat' first
    | with_reducible assumption
    | with_reducible rfl
    | intro _
    | (with_reducible first | apply emit_keeps | apply breakReserves_keeps | apply placeStore_keeps | apply Keeps.ite | apply Keeps.foldl)
    | split
    | fail_if_no_progress (with_reducible (apply Keeps.upd <;> try rfl))

theorem coreLr_keeps (c : Fin 8) (n : Nat) {s : State} (p : AtomicPlace) (h : Keeps r s) :
    Keeps r (coreLr c n s p) := by
  unfold coreLr
  repeat' first
    | with_reducible assumption
    | with_reducible rfl
    | intro _
    | (with_reducible first | apply emit_keeps | apply setReserve_keeps | apply Keeps.ite | apply Keeps.foldl)
    | split
    | fail_if_no_progress (with_reducible (apply Keeps.upd <;> try rfl))

theorem coreSc_keeps (c : Fin 8) (n : Nat) (x : Nat) {s : State} (p : AtomicPlace) (h : Keeps r s) :
    Keeps r (coreSc c n x s p) := by
  unfold coreSc
  repeat' first
    | with_reducible assumption
    | with_reducible rfl
    | intro _
    | (with_reducible first | apply setReserve_keeps | apply emit_keeps | apply breakReserves_keeps | apply placeStore_keeps | apply Keeps.ite | apply Keeps.foldl)
    | split
    | fail_if_no_progress (with_reducible (apply Keeps.upd <;> try rfl))

theorem atomicOp_keeps {s : State} (off : Nat) (n : Nat) {k : State → Nat → State} (h : Keeps r s) (h_k : ∀ t x, Keeps r t → Keeps r (k t x)) :
    Keeps r (atomicOp s off n k) := by
  unfold atomicOp
  repeat' first
    | with_reducible assumption
    | with_reducible rfl
    | intro _
    | (with_reducible first | apply h_k | apply emit_keeps | apply reserved_keeps | apply Keeps.ite | apply Keeps.foldl)
    | split
    | fail_if_no_progress (with_reducible (apply Keeps.upd <;> try rfl))

theorem scratchRmw_keeps {s : State} (a : Nat) (n : Nat) (ecc : Ecc) (g : Nat → Nat) (h : Keeps r s) :
    Keeps r (scratchRmw s a n ecc g) := by
  unfold scratchRmw
  repeat' first
    | with_reducible assumption
    | with_reducible rfl
    | intro _
    | (with_reducible first | apply scratchEcc_keeps | apply emit_keeps | apply scratchStore_keeps | apply Keeps.ite | apply Keeps.foldl)
    | split
    | fail_if_no_progress (with_reducible (apply Keeps.upd <;> try rfl))

theorem bankAtomic_keeps {s : State} (site : AtomicSite) (wide : Bool) (ecc : Ecc) (g : Nat → Nat) (h : Keeps r s) :
    Keeps r (bankAtomic s site wide ecc g) := by
  unfold bankAtomic
  repeat' first
    | with_reducible assumption
    | with_reducible rfl
    | intro _
    | (with_reducible first | apply atomicOp_keeps | apply scratchRmw_keeps | apply coreAtomic_keeps | apply coreRmw_keeps | apply Keeps.ite | apply Keeps.foldl)
    | split
    | fail_if_no_progress (with_reducible (apply Keeps.upd <;> try rfl))

theorem execFetchAdd_keeps (site : AtomicSite) (wide : Bool) (operand : DWord) (ecc : Ecc) {s : State} (h : Keeps r s) :
    OutKeeps r (execFetchAdd site wide operand ecc s) := by
  unfold execFetchAdd
  repeat' first
    | with_reducible assumption
    | with_reducible rfl
    | intro _
    | (with_reducible first | apply bankAtomic_keeps | apply OutKeeps.next | apply Keeps.ite | apply Keeps.foldl)
    | split
    | fail_if_no_progress (with_reducible (apply Keeps.upd <;> try rfl))

theorem execSwap_keeps (site : AtomicSite) (wide : Bool) (operand : DWord) (ecc : Ecc) {s : State} (h : Keeps r s) :
    OutKeeps r (execSwap site wide operand ecc s) := by
  unfold execSwap
  repeat' first
    | with_reducible assumption
    | with_reducible rfl
    | intro _
    | (with_reducible first | apply bankAtomic_keeps | apply OutKeeps.next | apply Keeps.ite | apply Keeps.foldl)
    | split
    | fail_if_no_progress (with_reducible (apply Keeps.upd <;> try rfl))

theorem execCas_keeps (site : AtomicSite) (x : AtomicAccess) {s : State} (h : Keeps r s) :
    OutKeeps r (execCas site x s) := by
  unfold execCas
  repeat' first
    | with_reducible assumption
    | with_reducible rfl
    | intro _
    | (with_reducible first | apply atomicOp_keeps | apply emit_keeps | apply coreAtomic_keeps | apply coreLr_keeps | apply coreSc_keeps | apply coreRmw_keeps | apply OutKeeps.next | apply Keeps.ite | apply Keeps.foldl)
    | split
    | fail_if_no_progress (with_reducible (apply Keeps.upd <;> try rfl))

end Sys2Proof.Machine
end

