-- ==== Sys2Proof/Laws/KeepsNet.lean ====
section
/-! SUPPORT. What the operations of Machine/Net.lean keep. -/

namespace Sys2Proof.Machine

variable {r : State}

set_option linter.unusedTactic false
set_option linter.unreachableTactic false

theorem onNet_keeps {s : State} (g : Net → Net) (h : Keeps r s) :
    Keeps r (onNet s g) := by
  unfold onNet
  repeat' first
    | with_reducible assumption
    | with_reducible rfl
    | intro _
    | (with_reducible first | apply Keeps.ite | apply Keeps.foldl)
    | split
    | fail_if_no_progress (with_reducible (apply Keeps.upd <;> try rfl))

theorem hopCounts_keeps {s : State} (u : HopUpset) (h : Keeps r s) :
    Keeps r (hopCounts s u) := by
  unfold hopCounts
  repeat' first
    | with_reducible assumption
    | with_reducible rfl
    | intro _
    | (with_reducible first | apply bumpF_keeps | apply setF_keeps | apply setB_keeps | apply Keeps.ite | apply Keeps.foldl)
    | split
    | fail_if_no_progress (with_reducible (apply Keeps.upd <;> try rfl))

theorem ringWrite_keeps {s : State} (bs : List Byte) (busy : Bool) (h : Keeps r s) :
    Keeps r (ringWrite s bs busy) := by
  unfold ringWrite
  repeat' first
    | with_reducible assumption
    | with_reducible rfl
    | intro _
    | (with_reducible first | apply bumpF_keeps | apply setF_keeps | apply winWriteBytes_keeps | apply setB_keeps | apply Keeps.ite | apply Keeps.foldl)
    | split
    | fail_if_no_progress (with_reducible (apply Keeps.upd <;> try rfl))

theorem passPoint_keeps {s : State} (p : Packet) (crc : Nat) (point : Nat) (eject : Bool) (again : Bool) (busy : Bool) (h : Keeps r s) :
    Keeps r (passPoint s p crc point eject again busy) := by
  unfold passPoint
  repeat' first
    | with_reducible assumption
    | with_reducible rfl
    | intro _
    | (with_reducible first | apply bumpF_keeps | apply ringWrite_keeps | apply Keeps.ite | apply Keeps.foldl)
    | split
    | fail_if_no_progress (with_reducible (apply Keeps.upd <;> try rfl))

theorem inject_keeps {s : State} (p : Packet) (busy : Bool) (h : Keeps r s) :
    Keeps r (inject s p busy) := by
  unfold inject
  repeat' first
    | with_reducible assumption
    | with_reducible rfl
    | intro _
    | (with_reducible first | apply passPoint_keeps | apply onNet_keeps | apply Keeps.ite | apply Keeps.foldl)
    | split
    | fail_if_no_progress (with_reducible (apply Keeps.upd <;> try rfl))

theorem retireEntry_keeps {s : State} (p : Packet) (h : Keeps r s) :
    Keeps r (retireEntry s p) := by
  unfold retireEntry
  repeat' first
    | with_reducible assumption
    | with_reducible rfl
    | intro _
    | (with_reducible first | apply onNet_keeps | apply Keeps.ite | apply Keeps.foldl)
    | split
    | fail_if_no_progress (with_reducible (apply Keeps.upd <;> try rfl))

theorem answerWith_keeps {s : State} (p : Packet) (type : Nat) (status : Nat) (payload : List (BitVec 256)) (h : Keeps r s) :
    Keeps r (answerWith s p type status payload) := by
  unfold answerWith
  repeat' first
    | with_reducible assumption
    | with_reducible rfl
    | intro _
    | (with_reducible first | apply drawFree_keeps | apply emit_keeps | apply Keeps.ite | apply Keeps.foldl)
    | split
    | fail_if_no_progress (with_reducible (apply Keeps.upd <;> try rfl))

theorem answer_keeps {s : State} (p : Packet) (type : Nat) (status : Nat) (h : Keeps r s) :
    Keeps r (answer s p type status) := by
  unfold answer
  repeat' first
    | with_reducible assumption
    | with_reducible rfl
    | intro _
    | (with_reducible first | apply answerWith_keeps | apply Keeps.ite | apply Keeps.foldl)
    | split
    | fail_if_no_progress (with_reducible (apply Keeps.upd <;> try rfl))

theorem freeBytes_keeps {s : State} (y0 : Nat) (h : Keeps r s) :
    Keeps r (freeBytes s y0).2 := by
  induction y0 generalizing s with
  | zero =>
    unfold freeBytes
    repeat' first
      | with_reducible assumption
      | with_reducible rfl
      | intro _
      | (with_reducible first | apply drawFree_keeps | apply Keeps.ite | apply Keeps.foldl)
      | split
      | fail_if_no_progress (with_reducible (apply Keeps.upd <;> try rfl))
  | succ _ ih =>
    unfold freeBytes
    repeat' first
      | with_reducible assumption
      | with_reducible rfl
      | intro _
      | (with_reducible first | apply ih | apply drawFree_keeps | apply Keeps.ite | apply Keeps.foldl)
      | split
      | fail_if_no_progress (with_reducible (apply Keeps.upd <;> try rfl))

theorem unitRead_keeps {s : State} (u : Nat) (a : Nat) (n : Nat) (ecc : Ecc) (h : Keeps r s) :
    Keeps r (unitRead s u a n ecc).2 := by
  unfold unitRead
  repeat' first
    | with_reducible assumption
    | with_reducible rfl
    | intro _
    | (with_reducible first | apply scratchEcc_keeps | apply freeBytes_keeps | apply Keeps.ite | apply Keeps.foldl)
    | split
    | fail_if_no_progress (with_reducible (apply Keeps.upd <;> try rfl))

theorem unitWrite_keeps {s : State} (u : Nat) (a : Nat) (bs : List (Option Byte)) (h : Keeps r s) :
    Keeps r (unitWrite s u a bs) := by
  unfold unitWrite
  repeat' first
    | with_reducible assumption
    | with_reducible rfl
    | intro _
    | (with_reducible first | apply scratchStore_keeps | apply portBWord_keeps | apply Keeps.ite | apply Keeps.foldl)
    | split
    | fail_if_no_progress (with_reducible (apply Keeps.upd <;> try rfl))

theorem serveRead_keeps {s : State} (p : Packet) (ecc : Ecc) (h : Keeps r s) :
    Keeps r (serveRead s p ecc) := by
  unfold serveRead
  repeat' first
    | with_reducible assumption
    | with_reducible rfl
    | intro _
    | (with_reducible first | apply unitRead_keeps | apply answer_keeps | apply answerWith_keeps | apply Keeps.ite | apply Keeps.foldl)
    | split
    | fail_if_no_progress (with_reducible (apply Keeps.upd <;> try rfl))

theorem serveWrite_keeps {s : State} (p : Packet) (h : Keeps r s) :
    Keeps r (serveWrite s p) := by
  unfold serveWrite
  repeat' first
    | with_reducible assumption
    | with_reducible rfl
    | intro _
    | (with_reducible first | apply unitWrite_keeps | apply Keeps.ite | apply Keeps.foldl)
    | split
    | fail_if_no_progress (with_reducible (apply Keeps.upd <;> try rfl))

theorem leaveOpen_keeps {s : State} (p : Packet) (h : Keeps r s) :
    Keeps r (leaveOpen s p) := by
  unfold leaveOpen
  repeat' first
    | with_reducible assumption
    | with_reducible rfl
    | intro _
    | (with_reducible first | apply onNet_keeps | apply Keeps.ite | apply Keeps.foldl)
    | split
    | fail_if_no_progress (with_reducible (apply Keeps.upd <;> try rfl))

theorem serve_keeps {s : State} (p : Packet) (finds : TargetFinds) (h : Keeps r s) :
    Keeps r (serve s p finds) := by
  unfold serve
  repeat' first
    | with_reducible assumption
    | with_reducible rfl
    | intro _
    | (with_reducible first | apply serveRead_keeps | apply answer_keeps | apply leaveOpen_keeps | apply serveWrite_keeps | apply Keeps.ite | apply Keeps.foldl)
    | split
    | fail_if_no_progress (with_reducible (apply Keeps.upd <;> try rfl))

theorem deliver_keeps {s : State} (p : Packet) (finds : TargetFinds) (h : Keeps r s) :
    Keeps r (deliver s p finds) := by
  unfold deliver
  repeat' first
    | with_reducible assumption
    | with_reducible rfl
    | intro _
    | (with_reducible first | apply onNet_keeps | apply serve_keeps | apply retireEntry_keeps | apply Keeps.ite | apply Keeps.foldl)
    | split
    | fail_if_no_progress (with_reducible (apply Keeps.upd <;> try rfl))

theorem acknowledgeAgain_keeps {s : State} (p : Packet) (finds : TargetFinds) (h : Keeps r s) :
    Keeps r (acknowledgeAgain s p finds) := by
  unfold acknowledgeAgain
  repeat' first
    | with_reducible assumption
    | with_reducible rfl
    | intro _
    | (with_reducible first | apply emit_keeps | apply serve_keeps | apply answer_keeps | apply Keeps.ite | apply Keeps.foldl)
    | split
    | fail_if_no_progress (with_reducible (apply Keeps.upd <;> try rfl))

theorem lateResponse_keeps {s : State} (p : Packet) (h : Keeps r s) :
    Keeps r (lateResponse s p) := by
  unfold lateResponse
  repeat' first
    | with_reducible assumption
    | with_reducible rfl
    | intro _
    | (with_reducible first | apply bumpF_keeps | apply deliver_keeps | apply Keeps.ite | apply Keeps.foldl)
    | split
    | fail_if_no_progress (with_reducible (apply Keeps.upd <;> try rfl))

theorem accept_keeps {s : State} (p : Packet) (finds : TargetFinds) (h : Keeps r s) :
    Keeps r (accept s p finds) := by
  unfold accept
  repeat' first
    | with_reducible assumption
    | with_reducible rfl
    | intro _
    | (with_reducible first | apply answer_keeps | apply acknowledgeAgain_keeps | apply lateResponse_keeps | apply onNet_keeps | apply deliver_keeps | apply Keeps.ite | apply Keeps.foldl)
    | split
    | fail_if_no_progress (with_reducible (apply Keeps.upd <;> try rfl))

theorem arriveAt_keeps {s : State} (r_ : Option Received) (finds : TargetFinds) (busy : Bool) (h : Keeps r s) :
    Keeps r (arriveAt s r_ finds busy) := by
  unfold arriveAt
  repeat' first
    | with_reducible assumption
    | with_reducible rfl
    | intro _
    | (with_reducible first | apply bumpF_keeps | apply passPoint_keeps | apply accept_keeps | apply Keeps.ite | apply Keeps.foldl)
    | split
    | fail_if_no_progress (with_reducible (apply Keeps.upd <;> try rfl))

theorem execPacketDelivery_keeps (p : Packet) (w : PacketWay) {s : State} (h : Keeps r s) :
    OutKeeps r (execPacketDelivery p w s) := by
  unfold execPacketDelivery
  repeat' first
    | with_reducible assumption
    | with_reducible rfl
    | intro _
    | (with_reducible first | apply arriveAt_keeps | apply hopCounts_keeps | apply inject_keeps | apply OutKeeps.next | apply Keeps.ite | apply Keeps.foldl)
    | split
    | fail_if_no_progress (with_reducible (apply Keeps.upd <;> try rfl))

theorem giveUp_keeps {s : State} (p : Packet) (h : Keeps r s) :
    Keeps r (giveUp s p) := by
  unfold giveUp
  repeat' first
    | with_reducible assumption
    | with_reducible rfl
    | intro _
    | (with_reducible first | apply setF_keeps | apply setB_keeps | apply badNow_keeps | apply enterFaulted_keeps | apply logRecord_keeps | apply answer_keeps | apply Keeps.ite | apply Keeps.foldl)
    | split
    | fail_if_no_progress (with_reducible (apply Keeps.upd <;> try rfl))

theorem execPacketResend_keeps (key : PacketKey) (busy : Bool) {s : State} (h : Keeps r s) :
    OutKeeps r (execPacketResend key busy s) := by
  unfold execPacketResend
  repeat' first
    | with_reducible assumption
    | with_reducible rfl
    | intro _
    | (with_reducible first | apply giveUp_keeps | apply onNet_keeps | apply passPoint_keeps | apply bumpF_keeps | apply emit_keeps | apply OutKeeps.next | apply Keeps.ite | apply Keeps.foldl)
    | split
    | fail_if_no_progress (with_reducible (apply Keeps.upd <;> try rfl))

theorem netTraceWrite_keeps {s : State} (v : Nat) (h : Keeps r s) :
    Keeps r (netTraceWrite s v) := by
  unfold netTraceWrite
  repeat' first
    | with_reducible assumption
    | with_reducible rfl
    | intro _
    | (with_reducible first | apply setB_keeps | apply setF_keeps | apply Keeps.ite | apply Keeps.foldl)
    | split
    | fail_if_no_progress (with_reducible (apply Keeps.upd <;> try rfl))

theorem execTraceClear_keeps (value : Word) {s : State} (h : Keeps r s) :
    OutKeeps r (execTraceClear value s) := by
  unfold execTraceClear
  repeat' first
    | with_reducible assumption
    | with_reducible rfl
    | intro _
    | (with_reducible first | apply netTraceWrite_keeps | apply OutKeeps.next | apply Keeps.ite | apply Keeps.foldl)
    | split
    | fail_if_no_progress (with_reducible (apply Keeps.upd <;> try rfl))

theorem execTraceEnable_keeps (value : Word) {s : State} (h : Keeps r s) :
    OutKeeps r (execTraceEnable value s) := by
  unfold execTraceEnable
  repeat' first
    | with_reducible assumption
    | with_reducible rfl
    | intro _
    | (with_reducible first | apply netTraceWrite_keeps | apply OutKeeps.next | apply Keeps.ite | apply Keeps.foldl)
    | split
    | fail_if_no_progress (with_reducible (apply Keeps.upd <;> try rfl))

end Sys2Proof.Machine
end

