-- ==== Sys2Proof/Laws/KeepsSecurity.lean ====
section
/-! SUPPORT. What the operations of Machine/Security.lean keep. -/

namespace Sys2Proof.Machine

variable {r : State}

set_option linter.unusedTactic false
set_option linter.unreachableTactic false

/-- A fuse word with more bits burned keeps those it had. -/
theorem fuses_or (m : SMap Nat) (a v : Nat) (w i : Nat) (h : (m.get 0 w).testBit i = true) :
    ((m.set 0 a (m.get 0 a ||| v)).get 0 w).testBit i = true := by
  by_cases hw : w = a
  · subst hw; simp [h]
  · simpa [hw] using h

theorem onSec_keeps {s : State} {g : Sec → Sec} (hg : ∀ c, (g c).fuses = c.fuses) (h : Keeps r s) :
    Keeps r (onSec s g) := Keeps.sec h _ (fun w i k => (hg s.sec).symm ▸ k)

theorem fuseDataRead_keeps {s : State} (h : Keeps r s) :
    Keeps r (fuseDataRead s).2 := by
  unfold fuseDataRead
  repeat' first
    | with_reducible assumption
    | with_reducible rfl
    | intro _
    | (with_reducible first | apply wrapF_keeps | apply Keeps.ite | apply Keeps.foldl)
    | split
    | fail_if_no_progress (with_reducible (apply Keeps.upd <;> try rfl))

theorem execFuseDataRead_keeps {s : State} (h : Keeps r s) :
    OutKeeps r (execFuseDataRead s) := by
  unfold execFuseDataRead
  repeat' first
    | with_reducible assumption
    | with_reducible rfl
    | intro _
    | (with_reducible first | apply fuseDataRead_keeps | apply emit_keeps | apply OutKeeps.next | apply Keeps.ite | apply Keeps.foldl)
    | split
    | fail_if_no_progress (with_reducible (apply Keeps.upd <;> try rfl))

theorem burnEntry_keeps {s : State} (e : Nat × Nat × Nat) (h : Keeps r s) : Keeps r (burnEntry s e) :=
  Keeps.sec h _ (fun w i k => fuses_or _ _ _ w i k)

theorem burnPart_keeps {s : State} (e : Nat × Nat × Nat) (h : Keeps r s) : Keeps r (burnPart s e) :=
  Keeps.sec (drawFree_keeps h) _ (fun w i k => fuses_or _ _ _ w i k)

theorem presenceResult_keeps {s : State} (entry : Nat) (result : Nat) (h : Keeps r s) :
    Keeps r (presenceResult s entry result) := by
  unfold presenceResult
  repeat' first
    | with_reducible assumption
    | with_reducible rfl
    | intro _
    | (with_reducible first | apply setF_keeps | apply Keeps.ite | apply Keeps.foldl)
    | split
    | fail_if_no_progress (with_reducible (apply Keeps.upd <;> try rfl))

theorem endBurn_keeps {s : State} (entry : Nat) (result : Nat) (h : Keeps r s) :
    Keeps r (endBurn s entry result) := by
  unfold endBurn
  repeat' first
    | with_reducible assumption
    | with_reducible rfl
    | intro _
    | (with_reducible first | apply presenceResult_keeps | apply setB_keeps | apply onSec_keeps | apply Keeps.ite | apply Keeps.foldl)
    | split
    | fail_if_no_progress (with_reducible (apply Keeps.upd <;> try rfl))

theorem breakBurn_keeps {s : State} (h : Keeps r s) : Keeps r (breakBurn s) := by
  unfold breakBurn
  split
  · exact h
  · have h1 := drawFree_keeps h
    revert h1
    generalize drawFree s = p
    intro h1
    have h2 : Keeps r ((p.2.sec.burn.take (p.1 % p.2.sec.burn.length)).foldl burnEntry p.2) :=
      Keeps.foldl (fun t e ht => burnEntry_keeps e ht) h1
    dsimp only
    split
    · exact endBurn_keeps _ _ (burnPart_keeps _ h2)
    · exact h2

theorem clearBbkStage_keeps {s : State} (h : Keeps r s) :
    Keeps r (clearBbkStage s) := by
  unfold clearBbkStage
  repeat' first
    | with_reducible assumption
    | with_reducible rfl
    | intro _
    | (with_reducible first | apply setF_keeps | apply Keeps.ite | apply Keeps.foldl)
    | split
    | fail_if_no_progress (with_reducible (apply Keeps.upd <;> try rfl))

theorem closeWindow_keeps {s : State} (h : Keeps r s) :
    Keeps r (closeWindow s) := by
  unfold closeWindow
  repeat' first
    | with_reducible assumption
    | with_reducible rfl
    | intro _
    | (with_reducible first | apply clearBbkStage_keeps | apply setF_keeps | apply setB_keeps | apply Keeps.ite | apply Keeps.foldl)
    | split
    | fail_if_no_progress (with_reducible (apply Keeps.upd <;> try rfl))

theorem disarm_keeps {s : State} (h : Keeps r s) :
    Keeps r (disarm s) := by
  unfold disarm
  repeat' first
    | with_reducible assumption
    | with_reducible rfl
    | intro _
    | (with_reducible first | apply setF_keeps | apply setB_keeps | apply closeWindow_keeps | apply Keeps.ite | apply Keeps.foldl)
    | split
    | fail_if_no_progress (with_reducible (apply Keeps.upd <;> try rfl))

theorem arm_keeps {s : State} (c : Nat) (h : Keeps r s) :
    Keeps r (arm s c) := by
  unfold arm
  repeat' first
    | with_reducible assumption
    | with_reducible rfl
    | intro _
    | (with_reducible first | apply setF_keeps | apply setB_keeps | apply closeWindow_keeps | apply Keeps.ite | apply Keeps.foldl)
    | split
    | fail_if_no_progress (with_reducible (apply Keeps.upd <;> try rfl))

theorem loadBbk_keeps {s : State} (h : Keeps r s) :
    Keeps r (loadBbk s) := by
  unfold loadBbk
  repeat' first
    | with_reducible assumption
    | with_reducible rfl
    | intro _
    | (with_reducible first | apply onSec_keeps | apply clearBbkStage_keeps | apply setF_keeps | apply setB_keeps | apply Keeps.ite | apply Keeps.foldl)
    | split
    | fail_if_no_progress (with_reducible (apply Keeps.upd <;> try rfl))

theorem eraseBbk_keeps {s : State} (h : Keeps r s) :
    Keeps r (eraseBbk s) := by
  unfold eraseBbk
  repeat' first
    | with_reducible assumption
    | with_reducible rfl
    | intro _
    | (with_reducible first | apply setF_keeps | apply setB_keeps | apply onSec_keeps | apply Keeps.ite | apply Keeps.foldl)
    | split
    | fail_if_no_progress (with_reducible (apply Keeps.upd <;> try rfl))

theorem unsealIngot_keeps {s : State} (h : Keeps r s) :
    Keeps r (unsealIngot s) := by
  unfold unsealIngot
  repeat' first
    | with_reducible assumption
    | with_reducible rfl
    | intro _
    | (with_reducible first | apply setB_keeps | apply Keeps.ite | apply Keeps.foldl)
    | split
    | fail_if_no_progress (with_reducible (apply Keeps.upd <;> try rfl))

theorem presenceEffect_keeps {s : State} (c : Nat) (h : Keeps r s) :
    Keeps r (presenceEffect s c) := by
  unfold presenceEffect
  repeat' first
    | with_reducible assumption
    | with_reducible rfl
    | intro _
    | (with_reducible first | apply presenceResult_keeps | apply setB_keeps | apply onSec_keeps | apply loadBbk_keeps | apply unsealIngot_keeps | apply Keeps.ite | apply Keeps.foldl)
    | split
    | fail_if_no_progress (with_reducible (apply Keeps.upd <;> try rfl))

theorem executeArmed_keeps {s : State} (h : Keeps r s) :
    Keeps r (executeArmed s) := by
  unfold executeArmed
  repeat' first
    | with_reducible assumption
    | with_reducible rfl
    | intro _
    | (with_reducible first | apply setF_keeps | apply disarm_keeps | apply presenceEffect_keeps | apply Keeps.ite | apply Keeps.foldl)
    | split
    | fail_if_no_progress (with_reducible (apply Keeps.upd <;> try rfl))

theorem presenceCtrlWrite_keeps {s : State} (v : Nat) (h : Keeps r s) :
    Keeps r (presenceCtrlWrite s v) := by
  unfold presenceCtrlWrite
  repeat' first
    | with_reducible assumption
    | with_reducible rfl
    | intro _
    | (with_reducible first | apply clearBbkStage_keeps | apply disarm_keeps | apply executeArmed_keeps | apply arm_keeps | apply Keeps.ite | apply Keeps.foldl)
    | split
    | fail_if_no_progress (with_reducible (apply Keeps.upd <;> try rfl))

theorem stageWrite_keeps {s : State} (c : Nat) {k : State → State} (h : Keeps r s) (h_k : ∀ t, Keeps r t → Keeps r (k t)) :
    Keeps r (stageWrite s c k) := by
  unfold stageWrite
  repeat' first
    | with_reducible assumption
    | with_reducible rfl
    | intro _
    | (with_reducible first | apply h_k | apply disarm_keeps | apply Keeps.ite | apply Keeps.foldl)
    | split
    | fail_if_no_progress (with_reducible (apply Keeps.upd <;> try rfl))

theorem fuseStageWrite_keeps {s : State} (a : Nat) (v : Nat) (h : Keeps r s) :
    Keeps r (fuseStageWrite s a v) := by
  unfold fuseStageWrite
  repeat' first
    | with_reducible assumption
    | with_reducible rfl
    | intro _
    | (with_reducible first | apply stageWrite_keeps | apply setF_keeps | apply setB_keeps | apply Keeps.ite | apply Keeps.foldl)
    | split
    | fail_if_no_progress (with_reducible (apply Keeps.upd <;> try rfl))

theorem bbkStageWrite_keeps {s : State} (w : Nat) (v : Nat) (h : Keeps r s) :
    Keeps r (bbkStageWrite s w v) := by
  unfold bbkStageWrite
  repeat' first
    | with_reducible assumption
    | with_reducible rfl
    | intro _
    | (with_reducible first | apply stageWrite_keeps | apply setF_keeps | apply Keeps.ite | apply Keeps.foldl)
    | split
    | fail_if_no_progress (with_reducible (apply Keeps.upd <;> try rfl))

theorem bbkWrite_keeps {s : State} (v : Nat) (h : Keeps r s) :
    Keeps r (bbkWrite s v) := by
  unfold bbkWrite
  repeat' first
    | with_reducible assumption
    | with_reducible rfl
    | intro _
    | (with_reducible first | apply eraseBbk_keeps | apply Keeps.ite | apply Keeps.foldl)
    | split
    | fail_if_no_progress (with_reducible (apply Keeps.upd <;> try rfl))

theorem execPresenceArm_keeps (value : Word) {s : State} (h : Keeps r s) :
    OutKeeps r (execPresenceArm value s) := by
  unfold execPresenceArm
  repeat' first
    | with_reducible assumption
    | with_reducible rfl
    | intro _
    | (with_reducible first | apply presenceCtrlWrite_keeps | apply OutKeeps.next | apply Keeps.ite | apply Keeps.foldl)
    | split
    | fail_if_no_progress (with_reducible (apply Keeps.upd <;> try rfl))

theorem execPresenceDisarm_keeps (value : Word) {s : State} (h : Keeps r s) :
    OutKeeps r (execPresenceDisarm value s) := by
  unfold execPresenceDisarm
  repeat' first
    | with_reducible assumption
    | with_reducible rfl
    | intro _
    | (with_reducible first | apply presenceCtrlWrite_keeps | apply OutKeeps.next | apply Keeps.ite | apply Keeps.foldl)
    | split
    | fail_if_no_progress (with_reducible (apply Keeps.upd <;> try rfl))

theorem execExecute_keeps (value : Word) (vfuse : Bool) {s : State} (h : Keeps r s) :
    OutKeeps r (execExecute value vfuse s) := by
  unfold execExecute
  repeat' first
    | with_reducible assumption
    | with_reducible rfl
    | intro _
    | (with_reducible first | apply presenceCtrlWrite_keeps | apply setB_keeps | apply OutKeeps.next | apply Keeps.ite | apply Keeps.foldl)
    | split
    | fail_if_no_progress (with_reducible (apply Keeps.upd <;> try rfl))

theorem execProgramFuses_keeps (stuck : Option (Fin 16)) {s : State} (h : Keeps r s) :
    OutKeeps r (execProgramFuses stuck s) := by
  unfold execProgramFuses
  repeat' first
    | with_reducible assumption
    | with_reducible rfl
    | intro _
    | extract_lets
    | (with_reducible first | apply burnEntry_keeps | apply endBurn_keeps | apply burnPart_keeps | apply OutKeeps.next | apply Keeps.ite | apply Keeps.foldl)
    | split
    | (refine Keeps.of_fst (by assumption) ?_)
    | (refine Keeps.of_snd (by assumption) ?_)
    | fail_if_no_progress (with_reducible (apply Keeps.upd <;> try rfl))
    | dsimp +zetaDelta only

theorem runIfArmed_keeps {s : State} (c : Nat) (h : Keeps r s) :
    Keeps r (runIfArmed s c) := by
  unfold runIfArmed
  repeat' first
    | with_reducible assumption
    | with_reducible rfl
    | intro _
    | (with_reducible first | apply executeArmed_keeps | apply Keeps.ite | apply Keeps.foldl)
    | split
    | fail_if_no_progress (with_reducible (apply Keeps.upd <;> try rfl))

theorem execLoadBbk_keeps {s : State} (h : Keeps r s) :
    OutKeeps r (execLoadBbk s) := by
  unfold execLoadBbk
  repeat' first
    | with_reducible assumption
    | with_reducible rfl
    | intro _
    | (with_reducible first | apply runIfArmed_keeps | apply OutKeeps.next | apply Keeps.ite | apply Keeps.foldl)
    | split
    | fail_if_no_progress (with_reducible (apply Keeps.upd <;> try rfl))

theorem execTracePriv_keeps {s : State} (h : Keeps r s) :
    OutKeeps r (execTracePriv s) := by
  unfold execTracePriv
  repeat' first
    | with_reducible assumption
    | with_reducible rfl
    | intro _
    | (with_reducible first | apply runIfArmed_keeps | apply OutKeeps.next | apply Keeps.ite | apply Keeps.foldl)
    | split
    | fail_if_no_progress (with_reducible (apply Keeps.upd <;> try rfl))

theorem execUnseal_keeps {s : State} (h : Keeps r s) :
    OutKeeps r (execUnseal s) := by
  unfold execUnseal
  repeat' first
    | with_reducible assumption
    | with_reducible rfl
    | intro _
    | (with_reducible first | apply runIfArmed_keeps | apply OutKeeps.next | apply Keeps.ite | apply Keeps.foldl)
    | split
    | fail_if_no_progress (with_reducible (apply Keeps.upd <;> try rfl))

theorem execRollback_keeps {s : State} (h : Keeps r s) :
    OutKeeps r (execRollback s) := by
  unfold execRollback
  repeat' first
    | with_reducible assumption
    | with_reducible rfl
    | intro _
    | (with_reducible first | apply runIfArmed_keeps | apply OutKeeps.next | apply Keeps.ite | apply Keeps.foldl)
    | split
    | fail_if_no_progress (with_reducible (apply Keeps.upd <;> try rfl))

theorem execJtagPrivate_keeps {s : State} (h : Keeps r s) :
    OutKeeps r (execJtagPrivate s) := by
  unfold execJtagPrivate
  repeat' first
    | with_reducible assumption
    | with_reducible rfl
    | intro _
    | (with_reducible first | apply runIfArmed_keeps | apply OutKeeps.next | apply Keeps.ite | apply Keeps.foldl)
    | split
    | fail_if_no_progress (with_reducible (apply Keeps.upd <;> try rfl))

theorem execPresenceHeld_keeps {s : State} (h : Keeps r s) :
    OutKeeps r (execPresenceHeld s) := by
  unfold execPresenceHeld
  repeat' first
    | with_reducible assumption
    | with_reducible rfl
    | intro _
    | extract_lets
    | (with_reducible first | apply setB_keeps | apply onSec_keeps | apply setF_keeps | apply OutKeeps.next | apply Keeps.ite | apply Keeps.foldl)
    | split
    | (refine Keeps.of_fst (by assumption) ?_)
    | (refine Keeps.of_snd (by assumption) ?_)
    | fail_if_no_progress (with_reducible (apply Keeps.upd <;> try rfl))
    | dsimp +zetaDelta only

theorem windowEnds_keeps {s : State} (h : Keeps r s) :
    Keeps r (windowEnds s) := by
  unfold windowEnds
  repeat' first
    | with_reducible assumption
    | with_reducible rfl
    | intro _
    | (with_reducible first | apply setB_keeps | apply disarm_keeps | apply Keeps.ite | apply Keeps.foldl)
    | split
    | fail_if_no_progress (with_reducible (apply Keeps.upd <;> try rfl))

theorem execWindowExpiry_keeps {s : State} (h : Keeps r s) :
    OutKeeps r (execWindowExpiry s) := by
  unfold execWindowExpiry
  repeat' first
    | with_reducible assumption
    | with_reducible rfl
    | intro _
    | (with_reducible first | apply windowEnds_keeps | apply OutKeeps.next | apply Keeps.ite | apply Keeps.foldl)
    | split
    | fail_if_no_progress (with_reducible (apply Keeps.upd <;> try rfl))

theorem windowTick_keeps {s : State} (h : Keeps r s) :
    Keeps r (windowTick s) := by
  unfold windowTick
  repeat' first
    | with_reducible assumption
    | with_reducible rfl
    | intro _
    | (with_reducible first | apply windowEnds_keeps | apply setF_keeps | apply Keeps.ite | apply Keeps.foldl)
    | split
    | fail_if_no_progress (with_reducible (apply Keeps.upd <;> try rfl))

theorem execErase_keeps (value : Word) {s : State} (h : Keeps r s) :
    OutKeeps r (execErase value s) := by
  unfold execErase
  repeat' first
    | with_reducible assumption
    | with_reducible rfl
    | intro _
    | (with_reducible first | apply bbkWrite_keeps | apply OutKeeps.next | apply Keeps.ite | apply Keeps.foldl)
    | split
    | fail_if_no_progress (with_reducible (apply Keeps.upd <;> try rfl))

theorem execTamper_keeps (vbatLow : Bool) {s : State} (h : Keeps r s) :
    OutKeeps r (execTamper vbatLow s) := by
  unfold execTamper
  repeat' first
    | with_reducible assumption
    | with_reducible rfl
    | intro _
    | (with_reducible first | apply setB_keeps | apply eraseBbk_keeps | apply OutKeeps.next | apply Keeps.ite | apply Keeps.foldl)
    | split
    | fail_if_no_progress (with_reducible (apply Keeps.upd <;> try rfl))

theorem execVfuseOutOfLimit_keeps {s : State} (h : Keeps r s) :
    OutKeeps r (execVfuseOutOfLimit s) := by
  unfold execVfuseOutOfLimit
  repeat' first
    | with_reducible assumption
    | with_reducible rfl
    | intro _
    | (with_reducible first | apply breakBurn_keeps | apply setB_keeps | apply OutKeeps.next | apply Keeps.ite | apply Keeps.foldl)
    | split
    | fail_if_no_progress (with_reducible (apply Keeps.upd <;> try rfl))

end Sys2Proof.Machine
end

