-- ==== Sys2Proof/Laws/KeepsTrace.lean ====
section
/-! SUPPORT. What the operations of Machine/Trace.lean keep. -/

namespace Sys2Proof.Machine

variable {r : State}

set_option linter.unusedTactic false
set_option linter.unreachableTactic false

theorem onTrc_keeps {s : State} (i : Nat) (g : TrcSrc → TrcSrc) (h : Keeps r s) :
    Keeps r (onTrc s i g) := by
  unfold onTrc
  repeat' first
    | with_reducible assumption
    | with_reducible rfl
    | intro _
    | (with_reducible first | apply Keeps.ite | apply Keeps.foldl)
    | split
    | fail_if_no_progress (with_reducible (apply Keeps.upd <;> try rfl))

theorem noteFull_keeps {s : State} (h : Keeps r s) :
    Keeps r (noteFull s) := by
  unfold noteFull
  repeat' first
    | with_reducible assumption
    | with_reducible rfl
    | intro _
    | (with_reducible first | apply setB_keeps | apply Keeps.ite | apply Keeps.foldl)
    | split
    | fail_if_no_progress (with_reducible (apply Keeps.upd <;> try rfl))

theorem writeFrame_keeps {s : State} (i : Nat) (h : Keeps r s) :
    Keeps r (writeFrame s i) := by
  unfold writeFrame
  repeat' first
    | with_reducible assumption
    | with_reducible rfl
    | intro _
    | (with_reducible first | apply setB_keeps | apply winWriteBytes_keeps | apply wrapF_keeps | apply onTrc_keeps | apply Keeps.ite | apply Keeps.foldl)
    | split
    | fail_if_no_progress (with_reducible (apply Keeps.upd <;> try rfl))

theorem fillFrames_keeps {s : State} (i : Nat) (y0 : Nat) (h : Keeps r s) :
    Keeps r (fillFrames s i y0) := by
  induction y0 generalizing s i with
  | zero =>
    unfold fillFrames
    repeat' first
      | with_reducible assumption
      | with_reducible rfl
      | intro _
      | (with_reducible first | apply noteFull_keeps | apply writeFrame_keeps | apply Keeps.ite | apply Keeps.foldl)
      | split
      | fail_if_no_progress (with_reducible (apply Keeps.upd <;> try rfl))
  | succ _ ih =>
    unfold fillFrames
    repeat' first
      | with_reducible assumption
      | with_reducible rfl
      | intro _
      | (with_reducible first | apply ih | apply noteFull_keeps | apply writeFrame_keeps | apply Keeps.ite | apply Keeps.foldl)
      | split
      | fail_if_no_progress (with_reducible (apply Keeps.upd <;> try rfl))

theorem drainSource_keeps {s : State} (i : Nat) (h : Keeps r s) :
    Keeps r (drainSource s i) := by
  unfold drainSource
  repeat' first
    | with_reducible assumption
    | with_reducible rfl
    | intro _
    | (with_reducible first | apply fillFrames_keeps | apply noteFull_keeps | apply writeFrame_keeps | apply Keeps.ite | apply Keeps.foldl)
    | split
    | fail_if_no_progress (with_reducible (apply Keeps.upd <;> try rfl))

theorem losePacket_keeps {s : State} (i : Nat) (h : Keeps r s) :
    Keeps r (losePacket s i) := by
  unfold losePacket
  repeat' first
    | with_reducible assumption
    | with_reducible rfl
    | intro _
    | (with_reducible first | apply bumpF_keeps | apply onTrc_keeps | apply setB_keeps | apply Keeps.ite | apply Keeps.foldl)
    | split
    | fail_if_no_progress (with_reducible (apply Keeps.upd <;> try rfl))

theorem putPacket_keeps {s : State} (i : Nat) (bs : List Byte) (h : Keeps r s) :
    Keeps r (putPacket s i bs) := by
  unfold putPacket
  repeat' first
    | with_reducible assumption
    | with_reducible rfl
    | intro _
    | (with_reducible first | apply wrapF_keeps | apply onTrc_keeps | apply fillFrames_keeps | apply losePacket_keeps | apply noteFull_keeps | apply Keeps.ite | apply Keeps.foldl)
    | split
    | fail_if_no_progress (with_reducible (apply Keeps.upd <;> try rfl))

theorem emitPacket_keeps {s : State} (i : Nat) (bs : List Byte) (h : Keeps r s) :
    Keeps r (emitPacket s i bs) := by
  unfold emitPacket
  repeat' first
    | with_reducible assumption
    | with_reducible rfl
    | intro _
    | (with_reducible first | apply putPacket_keeps | apply onTrc_keeps | apply Keeps.ite | apply Keeps.foldl)
    | split
    | fail_if_no_progress (with_reducible (apply Keeps.upd <;> try rfl))

theorem emitSync_keeps {s : State} (i : Nat) (reason : Nat) (pc : Nat) (h : Keeps r s) :
    Keeps r (emitSync s i reason pc) := by
  unfold emitSync
  repeat' first
    | with_reducible assumption
    | with_reducible rfl
    | intro _
    | (with_reducible first | apply onTrc_keeps | apply emitPacket_keeps | apply Keeps.ite | apply Keeps.foldl)
    | split
    | fail_if_no_progress (with_reducible (apply Keeps.upd <;> try rfl))

theorem flushOutcomes_keeps {s : State} (i : Nat) (h : Keeps r s) :
    Keeps r (flushOutcomes s i) := by
  unfold flushOutcomes
  repeat' first
    | with_reducible assumption
    | with_reducible rfl
    | intro _
    | (with_reducible first | apply emitPacket_keeps | apply onTrc_keeps | apply Keeps.ite | apply Keeps.foldl)
    | split
    | fail_if_no_progress (with_reducible (apply Keeps.upd <;> try rfl))

theorem noteBranch_keeps {s : State} (i : Nat) (taken : Bool) (h : Keeps r s) :
    Keeps r (noteBranch s i taken) := by
  unfold noteBranch
  repeat' first
    | with_reducible assumption
    | with_reducible rfl
    | intro _
    | (with_reducible first | apply onTrc_keeps | apply flushOutcomes_keeps | apply Keeps.ite | apply Keeps.foldl)
    | split
    | fail_if_no_progress (with_reducible (apply Keeps.upd <;> try rfl))

theorem noteTarget_keeps {s : State} (i : Nat) (target : Nat) (h : Keeps r s) :
    Keeps r (noteTarget s i target) := by
  unfold noteTarget
  repeat' first
    | with_reducible assumption
    | with_reducible rfl
    | intro _
    | (with_reducible first | apply flushOutcomes_keeps | apply emitPacket_keeps | apply onTrc_keeps | apply Keeps.ite | apply Keeps.foldl)
    | split
    | fail_if_no_progress (with_reducible (apply Keeps.upd <;> try rfl))

theorem recoverLoss_keeps {s : State} (i : Nat) (pc : Nat) (h : Keeps r s) :
    Keeps r (recoverLoss s i pc) := by
  unfold recoverLoss
  repeat' first
    | with_reducible assumption
    | with_reducible rfl
    | intro _
    | (with_reducible first | apply onTrc_keeps | apply flushOutcomes_keeps | apply emitSync_keeps | apply emitPacket_keeps | apply Keeps.ite | apply Keeps.foldl)
    | split
    | fail_if_no_progress (with_reducible (apply Keeps.upd <;> try rfl))

theorem dueSync_keeps {s : State} (i : Nat) (pc : Nat) (h : Keeps r s) :
    Keeps r (dueSync s i pc) := by
  unfold dueSync
  repeat' first
    | with_reducible assumption
    | with_reducible rfl
    | intro _
    | (with_reducible first | apply emitSync_keeps | apply setB_keeps | apply onTrc_keeps | apply Keeps.ite | apply Keeps.foldl)
    | split
    | fail_if_no_progress (with_reducible (apply Keeps.upd <;> try rfl))

theorem traceKind_keeps {s : State} (i : Nat) (k : RetireKind) (h : Keeps r s) :
    Keeps r (traceKind s i k) := by
  unfold traceKind
  repeat' first
    | with_reducible assumption
    | with_reducible rfl
    | intro _
    | (with_reducible first | apply noteBranch_keeps | apply noteTarget_keeps | apply Keeps.ite | apply Keeps.foldl)
    | split
    | fail_if_no_progress (with_reducible (apply Keeps.upd <;> try rfl))

theorem periodicSync_keeps {s : State} (i : Nat) (next : Nat) (h : Keeps r s) :
    Keeps r (periodicSync s i next) := by
  unfold periodicSync
  repeat' first
    | with_reducible assumption
    | with_reducible rfl
    | intro _
    | (with_reducible first | apply emitSync_keeps | apply flushOutcomes_keeps | apply Keeps.ite | apply Keeps.foldl)
    | split
    | fail_if_no_progress (with_reducible (apply Keeps.upd <;> try rfl))

theorem retireTraced_keeps {s : State} (i : Nat) (pc : Nat) (next : Nat) (k : RetireKind) (h : Keeps r s) :
    Keeps r (retireTraced s i pc next k) := by
  unfold retireTraced
  repeat' first
    | with_reducible assumption
    | with_reducible rfl
    | intro _
    | (with_reducible first | apply dueSync_keeps | apply traceKind_keeps | apply recoverLoss_keeps | apply emitPacket_keeps | apply flushOutcomes_keeps | apply setB_keeps | apply periodicSync_keeps | apply Keeps.ite | apply Keeps.foldl)
    | split
    | fail_if_no_progress (with_reducible (apply Keeps.upd <;> try rfl))

theorem traceTrap_keeps {s : State} (i : Nat) (pc : Nat) (machine : Bool) (cause : Nat) (handler : Nat) (h : Keeps r s) :
    Keeps r (traceTrap s i pc machine cause handler) := by
  unfold traceTrap
  repeat' first
    | with_reducible assumption
    | with_reducible rfl
    | intro _
    | (with_reducible first | apply onTrc_keeps | apply flushOutcomes_keeps | apply recoverLoss_keeps | apply emitPacket_keeps | apply emitSync_keeps | apply Keeps.ite | apply Keeps.foldl)
    | split
    | fail_if_no_progress (with_reducible (apply Keeps.upd <;> try rfl))

theorem retireExcluded_keeps {s : State} (i : Nat) (k : RetireKind) (h : Keeps r s) :
    Keeps r (retireExcluded s i k) := by
  unfold retireExcluded
  repeat' first
    | with_reducible assumption
    | with_reducible rfl
    | intro _
    | (with_reducible first | apply onTrc_keeps | apply emitSync_keeps | apply Keeps.ite | apply Keeps.foldl)
    | split
    | fail_if_no_progress (with_reducible (apply Keeps.upd <;> try rfl))

theorem noteCoreTrap_keeps {s : State} (i : Nat) (k : RetireKind) (h : Keeps r s) :
    Keeps r (noteCoreTrap s i k) := by
  unfold noteCoreTrap
  repeat' first
    | with_reducible assumption
    | with_reducible rfl
    | intro _
    | (with_reducible first | apply setB_keeps | apply Keeps.ite | apply Keeps.foldl)
    | split
    | fail_if_no_progress (with_reducible (apply Keeps.upd <;> try rfl))

theorem execRetiredInstruction_keeps (src : Fin 40) (pc : DWord) (next : DWord) (machine : Bool) (kind : RetireKind) {s : State} (h : Keeps r s) :
    OutKeeps r (execRetiredInstruction src pc next machine kind s) := by
  unfold execRetiredInstruction
  repeat' first
    | with_reducible assumption
    | with_reducible rfl
    | intro _
    | extract_lets
    | (with_reducible first | apply noteCoreTrap_keeps | apply traceTrap_keeps | apply retireExcluded_keeps | apply retireTraced_keeps | apply onTrc_keeps | apply OutKeeps.next | apply Keeps.ite | apply Keeps.foldl)
    | split
    | (refine Keeps.of_fst (by assumption) ?_)
    | (refine Keeps.of_snd (by assumption) ?_)
    | fail_if_no_progress (with_reducible (apply Keeps.upd <;> try rfl))
    | dsimp +zetaDelta only

theorem enableSource_keeps {s : State} (i : Nat) (h : Keeps r s) :
    Keeps r (enableSource s i) := by
  unfold enableSource
  repeat' first
    | with_reducible assumption
    | with_reducible rfl
    | intro _
    | (with_reducible first | apply setF_keeps | apply setB_keeps | apply onTrc_keeps | apply Keeps.ite | apply Keeps.foldl)
    | split
    | fail_if_no_progress (with_reducible (apply Keeps.upd <;> try rfl))

theorem disableSource_keeps {s : State} (i : Nat) (h : Keeps r s) :
    Keeps r (disableSource s i) := by
  unfold disableSource
  repeat' first
    | with_reducible assumption
    | with_reducible rfl
    | intro _
    | (with_reducible first | apply emitPacket_keeps | apply flushOutcomes_keeps | apply recoverLoss_keeps | apply drainSource_keeps | apply setB_keeps | apply Keeps.ite | apply Keeps.foldl)
    | split
    | fail_if_no_progress (with_reducible (apply Keeps.upd <;> try rfl))

theorem resumeTrace_keeps {s : State} (h : Keeps r s) :
    Keeps r (resumeTrace s) := by
  unfold resumeTrace
  repeat' first
    | with_reducible assumption
    | with_reducible rfl
    | intro _
    | (with_reducible first | apply fillFrames_keeps | apply recoverLoss_keeps | apply Keeps.ite | apply Keeps.foldl)
    | split
    | fail_if_no_progress (with_reducible (apply Keeps.upd <;> try rfl))

theorem trcCtrlWrite_keeps {s : State} (v : Nat) (h : Keeps r s) :
    Keeps r (trcCtrlWrite s v) := by
  unfold trcCtrlWrite
  repeat' first
    | with_reducible assumption
    | with_reducible rfl
    | intro _
    | (with_reducible first | apply setB_keeps | apply setF_keeps | apply resumeTrace_keeps | apply noteFull_keeps | apply enableSource_keeps | apply disableSource_keeps | apply Keeps.ite | apply Keeps.foldl)
    | split
    | fail_if_no_progress (with_reducible (apply Keeps.upd <;> try rfl))

theorem execTraceEn_keeps (value : Word) {s : State} (h : Keeps r s) :
    OutKeeps r (execTraceEn value s) := by
  unfold execTraceEn
  repeat' first
    | with_reducible assumption
    | with_reducible rfl
    | intro _
    | (with_reducible first | apply gatedWrite_keeps | apply trcCtrlWrite_keeps | apply OutKeeps.next | apply Keeps.ite | apply Keeps.foldl)
    | split
    | fail_if_no_progress (with_reducible (apply Keeps.upd <;> try rfl))

theorem execTrcClear_keeps (value : Word) {s : State} (h : Keeps r s) :
    OutKeeps r (execTrcClear value s) := by
  unfold execTrcClear
  repeat' first
    | with_reducible assumption
    | with_reducible rfl
    | intro _
    | (with_reducible first | apply gatedWrite_keeps | apply trcCtrlWrite_keeps | apply OutKeeps.next | apply Keeps.ite | apply Keeps.foldl)
    | split
    | fail_if_no_progress (with_reducible (apply Keeps.upd <;> try rfl))

theorem execSleep_keeps (src : Fin 40) {s : State} (h : Keeps r s) :
    OutKeeps r (execSleep src s) := by
  unfold execSleep
  repeat' first
    | with_reducible assumption
    | with_reducible rfl
    | intro _
    | extract_lets
    | (with_reducible first | apply flushOutcomes_keeps | apply recoverLoss_keeps | apply drainSource_keeps | apply setB_keeps | apply emitPacket_keeps | apply OutKeeps.next | apply Keeps.ite | apply Keeps.foldl)
    | split
    | (refine Keeps.of_fst (by assumption) ?_)
    | (refine Keeps.of_snd (by assumption) ?_)
    | fail_if_no_progress (with_reducible (apply Keeps.upd <;> try rfl))
    | dsimp +zetaDelta only

theorem execWake_keeps (src : Fin 40) (pc : DWord) {s : State} (h : Keeps r s) :
    OutKeeps r (execWake src pc s) := by
  unfold execWake
  repeat' first
    | with_reducible assumption
    | with_reducible rfl
    | intro _
    | extract_lets
    | (with_reducible first | apply onTrc_keeps | apply setB_keeps | apply emitSync_keeps | apply emitPacket_keeps | apply recoverLoss_keeps | apply OutKeeps.next | apply Keeps.ite | apply Keeps.foldl)
    | split
    | (refine Keeps.of_fst (by assumption) ?_)
    | (refine Keeps.of_snd (by assumption) ?_)
    | fail_if_no_progress (with_reducible (apply Keeps.upd <;> try rfl))
    | dsimp +zetaDelta only

theorem execTraceFrameTimeout_keeps (src : Fin 40) {s : State} (h : Keeps r s) :
    OutKeeps r (execTraceFrameTimeout src s) := by
  unfold execTraceFrameTimeout
  repeat' first
    | with_reducible assumption
    | with_reducible rfl
    | intro _
    | (with_reducible first | apply drainSource_keeps | apply OutKeeps.next | apply Keeps.ite | apply Keeps.foldl)
    | split
    | fail_if_no_progress (with_reducible (apply Keeps.upd <;> try rfl))

theorem execTimePacket_keeps (src : Fin 40) {s : State} (h : Keeps r s) :
    OutKeeps r (execTimePacket src s) := by
  unfold execTimePacket
  repeat' first
    | with_reducible assumption
    | with_reducible rfl
    | intro _
    | (with_reducible first | apply onTrc_keeps | apply OutKeeps.next | apply Keeps.ite | apply Keeps.foldl)
    | split
    | fail_if_no_progress (with_reducible (apply Keeps.upd <;> try rfl))

theorem trcCfgWrite_keeps {s : State} (a : Nat) (v : Nat) (h : Keeps r s) :
    Keeps r (trcCfgWrite s a v) := by
  unfold trcCfgWrite
  repeat' first
    | with_reducible assumption
    | with_reducible rfl
    | intro _
    | (with_reducible first | apply plainWrite_keeps | apply writeField_keeps | apply Keeps.ite | apply Keeps.foldl)
    | split
    | fail_if_no_progress (with_reducible (apply Keeps.upd <;> try rfl))

theorem trcSrcRead_keeps {s : State} (a : Nat) (h : Keeps r s) :
    Keeps r (trcSrcRead s a).2 := by
  unfold trcSrcRead
  repeat' first
    | with_reducible assumption
    | with_reducible rfl
    | intro _
    | extract_lets
    | (with_reducible first | apply setF_keeps | apply Keeps.ite | apply Keeps.foldl)
    | split
    | (refine Keeps.of_fst (by assumption) ?_)
    | (refine Keeps.of_snd (by assumption) ?_)
    | fail_if_no_progress (with_reducible (apply Keeps.upd <;> try rfl))
    | dsimp +zetaDelta only

end Sys2Proof.Machine
end

