-- ==== Sys2Proof/Laws/KeepsControl.lean ====
section
/-! SUPPORT. What the operations of Machine/Control.lean keep. -/

namespace Sys2Proof.Machine

variable {r : State}

set_option linter.unusedTactic false
set_option linter.unreachableTactic false

theorem restartCore_keeps {s : State} (c : Nat) (a1 : Nat) (h : Keeps r s) :
    Keeps r (restartCore s c a1) := by
  unfold restartCore
  repeat' first
    | with_reducible assumption
    | with_reducible rfl
    | intro _
    | (with_reducible first | apply onCtl_keeps | apply Keeps.ite | apply Keeps.foldl)
    | split
    | fail_if_no_progress (with_reducible (apply Keeps.upd <;> try rfl))

theorem coreResetWrite_keeps {s : State} (v : Nat) (h : Keeps r s) :
    Keeps r (coreResetWrite s v) := by
  unfold coreResetWrite
  repeat' first
    | with_reducible assumption
    | with_reducible rfl
    | intro _
    | (with_reducible first | apply restartCore_keeps | apply Keeps.ite | apply Keeps.foldl)
    | split
    | fail_if_no_progress (with_reducible (apply Keeps.upd <;> try rfl))

theorem execCoreRestart_keeps (value : Word) {s : State} (h : Keeps r s) :
    OutKeeps r (execCoreRestart value s) := by
  unfold execCoreRestart
  repeat' first
    | with_reducible assumption
    | with_reducible rfl
    | intro _
    | (with_reducible first | apply coreResetWrite_keeps | apply OutKeeps.next | apply Keeps.ite | apply Keeps.foldl)
    | split
    | fail_if_no_progress (with_reducible (apply Keeps.upd <;> try rfl))

theorem useRollback_keeps {s : State} (svn : Nat) (h : Keeps r s) :
    Keeps r (useRollback s svn) := by
  unfold useRollback
  repeat' first
    | with_reducible assumption
    | with_reducible rfl
    | intro _
    | (with_reducible first | apply setB_keeps | apply Keeps.ite | apply Keeps.foldl)
    | split
    | fail_if_no_progress (with_reducible (apply Keeps.upd <;> try rfl))

theorem setPhase_keeps {s : State} (p : Nat) (h : Keeps r s) :
    Keeps r (setPhase s p) := by
  unfold setPhase
  repeat' first
    | with_reducible assumption
    | with_reducible rfl
    | intro _
    | (with_reducible first | apply setB_keeps | apply setF_keeps | apply Keeps.ite | apply Keeps.foldl)
    | split
    | fail_if_no_progress (with_reducible (apply Keeps.upd <;> try rfl))

theorem endUpdate_keeps {s : State} (result : Nat) (h : Keeps r s) :
    Keeps r (endUpdate s result) := by
  unfold endUpdate
  repeat' first
    | with_reducible assumption
    | with_reducible rfl
    | intro _
    | (with_reducible first | apply setF_keeps | apply setPhase_keeps | apply Keeps.ite | apply Keeps.foldl)
    | split
    | fail_if_no_progress (with_reducible (apply Keeps.upd <;> try rfl))

theorem fwGo_keeps {s : State} (h : Keeps r s) :
    Keeps r (fwGo s) := by
  unfold fwGo
  repeat' first
    | with_reducible assumption
    | with_reducible rfl
    | intro _
    | (with_reducible first | apply setB_keeps | apply setF_keeps | apply setPhase_keeps | apply Keeps.ite | apply Keeps.foldl)
    | split
    | fail_if_no_progress (with_reducible (apply Keeps.upd <;> try rfl))

theorem fwCopy_keeps {s : State} (h : Keeps r s) :
    Keeps r (fwCopy s) := by
  unfold fwCopy
  repeat' first
    | with_reducible assumption
    | with_reducible rfl
    | intro _
    | (with_reducible first | apply setPhase_keeps | apply onCtl_keeps | apply Keeps.ite | apply Keeps.foldl)
    | split
    | fail_if_no_progress (with_reducible (apply Keeps.upd <;> try rfl))

theorem beginHandover_keeps {s : State} (h : Keeps r s) :
    Keeps r (beginHandover s) := by
  unfold beginHandover
  repeat' first
    | with_reducible assumption
    | with_reducible rfl
    | intro _
    | (with_reducible first | apply setF_keeps | apply setPhase_keeps | apply onCtl_keeps | apply Keeps.ite | apply Keeps.foldl)
    | split
    | fail_if_no_progress (with_reducible (apply Keeps.upd <;> try rfl))

theorem fwCheck_keeps {s : State} (h : Keeps r s) :
    Keeps r (fwCheck s) := by
  unfold fwCheck
  repeat' first
    | with_reducible assumption
    | with_reducible rfl
    | intro _
    | extract_lets
    | (with_reducible first | apply endUpdate_keeps | apply useRollback_keeps | apply onCtl_keeps | apply beginHandover_keeps | apply setB_keeps | apply Keeps.ite | apply Keeps.foldl)
    | split
    | (refine Keeps.of_fst (by assumption) ?_)
    | (refine Keeps.of_snd (by assumption) ?_)
    | fail_if_no_progress (with_reducible (apply Keeps.upd <;> try rfl))
    | dsimp +zetaDelta only

theorem fwTick_keeps {s : State} (h : Keeps r s) :
    Keeps r (fwTick s) := by
  unfold fwTick
  repeat' first
    | with_reducible assumption
    | with_reducible rfl
    | intro _
    | (with_reducible first | apply fwCopy_keeps | apply fwCheck_keeps | apply Keeps.ite | apply Keeps.foldl)
    | split
    | fail_if_no_progress (with_reducible (apply Keeps.upd <;> try rfl))

theorem fwHandover_keeps {s : State} (h : Keeps r s) :
    Keeps r (fwHandover s) := by
  unfold fwHandover
  repeat' first
    | with_reducible assumption
    | with_reducible rfl
    | intro _
    | (with_reducible first | apply endUpdate_keeps | apply beginHandover_keeps | apply useRollback_keeps | apply Keeps.ite | apply Keeps.foldl)
    | split
    | fail_if_no_progress (with_reducible (apply Keeps.upd <;> try rfl))

theorem fwAbort_keeps {s : State} (h : Keeps r s) :
    Keeps r (fwAbort s) := by
  unfold fwAbort
  repeat' first
    | with_reducible assumption
    | with_reducible rfl
    | intro _
    | (with_reducible first | apply endUpdate_keeps | apply Keeps.ite | apply Keeps.foldl)
    | split
    | fail_if_no_progress (with_reducible (apply Keeps.upd <;> try rfl))

theorem fwUpdateWrite_keeps {s : State} (v : Nat) (h : Keeps r s) :
    Keeps r (fwUpdateWrite s v) := by
  unfold fwUpdateWrite
  repeat' first
    | with_reducible assumption
    | with_reducible rfl
    | intro _
    | (with_reducible first | apply fwAbort_keeps | apply fwGo_keeps | apply fwHandover_keeps | apply Keeps.ite | apply Keeps.foldl)
    | split
    | fail_if_no_progress (with_reducible (apply Keeps.upd <;> try rfl))

theorem execFwUpdateGo_keeps (value : Word) {s : State} (h : Keeps r s) :
    OutKeeps r (execFwUpdateGo value s) := by
  unfold execFwUpdateGo
  repeat' first
    | with_reducible assumption
    | with_reducible rfl
    | intro _
    | (with_reducible first | apply fwUpdateWrite_keeps | apply OutKeeps.next | apply Keeps.ite | apply Keeps.foldl)
    | split
    | fail_if_no_progress (with_reducible (apply Keeps.upd <;> try rfl))

theorem execFwUpdateAbort_keeps (value : Word) {s : State} (h : Keeps r s) :
    OutKeeps r (execFwUpdateAbort value s) := by
  unfold execFwUpdateAbort
  repeat' first
    | with_reducible assumption
    | with_reducible rfl
    | intro _
    | (with_reducible first | apply fwUpdateWrite_keeps | apply OutKeeps.next | apply Keeps.ite | apply Keeps.foldl)
    | split
    | fail_if_no_progress (with_reducible (apply Keeps.upd <;> try rfl))

theorem execHandover_keeps (value : Word) {s : State} (h : Keeps r s) :
    OutKeeps r (execHandover value s) := by
  unfold execHandover
  repeat' first
    | with_reducible assumption
    | with_reducible rfl
    | intro _
    | (with_reducible first | apply fwUpdateWrite_keeps | apply OutKeeps.next | apply Keeps.ite | apply Keeps.foldl)
    | split
    | fail_if_no_progress (with_reducible (apply Keeps.upd <;> try rfl))

theorem swapViews_keeps {s : State} (h : Keeps r s) :
    Keeps r (swapViews s) := by
  unfold swapViews
  repeat' first
    | with_reducible assumption
    | with_reducible rfl
    | intro _
    | (with_reducible first | apply setF_keeps | apply setB_keeps | apply onCtl_keeps | apply endUpdate_keeps | apply restartCore_keeps | apply Keeps.ite | apply Keeps.foldl)
    | split
    | fail_if_no_progress (with_reducible (apply Keeps.upd <;> try rfl))

theorem handoverReady_keeps {s : State} (c : Nat) (h : Keeps r s) :
    Keeps r (handoverReady s c) := by
  unfold handoverReady
  repeat' first
    | with_reducible assumption
    | with_reducible rfl
    | intro _
    | (with_reducible first | apply setFBit_keeps | apply onCtl_keeps | apply swapViews_keeps | apply Keeps.ite | apply Keeps.foldl)
    | split
    | fail_if_no_progress (with_reducible (apply Keeps.upd <;> try rfl))

theorem handoverWrite_keeps {s : State} (path : RegPath) (v : Nat) (h : Keeps r s) :
    Keeps r (handoverWrite s path v) := by
  unfold handoverWrite
  repeat' first
    | with_reducible assumption
    | with_reducible rfl
    | intro _
    | (with_reducible first | apply handoverReady_keeps | apply Keeps.ite | apply Keeps.foldl)
    | split
    | fail_if_no_progress (with_reducible (apply Keeps.upd <;> try rfl))

theorem execHandoverReady_keeps (c : Fin 8) {s : State} (h : Keeps r s) :
    OutKeeps r (execHandoverReady c s) := by
  unfold execHandoverReady
  repeat' first
    | with_reducible assumption
    | with_reducible rfl
    | intro _
    | (with_reducible first | apply handoverReady_keeps | apply OutKeeps.next | apply Keeps.ite | apply Keeps.foldl)
    | split
    | fail_if_no_progress (with_reducible (apply Keeps.upd <;> try rfl))

theorem execHandoverTimeout_keeps {s : State} (h : Keeps r s) :
    OutKeeps r (execHandoverTimeout s) := by
  unfold execHandoverTimeout
  repeat' first
    | with_reducible assumption
    | with_reducible rfl
    | intro _
    | (with_reducible first | apply setF_keeps | apply endUpdate_keeps | apply onCtl_keeps | apply OutKeeps.next | apply Keeps.ite | apply Keeps.foldl)
    | split
    | fail_if_no_progress (with_reducible (apply Keeps.upd <;> try rfl))

theorem bringDelays_keeps {s : State} (h : Keeps r s) :
    Keeps r (bringDelays s) := by
  unfold bringDelays
  repeat' first
    | with_reducible assumption
    | with_reducible rfl
    | intro _
    | (with_reducible first | apply phyWrite_keeps | apply setF_keeps | apply Keeps.ite | apply Keeps.foldl)
    | split
    | fail_if_no_progress (with_reducible (apply Keeps.upd <;> try rfl))

theorem bootFirmware_keeps {s : State} (f : FlashRegions) (h : Keeps r s) :
    Keeps r (bootFirmware s f) := by
  unfold bootFirmware
  repeat' first
    | with_reducible assumption
    | with_reducible rfl
    | intro _
    | extract_lets
    | (with_reducible first | apply onCtl_keeps | apply setB_keeps | apply setF_keeps | apply bringDelays_keeps | apply restartCore_keeps | apply Keeps.ite | apply Keeps.foldl)
    | split
    | (refine Keeps.of_fst (by assumption) ?_)
    | (refine Keeps.of_snd (by assumption) ?_)
    | fail_if_no_progress (with_reducible (apply Keeps.upd <;> try rfl))
    | dsimp +zetaDelta only

end Sys2Proof.Machine
end

