-- ==== Sys2Proof/Laws/KeepsIngot.lean ====
section
/-! SUPPORT. What the operations of Machine/Ingot.lean keep. -/

namespace Sys2Proof.Machine

variable {r : State}

set_option linter.unusedTactic false
set_option linter.unreachableTactic false

theorem releaseWindows_keeps {s : State} (h : Keeps r s) :
    Keeps r (releaseWindows s) := by
  unfold releaseWindows
  repeat' first
    | with_reducible assumption
    | with_reducible rfl
    | intro _
    | (with_reducible first | apply setB_keeps | apply Keeps.ite | apply Keeps.foldl)
    | split
    | fail_if_no_progress (with_reducible (apply Keeps.upd <;> try rfl))

theorem writeWindow_keeps {s : State} (n : Nat) (w : MemWin) (b : Nat) (h : Keeps r s) :
    Keeps r (writeWindow s n w b) := by
  unfold writeWindow
  repeat' first
    | with_reducible assumption
    | with_reducible rfl
    | intro _
    | (with_reducible first | apply setF_keeps | apply setB_keeps | apply Keeps.ite | apply Keeps.foldl)
    | split
    | fail_if_no_progress (with_reducible (apply Keeps.upd <;> try rfl))

theorem enableWindow_keeps {s t : State} {w : MemWin} {n : Nat} (e : enableWindow s w = some (t, n)) (h : Keeps r s) :
    Keeps r t := by
  unfold enableWindow at e
  split at e
  · cases e
  split at e
  · cases e
  obtain ⟨rfl, -⟩ := Prod.mk.inj (Option.some.inj e)
  exact showDegraded_keeps (setB_keeps _ _ (setB_keeps _ _ (writeWindow_keeps _ _ _ h)))

theorem enableWindows_keeps {s t : State} {l : List MemWin} {ns : List Nat} (e : enableWindows s l = some (t, ns))
    (h : Keeps r s) : Keeps r t := by
  induction l generalizing s ns with
  | nil => cases e; exact h
  | cons w l ih =>
    unfold enableWindows at e
    split at e
    · cases e
    rename_i u n hu
    obtain ⟨⟨v, m⟩, hv, hw⟩ := Option.map_eq_some_iff.mp e
    cases hw
    exact ih hv (enableWindow_keeps hu h)

end Sys2Proof.Machine
end

