-- ==== Sys2Proof/Laws/KeepsInstall.lean ====
section
/-! SUPPORT. What the operations of Machine/Install.lean keep. -/

namespace Sys2Proof.Machine

variable {r : State}

set_option linter.unusedTactic false
set_option linter.unreachableTactic false

theorem placeBytes_wf (m : Memory) (f : Nat → Option Nat) {b : Memory} (h : Memory.wf zeroFill b) :
    Memory.wf zeroFill (placeBytes m f b) := by
  refine Memory.wf_foldl _ _ (fun m c k => ?_) m h
  split
  · exact Memory.wf_write _ k _ _
  · exact k

theorem onLdr_keeps {s : State} (g : Ldr → Ldr) (h : Keeps r s) :
    Keeps r (onLdr s g) := by
  unfold onLdr
  repeat' first
    | with_reducible assumption
    | with_reducible rfl
    | intro _
    | (with_reducible first | apply Keeps.ite | apply Keeps.foldl)
    | split
    | fail_if_no_progress (with_reducible (apply Keeps.upd <;> try rfl))

theorem reportLoad_keeps {s : State} (path : Nat) (desc : Option Desc) (code : Nat) (seg : Nat) (h : Keeps r s) :
    Keeps r (reportLoad s path desc code seg) := by
  unfold reportLoad
  repeat' first
    | with_reducible assumption
    | with_reducible rfl
    | intro _
    | (with_reducible first | apply setF_keeps | apply complete_keeps | apply Keeps.ite | apply Keeps.foldl)
    | split
    | fail_if_no_progress (with_reducible (apply Keeps.upd <;> try rfl))

theorem beginStream_keeps {s : State} (x : LdStream) (h : Keeps r s) :
    Keeps r (beginStream s x) := by
  unfold beginStream
  repeat' first
    | with_reducible assumption
    | with_reducible rfl
    | intro _
    | (with_reducible first | apply onLdr_keeps | apply setF_keeps | apply Keeps.ite | apply Keeps.foldl)
    | split
    | fail_if_no_progress (with_reducible (apply Keeps.upd <;> try rfl))

theorem offerStream_keeps {s : State} (x : LdStream) (h : Keeps r s) :
    Keeps r (offerStream s x) := by
  unfold offerStream
  repeat' first
    | with_reducible assumption
    | with_reducible rfl
    | intro _
    | (with_reducible first | apply reportLoad_keeps | apply beginStream_keeps | apply Keeps.ite | apply Keeps.foldl)
    | split
    | fail_if_no_progress (with_reducible (apply Keeps.upd <;> try rfl))

theorem offerFlash_keeps {s : State} (e : Nat) (h : Keeps r s) :
    Keeps r (offerFlash s e) := by
  unfold offerFlash
  repeat' first
    | with_reducible assumption
    | with_reducible rfl
    | intro _
    | (with_reducible first | apply offerStream_keeps | apply setF_keeps | apply Keeps.ite | apply Keeps.foldl)
    | split
    | fail_if_no_progress (with_reducible (apply Keeps.upd <;> try rfl))

theorem selfLoadEnds_keeps {s : State} (path : Nat) (code : Nat) (h : Keeps r s) :
    Keeps r (selfLoadEnds s path code) := by
  unfold selfLoadEnds
  repeat' first
    | with_reducible assumption
    | with_reducible rfl
    | intro _
    | (with_reducible first | apply onLdr_keeps | apply offerFlash_keeps | apply setB_keeps | apply Keeps.ite | apply Keeps.foldl)
    | split
    | fail_if_no_progress (with_reducible (apply Keeps.upd <;> try rfl))

theorem closeLoad_keeps {s : State} (path : Nat) (desc : Option Desc) (code : Nat) (seg : Nat) (h : Keeps r s) :
    Keeps r (closeLoad s path desc code seg) := by
  unfold closeLoad
  repeat' first
    | with_reducible assumption
    | with_reducible rfl
    | intro _
    | (with_reducible first | apply setB_keeps | apply setF_keeps | apply selfLoadEnds_keeps | apply reportLoad_keeps | apply Keeps.ite | apply Keeps.foldl)
    | split
    | fail_if_no_progress (with_reducible (apply Keeps.upd <;> try rfl))

theorem endStream_keeps {s : State} (x : LdStream) (code : Nat) (seg : Nat) (h : Keeps r s) :
    Keeps r (endStream s x code seg) := by
  unfold endStream
  repeat' first
    | with_reducible assumption
    | with_reducible rfl
    | intro _
    | (with_reducible first | apply onLdr_keeps | apply bumpF_keeps | apply closeLoad_keeps | apply Keeps.ite | apply Keeps.foldl)
    | split
    | fail_if_no_progress (with_reducible (apply Keeps.upd <;> try rfl))

theorem endInstall_keeps {s : State} (i : LdInstall) (code : Nat) (h : Keeps r s) :
    Keeps r (endInstall s i code) := by
  unfold endInstall
  repeat' first
    | with_reducible assumption
    | with_reducible rfl
    | intro _
    | (with_reducible first | apply closeLoad_keeps | apply onLdr_keeps | apply Keeps.ite | apply Keeps.foldl)
    | split
    | fail_if_no_progress (with_reducible (apply Keeps.upd <;> try rfl))

theorem showEmpty_keeps {s : State} (h : Keeps r s) :
    Keeps r (showEmpty s) := by
  unfold showEmpty
  repeat' first
    | with_reducible assumption
    | with_reducible rfl
    | intro _
    | (with_reducible first | apply setF_keeps | apply setB_keeps | apply showParked_keeps | apply Keeps.ite | apply Keeps.foldl)
    | split
    | fail_if_no_progress (with_reducible (apply Keeps.upd <;> try rfl))

theorem joinRegions_keeps {s : State} (h : Keeps r s) :
    Keeps r (joinRegions s) := by
  unfold joinRegions
  repeat' first
    | with_reducible assumption
    | with_reducible rfl
    | intro _
    | (with_reducible first | apply setF_keeps | apply onHgr_keeps | apply onLdr_keeps | apply Keeps.ite | apply Keeps.foldl)
    | split
    | fail_if_no_progress (with_reducible (apply Keeps.upd <;> try rfl))

theorem leaveIngot_keeps {s : State} (h : Keeps r s) :
    Keeps r (leaveIngot s) := by
  unfold leaveIngot
  repeat' first
    | with_reducible assumption
    | with_reducible rfl
    | intro _
    | (with_reducible first | apply chnAbandon_keeps | apply closeChans_keeps | apply designCancel_keeps | apply cancelRunControl_keeps | apply endHolds_keeps | apply setB_keeps | apply asyDisarm_keeps | apply joinRegions_keeps | apply showEmpty_keeps | apply Keeps.ite | apply Keeps.foldl)
    | split
    | fail_if_no_progress (with_reducible (apply Keeps.upd <;> try rfl))

theorem installTiles_keeps {s : State} (g : Ingot) (m : Memory) (h : Keeps r s) : Keeps r (installTiles s g m) :=
  ⟨h.pending, h.chip, h.outs, h.draws, h.fuses, fun hs =>
    let k := h.stores hs
    ⟨k.regs, placeBytes_wf _ _ (placeBytes_wf _ _ (Memory.wf_nil _)), placeBytes_wf _ _ (Memory.wf_nil _), k.exr, k.hbm,
      k.scratch⟩⟩

theorem zeroWindow_keeps {s : State} (w : Nat) (h : Keeps r s) :
    Keeps r (zeroWindow s w) := by
  unfold zeroWindow
  repeat' first
    | with_reducible assumption
    | with_reducible rfl
    | intro _
    | (with_reducible first | apply winClear_keeps | apply Keeps.ite | apply Keeps.foldl)
    | split
    | fail_if_no_progress (with_reducible (apply Keeps.upd <;> try rfl))

theorem installWindows_keeps {s : State} (g : Ingot) (m : Memory) (h : Keeps r s) :
    Keeps r (installWindows s g m) := by
  unfold installWindows
  repeat' first
    | with_reducible assumption
    | with_reducible rfl
    | intro _
    | (with_reducible first | apply winStore_keeps | apply zeroWindow_keeps | apply Keeps.ite | apply Keeps.foldl)
    | split
    | fail_if_no_progress (with_reducible (apply Keeps.upd <;> try rfl))

theorem showCensus_keeps {s : State} (census : List (Option Nat)) (h : Keeps r s) :
    Keeps r (showCensus s census) := by
  unfold showCensus
  repeat' first
    | with_reducible assumption
    | with_reducible rfl
    | intro _
    | (with_reducible first | apply setF_keeps | apply setB_keeps | apply Keeps.ite | apply Keeps.foldl)
    | split
    | fail_if_no_progress (with_reducible (apply Keeps.upd <;> try rfl))

theorem installPll_keeps {s : State} (h_ : Nat) (h : Keeps r s) :
    Keeps r (installPll s h_) := by
  unfold installPll
  repeat' first
    | with_reducible assumption
    | with_reducible rfl
    | intro _
    | (with_reducible first | apply drawFree_keeps | apply setB_keeps | apply setF_keeps | apply setFBit_keeps | apply showUclks_keeps | apply Keeps.ite | apply Keeps.foldl)
    | split
    | fail_if_no_progress (with_reducible (apply Keeps.upd <;> try rfl))

theorem installFabric_keeps {s : State} (m : Memory) (h : Keeps r s) :
    Keeps r (installFabric s m) := by
  unfold installFabric
  repeat' first
    | with_reducible assumption
    | with_reducible rfl
    | intro _
    | (with_reducible first | apply onHgr_keeps | apply installPll_keeps | apply showCensus_keeps | apply Keeps.ite | apply Keeps.foldl)
    | split
    | fail_if_no_progress (with_reducible (apply Keeps.upd <;> try rfl))

theorem dropIngot_keeps {s : State} (h : Keeps r s) : Keeps r (dropIngot s) :=
  Keeps.tiles (Keeps.upd (ingot := none) h rfl rfl rfl rfl rfl) [] (fun _ => Memory.wf_nil _)

theorem installNow_keeps {s : State} (i : LdInstall) (h : Keeps r s) : Keeps r (installNow s i) := by
  have hs : Keeps r (releaseWindows (leaveIngot s)) := releaseWindows_keeps (leaveIngot_keeps h)
  unfold installNow
  dsimp only
  split
  · exact endInstall_keeps _ _ (dropIngot_keeps hs)
  · rename_i t ws e
    exact onLdr_keeps _ (setF_keeps (setF_keeps (installFabric_keeps _ (installWindows_keeps _ _
      (installTiles_keeps _ _ (enableWindows_keeps e hs)))) _ _) _ _)

theorem eventOutputs_keeps {s : State} (h : Keeps r s) :
    Keeps r (eventOutputs s) := by
  unfold eventOutputs
  repeat' first
    | with_reducible assumption
    | with_reducible rfl
    | intro _
    | (with_reducible first | apply setB_keeps | apply showParked_keeps | apply setF_keeps | apply Keeps.ite | apply Keeps.foldl)
    | split
    | fail_if_no_progress (with_reducible (apply Keeps.upd <;> try rfl))

theorem eventInit_keeps {s : State} (i : LdInstall) (h : Keeps r s) :
    Keeps r (eventInit s i) := by
  unfold eventInit
  repeat' first
    | with_reducible assumption
    | with_reducible rfl
    | intro _
    | (with_reducible first | apply setB_keeps | apply onHgr_keeps | apply Keeps.ite | apply Keeps.foldl)
    | split
    | fail_if_no_progress (with_reducible (apply Keeps.upd <;> try rfl))

theorem startupEffect_keeps {s : State} (i : LdInstall) (y0 : Nat) (h : Keeps r s) :
    Keeps r (startupEffect s i y0) := by
  unfold startupEffect
  repeat' first
    | with_reducible assumption
    | with_reducible rfl
    | intro _
    | (with_reducible first | apply eventOutputs_keeps | apply eventInit_keeps | apply setB_keeps | apply Keeps.ite | apply Keeps.foldl)
    | split
    | fail_if_no_progress (with_reducible (apply Keeps.upd <;> try rfl))

theorem doEvent_keeps (i : LdInstall) {s : State} (e : Nat) (h : Keeps r s) :
    Keeps r (doEvent i s e) := by
  unfold doEvent
  repeat' first
    | with_reducible assumption
    | with_reducible rfl
    | intro _
    | (with_reducible first | apply setFBit_keeps | apply startupEffect_keeps | apply Keeps.ite | apply Keeps.foldl)
    | split
    | fail_if_no_progress (with_reducible (apply Keeps.upd <;> try rfl))

theorem setOwner_keeps {s : State} (i : LdInstall) (h : Keeps r s) :
    Keeps r (setOwner s i) := by
  unfold setOwner
  repeat' first
    | with_reducible assumption
    | with_reducible rfl
    | intro _
    | (with_reducible first | apply setF_keeps | apply setB_keeps | apply Keeps.ite | apply Keeps.foldl)
    | split
    | fail_if_no_progress (with_reducible (apply Keeps.upd <;> try rfl))

theorem enterLoaded_keeps {s : State} (i : LdInstall) (h : Keeps r s) :
    Keeps r (enterLoaded s i) := by
  unfold enterLoaded
  repeat' first
    | with_reducible assumption
    | with_reducible rfl
    | intro _
    | (with_reducible first | apply setF_keeps | apply setOwner_keeps | apply setB_keeps | apply endInstall_keeps | apply onLdr_keeps | apply Keeps.ite | apply Keeps.foldl)
    | split
    | fail_if_no_progress (with_reducible (apply Keeps.upd <;> try rfl))

theorem startupStep_keeps {s : State} (h : Keeps r s) :
    Keeps r (startupStep s) := by
  unfold startupStep
  repeat' first
    | with_reducible assumption
    | with_reducible rfl
    | intro _
    | (with_reducible first | apply doEvent_keeps | apply enterLoaded_keeps | apply onLdr_keeps | apply Keeps.ite | apply Keeps.foldl)
    | split
    | fail_if_no_progress (with_reducible (apply Keeps.upd <;> try rfl))

theorem execStartupEvent_keeps {s : State} (h : Keeps r s) :
    OutKeeps r (execStartupEvent s) := by
  unfold execStartupEvent
  repeat' first
    | with_reducible assumption
    | with_reducible rfl
    | intro _
    | (with_reducible first | apply startupStep_keeps | apply OutKeeps.next | apply Keeps.ite | apply Keeps.foldl)
    | split
    | fail_if_no_progress (with_reducible (apply Keeps.upd <;> try rfl))

theorem pllTimeout_keeps {s : State} (h : Keeps r s) :
    Keeps r (pllTimeout s) := by
  unfold pllTimeout
  repeat' first
    | with_reducible assumption
    | with_reducible rfl
    | intro _
    | (with_reducible first | apply endInstall_keeps | apply showEmpty_keeps | apply Keeps.ite | apply Keeps.foldl)
    | split
    | fail_if_no_progress (with_reducible (apply Keeps.upd <;> try rfl))

theorem execLsPll_keeps {s : State} (h : Keeps r s) :
    OutKeeps r (execLsPll s) := by
  unfold execLsPll
  repeat' first
    | with_reducible assumption
    | with_reducible rfl
    | intro _
    | (with_reducible first | apply pllTimeout_keeps | apply OutKeeps.next | apply Keeps.ite | apply Keeps.foldl)
    | split
    | fail_if_no_progress (with_reducible (apply Keeps.upd <;> try rfl))

end Sys2Proof.Machine
end

