-- ==== Sys2Proof/Laws/KeepsLoader.lean ====
section
/-! SUPPORT. What the operations of Machine/Loader.lean keep. -/

namespace Sys2Proof.Machine

variable {r : State}

set_option linter.unusedTactic false
set_option linter.unreachableTactic false

theorem putFrame_wf {m : Memory} (h : Memory.wf zeroFill m) (a : Nat) (data : List Byte) :
    Memory.wf zeroFill (putFrame m a data) := Memory.wf_writeBytes _ _ (Memory.wf_clear _ h _ _) _

theorem storeTileBytes_keeps {s : State} (a : Nat) (data : List Byte) (h : Keeps r s) :
    Keeps r (storeTileBytes s a data) := Keeps.tiles h _ (fun k => putFrame_wf k a data)

theorem storeTram_keeps {s : State} (a : Nat) (data : List Byte) (h : Keeps r s) : Keeps r (storeTram s a data) :=
  Keeps.mem h _ (fun k => putFrame_wf k a data) (fun k => k) (fun k => k)

theorem putTileFrame_keeps {s : State} (d : Nat) (p : Nat) (f : Nat) (data : List Byte) (h : Keeps r s) :
    Keeps r (putTileFrame s d p f data) := by
  unfold putTileFrame
  repeat' first
    | with_reducible assumption
    | with_reducible rfl
    | intro _
    | (with_reducible first | apply storeTileBytes_keeps | apply storeTram_keeps | apply Keeps.ite | apply Keeps.foldl)
    | split
    | fail_if_no_progress (with_reducible (apply Keeps.upd <;> try rfl))

theorem putUnitFrame_keeps {s : State} (addr : Nat) (data : List Byte) (h : Keeps r s) :
    Keeps r (putUnitFrame s addr data) := by
  unfold putUnitFrame
  repeat' first
    | with_reducible assumption
    | with_reducible rfl
    | intro _
    | (with_reducible first | apply putTileFrame_keeps | apply onHgr_keeps | apply Keeps.ite | apply Keeps.foldl)
    | split
    | fail_if_no_progress (with_reducible (apply Keeps.upd <;> try rfl))

theorem putWrite_keeps {s : State} (w : FrameWrite) (h : Keeps r s) :
    Keeps r (putWrite s w) := by
  unfold putWrite
  repeat' first
    | with_reducible assumption
    | with_reducible rfl
    | intro _
    | (with_reducible first | apply putUnitFrame_keeps | apply Keeps.ite | apply Keeps.foldl)
    | split
    | fail_if_no_progress (with_reducible (apply Keeps.upd <;> try rfl))

theorem setVariant_keeps {s : State} (n : Nat) (v : List Byte) (h : Keeps r s) :
    Keeps r (setVariant s n v) := by
  unfold setVariant
  repeat' first
    | with_reducible assumption
    | with_reducible rfl
    | intro _
    | (with_reducible first | apply Keeps.ite | apply Keeps.foldl)
    | split
    | fail_if_no_progress (with_reducible (apply Keeps.upd <;> try rfl))

theorem commitPartial_keeps {s : State} (x : LdStream) (h : Keeps r s) :
    Keeps r (commitPartial s x) := by
  unfold commitPartial
  repeat' first
    | with_reducible assumption
    | with_reducible rfl
    | intro _
    | (with_reducible first | apply endStream_keeps | apply regionBecomesReady_keeps | apply setVariant_keeps | apply Keeps.ite | apply Keeps.foldl)
    | split
    | fail_if_no_progress (with_reducible (apply Keeps.upd <;> try rfl))

theorem applyWaiting_keeps {s : State} (c : Nat × LdCmd) (h : Keeps r s) :
    Keeps r (applyWaiting s c) := by
  unfold applyWaiting
  repeat' first
    | with_reducible assumption
    | with_reducible rfl
    | intro _
    | (with_reducible first | apply commitPartial_keeps | apply putWrite_keeps | apply Keeps.ite | apply Keeps.foldl)
    | split
    | fail_if_no_progress (with_reducible (apply Keeps.upd <;> try rfl))

theorem loaderTick_keeps {s : State} (h : Keeps r s) :
    Keeps r (loaderTick s) := by
  unfold loaderTick
  repeat' first
    | with_reducible assumption
    | with_reducible rfl
    | intro _
    | (with_reducible first | apply applyWaiting_keeps | apply onLdr_keeps | apply Keeps.ite | apply Keeps.foldl)
    | split
    | fail_if_no_progress (with_reducible (apply Keeps.upd <;> try rfl))

theorem finishChecks_keeps {s : State} (i : LdInstall) (h : Keeps r s) :
    Keeps r (finishChecks s i) := by
  unfold finishChecks
  repeat' first
    | with_reducible assumption
    | with_reducible rfl
    | intro _
    | (with_reducible first | apply endInstall_keeps | apply installNow_keeps | apply Keeps.ite | apply Keeps.foldl)
    | split
    | fail_if_no_progress (with_reducible (apply Keeps.upd <;> try rfl))

theorem commitFull_keeps {s : State} (x : LdStream) (h : Keeps r s) :
    Keeps r (commitFull s x) := by
  unfold commitFull
  repeat' first
    | with_reducible assumption
    | with_reducible rfl
    | intro _
    | (with_reducible first | apply endStream_keeps | apply onLdr_keeps | apply sendMgmt_keeps | apply setF_keeps | apply finishChecks_keeps | apply Keeps.ite | apply Keeps.foldl)
    | split
    | fail_if_no_progress (with_reducible (apply Keeps.upd <;> try rfl))

theorem machineWaitEnds_keeps {s : State} (headers : List MachineHeader) (links : List LinkRecord) (h : Keeps r s) :
    Keeps r (machineWaitEnds s headers links) := by
  unfold machineWaitEnds
  repeat' first
    | with_reducible assumption
    | with_reducible rfl
    | intro _
    | (with_reducible first | apply finishChecks_keeps | apply onLnk_keeps | apply endInstall_keeps | apply Keeps.ite | apply Keeps.foldl)
    | split
    | fail_if_no_progress (with_reducible (apply Keeps.upd <;> try rfl))

theorem isolateAgain_keeps {s : State} (n : Nat) (h : Keeps r s) :
    Keeps r (isolateAgain s n) := by
  unfold isolateAgain
  repeat' first
    | with_reducible assumption
    | with_reducible rfl
    | intro _
    | (with_reducible first | apply isolateRegion_keeps | apply setRegionRun_keeps | apply setF_keeps | apply Keeps.ite | apply Keeps.foldl)
    | split
    | fail_if_no_progress (with_reducible (apply Keeps.upd <;> try rfl))

theorem showStream_keeps {s : State} (x : LdStream) (h : Keeps r s) :
    Keeps r (showStream s x) := by
  unfold showStream
  repeat' first
    | with_reducible assumption
    | with_reducible rfl
    | intro _
    | (with_reducible first | apply setF_keeps | apply setB_keeps | apply Keeps.ite | apply Keeps.foldl)
    | split
    | fail_if_no_progress (with_reducible (apply Keeps.upd <;> try rfl))

theorem actPartial_keeps {s : State} (x : LdStream) (cs : List LdCmd) (seg : Nat) (h : Keeps r s) :
    Keeps r (actPartial s x cs seg) := by
  unfold actPartial
  repeat' first
    | with_reducible assumption
    | with_reducible rfl
    | intro _
    | (with_reducible first | apply showCensus_keeps | apply loaderTick_keeps | apply onLdr_keeps | apply isolateAgain_keeps | apply endStream_keeps | apply Keeps.ite | apply Keeps.foldl)
    | split
    | fail_if_no_progress (with_reducible (apply Keeps.upd <;> try rfl))

theorem actFull_keeps {s : State} (x : LdStream) (cs : List LdCmd) (h : Keeps r s) :
    Keeps r (actFull s x cs) := by
  unfold actFull
  repeat' first
    | with_reducible assumption
    | with_reducible rfl
    | intro _
    | (with_reducible first | apply onLdr_keeps | apply commitFull_keeps | apply Keeps.ite | apply Keeps.foldl)
    | split
    | fail_if_no_progress (with_reducible (apply Keeps.upd <;> try rfl))

theorem takeCmds_keeps {s : State} (x : LdStream) (cs : List LdCmd) (seg : Nat) (pass : Nat) (h : Keeps r s) :
    Keeps r (takeCmds s x cs seg pass) := by
  unfold takeCmds
  repeat' first
    | with_reducible assumption
    | with_reducible rfl
    | intro _
    | extract_lets
    | (with_reducible first | apply showStream_keeps | apply setF_keeps | apply endStream_keeps | apply actPartial_keeps | apply actFull_keeps | apply Keeps.ite | apply Keeps.foldl)
    | split
    | (refine Keeps.of_fst (by assumption) ?_)
    | (refine Keeps.of_snd (by assumption) ?_)
    | fail_if_no_progress (with_reducible (apply Keeps.upd <;> try rfl))
    | dsimp +zetaDelta only

theorem takeSegment_keeps {s : State} (x : LdStream) (h_ : List Byte) (ct : List Byte) (tag : List Byte) (h : Keeps r s) :
    Keeps r (takeSegment s x h_ ct tag) := by
  unfold takeSegment
  repeat' first
    | with_reducible assumption
    | with_reducible rfl
    | intro _
    | extract_lets
    | (with_reducible first | apply endStream_keeps | apply takeCmds_keeps | apply Keeps.ite | apply Keeps.foldl)
    | split
    | (refine Keeps.of_fst (by assumption) ?_)
    | (refine Keeps.of_snd (by assumption) ?_)
    | fail_if_no_progress (with_reducible (apply Keeps.upd <;> try rfl))
    | dsimp +zetaDelta only

theorem feed_keeps (n : Nat) {s : State} (h : Keeps r s) : Keeps r (feed n s) := by
  induction n generalizing s with
  | zero => exact h
  | succ n ih =>
    unfold feed
    repeat' first
      | with_reducible assumption
      | split
      | apply ih
      | (with_reducible first | apply endStream_keeps | apply takeSegment_keeps)

theorem arriveBytes_keeps {s : State} (bs : List Byte) (h : Keeps r s) :
    Keeps r (arriveBytes s bs) := by
  unfold arriveBytes
  repeat' first
    | with_reducible assumption
    | with_reducible rfl
    | intro _
    | extract_lets
    | (with_reducible first | apply feed_keeps | apply onLdr_keeps | apply Keeps.ite | apply Keeps.foldl)
    | split
    | (refine Keeps.of_fst (by assumption) ?_)
    | (refine Keeps.of_snd (by assumption) ?_)
    | fail_if_no_progress (with_reducible (apply Keeps.upd <;> try rfl))
    | dsimp +zetaDelta only

theorem streamCmd_keeps {s : State} (c : LdCmd) (h : Keeps r s) :
    Keeps r (streamCmd s c) := by
  unfold streamCmd
  repeat' first
    | with_reducible assumption
    | with_reducible rfl
    | intro _
    | (with_reducible first | apply endStream_keeps | apply takeCmds_keeps | apply Keeps.ite | apply Keeps.foldl)
    | split
    | fail_if_no_progress (with_reducible (apply Keeps.upd <;> try rfl))

theorem execSegment_keeps (header : List Byte) (ciphertext : List Byte) (tag : List Byte) {s : State} (h : Keeps r s) :
    OutKeeps r (execSegment header ciphertext tag s) := by
  unfold execSegment
  repeat' first
    | with_reducible assumption
    | with_reducible rfl
    | intro _
    | (with_reducible first | apply takeSegment_keeps | apply OutKeeps.next | apply Keeps.ite | apply Keeps.foldl)
    | split
    | fail_if_no_progress (with_reducible (apply Keeps.upd <;> try rfl))

theorem execWriteFrame_keeps (addr : Word) (data : List Byte) {s : State} (h : Keeps r s) :
    OutKeeps r (execWriteFrame addr data s) := by
  unfold execWriteFrame
  repeat' first
    | with_reducible assumption
    | with_reducible rfl
    | intro _
    | (with_reducible first | apply streamCmd_keeps | apply OutKeeps.next | apply Keeps.ite | apply Keeps.foldl)
    | split
    | fail_if_no_progress (with_reducible (apply Keeps.upd <;> try rfl))

theorem execRepeatFrame_keeps (addrs : List Word) {s : State} (h : Keeps r s) :
    OutKeeps r (execRepeatFrame addrs s) := by
  unfold execRepeatFrame
  repeat' first
    | with_reducible assumption
    | with_reducible rfl
    | intro _
    | (with_reducible first | apply streamCmd_keeps | apply OutKeeps.next | apply Keeps.ite | apply Keeps.foldl)
    | split
    | fail_if_no_progress (with_reducible (apply Keeps.upd <;> try rfl))

theorem execZeroFrames_keeps (addr : Word) (count : Word) {s : State} (h : Keeps r s) :
    OutKeeps r (execZeroFrames addr count s) := by
  unfold execZeroFrames
  repeat' first
    | with_reducible assumption
    | with_reducible rfl
    | intro _
    | (with_reducible first | apply streamCmd_keeps | apply OutKeeps.next | apply Keeps.ite | apply Keeps.foldl)
    | split
    | fail_if_no_progress (with_reducible (apply Keeps.upd <;> try rfl))

theorem execSetRegion_keeps (region : Fin 64) (parent : List Byte) (variant : List Byte) {s : State} (h : Keeps r s) :
    OutKeeps r (execSetRegion region parent variant s) := by
  unfold execSetRegion
  repeat' first
    | with_reducible assumption
    | with_reducible rfl
    | intro _
    | (with_reducible first | apply streamCmd_keeps | apply OutKeeps.next | apply Keeps.ite | apply Keeps.foldl)
    | split
    | fail_if_no_progress (with_reducible (apply Keeps.upd <;> try rfl))

theorem execCommit_keeps {s : State} (h : Keeps r s) :
    OutKeeps r (execCommit s) := by
  unfold execCommit
  repeat' first
    | with_reducible assumption
    | with_reducible rfl
    | intro _
    | (with_reducible first | apply streamCmd_keeps | apply OutKeeps.next | apply Keeps.ite | apply Keeps.foldl)
    | split
    | fail_if_no_progress (with_reducible (apply Keeps.upd <;> try rfl))

theorem execPad_keeps (count : Word) (bytes : List Byte) {s : State} (h : Keeps r s) :
    OutKeeps r (execPad count bytes s) := by
  unfold execPad
  repeat' first
    | with_reducible assumption
    | with_reducible rfl
    | intro _
    | (with_reducible first | apply endStream_keeps | apply takeCmds_keeps | apply OutKeeps.next | apply Keeps.ite | apply Keeps.foldl)
    | split
    | fail_if_no_progress (with_reducible (apply Keeps.upd <;> try rfl))

theorem spiBytes_keeps {s : State} (bs : List Byte) (h : Keeps r s) :
    Keeps r (spiBytes s bs) := by
  unfold spiBytes
  repeat' first
    | with_reducible assumption
    | with_reducible rfl
    | intro _
    | extract_lets
    | (with_reducible first | apply offerStream_keeps | apply arriveBytes_keeps | apply endStream_keeps | apply Keeps.ite | apply Keeps.foldl)
    | split
    | (refine Keeps.of_fst (by assumption) ?_)
    | (refine Keeps.of_snd (by assumption) ?_)
    | fail_if_no_progress (with_reducible (apply Keeps.upd <;> try rfl))
    | dsimp +zetaDelta only

theorem execSpiStream_keeps (bytes : List Byte) {s : State} (h : Keeps r s) :
    OutKeeps r (execSpiStream bytes s) := by
  unfold execSpiStream
  repeat' first
    | with_reducible assumption
    | with_reducible rfl
    | intro _
    | (with_reducible first | apply spiBytes_keeps | apply OutKeeps.next | apply Keeps.ite | apply Keeps.foldl)
    | split
    | fail_if_no_progress (with_reducible (apply Keeps.upd <;> try rfl))

theorem execMachineWaitEnd_keeps (headers : List MachineHeader) (links : List LinkRecord) {s : State} (h : Keeps r s) :
    OutKeeps r (execMachineWaitEnd headers links s) := by
  unfold execMachineWaitEnd
  repeat' first
    | with_reducible assumption
    | with_reducible rfl
    | intro _
    | (with_reducible first | apply machineWaitEnds_keeps | apply OutKeeps.next | apply Keeps.ite | apply Keeps.foldl)
    | split
    | fail_if_no_progress (with_reducible (apply Keeps.upd <;> try rfl))

theorem breakLoad_keeps {s : State} (code : Nat) (h : Keeps r s) :
    Keeps r (breakLoad s code) := by
  unfold breakLoad
  repeat' first
    | with_reducible assumption
    | with_reducible rfl
    | intro _
    | (with_reducible first | apply endStream_keeps | apply endInstall_keeps | apply Keeps.ite | apply Keeps.foldl)
    | split
    | fail_if_no_progress (with_reducible (apply Keeps.upd <;> try rfl))

theorem loadTimeout_keeps {s : State} (h : Keeps r s) :
    Keeps r (loadTimeout s) := by
  unfold loadTimeout
  repeat' first
    | with_reducible assumption
    | with_reducible rfl
    | intro _
    | (with_reducible first | apply endStream_keeps | apply endInstall_keeps | apply Keeps.ite | apply Keeps.foldl)
    | split
    | fail_if_no_progress (with_reducible (apply Keeps.upd <;> try rfl))

theorem execLsTimeout_keeps {s : State} (h : Keeps r s) :
    OutKeeps r (execLsTimeout s) := by
  unfold execLsTimeout
  repeat' first
    | with_reducible assumption
    | with_reducible rfl
    | intro _
    | (with_reducible first | apply loadTimeout_keeps | apply OutKeeps.next | apply Keeps.ite | apply Keeps.foldl)
    | split
    | fail_if_no_progress (with_reducible (apply Keeps.upd <;> try rfl))

theorem ldrCtrlWrite_keeps {s : State} (v : Nat) (h : Keeps r s) :
    Keeps r (ldrCtrlWrite s v) := by
  unfold ldrCtrlWrite
  repeat' first
    | with_reducible assumption
    | with_reducible rfl
    | intro _
    | (with_reducible first | apply plainWrite_keeps | apply breakLoad_keeps | apply Keeps.ite | apply Keeps.foldl)
    | split
    | fail_if_no_progress (with_reducible (apply Keeps.upd <;> try rfl))

theorem execAbort_keeps (value : Word) {s : State} (h : Keeps r s) :
    OutKeeps r (execAbort value s) := by
  unfold execAbort
  repeat' first
    | with_reducible assumption
    | with_reducible rfl
    | intro _
    | (with_reducible first | apply ldrCtrlWrite_keeps | apply OutKeeps.next | apply Keeps.ite | apply Keeps.foldl)
    | split
    | fail_if_no_progress (with_reducible (apply Keeps.upd <;> try rfl))

theorem flashCtrlWrite_keeps {s : State} (v : Nat) (h : Keeps r s) :
    Keeps r (flashCtrlWrite s v) := by
  unfold flashCtrlWrite
  repeat' first
    | with_reducible assumption
    | with_reducible rfl
    | intro _
    | (with_reducible first | apply plainWrite_keeps | apply offerFlash_keeps | apply Keeps.ite | apply Keeps.foldl)
    | split
    | fail_if_no_progress (with_reducible (apply Keeps.upd <;> try rfl))

theorem execFlashStart_keeps (value : Word) {s : State} (h : Keeps r s) :
    OutKeeps r (execFlashStart value s) := by
  unfold execFlashStart
  repeat' first
    | with_reducible assumption
    | with_reducible rfl
    | intro _
    | (with_reducible first | apply flashCtrlWrite_keeps | apply OutKeeps.next | apply Keeps.ite | apply Keeps.foldl)
    | split
    | fail_if_no_progress (with_reducible (apply Keeps.upd <;> try rfl))

theorem flashBytes_keeps {s : State} (f : FlashPart) (div : Nat) (a : Nat) (n : Nat) (h : Keeps r s) :
    Keeps r (flashBytes s f div a n).1 := by
  unfold flashBytes
  repeat' first
    | with_reducible assumption
    | with_reducible rfl
    | intro _
    | (with_reducible first | apply emit_keeps | apply Keeps.ite | apply Keeps.foldl)
    | split
    | fail_if_no_progress (with_reducible (apply Keeps.upd <;> try rfl))

theorem flashStream_keeps {s : State} (x : LdStream) (bs : List Byte) (binding : List Byte) (h : Keeps r s) :
    Keeps r (flashStream s x bs binding) := by
  unfold flashStream
  repeat' first
    | with_reducible assumption
    | with_reducible rfl
    | intro _
    | extract_lets
    | (with_reducible first | apply endStream_keeps | apply feed_keeps | apply onLdr_keeps | apply Keeps.ite | apply Keeps.foldl)
    | split
    | (refine Keeps.of_fst (by assumption) ?_)
    | (refine Keeps.of_snd (by assumption) ?_)
    | fail_if_no_progress (with_reducible (apply Keeps.upd <;> try rfl))
    | dsimp +zetaDelta only

theorem flashEntry_keeps {s : State} (x : LdStream) (f : FlashPart) (e : List Byte) (h : Keeps r s) :
    Keeps r (flashEntry s x f e) := by
  unfold flashEntry
  repeat' first
    | with_reducible assumption
    | with_reducible rfl
    | intro _
    | extract_lets
    | (with_reducible first | apply endStream_keeps | apply flashBytes_keeps | apply flashStream_keeps | apply Keeps.ite | apply Keeps.foldl)
    | split
    | (refine Keeps.of_fst (by assumption) ?_)
    | (refine Keeps.of_snd (by assumption) ?_)
    | fail_if_no_progress (with_reducible (apply Keeps.upd <;> try rfl))
    | dsimp +zetaDelta only

theorem flashLoad_keeps {s : State} (f : FlashPart) (h : Keeps r s) :
    Keeps r (flashLoad s f) := by
  unfold flashLoad
  repeat' first
    | with_reducible assumption
    | with_reducible rfl
    | intro _
    | extract_lets
    | (with_reducible first | apply flashBytes_keeps | apply emit_keeps | apply flashEntry_keeps | apply endStream_keeps | apply Keeps.ite | apply Keeps.foldl)
    | split
    | (refine Keeps.of_fst (by assumption) ?_)
    | (refine Keeps.of_snd (by assumption) ?_)
    | fail_if_no_progress (with_reducible (apply Keeps.upd <;> try rfl))
    | dsimp +zetaDelta only

theorem execQspiSelfLoad_keeps (flash : FlashChip) (bad : List (Nat × Nat)) {s : State} (h : Keeps r s) :
    OutKeeps r (execQspiSelfLoad flash bad s) := by
  unfold execQspiSelfLoad
  repeat' first
    | with_reducible assumption
    | with_reducible rfl
    | intro _
    | (with_reducible first | apply flashLoad_keeps | apply OutKeeps.next | apply Keeps.ite | apply Keeps.foldl)
    | split
    | fail_if_no_progress (with_reducible (apply Keeps.upd <;> try rfl))

theorem ownerWrite_keeps {s : State} (v : Nat) (h : Keeps r s) :
    Keeps r (ownerWrite s v) := by
  unfold ownerWrite
  repeat' first
    | with_reducible assumption
    | with_reducible rfl
    | intro _
    | (with_reducible first | apply plainWrite_keeps | apply endRunControl_keeps | apply Keeps.ite | apply Keeps.foldl)
    | split
    | fail_if_no_progress (with_reducible (apply Keeps.upd <;> try rfl))

theorem execLdrOwnerWrite_keeps (value : Word) {s : State} (h : Keeps r s) :
    OutKeeps r (execLdrOwnerWrite value s) := by
  unfold execLdrOwnerWrite
  repeat' first
    | with_reducible assumption
    | with_reducible rfl
    | intro _
    | (with_reducible first | apply ownerWrite_keeps | apply OutKeeps.next | apply Keeps.ite | apply Keeps.foldl)
    | split
    | fail_if_no_progress (with_reducible (apply Keeps.upd <;> try rfl))

theorem rejoinNow_keeps {s : State} (n : Nat) (h : Keeps r s) :
    Keeps r (rejoinNow s n) := by
  unfold rejoinNow
  repeat' first
    | with_reducible assumption
    | with_reducible rfl
    | intro _
    | (with_reducible first | apply boundaryStep_keeps | apply rejoinAtRest_keeps | apply Keeps.ite | apply Keeps.foldl)
    | split
    | fail_if_no_progress (with_reducible (apply Keeps.upd <;> try rfl))

theorem execRegionRejoin_keeps (region : Fin 64) {s : State} (h : Keeps r s) :
    OutKeeps r (execRegionRejoin region s) := by
  unfold execRegionRejoin
  repeat' first
    | with_reducible assumption
    | with_reducible rfl
    | intro _
    | (with_reducible first | apply rejoinNow_keeps | apply OutKeeps.next | apply Keeps.ite | apply Keeps.foldl)
    | split
    | fail_if_no_progress (with_reducible (apply Keeps.upd <;> try rfl))

theorem imageTaken_keeps {s : State} (d : Desc) (h : Keeps r s) :
    Keeps r (imageTaken s d) := by
  unfold imageTaken
  repeat' first
    | with_reducible assumption
    | with_reducible rfl
    | intro _
    | (with_reducible first | apply complete_keeps | apply onLdr_keeps | apply Keeps.ite | apply Keeps.foldl)
    | split
    | fail_if_no_progress (with_reducible (apply Keeps.upd <;> try rfl))

theorem imageBytes_keeps {s : State} (d : Desc) (bytes : Option (List Byte)) (h : Keeps r s) :
    Keeps r (imageBytes s d bytes) := by
  unfold imageBytes
  repeat' first
    | with_reducible assumption
    | with_reducible rfl
    | intro _
    | (with_reducible first | apply imageTaken_keeps | apply arriveBytes_keeps | apply onLdr_keeps | apply complete_keeps | apply Keeps.ite | apply Keeps.foldl)
    | split
    | fail_if_no_progress (with_reducible (apply Keeps.upd <;> try rfl))

theorem imageDesc_keeps {s : State} (d : Desc) (start : Bool) (bytes : Option (List Byte)) (binding : Option (List Byte)) (h : Keeps r s) :
    Keeps r (imageDesc s d start bytes binding) := by
  unfold imageDesc
  repeat' first
    | with_reducible assumption
    | with_reducible rfl
    | intro _
    | (with_reducible first | apply complete_keeps | apply offerStream_keeps | apply imageBytes_keeps | apply Keeps.ite | apply Keeps.foldl)
    | split
    | fail_if_no_progress (with_reducible (apply Keeps.upd <;> try rfl))

theorem execImage_keeps (desc : Desc) (start : Bool) (bytes : Option (List Byte)) (binding : Option (List Byte)) {s : State} (h : Keeps r s) :
    OutKeeps r (execImage desc start bytes binding s) := by
  unfold execImage
  repeat' first
    | with_reducible assumption
    | with_reducible rfl
    | intro _
    | (with_reducible first | apply startDesc_keeps | apply ungrouped_keeps | apply imageDesc_keeps | apply OutKeeps.next | apply Keeps.ite | apply Keeps.foldl)
    | split
    | fail_if_no_progress (with_reducible (apply Keeps.upd <;> try rfl))

theorem sessionLost_keeps {s : State} (i : Nat) (gen : Nat) (h : Keeps r s) :
    Keeps r (sessionLost s i gen) := by
  unfold sessionLost
  repeat' first
    | with_reducible assumption
    | with_reducible rfl
    | intro _
    | (with_reducible first | apply endStream_keeps | apply endInstall_keeps | apply Keeps.ite | apply Keeps.foldl)
    | split
    | fail_if_no_progress (with_reducible (apply Keeps.upd <;> try rfl))

theorem loaderHostReset_keeps {s : State} (h : Keeps r s) :
    Keeps r (loaderHostReset s) := by
  unfold loaderHostReset
  repeat' first
    | with_reducible assumption
    | with_reducible rfl
    | intro _
    | (with_reducible first | apply endStream_keeps | apply endInstall_keeps | apply Keeps.ite | apply Keeps.foldl)
    | split
    | fail_if_no_progress (with_reducible (apply Keeps.upd <;> try rfl))

end Sys2Proof.Machine
end

