-- ==== Sys2Proof/Laws/KeepsHost.lean ====
section
/-! SUPPORT. What the operations of Machine/Host.lean keep. -/

namespace Sys2Proof.Machine

variable {r : State}

set_option linter.unusedTactic false
set_option linter.unreachableTactic false

theorem sessIndexWrite_keeps {s : State} (v : Nat) (h : Keeps r s) :
    Keeps r (sessIndexWrite s v) := by
  unfold sessIndexWrite
  repeat' first
    | with_reducible assumption
    | with_reducible rfl
    | intro _
    | (with_reducible first | apply plainWrite_keeps | apply set64_keeps | apply setF_keeps | apply Keeps.ite | apply Keeps.foldl)
    | split
    | fail_if_no_progress (with_reducible (apply Keeps.upd <;> try rfl))

theorem execSessIndexWrite_keeps (value : Word) {s : State} (h : Keeps r s) :
    OutKeeps r (execSessIndexWrite value s) := by
  unfold execSessIndexWrite
  repeat' first
    | with_reducible assumption
    | with_reducible rfl
    | intro _
    | (with_reducible first | apply sessIndexWrite_keeps | apply OutKeeps.next | apply Keeps.ite | apply Keeps.foldl)
    | split
    | fail_if_no_progress (with_reducible (apply Keeps.upd <;> try rfl))

theorem showSuspended_keeps {s : State} (h : Keeps r s) :
    Keeps r (showSuspended s) := by
  unfold showSuspended
  repeat' first
    | with_reducible assumption
    | with_reducible rfl
    | intro _
    | (with_reducible first | apply setB_keeps | apply Keeps.ite | apply Keeps.foldl)
    | split
    | fail_if_no_progress (with_reducible (apply Keeps.upd <;> try rfl))

theorem rejectCmd_keeps {s : State} (h : Keeps r s) :
    Keeps r (rejectCmd s) := by
  unfold rejectCmd
  repeat' first
    | with_reducible assumption
    | with_reducible rfl
    | intro _
    | (with_reducible first | apply setSession_keeps | apply Keeps.ite | apply Keeps.foldl)
    | split
    | fail_if_no_progress (with_reducible (apply Keeps.upd <;> try rfl))

theorem openSession_keeps {s : State} (h : Keeps r s) :
    Keeps r (openSession s) := by
  unfold openSession
  repeat' first
    | with_reducible assumption
    | with_reducible rfl
    | intro _
    | (with_reducible first | apply setSession_keeps | apply rejectCmd_keeps | apply Keeps.ite | apply Keeps.foldl)
    | split
    | fail_if_no_progress (with_reducible (apply Keeps.upd <;> try rfl))

theorem dropFenced_keeps {s : State} (i : Nat) (gen : Nat) (h : Keeps r s) :
    Keeps r (dropFenced s i gen) := by
  unfold dropFenced
  repeat' first
    | with_reducible assumption
    | with_reducible rfl
    | intro _
    | (with_reducible first | apply bumpF_keeps | apply bumpLive_keeps | apply Keeps.ite | apply Keeps.foldl)
    | split
    | fail_if_no_progress (with_reducible (apply Keeps.upd <;> try rfl))

theorem closeSession_keeps {s : State} (h : Keeps r s) :
    Keeps r (closeSession s) := by
  unfold closeSession
  repeat' first
    | with_reducible assumption
    | with_reducible rfl
    | intro _
    | (with_reducible first | apply rejectCmd_keeps | apply setSession_keeps | apply bumpF_keeps | apply dropFenced_keeps | apply completeAll_keeps | apply closeChans_keeps | apply sessionLost_keeps | apply showSuspended_keeps | apply ownerWrite_keeps | apply Keeps.ite | apply Keeps.foldl)
    | split
    | fail_if_no_progress (with_reducible (apply Keeps.upd <;> try rfl))

theorem attachSession_keeps {s : State} (h : Keeps r s) :
    Keeps r (attachSession s) := by
  unfold attachSession
  repeat' first
    | with_reducible assumption
    | with_reducible rfl
    | intro _
    | (with_reducible first | apply showSuspended_keeps | apply postCompletion_keeps | apply setSession_keeps | apply rejectCmd_keeps | apply Keeps.ite | apply Keeps.foldl)
    | split
    | fail_if_no_progress (with_reducible (apply Keeps.upd <;> try rfl))

theorem sessCmdWrite_keeps {s : State} (v : Nat) (h : Keeps r s) :
    Keeps r (sessCmdWrite s v) := by
  unfold sessCmdWrite
  repeat' first
    | with_reducible assumption
    | with_reducible rfl
    | intro _
    | (with_reducible first | apply openSession_keeps | apply closeSession_keeps | apply attachSession_keeps | apply Keeps.ite | apply Keeps.foldl)
    | split
    | fail_if_no_progress (with_reducible (apply Keeps.upd <;> try rfl))

theorem execSessOpen_keeps {s : State} (h : Keeps r s) :
    OutKeeps r (execSessOpen s) := by
  unfold execSessOpen
  repeat' first
    | with_reducible assumption
    | with_reducible rfl
    | intro _
    | (with_reducible first | apply sessCmdWrite_keeps | apply OutKeeps.next | apply Keeps.ite | apply Keeps.foldl)
    | split
    | fail_if_no_progress (with_reducible (apply Keeps.upd <;> try rfl))

theorem execSessClose_keeps {s : State} (h : Keeps r s) :
    OutKeeps r (execSessClose s) := by
  unfold execSessClose
  repeat' first
    | with_reducible assumption
    | with_reducible rfl
    | intro _
    | (with_reducible first | apply sessCmdWrite_keeps | apply OutKeeps.next | apply Keeps.ite | apply Keeps.foldl)
    | split
    | fail_if_no_progress (with_reducible (apply Keeps.upd <;> try rfl))

theorem execSessAttach_keeps {s : State} (h : Keeps r s) :
    OutKeeps r (execSessAttach s) := by
  unfold execSessAttach
  repeat' first
    | with_reducible assumption
    | with_reducible rfl
    | intro _
    | (with_reducible first | apply sessCmdWrite_keeps | apply OutKeeps.next | apply Keeps.ite | apply Keeps.foldl)
    | split
    | fail_if_no_progress (with_reducible (apply Keeps.upd <;> try rfl))

theorem sessStateWrite_keeps {s : State} (v : Nat) (h : Keeps r s) :
    Keeps r (sessStateWrite s v) := by
  unfold sessStateWrite
  repeat' first
    | with_reducible assumption
    | with_reducible rfl
    | intro _
    | (with_reducible first | apply setSession_keeps | apply Keeps.ite | apply Keeps.foldl)
    | split
    | fail_if_no_progress (with_reducible (apply Keeps.upd <;> try rfl))

theorem ringError_keeps {s : State} (i : Nat) (cause : Nat) (h : Keeps r s) :
    Keeps r (ringError s i cause) := by
  unfold ringError
  repeat' first
    | with_reducible assumption
    | with_reducible rfl
    | intro _
    | (with_reducible first | apply setSession_keeps | apply Keeps.ite | apply Keeps.foldl)
    | split
    | fail_if_no_progress (with_reducible (apply Keeps.upd <;> try rfl))

theorem fetchOne_keeps {s : State} (i : Nat) (f : Fetched) (h : Keeps r s) :
    Keeps r (fetchOne s i f) := by
  unfold fetchOne
  repeat' first
    | with_reducible assumption
    | with_reducible rfl
    | intro _
    | (with_reducible first | apply bumpLive_keeps | apply setSession_keeps | apply Keeps.ite | apply Keeps.foldl)
    | split
    | fail_if_no_progress (with_reducible (apply Keeps.upd <;> try rfl))

theorem fetchRing_keeps (i : Nat) (m : HostMem) (n : Nat) {s : State} (h : Keeps r s) : Keeps r (fetchRing i m n s) := by
  induction n generalizing s with
  | zero => exact h
  | succ n ih =>
    unfold fetchRing
    extract_lets
    repeat' first
      | with_reducible assumption
      | split
      | apply ih
      | (with_reducible first | apply bumpF_keeps | apply setSession_keeps | apply fetchOne_keeps | apply ringError_keeps)

theorem doorbell_keeps (m : HostMem) {s : State} (i : Nat) (h : Keeps r s) :
    Keeps r (doorbell m s i) := by
  unfold doorbell
  repeat' first
    | with_reducible assumption
    | with_reducible rfl
    | intro _
    | extract_lets
    | (with_reducible first | apply ringError_keeps | apply bumpF_keeps | apply fetchRing_keeps | apply setSession_keeps | apply emit_keeps | apply Keeps.ite | apply Keeps.foldl)
    | split
    | (refine Keeps.of_fst (by assumption) ?_)
    | (refine Keeps.of_snd (by assumption) ?_)
    | fail_if_no_progress (with_reducible (apply Keeps.upd <;> try rfl))
    | dsimp +zetaDelta only

theorem startSweep_keeps {s : State} (h : Keeps r s) :
    Keeps r (startSweep s) := by
  unfold startSweep
  repeat' first
    | with_reducible assumption
    | with_reducible rfl
    | intro _
    | (with_reducible first | apply Keeps.ite | apply Keeps.foldl)
    | split
    | fail_if_no_progress (with_reducible (apply Keeps.upd <;> try rfl))

theorem endSweep_keeps {s : State} (h : Keeps r s) :
    Keeps r (endSweep s) := by
  unfold endSweep
  repeat' first
    | with_reducible assumption
    | with_reducible rfl
    | intro _
    | (with_reducible first | apply startSweep_keeps | apply Keeps.ite | apply Keeps.foldl)
    | split
    | fail_if_no_progress (with_reducible (apply Keeps.upd <;> try rfl))

theorem execDoorbellSweep_keeps (cells : List (Nat × Byte)) (bad : List (Nat × Nat)) (lost : List (Fin 4096)) {s : State} (h : Keeps r s) :
    OutKeeps r (execDoorbellSweep cells bad lost s) := by
  unfold execDoorbellSweep
  repeat' first
    | with_reducible assumption
    | with_reducible rfl
    | intro _
    | extract_lets
    | (with_reducible first | apply ringError_keeps | apply endSweep_keeps | apply doorbell_keeps | apply OutKeeps.next | apply Keeps.ite | apply Keeps.foldl)
    | split
    | (refine Keeps.of_fst (by assumption) ?_)
    | (refine Keeps.of_snd (by assumption) ?_)
    | fail_if_no_progress (with_reducible (apply Keeps.upd <;> try rfl))
    | dsimp +zetaDelta only

theorem execCoalesceTimeout_keeps (i : Fin 4096) {s : State} (h : Keeps r s) :
    OutKeeps r (execCoalesceTimeout i s) := by
  unfold execCoalesceTimeout
  repeat' first
    | with_reducible assumption
    | with_reducible rfl
    | intro _
    | (with_reducible first | apply signalSession_keeps | apply OutKeeps.next | apply Keeps.ite | apply Keeps.foldl)
    | split
    | fail_if_no_progress (with_reducible (apply Keeps.upd <;> try rfl))

theorem msixWrite_keeps {s : State} (a : Nat) (v : Nat) (h : Keeps r s) :
    Keeps r (msixWrite s a v) := by
  unfold msixWrite
  repeat' first
    | with_reducible assumption
    | with_reducible rfl
    | intro _
    | (with_reducible first | apply emit_keeps | apply Keeps.ite | apply Keeps.foldl)
    | split
    | fail_if_no_progress (with_reducible (apply Keeps.upd <;> try rfl))

end Sys2Proof.Machine
end

