-- ==== Sys2Proof/Laws/KeepsResets.lean ====
section
/-! SUPPORT. What the operations of Machine/Resets.lean keep. -/

namespace Sys2Proof.Machine

variable {r : State}

set_option linter.unusedTactic false
set_option linter.unreachableTactic false

theorem coldStart_keeps {s : State} {hgr : Hgr} {clk : ClkSt} {sec : Sec} {boot : Boot} (keep : Nat → Nat → Bool)
    (h : Keeps r s) (h1 : sec.fuses = s.sec.fuses) :
    Keeps r { State.reset with
      chip := s.chip, regs := keptRegs s keep, hgr := hgr, clk := clk, sec := sec, boot := boot
      outs := s.outs, draws := s.draws, pending := s.pending } :=
  ⟨h.pending, h.chip, h.outs, h.draws, fun w i hw => h1 ▸ h.fuses w i hw, fun hs =>
    ⟨SMap.ordered_filter _ (h.stores hs).regs, Memory.wf_nil _, Memory.wf_nil _, Memory.wf_nil _, Memory.wf_nil _,
      Memory.wf_nil _⟩⟩

theorem warmStart_keeps {s : State} {dies : Vector Die 4} {hbm : HbmSt} {hgr : Hgr} {clk : ClkSt} {sec : Sec} {boot : Boot}
    (keep : Nat → Nat → Bool) (stay : Host.Cell → Bool) (h : Keeps r s) (h1 : sec.fuses = s.sec.fuses) :
    Keeps r { State.reset with
      chip := s.chip, regs := keptRegs s keep, dies := dies, mem := { State.reset.mem with hbm := s.mem.hbm.filter stay }
      hbm := hbm, hgr := hgr, clk := clk, sec := sec, boot := boot
      outs := s.outs, draws := s.draws, pending := s.pending } :=
  ⟨h.pending, h.chip, h.outs, h.draws, fun w i hw => h1 ▸ h.fuses w i hw, fun hs =>
    ⟨SMap.ordered_filter _ (h.stores hs).regs, Memory.wf_nil _, Memory.wf_nil _, Memory.wf_nil _,
      Memory.wf_filter _ _ (h.stores hs).hbm, Memory.wf_nil _⟩⟩

theorem coldReset_keeps {s : State} (bootSel : Nat) (h : Keeps r s) : Keeps r (coldReset s bootSel) := by
  unfold coldReset
  extract_lets
  apply setF_keeps
  exact coldStart_keeps _ (breakBurn_keeps h) rfl

theorem execPorN_keeps (bootSel : BitVec 2) {s : State} (h : Keeps r s) :
    OutKeeps r (execPorN bootSel s) := by
  unfold execPorN
  repeat' first
    | with_reducible assumption
    | with_reducible rfl
    | intro _
    | (with_reducible first | apply coldReset_keeps | apply OutKeeps.next | apply Keeps.ite | apply Keeps.foldl)
    | split
    | fail_if_no_progress (with_reducible (apply Keeps.upd <;> try rfl))

theorem warmState_keeps {s : State} (cause bootSel : Nat) (h : Keeps r s) : Keeps r (warmState s cause bootSel) := by
  unfold warmState
  extract_lets
  repeat' first
    | apply bumpF_keeps
    | apply setF_keeps
    | apply setB_keeps
  exact warmStart_keeps _ _ (breakBurn_keeps h) rfl

theorem warmReset_keeps {s : State} (cause : Nat) (bootSel : Nat) (h : Keeps r s) :
    Keeps r (warmReset s cause bootSel) := by
  unfold warmReset
  repeat' first
    | with_reducible assumption
    | with_reducible rfl
    | intro _
    | (with_reducible first | apply warmState_keeps | apply Keeps.ite | apply Keeps.foldl)
    | split
    | fail_if_no_progress (with_reducible (apply Keeps.upd <;> try rfl))

theorem execRstN_keeps (bootSel : BitVec 2) {s : State} (h : Keeps r s) :
    OutKeeps r (execRstN bootSel s) := by
  unfold execRstN
  repeat' first
    | with_reducible assumption
    | with_reducible rfl
    | intro _
    | (with_reducible first | apply warmReset_keeps | apply OutKeeps.next | apply Keeps.ite | apply Keeps.foldl)
    | split
    | fail_if_no_progress (with_reducible (apply Keeps.upd <;> try rfl))

theorem rstCtrlWrite_keeps {s : State} (v : Nat) (bootSel : Nat) (h : Keeps r s) :
    Keeps r (rstCtrlWrite s v bootSel) := by
  unfold rstCtrlWrite
  repeat' first
    | with_reducible assumption
    | with_reducible rfl
    | intro _
    | (with_reducible first | apply warmReset_keeps | apply Keeps.ite | apply Keeps.foldl)
    | split
    | fail_if_no_progress (with_reducible (apply Keeps.upd <;> try rfl))

theorem execWarm_keeps (value : Word) (bootSel : BitVec 2) {s : State} (h : Keeps r s) :
    OutKeeps r (execWarm value bootSel s) := by
  unfold execWarm
  repeat' first
    | with_reducible assumption
    | with_reducible rfl
    | intro _
    | (with_reducible first | apply rstCtrlWrite_keeps | apply OutKeeps.next | apply Keeps.ite | apply Keeps.foldl)
    | split
    | fail_if_no_progress (with_reducible (apply Keeps.upd <;> try rfl))

theorem suspendSession_keeps {s : State} (i : Nat) (h : Keeps r s) :
    Keeps r (suspendSession s i) := by
  unfold suspendSession
  repeat' first
    | with_reducible assumption
    | with_reducible rfl
    | intro _
    | (with_reducible first | apply setSession_keeps | apply completeAll_keeps | apply Keeps.ite | apply Keeps.foldl)
    | split
    | fail_if_no_progress (with_reducible (apply Keeps.upd <;> try rfl))

theorem endReads_keeps {s : State} (h : Keeps r s) :
    Keeps r (endReads s) := by
  unfold endReads
  repeat' first
    | with_reducible assumption
    | with_reducible rfl
    | intro _
    | (with_reducible first | apply onDesign_keeps | apply closeView_keeps | apply completeAll_keeps | apply Keeps.ite | apply Keeps.foldl)
    | split
    | fail_if_no_progress (with_reducible (apply Keeps.upd <;> try rfl))

theorem endFetched_keeps {s : State} (f : Fetched) (h : Keeps r s) :
    Keeps r (endFetched s f) := by
  unfold endFetched
  repeat' first
    | with_reducible assumption
    | with_reducible rfl
    | intro _
    | (with_reducible first | apply complete_keeps | apply bumpStarted_keeps | apply Keeps.ite | apply Keeps.foldl)
    | split
    | fail_if_no_progress (with_reducible (apply Keeps.upd <;> try rfl))

theorem endUnstarted_keeps {s : State} (h : Keeps r s) :
    Keeps r (endUnstarted s) := by
  unfold endUnstarted
  repeat' first
    | with_reducible assumption
    | with_reducible rfl
    | intro _
    | (with_reducible first | apply onRun_keeps | apply completeDescs_keeps | apply endFetched_keeps | apply Keeps.ite | apply Keeps.foldl)
    | split
    | fail_if_no_progress (with_reducible (apply Keeps.upd <;> try rfl))

theorem endExport_keeps {s : State} (h : Keeps r s) :
    Keeps r (endExport s) := by
  unfold endExport
  repeat' first
    | with_reducible assumption
    | with_reducible rfl
    | intro _
    | (with_reducible first | apply endView_keeps | apply complete_keeps | apply onRun_keeps | apply setB_keeps | apply Keeps.ite | apply Keeps.foldl)
    | split
    | fail_if_no_progress (with_reducible (apply Keeps.upd <;> try rfl))

theorem hostReset_keeps {s : State} (h : Keeps r s) :
    Keeps r (hostReset s) := by
  unfold hostReset
  repeat' first
    | with_reducible assumption
    | with_reducible rfl
    | intro _
    | (with_reducible first | apply suspendSession_keeps | apply loaderHostReset_keeps | apply chnHostReset_keeps | apply endExport_keeps | apply endUnstarted_keeps | apply endReads_keeps | apply resetBlock_keeps | apply bumpF_keeps | apply showSuspended_keeps | apply Keeps.ite | apply Keeps.foldl)
    | split
    | fail_if_no_progress (with_reducible (apply Keeps.upd <;> try rfl))

theorem execPerstN_keeps (low : Bool) {s : State} (h : Keeps r s) :
    OutKeeps r (execPerstN low s) := by
  unfold execPerstN
  repeat' first
    | with_reducible assumption
    | with_reducible rfl
    | intro _
    | (with_reducible first | apply hostReset_keeps | apply OutKeeps.next | apply Keeps.ite | apply Keeps.foldl)
    | split
    | fail_if_no_progress (with_reducible (apply Keeps.upd <;> try rfl))

theorem execFunctionLevelReset_keeps {s : State} (h : Keeps r s) :
    OutKeeps r (execFunctionLevelReset s) := by
  unfold execFunctionLevelReset
  repeat' first
    | with_reducible assumption
    | with_reducible rfl
    | intro _
    | (with_reducible first | apply hostReset_keeps | apply OutKeeps.next | apply Keeps.ite | apply Keeps.foldl)
    | split
    | fail_if_no_progress (with_reducible (apply Keeps.upd <;> try rfl))

theorem execTrstN_keeps {s : State} (h : Keeps r s) :
    OutKeeps r (execTrstN s) := by
  unfold execTrstN
  repeat' first
    | with_reducible assumption
    | with_reducible rfl
    | intro _
    | (with_reducible first | apply setB_keeps | apply OutKeeps.next | apply Keeps.ite | apply Keeps.foldl)
    | split
    | fail_if_no_progress (with_reducible (apply Keeps.upd <;> try rfl))

theorem linkUp_keeps {s : State} (h : Keeps r s) :
    Keeps r (linkUp s) := by
  unfold linkUp
  repeat' first
    | with_reducible assumption
    | with_reducible rfl
    | intro _
    | (with_reducible first | apply drawFree_keeps | apply setF_keeps | apply setB_keeps | apply Keeps.ite | apply Keeps.foldl)
    | split
    | fail_if_no_progress (with_reducible (apply Keeps.upd <;> try rfl))

theorem execConfigurationRequest_keeps (q : ConfigRequest) {s : State} (h : Keeps r s) :
    OutKeeps r (execConfigurationRequest q s) := by
  unfold execConfigurationRequest
  repeat' first
    | with_reducible assumption
    | with_reducible rfl
    | intro _
    | (with_reducible first | apply linkUp_keeps | apply emit_keeps | apply OutKeeps.next | apply Keeps.ite | apply Keeps.foldl)
    | split
    | fail_if_no_progress (with_reducible (apply Keeps.upd <;> try rfl))

theorem phaseFuses_keeps {s : State} (h : Keeps r s) :
    Keeps r (phaseFuses s) := by
  unfold phaseFuses
  repeat' first
    | with_reducible assumption
    | with_reducible rfl
    | intro _
    | (with_reducible first | apply onSec_keeps | apply setF_keeps | apply Keeps.ite | apply Keeps.foldl)
    | split
    | fail_if_no_progress (with_reducible (apply Keeps.upd <;> try rfl))

theorem phaseClocks_keeps {s : State} (h : Keeps r s) :
    Keeps r (phaseClocks s) := by
  unfold phaseClocks
  repeat' first
    | with_reducible assumption
    | with_reducible rfl
    | intro _
    | (with_reducible first | apply pllStable_keeps | apply completeSwitch_keeps | apply setF_keeps | apply Keeps.ite | apply Keeps.foldl)
    | split
    | fail_if_no_progress (with_reducible (apply Keeps.upd <;> try rfl))

theorem buildMap_keeps (bad : List Nat) {s : State} (d : Fin 4) (h : Keeps r s) :
    Keeps r (buildMap bad s d) := by
  unfold buildMap
  repeat' first
    | with_reducible assumption
    | with_reducible rfl
    | intro _
    | (with_reducible first | apply onDie_keeps | apply setB_keeps | apply showSpares_keeps | apply Keeps.ite | apply Keeps.foldl)
    | split
    | fail_if_no_progress (with_reducible (apply Keeps.upd <;> try rfl))

theorem keepMap_keeps (bad : List Nat) {s : State} (d : Fin 4) (h : Keeps r s) :
    Keeps r (keepMap bad s d) := by
  unfold keepMap
  repeat' first
    | with_reducible assumption
    | with_reducible rfl
    | intro _
    | (with_reducible first | apply onDie_keeps | apply rebind_keeps | apply showSpares_keeps | apply Keeps.ite | apply Keeps.foldl)
    | split
    | fail_if_no_progress (with_reducible (apply Keeps.upd <;> try rfl))

theorem startFail_keeps {s : State} (fs : List Failure) (h : Keeps r s) :
    Keeps r (startFail s fs) := by
  unfold startFail
  repeat' first
    | with_reducible assumption
    | with_reducible rfl
    | intro _
    | (with_reducible first | apply setB_keeps | apply setF_keeps | apply noteFailures_keeps | apply Keeps.ite | apply Keeps.foldl)
    | split
    | fail_if_no_progress (with_reducible (apply Keeps.upd <;> try rfl))

theorem phaseMarch_keeps {s : State} (f : BootFound) (h : Keeps r s) :
    Keeps r (phaseMarch s f) := by
  unfold phaseMarch
  repeat' first
    | with_reducible assumption
    | with_reducible rfl
    | intro _
    | (with_reducible first | apply buildMap_keeps | apply keepMap_keeps | apply startFail_keeps | apply Keeps.ite | apply Keeps.foldl)
    | split
    | fail_if_no_progress (with_reducible (apply Keeps.upd <;> try rfl))

theorem phaseBoot_keeps {s : State} (f : FlashRegions) (h : Keeps r s) :
    Keeps r (phaseBoot s f) := by
  unfold phaseBoot
  repeat' first
    | with_reducible assumption
    | with_reducible rfl
    | intro _
    | (with_reducible first | apply bootFirmware_keeps | apply Keeps.ite | apply Keeps.foldl)
    | split
    | fail_if_no_progress (with_reducible (apply Keeps.upd <;> try rfl))

theorem phaseBringup_keeps {s : State} (h : Keeps r s) :
    Keeps r (phaseBringup s) := by
  unfold phaseBringup
  repeat' first
    | with_reducible assumption
    | with_reducible rfl
    | intro _
    | (with_reducible first | apply plainWrite_keeps | apply Keeps.ite | apply Keeps.foldl)
    | split
    | fail_if_no_progress (with_reducible (apply Keeps.upd <;> try rfl))

theorem phaseService_keeps {s : State} (h : Keeps r s) :
    Keeps r (phaseService s) := by
  unfold phaseService
  repeat' first
    | with_reducible assumption
    | with_reducible rfl
    | intro _
    | (with_reducible first | apply setB_keeps | apply offerFlash_keeps | apply onLdr_keeps | apply Keeps.ite | apply Keeps.foldl)
    | split
    | fail_if_no_progress (with_reducible (apply Keeps.upd <;> try rfl))

theorem phaseEnds_keeps {s : State} (p : Nat) (us : Nat) (h : Keeps r s) :
    Keeps r (phaseEnds s p us) := by
  unfold phaseEnds
  repeat' first
    | with_reducible assumption
    | with_reducible rfl
    | intro _
    | (with_reducible first | apply setF_keeps | apply Keeps.ite | apply Keeps.foldl)
    | split
    | fail_if_no_progress (with_reducible (apply Keeps.upd <;> try rfl))

theorem nextPhase_keeps {s : State} (us : Nat) (f : BootFound) (h : Keeps r s) :
    Keeps r (nextPhase s us f) := by
  unfold nextPhase
  repeat' first
    | with_reducible assumption
    | with_reducible rfl
    | intro _
    | (with_reducible first | apply setF_keeps | apply setTime_keeps | apply phaseEnds_keeps | apply phaseFuses_keeps | apply phaseClocks_keeps | apply phaseMarch_keeps | apply phaseBoot_keeps | apply phaseService_keeps | apply phaseBringup_keeps | apply Keeps.ite | apply Keeps.foldl)
    | split
    | fail_if_no_progress (with_reducible (apply Keeps.upd <;> try rfl))

theorem execResetRelease_keeps (us : Word) (found : BootFound) {s : State} (h : Keeps r s) :
    OutKeeps r (execResetRelease us found s) := by
  unfold execResetRelease
  repeat' first
    | with_reducible assumption
    | with_reducible rfl
    | intro _
    | (with_reducible first | apply nextPhase_keeps | apply OutKeeps.next | apply Keeps.ite | apply Keeps.foldl)
    | split
    | fail_if_no_progress (with_reducible (apply Keeps.upd <;> try rfl))

end Sys2Proof.Machine
end

