-- ==== Sys2Proof/Laws/KeepsGates.lean ====
section
/-! SUPPORT. What the operations of Machine/Gates.lean keep. -/

namespace Sys2Proof.Machine

variable {r : State}

set_option linter.unusedTactic false
set_option linter.unreachableTactic false

theorem releaseHeld_keeps {s : State} (g : Nat) {k : State → Packet → State} (h : Keeps r s) (h_k : ∀ t x, Keeps r t → Keeps r (k t x)) :
    Keeps r (releaseHeld s g k) := by
  unfold releaseHeld
  repeat' first
    | with_reducible assumption
    | with_reducible rfl
    | intro _
    | (with_reducible first | apply h_k | apply onNet_keeps | apply Keeps.ite | apply Keeps.foldl)
    | split
    | fail_if_no_progress (with_reducible (apply Keeps.upd <;> try rfl))

theorem deliverHeld_keeps {s : State} (g : Nat) (h : Keeps r s) :
    Keeps r (deliverHeld s g) := by
  unfold deliverHeld
  repeat' first
    | with_reducible assumption
    | with_reducible rfl
    | intro _
    | (with_reducible first | apply releaseHeld_keeps | apply deliver_keeps | apply Keeps.ite | apply Keeps.foldl)
    | split
    | fail_if_no_progress (with_reducible (apply Keeps.upd <;> try rfl))

theorem drainGate_keeps {s : State} (g : Nat) (h : Keeps r s) :
    Keeps r (drainGate s g) := by
  unfold drainGate
  repeat' first
    | with_reducible assumption
    | with_reducible rfl
    | intro _
    | (with_reducible first | apply drainSource_keeps | apply Keeps.ite | apply Keeps.foldl)
    | split
    | fail_if_no_progress (with_reducible (apply Keeps.upd <;> try rfl))

theorem gateReopen_keeps {s : State} (n : Nat) (h : Keeps r s) :
    Keeps r (gateReopen s n) := by
  unfold gateReopen
  repeat' first
    | with_reducible assumption
    | with_reducible rfl
    | intro _
    | (with_reducible first | apply deliverHeld_keeps | apply setB_keeps | apply onNet_keeps | apply resumeTrace_keeps | apply Keeps.ite | apply Keeps.foldl)
    | split
    | fail_if_no_progress (with_reducible (apply Keeps.upd <;> try rfl))

theorem gatesExit_keeps {s : State} (h : Keeps r s) :
    Keeps r (gatesExit s) := by
  unfold gatesExit
  repeat' first
    | with_reducible assumption
    | with_reducible rfl
    | intro _
    | (with_reducible first | apply onNet_keeps | apply setB_keeps | apply Keeps.ite | apply Keeps.foldl)
    | split
    | fail_if_no_progress (with_reducible (apply Keeps.upd <;> try rfl))

theorem gateClose_keeps {s : State} (n : Nat) (h : Keeps r s) :
    Keeps r (gateClose s n) := by
  unfold gateClose
  repeat' first
    | with_reducible assumption
    | with_reducible rfl
    | intro _
    | (with_reducible first | apply drainGate_keeps | apply setB_keeps | apply Keeps.ite | apply Keeps.foldl)
    | split
    | fail_if_no_progress (with_reducible (apply Keeps.upd <;> try rfl))

theorem gateCtrlWrite_keeps {s : State} (v : Nat) (h : Keeps r s) :
    Keeps r (gateCtrlWrite s v) := by
  unfold gateCtrlWrite
  repeat' first
    | with_reducible assumption
    | with_reducible rfl
    | intro _
    | (with_reducible first | apply setB_keeps | apply gateReopen_keeps | apply gateClose_keeps | apply Keeps.ite | apply Keeps.foldl)
    | split
    | fail_if_no_progress (with_reducible (apply Keeps.upd <;> try rfl))

theorem execGateClose_keeps (value : Word) {s : State} (h : Keeps r s) :
    OutKeeps r (execGateClose value s) := by
  unfold execGateClose
  repeat' first
    | with_reducible assumption
    | with_reducible rfl
    | intro _
    | (with_reducible first | apply gateCtrlWrite_keeps | apply OutKeeps.next | apply Keeps.ite | apply Keeps.foldl)
    | split
    | fail_if_no_progress (with_reducible (apply Keeps.upd <;> try rfl))

theorem execGateReopen_keeps (value : Word) {s : State} (h : Keeps r s) :
    OutKeeps r (execGateReopen value s) := by
  unfold execGateReopen
  repeat' first
    | with_reducible assumption
    | with_reducible rfl
    | intro _
    | (with_reducible first | apply gateCtrlWrite_keeps | apply OutKeeps.next | apply Keeps.ite | apply Keeps.foldl)
    | split
    | fail_if_no_progress (with_reducible (apply Keeps.upd <;> try rfl))

theorem closeGate_keeps {s : State} (g : Nat) (h : Keeps r s) :
    Keeps r (closeGate s g) := by
  unfold closeGate
  repeat' first
    | with_reducible assumption
    | with_reducible rfl
    | intro _
    | (with_reducible first | apply setB_keeps | apply releaseHeld_keeps | apply answer_keeps | apply Keeps.ite | apply Keeps.foldl)
    | split
    | fail_if_no_progress (with_reducible (apply Keeps.upd <;> try rfl))

theorem forceGate_keeps {s : State} (g : Nat) (h : Keeps r s) :
    Keeps r (forceGate s g) := by
  unfold forceGate
  repeat' first
    | with_reducible assumption
    | with_reducible rfl
    | intro _
    | (with_reducible first | apply bumpF_keeps | apply setF_keeps | apply setB_keeps | apply onNet_keeps | apply closeGate_keeps | apply answer_keeps | apply Keeps.ite | apply Keeps.foldl)
    | split
    | fail_if_no_progress (with_reducible (apply Keeps.upd <;> try rfl))

theorem execQuiesceReport_keeps (node : Fin 86) {s : State} (h : Keeps r s) :
    OutKeeps r (execQuiesceReport node s) := by
  unfold execQuiesceReport
  repeat' first
    | with_reducible assumption
    | with_reducible rfl
    | intro _
    | (with_reducible first | apply drainGate_keeps | apply closeGate_keeps | apply OutKeeps.next | apply Keeps.ite | apply Keeps.foldl)
    | split
    | fail_if_no_progress (with_reducible (apply Keeps.upd <;> try rfl))

theorem execQuiesceTimeout_keeps (node : Fin 86) {s : State} (h : Keeps r s) :
    OutKeeps r (execQuiesceTimeout node s) := by
  unfold execQuiesceTimeout
  repeat' first
    | with_reducible assumption
    | with_reducible rfl
    | intro _
    | (with_reducible first | apply forceGate_keeps | apply deliverHeld_keeps | apply setB_keeps | apply OutKeeps.next | apply Keeps.ite | apply Keeps.foldl)
    | split
    | fail_if_no_progress (with_reducible (apply Keeps.upd <;> try rfl))

end Sys2Proof.Machine
end

