-- ==== Sys2Proof/Laws/KeepsRegAccess.lean ====
section
/-! SUPPORT. What the operations of Machine/RegAccess.lean keep. -/

namespace Sys2Proof.Machine

variable {r : State}

set_option linter.unusedTactic false
set_option linter.unreachableTactic false

theorem switchReg_keeps {s : State} (i : Nat) (v : Nat) (h : Keeps r s) :
    Keeps r (switchReg s i v) := by
  unfold switchReg
  repeat' first
    | with_reducible assumption
    | with_reducible rfl
    | intro _
    | (with_reducible first | apply switchWrite_keeps | apply Keeps.ite | apply Keeps.foldl)
    | split
    | fail_if_no_progress (with_reducible (apply Keeps.upd <;> try rfl))

theorem writeClk_keeps {s : State} (a : Nat) (v : Nat) (h : Keeps r s) :
    Keeps r (writeClk s a v) := by
  unfold writeClk
  repeat' first
    | with_reducible assumption
    | with_reducible rfl
    | intro _
    | (with_reducible first | apply gateCtrlWrite_keeps | apply switchReg_keeps | apply plainWrite_keeps | apply Keeps.ite | apply Keeps.foldl)
    | split
    | fail_if_no_progress (with_reducible (apply Keeps.upd <;> try rfl))

theorem writeLdr_keeps {s : State} (a : Nat) (v : Nat) (h : Keeps r s) :
    Keeps r (writeLdr s a v) := by
  unfold writeLdr
  repeat' first
    | with_reducible assumption
    | with_reducible rfl
    | intro _
    | (with_reducible first | apply ldrCtrlWrite_keeps | apply ownerWrite_keeps | apply flashCtrlWrite_keeps | apply plainWrite_keeps | apply Keeps.ite | apply Keeps.foldl)
    | split
    | fail_if_no_progress (with_reducible (apply Keeps.upd <;> try rfl))

theorem writeSec_keeps {s : State} (a : Nat) (v : Nat) (h : Keeps r s) :
    Keeps r (writeSec s a v) := by
  unfold writeSec
  repeat' first
    | with_reducible assumption
    | with_reducible rfl
    | intro _
    | (with_reducible first | apply presenceCtrlWrite_keeps | apply fuseStageWrite_keeps | apply bbkStageWrite_keeps | apply bbkWrite_keeps | apply plainWrite_keeps | apply Keeps.ite | apply Keeps.foldl)
    | split
    | fail_if_no_progress (with_reducible (apply Keeps.upd <;> try rfl))

theorem writeHst_keeps {s : State} (a : Nat) (v : Nat) (h : Keeps r s) :
    Keeps r (writeHst s a v) := by
  unfold writeHst
  repeat' first
    | with_reducible assumption
    | with_reducible rfl
    | intro _
    | (with_reducible first | apply sessIndexWrite_keeps | apply sessCmdWrite_keeps | apply sessStateWrite_keeps | apply msixWrite_keeps | apply setF_keeps | apply plainWrite_keeps | apply Keeps.ite | apply Keeps.foldl)
    | split
    | fail_if_no_progress (with_reducible (apply Keeps.upd <;> try rfl))

theorem engineStopWrite_keeps {s : State} (v : Nat) (h : Keeps r s) :
    Keeps r (engineStopWrite s v) := by
  unfold engineStopWrite
  repeat' first
    | with_reducible assumption
    | with_reducible rfl
    | intro _
    | (with_reducible first | apply emit_keeps | apply setFBit_keeps | apply plainWrite_keeps | apply Keeps.ite | apply Keeps.foldl)
    | split
    | fail_if_no_progress (with_reducible (apply Keeps.upd <;> try rfl))

theorem writeChn_keeps {s : State} (a : Nat) (v : Nat) (h : Keeps r s) :
    Keeps r (writeChn s a v) := by
  unfold writeChn
  repeat' first
    | with_reducible assumption
    | with_reducible rfl
    | intro _
    | (with_reducible first | apply chnCtrl_keeps | apply engineStopWrite_keeps | apply chnCtxIndex_keeps | apply plainWrite_keeps | apply Keeps.ite | apply Keeps.foldl)
    | split
    | fail_if_no_progress (with_reducible (apply Keeps.upd <;> try rfl))

theorem writeAry_keeps {s : State} (a : Nat) (v : Nat) (h : Keeps r s) :
    Keeps r (writeAry s a v) := by
  unfold writeAry
  repeat' first
    | with_reducible assumption
    | with_reducible rfl
    | intro _
    | (with_reducible first | apply holdCtrlWrite_keeps | apply countCtrlWrite_keeps | apply plainWrite_keeps | apply Keeps.ite | apply Keeps.foldl)
    | split
    | fail_if_no_progress (with_reducible (apply Keeps.upd <;> try rfl))

theorem writeHbm_keeps {s : State} (a : Nat) (v : Nat) (h : Keeps r s) :
    Keeps r (writeHbm s a v) := by
  unfold writeHbm
  repeat' first
    | with_reducible assumption
    | with_reducible rfl
    | intro _
    | (with_reducible first | apply drawFree_keeps | apply restoreTable_keeps | apply refreshCtrlWrite_keeps | apply phyCtrlWrite_keeps | apply phyWrite_keeps | apply pcFailedWrite_keeps | apply winCtrlWrite_keeps | apply winCfgWrite_keeps | apply plainWrite_keeps | apply Keeps.ite | apply Keeps.foldl)
    | split
    | fail_if_no_progress (with_reducible (apply Keeps.upd <;> try rfl))

theorem writeAsy_keeps {s : State} (a : Nat) (v : Nat) (h : Keeps r s) :
    Keeps r (writeAsy s a v) := by
  unfold writeAsy
  repeat' first
    | with_reducible assumption
    | with_reducible rfl
    | intro _
    | (with_reducible first | apply asyCtrlWrite_keeps | apply redCtrlWrite_keeps | apply patWrite_keeps | apply syncCtrlWrite_keeps | apply trkWrite_keeps | apply plainWrite_keeps | apply Keeps.ite | apply Keeps.foldl)
    | split
    | fail_if_no_progress (with_reducible (apply Keeps.upd <;> try rfl))

theorem writeLnk_keeps {s : State} (a : Nat) (v : Nat) (h : Keeps r s) :
    Keeps r (writeLnk s a v) := by
  unfold writeLnk
  repeat' first
    | with_reducible assumption
    | with_reducible rfl
    | intro _
    | (with_reducible first | apply machineWrite_keeps | apply linkCfgWrite_keeps | apply linkCtrlWrite_keeps | apply plainWrite_keeps | apply Keeps.ite | apply Keeps.foldl)
    | split
    | fail_if_no_progress (with_reducible (apply Keeps.upd <;> try rfl))

theorem writeHgr_keeps {s : State} (a : Nat) (v : Nat) (h : Keeps r s) :
    Keeps r (writeHgr s a v) := by
  unfold writeHgr
  repeat' first
    | with_reducible assumption
    | with_reducible rfl
    | intro _
    | (with_reducible first | apply showParked_keeps | apply plainWrite_keeps | apply capCtrlWrite_keeps | apply Keeps.ite | apply Keeps.foldl)
    | split
    | fail_if_no_progress (with_reducible (apply Keeps.upd <;> try rfl))

theorem writeCtl_keeps {s : State} (path : RegPath) (a : Nat) (v : Nat) (h : Keeps r s) :
    Keeps r (writeCtl s path a v) := by
  unfold writeCtl
  repeat' first
    | with_reducible assumption
    | with_reducible rfl
    | intro _
    | (with_reducible first | apply coreResetWrite_keeps | apply fwUpdateWrite_keeps | apply handoverWrite_keeps | apply mtCtrlWrite_keeps | apply mtElemWrite_keeps | apply plainWrite_keeps | apply Keeps.ite | apply Keeps.foldl)
    | split
    | fail_if_no_progress (with_reducible (apply Keeps.upd <;> try rfl))

theorem writeTrc_keeps {s : State} (a : Nat) (v : Nat) (h : Keeps r s) :
    Keeps r (writeTrc s a v) := by
  unfold writeTrc
  repeat' first
    | with_reducible assumption
    | with_reducible rfl
    | intro _
    | (with_reducible first | apply trcCtrlWrite_keeps | apply trcCfgWrite_keeps | apply plainWrite_keeps | apply Keeps.ite | apply Keeps.foldl)
    | split
    | fail_if_no_progress (with_reducible (apply Keeps.upd <;> try rfl))

theorem regWrite_keeps {s : State} (path : RegPath) (a : Nat) (v : Nat) (h : Keeps r s) :
    Keeps r (regWrite s path a v) := by
  unfold regWrite
  repeat' first
    | with_reducible assumption
    | with_reducible rfl
    | intro _
    | (with_reducible first | apply setB_keeps | apply writeClk_keeps | apply rstCtrlWrite_keeps | apply plainWrite_keeps | apply writeLdr_keeps | apply writeSec_keeps | apply writeHst_keeps | apply writeChn_keeps | apply writeAry_keeps | apply retireWrite_keeps | apply writeHbm_keeps | apply netTraceWrite_keeps | apply writeAsy_keeps | apply writeLnk_keeps | apply writeHgr_keeps | apply writeCtl_keeps | apply writeTrc_keeps | apply Keeps.ite | apply Keeps.foldl)
    | split
    | fail_if_no_progress (with_reducible (apply Keeps.upd <;> try rfl))

theorem readIdn_keeps {s : State} (path : Nat) (a : Nat) (h : Keeps r s) :
    Keeps r (readIdn s path a).2 := by
  unfold readIdn
  repeat' first
    | with_reducible assumption
    | with_reducible rfl
    | intro _
    | (with_reducible first | apply countLoRead_keeps | apply countHiRead_keeps | apply Keeps.ite | apply Keeps.foldl)
    | split
    | fail_if_no_progress (with_reducible (apply Keeps.upd <;> try rfl))

theorem readAry_keeps {s : State} (a : Nat) (h : Keeps r s) :
    Keeps r (readAry s a).2 := by
  unfold readAry
  repeat' first
    | with_reducible assumption
    | with_reducible rfl
    | intro _
    | (with_reducible first | apply countLoRead_keeps | apply countHiRead_keeps | apply clearRC_keeps | apply Keeps.ite | apply Keeps.foldl)
    | split
    | fail_if_no_progress (with_reducible (apply Keeps.upd <;> try rfl))

theorem readSec_keeps {s : State} (a : Nat) (h : Keeps r s) :
    Keeps r (readSec s a).2 := by
  unfold readSec
  repeat' first
    | with_reducible assumption
    | with_reducible rfl
    | intro _
    | (with_reducible first | apply fuseDataRead_keeps | apply Keeps.ite | apply Keeps.foldl)
    | split
    | fail_if_no_progress (with_reducible (apply Keeps.upd <;> try rfl))

theorem progressRead_keeps {s : State} (h : Keeps r s) :
    Keeps r (progressRead s).2 := by
  unfold progressRead
  repeat' first
    | with_reducible assumption
    | with_reducible rfl
    | intro _
    | (with_reducible first | apply drawFree_keeps | apply Keeps.ite | apply Keeps.foldl)
    | split
    | fail_if_no_progress (with_reducible (apply Keeps.upd <;> try rfl))

theorem eq_or_of_ite_some {α : Type} {c : Prop} [Decidable c] {x v : α} {o : Option α}
    (e : (if c then some x else o) = some v) : x = v ∨ o = some v := by
  split at e
  · exact .inl (Option.some.inj e)
  · exact .inr e

theorem readOwn_keeps {s : State} {a : Nat} {v : Nat × State} (e : readOwn s a = some v) (h : Keeps r s) :
    Keeps r v.2 := by
  unfold readOwn at e
  iterate 15
    obtain e' | e := eq_or_of_ite_some e
    · cases e'
      with_reducible first
        | exact h
        | exact phyRead_keeps h
        | exact patRead_keeps h
        | exact mapRead_keeps h
        | exact capRead_keeps h
        | exact trcSrcRead_keeps _ h
        | exact progressRead_keeps h
  cases e

theorem regRead_keeps {s : State} (path : Nat) (a : Nat) (h : Keeps r s) :
    Keeps r (regRead s path a).2 := by
  unfold regRead
  repeat' first
    | with_reducible assumption
    | with_reducible rfl
    | intro _
    | extract_lets
    | (with_reducible first | apply readOwn_keeps (by assumption) | apply setB_keeps | apply readIdn_keeps | apply readSec_keeps | apply readAry_keeps | apply clearRC_keeps | apply Keeps.ite | apply Keeps.foldl)
    | split
    | (refine Keeps.of_fst (by assumption) ?_)
    | (refine Keeps.of_snd (by assumption) ?_)
    | fail_if_no_progress (with_reducible (apply Keeps.upd <;> try rfl))
    | dsimp +zetaDelta only

theorem execRegisterWrite_keeps (path : RegPath) (addr : BitVec 20) (value : DWord) (be : BitVec 8) (length : Nat) {s : State} (h : Keeps r s) :
    OutKeeps r (execRegisterWrite path addr value be length s) := by
  unfold execRegisterWrite
  repeat' first
    | with_reducible assumption
    | with_reducible rfl
    | intro _
    | (with_reducible first | apply regWrite_keeps | apply emit_keeps | apply OutKeeps.next | apply Keeps.ite | apply Keeps.foldl)
    | split
    | fail_if_no_progress (with_reducible (apply Keeps.upd <;> try rfl))

theorem answerRead_keeps {s : State} (path : Nat) (a : Nat) (h : Keeps r s) :
    Keeps r (answerRead s path a) := by
  unfold answerRead
  repeat' first
    | with_reducible assumption
    | with_reducible rfl
    | intro _
    | (with_reducible first | apply regRead_keeps | apply emit_keeps | apply Keeps.ite | apply Keeps.foldl)
    | split
    | fail_if_no_progress (with_reducible (apply Keeps.upd <;> try rfl))

theorem execRegisterRead_keeps (path : RegPath) (addr : BitVec 20) (be : BitVec 8) (length : Nat) {s : State} (h : Keeps r s) :
    OutKeeps r (execRegisterRead path addr be length s) := by
  unfold execRegisterRead
  repeat' first
    | with_reducible assumption
    | with_reducible rfl
    | intro _
    | (with_reducible first | apply answerRead_keeps | apply regRead_keeps | apply emit_keeps | apply OutKeeps.next | apply Keeps.ite | apply Keeps.foldl)
    | split
    | fail_if_no_progress (with_reducible (apply Keeps.upd <;> try rfl))

theorem execTimeLoRead_keeps (path : RegPath) {s : State} (h : Keeps r s) :
    OutKeeps r (execTimeLoRead path s) := by
  unfold execTimeLoRead
  repeat' first
    | with_reducible assumption
    | with_reducible rfl
    | intro _
    | (with_reducible first | apply answerRead_keeps | apply OutKeeps.next | apply Keeps.ite | apply Keeps.foldl)
    | split
    | fail_if_no_progress (with_reducible (apply Keeps.upd <;> try rfl))

theorem execSpiRegWrite_keeps (command : Byte) (rest : List Byte) {s : State} (h : Keeps r s) :
    OutKeeps r (execSpiRegWrite command rest s) := by
  unfold execSpiRegWrite
  repeat' first
    | with_reducible assumption
    | with_reducible rfl
    | intro _
    | (with_reducible first | apply regWrite_keeps | apply OutKeeps.next | apply Keeps.ite | apply Keeps.foldl)
    | split
    | fail_if_no_progress (with_reducible (apply Keeps.upd <;> try rfl))

theorem execSpiRegRead_keeps (bytes : List Byte) {s : State} (h : Keeps r s) :
    OutKeeps r (execSpiRegRead bytes s) := by
  unfold execSpiRegRead
  repeat' first
    | with_reducible assumption
    | with_reducible rfl
    | intro _
    | (with_reducible first | apply answerRead_keeps | apply emit_keeps | apply OutKeeps.next | apply Keeps.ite | apply Keeps.foldl)
    | split
    | fail_if_no_progress (with_reducible (apply Keeps.upd <;> try rfl))

theorem execSpiStatus_keeps {s : State} (h : Keeps r s) :
    OutKeeps r (execSpiStatus s) := by
  unfold execSpiStatus
  repeat' first
    | with_reducible assumption
    | with_reducible rfl
    | intro _
    | (with_reducible first | apply emit_keeps | apply OutKeeps.next | apply Keeps.ite | apply Keeps.foldl)
    | split
    | fail_if_no_progress (with_reducible (apply Keeps.upd <;> try rfl))

end Sys2Proof.Machine
end

