-- ==== Sys2Proof/Laws/KeepsTick.lean ====
section
/-! SUPPORT. What the operations of Machine/Tick.lean keep. -/

namespace Sys2Proof.Machine

variable {r : State}

set_option linter.unusedTactic false
set_option linter.unreachableTactic false

theorem nextFenced_keeps {s t : State} {c : Fetched} (e : nextFenced s = some (c, t)) (h : Keeps r s) : Keeps r t := by
  obtain ⟨v, -, hv⟩ := Option.map_eq_some_iff.mp e
  cases hv
  exact Keeps.upd h rfl rfl rfl rfl rfl

theorem sweepTick_keeps {s : State} (h : Keeps r s) :
    Keeps r (sweepTick s) := by
  unfold sweepTick
  repeat' first
    | with_reducible assumption
    | with_reducible rfl
    | intro _
    | (with_reducible first | apply startSweep_keeps | apply bumpF_keeps | apply setB_keeps | apply Keeps.ite | apply Keeps.foldl)
    | split
    | fail_if_no_progress (with_reducible (apply Keeps.upd <;> try rfl))

theorem machineRelease_keeps {s : State} (h : Keeps r s) :
    Keeps r (machineRelease s) := by
  unfold machineRelease
  repeat' first
    | with_reducible assumption
    | with_reducible rfl
    | intro _
    | (with_reducible first | apply onHolds_keeps | apply clearSource_keeps | apply redecide_keeps | apply refreshLate_keeps | apply releaseUpTo_keeps | apply Keeps.ite | apply Keeps.foldl)
    | split
    | fail_if_no_progress (with_reducible (apply Keeps.upd <;> try rfl))

theorem releaseTick_keeps {s : State} (h : Keeps r s) :
    Keeps r (releaseTick s) := by
  unfold releaseTick
  repeat' first
    | with_reducible assumption
    | with_reducible rfl
    | intro _
    | (with_reducible first | apply machineRelease_keeps | apply continueResume_keeps | apply Keeps.ite | apply Keeps.foldl)
    | split
    | fail_if_no_progress (with_reducible (apply Keeps.upd <;> try rfl))

theorem arrayTick_keeps {s : State} (h : Keeps r s) :
    Keeps r (arrayTick s) := by
  unfold arrayTick
  repeat' first
    | with_reducible assumption
    | with_reducible rfl
    | intro _
    | (with_reducible first | apply stepDie_keeps | apply Keeps.ite | apply Keeps.foldl)
    | split
    | fail_if_no_progress (with_reducible (apply Keeps.upd <;> try rfl))

theorem bump64_keeps {s : State} (lo : Fld) (hi : Fld) (n : Nat) (h : Keeps r s) :
    Keeps r (bump64 s lo hi n) := by
  unfold bump64
  repeat' first
    | with_reducible assumption
    | with_reducible rfl
    | intro _
    | (with_reducible first | apply set64_keeps | apply Keeps.ite | apply Keeps.foldl)
    | split
    | fail_if_no_progress (with_reducible (apply Keeps.upd <;> try rfl))

theorem accountTick_keeps {s : State} (ns : Nat) (ran : Bool) (h : Keeps r s) :
    Keeps r (accountTick s ns ran) := by
  unfold accountTick
  repeat' first
    | with_reducible assumption
    | with_reducible rfl
    | intro _
    | (with_reducible first | apply bump64_keeps | apply Keeps.ite | apply Keeps.foldl)
    | split
    | fail_if_no_progress (with_reducible (apply Keeps.upd <;> try rfl))

theorem holdTick_keeps {s : State} (h : Keeps r s) :
    Keeps r (holdTick s) := by
  unfold holdTick
  repeat' first
    | with_reducible assumption
    | with_reducible rfl
    | intro _
    | (with_reducible first | apply lateTick_keeps | apply onHolds_keeps | apply Keeps.ite | apply Keeps.foldl)
    | split
    | fail_if_no_progress (with_reducible (apply Keeps.upd <;> try rfl))

theorem timeTick_keeps {s : State} (h : Keeps r s) :
    Keeps r (timeTick s) := by
  unfold timeTick
  repeat' first
    | with_reducible assumption
    | with_reducible rfl
    | intro _
    | (with_reducible first | apply setTime_keeps | apply onClk_keeps | apply Keeps.ite | apply Keeps.foldl)
    | split
    | fail_if_no_progress (with_reducible (apply Keeps.upd <;> try rfl))

theorem sampleTick_keeps {s : State} (h : Keeps r s) :
    Keeps r (sampleTick s) := by
  unfold sampleTick
  repeat' first
    | with_reducible assumption
    | with_reducible rfl
    | intro _
    | (with_reducible first | apply drainSample_keeps | apply Keeps.ite | apply Keeps.foldl)
    | split
    | fail_if_no_progress (with_reducible (apply Keeps.upd <;> try rfl))

theorem newClock_keeps {s : State} (h : Keeps r s) :
    Keeps r (newClock s) := by
  unfold newClock
  repeat' first
    | with_reducible assumption
    | with_reducible rfl
    | intro _
    | (with_reducible first | apply Keeps.ite | apply Keeps.foldl)
    | split
    | fail_if_no_progress (with_reducible (apply Keeps.upd <;> try rfl))

theorem tick_keeps {s : State} (h : Keeps r s) :
    Keeps r (tick s) := by
  unfold tick
  repeat' first
    | with_reducible assumption
    | with_reducible rfl
    | intro _
    | extract_lets
    | (with_reducible first | apply releaseTick_keeps | apply tileReturns_keeps | apply newClock_keeps | apply gatesExit_keeps | apply takeDecisions_keeps | apply holdBlocks_keeps | apply arrayTick_keeps | apply accountTick_keeps | apply holdTick_keeps | apply sweepTick_keeps | apply ageReads_keeps | apply timeTick_keeps | apply steeringLost_keeps | apply linksTick_keeps | apply sampleTick_keeps | apply announceSoon_keeps | apply loaderTick_keeps | apply windowTick_keeps | apply fwTick_keeps | apply Keeps.ite | apply Keeps.foldl)
    | split
    | (refine Keeps.of_fst (by assumption) ?_)
    | (refine Keeps.of_snd (by assumption) ?_)
    | fail_if_no_progress (with_reducible (apply Keeps.upd <;> try rfl))
    | dsimp +zetaDelta only

end Sys2Proof.Machine
end

