-- ==== Sys2Proof/Laws/KeepsDispatch.lean ====
section
/-! SUPPORT. What the operations of Machine/Dispatch.lean keep. -/

namespace Sys2Proof.Machine

variable {r : State}

set_option linter.unusedTactic false
set_option linter.unreachableTactic false

theorem exec_keeps (i : Instr) {s : State} (h : Keeps r s) :
    OutKeeps r (exec i s) := by
  unfold exec
  repeat' first
    | with_reducible assumption
    | with_reducible rfl
    | intro _
    | (with_reducible first | apply execEval_keeps | apply execCopy_keeps | apply execNop_keeps | apply execSend_keeps | apply execRecv_keeps | apply execLatch_keeps | apply execGatherAddr_keeps | apply execGatherData_keeps | apply execMemoryPortRead_keeps | apply execMemoryPortWrite_keeps | apply execMemoryPortNop_keeps | apply execBoundaryPhase_keeps | apply execCycleCommit_keeps | apply execMemoryReturn_keeps | apply execCrossingArrival_keeps | apply execBoundaryHoldDecision_keeps | apply execFreezeOrder_keeps | apply execAnnouncedHoldRelease_keeps | apply execResume_keeps | apply execSfStarved_keeps | apply execRequest_keeps | apply execRelease_keeps | apply execClear_keeps | apply execCountLoRead_keeps | apply execFaultReplay_keeps | apply execRestoreBoundary_keeps | apply execReplayRelease_keeps | apply execScheduleFaultHalt_keeps | apply execTileRetirement_keeps | apply execGo_keeps | apply execLaneSparing_keeps | apply execRun_keeps | apply execStopNext_keeps | apply execStopAtCommitted_keeps | apply execCapture_keeps | apply execFetch_keeps | apply execHallmark_keeps | apply execRestore_keeps | apply execContinueAfterFaultClear_keeps | apply execDescriptorNop_keeps | apply execWaitingDescriptorAccept_keeps | apply execCaptureComplete_keeps | apply execHallmarkComplete_keeps | apply execRestoreComplete_keeps | apply execDesignRead_keeps | apply execDesignWrite_keeps | apply execDesignReadComplete_keeps | apply execHostWriteApply_keeps | apply execImage_keeps | apply execDoorbellSweep_keeps | apply execCoalesceTimeout_keeps | apply execSessOpen_keeps | apply execSessClose_keeps | apply execSessAttach_keeps | apply execSessIndexWrite_keeps | apply execExchangeRamPortBWrite_keeps | apply execExchangeRamPortBRead_keeps | apply execScratchBankAccess_keeps | apply execFetchAdd_keeps | apply execSwap_keeps | apply execCas_keeps | apply execReservedAccess_keeps | apply execRegisterWrite_keeps | apply execSpiRegWrite_keeps | apply execSpiRegRead_keeps | apply execSpiStatus_keeps | apply execSpiStream_keeps | apply execSegment_keeps | apply execWriteFrame_keeps | apply execRepeatFrame_keeps | apply execZeroFrames_keeps | apply execSetRegion_keeps | apply execCommit_keeps | apply execPad_keeps | apply execStartupEvent_keeps | apply execLsPll_keeps | apply execMachineWaitEnd_keeps | apply execLsTimeout_keeps | apply execAbort_keeps | apply execFlashStart_keeps | apply execQspiSelfLoad_keeps | apply execLdrOwnerWrite_keeps | apply execRegionRejoin_keeps | apply execChOpen_keeps | apply execChClose_keeps | apply execMsgSend_keeps | apply execMsgRecv_keeps | apply execStreamPost_keeps | apply execFlush_keeps | apply execClearOverrun_keeps | apply execChQuery_keeps | apply execDrainTimeout_keeps | apply execDispatchTake_keeps | apply execDispatchDone_keeps | apply execCopyUnitGo_keeps | apply execEngineTrap_keeps | apply execChnCtxIndexWrite_keeps | apply execEnginesEn_keeps | apply execArm_keeps | apply execDisarm_keeps | apply execForceTrigger_keeps | apply execTrackerEnable_keeps | apply execRedClear_keeps | apply execPatDataAccess_keeps | apply execTrigFrame_keeps | apply execTrigCollide_keeps | apply execTrigEdge_keeps | apply execTrigSettleVote_keeps | apply execSync_keeps | apply execFire_keeps | apply execHoldBlock_keeps | apply execReadyBlock_keeps | apply execResumeBlock_keeps | apply execVoteBlock_keeps | apply execCommitBlock_keeps | apply execStartReadyBlock_keeps | apply execIdleBlock_keeps | apply execTrackBlock_keeps | apply execAckBlock_keeps | apply execExchangeBlock_keeps | apply execMeasureBlock_keeps | apply execEchoBlock_keeps | apply execSpareSwitchBlock_keeps | apply execDeepReqBlock_keeps | apply execDeepAckBlock_keeps | apply execDataFrame_keeps | apply execMgmtFrame_keeps | apply execLinkReplayTimeout_keeps | apply execLinkStagePass_keeps | apply execLinkStageTimeout_keeps | apply execLaneFailing_keeps | apply execLinkLeavesActive_keeps | apply execLinkCfgEnable_keeps | apply execForm_keeps | apply execFormationCheck_keeps | apply execDeep_keeps | apply execDeepAckTimeout_keeps | apply execRetrain_keeps | apply execDozeEntry_keeps | apply execDozeExit_keeps | apply execAdaptationFreeze_keeps | apply execLnkMapDataRead_keeps | apply execApply_keeps | apply execRestoreTable_keeps | apply execWindowEnable_keeps | apply execPcFailedWrite_keeps | apply execPhyDataAccess_keeps | apply execRefresh_keeps | apply execScrub_keeps | apply execTileScrub_keeps | apply execPacketDelivery_keeps | apply execPacketResend_keeps | apply execQuiesceReport_keeps | apply execTraceClear_keeps | apply execTraceEnable_keeps | apply execCaptureArm_keeps | apply execCaptureAbort_keeps | apply execCaptureFire_keeps | apply execCapDataRead_keeps | apply execStrobe_keeps | apply execExportUpdate_keeps | apply execVccioMismatch_keeps | apply execCfgScrub_keeps | apply execPllStable_keeps | apply execPllUnlock_keeps | apply execClockSwitch_keeps | apply execRefclkLoss_keeps | apply execHoldoverExpiry_keeps | apply execRefclkReturn_keeps | apply execGateClose_keeps | apply execGateReopen_keeps | apply execQuiesceTimeout_keeps | apply execRampStep_keeps | apply execRampPlan_keeps | apply execPowerStewardTick_keeps | apply execThermalTrip_keeps | apply execPmbAlert_keeps | apply execCoreRestart_keeps | apply execFwUpdateGo_keeps | apply execFwUpdateAbort_keeps | apply execHandover_keeps | apply execHandoverReady_keeps | apply execHandoverTimeout_keeps | apply execMarchStart_keeps | apply execMarchAbort_keeps | apply execMarchWordGroup_keeps | apply execRetiredInstruction_keeps | apply execTraceEn_keeps | apply execTrcClear_keeps | apply execSleep_keeps | apply execWake_keeps | apply execTraceFrameTimeout_keeps | apply execTimePacket_keeps | apply execPresenceArm_keeps | apply execPresenceDisarm_keeps | apply execExecute_keeps | apply execProgramFuses_keeps | apply execLoadBbk_keeps | apply execTracePriv_keeps | apply execUnseal_keeps | apply execRollback_keeps | apply execJtagPrivate_keeps | apply execPresenceHeld_keeps | apply execWindowExpiry_keeps | apply execErase_keeps | apply execTamper_keeps | apply execFuseDataRead_keeps | apply execPorN_keeps | apply execRstN_keeps | apply execWarm_keeps | apply execPerstN_keeps | apply execFunctionLevelReset_keeps | apply execTrstN_keeps | apply execResetRelease_keeps | apply execTimeLoRead_keeps | apply execDeepExit_keeps | apply execConfigurationRequest_keeps | apply execRegisterRead_keeps | apply execUserClockEdge_keeps | apply execVfuseOutOfLimit_keeps | apply OutKeeps.next | apply Keeps.ite | apply Keeps.foldl)
    | split
    | fail_if_no_progress (with_reducible (apply Keeps.upd <;> try rfl))

end Sys2Proof.Machine
end

