-- ==== Sys2Proof/Laws/KeepsStep.lean ====
section
/-! SUPPORT. What the operations of Machine/Step.lean keep. -/

namespace Sys2Proof.Machine

variable {r : State}

set_option linter.unusedTactic false
set_option linter.unreachableTactic false

theorem runFetched_keeps (f : Fetched) {s : State} (h : Keeps r s) :
    OutKeeps r (runFetched f s) := by
  unfold runFetched
  repeat' first
    | with_reducible assumption
    | with_reducible rfl
    | intro _
    | (with_reducible first | apply exec_keeps | apply badOpcode_keeps | apply OutKeeps.next | apply Keeps.ite | apply Keeps.foldl)
    | split
    | fail_if_no_progress (with_reducible (apply Keeps.upd <;> try rfl))

theorem idleStep_keeps {s : State} (h : Keeps r s) :
    OutKeeps r (idleStep s) := by
  unfold idleStep
  repeat' first
    | with_reducible assumption
    | with_reducible rfl
    | intro _
    | (with_reducible first | apply nextFenced_keeps (by assumption) | apply runFetched_keeps | apply tick_keeps | apply OutKeeps.next | apply Keeps.ite | apply Keeps.foldl)
    | split
    | fail_if_no_progress (with_reducible (apply Keeps.upd <;> try rfl))

theorem step_keeps {s : State} : OutKeeps { s with pending := s.pending.tail } (step s) := by
  unfold step
  split
  · rename_i c rest e
    rw [e]
    exact exec_keeps _ (Keeps.refl _)
  · rename_i e
    have : { s with pending := s.pending.tail } = s := by rw [e]; cases s; cases e; rfl
    rw [this]
    exact idleStep_keeps (Keeps.refl _)

end Sys2Proof.Machine
end

