-- ==== Sys2Proof/Laws/State.lean ====
section
/-! SUPPORT. What each named update of the state leaves: one lemma per field and update, and what a register field and a
die read as afterwards. -/

namespace Sys2Proof.Machine

variable (s : State)

/-! ### Register fields -/

theorem getF_congr {s t : State} (h : t.regs = s.regs) (f : Fld) : getF t f = getF s f := by unfold getF; rw [h]

@[simp] theorem getF_setF_same (f : Fld) (v : Nat) : getF (setF s f v) f = v % 2 ^ f.width := by simp [getF, setF]

theorem getF_setF_other {f g : Fld} (h : g.key ≠ f.key) (v : Nat) : getF (setF s f v) g = getF s g := by
  simp [getF, setF, h]

theorem getF_setB_other {f g : Fld} (h : g.key ≠ f.key) (b : Bool) : getF (setB s f b) g = getF s g :=
  getF_setF_other s h _

theorem getF_setFBit_other {f g : Fld} (h : g.key ≠ f.key) (i : Nat) (b : Bool) : getF (setFBit s f i b) g = getF s g :=
  getF_setF_other s h _

theorem getF_bumpF_other {f g : Fld} (h : g.key ≠ f.key) (n : Nat) : getF (bumpF s f n) g = getF s g :=
  getF_setF_other s h _

@[simp] theorem getB_setB_same (f : Fld) (b : Bool) (h : f.width = 1) : getB (setB s f b) f = b := by
  cases b <;> simp [getB, setB, b2n, h]

theorem getB_setF_other {f g : Fld} (h : g.key ≠ f.key) (v : Nat) : getB (setF s f v) g = getB s g := by
  simp [getB, getF_setF_other s h]

theorem getB_setB_other {f g : Fld} (h : g.key ≠ f.key) (b : Bool) : getB (setB s f b) g = getB s g :=
  getB_setF_other s h _

/-! ### Dies -/

@[simp] theorem setDie_die (d : Fin 4) (x : Die) : (setDie s d x).dies[d.val] = x := by simp [setDie]

theorem setDie_other {d e : Fin 4} (h : e ≠ d) (x : Die) : (setDie s d x).dies[e] = s.dies[e] := by
  simp [setDie, Fin.getElem_fin, Vector.getElem_set]
  intro c
  exact absurd (Fin.ext c.symm) h

@[simp] theorem onDie_die (d : Fin 4) (g : Die → Die) : (onDie s d g).dies[d.val] = g s.dies[d.val] := setDie_die s d _

theorem onDie_other {d e : Fin 4} (h : e ≠ d) (g : Die → Die) : (onDie s d g).dies[e] = s.dies[e] := setDie_other s h _

/-! ### Components -/

@[simp] theorem onHolds_holds (g : Holds → Holds) : (onHolds s g).holds = g s.holds := rfl
@[simp] theorem onRun_run (g : RunCtl → RunCtl) : (onRun s g).run = g s.run := rfl
@[simp] theorem onChn_chn (g : Chn → Chn) : (onChn s g).chn = g s.chn := rfl
@[simp] theorem onAsy_asy (g : Asy → Asy) : (onAsy s g).asy = g s.asy := rfl
@[simp] theorem onHgr_hgr (g : Hgr → Hgr) : (onHgr s g).hgr = g s.hgr := rfl
@[simp] theorem onLnk_lnk (g : Lnk → Lnk) : (onLnk s g).lnk = g s.lnk := rfl
@[simp] theorem onDesign_design (g : DesignHost → DesignHost) : (onDesign s g).design = g s.design := rfl
@[simp] theorem onHbm_hbm (g : HbmSt → HbmSt) : (onHbm s g).hbm = g s.hbm := rfl
@[simp] theorem onClk_clk (g : ClkSt → ClkSt) : (onClk s g).clk = g s.clk := rfl
@[simp] theorem onNet_net (g : Net → Net) : (onNet s g).net = g s.net := rfl
@[simp] theorem onSec_sec (g : Sec → Sec) : (onSec s g).sec = g s.sec := rfl
@[simp] theorem onCtl_ctl (g : Ctl → Ctl) : (onCtl s g).ctl = g s.ctl := rfl
@[simp] theorem onLdr_ldr (g : Ldr → Ldr) : (onLdr s g).ldr = g s.ldr := rfl
@[simp] theorem emit_outs (o : Out) : (emit s o).outs = s.outs ++ [o] := rfl

/-! ### Everything else -/

@[simp] theorem setF_chip (f : Fld) (v : Nat) : (setF s f v).chip = s.chip := rfl
@[simp] theorem setF_capHi (f : Fld) (v : Nat) : (setF s f v).capHi = s.capHi := rfl
@[simp] theorem setF_dies (f : Fld) (v : Nat) : (setF s f v).dies = s.dies := rfl
@[simp] theorem setF_holds (f : Fld) (v : Nat) : (setF s f v).holds = s.holds := rfl
@[simp] theorem setF_mem (f : Fld) (v : Nat) : (setF s f v).mem = s.mem := rfl
@[simp] theorem setF_run (f : Fld) (v : Nat) : (setF s f v).run = s.run := rfl
@[simp] theorem setF_ingot (f : Fld) (v : Nat) : (setF s f v).ingot = s.ingot := rfl
@[simp] theorem setF_iso (f : Fld) (v : Nat) : (setF s f v).iso = s.iso := rfl
@[simp] theorem setF_tileBytes (f : Fld) (v : Nat) : (setF s f v).tileBytes = s.tileBytes := rfl
@[simp] theorem setF_host (f : Fld) (v : Nat) : (setF s f v).host = s.host := rfl
@[simp] theorem setF_chn (f : Fld) (v : Nat) : (setF s f v).chn = s.chn := rfl
@[simp] theorem setF_asy (f : Fld) (v : Nat) : (setF s f v).asy = s.asy := rfl
@[simp] theorem setF_hgr (f : Fld) (v : Nat) : (setF s f v).hgr = s.hgr := rfl
@[simp] theorem setF_lnk (f : Fld) (v : Nat) : (setF s f v).lnk = s.lnk := rfl
@[simp] theorem setF_design (f : Fld) (v : Nat) : (setF s f v).design = s.design := rfl
@[simp] theorem setF_hbm (f : Fld) (v : Nat) : (setF s f v).hbm = s.hbm := rfl
@[simp] theorem setF_clk (f : Fld) (v : Nat) : (setF s f v).clk = s.clk := rfl
@[simp] theorem setF_net (f : Fld) (v : Nat) : (setF s f v).net = s.net := rfl
@[simp] theorem setF_sec (f : Fld) (v : Nat) : (setF s f v).sec = s.sec := rfl
@[simp] theorem setF_ctl (f : Fld) (v : Nat) : (setF s f v).ctl = s.ctl := rfl
@[simp] theorem setF_trc (f : Fld) (v : Nat) : (setF s f v).trc = s.trc := rfl
@[simp] theorem setF_ldr (f : Fld) (v : Nat) : (setF s f v).ldr = s.ldr := rfl
@[simp] theorem setF_boot (f : Fld) (v : Nat) : (setF s f v).boot = s.boot := rfl
@[simp] theorem setF_outs (f : Fld) (v : Nat) : (setF s f v).outs = s.outs := rfl
@[simp] theorem setF_draws (f : Fld) (v : Nat) : (setF s f v).draws = s.draws := rfl
@[simp] theorem setF_pending (f : Fld) (v : Nat) : (setF s f v).pending = s.pending := rfl

@[simp] theorem setB_chip (f : Fld) (b : Bool) : (setB s f b).chip = s.chip := rfl
@[simp] theorem setB_capHi (f : Fld) (b : Bool) : (setB s f b).capHi = s.capHi := rfl
@[simp] theorem setB_dies (f : Fld) (b : Bool) : (setB s f b).dies = s.dies := rfl
@[simp] theorem setB_holds (f : Fld) (b : Bool) : (setB s f b).holds = s.holds := rfl
@[simp] theorem setB_mem (f : Fld) (b : Bool) : (setB s f b).mem = s.mem := rfl
@[simp] theorem setB_run (f : Fld) (b : Bool) : (setB s f b).run = s.run := rfl
@[simp] theorem setB_ingot (f : Fld) (b : Bool) : (setB s f b).ingot = s.ingot := rfl
@[simp] theorem setB_iso (f : Fld) (b : Bool) : (setB s f b).iso = s.iso := rfl
@[simp] theorem setB_tileBytes (f : Fld) (b : Bool) : (setB s f b).tileBytes = s.tileBytes := rfl
@[simp] theorem setB_host (f : Fld) (b : Bool) : (setB s f b).host = s.host := rfl
@[simp] theorem setB_chn (f : Fld) (b : Bool) : (setB s f b).chn = s.chn := rfl
@[simp] theorem setB_asy (f : Fld) (b : Bool) : (setB s f b).asy = s.asy := rfl
@[simp] theorem setB_hgr (f : Fld) (b : Bool) : (setB s f b).hgr = s.hgr := rfl
@[simp] theorem setB_lnk (f : Fld) (b : Bool) : (setB s f b).lnk = s.lnk := rfl
@[simp] theorem setB_design (f : Fld) (b : Bool) : (setB s f b).design = s.design := rfl
@[simp] theorem setB_hbm (f : Fld) (b : Bool) : (setB s f b).hbm = s.hbm := rfl
@[simp] theorem setB_clk (f : Fld) (b : Bool) : (setB s f b).clk = s.clk := rfl
@[simp] theorem setB_net (f : Fld) (b : Bool) : (setB s f b).net = s.net := rfl
@[simp] theorem setB_sec (f : Fld) (b : Bool) : (setB s f b).sec = s.sec := rfl
@[simp] theorem setB_ctl (f : Fld) (b : Bool) : (setB s f b).ctl = s.ctl := rfl
@[simp] theorem setB_trc (f : Fld) (b : Bool) : (setB s f b).trc = s.trc := rfl
@[simp] theorem setB_ldr (f : Fld) (b : Bool) : (setB s f b).ldr = s.ldr := rfl
@[simp] theorem setB_boot (f : Fld) (b : Bool) : (setB s f b).boot = s.boot := rfl
@[simp] theorem setB_outs (f : Fld) (b : Bool) : (setB s f b).outs = s.outs := rfl
@[simp] theorem setB_draws (f : Fld) (b : Bool) : (setB s f b).draws = s.draws := rfl
@[simp] theorem setB_pending (f : Fld) (b : Bool) : (setB s f b).pending = s.pending := rfl

@[simp] theorem setFBit_chip (f : Fld) (i : Nat) (b : Bool) : (setFBit s f i b).chip = s.chip := rfl
@[simp] theorem setFBit_capHi (f : Fld) (i : Nat) (b : Bool) : (setFBit s f i b).capHi = s.capHi := rfl
@[simp] theorem setFBit_dies (f : Fld) (i : Nat) (b : Bool) : (setFBit s f i b).dies = s.dies := rfl
@[simp] theorem setFBit_holds (f : Fld) (i : Nat) (b : Bool) : (setFBit s f i b).holds = s.holds := rfl
@[simp] theorem setFBit_mem (f : Fld) (i : Nat) (b : Bool) : (setFBit s f i b).mem = s.mem := rfl
@[simp] theorem setFBit_run (f : Fld) (i : Nat) (b : Bool) : (setFBit s f i b).run = s.run := rfl
@[simp] theorem setFBit_ingot (f : Fld) (i : Nat) (b : Bool) : (setFBit s f i b).ingot = s.ingot := rfl
@[simp] theorem setFBit_iso (f : Fld) (i : Nat) (b : Bool) : (setFBit s f i b).iso = s.iso := rfl
@[simp] theorem setFBit_tileBytes (f : Fld) (i : Nat) (b : Bool) : (setFBit s f i b).tileBytes = s.tileBytes := rfl
@[simp] theorem setFBit_host (f : Fld) (i : Nat) (b : Bool) : (setFBit s f i b).host = s.host := rfl
@[simp] theorem setFBit_chn (f : Fld) (i : Nat) (b : Bool) : (setFBit s f i b).chn = s.chn := rfl
@[simp] theorem setFBit_asy (f : Fld) (i : Nat) (b : Bool) : (setFBit s f i b).asy = s.asy := rfl
@[simp] theorem setFBit_hgr (f : Fld) (i : Nat) (b : Bool) : (setFBit s f i b).hgr = s.hgr := rfl
@[simp] theorem setFBit_lnk (f : Fld) (i : Nat) (b : Bool) : (setFBit s f i b).lnk = s.lnk := rfl
@[simp] theorem setFBit_design (f : Fld) (i : Nat) (b : Bool) : (setFBit s f i b).design = s.design := rfl
@[simp] theorem setFBit_hbm (f : Fld) (i : Nat) (b : Bool) : (setFBit s f i b).hbm = s.hbm := rfl
@[simp] theorem setFBit_clk (f : Fld) (i : Nat) (b : Bool) : (setFBit s f i b).clk = s.clk := rfl
@[simp] theorem setFBit_net (f : Fld) (i : Nat) (b : Bool) : (setFBit s f i b).net = s.net := rfl
@[simp] theorem setFBit_sec (f : Fld) (i : Nat) (b : Bool) : (setFBit s f i b).sec = s.sec := rfl
@[simp] theorem setFBit_ctl (f : Fld) (i : Nat) (b : Bool) : (setFBit s f i b).ctl = s.ctl := rfl
@[simp] theorem setFBit_trc (f : Fld) (i : Nat) (b : Bool) : (setFBit s f i b).trc = s.trc := rfl
@[simp] theorem setFBit_ldr (f : Fld) (i : Nat) (b : Bool) : (setFBit s f i b).ldr = s.ldr := rfl
@[simp] theorem setFBit_boot (f : Fld) (i : Nat) (b : Bool) : (setFBit s f i b).boot = s.boot := rfl
@[simp] theorem setFBit_outs (f : Fld) (i : Nat) (b : Bool) : (setFBit s f i b).outs = s.outs := rfl
@[simp] theorem setFBit_draws (f : Fld) (i : Nat) (b : Bool) : (setFBit s f i b).draws = s.draws := rfl
@[simp] theorem setFBit_pending (f : Fld) (i : Nat) (b : Bool) : (setFBit s f i b).pending = s.pending := rfl

@[simp] theorem bumpF_chip (f : Fld) (n : Nat) : (bumpF s f n).chip = s.chip := rfl
@[simp] theorem bumpF_capHi (f : Fld) (n : Nat) : (bumpF s f n).capHi = s.capHi := rfl
@[simp] theorem bumpF_dies (f : Fld) (n : Nat) : (bumpF s f n).dies = s.dies := rfl
@[simp] theorem bumpF_holds (f : Fld) (n : Nat) : (bumpF s f n).holds = s.holds := rfl
@[simp] theorem bumpF_mem (f : Fld) (n : Nat) : (bumpF s f n).mem = s.mem := rfl
@[simp] theorem bumpF_run (f : Fld) (n : Nat) : (bumpF s f n).run = s.run := rfl
@[simp] theorem bumpF_ingot (f : Fld) (n : Nat) : (bumpF s f n).ingot = s.ingot := rfl
@[simp] theorem bumpF_iso (f : Fld) (n : Nat) : (bumpF s f n).iso = s.iso := rfl
@[simp] theorem bumpF_tileBytes (f : Fld) (n : Nat) : (bumpF s f n).tileBytes = s.tileBytes := rfl
@[simp] theorem bumpF_host (f : Fld) (n : Nat) : (bumpF s f n).host = s.host := rfl
@[simp] theorem bumpF_chn (f : Fld) (n : Nat) : (bumpF s f n).chn = s.chn := rfl
@[simp] theorem bumpF_asy (f : Fld) (n : Nat) : (bumpF s f n).asy = s.asy := rfl
@[simp] theorem bumpF_hgr (f : Fld) (n : Nat) : (bumpF s f n).hgr = s.hgr := rfl
@[simp] theorem bumpF_lnk (f : Fld) (n : Nat) : (bumpF s f n).lnk = s.lnk := rfl
@[simp] theorem bumpF_design (f : Fld) (n : Nat) : (bumpF s f n).design = s.design := rfl
@[simp] theorem bumpF_hbm (f : Fld) (n : Nat) : (bumpF s f n).hbm = s.hbm := rfl
@[simp] theorem bumpF_clk (f : Fld) (n : Nat) : (bumpF s f n).clk = s.clk := rfl
@[simp] theorem bumpF_net (f : Fld) (n : Nat) : (bumpF s f n).net = s.net := rfl
@[simp] theorem bumpF_sec (f : Fld) (n : Nat) : (bumpF s f n).sec = s.sec := rfl
@[simp] theorem bumpF_ctl (f : Fld) (n : Nat) : (bumpF s f n).ctl = s.ctl := rfl
@[simp] theorem bumpF_trc (f : Fld) (n : Nat) : (bumpF s f n).trc = s.trc := rfl
@[simp] theorem bumpF_ldr (f : Fld) (n : Nat) : (bumpF s f n).ldr = s.ldr := rfl
@[simp] theorem bumpF_boot (f : Fld) (n : Nat) : (bumpF s f n).boot = s.boot := rfl
@[simp] theorem bumpF_outs (f : Fld) (n : Nat) : (bumpF s f n).outs = s.outs := rfl
@[simp] theorem bumpF_draws (f : Fld) (n : Nat) : (bumpF s f n).draws = s.draws := rfl
@[simp] theorem bumpF_pending (f : Fld) (n : Nat) : (bumpF s f n).pending = s.pending := rfl

@[simp] theorem wrapF_chip (f : Fld) (n : Nat) : (wrapF s f n).chip = s.chip := rfl
@[simp] theorem wrapF_capHi (f : Fld) (n : Nat) : (wrapF s f n).capHi = s.capHi := rfl
@[simp] theorem wrapF_dies (f : Fld) (n : Nat) : (wrapF s f n).dies = s.dies := rfl
@[simp] theorem wrapF_holds (f : Fld) (n : Nat) : (wrapF s f n).holds = s.holds := rfl
@[simp] theorem wrapF_mem (f : Fld) (n : Nat) : (wrapF s f n).mem = s.mem := rfl
@[simp] theorem wrapF_run (f : Fld) (n : Nat) : (wrapF s f n).run = s.run := rfl
@[simp] theorem wrapF_ingot (f : Fld) (n : Nat) : (wrapF s f n).ingot = s.ingot := rfl
@[simp] theorem wrapF_iso (f : Fld) (n : Nat) : (wrapF s f n).iso = s.iso := rfl
@[simp] theorem wrapF_tileBytes (f : Fld) (n : Nat) : (wrapF s f n).tileBytes = s.tileBytes := rfl
@[simp] theorem wrapF_host (f : Fld) (n : Nat) : (wrapF s f n).host = s.host := rfl
@[simp] theorem wrapF_chn (f : Fld) (n : Nat) : (wrapF s f n).chn = s.chn := rfl
@[simp] theorem wrapF_asy (f : Fld) (n : Nat) : (wrapF s f n).asy = s.asy := rfl
@[simp] theorem wrapF_hgr (f : Fld) (n : Nat) : (wrapF s f n).hgr = s.hgr := rfl
@[simp] theorem wrapF_lnk (f : Fld) (n : Nat) : (wrapF s f n).lnk = s.lnk := rfl
@[simp] theorem wrapF_design (f : Fld) (n : Nat) : (wrapF s f n).design = s.design := rfl
@[simp] theorem wrapF_hbm (f : Fld) (n : Nat) : (wrapF s f n).hbm = s.hbm := rfl
@[simp] theorem wrapF_clk (f : Fld) (n : Nat) : (wrapF s f n).clk = s.clk := rfl
@[simp] theorem wrapF_net (f : Fld) (n : Nat) : (wrapF s f n).net = s.net := rfl
@[simp] theorem wrapF_sec (f : Fld) (n : Nat) : (wrapF s f n).sec = s.sec := rfl
@[simp] theorem wrapF_ctl (f : Fld) (n : Nat) : (wrapF s f n).ctl = s.ctl := rfl
@[simp] theorem wrapF_trc (f : Fld) (n : Nat) : (wrapF s f n).trc = s.trc := rfl
@[simp] theorem wrapF_ldr (f : Fld) (n : Nat) : (wrapF s f n).ldr = s.ldr := rfl
@[simp] theorem wrapF_boot (f : Fld) (n : Nat) : (wrapF s f n).boot = s.boot := rfl
@[simp] theorem wrapF_outs (f : Fld) (n : Nat) : (wrapF s f n).outs = s.outs := rfl
@[simp] theorem wrapF_draws (f : Fld) (n : Nat) : (wrapF s f n).draws = s.draws := rfl
@[simp] theorem wrapF_pending (f : Fld) (n : Nat) : (wrapF s f n).pending = s.pending := rfl

@[simp] theorem set64_chip (lo hi : Fld) (v : Nat) : (set64 s lo hi v).chip = s.chip := rfl
@[simp] theorem set64_capHi (lo hi : Fld) (v : Nat) : (set64 s lo hi v).capHi = s.capHi := rfl
@[simp] theorem set64_dies (lo hi : Fld) (v : Nat) : (set64 s lo hi v).dies = s.dies := rfl
@[simp] theorem set64_holds (lo hi : Fld) (v : Nat) : (set64 s lo hi v).holds = s.holds := rfl
@[simp] theorem set64_mem (lo hi : Fld) (v : Nat) : (set64 s lo hi v).mem = s.mem := rfl
@[simp] theorem set64_run (lo hi : Fld) (v : Nat) : (set64 s lo hi v).run = s.run := rfl
@[simp] theorem set64_ingot (lo hi : Fld) (v : Nat) : (set64 s lo hi v).ingot = s.ingot := rfl
@[simp] theorem set64_iso (lo hi : Fld) (v : Nat) : (set64 s lo hi v).iso = s.iso := rfl
@[simp] theorem set64_tileBytes (lo hi : Fld) (v : Nat) : (set64 s lo hi v).tileBytes = s.tileBytes := rfl
@[simp] theorem set64_host (lo hi : Fld) (v : Nat) : (set64 s lo hi v).host = s.host := rfl
@[simp] theorem set64_chn (lo hi : Fld) (v : Nat) : (set64 s lo hi v).chn = s.chn := rfl
@[simp] theorem set64_asy (lo hi : Fld) (v : Nat) : (set64 s lo hi v).asy = s.asy := rfl
@[simp] theorem set64_hgr (lo hi : Fld) (v : Nat) : (set64 s lo hi v).hgr = s.hgr := rfl
@[simp] theorem set64_lnk (lo hi : Fld) (v : Nat) : (set64 s lo hi v).lnk = s.lnk := rfl
@[simp] theorem set64_design (lo hi : Fld) (v : Nat) : (set64 s lo hi v).design = s.design := rfl
@[simp] theorem set64_hbm (lo hi : Fld) (v : Nat) : (set64 s lo hi v).hbm = s.hbm := rfl
@[simp] theorem set64_clk (lo hi : Fld) (v : Nat) : (set64 s lo hi v).clk = s.clk := rfl
@[simp] theorem set64_net (lo hi : Fld) (v : Nat) : (set64 s lo hi v).net = s.net := rfl
@[simp] theorem set64_sec (lo hi : Fld) (v : Nat) : (set64 s lo hi v).sec = s.sec := rfl
@[simp] theorem set64_ctl (lo hi : Fld) (v : Nat) : (set64 s lo hi v).ctl = s.ctl := rfl
@[simp] theorem set64_trc (lo hi : Fld) (v : Nat) : (set64 s lo hi v).trc = s.trc := rfl
@[simp] theorem set64_ldr (lo hi : Fld) (v : Nat) : (set64 s lo hi v).ldr = s.ldr := rfl
@[simp] theorem set64_boot (lo hi : Fld) (v : Nat) : (set64 s lo hi v).boot = s.boot := rfl
@[simp] theorem set64_outs (lo hi : Fld) (v : Nat) : (set64 s lo hi v).outs = s.outs := rfl
@[simp] theorem set64_draws (lo hi : Fld) (v : Nat) : (set64 s lo hi v).draws = s.draws := rfl
@[simp] theorem set64_pending (lo hi : Fld) (v : Nat) : (set64 s lo hi v).pending = s.pending := rfl

@[simp] theorem setTime_chip (t : Nat) : (setTime s t).chip = s.chip := rfl
@[simp] theorem setTime_capHi (t : Nat) : (setTime s t).capHi = s.capHi := rfl
@[simp] theorem setTime_dies (t : Nat) : (setTime s t).dies = s.dies := rfl
@[simp] theorem setTime_holds (t : Nat) : (setTime s t).holds = s.holds := rfl
@[simp] theorem setTime_mem (t : Nat) : (setTime s t).mem = s.mem := rfl
@[simp] theorem setTime_run (t : Nat) : (setTime s t).run = s.run := rfl
@[simp] theorem setTime_ingot (t : Nat) : (setTime s t).ingot = s.ingot := rfl
@[simp] theorem setTime_iso (t : Nat) : (setTime s t).iso = s.iso := rfl
@[simp] theorem setTime_tileBytes (t : Nat) : (setTime s t).tileBytes = s.tileBytes := rfl
@[simp] theorem setTime_host (t : Nat) : (setTime s t).host = s.host := rfl
@[simp] theorem setTime_chn (t : Nat) : (setTime s t).chn = s.chn := rfl
@[simp] theorem setTime_asy (t : Nat) : (setTime s t).asy = s.asy := rfl
@[simp] theorem setTime_hgr (t : Nat) : (setTime s t).hgr = s.hgr := rfl
@[simp] theorem setTime_lnk (t : Nat) : (setTime s t).lnk = s.lnk := rfl
@[simp] theorem setTime_design (t : Nat) : (setTime s t).design = s.design := rfl
@[simp] theorem setTime_hbm (t : Nat) : (setTime s t).hbm = s.hbm := rfl
@[simp] theorem setTime_clk (t : Nat) : (setTime s t).clk = s.clk := rfl
@[simp] theorem setTime_net (t : Nat) : (setTime s t).net = s.net := rfl
@[simp] theorem setTime_sec (t : Nat) : (setTime s t).sec = s.sec := rfl
@[simp] theorem setTime_ctl (t : Nat) : (setTime s t).ctl = s.ctl := rfl
@[simp] theorem setTime_trc (t : Nat) : (setTime s t).trc = s.trc := rfl
@[simp] theorem setTime_ldr (t : Nat) : (setTime s t).ldr = s.ldr := rfl
@[simp] theorem setTime_boot (t : Nat) : (setTime s t).boot = s.boot := rfl
@[simp] theorem setTime_outs (t : Nat) : (setTime s t).outs = s.outs := rfl
@[simp] theorem setTime_draws (t : Nat) : (setTime s t).draws = s.draws := rfl
@[simp] theorem setTime_pending (t : Nat) : (setTime s t).pending = s.pending := rfl

@[simp] theorem resetBlock_chip (b : Nat) (k : Nat → Bool) : (resetBlock s b k).chip = s.chip := rfl
@[simp] theorem resetBlock_capHi (b : Nat) (k : Nat → Bool) : (resetBlock s b k).capHi = s.capHi := rfl
@[simp] theorem resetBlock_dies (b : Nat) (k : Nat → Bool) : (resetBlock s b k).dies = s.dies := rfl
@[simp] theorem resetBlock_holds (b : Nat) (k : Nat → Bool) : (resetBlock s b k).holds = s.holds := rfl
@[simp] theorem resetBlock_mem (b : Nat) (k : Nat → Bool) : (resetBlock s b k).mem = s.mem := rfl
@[simp] theorem resetBlock_run (b : Nat) (k : Nat → Bool) : (resetBlock s b k).run = s.run := rfl
@[simp] theorem resetBlock_ingot (b : Nat) (k : Nat → Bool) : (resetBlock s b k).ingot = s.ingot := rfl
@[simp] theorem resetBlock_iso (b : Nat) (k : Nat → Bool) : (resetBlock s b k).iso = s.iso := rfl
@[simp] theorem resetBlock_tileBytes (b : Nat) (k : Nat → Bool) : (resetBlock s b k).tileBytes = s.tileBytes := rfl
@[simp] theorem resetBlock_host (b : Nat) (k : Nat → Bool) : (resetBlock s b k).host = s.host := rfl
@[simp] theorem resetBlock_chn (b : Nat) (k : Nat → Bool) : (resetBlock s b k).chn = s.chn := rfl
@[simp] theorem resetBlock_asy (b : Nat) (k : Nat → Bool) : (resetBlock s b k).asy = s.asy := rfl
@[simp] theorem resetBlock_hgr (b : Nat) (k : Nat → Bool) : (resetBlock s b k).hgr = s.hgr := rfl
@[simp] theorem resetBlock_lnk (b : Nat) (k : Nat → Bool) : (resetBlock s b k).lnk = s.lnk := rfl
@[simp] theorem resetBlock_design (b : Nat) (k : Nat → Bool) : (resetBlock s b k).design = s.design := rfl
@[simp] theorem resetBlock_hbm (b : Nat) (k : Nat → Bool) : (resetBlock s b k).hbm = s.hbm := rfl
@[simp] theorem resetBlock_clk (b : Nat) (k : Nat → Bool) : (resetBlock s b k).clk = s.clk := rfl
@[simp] theorem resetBlock_net (b : Nat) (k : Nat → Bool) : (resetBlock s b k).net = s.net := rfl
@[simp] theorem resetBlock_sec (b : Nat) (k : Nat → Bool) : (resetBlock s b k).sec = s.sec := rfl
@[simp] theorem resetBlock_ctl (b : Nat) (k : Nat → Bool) : (resetBlock s b k).ctl = s.ctl := rfl
@[simp] theorem resetBlock_trc (b : Nat) (k : Nat → Bool) : (resetBlock s b k).trc = s.trc := rfl
@[simp] theorem resetBlock_ldr (b : Nat) (k : Nat → Bool) : (resetBlock s b k).ldr = s.ldr := rfl
@[simp] theorem resetBlock_boot (b : Nat) (k : Nat → Bool) : (resetBlock s b k).boot = s.boot := rfl
@[simp] theorem resetBlock_outs (b : Nat) (k : Nat → Bool) : (resetBlock s b k).outs = s.outs := rfl
@[simp] theorem resetBlock_draws (b : Nat) (k : Nat → Bool) : (resetBlock s b k).draws = s.draws := rfl
@[simp] theorem resetBlock_pending (b : Nat) (k : Nat → Bool) : (resetBlock s b k).pending = s.pending := rfl

@[simp] theorem setDie_chip (d : Fin 4) (x : Die) : (setDie s d x).chip = s.chip := rfl
@[simp] theorem setDie_regs (d : Fin 4) (x : Die) : (setDie s d x).regs = s.regs := rfl
@[simp] theorem setDie_capHi (d : Fin 4) (x : Die) : (setDie s d x).capHi = s.capHi := rfl
@[simp] theorem setDie_holds (d : Fin 4) (x : Die) : (setDie s d x).holds = s.holds := rfl
@[simp] theorem setDie_mem (d : Fin 4) (x : Die) : (setDie s d x).mem = s.mem := rfl
@[simp] theorem setDie_run (d : Fin 4) (x : Die) : (setDie s d x).run = s.run := rfl
@[simp] theorem setDie_ingot (d : Fin 4) (x : Die) : (setDie s d x).ingot = s.ingot := rfl
@[simp] theorem setDie_iso (d : Fin 4) (x : Die) : (setDie s d x).iso = s.iso := rfl
@[simp] theorem setDie_tileBytes (d : Fin 4) (x : Die) : (setDie s d x).tileBytes = s.tileBytes := rfl
@[simp] theorem setDie_host (d : Fin 4) (x : Die) : (setDie s d x).host = s.host := rfl
@[simp] theorem setDie_chn (d : Fin 4) (x : Die) : (setDie s d x).chn = s.chn := rfl
@[simp] theorem setDie_asy (d : Fin 4) (x : Die) : (setDie s d x).asy = s.asy := rfl
@[simp] theorem setDie_hgr (d : Fin 4) (x : Die) : (setDie s d x).hgr = s.hgr := rfl
@[simp] theorem setDie_lnk (d : Fin 4) (x : Die) : (setDie s d x).lnk = s.lnk := rfl
@[simp] theorem setDie_design (d : Fin 4) (x : Die) : (setDie s d x).design = s.design := rfl
@[simp] theorem setDie_hbm (d : Fin 4) (x : Die) : (setDie s d x).hbm = s.hbm := rfl
@[simp] theorem setDie_clk (d : Fin 4) (x : Die) : (setDie s d x).clk = s.clk := rfl
@[simp] theorem setDie_net (d : Fin 4) (x : Die) : (setDie s d x).net = s.net := rfl
@[simp] theorem setDie_sec (d : Fin 4) (x : Die) : (setDie s d x).sec = s.sec := rfl
@[simp] theorem setDie_ctl (d : Fin 4) (x : Die) : (setDie s d x).ctl = s.ctl := rfl
@[simp] theorem setDie_trc (d : Fin 4) (x : Die) : (setDie s d x).trc = s.trc := rfl
@[simp] theorem setDie_ldr (d : Fin 4) (x : Die) : (setDie s d x).ldr = s.ldr := rfl
@[simp] theorem setDie_boot (d : Fin 4) (x : Die) : (setDie s d x).boot = s.boot := rfl
@[simp] theorem setDie_outs (d : Fin 4) (x : Die) : (setDie s d x).outs = s.outs := rfl
@[simp] theorem setDie_draws (d : Fin 4) (x : Die) : (setDie s d x).draws = s.draws := rfl
@[simp] theorem setDie_pending (d : Fin 4) (x : Die) : (setDie s d x).pending = s.pending := rfl
@[simp] theorem getF_setDie (f : Fld) (d : Fin 4) (x : Die) : getF (setDie s d x) f = getF s f := rfl
@[simp] theorem getB_setDie (f : Fld) (d : Fin 4) (x : Die) : getB (setDie s d x) f = getB s f := rfl

@[simp] theorem onDie_chip (d : Fin 4) (g : Die → Die) : (onDie s d g).chip = s.chip := rfl
@[simp] theorem onDie_regs (d : Fin 4) (g : Die → Die) : (onDie s d g).regs = s.regs := rfl
@[simp] theorem onDie_capHi (d : Fin 4) (g : Die → Die) : (onDie s d g).capHi = s.capHi := rfl
@[simp] theorem onDie_holds (d : Fin 4) (g : Die → Die) : (onDie s d g).holds = s.holds := rfl
@[simp] theorem onDie_mem (d : Fin 4) (g : Die → Die) : (onDie s d g).mem = s.mem := rfl
@[simp] theorem onDie_run (d : Fin 4) (g : Die → Die) : (onDie s d g).run = s.run := rfl
@[simp] theorem onDie_ingot (d : Fin 4) (g : Die → Die) : (onDie s d g).ingot = s.ingot := rfl
@[simp] theorem onDie_iso (d : Fin 4) (g : Die → Die) : (onDie s d g).iso = s.iso := rfl
@[simp] theorem onDie_tileBytes (d : Fin 4) (g : Die → Die) : (onDie s d g).tileBytes = s.tileBytes := rfl
@[simp] theorem onDie_host (d : Fin 4) (g : Die → Die) : (onDie s d g).host = s.host := rfl
@[simp] theorem onDie_chn (d : Fin 4) (g : Die → Die) : (onDie s d g).chn = s.chn := rfl
@[simp] theorem onDie_asy (d : Fin 4) (g : Die → Die) : (onDie s d g).asy = s.asy := rfl
@[simp] theorem onDie_hgr (d : Fin 4) (g : Die → Die) : (onDie s d g).hgr = s.hgr := rfl
@[simp] theorem onDie_lnk (d : Fin 4) (g : Die → Die) : (onDie s d g).lnk = s.lnk := rfl
@[simp] theorem onDie_design (d : Fin 4) (g : Die → Die) : (onDie s d g).design = s.design := rfl
@[simp] theorem onDie_hbm (d : Fin 4) (g : Die → Die) : (onDie s d g).hbm = s.hbm := rfl
@[simp] theorem onDie_clk (d : Fin 4) (g : Die → Die) : (onDie s d g).clk = s.clk := rfl
@[simp] theorem onDie_net (d : Fin 4) (g : Die → Die) : (onDie s d g).net = s.net := rfl
@[simp] theorem onDie_sec (d : Fin 4) (g : Die → Die) : (onDie s d g).sec = s.sec := rfl
@[simp] theorem onDie_ctl (d : Fin 4) (g : Die → Die) : (onDie s d g).ctl = s.ctl := rfl
@[simp] theorem onDie_trc (d : Fin 4) (g : Die → Die) : (onDie s d g).trc = s.trc := rfl
@[simp] theorem onDie_ldr (d : Fin 4) (g : Die → Die) : (onDie s d g).ldr = s.ldr := rfl
@[simp] theorem onDie_boot (d : Fin 4) (g : Die → Die) : (onDie s d g).boot = s.boot := rfl
@[simp] theorem onDie_outs (d : Fin 4) (g : Die → Die) : (onDie s d g).outs = s.outs := rfl
@[simp] theorem onDie_draws (d : Fin 4) (g : Die → Die) : (onDie s d g).draws = s.draws := rfl
@[simp] theorem onDie_pending (d : Fin 4) (g : Die → Die) : (onDie s d g).pending = s.pending := rfl
@[simp] theorem getF_onDie (f : Fld) (d : Fin 4) (g : Die → Die) : getF (onDie s d g) f = getF s f := rfl
@[simp] theorem getB_onDie (f : Fld) (d : Fin 4) (g : Die → Die) : getB (onDie s d g) f = getB s f := rfl

@[simp] theorem onDies_chip (g : Die → Die) : (onDies s g).chip = s.chip := rfl
@[simp] theorem onDies_regs (g : Die → Die) : (onDies s g).regs = s.regs := rfl
@[simp] theorem onDies_capHi (g : Die → Die) : (onDies s g).capHi = s.capHi := rfl
@[simp] theorem onDies_holds (g : Die → Die) : (onDies s g).holds = s.holds := rfl
@[simp] theorem onDies_mem (g : Die → Die) : (onDies s g).mem = s.mem := rfl
@[simp] theorem onDies_run (g : Die → Die) : (onDies s g).run = s.run := rfl
@[simp] theorem onDies_ingot (g : Die → Die) : (onDies s g).ingot = s.ingot := rfl
@[simp] theorem onDies_iso (g : Die → Die) : (onDies s g).iso = s.iso := rfl
@[simp] theorem onDies_tileBytes (g : Die → Die) : (onDies s g).tileBytes = s.tileBytes := rfl
@[simp] theorem onDies_host (g : Die → Die) : (onDies s g).host = s.host := rfl
@[simp] theorem onDies_chn (g : Die → Die) : (onDies s g).chn = s.chn := rfl
@[simp] theorem onDies_asy (g : Die → Die) : (onDies s g).asy = s.asy := rfl
@[simp] theorem onDies_hgr (g : Die → Die) : (onDies s g).hgr = s.hgr := rfl
@[simp] theorem onDies_lnk (g : Die → Die) : (onDies s g).lnk = s.lnk := rfl
@[simp] theorem onDies_design (g : Die → Die) : (onDies s g).design = s.design := rfl
@[simp] theorem onDies_hbm (g : Die → Die) : (onDies s g).hbm = s.hbm := rfl
@[simp] theorem onDies_clk (g : Die → Die) : (onDies s g).clk = s.clk := rfl
@[simp] theorem onDies_net (g : Die → Die) : (onDies s g).net = s.net := rfl
@[simp] theorem onDies_sec (g : Die → Die) : (onDies s g).sec = s.sec := rfl
@[simp] theorem onDies_ctl (g : Die → Die) : (onDies s g).ctl = s.ctl := rfl
@[simp] theorem onDies_trc (g : Die → Die) : (onDies s g).trc = s.trc := rfl
@[simp] theorem onDies_ldr (g : Die → Die) : (onDies s g).ldr = s.ldr := rfl
@[simp] theorem onDies_boot (g : Die → Die) : (onDies s g).boot = s.boot := rfl
@[simp] theorem onDies_outs (g : Die → Die) : (onDies s g).outs = s.outs := rfl
@[simp] theorem onDies_draws (g : Die → Die) : (onDies s g).draws = s.draws := rfl
@[simp] theorem onDies_pending (g : Die → Die) : (onDies s g).pending = s.pending := rfl
@[simp] theorem getF_onDies (f : Fld) (g : Die → Die) : getF (onDies s g) f = getF s f := rfl
@[simp] theorem getB_onDies (f : Fld) (g : Die → Die) : getB (onDies s g) f = getB s f := rfl

@[simp] theorem onHolds_chip (g : Holds → Holds) : (onHolds s g).chip = s.chip := rfl
@[simp] theorem onHolds_regs (g : Holds → Holds) : (onHolds s g).regs = s.regs := rfl
@[simp] theorem onHolds_capHi (g : Holds → Holds) : (onHolds s g).capHi = s.capHi := rfl
@[simp] theorem onHolds_dies (g : Holds → Holds) : (onHolds s g).dies = s.dies := rfl
@[simp] theorem onHolds_mem (g : Holds → Holds) : (onHolds s g).mem = s.mem := rfl
@[simp] theorem onHolds_run (g : Holds → Holds) : (onHolds s g).run = s.run := rfl
@[simp] theorem onHolds_ingot (g : Holds → Holds) : (onHolds s g).ingot = s.ingot := rfl
@[simp] theorem onHolds_iso (g : Holds → Holds) : (onHolds s g).iso = s.iso := rfl
@[simp] theorem onHolds_tileBytes (g : Holds → Holds) : (onHolds s g).tileBytes = s.tileBytes := rfl
@[simp] theorem onHolds_host (g : Holds → Holds) : (onHolds s g).host = s.host := rfl
@[simp] theorem onHolds_chn (g : Holds → Holds) : (onHolds s g).chn = s.chn := rfl
@[simp] theorem onHolds_asy (g : Holds → Holds) : (onHolds s g).asy = s.asy := rfl
@[simp] theorem onHolds_hgr (g : Holds → Holds) : (onHolds s g).hgr = s.hgr := rfl
@[simp] theorem onHolds_lnk (g : Holds → Holds) : (onHolds s g).lnk = s.lnk := rfl
@[simp] theorem onHolds_design (g : Holds → Holds) : (onHolds s g).design = s.design := rfl
@[simp] theorem onHolds_hbm (g : Holds → Holds) : (onHolds s g).hbm = s.hbm := rfl
@[simp] theorem onHolds_clk (g : Holds → Holds) : (onHolds s g).clk = s.clk := rfl
@[simp] theorem onHolds_net (g : Holds → Holds) : (onHolds s g).net = s.net := rfl
@[simp] theorem onHolds_sec (g : Holds → Holds) : (onHolds s g).sec = s.sec := rfl
@[simp] theorem onHolds_ctl (g : Holds → Holds) : (onHolds s g).ctl = s.ctl := rfl
@[simp] theorem onHolds_trc (g : Holds → Holds) : (onHolds s g).trc = s.trc := rfl
@[simp] theorem onHolds_ldr (g : Holds → Holds) : (onHolds s g).ldr = s.ldr := rfl
@[simp] theorem onHolds_boot (g : Holds → Holds) : (onHolds s g).boot = s.boot := rfl
@[simp] theorem onHolds_outs (g : Holds → Holds) : (onHolds s g).outs = s.outs := rfl
@[simp] theorem onHolds_draws (g : Holds → Holds) : (onHolds s g).draws = s.draws := rfl
@[simp] theorem onHolds_pending (g : Holds → Holds) : (onHolds s g).pending = s.pending := rfl
@[simp] theorem getF_onHolds (f : Fld) (g : Holds → Holds) : getF (onHolds s g) f = getF s f := rfl
@[simp] theorem getB_onHolds (f : Fld) (g : Holds → Holds) : getB (onHolds s g) f = getB s f := rfl

@[simp] theorem onRun_chip (g : RunCtl → RunCtl) : (onRun s g).chip = s.chip := rfl
@[simp] theorem onRun_regs (g : RunCtl → RunCtl) : (onRun s g).regs = s.regs := rfl
@[simp] theorem onRun_capHi (g : RunCtl → RunCtl) : (onRun s g).capHi = s.capHi := rfl
@[simp] theorem onRun_dies (g : RunCtl → RunCtl) : (onRun s g).dies = s.dies := rfl
@[simp] theorem onRun_holds (g : RunCtl → RunCtl) : (onRun s g).holds = s.holds := rfl
@[simp] theorem onRun_mem (g : RunCtl → RunCtl) : (onRun s g).mem = s.mem := rfl
@[simp] theorem onRun_ingot (g : RunCtl → RunCtl) : (onRun s g).ingot = s.ingot := rfl
@[simp] theorem onRun_iso (g : RunCtl → RunCtl) : (onRun s g).iso = s.iso := rfl
@[simp] theorem onRun_tileBytes (g : RunCtl → RunCtl) : (onRun s g).tileBytes = s.tileBytes := rfl
@[simp] theorem onRun_host (g : RunCtl → RunCtl) : (onRun s g).host = s.host := rfl
@[simp] theorem onRun_chn (g : RunCtl → RunCtl) : (onRun s g).chn = s.chn := rfl
@[simp] theorem onRun_asy (g : RunCtl → RunCtl) : (onRun s g).asy = s.asy := rfl
@[simp] theorem onRun_hgr (g : RunCtl → RunCtl) : (onRun s g).hgr = s.hgr := rfl
@[simp] theorem onRun_lnk (g : RunCtl → RunCtl) : (onRun s g).lnk = s.lnk := rfl
@[simp] theorem onRun_design (g : RunCtl → RunCtl) : (onRun s g).design = s.design := rfl
@[simp] theorem onRun_hbm (g : RunCtl → RunCtl) : (onRun s g).hbm = s.hbm := rfl
@[simp] theorem onRun_clk (g : RunCtl → RunCtl) : (onRun s g).clk = s.clk := rfl
@[simp] theorem onRun_net (g : RunCtl → RunCtl) : (onRun s g).net = s.net := rfl
@[simp] theorem onRun_sec (g : RunCtl → RunCtl) : (onRun s g).sec = s.sec := rfl
@[simp] theorem onRun_ctl (g : RunCtl → RunCtl) : (onRun s g).ctl = s.ctl := rfl
@[simp] theorem onRun_trc (g : RunCtl → RunCtl) : (onRun s g).trc = s.trc := rfl
@[simp] theorem onRun_ldr (g : RunCtl → RunCtl) : (onRun s g).ldr = s.ldr := rfl
@[simp] theorem onRun_boot (g : RunCtl → RunCtl) : (onRun s g).boot = s.boot := rfl
@[simp] theorem onRun_outs (g : RunCtl → RunCtl) : (onRun s g).outs = s.outs := rfl
@[simp] theorem onRun_draws (g : RunCtl → RunCtl) : (onRun s g).draws = s.draws := rfl
@[simp] theorem onRun_pending (g : RunCtl → RunCtl) : (onRun s g).pending = s.pending := rfl
@[simp] theorem getF_onRun (f : Fld) (g : RunCtl → RunCtl) : getF (onRun s g) f = getF s f := rfl
@[simp] theorem getB_onRun (f : Fld) (g : RunCtl → RunCtl) : getB (onRun s g) f = getB s f := rfl

@[simp] theorem onChn_chip (g : Chn → Chn) : (onChn s g).chip = s.chip := rfl
@[simp] theorem onChn_regs (g : Chn → Chn) : (onChn s g).regs = s.regs := rfl
@[simp] theorem onChn_capHi (g : Chn → Chn) : (onChn s g).capHi = s.capHi := rfl
@[simp] theorem onChn_dies (g : Chn → Chn) : (onChn s g).dies = s.dies := rfl
@[simp] theorem onChn_holds (g : Chn → Chn) : (onChn s g).holds = s.holds := rfl
@[simp] theorem onChn_mem (g : Chn → Chn) : (onChn s g).mem = s.mem := rfl
@[simp] theorem onChn_run (g : Chn → Chn) : (onChn s g).run = s.run := rfl
@[simp] theorem onChn_ingot (g : Chn → Chn) : (onChn s g).ingot = s.ingot := rfl
@[simp] theorem onChn_iso (g : Chn → Chn) : (onChn s g).iso = s.iso := rfl
@[simp] theorem onChn_tileBytes (g : Chn → Chn) : (onChn s g).tileBytes = s.tileBytes := rfl
@[simp] theorem onChn_host (g : Chn → Chn) : (onChn s g).host = s.host := rfl
@[simp] theorem onChn_asy (g : Chn → Chn) : (onChn s g).asy = s.asy := rfl
@[simp] theorem onChn_hgr (g : Chn → Chn) : (onChn s g).hgr = s.hgr := rfl
@[simp] theorem onChn_lnk (g : Chn → Chn) : (onChn s g).lnk = s.lnk := rfl
@[simp] theorem onChn_design (g : Chn → Chn) : (onChn s g).design = s.design := rfl
@[simp] theorem onChn_hbm (g : Chn → Chn) : (onChn s g).hbm = s.hbm := rfl
@[simp] theorem onChn_clk (g : Chn → Chn) : (onChn s g).clk = s.clk := rfl
@[simp] theorem onChn_net (g : Chn → Chn) : (onChn s g).net = s.net := rfl
@[simp] theorem onChn_sec (g : Chn → Chn) : (onChn s g).sec = s.sec := rfl
@[simp] theorem onChn_ctl (g : Chn → Chn) : (onChn s g).ctl = s.ctl := rfl
@[simp] theorem onChn_trc (g : Chn → Chn) : (onChn s g).trc = s.trc := rfl
@[simp] theorem onChn_ldr (g : Chn → Chn) : (onChn s g).ldr = s.ldr := rfl
@[simp] theorem onChn_boot (g : Chn → Chn) : (onChn s g).boot = s.boot := rfl
@[simp] theorem onChn_outs (g : Chn → Chn) : (onChn s g).outs = s.outs := rfl
@[simp] theorem onChn_draws (g : Chn → Chn) : (onChn s g).draws = s.draws := rfl
@[simp] theorem onChn_pending (g : Chn → Chn) : (onChn s g).pending = s.pending := rfl
@[simp] theorem getF_onChn (f : Fld) (g : Chn → Chn) : getF (onChn s g) f = getF s f := rfl
@[simp] theorem getB_onChn (f : Fld) (g : Chn → Chn) : getB (onChn s g) f = getB s f := rfl

@[simp] theorem onAsy_chip (g : Asy → Asy) : (onAsy s g).chip = s.chip := rfl
@[simp] theorem onAsy_regs (g : Asy → Asy) : (onAsy s g).regs = s.regs := rfl
@[simp] theorem onAsy_capHi (g : Asy → Asy) : (onAsy s g).capHi = s.capHi := rfl
@[simp] theorem onAsy_dies (g : Asy → Asy) : (onAsy s g).dies = s.dies := rfl
@[simp] theorem onAsy_holds (g : Asy → Asy) : (onAsy s g).holds = s.holds := rfl
@[simp] theorem onAsy_mem (g : Asy → Asy) : (onAsy s g).mem = s.mem := rfl
@[simp] theorem onAsy_run (g : Asy → Asy) : (onAsy s g).run = s.run := rfl
@[simp] theorem onAsy_ingot (g : Asy → Asy) : (onAsy s g).ingot = s.ingot := rfl
@[simp] theorem onAsy_iso (g : Asy → Asy) : (onAsy s g).iso = s.iso := rfl
@[simp] theorem onAsy_tileBytes (g : Asy → Asy) : (onAsy s g).tileBytes = s.tileBytes := rfl
@[simp] theorem onAsy_host (g : Asy → Asy) : (onAsy s g).host = s.host := rfl
@[simp] theorem onAsy_chn (g : Asy → Asy) : (onAsy s g).chn = s.chn := rfl
@[simp] theorem onAsy_hgr (g : Asy → Asy) : (onAsy s g).hgr = s.hgr := rfl
@[simp] theorem onAsy_lnk (g : Asy → Asy) : (onAsy s g).lnk = s.lnk := rfl
@[simp] theorem onAsy_design (g : Asy → Asy) : (onAsy s g).design = s.design := rfl
@[simp] theorem onAsy_hbm (g : Asy → Asy) : (onAsy s g).hbm = s.hbm := rfl
@[simp] theorem onAsy_clk (g : Asy → Asy) : (onAsy s g).clk = s.clk := rfl
@[simp] theorem onAsy_net (g : Asy → Asy) : (onAsy s g).net = s.net := rfl
@[simp] theorem onAsy_sec (g : Asy → Asy) : (onAsy s g).sec = s.sec := rfl
@[simp] theorem onAsy_ctl (g : Asy → Asy) : (onAsy s g).ctl = s.ctl := rfl
@[simp] theorem onAsy_trc (g : Asy → Asy) : (onAsy s g).trc = s.trc := rfl
@[simp] theorem onAsy_ldr (g : Asy → Asy) : (onAsy s g).ldr = s.ldr := rfl
@[simp] theorem onAsy_boot (g : Asy → Asy) : (onAsy s g).boot = s.boot := rfl
@[simp] theorem onAsy_outs (g : Asy → Asy) : (onAsy s g).outs = s.outs := rfl
@[simp] theorem onAsy_draws (g : Asy → Asy) : (onAsy s g).draws = s.draws := rfl
@[simp] theorem onAsy_pending (g : Asy → Asy) : (onAsy s g).pending = s.pending := rfl
@[simp] theorem getF_onAsy (f : Fld) (g : Asy → Asy) : getF (onAsy s g) f = getF s f := rfl
@[simp] theorem getB_onAsy (f : Fld) (g : Asy → Asy) : getB (onAsy s g) f = getB s f := rfl

@[simp] theorem onHgr_chip (g : Hgr → Hgr) : (onHgr s g).chip = s.chip := rfl
@[simp] theorem onHgr_regs (g : Hgr → Hgr) : (onHgr s g).regs = s.regs := rfl
@[simp] theorem onHgr_capHi (g : Hgr → Hgr) : (onHgr s g).capHi = s.capHi := rfl
@[simp] theorem onHgr_dies (g : Hgr → Hgr) : (onHgr s g).dies = s.dies := rfl
@[simp] theorem onHgr_holds (g : Hgr → Hgr) : (onHgr s g).holds = s.holds := rfl
@[simp] theorem onHgr_mem (g : Hgr → Hgr) : (onHgr s g).mem = s.mem := rfl
@[simp] theorem onHgr_run (g : Hgr → Hgr) : (onHgr s g).run = s.run := rfl
@[simp] theorem onHgr_ingot (g : Hgr → Hgr) : (onHgr s g).ingot = s.ingot := rfl
@[simp] theorem onHgr_iso (g : Hgr → Hgr) : (onHgr s g).iso = s.iso := rfl
@[simp] theorem onHgr_tileBytes (g : Hgr → Hgr) : (onHgr s g).tileBytes = s.tileBytes := rfl
@[simp] theorem onHgr_host (g : Hgr → Hgr) : (onHgr s g).host = s.host := rfl
@[simp] theorem onHgr_chn (g : Hgr → Hgr) : (onHgr s g).chn = s.chn := rfl
@[simp] theorem onHgr_asy (g : Hgr → Hgr) : (onHgr s g).asy = s.asy := rfl
@[simp] theorem onHgr_lnk (g : Hgr → Hgr) : (onHgr s g).lnk = s.lnk := rfl
@[simp] theorem onHgr_design (g : Hgr → Hgr) : (onHgr s g).design = s.design := rfl
@[simp] theorem onHgr_hbm (g : Hgr → Hgr) : (onHgr s g).hbm = s.hbm := rfl
@[simp] theorem onHgr_clk (g : Hgr → Hgr) : (onHgr s g).clk = s.clk := rfl
@[simp] theorem onHgr_net (g : Hgr → Hgr) : (onHgr s g).net = s.net := rfl
@[simp] theorem onHgr_sec (g : Hgr → Hgr) : (onHgr s g).sec = s.sec := rfl
@[simp] theorem onHgr_ctl (g : Hgr → Hgr) : (onHgr s g).ctl = s.ctl := rfl
@[simp] theorem onHgr_trc (g : Hgr → Hgr) : (onHgr s g).trc = s.trc := rfl
@[simp] theorem onHgr_ldr (g : Hgr → Hgr) : (onHgr s g).ldr = s.ldr := rfl
@[simp] theorem onHgr_boot (g : Hgr → Hgr) : (onHgr s g).boot = s.boot := rfl
@[simp] theorem onHgr_outs (g : Hgr → Hgr) : (onHgr s g).outs = s.outs := rfl
@[simp] theorem onHgr_draws (g : Hgr → Hgr) : (onHgr s g).draws = s.draws := rfl
@[simp] theorem onHgr_pending (g : Hgr → Hgr) : (onHgr s g).pending = s.pending := rfl
@[simp] theorem getF_onHgr (f : Fld) (g : Hgr → Hgr) : getF (onHgr s g) f = getF s f := rfl
@[simp] theorem getB_onHgr (f : Fld) (g : Hgr → Hgr) : getB (onHgr s g) f = getB s f := rfl

@[simp] theorem onLnk_chip (g : Lnk → Lnk) : (onLnk s g).chip = s.chip := rfl
@[simp] theorem onLnk_regs (g : Lnk → Lnk) : (onLnk s g).regs = s.regs := rfl
@[simp] theorem onLnk_capHi (g : Lnk → Lnk) : (onLnk s g).capHi = s.capHi := rfl
@[simp] theorem onLnk_dies (g : Lnk → Lnk) : (onLnk s g).dies = s.dies := rfl
@[simp] theorem onLnk_holds (g : Lnk → Lnk) : (onLnk s g).holds = s.holds := rfl
@[simp] theorem onLnk_mem (g : Lnk → Lnk) : (onLnk s g).mem = s.mem := rfl
@[simp] theorem onLnk_run (g : Lnk → Lnk) : (onLnk s g).run = s.run := rfl
@[simp] theorem onLnk_ingot (g : Lnk → Lnk) : (onLnk s g).ingot = s.ingot := rfl
@[simp] theorem onLnk_iso (g : Lnk → Lnk) : (onLnk s g).iso = s.iso := rfl
@[simp] theorem onLnk_tileBytes (g : Lnk → Lnk) : (onLnk s g).tileBytes = s.tileBytes := rfl
@[simp] theorem onLnk_host (g : Lnk → Lnk) : (onLnk s g).host = s.host := rfl
@[simp] theorem onLnk_chn (g : Lnk → Lnk) : (onLnk s g).chn = s.chn := rfl
@[simp] theorem onLnk_asy (g : Lnk → Lnk) : (onLnk s g).asy = s.asy := rfl
@[simp] theorem onLnk_hgr (g : Lnk → Lnk) : (onLnk s g).hgr = s.hgr := rfl
@[simp] theorem onLnk_design (g : Lnk → Lnk) : (onLnk s g).design = s.design := rfl
@[simp] theorem onLnk_hbm (g : Lnk → Lnk) : (onLnk s g).hbm = s.hbm := rfl
@[simp] theorem onLnk_clk (g : Lnk → Lnk) : (onLnk s g).clk = s.clk := rfl
@[simp] theorem onLnk_net (g : Lnk → Lnk) : (onLnk s g).net = s.net := rfl
@[simp] theorem onLnk_sec (g : Lnk → Lnk) : (onLnk s g).sec = s.sec := rfl
@[simp] theorem onLnk_ctl (g : Lnk → Lnk) : (onLnk s g).ctl = s.ctl := rfl
@[simp] theorem onLnk_trc (g : Lnk → Lnk) : (onLnk s g).trc = s.trc := rfl
@[simp] theorem onLnk_ldr (g : Lnk → Lnk) : (onLnk s g).ldr = s.ldr := rfl
@[simp] theorem onLnk_boot (g : Lnk → Lnk) : (onLnk s g).boot = s.boot := rfl
@[simp] theorem onLnk_outs (g : Lnk → Lnk) : (onLnk s g).outs = s.outs := rfl
@[simp] theorem onLnk_draws (g : Lnk → Lnk) : (onLnk s g).draws = s.draws := rfl
@[simp] theorem onLnk_pending (g : Lnk → Lnk) : (onLnk s g).pending = s.pending := rfl
@[simp] theorem getF_onLnk (f : Fld) (g : Lnk → Lnk) : getF (onLnk s g) f = getF s f := rfl
@[simp] theorem getB_onLnk (f : Fld) (g : Lnk → Lnk) : getB (onLnk s g) f = getB s f := rfl

@[simp] theorem onDesign_chip (g : DesignHost → DesignHost) : (onDesign s g).chip = s.chip := rfl
@[simp] theorem onDesign_regs (g : DesignHost → DesignHost) : (onDesign s g).regs = s.regs := rfl
@[simp] theorem onDesign_capHi (g : DesignHost → DesignHost) : (onDesign s g).capHi = s.capHi := rfl
@[simp] theorem onDesign_dies (g : DesignHost → DesignHost) : (onDesign s g).dies = s.dies := rfl
@[simp] theorem onDesign_holds (g : DesignHost → DesignHost) : (onDesign s g).holds = s.holds := rfl
@[simp] theorem onDesign_mem (g : DesignHost → DesignHost) : (onDesign s g).mem = s.mem := rfl
@[simp] theorem onDesign_run (g : DesignHost → DesignHost) : (onDesign s g).run = s.run := rfl
@[simp] theorem onDesign_ingot (g : DesignHost → DesignHost) : (onDesign s g).ingot = s.ingot := rfl
@[simp] theorem onDesign_iso (g : DesignHost → DesignHost) : (onDesign s g).iso = s.iso := rfl
@[simp] theorem onDesign_tileBytes (g : DesignHost → DesignHost) : (onDesign s g).tileBytes = s.tileBytes := rfl
@[simp] theorem onDesign_host (g : DesignHost → DesignHost) : (onDesign s g).host = s.host := rfl
@[simp] theorem onDesign_chn (g : DesignHost → DesignHost) : (onDesign s g).chn = s.chn := rfl
@[simp] theorem onDesign_asy (g : DesignHost → DesignHost) : (onDesign s g).asy = s.asy := rfl
@[simp] theorem onDesign_hgr (g : DesignHost → DesignHost) : (onDesign s g).hgr = s.hgr := rfl
@[simp] theorem onDesign_lnk (g : DesignHost → DesignHost) : (onDesign s g).lnk = s.lnk := rfl
@[simp] theorem onDesign_hbm (g : DesignHost → DesignHost) : (onDesign s g).hbm = s.hbm := rfl
@[simp] theorem onDesign_clk (g : DesignHost → DesignHost) : (onDesign s g).clk = s.clk := rfl
@[simp] theorem onDesign_net (g : DesignHost → DesignHost) : (onDesign s g).net = s.net := rfl
@[simp] theorem onDesign_sec (g : DesignHost → DesignHost) : (onDesign s g).sec = s.sec := rfl
@[simp] theorem onDesign_ctl (g : DesignHost → DesignHost) : (onDesign s g).ctl = s.ctl := rfl
@[simp] theorem onDesign_trc (g : DesignHost → DesignHost) : (onDesign s g).trc = s.trc := rfl
@[simp] theorem onDesign_ldr (g : DesignHost → DesignHost) : (onDesign s g).ldr = s.ldr := rfl
@[simp] theorem onDesign_boot (g : DesignHost → DesignHost) : (onDesign s g).boot = s.boot := rfl
@[simp] theorem onDesign_outs (g : DesignHost → DesignHost) : (onDesign s g).outs = s.outs := rfl
@[simp] theorem onDesign_draws (g : DesignHost → DesignHost) : (onDesign s g).draws = s.draws := rfl
@[simp] theorem onDesign_pending (g : DesignHost → DesignHost) : (onDesign s g).pending = s.pending := rfl
@[simp] theorem getF_onDesign (f : Fld) (g : DesignHost → DesignHost) : getF (onDesign s g) f = getF s f := rfl
@[simp] theorem getB_onDesign (f : Fld) (g : DesignHost → DesignHost) : getB (onDesign s g) f = getB s f := rfl

@[simp] theorem onHbm_chip (g : HbmSt → HbmSt) : (onHbm s g).chip = s.chip := rfl
@[simp] theorem onHbm_regs (g : HbmSt → HbmSt) : (onHbm s g).regs = s.regs := rfl
@[simp] theorem onHbm_capHi (g : HbmSt → HbmSt) : (onHbm s g).capHi = s.capHi := rfl
@[simp] theorem onHbm_dies (g : HbmSt → HbmSt) : (onHbm s g).dies = s.dies := rfl
@[simp] theorem onHbm_holds (g : HbmSt → HbmSt) : (onHbm s g).holds = s.holds := rfl
@[simp] theorem onHbm_mem (g : HbmSt → HbmSt) : (onHbm s g).mem = s.mem := rfl
@[simp] theorem onHbm_run (g : HbmSt → HbmSt) : (onHbm s g).run = s.run := rfl
@[simp] theorem onHbm_ingot (g : HbmSt → HbmSt) : (onHbm s g).ingot = s.ingot := rfl
@[simp] theorem onHbm_iso (g : HbmSt → HbmSt) : (onHbm s g).iso = s.iso := rfl
@[simp] theorem onHbm_tileBytes (g : HbmSt → HbmSt) : (onHbm s g).tileBytes = s.tileBytes := rfl
@[simp] theorem onHbm_host (g : HbmSt → HbmSt) : (onHbm s g).host = s.host := rfl
@[simp] theorem onHbm_chn (g : HbmSt → HbmSt) : (onHbm s g).chn = s.chn := rfl
@[simp] theorem onHbm_asy (g : HbmSt → HbmSt) : (onHbm s g).asy = s.asy := rfl
@[simp] theorem onHbm_hgr (g : HbmSt → HbmSt) : (onHbm s g).hgr = s.hgr := rfl
@[simp] theorem onHbm_lnk (g : HbmSt → HbmSt) : (onHbm s g).lnk = s.lnk := rfl
@[simp] theorem onHbm_design (g : HbmSt → HbmSt) : (onHbm s g).design = s.design := rfl
@[simp] theorem onHbm_clk (g : HbmSt → HbmSt) : (onHbm s g).clk = s.clk := rfl
@[simp] theorem onHbm_net (g : HbmSt → HbmSt) : (onHbm s g).net = s.net := rfl
@[simp] theorem onHbm_sec (g : HbmSt → HbmSt) : (onHbm s g).sec = s.sec := rfl
@[simp] theorem onHbm_ctl (g : HbmSt → HbmSt) : (onHbm s g).ctl = s.ctl := rfl
@[simp] theorem onHbm_trc (g : HbmSt → HbmSt) : (onHbm s g).trc = s.trc := rfl
@[simp] theorem onHbm_ldr (g : HbmSt → HbmSt) : (onHbm s g).ldr = s.ldr := rfl
@[simp] theorem onHbm_boot (g : HbmSt → HbmSt) : (onHbm s g).boot = s.boot := rfl
@[simp] theorem onHbm_outs (g : HbmSt → HbmSt) : (onHbm s g).outs = s.outs := rfl
@[simp] theorem onHbm_draws (g : HbmSt → HbmSt) : (onHbm s g).draws = s.draws := rfl
@[simp] theorem onHbm_pending (g : HbmSt → HbmSt) : (onHbm s g).pending = s.pending := rfl
@[simp] theorem getF_onHbm (f : Fld) (g : HbmSt → HbmSt) : getF (onHbm s g) f = getF s f := rfl
@[simp] theorem getB_onHbm (f : Fld) (g : HbmSt → HbmSt) : getB (onHbm s g) f = getB s f := rfl

@[simp] theorem onClk_chip (g : ClkSt → ClkSt) : (onClk s g).chip = s.chip := rfl
@[simp] theorem onClk_regs (g : ClkSt → ClkSt) : (onClk s g).regs = s.regs := rfl
@[simp] theorem onClk_capHi (g : ClkSt → ClkSt) : (onClk s g).capHi = s.capHi := rfl
@[simp] theorem onClk_dies (g : ClkSt → ClkSt) : (onClk s g).dies = s.dies := rfl
@[simp] theorem onClk_holds (g : ClkSt → ClkSt) : (onClk s g).holds = s.holds := rfl
@[simp] theorem onClk_mem (g : ClkSt → ClkSt) : (onClk s g).mem = s.mem := rfl
@[simp] theorem onClk_run (g : ClkSt → ClkSt) : (onClk s g).run = s.run := rfl
@[simp] theorem onClk_ingot (g : ClkSt → ClkSt) : (onClk s g).ingot = s.ingot := rfl
@[simp] theorem onClk_iso (g : ClkSt → ClkSt) : (onClk s g).iso = s.iso := rfl
@[simp] theorem onClk_tileBytes (g : ClkSt → ClkSt) : (onClk s g).tileBytes = s.tileBytes := rfl
@[simp] theorem onClk_host (g : ClkSt → ClkSt) : (onClk s g).host = s.host := rfl
@[simp] theorem onClk_chn (g : ClkSt → ClkSt) : (onClk s g).chn = s.chn := rfl
@[simp] theorem onClk_asy (g : ClkSt → ClkSt) : (onClk s g).asy = s.asy := rfl
@[simp] theorem onClk_hgr (g : ClkSt → ClkSt) : (onClk s g).hgr = s.hgr := rfl
@[simp] theorem onClk_lnk (g : ClkSt → ClkSt) : (onClk s g).lnk = s.lnk := rfl
@[simp] theorem onClk_design (g : ClkSt → ClkSt) : (onClk s g).design = s.design := rfl
@[simp] theorem onClk_hbm (g : ClkSt → ClkSt) : (onClk s g).hbm = s.hbm := rfl
@[simp] theorem onClk_net (g : ClkSt → ClkSt) : (onClk s g).net = s.net := rfl
@[simp] theorem onClk_sec (g : ClkSt → ClkSt) : (onClk s g).sec = s.sec := rfl
@[simp] theorem onClk_ctl (g : ClkSt → ClkSt) : (onClk s g).ctl = s.ctl := rfl
@[simp] theorem onClk_trc (g : ClkSt → ClkSt) : (onClk s g).trc = s.trc := rfl
@[simp] theorem onClk_ldr (g : ClkSt → ClkSt) : (onClk s g).ldr = s.ldr := rfl
@[simp] theorem onClk_boot (g : ClkSt → ClkSt) : (onClk s g).boot = s.boot := rfl
@[simp] theorem onClk_outs (g : ClkSt → ClkSt) : (onClk s g).outs = s.outs := rfl
@[simp] theorem onClk_draws (g : ClkSt → ClkSt) : (onClk s g).draws = s.draws := rfl
@[simp] theorem onClk_pending (g : ClkSt → ClkSt) : (onClk s g).pending = s.pending := rfl
@[simp] theorem getF_onClk (f : Fld) (g : ClkSt → ClkSt) : getF (onClk s g) f = getF s f := rfl
@[simp] theorem getB_onClk (f : Fld) (g : ClkSt → ClkSt) : getB (onClk s g) f = getB s f := rfl

@[simp] theorem onNet_chip (g : Net → Net) : (onNet s g).chip = s.chip := rfl
@[simp] theorem onNet_regs (g : Net → Net) : (onNet s g).regs = s.regs := rfl
@[simp] theorem onNet_capHi (g : Net → Net) : (onNet s g).capHi = s.capHi := rfl
@[simp] theorem onNet_dies (g : Net → Net) : (onNet s g).dies = s.dies := rfl
@[simp] theorem onNet_holds (g : Net → Net) : (onNet s g).holds = s.holds := rfl
@[simp] theorem onNet_mem (g : Net → Net) : (onNet s g).mem = s.mem := rfl
@[simp] theorem onNet_run (g : Net → Net) : (onNet s g).run = s.run := rfl
@[simp] theorem onNet_ingot (g : Net → Net) : (onNet s g).ingot = s.ingot := rfl
@[simp] theorem onNet_iso (g : Net → Net) : (onNet s g).iso = s.iso := rfl
@[simp] theorem onNet_tileBytes (g : Net → Net) : (onNet s g).tileBytes = s.tileBytes := rfl
@[simp] theorem onNet_host (g : Net → Net) : (onNet s g).host = s.host := rfl
@[simp] theorem onNet_chn (g : Net → Net) : (onNet s g).chn = s.chn := rfl
@[simp] theorem onNet_asy (g : Net → Net) : (onNet s g).asy = s.asy := rfl
@[simp] theorem onNet_hgr (g : Net → Net) : (onNet s g).hgr = s.hgr := rfl
@[simp] theorem onNet_lnk (g : Net → Net) : (onNet s g).lnk = s.lnk := rfl
@[simp] theorem onNet_design (g : Net → Net) : (onNet s g).design = s.design := rfl
@[simp] theorem onNet_hbm (g : Net → Net) : (onNet s g).hbm = s.hbm := rfl
@[simp] theorem onNet_clk (g : Net → Net) : (onNet s g).clk = s.clk := rfl
@[simp] theorem onNet_sec (g : Net → Net) : (onNet s g).sec = s.sec := rfl
@[simp] theorem onNet_ctl (g : Net → Net) : (onNet s g).ctl = s.ctl := rfl
@[simp] theorem onNet_trc (g : Net → Net) : (onNet s g).trc = s.trc := rfl
@[simp] theorem onNet_ldr (g : Net → Net) : (onNet s g).ldr = s.ldr := rfl
@[simp] theorem onNet_boot (g : Net → Net) : (onNet s g).boot = s.boot := rfl
@[simp] theorem onNet_outs (g : Net → Net) : (onNet s g).outs = s.outs := rfl
@[simp] theorem onNet_draws (g : Net → Net) : (onNet s g).draws = s.draws := rfl
@[simp] theorem onNet_pending (g : Net → Net) : (onNet s g).pending = s.pending := rfl
@[simp] theorem getF_onNet (f : Fld) (g : Net → Net) : getF (onNet s g) f = getF s f := rfl
@[simp] theorem getB_onNet (f : Fld) (g : Net → Net) : getB (onNet s g) f = getB s f := rfl

@[simp] theorem onSec_chip (g : Sec → Sec) : (onSec s g).chip = s.chip := rfl
@[simp] theorem onSec_regs (g : Sec → Sec) : (onSec s g).regs = s.regs := rfl
@[simp] theorem onSec_capHi (g : Sec → Sec) : (onSec s g).capHi = s.capHi := rfl
@[simp] theorem onSec_dies (g : Sec → Sec) : (onSec s g).dies = s.dies := rfl
@[simp] theorem onSec_holds (g : Sec → Sec) : (onSec s g).holds = s.holds := rfl
@[simp] theorem onSec_mem (g : Sec → Sec) : (onSec s g).mem = s.mem := rfl
@[simp] theorem onSec_run (g : Sec → Sec) : (onSec s g).run = s.run := rfl
@[simp] theorem onSec_ingot (g : Sec → Sec) : (onSec s g).ingot = s.ingot := rfl
@[simp] theorem onSec_iso (g : Sec → Sec) : (onSec s g).iso = s.iso := rfl
@[simp] theorem onSec_tileBytes (g : Sec → Sec) : (onSec s g).tileBytes = s.tileBytes := rfl
@[simp] theorem onSec_host (g : Sec → Sec) : (onSec s g).host = s.host := rfl
@[simp] theorem onSec_chn (g : Sec → Sec) : (onSec s g).chn = s.chn := rfl
@[simp] theorem onSec_asy (g : Sec → Sec) : (onSec s g).asy = s.asy := rfl
@[simp] theorem onSec_hgr (g : Sec → Sec) : (onSec s g).hgr = s.hgr := rfl
@[simp] theorem onSec_lnk (g : Sec → Sec) : (onSec s g).lnk = s.lnk := rfl
@[simp] theorem onSec_design (g : Sec → Sec) : (onSec s g).design = s.design := rfl
@[simp] theorem onSec_hbm (g : Sec → Sec) : (onSec s g).hbm = s.hbm := rfl
@[simp] theorem onSec_clk (g : Sec → Sec) : (onSec s g).clk = s.clk := rfl
@[simp] theorem onSec_net (g : Sec → Sec) : (onSec s g).net = s.net := rfl
@[simp] theorem onSec_ctl (g : Sec → Sec) : (onSec s g).ctl = s.ctl := rfl
@[simp] theorem onSec_trc (g : Sec → Sec) : (onSec s g).trc = s.trc := rfl
@[simp] theorem onSec_ldr (g : Sec → Sec) : (onSec s g).ldr = s.ldr := rfl
@[simp] theorem onSec_boot (g : Sec → Sec) : (onSec s g).boot = s.boot := rfl
@[simp] theorem onSec_outs (g : Sec → Sec) : (onSec s g).outs = s.outs := rfl
@[simp] theorem onSec_draws (g : Sec → Sec) : (onSec s g).draws = s.draws := rfl
@[simp] theorem onSec_pending (g : Sec → Sec) : (onSec s g).pending = s.pending := rfl
@[simp] theorem getF_onSec (f : Fld) (g : Sec → Sec) : getF (onSec s g) f = getF s f := rfl
@[simp] theorem getB_onSec (f : Fld) (g : Sec → Sec) : getB (onSec s g) f = getB s f := rfl

@[simp] theorem onCtl_chip (g : Ctl → Ctl) : (onCtl s g).chip = s.chip := rfl
@[simp] theorem onCtl_regs (g : Ctl → Ctl) : (onCtl s g).regs = s.regs := rfl
@[simp] theorem onCtl_capHi (g : Ctl → Ctl) : (onCtl s g).capHi = s.capHi := rfl
@[simp] theorem onCtl_dies (g : Ctl → Ctl) : (onCtl s g).dies = s.dies := rfl
@[simp] theorem onCtl_holds (g : Ctl → Ctl) : (onCtl s g).holds = s.holds := rfl
@[simp] theorem onCtl_mem (g : Ctl → Ctl) : (onCtl s g).mem = s.mem := rfl
@[simp] theorem onCtl_run (g : Ctl → Ctl) : (onCtl s g).run = s.run := rfl
@[simp] theorem onCtl_ingot (g : Ctl → Ctl) : (onCtl s g).ingot = s.ingot := rfl
@[simp] theorem onCtl_iso (g : Ctl → Ctl) : (onCtl s g).iso = s.iso := rfl
@[simp] theorem onCtl_tileBytes (g : Ctl → Ctl) : (onCtl s g).tileBytes = s.tileBytes := rfl
@[simp] theorem onCtl_host (g : Ctl → Ctl) : (onCtl s g).host = s.host := rfl
@[simp] theorem onCtl_chn (g : Ctl → Ctl) : (onCtl s g).chn = s.chn := rfl
@[simp] theorem onCtl_asy (g : Ctl → Ctl) : (onCtl s g).asy = s.asy := rfl
@[simp] theorem onCtl_hgr (g : Ctl → Ctl) : (onCtl s g).hgr = s.hgr := rfl
@[simp] theorem onCtl_lnk (g : Ctl → Ctl) : (onCtl s g).lnk = s.lnk := rfl
@[simp] theorem onCtl_design (g : Ctl → Ctl) : (onCtl s g).design = s.design := rfl
@[simp] theorem onCtl_hbm (g : Ctl → Ctl) : (onCtl s g).hbm = s.hbm := rfl
@[simp] theorem onCtl_clk (g : Ctl → Ctl) : (onCtl s g).clk = s.clk := rfl
@[simp] theorem onCtl_net (g : Ctl → Ctl) : (onCtl s g).net = s.net := rfl
@[simp] theorem onCtl_sec (g : Ctl → Ctl) : (onCtl s g).sec = s.sec := rfl
@[simp] theorem onCtl_trc (g : Ctl → Ctl) : (onCtl s g).trc = s.trc := rfl
@[simp] theorem onCtl_ldr (g : Ctl → Ctl) : (onCtl s g).ldr = s.ldr := rfl
@[simp] theorem onCtl_boot (g : Ctl → Ctl) : (onCtl s g).boot = s.boot := rfl
@[simp] theorem onCtl_outs (g : Ctl → Ctl) : (onCtl s g).outs = s.outs := rfl
@[simp] theorem onCtl_draws (g : Ctl → Ctl) : (onCtl s g).draws = s.draws := rfl
@[simp] theorem onCtl_pending (g : Ctl → Ctl) : (onCtl s g).pending = s.pending := rfl
@[simp] theorem getF_onCtl (f : Fld) (g : Ctl → Ctl) : getF (onCtl s g) f = getF s f := rfl
@[simp] theorem getB_onCtl (f : Fld) (g : Ctl → Ctl) : getB (onCtl s g) f = getB s f := rfl

@[simp] theorem onTrc_chip (i : Nat) (g : TrcSrc → TrcSrc) : (onTrc s i g).chip = s.chip := rfl
@[simp] theorem onTrc_regs (i : Nat) (g : TrcSrc → TrcSrc) : (onTrc s i g).regs = s.regs := rfl
@[simp] theorem onTrc_capHi (i : Nat) (g : TrcSrc → TrcSrc) : (onTrc s i g).capHi = s.capHi := rfl
@[simp] theorem onTrc_dies (i : Nat) (g : TrcSrc → TrcSrc) : (onTrc s i g).dies = s.dies := rfl
@[simp] theorem onTrc_holds (i : Nat) (g : TrcSrc → TrcSrc) : (onTrc s i g).holds = s.holds := rfl
@[simp] theorem onTrc_mem (i : Nat) (g : TrcSrc → TrcSrc) : (onTrc s i g).mem = s.mem := rfl
@[simp] theorem onTrc_run (i : Nat) (g : TrcSrc → TrcSrc) : (onTrc s i g).run = s.run := rfl
@[simp] theorem onTrc_ingot (i : Nat) (g : TrcSrc → TrcSrc) : (onTrc s i g).ingot = s.ingot := rfl
@[simp] theorem onTrc_iso (i : Nat) (g : TrcSrc → TrcSrc) : (onTrc s i g).iso = s.iso := rfl
@[simp] theorem onTrc_tileBytes (i : Nat) (g : TrcSrc → TrcSrc) : (onTrc s i g).tileBytes = s.tileBytes := rfl
@[simp] theorem onTrc_host (i : Nat) (g : TrcSrc → TrcSrc) : (onTrc s i g).host = s.host := rfl
@[simp] theorem onTrc_chn (i : Nat) (g : TrcSrc → TrcSrc) : (onTrc s i g).chn = s.chn := rfl
@[simp] theorem onTrc_asy (i : Nat) (g : TrcSrc → TrcSrc) : (onTrc s i g).asy = s.asy := rfl
@[simp] theorem onTrc_hgr (i : Nat) (g : TrcSrc → TrcSrc) : (onTrc s i g).hgr = s.hgr := rfl
@[simp] theorem onTrc_lnk (i : Nat) (g : TrcSrc → TrcSrc) : (onTrc s i g).lnk = s.lnk := rfl
@[simp] theorem onTrc_design (i : Nat) (g : TrcSrc → TrcSrc) : (onTrc s i g).design = s.design := rfl
@[simp] theorem onTrc_hbm (i : Nat) (g : TrcSrc → TrcSrc) : (onTrc s i g).hbm = s.hbm := rfl
@[simp] theorem onTrc_clk (i : Nat) (g : TrcSrc → TrcSrc) : (onTrc s i g).clk = s.clk := rfl
@[simp] theorem onTrc_net (i : Nat) (g : TrcSrc → TrcSrc) : (onTrc s i g).net = s.net := rfl
@[simp] theorem onTrc_sec (i : Nat) (g : TrcSrc → TrcSrc) : (onTrc s i g).sec = s.sec := rfl
@[simp] theorem onTrc_ctl (i : Nat) (g : TrcSrc → TrcSrc) : (onTrc s i g).ctl = s.ctl := rfl
@[simp] theorem onTrc_ldr (i : Nat) (g : TrcSrc → TrcSrc) : (onTrc s i g).ldr = s.ldr := rfl
@[simp] theorem onTrc_boot (i : Nat) (g : TrcSrc → TrcSrc) : (onTrc s i g).boot = s.boot := rfl
@[simp] theorem onTrc_outs (i : Nat) (g : TrcSrc → TrcSrc) : (onTrc s i g).outs = s.outs := rfl
@[simp] theorem onTrc_draws (i : Nat) (g : TrcSrc → TrcSrc) : (onTrc s i g).draws = s.draws := rfl
@[simp] theorem onTrc_pending (i : Nat) (g : TrcSrc → TrcSrc) : (onTrc s i g).pending = s.pending := rfl
@[simp] theorem getF_onTrc (f : Fld) (i : Nat) (g : TrcSrc → TrcSrc) : getF (onTrc s i g) f = getF s f := rfl
@[simp] theorem getB_onTrc (f : Fld) (i : Nat) (g : TrcSrc → TrcSrc) : getB (onTrc s i g) f = getB s f := rfl

@[simp] theorem onLdr_chip (g : Ldr → Ldr) : (onLdr s g).chip = s.chip := rfl
@[simp] theorem onLdr_regs (g : Ldr → Ldr) : (onLdr s g).regs = s.regs := rfl
@[simp] theorem onLdr_capHi (g : Ldr → Ldr) : (onLdr s g).capHi = s.capHi := rfl
@[simp] theorem onLdr_dies (g : Ldr → Ldr) : (onLdr s g).dies = s.dies := rfl
@[simp] theorem onLdr_holds (g : Ldr → Ldr) : (onLdr s g).holds = s.holds := rfl
@[simp] theorem onLdr_mem (g : Ldr → Ldr) : (onLdr s g).mem = s.mem := rfl
@[simp] theorem onLdr_run (g : Ldr → Ldr) : (onLdr s g).run = s.run := rfl
@[simp] theorem onLdr_ingot (g : Ldr → Ldr) : (onLdr s g).ingot = s.ingot := rfl
@[simp] theorem onLdr_iso (g : Ldr → Ldr) : (onLdr s g).iso = s.iso := rfl
@[simp] theorem onLdr_tileBytes (g : Ldr → Ldr) : (onLdr s g).tileBytes = s.tileBytes := rfl
@[simp] theorem onLdr_host (g : Ldr → Ldr) : (onLdr s g).host = s.host := rfl
@[simp] theorem onLdr_chn (g : Ldr → Ldr) : (onLdr s g).chn = s.chn := rfl
@[simp] theorem onLdr_asy (g : Ldr → Ldr) : (onLdr s g).asy = s.asy := rfl
@[simp] theorem onLdr_hgr (g : Ldr → Ldr) : (onLdr s g).hgr = s.hgr := rfl
@[simp] theorem onLdr_lnk (g : Ldr → Ldr) : (onLdr s g).lnk = s.lnk := rfl
@[simp] theorem onLdr_design (g : Ldr → Ldr) : (onLdr s g).design = s.design := rfl
@[simp] theorem onLdr_hbm (g : Ldr → Ldr) : (onLdr s g).hbm = s.hbm := rfl
@[simp] theorem onLdr_clk (g : Ldr → Ldr) : (onLdr s g).clk = s.clk := rfl
@[simp] theorem onLdr_net (g : Ldr → Ldr) : (onLdr s g).net = s.net := rfl
@[simp] theorem onLdr_sec (g : Ldr → Ldr) : (onLdr s g).sec = s.sec := rfl
@[simp] theorem onLdr_ctl (g : Ldr → Ldr) : (onLdr s g).ctl = s.ctl := rfl
@[simp] theorem onLdr_trc (g : Ldr → Ldr) : (onLdr s g).trc = s.trc := rfl
@[simp] theorem onLdr_boot (g : Ldr → Ldr) : (onLdr s g).boot = s.boot := rfl
@[simp] theorem onLdr_outs (g : Ldr → Ldr) : (onLdr s g).outs = s.outs := rfl
@[simp] theorem onLdr_draws (g : Ldr → Ldr) : (onLdr s g).draws = s.draws := rfl
@[simp] theorem onLdr_pending (g : Ldr → Ldr) : (onLdr s g).pending = s.pending := rfl
@[simp] theorem getF_onLdr (f : Fld) (g : Ldr → Ldr) : getF (onLdr s g) f = getF s f := rfl
@[simp] theorem getB_onLdr (f : Fld) (g : Ldr → Ldr) : getB (onLdr s g) f = getB s f := rfl

@[simp] theorem emit_chip (o : Out) : (emit s o).chip = s.chip := rfl
@[simp] theorem emit_regs (o : Out) : (emit s o).regs = s.regs := rfl
@[simp] theorem emit_capHi (o : Out) : (emit s o).capHi = s.capHi := rfl
@[simp] theorem emit_dies (o : Out) : (emit s o).dies = s.dies := rfl
@[simp] theorem emit_holds (o : Out) : (emit s o).holds = s.holds := rfl
@[simp] theorem emit_mem (o : Out) : (emit s o).mem = s.mem := rfl
@[simp] theorem emit_run (o : Out) : (emit s o).run = s.run := rfl
@[simp] theorem emit_ingot (o : Out) : (emit s o).ingot = s.ingot := rfl
@[simp] theorem emit_iso (o : Out) : (emit s o).iso = s.iso := rfl
@[simp] theorem emit_tileBytes (o : Out) : (emit s o).tileBytes = s.tileBytes := rfl
@[simp] theorem emit_host (o : Out) : (emit s o).host = s.host := rfl
@[simp] theorem emit_chn (o : Out) : (emit s o).chn = s.chn := rfl
@[simp] theorem emit_asy (o : Out) : (emit s o).asy = s.asy := rfl
@[simp] theorem emit_hgr (o : Out) : (emit s o).hgr = s.hgr := rfl
@[simp] theorem emit_lnk (o : Out) : (emit s o).lnk = s.lnk := rfl
@[simp] theorem emit_design (o : Out) : (emit s o).design = s.design := rfl
@[simp] theorem emit_hbm (o : Out) : (emit s o).hbm = s.hbm := rfl
@[simp] theorem emit_clk (o : Out) : (emit s o).clk = s.clk := rfl
@[simp] theorem emit_net (o : Out) : (emit s o).net = s.net := rfl
@[simp] theorem emit_sec (o : Out) : (emit s o).sec = s.sec := rfl
@[simp] theorem emit_ctl (o : Out) : (emit s o).ctl = s.ctl := rfl
@[simp] theorem emit_trc (o : Out) : (emit s o).trc = s.trc := rfl
@[simp] theorem emit_ldr (o : Out) : (emit s o).ldr = s.ldr := rfl
@[simp] theorem emit_boot (o : Out) : (emit s o).boot = s.boot := rfl
@[simp] theorem emit_draws (o : Out) : (emit s o).draws = s.draws := rfl
@[simp] theorem emit_pending (o : Out) : (emit s o).pending = s.pending := rfl
@[simp] theorem getF_emit (f : Fld) (o : Out) : getF (emit s o) f = getF s f := rfl
@[simp] theorem getB_emit (f : Fld) (o : Out) : getB (emit s o) f = getB s f := rfl

@[simp] theorem setSession_chip (i : Nat) (e : Session) : (setSession s i e).chip = s.chip := rfl
@[simp] theorem setSession_regs (i : Nat) (e : Session) : (setSession s i e).regs = s.regs := rfl
@[simp] theorem setSession_capHi (i : Nat) (e : Session) : (setSession s i e).capHi = s.capHi := rfl
@[simp] theorem setSession_dies (i : Nat) (e : Session) : (setSession s i e).dies = s.dies := rfl
@[simp] theorem setSession_holds (i : Nat) (e : Session) : (setSession s i e).holds = s.holds := rfl
@[simp] theorem setSession_mem (i : Nat) (e : Session) : (setSession s i e).mem = s.mem := rfl
@[simp] theorem setSession_run (i : Nat) (e : Session) : (setSession s i e).run = s.run := rfl
@[simp] theorem setSession_ingot (i : Nat) (e : Session) : (setSession s i e).ingot = s.ingot := rfl
@[simp] theorem setSession_iso (i : Nat) (e : Session) : (setSession s i e).iso = s.iso := rfl
@[simp] theorem setSession_tileBytes (i : Nat) (e : Session) : (setSession s i e).tileBytes = s.tileBytes := rfl
@[simp] theorem setSession_chn (i : Nat) (e : Session) : (setSession s i e).chn = s.chn := rfl
@[simp] theorem setSession_asy (i : Nat) (e : Session) : (setSession s i e).asy = s.asy := rfl
@[simp] theorem setSession_hgr (i : Nat) (e : Session) : (setSession s i e).hgr = s.hgr := rfl
@[simp] theorem setSession_lnk (i : Nat) (e : Session) : (setSession s i e).lnk = s.lnk := rfl
@[simp] theorem setSession_design (i : Nat) (e : Session) : (setSession s i e).design = s.design := rfl
@[simp] theorem setSession_hbm (i : Nat) (e : Session) : (setSession s i e).hbm = s.hbm := rfl
@[simp] theorem setSession_clk (i : Nat) (e : Session) : (setSession s i e).clk = s.clk := rfl
@[simp] theorem setSession_net (i : Nat) (e : Session) : (setSession s i e).net = s.net := rfl
@[simp] theorem setSession_sec (i : Nat) (e : Session) : (setSession s i e).sec = s.sec := rfl
@[simp] theorem setSession_ctl (i : Nat) (e : Session) : (setSession s i e).ctl = s.ctl := rfl
@[simp] theorem setSession_trc (i : Nat) (e : Session) : (setSession s i e).trc = s.trc := rfl
@[simp] theorem setSession_ldr (i : Nat) (e : Session) : (setSession s i e).ldr = s.ldr := rfl
@[simp] theorem setSession_boot (i : Nat) (e : Session) : (setSession s i e).boot = s.boot := rfl
@[simp] theorem setSession_outs (i : Nat) (e : Session) : (setSession s i e).outs = s.outs := rfl
@[simp] theorem setSession_draws (i : Nat) (e : Session) : (setSession s i e).draws = s.draws := rfl
@[simp] theorem setSession_pending (i : Nat) (e : Session) : (setSession s i e).pending = s.pending := rfl
@[simp] theorem getF_setSession (f : Fld) (i : Nat) (e : Session) : getF (setSession s i e) f = getF s f := rfl
@[simp] theorem getB_setSession (f : Fld) (i : Nat) (e : Session) : getB (setSession s i e) f = getB s f := rfl

@[simp] theorem bumpLive_chip (i n : Nat) (g : Nat → Nat) : (bumpLive s i n g).chip = s.chip := rfl
@[simp] theorem bumpLive_regs (i n : Nat) (g : Nat → Nat) : (bumpLive s i n g).regs = s.regs := rfl
@[simp] theorem bumpLive_capHi (i n : Nat) (g : Nat → Nat) : (bumpLive s i n g).capHi = s.capHi := rfl
@[simp] theorem bumpLive_dies (i n : Nat) (g : Nat → Nat) : (bumpLive s i n g).dies = s.dies := rfl
@[simp] theorem bumpLive_holds (i n : Nat) (g : Nat → Nat) : (bumpLive s i n g).holds = s.holds := rfl
@[simp] theorem bumpLive_mem (i n : Nat) (g : Nat → Nat) : (bumpLive s i n g).mem = s.mem := rfl
@[simp] theorem bumpLive_run (i n : Nat) (g : Nat → Nat) : (bumpLive s i n g).run = s.run := rfl
@[simp] theorem bumpLive_ingot (i n : Nat) (g : Nat → Nat) : (bumpLive s i n g).ingot = s.ingot := rfl
@[simp] theorem bumpLive_iso (i n : Nat) (g : Nat → Nat) : (bumpLive s i n g).iso = s.iso := rfl
@[simp] theorem bumpLive_tileBytes (i n : Nat) (g : Nat → Nat) : (bumpLive s i n g).tileBytes = s.tileBytes := rfl
@[simp] theorem bumpLive_chn (i n : Nat) (g : Nat → Nat) : (bumpLive s i n g).chn = s.chn := rfl
@[simp] theorem bumpLive_asy (i n : Nat) (g : Nat → Nat) : (bumpLive s i n g).asy = s.asy := rfl
@[simp] theorem bumpLive_hgr (i n : Nat) (g : Nat → Nat) : (bumpLive s i n g).hgr = s.hgr := rfl
@[simp] theorem bumpLive_lnk (i n : Nat) (g : Nat → Nat) : (bumpLive s i n g).lnk = s.lnk := rfl
@[simp] theorem bumpLive_design (i n : Nat) (g : Nat → Nat) : (bumpLive s i n g).design = s.design := rfl
@[simp] theorem bumpLive_hbm (i n : Nat) (g : Nat → Nat) : (bumpLive s i n g).hbm = s.hbm := rfl
@[simp] theorem bumpLive_clk (i n : Nat) (g : Nat → Nat) : (bumpLive s i n g).clk = s.clk := rfl
@[simp] theorem bumpLive_net (i n : Nat) (g : Nat → Nat) : (bumpLive s i n g).net = s.net := rfl
@[simp] theorem bumpLive_sec (i n : Nat) (g : Nat → Nat) : (bumpLive s i n g).sec = s.sec := rfl
@[simp] theorem bumpLive_ctl (i n : Nat) (g : Nat → Nat) : (bumpLive s i n g).ctl = s.ctl := rfl
@[simp] theorem bumpLive_trc (i n : Nat) (g : Nat → Nat) : (bumpLive s i n g).trc = s.trc := rfl
@[simp] theorem bumpLive_ldr (i n : Nat) (g : Nat → Nat) : (bumpLive s i n g).ldr = s.ldr := rfl
@[simp] theorem bumpLive_boot (i n : Nat) (g : Nat → Nat) : (bumpLive s i n g).boot = s.boot := rfl
@[simp] theorem bumpLive_outs (i n : Nat) (g : Nat → Nat) : (bumpLive s i n g).outs = s.outs := rfl
@[simp] theorem bumpLive_draws (i n : Nat) (g : Nat → Nat) : (bumpLive s i n g).draws = s.draws := rfl
@[simp] theorem bumpLive_pending (i n : Nat) (g : Nat → Nat) : (bumpLive s i n g).pending = s.pending := rfl
@[simp] theorem getF_bumpLive (f : Fld) (i n : Nat) (g : Nat → Nat) : getF (bumpLive s i n g) f = getF s f := rfl
@[simp] theorem getB_bumpLive (f : Fld) (i n : Nat) (g : Nat → Nat) : getB (bumpLive s i n g) f = getB s f := rfl

@[simp] theorem bumpStarted_chip (i n : Nat) (g : Nat → Nat) : (bumpStarted s i n g).chip = s.chip := rfl
@[simp] theorem bumpStarted_regs (i n : Nat) (g : Nat → Nat) : (bumpStarted s i n g).regs = s.regs := rfl
@[simp] theorem bumpStarted_capHi (i n : Nat) (g : Nat → Nat) : (bumpStarted s i n g).capHi = s.capHi := rfl
@[simp] theorem bumpStarted_dies (i n : Nat) (g : Nat → Nat) : (bumpStarted s i n g).dies = s.dies := rfl
@[simp] theorem bumpStarted_holds (i n : Nat) (g : Nat → Nat) : (bumpStarted s i n g).holds = s.holds := rfl
@[simp] theorem bumpStarted_mem (i n : Nat) (g : Nat → Nat) : (bumpStarted s i n g).mem = s.mem := rfl
@[simp] theorem bumpStarted_run (i n : Nat) (g : Nat → Nat) : (bumpStarted s i n g).run = s.run := rfl
@[simp] theorem bumpStarted_ingot (i n : Nat) (g : Nat → Nat) : (bumpStarted s i n g).ingot = s.ingot := rfl
@[simp] theorem bumpStarted_iso (i n : Nat) (g : Nat → Nat) : (bumpStarted s i n g).iso = s.iso := rfl
@[simp] theorem bumpStarted_tileBytes (i n : Nat) (g : Nat → Nat) : (bumpStarted s i n g).tileBytes = s.tileBytes := rfl
@[simp] theorem bumpStarted_chn (i n : Nat) (g : Nat → Nat) : (bumpStarted s i n g).chn = s.chn := rfl
@[simp] theorem bumpStarted_asy (i n : Nat) (g : Nat → Nat) : (bumpStarted s i n g).asy = s.asy := rfl
@[simp] theorem bumpStarted_hgr (i n : Nat) (g : Nat → Nat) : (bumpStarted s i n g).hgr = s.hgr := rfl
@[simp] theorem bumpStarted_lnk (i n : Nat) (g : Nat → Nat) : (bumpStarted s i n g).lnk = s.lnk := rfl
@[simp] theorem bumpStarted_design (i n : Nat) (g : Nat → Nat) : (bumpStarted s i n g).design = s.design := rfl
@[simp] theorem bumpStarted_hbm (i n : Nat) (g : Nat → Nat) : (bumpStarted s i n g).hbm = s.hbm := rfl
@[simp] theorem bumpStarted_clk (i n : Nat) (g : Nat → Nat) : (bumpStarted s i n g).clk = s.clk := rfl
@[simp] theorem bumpStarted_net (i n : Nat) (g : Nat → Nat) : (bumpStarted s i n g).net = s.net := rfl
@[simp] theorem bumpStarted_sec (i n : Nat) (g : Nat → Nat) : (bumpStarted s i n g).sec = s.sec := rfl
@[simp] theorem bumpStarted_ctl (i n : Nat) (g : Nat → Nat) : (bumpStarted s i n g).ctl = s.ctl := rfl
@[simp] theorem bumpStarted_trc (i n : Nat) (g : Nat → Nat) : (bumpStarted s i n g).trc = s.trc := rfl
@[simp] theorem bumpStarted_ldr (i n : Nat) (g : Nat → Nat) : (bumpStarted s i n g).ldr = s.ldr := rfl
@[simp] theorem bumpStarted_boot (i n : Nat) (g : Nat → Nat) : (bumpStarted s i n g).boot = s.boot := rfl
@[simp] theorem bumpStarted_outs (i n : Nat) (g : Nat → Nat) : (bumpStarted s i n g).outs = s.outs := rfl
@[simp] theorem bumpStarted_draws (i n : Nat) (g : Nat → Nat) : (bumpStarted s i n g).draws = s.draws := rfl
@[simp] theorem bumpStarted_pending (i n : Nat) (g : Nat → Nat) : (bumpStarted s i n g).pending = s.pending := rfl
@[simp] theorem getF_bumpStarted (f : Fld) (i n : Nat) (g : Nat → Nat) : getF (bumpStarted s i n g) f = getF s f := rfl
@[simp] theorem getB_bumpStarted (f : Fld) (i n : Nat) (g : Nat → Nat) : getB (bumpStarted s i n g) f = getB s f := rfl

end Sys2Proof.Machine
end

