-- ==== Sys2Proof/Laws/Units.lean ====
section
/-! SUPPORT. What a unit of the array does to the state: a unit that finds no fault and no late item has its writes wait for
the end of the step, and one that is not ready does nothing. -/

namespace Sys2Proof.Machine

/-- A unit that meets nothing amiss stages what it writes. -/
theorem takeOut_clean {s : State} {d : Fin 4} {o : UnitOut} (h1 : o.sf = none) (h2 : o.late = []) (h3 : o.faults = []) :
    Staged s (takeOut s d o) d o.stage := by
  unfold takeOut
  simp only [h1, h2, h3, noteFaults, ne_eq, not_true_eq_false, decide_false, Option.isSome_none, Bool.or_self,
    Bool.false_eq_true, if_false, if_true]
  refine ⟨?_, fun e h => ?_, fun f h => ?_, ?_⟩
  · exact onDie_die _ d _
  · exact onDie_other _ h _
  · rw [getF_onDie]
    exact getF_bumpF_other _ (h _ (by simp)) _
  · rfl

/-- A unit that is ready, and whose word is the one commanded, has its outcome taken. -/
theorem runUnit_ready {s : State} {d : Fin 4} {p key : Nat} {ok : Bool} {o : UnitOut} (h : UnitReady s d p key)
    (hok : ok = true) : runUnit s d p key ok o = takeOut s d o := by
  obtain ⟨h1, h2, h3⟩ := h
  simp [runUnit, h1, h2, h3, hok]

/-- A unit's outcome is nothing where the word that it fetches is another command's. -/
theorem runUnit_other {s : State} {d : Fin 4} {p key : Nat} {o : UnitOut} : runUnit s d p key false o = s := by
  simp [runUnit]

/-- An operand address of 13 bits is looked up as it stands. -/
theorem useRead_of_le {s : State} {d : Fin 4} {p n : Nat} {u : OpndUse} (h : u.addr ≤ 0x1FFF) :
    useRead s d p n u = readOpnd s d p n u.addr := by
  simp [useRead, Nat.not_lt.mpr h]

theorem bitsOf_le_13 (w lo : Nat) : bitsOf w lo 13 ≤ 0x1FFF := by
  have : w / 2 ^ lo % 2 ^ 13 < 2 ^ 13 := Nat.mod_lt _ (by decide)
  show w / 2 ^ lo % 2 ^ 13 ≤ _
  omega

end Sys2Proof.Machine
end

