-- ==== Sys2Proof/WellFormed.lean ====
section
/-! DEFINITION. Well-formed commands: operands whose parts agree with each other as the spec lays them out.  What the
types of the operands already bound is not repeated.  An ill-formed command names nothing that could happen to the
device; the machine does not refuse it, and no claim about it says anything of the hardware. -/

namespace Sys2Proof

/-- A binding block as a load request gives it (R276): none, or 264 bytes. -/
def bindingOk (b : List Byte) : Bool := b.length == 0 || b.length == 264

/-- Bytes by address, each address once, in rising order, and none of them `rest`. -/
def cellsOk (rest : Byte) (cs : List (Nat × Byte)) : Bool :=
  decide ((cs.map Prod.fst).Pairwise (· < ·)) && cs.all (fun c => c.2 != rest)

/-- An upset strikes a flit of the packet, at one of the six inputs of a router (R236). -/
def HopUpset.wellFormed (p : Packet) (u : HopUpset) : Bool := decide (u.flit ≤ p.payload.length) && decide (u.port.toNat < 6)

/-- A frame carries at most 120 items, or 30 words of 64 bits (R415, R416). -/
def LinkFrame.wellFormed (f : LinkFrame) : Bool := decide (f.items.length ≤ 120)

/-- The RAMs of the hub are reached by the host and the cores (R202, R520). -/
def ramPath : RegPath → Bool
  | .spi => false
  | _ => true

/-- The sizes of an atomic operation (R303, R522): a compare and swap of the host has 4, 8 or 16 bytes, an operation of a core 4
or 8. -/
def atomicSize : AtomicSite → Nat → Bool
  | .host _, n => n == 4 || n == 8 || n == 16
  | .core _ _, n => n == 4 || n == 8

/-- The parts of a command agree. -/
def Instr.wellFormed : Instr → Bool
  | .segment header ct tag =>
    header.length == 64 && ct.length % 16 == 0 && decide (16 ≤ ct.length) && decide (ct.length ≤ 65536) && tag.length == 16
  | .writeFrame _ data => data.length == 4096
  | .repeatFrame addrs => decide (1 ≤ addrs.length) && decide (addrs.length ≤ 4092)
  | .setRegion _ parent variant => parent.length == 48 && variant.length == 16
  | .pad count bytes => bytes.length == count.toNat
  | .image _ start _ binding => if start then binding.all bindingOk else binding == some []
  | .qspiSelfLoad flash _ => cellsOk 0xFF flash.cells
  | .restore _ source _ length held => source != 2 || held.all (fun bs => decide (bs.length ≤ length.toNat))
  | .designWrite _ _ length _ data => data.all (fun bs => bs.length == length.toNat)
  | .copyUnitGo _ src _ length hostData _ => src.toNat / 2 ^ 62 != 0 || hostData.length == length.toNat
  | .doorbellSweep cells _ lost => cellsOk 0 cells && decide lost.Nodup
  | .exchangeRamPortBWrite path _ _ => ramPath path
  | .exchangeRamPortBRead path _ _ _ => ramPath path
  | .scratchBankAccess site _ _ _ => ramPath site.path
  | .cas site access => atomicSize site access.size.val
  | .packetDelivery pkt way => way.upsets.all (HopUpset.wellFormed pkt)
  | .dataFrame _ f => f.wellFormed
  | .mgmtFrame _ f => f.frame.wellFormed && f.frame.items.length % 4 == 0
  | .linkStagePass _ finds => decide (finds.codes.length ≤ 17)
  | .cfgScrub upsets => decide upsets.Nodup
  | .userClockEdge _ inputs => decide inputs.pins.Nodup
  | _ => true

end Sys2Proof
end

