-- ==== Sys2Proof/Tests/Slice0.lean ====
section
/-! SUPPORT. Small tests: ill-formed commands that WellFormed rejects, and for the hypotheses of every statement a concrete
state that meets them, with a part of what the command then answers. -/

namespace Sys2Proof.Tests

open Sys2Proof Sys2Proof.Machine

set_option Elab.async false

/-- The state that a command answers. -/
def after (c : Instr) (s : State) : State :=
  match exec c s with
  | .next t => t
  | _ => s

/-- A state with some register fields written. -/
def put (s : State) (l : List (Fld × Nat)) : State := l.foldl (fun t e => setF t e.1 e.2) s

/-- A machine that runs cycles of 64 scheduled steps. -/
def running : State := put State.reset [(F.ARY_SCHEDULE_S, 64), (F.ARY_STATE_STATE, 2)]

/-! ### Logic processors, port sequencers, memory ports -/

/-- Bytes of the tile unit of position 0 on die 0, from an offset on (R291). -/
def unitBytes (s : State) (off : Nat) (l : List Byte) : State :=
  { s with tileBytes := Memory.writeBytes zeroFill s.tileBytes off l }

/-- Die 0 in step 4 of a cycle, with tile 0 bound.  Cluster 0 holds an EVAL of pair 3 at LP 5, a COPY at LP 6, and a PS word
with SEND 0, RECV 0 (a local lane), RECV 1 (a crossing lane) and LATCH; memory ports 0 to 4 hold one operation each. -/
def unitState : State :=
  let s := onDie running 0 (fun x => { x with
    sigma := 4, tiles := [(0, some 0)], lanes := [(0, some true)], chans := [(2, [⟨4, true, true, false, 0⟩])]
    enables := [(2, true)] })
  let s := unitBytes s 2088 [1, 23, 224, 6, 220, 128, 59, 16, 0, 0, 0, 0, 220, 128, 11, 32]
  let s := unitBytes s 1048704 [248, 127, 192, 253, 63, 0, 176, 0, 1, 48, 0, 0, 0, 0, 0, 0, 1, 55, 0, 0, 0, 0, 0, 0]
  let s := unitBytes s (1114112 + 12) [0, 8, 0, 0]
  let s := unitBytes s (1114112 + 1024) [8]
  let s := unitBytes s (1114112 + 1568) (leBytes 4 0x80000000 ++ leBytes 4 0x80000000 ++ leBytes 4 0xA00000F0 ++
    leBytes 4 0x80000000 ++ leBytes 4 0x80000000)
  let s := unitBytes s (1114112 + 4096 + 16) (leBytes 4 (0x20000000 + 0x1701 * 2048 + 39 * 32 + 1))
  let s := unitBytes s (1114112 + 8192 + 16) (leBytes 4 (0x40000000 + 0x1700 * 2048 + 15 * 128 + 1 * 4))
  let s := unitBytes s (1114112 + 12288 + 16) (leBytes 4 (0x60000000 + 0x1FF * 2 ^ 20 + 511 * 2048))
  let s := unitBytes s (1114112 + 16384 + 16) (leBytes 4 (0x80000000 + 6 * 2048))
  unitBytes s (1114112 + 20480 + 16) (leBytes 4 0xE0000000)

theorem test_lp_hypotheses : UnitReady unitState 0 0 (lpKey 0 0 5) ∧ UnitReady unitState 0 0 (lpKey 0 0 6) ∧
    UnitReady unitState 0 0 (lpKey 0 0 63) ∧ bitsOf (lpWord unitState 0 0 0 4 5) 60 4 = 1 ∧
    bitsOf (lpWord unitState 0 0 0 4 6) 60 4 = 2 ∧ bitsOf (lpWord unitState 0 0 0 4 63) 60 4 = 0 ∧
    funcPair unitState 0 0 3 = (0x800, true) ∧ readOpnd unitState 0 0 0 0x1701 = .val true false .clean := by
  unfold UnitReady; decide +kernel

/-- EVAL: index 8 * 1 + 4 * 0 + 2 * 1 + 1 = 11 of truth table A, which is 1 there alone. -/
theorem test_eval : (after (.eval 0 0 0 5 0) unitState).dies[0].stage.window =
    [(4 * 128 + 10, ⟨true, false⟩), (4 * 128 + 11, ⟨false, true⟩)] := by decide +kernel

theorem test_copy : readOpnd unitState 0 0 0 0x1700 = .val false false .clean ∧
    (after (.copy 0 0 0 6 0) unitState).dies[0].stage.window =
      [(4 * 128 + 12, ⟨true, false⟩), (4 * 128 + 13, ⟨false, true⟩)] := by decide +kernel

theorem test_nop : (after (.nop 0 0 0 63) unitState).dies[0].stage.done = [lpKey 0 0 63] := by decide +kernel

theorem test_ps_hypotheses : psCheck unitState 0 0 0 = (none, []) ∧ UnitReady unitState 0 0 (psKey 0 0 0) ∧
    UnitReady unitState 0 0 (psKey 0 0 4) ∧ UnitReady unitState 0 0 (psKey 0 0 5) ∧ UnitReady unitState 0 0 (psKey 0 0 8) ∧
    sendField (psWord unitState 0 0 0 4) 0 = (true, 0x1701) ∧ latchField (psWord unitState 0 0 0 4) = (true, 0x1701, 0x7FF) ∧
    recvField unitState 0 (psWord unitState 0 0 0 4) 0 = ⟨true, 0, 0x3FF⟩ ∧
    recvField unitState 0 (psWord unitState 0 0 0 4) 1 = ⟨true, 0x2002, 5⟩ ∧
    chanFind unitState.dies[0] 2 = .entry ⟨4, true, true, false, 0⟩ := by unfold UnitReady; decide +kernel

theorem test_send : (after (.send 0 0 0 0 none) unitState).dies[0].stage.lanes = [(0, true)] := by decide +kernel

theorem test_recv : (after (.recv 0 0 0 0) unitState).dies[0].stage.slots = [(0x3FF, true)] ∧
    (after (.recv 0 0 0 1) unitState).dies[0].stage.taken = [2] := by decide +kernel

theorem test_latch : (after (.latch 0 0 0) unitState).dies[0].stage.latches = [(0x7FF, true)] := by decide +kernel

theorem test_port_hypotheses : (∀ m : Fin 5, UnitReady unitState 0 0 (portKey 0 m.val)) ∧
    (∀ m : Fin 5, (portBinding unitState 0 0 m.val).en = true) ∧ granule 512 = 512 ∧
    (List.range 5).map (fun m => bitsOf (schedWord unitState 0 0 m 4) 29 3) = [1, 2, 3, 4, 7] ∧
    readOpnd unitState 0 0 0 0x1702 = .val false false .clean := by unfold UnitReady; decide +kernel

/-- A gather loses the bits past the end of its register: bit 39 is the last of an address. -/
theorem test_gather : (after (.gatherAddr 0 0 0) unitState).dies[0].stage.addrs = [(0, 2 ^ 39)] ∧
    (after (.gatherData 0 0 1) unitState).dies[0].stage.datas = [(1, 2 ^ 481)] := by decide +kernel

theorem test_memory_port : (after (.memoryPortRead 0 0 2) unitState).dies[0].stage.reads.map (fun r => (r.target, r.width,
      r.cluster, r.dest)) = [(2, 512, 15, 511)] ∧
    (after (.memoryPortWrite 0 0 3) unitState).dies[0].stage.writes.map (fun w => (w.bit, w.width)) = [(0, 7)] ∧
    (after (.memoryPortNop 0 0 4) unitState).dies[0].stage.done = [portKey 0 4] := by decide +kernel

/-! ### The boundary phase, commits, returns, arrivals -/

/-- Die 0 in boundary step `i` of cycle 0. -/
def boundaryAt (i : Nat) (g : Die → Die) : State := onDie running 0 (fun x => g { x with sigma := 64 + i })

theorem test_boundary_hypotheses : (∀ i : Fin 12, inBoundary (boundaryAt i.val id) 0 = true ∧
    unitDone (boundaryAt i.val id) 0 boundaryKey = false) ∧
    (∀ i ∈ [0, 7, 8, 9, 11], holdsAt (boundaryAt i id) 0 i = none) ∧ rejoinsAt (boundaryAt 0 id) 0 0 = [] := by
  decide +kernel

theorem test_boundary_latch : (after (.boundaryPhase 0) (boundaryAt 0 (fun x => { x with
    regBits := [(7, true)], pendLatch := [(7, some (false, 3)), (8, some (true, 3))] }))).dies[0].regBits = [(8, true)] := by
  decide +kernel

theorem test_boundary_count : (after (.boundaryPhase 0) (boundaryAt 7 (fun x => { x with
    cycle := 2 ^ 64 - 1 }))).dies[0].cycle = 0 := by decide +kernel

theorem test_boundary_vote : (after (.boundaryPhase 0) (boundaryAt 8 id)).run.votes = [(0, some true)] ∧
    (after (.boundaryPhase 0) { boundaryAt 8 id with run := { RunCtl.reset with votes := [(0, some false)] } }).run.votes =
      [(0, some false)] := by decide +kernel

theorem test_boundary_slots : (after (.boundaryPhase 0) (boundaryAt 9 (fun x => { x with
    slots := [(0, some true)], regBits := [(7, true)] }))).dies[0].slots = [] := by decide +kernel

/-- Every die has voted good for cycle 0; a WRITE of cycle 0 and one of cycle 1 wait. -/
def votedState : State :=
  let w : MWrite := ⟨0, 0, 0, 0, 0, 0, 8, 0xA5, 3, 0, true⟩
  { running with
    run := { RunCtl.reset with votes := [(0, some true), (1, some true), (2, some true), (3, some true)] }
    mem := { DesignMem.reset with writes := [w, { w with cycle := 1, sigma := 79 }] } }

theorem test_commit : canCommit votedState 0 = true ∧ canCommit running 0 = false ∧ viewBlocks running 0 = false ∧
    (after .cycleCommit votedState).run.nextCommit = 1 ∧ (after .cycleCommit votedState).mem.tram = [(0, 0xA5)] ∧
    (after .cycleCommit votedState).mem.writes.map MWrite.cycle = [1] := by decide +kernel

/-- A view whose reserve has no page left. -/
def fullView : State :=
  { running with
    design := { DesignHost.reset with view := some ⟨0, [], List.range 28672, false⟩ }
    mem := { DesignMem.reset with writes := [⟨0, 0, 0, 1, 15, 2 ^ 39, 8, 0xA5, 3, 0, true⟩] } }

theorem test_commit_view : viewBlocks fullView 0 = true ∧ getB (after .cycleCommit fullView) F.ARY_VIEW_STATUS_FULL = true := by
  decide +kernel

/-- A READ of tile RAM that is old enough, into bits 511 and 0 of cluster 31; bit 0 records a later READ. -/
def returnState : State :=
  let r : MRead := ⟨7, 0, 63, 15, 0, 0, 8, 2, 31, 511, 1, 0, 6, none, false⟩
  let x := onDie (onDies running (fun x => { x with sigma := 8 })) 0 (fun x => { x with mrd := [((63 * 32 + 31) * 512, ⟨false, false, some 8⟩),
    ((63 * 32 + 31) * 512 + 511, ⟨false, false, some 7⟩)] })
  { x with mem := { DesignMem.reset with reads := [r, { r with rid := 8, target := 2 }], nextRid := 9, tram := [(63 * 524288 + 1, 3)] } }

theorem test_return : logRoom returnState = true ∧ writesIssued returnState ⟨7, 0, 63, 15, 0, 0, 8, 2, 31, 511, 1, 0, 6, none, false⟩ = true ∧
    (returnState.mem.reads.find? (fun q => q.rid = 7)).isSome ∧
    (after (.memoryReturn 7 ⟨.clean, false⟩) returnState).dies[0].mrd =
      [((63 * 32 + 31) * 512, ⟨false, false, some 8⟩), ((63 * 32 + 31) * 512 + 511, ⟨true, true, some 7⟩)] ∧
    (after (.memoryReturn 7 ⟨.clean, false⟩) returnState).mem.reads.map MRead.rid = [8] ∧
    (after (.memoryReturn 8 ⟨.clean, false⟩) returnState).mem.reads.map MRead.rid = [7] := by decide +kernel

/-- A value on its way from die 3 to die 0 on the last channel. -/
def flightState : State :=
  { running with mem := { DesignMem.reset with flights := [⟨3, 0, 0xBFF, 63, true, 63⟩] } }

theorem test_arrival : (takeFlight flightState.mem.flights 3 0 0xBFF).isSome ∧ takeFlight flightState.mem.flights 0 3 0xBFF = none ∧
    (after (.crossingArrival 3 0 1023 .clean) flightState).dies[0].chans = [(0xBFF, [⟨63, true, true, false, 63⟩])] ∧
    (after (.crossingArrival 3 0 1023 .clean) flightState).mem.flights = [] := by decide +kernel


/-! ### Holds -/

/-- Every die of a running machine changed. -/
def allDies (s : State) (g : Die → Die) : State := onDies s g

/-- Cycle 3 comes to its decision step while no cycle has committed. -/
def aheadState : State := allDies running (fun x => { x with sigma := 3 * 76 + 48, cycle := 3 })

theorem test_hold_decision : sigmaMax aheadState + 16 = 3 * 76 + 64 ∧ holdCause aheadState .commitWait 3 = true ∧
    (after (.boundaryHoldDecision .commitWait) aheadState).holds.announced = [(5, 3 * 76 + 64)] ∧
    (after (.boundaryHoldDecision .commitWait) (allDies aheadState (fun x => { x with sigma := 3 * 76 + 47 }))).holds.announced =
      [] := by decide +kernel

/-- A host write that waits for a cycle, at the decision step of B1. -/
def stagedState : State :=
  { allDies running (fun x => { x with sigma := 49 }) with
    design := { DesignHost.reset with writes := [⟨[], none, false⟩] } }

theorem test_hold_decision_write : holdCause stagedState .hostWrite 0 = true ∧
    (after (.boundaryHoldDecision .hostWrite) stagedState).holds.announced = [(6, 65)] := by decide +kernel

/-- Die 1 is frozen; die 0 runs, with a write staged. -/
def orderState : State :=
  onDie (onDie running 1 (fun x => { x with frozen := true })) 0 (fun x => { x with
    sigma := 5, stage := { Stage.empty with window := [(0, ⟨true, false⟩)], done := [3, boundaryKey] } })

theorem test_freeze_order : executing orderState = true ∧ anyFrozen orderState = true ∧
    (after (.freezeOrder 0) orderState).dies[0].frozen = true ∧ (after (.freezeOrder 0) orderState).dies[0].stage.window = [] ∧
    (after (.freezeOrder 0) orderState).dies[0].stage.done = [boundaryKey] ∧ emState (after (.freezeOrder 0) orderState) = 3 ∧
    getF (after (.freezeOrder 0) orderState) F.ARY_HOLD_STATUS_DIE_FROZEN = 1 := by decide +kernel

/-- Every die stands frozen at step 64, four step periods after the last froze; sources 5, 6, 8 and 10 are in force. -/
def heldState : State :=
  let s := put (allDies running (fun x => { x with sigma := 64, frozen := true })) [(F.ARY_STATE_STATE, 3),
    (F.ARY_HOLD_STATUS_SOURCE, 0x560), (F.CLK_REFCLK_HOLDOVER, 1)]
  { s with holds := { Holds.reset with frozenSteps := 4 } }

theorem test_hold_release : allFrozen heldState = true ∧ (∀ n ∈ [5, 6, 8, 10], sourceOn heldState n = true) ∧
    sourceOn heldState 4 = false ∧ causeStands heldState 10 = true ∧
    (∀ n ∈ [5, 6, 8], sourceOn (after .announcedHoldRelease heldState) n = false) ∧
    sourceOn (after .announcedHoldRelease heldState) 10 = true := by decide +kernel

/-- Frozen dies at different steps, with nothing that they wait for. -/
def readyState : State :=
  onDie (put (allDies running (fun x => { x with sigma := 9, frozen := true })) [(F.ARY_STATE_STATE, 3)]) 2
    (fun x => { x with sigma := 7 })

theorem test_resume : deviceReady readyState = true ∧ executing readyState = true ∧ multi readyState = false ∧
    deviceReady heldState = false ∧
    dieList.map (fun d => (after .resume readyState).dies[d].frozen) = [true, true, false, true] := by decide +kernel

theorem test_user_hold : userHeld running = false ∧ allFrozen running = false ∧ marchHolds running = false ∧
    (after (.request 1) running).holds.announced = [(7, 16)] ∧
    getB (after (.request 1) running) F.ARY_HOLD_CTRL_PENDING = true ∧
    getB (after (.release 2) (after (.request 1) running)) F.ARY_HOLD_CTRL_PENDING = false := by decide +kernel

/-- Die 2 waits for memory-read bit 5 of cluster 1, tile 3, and the late timer has reached its limit. -/
def starvedState : State :=
  let s := onDie (put running [(F.ARY_STATE_STATE, 3), (F.ARY_LATE_LIMIT_EXP, 10)]) 2 (fun x => { x with
    sigma := 9, frozen := true, late := [⟨0, 3, 1, 7, 7, 5⟩] })
  { s with holds := { Holds.reset with lateTimer := 1024 } }

theorem test_starved : lateLimit starvedState = some 1024 ∧
    (starvedFault starvedState).map (fun e => (e.1, e.2.code, e.2.tilePos)) = some (2, 0x0B, 3) ∧
    (after .sfStarved starvedState).dies[2].faulted = true ∧
    (after .sfStarved starvedState).run.votes = [(2, some false)] ∧
    lateLimit (put running [(F.ARY_LATE_LIMIT_EXP, 0)]) = none := by decide +kernel

/-- Accounting counts that are not 0. -/
def countedState : State :=
  put running [(F.ARY_SRC_NS_LO_COUNT 11, 5), (F.ARY_SRC_NS_HI_COUNT 11, 6), (F.ARY_HELD_NS_LO_COUNT, 7),
    (F.ARY_HELD_NS_HI_COUNT, 8), (F.ARY_SKEW_MAX_DEVICE, 3), (F.ARY_HOLD_EVENTS_SEEN, 0xFFF)]

theorem test_counts : isCountLo 0x70080 = true ∧ isCountLo 0x701B0 = true ∧
    getF (after (.clear 1) countedState) (F.ARY_SRC_NS_HI_COUNT 11) = 0 ∧
    getF (after (.clear 1) countedState) F.ARY_HOLD_EVENTS_SEEN = 0 ∧
    (after (.countLoRead .host 0x701B0) countedState).outs = [.readValue 0 5] ∧
    (after (.registerRead .host 0x701B4 0x0F 4) (put (after (.countLoRead .host 0x701B0) countedState)
      [(F.ARY_SRC_NS_HI_COUNT 11, 9)])).outs = [.readValue 0 5, .readValue 0 6] := by decide +kernel


/-! ### Faults, replay, spares -/

theorem test_fault_replay : (after (.faultReplay 3 (.dualRail 63 31 63)) running).run.votes = [(3, some false)] ∧
    (after (.faultReplay 3 (.dualRail 63 31 63)) running).dies[3].freezeAt = some 1 ∧
    getB (after (.faultReplay 3 (.dualRail 63 31 63)) running) F.FLT_STATUS_REPLAYING = true := by decide +kernel

/-- Every die is frozen in cycle 1 after a bad vote for it; cycle 0 has committed. -/
def badState (restored : Bool) : State :=
  let x : Die := { Die.reset with sigma := 90, cycle := 1, frozen := true, pendLatch := [(3, some (true, 2))] }
  let s := put running [(F.ARY_STATE_STATE, 3), (F.CLK_PLL_LOCK_LOCK, 2 ^ 31 - 1)]
  { s with
    dies := Vector.replicate 4 { x with copies := [⟨1, [], [], [], []⟩] }
    run := { RunCtl.reset with nextCommit := 1, votes := [(4, some false)], replay := some ⟨1, restored, none, false⟩ } }

theorem test_restore_hypotheses : allQuiet (badState false) = true ∧ earlierPending (badState false) 1 = false ∧
    (badState false).run.replayed.1 ≠ 1 ∧ executing (badState false) = true := by decide +kernel

theorem test_restore : (∀ d : Fin 4, (after .restoreBoundary (badState false)).dies[d].sigma = 76) ∧
    (after .restoreBoundary (badState false)).dies[0].pendLatch = [] := by decide +kernel

theorem test_replay_release : diePllsLocked (badState true) = true ∧ multi (badState true) = false ∧
    sourceOn (badState true) 8 = false ∧ (after .replayRelease (badState true)).run.replay = none ∧
    (∀ d : Fin 4, (after .replayRelease (badState true)).dies[d].frozen = false) := by decide +kernel

/-- Every die stands still in cycle 1, die 2 with a Schedule Fault there; cycle 0 has committed, or could still commit. -/
def haltState (voted : Bool) : State :=
  let s := put running [(F.ARY_STATE_STATE, 3)]
  { s with
    dies := Vector.replicate 4 { Die.reset with sigma := 80, cycle := 1, frozen := true, faulted := true,
                                                copies := [⟨0, [], [], [], []⟩, ⟨1, [], [], [], []⟩] }
    run := { RunCtl.reset with
      nextCommit := if voted then 0 else 1
      votes := if voted then [(0, some true), (1, some true), (2, some true), (3, some true)] else []
      sfaults := [⟨1, 2, 0, 0, 0, 80, 1, 0⟩] } }

theorem test_fault_halt : allQuiet (haltState false) = true ∧ earlierPending (haltState false) (faultCycle (haltState false)) = false ∧
    earlierPending (haltState true) (faultCycle (haltState true)) = true ∧
    emState (after .scheduleFaultHalt (haltState false)) = 5 ∧ (after .scheduleFaultHalt (haltState true)).run.sfaults ≠ [] ∧
    (∀ d : Fin 4, (after .scheduleFaultHalt (haltState false)).dies[d].sigma = 76) := by decide +kernel

/-- A machine at rest; physical tile 63 of die 3 has failed three times within a second, and lane group 511 as well. -/
def failingState : State :=
  onDie (put State.reset [(F.FLT_CTRL_RETIRE_EN, 1)]) 3 (fun x => { x with
    tileFaults := [(63, [0, 1, 2])], parityTimes := [(511, [0, 1, 2])] })

theorem test_spare_tile : freeSpares failingState 3 = [64, 65] ∧ positionOf failingState 3 63 = some 63 ∧
    tileFailing failingState 3 63 = true ∧ activePositions failingState = 64 ∧
    physTile (after (.tileRetirement 3 63 true) failingState).dies[3] 63 = 64 ∧
    physTile (after (.go (BitVec.ofNat 32 (2 ^ 31 + 3 * 2 ^ 8 + 63))) failingState).dies[3] 63 = 64 := by decide +kernel

theorem test_spare_lane : groupFailing failingState 3 511 = true ∧ (freeLanes failingState 3).head? = some 0 ∧
    (after (.laneSparing 3 511 (some 15)) failingState).dies[3].spareMap = [(0, some 8191)] := by decide +kernel

theorem test_scrub : positionOf running 0 65 = none ∧ positionOf running 0 63 = some 63 ∧
    getF (after (.tileScrub 0 63 ⟨6, 0x3FFFFF⟩ .corrected none) running) F.FLT_CE_TILE_COUNT = 1 ∧
    eccOf (after (.tileScrub 0 63 ⟨5, 0⟩ .uncorrectable none) running).dies[0] 5 63 0 = .uncorrectable ∧
    eccOf (after (.tileScrub 0 63 ⟨5, 0⟩ .clean (some (⟨3, 7⟩, .corrected))) running).dies[0] 3 63 7 = .corrected := by decide +kernel


/-! ### Run control -/

/-- A descriptor of session 3 in its generation 2. -/
def desc : Desc := { session := 3, sgen := 2, tag := 0x1234, irq := true, link := false, fence := false }

/-- Session 3 is OPEN in generation 2 and owns the loaded Ingot; its message is not masked. -/
def owned (s : State) : State :=
  let s := put s [(F.LDR_OWNER_VALID, 1), (F.LDR_OWNER_SESSION, 3), (F.LDR_OWNER_GEN, 2)]
  { s with host := { s.host with
    sessions := [(3, { Session.closed with state := 1, gen := 2, sqLog := 4, cqLog := 4, vector := 9 })]
    msix := [(39, some 0)], live := [(50, 1)] } }

/-- The same, in emulation state `e`, with cycles 0 to 4 committed. -/
def ownedIn (e : Nat) : State :=
  let s := owned (put running [(F.ARY_STATE_STATE, e)])
  { s with run := { RunCtl.reset with nextCommit := 5 } }

theorem test_owner : DescRuns (ownedIn 4) desc ∧ isOwner (ownedIn 4) desc = true ∧ multi (ownedIn 4) = false ∧
    (ownedIn 4).clk.hot = false ∧ isOwner (ownedIn 4) { desc with session := 4 } = false := by
  unfold DescRuns; decide +kernel

theorem test_run : emState (after (.run desc 1 false) (ownedIn 4)) = 2 ∧
    (after (.run desc 1 false) (ownedIn 4)).run.run = some ⟨desc, some 5⟩ := by decide +kernel

/-- The same, executing, with its dies in cycle `n`. -/
def aheadIn (n : Nat) : State := allDies (ownedIn 3) (fun x => { x with sigma := n * 76 + 3 })

theorem test_stop : currentCycle (aheadIn 5) = 5 ∧ currentCycle (aheadIn 4) = 4 ∧
    (after (.stopNext desc) (aheadIn 5)).run.stops = [⟨desc, 5⟩] ∧
    (after (.stopNext desc) (aheadIn 4)).run.stops = [] ∧ emState (after (.stopNext desc) (aheadIn 4)) = 4 ∧
    emState (after (.stopAtCommitted desc) (ownedIn 3)) = 4 ∧
    (∀ e : Fin 4, (after (.stopAtCommitted desc) (ownedIn 3)).dies[e].sigma = 5 * 76) ∧
    (after (.stopAtCommitted desc) (ownedIn 4)).outs.length = 2 := by decide +kernel

theorem test_continue : getB (ownedIn 5) F.FLT_STATUS_HALT = false ∧
    emState (after (.continueAfterFaultClear desc) (ownedIn 5)) = 4 := by decide +kernel

theorem test_descriptor_nop : (after (.descriptorNop desc) (ownedIn 4)).outs =
    [.completion 3 0 0 (completionEntry { Session.closed with state := 1, gen := 2, sqLog := 4, cqLog := 4, vector := 9 }
      0x1234 stOK 0), .msix 9] := by decide +kernel

/-- A session that owns nothing, and a descriptor of an earlier generation. -/
theorem test_not_owner : isOwner (put (ownedIn 4) [(F.LDR_OWNER_GEN, 3)]) desc = false ∧
    DescRuns (put (ownedIn 4) [(F.LDR_OWNER_GEN, 3)]) desc ∧ descStale (ownedIn 4) { desc with sgen := 1 } = true ∧
    emState (after (.run desc 1 false) (put (ownedIn 4) [(F.LDR_OWNER_GEN, 3)])) = 4 ∧
    getF (after (.run { desc with sgen := 1 } 1 false) (ownedIn 4)) F.HST_STALE_DESCRIPTORS = 1 := by
  unfold DescRuns; decide +kernel

/-- A STOP that waits behind a RESTORE, and with none under way. -/
def waitingState (busy : Bool) : State :=
  { aheadIn 5 with run := { RunCtl.reset with
    nextCommit := 5, waiting := [.stopNext desc, .descriptorNop desc], restore := if busy then some ⟨desc, [], 4, 0, 0, []⟩ else none } }

theorem test_waiting : (after .waitingDescriptorAccept (waitingState false)).run.stops = [⟨desc, 5⟩] ∧
    (after .waitingDescriptorAccept (waitingState false)).run.waiting = [.descriptorNop desc] ∧
    isOwner (waitingState false) desc = true ∧ executing (waitingState false) = true ∧ currentCycle (waitingState false) = 5 ∧
    (after .waitingDescriptorAccept (waitingState true)).run.waiting.length = 2 := by decide +kernel


/-! ### Snapshots and Hallmarks -/

/-- Windows 1 (owner 1) and 2 (owner 2, mirrored, the Hallmark window) of a machine in state `e`. -/
def windowed (e : Nat) : State :=
  put (ownedIn e) [(F.HBM_WIN_CTRL_EN 1, 1), (F.HBM_WIN_CTRL_OWNER 1, 1), (F.HBM_WIN_SIZE_SIZE 1, 1), (F.HBM_WIN_SET_SET 1 0, 1),
    (F.HBM_WIN_CTRL_EN 2, 1), (F.HBM_WIN_CTRL_OWNER 2, 2), (F.HBM_WIN_CTRL_MIRROR 2, 1), (F.HBM_WIN_SIZE_SIZE 2, 0x10000),
    (F.HBM_WIN_SET_SET 2 0, 6), (F.HBM_WIN_CTRL_EN 3, 1), (F.HBM_WIN_CTRL_OWNER 3, 2), (F.HBM_WIN_SIZE_SIZE 3, 16),
    (F.HBM_WIN_SET_SET 3 0, 8), (F.FLT_HM_WINDOW_WINDOW, 2)]

theorem test_capture : captureStatus (windowed 3) true 3 (16 * 65536 - 4096) = none ∧ DescRuns (windowed 3) desc ∧
    captureStatus (windowed 4) false 3 0 = none ∧
    ((after (.capture desc 0 true 3 (16 * 65536 - 4096)) (windowed 3)).asy.capture).isSome := by
  unfold DescRuns; decide +kernel

/-- A CAPTURE of boundary 6 whose image is written. -/
def capturedState : State :=
  { windowed 4 with asy := { Asy.reset with capture := some ⟨desc, false, 3, 0, some 7, []⟩ } }

theorem test_capture_complete : getF (after .captureComplete capturedState) F.ASY_SNAP_LAST_LO_CYCLE = 6 ∧
    (after .captureComplete capturedState).outs.length = 2 ∧ (after .captureComplete capturedState).asy.capture.isNone := by
  decide +kernel

theorem test_fetch : winErrors (windowed 4) 1 65528 8 = [] ∧ winOwned (windowed 4) 1 1 = true ∧ winOwned (windowed 4) 2 2 = true ∧ winSize (windowed 4) 1 = 65536 ∧
    fetchSealed (windowed 4) 2 0 (2 ^ 32) = false ∧
    (after (.fetch desc 0 0 1 65528 8 8 true) (windowed 4)).outs.head? = some (.hostImage 8 8 []) ∧
    (after (.fetch desc 0 0 1 65528 8 8 false) (windowed 4)).outs.length = 2 := by decide +kernel

theorem test_hallmark : hallmarkStatus (windowed 3) 0 0 0 = none ∧ hallmarkStatus (windowed 4) 2 4096 (2 ^ 32) = none ∧
    ((after (.hallmark desc 0 ⟨0, true⟩ 0) (windowed 3)).run.hallmark.map (fun h => (h.dest, h.next))) = some (0, none) ∧
    getB (after (.hallmark desc 0 ⟨0, true⟩ 0) (windowed 3)) F.FLT_STATUS_HM_BUSY = true := by decide +kernel

/-- A Hallmark to the host that is complete, and whether the host takes it. -/
def hallmarkEnds (takes : Bool) : State :=
  { windowed 4 with run := { RunCtl.reset with nextCommit := 5, hallmark := some ⟨desc, 2, ⟨4096, takes⟩, [], some 5, [], 8, false, none, [], none⟩ } }

def hallmarkedState : State := hallmarkEnds true

theorem test_hallmark_complete : (session hallmarkedState desc.session).state = 1 ∧ descStale hallmarkedState desc = false ∧
    (after .hallmarkComplete hallmarkedState).run.hallmark.isNone ∧
    (after .hallmarkComplete hallmarkedState).outs.length = 3 ∧
    (after .hallmarkComplete (hallmarkEnds false)).outs.length = 2 := by decide +kernel

/-- Slot A holds no valid record: reason 1. -/
theorem test_restore_slot : restoreStatus (windowed 4) 1 0 0 = none ∧ restoreStatus (windowed 1) 0 0 0 = none ∧
    restoreReason (windowed 4) 0 [] = some 1 ∧ (after (.restore desc 0 0 0 none) (windowed 4)).run.restore.isNone := by
  decide +kernel

theorem test_restore_complete : (session (waitingState true) desc.session).state = 1 ∧
    descStale (waitingState true) desc = false ∧ (waitingState true).run.restore.isSome := by decide +kernel

/-- A HALLMARK or a RESTORE waits behind a HALLMARK; a STOP does not. -/
def behindHallmark (i : Instr) : State := { hallmarkedState with run := { hallmarkedState.run with waiting := [i] } }

theorem test_behind_hallmark : (behindHallmark (.hallmark desc 0 ⟨0, true⟩ 0)).run.hallmark.isSome ∧
    (after .waitingDescriptorAccept (behindHallmark (.hallmark desc 0 ⟨0, true⟩ 0))).run.waiting.length = 1 ∧
    (after .waitingDescriptorAccept (behindHallmark (.restore desc 0 0 0 none))).run.waiting.length = 1 ∧
    (after .waitingDescriptorAccept (behindHallmark (.stopNext desc))).run.waiting = [] := by decide +kernel

/-! ### Host access to design state, the memory window, sessions -/

/-- SPACE 3 (the exchange RAM) at its last word. -/
def lastWord : DWord := 0x30000000000FFFF8

def readReq : DesignReq := newReq none desc false lastWord.toNat 8 64 []
def writeReq : DesignReq := newReq none desc true lastWord.toNat 8 64 [1, 2, 3, 4, 5, 6, 7, 8]

theorem test_design_status : designStatus (ownedIn 4) readReq = none ∧ designStatus (ownedIn 4) writeReq = none ∧
    designStatus (ownedIn 0) readReq = some stWrongState ∧
    designStatus (ownedIn 4) { writeReq with length := 16 } = some stBadAddress ∧
    designStatus (put (ownedIn 4) [(F.LDR_OWNER_VALID, 0)]) writeReq = some stWrongOwner ∧ spaceOf lastWord.toNat = 3 ∧
    isLocal (ownedIn 4) writeReq = true ∧ isLocal (ownedIn 4) readReq = true := by decide +kernel

theorem test_design_read : ((after (.designRead desc lastWord 8 64) (ownedIn 3)).design.view.map (fun v => v.next)) = some 5 ∧
    getB (after (.designRead desc lastWord 8 64) (ownedIn 3)) F.ARY_VIEW_STATUS_OPEN = true ∧
    getB (after (.designRead desc lastWord 8 64) (ownedIn 4)) F.ARY_VIEW_STATUS_OPEN = false ∧
    (after (.designRead desc lastWord 16 64) (ownedIn 4)).outs.length = 2 := by decide +kernel

theorem test_design_write : (after (.designWrite desc lastWord 8 64 (some writeReq.data)) (ownedIn 3)).design.writes =
      [⟨[writeReq], none, false⟩] ∧
    Memory.readBytes marchFill (after (.designWrite desc lastWord 8 64 (some writeReq.data)) (ownedIn 4)).mem.exr 0xFFFF8 8 =
      writeReq.data := by decide +kernel

/-- A view with one read; a staged write with every die at B1. -/
def viewedState : State :=
  { ownedIn 3 with design := { DesignHost.reset with view := some ⟨5, [{ readReq with image := [(7, 1)], result := 4, ready := true }], [], false⟩ } }

def b1State : State :=
  { put (allDies (ownedIn 3) (fun x => { x with sigma := 5 * 76 + 65, cycle := 5, frozen := true })) [(F.ARY_HOLD_STATUS_SOURCE, 0x40)] with
    design := { DesignHost.reset with writes := [⟨[writeReq], none, false⟩] } }

theorem test_design_end : boundaryResult 5 = 4 ∧ (after (.designReadComplete []) viewedState).outs.head? = some (.hostImage 64 8 [(7, 1)]) ∧
    (after (.designReadComplete []) viewedState).design.view = none ∧ spaceOf writeReq.address = 3 ∧
    (after .hostWriteApply b1State).design.writes = [⟨[writeReq], some 5, true⟩] ∧
    (after .hostWriteApply b1State).mem.writes.map (fun w => (w.bit, w.cycle)) = [(0xFFFF8 * 8, 5)] := by decide +kernel

theorem test_port_b : Memory.readBytes marchFill (after (.exchangeRamPortBWrite .host 0xFFFFD [some 7, none, some 9])
      State.reset).mem.exr 0xFFFFD 3 = [7, 0xFF, 9] ∧
    (after (.exchangeRamPortBRead .host 0xFFFFF 1 .clean) State.reset).outs = [.readValue 0 0xFF] ∧
    (after (.exchangeRamPortBRead .host 0 8 .uncorrectable) State.reset).outs = [.answer 0 5] := by decide +kernel

/-- Port A writes word 2 of the exchange RAM in the same clock. -/
def portAState : State := { State.reset with mem := { DesignMem.reset with portA := [(2, [some 1])] } }

theorem test_port_b_collision : (after (.exchangeRamPortBWrite .host 16 [some 2]) portAState).mem = portAState.mem ∧
    getF (after (.exchangeRamPortBWrite .host 16 [some 2]) portAState) F.ARY_EXR_COLL_ADDR_WORD = 2 := by decide +kernel

theorem test_scratch : Memory.readBytes marchFill (after (.scratchBankAccess ⟨.host, 0x1FFFFFF⟩ (some [some 7]) 1 .clean)
      State.reset).ctl.scratch 0x1FFFFFE 2 = [0xFF, 7] ∧
    (after (.scratchBankAccess ⟨.core 7, 8⟩ none 4 .clean) State.reset).outs = [.readValue 9 0xFFFFFFFF] := by decide +kernel

/-- Word 1 of the scratch banks holds ones after start-up: adding 2 wraps. -/
theorem test_atomics : (after (.fetchAdd (.host 0x2000008) false 2 .clean) State.reset).outs = [.readValue 0 0xFFFFFFFF] ∧
    (after (.fetchAdd (.core 7 0x20000008) false 2 .clean) State.reset).outs = [.readValue 9 (2 ^ 64 - 1)] ∧
    Memory.readBytes marchFill (after (.fetchAdd (.host 0x2000008) false 2 .clean) State.reset).ctl.scratch 8 8 =
      [1, 0, 0, 0, 0xFF, 0xFF, 0xFF, 0xFF] ∧
    Memory.readBytes marchFill (after (.swap (.host 0x3FFFFF8) true 0x0102030405060708 .clean) State.reset).ctl.scratch 0x1FFFFF8 8 =
      [8, 7, 6, 5, 4, 3, 2, 1] ∧ (after (.cas (.host 0x2000010) ⟨16, .cas, 0, .clean⟩) State.reset).outs = [.answer 0 1] := by decide +kernel

/-- An AMO on a word of ones of core 7's local memory; LR and SC on a word of the firmware SRAM. -/
theorem test_core_atomics : let p := corePlace State.reset 7 0x1000008 4
    let lr := after (.cas (.core 7 0x10000008) ⟨8, .lr, 0, .clean⟩) State.reset
    atomicValue .xor 4 0xFFFFFFFF 1 = some 0xFFFFFFFE ∧ (reservation p 4).isSome ∧
    leNat (bytesOfPlace State.reset p 4) = 0xFFFFFFFF ∧
    (after (.cas (.core 7 0x1000008) ⟨4, .xor, 1, .clean⟩) State.reset).outs = [.readValue 9 (2 ^ 64 - 1)] ∧
    bytesOfPlace (after (.cas (.core 7 0x1000008) ⟨4, .xor, 1, .clean⟩) State.reset) p 4 = [0xFE, 0xFF, 0xFF, 0xFF] ∧
    reserved? lr 7 = some (1, 8, 8) ∧ (after (.cas (.core 7 0x10000008) ⟨8, .sc, 5, .clean⟩) lr).outs.getLast? = some (.readValue 9 0) ∧
    (after (.cas (.core 7 0x10000008) ⟨8, .sc, 5, .clean⟩) State.reset).outs = [.readValue 9 1] ∧
    (after (.cas (.core 7 0x1000009) ⟨4, .xor, 1, .clean⟩) State.reset).outs = [.answer 9 4] := by decide +kernel

theorem test_reserved : (after (.reservedAccess 0x100000 true false) State.reset).outs = [] ∧
    (after (.reservedAccess 0x1FFFFFF true true) State.reset).outs = [.answer 0 2] ∧
    getF (after (.reservedAccess 0x1FFFFFF false false) State.reset) F.HST_RSVD_ADDR_OFFSET = 0x1FFFFFF := by decide +kernel

/-- The last session, with a configuration staged that passes R305. -/
def stagingState : State :=
  put (owned State.reset) [(F.HST_SESS_INDEX_SESSION, 4095), (F.HST_SESS_CFG_SQ_LOG2, 16), (F.HST_SESS_CFG_CQ_LOG2, 4),
    (F.HST_SESS_CFG_VECTOR, 2047)]

/-- Session 3 is suspended with a completion held. -/
def suspendedState : State :=
  let s := put stagingState [(F.HST_SESS_INDEX_SESSION, 3)]
  setSession s 3 { session s 3 with state := 2, held := [⟨7, true, 0, 0⟩] }

theorem test_sessions : indexed stagingState = 4095 ∧ (session stagingState 4095).state = 0 ∧
    configOk (takeStaging stagingState (session stagingState 4095)) = true ∧ itemsHeld stagingState 4095 = false ∧
    (session (after .sessOpen stagingState) 4095).state = 1 ∧ (session (after .sessOpen suspendedState) 3).reject = true ∧
    (session (after .sessClose suspendedState) 3).gen = 3 ∧
    configOk (takeStaging suspendedState (session suspendedState 3)) = true ∧
    (session (after .sessAttach suspendedState) 3).posted = 1 ∧
    getF (after (.sessIndexWrite 0xFFFF3003) suspendedState) F.HST_SESS_CFG_VECTOR = 9 := by decide +kernel

/-- Session 3 may fetch. -/
def fetchingState : State :=
  let s := put (owned State.reset) [(F.HST_CTRL_FETCH_EN, 1)]
  let s := setSession s 3 { session s 3 with db := 0x1000, sq := 0x2000 }
  { s with host := { s.host with busMaster := true } }

/-- Host memory with session 3 flagged, its doorbell, which announces one descriptor, and that descriptor, a NOP. -/
def nopRing (bad : List (Nat × Nat)) : HostMem :=
  ⟨[(0, 8), (0x1000, 1), (0x1007, 0x20), (0x2002, 0x34), (0x2003, 0x12), (0x2004, 2)], bad⟩

theorem test_flagged : (hostBytes (nopRing []) (summaryAddr fetchingState) 512).map flagged = some [3] := by decide +kernel

theorem test_doorbell : cqRoom fetchingState 3 = true ∧ past28 1 0 = 1 ∧
    (after (.doorbellSweep (nopRing []).cells [] []) fetchingState).host.fetched =
      [.cmd (.descriptorNop ⟨3, 2, 0x1234, false, false, false⟩)] ∧
    (session (after (.doorbellSweep (nopRing []).cells [(0x1000, 8)] []) fetchingState) 3).error = 3 ∧
    (session (after (.doorbellSweep (nopRing []).cells [(0, 1)] [3]) fetchingState) 3).error = 4 ∧
    getB State.reset F.HST_CTRL_FETCH_EN = false := by decide +kernel

/-- Session 3 has one completion to signal. -/
def coalState (masked : Bool) : State :=
  let s := put (owned State.reset) [(F.IDN_TIME_LO_TIME, 100)]
  let s := setSession s 3 { session s 3 with coalTime := 1, unsignalled := 1 }
  { s with host := { s.host with msix := if masked then [] else s.host.msix } }

theorem test_coalesce : timeNs (coalState false) = 100 ∧ (after (.coalesceTimeout 3) (coalState false)).outs = [.msix 9] ∧
    (after (.coalesceTimeout 3) (coalState true)).host.pba = [(9, true)] ∧
    (session (owned State.reset) 3).unsignalled = 0 := by decide +kernel


/-! ### Load streams -/

theorem test_streams : loaderOpen (owned State.reset) = false ∧ pathAccepted (owned State.reset) 1 = true ∧
    DescRuns (put (owned State.reset) [(F.LDR_OWNER_VALID, 0)]) desc ∧
    ((after (.image desc true (some [1]) (some [])) (put (owned State.reset) [(F.LDR_OWNER_VALID, 0)])).ldr.stream.map (·.buffer)) =
      some [1] ∧
    (after (.image desc true (some [1]) none) (put (owned State.reset) [(F.LDR_OWNER_VALID, 0)])).ldr.stream = none ∧
    (after (.image desc false (some [1]) (some [])) (owned State.reset)).outs.length = 2 ∧
    ((after (.spiStream [0x10, 1]) State.reset).ldr.stream.map (·.path)) = some 2 ∧
    (after (.spiStream [0x11, 1]) State.reset).ldr.stream = none := by unfold DescRuns; decide +kernel

/-- A full stream on the SPI slave, past its first segment. -/
def loadState (x : LdStream → LdStream) : State :=
  let s := put State.reset [(F.HBM_WIN_CTRL_EN 4, 1), (F.HBM_WIN_CTRL_OWNER 4, 4), (F.HBM_WIN_SIZE_SIZE 4, 1)]
  { s with ldr := { Ldr.reset with stream := some (x { freshStream 2 none (0, 0) [] with
    position := 1, nonce := List.replicate 8 5, keySel := 4 }) } }

theorem long_buffer (n : Nat) : ∃ x, (loadState (fun x => { x with buffer := List.replicate n 0 })).ldr.stream = some x ∧
    x.path = 2 ∧ x.buffer.length = n := ⟨_, rfl, rfl, List.length_replicate⟩

theorem test_spi_overflow : (∃ x, (loadState (fun x => { x with buffer := List.replicate 131231 0 })).ldr.stream = some x ∧
      x.path = 2 ∧ x.buffer.length < 131232 ∧ 131232 < x.buffer.length + [1, 2].length) ∧
    ((after (.spiStream [0x10, 1]) (loadState id)).ldr.stream.map (·.buffer)) = some [1] :=
  ⟨(long_buffer 131231).imp (fun x h => ⟨h.1, h.2.1, by rw [h.2.2]; omega, by rw [h.2.2]; decide⟩), by decide +kernel⟩

/-- A header of segment `seq` with KEY_SEL 4, FLAGS `f` and `n` bytes of ciphertext. -/
def header (seq : Nat) (f : Byte) (n : Nat) : List Byte :=
  leBytes 4 0x47534B56 ++ [0, 1, 4, f] ++ leBytes 4 seq ++ leBytes 4 n ++ List.replicate 8 5 ++ leBytes 4 seq ++
    List.replicate 36 0

theorem test_segment : headerFits (header 1 0 65536) = true ∧ headerFits (header 1 0 65536 ++ [0]) = false ∧
    (loadState id).ldr.stream.map (fun x => (inSequence x (header 1 0 65536), inSequence x (header 2 0 65536))) =
      some (true, false) ∧ leAt (header 1 0 65536) 12 4 = 65536 ∧ leAt (header 1 0 65536) 7 1 = 0 ∧
    leAt (header 1 0 65536) 6 1 = 4 ∧ loadKey (loadState id) 4 = none ∧
    loadKey (put (loadState id) [(F.SEC_BBK_LOADED, 1)]) 4 = some 0 ∧
    getF (after (.segment [] [] []) (loadState id)) F.LDR_RESULT_CODE = lsSegment := by decide +kernel

theorem test_segment_sequence :
    getF (after (.segment (header 2 1 16) (List.replicate 16 0) (List.replicate 16 0)) (loadState id)) F.LDR_RESULT_CODE =
      lsSequence ∧
    getF (after (.segment (header 1 1 16) (List.replicate 16 0) (List.replicate 16 0)) (loadState id)) F.LDR_RESULT_CODE =
      lsKey := by decide +kernel

theorem test_frames : stageUnits (loadState id) = 1 ∧
    getF (after (.writeFrame 15 []) (loadState id)) F.LDR_RESULT_CODE = lsCommand ∧
    getF (after (.repeatFrame [15]) (loadState id)) F.LDR_RESULT_CODE = lsCommand ∧
    getF (after (.zeroFrames 15 2) (loadState id)) F.LDR_FAIL_ADDR_ADDR = 16 ∧
    getF (after (.zeroFrames 0 0) (loadState id)) F.LDR_RESULT_CODE = lsCommand ∧
    (after (.zeroFrames 15 1) (loadState id)).ldr.stream.isSome ∧
    (after (.pad 16 (List.replicate 16 0)) (loadState id)).ldr.stream.isSome := by decide +kernel

/-- An Ingot of one tile with region 5 declared, as it stands after installation. -/
def ingot : Ingot :=
  { isSealed := false, s := 64, nV := 1, groups := [(0, 1)], machinePos := 0, machineSize := 1, identity := List.replicate 48 9
    machineId := [], crossDelay := [], pi := [0], pos := [[0]], memWins := [], windows := [], msgPorts := [], linkch := []
    probes := [], bridges := [], regions := [[5] ++ List.replicate 63 0], variants := List.replicate 64 [], startup := [] }

/-- A partial stream in a machine that executes the Ingot. -/
def regionState (x : LdStream → LdStream) (l : List (Fld × Nat)) : State :=
  let s := loadState x
  { put s ([(F.ARY_SCHEDULE_S, 64), (F.ARY_STATE_STATE, 2)] ++ l) with ingot := some ingot }

theorem test_set_region : parentOk (regionState (fun x => { x with position := 0 }) []) 5 ingot.identity = true ∧
    getF (after (.setRegion 5 ingot.identity []) (regionState (fun x => { x with position := 0 }) [])) (F.LDR_REGION_STATE 5) = 1 ∧
    getF (after (.setRegion 5 [] []) (regionState (fun x => { x with position := 0 }) [])) F.LDR_RESULT_CODE = lsParent := by
  decide +kernel

theorem test_commit_stream : coversAll [] 0 (igExtent []) = false ∧ coversAll [(0, 1)] 0 (igExtent []) = true ∧
    getF (after .commit (loadState id)) F.LDR_RESULT_CODE = lsIncomplete ∧
    getF (after .commit (regionState (fun x => { x with covered := [(0, 1)] }) [])) F.LDR_RESULT_CODE = lsState := by
  decide +kernel

/-- Region 5 has no unit to cover, and has stopped. -/
theorem test_commit_region : regionStopped (regionState id []) 5 = true ∧
    regionCovered (regionState id []) (streamRegion (regionState id []) { freshStream 2 none (0, 0) [] with region := some 5 }) [] =
      true ∧
    getF (after .commit (regionState (fun x => { x with isPartial := true, region := some 5 }) [])) (F.LDR_REGION_STATE 5) = 2 := by
  decide +kernel

/-- A load past its checks, with its start-up sequence. -/
def installState (waiting : Bool) (events : List (Nat × Nat)) : State :=
  { State.reset with ldr := { Ldr.reset with
    install := some { ingot := ingot, image := [], desc := none, path := 1, session := (0, 0), waiting := waiting, events := events } } }

theorem test_load_ends : getF (loadState id) F.LDR_CTRL_TIMEOUT_MS ≠ 0 ∧
    getF (after .lsTimeout (loadState id)) F.LDR_RESULT_CODE = lsTimeout ∧
    getF (after (.abort 0x80000000) (loadState id)) F.LDR_RESULT_CODE = lsCancelled ∧
    setAgrees ingot [ownHeader ingot] [] = true ∧ setAgrees ingot [ownHeader ingot, ownHeader ingot] [] = false ∧
    regionsOk [] = true ∧ censusClash [] = false ∧
    getF (after (.machineWaitEnd [ownHeader ingot] []) (installState true [])) F.LDR_RESULT_CODE = lrMachine := by
  decide +kernel

/-- The fabric of this installation has HPLL 0 enabled, and it does not lock. -/
def unlockedState : State :=
  { installState false [(1, 0), (0, 0)] with hgr := { Hgr.reset with loaded := true, cfg := [(0x80000, 1), (0, 1)] } }

theorem test_startup : getF (after .startupEvent (installState false [(2, 0), (3, 0)])) F.LDR_STATUS_EVENTS = 2 ∧
    emState (after .startupEvent (installState false [(0, 0)])) = 1 ∧
    stepsS (after .startupEvent (installState false [(0, 0)])) = 64 ∧
    (after .startupEvent (installState false [(0, 0)])).ldr.install = none := by decide +kernel

theorem test_startup_pll : hpllsLocked unlockedState = false ∧
    getF (after .lsPll unlockedState) F.LDR_RESULT_CODE = lsPllFail := by decide +kernel

/-- A QSPI stream of the self-load, from entry 0 or 1. -/
def flashState (try_ : Nat) : State :=
  let s := put State.reset [(F.LDR_BOOT_BOOT_SEL, 1)]
  { s with ldr := { Ldr.reset with stream := some (freshStream 3 none (0, 0) []), selfTry := try_ } }

/-- A serial flash that is erased. -/
def erased : FlashPart := ⟨[], [], true⟩

theorem test_flash : (flashBytes (flashState 1) erased 8 0x1000 32).2.map (leAt · 0 4) = some 0xFFFFFFFF ∧ pathAccepted (flashState 1) 3 = true ∧
    getF (after (.qspiSelfLoad ⟨erased.cells, erased.quad⟩ erased.bad) (flashState 1)) F.LDR_BOOT_ENTRY = 1 ∧
    getB (after (.qspiSelfLoad ⟨erased.cells, erased.quad⟩ erased.bad) (flashState 2)) F.LDR_STATUS_BOOT_FAIL = true ∧
    getB (after (.qspiSelfLoad ⟨erased.cells, erased.quad⟩ erased.bad) (put (flashState 2) [(F.LDR_BOOT_BOOT_SEL, 3)])) F.LDR_BOOT_FELL_BACK = true ∧
    loaderOpen (put State.reset [(F.LDR_BOOT_BOOT_SEL, 1)]) = false ∧
    getF (after (.flashStart 0x80000001) (put State.reset [(F.LDR_BOOT_BOOT_SEL, 1)])) F.LDR_BOOT_ENTRY = 1 := by decide +kernel

/-- Region 63 is ready in a machine at rest, with a tile that waits for it. -/
def rejoinState : State :=
  let s := put State.reset [(F.LDR_REGION_STATE 63, 2), (F.ARY_STATE_STATE, 4), (F.ARY_SCHEDULE_S, 64)]
  { s with iso := [(0, some ⟨63, 0, none, [], [], [], []⟩), (1, some ⟨62, 0, none, [], [], [], []⟩)] }

theorem test_rejoin : getF (after (.regionRejoin 63) rejoinState) (F.LDR_REGION_STATE 63) = 0 ∧
    (after (.regionRejoin 63) rejoinState).iso.length = 1 ∧
    getF (after (.ldrOwnerWrite 0x80001FFF) State.reset) F.LDR_OWNER_SESSION = 4095 ∧
    getF (after (.ldrOwnerWrite 0x80001FFF) State.reset) F.LDR_OWNER_GEN = 1 ∧
    getB (after (.ldrOwnerWrite 0) (owned State.reset)) F.LDR_OWNER_VALID = false := by decide +kernel


/-! ### Message channels -/

/-- An input port of 12 bits, number 0, and an output port of 12 bits, number 1. -/
def portWords : List Nat := [2 ^ 63 + 11 * 2 ^ 25, 2 ^ 63 + 2 ^ 62 + 11 * 2 ^ 25 + 1]

/-- A machine at rest with the two ports, and a FIFO window 3 of 64 KiB. -/
def chanBase : State :=
  let s := put (ownedIn 4) [(F.HBM_WIN_CTRL_EN 3, 1), (F.HBM_WIN_CTRL_OWNER 3, 3), (F.HBM_WIN_SIZE_SIZE 3, 1),
    (F.HBM_WIN_SET_SET 3 0, 1)]
  { s with ingot := some { ingot with msgPorts := portWords } }

/-- Channel 262143, OPEN in generation 63, of a kind, on a port. -/
def chanOf (kind port : Nat) : ChanCtx :=
  { ChanCtx.free with
    gen := 63, kind := kind, priority := 7, state := 1, sessionGen := 2, session := 3, port := port, window := 3
    sizeLog := 12, overrun := true }

def chan : ChanRef := ⟨262143, 63⟩

/-- The channel of a kind, with changes to its context. -/
def chanState (kind port : Nat) (g : ChanCtx → ChanCtx) : State :=
  { chanBase with chn := { Chn.reset with ctxs := [(262143, g (chanOf kind port))] } }

theorem test_chan_status : DescRuns chanBase desc ∧ chanStatus (chanState 0 0 id) desc chan ⟨[0], true⟩ = none ∧
    chanStatus (chanState 1 1 id) desc chan ⟨[1], true⟩ = none ∧ chanStatus (chanState 2 1 id) desc chan ⟨[2, 3], true⟩ = none ∧
    chanStatus chanBase desc chan ⟨[0], true⟩ = some 0x40 ∧
    chanStatus (chanState 1 1 id) desc chan ⟨[0], true⟩ = some 0x43 ∧
    (after (.clearOverrun desc ⟨chan, true⟩) chanBase).outs.length = 2 := by unfold DescRuns; decide +kernel

theorem test_ch_open : openStatus chanBase 262143 2 7 1 1000000 0 3 12 = none ∧
    openStatus chanBase 262143 2 7 0 1000000 0 3 12 = some 0x44 ∧
    (chanCtx (after (.chOpen desc ⟨262143, 0⟩ 2 7 1 1000000 0 3 12) chanBase) 262143).state = 1 ∧
    getF (after (.chOpen desc ⟨262143, 0⟩ 2 7 1 1000000 0 3 12) chanBase) F.CHN_OPEN_COUNT_COUNT = 1 := by decide +kernel

theorem test_ch_close : chanCtx (after (.chClose desc chan) (chanState 0 0 id)) 262143 = ChanCtx.free ∧
    (after (.chClose desc chan) (chanState 0 0 id)).outs.length = 2 := by decide +kernel

theorem test_msg : (portOf (chanState 0 0 id) 0).map (fun p => (p.width, recordLen p 0, payloadBytes p)) = some (12, 16, 2) ∧
    (after (.msgSend desc chan 64 12 true [1, 2]) (chanState 0 0 id)).chn.items.map (fun j => (j.type, j.opcode, j.length)) =
      [(1, 0x32, 16)] ∧
    (after (.msgRecv desc chan 64 2) (chanState 1 1 id)).chn.items.map (fun j => (j.opcode, j.length)) = [(0x33, 2)] ∧
    (after (.msgRecv desc chan 64 1) (chanState 1 1 id)).outs.length = 2 := by decide +kernel

theorem test_stream_post : (chanCtx (after (.streamPost desc chan 64 (2 ^ 24)) (chanState 3 0 id)) 262143).alloc = 2 ^ 24 ∧
    (after (.streamPost desc chan 64 1) (chanState 2 1 id)).chn.items.length = 1 ∧
    (oldestBuffer (chanState 2 1 id) 262143).isNone := by decide +kernel

/-- Channel of kind 2 with two values of 2 bytes that have drained. -/
def drainedState : State :=
  let s := chanState 2 1 (fun x => { x with wr := 4 })
  { s with chn := { s.chn with drained := [(262143, true)] } }

theorem test_drained_post : drainedState.chn.drained.get false 262143 = true ∧
    (after (.streamPost desc chan 64 3) drainedState).outs.head? = some (.hostWrite 64 [0, 0]) := by decide +kernel

theorem test_chan_control : (chanCtx (after (.flush desc ⟨chan, false⟩) drainedState) 262143).rd = 4 ∧
    (chanCtx (after (.clearOverrun desc ⟨chan, true⟩) (chanState 0 0 id)) 262143).overrun = false ∧
    (after (.chQuery desc chan 64 true) (chanState 0 0 id)).outs.head? =
      some (.hostWrite 64 (ctxBytes (chanOf 0 0))) := by decide +kernel

/-- An item of the channel, and the engines out of reset. -/
def itemState (engine : Option (Nat × Nat)) (l : List (Fld × Nat)) : State :=
  let s := put (chanState 3 0 id) ([(F.CHN_CTRL_ENGINES_EN, 1)] ++ l)
  { s with chn := { s.chn with
    items := [{ blankItem with chan := 262143, gen := 63, type := 1, length := 8, engine := engine, address := 4096 }]
    ready := [(7, [262143])] } }

theorem test_flush_pending :
    let x := chanCtx (after (.flush desc ⟨chan, false⟩) (itemState none [])) 262143
    (x.rd, x.wr, x.drops) = (8, 8, 4) ∧ (after (.flush desc ⟨chan, false⟩) (itemState none [])).chn.items = [] ∧
    (chanCtx (after (.flush desc ⟨chan, false⟩) (chanState 3 0 (fun x => { x with wr := 5 }))) 262143).rd = 5 := by decide +kernel

theorem test_dispatch_take : enginesRun (itemState none []) = true ∧ freeSlot (itemState none []) 31 = some 0 ∧
    nextReady (itemState none []) = some 262143 ∧
    (after (.dispatchTake 31) (itemState none [(F.CHN_ENGINE_STOP_STOP, 2 ^ 31)])).outs = [.readValue 47 0] ∧
    (after (.dispatchTake 31) (itemState none [])).outs = [.readValue 47 1] ∧
    (after (.dispatchTake 31) (itemState none [])).chn.items.map WorkItem.engine = [some (31, 0)] := by decide +kernel

/-- Engine 31 holds eight items; and nothing is ready. -/
def fullEngine : State :=
  let s := itemState none []
  { s with chn := { s.chn with items := (List.range 8).map (fun k => { blankItem with seq := k, engine := some (31, k) }), ready := [] } }

theorem test_dispatch_none : freeSlot fullEngine 31 = none ∧ freeSlot fullEngine 30 = some 0 ∧ nextReady fullEngine = none ∧
    (after (.dispatchTake 31) fullEngine).outs = [.readValue 47 0xFFFFFFFF] ∧
    getF (after (.dispatchTake 30) fullEngine) F.CHN_ENGINE_WAIT_WAIT = 2 ^ 30 := by decide +kernel

theorem test_dispatch_done : (after (.dispatchDone 31 7 ⟨0, false, 8, some 8⟩) (itemState (some (31, 7)) [])).chn.items = [] ∧
    (chanCtx (after (.dispatchDone 31 7 ⟨0, false, 8, some 8⟩) (itemState (some (31, 7)) [])) 262143).wr = 8 ∧
    (chanCtx (itemState (some (31, 7)) []) 262143).releaseSeq = 0 := by decide +kernel

theorem test_copy_unit : copyOk (itemState none []) (2 ^ 62 + 65532) 4 = true ∧ copyOk (itemState none []) (2 ^ 62 + 65532) 5 = false ∧
    Memory.readBytes marchFill (after (.copyUnitGo 31 0 (BitVec.ofNat 64 (2 ^ 62 + 65532)) 4 [1, 2, 3, 4] true)
      (itemState none [])).chn.local_ (31 * 65536 + 65532) 4 = [1, 2, 3, 4] ∧
    ((after (.copyUnitGo 31 0 (BitVec.ofNat 64 (2 ^ 62 + 65532)) 5 [] true) (itemState none [])).chn.copy.get ⟨0, 0, 0, false⟩ 31).error = true ∧
    (after (.copyUnitGo 31 (BitVec.ofNat 64 (2 ^ 62)) 64 2 [] true) (itemState none [])).outs = [.hostWrite 64 [0, 0]] := by
  decide +kernel

theorem test_engine_trap : (after (.engineTrap 31) (itemState (some (31, 7)) [])).chn.items.map WorkItem.engine = [none] ∧
    (after (.enginesEn 0) (itemState (some (31, 7)) [])).chn.items.map WorkItem.engine = [none] ∧
    enginesRun (after (.enginesEn 1) chanBase) = true := by decide +kernel

/-- The drain timer of the channel runs over two values. -/
def drainState : State :=
  let s := chanState 2 1 (fun x => { x with wr := 4 })
  { s with chn := { s.chn with drain := [(262143, some 0)] } }

/-- The same with a buffer posted. -/
def drainPosted : State :=
  { drainState with chn := { drainState.chn with items := [{ blankItem with chan := 262143, gen := 63, type := 1, length := 4, address := 64 }] } }

theorem test_drain : (drainState.chn.drain.get none 262143).isSome ∧ (oldestBuffer drainPosted 262143).isSome ∧
    (after (.drainTimeout 262143) drainState).chn.items.map (fun j => (j.type, j.length)) = [(3, 4)] ∧
    (after (.drainTimeout 262143) drainPosted).outs.head? = some (.hostWrite 64 [0, 0, 0, 0]) ∧
    getF (after (.chnCtxIndexWrite 0xFFFFFFFF .clean) drainState) F.CHN_CTX_INDEX_CHANNEL = 262143 ∧
    getF (after (.chnCtxIndexWrite 0xFFFFFFFF .clean) drainState) (F.CHN_CTX_DATA_BYTES 0) = 63 * 2 ^ 26 + 2 ^ 25 + 7 * 2 ^ 21 +
      2 ^ 18 + 2 ^ 17 + 2 * 2 ^ 12 + 3 ∧
    (chanCtx (after (.chnCtxIndexWrite 0xFFFFFFFF .uncorrectable) drainState) 262143).state ≠ 1 ∧
    getB (after (.chnCtxIndexWrite 0xFFFFFFFF .uncorrectable) drainState) F.CHN_STATUS_CTX_UE = true := by decide +kernel

/-- Engine 31 copies from FIFO window 3 to its local memory. -/
theorem test_copy_fifo : copyOk (itemState none []) (2 ^ 63 + 3 * 2 ^ 56 + 65532) 4 = true ∧
    copyOk (itemState none []) (2 ^ 63 + 2 * 2 ^ 56) 4 = false ∧ bitsOf (2 ^ 63 + 3 * 2 ^ 56) 62 2 = 2 ∧
    Memory.readBytes marchFill (after (.copyUnitGo 31 (BitVec.ofNat 64 (2 ^ 63 + 3 * 2 ^ 56)) (BitVec.ofNat 64 (2 ^ 62)) 4 [] true)
      (itemState none [])).chn.local_ (31 * 65536) 4 = [0, 0, 0, 0] := by decide +kernel

/-! ### The Assay engine, triggers, SYNC -/

/-- An acquisition buffer of one unit in window 1, and a ring behind nothing. -/
def asyState (l : List (Fld × Nat)) : State :=
  put (windowed 4) ([(F.HBM_WIN_SIZE_SIZE 1, 2), (F.ASY_ACQ_WINDOW_WINDOW, 1), (F.ASY_ACQ_SIZE_UNITS, 1)] ++ l)

theorem test_arm : armRefused (plainWrite (asyState []) 0xB0004 1) = false ∧
    armRefused (plainWrite (asyState [(F.ASY_ACQ_WIDTH_W, 65)]) 0xB0004 1) = true ∧
    getB (after (.arm 1) (asyState [(F.ASY_STATUS_DONE, 1)])) F.ASY_STATUS_ARMED = true ∧
    getB (after (.arm 1) (asyState [(F.ASY_STATUS_DONE, 1)])) F.ASY_STATUS_DONE = false ∧
    getB (after (.arm 1) (asyState [(F.ASY_ACQ_WIDTH_W, 65)])) F.ASY_STATUS_CFG_REJECT = true := by decide +kernel

theorem test_disarm : getB (after (.disarm 2) (after (.arm 1) (asyState []))) F.ASY_STATUS_ARMED = false ∧
    (after (.forceTrigger 4) (asyState [])).asy.forcePending = true := by decide +kernel

theorem test_tracker : redOk (plainWrite (asyState [(F.ASY_RED_SIZE_UNITS, 1)]) (F.ASY_TRK_CTRL_EN 31).addr 0) = false ∧
    redOk (plainWrite (asyState [(F.ASY_RED_OFFSET_UNITS, 1), (F.ASY_RED_SIZE_UNITS, 1)]) (F.ASY_TRK_CTRL_EN 31).addr 0) = true ∧
    getB (after (.trackerEnable 31 0x80000000) (asyState [(F.ASY_RED_OFFSET_UNITS, 1), (F.ASY_RED_SIZE_UNITS, 1)]))
      (F.ASY_TRK_CTRL_EN 31) = true ∧
    getB (after (.trackerEnable 31 0) (asyState [(F.ASY_TRK_CTRL_EN 31, 1)])) (F.ASY_TRK_CTRL_EN 31) = false ∧
    getF (after (.redClear 1) (asyState [(F.ASY_RED_INDEX_NEXT, 5)])) F.ASY_RED_INDEX_NEXT = 0 := by decide +kernel

/-- The last word of MASK of comparator 15. -/
def patState (armed : Nat) : State :=
  asyState [(F.ASY_PAT_INDEX_MASK, 1), (F.ASY_PAT_INDEX_COMP, 15), (F.ASY_PAT_INDEX_WORD, 31), (F.ASY_STATUS_ARMED, armed)]

theorem test_pat : getF (after (.patDataAccess (some 7)) (patState 0)) (patField (patState 0)) = 7 ∧
    getF (after (.patDataAccess (some 7)) (patState 1)) (patField (patState 1)) = 0 ∧
    getF (after (.patDataAccess none) (patState 0)) F.ASY_PAT_INDEX_WORD = 0 ∧
    getB (patState 1) F.ASY_STATUS_ARMED = true := by decide +kernel

/-- Line 7 takes frames; line 6 takes edges; the dies have voted for cycle 5. -/
def trigState (settled : Nat) : State :=
  let s := asyState [(F.ASY_TRIG_LINE_IN_EN 7, 1), (F.ASY_TRIG_LINE_IN_EN 6, 1), (F.ASY_TRIG_LINE_MODE 6, 1)]
  { s with
    run := { s.run with votes := [(20, some true), (21, some true), (22, some true), (23, some true)] }
    asy := { Asy.reset with settled := settled, lastFrame := [(7, some 0x81)] } }

theorem test_trigger : frameTarget (trigState 6) 5 = 5 ∧ frameTarget (trigState 6) 4 = 260 ∧ frameIn (trigState 6) 7 = true ∧
    frameIn (trigState 6) 6 = false ∧ voteCast (trigState 6) 5 = true ∧ voteCast (trigState 5) 5 = false ∧
    (after (.trigFrame 7 4) (trigState 6)).asy.inputs = [(7, 260)] ∧
    getF (after (.trigFrame 7 5) (trigState 6)) F.ASY_TRIG_LATE_COUNT = 1 ∧
    (after (.trigCollide 7) (trigState 6)).outs = [.trigger 7 0x81] ∧ (after (.trigEdge 6) (trigState 6)).asy.edges = [6] ∧
    (after .trigSettleVote (trigState 0)).asy.settled = 6 := by decide +kernel

theorem test_sync : getB (plainWrite (asyState []) 0xB0740 3) F.ASY_SYNC_CTRL_DRIVE = true ∧
    (after (.fire 3) (asyState [])).outs = [.sync] ∧
    timeNs (after .sync (asyState [(F.ASY_SYNC_CTRL_LOAD_TIME, 1), (F.ASY_SYNC_TIME_HI_TIME, 7)])) = 7 * 2 ^ 32 ∧
    emState (after .sync { asyState [(F.ARY_STATE_MULTI, 1)] with run := { RunCtl.reset with waitSync := true } }) = 2 := by
  decide +kernel


/-! ### Links -/

/-- Link 15 is Active over 16 lanes with a spare, and link 0 is Active. -/
def lnkState (l : List (Fld × Nat)) : State :=
  put State.reset ([(F.LNK_LINK_STATUS_STAGE 15, 7), (F.LNK_LINK_CFG_WIDTH 15, 16), (F.LNK_LINK_CFG_SPARE 15, 1),
    (F.LNK_LINK_STATUS_STAGE 0, 7), (F.LNK_LINK_CFG_WIDTH 0, 4)] ++ l)

/-- The same while the device runs, in a machine of 16 whose vote root it is or is not. -/
def machState (root : Bool) : State :=
  lnkState [(F.ARY_SCHEDULE_S, 64), (F.ARY_STATE_STATE, 2), (F.ARY_STATE_MULTI, 1), (F.LNK_MACHINE_SIZE_M1, 15),
    (F.ARY_STATE_VOTE_ROOT, if root then 1 else 0), (F.ARY_STATE_POSITION, if root then 0 else 15)]

/-- A control block of type `ct` and origin 15, and one as it is driven on link `l`. -/
def blk (ct : Nat) (payload : BitVec 42) : CtlBlock := ⟨15, 15, payload, BitVec.ofNat 8 (blockCrc ct 15 15 payload.toNat)⟩
def blkOut (l ct o n p : Nat) : Out := .block l ct o n p (blockCrc ct o n p)

theorem test_heard : (∀ ct ∈ [3, 8, 9, 0xA, 0xB, 0xC, 0xD, 0x10, 0x13, 0x14, 0x15, 0x16, 0x17, 0x18],
      Heard (machState true) 15 ct (blk ct 0)) ∧ ¬Heard (lnkState []) 15 8 { blk 8 0 with payload := 1 } ∧
    ¬Heard State.reset 15 8 (blk 8 0) ∧ Carries (lnkState []) 15 ∧ Carries (lnkState []) 0 := by
  unfold Heard Carries; decide +kernel

theorem test_hold_block : executing (machState true) = true ∧ executing (lnkState []) = false ∧
    (after (.holdBlock 15 (blk 8 5)) (machState true)).outs = [blkOut 0 8 15 15 5] ∧
    (after (.holdBlock 15 (blk 8 5)) (machState true)).dies.toList.map Die.freezeAt = List.replicate 4 (some 1) ∧
    (after (.holdBlock 15 (blk 8 5)) { machState true with holds := { Holds.reset with forwarded := [holdKey 15 15 5] } }).outs = [] := by
  decide +kernel

/-- Position 15 hangs on position 0 by its link 15. -/
def leaf : State :=
  let s := machState false
  { s with lnk := { s.lnk with graph := [⟨15, 0, 15, 3, 9⟩, ⟨0, 15, 15, 3, 9⟩] } }

theorem test_vote_tree : rootLink leaf = [15] ∧ voteRoot leaf = false ∧ multi leaf = true ∧
    (after (.readyBlock 0 (blk 9 7)) leaf).outs = [blkOut 15 9 15 15 7] ∧
    (after (.voteBlock 0 (blk 0xB (2 ^ 41 + 7))) leaf).outs = [blkOut 15 0xB 15 15 (2 ^ 41 + 7)] ∧
    (after (.startReadyBlock 0 (blk 0xD 0)) leaf).outs = [blkOut 15 0xD 15 15 0] := by decide +kernel

/-- The vote root between position 1, by link 0, and position 2 to 15, by link 15. -/
def root (reports : Nat) : State :=
  let s := machState true
  { s with
    lnk := { s.lnk with graph := [⟨0, 1, 0, 3, 9⟩, ⟨0, 15, 15, 4, 9⟩] }
    holds := { s.holds with readyFrom := (List.range reports).map (fun q => (q, some (40 + q))) } }

/-- The root with its dies frozen, and nothing that they wait for. -/
def frozenRoot (reports : Nat) : State :=
  put (allDies (root reports) (fun x => { x with frozen := true })) [(F.ARY_STATE_STATE, 3)]

theorem test_ready_resume : fromRoot (root 0) = [0, 15] ∧
    ((root 14).holds.readyFrom.set none 15 (some 9)).length = 15 ∧
    (after (.readyBlock 15 (blk 9 9)) (root 14)).holds.release = none ∧
    deviceReady (root 15) = false ∧ deviceReady (frozenRoot 15) = true ∧ multi (frozenRoot 15) = true ∧
    (after (.readyBlock 15 (blk 9 9)) (root 15)).holds.release = none ∧
    (after (.readyBlock 15 (blk 9 9)) (frozenRoot 15)).holds.release = some (0, 9) ∧
    (after (.readyBlock 15 (blk 9 9)) (frozenRoot 15)).outs = [blkOut 0 0xA 0 0 (9 * 2 ^ 21), blkOut 15 0xA 0 0 (9 * 2 ^ 21)] ∧
    (frozenRoot 15).lnk.cut = false ∧ (frozenRoot 15).holds.release = none ∧
    (after (.resumeBlock 15 (blk 0xA (9 * 2 ^ 21 + 20))) (root 0)).holds.release = some (20, 9) ∧
    (after (.resumeBlock 15 (blk 0xA (9 * 2 ^ 21 + 20))) (root 0)).outs.length = 2 := by decide +kernel

theorem test_vote_commit :
    (after (.voteBlock 15 (blk 0xB (2 ^ 41 + 2 ^ 40 + 3))) (root 0)).run.devVotes = [(3 * 16 + 15, some false)] ∧
    (after (.voteBlock 15 (blk 0xB (2 ^ 41 + 2 ^ 40 + 3))) (root 0)).run.stopCycles = [3] ∧
    (after (.voteBlock 15 (blk 0xB 3)) (root 0)).run.devVotes = [(3 * 16 + 15, some true)] ∧
    (after (.commitBlock 15 (blk 0xC 3)) (root 0)).run.rootCommit = 4 ∧
    (after (.commitBlock 15 (blk 0xC 3)) (root 0)).outs = [blkOut 0 0xC 15 15 3, blkOut 15 0xC 15 15 3] := by decide +kernel

/-- All but position 15 have reported START_READY, and the root drives SYNC. -/
def starting : State :=
  let s := put (root 0) [(F.ASY_SYNC_CTRL_DRIVE, 1)]
  { s with lnk := { s.lnk with started := List.range 15 } }

theorem test_start_ready : voteRoot starting = true ∧ getB starting F.LNK_FORM_STATUS_START_READY = false ∧
    (after (.startReadyBlock 15 (blk 0xD 0)) starting).outs = [.sync] ∧
    getB (after (.startReadyBlock 15 (blk 0xD 0)) starting) F.LNK_FORM_STATUS_START_READY = true ∧
    (after (.startReadyBlock 15 (blk 0xD 0)) (root 0)).outs = [] := by decide +kernel

theorem test_idle : linkActive (lnkState []) 15 = true ∧ (link (after (.idleBlock 15 (blk 1 0)) (lnkState [])) 15).idle = 1 ∧
    (link (after (.trackBlock 15 (blk 2 0)) (lnkState [])) 15).idle = 1 ∧
    (link (after (.idleBlock 15 (blk 2 0)) (lnkState [])) 15).idle = 0 ∧ linkActive State.reset 15 = false := by decide +kernel

/-- Link 15 with changes to its state. -/
def withLink (s : State) (g : LinkSt → LinkSt) : State := onLink s 15 g

/-- Two frames wait for their acknowledgement: SEQ 4095 and 0. -/
def unacked (replays : Nat) : State :=
  withLink (lnkState []) (fun x => { x with
    replay := [⟨false, 0, 1, 4095, 0, []⟩, ⟨false, 0, 1, 0, 1, []⟩], replays := replays, rxSeq := 6 })

theorem test_ack : (link (unacked 0) 15).replays < 7 ∧ (link (unacked 0) 15).replay ≠ [] ∧
    ((link (after (.ackBlock 15 (blk 3 (4095 * 2 ^ 30))) (unacked 0)) 15).replay.map TxFrame.seq) = [0] ∧
    (after (.ackBlock 15 (blk 3 (4095 * 2 ^ 30 + 2 ^ 29))) (unacked 0)).outs.length = 1 ∧
    (after (.linkReplayTimeout 15) (unacked 6)).outs.length = 2 ∧
    linkStage (after (.linkReplayTimeout 15) (unacked 6)) 15 = 7 ∧
    linkStage (after (.linkReplayTimeout 15) (unacked 7)) 15 = 2 ∧
    getF (after (.linkReplayTimeout 15) (unacked 7)) (F.LNK_LINK_ERR_REPLAYS 15) = 2 := by decide +kernel

theorem test_bring_up_blocks :
    getF (after (.exchangeBlock 15 0 (blk 0x10 0xA000)) (lnkState [])) (F.LNK_LINK_STATUS_FAR_POS 15) = 10 ∧
    getF (after (.exchangeBlock 15 1 (blk 0x11 0xA000)) (lnkState [])) (F.LNK_LINK_FAR_SERIAL 15) = 0xA000 ∧
    (after (.measureBlock 15 (blk 0x14 77)) (lnkState [])).outs = [blkOut 15 0x15 0 0 77] ∧
    linkStage (put State.reset [(F.LNK_LINK_STATUS_STAGE 15, 6)]) 15 = 6 ∧
    (link (after (.echoBlock 15 (blk 0x15 (2 ^ 21 - 256))) (put State.reset [(F.LNK_LINK_STATUS_STAGE 15, 6),
      (F.CLK_SCLK_D, 256)])) 15).roundTrip = some 256 := by decide +kernel

theorem test_spare : spareFree (lnkState []) 15 = true ∧ spareFree (lnkState []) 0 = false ∧
    getF (after (.spareSwitchBlock 15 ⟨blk 0x16 15, 0⟩) (lnkState [])) (F.LNK_LINK_STATUS_FAILED_LANE 15) = 15 ∧
    getF (lnkState []) (F.LNK_LINK_CFG_WIDTH 15) = 16 ∧
    (after (.laneFailing 15 15 ⟨0, 0⟩) (lnkState [])).outs = [blkOut 15 0x16 0 0 15] ∧
    linkStage (after (.laneFailing 0 3 ⟨0, 0⟩) (lnkState [])) 0 = 2 ∧
    getB (after (.laneFailing 0 3 ⟨0, 0⟩) (lnkState [])) F.LNK_STATUS_LINK_DOWN = true := by decide +kernel

/-- DEEP_REQ has been sent on link 15. -/
def deepWaits : State := withLink (lnkState []) (fun x => { x with deepWait := true })

theorem test_deep : getB (after (.deepReqBlock 15 (blk 0x17 0)) (lnkState [])) (F.LNK_LINK_STATUS_DEEP 15) = true ∧
    linkStage (after (.deepReqBlock 15 (blk 0x17 0)) (machState true)) 15 = 7 ∧
    linkStage (after (.deepAckBlock 15 (blk 0x18 0)) deepWaits) 15 = 0 ∧ (link deepWaits 15).deepWait = true ∧
    (after (.deep 15 0x80000000) (lnkState [])).outs = [blkOut 15 0x17 0 0 0] ∧
    (link (after (.deep 15 0x80000000) (lnkState [])) 15).deepWait = true ∧
    (link (after (.deep 15 0x80000000) (machState true)) 15).deepWait = false ∧
    (link (lnkState []) 15).deepWait = false ∧ (link (after (.deepAckTimeout 15) deepWaits) 15).deepWait = false ∧
    linkStage (after (.deepExit 15) (put State.reset [(F.LNK_LINK_STATUS_DEEP 15, 1)])) 15 = 1 := by decide +kernel

/-- A frame of origin 3, from step tag 1023 on, with its CRC16. -/
def frm (dest : BitVec 4) (seq : BitVec 12) (mgmt : Bool) (items : List (BitVec 16)) : LinkFrame :=
  ⟨3, dest, seq, 1023, items, 0, false,
    BitVec.ofNat 16 (frameCrc mgmt 3 dest.toNat seq.toNat 1023 (items.map BitVec.toNat) 0 false), 255⟩

theorem crc_lt {n poly : Nat} (hp : poly < 2 ^ n) (w : Nat) : ∀ k c, c < 2 ^ n → crcBits n poly w k c < 2 ^ n
  | 0, _, h => h
  | k + 1, c, _ => by
    refine crc_lt hp w k _ ?_
    have ht : c * 2 % 2 ^ n < 2 ^ n := Nat.mod_lt _ (Nat.two_pow_pos n)
    unfold crcBit
    dsimp only
    split
    · exact Nat.xor_lt_two_pow ht hp
    · exact ht

theorem fold_crc_lt (items : List Nat) : ∀ (l : List Nat) (c : Nat), c < 2 ^ 16 →
    l.foldl (fun c j => crcBits 16 0x1021 (itemWord items j) 64 c) c < 2 ^ 16
  | [], _, h => h
  | _ :: l, _, h => fold_crc_lt items l _ (crc_lt (by decide) _ 64 _ h)

theorem frameCrc_lt (m : Bool) (a b c d : Nat) (is : List Nat) (k : Nat) (n : Bool) : frameCrc m a b c d is k n < 2 ^ 16 := by
  unfold frameCrc
  exact crc_lt (by decide) _ 48 _ (fold_crc_lt is _ _ (crc_lt (by decide) _ 64 _ (by decide)))

/-- A frame with its CRC16 is good. -/
theorem frm_ok (dest : BitVec 4) (seq : BitVec 12) (m : Bool) (is : List (BitVec 16)) : frameOk m (frm dest seq m is) = true := by
  have h := frameCrc_lt m 3 dest.toNat seq.toNat 1023 (is.map BitVec.toNat) 0 false
  unfold frameOk frm
  simp only [BitVec.toNat_ofNat]
  rw [Nat.mod_eq_of_lt h, beq_iff_eq]
  rfl

theorem test_link_frames : (link (lnkState []) 15).frozen = false ∧ (link (lnkState []) 15).rxSeq = 4095 ∧
    position (lnkState []) = 0 ∧ (link (lnkState []) 15).replays < 7 := by decide +kernel

theorem test_data_frame : (after (.dataFrame 15 (frm 0 0 false [4, 0x8001, 4])) (lnkState [])).outs = [blkOut 15 3 0 0 0] := by
  simp only [after, exec, execDataFrame, frameIn_, frm_ok]
  decide +kernel

theorem test_mgmt_frame : (after (.mgmtFrame 15 ⟨frm 0 0 true [4, 0x8001, 4], none⟩) (lnkState [])).lnk.mgmtIn = [(3, [4, 0x8001, 4])] := by
  simp only [after, exec, execMgmtFrame, frameIn_, frm_ok]
  decide +kernel

/-- A frame out of sequence. -/
theorem test_frame_nak : (link (after (.dataFrame 15 (frm 0 1 false [])) (lnkState [])) 15).nak = true := by
  simp only [after, exec, execDataFrame, frameIn_, frm_ok]
  decide +kernel

/-- One bit of a good frame's CRC16 flipped. -/
theorem test_bad_frame : frameOk false { frm 0 0 false [] with crc := (frm 0 0 false []).crc ^^^ 1 } = false := by
  have h := frm_ok 0 0 false []
  unfold frameOk at h ⊢
  rw [beq_iff_eq] at h
  rw [beq_eq_false_iff_ne]
  intro e
  exact absurd (BitVec.eq_of_toNat_eq (e.trans h.symm)) (by generalize (frm 0 0 false []).crc = x; revert x; decide +kernel)

theorem test_forwarded_frame :
    routeTo (lnkState [(F.LNK_ROUTE_VALID 9, 1), (F.LNK_ROUTE_LINK 9, 0)]) 9 = some 0 ∧
    (link (after (.dataFrame 15 (frm 9 0 false [4]))
      (lnkState [(F.LNK_ROUTE_VALID 9, 1), (F.LNK_ROUTE_LINK 9, 0)])) 0).queue = [⟨3, 9, 1023, 4⟩] := by
  simp only [after, exec, execDataFrame, frameIn_, frm_ok]
  decide +kernel

/-- Link 15 in a stage of bring-up. -/
def stageAt (g : Nat) (x : LinkSt → LinkSt) : State := withLink (lnkState [(F.LNK_LINK_STATUS_STAGE 15, g)]) x

/-- What the far end says in EXCHANGE. -/
def exchanged : LinkSt → LinkSt := fun x => { x with exch := [(0, some (16 + 2 ^ 5)), (1, some 0), (2, some 0), (3, some 0)] }

theorem test_stages : (∀ g ∈ [1, 3], linkStage (after (.linkStagePass 15 ⟨[], 0⟩) (stageAt g id)) 15 = g + 1) ∧
    linkStage (after (.linkStagePass 15 ⟨(List.replicate 17 (9, 255)), 0⟩) (stageAt 2 id)) 15 = 3 ∧
    getF (after (.linkStagePass 15 ⟨(List.replicate 17 (9, 255)), 0⟩) (stageAt 2 id)) (F.LNK_LANE_EYE 16) = 255 ∧
    linkStage (after (.linkStagePass 15 ⟨[], 0⟩) (stageAt 2 id)) 15 = 2 ∧
    (after (.linkStagePass 15 ⟨[], 0⟩) (stageAt 4 id)).outs.length = 4 ∧
    exchangeAgrees (stageAt 5 exchanged) 15 = true ∧
    (after (.linkStagePass 15 ⟨[], 0⟩) (stageAt 5 exchanged)).outs.length = 64 := by decide +kernel

/-- Link 15 in Measure, with its round trip and an earlier latency. -/
def measured (rt : Nat) (kept : Option Nat) : State := stageAt 6 (fun x => { x with roundTrip := some rt, latency := kept })

theorem test_measure : dataLatency 28 16 0 = 37 ∧ controlLatency 28 16 0 = 12 ∧
    getB (measured 28 none) (F.LNK_LINK_STATUS_DEEP 15) = false ∧
    linkActive (after (.linkStagePass 15 ⟨[], 0⟩) (measured 28 none)) 15 = true ∧
    getF (after (.linkStagePass 15 ⟨[], 0⟩) (measured 28 none)) (F.LNK_LINK_LAT_DATA 15) = 37 ∧
    getF (after (.linkStagePass 15 ⟨[], 0⟩) (measured 28 (some 33))) (F.LNK_LINK_LAT_DATA 15) = 33 ∧
    getB (after (.linkStagePass 15 ⟨[], 0⟩) (measured 28 (some 32))) F.LNK_STATUS_DELAY_BREACH = true ∧
    linkStage (after (.linkStageTimeout 15) (stageAt 6 id)) 15 = 1 ∧ (link (stageAt 6 id) 15).roundTrip = none ∧
    getF (after (.linkStageTimeout 15) (stageAt 6 id)) (F.LNK_LINK_STATUS_FAIL_STAGE 15) = 6 := by decide +kernel

/-- A machine of two, formed. -/
def pair : List GraphEdge := [⟨0, 1, 15, 112, 9⟩, ⟨1, 0, 0, 112, 9⟩]

def formedPair : State :=
  let s := lnkState [(F.LNK_STATUS_FORMED, 1), (F.LNK_MACHINE_SIZE_M1, 1), (F.ARY_STATE_MULTI, 1), (F.ARY_STATE_STATE, 2),
    (F.ARY_SCHEDULE_S, 64)]
  { s with lnk := { s.lnk with graph := pair, full := pair } }

theorem test_link_down : linkActive formedPair 15 = true ∧ getB formedPair F.LNK_STATUS_FORMED = true ∧ multi formedPair = true ∧
    executing formedPair = true ∧
    getF (after (.linkLeavesActive 15 pair) formedPair) F.LNK_DIAMETER_STEPS = 112 ∧
    (after (.linkLeavesActive 15 []) formedPair).lnk.cut = true ∧ sourceOn (after (.linkLeavesActive 15 []) formedPair) 11 = true ∧
    getF (after (.linkLeavesActive 15 []) formedPair) F.LNK_DIAMETER_STEPS = 0xFFFF := by decide +kernel

theorem test_enable : getB (lnkState []) (F.LNK_LINK_CFG_EN 1) = false ∧
    linkCfgOk (plainWrite (lnkState []) (0xC0100 + 32) 0x11) 1 = false ∧
    linkStage (after (.linkCfgEnable 1 0x80000004) (lnkState [])) 1 = 1 ∧
    getB (after (.linkCfgEnable 1 0x80000000) (lnkState [])) F.LNK_STATUS_CFG_REJECT = true ∧
    linkStage (after (.linkCfgEnable 15 0) (lnkState [(F.LNK_LINK_CFG_EN 15, 1)])) 15 = 0 ∧
    getB (lnkState [(F.LNK_LINK_CFG_EN 15, 1)]) (F.LNK_LINK_CFG_EN 15) = true := by decide +kernel

/-- FORM has been written at position 0 of two. -/
def forming (size : Nat) : State := after (.form (BitVec.ofNat 32 (2 ^ 31 + size * 256))) (lnkState [])

theorem test_form : emState (lnkState []) = 0 ∧ emState formedPair ≠ 0 ∧ (forming 1).lnk.forming = true ∧
    getB (forming 0) F.LNK_STATUS_FORMED = true ∧ multi (forming 0) = false ∧ machineSize (forming 1) = 2 := by decide +kernel

theorem test_formation : getB (after (.formationCheck [⟨1, 5, 1, true⟩] pair) (forming 1)) F.LNK_STATUS_FORMED = true ∧
    getB (after (.formationCheck [⟨1, 5, 1, true⟩] pair) (forming 1)) F.LNK_FORM_STATUS_DOZE_ANY = true ∧
    routeTo (after (.formationCheck [⟨1, 5, 1, true⟩] pair) (forming 1)) 1 = some 15 ∧
    (∀ e ∈ [([⟨0, 5, 1, true⟩], pair, 1), ([⟨1, 5, 2, true⟩], pair, 2), ([], pair, 3), ([⟨1, 5, 1, true⟩], [], 3),
        ([⟨1, 5, 1, true⟩], [⟨0, 1, 15, 225, 9⟩, ⟨1, 0, 0, 225, 9⟩], 4)],
      getF (after (.formationCheck e.1 e.2.1) (forming 1)) F.LNK_FORM_STATUS_REASON = e.2.2) := by decide +kernel

theorem test_retrain : linkStage (after (.retrain 15 0x40000000) (lnkState [])) 15 = 2 ∧
    getB (lnkState []) (F.LNK_LINK_STATUS_DEEP 15) = false := by decide +kernel

/-- Adaptation has seen 4,096 idle blocks. -/
def idleLong : State := withLink (lnkState [(F.LNK_CTRL_DOZE_EN, 1)]) (fun x => { x with idle := 4096, txIdle := 65536 })

theorem test_doze : dozeDue idleLong 15 = true ∧ getB idleLong F.LNK_CTRL_DOZE_EN = true ∧ (link idleLong 15).queue = [] ∧ (link idleLong 15).mgmt = [] ∧
    getB (after (.dozeEntry ⟨15, false⟩) idleLong) (F.LNK_LINK_STATUS_DOZE_TX 15) = true ∧
    getB (after (.dozeExit ⟨15, false⟩) (after (.dozeEntry ⟨15, false⟩) idleLong)) (F.LNK_LINK_STATUS_DOZE_TX 15) = false ∧
    4096 ≤ (link idleLong 15).idle ∧ (link (after (.adaptationFreeze 15) idleLong) 15).frozen = true := by decide +kernel

theorem test_map_read : (after .lnkMapDataRead { put State.reset [(F.LNK_MAP_INDEX_ENTRY, 4095)] with
      lnk := { Lnk.reset with map := [(4095, 0x80000007)] } }).outs = [.readValue 0 0x80000007] ∧
    getF (after .lnkMapDataRead (put State.reset [(F.LNK_MAP_INDEX_ENTRY, 4095)])) F.LNK_MAP_INDEX_ENTRY = 0 := by decide +kernel

/-- Adaptation is frozen on link 15, and position 0 waits for position 3 with a Hallmark. -/
def frozenLink : State := withLink (lnkState []) (fun x => { x with frozen := true })

theorem test_narrow_eye : ¬((link frozenLink 15).frozen = false ∨ getF frozenLink F.LNK_EYE_MIN ≤ (0 : Byte).toNat) ∧
    frameOk false { frm 0 0 false [] with eye := 0 } = true := ⟨by decide +kernel, frm_ok 0 0 false []⟩

theorem test_mgmt_ramp : (after (.mgmtFrame 15 ⟨frm 0 0 true [], some (.rampWant 300)⟩) (lnkState [])).clk.wants = [(3, 300)] := by
  simp only [after, exec, execMgmtFrame, frameIn_, frm_ok]
  decide +kernel

theorem test_breach_holds : linkStage (after (.linkStagePass 15 ⟨[], 0⟩) (stageAt 6 (fun x => { x with breach := true, roundTrip := some 28 }))) 15 = 6 := by
  decide +kernel

/-! ### HBM -/

theorem test_apply : (getF (after (.apply 0xF 0x8) State.reset) F.HBM_STATUS_READY) = 8 ∧
    (getF (after (.apply 0xF 0x8) State.reset) F.HBM_STATUS_PHY_FAIL) = 7 ∧
    (getF State.reset F.HBM_STATUS_READY) = 0 := by decide +kernel

/-- Stacks 0 and 1 are READY, and the preserved table holds window 15 in pseudo-channel 0. -/
def tableState : State :=
  let s := put State.reset [(F.HBM_STATUS_READY, 3)]
  { s with hbm := { s.hbm with table0 := some (List.replicate 105 0 ++ [0x90000000, 3, 1, 1, 0, 0, 0]) } }

theorem test_restore_table : (stackReady tableState 0 && true || stackReady tableState 32 && false) = true ∧
    getB (after (.restoreTable 1 true false) tableState) F.HBM_STATUS_TABLE_VALID = true ∧
    getB (after (.restoreTable 1 true false) tableState) (F.HBM_WIN_CTRL_EN 15) = true ∧
    getF (after (.restoreTable 1 true false) tableState) (F.HBM_WIN_CTRL_OWNER 15) = 1 ∧
    getF (after (.restoreTable 1 true false) tableState) (F.HBM_WIN_BASE_BASE 15) = 3 ∧
    (stackReady tableState 0 && false || stackReady tableState 32 && false) = false ∧
    getB (after (.restoreTable 1 false false) tableState) F.HBM_STATUS_TABLE_VALID = false ∧
    tableState.hbm.table0.isSome ∧ tableState.hbm.table32 = none := by decide +kernel

/-- A window 15 of one pseudo-channel, 127, in stack 3 that is READY or not. -/
def winState (ready : Nat) (l : List (Fld × Nat)) : State :=
  put State.reset ([(F.HBM_STATUS_READY, ready), (F.HBM_WIN_SIZE_SIZE 15, 1), (F.HBM_WIN_SET_SET 15 3, 0x80000000)] ++ l)

theorem test_window : getB (winState 8 []) (F.HBM_WIN_CTRL_EN 15) = false ∧
    getB (after (.windowEnable 15 0x85000000) (winState 8 [])) (F.HBM_WIN_CTRL_EN 15) = true ∧
    getB (after (.windowEnable 15 0x85000000) (winState 7 [])) F.HBM_STATUS_WIN_REJECT = true ∧
    getB (after (.windowEnable 15 0) (winState 8 [(F.HBM_WIN_CTRL_EN 15, 1)])) (F.HBM_WIN_CTRL_EN 15) = false ∧
    getB (after (.windowEnable 15 0) (winState 8 [(F.HBM_WIN_CTRL_EN 15, 1), (F.HBM_WIN_CTRL_LOCK 15, 1)])) (F.HBM_WIN_CTRL_EN 15) =
      true ∧ getB (winState 8 [(F.HBM_WIN_CTRL_EN 15, 1)]) (F.HBM_WIN_CTRL_EN 15) = true ∧
    getF (winState 8 [(F.HBM_WIN_CTRL_EN 15, 1)]) (F.HBM_WIN_CTRL_OWNER 15) = bitsOf 0 28 3 := by decide +kernel

theorem test_pc_failed :
    getF (after (.pcFailedWrite 3 0xC0000000) (winState 8 [(F.HBM_WIN_CTRL_EN 15, 1), (F.HBM_PC_FAILED_FAILED 3, 0xC0000001)]))
      (F.HBM_PC_FAILED_FAILED 3) = 0x80000001 := by decide +kernel

theorem test_phy_data : let s := put State.reset [(F.HBM_PHY_INDEX_STACK, 3), (F.HBM_PHY_INDEX_ENTRY, 2047)]
    (getF s F.HBM_STATUS_READY).testBit (getF s F.HBM_PHY_INDEX_STACK) = false ∧
    getF (after (.phyDataAccess (some 0x1FF)) s) (phyField s) = 0xFF ∧
    getF (after (.phyDataAccess (some 0x1FF)) s) F.HBM_PHY_INDEX_ENTRY = 0 ∧
    (after (.phyDataAccess none) (after (.phyDataAccess (some 0x1FF)) s)).outs.length = 1 := by decide +kernel

/-- A timing written two refreshes ago or one, and the stacks' temperatures. -/
def refreshState (age temps : Nat) : State :=
  let s := put State.reset [(F.HBM_REFRESH_CTRL_AUTO_HALVE, 1), (F.HBM_TEMP_TEMP, temps), (F.HBM_REFRESH_COUNT_COUNT, 2 ^ 32 - 1)]
  { s with hbm := { s.hbm with written := [(age, 200, 300)] } }

theorem test_refresh : (after .refresh (refreshState 1 0)).hbm.timing = (200, 300) ∧
    (after .refresh (refreshState 2 0)).hbm.written = [(1, 200, 300)] ∧
    getF (after .refresh (refreshState 2 0)) F.HBM_REFRESH_COUNT_COUNT = 0 ∧
    getB (after .refresh (refreshState 2 0x56000000)) F.HBM_REFRESH_CTRL_HALVED = true ∧
    getB (after .refresh (refreshState 2 0x55000000)) F.HBM_REFRESH_CTRL_HALVED = false ∧
    (stackTemps (refreshState 2 0x56000000)).any (85 < ·) = true ∧ (stackTemps (refreshState 2 0x50505050)).all (· ≤ 80) = true ∧
    getB (after .refresh State.reset) F.HBM_REFRESH_CTRL_HALVED = false := by decide +kernel

/-- The scrub runs over stack 3. -/
def scrubbing : State := put State.reset [(F.HBM_SCRUB_CTRL_EN, 1), (F.HBM_STATUS_READY, 8)]

theorem test_hbm_scrub : getB scrubbing F.HBM_SCRUB_CTRL_EN = true ∧ stackReady scrubbing 127 = true ∧ pcFailed scrubbing 127 = false ∧
    getF (after (.scrub 127 (2 ^ 27 - 1) ⟨.clean, false⟩ none) scrubbing) F.HBM_SCRUB_PROGRESS_POSITION = 0 ∧
    getF (after (.scrub 127 (2 ^ 27 - 1) ⟨.clean, false⟩ none) scrubbing) F.HBM_SCRUB_PROGRESS_PASSES = 1 ∧
    getF (after (.scrub 127 0 ⟨.corrected, false⟩ none) scrubbing) F.HBM_SCRUB_PROGRESS_POSITION = 127 * 512 ∧
    getF (after (.scrub 127 0 ⟨.corrected, false⟩ none) scrubbing) (F.HBM_CE_COUNT_COUNT 3) = 1 ∧
    getF (after (.scrub 127 7 ⟨.uncorrectable, false⟩ none) scrubbing) F.HBM_UE_WORD_WORD = 7 ∧
    getF (after (.scrub 127 7 ⟨.uncorrectable, false⟩ none) scrubbing) F.HBM_UE_LOC_PC = 127 := by decide +kernel

theorem test_parity_twice : scrubbing.hbm.parity.get false 127 = false ∧
    pcFailed (after (.scrub 127 0 ⟨.clean, true⟩ none) scrubbing) 127 = false ∧
    pcFailed (after (.scrub 127 0 ⟨.clean, true⟩ none) (after (.scrub 127 0 ⟨.clean, true⟩ none) scrubbing)) 127 = true := by decide +kernel

/-! ### The package network -/

/-- A packet of a type from tile position 63 of die 3 to a node, with one payload flit. -/
def pkt (type : BitVec 4) (dest : BitVec 11) (len : BitVec 5) : Packet := ⟨type, 0, len, dest, 0x33F, 9, 0, 64, 0, [1]⟩

/-- Node 0x47E is of gate 65. -/
def netState (g : List (Fld × Nat)) : State := put State.reset (g.map (fun e => (gateFld e.1 65, e.2)))

/-- The packets that have been sent: TYPE, DEST, STATUS. -/
def packets (s : State) : List (Nat × Nat × Nat) :=
  s.outs.filterMap (fun o => match o with | .packet r _ => some (r.type.toNat, r.dest.toNat, r.status.toNat) | _ => none)

/-- A packet that nothing strikes on its way is judged by its TYPE and its LEN alone: its CRC is right. -/
theorem delivery (p : Packet) (e : TargetFinds) (b : Bool) (s : State) : after (.packetDelivery p ⟨[], e, b⟩) s =
    if !sourceTakes p then s
    else if !stored s p && p.type.toNat != 3 && decide (256 ≤ outstanding s p.src) then s
    else
      let t := inject s p b
      let t := passPoint t p (packetCrc p) p.dest.toNat true (seenBefore t p) b
      if decide (5 < p.type.toNat) || decide (16 < p.len.toNat) || p.len.toNat != p.payload.length
      then bumpF t F.NET_E2E_COUNT_DISCARDS 1 else accept t p e := by
  simp only [after, exec, execPacketDelivery, received, arriveAt, packetBad, List.foldl_nil, if_pos, bne_self_eq_false, Bool.false_or]

theorem test_packet_checks (c : Nat) : packetBad ⟨pkt 0 0x47E 1, c, false, c⟩ = false ∧ packetBad ⟨pkt 0 0x47E 2, c, false, c⟩ = true ∧
    received (pkt 0 0x47E 1) [] = some ⟨pkt 0 0x47E 1, packetCrc (pkt 0 0x47E 1), false, packetCrc (pkt 0 0x47E 1)⟩ := by
  refine ⟨?_, ?_, rfl⟩ <;> simp only [packetBad, bne_self_eq_false] <;> rfl

theorem test_packet_source : sourceTakes (pkt 0 0x47E 1) = true ∧ sourceTakes (pkt 0 0x47E 17) = false ∧
    sourceTakes { pkt 0 0x47E 1 with vc := 1 } = false ∧ stored State.reset (pkt 0 0x47E 1) = false ∧
    outstanding State.reset 0x33F < 256 ∧ nodeExists State.reset 0x47E = true ∧ nodeExists State.reset 0x492 = false ∧
    seenBefore State.reset (pkt 0 0x47E 1) = false ∧ isResponse (pkt 3 0x47E 1) = true ∧
    netIsolated (netState [(F.CLK_GATE_CTRL_ISOLATED, 1)]) 0x47E = true ∧ netIsolated (netState []) 0x47E = false ∧
    netHolds (netState [(F.CLK_GATE_CTRL_CLOSING, 1)]) 0x47E = true := by decide +kernel

theorem test_packet_served : packets (after (.packetDelivery (pkt 0 0x47E 1) ⟨[], (.served .clean), false⟩) (netState [])) = [(2, 0x33F, 0)] ∧
    packets (after (.packetDelivery (pkt 1 0x47E 1) ⟨[], (.served .clean), false⟩) (netState [])) = [(3, 0x33F, 0)] ∧
    packets (after (.packetDelivery (pkt 0 0x47E 1) ⟨[], (.served .uncorrectable), false⟩) (netState [])) = [(4, 0x33F, 4)] ∧
    packets (after (.packetDelivery (pkt 1 0x47E 1) ⟨[], .denied, false⟩) (netState [])) = [(4, 0x33F, 6)] ∧
    (after (.packetDelivery (pkt 1 0x47E 1) ⟨[], .later, false⟩) (netState [])).net.opened = [pkt 1 0x47E 1] := by
  simp only [delivery]; decide +kernel

theorem test_packet_refused : packets (after (.packetDelivery (pkt 1 0x492 1) ⟨[], (.served .clean), false⟩) (netState [])) = [(4, 0x33F, 2)] ∧
    packets (after (.packetDelivery (pkt 1 0x47E 1) ⟨[], (.served .clean), false⟩) (netState [(F.CLK_GATE_CTRL_ISOLATED, 1)])) = [(4, 0x33F, 1)] ∧
    getF (after (.packetDelivery (pkt 1 0x47E 2) ⟨[], (.served .clean), false⟩) (netState [])) F.NET_E2E_COUNT_DISCARDS = 1 ∧
    (after (.packetDelivery (pkt 1 0x47E 1) ⟨[], (.served .clean), false⟩) (netState [(F.CLK_GATE_CTRL_CLOSING, 1)])).net.held =
      [pkt 1 0x47E 1] := by
  simp only [delivery]; decide +kernel

/-- An ACK lets go the write that it acknowledges; a packet delivered twice is acknowledged twice. -/
theorem test_packet_ack : (after (.packetDelivery { pkt 3 0x33F 1 with src := 0x47E, vc := 1 } ⟨[], .later, false⟩)
      (after (.packetDelivery (pkt 1 0x47E 1) ⟨[], .later, false⟩) (netState []))).net.store = [] ∧
    packets (after (.packetDelivery (pkt 1 0x47E 1) ⟨[], (.served .clean), false⟩)
      (after (.packetDelivery (pkt 1 0x47E 1) ⟨[], (.served .clean), false⟩) (netState []))) = [(3, 0x33F, 0), (3, 0x33F, 0)] := by
  simp only [delivery]; decide +kernel

/-- A read of the management processor's node 0x440, sent so many times. -/
def sentState (n : Nat) : State :=
  { put State.reset [(F.NET_CTRL_RETRIES, 3)] with net := { Net.reset with store := [⟨{ pkt 0 0x47E 1 with src := 0x440 }, n⟩] } }

theorem test_resend : (sentState 3).net.store.find? (fun e => e.pkt.src = 0x440 ∧ e.pkt.tag = 9) = some ⟨{ pkt 0 0x47E 1 with src := 0x440 }, 3⟩ ∧
    isTileNode 0x440 = false ∧ packets (after (.packetResend ⟨0x440, 9⟩ false) (sentState 3)) = [(0, 0x47E, 0)] ∧
    packets (after (.packetResend ⟨0x440, 9⟩ false) (sentState 4)) = [(4, 0x440, 3)] ∧
    getF (after (.packetResend ⟨0x440, 9⟩ false) (sentState 4)) F.NET_E2E_LAST_SRC = 0x440 := by decide +kernel

/-- Gate 65 closes over a held write, and one that it has taken and not answered. -/
def closing (force : Nat) : State :=
  { netState [(F.CLK_GATE_CTRL_CLOSING, 1), (F.CLK_GATE_CTRL_FORCE, force)] with
    net := { Net.reset with held := [pkt 1 0x47E 1], opened := [{ pkt 1 0x47E 1 with tag := 10 }] } }

/-- The same with everything answered. -/
def closingQuiet : State := { closing 0 with net := { (closing 0).net with opened := [] } }

theorem test_quiesce : getB (closing 0) (gateFld F.CLK_GATE_CTRL_CLOSING 65) = true ∧
    getB (closing 1) (gateFld F.CLK_GATE_CTRL_FORCE 65) = true ∧ getB (closing 0) (gateFld F.CLK_GATE_CTRL_FORCE 65) = false ∧
    getB State.reset (gateFld F.CLK_GATE_CTRL_CLOSING 85) = false ∧ gateQuiet (drainGate (closing 0) 65) 65 = false ∧
    gateQuiet (drainGate closingQuiet 65) 65 = true ∧ packets (after (.quiesceReport 65) closingQuiet) = [(4, 0x33F, 1)] ∧
    getB (after (.quiesceReport 65) closingQuiet) (gateFld F.CLK_GATE_CTRL_OPEN 65) = false ∧
    getB (after (.quiesceReport 65) (closing 0)) (gateFld F.CLK_GATE_CTRL_OPEN 65) = true ∧
    packets (after (.quiesceTimeout 65) (closing 1)) = [(4, 0x33F, 1), (4, 0x33F, 1)] ∧
    getB (after (.quiesceTimeout 65) (closing 1)) (gateFld F.CLK_GATE_CTRL_ISOLATED 65) = true ∧
    getF (after (.quiesceTimeout 65) (closing 1)) F.NET_ISO_LAST_NODE = 0x47E ∧
    getB (after (.quiesceTimeout 65) (closing 0)) F.CLK_STATUS_QUIESCE_TIMEOUT = true := by decide +kernel

/-- A trace window 15 of the firmware. -/
def traceState (owner : Nat) : State :=
  put State.reset [(F.NET_TRACE_WINDOW_WINDOW, 15), (F.HBM_WIN_CTRL_EN 15, 1), (F.HBM_WIN_CTRL_OWNER 15, owner), (F.NET_TRACE_INDEX_NEXT, 7)]

theorem test_net_trace : getF (after (.traceClear 0x10) (traceState 5)) F.NET_TRACE_INDEX_NEXT = 0 ∧
    getB (after (.traceEnable 0x80000002) (traceState 5)) F.NET_TRACE_CTRL_EN = true ∧
    getB (after (.traceEnable 0x80000002) (traceState 4)) F.NET_STATUS_TRACE_REJECT = true ∧
    getB (traceState 5) F.NET_TRACE_CTRL_EN = false := by decide +kernel

/-- A request that its target has not answered yet comes again: nothing is sent. -/
theorem test_packet_open : packets (after (.packetDelivery (pkt 1 0x47E 1) ⟨[], .later, false⟩)
    (after (.packetDelivery (pkt 1 0x47E 1) ⟨[], .later, false⟩) (netState []))) = [] := by
  simp only [delivery]; decide +kernel

/-! ### Clocks and power -/

/-- The device with changes to its clock block. -/
def clkState (l : List (Fld × Nat)) (g : ClkSt → ClkSt) : State := let s := put State.reset l; { s with clk := g s.clk }

/-- Everything runs from its PLL. -/
def onPlls : State :=
  clkState ([(F.CLK_PLL_LOCK_LOCK, 2 ^ 29 - 1), (F.ARY_SCHEDULE_S, 64), (F.ARY_STATE_STATE, 2), (F.CLK_SCLK_D, 256),
    (F.CLK_SCLK_TARGET, 256), (F.HBM_STATUS_READY, 0xF)] ++ (List.range 27).map (fun i => (F.CLK_SWITCH_CURRENT i, 1))) id

theorem test_pll_stable : State.reset.clk.lost = false ∧
    getF (after (.pllStable 28) State.reset) F.CLK_PLL_LOCK_LOCK = 2 ^ 28 ∧ islandPll 26 = 26 ∧ islandPll 0 = 3 ∧
    getF (after (.pllStable 26) (put State.reset [(F.CLK_SWITCH_SEL 26, 1)])) (F.CLK_SWITCH_CURRENT 26) = 1 ∧
    getF (after (.pllStable 25) (put State.reset [(F.CLK_SWITCH_SEL 26, 1)])) (F.CLK_SWITCH_CURRENT 26) = 0 ∧
    (clkState [] (fun c => { c with lost := true })).clk.lost = true := by decide +kernel

/-- A fabric header by which HPLL 0 feeds user clock 3. -/
def hpllOn : State := { State.reset with hgr := { State.reset.hgr with loaded := true, cfg := [(0, 1), (7, 9)] } }

theorem test_hpll : hpllByte hpllOn 0 0 ≠ 0 ∧ getB (after (.pllStable 27) hpllOn) F.HGR_PLL_0_LOCKED = true ∧
    getB (after (.pllStable 27) hpllOn) (F.HGR_UCLK_RUNNING 3) = true ∧
    getB (after (.pllStable 27) hpllOn) (F.HGR_UCLK_RUNNING 2) = false ∧
    getB (after (.pllUnlock 27) (after (.pllStable 27) hpllOn)) (F.HGR_UCLK_RUNNING 3) = false := by decide +kernel

theorem test_pll_unlock : pllLocked onPlls 28 = true ∧ pllLocked State.reset 28 = false ∧ executing onPlls = true ∧
    getF (after (.pllUnlock 28) onPlls) F.CLK_PLL_LOCK_LOCK = 2 ^ 28 - 1 ∧
    getF (after (.pllUnlock 0) onPlls) (F.CLK_SWITCH_CURRENT 6) = 0 ∧ getF (after (.pllUnlock 1) onPlls) (F.CLK_SWITCH_CURRENT 5) = 0 ∧
    (after (.pllUnlock 6) onPlls).run.votes = [(3, some false)] ∧
    getF (after (.pllUnlock 10) onPlls) F.HBM_STATUS_READY = 7 ∧
    getF (after (.pllUnlock 28) onPlls) F.CLK_PLL_UNLOCKS_COUNT = 1 := by decide +kernel

theorem test_clock_switch : getF (after (.clockSwitch 26 1 false true) State.reset) (F.CLK_SWITCH_CURRENT 26) = 1 ∧
    getB (after (.clockSwitch 26 1 false true) State.reset) (F.CLK_SWITCH_STOPPED_SRC 26) = true ∧
    getB (after (.clockSwitch 26 1 true false) State.reset) (F.CLK_SWITCH_BUSY 26) = true ∧
    getF (after (.clockSwitch 26 3 true false) State.reset) (F.CLK_SWITCH_CURRENT 26) = 0 ∧
    getF (after (.clockSwitch 26 2 true false) State.reset) (F.CLK_SWITCH_CURRENT 26) = 2 := by decide +kernel

theorem test_refclk : (after .refclkLoss onPlls).clk.lost = true ∧ getB (after .refclkLoss onPlls) F.CLK_REFCLK_HOLDOVER = true ∧
    multi onPlls = false ∧ rootLink leaf ≠ [] ∧ (rootLink leaf).all (linkActive leaf) = true ∧
    getB (after .refclkLoss leaf) F.CLK_REFCLK_STEERED = true ∧
    (after .holdoverExpiry (after .refclkLoss onPlls)).holds.announced = [(10, 16)] ∧
    sourceOn (after .refclkLoss onPlls) 10 = false ∧ allFrozen (after .refclkLoss onPlls) = false ∧
    getF (after .refclkReturn (after .refclkLoss onPlls)) F.CLK_PLL_LOCK_LOCK = 0 ∧
    (after .refclkReturn (after .refclkLoss onPlls)).clk.lost = false := by decide +kernel

/-- Node 85 is named by the index; its parent is node 5. -/
def gateState (l : List (Fld × Nat)) : State := put State.reset ((F.CLK_GATE_INDEX_NODE, 85) :: l)

theorem test_gate : gateOpen (gateState []) 85 = true ∧ gateMayClose (gateState []) 85 = true ∧ childOpen (gateState []) 85 = false ∧
    getB (after (.gateClose 0xA) (gateState [])) (gateFld F.CLK_GATE_CTRL_CLOSING 85) = true ∧
    getB (after (.gateClose 0xA) (gateState [])) (gateFld F.CLK_GATE_CTRL_FORCE 85) = true ∧
    getB (after (.gateClose 2) (put State.reset [])) F.CLK_STATUS_REFUSED = true ∧ gateMayClose State.reset 0 = false ∧
    getB (after (.gateReopen 1) (gateState [(gateFld F.CLK_GATE_CTRL_OPEN 85, 0)])) (gateFld F.CLK_GATE_CTRL_OPEN 85) = true ∧
    getB (after (.gateReopen 1) (gateState [(gateFld F.CLK_GATE_CTRL_OPEN 5, 0)])) F.CLK_STATUS_REFUSED = true := by decide +kernel

theorem test_ramp_plan : planTime onPlls 16 = true ∧ planTime onPlls 15 = false ∧ getF onPlls F.CLK_SCLK_D = 256 ∧
    (after (.rampPlan 2047 16) onPlls).clk.plan = some (1024, 16) ∧ (after (.rampPlan 2047 15) onPlls).clk.plan = none := by
  decide +kernel

/-- A ramp step towards a target is due. -/
def ramping (t : Nat) : State := { onPlls with clk := { onPlls.clk with plan := some (t, 0) } }

theorem test_ramp_step : rampReady (ramping 264) 0 = true ∧ rampTo 264 256 = 264 ∧ rampTo 1024 256 = 264 ∧ rampTo 256 1024 = 993 ∧
    getF (after .rampStep (ramping 264)) F.CLK_SCLK_D = 264 ∧ (after .rampStep (ramping 264)).clk.plan = none ∧
    (after .rampStep (ramping 1024)).clk.plan = some (1024, 776) ∧ State.reset.clk.plan = none := by decide +kernel

/-- A regulator of VDD_C_2 at PMBus address 0x40, and fused set points of 650 mV at 760 MHz and 750 mV at 800 MHz. -/
def regulated (s : State) : State :=
  let s := put s [(F.CLK_PMB_REG_EN 3, 1), (F.CLK_PMB_REG_RAIL 3, 2), (F.CLK_PMB_REG_ADDR 3, 0x40)]
  { s with sec := { s.sec with shadow := [(204, 0x96320000)] } }

theorem test_core_voltage : (after .rampStep (regulated (ramping 264))).outs = [.vout 0x40 750] ∧
    (after .rampStep (regulated (ramping 1024))).outs = [] ∧ (after (.rampPlan 2047 16) (regulated onPlls)).outs = [] ∧
    vddC (regulated onPlls) 2 270 = 650 ∧ vddC (regulated onPlls) 2 256 = 750 ∧
    (after (.rampPlan 256 16) (put (regulated onPlls) [(F.CLK_SCLK_D, 300)])).outs = [.vout 0x40 750] := by decide +kernel

theorem test_steward : getF (after (.powerStewardTick ⟨279, 90, 5, 0x56⟩) onPlls) F.HBM_TEMP_TEMP = 0x56 ∧
    getF (after (.powerStewardTick ⟨279, 90, 5, 0x56⟩) onPlls) F.CLK_TEMP_MAX_SENSOR = 23 ∧
    getF (after (.powerStewardTick ⟨279, 90, 5, 0x56⟩) onPlls) F.CLK_TEMP_MAX_SENSOR_HI = 1 ∧
    getB onPlls F.CLK_STATUS_PMB_FAULT = false ∧ getF onPlls F.CLK_THERM_THROTTLE_C < (255 : Byte).toNat ∧
    (after (.powerStewardTick ⟨0, 255, 5, 0⟩) onPlls).clk.want = some 264 ∧
    getB (after (.powerStewardTick ⟨0, 255, 5, 0⟩) onPlls) F.CLK_STATUS_THROTTLED = true := by decide +kernel

theorem test_thermal : emState (after .thermalTrip onPlls) = 4 ∧ getF (after .thermalTrip onPlls) F.CLK_SCLK_TARGET = 1024 ∧
    getB (after .thermalTrip State.reset) F.CLK_STATUS_THERM_TRIP = true := by decide +kernel

theorem test_pmb : (after (.pmbAlert 0x8000) (put onPlls [(F.CLK_PMB_REG_EN 15, 1)])).clk.want = some 1024 ∧
    getB (after (.pmbAlert 0x8000) (put onPlls [(F.CLK_PMB_REG_EN 15, 1)])) (F.CLK_PMB_REG_FAULT 15) = true ∧
    getB (after (.pmbAlert 0x8000) (put onPlls [(F.CLK_PMB_REG_EN 14, 1)])) (F.CLK_PMB_REG_FAULT 15) = false := by decide +kernel

/-! ### Control cores, firmware, march -/

/-- Firmware phase `ph`, an image of SVN 5 in bank 1, STAGED or not. -/
def fwState (ph staged minimum : Nat) : State :=
  let s := put State.reset [(F.CTL_FW_STATUS_PHASE, ph), (F.CTL_FW_STATUS_STAGED, staged), (F.CTL_FW_STATUS_SVN, minimum)]
  { s with ctl := { s.ctl with fws := [(1048576 + 6, 5), (1048576 + 16, 0x40)] } }

theorem test_core_restart : ((after (.coreRestart 0xC0) State.reset).ctl.cores.get CoreSt.idle 6).a0 = 6 ∧
    (after (.coreRestart 0x80) State.reset).ctl.cores.get CoreSt.idle 7 = CoreSt.idle := by decide +kernel

theorem test_fw_update : fwPhase (after (.fwUpdateGo 1) (fwState 4 1 0)) = 1 ∧ fwPhase (fwState 4 1 0) = 4 ∧
    getF (after (.fwUpdateGo 1) (fwState 3 0 0)) F.CTL_FW_STATUS_RESULT = 7 ∧
    getF (after (.fwUpdateAbort 4) (fwState 2 0 0)) F.CTL_FW_STATUS_RESULT = 6 ∧
    fwPhase (after (.fwUpdateAbort 4) (fwState 3 0 0)) = 3 := by decide +kernel

theorem test_handover : imageSvn (bankBytes (fwState 0 1 5) 1 0 256) = 5 ∧ fwPhase (after (.handover 2) (fwState 0 1 5)) = 3 ∧
    ((after (.handover 2) (fwState 0 1 5)).ctl.cores.get CoreSt.idle 7).handover = true ∧
    getF (after (.handover 2) (fwState 0 1 6)) F.CTL_FW_STATUS_RESULT = 3 ∧
    getB (fwState 0 1 5) F.CTL_FW_STATUS_STAGED = true ∧ getB (fwState 0 0 5) F.CTL_FW_STATUS_STAGED = false := by decide +kernel

theorem test_handover_ready :
    activeBank (after (.handoverReady 7) (put (fwState 3 1 5) [(F.CTL_FW_HANDOVER_READY, 0x7F)])) = 1 ∧
    getF (after (.handoverReady 7) (put (fwState 3 1 5) [(F.CTL_FW_HANDOVER_READY, 0x7F)])) F.CTL_FW_STATUS_SVN = 5 ∧
    ((after (.handoverReady 7) (put (fwState 3 1 5) [(F.CTL_FW_HANDOVER_READY, 0x7F)])).ctl.cores.get CoreSt.idle 7).a1 = 1 ∧
    ((after (.handoverReady 7) (fwState 3 1 5)).ctl.cores.get CoreSt.idle 7).stalled = true ∧
    activeBank (after (.handoverReady 7) (fwState 3 1 5)) = 0 ∧
    getF (after .handoverTimeout (after (.handoverReady 7) (fwState 3 1 5))) F.CTL_FW_STATUS_RESULT = 5 := by decide +kernel

/-- A march program, W1 upwards, then R1, R0 downwards, on KIND, UNIT and MODE. -/
def marchState (kind unit mode : Nat) : State :=
  put State.reset [(F.CTL_MT_ELEM_ELEMENT 0, 2 ^ 31 + 3 * 2 ^ 10), (F.CTL_MT_ELEM_ELEMENT 1, 2 ^ 31 + 2 ^ 29 + 2 ^ 26 + 2 ^ 10),
    (F.CTL_MT_TARGET_KIND, kind), (F.CTL_MT_TARGET_UNIT, unit), (F.CTL_MT_TARGET_MODE, mode)]

theorem test_march_start : (marchProgram (marchState 10 15 0)).map elemOps = [[3], [1, 0]] ∧ (marchState 10 15 0).ctl.march = none ∧
    (after (.marchStart 1) (marchState 10 15 0)).ctl.march.isSome ∧
    getF (after (.marchStart 1) (marchState 10 16 0)) F.CTL_MT_STATUS_RESULT = 5 ∧
    getF (after (.marchStart 1) (marchState 9 0 0)) F.CTL_MT_STATUS_RESULT = 5 ∧
    getB (after (.marchAbort 2) (after (.marchStart 1) (marchState 10 15 0))) F.CTL_STATUS_MT_BUSY = false := by decide +kernel

/-- A preserving test of a register group of 240 words, of which 3 groups of 64 are done. -/
def marching (pre : Bool) : State :=
  let s := put State.reset [(F.CTL_STATUS_MT_BUSY, 1)]
  { s with ctl := { s.ctl with march := some ⟨pre, 5, 0, 65, false, 0, [2 ^ 31 + 3 * 2 ^ 10, 2 ^ 31 + 2 ^ 29 + 1 * 2 ^ 10], 3⟩ } }

theorem test_march_group : (marching true).ctl.deferred = false ∧
    getF (after (.marchWordGroup none [⟨200, 1, 1⟩, ⟨100, 1, 1⟩]) (marching true)) F.CTL_MT_FAILS_COUNT = 1 ∧
    getF (after (.marchWordGroup none [⟨200, 1, 1⟩]) (marching true)) F.CTL_MT_STATUS_RESULT = 3 ∧
    getF (after (.marchWordGroup none []) (marching true)) F.CTL_MT_STATUS_RESULT = 2 ∧
    getB (after (.marchWordGroup (some 63) []) (marching true)) F.CTL_MT_STATUS_SAVE_UE = true ∧
    getF (after (.marchWordGroup none [⟨200, 1, 1⟩, ⟨100, 1, 1⟩]) (marching false)) F.CTL_MT_FAILS_COUNT = 2 := by decide +kernel

/-! ### Program trace -/

/-- Source 39 is traced into a ring of 64 frames. -/
def tracing (x : TrcSrc) (l : List (Fld × Nat)) : State :=
  let s := put State.reset ([(F.TRC_STATUS_ENABLED, 1), (F.TRC_CTRL_EN, 1), (F.TRC_SOURCES_HI_EN, 0x80),
    (srcFld F.TRC_SRC_CTRL_ON 39, 1), (F.TRC_CTRL_WRAP, 1), (F.TRC_BUF_SIZE_UNITS, 1), (F.TRC_BUF_WINDOW_WINDOW, 15),
    (F.HBM_WIN_CTRL_EN 15, 1), (F.HBM_WIN_CTRL_OWNER 15, 5), (F.HBM_WIN_SIZE_SIZE 15, 1), (F.HBM_WIN_SET_SET 15 0, 1),
    (F.TRC_CTRL_TS_PERIOD, 1)] ++ l)
  { s with trc := [(39, x)] }

/-- Five outcomes wait, and 29 bytes. -/
def five : TrcSrc := { TrcSrc.idle with outcomes := [true, false, true, true, false], fifo := List.replicate 29 (3, true), ref := 0x1234 }

theorem test_trace_quiet : ∀ x ∈ [five, TrcSrc.idle], traceRuns (tracing x []) 39 = true ∧ traceOn (tracing x []) 39 = true ∧
    x.sync = none ∧ x.excluded = false ∧ x.lost = 0 ∧ x.timeDue = false ∧ comparators (tracing x []) 39 2 0x1000 = false ∧
    x.since + 30 < 4096 ∧ traceFlows (tracing x []) = true ∧ x.fifo.length + 30 < 60 ∧ x.outcomes.length < 6 ∧
    tracePrivate (tracing x []) = true ∧ tracePrivate (tracing x [(F.TRC_CTRL_PRIV, 1)]) = false := by decide +kernel

theorem test_branch : branchPacket [true, false, true, true, false, true] = [0x80 + 64 + 0b101101] ∧
    (trcSrc (after (.retiredInstruction 39 0x1000 0x1004 false (.branch true)) (tracing five [])) 39).fifo.length = 30 ∧
    (trcSrc (after (.retiredInstruction 39 0x1000 0x1004 false (.branch true)) (tracing five [])) 39).outcomes = [] ∧
    (trcSrc (after (.retiredInstruction 39 0x1000 0x1004 false (.branch true)) (tracing TrcSrc.idle [])) 39).outcomes = [true] ∧
    (trcSrc (after (.retiredInstruction 39 0x1000 0x1004 false .plain) (tracing five [])) 39).pc = 0x1004 ∧
    (trcSrc (after (.retiredInstruction 39 0x1000 0x1004 true .plain) (tracing five [])) 39).excluded = true ∧
    traceRuns State.reset 39 = false ∧
    getB (after (.retiredInstruction 7 0 0 true (.trap 3 0x80 true)) State.reset) F.CTL_STATUS_CORE_TRAP = true ∧
    getB (after (.retiredInstruction 8 0 0 true (.trap 3 0x80 true)) State.reset) F.CTL_STATUS_CORE_TRAP = false := by
  decide +kernel

theorem test_jump : addrPacket 0x1234 0x1256 = [0x40, 0x56] ∧ addrPacket 0x1234 0x2234 = [0x41, 0x34, 0x22] ∧
    (trcSrc (after (.retiredInstruction 39 0x1000 0x1004 false (.indirect 0x56)) (tracing { TrcSrc.idle with ref := 0x12 } [])) 39).fifo =
      [(0x40, true), (0x56, false)] ∧
    ((trcSrc (after (.retiredInstruction 39 0x1000 0x1004 false (.trap 3 0x80 false)) (tracing TrcSrc.idle [(F.TRC_CTRL_PRIV, 1)])) 39).fifo.map
      Prod.fst).take 4 = [7, 3, 0, 0x10] := by decide +kernel

theorem test_sleep_wake : getF (after (.sleep 39) (tracing TrcSrc.idle [])) F.TRC_WRITE_FRAME = 1 ∧
    (trcSrc (after (.sleep 39) (tracing TrcSrc.idle [])) 39).fifo = [] ∧
    ((trcSrc (after (.wake 39 0x80) (tracing TrcSrc.idle [])) 39).fifo.map Prod.fst).take 3 = [4, 1, 2] ∧
    (trcSrc (after (.traceFrameTimeout 39) (tracing five [])) 39).seq = 1 ∧
    (trcSrc (after (.timePacket 39) (tracing five [])) 39).timeDue = true ∧ traceLive (tracing five []) 39 = true ∧
    traceLive State.reset 39 = false ∧ getF (tracing five []) F.TRC_CTRL_TS_PERIOD ≠ 0 := by decide +kernel

theorem test_trace_control :
    ringOk (tracing five [(F.TRC_CTRL_EN, 0)]) = true ∧ getB (tracing five [(F.TRC_CTRL_EN, 0)]) F.TRC_CTRL_EN = false ∧
    traceOn (after (.traceEn 0x80000000) (tracing five [(F.TRC_CTRL_EN, 0), (srcFld F.TRC_SRC_CTRL_START_ON 39, 1)])) 39 = true ∧
    getB (after (.traceEn 0x80000000) State.reset) F.TRC_STATUS_REJECT = true ∧
    traceOn (after (.traceEn 0) (tracing five [])) 39 = false ∧
    getF (after (.trcClear 0x70000000) (put State.reset [(F.TRC_WRITE_FRAME, 9), (F.TRC_STATUS_PRIV_AUTH, 1)])) F.TRC_WRITE_FRAME = 0 ∧
    getB (after (.trcClear 0x70000000) (put State.reset [(F.TRC_STATUS_PRIV_AUTH, 1)])) F.TRC_CTRL_PRIV = true ∧
    getB (after (.trcClear 0x70000000) State.reset) F.TRC_CTRL_PRIV = false := by decide +kernel

/-! ### Presence, fuses, the battery-backed key -/

/-- Command `c` is armed, its window open. -/
def armed (c : Nat) : State :=
  put State.reset [(F.SEC_STATUS_WINDOW, 1), (F.SEC_STATUS_ARMED, 1), (F.SEC_PRESENCE_STATUS_ARMED_CMD, c), (F.SEC_STATUS_VFUSE_OK, 1),
    (F.SEC_BBK_STAGE_KEY 7, 5)]

theorem test_presence_arm : getF (after (.presenceArm 6) State.reset) F.SEC_PRESENCE_STATUS_ARMED_CMD = 6 ∧
    getF (after (.presenceArm 7) State.reset) F.SEC_PRESENCE_STATUS_ARMED_CMD = 0 ∧
    getF (after (.presenceArm 0) State.reset) F.SEC_PRESENCE_STATUS_ARMED_CMD = 0 ∧
    getB (after (.presenceDisarm 0x40000000) (armed 2)) F.SEC_STATUS_ARMED = false ∧
    getF (after (.presenceDisarm 0x40000000) (armed 2)) (F.SEC_BBK_STAGE_KEY 7) = 0 := by decide +kernel

theorem test_execute : presenceRefused (armed 1) 1 = false ∧ presenceRefused (setB (armed 1) F.SEC_STATUS_VFUSE_OK false) 1 = true ∧
    stageFailure (armed 1) = none ∧ getB (after (.execute 0x80000000 true) (armed 1)) F.SEC_STATUS_FUSE_BUSY = true ∧
    getB (after (.execute 0x80000000 true) (armed 1)) F.SEC_STATUS_ARMED = false ∧
    getB (after (.execute 0x80000000 false) (armed 1)) F.SEC_STATUS_ARMED = true ∧
    getB (after (.execute 0x80000000 true) (armed 3)) F.TRC_STATUS_PRIV_AUTH = true ∧
    getF (after (.execute 0x80000000 true) (armed 3)) F.SEC_PRESENCE_STATUS_LAST_CMD = 3 := by decide +kernel

/-- A staged entry that would clear a burned bit of word 52. -/
def badStage : State :=
  let s := put (armed 1) [(stageFld F.SEC_FUSE_STAGE_ADDR_VALID 15, 1), (stageFld F.SEC_FUSE_STAGE_ADDR_WORD 15, 52),
    (stageFld F.SEC_FUSE_STAGE_DATA_BITS 15, 2)]
  { s with sec := { s.sec with fuses := [(52, 4)] } }

theorem test_stage_failure : stageFailure badStage = some (15, 1) ∧
    getF (after (.execute 0x80000000 true) badStage) F.SEC_PRESENCE_STATUS_LAST_RESULT = 1 := by decide +kernel

theorem test_presence_commands :
    [2, 3, 4, 5, 6].all (fun c => !presenceRefused (armed c) c) = true ∧
    [(Instr.tracePriv, 3), (.unseal, 4), (.rollback, 5), (.jtagPrivate, 6)].all (fun e =>
      getF (after e.1 (armed e.2)) F.SEC_PRESENCE_STATUS_LAST_CMD == e.2 &&
      getF (after e.1 (armed 1)) F.SEC_PRESENCE_STATUS_LAST_CMD == 0) = true ∧
    (loadBbk (armed 2)).sec.bbk = 5 * 2 ^ 224 ∧
    getB (after .rollback (armed 5)) F.SEC_STATUS_ROLLBACK_AUTH = true ∧ (fuseShadow (armed 6) 52).testBit 0 = false ∧
    getB (after .jtagPrivate (armed 6)) F.SEC_STATUS_JTAG_PRIV = true := by decide +kernel

theorem test_unseal : sealedNow (after .unseal { armed 4 with ingot := some { ingot with isSealed := true } }) = false ∧
    getB (after .unseal { armed 4 with ingot := some { ingot with isSealed := true } }) F.SEC_STATUS_UNSEALED = true := by decide +kernel

theorem test_window_time : getF (after .presenceHeld (armed 1)) F.SEC_PRESENCE_STATUS_SECONDS_LEFT = 60 ∧
    getB (after .presenceHeld State.reset) F.SEC_STATUS_WINDOW = false ∧
    getB (after .windowExpiry (armed 1)) F.SEC_STATUS_ARMED = false ∧ getB (armed 1) F.SEC_STATUS_WINDOW = true := by decide +kernel

/-- A burn of two entries. -/
def burning : State := { State.reset with sec := { State.reset.sec with fuses := [(50, 1)], burn := [(0, 50, 3), (15, 34, 7)] } }

theorem test_fuses : fuseWord (after (.programFuses none) burning) 50 = 3 ∧ fuseShadow (after (.programFuses none) burning) 34 = 7 ∧
    getF (after (.programFuses (some 15)) burning) F.SEC_FUSE_RESULT_ENTRY = 15 ∧
    getF (after (.programFuses (some 15)) burning) F.SEC_FUSE_RESULT_RESULT = 6 ∧
    (burning.sec.burn.find? (fun e => e.1 == 15)).isSome ∧ burning.sec.burn ≠ [] ∧
    getB (after .vfuseOutOfLimit (armed 1)) F.SEC_STATUS_VFUSE_OK = false := by decide +kernel

theorem test_fuse_data :
    (after .fuseDataRead { put State.reset [(F.SEC_FUSE_INDEX_WORD, 34)] with sec := { State.reset.sec with shadow := [(33, 9), (34, 8)] } }).outs =
      [.readValue 0 8] ∧
    (after .fuseDataRead { put State.reset [(F.SEC_FUSE_INDEX_WORD, 33)] with sec := { State.reset.sec with shadow := [(33, 9), (34, 8)] } }).outs =
      [.readValue 0 0] ∧
    getF (after .fuseDataRead (put State.reset [(F.SEC_FUSE_INDEX_WORD, 511)])) F.SEC_FUSE_INDEX_WORD = 0 := by decide +kernel

/-- The battery-backed key is loaded. -/
def bbkState : State := { put State.reset [(F.SEC_BBK_LOADED, 1)] with sec := { State.reset.sec with bbk := 77 } }

theorem test_bbk : (after (.tamper true) bbkState).sec.bbk = 0 ∧ getB (after (.tamper true) bbkState) F.SEC_BBK_TAMPERED = true ∧
    (after (.erase 0x80000000) bbkState).sec.bbk = 0 ∧ (after (.erase 0x7FFFFFFF) bbkState).sec.bbk = 77 ∧
    loadKey bbkState 4 = some 77 ∧ loadKey State.reset 4 = none ∧ getB bbkState F.SEC_BBK_LOADED = true ∧
    (fuseShadow bbkState 52).testBit 1 = false := by decide +kernel

/-! ### The Hedgerow fabric -/

/-- A fabric whose section is loaded, and whose set-reset is asserted or not. -/
def fabric (cfg : Memory) (l : List (Fld × Nat)) : State :=
  let s := put State.reset l
  { s with hgr := { s.hgr with loaded := true, cfg := cfg } }

theorem test_capture_arm : captureRefused (fabric [] []) = false ∧ captureRefused State.reset = true ∧
    getB (after (.captureArm 0x80000000) (fabric [] [])) F.HGR_STATUS_CAP_BUSY = true ∧
    getB (after (.captureArm 0x80000000) State.reset) F.HGR_STATUS_CAP_REFUSED = true ∧
    getB (after (.captureAbort 0x40000000) (fabric [] [(F.HGR_STATUS_CAP_BUSY, 1)])) F.HGR_STATUS_CAP_BUSY = false ∧
    getB (fabric [] [(F.HGR_STATUS_CAP_BUSY, 1)]) F.HGR_STATUS_CAP_BUSY = true ∧ getB State.reset F.HGR_STATUS_CAP_BUSY = false := by
  decide +kernel

theorem test_cap_data :
    let s := put State.reset [(F.HGR_CAP_INDEX_WORD, 1024 + 1152)]
    (after .capDataRead { s with hgr := { s.hgr with shadowRam := [(36864 + 31, true)] } }).outs = [.readValue 0 0x80000000] ∧
    getF (after .capDataRead s) F.HGR_CAP_INDEX_WORD = 1024 + 1153 := by decide +kernel

/-- Import group 7 strobes on user clock 0, by a line that is isolated at 1; export group 7 presents on it. -/
def strobing : State :=
  let s := fabric [] [(F.HGR_UCLK_RUNNING 0, 1)]
  { s with hgr := { s.hgr with iso := [(255, some ⟨0, [], [], 2 ^ 7⟩)], waiting := [(7, [(4079, true)])] } }

theorem test_strobe : importLine strobing (4080 + 7) = true ∧ importLine strobing (4080 + 0) = false ∧
    getB strobing (F.HGR_UCLK_RUNNING (headerByte strobing (32 + 7))) = true ∧
    getB strobing (F.HGR_UCLK_RUNNING (headerByte strobing (40 + 7))) = true ∧
    strobing.hgr.waiting.get [] 7 = [(4079, true)] ∧
    (after (.exportUpdate 7) strobing).hgr.lines = [(4079, true), (4087, true)] ∧
    (after (.exportUpdate 7) strobing).hgr.waiting = [] := by decide +kernel

theorem test_vccio : bankMismatch (fabric [] [(F.HGR_STATUS_OUTPUTS, 1)]) 7 5 = false ∧
    getB (fabric [] [(F.HGR_STATUS_OUTPUTS, 1)]) F.HGR_STATUS_OUTPUTS = true ∧
    getB (after (.vccioMismatch 7 5 true) (fabric [] [(F.HGR_STATUS_OUTPUTS, 1), (F.HGR_BANK_STATUS_MISMATCH 7, 1)]))
      (F.HGR_BANK_STATUS_MISMATCH 7) = false ∧
    bankMismatch (fabric [(blockFrame 224 3, 1)] [(F.HGR_STATUS_OUTPUTS, 1)]) 7 0 = true := by decide +kernel

/-- One flipped copy of a configuration bit is rewritten; two win. -/
theorem test_cfg_scrub : (fabric [(5, 2)] []).hgr.loaded = true ∧ State.reset.hgr.loaded = false ∧
    getF (after (.cfgScrub [(0, 5, 1)]) (fabric [(5, 2)] [(F.HGR_CFG_FIX_COUNT, 2 ^ 32 - 2)])) F.HGR_CFG_FIX_COUNT = 2 ^ 32 - 1 ∧
    (after (.cfgScrub [(0, 5, 1)]) (fabric [(5, 2)] [])).hgr.cfg = [(5, 2)] ∧
    (after (.cfgScrub [(0, 5, 1), (2, 5, 1)]) (fabric [(5, 2)] [])).hgr.cfg = [] := by decide +kernel

theorem test_user_clock : getB (fabric [] [(F.HGR_UCLK_RUNNING 7, 1), (F.HGR_STATUS_GSR, 1)]) (F.HGR_UCLK_RUNNING 7) = true ∧
    (after (.userClockEdge 7 ⟨[383], none⟩) (fabric [] [(F.HGR_UCLK_RUNNING 7, 1), (F.HGR_STATUS_GSR, 1)])).hgr.pins = [383] ∧
    (after (.userClockEdge 7 ⟨[383], none⟩) (fabric [] [])).hgr.pins = [] ∧
    getB State.reset (F.HGR_UCLK_RUNNING 7) = false := by decide +kernel

/-- The block of gate `n` is isolated. -/
def isolated (n : Nat) : State := put State.reset [(gateFld F.CLK_GATE_CTRL_OPEN n, 0)]

/-- Commands of isolated blocks do not act: ISO_ACCESS is set. -/
theorem test_isolated : (∀ n ∈ [65, 66, 67, 68], nodeIsolated (isolated n) n = true ∧ nodeIsolated State.reset n = false) ∧
    (∀ e ∈ [(66, Instr.arm 1), (68, .marchStart 1), (67, .traceEn 0x80000000), (65, .captureArm 0x80000000)],
      getB (after e.2 (isolated e.1)) F.NET_STATUS_ISO_ACCESS = true ∧ getB (after e.2 State.reset) F.NET_STATUS_ISO_ACCESS = false) ∧
    (after .capDataRead (isolated 65)).outs = [.readValue 0 0xFFFFFFFF] := by decide +kernel

/-- A pulse while REFCLK is lost is not seen. -/
theorem test_sync_lost : let s := { State.reset with clk := { State.reset.clk with lost := true } }
    getB (after .sync s) F.ASY_STATUS_SYNC_SEEN = false ∧ getB (after .sync State.reset) F.ASY_STATUS_SYNC_SEEN = true := by
  decide +kernel

/-! ### Resets, start-up, register accesses -/

/-- The device in a start-up phase, with what a reset keeps. -/
def phaseState (ph : Nat) (perst : Bool) : State :=
  let s := put State.reset [(F.RST_STATUS_PHASE, ph), (F.HBM_STATUS_READY, 1), (F.CLK_SWITCH_SEL 26, 1), (F.SEC_BBK_LOADED, 1),
    (F.LNK_MACHINE_POSITION, 3)]
  { s with
    boot := { s.boot with perst := perst }, sec := { s.sec with bbk := 5, fuses := [(52, 4)], shadow := [(52, 2)] }
    mem := { s.mem with hbm := [(3, 9), (32 * 2 ^ 30, 9)] }
    host := { s.host with sessions := [(4095, { (session s 0) with state := 1 })], busMaster := true } }

theorem test_por : (after (.porN 3) (phaseState 6 false)).sec.bbk = 5 ∧ (after (.porN 3) (phaseState 6 false)).sec.fuses = [(52, 4)] ∧
    (after (.porN 3) (phaseState 6 false)).sec.shadow = [] ∧ (phaseState 6 false).sec.burn = [] ∧
    getF (after (.porN 3) (phaseState 6 false)) F.LDR_BOOT_BOOT_SEL = 3 ∧
    getB (after (.porN 3) (phaseState 6 false)) F.SEC_BBK_LOADED = true ∧
    getF (after (.porN 3) (phaseState 6 false)) F.LNK_MACHINE_POSITION = 0 ∧ F.LNK_MACHINE_POSITION.lo < 32 ∧
    F.LNK_MACHINE_POSITION.addr / 0x10000 % 16 ≠ 4 := by decide +kernel

theorem test_warm : ((phaseState 6 false).boot.cold && getF (phaseState 6 false) F.RST_STATUS_PHASE == 0) = false ∧
    (after (.rstN 2) (phaseState 6 false)).sec.shadow = [(52, 2)] ∧ (after (.rstN 2) (phaseState 6 false)).mem.hbm = [(3, 9)] ∧
    getF (after (.rstN 2) (phaseState 6 false)) F.RST_STATUS_CAUSE = 2 ∧ stackReady (phaseState 6 false) 0 = true ∧
    getF (after (.warm 0x80005257 1) (phaseState 6 false)) F.RST_STATUS_CAUSE = 3 ∧
    getF (after (.warm 0x80005256 1) (phaseState 6 false)) F.RST_STATUS_PHASE = 6 ∧
    (State.reset.boot.cold && getF State.reset F.RST_STATUS_PHASE == 0) = true := by decide +kernel

theorem test_host_reset : (session (after (.perstN true) (phaseState 6 false)) 4095).state = 2 ∧
    (phaseState 6 false).boot.perst = false ∧ (phaseState 6 false).ldr.stream = none ∧ (phaseState 6 false).ldr.install = none ∧
    (session (after .functionLevelReset (phaseState 6 false)) 4095).state = 2 ∧
    (after .functionLevelReset (phaseState 6 false)).host.busMaster = false ∧
    getF (after .functionLevelReset (phaseState 6 false)) F.RST_COUNT_PERST = 1 ∧
    getB (after .trstN (put State.reset [(F.SEC_STATUS_JTAG_PRIV, 1)])) F.SEC_STATUS_JTAG_PRIV = false := by decide +kernel

/-- Nothing found but a memory that fails. -/
def found : BootFound := ⟨[(3, 65)], [⟨0, 0, 1⟩], ⟨[], [], [], [], []⟩⟩

theorem test_phases : getF (after (.resetRelease 7 found) (phaseState 0 false)) F.RST_STATUS_PHASE = 1 ∧
    (after (.resetRelease 7 found) (phaseState 1 false)).sec.shadow = [(52, 4)] ∧ (phaseState 1 false).boot.cold = true ∧
    getF (after (.resetRelease 7 found) (phaseState 2 false)) F.CLK_PLL_LOCK_LOCK = 3 ∧
    getF (after (.resetRelease 7 found) (phaseState 2 false)) (F.RST_PHASE_TIME_US 1) = 7 ∧
    getB (after (.resetRelease 7 found) (phaseState 3 false)) F.CTL_STATUS_START_FAIL = true ∧
    getF (after (.resetRelease 7 found) (phaseState 3 false)) F.CTL_MT_STATUS_RESULT = 3 ∧
    (phaseState 5 false).ctl.running = false ∧ (phaseState 2 false).clk.lost = false ∧
    getF (after (.resetRelease 7 found) { phaseState 2 false with clk := { State.reset.clk with lost := true } }) F.RST_STATUS_PHASE = 2 ∧
    getF (after (.resetRelease 7 found) (phaseState 6 false)) F.RST_STATUS_PHASE = 6 := by decide +kernel

/-- Firmware runs at the end of phase 5, and firmware that was started before a warm reset has its shadow kept. -/
def serving : State := { phaseState 5 false with ctl := { State.reset.ctl with running := true } }

theorem test_service : getB (after (.resetRelease 7 found) serving) F.RST_STATUS_READY = true ∧ serving.ctl.running = true ∧
    (after (.resetRelease 7 found) { phaseState 1 false with boot := { State.reset.boot with cold := false } }).sec.shadow = [(52, 2)] := by
  decide +kernel

/-- The link is up, so that no rate is drawn. -/
def linkedUp (ph : Nat) (perst : Bool) : State := setB (phaseState ph perst) F.HST_STATUS_LINK_UP true

theorem test_configuration : (after (.configurationRequest ⟨(some false), none⟩) (linkedUp 2 false)).outs = [.answer 0 3] ∧
    (after (.configurationRequest ⟨(some false), none⟩) (linkedUp 5 false)).host.busMaster = false ∧
    (after (.configurationRequest ⟨none, (some .vendorId)⟩) (linkedUp 5 false)).host.busMaster = true ∧
    (after (.configurationRequest ⟨(some false), none⟩) (linkedUp 5 true)).host.busMaster = true ∧
    (after (.configurationRequest ⟨none, (some .vendorId)⟩) (linkedUp 5 false)).outs.length = 1 := by decide +kernel

theorem test_register_types :
    getF (after (.registerWrite .host 0x10110 0x1F8000 0xF 4) State.reset) F.CLK_CLKOUT_SRC = 31 ∧
    getB (after (.registerWrite .spi 0x10000 2 0xF 4) (put State.reset [(F.CLK_STATUS_REFUSED, 1)])) F.CLK_STATUS_REFUSED = false ∧
    getB (after (.registerWrite .spi 0x10000 0xFFFFFFFD 0xF 4) (put State.reset [(F.CLK_STATUS_REFUSED, 1)])) F.CLK_STATUS_REFUSED = true ∧
    (after (.registerRead (.core 7) 0xA0010 0xF 4) (put State.reset [(F.NET_CE_COUNT_COUNT, 9)])).outs = [.readValue 9 9] ∧
    getF (after (.registerRead (.core 7) 0xA0010 0xF 4) (put State.reset [(F.NET_CE_COUNT_COUNT, 9)])) F.NET_CE_COUNT_COUNT = 0 := by
  decide +kernel

theorem test_isolated_access : regIsolated (isolated 66) 0xB0004 = true ∧ (after (.registerRead .host 0xBFFFC 0xF 4) (isolated 66)).outs = [.readValue 0 0] ∧
    isMsix 0xB0004 = false ∧ (0xB0004 : BitVec 20).toNat % 4 = 0 ∧
    (after (.registerRead .host 0xB0004 0xF 4) (isolated 66)).outs = [.readValue 0 0xFFFFFFFF] ∧
    getB (after (.registerWrite .host 0xB0004 5 0xF 4) (isolated 66)) F.NET_STATUS_ISO_ACCESS =
      true := by decide +kernel

theorem test_register_widths : (after (.registerWrite .host 0x10111 5 0xF 4) State.reset).outs = [.answer 0 1] ∧
    (after (.registerRead .host 0x10110 0xFF 8) State.reset).outs = [.answer 0 1] ∧
    (after (.registerWrite (.core 7) 0x10110 5 0x3 2) State.reset).outs = [.answer 9 7] ∧
    (after (.registerRead (.core 7) 0x10111 0x3 2) State.reset).outs = [.answer 9 4] ∧
    isMsix 0x10110 = false ∧ isMsix 0x53FFF = false ∧ isMsix 0x54000 = true := by decide +kernel

theorem test_spi : getF (after (.spiRegWrite 2 [1, 1, 0x10, 7, 0, 0, 0]) State.reset) F.CLK_CLKOUT_DIV = 7 ∧
    getF (after (.spiRegWrite 2 [0x11, 1, 0x10, 7, 0, 0, 0]) State.reset) F.CLK_CLKOUT_DIV ≠ 7 ∧
    (after (.spiRegRead [0xB, 1, 1, 0x11, 0]) State.reset).outs = [.readValue 1 0] ∧
    (after (.spiRegRead [0xB, 0xF, 0xFF, 0xFC, 0]) State.reset).outs = [.readValue 1 0] ∧
    (after (.spiStatus) (put State.reset [(F.LDR_RESULT_CODE, 3)])).outs = [.readValue 1 5] := by decide +kernel

theorem test_time_read : (after (.timeLoRead .spi) (put State.reset [(F.IDN_TIME_LO_TIME, 5), (F.IDN_TIME_HI_TIME, 6)])).outs =
      [.readValue 1 5] ∧
    (after (.registerRead .spi 0x14 0xF 4) (setF (after (.timeLoRead .spi) (put State.reset [(F.IDN_TIME_HI_TIME, 6)]))
      F.IDN_TIME_HI_TIME 9)).outs = [.readValue 1 0, .readValue 1 6] := by decide +kernel

theorem test_no_register : fieldsAt 0xFFFFC = [] ∧ isMsix 0xFFFFC = false ∧
    (after (.registerRead .host 0xFFFFC 0xF 4) State.reset).outs = [.readValue 0 0] ∧
    (after (.registerWrite .host 0xFFFFC 5 0xF 4) State.reset).regs = [] := by decide +kernel

/-! ### Steps -/

theorem test_step : step { State.reset with pending := [.fire 1, .fire 1] } =
    exec (.fire 1) { State.reset with pending := [.fire 1] } := rfl

theorem test_nothing_waits : State.reset.pending = [] ∧ nextFenced State.reset = none ∧ State.reset.host.fetched = [] := by decide +kernel

/-- The state after one step. -/
def stepped (s : State) : State :=
  match step s with
  | .next t => t
  | _ => s

/-- A NOP that is fetched runs when no command waits. -/
theorem test_fetched_step : let f : Fetched := .cmd (.descriptorNop desc)
    let s := { owned State.reset with host := { (owned State.reset).host with fetched := [f] } }
    s.pending = [] ∧ nextFenced s = none ∧ s.host.fetched = [f] ∧
    (stepped s).outs.length = 2 ∧ (stepped s).host.fetched = [] := by decide +kernel

theorem test_idle_step : timeNs (tick State.reset) = 10 ∧ (tick State.reset).pending = [] ∧ (tick State.reset).lnk.periods = 1 := by
  decide +kernel


/-- The hypotheses of the invariants: a state in the canonical form, with a fuse bit burned, that steps. -/
theorem test_canonical_step : Canonical burning ∧ (fuseWord burning 50).testBit 0 = true ∧ ∃ t, step burning = .next t :=
  ⟨⟨by decide +kernel, by decide +kernel, by decide +kernel, by decide +kernel, by decide +kernel, by decide +kernel⟩,
    by decide +kernel, _, rfl⟩


/-! ### Ill-formed commands -/

/-- A frame of 121 items, and one of `n`. -/
def frameOf (n : Nat) : LinkFrame := ⟨0, 0, 0, 0, List.replicate n 0, 0, false, 0, 0⟩

/-- An upset of a flit of the packet. -/
def upsetOf (flit : Nat) (port : BitVec 3) : HopUpset := ⟨0, port, flit, 1, 0, .clean⟩

theorem test_ill_formed : ∀ c ∈ [Instr.segment [0] (List.replicate 16 0) (List.replicate 16 0),
      .segment (List.replicate 64 0) (List.replicate 15 0) (List.replicate 16 0), .segment (List.replicate 64 0) [] (List.replicate 16 0),
      .segment (List.replicate 64 0) (List.replicate 16 0) [], .writeFrame 0 [0], .repeatFrame [], .setRegion 0 [] (List.replicate 16 0),
      .setRegion 0 (List.replicate 48 0) [], .pad 2 [0], .image desc true none (some [0]), .image desc false none none,
      .qspiSelfLoad ⟨[(5, 0xFF)], true⟩ [], .restore desc 2 0 1 (some [0, 0]), .designWrite desc 0 2 0 (some [0]),
      .copyUnitGo 0 0 0 2 [0] true, .doorbellSweep [(5, 1), (5, 1)] [] [], .doorbellSweep [(5, 0)] [] [],
      .doorbellSweep [] [] [5, 5], .exchangeRamPortBWrite .spi 0 [], .exchangeRamPortBRead .spi 0 4 .clean,
      .scratchBankAccess ⟨.spi, 0⟩ none 4 .clean, .cas (.core 0 0) ⟨16, .cas, 0, .clean⟩, .cas (.host 0) ⟨2, .cas, 0, .clean⟩,
      .packetDelivery (pkt 0 0 1) ⟨[upsetOf 2 0], .later, false⟩, .packetDelivery (pkt 0 0 1) ⟨[upsetOf 0 6], .later, false⟩,
      .dataFrame 0 (frameOf 121), .mgmtFrame 0 ⟨frameOf 121, none⟩, .mgmtFrame 0 ⟨frameOf 3, none⟩,
      .linkStagePass 0 ⟨(List.replicate 18 (0, 0)), 0⟩, .cfgScrub [(0, 0, 0), (0, 0, 0)], .userClockEdge 0 ⟨[5, 5], none⟩],
    c.wellFormed = false := by decide +kernel

theorem test_well_formed : ∀ c ∈ [Instr.segment (List.replicate 64 0) (List.replicate 16 0) (List.replicate 16 0), .repeatFrame [0],
      .pad 1 [0], .image desc true none (some []), .image desc true none none, .image desc false none (some []),
      .qspiSelfLoad ⟨[(5, 0)], true⟩ [], .restore desc 2 0 1 (some [0]), .designWrite desc 0 1 0 (some [0]),
      .copyUnitGo 0 0 0 1 [0] true, .exchangeRamPortBRead .host 0 4 .clean, .doorbellSweep (nopRing []).cells [] [5],
      .cas (.host 0) ⟨16, .cas, 0, .clean⟩, .packetDelivery (pkt 0 0 17) ⟨[upsetOf 1 5], .later, false⟩, .dataFrame 0 (frameOf 120),
      .mgmtFrame 0 ⟨frameOf 4, none⟩, .linkStagePass 0 ⟨[], 0⟩, .sync], c.wellFormed = true := by decide +kernel

end Sys2Proof.Tests
end

section
/-! The scope of the model: a step and its commands, the state that a reset leaves, and the offsets that hold no register. -/

namespace Sys2Proof.Machine

/-! ### A step -/

/-- Settles O54: the match of `step` on a queue that begins with `c`. -/
theorem stepRunsTheFrontCommand : Obligations.StepRunsTheFrontCommand := by
  unfold Obligations.StepRunsTheFrontCommand
  intros
  rfl

/-! ### What every command keeps -/

/-- Settles O59: the frame is part of `Keeps`, which `exec_keeps` gives of every command. -/
theorem everyCommandKeepsQueueChipAndWhatWasSent : Obligations.EveryCommandKeepsQueueChipAndWhatWasSent := by
  unfold Obligations.EveryCommandKeepsQueueChipAndWhatWasSent
  intro c s t hexec
  have hkeeps : Keeps s t := (exec_keeps c (Keeps.refl s)).keeps t hexec
  exact ⟨hkeeps.pending, hkeeps.chip, hkeeps.outs, hkeeps.draws⟩

/-! ### Commands answer a next state

Most meanings are a next state by their definition.  The others choose between two next states; each has a lemma. -/

theorem ite_next {p : Prop} [Decidable p] {o o' : Host.Outcome State Fault Refusal} (h : ∃ t, o = .next t)
    (h' : ∃ t, o' = .next t) : ∃ t, (if p then o else o') = .next t := by
  split
  · exact h
  · exact h'

section
variable (s : State)

theorem execMarchWordGroup_next (ue : Option (Fin 64)) (fails : List MarchFail) :
    ∃ t, execMarchWordGroup ue fails s = .next t := by
  unfold execMarchWordGroup
  split <;> exact ⟨_, rfl⟩

theorem execHandoverTimeout_next : ∃ t, execHandoverTimeout s = .next t := ite_next ⟨_, rfl⟩ ⟨_, rfl⟩

theorem execRetiredInstruction_next (src : Fin 40) (pc next : DWord) (machine : Bool) (kind : RetireKind) :
    ∃ t, execRetiredInstruction src pc next machine kind s = .next t := ite_next ⟨_, rfl⟩ ⟨_, rfl⟩

theorem execSleep_next (src : Fin 40) : ∃ t, execSleep src s = .next t := ite_next ⟨_, rfl⟩ ⟨_, rfl⟩

theorem execWake_next (src : Fin 40) (pc : DWord) : ∃ t, execWake src pc s = .next t := ite_next ⟨_, rfl⟩ ⟨_, rfl⟩

theorem execTimePacket_next (src : Fin 40) : ∃ t, execTimePacket src s = .next t := ite_next ⟨_, rfl⟩ ⟨_, rfl⟩

theorem execProgramFuses_next (stuck : Option (Fin 16)) : ∃ t, execProgramFuses stuck s = .next t := by
  refine ite_next ⟨_, rfl⟩ ?_
  extract_lets fails s'
  split <;> exact ⟨_, rfl⟩

theorem execPresenceHeld_next : ∃ t, execPresenceHeld s = .next t := ite_next ⟨_, rfl⟩ ⟨_, rfl⟩

end

/-- Settles O60, by the command. -/
theorem everyCommandAnswersANextState : Obligations.EveryCommandAnswersANextState := by
  unfold Obligations.EveryCommandAnswersANextState
  intro c s
  cases c
  case marchWordGroup ue fails => exact execMarchWordGroup_next s ue fails
  case handoverTimeout => exact execHandoverTimeout_next s
  case retiredInstruction src pc next machine kind => exact execRetiredInstruction_next s src pc next machine kind
  case sleep src => exact execSleep_next s src
  case wake src pc => exact execWake_next s src pc
  case timePacket src => exact execTimePacket_next s src
  case programFuses stuck => exact execProgramFuses_next s stuck
  case presenceHeld => exact execPresenceHeld_next s
  all_goals exact ⟨_, rfl⟩

/-! ### The state that a reset leaves -/

/-- No field is listed in the register store after reset. -/
@[simp] theorem getF_reset (f : Fld) : getF State.reset f = f.rst := rfl

/-- Every store of the reset state is empty. -/
theorem canonical_reset : Canonical State.reset where
  regs := SMap.ordered_nil
  tileBytes := Memory.wf_nil _
  tram := Memory.wf_nil _
  exr := Memory.wf_nil _
  hbm := Memory.wf_nil _
  scratch := Memory.wf_nil _

/-- Settles O56: no register field, session or channel is listed after reset, and the stores are empty. -/
theorem resetLeavesTheResetValues : Obligations.ResetLeavesTheResetValues := by
  unfold Obligations.ResetLeavesTheResetValues
  have hstate : emState State.reset = 0 := getF_reset _
  have hsession : ∀ i, (session State.reset i).state = 0 := fun _ => rfl
  have hchannel : ∀ c, (chanCtx State.reset c).state = 0 := fun _ => rfl
  exact ⟨getF_reset, hstate, rfl, rfl, hsession, hchannel, rfl, canonical_reset⟩

/-! ### Offsets without a register -/

/-- Offset 0x9010C, between the SIZE and the SET registers of window 0, holds no register (R9). -/
theorem fieldsAt_windowGap : fieldsAt 0x9010C = [] := by decide +kernel

/-- The model takes a write to 0x9010C for one to a configuration register of window 0: with the window disabled it
shows DEGRADED of every window anew. -/
theorem regWrite_windowGap (s : State) (path : RegPath) (v : Nat) (hen : getB s (F.HBM_WIN_CTRL_EN 0) = false) :
    regWrite s path 0x9010C v = showDegraded s := by
  simp [regWrite, regIsolated, gateOfReg, writeHbm, winCfgWrite, plainWrite, fieldsAt_windowGap, hen]

/-- The reset state with DEGRADED of window 0 set, though no pseudo-channel has failed: one of the states that O53 speaks
of, since it asks for no agreement of DEGRADED with HBM_PC_FAILED (R231). -/
def degradedAlone : State := setB State.reset (F.HBM_WIN_CTRL_DEGRADED 0) true

/-- No window has a failed pseudo-channel in `degradedAlone`, so that DEGRADED shown anew reads 0. -/
theorem showDegraded_degradedAlone : getB (showDegraded degradedAlone) (F.HBM_WIN_CTRL_DEGRADED 0) = false := by
  decide +kernel

/-- Refutes O53: the write of 0 to offset 0x9010C, which holds no register, clears DEGRADED of window 0 in
`degradedAlone`. -/
theorem not_offsetsWithoutARegisterReadZero : ¬ Obligations.OffsetsWithoutARegisterReadZero := by
  unfold Obligations.OffsetsWithoutARegisterReadZero
  intro h
  obtain ⟨⟨t, hwrite, ht⟩, -⟩ := h degradedAlone .host 0x9010C 0 (by decide) fieldsAt_windowGap (by decide)
  have hgap : exec (.registerWrite .host 0x9010C 0 0x0F 4) degradedAlone = .next (showDegraded degradedAlone) :=
    congrArg Host.Outcome.next (regWrite_windowGap degradedAlone .host 0 (by decide +kernel))
  have hsame : showDegraded degradedAlone = degradedAlone := by
    rw [hgap, ht] at hwrite
    exact Host.Outcome.next.inj hwrite
  have hset : getB degradedAlone (F.HBM_WIN_CTRL_DEGRADED 0) = true := getB_setB_same _ _ _ rfl
  have hclear := showDegraded_degradedAlone
  rw [hsame, hset] at hclear
  cases hclear

end Sys2Proof.Machine
end

section
/-! ### A step with no command waiting -/

namespace Sys2Proof.Machine
/-- Settles O55, by the cases of `idleStep`; it stops nowhere because every command answers a next state. -/
theorem stepWithoutACommandIsOneClockPeriod : Obligations.StepWithoutACommandIsOneClockPeriod := by
  unfold Obligations.StepWithoutACommandIsOneClockPeriod
  intro s hidle
  have hstep : step s = idleStep s := by simp [step, hidle]
  have hruns : ∀ f u, ∃ t, runFetched f u = .next t := by
    intro f u
    cases f with
    | cmd i => exact everyCommandAnswersANextState i u
    | reserved d => exact ⟨_, rfl⟩
  rw [hstep]
  refine ⟨?_, ?_, ?_, ?_⟩
  · intro r hr
    simp [idleStep, hr]
  · intro f fs hnone hf
    simp [idleStep, hnone, hf]
  · intro hnone hf
    simp [idleStep, hnone, hf]
  · unfold idleStep
    split
    · exact hruns _ _
    · exact hruns _ _
    · exact ⟨_, rfl⟩
end Sys2Proof.Machine
end

section
/-! ### The steps of a cycle's boundary -/

namespace Sys2Proof.Machine

/-- A key that a store in order does not list below its first one reads as unlisted. -/
theorem SMap.find_eq_none_of_lt {β : Type} {m : SMap β} {k : Nat} (h : ∀ e ∈ m, k < e.1) : m.find k = none := by
  induction m with
  | nil => rfl
  | cons e m ih =>
    have hne : e.1 ≠ k := Nat.ne_of_gt (h e List.mem_cons_self)
    simp [SMap.find, hne, ih fun x hx => h x (List.mem_cons_of_mem _ hx)]

/-- The latch transfer gives a register bit its pending value, and leaves one without a pending value as it is. -/
theorem get_transferLatches (x : Die) (h : SMap.ordered x.pendLatch) (k : Nat) :
    (transferLatches x).regBits.get false k =
      ((x.pendLatch.get none k).map Prod.fst).getD (x.regBits.get false k) := by
  obtain ⟨l, hl⟩ : ∃ l, x.pendLatch = l := ⟨_, rfl⟩
  obtain ⟨m, hm⟩ : ∃ m, x.regBits = m := ⟨_, rfl⟩
  simp only [transferLatches, hl, hm] at h ⊢
  clear hl hm
  induction l generalizing m with
  | nil => rfl
  | cons e l ih =>
    obtain ⟨j, v⟩ := e
    obtain ⟨hlt, hord⟩ := SMap.ordered_cons.1 h
    rw [List.foldl_cons, ih _ hord]
    by_cases hj : j = k
    · subst hj
      have hnone : SMap.find l j = none := SMap.find_eq_none_of_lt hlt
      cases v <;> simp [SMap.get.eq_1 none, SMap.find, hnone]
    · have hk : k ≠ j := fun h => hj h.symm
      cases v <;> simp [SMap.get.eq_1 none, SMap.find, hj, hk]

/-- The die with the boundary step that it is at marked as made. -/
def boundaryMarked (x : Die) : Die := { x with stage := { x.stage with done := x.stage.done ++ [boundaryKey] } }

/-- The command of a boundary step that a die may execute and for which no hold stands is the step's action. -/
theorem exec_boundaryPhase {s : State} {d : Fin 4} (hin : inBoundary s d = true)
    (hdone : unitDone s d boundaryKey = false)
    (hhold : holdsAt s (cycleOf s s.dies[d].sigma) (stepOf s s.dies[d].sigma - stepsS s) = none) :
    exec (.boundaryPhase d) s = .next (boundaryAction (onDie s d boundaryMarked) d
      (cycleOf s s.dies[d].sigma) (stepOf s s.dies[d].sigma - stepsS s)) := by
  show execBoundaryPhase d s = _
  rw [execBoundaryPhase, if_pos hin, boundaryStep]
  simp only [hdone, hhold, Bool.false_eq_true, if_false]
  rfl

/-- Showing regions as loaded again changes no die. -/
theorem foldl_rejoinBlocks_dies (ns : List Nat) (s : State) :
    (ns.foldl (fun t n => setF (rejoinBlocks t n) (F.LDR_REGION_STATE n) 0) s).dies = s.dies := by
  induction ns generalizing s with
  | nil => rfl
  | cons n ns ih => exact ih _

/-- At B0 of a cycle at which no tile of the die rejoins, the die has its latches transferred and its boundary copy taken. -/
theorem boundaryB0_die {s : State} {d : Fin 4} {c : Nat} (h : rejoinsAt s d c = []) :
    (boundaryB0 s d c).dies[d].pendLatch = [] ∧
      (boundaryB0 s d c).dies[d].regBits = (transferLatches s.dies[d]).regBits := by
  have hnone : ∀ g, rejoinsAt (onDie s d g) d c = [] := fun _ => h
  simp only [boundaryB0, rejoinB0, hnone, List.foldl_nil, foldl_rejoinBlocks_dies, Fin.getElem_fin, onDie_die]
  simp [transferLatches]

/-- After B8 of a cycle the die's vote is there: the one that was there already, or a good one. -/
theorem boundaryB8_vote (s : State) (d : Fin 4) (c : Nat) :
    (boundaryB8 s d c).run.votes.get none (c * 4 + d) = some ((s.run.votes.get none (c * 4 + d)).getD true) := by
  unfold boundaryB8
  cases hv : s.run.votes.get none (c * 4 + d) <;> simp [hv]

/-- B8 changes nothing but votes. -/
theorem boundaryB8_frame (s : State) (d : Fin 4) (c : Nat) :
    boundaryB8 s d c = { s with run := (boundaryB8 s d c).run } := by
  unfold boundaryB8
  split <;> rfl

/-- A change of one die leaves every other die alone. -/
theorem diesBut_onDie (s : State) (d : Fin 4) (g : Die → Die) : DiesBut s (onDie s d g) d := fun _ h => onDie_other s h g

/-- A die that is changed twice. -/
theorem onDie_onDie (s : State) (d : Fin 4) (f g : Die → Die) : onDie (onDie s d f) d g = onDie s d (g ∘ f) := by
  simp [onDie, setDie]

/-- The die with its cycle counted. -/
def cycleCounted (x : Die) : Die := { x with cycle := (x.cycle + 1) % 2 ^ 64 }

/-- The die with its receive slots empty. -/
def slotsEmptied (x : Die) : Die := { x with slots := [] }

theorem boundaryAction_seven (s : State) (d : Fin 4) (c : Nat) : boundaryAction s d c 7 = onDie s d cycleCounted := rfl

theorem boundaryAction_nine (s : State) (d : Fin 4) (c : Nat) : boundaryAction s d c 9 = onDie s d slotsEmptied := rfl

/-- Settles O4, by the boundary step. -/
theorem boundaryPhaseActs : Obligations.BoundaryPhaseActs := by
  unfold Obligations.BoundaryPhaseActs
  intro s d x c i hin hdone hhold
  have hexec := exec_boundaryPhase hin hdone hhold
  have hdie : ∀ g : Die → Die, (onDie s d g).dies[d] = g x := onDie_die s d
  refine ⟨fun hi hord hrejoin => ?_, fun hi => ?_, fun hi => ?_, fun hi => ?_⟩ <;>
    rw [show stepOf s s.dies[d].sigma - stepsS s = i from rfl, hi] at hexec
  case refine_1 =>
    obtain ⟨hpend, hregs⟩ := boundaryB0_die (s := onDie s d boundaryMarked) (c := c) hrejoin
    refine ⟨_, hexec, hpend, fun k => ?_⟩
    have hbit := get_transferLatches (boundaryMarked x) hord k
    rw [hdie boundaryMarked] at hregs
    rw [← hregs] at hbit
    refine hbit.trans ?_
    show ((x.pendLatch.get none k).map Prod.fst).getD (x.regBits.get false k) = _
    cases x.pendLatch.get none k <;> rfl
  case refine_2 =>
    rw [boundaryAction_seven, onDie_onDie] at hexec
    have hx := hdie (cycleCounted ∘ boundaryMarked)
    exact ⟨_, hexec, congrArg Die.cycle hx, (congrArg Die.sigma hx).trans rfl, diesBut_onDie s d _, rfl⟩
  case refine_3 =>
    refine ⟨_, hexec.trans (congrArg _ (boundaryB8_frame ..)), diesBut_onDie s d boundaryMarked, rfl, ?_⟩
    exact boundaryB8_vote (onDie s d boundaryMarked) d c
  case refine_4 =>
    rw [boundaryAction_nine, onDie_onDie] at hexec
    have hx := hdie (slotsEmptied ∘ boundaryMarked)
    exact ⟨_, hexec, congrArg Die.slots hx, (congrArg Die.regBits hx).trans rfl, diesBut_onDie s d _, rfl⟩

end Sys2Proof.Machine
end

section
/-! ### Restoring a boundary while a region rejoins in a discarded cycle -/

namespace Sys2Proof.Machine

/-- Region 0xFF01 rejoins at cycle `nb`; discarding that cycle takes the rejoin back and shows the region's STATE anew.  Regions
are numbered up to 63, but a state may list any number, and STATE of this one would stand where S of ARY_SCHEDULE does. -/
def rejoiningAt (nb : Nat) : SMap (Option RegionRun) := [(0xFF01, some ⟨0, some nb, false⟩)]

/-- Every die is frozen in an executing machine with S = 64; cycle 1 is to be replayed, and region 0xFF01 rejoins in it. -/
def replayingWithRegion : State :=
  { setF (setF State.reset F.ARY_STATE_STATE 3) F.ARY_SCHEDULE_S 64 with
    dies := Vector.replicate 4 { Die.reset with frozen := true }
    run := { RunCtl.reset with nextCommit := 1, replay := some ⟨1, false, none, false⟩, regions := rejoiningAt 1 } }

/-- The restore begins cycle 1 at step 14, that is with S = 2, where the schedule has 76 steps to a cycle. -/
theorem restoreBoundary_replayingWithRegion : cycleSteps replayingWithRegion = 76 ∧
    ∃ t, exec .restoreBoundary replayingWithRegion = .next t ∧ t.dies[0].sigma = 14 :=
  ⟨by decide +kernel, _, rfl, by decide +kernel⟩

/-- Refutes O12: in `replayingWithRegion` the restore puts the dies at step 14, and the first uncommitted cycle begins at
step 76. -/
theorem not_faultIsReplayedFromTheCommittedBoundary : ¬ Obligations.FaultIsReplayedFromTheCommittedBoundary := by
  unfold Obligations.FaultIsReplayedFromTheCommittedBoundary
  intro h
  obtain ⟨-, hrestore, -⟩ := h replayingWithRegion (by decide +kernel)
  obtain ⟨t, hexec, ht⟩ := hrestore ⟨1, false, none, false⟩ rfl rfl (by decide +kernel) rfl (by decide +kernel) (by decide)
  obtain ⟨hsteps, t', hexec', ht'⟩ := restoreBoundary_replayingWithRegion
  obtain rfl := Host.Outcome.next.inj (hexec.symm.trans hexec')
  obtain ⟨hsigma, -⟩ := ht 0
  rw [hsteps] at hsigma
  exact absurd (ht'.symm.trans hsigma) (by decide)

end Sys2Proof.Machine
end

section
/-! ### STOP (at committed), which restores the boundary too -/

namespace Sys2Proof.Machine

/-- A STOP (at committed) of session 3 in its generation 2. -/
def stopDesc : Desc := { session := 3, sgen := 2, tag := 0, irq := false, link := false, fence := false }

/-- An executing machine with S = 64 whose loaded Ingot session 3 owns; cycle 0 has committed, and region 0xFF01 rejoins in
cycle 1. -/
def ownedWithRegion : State :=
  let fields := [(F.ARY_STATE_STATE, 2), (F.ARY_SCHEDULE_S, 64), (F.LDR_OWNER_VALID, 1), (F.LDR_OWNER_SESSION, 3),
    (F.LDR_OWNER_GEN, 2)]
  let s := fields.foldl (fun t e => setF t e.1 e.2) State.reset
  { s with
    run := { RunCtl.reset with nextCommit := 1, regions := rejoiningAt 1 }
    host := { s.host with sessions := [(3, { Session.closed with state := 1, gen := 2, sqLog := 4, cqLog := 4 })] } }

/-- The machine comes to rest at step 14, that is with S = 2, where the schedule has 76 steps to a cycle. -/
theorem stopAtCommitted_ownedWithRegion : cycleSteps ownedWithRegion = 76 ∧
    ∃ t, exec (.stopAtCommitted stopDesc) ownedWithRegion = .next t ∧ t.dies[0].sigma = 14 :=
  ⟨by decide +kernel, _, rfl, by decide +kernel⟩

/-- Refutes O14: STOP (at committed) in `ownedWithRegion` rests at step 14, and the last committed boundary is at step
76. -/
theorem not_runControlDescriptorsAct : ¬ Obligations.RunControlDescriptorsAct := by
  unfold Obligations.RunControlDescriptorsAct
  intro h
  have hruns : DescRuns ownedWithRegion stopDesc := by unfold DescRuns; decide +kernel
  obtain ⟨-, -, -, hstop, -⟩ := h ownedWithRegion stopDesc hruns (by decide +kernel) rfl rfl rfl rfl (by decide +kernel)
  obtain ⟨t, hexec, -, -, ht⟩ := hstop (by decide +kernel)
  obtain ⟨hsteps, t', hexec', ht'⟩ := stopAtCommitted_ownedWithRegion
  obtain rfl := Host.Outcome.next.inj (hexec.symm.trans hexec')
  obtain ⟨hsigma, -⟩ := ht 0
  rw [hsteps] at hsigma
  exact absurd (ht'.symm.trans hsigma) (by decide)

end Sys2Proof.Machine
end

section
/-! ### Control blocks on links: what sending moves and what it leaves -/

namespace Sys2Proof.Machine

/-! #### Sending on links -/

/-- The registers below those of the single links: the array's, the Assay engine's and the machine's among them. -/
abbrev BelowLinks (f : Fld) : Prop := f.key < (F.LNK_LINK_STATUS_DEEP 0).key

/-- `t` is `s` after control blocks have gone out on some links, or one has come in: registers of single links, what the
transmitters keep, the free values drawn and what was sent may differ. -/
structure LinksMoved (s t : State) : Prop where
  dies : t.dies = s.dies
  run : t.run = s.run
  mem : t.mem = s.mem
  holds : t.holds = s.holds
  graph : t.lnk.graph = s.lnk.graph
  cut : t.lnk.cut = s.lnk.cut
  started : t.lnk.started = s.lnk.started
  below : ∀ f, BelowLinks f → getF t f = getF s f
  outs : s.outs <+: t.outs
  carries : ∀ k, Carries s k → Carries t k

theorem LinksMoved.refl (s : State) : LinksMoved s s :=
  ⟨rfl, rfl, rfl, rfl, rfl, rfl, rfl, fun _ _ => rfl, List.prefix_rfl, fun _ h => h⟩

theorem LinksMoved.trans {s t u : State} (h : LinksMoved s t) (h' : LinksMoved t u) : LinksMoved s u :=
  ⟨h'.dies.trans h.dies, h'.run.trans h.run, h'.mem.trans h.mem, h'.holds.trans h.holds, h'.graph.trans h.graph,
    h'.cut.trans h.cut, h'.started.trans h.started, fun f hf => (h'.below f hf).trans (h.below f hf), h.outs.trans h'.outs,
    fun k hk => h'.carries k (h.carries k hk)⟩

theorem LinksMoved.foldl {α : Type} {g : State → α → State} (hg : ∀ s a, LinksMoved s (g s a)) (xs : List α) (s : State) :
    LinksMoved s (xs.foldl g s) := by
  induction xs generalizing s with
  | nil => exact .refl s
  | cons x xs ih => exact (hg s x).trans (ih _)

/-- A change of what one link keeps. -/
theorem linksMoved_onLink (s : State) (l : Nat) (g : LinkSt → LinkSt) : LinksMoved s (onLink s l g) :=
  ⟨rfl, rfl, rfl, rfl, rfl, rfl, rfl, fun _ _ => rfl, List.prefix_rfl, fun _ h => h⟩

theorem linksMoved_emit (s : State) (o : Out) : LinksMoved s (emit s o) :=
  ⟨rfl, rfl, rfl, rfl, rfl, rfl, rfl, fun _ _ => rfl, List.prefix_append _ _, fun _ h => h⟩

/-- The CSEQ of the device's own blocks moves on. -/
theorem linksMoved_cseq (s : State) (n : Nat) : LinksMoved s (onLnk s (fun x => { x with cseq := n })) :=
  ⟨rfl, rfl, rfl, rfl, rfl, rfl, rfl, fun _ _ => rfl, List.prefix_rfl, fun _ h => h⟩

/-- A write to a field of a single link that is neither STAGE nor DEEP of its status. -/
theorem linksMoved_setB (s : State) {f : Fld} (b : Bool) (hbelow : (F.LNK_LINK_STATUS_DEEP 0).key ≤ f.key)
    (hstage : ∀ k, (F.LNK_LINK_STATUS_STAGE k).key ≠ f.key) (hdeep : ∀ k, (F.LNK_LINK_STATUS_DEEP k).key ≠ f.key) :
    LinksMoved s (setB s f b) := by
  refine ⟨rfl, rfl, rfl, rfl, rfl, rfl, rfl, fun g hg => getF_setB_other s ?_ b, List.prefix_rfl, fun k ⟨hact, hk⟩ => ⟨?_, ?_⟩⟩
  · exact (Nat.lt_of_lt_of_le hg hbelow).ne
  · simpa [linkActive, linkStage, getF_setB_other s (hstage k)] using hact
  · rwa [getB_setB_other s (hdeep k)]

theorem linksMoved_dozeTx (s : State) (l : Nat) (b : Bool) : LinksMoved s (setB s (F.LNK_LINK_STATUS_DOZE_TX l) b) := by
  refine linksMoved_setB s b ?_ ?_ ?_ <;> intros <;>
    simp only [Fld.key, F.LNK_LINK_STATUS_DEEP, F.LNK_LINK_STATUS_STAGE, F.LNK_LINK_STATUS_DOZE_TX] <;> omega

theorem linksMoved_dozeRx (s : State) (l : Nat) (b : Bool) : LinksMoved s (setB s (F.LNK_LINK_STATUS_DOZE_RX l) b) := by
  refine linksMoved_setB s b ?_ ?_ ?_ <;> intros <;>
    simp only [Fld.key, F.LNK_LINK_STATUS_DEEP, F.LNK_LINK_STATUS_STAGE, F.LNK_LINK_STATUS_DOZE_RX] <;> omega

theorem linksMoved_sendTrack (s : State) (l : Nat) : LinksMoved s (sendTrack s l) := by
  have hdraw : LinksMoved s { s with draws := s.draws + 1 } :=
    ⟨rfl, rfl, rfl, rfl, rfl, rfl, rfl, fun _ _ => rfl, List.prefix_rfl, fun _ h => h⟩
  exact (hdraw.trans (linksMoved_cseq _ _)).trans (linksMoved_emit _ _)

theorem linksMoved_leaveDoze (s : State) (l : Nat) : LinksMoved s (leaveDoze s l) := by
  unfold leaveDoze
  split
  · exact (linksMoved_dozeTx s l false).trans (LinksMoved.foldl (fun t _ => linksMoved_sendTrack t l) _ _)
  · exact .refl s

/-- A link that leaves Deep carried nothing, and no other link is touched. -/
theorem linksMoved_leaveDeep {s : State} {l : Nat} (hdeep : getB s (F.LNK_LINK_STATUS_DEEP l) = true) :
    LinksMoved s (setF (setB (setB s (F.LNK_LINK_STATUS_DEEP l) false) (F.LNK_LINK_CTRL_DEEP l) false)
      (F.LNK_LINK_STATUS_STAGE l) 1) := by
  refine ⟨rfl, rfl, rfl, rfl, rfl, rfl, rfl, fun g hg => ?_, List.prefix_rfl, fun k ⟨hact, hk⟩ => ?_⟩
  · unfold BelowLinks at hg
    rw [getF_setF_other, getF_setB_other, getF_setB_other] <;>
      simp only [Fld.key, F.LNK_LINK_STATUS_DEEP, F.LNK_LINK_STATUS_STAGE, F.LNK_LINK_CTRL_DEEP] at hg ⊢ <;> omega
  · have hkl : k ≠ l := fun h => by rw [h, hdeep] at hk; cases hk
    constructor
    · unfold linkActive linkStage at hact ⊢
      rw [getF_setF_other, getF_setB_other, getF_setB_other]
      · exact hact
      all_goals simp only [Fld.key, F.LNK_LINK_STATUS_DEEP, F.LNK_LINK_STATUS_STAGE, F.LNK_LINK_CTRL_DEEP]; omega
    · rw [getB_setF_other, getB_setB_other, getB_setB_other]
      · exact hk
      all_goals simp only [Fld.key, F.LNK_LINK_STATUS_DEEP, F.LNK_LINK_STATUS_STAGE, F.LNK_LINK_CTRL_DEEP]; omega

theorem linksMoved_wakeLink (s : State) (l : Nat) : LinksMoved s (wakeLink s l) := by
  have hwoken : LinksMoved s (leaveDoze (onLink s l (fun x => { x with txIdle := 0 })) l) :=
    (linksMoved_onLink s l _).trans (linksMoved_leaveDoze _ l)
  unfold wakeLink
  dsimp only
  split
  next hdeep => exact (hwoken.trans (linksMoved_leaveDeep hdeep)).trans (linksMoved_onLink _ l _)
  next => exact hwoken

theorem linksMoved_putBlock (ct origin cseq payload : Nat) (s : State) (l : Nat) :
    LinksMoved s (putBlock ct origin cseq payload s l) := by
  refine (linksMoved_wakeLink s l).trans ?_
  unfold putBlock
  dsimp only
  split
  · exact linksMoved_emit _ _
  · split
    · exact linksMoved_onLink _ _ _
    · exact .refl _

theorem linksMoved_sendBlock (s : State) (ls : List Nat) (ct payload : Nat) : LinksMoved s (sendBlock s ls ct payload) :=
  (linksMoved_cseq s _).trans (LinksMoved.foldl (linksMoved_putBlock _ _ _ _) ls _)

theorem linksMoved_passOn (s : State) (ls : List Nat) (ct : Nat) (b : CtlBlock) : LinksMoved s (passOn s ls ct b) :=
  LinksMoved.foldl (linksMoved_putBlock _ _ _ _) ls s

/-! #### What is sent -/

/-- The block with these contents on link `k`. -/
def blockOn (k ct origin cseq payload : Nat) : Out := .block k ct origin cseq payload (blockCrc ct origin cseq payload)

/-- A link that carries blocks sends the block last, after the blocks with which it wakes. -/
theorem putBlock_of_carries {s : State} {l : Nat} (h : Carries s l) (ct origin cseq payload : Nat) :
    putBlock ct origin cseq payload s l = emit (wakeLink s l) (blockOn l ct origin cseq payload) := by
  obtain ⟨hact, -⟩ := (linksMoved_wakeLink s l).carries l h
  simp [putBlock, hact, driveBlock, blockOn]

/-- A link that neither dozes nor is in Deep sends nothing as it wakes. -/
theorem wakeLink_outs_of_awake {s : State} {l : Nat} (hdeep : getB s (F.LNK_LINK_STATUS_DEEP l) = false)
    (hdoze : getB s (F.LNK_LINK_STATUS_DOZE_TX l) = false) : (wakeLink s l).outs = s.outs := by
  have hdoze' : leaveDoze (onLink s l (fun x => { x with txIdle := 0 })) l = onLink s l (fun x => { x with txIdle := 0 }) :=
    if_neg (by simpa [onLink] using hdoze)
  have hdeep' : ¬ getB (onLink s l (fun x => { x with txIdle := 0 })) (F.LNK_LINK_STATUS_DEEP l) = true := by
    simpa [onLink] using hdeep
  unfold wakeLink
  dsimp only
  rw [hdoze', if_neg hdeep']
  rfl

/-- A block passed on goes out on every one of the links that carries blocks. -/
theorem mem_passOn {s : State} {ls : List Nat} {k : Nat} (hk : k ∈ ls) (hc : Carries s k) (ct : Nat) (b : CtlBlock) :
    blockOn k ct b.origin.toNat b.cseq.toNat b.payload.toNat ∈ (passOn s ls ct b).outs := by
  unfold passOn
  induction ls generalizing s with
  | nil => cases hk
  | cons j ls ih =>
    rw [List.foldl_cons]
    rcases List.mem_cons.1 hk with rfl | hk'
    · refine (LinksMoved.foldl (linksMoved_putBlock _ _ _ _) ls _).outs.subset ?_
      simp [putBlock_of_carries hc]
    · exact ih hk' ((linksMoved_putBlock _ _ _ _ s j).carries k hc)

/-! #### Blocks that arrive -/

/-- The state once a block that is heard is noted, before it is acted on. -/
def noted (s : State) (l ct : Nat) (b : CtlBlock) : State :=
  setB (onLink s l (fun x => { x with seen := x.seen.set none (ct * 16 + b.origin.toNat) (some b.cseq.toNat), idle := 0 }))
    (F.LNK_LINK_STATUS_DOZE_RX l) false

theorem onFirst_heard {s : State} {l ct : Nat} {b : CtlBlock} (h : Heard s l ct b) (k : State → State) :
    onFirst s l ct b k = k (noted s l ct b) := by
  obtain ⟨hok, hstage, hseen⟩ := h
  simp [onFirst, hok, hstage, hseen, noted]

theorem onFirst_unheard {s : State} {l ct : Nat} {b : CtlBlock} (h : ¬ Heard s l ct b) (k : State → State) :
    onFirst s l ct b k = s := by
  unfold Heard at h
  simp only [onFirst, Bool.and_eq_true, bne_iff_ne, and_assoc, if_neg h]

theorem linksMoved_noted (s : State) (l ct : Nat) (b : CtlBlock) : LinksMoved s (noted s l ct b) :=
  (linksMoved_onLink s l _).trans (linksMoved_dozeRx _ l false)

@[simp] theorem noted_outs (s : State) (l ct : Nat) (b : CtlBlock) : (noted s l ct b).outs = s.outs := rfl

theorem getB_dozeTx_noted (s : State) (l ct : Nat) (b : CtlBlock) (k : Nat) :
    getB (noted s l ct b) (F.LNK_LINK_STATUS_DOZE_TX k) = getB s (F.LNK_LINK_STATUS_DOZE_TX k) := by
  refine (getB_setB_other _ ?_ _).trans rfl
  simp only [Fld.key, F.LNK_LINK_STATUS_DOZE_TX, F.LNK_LINK_STATUS_DOZE_RX]
  omega

end Sys2Proof.Machine
end

section
/-! ### The machine's control blocks -/

namespace Sys2Proof.Machine

/-! #### What links do not move -/

section
variable {s t : State} (h : LinksMoved s t)
include h

theorem LinksMoved.field {f : Fld} (hf : BelowLinks f := by decide) : getF t f = getF s f := h.below f hf

theorem LinksMoved.bit {f : Fld} (hf : BelowLinks f := by decide) : getB t f = getB s f := by
  unfold getB
  rw [h.below f hf]

theorem LinksMoved.executing : executing t = executing s := by
  unfold Machine.executing emState
  rw [h.field]

theorem LinksMoved.multi : multi t = multi s := h.bit

theorem LinksMoved.position : position t = position s := h.field

theorem LinksMoved.voteRoot : voteRoot t = voteRoot s := by
  unfold Machine.voteRoot
  rw [h.multi, h.bit]

theorem LinksMoved.machineSize : machineSize t = machineSize s := by
  unfold Machine.machineSize
  rw [h.field]

theorem LinksMoved.timeNs : timeNs t = timeNs s := by
  unfold Machine.timeNs get64
  rw [h.field, h.field (f := F.IDN_TIME_HI_TIME)]

theorem LinksMoved.sourceOn (n : Nat) : sourceOn t n = sourceOn s n := by
  unfold Machine.sourceOn
  rw [h.field]

theorem LinksMoved.sigmaMin : sigmaMin t = sigmaMin s := by
  unfold Machine.sigmaMin
  rw [h.dies]

theorem LinksMoved.rootLink : rootLink t = rootLink s := by
  unfold Machine.rootLink
  rw [h.graph, h.position]

theorem LinksMoved.fromRoot : fromRoot t = fromRoot s := by
  unfold Machine.fromRoot
  rw [h.graph, h.position]

theorem LinksMoved.deviceReady : deviceReady t = deviceReady s := by
  have hready : dieReady t = dieReady s := by
    funext d
    unfold dieReady itemPresent
    rw [h.dies]
  unfold Machine.deviceReady
  rw [hready, h.run]
  simp only [h.sourceOn]

end

/-! #### The hold of a device -/

theorem raiseSource_frame (s : State) (n : Nat) : raiseSource s n = { s with regs := (raiseSource s n).regs } := by
  unfold raiseSource
  split <;> rfl

@[simp] theorem raiseSource_dies (s : State) (n : Nat) : (raiseSource s n).dies = s.dies :=
  (congrArg State.dies (raiseSource_frame s n)).trans rfl

/-- A source of which HOLD_STATUS has a bit is on once it is raised. -/
theorem sourceOn_raiseSource (s : State) {n : Nat} (hn : n < 12) : sourceOn (raiseSource s n) n = true := by
  unfold raiseSource
  split
  next hon => exact hon
  next hoff =>
    have hoff : (getF s F.ARY_HOLD_STATUS_SOURCE).testBit n = false := by simpa [sourceOn] using hoff
    have hset : getF (bumpF (setFBit (setFBit s F.ARY_HOLD_STATUS_SOURCE n true) F.ARY_HOLD_EVENTS_SEEN n true)
        (F.ARY_SRC_EPISODES_COUNT n) 1) F.ARY_HOLD_STATUS_SOURCE
        = (getF s F.ARY_HOLD_STATUS_SOURCE + 2 ^ n) % 2 ^ 12 := by
      rw [getF_bumpF_other, getF_setFBit_other _ (by decide), setFBit, getF_setF_same]
      · simp only [setBit, hoff]
        rfl
      · simp only [Fld.key, F.ARY_HOLD_STATUS_SOURCE, F.ARY_SRC_EPISODES_COUNT]
        omega
    rw [sourceOn, hset, Nat.testBit_mod_two_pow, Nat.add_comm, Nat.testBit_two_pow_add_eq, hoff]
    simp [hn]

/-- A running die ordered to freeze with source 11: at its next step, or earlier where that is ordered already (R133). -/
def orderedToFreeze (x : Die) : Option Nat :=
  if x.frozen then x.freezeAt else some (min (x.freezeAt.getD (x.sigma + 1)) (x.sigma + 1))

/-- What an executing device does with a hold of the machine. -/
theorem holdDevice_of_executing {s : State} (h : executing s = true) :
    sourceOn (holdDevice s) 11 = true ∧ (holdDevice s).holds.release = none ∧
      ∀ d : Fin 4, (holdDevice s).dies[d].freezeAt = orderedToFreeze s.dies[d] := by
  have hon := sourceOn_raiseSource s (n := 11) (by decide)
  refine ⟨?_, ?_, fun d => ?_⟩ <;> simp only [holdDevice, h, if_true]
  · exact hon
  · rfl
  simp only [onHolds_dies, onDies, orderedToFreeze, Fin.getElem_fin, Vector.getElem_map, raiseSource_dies]
  cases hf : s.dies[d.val].frozen
  · cases s.dies[d.val].freezeAt <;> simp
  · simp

theorem holdDevice_of_not {s : State} (h : executing s = false) : holdDevice s = s := by
  simp [holdDevice, h]

/-- A hold changes no report and sends nothing. -/
theorem holdDevice_frame (s : State) : (holdDevice s).outs = s.outs ∧ (holdDevice s).holds.forwarded = s.holds.forwarded ∧
    (holdDevice s).holds.readyFrom = s.holds.readyFrom := by
  unfold holdDevice
  split
  · rw [raiseSource_frame]
    exact ⟨rfl, rfl, rfl⟩
  · exact ⟨rfl, rfl, rfl⟩

theorem executing_noteSkew (s : State) : executing (noteSkew s) = executing s := by
  have h : getF (noteSkew s) F.ARY_STATE_STATE = getF s F.ARY_STATE_STATE := by
    unfold noteSkew
    rw [getF_setF_other _ (by decide), getF_setF_other _ (by decide)]
  unfold executing emState
  rw [h]

/-! #### Each block -/

section
variable {s : State} {l : Fin 16} {b : CtlBlock}

/-- The HOLD of a hold not met before, once it is noted (R133, R134). -/
theorem takeHold_acts (s : State) (l key : Nat) (b : CtlBlock) :
    key ∈ (takeHold s l key b).holds.forwarded ∧ (takeHold s l key b).holds.readyFrom = [] ∧
      (executing s = true → sourceOn (takeHold s l key b) 11 = true ∧ (takeHold s l key b).holds.release = none ∧
        ∀ d : Fin 4, (takeHold s l key b).dies[d].freezeAt = orderedToFreeze s.dies[d]) ∧
      (executing s = false → (takeHold s l key b).dies = s.dies) ∧
      ∀ k : Fin 16, k.val ≠ l → Carries s k →
        blockOn k 8 b.origin.toNat b.cseq.toNat b.payload.toNat ∈ (takeHold s l key b).outs := by
  obtain ⟨m, hm⟩ : ∃ m, m = extendNear 21 (sigmaMin s) b.payload.toNat := ⟨_, rfl⟩
  obtain ⟨u, hu⟩ : ∃ u, u = onHolds (newHold s) (fun h => { h with
      forwarded := h.forwarded ++ [key], remoteMin := some (min m (h.remoteMin.getD m)) }) := ⟨_, rfl⟩
  obtain ⟨v, hv⟩ : ∃ v, v = passOn u ((activeLinks u).filter (· ≠ l)) 0x08 b := ⟨_, rfl⟩
  obtain ⟨w, hw⟩ : ∃ w, w = if anyFrozen v then noteSkew v else v := ⟨_, rfl⟩
  have hmoved : LinksMoved u v := hv ▸ linksMoved_passOn u _ 8 b
  have hframe : w.dies = v.dies ∧ w.holds = v.holds ∧ w.outs = v.outs ∧ executing w = executing v := by
    rw [hw]
    split
    · rw [executing_noteSkew]
      exact ⟨rfl, rfl, rfl, rfl⟩
    · exact ⟨rfl, rfl, rfl, rfl⟩
  obtain ⟨hdies, hholds, houts, hexec⟩ := hframe
  obtain ⟨houts', hforwarded, hready⟩ := holdDevice_frame w
  have htake : takeHold s l key b = holdDevice w := by rw [hw, hv, hu, hm]; rfl
  have hexec : executing w = executing s := hexec.trans (hmoved.executing.trans (by rw [hu]; rfl))
  have hdies : w.dies = s.dies := hdies.trans (hmoved.dies.trans (by rw [hu]; rfl))
  have hholds : w.holds = u.holds := hholds.trans hmoved.holds
  rw [htake]
  refine ⟨?_, ?_, fun h => ?_, fun h => ?_, fun k hk hc => ?_⟩
  · rw [hforwarded, hholds, hu]
    simp
  · rw [hready, hholds, hu]
    rfl
  · rw [← hdies]
    exact holdDevice_of_executing (hexec.trans h)
  · rw [holdDevice_of_not (hexec.trans h), hdies]
  · have hc' : Carries u k := by rw [hu]; exact hc
    have hact : linkActive u k = true := hc'.1
    rw [houts', houts, hv]
    refine mem_passOn ?_ hc' 8 b
    simp [activeLinks, hact, hk]

/-- Where the device is not the vote root, a block that goes towards the root goes out on the link there, and nothing of the
machine changes. -/
theorem passOn_rootLink {ct : Nat} {k : Fin 16} (hroot : rootLink s = [k.val]) (hc : Carries s k) :
    let t := passOn (noted s l ct b) (rootLink (noted s l ct b)) ct b
    let sent := blockOn k ct b.origin.toNat b.cseq.toNat b.payload.toNat
    t.outs.getLast? = some sent ∧ (getB s (F.LNK_LINK_STATUS_DOZE_TX k) = false → t.outs = s.outs ++ [sent]) ∧
      t.run = s.run ∧ t.holds = s.holds ∧ t.dies = s.dies := by
  intro t sent
  have hnoted := linksMoved_noted s l ct b
  have hmoved : LinksMoved s t := hnoted.trans (linksMoved_passOn _ _ _ _)
  have hc' := hnoted.carries k hc
  have ht : t = emit (wakeLink (noted s l ct b) k) sent := by
    show passOn _ (rootLink (noted s l ct b)) ct b = _
    rw [hnoted.rootLink, hroot]
    exact putBlock_of_carries hc' ct _ _ _
  refine ⟨by simp [ht], fun hdoze => ?_, hmoved.run, hmoved.holds, hmoved.dies⟩
  have hawake := wakeLink_outs_of_awake hc'.2 ((getB_dozeTx_noted s l ct b k).trans hdoze)
  simp [ht, hawake]

/-- The READY reports at the vote root once one more has come in (R135). -/
def reportsWith (s : State) (b : CtlBlock) : SMap (Option Nat) :=
  s.holds.readyFrom.set none b.origin.toNat (some (extendNear 21 (sigmaMin s) b.payload.toNat))

/-- The vote root waits while a report is missing or it is not ready itself. -/
theorem rootResume_of_waiting {s : State} (h : allReady s = false ∨ deviceReady s = false) : rootResume s = s := by
  rcases h with h | h <;> simp [rootResume, h]

/-- The vote root releases the machine once every device is ready (R135). -/
theorem rootResume_holds {s : State} (hroot : voteRoot s = true) (hmulti : multi s = true) (hdev : deviceReady s = true)
    (hall : allReady s = true) (hcut : s.lnk.cut = false) (hrel : s.holds.release = none) :
    (rootResume s).holds = { s.holds with
      readyFrom := []
      release := some (timeNs s + stepsToNs (getF s F.LNK_DIAMETER_STEPS) +
        (if getB s F.LNK_FORM_STATUS_DOZE_ANY then 200 else 0),
        leastOf ((List.range (machineSize s)).filterMap (fun p => s.holds.readyFrom.get none p))) } := by
  simp only [rootResume, hroot, hmulti, hdev, hall, hcut, hrel, Bool.not_false, Option.isNone_none, Bool.and_self, if_true]
  exact (linksMoved_sendBlock _ _ _ _).holds

/-- What a READY block does at the vote root. -/
theorem readyBlock_atRoot (h : Heard s l 9 b) (hroot : voteRoot s = true) :
    let u := onHolds (noted s l 9 b) (fun h => { h with readyFrom := reportsWith s b })
    exec (.readyBlock l b) s = .next (rootResume u) := by
  have hnoted := linksMoved_noted s l 9 b
  show Host.Outcome.next (onFirst s l 9 b _) = _
  rw [onFirst_heard h, if_pos (hnoted.voteRoot.trans hroot), hnoted.sigmaMin]
  simp only [reportsWith, ← hnoted.holds]
  rfl

/-- RESUME schedules the releases and goes on from the root (R135, R437). -/
theorem resumeBlock_acts (h : Heard s l 0xA b) : Answers (.resumeBlock l b) s (fun t =>
    (executing s = true → t.holds.release =
      some (extendNear 21 (timeNs s) b.payload.toNat, extendNear 21 (sigmaMin s) (b.payload.toNat / 2 ^ 21))) ∧
    ∀ k : Fin 16, k.val ∈ fromRoot s → Carries s k →
      blockOn k 0xA b.origin.toNat b.cseq.toNat b.payload.toNat ∈ t.outs) := by
  have hnoted := linksMoved_noted s l 0xA b
  have hmoved := hnoted.trans (linksMoved_passOn (noted s l 0xA b) (fromRoot s) 0xA b)
  have hsent : ∀ k : Fin 16, k.val ∈ fromRoot s → Carries s k → blockOn k 0xA b.origin.toNat b.cseq.toNat
      b.payload.toNat ∈ (passOn (noted s l 0xA b) (fromRoot s) 0xA b).outs :=
    fun k hk hc => mem_passOn hk (hnoted.carries k hc) _ _
  refine ⟨_, congrArg Host.Outcome.next (onFirst_heard h _), ?_⟩
  simp only [hnoted.fromRoot, hnoted.timeNs, hnoted.sigmaMin, hmoved.executing]
  cases hexec : executing s
  · exact ⟨nofun, hsent⟩
  · exact ⟨fun _ => rfl, hsent⟩

theorem devVote_recordVote (s : State) (p c : Nat) (bad stop : Bool) :
    (recordVote s p c bad stop).run.devVotes.get none (c * 16 + p) = some (!bad) := by
  simp [recordVote]

/-- The machine has committed cycle `c`, with STOP or not (R25, R383). -/
def machineCommitted (s : State) (c : Nat) (stop : Bool) : State :=
  onRun s (fun r => { r with
    rootCommit := max s.run.rootCommit (c + 1)
    stopCycles := if stop then s.run.stopCycles ++ [c] else s.run.stopCycles })

/-- COMMIT commits for the machine and goes on from the root (R25, R383, R437). -/
theorem commitBlock_acts (h : Heard s l 0xC b) : Answers (.commitBlock l b) s (fun t =>
    let c := extendNear 21 s.run.nextCommit b.payload.toNat
    t.run.rootCommit = max s.run.rootCommit (c + 1) ∧
    t.run.stopCycles = (if b.payload.toNat.testBit 40 then s.run.stopCycles ++ [c] else s.run.stopCycles) ∧
    ∀ k : Fin 16, k.val ∈ fromRoot s → Carries s k →
      blockOn k 0xC b.origin.toNat b.cseq.toNat b.payload.toNat ∈ t.outs) := by
  have hnoted := linksMoved_noted s l 0xC b
  obtain ⟨u, hu⟩ : ∃ u, u = machineCommitted (noted s l 0xC b) (extendNear 21 s.run.nextCommit b.payload.toNat)
    (b.payload.toNat.testBit 40) := ⟨_, rfl⟩
  have hexec : exec (.commitBlock l b) s = .next (passOn u (fromRoot u) 0xC b) := by
    rw [hu]
    exact congrArg Host.Outcome.next (onFirst_heard h _)
  have hroot : fromRoot u = fromRoot s := by rw [← hnoted.fromRoot, hu]; rfl
  have hcarries : ∀ k, Carries s k → Carries u k := fun k hk => by rw [hu]; exact hnoted.carries k hk
  refine ⟨_, hexec, ?_, ?_, fun k hk hc => mem_passOn (hroot ▸ hk) (hcarries k hc) _ _⟩
  all_goals
    rw [(linksMoved_passOn _ _ _ _).run, hu]
    rfl

/-- The devices that have reported ready for a start, with one more. -/
def startedWith (s : State) (p : Nat) : List Nat :=
  if s.lnk.started.contains p then s.lnk.started else s.lnk.started ++ [p]

theorem mem_startedWith (s : State) (p : Nat) : p ∈ startedWith s p := by
  unfold startedWith
  split
  next h => simpa using h
  next => simp

/-- The state with the report noted. -/
def withStarted (s : State) (p : Nat) : State := onLnk s (fun x => { x with started := startedWith s p })

/-- Every device of the machine has reported, with the report of `p`. -/
def allStarted (s : State) (p : Nat) : Bool := (List.range (machineSize s)).all (fun q => (startedWith s p).contains q)

/-- Before START_READY shows, a report shows it where it is the last, and sends SYNC where the device drives it. -/
theorem startReport_eq {s : State} (p : Nat) (hshown : getB s F.LNK_FORM_STATUS_START_READY = false) :
    startReport s p = if allStarted s p then
        if getB s F.ASY_SYNC_CTRL_DRIVE then emit (setB (withStarted s p) F.LNK_FORM_STATUS_START_READY true) .sync
        else setB (withStarted s p) F.LNK_FORM_STATUS_START_READY true
      else withStarted s p := by
  have hshown' : getB (withStarted s p) F.LNK_FORM_STATUS_START_READY = false := hshown
  have hdrive : getB (setB (withStarted s p) F.LNK_FORM_STATUS_START_READY true) F.ASY_SYNC_CTRL_DRIVE
      = getB s F.ASY_SYNC_CTRL_DRIVE := getB_setB_other _ (by decide) true
  have hall : (allStarted s p && !getB (withStarted s p) F.LNK_FORM_STATUS_START_READY) = allStarted s p := by
    simp [hshown']
  rw [← hdrive, ← hall]
  rfl

/-- A device that reports ready for a start is noted, and START_READY shown once every one has (R397, R398). -/
theorem startReport_acts {s : State} {p : Nat} (hshown : getB s F.LNK_FORM_STATUS_START_READY = false) :
    let t := startReport s p
    let ready := (List.range (machineSize s)).all (fun q => t.lnk.started.contains q)
    p ∈ t.lnk.started ∧ getB t F.LNK_FORM_STATUS_START_READY = ready ∧
      t.outs = if ready && getB s F.ASY_SYNC_CTRL_DRIVE then s.outs ++ [.sync] else s.outs := by
  have hstarted : (startReport s p).lnk.started = startedWith s p := by
    rw [startReport_eq p hshown]
    split
    · split <;> rfl
    · rfl
  simp only [hstarted, mem_startedWith, true_and]
  rw [startReport_eq p hshown, ← allStarted]
  cases hall : allStarted s p
  · exact ⟨hshown, rfl⟩
  · cases getB s F.ASY_SYNC_CTRL_DRIVE <;>
      exact ⟨getB_setB_same (withStarted s p) F.LNK_FORM_STATUS_START_READY true rfl, rfl⟩

/-- An IDLE or TRACK block on an active link counts one more in a row. -/
theorem idleIn_acts {ct : Nat} (hok : blockOk ct b = true) (hact : linkActive s l = true) :
    link (idleIn s l ct b) l = { link s l with idle := min 4096 ((link s l).idle + 1) } ∧
      (idleIn s l ct b).outs = s.outs ∧ getB (idleIn s l ct b) (F.LNK_LINK_STATUS_DOZE_RX l) = false := by
  simp only [idleIn, hok, hact, Bool.and_self, if_true]
  exact ⟨SMap.get_set_same _ _ _ _, rfl, getB_setB_same s (F.LNK_LINK_STATUS_DOZE_RX l) false rfl⟩

theorem idleIn_ignored {ct : Nat} (h : blockOk ct b = false ∨ linkActive s l = false) : idleIn s l ct b = s := by
  rcases h with h | h <;> simp [idleIn, h]

end

/-- Settles O35, block by block. -/
theorem machineControlBlocksAct : Obligations.MachineControlBlocksAct := by
  unfold Obligations.MachineControlBlocksAct
  intro s l b
  refine ⟨?unheard, ?met, ?hold, ?towardsRoot, ?ready, resumeBlock_acts, ?vote, commitBlock_acts, ?start, ?idle⟩
  case unheard =>
    intro skew e he hnot
    have hsame := onFirst_unheard hnot
    simp only [List.mem_cons, List.not_mem_nil, or_false] at he
    rcases he with rfl | rfl | rfl | rfl | rfl | rfl | rfl | rfl | rfl | rfl | rfl | rfl <;> exact ⟨_, rfl, hsame _⟩
  case met =>
    intro h hmet
    have hnoted := linksMoved_noted s l 8 b
    have hmet' := List.contains_iff_mem.2 (hnoted.holds ▸ hmet)
    exact ⟨_, congrArg Host.Outcome.next ((onFirst_heard h _).trans (if_pos hmet')), rfl, rfl, rfl, rfl⟩
  case hold =>
    intro h hmet
    have hnoted := linksMoved_noted s l 8 b
    obtain ⟨hforwarded, hready, hrun, hrest, hsent⟩ :=
      takeHold_acts (noted s l 8 b) l (holdKey b.origin.toNat b.cseq.toNat b.payload.toNat) b
    have hmet' := mt List.contains_iff_mem.1 (hnoted.holds ▸ hmet)
    rw [hnoted.executing] at hrun hrest
    exact ⟨_, congrArg Host.Outcome.next ((onFirst_heard h _).trans (if_neg hmet')), hforwarded, hready, hrun, hrest,
      fun k hk hc => hsent k (fun h => hk (Fin.ext h)) (hnoted.carries k hc)⟩
  case towardsRoot =>
    intro e he k h hroot hlink hc
    have hsent := passOn_rootLink (l := l) (b := b) (ct := e.2) hlink hc
    have hnot : ¬ voteRoot (noted s l e.2 b) = true := by simp [(linksMoved_noted s l e.2 b).voteRoot, hroot]
    simp only [List.mem_cons, List.not_mem_nil, or_false] at he
    rcases he with rfl | rfl | rfl <;>
      exact ⟨_, congrArg Host.Outcome.next ((onFirst_heard h _).trans (if_neg hnot)), hsent⟩
  case ready =>
    intro h hroot
    have hnoted := linksMoved_noted s l 9 b
    have hexec := readyBlock_atRoot h hroot
    obtain ⟨u, hu⟩ : ∃ u, u = onHolds (noted s l 9 b) (fun h => { h with readyFrom := reportsWith s b }) := ⟨_, rfl⟩
    have hall : allReady u = (List.range (machineSize s)).all (fun q => ((reportsWith s b).get none q).isSome) := by
      rw [← hnoted.machineSize, hu]
      rfl
    have hdev : deviceReady u = deviceReady s := by rw [← hnoted.deviceReady, hu]; rfl
    have hholds : u.holds = { s.holds with readyFrom := reportsWith s b } := by rw [← hnoted.holds, hu]; rfl
    rw [← hu] at hexec
    refine ⟨fun hwait => ⟨_, hexec, ?_⟩, fun hall' hdev' hmulti hcut hrel => ⟨_, hexec, ?_⟩⟩
    · dsimp only
      rw [rootResume_of_waiting (by rwa [hall, hdev]), hholds]
      exact ⟨rfl, by rw [hu]; rfl⟩
    · have hroot' : voteRoot u = true := by rw [← hroot, ← hnoted.voteRoot, hu]; rfl
      have hmulti' : multi u = true := by rw [← hmulti, ← hnoted.multi, hu]; rfl
      have hcut' : u.lnk.cut = false := by rw [← hcut, ← hnoted.cut, hu]; rfl
      dsimp only
      rw [rootResume_holds hroot' hmulti' (hdev.trans hdev') (hall.trans hall') hcut' (by rw [hholds, hrel]), hholds]
      simp only [reportsWith, ← hnoted.timeNs, ← hnoted.machineSize, ← hnoted.field (f := F.LNK_DIAMETER_STEPS),
        ← hnoted.bit (f := F.LNK_FORM_STATUS_DOZE_ANY)]
      rw [hu]
      rfl
  case vote =>
    intro h hroot
    have hnoted := linksMoved_noted s l 0xB b
    refine ⟨_, congrArg Host.Outcome.next ((onFirst_heard h _).trans (if_pos (hnoted.voteRoot.trans hroot))), ?_⟩
    exact ⟨devVote_recordVote (noted s l 0xB b) _ _ _ _, rfl, rfl⟩
  case start =>
    intro h hroot hshown
    have hnoted := linksMoved_noted s l 0xD b
    refine ⟨_, congrArg Host.Outcome.next ((onFirst_heard h _).trans (if_pos (hnoted.voteRoot.trans hroot))), ?_⟩
    obtain ⟨hstarted, hready, houts⟩ := startReport_acts (p := b.origin.toNat) (hnoted.bit.trans hshown)
    rw [hnoted.machineSize] at hready houts
    rw [hnoted.bit (f := F.ASY_SYNC_CTRL_DRIVE), ← hready] at houts
    exact ⟨hstarted, hready, houts⟩
  case idle =>
    intro e he
    simp only [List.mem_cons, List.not_mem_nil, or_false] at he
    rcases he with rfl | rfl <;>
      exact ⟨fun hok hact => ⟨_, rfl, idleIn_acts hok hact⟩, fun h => ⟨_, rfl, idleIn_ignored h⟩⟩

end Sys2Proof.Machine
end

section
/-! ### Completions and design-state requests -/

namespace Sys2Proof.Machine

/-! #### Completions -/

theorem session_setSession (s : State) (i : Nat) (e : Session) : session (setSession s i e) i = e :=
  SMap.get_set_same _ _ _ _

theorem signalSession_frame (s : State) (i : Nat) :
    signalSession s i = { s with host := (signalSession s i).host, outs := (signalSession s i).outs } := by
  unfold signalSession signal
  dsimp only
  split <;> rfl

theorem signalSession_outs (s : State) (i : Nat) :
    (signalSession s i).outs = s.outs ∨ (signalSession s i).outs = s.outs ++ [.msix (session s i).vector] := by
  unfold signalSession signal
  dsimp only
  split
  · exact .inl rfl
  · exact .inr rfl

/-- The entry of a session once a completion has been posted to it. -/
def afterPosting (s : State) (e : Session) : Session :=
  { e with
    posted := e.posted + 1
    oldest := if e.unsignalled = 0 then timeNs s else e.oldest
    unsignalled := e.unsignalled + 1 }

/-- The completion sent, before the interrupt rule is applied. -/
def posting (s : State) (i tag status result : Nat) : State :=
  setSession (emit s (.completion i (session s i).posted (completionSlot (session s i))
    (completionEntry (session s i) tag status result))) i (afterPosting s (session s i))

theorem postCompletion_eq (s : State) (i : Nat) (irq : Bool) (tag status result : Nat) :
    postCompletion s i irq tag status result =
      if irq || (session s i).coalCount ≤ (session s i).unsignalled + 1 then signalSession (posting s i tag status result) i
      else posting s i tag status result := rfl

/-- A completion for an OPEN session of its generation is posted. -/
theorem complete_open {s : State} {d : Desc} (hopen : (session s d.session).state = 1)
    (hgen : (session s d.session).gen = d.sgen.toNat) (status result : Nat) :
    complete s d status result = postCompletion
      (bumpStarted (bumpLive s d.session d.sgen.toNat (· - 1)) d.session d.sgen.toNat (· - 1)) d.session d.irq d.tag.toNat
      status result := by
  have hsess : ∀ f g, session (bumpStarted (bumpLive s d.session d.sgen.toNat f) d.session d.sgen.toNat g) d.session.val
    = session s d.session.val := fun _ _ => rfl
  simp [complete, hsess, hopen, hgen]

theorem postCompletion_frame (s : State) (i : Nat) (irq : Bool) (tag status result : Nat) :
    postCompletion s i irq tag status result = { s with
      host := (postCompletion s i irq tag status result).host, outs := (postCompletion s i irq tag status result).outs } := by
  rw [postCompletion_eq]
  split
  · exact signalSession_frame _ _
  · rfl

theorem postCompletion_outs (s : State) (i : Nat) (irq : Bool) (tag status result : Nat) :
    let c := Out.completion i (session s i).posted (completionSlot (session s i))
      (completionEntry (session s i) tag status result)
    (postCompletion s i irq tag status result).outs = s.outs ++ [c] ∨
      (postCompletion s i irq tag status result).outs = s.outs ++ [c, .msix (session s i).vector] := by
  intro c
  have hposted : (posting s i tag status result).outs = s.outs ++ [c] := rfl
  have hvector : (session (posting s i tag status result) i).vector = (session s i).vector :=
    (congrArg Session.vector (session_setSession _ _ _)).trans rfl
  rw [postCompletion_eq]
  split
  · rcases signalSession_outs (posting s i tag status result) i with h | h <;> rw [h, hposted]
    · exact .inl rfl
    · right
      rw [hvector, List.append_assoc]
      rfl
  · exact .inl hposted

/-- The descriptor's session takes completions in `u` as it does in `s`, where it is OPEN in the descriptor's generation. -/
structure TakesCompletion (s u : State) (d : Desc) : Prop where
  state : (session s d.session).state = 1
  fresh : descStale s d = false
  entry : ∃ g, session u d.session = { session s d.session with group := g }

/-- A completion in such a state is posted, behind what was sent before it. -/
theorem TakesCompletion.posts {s u : State} {d : Desc} (h : TakesCompletion s u d) {before : List Out}
    (houts : u.outs = s.outs ++ before) (status result : Nat) : Posts s (complete u d status result) d before status result := by
  obtain ⟨g, hg⟩ := h.entry
  have hgen : (session s d.session).gen = d.sgen.toNat := by simpa [descStale] using h.fresh
  have hsent := postCompletion_outs (bumpStarted (bumpLive u d.session d.sgen.toNat (· - 1)) d.session d.sgen.toNat (· - 1))
    d.session d.irq d.tag.toNat status result
  rw [← complete_open (hg ▸ h.state) (by rw [hg]; exact hgen)] at hsent
  have hsess : ∀ f f', session (bumpStarted (bumpLive u d.session d.sgen.toNat f) d.session d.sgen.toNat f') d.session.val
    = { session s d.session with group := g } := fun _ _ => hg
  have houts' : ∀ f f', (bumpStarted (bumpLive u d.session d.sgen.toNat f) d.session d.sgen.toNat f').outs
    = s.outs ++ before := fun _ _ => houts
  simp only [hsess, houts'] at hsent
  exact hsent

/-- A completion changes nothing but host state and what is sent. -/
theorem TakesCompletion.frame {s u : State} {d : Desc} (h : TakesCompletion s u d) (status result : Nat) :
    complete u d status result = { u with
      host := (complete u d status result).host, outs := (complete u d status result).outs } := by
  obtain ⟨g, hg⟩ := h.entry
  have hgen : (session s d.session).gen = d.sgen.toNat := by simpa [descStale] using h.fresh
  have hposted := postCompletion_frame (bumpStarted (bumpLive u d.session d.sgen.toNat (· - 1)) d.session d.sgen.toNat (· - 1))
    d.session d.irq d.tag.toNat status result
  rw [← complete_open (hg ▸ h.state) (by rw [hg]; exact hgen)] at hposted
  obtain ⟨h', hh⟩ : ∃ h', bumpStarted (bumpLive u d.session d.sgen.toNat (· - 1)) d.session d.sgen.toNat (· - 1)
    = { u with host := h' } := ⟨_, rfl⟩
  rw [hh] at hposted
  exact hposted

theorem TakesCompletion.keeps {s u : State} {d : Desc} (h : TakesCompletion s u d) (status result : Nat) :
    let t := complete u d status result
    t.design = u.design ∧ t.mem = u.mem ∧ t.dies = u.dies := by
  intro t
  have ht : t = { u with host := t.host, outs := t.outs } := h.frame status result
  rw [ht]
  exact ⟨rfl, rfl, rfl⟩

/-! #### A request outside a group -/

/-- The state in which a descriptor in no group has started. -/
def startedAlone (s : State) (d : Desc) (f : Fetched) : State :=
  setSession (bumpStarted { s with host := { s.host with released := false, fetched := s.host.fetched.erase f } }
    d.session d.sgen.toNat (· + 1)) d.session { session s d.session with group := [] }

theorem startedAlone_frame (s : State) (d : Desc) (f : Fetched) :
    startedAlone s d f = { s with host := (startedAlone s d f).host } := rfl

/-- What a request is judged by is no host state. -/
theorem designStatus_host (s : State) (h : HostIf) (r : DesignReq) : designStatus { s with host := h } r = designStatus s r := rfl

theorem designStatus_startedAlone (s : State) (d : Desc) (f : Fetched) (r : DesignReq) :
    designStatus (startedAlone s d f) r = designStatus s r := designStatus_host s _ r

theorem takesCompletion_startedAlone {s : State} {d : Desc} (h : DescRuns s d) (f : Fetched) :
    TakesCompletion s (startedAlone s d f) d := by
  obtain ⟨hstate, hfresh, -, -⟩ := h
  exact ⟨hstate, hfresh, [], session_setSession _ _ _⟩

theorem collect_alone {s : State} {r : DesignReq} (hbreaks : groupBreaks s r.desc = false) :
    collect r s = startGroup (setSession s r.desc.session { session s r.desc.session with group := [] }) [r] := by
  simp only [groupBreaks, Bool.or_eq_false_iff, decide_eq_false_iff_not, not_not] at hbreaks
  obtain ⟨⟨hgroup, hbad⟩, hlink⟩ := hbreaks
  simp [collect, hgroup, hbad, hlink]

/-- A design-state request outside a group is a group of its own (R313). -/
theorem startDesc_collect {s : State} {d : Desc} (h : DescRuns s d) (i : Instr) {r : DesignReq} (hr : r.desc = d) :
    startDesc d i (collect r) s = startGroup (startedAlone s d (.cmd i)) [r] := by
  obtain ⟨-, hfresh, hwait, hbreaks⟩ := h
  subst hr
  simp only [startDesc, startFetched, hfresh, hwait, Bool.false_eq_true, if_false]
  exact collect_alone hbreaks

theorem startGroup_failed {s : State} {r : DesignReq} {st : Nat} (h : designStatus s r = some st) :
    startGroup s [r] = finishReq s { r with status := st } st 0 := by
  have hjudged : ∀ x, designStatus s { r with status := x } = designStatus s r := fun _ => rfl
  simp [startGroup, h, hjudged]

/-- What a request carries, and what it has met, is not what R207 judges it by. -/
theorem designStatus_payload (s : State) (r : DesignReq) (data : List Byte) (st : Nat) :
    designStatus s { r with data := data, status := st } = designStatus s r := rfl

theorem judged_none {s : State} {r : DesignReq} (h : designStatus s r = none) :
    { r with status := (designStatus s r).getD r.status } = r := by rw [h]; rfl

theorem startGroup_read {s : State} {r : DesignReq} (h : designStatus s r = none) (hread : r.write = false) :
    startGroup s [r] = serveReads s [r] := by
  simp only [startGroup, List.map_cons, List.map_nil, judged_none h]
  simp [h, hread]

theorem startGroup_write {s : State} {r : DesignReq} (h : designStatus s r = none) (hwrite : r.write = true) :
    startGroup s [r] = serveWrites s [r] := by
  simp only [startGroup, List.map_cons, List.map_nil, judged_none h]
  simp [h, hwrite]

/-! #### Reads -/

/-- `t` is `s` after reads of windows have met something in the HBM: only the HBM's registers and its error records
differ. -/
structure HbmNoted (s t : State) : Prop where
  design : t.design = s.design
  run : t.run = s.run
  mem : t.mem = s.mem
  outs : t.outs = s.outs
  below : ∀ f : Fld, f.key < F.HBM_STATUS_UE.key → getF t f = getF s f

section
variable {r s t : State}

theorem HbmNoted.refl (s : State) : HbmNoted s s := ⟨rfl, rfl, rfl, rfl, fun _ _ => rfl⟩

theorem HbmNoted.trans (h : HbmNoted r s) (h' : HbmNoted s t) : HbmNoted r t :=
  ⟨h'.design.trans h.design, h'.run.trans h.run, h'.mem.trans h.mem, h'.outs.trans h.outs,
    fun f hf => (h'.below f hf).trans (h.below f hf)⟩

theorem HbmNoted.foldl {α : Type} {g : State → α → State} (hg : ∀ s a, HbmNoted s (g s a)) (xs : List α) :
    HbmNoted s (xs.foldl g s) := by
  induction xs generalizing s with
  | nil => exact .refl s
  | cons x xs ih => exact (hg s x).trans ih

theorem HbmNoted.foldl_fst {α β : Type} {g : State × β → α → State × β} (hg : ∀ p a, HbmNoted p.1 (g p a).1) (xs : List α)
    (p : State × β) : HbmNoted p.1 (xs.foldl g p).1 := by
  induction xs generalizing p with
  | nil => exact .refl p.1
  | cons x xs ih => exact (hg p x).trans (ih _)

theorem HbmNoted.setF (h : HbmNoted r s) {f : Fld} (hf : F.HBM_STATUS_UE.key ≤ f.key) (v : Nat) : HbmNoted r (setF s f v) :=
  h.trans ⟨rfl, rfl, rfl, rfl, fun _ hg => getF_setF_other s (Nat.lt_of_lt_of_le hg hf).ne v⟩

theorem HbmNoted.setB (h : HbmNoted r s) {f : Fld} (hf : F.HBM_STATUS_UE.key ≤ f.key) (b : Bool) : HbmNoted r (setB s f b) :=
  h.setF hf _

theorem HbmNoted.bumpF (h : HbmNoted r s) {f : Fld} (hf : F.HBM_STATUS_UE.key ≤ f.key) (n : Nat) : HbmNoted r (bumpF s f n) :=
  h.setF hf _

theorem HbmNoted.onHbm (h : HbmNoted r s) (g : HbmSt → HbmSt) : HbmNoted r (onHbm s g) :=
  h.trans ⟨rfl, rfl, rfl, rfl, fun _ _ => rfl⟩

theorem HbmNoted.ite {c : Prop} [Decidable c] (h : HbmNoted r s) (h' : HbmNoted r t) : HbmNoted r (if c then s else t) := by
  split <;> assumption

end

/-- The fields of banks of HBM registers stand above the first HBM register. -/
theorem hbmStatus_le_ceCount (n : Nat) : F.HBM_STATUS_UE.key ≤ (F.HBM_CE_COUNT_COUNT n).key := by
  simp only [Fld.key, F.HBM_STATUS_UE, F.HBM_CE_COUNT_COUNT]
  omega

theorem hbmStatus_le_pcFailed (n : Nat) : F.HBM_STATUS_UE.key ≤ (F.HBM_PC_FAILED_FAILED n).key := by
  simp only [Fld.key, F.HBM_STATUS_UE, F.HBM_PC_FAILED_FAILED]
  omega

theorem hbmStatus_le_degraded (n : Nat) : F.HBM_STATUS_UE.key ≤ (F.HBM_WIN_CTRL_DEGRADED n).key := by
  simp only [Fld.key, F.HBM_STATUS_UE, F.HBM_WIN_CTRL_DEGRADED]
  omega

theorem hbmNoted_showDegraded (s : State) : HbmNoted s (showDegraded s) :=
  HbmNoted.foldl (fun t n => (HbmNoted.refl t).setB (hbmStatus_le_degraded n) _) _

theorem hbmNoted_noteUe (s : State) (pc a : Nat) (scrub recovered : Bool) : HbmNoted s (noteUe s pc a scrub recovered) := by
  unfold noteUe
  dsimp only
  refine HbmNoted.ite (.trans (.setF ?noted (hbmStatus_le_pcFailed _) _) (hbmNoted_showDegraded _)) ?noted
  refine .onHbm (.ite (.bumpF ?_ (by decide) _) (.bumpF ?_ (by decide) _)) _
  all_goals
    refine .setF (.setF (.setF (.setF (.setB (.setB (.refl s) ?_ _) ?_ _) ?_ _) ?_ _) ?_ _) ?_ _ <;> decide

theorem hbmNoted_serveWord (s : State) (w x : Nat) : HbmNoted s (serveWord s w x).1 := by
  unfold serveWord
  dsimp only
  split
  · exact .refl s
  · exact .bumpF (.refl s) (hbmStatus_le_ceCount _) _
  · exact .ite (.onHbm (hbmNoted_noteUe s _ _ _ _) _) (hbmNoted_noteUe s _ _ _ _)

theorem hbmNoted_winServe (s : State) (w off n : Nat) : HbmNoted s (winServe s w off n).1 := by
  refine HbmNoted.foldl_fst (fun p x => ?_) _ (s, [])
  exact hbmNoted_serveWord p.1 w x

theorem hbmNoted_meetReads (s : State) (rs : List DesignReq) : HbmNoted s (meetReads s rs) := by
  refine HbmNoted.foldl (fun t r => ?_) _
  split
  · exact hbmNoted_winServe _ _ _ _
  · exact .refl _

/-- A request of this device is sent to no other. -/
theorem sendAway_local {s : State} {r : DesignReq} (h : isLocal s r = true) : sendAway s [r] = s := by
  simp [sendAway, h]

/-- A read that may be served, with its data. -/
def servedRead (s : State) (r : DesignReq) : DesignReq :=
  { r with image := designData s s.run.nextCommit r, result := boundaryResult s.run.nextCommit, ready := true }

/-- With no view open, a read of what this device holds opens one, with its data (R36). -/
theorem serveReads_opens {s : State} {r : DesignReq} (hview : s.design.view = none) (hlocal : isLocal s r = true)
    (hok : r.status = stOK) :
    let t := serveReads s [r]
    t.outs = s.outs ∧ getB t F.ARY_VIEW_STATUS_OPEN = executing s ∧
      t.design.view = some ⟨s.run.nextCommit, [servedRead s r], [], false⟩ := by
  intro t
  obtain ⟨u, hu⟩ : ∃ u, u = meetReads s [r] := ⟨_, rfl⟩
  have hmet : HbmNoted s u := hu ▸ hbmNoted_meetReads s [r]
  have hexec : executing u = executing s := by
    unfold executing emState
    rw [hmet.below _ (by decide)]
  have hdata : withData s s.run.nextCommit [r] = [servedRead s r] := by simp [withData, hok, hlocal, servedRead]
  have ht : t = setB (onDesign u (fun d => { d with view := some ⟨u.run.nextCommit, [servedRead s r], [], false⟩ }))
      F.ARY_VIEW_STATUS_OPEN (executing u) := by
    have hfree : viewFree s = true := by simp [viewFree, hview]
    show openView (if viewFree s then meetReads (sendAway s [r]) [r] else s) [r] (withData s s.run.nextCommit [r]) = _
    rw [if_pos hfree, sendAway_local hlocal, ← hu, hdata]
    simp only [openView, hmet.design, hview]
  rw [ht]
  exact ⟨hmet.outs, (getB_setB_same _ _ _ rfl).trans hexec, by rw [← hmet.run]; rfl⟩

theorem servedRead_host (s : State) (h : HostIf) (r : DesignReq) : servedRead { s with host := h } r = servedRead s r := rfl

/-- The same once its descriptor has started. -/
theorem serveReads_startedAlone {s : State} {r : DesignReq} (d : Desc) (f : Fetched) (hview : s.design.view = none)
    (hlocal : isLocal s r = true) (hok : r.status = stOK) :
    (serveReads (startedAlone s d f) [r]).outs = s.outs ∧
      getB (serveReads (startedAlone s d f) [r]) F.ARY_VIEW_STATUS_OPEN = executing s ∧
      (serveReads (startedAlone s d f) [r]).design.view = some ⟨s.run.nextCommit, [servedRead s r], [], false⟩ := by
  obtain ⟨h, hh⟩ : ∃ h, h = (startedAlone s d f).host := ⟨_, rfl⟩
  rw [startedAlone_frame, ← hh]
  obtain ⟨houts, hopen, hserved⟩ := serveReads_opens (s := { s with host := h }) hview hlocal hok
  rw [servedRead_host] at hserved
  exact ⟨houts, hopen, hserved⟩

/-! #### Writes -/

/-- A write that may be served waits while the machine executes (R38). -/
theorem serveWrites_executing {s : State} {w : DesignReq} (hlen : w.length ≤ 2 ^ 28) (hok : w.status = stOK)
    (hlocal : isLocal s w = true) (hexec : executing s = true) :
    serveWrites s [w] = onDesign s (fun d => { d with writes := d.writes ++ [⟨[w], none, false⟩] }) := by
  have hlen' : ¬ 268435456 < w.length := Nat.not_lt.2 hlen
  simp [serveWrites, hlen', hok, finishAll, sendAway_local hlocal, hexec]

theorem serveWrites_atRest {s : State} {w : DesignReq} (hlen : w.length ≤ 2 ^ 28) (hok : w.status = stOK)
    (hlocal : isLocal s w = true) (hexec : executing s = false) : serveWrites s [w] = writeAtRest s [w] := by
  have hlen' : ¬ 268435456 < w.length := Nat.not_lt.2 hlen
  simp [serveWrites, hlen', hok, finishAll, sendAway_local hlocal, hexec]

/-- A write whose buffer the device cannot read completes with HOST_FAULT (R319). -/
theorem serveWrites_fault {s : State} {w : DesignReq} (horigin : w.origin = none) (hlen : w.length ≤ 2 ^ 28)
    (hbad : w.status ≠ stOK) : serveWrites s [w] = complete s w.desc stHostFault 0 := by
  have hlen' : ¬ 268435456 < w.length := Nat.not_lt.2 hlen
  simp [serveWrites, hlen', hbad, finishAll, sendAway, finishReq, horigin]

/-- A word of the exchange RAM. -/
theorem hostWrites_exchangeRam {s : State} {r : DesignReq} (hspace : spaceOf r.address = 3) (hlen : r.length = 8)
    (c sigma : Nat) : hostWrites s r c sigma =
      [⟨4, 0, 16, 2, 0, offsetOf r.address * 8, 64, leAt r.data 0 8, sigma, c, true⟩] := by
  simp [hostWrites, hspace, hlen]

/-- A write of the exchange RAM changes nothing but the memories. -/
theorem targetWrite_exchangeRam (s : State) (d p w b v n : Nat) :
    targetWrite s d p 2 w b v n = { s with mem := (targetWrite s d p 2 w b v n).mem } := by
  induction n generalizing s b v with
  | zero => rfl
  | succ n ih => exact (ih _ _ _).trans rfl

/-- It does not look at host state. -/
theorem targetWrite_exchangeRam_host (s : State) (h : HostIf) (d p w b v n : Nat) :
    (targetWrite { s with host := h } d p 2 w b v n).mem = (targetWrite s d p 2 w b v n).mem := by
  induction n generalizing s b v with
  | zero => rfl
  | succ n ih => exact ih (setTargetByte s d p 2 w (b / 8)
      (BitVec.ofNat 8 (setBit (targetByte s d p 2 w (b / 8)).toNat (b % 8) (v.testBit 0)))) _ _

/-- At rest a write of a word of the exchange RAM takes effect at once and is done (R39). -/
theorem writeAtRest_exchangeRam {s : State} {r : DesignReq} (hspace : spaceOf r.address = 3) (hlen : r.length = 8)
    (hlocal : isLocal s r = true) :
    writeAtRest s [r] = finishReq (targetWrite s 4 0 2 0 (offsetOf r.address * 8) (leAt r.data 0 8) 64) r stOK
      (boundaryResult s.run.nextCommit) := by
  obtain ⟨u, hu⟩ : ∃ u, u = targetWrite s 4 0 2 0 (offsetOf r.address * 8) (leAt r.data 0 8) 64 := ⟨_, rfl⟩
  have happly : applyNow s s.run.nextCommit r = u := by
    rw [applyNow, if_pos hlocal, if_neg (by simp [hspace]), hostWrites_exchangeRam hspace hlen, hu, List.foldl_cons,
      List.foldl_nil]
  have hregs : u.regs = s.regs := by rw [hu, targetWrite_exchangeRam]
  have hlocal' : isLocal u r = true := by rw [isLocal, position, getF_congr hregs]; exact hlocal
  rw [← hu]
  simp [writeAtRest, finishWrites, happly, hlocal']

/-- At rest a write of a word of the exchange RAM takes effect at once and completes OK (R39). -/
theorem serveWrites_exchangeRam {s u : State} {w : DesignReq} (htakes : TakesCompletion s u w.desc)
    (hhost : u = { s with host := u.host }) (horigin : w.origin = none) (hok : w.status = stOK) (hlen : w.length = 8)
    (hspace : spaceOf w.address = 3) (hlocal : isLocal s w = true) (hexec : executing s = false) :
    Posts s (serveWrites u [w]) w.desc [] stOK (boundaryResult s.run.nextCommit) ∧
      (serveWrites u [w]).mem = (targetWrite s 4 0 2 0 (offsetOf w.address * 8) (leAt w.data 0 8) 64).mem := by
  obtain ⟨h, hh⟩ : ∃ h, h = u.host := ⟨_, rfl⟩
  rw [← hh] at hhost
  obtain ⟨v, hv⟩ : ∃ v, v = targetWrite u 4 0 2 0 (offsetOf w.address * 8) (leAt w.data 0 8) 64 := ⟨_, rfl⟩
  have hregs : u.regs = s.regs := by rw [hhost]
  have hlocal' : isLocal u w = true := by rw [isLocal, position, getF_congr hregs]; exact hlocal
  have hexec' : executing u = false := by rw [executing, emState, getF_congr hregs]; exact hexec
  have hlen' : w.length ≤ 2 ^ 28 := by rw [hlen]; decide
  have hnb : u.run.nextCommit = s.run.nextCommit := by rw [hhost]
  have hframe : v = { u with mem := v.mem } := by rw [hv]; exact targetWrite_exchangeRam u _ _ _ _ _ _
  have hmem : v.mem = (targetWrite s 4 0 2 0 (offsetOf w.address * 8) (leAt w.data 0 8) 64).mem := by
    rw [hv, hhost, targetWrite_exchangeRam_host]
  have hserve : serveWrites u [w] = complete v w.desc stOK (boundaryResult s.run.nextCommit) := by
    rw [serveWrites_atRest hlen' hok hlocal' hexec', writeAtRest_exchangeRam hspace hlen hlocal', ← hv, hnb]
    simp [finishReq, horigin]
  have htakes' : TakesCompletion s v w.desc := by
    refine ⟨htakes.state, htakes.fresh, ?_⟩
    rw [hframe]
    exact htakes.entry
  have houts : v.outs = s.outs ++ [] := by rw [hframe, hhost, List.append_nil]
  obtain ⟨-, hkeep, -⟩ := htakes'.keeps stOK (boundaryResult s.run.nextCommit)
  rw [hserve]
  exact ⟨htakes'.posts houts _ _, hkeep.trans hmem⟩

/-! #### The ends of reads -/

/-- The last read of the only view is delivered: its data, and its completion behind it (R314). -/
theorem deliverReads_one {s : State} {r : DesignReq} (horigin : r.origin = none) (hok : r.status = stOK) :
    deliverReads s [] [r] = complete (emit s (.hostImage r.buffer r.length r.image)) r.desc stOK r.result := by
  simp [deliverReads, readStatus, hok, horigin, finishReq]

/-- A view that nothing uses and for which nothing waits closes (R37). -/
theorem closeView_unused {s : State} {v : View} (hview : s.design.view = some v) (hreads : v.reads = [])
    (hexports : v.exports = false) (hwaiting : s.design.waiting = []) (hhallmark : s.run.hallmark = none) :
    closeView s = onDesign (showView (onDesign s (fun d => { d with view := none }))) (fun d => { d with waiting := [] }) := by
  have hshow : ∀ u : State, u.design.view = none → (showView u).design = u.design ∧ (showView u).run = u.run := by
    intro u hu
    simp [showView, hu]
  obtain ⟨hdesign, hrun⟩ := hshow (onDesign s (fun d => { d with view := none })) rfl
  have hwaiting' : (showView (onDesign s (fun d => { d with view := none }))).design.waiting = [] := by
    rw [hdesign]
    exact hwaiting
  have hhallmark' : (showView (onDesign s (fun d => { d with view := none }))).run.hallmark = none := by
    rw [hrun]
    exact hhallmark
  simp only [closeView, hview, hreads, hexports, hhallmark', serveWaiting, hwaiting', decide_true, Bool.not_false,
    Bool.and_self, if_true, List.foldl_nil]

/-- With no view open, ARY_VIEW_STATUS shows none. -/
theorem showView_none {s : State} (hview : s.design.view = none) :
    getB (showView s) F.ARY_VIEW_STATUS_OPEN = false ∧ showView s = { s with regs := (showView s).regs } := by
  simp only [showView, hview]
  refine ⟨?_, rfl⟩
  rw [getB_setF_other _ (by decide), getB_setB_other _ (by decide)]
  exact getB_setB_same _ _ _ rfl

/-- The data of the only read of the only view goes to the host, the read completes, and the view closes (R37, R314). -/
theorem readComplete_ends {s : State} {r : DesignReq} {v : View} (hview : s.design.view = some v) (hreads : v.reads = [r])
    (hexports : v.exports = false) (hwaiting : s.design.waiting = []) (hhallmark : s.run.hallmark = none)
    (horigin : r.origin = none) (hready : r.ready = true) (hok : r.status = stOK) (hresult : r.result = boundaryResult v.next)
    (hopen : (session s r.desc.session).state = 1) (hfresh : descStale s r.desc = false) :
    Answers (.designReadComplete []) s (fun t => t.design.view = none ∧ getB t F.ARY_VIEW_STATUS_OPEN = false ∧
      Posts s t r.desc [.hostImage r.buffer r.length r.image] stOK (boundaryResult v.next) ∧ t.mem = s.mem) := by
  obtain ⟨e, he⟩ : ∃ e, e = emit s (.hostImage r.buffer r.length r.image) := ⟨_, rfl⟩
  obtain ⟨c, hc⟩ : ∃ c, c = complete e r.desc stOK (boundaryResult v.next) := ⟨_, rfl⟩
  have htakes : TakesCompletion s e r.desc := by
    rw [he]
    exact ⟨hopen, hfresh, (session s r.desc.session).group, rfl⟩
  have hposts := htakes.posts (show e.outs = _ from he ▸ emit_outs s _) stOK (boundaryResult v.next)
  obtain ⟨hdesign, hmem, -⟩ := htakes.keeps stOK (boundaryResult v.next)
  have hrun := congrArg State.run (htakes.frame stOK (boundaryResult v.next))
  rw [← hc] at hposts hdesign hmem hrun
  obtain ⟨u, hu⟩ : ∃ u, u = onDesign c (fun d => { d with view := d.view.map (fun v => { v with reads := [] }) }) := ⟨_, rfl⟩
  have hview' : u.design.view = some { v with reads := [] } := by
    rw [hu, onDesign_design, hdesign, he]
    simp [emit, hview]
  have hwaiting' : u.design.waiting = [] := by rw [hu, onDesign_design, hdesign, he]; exact hwaiting
  have hhallmark' : u.run.hallmark = none := by rw [hu, onDesign_run, hrun, he]; exact hhallmark
  have hclose := closeView_unused hview' rfl hexports hwaiting' hhallmark'
  have hexec : exec (.designReadComplete []) s = .next (closeView u) := by
    refine congrArg Host.Outcome.next ?_
    simp only [hview, hreads, List.all_cons, List.all_nil, hready, Bool.and_self, if_true]
    rw [deliverReads_one horigin hok, hresult, ← he, ← hc, hu]
  obtain ⟨hshown, hframe⟩ := showView_none (s := onDesign u (fun d => { d with view := none })) rfl
  rw [hclose] at hexec
  refine ⟨_, hexec, ?_, hshown, ?_, ?_⟩
  · rw [onDesign_design, hframe]
    rfl
  · have houts : ∀ g, (onDesign (showView (onDesign u (fun d => { d with view := none }))) g).outs = c.outs := by
      intro g
      rw [onDesign_outs, hframe, hu]
      rfl
    simpa only [Posts, houts] using hposts
  · rw [onDesign_mem, hframe, hu]
    exact hmem.trans (by rw [he]; rfl)

/-- In the hold of source 6 the staged write to the exchange RAM becomes a WRITE of the cycle in progress, behind every
other (R210). -/
theorem hostWriteApply_acts {s : State} {r : DesignReq} (hexec : executing s = true) (hsource : sourceOn s 6 = true)
    (hfrozen : allFrozen s = true) (hmax : sigmaMax s = currentCycle s * cycleSteps s + stepsS s + 1)
    (hwrites : s.design.writes = [⟨[r], none, false⟩]) (hspace : spaceOf r.address = 3) (hlocal : isLocal s r = true)
    (hlen : r.length = 8) :
    Answers .hostWriteApply s (fun t => t.design.writes = [⟨[r], some (currentCycle s), true⟩] ∧ t.dies = s.dies ∧
      t.mem.writes = s.mem.writes ++ [⟨4, 0, 16, 2, 0, offsetOf r.address * 8, 64, leAt r.data 0 8,
        currentCycle s * cycleSteps s + stepsS s + 1, currentCycle s, true⟩]) := by
  have happly : applyStaged s (currentCycle s) r = { s with mem := { s.mem with writes := s.mem.writes ++
      [⟨4, 0, 16, 2, 0, offsetOf r.address * 8, 64, leAt r.data 0 8, currentCycle s * cycleSteps s + stepsS s + 1,
        currentCycle s, true⟩] } } := by
    rw [applyStaged, if_pos hlocal, hostWrites_exchangeRam hspace hlen]
  have happlied : exec .hostWriteApply s = .next (onDesign (applyStaged s (currentCycle s) r)
      (fun d => { d with writes := [⟨[r], some (currentCycle s), true⟩] })) := by
    refine congrArg Host.Outcome.next ?_
    have hdesign : (applyStaged s (currentCycle s) r).design = s.design := by rw [happly]
    simp [hexec, hsource, hfrozen, ← hmax, hwrites, onDesign, hdesign]
  exact ⟨_, happlied, rfl, by rw [happly]; rfl, by rw [happly]; rfl⟩

/-- Settles O20, request by request. -/
theorem designStateRequestsAreServedAndEnd : Obligations.DesignStateRequestsAreServedAndEnd := by
  unfold Obligations.DesignStateRequestsAreServedAndEnd
  refine ⟨?_, ?_⟩
  · intro s d address length buffer data hruns r w nb
    have htakes := takesCompletion_startedAlone hruns
    have hrun : ∀ (i : Instr) (q : DesignReq), q.desc = d →
        startDesc d i (collect q) s = startGroup (startedAlone s d (.cmd i)) [q] := fun i q => startDesc_collect hruns i
    have hstatus := designStatus_startedAlone s d
    refine ⟨?badRead, ?read, ?badWrite, ?staged, ?atRest, ?fault⟩
    case badRead =>
      intro st hst
      have hend := startGroup_failed ((hstatus (.cmd (.designRead d address length buffer)) r).trans hst)
      exact ⟨_, congrArg Host.Outcome.next ((hrun _ r rfl).trans hend), (htakes _).posts (List.append_nil _).symm st 0,
        (htakes _).keeps st 0⟩
    case read =>
      intro hst hview hlocal
      have hserve := startGroup_read ((hstatus (.cmd (.designRead d address length buffer)) r).trans hst) rfl
      exact ⟨_, congrArg Host.Outcome.next ((hrun _ r rfl).trans hserve),
        serveReads_startedAlone d _ hview hlocal rfl⟩
    case badWrite =>
      intro st hst
      have hend := startGroup_failed ((hstatus (.cmd (.designWrite d address length buffer (some data))) w).trans hst)
      exact ⟨_, congrArg Host.Outcome.next ((hrun _ w rfl).trans hend), (htakes _).posts (List.append_nil _).symm st 0,
        (htakes _).keeps st 0⟩
    case staged =>
      intro hst hlen hexec hlocal
      have hserve := startGroup_write ((hstatus (.cmd (.designWrite d address length buffer (some data))) w).trans hst) rfl
      have hstage := serveWrites_executing (s := startedAlone s d (.cmd (.designWrite d address length buffer (some data))))
        (w := w) hlen rfl hlocal hexec
      exact ⟨_, congrArg Host.Outcome.next (((hrun _ w rfl).trans hserve).trans hstage), rfl, rfl, rfl, rfl⟩
    case atRest =>
      intro hst hlen hexec hspace hlocal
      have hserve := startGroup_write ((hstatus (.cmd (.designWrite d address length buffer (some data))) w).trans hst) rfl
      exact ⟨_, congrArg Host.Outcome.next ((hrun _ w rfl).trans hserve),
        serveWrites_exchangeRam (htakes _) (startedAlone_frame s d _) rfl rfl hlen hspace hlocal hexec⟩
    case fault =>
      intro hst hlen
      obtain ⟨q, hq⟩ : ∃ q, q = { w with data := [], status := stHostFault } := ⟨_, rfl⟩
      have hexec : exec (.designWrite d address length buffer none) s =
          .next (startGroup (startedAlone s d (.cmd (.designWrite d address length buffer none))) [q]) := by
        rw [hq]
        exact congrArg Host.Outcome.next (hrun _ _ rfl)
      have hst' : designStatus (startedAlone s d (.cmd (.designWrite d address length buffer none))) q = none := by
        rw [hq, designStatus_payload]
        exact (hstatus _ w).trans hst
      have hlen' : q.length ≤ 2 ^ 28 := by rw [hq]; exact hlen
      have hbad : q.status ≠ stOK := by rw [hq]; exact (by decide : stHostFault ≠ stOK)
      have hdesc : q.desc = d := by rw [hq]; rfl
      rw [startGroup_write hst' (by rw [hq]; rfl), serveWrites_fault (by rw [hq]; rfl) hlen' hbad, hdesc] at hexec
      exact ⟨_, hexec, (htakes _).posts (List.append_nil _).symm _ 0, (htakes _).keeps _ 0⟩
  · intro s r
    constructor
    · exact fun v => readComplete_ends
    · intro k sigma
      exact hostWriteApply_acts

end Sys2Proof.Machine
end

section
/-! ### The commit of a cycle -/

namespace Sys2Proof.Machine

/-- `t` is to commit the cycle that `r` is to commit, and no WRITE waits in it that does not wait in `r`. -/
def CommitKept (r t : State) : Prop := t.run.nextCommit = r.run.nextCommit ∧ t.mem.writes ⊆ r.mem.writes

section
variable {r s t : State}

theorem CommitKept.refl (s : State) : CommitKept s s := ⟨rfl, List.Subset.refl _⟩

theorem CommitKept.ite {c : Prop} [Decidable c] (h : CommitKept r s) (h' : CommitKept r t) :
    CommitKept r (if c then s else t) := by
  split <;> assumption

/-- A change that is made or not. -/
theorem CommitKept.when {c : Prop} [Decidable c] (h : CommitKept r s) (hg : CommitKept r s → CommitKept r t) :
    CommitKept r (if c then t else s) := .ite (hg h) h

theorem CommitKept.foldl {α : Type} {g : State → α → State} (hg : ∀ t a, CommitKept r t → CommitKept r (g t a))
    (h : CommitKept r s) (xs : List α) : CommitKept r (xs.foldl g s) := by
  induction xs generalizing s with
  | nil => exact h
  | cons x xs ih => exact ih (hg s x h)

theorem CommitKept.setB (h : CommitKept r s) (f : Fld) (b : Bool) : CommitKept r (setB s f b) := h

theorem CommitKept.setF (h : CommitKept r s) (f : Fld) (v : Nat) : CommitKept r (setF s f v) := h

theorem CommitKept.set64 (h : CommitKept r s) (lo hi : Fld) (v : Nat) : CommitKept r (set64 s lo hi v) := h

theorem CommitKept.onRun (h : CommitKept r s) {g : RunCtl → RunCtl} (hg : ∀ c, (g c).nextCommit = c.nextCommit) :
    CommitKept r (onRun s g) := ⟨(hg _).trans h.1, h.2⟩

theorem CommitKept.onChn (h : CommitKept r s) (g : Chn → Chn) : CommitKept r (onChn s g) := h

theorem CommitKept.onHolds (h : CommitKept r s) (g : Holds → Holds) : CommitKept r (onHolds s g) := h

theorem CommitKept.onAsy (h : CommitKept r s) (g : Asy → Asy) : CommitKept r (onAsy s g) := h

theorem CommitKept.linksMoved (h : CommitKept r s) (hm : LinksMoved s t) : CommitKept r t := by
  unfold CommitKept
  rw [hm.run, hm.mem]
  exact h

theorem CommitKept.hbmNoted (h : CommitKept r s) (hm : HbmNoted s t) : CommitKept r t := by
  unfold CommitKept
  rw [hm.run, hm.mem]
  exact h

/-! #### Completions -/

theorem CommitKept.postCompletion (h : CommitKept r s) (i : Nat) (irq : Bool) (tag status result : Nat) :
    CommitKept r (postCompletion s i irq tag status result) := by
  rw [postCompletion_frame]
  exact h

theorem CommitKept.complete (h : CommitKept r s) (d : Desc) (status result : Nat) :
    CommitKept r (complete s d status result) := by
  unfold Machine.complete
  dsimp only
  have hbumped : CommitKept r (bumpStarted (bumpLive s d.session d.sgen.toNat (· - 1)) d.session d.sgen.toNat (· - 1)) := h
  exact .ite hbumped (.ite hbumped (hbumped.postCompletion _ _ _ _ _))

theorem CommitKept.queueMgmt (h : CommitKept r s) (l dest : Nat) : CommitKept r (queueMgmt s l dest) := by
  have hdrawn : CommitKept r { s with draws := s.draws + 16 } := h
  unfold Machine.queueMgmt
  exact (hdrawn.linksMoved (linksMoved_wakeLink _ l)).linksMoved (linksMoved_onLink _ l _)

theorem CommitKept.sendMgmt (h : CommitKept r s) (dest : Nat) : CommitKept r (sendMgmt s dest) := by
  unfold Machine.sendMgmt
  split
  · exact h
  · exact h.queueMgmt _ _

theorem CommitKept.finishReq (h : CommitKept r s) (q : DesignReq) (status result : Nat) :
    CommitKept r (finishReq s q status result) := by
  unfold Machine.finishReq
  split
  · exact h.complete _ _ _
  · exact h.sendMgmt _

theorem CommitKept.finishWrites (h : CommitKept r s) (rs : List DesignReq) (result : Nat) :
    CommitKept r (finishWrites s rs result) := by
  refine .foldl (fun t q h => ?_) h rs
  exact .ite (h.finishReq _ _ _) (.ite (h.finishReq _ _ _) h)

theorem CommitKept.finishAll (h : CommitKept r s) (rs : List DesignReq) (status result : Nat) :
    CommitKept r (finishAll s rs status result) := .foldl (fun _ q h => h.finishReq q _ _) h rs

/-! #### Design memories -/

theorem CommitKept.hbmPut (h : CommitKept r s) (pc a : Nat) (b : Byte) : CommitKept r (hbmPut s pc a b) := .ite h h

theorem CommitKept.winWrite (h : CommitKept r s) (w x : Nat) (b : Byte) : CommitKept r (winWrite s w x b) :=
  .ite ((h.hbmPut _ _ b).hbmPut _ _ b) (h.hbmPut _ _ b)

theorem CommitKept.setTargetByte (h : CommitKept r s) (d p target window x : Nat) (b : Byte) :
    CommitKept r (setTargetByte s d p target window x b) := by
  unfold Machine.setTargetByte
  split
  · exact h
  · exact h.winWrite _ _ _
  · exact h

theorem CommitKept.targetWrite (h : CommitKept r s) (d p target window b v n : Nat) :
    CommitKept r (targetWrite s d p target window b v n) := by
  induction n generalizing s b v with
  | zero => exact h
  | succ n ih => exact ih (h.setTargetByte _ _ _ _ _ _) _ _

theorem CommitKept.releaseWrite (h : CommitKept r s) (w : MWrite) : CommitKept r (releaseWrite s w) := by
  have hw := h.targetWrite w.die w.tilePos w.target w.window w.bit w.data w.width
  refine .ite (.foldl (fun t i h => ?_) hw _) hw
  exact h

theorem CommitKept.deliverStalled (h : CommitKept r s) : CommitKept r (deliverStalled s) := by
  refine .foldl (fun t i h => ?_) h _
  split
  · exact .ite h h
  · exact h

/-- The commit of a cycle takes its WRITEs out of those that wait. -/
theorem memCommit_writes (s : State) (c : Nat) :
    CommitKept { s with mem := { s.mem with writes := s.mem.writes.filter (fun w => w.cycle ≠ c) } } (memCommit s c) := by
  refine .deliverStalled (?_ : CommitKept _ _)
  exact .foldl (fun _ w h => h.releaseWrite w) (.refl _) _

/-- A restore takes the WRITEs of discarded cycles out of those that wait. -/
theorem CommitKept.memAbandon (h : CommitKept r s) (nb : Nat) (replayed : Bool) : CommitKept r (memAbandon s nb replayed) :=
  ⟨h.1, fun _ hw => h.2 (List.mem_of_mem_filter hw)⟩

/-! #### Channels -/

theorem CommitKept.setCtx (h : CommitKept r s) (c : Nat) (x : ChanCtx) : CommitKept r (setCtx s c x) := h.onChn _

theorem CommitKept.refreshReady (h : CommitKept r s) (c : Nat) (front : Bool) : CommitKept r (refreshReady s c front) := h

theorem CommitKept.makeItem (h : CommitKept r s) (c : Nat) (i : WorkItem) : CommitKept r (makeItem s c i) :=
  ((h.onChn _).setCtx c _).refreshReady c false

theorem CommitKept.completeSent (h : CommitKept r s) (k gen b c : Nat) : CommitKept r (completeSent s k gen b c) := by
  refine .foldl (fun t m h => h.complete _ _ _) ?_ _
  exact h

theorem CommitKept.commitRes (h : CommitKept r s) (q : PortRes) : CommitKept r (commitRes s q) := by
  unfold Machine.commitRes
  split
  · exact .ite h h
  · dsimp only
    refine .ite h (.ite (.ite ((h.setCtx _ _).setB _ _) (.ite (.makeItem ?written _ _) ?written))
      ((h.setCtx _ _).completeSent _ _ _ _))
    exact .ite ((h.setCtx _ _).onChn _) (h.setCtx _ _)

theorem CommitKept.dispatchTo (h : CommitKept r s) (e k : Nat) : CommitKept r (dispatchTo s e k) := by
  unfold Machine.dispatchTo
  split
  · exact h
  · split
    · exact h
    · exact h

theorem CommitKept.serveEngines (h : CommitKept r s) : CommitKept r (serveEngines s) := by
  refine .foldl (fun t e h => .ite ?_ h) h _
  split
  · exact h.dispatchTo _ _
  · exact h

theorem CommitKept.finishClose (h : CommitKept r s) (c : Nat) : CommitKept r (finishClose s c) := by
  unfold Machine.finishClose
  dsimp only
  refine .ite (.foldl (fun t d h => h.complete _ _ _) ?_ _) h
  exact h

theorem CommitKept.fifoWrite (h : CommitKept r s) (x : ChanCtx) (b : Nat) (bs : List Byte) :
    CommitKept r (fifoWrite s x b bs) := by
  induction bs generalizing s b with
  | nil => exact h
  | cons v vs ih => exact ih (h.winWrite _ _ _) _

theorem CommitKept.discardFree (h : CommitKept r s) (c : Nat) : CommitKept r (discardFree s c) :=
  h.fifoWrite _ _ _

theorem CommitKept.releaseItem (h : CommitKept r s) (i : WorkItem) (d : DoneRecord) : CommitKept r (releaseItem s i d) := by
  unfold Machine.releaseItem
  dsimp only
  have hset := fun x => (h.onChn (fun h => { h with items := h.items.filter (fun j => !sameItem i j) })).setCtx i.chan x
  refine .ite h (.ite ?_ ?_)
  · have hfree := fun x => (hset x).when (c := (i.settled && decide (i.length ≠ 0)) = true) (fun h => h.discardFree i.chan)
    split
    · exact .ite (hfree _) (.ite (hfree _) ((hfree _).when (fun h => h.complete _ _ _)))
    · exact hfree _
  · split
    · exact .when (.ite (hset _) ((hset _).onChn _)) (fun h => h.complete _ _ _)
    · exact .ite (hset _) ((hset _).onChn _)

theorem CommitKept.releaseDone (h : CommitKept r s) (c n : Nat) : CommitKept r (releaseDone s c n) := by
  induction n generalizing s with
  | zero => exact h
  | succ n ih =>
    unfold Machine.releaseDone
    split
    · split
      · exact ih (h.releaseItem _ _)
      · exact h
    · exact h

theorem CommitKept.dropStale (h : CommitKept r s) (c : Nat) : CommitKept r (dropStale s c) := by
  unfold Machine.dropStale
  refine .foldl (fun t i h => ?_) h _
  exact h.releaseItem i _

theorem CommitKept.settleChan (h : CommitKept r s) (c : Nat) : CommitKept r (settleChan s c) := by
  unfold Machine.settleChan
  exact (((h.dropStale c).releaseDone c _).refreshReady c _).finishClose c

theorem CommitKept.chnCommit (h : CommitKept r s) (c : Nat) : CommitKept r (chnCommit s c) := by
  unfold Machine.chnCommit
  dsimp only
  refine .serveEngines (.foldl (fun t k h => h.settleChan k) (.foldl (fun t q h => h.commitRes q) ?_ _) _)
  exact h

theorem CommitKept.closeSent (h : CommitKept r s) : CommitKept r (closeSent s) := by
  unfold Machine.closeSent
  dsimp only
  refine .foldl (fun t c h => h.finishClose c) (.foldl (fun t m h => h.complete _ _ _) ?_ _) _
  exact h

theorem CommitKept.chnAbandon (h : CommitKept r s) (b : Nat) (replayed : Bool) : CommitKept r (chnAbandon s b replayed) := by
  unfold Machine.chnAbandon
  dsimp only
  refine .foldl (fun t c h => h.finishClose c) (.closeSent (.foldl (fun t k h => ?_) ?_ _)) _
  · exact h
  · exact h

theorem CommitKept.closeTaken (h : CommitKept r s) (c : Nat) : CommitKept r (closeTaken s c) := by
  unfold Machine.closeTaken
  dsimp only
  refine .foldl (fun t q h => h.completeSent _ _ _ _) ?_ _
  exact h

theorem CommitKept.closeRest (h : CommitKept r s) : CommitKept r (closeRest s) := by
  unfold Machine.closeRest
  exact .foldl (fun t c h => (h.closeTaken c).finishClose c) h _

/-! #### The Assay engine, the Hedgerow fabric, captures and Hallmarks -/

theorem CommitKept.writeSample (h : CommitKept r s) (e : AsyCycle) : CommitKept r (writeSample s e) := .ite h h

theorem CommitKept.winWriteBytes (h : CommitKept r s) (w x : Nat) (bs : List Byte) : CommitKept r (winWriteBytes s w x bs) := by
  induction bs generalizing s x with
  | nil => exact h
  | cons b bs ih => exact ih (h.winWrite _ _ _) _

theorem CommitKept.writeRecord (h : CommitKept r s) (bs : List Byte) : CommitKept r (writeRecord s bs) := by
  unfold Machine.writeRecord
  dsimp only
  exact .ite (h.winWriteBytes _ _ bs) (.ite (h.winWriteBytes _ _ bs) h)

theorem CommitKept.pulseTrig (h : CommitKept r s) (c l : Nat) : CommitKept r (pulseTrig s c l) := .ite (.ite h h) h

theorem CommitKept.acqDone (h : CommitKept r s) : CommitKept r (acqDone s) := by
  unfold Machine.acqDone signal
  exact .ite (.ite h h) h

theorem CommitKept.commitAsy (h : CommitKept r s) (e : AsyCycle) : CommitKept r (commitAsy s e) := by
  unfold Machine.commitAsy
  dsimp only
  split
  on_goal 1 => refine .when ?_ (fun h => h.acqDone)
  all_goals
    refine .when ?_ (fun h => h.onRun (g := fun r => { r with asyStop := some e.cycle }) (fun _ => rfl))
    refine .foldl (fun t l h => h.pulseTrig _ _) (.foldl (fun t b h => h.writeRecord b) ?_ _) _
    refine .when (.when ?_ (fun h => h.writeSample _)) (fun h => ((h.setB _ _).set64 _ _ _).set64 _ _ _)
    exact .foldl (fun t k h => (h.setF _ _).setF _ _) ((h.onAsy _).setF _ _) _

theorem CommitKept.asyCommit (h : CommitKept r s) (c : Nat) : CommitKept r (asyCommit s c) := by
  unfold Machine.asyCommit
  split
  · exact h.commitAsy _
  · exact h

theorem CommitKept.hgrCommit (h : CommitKept r s) (c : Nat) : CommitKept r (hgrCommit s c) := h

theorem CommitKept.hallmarkView (h : CommitKept r s) {nb : Nat} (ht : hallmarkView s nb = some t) : CommitKept r t := by
  unfold Machine.hallmarkView at ht
  dsimp only at ht
  split at ht
  · cases ht
    exact h
  · split at ht
    · cases ht
      exact h
    · cases ht

theorem CommitKept.hallmarkMeets (h : CommitKept r s) (ws : List Nat) : CommitKept r (hallmarkMeets s ws) := by
  unfold Machine.hallmarkMeets
  exact .foldl (fun t w h => h.hbmNoted (hbmNoted_winServe t w _ _)) h _

theorem CommitKept.takeHallmark (h : CommitKept r s) (nb : Nat) : CommitKept r (takeHallmark s nb) := by
  unfold Machine.takeHallmark
  split
  · refine .ite ?_ h
    split
    · exact h
    next u hu =>
      have hview : CommitKept r u := by
        split at hu
        · exact h.hallmarkView hu
        · cases hu
          exact h
      exact hview.hallmarkMeets _
  · exact h

theorem CommitKept.winStore (h : CommitKept r s) (w off len : Nat) (m : Memory) : CommitKept r (winStore s w off len m) := by
  unfold Machine.winStore
  refine .foldl (fun t c h => .ite (h.winWrite _ _ _) h) ?_ _
  exact h

theorem CommitKept.takeCapture (h : CommitKept r s) (nb : Nat) : CommitKept r (takeCapture s nb) := by
  unfold Machine.takeCapture
  split
  · exact .ite ((h.winStore _ _ _ _).onAsy _) h
  · exact h

theorem CommitKept.takeVisible (h : CommitKept r s) : CommitKept r (takeVisible s) := (h.takeCapture _).takeHallmark _

/-! #### Design-state requests -/

theorem CommitKept.showView (h : CommitKept r s) : CommitKept r (showView s) := by
  unfold Machine.showView
  split <;> exact h

theorem CommitKept.designCommit (h : CommitKept r s) (c : Nat) : CommitKept r (designCommit s c) := by
  unfold Machine.designCommit
  dsimp only
  refine .foldl (fun t w h => h.finishWrites _ _) (.showView ?_) _
  exact h

theorem CommitKept.writeRegBytes (h : CommitKept r s) (d : Fin 4) (nb off : Nat) (bs : List Byte) :
    CommitKept r (writeRegBytes s d nb off bs) := by
  induction bs generalizing s off with
  | nil => exact h
  | cons b bs ih =>
    refine ih ?_ _
    split
    · refine .ite (.foldl (fun t i h => ?_) h _) h
      exact h
    · exact h

theorem CommitKept.applyNow (h : CommitKept r s) (nb : Nat) (q : DesignReq) : CommitKept r (applyNow s nb q) := by
  unfold Machine.applyNow
  refine .ite (.ite (.foldl (fun t d h => ?_) h _) (.foldl (fun t w h => ?_) h _)) h
  · exact h.writeRegBytes _ _ _ _
  · exact h.targetWrite _ _ _ _ _ _ _

theorem CommitKept.writeAtRest (h : CommitKept r s) (rs : List DesignReq) : CommitKept r (writeAtRest s rs) := by
  unfold Machine.writeAtRest
  dsimp only
  refine .finishWrites (.foldl (fun t q h => ?_) h _) _ _
  exact h.applyNow _ q

theorem CommitKept.designRest (h : CommitKept r s) : CommitKept r (designRest s) := by
  unfold Machine.designRest
  dsimp only
  refine .foldl (fun t w h => h.writeAtRest _) ?_ _
  exact h

theorem CommitKept.designEnd (h : CommitKept r s) (status result : Nat) : CommitKept r (designEnd s status result) := by
  unfold Machine.designEnd
  dsimp only
  refine .foldl (fun t w h => h.finishAll _ _ _) ?_ _
  exact h

/-! #### Regions -/

theorem CommitKept.holdBlocks (h : CommitKept r s) : CommitKept r (holdBlocks s) := by
  unfold Machine.holdBlocks
  refine .foldl (fun t e h => ?_) h _
  split
  · refine .ite ?_ h
    unfold Machine.isolateBlocks
    refine CommitKept.foldl
      (g := fun t (e : Option HgrIso × Nat) => onHgr t (fun h => { h with iso := h.iso.set none e.2 e.1 })) (fun t e h => ?_) h _
    exact h
  · exact h

theorem CommitKept.rejoinAtRest (h : CommitKept r s) (n : Nat) : CommitKept r (rejoinAtRest s n) := by
  unfold Machine.rejoinAtRest
  dsimp only
  refine CommitKept.foldl
    (g := fun t (e : Nat × IsoTile) => rejoinTile t (Fin.ofNat 4 (e.1 / 64)) (e.1 % 64) s.run.nextCommit e.2)
    (fun t e h => ?_) h _
  exact h

theorem CommitKept.restRegions (h : CommitKept r s) : CommitKept r (restRegions s) := by
  unfold Machine.restRegions
  dsimp only
  refine .holdBlocks (.foldl (fun t n h => .ite (h.rejoinAtRest n) h) ?_ _)
  refine CommitKept.foldl (g := fun t (e : Nat × Option IsoTile) => match e.2 with
    | some i => rejoinTile t (Fin.ofNat 4 (e.1 / 64)) (e.1 % 64) t.run.nextCommit i
    | none => t) (fun t e h => ?_) h _
  split <;> exact h

theorem CommitKept.regionCommit (h : CommitKept r s) (c : Nat) : CommitKept r (regionCommit s c) := h

theorem CommitKept.regionsBack (h : CommitKept r s) (nb : Nat) : CommitKept r (regionsBack s nb) := by
  unfold Machine.regionsBack
  refine .foldl (fun t e h => ?_) h _
  split
  · split
    · exact .ite h h
    · exact h
  · exact h

/-! #### Coming to rest -/

theorem CommitKept.asyAbandon (h : CommitKept r s) (b : Nat) : CommitKept r (asyAbandon s b) := h.onAsy _

theorem CommitKept.hgrAbandon (h : CommitKept r s) (b : Nat) (replayed : Bool) : CommitKept r (hgrAbandon s b replayed) := h

theorem CommitKept.lnkAbandon (h : CommitKept r s) (b : Nat) : CommitKept r (lnkAbandon s b) := h

theorem CommitKept.restoreTo (h : CommitKept r s) (nb : Nat) (replayed : Bool) : CommitKept r (restoreTo s nb replayed) := by
  have hunits := (((h.chnAbandon nb replayed).asyAbandon nb).hgrAbandon nb replayed).lnkAbandon nb
  have hrun := ((hunits.memAbandon nb replayed).regionsBack nb).onRun
    (g := fun r => { r with votes := r.votes.filter (fun v => v.1 / 4 < nb) }) (fun _ => rfl)
  exact hrun

theorem CommitKept.thawAll (h : CommitKept r s) : CommitKept r (thawAll s) := by
  unfold Machine.thawAll
  refine .foldl (fun t d h => ?_) h _
  exact h

theorem CommitKept.carryUserHold (h : CommitKept r s) (next : Nat) : CommitKept r (carryUserHold s next) :=
  .ite (((h.setB _ _).setB _ _).onHolds _) h

theorem CommitKept.endHolds (h : CommitKept r s) (keepUser : Bool) (next : Nat) : CommitKept r (endHolds s keepUser next) := by
  unfold Machine.endHolds
  dsimp only
  refine .setB (.foldl (fun t n h => h.setF _ _) (.onHolds (.ite ?_ ?_) _) _) _ _
  · exact h.carryUserHold next
  · exact ((h.setB _ _).setB _ _).onHolds _

theorem CommitKept.endRun (h : CommitKept r s) (status : Nat) : CommitKept r (endRun s status) := by
  unfold Machine.endRun
  split
  · refine .complete ?_ _ _ _
    exact h
  · exact h

theorem CommitKept.endStops (h : CommitKept r s) (status : Nat) : CommitKept r (endStops s status) := by
  unfold Machine.endStops
  refine .foldl (fun t q h => h.complete _ _ _) ?_ _
  exact h

theorem CommitKept.restStopped (h : CommitKept r s) : CommitKept r (restStopped s) := by
  unfold Machine.restStopped
  dsimp only
  have hrest := (((h.restoreTo s.run.nextCommit false).restRegions).endHolds true s.run.nextCommit).thawAll
  exact .designRest (.takeVisible (.setB (.closeRest ((hrest.setF _ _).onRun
    (g := fun r => { r with asyStop := none, replay := none, stopCycles := [] }) (fun _ => rfl))) _ _))

theorem CommitKept.reachRest (h : CommitKept r s) (c : Nat) : CommitKept r (reachRest s c) := by
  unfold Machine.reachRest
  dsimp only
  refine .endStops ?_ _
  split
  · exact .ite (h.restStopped.endRun _) h.restStopped
  · exact h.restStopped

theorem CommitKept.afterCommit (h : CommitKept r s) (c : Nat) : CommitKept r (afterCommit s c) := by
  unfold Machine.afterCommit
  exact .ite (((h.endRun _).designEnd _ _).restStopped.endStops _) (.ite (h.reachRest c) h)

/-! #### The commit -/

theorem linksMoved_sendCommit (s : State) (c : Nat) : LinksMoved s (sendCommit s c) := by
  unfold sendCommit
  split
  · exact linksMoved_sendBlock _ _ _ _
  · exact .refl s

/-- After the commit of cycle `c` the next one is due, and the cycle's WRITEs wait no more. -/
theorem commitCycle_commits (s : State) (c : Nat) :
    (commitCycle s c).run.nextCommit = c + 1 ∧ (commitCycle s c).mem.writes ⊆ s.mem.writes.filter (fun w => w.cycle ≠ c) := by
  have hsent := linksMoved_sendCommit s c
  obtain ⟨u, hu⟩ : ∃ u, u = onRun (sendCommit s c) (fun r => { r with
    nextCommit := c + 1
    firstCycle := if r.firstCycle = some c then none else r.firstCycle
    votes := r.votes.filter (fun v => c < v.1 / 4)
    devVotes := r.devVotes.filter (fun v => c < v.1 / 16) }) := ⟨_, rfl⟩
  have hnext : u.run.nextCommit = c + 1 := by rw [hu, onRun_run]
  have hmem : u.mem = s.mem := by rw [hu, onRun_mem, hsent.mem]
  have hcommitted := ((((((memCommit_writes u c).regionCommit c).chnCommit c).hgrCommit c).asyCommit c).designCommit c)
  have hshown := hcommitted.when (c := c = 0) (fun h => h.setB F.RST_STATUS_FIRST_COMMIT true)
  obtain ⟨hrun, hwrites⟩ := ((hshown.takeCapture (c + 1)).takeHallmark (c + 1)).afterCommit c
  have hcommit : commitCycle s c = afterCommit (takeHallmark (takeCapture
      (if c = 0 then setB (designCommit (asyCommit (hgrCommit (chnCommit (regionCommit (memCommit u c) c) c) c) c) c)
        F.RST_STATUS_FIRST_COMMIT true
      else designCommit (asyCommit (hgrCommit (chnCommit (regionCommit (memCommit u c) c) c) c) c) c) (c + 1)) (c + 1)) c := by
    rw [hu]
    rfl
  rw [hcommit]
  refine ⟨hrun.trans hnext, ?_⟩
  rw [← hmem]
  exact hwrites

end

/-- A full view reserve keeps a cycle from its commit. -/
theorem viewBlocks_of_canCommit {s : State} {c : Nat} (h : canCommit s c = true) : viewBlocks s c = false := by
  simp only [canCommit, Bool.and_eq_true, Bool.not_eq_true'] at h
  obtain ⟨⟨⟨-, hfree⟩, -⟩, -⟩ := h
  exact hfree

/-- Settles O5, by what each unit's part of a commit leaves. -/
theorem cycleCommitAdvances : Obligations.CycleCommitAdvances := by
  unfold Obligations.CycleCommitAdvances
  intro s c
  refine ⟨fun hcan => ?_, fun hblocks => ?_, fun hcan hblocks => ?_⟩
  · obtain ⟨hnext, hwrites⟩ := commitCycle_commits (setB s F.ARY_VIEW_STATUS_FULL false) c
    refine ⟨_, congrArg Host.Outcome.next (if_pos hcan), hnext, fun w hw => ?_⟩
    have hleft := List.mem_filter.1 (hwrites hw)
    exact ⟨hleft.1, by simpa using hleft.2⟩
  · have hcan : ¬ canCommit s c = true := fun h => by simp [viewBlocks_of_canCommit h] at hblocks
    refine ⟨_, congrArg Host.Outcome.next ((if_neg hcan).trans (if_pos hblocks)), ⟨fun f hf => ?_, rfl⟩, ?_⟩
    · exact getF_setB_other s (hf _ List.mem_cons_self) true
    · exact getB_setB_same _ _ _ rfl
  · exact ⟨_, congrArg Host.Outcome.next ((if_neg (ne_true_of_eq_false hcan)).trans (if_neg (ne_true_of_eq_false hblocks))), rfl⟩

end Sys2Proof.Machine
end

section
/-! ### Logic processors -/

namespace Sys2Proof.Machine

/-! #### Operands that read clean -/

/-- An operand read with value `v`, unequal rails and no error. -/
abbrev cleanOpnd (v : Bool) : Opnd := .val v false .clean

section
variable {s : State} {d : Fin 4} {p n : Nat} {us : List OpndUse} {vs : List Bool}

theorem useRead_clean_of_mem (h : us.map (useRead s d p n) = vs.map cleanOpnd) {u : OpndUse} (hu : u ∈ us) :
    ∃ v, useRead s d p n u = cleanOpnd v := by
  obtain ⟨v, -, hv⟩ := List.mem_map.1 (h ▸ List.mem_map_of_mem (f := useRead s d p n) hu)
  exact ⟨v, hv.symm⟩

theorem reservedFault_clean (h : us.map (useRead s d p n) = vs.map cleanOpnd) (unit : Nat) :
    reservedFault s d p n unit us = none := by
  refine Option.map_eq_none_iff.2 (List.find?_eq_none.2 fun u hu => ?_)
  obtain ⟨v, hv⟩ := useRead_clean_of_mem h hu
  simp [hv]

theorem staleFault_clean (h : us.map (useRead s d p n) = vs.map cleanOpnd) (unit : Nat) :
    staleFault s d p n unit us = none := by
  refine Option.map_eq_none_iff.2 (List.find?_eq_none.2 fun u hu => ?_)
  obtain ⟨v, hv⟩ := useRead_clean_of_mem h hu
  simp [hv]

theorem lateOpnds_clean (h : us.map (useRead s d p n) = vs.map cleanOpnd) (unit index : Nat) :
    lateOpnds s d p n unit index us = [] := by
  refine List.filterMap_eq_nil_iff.2 fun u hu => ?_
  obtain ⟨v, hv⟩ := useRead_clean_of_mem h hu
  simp [hv]

end

section
variable (vs : List Bool)

@[simp] theorem anyMismatch_clean : anyMismatch (vs.map cleanOpnd) = false := by
  simp [anyMismatch]

@[simp] theorem opndFaults_clean (p n lp : Nat) : opndFaults p n lp (vs.map cleanOpnd) = [] := by
  simp [opndFaults]

@[simp] theorem opndCorrected_clean : opndCorrected (vs.map cleanOpnd) = 0 := by
  simp [opndCorrected, List.filter_map, Function.comp_def]

theorem map_value_clean : (vs.map cleanOpnd).map Opnd.value = vs :=
  (List.map_map ..).trans (List.map_id' vs)

theorem map_comp_clean : (vs.map cleanOpnd).map Opnd.comp = vs := by
  simp [Opnd.comp, Function.comp_def]

end

/-- The operand addresses of an instruction word have 13 bits, so each is looked up as it stands. -/
theorem map_useRead_lpUses (s : State) (d : Fin 4) (p n w k : Nat) : (lpUses w k).map (useRead s d p n) =
    [readOpnd s d p n (bitsOf w 39 13), readOpnd s d p n (bitsOf w 26 13), readOpnd s d p n (bitsOf w 13 13),
      readOpnd s d p n (bitsOf w 0 13)].take k := by
  rw [lpUses, List.map_take]
  simp only [List.map_cons, List.map_nil, useRead_of_le (u := ⟨_, _, bitsOf w _ 13⟩) (bitsOf_le_13 w _)]

/-! #### What an LP does -/

/-- What an LP does that meets nothing amiss: it writes the window entries `ws`. -/
def lpDone (p n j : Nat) (ws : List (Nat × Rail)) : UnitOut :=
  { UnitOut.idle with stage := { Stage.empty with window := ws, done := [lpKey p n j] } }

section
variable {s : State} {d : Fin 4} {p n j : Nat}

/-- A word that reads clean is executed as it is stored (R43). -/
theorem lpFetch_clean (h : eccOf s.dies[d] 0 p ((n * 1024 + stepOf s s.dies[d].sigma) * 64 + j) = .clean) :
    lpFetch s d p n j = (lpWord s d p n (stepOf s s.dies[d].sigma) j, .clean) := by
  simp [lpFetch, h, -Fin.getElem_fin]

/-- The window entries of one LP, both rails looked up alike and no upset striking them (R57). -/
theorem lpWrites_alike (t p n j : Nat) (o : Bool × Bool) : lpWrites t p n j o o 0 =
    [((p * 32 + n) * 2048 + t % 16 * 128 + 2 * j, ⟨o.1, !o.1⟩),
     ((p * 32 + n) * 2048 + t % 16 * 128 + 2 * j + 1, ⟨o.2, !o.2⟩)] := by
  simp [lpWrites, windowAddr, Nat.add_assoc]

theorem lpFinish_clean (s : State) (d : Fin 4) (p n j : Nat) (vs : List Bool) (op entry : Nat) :
    let o := lpOutputs op entry vs
    lpFinish s d p n j (vs.map cleanOpnd) op entry [] 0 0 =
      lpDone p n j (lpWrites (stepOf s s.dies[d].sigma) p n j o o 0) := by
  intro o
  simp only [lpFinish, map_value_clean, map_comp_clean, lpWrites_alike]
  simp [lpDone, dualFault, UnitOut.idle, o]

/-- OP 0 writes nothing (R45). -/
theorem lpOut_nop {w : Nat} (hfetch : lpFetch s d p n j = (w, .clean)) (hop : opField w = 0) (flips : BitVec 4) :
    lpOut s d p n j flips = lpDone p n j [] := by
  simp [lpOut, hfetch, hop, lpDone, UnitOut.idle, Stage.empty]

/-- OP 1 writes what its function pair gives for its four operands (R45, R50). -/
theorem lpOut_eval {w : Nat} {vs : List Bool} (hfetch : lpFetch s d p n j = (w, .clean)) (hop : opField w = 1)
    (hpair : eccOf s.dies[d] 2 p (bitsOf w 52 8) = .clean) (hvalid : (funcPair s d p (bitsOf w 52 8)).2 = true)
    (hread : (lpUses w 4).map (useRead s d p n) = vs.map cleanOpnd) :
    let o := evalPair (funcPair s d p (bitsOf w 52 8)).1 (evalIndex vs)
    lpOut s d p n j 0 = lpDone p n j (lpWrites (stepOf s s.dies[d].sigma) p n j o o 0) := by
  have hfinish := lpFinish_clean s d p n j vs 1 (funcPair s d p (bitsOf w 52 8)).1
  simpa [lpOut, hfetch, hop, hpair, hvalid, hread, reservedFault_clean hread, staleFault_clean hread,
    lateOpnds_clean hread, lpOutputs, -Fin.getElem_fin] using hfinish

/-- OP 2 writes the values of OPA and OPB (R45). -/
theorem lpOut_copy {w : Nat} {a b : Bool} (hfetch : lpFetch s d p n j = (w, .clean)) (hop : opField w = 2)
    (hread : (lpUses w 2).map (useRead s d p n) = [a, b].map cleanOpnd) :
    lpOut s d p n j 0 = lpDone p n j (lpWrites (stepOf s s.dies[d].sigma) p n j (a, b) (a, b) 0) := by
  have hfinish := lpFinish_clean s d p n j [a, b] 2
  simpa [lpOut, hfetch, hop, hread, reservedFault_clean hread, staleFault_clean hread,
    lateOpnds_clean hread, lpOutputs, -Fin.getElem_fin] using hfinish _

/-- An LP that is ready and meets nothing amiss stages its window entries. -/
theorem runUnit_lpDone {ok : Bool} {flips : BitVec 4} {ws : List (Nat × Rail)} (hready : UnitReady s d p (lpKey p n j))
    (hok : ok = true) (hout : lpOut s d p n j flips = lpDone p n j ws) :
    Staged s (runUnit s d p (lpKey p n j) ok (lpOut s d p n j flips)) d
      { Stage.empty with window := ws, done := [lpKey p n j] } := by
  rw [runUnit_ready hready hok, hout]
  exact takeOut_clean rfl rfl rfl

end

/-- Settles O1, by what an LP does for each OP when everything that it reads is clean. -/
theorem logicProcessorStagesItsOutputs : Obligations.LogicProcessorStagesItsOutputs := by
  unfold Obligations.LogicProcessorStagesItsOutputs
  intro s d p n j v0 v1 v2 v3 t w base mark pair index hready hword
  have hfetch : lpFetch s d p n j = (w, .clean) := lpFetch_clean hword
  have hok (op : Nat) (hop : opField w = op) : (opField (lpFetch s d p n j).1 == op) = true := by
    rw [hfetch]
    exact beq_iff_eq.2 hop
  refine ⟨fun hop hpair hvalid h0 h1 h2 h3 => ?eval, fun hop h0 h1 => ?copy, fun hop => ?nop⟩
  case eval =>
    have hread : (lpUses w 4).map (useRead s d p n) = [v0, v1, v2, v3].map cleanOpnd := by
      simp [map_useRead_lpUses, h0, h1, h2, h3]
    have hstaged := runUnit_lpDone hready (hok 1 hop) (lpOut_eval hfetch hop hpair hvalid hread)
    rw [lpWrites_alike] at hstaged
    exact ⟨_, rfl, hstaged⟩
  case copy =>
    have hread : (lpUses w 2).map (useRead s d p n) = [v0, v1].map cleanOpnd := by
      simp [map_useRead_lpUses, h0, h1]
    have hstaged := runUnit_lpDone hready (hok 2 hop) (lpOut_copy hfetch hop hread)
    rw [lpWrites_alike] at hstaged
    exact ⟨_, rfl, hstaged⟩
  case nop =>
    have hok0 : (opField (lpFetch s d p n j).1 == 0 || decide (2 < opField (lpFetch s d p n j).1)) = true := by
      rw [hok 0 hop, Bool.true_or]
    exact ⟨_, rfl, runUnit_lpDone hready hok0 (lpOut_nop hfetch hop 0)⟩

end Sys2Proof.Machine
end

section
/-! ### Port sequencers -/

namespace Sys2Proof.Machine

/-- What a field of a PS word does that meets nothing amiss: it writes what `g` holds. -/
def psDone (p n i : Nat) (g : Stage) : UnitOut := { UnitOut.idle with stage := { g with done := [psKey p n i] } }

section
variable {s : State} {d : Fin 4} {p n k w : Nat} {v : Bool}

/-- A word of which both halves read clean is executed as it is stored (R80). -/
theorem psFetch_clean (hlow : eccOf s.dies[d] 1 p ((n * 1024 + stepOf s s.dies[d].sigma) * 2) = .clean)
    (hhigh : eccOf s.dies[d] 1 p ((n * 1024 + stepOf s s.dies[d].sigma) * 2 + 1) = .clean) :
    psFetch s d p n = (psWord s d p n (stepOf s s.dies[d].sigma), .clean, .clean) := by
  simp [psFetch, hlow, hhigh, -Fin.getElem_fin]

/-- A field of a word that meets no condition of R111 does what it does on its own. -/
theorem psFieldOut_of_unstopped (hcheck : psCheck s d p n = (none, [])) (o : UnitOut) : psFieldOut s d p n o = o := by
  simp [psFieldOut, hcheck]

/-- A field that is ready, in a word that meets no condition of R111, stages what it writes. -/
theorem runUnit_psDone {i : Nat} {ok : Bool} {o : UnitOut} {g : Stage} (hready : UnitReady s d p (psKey p n i))
    (hcheck : psCheck s d p n = (none, [])) (hok : ok = true) (hout : o = psDone p n i g) :
    Staged s (runUnit s d p (psKey p n i) ok (psFieldOut s d p n o)) d { g with done := [psKey p n i] } := by
  rw [runUnit_ready hready hok, psFieldOut_of_unstopped hcheck, hout]
  exact takeOut_clean rfl rfl rfl

/-- One operand that reads clean shows no fault and no correction. -/
theorem notes_cleanOpnd (p n lp : Nat) (v : Bool) : opndFaults p n lp [cleanOpnd v] = [] ∧
    dualFault p n lp (anyMismatch [cleanOpnd v]) = [] ∧ opndCorrected [cleanOpnd v] = 0 :=
  ⟨opndFaults_clean [v] p n lp, congrArg (dualFault p n lp) (anyMismatch_clean [v]), opndCorrected_clean [v]⟩

/-- An enabled SEND drives the value of its operand onto its lane (R86). -/
theorem sendOut_clean (hword : (psFetch s d p n).1 = w) (hen : (sendField w k).1 = true)
    (hread : readOpnd s d p n (sendField w k).2 = cleanOpnd v) :
    sendOut s d p n k none = psDone p n k { Stage.empty with lanes := [(laneOf p n k, v)] } := by
  obtain ⟨hfaults, hdual, hcorrected⟩ := notes_cleanOpnd p n 0xFF v
  simp [sendOut, hword, hen, hread, hfaults, hdual, hcorrected, Opnd.value, psDone, UnitOut.idle]

/-- An enabled LATCH records the value of its operand for its register bit (R92). -/
theorem latchOut_clean (hword : (psFetch s d p n).1 = w) (hen : (latchField w).1 = true)
    (hread : readOpnd s d p n (latchField w).2.1 = cleanOpnd v) :
    latchOut s d p n =
      psDone p n 8 { Stage.empty with latches := [(idx (p * 32 + n) 2048 (latchField w).2.2, v)] } := by
  obtain ⟨hfaults, hdual, hcorrected⟩ := notes_cleanOpnd p n 0xFF v
  simp [latchOut, hword, hen, hread, hfaults, hdual, hcorrected, Opnd.value, psDone, UnitOut.idle]

/-- Some enabled RECV of a PS word with a higher number than `k` names the slot `slot` (R90). -/
theorem any_psRecvs (s : State) (d w : Nat) (k : Fin 4) (slot : Nat) :
    (psRecvs s d w).any (fun r => k < r.1 && r.2.slot == slot) =
      decide (∃ h : Fin 4, k < h ∧ (recvField s d w h).en = true ∧ (recvField s d w h).slot = slot) := by
  rw [Bool.eq_iff_iff, List.any_eq_true, decide_eq_true_iff]
  constructor
  · rintro ⟨r, hmem, hr⟩
    obtain ⟨h, hlt, hsome⟩ := List.mem_filterMap.1 hmem
    obtain ⟨hen, hpair⟩ := Option.ite_none_right_eq_some.1 hsome
    obtain rfl := Option.some.inj hpair
    obtain ⟨hkh, hslot⟩ := (Bool.and_eq_true ..).mp hr
    exact ⟨⟨h, List.mem_range.1 hlt⟩, of_decide_eq_true hkh, hen, beq_iff_eq.1 hslot⟩
  · rintro ⟨h, hkh, hen, hslot⟩
    refine ⟨(h, recvField s d w h), List.mem_filterMap.2 ⟨h, List.mem_range.2 h.isLt, if_pos hen⟩, ?_⟩
    simpa [hslot] using hkh

/-- An enabled RECV whose lane delivers a value writes its slot, where no RECV displaces it, and takes the entry of a
channel buffer (R88, R90). -/
theorem recvOut_of_value {k : Fin 4} (hword : (psFetch s d p n).1 = w) (hen : (recvField s d w k).en = true)
    (hvalue : recvValue s d (recvField s d w k).lane = some v) :
    recvOut s d p n k = psDone p n (4 + k) { Stage.empty with
      taken := if 0x2000 ≤ (recvField s d w k).lane then [(recvField s d w k).lane - 0x2000] else []
      slots := if decide (∃ h : Fin 4, k < h ∧ (recvField s d w h).en = true ∧
          (recvField s d w h).slot = (recvField s d w k).slot) then []
        else [(idx (p * 32 + n) 1024 (recvField s d w k).slot, v)] } := by
  subst hword
  rw [← any_psRecvs]
  simp [recvOut, hen, hvalue, psDone]

/-- A SEND that no parity error strikes notes none. -/
theorem exec_send_none (s : State) (d : Fin 4) (p : Fin 64) (n : Fin 32) (k : Fin 4) :
    exec (.send d p n k none) s = .next (runUnit s d p (psKey p n k) (sendField (psFetch s d p n).1 k).1
      (psFieldOut s d p n (sendOut s d p n k none))) := by
  show execSend d p n k none s = _
  simp [execSend]

end

/-- Settles O2, by what each field of a PS word does when the word and what the field reads are clean. -/
theorem portSequencerFieldsStage : Obligations.PortSequencerFieldsStage := by
  unfold Obligations.PortSequencerFieldsStage
  intro s d p n k v t w f mark beaten put hlow hhigh hcheck
  have hword : (psFetch s d p n).1 = w := congrArg Prod.fst (psFetch_clean hlow hhigh)
  refine ⟨fun hready hen hread => ?send, fun hready hen hlane hdriven => ?localLane,
    fun hready hen hlane e hfind hval => ?channel, fun hready hen hread => ?latch⟩
  case send =>
    exact ⟨_, exec_send_none s d p n k, runUnit_psDone hready hcheck (hword ▸ hen) (sendOut_clean hword hen hread)⟩
  case latch =>
    exact ⟨_, rfl, runUnit_psDone hready hcheck (hword ▸ hen) (latchOut_clean hword hen hread)⟩
  case localLane =>
    have hvalue : recvValue s d f.lane = some v := (if_neg (Nat.not_le.2 hlane)).trans hdriven
    have hout := recvOut_of_value hword hen hvalue
    rw [if_neg (Nat.not_le.2 hlane)] at hout
    exact ⟨_, rfl, runUnit_psDone hready hcheck (hword ▸ hen) hout⟩
  case channel =>
    have hvalue : recvValue s d f.lane = some v := by
      simp [recvValue, hlane, hfind, hval, -Fin.getElem_fin]
    have hout := recvOut_of_value hword hen hvalue
    rw [if_pos hlane] at hout
    exact ⟨_, rfl, runUnit_psDone hready hcheck (hword ▸ hen) hout⟩

end Sys2Proof.Machine
end

section
/-! ### Crossing arrivals -/

namespace Sys2Proof.Machine

/-- The channel key at which a crossing forwarded with DOFF `m` arrives (R101). -/
theorem arrivalLane_sub (m chan : Nat) : arrivalLane m chan - 0x2000 = (3 - m) * 0x400 + chan := by
  rw [arrivalLane, Nat.add_assoc, Nat.add_sub_cancel_left]

section
variable (s : State) (d : Fin 4) (k : Nat) (e : ChanEntry)

/-- An entry that arrives is the newest of its channel's buffer (R105). -/
theorem get_chans_arrive_same : (arrive s d k e).dies[d].chans.get [] k = s.dies[d].chans.get [] k ++ [e] := by
  simp [arrive, SMap.modify]

/-- An entry that arrives leaves every other channel's buffer alone. -/
theorem get_chans_arrive_other {j : Nat} (hj : j ≠ k) :
    (arrive s d k e).dies[d].chans.get [] j = s.dies[d].chans.get [] j := by
  simp [arrive, SMap.modify, hj]

theorem arrive_frame : arrive s d k e = { s with dies := (arrive s d k e).dies } := rfl

theorem diesBut_arrive : DiesBut s (arrive s d k e) d := fun _ h => setDie_other s h _

end

/-- The state in which the values of `rest` are those in flight. -/
def flightsLeft (s : State) (rest : List Flight) : State := { s with mem := { s.mem with flights := rest } }

section
variable {s : State} {src dst : Fin 4} {chan : Fin 1024}

/-- The oldest value in flight on a channel arrives with its tag (R103, R105). -/
theorem exec_crossingArrival_some {f : Flight} {rest : List Flight}
    (hflight : takeFlight s.mem.flights src dst ((3 - (dst.val + 4 - src.val) % 4) * 0x400 + chan) = some (f, rest)) :
    exec (.crossingArrival src dst chan .clean) s = .next (arrive (flightsLeft s rest) dst
      ((3 - (dst.val + 4 - src.val) % 4) * 0x400 + chan) ⟨f.tag, f.val, true, false, f.sent⟩) := by
  show execCrossingArrival src dst chan .clean s = _
  simp only [execCrossingArrival, arrivalLane_sub, hflight, flightsLeft]

/-- Nothing arrives where nothing is in flight. -/
theorem exec_crossingArrival_none
    (hflight : takeFlight s.mem.flights src dst ((3 - (dst.val + 4 - src.val) % 4) * 0x400 + chan) = none) (ecc : Ecc) :
    exec (.crossingArrival src dst chan ecc) s = .next s := by
  show execCrossingArrival src dst chan ecc s = _
  simp only [execCrossingArrival, arrivalLane_sub, hflight]

end

/-- Settles O7, by what `arrive` does to the receiving die. -/
theorem crossingArrivalJoinsItsBuffer : Obligations.CrossingArrivalJoinsItsBuffer := by
  unfold Obligations.CrossingArrivalJoinsItsBuffer
  intro s src dst chan k
  refine ⟨fun f rest hflight => ?arrives, fun hflight ecc => ?nothing⟩
  case arrives =>
    exact ⟨_, exec_crossingArrival_some hflight, rfl, get_chans_arrive_same _ dst k _,
      fun j hj => get_chans_arrive_other _ dst k _ hj, diesBut_arrive _ dst k _, arrive_frame _ dst k _⟩
  case nothing => exact ⟨s, exec_crossingArrival_none hflight ecc, rfl⟩

end Sys2Proof.Machine
end

section
/-! ### Spare tiles, spare lanes and the tile scrubbers -/

namespace Sys2Proof.Machine

/-! #### Records -/

section
variable (s : State)

@[simp] theorem writeWords_dies (f : Nat → Fld) (bs : List Byte) : (writeWords s f bs).dies = s.dies := by
  suffices h : ∀ (ws : List Nat) (t : State),
      (ws.foldl (fun t w => setF t (f w) (recordWord bs w)) t).dies = t.dies from h _ s
  intro ws
  induction ws with
  | nil => exact fun _ => rfl
  | cons w ws ih => exact fun t => ih _

@[simp] theorem logRecord_dies (bs : List Byte) : (logRecord s bs).dies = s.dies := by
  unfold logRecord
  extract_lets i lost u v
  have hu : u.dies = s.dies := writeWords_dies s _ bs
  have hv : v.dies = u.dies := by
    show (if lost then setB u F.FLT_STATUS_LOG_WRAPPED true else u).dies = u.dies
    split
    · exact setB_dies u _ _
    · rfl
  exact (setF_dies v _ _).trans (hv.trans hu)

@[simp] theorem showSpares_dies (d : Fin 4) : (showSpares s d).dies = s.dies := rfl

@[simp] theorem lanesOut_dies (d : Fin 4) : (lanesOut s d).dies = s.dies := by
  simp only [lanesOut, setB_dies, logRecord_dies]

/-- A counter reads as it was with `n` added, up to its largest value. -/
theorem getF_bumpF_same (f : Fld) (n : Nat) : getF (bumpF s f n) f = saturate f.width (getF s f + n) := by
  have hpos := Nat.two_pow_pos f.width
  have hlt : saturate f.width (getF s f + n) < 2 ^ f.width :=
    Nat.lt_of_le_of_lt (Nat.min_le_right _ _) (Nat.sub_lt hpos Nat.one_pos)
  rw [bumpF, getF_setF_same, Nat.mod_eq_of_lt hlt]

end

/-! #### Retirement of a tile -/

/-- The die with position `p` bound to tile `spare`, its old tile set aside, and the errors gone that words of the position's
installed memories held (R479). -/
def tileRebound (p spare : Nat) (x : Die) : Die :=
  { x with
    tileMap := x.tileMap.set none p (some spare), badTiles := x.badTiles ++ [physTile x p]
    ecc := x.ecc.filter (fun e => e.1 / 2 ^ 40 % 256 ≠ p ∨ e.1 / 2 ^ 48 = 3) }

@[simp] theorem physTile_tileRebound (p spare : Nat) (x : Die) : physTile (tileRebound p spare x) p = spare := by
  simp [physTile, tileRebound]

section
variable {s : State} {d : Fin 4} {p spare : Nat} {more : List Nat}

theorem rebind_dies (hfree : freeSpares s d = spare :: more) :
    (rebind s d p).dies = (onDie s d (tileRebound p spare)).dies := by
  simp only [rebind, hfree, showSpares_dies, logRecord_dies, bumpF_dies]
  rfl

/-- Position `p` of die `d` is bound to the tile `spare` in `t`, and the tile that it had in `s` serves no more (R479). -/
def Rebound (s t : State) (d : Fin 4) (p spare : Nat) : Prop :=
  physTile t.dies[d] p = spare ∧ t.dies[d].badTiles = s.dies[d].badTiles ++ [physTile s.dies[d] p] ∧ DiesBut s t d

theorem rebound_rebind (hfree : freeSpares s d = spare :: more) : Rebound s (rebind s d p) d p spare := by
  have hdie : (rebind s d p).dies[d] = tileRebound p spare s.dies[d] := by
    rw [rebind_dies hfree]
    exact onDie_die s d _
  refine ⟨?_, ?_, fun e he => ?_⟩
  · rw [hdie, physTile_tileRebound]
  · rw [hdie, tileRebound]
  · rw [rebind_dies hfree]
    exact onDie_other s he _

/-- A machine at rest with no march test rebinds the position at once (R478). -/
theorem beginRetire_atRest (hrest : executing s = false) (hmarch : s.ctl.march = none)
    (hfree : freeSpares s d = spare :: more) : beginRetire s d p = rebind s d p := by
  simp [beginRetire, marchMeets, hmarch, hfree, hrest]

end

/-- The value of FLT_RETIRE that has GO retire position `p` of die `d` (R478). -/
abbrev retireValue (d : Fin 4) (p : Fin 64) : Nat := 2 ^ 31 + d.val * 2 ^ 8 + p

/-- The state with DIE and TILE_POS of FLT_RETIRE naming a position. -/
def retireNamed (s : State) (d : Fin 4) (p : Fin 64) : State := setF (setF s F.FLT_RETIRE_DIE d) F.FLT_RETIRE_TILE_POS p

theorem executing_retireNamed (s : State) (d : Fin 4) (p : Fin 64) : executing (retireNamed s d p) = executing s := by
  have hstate : getF (retireNamed s d p) F.ARY_STATE_STATE = getF s F.ARY_STATE_STATE :=
    (getF_setF_other _ (by decide) _).trans (getF_setF_other _ (by decide) _)
  rw [executing, emState, hstate, executing, emState]

theorem plainWrite_retireValue (s : State) (d : Fin 4) (p : Fin 64) :
    plainWrite s 0x80008 (retireValue d p) = retireNamed s d p := by
  have hfields : fieldsAt 0x80008 = [F.FLT_RETIRE_GO, F.FLT_RETIRE_DIE, F.FLT_RETIRE_TILE_POS] := rfl
  have hdie : bitsOf (retireValue d p) 8 2 = d := by simp only [bitsOf, retireValue]; omega
  have hpos : bitsOf (retireValue d p) 0 6 = p := by simp only [bitsOf, retireValue]; omega
  rw [plainWrite, hfields]
  show setF (setF s F.FLT_RETIRE_DIE (bitsOf (retireValue d p) 8 2)) F.FLT_RETIRE_TILE_POS (bitsOf (retireValue d p) 0 6) = _
  rw [hdie, hpos, retireNamed]

/-- GO with no retirement under way begins the retirement of the position that the write names (R478). -/
theorem retireWrite_go {s : State} {d : Fin 4} {p : Fin 64} (hactive : p < activePositions s)
    (hretire : s.run.retire = none) : retireWrite s (retireValue d p) = beginRetire (retireNamed s d p) d p := by
  have hgo : (retireValue d p).testBit 31 = true := by
    rw [Nat.testBit_eq_decide_div_mod_eq, decide_eq_true_iff, retireValue]
    omega
  have hpos : getF (retireNamed s d p) F.FLT_RETIRE_TILE_POS = p :=
    (getF_setF_same _ _ _).trans (Nat.mod_eq_of_lt p.isLt)
  have hdie : getF (retireNamed s d p) F.FLT_RETIRE_DIE = d :=
    (getF_setF_other _ (by decide) _).trans ((getF_setF_same _ _ _).trans (Nat.mod_eq_of_lt d.isLt))
  have hactive' : p.val < activePositions (retireNamed s d p) := hactive
  have hretire' : (retireNamed s d p).run.retire = none := hretire
  simp [retireWrite, plainWrite_retireValue, hpos, hdie, hgo, hactive', hretire']

section
variable {s : State} {d : Fin 4} {spare : Nat} {more : List Nat}

/-- GO in a machine at rest rebinds the position that it names at once (R478). -/
theorem exec_go_atRest {p : Fin 64} (hrest : executing s = false) (hmarch : s.ctl.march = none)
    (hfree : freeSpares s d = spare :: more) (hactive : p < activePositions s) (hretire : s.run.retire = none) :
    exec (.go (BitVec.ofNat 32 (retireValue d p))) s = .next (rebind (retireNamed s d p) d p) := by
  have hvalue : (BitVec.ofNat 32 (retireValue d p)).toNat = retireValue d p :=
    Nat.mod_eq_of_lt (by simp only [retireValue]; omega)
  have hrest' : executing (retireNamed s d p) = false := (executing_retireNamed s d p).trans hrest
  have hbegin : beginRetire (retireNamed s d p) d p = rebind (retireNamed s d p) d p :=
    beginRetire_atRest hrest' hmarch hfree
  show execGo (BitVec.ofNat 32 (retireValue d p)) s = _
  rw [execGo, hvalue, retireWrite_go hactive hretire, hbegin]

/-- A tile with three tile faults has its position rebound at once in a machine at rest (R478). -/
theorem exec_tileRetirement_atRest {phys : Fin 66} {p : Nat} (hrest : executing s = false) (hmarch : s.ctl.march = none)
    (hfree : freeSpares s d = spare :: more) (hpos : positionOf s d phys = some p) (hretire : s.run.retire = none)
    (hen : getB s F.FLT_CTRL_RETIRE_EN = true) (hfailing : tileFailing s d phys = true) :
    exec (.tileRetirement d phys true) s = .next (rebind s d p) := by
  show execTileRetirement d phys true s = _
  simp [execTileRetirement, hretire, hpos, hen, hfailing, beginRetire_atRest hrest hmarch hfree]

end

/-! #### The sparing of a lane -/

/-- The die with the parity errors of lane group `g` forgotten (R115). -/
def parityRestarted (g : Nat) (x : Die) : Die := { x with parityTimes := x.parityTimes.set [] g [] }

/-- The die with spare lane `i` in the place of lane `lane` (R114). -/
def laneSpared (i lane : Nat) (x : Die) : Die := { x with spareMap := x.spareMap.set none i (some lane) }

section
variable {s : State} {d : Fin 4}

theorem spareLane_dies {lane i : Nat} {more : List Nat} (hfree : freeLanes s d = i :: more) :
    (spareLane s d lane).dies = (onDie s d (laneSpared i lane)).dies := by
  simp only [spareLane, hfree, apply_ite State.dies, lanesOut_dies, showSpares_dies, logRecord_dies, ite_self]
  rfl

/-- The lane of a group that is found failing has the lowest free spare lane in its place, and the group's count restarts
(R114, R115). -/
theorem locateLane_dies {g i : Nat} {k : Fin 16} {more : List Nat} (hfree : freeLanes s d = i :: more) :
    (locateLane s d g (some k)).dies = (onDie s d (laneSpared i (16 * g + k) ∘ parityRestarted g)).dies := by
  obtain ⟨u, hu, hdies⟩ : ∃ u : State, locateLane s d g (some k) = spareLane (onDie u d (parityRestarted g)) d (16 * g + k) ∧
      u.dies = s.dies := by
    refine ⟨_, rfl, ?_⟩
    split <;> rfl
  have hfree' : freeLanes (onDie u d (parityRestarted g)) d = i :: more := by
    rw [← hfree]
    simp [freeLanes, parityRestarted, hdies]
  rw [hu, spareLane_dies hfree', onDie_onDie]
  simp [onDie, setDie, hdies]

/-- A group with three parity errors in an array at rest has its failing lane located at once (R115). -/
theorem exec_laneSparing_atRest {g : Fin 512} (failing : Option (Fin 16)) (hrest : executing s = false)
    (hsparing : s.run.sparing = none) (hfailing : groupFailing s d g = true) :
    exec (.laneSparing d g failing) s = .next (locateLane s d g failing) := by
  show execLaneSparing d g failing s = _
  simp [execLaneSparing, hsparing, hfailing, hrest]

end

/-! #### The tile scrubbers -/

/-- The memories of which the scrubber reads the words (R469). -/
theorem scrubbed_of_mem : ∀ m ∈ [0, 1, 2, 4, 5, 6], (heldMemory m || m = 6) = true := by decide

/-- The memories in which an upset stands until a read meets it (R468, R71). -/
theorem upsetHeld_of_lt : ∀ m < 6, (heldMemory m || m = 3) = true := by decide

/-- The die in which the stored word at key `k` reads back as `e`. -/
def wordMarked (k : Nat) (e : Ecc) (x : Die) : Die := { x with ecc := x.ecc.set .clean k e }

section
variable (s : State) (d : Fin 4)

theorem get_ecc_wordMarked (k : Nat) (e : Ecc) : (onDie s d (wordMarked k e)).dies[d].ecc.get .clean k = e := by
  simp [wordMarked]

variable {s d} {p m word : Nat}

/-- A word that reads clean is left as it is (R469). -/
theorem scrubWord_clean (hword : s.dies[d].ecc.get .clean (eccKey m p word) = .clean) :
    scrubWord s d p m word .clean = s := by
  simp [scrubWord, hword, -Fin.getElem_fin]

/-- A corrected word is written back and counted (R469). -/
theorem scrubWord_corrected (hword : s.dies[d].ecc.get .clean (eccKey m p word) = .clean)
    (hmem : (heldMemory m || m = 6) = true) : scrubWord s d p m word .corrected =
      bumpF (onDie s d (wordMarked (eccKey m p word) .clean)) F.FLT_CE_TILE_COUNT 1 := by
  rw [scrubWord, if_pos hmem]
  simp only [hword]
  rfl

/-- An uncorrectable word of a memory that holds its errors stays so (R468, R469). -/
theorem scrubWord_uncorrectable (hword : s.dies[d].ecc.get .clean (eccKey m p word) = .clean)
    (hmem : heldMemory m = true) : scrubWord s d p m word .uncorrectable =
      onDie s d (wordMarked (eccKey m p word) .uncorrectable) := by
  simp only [scrubWord, hmem, hword]
  rfl

/-- An upset strikes a word of a memory that holds its errors, or of a CVS group (R468, R71). -/
theorem upsetWord_held (e : Ecc) (hmem : (heldMemory m || m = 3) = true) :
    upsetWord s d p m word e = onDie s d (wordMarked (eccKey m p word) e) := if_pos hmem

/-- The scrubber of a tile that is bound to a position reads a word of the position. -/
theorem exec_tileScrub {phys : Fin 66} (hpos : positionOf s d phys = some p) (w : TileWord) (ecc : Ecc) :
    exec (.tileScrub d phys w ecc none) s = .next (scrubWord s d p w.mem.toNat w.word.toNat ecc) := by
  show execTileScrub d phys w ecc none s = _
  simp [execTileScrub, hpos]

theorem exec_tileScrub_upset {phys : Fin 66} (hpos : positionOf s d phys = some p) (w : TileWord) (ecc : Ecc)
    (u : TileWord × Ecc) : exec (.tileScrub d phys w ecc (some u)) s =
      .next (upsetWord (scrubWord s d p w.mem.toNat w.word.toNat ecc) d p u.1.mem.toNat u.1.word.toNat u.2) := by
  show execTileScrub d phys w ecc (some u) s = _
  simp [execTileScrub, hpos]

end

/-- Settles O13: a position is rebound by `rebind`, a lane spared by `locateLane`, and a word marked by the scrubber or by its
upset. -/
theorem sparesReplaceAndScrubsWriteBack : Obligations.SparesReplaceAndScrubsWriteBack := by
  unfold Obligations.SparesReplaceAndScrubsWriteBack
  refine ⟨fun s d hrest hmarch => ⟨fun p spare more hfree hactive hretire => ?go,
    fun phys p spare more hfree hpos hretire hen hfailing => ?tile,
    fun g k i more hsparing hfailing hfree => ?lane⟩, ?scrub⟩
  case go =>
    exact ⟨_, exec_go_atRest hrest hmarch hfree hactive hretire, rebound_rebind (s := retireNamed s d p) hfree⟩
  case tile =>
    exact ⟨_, exec_tileRetirement_atRest hrest hmarch hfree hpos hretire hen hfailing, rebound_rebind hfree⟩
  case lane =>
    have hdies := locateLane_dies (g := g) (k := k) hfree
    have hdie : (locateLane s d g (some k)).dies[d] = laneSpared i (16 * g + k) (parityRestarted g s.dies[d]) := by
      rw [hdies]
      exact onDie_die s d _
    refine ⟨_, exec_laneSparing_atRest (some k) hrest hsparing hfailing, ?_, ?_, fun e he => ?_⟩
    · rw [hdie]
      simp [laneSpared]
    · rw [hdie]
      simp [laneSpared, parityRestarted]
    · rw [hdies]
      exact onDie_other s he _
  case scrub =>
    intro s d phys w p m k hpos hword
    refine ⟨fun hm => ?corrected, fun hm => ?uncorrectable, ?clean, fun u hu => ?upset⟩
    case corrected =>
      refine ⟨_, (exec_tileScrub hpos w _).trans (congrArg _ (scrubWord_corrected hword (scrubbed_of_mem m hm))), ?_, ?_, ?_⟩
      · exact get_ecc_wordMarked s d k .clean
      · exact getF_bumpF_same _ _ _
      · exact diesBut_onDie s d _
    case uncorrectable =>
      have hheld : heldMemory m = true := List.contains_iff_mem.2 hm
      refine ⟨_, (exec_tileScrub hpos w _).trans (congrArg _ (scrubWord_uncorrectable hword hheld)), ?_, rfl, ?_⟩
      · exact get_ecc_wordMarked s d k .uncorrectable
      · exact diesBut_onDie s d _
    case clean => exact ⟨s, (exec_tileScrub hpos w _).trans (congrArg _ (scrubWord_clean hword)), rfl⟩
    case upset =>
      have hexec := exec_tileScrub_upset hpos w .clean u
      rw [scrubWord_clean hword, upsetWord_held u.2 (upsetHeld_of_lt _ hu)] at hexec
      exact ⟨_, hexec, get_ecc_wordMarked s d _ u.2, rfl, diesBut_onDie s d _⟩

end Sys2Proof.Machine
end

section
/-! ### The decision of a boundary hold, and the freezing of a die -/

namespace Sys2Proof.Machine

/-! #### A bit set or cleared in a number -/

theorem setBit_zero (x : Nat) (b : Bool) : setBit x 0 b = 2 * (x / 2) + b2n b := by
  have hx := Nat.div_add_mod x 2
  unfold setBit b2n
  cases b <;> rcases Nat.mod_two_eq_zero_or_one x with h | h <;> simp [Nat.testBit_zero, h] <;> omega

theorem setBit_succ (x i : Nat) (b : Bool) : setBit x (i + 1) b = 2 * setBit (x / 2) i b + x % 2 := by
  have hx := Nat.div_add_mod x 2
  unfold setBit
  rw [← Nat.testBit_succ]
  split
  · exact hx.symm
  next hbit =>
    cases b
    · have hge : 2 ^ i ≤ x / 2 := Nat.ge_two_pow_of_testBit (by simpa [Nat.testBit_succ] using hbit)
      simp only [Bool.false_eq_true, if_false, pow_succ]
      omega
    · simp only [if_true, pow_succ]
      omega

/-- A bit of a number after one of its bits has been set or cleared. -/
theorem testBit_setBit (x i j : Nat) (b : Bool) : (setBit x i b).testBit j = if j = i then b else x.testBit j := by
  induction i generalizing x j with
  | zero =>
    rw [setBit_zero]
    cases j with
    | zero => cases b <;> simp [b2n, Nat.testBit_zero]
    | succ j =>
      have hhalf : (2 * (x / 2) + b2n b) / 2 = x / 2 := by unfold b2n; split <;> omega
      simp [Nat.testBit_succ, hhalf]
  | succ i ih =>
    rw [setBit_succ]
    cases j with
    | zero => simp [Nat.testBit_zero]
    | succ j =>
      have hhalf : (2 * setBit (x / 2) i b + x % 2) / 2 = setBit (x / 2) i b := by omega
      simp [Nat.testBit_succ, hhalf, ih]

/-! #### Sources of holds in their register -/

theorem getF_setFBit_testBit (s : State) (f : Fld) (i j : Nat) (b : Bool) (hj : j < f.width) :
    (getF (setFBit s f i b) f).testBit j = if j = i then b else (getF s f).testBit j := by
  rw [setFBit, getF_setF_same, Nat.testBit_mod_two_pow, testBit_setBit]
  simp [hj]

/-- A field that neither the freezing of a die nor a user hold that comes into force writes, but for HELD of ARY_STATE and the
die's own bits and step count: none of a source's, of ARY_SKEW_MAX, RESUMING, PENDING or ACTIVE. -/
abbrev AwayFromHolds (f : Fld) : Prop :=
  f.key < (F.ARY_SRC_EPISODES_COUNT 0).key ∧ ∀ g ∈ [F.ARY_HOLD_STATUS_SOURCE, F.ARY_HOLD_EVENTS_SEEN, F.ARY_SKEW_MAX_DEVICE,
    F.ARY_SKEW_MAX_MACHINE, F.ARY_HOLD_STATUS_RESUMING, F.ARY_HOLD_CTRL_PENDING, F.ARY_HOLD_CTRL_ACTIVE], f.key ≠ g.key

section
variable {f : Fld} (hf : AwayFromHolds f)
include hf

theorem AwayFromHolds.raiseSource (s : State) (n : Nat) : getF (raiseSource s n) f = getF s f := by
  obtain ⟨hlt, hne⟩ := hf
  unfold Machine.raiseSource
  split
  · rfl
  · rw [getF_bumpF_other, getF_setFBit_other _ (hne _ (by simp)), getF_setFBit_other _ (hne _ (by simp))]
    simp only [Fld.key, F.ARY_SRC_EPISODES_COUNT] at hlt ⊢
    omega

theorem AwayFromHolds.raiseSources (ns : List Nat) (s : State) : getF (ns.foldl Machine.raiseSource s) f = getF s f := by
  induction ns generalizing s with
  | nil => rfl
  | cons n ns ih => exact (ih _).trans (hf.raiseSource s n)

theorem AwayFromHolds.userTakes (s : State) (d : Fin 4) : getF (userTakes s d) f = getF s f := by
  unfold Machine.userTakes
  split
  · rw [getF_setB_other _ (hf.2 _ (by simp)), getF_setB_other _ (hf.2 _ (by simp))]
  · rfl

theorem AwayFromHolds.noteSkew (s : State) : getF (noteSkew s) f = getF s f := by
  unfold Machine.noteSkew
  rw [getF_setF_other _ (hf.2 _ (by simp)), getF_setF_other _ (hf.2 _ (by simp))]

end

theorem userTakes_dies (s : State) (d : Fin 4) : (userTakes s d).dies = s.dies := by
  unfold userTakes
  split <;> rfl

/-- Operations that change no die change none one after another. -/
theorem foldl_dies {α : Type} {g : State → α → State} (hg : ∀ t a, (g t a).dies = t.dies) (xs : List α) (s : State) :
    (xs.foldl g s).dies = s.dies := by
  induction xs generalizing s with
  | nil => rfl
  | cons x xs ih => exact (ih _).trans (hg s x)

/-! #### A die freezes -/

/-- The die frozen at its step count, where of the step under way nothing lands (R116, R126). -/
def frozenDie (x : Die) : Die :=
  { x with
    frozen := true, freezeAt := none
    stage := { Stage.empty with done := x.stage.done.filter (fun k => k = boundaryKey) } }

section
variable (s : State) (d : Fin 4)

/-- The state once die `d` has frozen and its registers show it, before the accounts of the freeze. -/
def frozenShown : State :=
  let s := onDie s d frozenDie
  let s := setFBit (setF s (F.ARY_FROZEN_STEP_SIGMA d) s.dies[d].sigma) F.ARY_HOLD_STATUS_DIE_FROZEN d true
  onHolds s (fun h => { h with frozenSteps := 0, resuming := none, release := none })

/-- The accounts of a freeze: source 9 where a bad vote waits for its restore, RESUMING and ARY_SKEW_MAX. -/
def freezeNoted : State :=
  noteSkew (setB (if badVoteHeld s then raiseSource s 9 else s) F.ARY_HOLD_STATUS_RESUMING false)

theorem freezeDie_eq : freezeDie s d = showHeld (freezeNoted (frozenShown s d)) := rfl

theorem AwayFromHolds.freezeNoted {f : Fld} (hf : AwayFromHolds f) : getF (freezeNoted s) f = getF s f := by
  unfold Machine.freezeNoted
  rw [hf.noteSkew, getF_setB_other _ (hf.2 _ (by simp))]
  split
  · exact hf.raiseSource s 9
  · rfl

theorem freezeNoted_dies : (freezeNoted s).dies = s.dies := by
  show (if badVoteHeld s then raiseSource s 9 else s).dies = s.dies
  split
  · exact raiseSource_dies s 9
  · rfl

theorem showHeld_dies : (showHeld s).dies = s.dies := by
  unfold showHeld
  split <;> rfl

/-- A freeze changes the die that freezes and no other. -/
theorem freezeDie_dies : (freezeDie s d).dies = (onDie s d frozenDie).dies := by
  rw [freezeDie_eq, showHeld_dies, freezeNoted_dies]
  rfl

theorem getF_showHeld_other {f : Fld} (hf : f.key ≠ F.ARY_STATE_STATE.key) : getF (showHeld s) f = getF s f := by
  unfold showHeld
  split
  · exact getF_setF_other s hf _
  · rfl

/-- A machine that executes with a frozen die is shown HELD (R30). -/
theorem emState_showHeld (hexec : executing s = true) (hfrozen : anyFrozen s = true) : emState (showHeld s) = 3 := by
  rw [showHeld, if_pos hexec, if_pos hfrozen]
  exact getF_setF_same _ _ _

theorem awayFromHolds_frozenStep : AwayFromHolds (F.ARY_FROZEN_STEP_SIGMA d) := by
  revert d
  decide

theorem frozenStep_key : (F.ARY_FROZEN_STEP_SIGMA d).key ≠ F.ARY_STATE_STATE.key ∧
    (F.ARY_FROZEN_STEP_SIGMA d).key ≠ F.ARY_HOLD_STATUS_DIE_FROZEN.key := by
  revert d
  decide

theorem mem_dieList : d ∈ dieList := by
  revert d
  decide

theorem emState_frozenShown : emState (frozenShown s d) = emState s :=
  (getF_setFBit_other (setF (onDie s d frozenDie) _ _) (by decide) _ _).trans
    (getF_setF_other (onDie s d frozenDie) (frozenStep_key d).1.symm _)

theorem frozenShown_frozenStep : getF (frozenShown s d) (F.ARY_FROZEN_STEP_SIGMA d) = s.dies[d].sigma % 2 ^ 32 := by
  have hdie : (onDie s d frozenDie).dies[d] = frozenDie s.dies[d] := onDie_die s d _
  refine (getF_setFBit_other _ (frozenStep_key d).2 _ _).trans ((getF_setF_same _ _ _).trans ?_)
  rw [hdie]
  rfl

theorem frozenShown_dieFrozen : (getF (frozenShown s d) F.ARY_HOLD_STATUS_DIE_FROZEN).testBit d = true := by
  have hset := getF_setFBit_testBit (setF (onDie s d frozenDie) (F.ARY_FROZEN_STEP_SIGMA d) (onDie s d frozenDie).dies[d].sigma)
    F.ARY_HOLD_STATUS_DIE_FROZEN d d true d.isLt
  rw [if_pos rfl] at hset
  exact hset

theorem anyFrozen_frozenShown : anyFrozen (frozenShown s d) = true :=
  List.any_eq_true.2 ⟨d, mem_dieList d, congrArg Die.frozen (onDie_die s d frozenDie)⟩

variable {s d}

/-- What the registers show of a die that freezes in a machine that executes. -/
theorem freezeDie_shows (hexec : executing s = true) :
    getF (freezeDie s d) (F.ARY_FROZEN_STEP_SIGMA d) = s.dies[d].sigma % 2 ^ 32 ∧
      (getF (freezeDie s d) F.ARY_HOLD_STATUS_DIE_FROZEN).testBit d = true ∧ emState (freezeDie s d) = 3 := by
  have hstate : emState (freezeNoted (frozenShown s d)) = emState s :=
    (AwayFromHolds.freezeNoted _ (by decide)).trans (emState_frozenShown s d)
  have hany : anyFrozen (freezeNoted (frozenShown s d)) = true := by
    rw [anyFrozen, freezeNoted_dies]
    exact anyFrozen_frozenShown s d
  rw [freezeDie_eq]
  refine ⟨?_, ?_, emState_showHeld _ (by rwa [executing, hstate]) hany⟩
  · rw [getF_showHeld_other _ (frozenStep_key d).1, (awayFromHolds_frozenStep d).freezeNoted, frozenShown_frozenStep]
  · rw [getF_showHeld_other _ (by decide), AwayFromHolds.freezeNoted _ (by decide), frozenShown_dieFrozen]

/-- An order that reaches a running die while another one is frozen freezes it where it stands (R127). -/
theorem exec_freezeOrder_running (hexec : executing s = true) (hrun : s.dies[d].frozen = false) (hany : anyFrozen s = true) :
    exec (.freezeOrder d) s = .next (freezeHere s d) := by
  show execFreezeOrder d s = _
  rw [execFreezeOrder, orderFreeze, hexec, hrun, hany]
  rfl

theorem exec_freezeOrder_frozen (hfrozen : s.dies[d].frozen = true) : exec (.freezeOrder d) s = .next s := by
  show execFreezeOrder d s = _
  rw [execFreezeOrder, orderFreeze, hfrozen]
  simp

theorem freezeHere_dies : (freezeHere s d).dies = (onDie s d frozenDie).dies := by
  rw [freezeHere, userTakes_dies, foldl_dies raiseSource_dies, freezeDie_dies]

theorem AwayFromHolds.freezeHere {f : Fld} (hf : AwayFromHolds f) : getF (freezeHere s d) f = getF (freezeDie s d) f := by
  rw [Machine.freezeHere, hf.userTakes, hf.raiseSources]

end

/-! #### The decision of a boundary hold -/

theorem chooseIn_kept (s : State) (c : Nat) (p : PortDef) : (chooseIn s c p).dies = s.dies ∧
    (chooseIn s c p).regs = s.regs ∧ (chooseIn s c p).chn.inDecided = s.chn.inDecided := by
  unfold chooseIn
  split
  · split <;> exact ⟨rfl, rfl, rfl⟩
  · split <;> exact ⟨rfl, rfl, rfl⟩

theorem foldl_chooseIn_kept (c : Nat) (ps : List PortDef) (s : State) :
    let t := ps.foldl (fun t p => chooseIn t c p) s
    t.dies = s.dies ∧ t.regs = s.regs ∧ t.chn.inDecided = s.chn.inDecided := by
  induction ps generalizing s with
  | nil => exact ⟨rfl, rfl, rfl⟩
  | cons p ps ih =>
    obtain ⟨hdies, hregs, hdecided⟩ := ih (chooseIn s c p)
    obtain ⟨hdies', hregs', hdecided'⟩ := chooseIn_kept s c p
    exact ⟨hdies.trans hdies', hregs.trans hregs', hdecided.trans hdecided'⟩

section
variable (s : State) (h : BoundaryHold) (c : Nat)

theorem noteDecision_kept : (noteDecision s h c).dies = s.dies ∧ (noteDecision s h c).regs = s.regs ∧
    decidedTo (noteDecision s h c) h = max (decidedTo s h) (c + 1) := by
  cases h
  case inEmpty =>
    obtain ⟨hdies, hregs, hdecided⟩ := foldl_chooseIn_kept (c + 1)
      ((portList s).filter (fun p => !p.out && !portIsolated s p c && !hasTaken s (c + 1) p)) s
    exact ⟨hdies, hregs, congrArg (max · (c + 1)) hdecided⟩
  all_goals exact ⟨rfl, rfl, rfl⟩

/-- What a decision announces or withdraws changes neither a die nor a register, and goes on no record. -/
theorem decide_kept : (decide_ s h c).dies = (noteDecision s h c).dies ∧ (decide_ s h c).regs = (noteDecision s h c).regs ∧
    decidedTo (decide_ s h c) h = decidedTo (noteDecision s h c) h := by
  unfold decide_
  dsimp only
  split <;> cases h <;> exact ⟨rfl, rfl, rfl⟩

variable {s h c}

/-- A cause that stands has its hold announced in place of earlier announcements of its source (R122). -/
theorem decide_announces (hh : h = .commitWait ∨ h = .hostWrite) (hcause : holdCause s h c = true) :
    let t := decide_ s h c
    t.holds.announced = s.holds.announced.filter (fun a => a.1 ≠ holdSource h) ++
      [(holdSource h, c * cycleSteps s + stepsS s + holdStep h)] ∧ t = { s with holds := t.holds } := by
  intro t
  have ht : t = announce (withdraw (noteDecision s h c) (fun a => a.1 = holdSource h)) (holdSource h)
      (c * cycleSteps s + stepsS s + holdStep h) := by
    rcases hh with rfl | rfl <;> exact if_pos hcause
  rw [ht]
  rcases hh with rfl | rfl <;> exact ⟨by simp [announce, withdraw, noteDecision], rfl⟩

/-- Where the cause does not stand, the announcement for the boundary step is withdrawn. -/
theorem decide_withdraws (hh : h = .commitWait ∨ h = .hostWrite) (hcause : holdCause s h c = false) :
    let t := decide_ s h c
    t.holds.announced = s.holds.announced.filter (fun a => a ≠ (holdSource h, c * cycleSteps s + stepsS s + holdStep h)) ∧
      t = { s with holds := t.holds } := by
  intro t
  have ht : t = withdraw (noteDecision s h c) (fun a => a.1 = holdSource h ∧
      a.2 = c * cycleSteps s + stepsS s + holdStep h) := by
    rcases hh with rfl | rfl <;> exact if_neg (by rw [Bool.not_eq_true]; exact hcause)
  rw [ht]
  rcases hh with rfl | rfl <;> exact ⟨by simp [withdraw, noteDecision, Prod.ext_iff], rfl⟩

theorem decidedTo_of_due (hdue : decisionDue s h = true) : decidedTo s h ≤ cycleOf s (sigmaMax s) := by
  simp only [decisionDue, Bool.and_eq_true, decide_eq_true_eq] at hdue
  exact hdue.2

theorem exec_boundaryHoldDecision : exec (.boundaryHoldDecision h) s =
    .next (if decisionDue s h then decide_ s h (cycleOf s (sigmaMax s)) else s) := rfl

end

/-- Settles O8, by what `decide_` does to the announcements and `freezeHere` to the die. -/
theorem boundaryHoldsAreAnnouncedAndDiesFreeze : Obligations.BoundaryHoldsAreAnnouncedAndDiesFreeze := by
  unfold Obligations.BoundaryHoldsAreAnnouncedAndDiesFreeze
  refine ⟨fun s h => ?decision, fun s d => ⟨fun hexec hrun hany => ?freezes, fun hfrozen => ?frozen⟩⟩
  case decision =>
    simp only [Answers, exec_boundaryHoldDecision]
    refine ⟨fun hdue => ⟨_, rfl, ?_⟩, fun hdue hh hcause => ⟨_, rfl, ?_⟩, fun hdue hh hcause => ⟨_, rfl, ?_⟩,
      fun hdue => ⟨_, rfl, if_neg (by simp [hdue])⟩⟩ <;> rw [if_pos hdue]
    · obtain ⟨hdies, hregs, hdecided⟩ := noteDecision_kept s h (cycleOf s (sigmaMax s))
      obtain ⟨hdies', hregs', hdecided'⟩ := decide_kept s h (cycleOf s (sigmaMax s))
      have hle := decidedTo_of_due hdue
      exact ⟨hdies'.trans hdies, hregs'.trans hregs, by omega⟩
    · exact decide_announces hh hcause
    · exact decide_withdraws hh hcause
  case freezes =>
    obtain ⟨hstep, hbit, hstate⟩ := freezeDie_shows (d := d) hexec
    refine ⟨_, exec_freezeOrder_running hexec hrun hany, ?_, fun e he => ?_, ?_, ?_, ?_⟩
    · rw [freezeHere_dies]
      exact onDie_die s d frozenDie
    · rw [freezeHere_dies]
      exact onDie_other s he frozenDie
    · rwa [(awayFromHolds_frozenStep d).freezeHere]
    · rwa [AwayFromHolds.freezeHere (by decide)]
    · exact (AwayFromHolds.freezeHere (by decide)).trans hstate
  case frozen => exact ⟨s, exec_freezeOrder_frozen hfrozen, rfl⟩

end Sys2Proof.Machine
end

section
/-! ### The ends of holds -/

namespace Sys2Proof.Machine

/-! #### The release of announced holds -/

theorem clearSource_dies (s : State) (n : Nat) : (clearSource s n).dies = s.dies := rfl

theorem sourceOn_clearSource (s : State) (m : Nat) {n : Nat} (hn : n < 12) :
    sourceOn (clearSource s m) n = if n = m then false else sourceOn s n :=
  getF_setFBit_testBit s F.ARY_HOLD_STATUS_SOURCE m n false hn

/-- `t` is `s` after sources have left force and announcements were withdrawn. -/
structure SourcesEased (s t : State) : Prop where
  frame : t = { s with regs := t.regs, holds := t.holds }
  fields : FieldsBut s t [F.ARY_HOLD_STATUS_SOURCE]

/-- The turn of source `n` in the release of announced holds (R123). -/
def easeSource (t : State) (n : Nat) : State :=
  if sourceOn t n && !causeStands t n then
    clearSource (withdraw t (fun a => a.1 = n && decide (a.2 ≤ sigmaMax t))) n
  else t

theorem SourcesEased.refl (s : State) : SourcesEased s s := ⟨rfl, fun _ _ => rfl⟩

theorem SourcesEased.ease {s t : State} (h : SourcesEased s t) (n : Nat) : SourcesEased s (easeSource t n) := by
  unfold easeSource
  split
  · refine ⟨?_, fun f hf => ?_⟩
    · rw [h.frame]
      rfl
    · rw [← h.fields f hf]
      exact getF_setFBit_other _ (hf _ (by simp)) _ _
  · exact h

theorem SourcesEased.foldl {s t : State} (h : SourcesEased s t) (ns : List Nat) :
    SourcesEased s (ns.foldl easeSource t) := by
  induction ns generalizing t with
  | nil => exact h
  | cons n ns ih => exact ih (h.ease n)

section
variable {s t : State} (h : SourcesEased s t)
include h

theorem SourcesEased.dies : t.dies = s.dies := by rw [h.frame]

theorem SourcesEased.field {f : Fld} (hf : f.key ≠ F.ARY_HOLD_STATUS_SOURCE.key) : getF t f = getF s f :=
  h.fields f (by simpa using hf)

/-- The causes of a commit wait, a host write, sparing and holdover are judged as before. -/
theorem SourcesEased.causeStands {n : Nat} (hn : n ∈ [5, 6, 8, 10]) : causeStands t n = causeStands s n := by
  have hsteps : stepsS t = stepsS s := h.field (by decide)
  have hcycle : cycleOf t = cycleOf s := by
    funext x
    rw [cycleOf, cycleSteps, hsteps, cycleOf, cycleSteps]
  have hcurrent : currentCycle t = currentCycle s := by
    rw [currentCycle, sigmaMax, h.dies, hcycle, currentCycle, sigmaMax]
  have hholdover : getB t F.CLK_REFCLK_HOLDOVER = getB s F.CLK_REFCLK_HOLDOVER := by
    rw [getB, h.field (by decide), getB]
  have hrun : t.run = s.run := by rw [h.frame]
  have hmem : t.mem = s.mem := by rw [h.frame]
  have hdesign : t.design = s.design := by rw [h.frame]
  simp only [List.mem_cons, List.not_mem_nil, or_false] at hn
  rcases hn with rfl | rfl | rfl | rfl
  · simp only [Machine.causeStands, commitWait, rejoinDue, carryMissing, hcurrent, hcycle, hrun, hmem, h.dies]
  · simp only [Machine.causeStands, hostWriteWaits, hcurrent, hdesign]
  · simp only [Machine.causeStands, hrun]
  · exact hholdover

/-- A source whose turn it is leaves force where its cause has cleared; the turn of another does nothing to it. -/
theorem SourcesEased.sourceOn_ease {n : Nat} (hn : n ∈ [5, 6, 8, 10]) (m : Nat) :
    sourceOn (easeSource t m) n = (sourceOn t n && (n != m || Machine.causeStands s n)) := by
  have hlt : n < 12 := (by decide : ∀ n ∈ [5, 6, 8, 10], n < 12) n hn
  have hclear : ∀ g, sourceOn (clearSource (withdraw t g) m) n = if n = m then false else sourceOn t n :=
    fun g => sourceOn_clearSource _ m hlt
  unfold easeSource
  by_cases hm : n = m
  · subst hm
    rw [h.causeStands hn]
    cases hon : sourceOn t n <;> cases hcause : Machine.causeStands s n <;> simp [hclear, hon]
  · split <;> simp [hclear, hm]

/-- After its turn a source is in force where it was and its cause stands. -/
theorem SourcesEased.sourceOn_foldl {n : Nat} (hn : n ∈ [5, 6, 8, 10]) (ns : List Nat) :
    sourceOn (ns.foldl easeSource t) n = (sourceOn t n && (!ns.contains n || Machine.causeStands s n)) := by
  induction ns generalizing t with
  | nil => simp
  | cons m ns ih =>
    rw [List.foldl_cons, ih (h.ease m), h.sourceOn_ease hn]
    have hmem : (m :: ns).contains n = (n == m || ns.contains n) := rfl
    rw [hmem, bne]
    cases n == m <;> cases ns.contains n <;> cases Machine.causeStands s n <;> simp

end

/-- Four step periods after the last die froze, with source 4 not in force, the other sources have their turn (R123). -/
theorem exec_announcedHoldRelease {s : State} (hfrozen : allFrozen s = true) (hsteps : 4 ≤ s.holds.frozenSteps)
    (hfour : sourceOn s 4 = false) :
    exec .announcedHoldRelease s = .next ([3, 4, 5, 6, 7, 8, 10].foldl easeSource s) := by
  show execAnnouncedHoldRelease s = _
  simp only [execAnnouncedHoldRelease, releaseAnnounced, hfrozen, hsteps, hfour, decide_true, Bool.and_self, if_true,
    Bool.false_eq_true, if_false]
  rfl

theorem exec_announcedHoldRelease_early {s : State} (hsteps : s.holds.frozenSteps < 4) :
    exec .announcedHoldRelease s = .next s := by
  show execAnnouncedHoldRelease s = _
  simp [execAnnouncedHoldRelease, releaseAnnounced, Nat.not_le.2 hsteps]

theorem easedSources_subset : [5, 6, 8, 10] ⊆ [3, 4, 5, 6, 7, 8, 10] := by decide

/-! #### Resume -/

theorem releaseDie_dies (s : State) (d : Fin 4) : (releaseDie s d).dies =
    (onDie s d (fun x => { x with frozen := false, late := [], freezeAt := none })).dies := showHeld_dies _

/-- The die as a release up to step count `m` leaves it (R131). -/
def releasedUpTo (m : Nat) (x : Die) : Die :=
  if x.frozen && decide (x.sigma ≤ m) then { x with frozen := false, late := [], freezeAt := none } else x

/-- Changes of one die after another change each die of the list by itself. -/
theorem foldl_onDie {g : State → Fin 4 → State} {f : Die → Die} (hg : ∀ t d, (g t d).dies = (onDie t d f).dies)
    {ds : List (Fin 4)} (hnodup : ds.Nodup) (s : State) (e : Fin 4) :
    (ds.foldl g s).dies[e] = if e ∈ ds then f s.dies[e] else s.dies[e] := by
  induction ds generalizing s with
  | nil => rfl
  | cons d ds ih =>
    obtain ⟨hd, hnodup⟩ := List.nodup_cons.1 hnodup
    have hdies : ∀ e : Fin 4, (g s d).dies[e] = (onDie s d f).dies[e] := fun e => by rw [hg]
    rw [List.foldl_cons, ih hnodup, hdies]
    by_cases he : e = d
    · subst he
      rw [if_neg hd, if_pos List.mem_cons_self]
      exact onDie_die s e f
    · rw [onDie_other s he]
      simp [he]

theorem resumeDone_dies (s : State) : (resumeDone s).dies = s.dies := by
  unfold resumeDone
  split <;> rfl

/-- A release of die `d` where its step count is at most `m` is a change of the die alone. -/
theorem releaseIf_dies (s : State) (m : Nat) (d : Fin 4) :
    (if s.dies[d].frozen && decide (s.dies[d].sigma ≤ m) then releaseDie s d else s).dies =
      (onDie s d (releasedUpTo m)).dies := by
  unfold onDie releasedUpTo
  split
  · exact releaseDie_dies s d
  · exact (Vector.set_getElem_self _).symm

theorem releaseUpTo_die (s : State) (m : Nat) (d : Fin 4) :
    (releaseUpTo s m).dies[d] = releasedUpTo m s.dies[d] := by
  have hfold := foldl_onDie (fun t d => releaseIf_dies t m d) (ds := dieList) (by decide) s d
  rw [if_pos (mem_dieList d)] at hfold
  rw [← hfold, releaseUpTo, resumeDone_dies]

theorem refreshLate_dies (s : State) : (refreshLate s).dies = s.dies :=
  foldl_dies (fun t n => by split <;> rfl) _ s

theorem redecide_dies (s : State) : (redecide s).dies = s.dies := by
  refine foldl_dies (fun t h => ?_) _ s
  split
  · exact (decide_kept t h _).1.trans (noteDecision_kept t h _).1
  · rfl

/-- With every die frozen the lowest frozen step count is the lowest of the device. -/
theorem frozenMin_of_allFrozen {s : State} (h : allFrozen s = true) : frozenMin s = some (sigmaMin s) := by
  have hall : dieList.filter (fun d => s.dies[d].frozen) = dieList := List.filter_eq_self.2 (List.all_eq_true.1 h)
  rw [frozenMin, hall]
  simp [dieList, sigmaMin]

theorem allFrozen_of_ready {s : State} (h : deviceReady s = true) : allFrozen s = true := by
  simp only [deviceReady, Bool.and_eq_true] at h
  obtain ⟨⟨⟨hready, -⟩, -⟩, -⟩ := h
  refine List.all_eq_true.2 fun d hd => ?_
  have hdie := List.all_eq_true.1 hready d hd
  rw [dieReady, Bool.and_eq_true] at hdie
  exact hdie.1

/-- A resume releases the dies at the lowest step count (R131). -/
theorem beginResume_die {s : State} (h : allFrozen s = true) (d : Fin 4) :
    (beginResume s).dies[d] = releasedUpTo (sigmaMin s) s.dies[d] := by
  simp only [beginResume, frozenMin_of_allFrozen h]
  rw [releaseUpTo_die, onHolds_dies, foldl_dies clearSource_dies, redecide_dies, refreshLate_dies]

theorem releasedUpTo_of_frozen {x : Die} (h : x.frozen = true) (m : Nat) :
    (releasedUpTo m x).frozen = decide (m < x.sigma) ∧ (releasedUpTo m x).sigma = x.sigma ∧
      (releasedUpTo m x).regBits = x.regBits := by
  unfold releasedUpTo
  by_cases hm : x.sigma ≤ m
  · simp [h, hm]
  · simp [h, hm, Nat.lt_of_not_le hm]

theorem exec_resume_alone {s : State} (hexec : executing s = true) (hready : deviceReady s = true) (hmulti : multi s = false)
    (hnone : s.holds.resuming = none) : exec .resume s = .next (beginResume s) := by
  show execResume s = _
  simp [execResume, hexec, hready, hmulti, hnone]

theorem exec_resume_notReady {s : State} (hready : deviceReady s = false) : exec .resume s = .next s := by
  show execResume s = _
  simp [execResume, hready]

/-! #### User holds -/

/-- A write to ARY_HOLD_CTRL clears AT_MISSED as it is written, and takes MODE (R7). -/
theorem plainWrite_holdCtrl (s : State) (v : Nat) : plainWrite s 0x70010 v =
    setF (writeField v s F.ARY_HOLD_CTRL_AT_MISSED) F.ARY_HOLD_CTRL_MODE (bitsOf v 2 1) := by
  have hfields : fieldsAt 0x70010 = [F.ARY_HOLD_CTRL_ACTIVE, F.ARY_HOLD_CTRL_PENDING, F.ARY_HOLD_CTRL_AT_MISSED,
    F.ARY_HOLD_CTRL_MODE, F.ARY_HOLD_CTRL_RELEASE, F.ARY_HOLD_CTRL_REQUEST] := rfl
  rw [plainWrite, hfields]
  rfl

theorem onlyFields_plainWrite_holdCtrl (s : State) (v : Nat) :
    OnlyFields s (plainWrite s 0x70010 v) [F.ARY_HOLD_CTRL_AT_MISSED, F.ARY_HOLD_CTRL_MODE] := by
  rw [plainWrite_holdCtrl]
  refine ⟨fun f hf => ?_, rfl⟩
  rw [getF_setF_other _ (hf _ (by simp))]
  exact getF_setF_other _ (hf _ (by simp)) _

theorem mode_plainWrite_holdCtrl (s : State) (v : Nat) :
    getF (plainWrite s 0x70010 v) F.ARY_HOLD_CTRL_MODE = b2n (v.testBit 2) := by
  have hbit := Nat.testBit_eq_decide_div_mod_eq (x := v) (i := 2)
  have hlt : bitsOf v 2 1 < 2 := Nat.mod_lt _ (by decide)
  rw [plainWrite_holdCtrl, getF_setF_same, hbit, b2n]
  simp only [bitsOf, decide_eq_true_eq, F.ARY_HOLD_CTRL_MODE] at hlt ⊢
  split <;> omega

section
variable {s : State}

/-- REQUEST in MODE 0 in an executing machine of which a die runs (R125). -/
theorem userRequest_running (hexec : executing s = true) (hheld : userHeld s = false) (hrun : allFrozen s = false)
    (hmode : getF s F.ARY_HOLD_CTRL_MODE = 0) : userRequest s =
      announce (setB (onHolds s (fun h => { h with userMode1 := false })) F.ARY_HOLD_CTRL_PENDING true) 7 (sigmaMax s + 16) := by
  have hstate : emState s ≠ 0 := by
    intro h
    simp [executing, h] at hexec
  have htarget : userTarget s = (sigmaMax s + 16, false, false) := by simp [userTarget, hmode, hrun]
  simp only [userRequest, hheld, hstate, hexec, htarget, decide_false, Bool.or_self, Bool.false_eq_true, if_false, if_true]
  exact if_neg (Bool.not_eq_true _ ▸ hrun)

/-- RELEASE with no march test under way ends the user hold, and has its announcement withdrawn while every die is frozen
(R124, R125). -/
theorem userRelease_shows (hmarch : marchHolds s = false) :
    getB (userRelease s) F.ARY_HOLD_CTRL_PENDING = false ∧ getB (userRelease s) F.ARY_HOLD_CTRL_ACTIVE = false ∧
      (userRelease s).dies = s.dies ∧ (allFrozen s = true → ∀ a ∈ (userRelease s).holds.announced, a.1 ≠ 7) := by
  obtain ⟨u, hu⟩ : ∃ u, u = onHolds (setB (setB s F.ARY_HOLD_CTRL_PENDING false) F.ARY_HOLD_CTRL_ACTIVE false)
      (fun h => { h with userAt := none }) := ⟨_, rfl⟩
  have hrelease : userRelease s = if executing u && !allFrozen u then u else withdraw u (fun a => a.1 = 7) := by
    rw [hu, userRelease, hmarch]
    rfl
  have hactive : getB u F.ARY_HOLD_CTRL_ACTIVE = false := by
    rw [hu]
    exact getB_setB_same (setB s F.ARY_HOLD_CTRL_PENDING false) F.ARY_HOLD_CTRL_ACTIVE false rfl
  have hpending : getB u F.ARY_HOLD_CTRL_PENDING = false := by
    rw [hu]
    exact (getB_setB_other (setB s F.ARY_HOLD_CTRL_PENDING false) (f := F.ARY_HOLD_CTRL_ACTIVE) (by decide) false).trans
      (getB_setB_same s F.ARY_HOLD_CTRL_PENDING false rfl)
  have hdies : u.dies = s.dies := by rw [hu]; rfl
  have hfrozen : allFrozen u = allFrozen s := by rw [allFrozen, hdies, allFrozen]
  rw [hrelease]
  split
  next hrun =>
    refine ⟨hpending, hactive, hdies, fun hall => ?_⟩
    simp [hfrozen, hall] at hrun
  next =>
    refine ⟨hpending, hactive, hdies, fun _ a ha => ?_⟩
    simpa using (List.mem_filter.1 ha).2

/-- A write to ARY_HOLD_CTRL that has REQUEST and not RELEASE requests a user hold. -/
theorem exec_request {v : Word} (hrequest : v.getLsbD 0 = true) (hrelease : v.getLsbD 1 = false) :
    exec (.request v) s = .next (userRequest (plainWrite s 0x70010 v.toNat)) := by
  rw [← BitVec.testBit_toNat] at hrequest hrelease
  show execRequest v s = _
  rw [execRequest, holdCtrlWrite, hrequest, hrelease]
  rfl

/-- A write to ARY_HOLD_CTRL that has RELEASE and not REQUEST releases the user hold. -/
theorem exec_release {v : Word} (hrequest : v.getLsbD 0 = false) (hrelease : v.getLsbD 1 = true) :
    exec (.release v) s = .next (userRelease (plainWrite s 0x70010 v.toNat)) := by
  rw [← BitVec.testBit_toNat] at hrequest hrelease
  show execRelease v s = _
  rw [execRelease, holdCtrlWrite, hrequest, hrelease]
  rfl

/-- A REQUEST in MODE 0 in an executing machine without a user hold, of which a die runs. -/
theorem request_acts {v : Word} (hexec : executing s = true) (hheld : userHeld s = false) (hrun : allFrozen s = false)
    (hrequest : v.getLsbD 0 = true) (hrelease : v.getLsbD 1 = false) (hmode : v.getLsbD 2 = false) :
    Answers (.request v) s (fun t => getB t F.ARY_HOLD_CTRL_PENDING = true ∧ getB t F.ARY_HOLD_CTRL_ACTIVE = false ∧
      t.holds.announced = s.holds.announced ++ [(7, sigmaMax s + 16)] ∧ t.dies = s.dies) := by
  obtain ⟨u, hu⟩ : ∃ u, u = plainWrite s 0x70010 v.toNat := ⟨_, rfl⟩
  have honly : OnlyFields s u [F.ARY_HOLD_CTRL_AT_MISSED, F.ARY_HOLD_CTRL_MODE] :=
    hu ▸ onlyFields_plainWrite_holdCtrl s v.toNat
  obtain ⟨hfields, hframe⟩ := honly
  have hdies : u.dies = s.dies := by rw [hframe]
  have hholds : u.holds = s.holds := by rw [hframe]
  have hexec' : executing u = true := by rwa [executing, emState, hfields _ (by decide)]
  have hpending : getB u F.ARY_HOLD_CTRL_PENDING = getB s F.ARY_HOLD_CTRL_PENDING := by
    rw [getB, hfields _ (by decide), getB]
  have hactive : getB u F.ARY_HOLD_CTRL_ACTIVE = getB s F.ARY_HOLD_CTRL_ACTIVE := by
    rw [getB, hfields _ (by decide), getB]
  have hheld' : userHeld u = false := by rwa [userHeld, hpending, hactive]
  have hrun' : allFrozen u = false := by rwa [allFrozen, hdies]
  have hmode' : getF u F.ARY_HOLD_CTRL_MODE = 0 := by
    rw [hu, mode_plainWrite_holdCtrl, BitVec.testBit_toNat, hmode]
    rfl
  obtain ⟨w, hw⟩ : ∃ w, w = onHolds u (fun h => { h with userMode1 := false }) := ⟨_, rfl⟩
  have hrequested := userRequest_running hexec' hheld' hrun' hmode'
  rw [← hw] at hrequested
  have hwritten := (hu ▸ exec_request hrequest hrelease : exec (.request v) s = .next (userRequest u))
  rw [hrequested] at hwritten
  refine ⟨_, hwritten, getB_setB_same w F.ARY_HOLD_CTRL_PENDING true rfl, ?_, ?_, ?_⟩
  · rw [userHeld, Bool.or_eq_false_iff] at hheld
    refine (getB_setB_other w (f := F.ARY_HOLD_CTRL_PENDING) (g := F.ARY_HOLD_CTRL_ACTIVE) (by decide) true).trans ?_
    rw [hw, getB_onHolds, hactive, hheld.2]
  · rw [hw]
    show u.holds.announced ++ [(7, sigmaMax u + 16)] = _
    rw [hholds, sigmaMax, hdies, sigmaMax]
  · rw [hw]
    exact hdies

/-- A RELEASE with no march test under way. -/
theorem release_acts {v : Word} (hmarch : marchHolds s = false) (hrequest : v.getLsbD 0 = false)
    (hrelease : v.getLsbD 1 = true) : Answers (.release v) s (fun t =>
      getB t F.ARY_HOLD_CTRL_PENDING = false ∧ getB t F.ARY_HOLD_CTRL_ACTIVE = false ∧
        t.dies = s.dies ∧ (allFrozen s = true → ∀ a ∈ t.holds.announced, a.1 ≠ 7)) := by
  obtain ⟨u, hu⟩ : ∃ u, u = plainWrite s 0x70010 v.toNat := ⟨_, rfl⟩
  obtain ⟨-, hframe⟩ : OnlyFields s u [F.ARY_HOLD_CTRL_AT_MISSED, F.ARY_HOLD_CTRL_MODE] :=
    hu ▸ onlyFields_plainWrite_holdCtrl s v.toNat
  have hdies : u.dies = s.dies := by rw [hframe]
  have hmarch' : marchHolds u = false := by
    rw [hframe]
    exact hmarch
  obtain ⟨hpending, hactive, hdies', hannounced⟩ := userRelease_shows hmarch'
  refine ⟨_, exec_release hrequest hrelease, ?_⟩
  rw [← hu]
  refine ⟨hpending, hactive, hdies'.trans hdies, fun hall => hannounced ?_⟩
  rwa [allFrozen, hdies]

end

/-- Settles O9: the sources have their turns, `beginResume` releases the dies, and ARY_HOLD_CTRL is written before REQUEST or
RELEASE acts. -/
theorem holdsEndAndDiesResume : Obligations.HoldsEndAndDiesResume := by
  unfold Obligations.HoldsEndAndDiesResume
  refine ⟨fun s => ⟨fun hfrozen hsteps n hn hfour hon => ?release, fun hsteps => ?early⟩,
    fun s => ⟨fun hexec hready hmulti hnone => ?resume, fun hready => ?notReady⟩,
    fun s v hstate hmarch => ⟨fun hrequest hrelease hmode hheld hrun => ?request, release_acts hmarch⟩⟩
  case release =>
    have heased := SourcesEased.refl s
    refine ⟨_, exec_announcedHoldRelease hfrozen hsteps hfour, ?_, (heased.foldl _).dies⟩
    have hturn : [3, 4, 5, 6, 7, 8, 10].contains n = true := List.contains_iff_mem.2 (easedSources_subset hn)
    rw [heased.sourceOn_foldl hn, hon, hturn]
    rfl
  case early => exact ⟨s, exec_announcedHoldRelease_early hsteps, rfl⟩
  case resume =>
    have hfrozen := allFrozen_of_ready hready
    refine ⟨_, exec_resume_alone hexec hready hmulti hnone, fun d => ?_⟩
    rw [beginResume_die hfrozen]
    exact releasedUpTo_of_frozen (List.all_eq_true.1 hfrozen d (mem_dieList d)) _
  case notReady => exact ⟨s, exec_resume_notReady hready, rfl⟩
  case request =>
    have hexec : executing s = true := by
      rcases hstate with h | h <;> rw [executing, h] <;> rfl
    exact request_acts hexec hheld hrun hrequest hrelease hmode

end Sys2Proof.Machine
end

section
/-! ### The halt for a Schedule Fault, which restores the boundary too -/

namespace Sys2Proof.Machine

/-- The machine of `replayingWithRegion` with a Schedule Fault of cycle 1 to resolve, and no replay. -/
def haltingWithRegion : State :=
  { replayingWithRegion with
    run := { replayingWithRegion.run with replay := none, sfaults := [⟨0x0B, 0, 0, 0, 0x40, 76, 1, 0⟩] } }

/-- The halt leaves the dies at step 14, that is at cycle 1 with S = 2, where the schedule has 76 steps to a cycle. -/
theorem scheduleFaultHalt_haltingWithRegion : cycleSteps haltingWithRegion = 76 ∧
    ∃ t, exec .scheduleFaultHalt haltingWithRegion = .next t ∧ t.dies[0].sigma = 14 :=
  ⟨by decide +kernel, _, rfl, by decide +kernel⟩

/-- Refutes O10: in `haltingWithRegion` the halt takes back the rejoin of region 0xFF01, whose STATE overwrites S, before it
places the dies; they stand at step 14, and the last committed boundary is at step 76. -/
theorem not_scheduleFaultsHaltTheMachine : ¬ Obligations.ScheduleFaultsHaltTheMachine := by
  unfold Obligations.ScheduleFaultsHaltTheMachine
  intro h
  obtain ⟨-, hhalts⟩ := h
  obtain ⟨hhalt, -⟩ := hhalts haltingWithRegion (by decide +kernel) (List.cons_ne_nil _ _) (by decide +kernel)
  obtain ⟨t, hexec, -, -, -, ht⟩ := hhalt (by decide +kernel)
  obtain ⟨hsteps, t', hexec', ht'⟩ := scheduleFaultHalt_haltingWithRegion
  obtain rfl := Host.Outcome.next.inj (hexec.symm.trans hexec')
  obtain ⟨hsigma, -⟩ := ht 0
  rw [hsteps] at hsigma
  exact absurd (ht'.symm.trans hsigma) (by decide)

end Sys2Proof.Machine
end

section
/-! ### Hold accounting -/

namespace Sys2Proof.Machine

/-! #### CLEAR -/

/-- The three counts of a source (R143). -/
def sourceCounts (n : Nat) : List Fld := [F.ARY_SRC_NS_LO_COUNT n, F.ARY_SRC_NS_HI_COUNT n, F.ARY_SRC_EPISODES_COUNT n]

/-- The counts of the device, the skew and the events (R143, R144). -/
def deviceCounts : List Fld := [F.ARY_HELD_NS_LO_COUNT, F.ARY_HELD_NS_HI_COUNT, F.ARY_EXEC_STEPS_LO_COUNT,
  F.ARY_EXEC_STEPS_HI_COUNT, F.ARY_SKEW_MAX_MACHINE, F.ARY_SKEW_MAX_DEVICE, F.ARY_HOLD_EVENTS_SEEN]

/-- The state with every field of a list at 0. -/
def zeroed (s : State) (fs : List Fld) : State := fs.foldl (fun t f => setF t f 0) s

theorem zeroed_append (s : State) (fs gs : List Fld) : zeroed s (fs ++ gs) = zeroed (zeroed s fs) gs := List.foldl_append

theorem onlyFields_zeroed (fs : List Fld) (s : State) : OnlyFields s (zeroed s fs) fs := by
  induction fs generalizing s with
  | nil => exact ⟨fun _ _ => rfl, rfl⟩
  | cons f fs ih =>
    obtain ⟨hfields, hframe⟩ := ih (setF s f 0)
    refine ⟨fun g hg => ?_, hframe⟩
    rw [zeroed, List.foldl_cons, ← zeroed, hfields g fun x hx => hg x (List.mem_cons_of_mem _ hx)]
    exact getF_setF_other s (hg f List.mem_cons_self) 0

/-- A field of the list reads 0 afterwards, where no other field of the list has its place. -/
theorem getF_zeroed {fs : List Fld} {f : Fld} (hf : f ∈ fs) (hfs : ∀ g ∈ fs, g.key = f.key → g = f) (s : State) :
    getF (zeroed s fs) f = 0 := by
  induction fs generalizing s with
  | nil => cases hf
  | cons g fs ih =>
    have hfs' : ∀ x ∈ fs, x.key = f.key → x = f := fun x hx => hfs x (List.mem_cons_of_mem _ hx)
    by_cases hmem : f ∈ fs
    · exact ih hmem hfs' _
    · obtain rfl : f = g := (List.mem_cons.1 hf).resolve_right hmem
      obtain ⟨hfields, -⟩ := onlyFields_zeroed fs (setF s f 0)
      have hother : ∀ x ∈ fs, f.key ≠ x.key := fun x hx hkey => hmem (hfs' x hx hkey.symm ▸ hx)
      exact (hfields f hother).trans (by simp)

/-- Every field that CLEAR zeroes. -/
def clearedCounts : List Fld := (List.range 12).flatMap sourceCounts ++ deviceCounts

/-- No two of them have one place. -/
theorem clearedCounts_key : ∀ f ∈ clearedCounts, ∀ g ∈ clearedCounts, g.key = f.key → g = f := by decide +kernel

/-- CLEAR zeroes the counts (R144). -/
theorem exec_clear (s : State) {v : Word} (hclear : v.getLsbD 0 = true) :
    exec (.clear v) s = .next (zeroed s clearedCounts) := by
  rw [← BitVec.testBit_toNat] at hclear
  show execClear v s = _
  rw [execClear, countCtrlWrite, if_pos hclear, clearedCounts, zeroed_append]
  rfl

theorem getF_cleared (s : State) {f : Fld} (hf : f ∈ clearedCounts) : getF (zeroed s clearedCounts) f = 0 :=
  getF_zeroed hf (clearedCounts_key f hf) s

theorem sourceCounts_subset (n : Fin 12) : sourceCounts n ⊆ clearedCounts := by
  revert n
  decide +kernel

theorem deviceCounts_subset : deviceCounts ⊆ clearedCounts := List.subset_append_right _ _

/-! #### Captured halves -/

/-- A read of a _LO register has the _HI half wait. -/
theorem capHi_countLoRead (s : State) (k a : Nat) :
    (countLoRead s k a).2.capHi.get none ((a + 4) * 16 + k) = some (plainReg s (a + 4)) :=
  SMap.get_set_same none s.capHi ((a + 4) * 16 + k) (some (plainReg s (a + 4)))

/-- A read of a register of the array (R9). -/
theorem regRead_array (s : State) (path : Nat) {a : Nat} (ha : a / 0x10000 = 7) : regRead s path a = readAry s a := by
  have hopen : regIsolated s a = false := by simp [regIsolated, gateOfReg, ha]
  simp only [regRead, hopen, ha, Bool.false_eq_true, if_false]

section
variable {s : State} {path : RegPath} {addr : BitVec 20}

theorem exec_countLoRead (hlo : isCountLo addr.toNat = true) : exec (.countLoRead path addr) s =
    .next (emit (countLoRead s anyPath addr.toNat).2 (.readValue (pathCode path) (plainReg s addr.toNat))) := by
  show execCountLoRead path addr s = _
  simp only [execCountLoRead, hlo, if_true]
  rfl

/-- The _HI register stands 4 above its _LO register. -/
theorem countHi_of_countLo (hlo : isCountLo addr.toNat = true) : (addr + 4).toNat = addr.toNat + 4 ∧
    isCountLo (addr.toNat + 4) = false ∧ isCountHi (addr.toNat + 4) = true ∧ (addr.toNat + 4) % 4 = 0 ∧
      (addr.toNat + 4) / 0x10000 = 7 := by
  have hadd : (addr + 4).toNat = (addr.toNat + 4) % 2 ^ 20 := rfl
  simp only [isCountLo, isCountHi, Bool.or_eq_true, Bool.and_eq_true, decide_eq_true_eq, Bool.or_eq_false_iff,
    Bool.and_eq_false_iff, decide_eq_false_iff_not] at hlo ⊢
  omega

/-- A read of four bytes at a multiple of 4 is one of a whole register on every path (R6, R301). -/
theorem regWay_whole {a : Nat} (ha : a % 4 = 0) : regWay path a 0x0F 4 = .whole := by
  have hspans : spansRegs a 4 = false := by simp [spansRegs, ha]
  have henabled : allEnabled 0x0F 4 = true := by decide
  unfold regWay
  split
  · exact if_pos ⟨rfl, ha⟩
  · cases path <;> simp [ha, hspans, henabled]

/-- A read of a _HI register takes the half that waits for it (R144). -/
theorem exec_readHi {x : Nat} (hlo : isCountLo addr.toNat = true)
    (hx : s.capHi.get none ((addr.toNat + 4) * 16 + anyPath) = some x) : exec (.registerRead path (addr + 4) 0x0F 4) s =
      .next (emit { s with capHi := s.capHi.set none ((addr.toNat + 4) * 16 + anyPath) none }
        (.readValue (pathCode path) x)) := by
  obtain ⟨hadd, hnot, hhi, hfour, hblock⟩ := countHi_of_countLo hlo
  have hway : regWay path (addr.toNat + 4) (0x0F : BitVec 8).toNat 4 = .whole := regWay_whole hfour
  have hread : countHiRead s anyPath (addr.toNat + 4) =
      (x, { s with capHi := s.capHi.set none ((addr.toNat + 4) * 16 + anyPath) none }) := by
    rw [countHiRead, hx]
  show execRegisterRead path (addr + 4) 0x0F 4 s = _
  rw [execRegisterRead, hadd, hway]
  simp only [answerRead, regRead_array s _ hblock, readAry, hnot, hhi, hread, if_true, Bool.false_eq_true, if_false]

end

/-- Settles O11, by the list of the fields that CLEAR zeroes and by what a read does to the captured halves. -/
theorem holdCountsAreClearedAndCaptured : Obligations.HoldCountsAreClearedAndCaptured := by
  unfold Obligations.HoldCountsAreClearedAndCaptured
  refine fun s => ⟨fun v hclear => ⟨_, exec_clear s hclear, fun n => ?source, ?device⟩, fun path addr hlo => ?lo,
    fun path addr x hlo hx => ⟨_, exec_readHi hlo hx, rfl, rfl, SMap.get_set_same none s.capHi _ none⟩⟩
  case source =>
    have hzero := fun f (hf : f ∈ sourceCounts n) => getF_cleared s (sourceCounts_subset n hf)
    exact ⟨hzero _ (by simp [sourceCounts]), hzero _ (by simp [sourceCounts]), hzero _ (by simp [sourceCounts])⟩
  case device =>
    have hzero := fun f (hf : f ∈ deviceCounts) => getF_cleared s (deviceCounts_subset hf)
    obtain ⟨hfields, hframe⟩ := onlyFields_zeroed clearedCounts s
    refine ⟨hzero _ ?_, hzero _ ?_, hzero _ ?_, hzero _ ?_, hzero _ ?_, hzero _ ?_, hzero _ ?_,
      fun f hf => hfields f fun g hg => hf g ?_, hframe⟩
    case refine_8 => exact List.mem_append.2 (List.mem_append.1 hg).symm
    all_goals simp [deviceCounts]
  case lo => exact ⟨_, exec_countLoRead hlo, rfl, capHi_countLoRead s _ _, rfl⟩

end Sys2Proof.Machine
end

section
/-! ### The canonical form of the stores -/

namespace Sys2Proof.Machine

/-- `Canonical` says of a state what `StoresOk` says of its stores. -/
theorem canonical_iff_storesOk (s : State) :
    Canonical s ↔ StoresOk s.regs s.tileBytes s.mem.tram s.mem.exr s.mem.hbm s.ctl.scratch :=
  ⟨fun h => ⟨h.regs, h.tileBytes, h.tram, h.exr, h.hbm, h.scratch⟩,
    fun h => ⟨h.regs, h.tiles, h.tram, h.exr, h.hbm, h.scratch⟩⟩

/-- Settles O57: the stores are part of `Keeps`, which `step_keeps` gives of every step; taking the front command off the
queue leaves them as they are. -/
theorem everyStepKeepsTheCanonicalForm : Obligations.EveryStepKeepsTheCanonicalForm := by
  unfold Obligations.EveryStepKeepsTheCanonicalForm
  intro s t hstep hs
  have hkeeps : Keeps { s with pending := s.pending.tail } t := step_keeps.keeps t hstep
  exact (canonical_iff_storesOk t).2 (hkeeps.stores ((canonical_iff_storesOk s).1 hs))

end Sys2Proof.Machine
end

section
/-! ### Memory ports -/

namespace Sys2Proof.Machine

/-- What a memory port does that meets nothing amiss: it writes what `g` holds. -/
def portDone (p m : Nat) (g : Stage) : UnitOut := { UnitOut.idle with stage := { g with done := [portKey p m] } }

section
variable {s : State} {d : Fin 4} {p m n op w : Nat} {vs : List Bool}

/-- An enabled port whose binding and schedule word read clean executes the word as it is stored (R179, R182). -/
theorem portFetch_clean (hen : (portBinding s d p m).en = true) (hbinding : eccOf s.dies[d] 5 p (0x4000 + m) = .clean)
    (hword : eccOf s.dies[d] 5 p (m * 1024 + stepOf s s.dies[d].sigma) = .clean) :
    let w := schedWord s d p m (stepOf s s.dies[d].sigma)
    portFetch s d p m = some (if 4 < bitsOf w 29 3 then 0 else bitsOf w 29 3, w, .clean) := by
  simp [portFetch, hen, hbinding, hword, -Fin.getElem_fin]

theorem portIs_of_fetch {e : Ecc} (hfetch : portFetch s d p m = some (op, w, e)) : portIs s d p m op = true := by
  simp [portIs, hfetch]

/-- The operand bits of a gather that lie in the operand space are looked up as they stand (R183, R184). -/
theorem map_useRead_gatherUses (hlen : vs.length = (if op = 1 then bitsOf w 0 5 else bitsOf w 2 5) + 1)
    (hspace : bitsOf w 11 13 + vs.length ≤ 0x2000)
    (hread : ∀ i (h : i < vs.length), readOpnd s d p n (bitsOf w 11 13 + i) = cleanOpnd vs[i]) :
    (gatherUses op w).map (useRead s d p n) = vs.map cleanOpnd := by
  refine List.ext_getElem (by simp [gatherUses, hlen]) fun i _ hi => ?_
  have hi : i < vs.length := by simpa using hi
  simp [gatherUses, useRead_of_le (u := ⟨0, _, bitsOf w 11 13 + i⟩) (s := s) (by simp only; omega), hread i hi]

/-- A gather whose operands read clean writes their values into its register (R183). -/
theorem portOut_gather (hfetch : portFetch s d p m = some (op, w, .clean)) (hop : op = 1 ∨ op = 2)
    (hread : (gatherUses op w).map (useRead s d p (bitsOf w 24 5)) = vs.map cleanOpnd) :
    portOut s d p m = portDone p m (if op = 1
      then { Stage.empty with
        addrs := [(p * 16 + m, gatherInto 40 (s.dies[d].portAddr.get 0 (p * 16 + m)) (bitsOf w 5 6) vs)] }
      else { Stage.empty with
        datas := [(p * 16 + m, gatherInto 512 (s.dies[d].portData.get 0 (p * 16 + m)) (32 * bitsOf w 7 4) vs)] }) := by
  simp only [portOut, hfetch, if_pos hop, hread, reservedFault_clean hread, staleFault_clean hread, lateOpnds_clean hread,
    readNotes, opndFaults_clean, opndCorrected_clean, anyMismatch_clean, map_value_clean]
  rcases hop with rfl | rfl <;> simp [portDone, dualFault, UnitOut.idle]

/-- The bits of the granule that the address register selects lie in the port's target (R186, R187). -/
def GranuleInTarget (s : State) (d : Fin 4) (p m w : Nat) : Prop :=
  let g := granule (bitsOf w 11 9 + 1)
  let pb := portBinding s d p m
  s.dies[d].portAddr.get 0 (p * 16 + m) * g + g - 1 < targetBits s pb.target pb.window

/-- A READ of a granule that lies in its target is issued for that granule (R188). -/
theorem portOut_read (hfetch : portFetch s d p m = some (3, w, .clean)) (hin : GranuleInTarget s d p m w) :
    let pb := portBinding s d p m
    portOut s d p m = portDone p m { Stage.empty with reads := [⟨0, d, p, m, pb.target, pb.window,
      s.dies[d].portAddr.get 0 (p * 16 + m) * granule (bitsOf w 11 9 + 1), bitsOf w 11 9 + 1, pb.cluster, bitsOf w 20 9,
      s.dies[d].sigma, s.dies[d].cycle, 0, none, false⟩] } := by
  simp [portOut, hfetch, if_neg (Nat.not_le.2 hin), portDone, UnitOut.idle, -Fin.getElem_fin]

/-- A WRITE of a granule that lies in its target is issued for that granule (R190). -/
theorem portOut_write (hfetch : portFetch s d p m = some (4, w, .clean)) (hin : GranuleInTarget s d p m w) :
    let pb := portBinding s d p m
    portOut s d p m = portDone p m { Stage.empty with writes := [⟨d, p, m, pb.target, pb.window,
      s.dies[d].portAddr.get 0 (p * 16 + m) * granule (bitsOf w 11 9 + 1), bitsOf w 11 9 + 1,
      s.dies[d].portData.get 0 (p * 16 + m) % 2 ^ (bitsOf w 11 9 + 1), s.dies[d].sigma, s.dies[d].cycle, false⟩] } := by
  simp [portOut, hfetch, if_neg (Nat.not_le.2 hin), portDone, UnitOut.idle, -Fin.getElem_fin]

/-- A NOP writes nothing (R182). -/
theorem portOut_nop (hfetch : portFetch s d p m = some (0, w, .clean)) : portOut s d p m = portDone p m Stage.empty := by
  simp [portOut, hfetch, portDone, UnitOut.idle]

/-- A port that is ready, and whose word has the operation commanded, stages what it writes. -/
theorem runUnit_portDone {e : Ecc} {g : Stage} (hready : UnitReady s d p (portKey p m))
    (hfetch : portFetch s d p m = some (op, w, e)) (hout : portOut s d p m = portDone p m g) :
    Staged s (runUnit s d p (portKey p m) (portIs s d p m op) (portOut s d p m)) d { g with done := [portKey p m] } := by
  rw [runUnit_ready hready (portIs_of_fetch hfetch), hout]
  exact takeOut_clean rfl rfl rfl

end

/-- Settles O3, by what a memory port does for each OP when its words and what it gathers read clean. -/
theorem memoryPortStagesItsOperation : Obligations.MemoryPortStagesItsOperation := by
  unfold Obligations.MemoryPortStagesItsOperation
  intro s d p m vs x t w pb mark a g hready hen hbinding hword
  have hfetch := portFetch_clean hen hbinding hword
  have hfetched (op : Nat) (hop : bitsOf w 29 3 = op) (hle : op ≤ 4) : portFetch s d p m = some (op, w, .clean) := by
    rw [hfetch, if_neg (hop ▸ Nat.not_lt.2 hle), hop]
  refine ⟨fun hop hlen hspace hread => ?gatherAddr, fun hop hlen hspace hread => ?gatherData, fun hop hin => ?read,
    fun hop hin => ?write, fun hop => ?nop⟩
  case gatherAddr =>
    have hf := hfetched 1 hop (by decide)
    exact ⟨_, rfl, runUnit_portDone hready hf (portOut_gather hf (.inl rfl) (map_useRead_gatherUses hlen hspace hread))⟩
  case gatherData =>
    have hf := hfetched 2 hop (by decide)
    exact ⟨_, rfl, runUnit_portDone hready hf (portOut_gather hf (.inr rfl) (map_useRead_gatherUses hlen hspace hread))⟩
  case read =>
    have hf := hfetched 3 hop (by decide)
    exact ⟨_, rfl, runUnit_portDone hready hf (portOut_read hf hin)⟩
  case write =>
    have hf := hfetched 4 hop (by decide)
    exact ⟨_, rfl, runUnit_portDone hready hf (portOut_write hf hin)⟩
  case nop =>
    have hf : portFetch s d p m = some (0, w, .clean) := by
      rcases hop with hop | hop
      · exact hfetched 0 hop (by decide)
      · rw [hfetch, if_pos hop]
    exact ⟨_, rfl, runUnit_portDone hready hf (portOut_nop hf)⟩

end Sys2Proof.Machine
end

section
/-! ### Returns of READs -/

namespace Sys2Proof.Machine

/-- In `t` the return `r` has reached the memory-read bits that still record its READ, the READ is in flight no more, and
the dies but its own and the memories are as in `s` (R189, R199). -/
structure ReturnTaken (s t : State) (r : MRead) : Prop where
  bits : t.dies[Fin.ofNat 4 r.die].mrd = applyReturn r s.dies[Fin.ofNat 4 r.die].mrd
  others : DiesBut s t (Fin.ofNat 4 r.die)
  taken : ∀ q ∈ t.mem.reads, q.rid ≠ r.rid
  tram : t.mem.tram = s.mem.tram
  exr : t.mem.exr = s.mem.exr
  hbm : t.mem.hbm = s.mem.hbm

/-- The die with the return in the memory-read bits that still record its READ. -/
def withReturn (r : MRead) (x : Die) : Die := { x with mrd := applyReturn r x.mrd }

section
variable (s : State) (r : MRead)

theorem deliverReturn_dies : (deliverReturn s r).dies = (onDie s (Fin.ofNat 4 r.die) (withReturn r)).dies := rfl

theorem returnTaken_deliverReturn : ReturnTaken s (deliverReturn s r) r where
  bits := by
    rw [deliverReturn_dies]
    exact congrArg Die.mrd (onDie_die s _ _)
  others := by
    unfold DiesBut
    rw [deliverReturn_dies]
    exact diesBut_onDie s _ _
  taken := fun _ hq => of_decide_eq_true (List.mem_filter.1 hq).2
  tram := rfl
  exr := rfl
  hbm := rfl

variable {s r}

/-- Where the log has room, the return of a READ whose bits no commit has fixed has the bits that the target and the WRITEs
before the READ give (R192, R199). -/
theorem returnTaken_takeReturn (hroom : logRoom s = true) (hdata : r.data = none) :
    ReturnTaken s (takeReturn s r) { r with data := some (readBits s r) } := by
  simp only [takeReturn, hdata, Option.getD_none]
  generalize ({ r with data := some (readBits s r) } : MRead) = q
  have hroom' : logRoom (bumpF s F.ARY_MEM_STALLS_SPILL 1) = true := hroom
  split
  · rw [hroom', Bool.true_or, if_pos rfl]
    obtain ⟨hbits, hothers, htaken, htram, hexr, hhbm⟩ := returnTaken_deliverReturn (bumpF s F.ARY_MEM_STALLS_SPILL 1) q
    exact ⟨hbits, hothers, htaken, htram, hexr, hhbm⟩
  · rw [hroom, Bool.true_or, if_pos rfl]
    exact returnTaken_deliverReturn s q

/-- A word of tile RAM or of the exchange RAM that reads clean shows nothing on a return (R202, R468). -/
theorem accessReturn_clean (htarget : r.target = 0 ∨ r.target = 2) :
    accessReturn s r .clean = takeReturn s { r with bad := false } := by
  rcases htarget with h | h <;> simp [accessReturn, returnEcc, h]

/-- The return of a READ of tile RAM or of the exchange RAM that waits for nothing more is taken: from the log as the log
shows it, or from the target with no uncorrectable word (R194, R199, R200). -/
theorem exec_memoryReturn_due {rid : Nat} (hfind : s.mem.reads.find? (fun q => q.rid = rid) = some r)
    (hstalled : s.mem.stalled.contains rid = false) (hdue : r.target = 0 ∧ 6 ≤ r.age ∨ r.target = 2)
    (hissued : writesIssued s r = true) :
    ∃ bad, exec (.memoryReturn rid ⟨.clean, false⟩) s = .next (takeReturn s { r with bad := bad }) := by
  have hold : (r.target == 0 && decide (r.age < 6)) = false := by
    rcases hdue with ⟨-, hage⟩ | h
    · simp [Nat.not_lt.2 hage]
    · simp [h]
  have htarget : r.target = 0 ∨ r.target = 2 := hdue.imp_left And.left
  have hwindow : r.target ≠ 1 := by omega
  have hserved : readServed s r = true := by simp [readServed, hwindow]
  have hexec : exec (.memoryReturn rid ⟨.clean, false⟩) s =
      .next (if inLog s r then takeReturn s r else takeReturn s { r with bad := false }) := by
    show execMemoryReturn rid ⟨.clean, false⟩ s = _
    simp only [execMemoryReturn, hfind, hstalled, hold, hissued, hserved, hwindow, accessReturn_clean htarget, Bool.or_self,
      Bool.not_true, Bool.false_eq_true, if_false]
  by_cases hlog : inLog s r = true
  · exact ⟨r.bad, by rw [hexec, if_pos hlog]⟩
  · exact ⟨false, by rw [hexec, if_neg hlog]⟩

end

/-- Settles O6: the return is taken, and `takeReturn` delivers it where the log has room. -/
theorem memoryReturnReachesItsBits : Obligations.MemoryReturnReachesItsBits := by
  unfold Obligations.MemoryReturnReachesItsBits
  intro s rid r d hfind hstalled hdue hissued hdata hroom
  have hrid : r.rid = rid := by simpa using List.find?_some hfind
  obtain ⟨bad, hexec⟩ := exec_memoryReturn_due hfind hstalled hdue hissued
  obtain ⟨hbits, hothers, htaken, htram, hexr, hhbm⟩ := returnTaken_takeReturn (r := { r with bad := bad }) hroom hdata
  exact ⟨_, hexec, hbits, hothers, hrid ▸ htaken, htram, hexr, hhbm⟩

end Sys2Proof.Machine
end

section
/-! ### Port B of the exchange RAM -/

namespace Sys2Proof.Machine

/-! #### Bytes written with enables -/

section
variable (fill : Nat → Byte)

/-- A byte reads as what was written to it where its enable is set, and as before elsewhere. -/
theorem read_writeEnabled (m : Memory) (a : Nat) (bs : List (Option Byte)) (x : Nat) :
    Memory.read fill (Memory.writeEnabled fill m a bs) x =
      if a ≤ x then (bs.getD (x - a) none).getD (Memory.read fill m x) else Memory.read fill m x := by
  induction bs generalizing m a with
  | nil => simp [Memory.writeEnabled]
  | cons b bs ih =>
    obtain hlt | rfl | hgt := Nat.lt_trichotomy x a
    · have hne : x ≠ a := by omega
      cases b <;> simp [Memory.writeEnabled, ih, hne, Nat.not_le.2 hlt, Nat.not_le.2 (Nat.lt_succ_of_lt hlt)]
    · cases b <;> simp [Memory.writeEnabled, ih]
    · have hne : x ≠ a := by omega
      obtain ⟨k, rfl⟩ := Nat.exists_eq_add_of_le' hgt
      have hk : k + (a + 1) - a = k + 1 := by omega
      have hle : a ≤ k + (a + 1) := by omega
      cases b <;> simp [Memory.writeEnabled, ih, hne, hk, hle]

theorem writeEnabled_append (m : Memory) (a : Nat) (bs cs : List (Option Byte)) :
    Memory.writeEnabled fill m a (bs ++ cs) = Memory.writeEnabled fill (Memory.writeEnabled fill m a bs) (a + bs.length) cs := by
  induction bs generalizing m a with
  | nil => rfl
  | cons b bs ih => cases b <;> simp [Memory.writeEnabled, ih, Nat.add_assoc, Nat.add_comm 1]

/-- Bytes that are not enabled change nothing. -/
theorem writeEnabled_replicate_none (m : Memory) (a n : Nat) :
    Memory.writeEnabled fill m a (List.replicate n none) = m := by
  induction n generalizing a with
  | zero => rfl
  | succ n ih => exact ih (a + 1)

/-- The first `k` words of a run of bytes, each of eight bytes, written one after another. -/
theorem foldl_writeEnabled_words (m : Memory) (w : Nat) (bs : List (Option Byte)) {k : Nat}
    (hk : k ≤ (bs.length + 7) / 8) :
    ((List.range k).map (fun i => (w + i, (bs.drop (8 * i)).take 8))).foldl
        (fun m v => Memory.writeEnabled fill m (8 * v.1) v.2) m =
      Memory.writeEnabled fill m (8 * w) (bs.take (8 * k)) := by
  induction k with
  | zero => rfl
  | succ k ih =>
    have hlen : (bs.take (8 * k)).length = 8 * k := List.length_take_of_le (by omega)
    rw [List.range_succ, List.map_append, List.foldl_append, ih (by omega), Nat.mul_succ, List.take_add,
      writeEnabled_append, hlen, ← Nat.mul_add]
    rfl

/-- The bytes of an access, written word by word, are the bytes written from its address on. -/
theorem foldl_writeEnabled_wordsOf (m : Memory) (a : Nat) (bs : List (Option Byte)) :
    (wordsOf a bs).foldl (fun m v => Memory.writeEnabled fill m (8 * v.1) v.2) m = Memory.writeEnabled fill m a bs := by
  have haddr : 8 * (a / 8) + a % 8 = a := Nat.div_add_mod a 8
  rw [wordsOf, foldl_writeEnabled_words fill m _ _ (Nat.le_refl _), List.take_of_length_le (by omega),
    writeEnabled_append, writeEnabled_replicate_none, List.length_replicate, haddr]

end

/-! #### Writes -/

section
variable {s : State}

/-- Nothing but the bytes of the exchange RAM, and the words that it held before the writes of the clock, differs. -/
abbrev OnlyExr (s t : State) : Prop := t = { s with mem := { s.mem with exr := t.mem.exr, before := t.mem.before } }

/-- Words that port B writes in a clock in which port A writes nothing are stored one after another (R202, R203). -/
theorem foldl_portBWord_alone (hport : s.mem.portA = []) (ws : List (Nat × List (Option Byte))) :
    OnlyExr s (ws.foldl portBWord s) ∧
      (ws.foldl portBWord s).mem.exr = ws.foldl (fun m v => Memory.writeEnabled marchFill m (8 * v.1) v.2) s.mem.exr := by
  induction ws generalizing s with
  | nil => exact ⟨rfl, rfl⟩
  | cons w ws ih =>
    have hword : OnlyExr s (portBWord s w) ∧
        (portBWord s w).mem.exr = Memory.writeEnabled marchFill s.mem.exr (8 * w.1) w.2 := by
      simp [portBWord, hport, exrStore]
    obtain ⟨hframe, hexr⟩ := hword
    have hport' : (portBWord s w).mem.portA = [] := by rw [hframe]; exact hport
    obtain ⟨hrest, hexr'⟩ := ih hport'
    refine ⟨?_, ?_⟩
    · rw [List.foldl_cons, hrest, hframe]
    · rw [List.foldl_cons, List.foldl_cons, hexr', hexr]

/-- A word that port A writes with other data is discarded and recorded (R203). -/
theorem portBWord_collides {b c : Byte} {more : List (Option Byte)} {w : Nat}
    (hport : s.mem.portA = [(w, some c :: more)]) (hbc : b ≠ c) :
    (portBWord s (w, [some b])).mem = s.mem ∧ getB (portBWord s (w, [some b])) F.ARY_EXR_STATUS_COLLISION = true ∧
      getF (portBWord s (w, [some b])) F.ARY_EXR_COLL_ADDR_WORD = w % 2 ^ F.ARY_EXR_COLL_ADDR_WORD.width := by
  have hcollides : portBWord s (w, [some b]) = bumpF (setF (setB s F.ARY_EXR_STATUS_COLLISION true) F.ARY_EXR_COLL_ADDR_WORD w)
      F.ARY_EXR_COLL_COUNT_COUNT 1 := by
    simp [portBWord, hport, bytesDiffer, hbc]
  rw [hcollides]
  refine ⟨rfl, ?_, ?_⟩
  · rw [bumpF, getB_setF_other _ (by decide), getB_setF_other _ (by decide), getB_setB_same _ _ _ rfl]
  · rw [getF_bumpF_other _ (by decide), getF_setF_same]

end

/-! #### What the commands answer -/

section
variable (s : State) {off : BitVec 20} {path : RegPath}

/-- An access within the exchange RAM, by the host or by a core, is made (R202). -/
theorem portB_within {a n : Nat} (hpath : path ≠ .spi) (hin : a + n ≤ 0x100000) (write : Bool) (k : State → State) :
    portB s path a n write k = k s := by
  simp [portB, hpath, hin]

/-- The SPI port does not reach the exchange RAM (R593). -/
theorem portB_spi (a n : Nat) (write : Bool) (k : State → State) : portB s .spi a n write k = s := if_pos rfl

theorem exec_exchangeRamPortBWrite {bs : List (Option Byte)} (hpath : path ≠ .spi) (hin : off.toNat + bs.length ≤ 0x100000) :
    exec (.exchangeRamPortBWrite path off bs) s = .next ((wordsOf off.toNat bs).foldl portBWord s) :=
  congrArg Host.Outcome.next (portB_within s hpath hin true _)

theorem exec_exchangeRamPortBRead {n : Nat} (hpath : path ≠ .spi) (hin : off.toNat + n ≤ 0x100000) (e : Ecc) :
    exec (.exchangeRamPortBRead path off n e) s = .next (emit s (if e = .uncorrectable then .answer (pathCode path) 5
      else .readValue (pathCode path) (leNat ((List.range n).map (fun i => portBByte s (off.toNat + i)))))) := by
  refine congrArg Host.Outcome.next ((portB_within s hpath hin false _).trans ?_)
  rw [readAnswer, apply_ite (emit s)]

/-- One byte at an address of a word's first byte is an access to that word. -/
theorem wordsOf_firstByte (w : Nat) (b : Option Byte) : wordsOf (8 * w) [b] = [(w, [b])] := by
  simp [wordsOf]

end

/-- Settles O21, by what `portB` lets through and by what `portBWord` does to each word. -/
theorem exchangeRamPortBReadsAndWrites : Obligations.ExchangeRamPortBReadsAndWrites := by
  unfold Obligations.ExchangeRamPortBReadsAndWrites
  intro s off path
  refine ⟨fun bs hpath hport hin => ?write, fun w b c more hpath hoff hport hbc => ?collision,
    fun n e hpath hin => ?read, fun n e bs => ?spi⟩
  case write =>
    obtain ⟨hframe, hexr⟩ := foldl_portBWord_alone hport (wordsOf off.toNat bs)
    refine ⟨_, exec_exchangeRamPortBWrite s hpath hin, hframe, fun x => ?_⟩
    rw [hexr, foldl_writeEnabled_wordsOf, read_writeEnabled]
  case collision =>
    have hin : off.toNat + 1 ≤ 0x100000 := off.isLt
    have hwords : wordsOf off.toNat [some b] = [(w, [some b])] := by rw [hoff, wordsOf_firstByte]
    have hexec := exec_exchangeRamPortBWrite s (bs := [some b]) hpath hin
    rw [hwords] at hexec
    exact ⟨_, hexec, portBWord_collides hport hbc⟩
  case read => exact ⟨_, exec_exchangeRamPortBRead s hpath hin e, rfl⟩
  case spi =>
    exact ⟨⟨s, congrArg Host.Outcome.next (portB_spi s _ _ _ _), rfl⟩,
      ⟨s, congrArg Host.Outcome.next (portB_spi s _ _ _ _), rfl⟩⟩

end Sys2Proof.Machine
end

section
/-! ### Frames of register writes -/

namespace Sys2Proof.Machine

section
variable {s t u : State} {fs : List Fld}

theorem FieldsBut.refl (s : State) (fs : List Fld) : FieldsBut s s fs := fun _ _ => rfl

theorem FieldsBut.trans (h : FieldsBut s t fs) (h' : FieldsBut t u fs) : FieldsBut s u fs :=
  fun f hf => (h' f hf).trans (h f hf)

theorem FieldsBut.setF (h : FieldsBut s t fs) {f : Fld} (hf : f ∈ fs) (v : Nat) : FieldsBut s (setF t f v) fs :=
  fun g hg => (getF_setF_other t (hg f hf) v).trans (h g hg)

theorem FieldsBut.setFBit (h : FieldsBut s t fs) {f : Fld} (hf : f ∈ fs) (i : Nat) (b : Bool) :
    FieldsBut s (setFBit t f i b) fs := h.setF hf _

theorem FieldsBut.foldl {α : Type} {g : State → α → State} (hg : ∀ t a, FieldsBut s t fs → FieldsBut s (g t a) fs)
    (h : FieldsBut s t fs) (xs : List α) : FieldsBut s (xs.foldl g t) fs := by
  induction xs generalizing t with
  | nil => exact h
  | cons x xs ih => exact ih (hg t x h)

theorem OnlyFields.refl (s : State) (fs : List Fld) : OnlyFields s s fs := ⟨.refl s fs, rfl⟩

theorem OnlyFields.setF (h : OnlyFields s t fs) {f : Fld} (hf : f ∈ fs) (v : Nat) : OnlyFields s (setF t f v) fs := by
  obtain ⟨hfields, hframe⟩ := h
  exact ⟨hfields.setF hf v, congrArg (Machine.setF · f v) hframe⟩

theorem OnlyFields.setB (h : OnlyFields s t fs) {f : Fld} (hf : f ∈ fs) (b : Bool) : OnlyFields s (setB t f b) fs :=
  h.setF hf _

theorem OnlyFields.setFBit (h : OnlyFields s t fs) {f : Fld} (hf : f ∈ fs) (i : Nat) (b : Bool) :
    OnlyFields s (setFBit t f i b) fs := h.setF hf _

theorem OnlyFields.wrapF (h : OnlyFields s t fs) {f : Fld} (hf : f ∈ fs) (n : Nat) : OnlyFields s (wrapF t f n) fs :=
  h.setF hf _

theorem OnlyFields.foldl {α : Type} {g : State → α → State} {xs : List α}
    (hg : ∀ t, ∀ a ∈ xs, OnlyFields s t fs → OnlyFields s (g t a) fs) (h : OnlyFields s t fs) :
    OnlyFields s (xs.foldl g t) fs := by
  induction xs generalizing t with
  | nil => exact h
  | cons x xs ih =>
    exact ih (fun u a ha => hg u a (List.mem_cons_of_mem _ ha)) (hg t x List.mem_cons_self h)

theorem OnlyFields.mono {gs : List Fld} (h : OnlyFields s t fs) (hsub : fs ⊆ gs) : OnlyFields s t gs :=
  ⟨fun f hf => h.1 f fun g hg => hf g (hsub hg), h.2⟩

theorem OnlyFields.trans (h : OnlyFields s t fs) (h' : OnlyFields t u fs) : OnlyFields s u fs :=
  ⟨fun f hf => (h'.1 f hf).trans (h.1 f hf), by rw [h'.2, h.2]⟩

end

/-- One operation of a sequence brings about what those after it keep: `a` does, from what those before it keep. -/
theorem foldl_establishes {σ α : Type} {g : σ → α → σ} {P Q : σ → Prop} {a : α}
    (hbefore : ∀ t b, b ≠ a → P t → P (g t b)) (hdoes : ∀ t, P t → Q (g t a)) (hafter : ∀ t b, b ≠ a → Q t → Q (g t b))
    {xs : List α} (hmem : a ∈ xs) (hdup : xs.Nodup) {s : σ} (h : P s) : Q (xs.foldl g s) := by
  have hkeeps : ∀ ys : List α, a ∉ ys → ∀ t, Q t → Q (ys.foldl g t) := by
    intro ys hys
    induction ys with
    | nil => exact fun _ h => h
    | cons y ys ih =>
      rw [List.mem_cons, not_or] at hys
      exact fun t h => ih hys.2 _ (hafter t y (Ne.symm hys.1) h)
  induction xs generalizing s with
  | nil => cases hmem
  | cons x xs ih =>
    obtain ⟨hx, hxs⟩ := List.nodup_cons.1 hdup
    by_cases hxa : x = a
    · subst hxa
      exact hkeeps xs hx _ (hdoes s h)
    · exact ih ((List.mem_cons.1 hmem).resolve_left (Ne.symm hxa)) hxs (hbefore s x hxa h)

end Sys2Proof.Machine
end

section
/-! ### Commands of the HBM subsystem -/

namespace Sys2Proof.Machine

/-! #### Windows -/

theorem onlyFields_showDegraded (s : State) :
    OnlyFields s (showDegraded s) ((List.range 16).map F.HBM_WIN_CTRL_DEGRADED) :=
  .foldl (fun _ _ hn h => h.setB (List.mem_map_of_mem hn) _) (.refl s _)

/-- DEGRADED as its rule has it; every other field stays. -/
theorem getF_showDegraded (s : State) {f : Fld} (hf : ∀ n, f.key ≠ (F.HBM_WIN_CTRL_DEGRADED n).key) :
    getF (showDegraded s) f = getF s f := by
  refine (onlyFields_showDegraded s).1 f fun g hg => ?_
  obtain ⟨n, -, rfl⟩ := List.mem_map.1 hg
  exact hf n

/-! #### APPLY (R227) -/

/-- The fields that APPLY may write. -/
abbrev applyFields : List Fld := [F.HBM_STATUS_READY, F.HBM_STATUS_PHY_FAIL, F.HBM_STATUS_SELF_REFRESH]

/-- Stack `i` after an APPLY that tried it, with the delays that were given. -/
def Applied (i : Nat) (pass : Bool) (taps : Nat → Nat) (t : State) : Prop :=
  (getF t F.HBM_STATUS_READY).testBit i = pass ∧ (getF t F.HBM_STATUS_PHY_FAIL).testBit i = !pass ∧
    (pass = true → (getF t F.HBM_STATUS_SELF_REFRESH).testBit i = false) ∧
    ∀ e, e < 2048 → t.hbm.delays.get 0 (i * 2048 + e) = taps e

/-- The stored delays with those of stack `i` loaded; irreducible, so that no unification counts out the 2,048 entries. -/
@[irreducible] def loadDelays (m : SMap Nat) (i : Nat) (taps : Nat → Nat) : SMap Nat :=
  (List.range 2048).foldl (fun m e => m.set 0 (i * 2048 + e) (taps e)) m

theorem get_loadDelays_same (m : SMap Nat) (i : Nat) (taps : Nat → Nat) {e : Nat} (he : e < 2048) :
    (loadDelays m i taps).get 0 (i * 2048 + e) = taps e := by
  unfold loadDelays
  refine foldl_establishes (P := fun _ => True) (Q := fun m : SMap Nat => m.get 0 (i * 2048 + e) = taps e)
    (fun _ _ _ _ => trivial) (fun m _ => ?_) (fun m b hb h => ?_) (List.mem_range.2 he) List.nodup_range trivial
  · exact SMap.get_set_same 0 m _ _
  · exact (SMap.get_set_other 0 0 m (by omega) _).trans h

theorem get_loadDelays_other (m : SMap Nat) {i j : Nat} (hij : i ≠ j) (taps : Nat → Nat) {e : Nat} (he : e < 2048) :
    (loadDelays m j taps).get 0 (i * 2048 + e) = m.get 0 (i * 2048 + e) := by
  unfold loadDelays
  refine List.foldlRecOn (motive := fun n : SMap Nat => n.get 0 (i * 2048 + e) = m.get 0 (i * 2048 + e)) _ _ rfl
    fun n h b hb => ?_
  rw [List.mem_range] at hb
  exact (SMap.get_set_other 0 0 n (by omega) _).trans h

section
variable {t : State} {i : Nat}

theorem applyStack_ready {pass : Bool} (h : (getF t F.HBM_STATUS_READY).testBit i = true) : applyStack t i pass = t :=
  if_pos h

/-- The state with the delays of stack `i` loaded, and PHY_FAIL as the verify pattern has it. -/
def phyLoaded (t : State) (i : Nat) (pass : Bool) : State :=
  setFBit (onHbm t (fun h => { h with
    delays := loadDelays h.delays i (fun e => getF t (F.HBM_PHY_DATA_TAPS.bank (i * 2048 + e))) }))
    F.HBM_STATUS_PHY_FAIL i (!pass)

theorem applyStack_fails (h : (getF t F.HBM_STATUS_READY).testBit i = false) : applyStack t i false = phyLoaded t i false := by
  unfold applyStack phyLoaded loadDelays
  rw [if_neg (by rw [h]; decide)]
  rfl

theorem applyStack_passes (h : (getF t F.HBM_STATUS_READY).testBit i = false) :
    applyStack t i true = setFBit (setFBit (phyLoaded t i true) F.HBM_STATUS_READY i true) F.HBM_STATUS_SELF_REFRESH i false := by
  unfold applyStack phyLoaded loadDelays
  rw [if_neg (by rw [h]; decide)]
  rfl

theorem getF_phyLoaded {f : Fld} (hf : f.key ≠ F.HBM_STATUS_PHY_FAIL.key) (t : State) (i : Nat) (pass : Bool) :
    getF (phyLoaded t i pass) f = getF t f := getF_setFBit_other _ hf _ _

theorem testBit_phyFail_phyLoaded {k : Nat} (hk : k < 4) (t : State) (i : Nat) (pass : Bool) :
    (getF (phyLoaded t i pass) F.HBM_STATUS_PHY_FAIL).testBit k =
      if k = i then !pass else (getF t F.HBM_STATUS_PHY_FAIL).testBit k := getF_setFBit_testBit _ _ _ _ _ hk

theorem phyLoaded_delays (t : State) (i : Nat) (pass : Bool) : (phyLoaded t i pass).hbm.delays =
    loadDelays t.hbm.delays i (fun e => getF t (F.HBM_PHY_DATA_TAPS.bank (i * 2048 + e))) := by
  simp only [phyLoaded, setFBit_hbm, onHbm_hbm]

theorem fieldsBut_phyLoaded (t : State) (i : Nat) (pass : Bool) : FieldsBut t (phyLoaded t i pass) applyFields :=
  fun _ hf => getF_phyLoaded (hf _ (by simp)) t i pass

theorem fieldsBut_applyStack (t : State) (i : Nat) (pass : Bool) : FieldsBut t (applyStack t i pass) applyFields := by
  cases h : (getF t F.HBM_STATUS_READY).testBit i
  · cases pass
    · rw [applyStack_fails h]
      exact fieldsBut_phyLoaded t i false
    · rw [applyStack_passes h]
      exact ((fieldsBut_phyLoaded t i true).setFBit (by simp) _ _).setFBit (by simp) _ _
  · rw [applyStack_ready h]
    exact .refl _ _

/-- APPLY of a stack that is not READY. -/
theorem applied_applyStack (hi : i < 4) (h : (getF t F.HBM_STATUS_READY).testBit i = false) (pass : Bool) :
    Applied i pass (fun e => getF t (F.HBM_PHY_DATA_TAPS.bank (i * 2048 + e))) (applyStack t i pass) := by
  have hfail := (testBit_phyFail_phyLoaded hi t i pass).trans (if_pos rfl)
  have hdelays : ∀ e, e < 2048 → (phyLoaded t i pass).hbm.delays.get 0 (i * 2048 + e) =
      getF t (F.HBM_PHY_DATA_TAPS.bank (i * 2048 + e)) := fun e he => by
    rw [phyLoaded_delays, get_loadDelays_same _ _ _ he]
  cases pass with
  | false =>
    rw [applyStack_fails h]
    exact ⟨(congrArg (Nat.testBit · i) (getF_phyLoaded (by decide) t i false)).trans h, hfail, nofun, hdelays⟩
  | true =>
    rw [applyStack_passes h]
    refine ⟨?_, ?_, fun _ => ?_, hdelays⟩
    · rw [getF_setFBit_other _ (by decide), getF_setFBit_testBit _ _ _ _ _ hi, if_pos rfl]
    · rw [getF_setFBit_other _ (by decide), getF_setFBit_other _ (by decide), hfail]
    · rw [getF_setFBit_testBit _ _ _ _ _ hi, if_pos rfl]

/-- APPLY of another stack leaves this one's bits and delays. -/
theorem applyStack_other {j : Nat} (hi : i < 4) (hij : i ≠ j) (pass : Bool) :
    (∀ f ∈ applyFields, (getF (applyStack t j pass) f).testBit i = (getF t f).testBit i) ∧
    ∀ e, e < 2048 → (applyStack t j pass).hbm.delays.get 0 (i * 2048 + e) = t.hbm.delays.get 0 (i * 2048 + e) := by
  have hfail := (testBit_phyFail_phyLoaded hi t j pass).trans (if_neg hij)
  have hdelays : ∀ e, e < 2048 → (phyLoaded t j pass).hbm.delays.get 0 (i * 2048 + e) =
      t.hbm.delays.get 0 (i * 2048 + e) := fun e he => by
    rw [phyLoaded_delays, get_loadDelays_other _ hij _ he]
  cases hready : (getF t F.HBM_STATUS_READY).testBit j with
  | true =>
    rw [applyStack_ready hready]
    exact ⟨fun _ _ => rfl, fun _ _ => rfl⟩
  | false =>
    cases pass with
    | false =>
      rw [applyStack_fails hready]
      refine ⟨?_, hdelays⟩
      simp only [applyFields, List.forall_mem_cons, List.not_mem_nil, false_imp_iff, implies_true, and_true]
      exact ⟨by rw [getF_phyLoaded (by decide)], hfail, by rw [getF_phyLoaded (by decide)]⟩
    | true =>
      rw [applyStack_passes hready]
      refine ⟨?_, hdelays⟩
      simp only [applyFields, List.forall_mem_cons, List.not_mem_nil, false_imp_iff, implies_true, and_true]
      refine ⟨?_, ?_, ?_⟩
      · rw [getF_setFBit_other _ (by decide), getF_setFBit_testBit _ _ _ _ _ hi, if_neg hij, getF_phyLoaded (by decide)]
      · rw [getF_setFBit_other _ (by decide), getF_setFBit_other _ (by decide), hfail]
      · rw [getF_setFBit_testBit _ _ _ _ _ hi, if_neg hij, getF_setFBit_other _ (by decide), getF_phyLoaded (by decide)]

end

/-- The entries of HBM_PHY_DATA stand apart from what APPLY writes. -/
theorem taps_apart (k : Nat) : ∀ g ∈ applyFields, (F.HBM_PHY_DATA_TAPS.bank k).key ≠ g.key := by
  simp only [List.forall_mem_cons, List.not_mem_nil, false_imp_iff, implies_true, and_true, Fld.key, Fld.bank,
    F.HBM_PHY_DATA_TAPS, F.HBM_STATUS_READY, F.HBM_STATUS_PHY_FAIL, F.HBM_STATUS_SELF_REFRESH]
  omega

/-- APPLY of the stacks that `v` names: each is tried that is not READY. -/
theorem applied_phyCtrlWrite {s : State} {v pass i : Nat} (hi : i < 4) (hv : v.testBit i = true)
    (h : (getF s F.HBM_STATUS_READY).testBit i = false) :
    Applied i (pass.testBit i) (fun e => getF s (F.HBM_PHY_DATA_TAPS.bank (i * 2048 + e))) (phyCtrlWrite s v pass) := by
  unfold phyCtrlWrite
  refine foldl_establishes (P := fun t => FieldsBut s t applyFields ∧ (getF t F.HBM_STATUS_READY).testBit i = false)
    (fun t j hj ht => ?_) (fun t ht => ?_) (fun t j hj ht => ?_) (List.mem_range.2 hi) List.nodup_range ⟨.refl s _, h⟩
  · split
    · obtain ⟨hbits, -⟩ := applyStack_other (t := t) hi (Ne.symm hj) (pass.testBit j)
      exact ⟨ht.1.trans (fieldsBut_applyStack _ _ _), (hbits _ (by simp)).trans ht.2⟩
    · exact ht
  · rw [if_pos hv]
    have htaps : ∀ e, getF t (F.HBM_PHY_DATA_TAPS.bank (i * 2048 + e)) = getF s (F.HBM_PHY_DATA_TAPS.bank (i * 2048 + e)) :=
      fun e => ht.1 _ (taps_apart _)
    have happlied := applied_applyStack hi ht.2 (pass.testBit i)
    simp only [htaps] at happlied
    exact happlied
  · split
    · obtain ⟨hbits, hdelays⟩ := applyStack_other (t := t) hi (Ne.symm hj) (pass.testBit j)
      obtain ⟨hready, hfail, hrefresh, htaps⟩ := ht
      exact ⟨(hbits _ (by simp)).trans hready, (hbits _ (by simp)).trans hfail,
        fun hp => (hbits _ (by simp)).trans (hrefresh hp), fun e he => (hdelays e he).trans (htaps e he)⟩
    · exact ht

theorem fieldsBut_phyCtrlWrite (s : State) (v pass : Nat) : FieldsBut s (phyCtrlWrite s v pass) applyFields := by
  refine .foldl (fun t i h => ?_) (.refl s _) _
  split
  · exact h.trans (fieldsBut_applyStack _ _ _)
  · exact h

end Sys2Proof.Machine
end

section
/-! ### The windows of the HBM: RESTORE_TABLE, HBM_WIN_CTRL and HBM_PC_FAILED -/

namespace Sys2Proof.Machine

/-! #### What a window's channels rest on -/

section
variable {s t : State} {n : Nat}

theorem winMembers_congr (hset : ∀ m, m < 4 → getF t (F.HBM_WIN_SET_SET n m) = getF s (F.HBM_WIN_SET_SET n m)) :
    winMembers t n = winMembers s n := by
  unfold winMembers
  refine List.filter_congr fun p hp => ?_
  rw [List.mem_range] at hp
  rw [hset _ (by omega)]

theorem winChannels_congr (hset : ∀ m, m < 4 → getF t (F.HBM_WIN_SET_SET n m) = getF s (F.HBM_WIN_SET_SET n m))
    (hmirror : getF t (F.HBM_WIN_CTRL_MIRROR n) = getF s (F.HBM_WIN_CTRL_MIRROR n)) : winChannels t n = winChannels s n := by
  unfold winChannels winMirror getB
  rw [winMembers_congr hset, hmirror]

theorem stackReady_congr (h : getF t F.HBM_STATUS_READY = getF s F.HBM_STATUS_READY) : stackReady t = stackReady s := by
  funext pc
  rw [stackReady, h, stackReady]

end

/-! #### RESTORE_TABLE (R235) -/

/-- The fields of window `n` that RESTORE_TABLE writes. -/
def windowFields (n : Nat) : List Fld := [F.HBM_WIN_CTRL_OWNER n, F.HBM_WIN_CTRL_GRAIN n, F.HBM_WIN_CTRL_MIRROR n,
  F.HBM_WIN_BASE_BASE n, F.HBM_WIN_SIZE_SIZE n, F.HBM_WIN_CTRL_LOCK n, F.HBM_WIN_CTRL_EN n] ++
  (List.range 4).map (F.HBM_WIN_SET_SET n)

/-- A window's registers fill 32 bytes of the setup window, and DEGRADED is none of those fields. -/
theorem key_windowFields {n : Nat} {f : Fld} (hf : f ∈ windowFields n) :
    f.key / 1024 = 18440 + n ∧ ∀ m, f.key ≠ (F.HBM_WIN_CTRL_DEGRADED m).key := by
  simp only [windowFields, List.mem_append, List.mem_cons, List.not_mem_nil, or_false, List.mem_map, List.mem_range] at hf
  obtain (rfl | rfl | rfl | rfl | rfl | rfl | rfl) | ⟨m, hm, rfl⟩ := hf
  all_goals
    refine ⟨?_, fun m => ?_⟩ <;>
    simp only [Fld.key, F.HBM_WIN_CTRL_OWNER, F.HBM_WIN_CTRL_GRAIN, F.HBM_WIN_CTRL_MIRROR, F.HBM_WIN_BASE_BASE,
      F.HBM_WIN_SIZE_SIZE, F.HBM_WIN_CTRL_LOCK, F.HBM_WIN_CTRL_EN, F.HBM_WIN_SET_SET, F.HBM_WIN_CTRL_DEGRADED] <;>
    omega

theorem set_mem_windowFields {n m : Nat} (hm : m < 4) : F.HBM_WIN_SET_SET n m ∈ windowFields n :=
  List.mem_append_right _ (List.mem_map_of_mem (List.mem_range.2 hm))

/-- Window `n` stands as the preserved table `tb` has it, enabled where it was and its stacks are READY (R235). -/
def RestoredWindow (tb : List Nat) (n : Nat) (t : State) : Prop :=
  let w := fun i => tb.getD (7 * n + i) 0
  getF t (F.HBM_WIN_CTRL_OWNER n) = bitsOf (w 0) 28 3 ∧ getF t (F.HBM_WIN_CTRL_GRAIN n) = bitsOf (w 0) 24 4 ∧
    winMirror t n = (w 0).testBit 23 ∧ getF t (F.HBM_WIN_BASE_BASE n) = w 1 % 2 ^ 14 ∧
    getF t (F.HBM_WIN_SIZE_SIZE n) = w 2 % 2 ^ 22 ∧ getB t (F.HBM_WIN_CTRL_LOCK n) = false ∧
    (∀ m : Fin 4, getF t (F.HBM_WIN_SET_SET n m) = w (3 + m) % 2 ^ 32) ∧
    getB t (F.HBM_WIN_CTRL_EN n) = ((w 0).testBit 31 && (winChannels t n).all (stackReady t))

/-- What leaves the window's fields and the stacks leaves the window restored. -/
theorem RestoredWindow.congr {tb : List Nat} {n : Nat} {s t : State} (h : RestoredWindow tb n s)
    (hfields : ∀ f ∈ windowFields n, getF t f = getF s f) (hready : getF t F.HBM_STATUS_READY = getF s F.HBM_STATUS_READY) :
    RestoredWindow tb n t := by
  have hset : ∀ m, m < 4 → getF t (F.HBM_WIN_SET_SET n m) = getF s (F.HBM_WIN_SET_SET n m) :=
    fun m hm => hfields _ (set_mem_windowFields hm)
  have hmirror := hfields (F.HBM_WIN_CTRL_MIRROR n) (by simp [windowFields])
  obtain ⟨howner, hgrain, hmir, hbase, hsize, hlock, hsets, hen⟩ := h
  refine ⟨?_, ?_, ?_, ?_, ?_, ?_, fun m => ?_, ?_⟩
  · rw [hfields _ (by simp [windowFields]), howner]
  · rw [hfields _ (by simp [windowFields]), hgrain]
  · rw [← hmir, winMirror, winMirror, getB, hmirror, getB]
  · rw [hfields _ (by simp [windowFields]), hbase]
  · rw [hfields _ (by simp [windowFields]), hsize]
  · rw [← hlock, getB, hfields _ (by simp [windowFields]), getB]
  · rw [hset m m.isLt, hsets]
  · rw [winChannels_congr hset hmirror, stackReady_congr hready, ← hen, getB, hfields _ (by simp [windowFields]), getB]

/-- The state with SET of window `n` taken from a list of values. -/
def setsWritten (s : State) (n : Nat) (v : Nat → Nat) : State :=
  (List.range 4).foldl (fun u m => setF u (F.HBM_WIN_SET_SET n m) (v m)) s

theorem onlyFields_setsWritten (s : State) (n : Nat) (v : Nat → Nat) :
    OnlyFields s (setsWritten s n v) ((List.range 4).map (F.HBM_WIN_SET_SET n)) :=
  .foldl (fun _ _ hm h => h.setF (List.mem_map_of_mem hm) _) (.refl s _)

theorem getF_setsWritten {n m : Nat} (hm : m < 4) (s : State) (v : Nat → Nat) :
    getF (setsWritten s n v) (F.HBM_WIN_SET_SET n m) = v m % 2 ^ 32 := by
  unfold setsWritten
  refine foldl_establishes (a := m) (P := fun _ => True) (Q := fun t => getF t (F.HBM_WIN_SET_SET n m) = v m % 2 ^ 32)
    (fun _ _ _ _ => trivial) (fun t _ => getF_setF_same t _ _) (fun t k hk ht => ?_) (List.mem_range.2 hm) List.nodup_range
    trivial
  refine (getF_setF_other t ?_ _).trans ht
  simp only [Fld.key, F.HBM_WIN_SET_SET]
  omega

theorem getF_setsWritten_other {n : Nat} {f : Fld} (hf : ∀ m, f.key ≠ (F.HBM_WIN_SET_SET n m).key) (s : State)
    (v : Nat → Nat) : getF (setsWritten s n v) f = getF s f := by
  refine (onlyFields_setsWritten s n v).1 f fun g hg => ?_
  obtain ⟨m, -, rfl⟩ := List.mem_map.1 hg
  exact hf m

/-- The fields of window `n` but EN, in the order in which RESTORE_TABLE writes them. -/
def tableWritten (tb : List Nat) (s : State) (n : Nat) : State :=
  let w := fun i => tb.getD (7 * n + i) 0
  setB (setsWritten (setF (setF (setF (setF (setF s (F.HBM_WIN_CTRL_OWNER n) (bitsOf (w 0) 28 3)) (F.HBM_WIN_CTRL_GRAIN n)
    (bitsOf (w 0) 24 4)) (F.HBM_WIN_CTRL_MIRROR n) (bitsOf (w 0) 23 1)) (F.HBM_WIN_BASE_BASE n) (w 1))
    (F.HBM_WIN_SIZE_SIZE n) (w 2)) n (fun m => w (3 + m))) (F.HBM_WIN_CTRL_LOCK n) false

theorem restoreWindow_eq (tb : List Nat) (s : State) (n : Nat) : restoreWindow tb s n =
    setB (tableWritten tb s n) (F.HBM_WIN_CTRL_EN n) ((tb.getD (7 * n + 0) 0).testBit 31 &&
      (winChannels (tableWritten tb s n) n).all (stackReady (tableWritten tb s n))) := rfl

theorem onlyFields_restoreWindow (tb : List Nat) (s : State) (n : Nat) :
    OnlyFields s (restoreWindow tb s n) (windowFields n) := by
  rw [restoreWindow_eq]
  refine .setB (.setB (.trans ?_ ((onlyFields_setsWritten _ n _).mono ?_)) ?_ _) ?_ _
  · refine .setF (.setF (.setF (.setF (.setF (.refl s _) ?_ _) ?_ _) ?_ _) ?_ _) ?_ _ <;> simp [windowFields]
  · exact List.subset_append_right _ _
  all_goals simp [windowFields]

/-- What the fields of window `n` read as once the table's words are in them. -/
theorem getF_restoreWindow (tb : List Nat) (s : State) (n : Nat) :
    let w := fun i => tb.getD (7 * n + i) 0
    let t := restoreWindow tb s n
    getF t (F.HBM_WIN_CTRL_OWNER n) = bitsOf (w 0) 28 3 % 2 ^ 3 ∧ getF t (F.HBM_WIN_CTRL_GRAIN n) = bitsOf (w 0) 24 4 % 2 ^ 4 ∧
      getF t (F.HBM_WIN_CTRL_MIRROR n) = bitsOf (w 0) 23 1 % 2 ^ 1 ∧ getF t (F.HBM_WIN_BASE_BASE n) = w 1 % 2 ^ 14 ∧
      getF t (F.HBM_WIN_SIZE_SIZE n) = w 2 % 2 ^ 22 ∧ getF t (F.HBM_WIN_CTRL_LOCK n) = b2n false % 2 ^ 1 ∧
      ∀ m, m < 4 → getF t (F.HBM_WIN_SET_SET n m) = w (3 + m) % 2 ^ 32 := by
  dsimp only
  simp (disch := intros; simp only [Fld.key, F.HBM_WIN_CTRL_OWNER, F.HBM_WIN_CTRL_GRAIN, F.HBM_WIN_CTRL_MIRROR,
    F.HBM_WIN_BASE_BASE, F.HBM_WIN_SIZE_SIZE, F.HBM_WIN_CTRL_LOCK, F.HBM_WIN_CTRL_EN, F.HBM_WIN_SET_SET]; omega) only
    [restoreWindow_eq, tableWritten, setB, getF_setF_other, getF_setsWritten_other, getF_setF_same]
  exact ⟨rfl, rfl, rfl, rfl, rfl, rfl, fun m hm => getF_setsWritten hm _ _⟩

theorem restoredWindow_restoreWindow (tb : List Nat) (s : State) (n : Nat) : RestoredWindow tb n (restoreWindow tb s n) := by
  obtain ⟨howner, hgrain, hmirror, hbase, hsize, hlock, hset⟩ := getF_restoreWindow tb s n
  have hother : ∀ {f}, f.key ≠ (F.HBM_WIN_CTRL_EN n).key → getF (restoreWindow tb s n) f = getF (tableWritten tb s n) f :=
    fun hf => getF_setB_other _ hf _
  refine ⟨howner.trans (Nat.mod_mod _ _), hgrain.trans (Nat.mod_mod _ _), ?_, hbase, hsize, ?_, fun m => hset m m.isLt, ?_⟩
  · rw [winMirror, getB, hmirror, Nat.testBit_eq_decide_div_mod_eq, bitsOf]
    refine decide_eq_decide.2 ?_
    omega
  · rw [getB, hlock]
    rfl
  · rw [winChannels_congr (s := tableWritten tb s n), stackReady_congr (s := tableWritten tb s n)]
    · exact getB_setB_same _ _ _ rfl
    · exact hother (by simp only [Fld.key, F.HBM_WIN_CTRL_EN, F.HBM_STATUS_READY]; omega)
    · exact fun m _ => hother (by simp only [Fld.key, F.HBM_WIN_CTRL_EN, F.HBM_WIN_SET_SET]; omega)
    · exact hother (by simp only [Fld.key, F.HBM_WIN_CTRL_EN, F.HBM_WIN_CTRL_MIRROR]; omega)

/-- A window that RESTORE_TABLE has brought back stays so as the other windows come back. -/
theorem RestoredWindow.restoreWindow {tb : List Nat} {n m : Nat} {s : State} (h : RestoredWindow tb n s) (hm : m ≠ n) :
    RestoredWindow tb n (restoreWindow tb s m) := by
  obtain ⟨hfields, -⟩ := onlyFields_restoreWindow tb s m
  refine h.congr (fun f hf => hfields f fun g hg heq => ?_) (hfields _ fun g hg heq => ?_)
  · have hf := (key_windowFields hf).1
    have hg := (key_windowFields hg).1
    omega
  · have hg := (key_windowFields hg).1
    rw [← heq] at hg
    simp only [Fld.key, F.HBM_STATUS_READY] at hg
    omega

theorem RestoredWindow.showDegraded {tb : List Nat} {n : Nat} {s : State} (h : RestoredWindow tb n s) :
    RestoredWindow tb n (showDegraded s) :=
  h.congr (fun _ hf => getF_showDegraded s (key_windowFields hf).2)
    (getF_showDegraded s fun m => by simp only [Fld.key, F.HBM_STATUS_READY, F.HBM_WIN_CTRL_DEGRADED]; omega)

/-- RESTORE_TABLE from a copy that passes its check. -/
def tableRestored (tb : List Nat) (s : State) : State :=
  showDegraded ((List.range 16).foldl (restoreWindow tb) (setB s F.HBM_STATUS_TABLE_VALID true))

theorem restoredWindow_tableRestored (tb : List Nat) (s : State) {n : Nat} (hn : n < 16) :
    RestoredWindow tb n (tableRestored tb s) :=
  (foldl_establishes (P := fun _ => True) (fun _ _ _ _ => trivial) (fun t _ => restoredWindow_restoreWindow tb t n)
    (fun _ _ hm h => h.restoreWindow hm) (List.mem_range.2 hn) List.nodup_range trivial).showDegraded

theorem tableValid_tableRestored (tb : List Nat) (s : State) : getB (tableRestored tb s) F.HBM_STATUS_TABLE_VALID = true := by
  have hfold : getF ((List.range 16).foldl (restoreWindow tb) (setB s F.HBM_STATUS_TABLE_VALID true)) F.HBM_STATUS_TABLE_VALID =
      getF (setB s F.HBM_STATUS_TABLE_VALID true) F.HBM_STATUS_TABLE_VALID := by
    refine List.foldlRecOn (motive := fun t : State => getF t F.HBM_STATUS_TABLE_VALID =
      getF (setB s F.HBM_STATUS_TABLE_VALID true) F.HBM_STATUS_TABLE_VALID) _ _ rfl fun t ht n _ => ?_
    refine ((onlyFields_restoreWindow tb t n).1 _ fun g hg heq => ?_).trans ht
    have hg := (key_windowFields hg).1
    rw [← heq] at hg
    simp only [Fld.key, F.HBM_STATUS_TABLE_VALID] at hg
    omega
  rw [getB, tableRestored, getF_showDegraded, hfold]
  · exact getB_setB_same s F.HBM_STATUS_TABLE_VALID true rfl
  · intro m
    simp only [Fld.key, F.HBM_STATUS_TABLE_VALID, F.HBM_WIN_CTRL_DEGRADED]
    omega

/-- The copy that RESTORE_TABLE takes: that of pseudo-channel 0 before that of 32, each where its stack is READY and it passes
its check (R235). -/
abbrev tableCopy (s : State) (c0 c1 : Bool) : Option (List Nat) :=
  (if stackReady s 0 && c0 then s.hbm.table0 else none) <|> (if stackReady s 32 && c1 then s.hbm.table32 else none)

theorem ready_of_tableCopy {s : State} {c0 c1 : Bool} {tb : List Nat} (h : tableCopy s c0 c1 = some tb) :
    (stackReady s 0 || stackReady s 32) = true := by
  unfold tableCopy at h
  cases h0 : stackReady s 0 <;> cases h32 : stackReady s 32 <;> simp [h0, h32] at h ⊢

theorem exec_restoreTable {s : State} {v : Word} (hv : v.getLsbD 0 = true) (c0 c1 : Bool) :
    exec (.restoreTable v c0 c1) s = .next (restoreTable s c0 c1) := congrArg Host.Outcome.next (if_pos hv)

theorem restoreTable_of_some {s : State} {c0 c1 : Bool} {tb : List Nat} (h : tableCopy s c0 c1 = some tb) :
    restoreTable s c0 c1 = tableRestored tb s := by
  have hready := ready_of_tableCopy h
  unfold tableCopy at h
  unfold restoreTable
  dsimp only
  rw [if_pos hready, h]
  rfl

theorem restoreTable_of_none {s : State} {c0 c1 : Bool} (hready : (stackReady s 0 || stackReady s 32) = true)
    (h : tableCopy s c0 c1 = none) : restoreTable s c0 c1 = setB s F.HBM_STATUS_TABLE_VALID false := by
  unfold tableCopy at h
  unfold restoreTable
  dsimp only
  rw [if_pos hready, h]

/-! #### HBM_WIN_CTRL (R218 to R220) -/

theorem fieldsAt_winCtrl (n : Fin 16) : fieldsAt (0x90100 + 32 * n) = [F.HBM_WIN_CTRL_EN n, F.HBM_WIN_CTRL_OWNER n,
    F.HBM_WIN_CTRL_GRAIN n, F.HBM_WIN_CTRL_MIRROR n, F.HBM_WIN_CTRL_LOCK n, F.HBM_WIN_CTRL_DEGRADED n] := by
  revert n
  decide +kernel

/-- A write with EN at 0 leaves the window disabled. -/
theorem en_plainWrite_winCtrl (s : State) (n : Fin 16) (v : Nat) :
    getB (plainWrite s (0x90100 + 32 * n) (v % 2 ^ 31)) (F.HBM_WIN_CTRL_EN n) = false := by
  have hen : bitsOf (v % 2 ^ 31) 31 1 = 0 := by simp only [bitsOf]; omega
  rw [plainWrite, fieldsAt_winCtrl]
  show getB (setF (setF (setF (setF s (F.HBM_WIN_CTRL_EN n) (bitsOf (v % 2 ^ 31) 31 1)) (F.HBM_WIN_CTRL_OWNER n) _)
    (F.HBM_WIN_CTRL_GRAIN n) _) (F.HBM_WIN_CTRL_MIRROR n) _) (F.HBM_WIN_CTRL_EN n) = false
  rw [getB, getF_setF_other, getF_setF_other, getF_setF_other, getF_setF_same, hen]
  · rfl
  all_goals
    simp only [Fld.key, F.HBM_WIN_CTRL_EN, F.HBM_WIN_CTRL_OWNER, F.HBM_WIN_CTRL_GRAIN, F.HBM_WIN_CTRL_MIRROR]
    omega

/-- The state with the register of window `n` written but for EN, on which the checks of R219 are made. -/
abbrev ctrlWritten (s : State) (n v : Nat) : State := showDegraded (plainWrite s (0x90100 + 32 * n) (v % 2 ^ 31))

/-- A window that fails its checks stays disabled. -/
theorem en_rejected (s : State) (n : Fin 16) (v : Nat) :
    getB (setB (ctrlWritten s n v) F.HBM_STATUS_WIN_REJECT true) (F.HBM_WIN_CTRL_EN n) = false := by
  rw [getB_setB_other, getB, getF_showDegraded]
  · exact en_plainWrite_winCtrl s n v
  · intro m
    simp only [Fld.key, F.HBM_WIN_CTRL_EN, F.HBM_WIN_CTRL_DEGRADED]
    omega
  · simp only [Fld.key, F.HBM_WIN_CTRL_EN, F.HBM_STATUS_WIN_REJECT]
    omega

theorem exec_windowEnable (s : State) (n : Fin 16) (v : Word) :
    exec (.windowEnable n v) s = .next (winCtrlWrite s n v.toNat) := rfl

/-- EN is checked where it is set in a disabled window. -/
theorem winCtrlWrite_enable {s : State} {n : Nat} {v : Word} (hen : getB s (F.HBM_WIN_CTRL_EN n) = false)
    (hv : v.getLsbD 31 = true) : winCtrlWrite s n v.toNat =
      if winOk (ctrlWritten s n v.toNat) n then setB (ctrlWritten s n v.toNat) (F.HBM_WIN_CTRL_EN n) true
      else setB (ctrlWritten s n v.toNat) F.HBM_STATUS_WIN_REJECT true := by
  rw [winCtrlWrite, if_neg (by simp [hen])]
  exact if_pos hv

/-- While EN is 1 nothing but EN changes, and that only unlocked and with the rest of the register as it is. -/
theorem winCtrlWrite_enabled {s : State} {n : Nat} (hen : getB s (F.HBM_WIN_CTRL_EN n) = true) (v : Nat) :
    winCtrlWrite s n v =
      if !v.testBit 31 && (getF s (F.HBM_WIN_CTRL_OWNER n) == bitsOf v 28 3 && getF s (F.HBM_WIN_CTRL_GRAIN n) == bitsOf v 24 4 &&
        winMirror s n == v.testBit 23) && !getB s (F.HBM_WIN_CTRL_LOCK n) then setB s (F.HBM_WIN_CTRL_EN n) false else s := by
  rw [winCtrlWrite, if_pos hen]

theorem winCtrlWrite_disable {s : State} {n : Nat} {v : Word} (hen : getB s (F.HBM_WIN_CTRL_EN n) = true)
    (hv : v.getLsbD 31 = false) (howner : getF s (F.HBM_WIN_CTRL_OWNER n) = bitsOf v.toNat 28 3)
    (hgrain : getF s (F.HBM_WIN_CTRL_GRAIN n) = bitsOf v.toNat 24 4) (hmirror : winMirror s n = v.getLsbD 23) :
    winCtrlWrite s n v.toNat = if getB s (F.HBM_WIN_CTRL_LOCK n) then s else setB s (F.HBM_WIN_CTRL_EN n) false := by
  have hv' : v.toNat.testBit 31 = false := hv
  have hmirror' : winMirror s n = v.toNat.testBit 23 := hmirror
  rw [winCtrlWrite_enabled hen, hv', howner, hgrain, hmirror']
  cases getB s (F.HBM_WIN_CTRL_LOCK n) <;> simp

theorem winCtrlWrite_keep {s : State} {n : Nat} {v : Word} (hen : getB s (F.HBM_WIN_CTRL_EN n) = true)
    (hv : v.getLsbD 31 = true) : winCtrlWrite s n v.toNat = s := by
  have hv' : v.toNat.testBit 31 = true := hv
  rw [winCtrlWrite_enabled hen, hv']
  rfl

/-- A write of HBM_WIN_CTRL, by what it finds in EN and has in it. -/
theorem winCtrlWrite_answers (s : State) (n : Fin 16) (v : Word) :
    (getB s (F.HBM_WIN_CTRL_EN n) = false → v.getLsbD 31 = true → Answers (.windowEnable n v) s (fun t =>
      if winOk (showDegraded (plainWrite s (0x90100 + 32 * n) (v.toNat % 2 ^ 31))) n
      then getB t (F.HBM_WIN_CTRL_EN n) = true
      else getB t (F.HBM_WIN_CTRL_EN n) = false ∧ getB t F.HBM_STATUS_WIN_REJECT = true)) ∧
    (getB s (F.HBM_WIN_CTRL_EN n) = true → v.getLsbD 31 = false → getF s (F.HBM_WIN_CTRL_OWNER n) = bitsOf v.toNat 28 3 →
      getF s (F.HBM_WIN_CTRL_GRAIN n) = bitsOf v.toNat 24 4 → winMirror s n = v.getLsbD 23 →
      Answers (.windowEnable n v) s (fun t => getB t (F.HBM_WIN_CTRL_EN n) = getB s (F.HBM_WIN_CTRL_LOCK n) ∧
        OnlyFields s t [F.HBM_WIN_CTRL_EN n])) ∧
    (getB s (F.HBM_WIN_CTRL_EN n) = true → v.getLsbD 31 = true → Answers (.windowEnable n v) s (fun t => t = s)) := by
  refine ⟨fun hen hv => ?_, fun hen hv howner hgrain hmirror => ?_, fun hen hv => ?_⟩
  · refine ⟨_, exec_windowEnable s n v, ?_⟩
    rw [winCtrlWrite_enable hen hv]
    generalize winOk (ctrlWritten s n v.toNat) n = ok
    cases ok
    case true => exact getB_setB_same _ _ _ rfl
    case false => exact ⟨en_rejected s n v.toNat, getB_setB_same _ _ _ rfl⟩
  · refine ⟨_, exec_windowEnable s n v, ?_⟩
    rw [winCtrlWrite_disable hen hv howner hgrain hmirror]
    cases getB s (F.HBM_WIN_CTRL_LOCK n)
    · exact ⟨getB_setB_same _ _ _ rfl, (OnlyFields.refl s _).setB (by simp) _⟩
    · exact ⟨hen, .refl s _⟩
  · exact ⟨_, exec_windowEnable s n v, winCtrlWrite_keep hen hv⟩

/-! #### HBM_PC_FAILED (R231) -/

/-- Every window that pseudo-channel `pc` serves is disabled. -/
def outOfService (s : State) (pc : Nat) : Bool :=
  (List.range 16).all (fun n => !getB s (F.HBM_WIN_CTRL_EN n) || !(winChannels s n).contains pc)

theorem outOfService_congr {s t : State} {m : Nat} (h : OnlyFields s t [F.HBM_PC_FAILED_FAILED m]) (hm : m < 4) :
    outOfService t = outOfService s := by
  obtain ⟨hfields, -⟩ := h
  have hkept : ∀ n, ∀ f ∈ windowFields n, getF t f = getF s f := fun n f hf => hfields f fun g hg heq => by
    have hf := (key_windowFields hf).1
    rw [List.mem_singleton.1 hg] at heq
    rw [heq] at hf
    simp only [Fld.key, F.HBM_PC_FAILED_FAILED] at hf
    omega
  have hchannels : winChannels t = winChannels s := by
    funext n
    exact winChannels_congr (fun k hk => hkept n _ (set_mem_windowFields hk)) (hkept n _ (by simp [windowFields]))
  have hen : ∀ n, getB t (F.HBM_WIN_CTRL_EN n) = getB s (F.HBM_WIN_CTRL_EN n) := fun n => by
    rw [getB, hkept n _ (by simp [windowFields]), getB]
  funext pc
  simp only [outOfService, hchannels, hen]

/-- Bit `b` of a write of `v` to HBM_PC_FAILED_m. -/
def returnToService (m v : Nat) (t : State) (b : Nat) : State :=
  if v.testBit b && outOfService t (32 * m + b) then setFBit t (F.HBM_PC_FAILED_FAILED m) b false else t

theorem pcFailedWrite_eq (s : State) (m v : Nat) :
    pcFailedWrite s m v = showDegraded ((List.range 32).foldl (returnToService m v) s) := rfl

theorem onlyFields_returnToService (m v b : Nat) (t : State) :
    OnlyFields t (returnToService m v t b) [F.HBM_PC_FAILED_FAILED m] := by
  unfold returnToService
  split
  · exact (OnlyFields.refl t _).setFBit (by simp) _ _
  · exact .refl t _

theorem testBit_returnToService_other {m v b c : Nat} (hb : b < 32) (hc : c ≠ b) (t : State) :
    (getF (returnToService m v t c) (F.HBM_PC_FAILED_FAILED m)).testBit b = (getF t (F.HBM_PC_FAILED_FAILED m)).testBit b := by
  unfold returnToService
  split
  · rw [getF_setFBit_testBit _ _ _ _ _ hb, if_neg (Ne.symm hc)]
  · rfl

theorem testBit_returnToService_same {m v b : Nat} (hb : b < 32) (t : State) :
    (getF (returnToService m v t b) (F.HBM_PC_FAILED_FAILED m)).testBit b =
      ((getF t (F.HBM_PC_FAILED_FAILED m)).testBit b && !(v.testBit b && outOfService t (32 * m + b))) := by
  unfold returnToService
  split
  next h => rw [getF_setFBit_testBit _ _ _ _ _ hb, if_pos rfl, h, Bool.not_true, Bool.and_false]
  next h => rw [Bool.eq_false_iff.2 h, Bool.not_false, Bool.and_true]

theorem onlyFields_returned (s : State) (m v : Nat) :
    OnlyFields s ((List.range 32).foldl (returnToService m v) s) [F.HBM_PC_FAILED_FAILED m] :=
  .foldl (fun t b _ h => h.trans (onlyFields_returnToService m v b t)) (.refl s _)

theorem testBit_returned {m b : Nat} (hm : m < 4) (hb : b < 32) (s : State) (v : Nat) :
    (getF ((List.range 32).foldl (returnToService m v) s) (F.HBM_PC_FAILED_FAILED m)).testBit b =
      ((getF s (F.HBM_PC_FAILED_FAILED m)).testBit b && !(v.testBit b && outOfService s (32 * m + b))) := by
  refine foldl_establishes (a := b)
    (P := fun t => OnlyFields s t [F.HBM_PC_FAILED_FAILED m] ∧
      (getF t (F.HBM_PC_FAILED_FAILED m)).testBit b = (getF s (F.HBM_PC_FAILED_FAILED m)).testBit b)
    (Q := fun t => (getF t (F.HBM_PC_FAILED_FAILED m)).testBit b =
      ((getF s (F.HBM_PC_FAILED_FAILED m)).testBit b && !(v.testBit b && outOfService s (32 * m + b))))
    (fun t c hc ht => ?_) (fun t ht => ?_) (fun t c hc ht => ?_) (List.mem_range.2 hb) List.nodup_range ⟨.refl s _, rfl⟩
  · exact ⟨ht.1.trans (onlyFields_returnToService m v c t), (testBit_returnToService_other hb hc t).trans ht.2⟩
  · rw [testBit_returnToService_same hb, ht.2, outOfService_congr ht.1 hm]
  · exact (testBit_returnToService_other hb hc t).trans ht

theorem getF_pcFailedWrite (s : State) (m v : Nat) : getF (pcFailedWrite s m v) (F.HBM_PC_FAILED_FAILED m) =
    getF ((List.range 32).foldl (returnToService m v) s) (F.HBM_PC_FAILED_FAILED m) := by
  rw [pcFailedWrite_eq, getF_showDegraded]
  intro n
  simp only [Fld.key, F.HBM_PC_FAILED_FAILED, F.HBM_WIN_CTRL_DEGRADED]
  omega

theorem pcFailedWrite_frame (s : State) (m v : Nat) : pcFailedWrite s m v = { s with regs := (pcFailedWrite s m v).regs } := by
  rw [pcFailedWrite_eq]
  obtain ⟨-, hreturned⟩ := onlyFields_returned s m v
  obtain ⟨-, hshown⟩ := onlyFields_showDegraded ((List.range 32).foldl (returnToService m v) s)
  rw [hshown, hreturned]

end Sys2Proof.Machine
end

section
/-! ### Delays, refresh and scrub of the HBM -/

namespace Sys2Proof.Machine

/-! #### HBM_PHY_DATA (R227, R228) -/

/-- The entries of HBM_PHY_DATA stand apart from the index that names one. -/
theorem key_phyField (s : State) : (phyField s).key ≠ F.HBM_PHY_INDEX_ENTRY.key := by
  simp only [phyField, Fld.key, Fld.bank, F.HBM_PHY_DATA_TAPS, F.HBM_PHY_INDEX_ENTRY]
  omega

theorem phyDataAccess_write {s : State} (h : (getF s F.HBM_STATUS_READY).testBit (getF s F.HBM_PHY_INDEX_STACK) = false)
    (v : Word) : Answers (.phyDataAccess (some v)) s (fun t => getF t (phyField s) = v.toNat % 2 ^ 8 ∧
      getF t F.HBM_PHY_INDEX_ENTRY = (getF s F.HBM_PHY_INDEX_ENTRY + 1) % 2 ^ 11 ∧
      OnlyFields s t [phyField s, F.HBM_PHY_INDEX_ENTRY]) := by
  have hwrite : phyWrite s v.toNat = wrapF (setF s (phyField s) v.toNat) F.HBM_PHY_INDEX_ENTRY 1 := by
    rw [phyWrite, if_neg (by simp [h])]
  refine ⟨_, congrArg Host.Outcome.next hwrite, ?_, ?_, ?_⟩
  · exact (getF_setF_other _ (key_phyField s) _).trans (getF_setF_same _ _ _)
  · rw [wrapF, getF_setF_same, getF_setF_other _ (key_phyField s).symm]
    rfl
  · exact ((OnlyFields.refl s _).setF (by simp) _).wrapF (by simp) _

theorem phyDataAccess_read (s : State) : Answers (.phyDataAccess none) s (fun t =>
    t.outs = s.outs ++ [.readValue 0 (getF s (phyField s))] ∧
    getF t F.HBM_PHY_INDEX_ENTRY = (getF s F.HBM_PHY_INDEX_ENTRY + 1) % 2 ^ 11 ∧ FieldsBut s t [F.HBM_PHY_INDEX_ENTRY]) :=
  ⟨emit (wrapF s F.HBM_PHY_INDEX_ENTRY 1) (.readValue 0 (getF s (phyField s))), rfl, rfl, getF_setF_same s _ _,
    (FieldsBut.refl s _).setF (by simp) _⟩

/-! #### Refresh (R223 to R225) -/

/-- The timings written before, one refresh nearer to taking effect. -/
def dueTimings (h : HbmSt) : List (Nat × Nat × Nat) := h.written.map (fun w => (w.1 - 1, w.2))

/-- The timings after a refresh: those that are due are in force (R224). -/
def refreshTimings (h : HbmSt) : HbmSt :=
  { h with
    timing := ((dueTimings h).filter (fun w => w.1 = 0)).foldl (fun _ w => w.2) h.timing
    written := (dueTimings h).filter (fun w => w.1 ≠ 0) }

/-- The state with a refresh counted and its timings in force. -/
def refreshCounted (s : State) : State := onHbm (wrapF s F.HBM_REFRESH_COUNT_COUNT 1) refreshTimings

/-- The state after a refresh: HALVED goes by AUTO_HALVE and the temperatures of the stacks (R225). -/
def refreshed (s : State) : State :=
  if !getB s F.HBM_REFRESH_CTRL_AUTO_HALVE then setB (refreshCounted s) F.HBM_REFRESH_CTRL_HALVED false
  else if (stackTemps s).any (85 < ·) then setB (refreshCounted s) F.HBM_REFRESH_CTRL_HALVED true
  else if (stackTemps s).all (· ≤ 80) then setB (refreshCounted s) F.HBM_REFRESH_CTRL_HALVED false
  else refreshCounted s

theorem exec_refresh (s : State) : exec .refresh s = .next (refreshed s) := by
  have hfield : ∀ f : Fld, f.key ≠ F.HBM_REFRESH_COUNT_COUNT.key → getF (refreshCounted s) f = getF s f :=
    fun f hf => getF_setF_other s hf _
  have hhalve : getB (refreshCounted s) F.HBM_REFRESH_CTRL_AUTO_HALVE = getB s F.HBM_REFRESH_CTRL_AUTO_HALVE := by
    rw [getB, hfield _ (by decide), getB]
  have htemps : stackTemps (refreshCounted s) = stackTemps s := by rw [stackTemps, hfield _ (by decide), stackTemps]
  rw [refreshed, ← hhalve, ← htemps]
  rfl

theorem all_cool_not_hot {s : State} (h : (stackTemps s).all (· ≤ 80) = true) : (stackTemps s).any (85 < ·) = false := by
  rw [List.all_eq_true] at h
  refine List.any_eq_false.2 fun x hx => ?_
  have := h x hx
  simp only [decide_eq_true_eq] at this ⊢
  omega

/-- A refresh leaves the counted state but for HALVED. -/
theorem onlyFields_refreshed (s : State) : OnlyFields (refreshCounted s) (refreshed s) [F.HBM_REFRESH_CTRL_HALVED] := by
  have hset : ∀ b, OnlyFields (refreshCounted s) (setB (refreshCounted s) F.HBM_REFRESH_CTRL_HALVED b)
    [F.HBM_REFRESH_CTRL_HALVED] := fun b => (OnlyFields.refl _ _).setB (by simp) b
  unfold refreshed
  split
  · exact hset _
  · split
    · exact hset _
    · split
      · exact hset _
      · exact .refl _ _

theorem refreshed_hbm (s : State) : (refreshed s).hbm = refreshTimings s.hbm := by
  rw [(onlyFields_refreshed s).2]
  rfl

section
variable {s : State}

theorem halved_of_manual (h : getB s F.HBM_REFRESH_CTRL_AUTO_HALVE = false) :
    getB (refreshed s) F.HBM_REFRESH_CTRL_HALVED = false := by
  rw [refreshed, if_pos (by rw [h]; rfl)]
  exact getB_setB_same _ _ _ rfl

theorem halved_of_hot (h : getB s F.HBM_REFRESH_CTRL_AUTO_HALVE = true) (hhot : (stackTemps s).any (85 < ·) = true) :
    getB (refreshed s) F.HBM_REFRESH_CTRL_HALVED = true := by
  rw [refreshed, if_neg (by rw [h]; decide), if_pos hhot]
  exact getB_setB_same _ _ _ rfl

theorem halved_of_cool (h : getB s F.HBM_REFRESH_CTRL_AUTO_HALVE = true) (hcool : (stackTemps s).all (· ≤ 80) = true) :
    getB (refreshed s) F.HBM_REFRESH_CTRL_HALVED = false := by
  rw [refreshed, if_neg (by rw [h]; decide), if_neg (ne_true_of_eq_false (all_cool_not_hot hcool)), if_pos hcool]
  exact getB_setB_same _ _ _ rfl

end

theorem refresh_answers (s : State) : Answers .refresh s (fun t =>
    getF t F.HBM_REFRESH_COUNT_COUNT = (getF s F.HBM_REFRESH_COUNT_COUNT + 1) % 2 ^ 32 ∧
    OnlyFields { s with hbm := t.hbm } t [F.HBM_REFRESH_COUNT_COUNT, F.HBM_REFRESH_CTRL_HALVED] ∧
    (getB s F.HBM_REFRESH_CTRL_AUTO_HALVE = false → getB t F.HBM_REFRESH_CTRL_HALVED = false) ∧
    (getB s F.HBM_REFRESH_CTRL_AUTO_HALVE = true → (stackTemps s).any (85 < ·) = true →
      getB t F.HBM_REFRESH_CTRL_HALVED = true) ∧
    (getB s F.HBM_REFRESH_CTRL_AUTO_HALVE = true → (stackTemps s).all (· ≤ 80) = true →
      getB t F.HBM_REFRESH_CTRL_HALVED = false) ∧
    (∀ a b, s.hbm.written = [(1, a, b)] → t.hbm.timing = (a, b) ∧ t.hbm.written = []) ∧
    (∀ a b, s.hbm.written = [(2, a, b)] → t.hbm.timing = s.hbm.timing ∧ t.hbm.written = [(1, a, b)])) := by
  obtain ⟨hfields, hframe⟩ := onlyFields_refreshed s
  refine ⟨_, exec_refresh s, ?_, ⟨fun f hf => ?_, hframe.trans ?_⟩, halved_of_manual, halved_of_hot, halved_of_cool,
    fun a b h => ?_, fun a b h => ?_⟩
  · exact (hfields _ (by decide)).trans (getF_setF_same s _ _)
  · exact (hfields f fun g hg => hf g (List.mem_cons_of_mem _ hg)).trans (getF_setF_other s (hf _ List.mem_cons_self) _)
  · rw [refreshed_hbm]
    rfl
  all_goals
    rw [refreshed_hbm]
    simp [refreshTimings, dueTimings, h]

/-! #### The scrub (R229 to R232) -/

/-- The scrub has come past word `w` of pseudo-channel `pc`: POSITION in units of 2^18 words, and PASSES after the last. -/
def scrubAdvanced (s : State) (pc w : Nat) : State :=
  if pc * 2 ^ 27 + w + 1 = 2 ^ 34 then setF (wrapF s F.HBM_SCRUB_PROGRESS_PASSES 1) F.HBM_SCRUB_PROGRESS_POSITION 0
  else setF s F.HBM_SCRUB_PROGRESS_POSITION ((pc * 2 ^ 27 + w + 1) / 2 ^ 18)

/-- The fields of the scrub's progress. -/
abbrev progressFields : List Fld := [F.HBM_SCRUB_PROGRESS_POSITION, F.HBM_SCRUB_PROGRESS_PASSES]

theorem onlyFields_scrubAdvanced (s : State) (pc w : Nat) : OnlyFields s (scrubAdvanced s pc w) progressFields := by
  unfold scrubAdvanced
  split
  · exact ((OnlyFields.refl s _).wrapF (by simp) _).setF (by simp) _
  · exact (OnlyFields.refl s _).setF (by simp) _

theorem position_scrubAdvanced (s : State) (pc w : Nat) : getF (scrubAdvanced s pc w) F.HBM_SCRUB_PROGRESS_POSITION =
    (pc * 2 ^ 27 + w + 1) / 2 ^ 18 % 2 ^ 16 := by
  unfold scrubAdvanced
  split
  next h => rw [getF_setF_same, h]; rfl
  · exact getF_setF_same _ _ _

theorem scrubAdvanced_hbm (s : State) (pc w : Nat) : (scrubAdvanced s pc w).hbm = s.hbm := by
  rw [(onlyFields_scrubAdvanced s pc w).2]

/-- The scrub runs over a pseudo-channel: it is enabled, its stack is READY and it has not failed. -/
abbrev Scrubs (s : State) (pc : Nat) : Prop :=
  getB s F.HBM_SCRUB_CTRL_EN = true ∧ stackReady s pc = true ∧ pcFailed s pc = false

section
variable {s : State} {pc : Fin 128}

theorem exec_scrub_disabled (h : getB s F.HBM_SCRUB_CTRL_EN = false) (w : BitVec 27) (f : HbmFinds) :
    exec (.scrub pc w f none) s = .next s := by
  show execScrub pc w f none s = _
  simp [execScrub, h]

theorem exec_scrub_parity (h : Scrubs s pc) (w : BitVec 27) (e : Ecc) :
    exec (.scrub pc w ⟨e, true⟩ none) s = .next (parityCheck s pc true) := by
  obtain ⟨hen, hready, hfailed⟩ := h
  show execScrub pc w ⟨e, true⟩ none s = _
  simp [execScrub, hen, hready, hfailed]

theorem exec_scrub_passes (h : Scrubs s pc) (hparity : s.hbm.parity.get false pc = false) (w : BitVec 27) (e : Ecc) :
    exec (.scrub pc w ⟨e, false⟩ none) s =
      .next (scrubAdvanced (scrubHbm (upsetHbm s pc (8 * w.toNat) e) pc (8 * w.toNat)) pc w.toNat) := by
  obtain ⟨hen, hready, hfailed⟩ := h
  have hpass : parityCheck s pc false = s := by
    rw [parityCheck, hparity]
    rfl
  show execScrub pc w ⟨e, false⟩ none s = _
  simp [execScrub, hen, hready, hfailed, hpass, scrubAdvanced, Nat.mul_comm]

/-- What befalls another word comes after the scrub of this one. -/
theorem exec_scrub_upset (pc q : Fin 128) (w u : BitVec 27) (f : HbmFinds) (e : Ecc) (s : State) :
    Answers (.scrub pc w f none) s (fun t => exec (.scrub pc w f (some (q, u, e))) s = .next (upsetHbm t q (u.toNat * 8) e)) :=
  ⟨_, rfl, rfl⟩

end

/-! #### Parity of scrub commands (R231) -/

theorem getF_pcFailed_showDegraded (s : State) (m : Nat) :
    getF (showDegraded s) (F.HBM_PC_FAILED_FAILED m) = getF s (F.HBM_PC_FAILED_FAILED m) :=
  getF_showDegraded s fun n => by
    simp only [Fld.key, F.HBM_PC_FAILED_FAILED, F.HBM_WIN_CTRL_DEGRADED]
    omega

theorem showDegraded_hbm (s : State) : (showDegraded s).hbm = s.hbm := by rw [(onlyFields_showDegraded s).2]

/-- The last command of pseudo-channel `pc` failed its parity check, or passed it. -/
def parityNoted (s : State) (pc : Nat) (fails : Bool) : State :=
  onHbm s (fun h => { h with parity := h.parity.set false pc fails })

theorem parity_parityNoted (s : State) (pc : Nat) (fails : Bool) :
    (parityNoted s pc fails).hbm.parity.get false pc = fails := SMap.get_set_same _ _ _ _

/-- Pseudo-channel `pc` marked failed, after the second failure in a row. -/
def markedFailed (s : State) (pc : Nat) : State :=
  setFBit (parityNoted s pc false) (F.HBM_PC_FAILED_FAILED (pc / 32)) (pc % 32) true

section
variable {s : State} {pc : Nat}

theorem parityCheck_first (h : s.hbm.parity.get false pc = false) : parityCheck s pc true = parityNoted s pc true := by
  rw [parityCheck, h]
  rfl

theorem parityCheck_second (h : s.hbm.parity.get false pc = true) :
    parityCheck s pc true = showDegraded (markedFailed s pc) := by
  rw [parityCheck, h]
  rfl

theorem pcFailed_markedFailed : pcFailed (showDegraded (markedFailed s pc)) pc = true := by
  rw [pcFailed, getF_pcFailed_showDegraded]
  refine (getF_setFBit_testBit _ (F.HBM_PC_FAILED_FAILED (pc / 32)) _ _ _ ?_).trans (if_pos rfl)
  exact Nat.mod_lt _ (by decide)

theorem parityCheck_fails (hfailed : pcFailed s pc = false) :
    parityCheck s pc true = { s with hbm := (parityCheck s pc true).hbm, regs := (parityCheck s pc true).regs } ∧
    pcFailed (parityCheck s pc true) pc = s.hbm.parity.get false pc ∧
    (parityCheck s pc true).hbm.parity.get false pc = !s.hbm.parity.get false pc := by
  cases h : s.hbm.parity.get false pc with
  | false =>
    rw [parityCheck_first h]
    exact ⟨rfl, hfailed, parity_parityNoted s pc true⟩
  | true =>
    rw [parityCheck_second h]
    refine ⟨?_, pcFailed_markedFailed, ?_⟩
    · exact (onlyFields_showDegraded (markedFailed s pc)).2.trans (by rw [showDegraded_hbm]; rfl)
    · rw [showDegraded_hbm]
      exact parity_parityNoted s pc false

end

/-! #### What the scrub does with a word -/

/-- How the word of byte `a` reads back once the code of it has shown `e`. -/
abbrev markWith (s : State) (pc a : Nat) (e : Ecc) : Ecc :=
  if e = .clean ∨ hbmMark s pc a = .uncorrectable then hbmMark s pc a else e

theorem hbmMark_upsetHbm (s : State) (pc a : Nat) (e : Ecc) : hbmMark (upsetHbm s pc a e) pc a = markWith s pc a e := by
  unfold upsetHbm markWith
  split
  · rfl
  · exact SMap.get_set_same _ _ _ _

theorem upsetHbm_of_clean {s : State} {pc a : Nat} {e : Ecc} (h : markWith s pc a e = .clean) : upsetHbm s pc a e = s := by
  unfold markWith at h
  split at h
  next hkept => exact if_pos hkept
  next hnew => exact absurd (Or.inl h) hnew

theorem upsetHbm_regs (s : State) (pc a : Nat) (e : Ecc) : (upsetHbm s pc a e).regs = s.regs := by
  unfold upsetHbm
  split <;> rfl

/-- The word of byte `a` stands clean. -/
def markCleared (s : State) (pc a : Nat) : State :=
  onHbm s (fun h => { h with marks := h.marks.set .clean (pc * 2 ^ 27 + a / 8) .clean })

theorem regs_ite_markCleared (s : State) (pc a : Nat) (c : Bool) : (if c then markCleared s pc a else s).regs = s.regs := by
  cases c <;> rfl

theorem hbmMark_markCleared (s : State) (pc a : Nat) : hbmMark (markCleared s pc a) pc a = .clean := by
  simp [hbmMark, markCleared]

section
variable {s : State} {pc a : Nat}

theorem scrubHbm_clean (h : hbmMark s pc a = .clean) : scrubHbm s pc a = s := by
  unfold scrubHbm
  dsimp only
  rw [h]

theorem scrubHbm_corrected (h : hbmMark s pc a = .corrected) :
    scrubHbm s pc a = markCleared (bumpF s (F.HBM_CE_COUNT_COUNT (pc / 32)) 1) pc a := by
  unfold scrubHbm
  dsimp only
  rw [h]
  rfl

/-- An uncorrectable word is recorded; the registers do not show whether it has been rewritten. -/
theorem scrubHbm_uncorrectable (h : hbmMark s pc a = .uncorrectable) :
    ∃ m, (scrubHbm s pc a).regs = (noteUe s pc a true m).regs := by
  unfold scrubHbm
  dsimp only
  rw [h]
  exact ⟨_, regs_ite_markCleared _ _ _ _⟩

end

/-- The registers of an uncorrectable error, with the owner and the window that they name. -/
abbrev ueRecord (s : State) (pc a : Nat) (scrub : Bool) (owner window : Nat) : State :=
  setF (setF (setF (setF (setB (setB s F.HBM_STATUS_UE true) F.HBM_UE_LOC_FROM_SCRUB scrub) F.HBM_UE_LOC_OWNER owner)
    F.HBM_UE_LOC_WINDOW window) F.HBM_UE_LOC_PC pc) F.HBM_UE_WORD_WORD (a / 8)

/-- A register that is neither a count of uncorrectable errors nor a mark of failure. -/
structure ApartFromUe (f : Fld) : Prop where
  mirrored : f.key ≠ F.HBM_UE_COUNT_MIRRORED.key
  unrecovered : f.key ≠ F.HBM_UE_COUNT_UNRECOVERED.key
  failed : ∀ m, f.key ≠ (F.HBM_PC_FAILED_FAILED m).key
  degraded : ∀ n, f.key ≠ (F.HBM_WIN_CTRL_DEGRADED n).key

theorem getF_noteUe (s : State) (pc a : Nat) (scrub recovered : Bool) : ∃ owner window, ∀ f, ApartFromUe f →
    getF (noteUe s pc a scrub recovered) f = getF (ueRecord s pc a scrub owner window) f := by
  have hcounted : ∀ (u : State) (f : Fld), ApartFromUe f →
      getF (if recovered then bumpF u F.HBM_UE_COUNT_MIRRORED 1 else bumpF u F.HBM_UE_COUNT_UNRECOVERED 1) f = getF u f := by
    intro u f hf
    split
    · exact getF_bumpF_other u hf.mirrored 1
    · exact getF_bumpF_other u hf.unrecovered 1
  unfold noteUe
  extract_lets w sUe sScrub sOwner sPc sWord sCounted now ts sTimed
  obtain ⟨owner, window, hrecord⟩ : ∃ owner window, sWord = ueRecord s pc a scrub owner window := ⟨_, _, rfl⟩
  refine ⟨owner, window, fun f hf => ?_⟩
  rw [← hrecord, ← hcounted sWord f hf]
  split
  · rw [getF_showDegraded _ hf.degraded, getF_setFBit_other _ (hf.failed _)]
    rfl
  · rfl

/-- The record of an uncorrectable error (R230). -/
theorem noteUe_records (s : State) {pc : Nat} (hpc : pc < 128) (a : Nat) (scrub recovered : Bool) :
    let t := noteUe s pc a scrub recovered
    getB t F.HBM_STATUS_UE = true ∧ getF t F.HBM_UE_LOC_PC = pc ∧ getF t F.HBM_UE_WORD_WORD = a / 8 % 2 ^ 27 ∧
      getB t F.HBM_UE_LOC_FROM_SCRUB = scrub := by
  obtain ⟨owner, window, hrecord⟩ := getF_noteUe s pc a scrub recovered
  have hapart : ∀ f ∈ [F.HBM_STATUS_UE, F.HBM_UE_LOC_PC, F.HBM_UE_WORD_WORD, F.HBM_UE_LOC_FROM_SCRUB], ApartFromUe f := by
    simp only [List.forall_mem_cons, List.not_mem_nil, false_imp_iff, implies_true, and_true]
    refine ⟨?_, ?_, ?_, ?_⟩ <;> refine ⟨by decide, by decide, fun m => ?_, fun n => ?_⟩ <;>
      simp only [Fld.key, F.HBM_STATUS_UE, F.HBM_UE_LOC_PC, F.HBM_UE_WORD_WORD, F.HBM_UE_LOC_FROM_SCRUB,
        F.HBM_PC_FAILED_FAILED, F.HBM_WIN_CTRL_DEGRADED] <;> omega
  refine ⟨?_, ?_, ?_, ?_⟩
  · rw [getB, hrecord _ (hapart _ (by simp)), getF_setF_other _ (by decide), getF_setF_other _ (by decide),
      getF_setF_other _ (by decide), getF_setF_other _ (by decide), getF_setB_other _ (by decide)]
    exact getB_setB_same s F.HBM_STATUS_UE true rfl
  · rw [hrecord _ (hapart _ (by simp)), getF_setF_other _ (by decide), getF_setF_same]
    exact Nat.mod_eq_of_lt hpc
  · rw [hrecord _ (hapart _ (by simp)), getF_setF_same]
    rfl
  · rw [getB, hrecord _ (hapart _ (by simp)), getF_setF_other _ (by decide), getF_setF_other _ (by decide),
      getF_setF_other _ (by decide), getF_setF_other _ (by decide)]
    exact getB_setB_same _ F.HBM_UE_LOC_FROM_SCRUB scrub rfl

/-- The scrub of a word that reads back, with what its code shows, clean, corrected or uncorrectable (R232). -/
theorem scrubHbm_effect (s : State) (pc : Fin 128) (w : BitVec 27) (e : Ecc) :
    let a := 8 * w.toNat
    let u := scrubHbm (upsetHbm s pc a e) pc a
    (markWith s pc a e = .clean → u = s) ∧
    (markWith s pc a e = .corrected → getF u (F.HBM_CE_COUNT_COUNT (pc / 32)) =
      saturate 32 (getF s (F.HBM_CE_COUNT_COUNT (pc / 32)) + 1) ∧ hbmMark u pc a = .clean) ∧
    (markWith s pc a e = .uncorrectable → getB u F.HBM_STATUS_UE = true ∧ getF u F.HBM_UE_LOC_PC = pc ∧
      getF u F.HBM_UE_WORD_WORD = w.toNat ∧ getB u F.HBM_UE_LOC_FROM_SCRUB = true) := by
  dsimp only
  have hmark := hbmMark_upsetHbm s pc (8 * w.toNat) e
  refine ⟨fun h => ?_, fun h => ?_, fun h => ?_⟩
  · rw [upsetHbm_of_clean h, scrubHbm_clean]
    rw [← h, ← hmark, upsetHbm_of_clean h]
  · rw [scrubHbm_corrected (hmark.trans h)]
    refine ⟨?_, hbmMark_markCleared _ _ _⟩
    refine (getF_setF_same (upsetHbm s pc (8 * w.toNat) e) (F.HBM_CE_COUNT_COUNT (pc / 32)) _).trans ?_
    rw [getF_congr (upsetHbm_regs s pc (8 * w.toNat) e)]
    exact Nat.mod_eq_of_lt (Nat.lt_of_le_of_lt (Nat.min_le_right _ _) (Nat.sub_lt (by decide : 0 < 2 ^ 32) Nat.one_pos))
  · obtain ⟨m, hregs⟩ := scrubHbm_uncorrectable (hmark.trans h)
    obtain ⟨hue, hpc, hword, hscrub⟩ := noteUe_records (upsetHbm s pc (8 * w.toNat) e) pc.isLt (8 * w.toNat) true m
    simp only [getB, getF_congr hregs] at *
    refine ⟨hue, hpc, ?_, hscrub⟩
    rw [hword, Nat.mul_div_cancel_left _ (by decide)]
    exact Nat.mod_eq_of_lt w.isLt

end Sys2Proof.Machine
end

section
/-! ### The HBM subsystem -/

namespace Sys2Proof.Machine

theorem exec_apply (s : State) (v : Word) (pass : BitVec 4) :
    exec (.apply v pass) s = .next (phyCtrlWrite s v.toNat pass.toNat) := rfl

theorem exec_pcFailedWrite (s : State) (m : Fin 4) (v : Word) :
    exec (.pcFailedWrite m v) s = .next (pcFailedWrite s m v.toNat) := rfl

/-- A scrub command that passes its parity check (R232). -/
theorem scrub_answers {s : State} {pc : Fin 128} (h : Scrubs s pc) (hparity : s.hbm.parity.get false pc = false)
    (w : BitVec 27) (e : Ecc) :
    let m := markWith s pc (8 * w.toNat) e
    Answers (.scrub pc w ⟨e, false⟩ none) s (fun t =>
      getF t F.HBM_SCRUB_PROGRESS_POSITION = (pc.val * 2 ^ 27 + w.toNat + 1) / 2 ^ 18 % 2 ^ 16 ∧
      (m = .clean → OnlyFields s t [F.HBM_SCRUB_PROGRESS_POSITION, F.HBM_SCRUB_PROGRESS_PASSES]) ∧
      (m = .corrected → getF t (F.HBM_CE_COUNT_COUNT (pc / 32)) = saturate 32 (getF s (F.HBM_CE_COUNT_COUNT (pc / 32)) + 1) ∧
        hbmMark t pc (8 * w.toNat) = .clean) ∧
      (m = .uncorrectable → getB t F.HBM_STATUS_UE = true ∧ getF t F.HBM_UE_LOC_PC = pc.val ∧
        getF t F.HBM_UE_WORD_WORD = w.toNat ∧ getB t F.HBM_UE_LOC_FROM_SCRUB = true)) := by
  intro m
  obtain ⟨hclean, hcorrected, huncorrectable⟩ := scrubHbm_effect s pc w e
  obtain ⟨u, hu⟩ : ∃ u, u = scrubHbm (upsetHbm s pc (8 * w.toNat) e) pc (8 * w.toNat) := ⟨_, rfl⟩
  rw [← hu] at hclean hcorrected huncorrectable
  have honly := onlyFields_scrubAdvanced u pc w.toNat
  have hother : ∀ {f : Fld}, f.key ≠ F.HBM_SCRUB_PROGRESS_POSITION.key → f.key ≠ F.HBM_SCRUB_PROGRESS_PASSES.key →
      getF (scrubAdvanced u pc w.toNat) f = getF u f := fun hpos hpass =>
    honly.1 _ (by simp only [List.forall_mem_cons]; exact ⟨hpos, hpass, by simp⟩)
  refine ⟨scrubAdvanced u pc w.toNat, hu ▸ exec_scrub_passes h hparity w e, position_scrubAdvanced u pc w.toNat,
    fun hm => ?_, fun hm => ?_, fun hm => ?_⟩
  · rwa [hclean hm] at honly ⊢
  · obtain ⟨hcount, hmark⟩ := hcorrected hm
    refine ⟨(hother ?_ ?_).trans hcount, ?_⟩
    · simp only [Fld.key, F.HBM_CE_COUNT_COUNT, F.HBM_SCRUB_PROGRESS_POSITION]
      omega
    · simp only [Fld.key, F.HBM_CE_COUNT_COUNT, F.HBM_SCRUB_PROGRESS_PASSES]
      omega
    · rw [hbmMark, scrubAdvanced_hbm]
      exact hmark
  · obtain ⟨hue, hpc, hword, hscrub⟩ := huncorrectable hm
    rw [getB, getB, hother (by decide) (by decide), hother (by decide) (by decide), hother (by decide) (by decide),
      hother (by decide) (by decide)]
    exact ⟨hue, hpc, hword, hscrub⟩

/-- Settles O38, command by command. -/
theorem hbmCommandsAct : Obligations.HbmCommandsAct := by
  unfold Obligations.HbmCommandsAct
  intro s v
  refine ⟨fun i pass hv hready => ?_, fun c0 c1 tb hv hcopy => ?_, fun c0 c1 hv hready hcopy => ?_,
    fun n => winCtrlWrite_answers s n v, fun m => ?_, fun h => phyDataAccess_write h v, phyDataAccess_read s,
    refresh_answers s, fun pc w e hen hready hfailed hparity => scrub_answers ⟨hen, hready, hfailed⟩ hparity w e,
    fun pc w e hen hready hfailed => ?_, fun pc w e par hen => exec_scrub_disabled hen w ⟨e, par⟩,
    fun pc q w u e f par => exec_scrub_upset pc q w u ⟨e, par⟩ f s⟩
  · obtain ⟨hbit, hfail, hrefresh, hdelays⟩ := applied_phyCtrlWrite (pass := pass.toNat) i.isLt hv hready
    exact ⟨_, exec_apply s v pass, hbit, hfail, hrefresh, hdelays, fieldsBut_phyCtrlWrite s v.toNat pass.toNat⟩
  · refine ⟨_, exec_restoreTable hv c0 c1, ?_⟩
    rw [restoreTable_of_some hcopy]
    exact ⟨tableValid_tableRestored tb s, fun n => restoredWindow_tableRestored tb s n.isLt⟩
  · refine ⟨_, exec_restoreTable hv c0 c1, ?_⟩
    rw [restoreTable_of_none hready hcopy]
    exact ⟨getB_setB_same _ _ _ rfl, (OnlyFields.refl s _).setB (by simp) _⟩
  · refine ⟨_, exec_pcFailedWrite s m v, pcFailedWrite_frame s m v.toNat, fun b => ?_⟩
    rw [getF_pcFailedWrite]
    exact testBit_returned m.isLt b.isLt s v.toNat
  · exact ⟨_, exec_scrub_parity ⟨hen, hready, hfailed⟩ w e, parityCheck_fails hfailed⟩

end Sys2Proof.Machine
end

section
/-! ### The clocks while the array comes to rest -/

namespace Sys2Proof.Machine

/-! #### Management traffic -/

theorem linksMoved_queueMgmt (s : State) (l dest : Nat) : LinksMoved s (queueMgmt s l dest) := by
  have hdraw : LinksMoved s { s with draws := s.draws + 16 } :=
    ⟨rfl, rfl, rfl, rfl, rfl, rfl, rfl, fun _ _ => rfl, List.prefix_rfl, fun _ h => h⟩
  unfold queueMgmt
  exact (hdraw.trans (linksMoved_wakeLink _ l)).trans (linksMoved_onLink _ l _)

theorem linksMoved_sendMgmt (s : State) (dest : Nat) : LinksMoved s (sendMgmt s dest) := by
  unfold sendMgmt
  split
  · exact .refl s
  · exact linksMoved_queueMgmt s _ dest

theorem linksMoved_foldl_sendMgmt (ps : List Nat) (s : State) : LinksMoved s (ps.foldl sendMgmt s) :=
  .foldl (fun t p => linksMoved_sendMgmt t p) ps s

/-- Operations that leave the clock block leave it one after another. -/
theorem foldl_clk {α : Type} {g : State → α → State} (hg : ∀ t a, (g t a).clk = t.clk) (xs : List α) (s : State) :
    (xs.foldl g s).clk = s.clk := by
  induction xs generalizing s with
  | nil => rfl
  | cons x xs ih => exact (ih _).trans (hg s x)

theorem sendTrack_clk (s : State) (l : Nat) : (sendTrack s l).clk = s.clk := rfl

theorem leaveDoze_clk (s : State) (l : Nat) : (leaveDoze s l).clk = s.clk := by
  unfold leaveDoze
  split
  · exact foldl_clk (fun t _ => sendTrack_clk t l) _ _
  · rfl

theorem wakeLink_clk (s : State) (l : Nat) : (wakeLink s l).clk = s.clk := by
  unfold wakeLink
  dsimp only
  split <;> exact leaveDoze_clk _ l

theorem sendMgmt_clk (s : State) (dest : Nat) : (sendMgmt s dest).clk = s.clk := by
  unfold sendMgmt
  split
  · rfl
  · exact wakeLink_clk _ _

/-! #### What the array's coming to rest leaves -/

/-- The fields of the identification and clock blocks, below those of the resets. -/
abbrev ClockField (f : Fld) : Prop := f.key < 0x20000 * 32

/-- A field that is none of a clock's, nor STATE of the array. -/
abbrev RestFree (f : Fld) : Prop := 0x20000 * 32 ≤ f.key ∧ f.key ≠ F.ARY_STATE_STATE.key

/-- The clock block and its registers are as in `r`. -/
def ClocksKept (r s : State) : Prop := s.clk = r.clk ∧ ∀ f, ClockField f → getF s f = getF r f

/-- The clocks and the emulation state are as in `r`. -/
def RestKept (r s : State) : Prop := ClocksKept r s ∧ emState s = emState r

theorem ClocksKept.refl (s : State) : ClocksKept s s := ⟨rfl, fun _ _ => rfl⟩

theorem ClocksKept.trans {r s t : State} (h : ClocksKept r s) (h' : ClocksKept s t) : ClocksKept r t :=
  ⟨h'.1.trans h.1, fun f hf => (h'.2 f hf).trans (h.2 f hf)⟩

theorem ClocksKept.congr {r s t : State} (h : ClocksKept r s) (hclk : t.clk = s.clk) (hregs : t.regs = s.regs) :
    ClocksKept r t :=
  h.trans ⟨hclk, fun f _ => getF_congr hregs f⟩

theorem ClocksKept.setF {r s : State} (h : ClocksKept r s) {f : Fld} (hf : 0x20000 * 32 ≤ f.key) (v : Nat) :
    ClocksKept r (setF s f v) :=
  ⟨h.1, fun g hg => (getF_setF_other s (Nat.lt_of_lt_of_le hg hf).ne v).trans (h.2 g hg)⟩

section
variable {r s t : State}

theorem RestKept.refl (s : State) : RestKept s s := ⟨.refl s, rfl⟩

theorem RestKept.trans (h : RestKept r s) (h' : RestKept s t) : RestKept r t := ⟨h.1.trans h'.1, h'.2.trans h.2⟩

theorem RestKept.ite {c : Prop} [Decidable c] (h : RestKept r s) (h' : RestKept r t) : RestKept r (if c then s else t) := by
  split <;> assumption

theorem RestKept.foldl {α : Type} {g : State → α → State} (hg : ∀ t a, RestKept r t → RestKept r (g t a))
    (h : RestKept r s) (xs : List α) : RestKept r (xs.foldl g s) := by
  induction xs generalizing s with
  | nil => exact h
  | cons x xs ih => exact ih (hg s x h)

theorem RestKept.setF (h : RestKept r s) {f : Fld} (v : Nat) (hf : RestFree f := by decide) : RestKept r (setF s f v) :=
  ⟨h.1.setF hf.1 v, (getF_setF_other s hf.2.symm v).trans h.2⟩

theorem RestKept.setB (h : RestKept r s) {f : Fld} (b : Bool) (hf : RestFree f := by decide) : RestKept r (setB s f b) :=
  h.setF _ hf

/-- An operation on anything but the clock block and the registers. -/
theorem RestKept.congr (h : RestKept r s) (hclk : t.clk = s.clk) (hregs : t.regs = s.regs) : RestKept r t :=
  ⟨h.1.congr hclk hregs, (getF_congr hregs _).trans h.2⟩

theorem RestKept.onAsy (h : RestKept r s) (g : Asy → Asy) : RestKept r (onAsy s g) := h

/-- Traffic on the links leaves the clocks and STATE. -/
theorem RestKept.linksMoved (h : RestKept r s) (hm : LinksMoved s t) (hclk : t.clk = s.clk) : RestKept r t := by
  refine h.trans ⟨⟨hclk, fun f hf => hm.below f (Nat.lt_trans hf (by decide))⟩, ?_⟩
  exact hm.field

/-- So do errors that are noted in the HBM. -/
theorem RestKept.hbmNoted (h : RestKept r s) (hm : HbmNoted s t) (hclk : t.clk = s.clk) : RestKept r t := by
  refine h.trans ⟨⟨hclk, fun f hf => hm.below f (Nat.lt_trans hf (by decide))⟩, ?_⟩
  exact hm.below _ (by decide)

/-! #### Completions -/

theorem RestKept.complete (h : RestKept r s) (d : Desc) (status result : Nat) : RestKept r (complete s d status result) := by
  unfold Machine.complete
  dsimp only
  have hbumped : RestKept r (bumpStarted (bumpLive s d.session d.sgen.toNat (· - 1)) d.session d.sgen.toNat (· - 1)) := h
  refine .ite (hbumped.setF _) (.ite hbumped ?_)
  rw [postCompletion_frame]
  exact h

theorem RestKept.sendMgmt (h : RestKept r s) (dest : Nat) : RestKept r (sendMgmt s dest) :=
  h.linksMoved (linksMoved_sendMgmt s dest) (sendMgmt_clk s dest)

theorem RestKept.finishReq (h : RestKept r s) (q : DesignReq) (status result : Nat) :
    RestKept r (finishReq s q status result) := by
  unfold Machine.finishReq
  split
  · exact h.complete _ _ _
  · exact h.sendMgmt _

theorem RestKept.finishWrites (h : RestKept r s) (rs : List DesignReq) (result : Nat) :
    RestKept r (finishWrites s rs result) := by
  refine .foldl (fun t q h => ?_) h rs
  exact .ite (h.finishReq _ _ _) (.ite (h.finishReq _ _ _) h)

theorem RestKept.designEnd (h : RestKept r s) (status result : Nat) : RestKept r (designEnd s status result) := by
  unfold Machine.designEnd
  dsimp only
  refine .foldl (fun t w h => .foldl (fun _ q h => h.finishReq q _ _) h _) ?_ _
  exact h

theorem RestKept.endRun (h : RestKept r s) (status : Nat) : RestKept r (endRun s status) := by
  unfold Machine.endRun
  split
  · refine .complete ?_ _ _ _
    exact h
  · exact h

theorem RestKept.endStops (h : RestKept r s) (status : Nat) : RestKept r (endStops s status) := by
  unfold Machine.endStops
  refine .foldl (fun t q h => h.complete _ _ _) ?_ _
  exact h

/-! #### Design memories -/

theorem RestKept.hbmPut (h : RestKept r s) (pc a : Nat) (b : Byte) : RestKept r (hbmPut s pc a b) := .ite h h

theorem RestKept.winWrite (h : RestKept r s) (w x : Nat) (b : Byte) : RestKept r (winWrite s w x b) :=
  .ite ((h.hbmPut _ _ b).hbmPut _ _ b) (h.hbmPut _ _ b)

theorem RestKept.targetWrite (h : RestKept r s) (d p target window b v n : Nat) :
    RestKept r (targetWrite s d p target window b v n) := by
  induction n generalizing s b v with
  | zero => exact h
  | succ n ih =>
    refine ih ?_ _ _
    unfold Machine.setTargetByte
    split
    · exact h
    · exact h.winWrite _ _ _
    · exact h

theorem RestKept.writeRegBytes (h : RestKept r s) (d : Fin 4) (nb off : Nat) (bs : List Byte) :
    RestKept r (writeRegBytes s d nb off bs) := by
  induction bs generalizing s off with
  | nil => exact h
  | cons b bs ih =>
    refine ih ?_ _
    split
    · refine .ite (.foldl (fun t i h => ?_) h _) h
      exact h
    · exact h

theorem RestKept.applyNow (h : RestKept r s) (nb : Nat) (q : DesignReq) : RestKept r (applyNow s nb q) := by
  unfold Machine.applyNow
  refine .ite (.ite (.foldl (fun t d h => ?_) h _) (.foldl (fun t w h => ?_) h _)) h
  · exact h.writeRegBytes _ _ _ _
  · exact h.targetWrite _ _ _ _ _ _ _

theorem RestKept.designRest (h : RestKept r s) : RestKept r (designRest s) := by
  unfold Machine.designRest
  dsimp only
  refine .foldl (fun t w h => ?_) ?_ _
  · exact .finishWrites (.foldl (fun _ q h => h.applyNow _ q) h _) _ _
  · exact h

/-! #### Channels -/

theorem RestKept.completeSent (h : RestKept r s) (k gen b c : Nat) : RestKept r (completeSent s k gen b c) := by
  refine .foldl (fun t m h => h.complete _ _ _) ?_ _
  exact h

theorem RestKept.finishClose (h : RestKept r s) (c : Nat) : RestKept r (finishClose s c) := by
  unfold Machine.finishClose
  dsimp only
  refine .ite (.foldl (fun t d h => h.complete _ _ _) (.setF ?_ _ (by decide)) _) h
  exact h

theorem RestKept.closeSent (h : RestKept r s) : RestKept r (closeSent s) := by
  unfold Machine.closeSent
  dsimp only
  refine .foldl (fun t c h => h.finishClose c) (.foldl (fun t m h => h.complete _ _ _) ?_ _) _
  exact h

theorem RestKept.chnAbandon (h : RestKept r s) (b : Nat) (replayed : Bool) : RestKept r (chnAbandon s b replayed) := by
  unfold Machine.chnAbandon
  dsimp only
  refine .foldl (fun t c h => h.finishClose c) (.closeSent (.foldl (fun t k h => ?_) ?_ _)) _
  · exact h
  · exact h

theorem RestKept.closeRest (h : RestKept r s) : RestKept r (closeRest s) := by
  unfold Machine.closeRest
  refine .foldl (fun t c h => .finishClose ?_ c) h _
  unfold closeTaken
  dsimp only
  refine .foldl (fun t q h => h.completeSent _ _ _ _) ?_ _
  exact h

/-! #### Captures and Hallmarks -/

theorem noteUe_clk (s : State) (pc a : Nat) (scrub recovered : Bool) : (noteUe s pc a scrub recovered).clk = s.clk := by
  unfold noteUe
  extract_lets w sUe sScrub sOwner sPc sWord sCounted now ts sTimed
  have hcounted : sCounted.clk = s.clk := by
    cases recovered <;> rfl
  split
  · rw [(onlyFields_showDegraded _).2]
    exact hcounted
  · exact hcounted

theorem winServe_clk (s : State) (w off n : Nat) : (winServe s w off n).1.clk = s.clk := by
  unfold winServe
  refine List.foldlRecOn (motive := fun p : State × List Nat => p.1.clk = s.clk) _ _ rfl fun p hp x _ => Eq.trans ?_ hp
  dsimp only
  unfold serveWord
  dsimp only
  split
  · rfl
  · rfl
  · split <;> exact noteUe_clk _ _ _ _ _

theorem RestKept.winStore (h : RestKept r s) (w off len : Nat) (m : Memory) : RestKept r (winStore s w off len m) := by
  unfold Machine.winStore
  refine .foldl (fun t c h => .ite (h.winWrite _ _ _) h) ?_ _
  exact h

theorem RestKept.takeCapture (h : RestKept r s) (nb : Nat) : RestKept r (takeCapture s nb) := by
  unfold Machine.takeCapture
  split
  · exact .ite ((h.winStore _ _ _ _).onAsy _) h
  · exact h

theorem RestKept.hallmarkView (h : RestKept r s) {nb : Nat} (ht : hallmarkView s nb = some t) : RestKept r t := by
  unfold Machine.hallmarkView at ht
  dsimp only at ht
  split at ht
  · cases ht
    exact RestKept.setB (s := { s with design := _ }) h _ (by decide)
  · split at ht
    · cases ht
      exact h
    · cases ht

theorem RestKept.takeHallmark (h : RestKept r s) (nb : Nat) : RestKept r (takeHallmark s nb) := by
  have hmeets : ∀ {u} ws, RestKept r u → RestKept r (hallmarkMeets u ws) := fun ws hu =>
    .foldl (fun t w h => h.hbmNoted (hbmNoted_winServe t w _ _) (winServe_clk t w _ _)) hu _
  unfold Machine.takeHallmark
  split
  · refine .ite ?_ h
    split
    · exact h
    next u hu =>
      have hview : RestKept r u := by
        split at hu
        · exact h.hallmarkView hu
        · cases hu
          exact h
      exact hmeets _ hview
  · exact h

theorem RestKept.takeVisible (h : RestKept r s) : RestKept r (takeVisible s) := (h.takeCapture _).takeHallmark _

end

end Sys2Proof.Machine
end

section
/-! ### The stop of a machine at its last committed boundary -/

namespace Sys2Proof.Machine

section
variable {r s : State}

/-! #### Regions -/

theorem RestKept.holdBlocks (h : RestKept r s) : RestKept r (holdBlocks s) := by
  unfold Machine.holdBlocks
  refine .foldl (fun t e h => ?_) h _
  split
  · refine .ite ?_ h
    unfold isolateBlocks
    refine RestKept.foldl
      (g := fun t (e : Option HgrIso × Nat) => onHgr t (fun h => { h with iso := h.iso.set none e.2 e.1 })) (fun t e h => ?_) h _
    exact h
  · exact h

theorem RestKept.rejoinAtRest (h : RestKept r s) {n : Nat} (hn : n < 64) : RestKept r (rejoinAtRest s n) := by
  unfold Machine.rejoinAtRest
  dsimp only
  refine .setF ?_ _ ?_
  · refine RestKept.foldl (g := fun t (e : Nat × IsoTile) =>
      rejoinTile t (Fin.ofNat 4 (e.1 / 64)) (e.1 % 64) s.run.nextCommit e.2) (fun t e h => ?_) h _
    exact h
  · simp only [RestFree, Fld.key, F.LDR_REGION_STATE, F.ARY_STATE_STATE]
    omega

theorem RestKept.restRegions (h : RestKept r s) : RestKept r (restRegions s) := by
  unfold Machine.restRegions
  dsimp only
  refine .holdBlocks (List.foldlRecOn (motive := RestKept r) _ _ ?_ fun t ht n hn => ?_)
  · refine RestKept.foldl (g := fun t (e : Nat × Option IsoTile) => match e.2 with
      | some i => rejoinTile t (Fin.ofNat 4 (e.1 / 64)) (e.1 % 64) t.run.nextCommit i
      | none => t) (fun t e h => ?_) h _
    split <;> exact h
  · exact .ite (ht.rejoinAtRest (List.mem_range.1 hn)) ht

/-- STATE of a region that rejoined stands above the clocks, whatever the region's number. -/
theorem ClocksKept.regionsBack (h : ClocksKept r s) (nb : Nat) : ClocksKept r (regionsBack s nb) := by
  unfold Machine.regionsBack
  refine List.foldlRecOn (motive := ClocksKept r) _ _ h fun t ht e _ => ?_
  have hset : ClocksKept r (Machine.setF t (F.LDR_REGION_STATE e.1) 2) :=
    ht.setF (by simp only [Fld.key, F.LDR_REGION_STATE]; omega) 2
  split
  · split
    · split
      · exact hset
      · exact ht
    · exact ht
  · exact ht

theorem ClocksKept.asyAbandon (h : ClocksKept r s) (b : Nat) : ClocksKept r (asyAbandon s b) := h.congr rfl rfl

theorem ClocksKept.hgrAbandon (h : ClocksKept r s) (b : Nat) (replayed : Bool) : ClocksKept r (hgrAbandon s b replayed) :=
  h.congr rfl rfl

theorem ClocksKept.lnkAbandon (h : ClocksKept r s) (b : Nat) : ClocksKept r (lnkAbandon s b) := h.congr rfl rfl

theorem ClocksKept.memAbandon (h : ClocksKept r s) (b : Nat) (replayed : Bool) : ClocksKept r (memAbandon s b replayed) :=
  h.congr rfl rfl

theorem ClocksKept.restoreTo (h : ClocksKept r s) (nb : Nat) (replayed : Bool) : ClocksKept r (restoreTo s nb replayed) := by
  obtain ⟨hchn, -⟩ := (RestKept.refl s).chnAbandon nb replayed
  have hunits := (((h.trans hchn).asyAbandon nb).hgrAbandon nb replayed).lnkAbandon nb
  unfold Machine.restoreTo
  dsimp only
  exact ((hunits.memAbandon nb replayed).regionsBack nb).congr rfl rfl

/-! #### Holds -/

theorem RestKept.carryUserHold (h : RestKept r s) (next : Nat) : RestKept r (carryUserHold s next) := by
  have hset := (h.setB (f := F.ARY_HOLD_CTRL_PENDING) true).setB (f := F.ARY_HOLD_CTRL_ACTIVE) false
  unfold Machine.carryUserHold
  exact .ite (hset.congr rfl rfl) h

theorem RestKept.endHolds (h : RestKept r s) (keepUser : Bool) (next : Nat) : RestKept r (endHolds s keepUser next) := by
  have hset := (h.setB (f := F.ARY_HOLD_CTRL_PENDING) false).setB (f := F.ARY_HOLD_CTRL_ACTIVE) false
  have hheld : RestKept r (if keepUser then Machine.carryUserHold s next
      else onHolds (Machine.setB (Machine.setB s F.ARY_HOLD_CTRL_PENDING false) F.ARY_HOLD_CTRL_ACTIVE false)
        (fun h => { h with userAt := none })) := .ite (h.carryUserHold next) (hset.congr rfl rfl)
  unfold Machine.endHolds
  dsimp only
  refine .setB (.foldl (fun t n h => h.setF _ (by decide)) ?_ _) _ (by decide)
  exact hheld.congr rfl rfl

theorem RestKept.thawAll (h : RestKept r s) : RestKept r (thawAll s) := by
  unfold Machine.thawAll
  refine .foldl (fun t d h => ?_) h _
  exact (h.congr rfl rfl).setF _ (by decide)

/-- The machine comes to rest in STOPPED, and its clocks go on as they were. -/
theorem clocksKept_restStopped (h : ClocksKept r s) : ClocksKept r (restStopped s) ∧ emState (restStopped s) = 4 := by
  obtain ⟨w, hw⟩ : ∃ w, w = thawAll (endHolds (restRegions (restoreTo s s.run.nextCommit false)) true s.run.nextCommit) :=
    ⟨_, rfl⟩
  have hthawed : ClocksKept r w := by
    rw [hw]
    exact (h.restoreTo _ _).trans (((RestKept.refl _).restRegions).endHolds _ _).thawAll.1
  obtain ⟨u, hu⟩ : ∃ u, u = onRun (setF w F.ARY_STATE_STATE 4)
    (fun r => { r with asyStop := none, replay := none, stopCycles := [] }) := ⟨_, rfl⟩
  have hstopped : ClocksKept r u := by
    rw [hu]
    exact (hthawed.setF (f := F.ARY_STATE_STATE) (by decide) 4).congr rfl rfl
  have hstate : emState u = 4 := by
    rw [hu]
    exact getF_setF_same w F.ARY_STATE_STATE 4
  have hrest : restStopped s = designRest (takeVisible (setB (closeRest u) F.FLT_STATUS_REPLAYING false)) := by
    rw [hu, hw]
    rfl
  have hclosed := ((RestKept.refl u).closeRest).setB (f := F.FLT_STATUS_REPLAYING) false
  obtain ⟨hclocks, hem⟩ := hclosed.takeVisible.designRest
  rw [hrest]
  exact ⟨hstopped.trans hclocks, hem.trans hstate⟩

/-- The stop of a thermal trip leaves the clocks, and an executing machine in STOPPED. -/
theorem clocksKept_stopCommitted (s : State) : ClocksKept s (stopCommitted s) := by
  unfold stopCommitted
  split
  · obtain ⟨hended, -⟩ := ((RestKept.refl s).endRun stCancelled).designEnd stCancelled 0
    obtain ⟨hrest, -⟩ := clocksKept_restStopped hended
    exact hrest.trans ((RestKept.refl _).endStops stOK).1
  · exact .refl s

theorem emState_stopCommitted (h : executing s = true) : emState (stopCommitted s) = 4 := by
  obtain ⟨-, hrest⟩ := clocksKept_restStopped (.refl (designEnd (endRun s stCancelled) stCancelled 0))
  rw [stopCommitted, if_pos h, ((RestKept.refl _).endStops stOK).2, hrest]

end

end Sys2Proof.Machine
end

section
/-! ### SCLK, temperature and power -/

namespace Sys2Proof.Machine

/-! #### Plans (R510 to R513) -/

section
variable {s t : State}

/-- What the device knows of its place in the machine rests on registers alone. -/
theorem voteRoot_congr (hmulti : getF t F.ARY_STATE_MULTI = getF s F.ARY_STATE_MULTI)
    (hroot : getF t F.ARY_STATE_VOTE_ROOT = getF s F.ARY_STATE_VOTE_ROOT) : voteRoot t = voteRoot s := by
  simp only [voteRoot, multi, getB, hmulti, hroot]

theorem otherPositions_congr (h : ∀ f ∈ [F.ARY_STATE_MULTI, F.LNK_MACHINE_SIZE_M1, F.ARY_STATE_POSITION], getF t f = getF s f) :
    otherPositions t = otherPositions s := by
  have hmulti : multi t = multi s := by rw [multi, getB, h _ (by simp), multi, getB]
  have hsize : machineSize t = machineSize s := by rw [machineSize, h _ (by simp), machineSize]
  have hposition : position t = position s := h _ (by simp)
  rw [otherPositions, hmulti, hsize, hposition, otherPositions]

end

/-- The steward's messages to the regulators are all that a change of the core voltages sends. -/
theorem setVoltages_frame (s : State) (D : Nat) : setVoltages s D = { s with outs := (setVoltages s D).outs } := by
  unfold setVoltages
  refine List.foldlRecOn (motive := fun t : State => t = { s with outs := t.outs }) _ _ rfl fun t ht n _ => ?_
  refine List.foldlRecOn (motive := fun t : State => t = { s with outs := t.outs }) _ _ ht fun u hu d _ => ?_
  split
  · rw [hu]
    rfl
  · exact hu

theorem setVoltages_regs (s : State) (D : Nat) : (setVoltages s D).regs = s.regs := by rw [setVoltages_frame]

/-- A plan towards a divisor `t` of the range of R509 in force, or the ramp over where the divisor is there already. -/
def planned (s : State) (t s0 : Nat) : State :=
  let d := getF s F.CLK_SCLK_D
  setB (setF (onClk s (fun c => { c with plan := if d = t then none else some (t, s0) })) F.CLK_SCLK_TARGET t)
    F.CLK_STATUS_RAMPING (decide (d ≠ t))

theorem setPlan_of_running {s : State} (hd : getF s F.CLK_SCLK_D ≠ 0) {t : Nat} (ht : clamp 256 1024 t = t) (s0 : Nat) :
    setPlan s t s0 = planned s t s0 := by
  unfold setPlan planned
  dsimp only
  rw [ht, if_neg hd]
  split
  next h => rw [h, decide_eq_false (not_not.2 rfl)]
  next h => rw [decide_eq_true h]

theorem setPlan_of_stopped {s : State} (hd : getF s F.CLK_SCLK_D = 0) (t s0 : Nat) : setPlan s t s0 = s := if_pos hd

theorem getF_planned {f : Fld} (htarget : f.key ≠ F.CLK_SCLK_TARGET.key) (hramping : f.key ≠ F.CLK_STATUS_RAMPING.key)
    (s : State) (t s0 : Nat) : getF (planned s t s0) f = getF s f :=
  (getF_setB_other _ hramping _).trans (getF_setF_other _ htarget _)

theorem target_planned (s : State) {t : Nat} (ht : t ≤ 1024) (s0 : Nat) : getF (planned s t s0) F.CLK_SCLK_TARGET = t :=
  (getF_setB_other _ (by decide) _).trans ((getF_setF_same _ _ _).trans (Nat.mod_eq_of_lt (Nat.lt_of_le_of_lt ht (by decide))))

theorem ramping_planned (s : State) (t s0 : Nat) :
    getB (planned s t s0) F.CLK_STATUS_RAMPING = decide (getF s F.CLK_SCLK_D ≠ t) := getB_setB_same _ _ _ rfl

theorem clamp_le (x : Nat) : clamp 256 1024 x ≤ 1024 := by unfold clamp; omega

theorem clamp_clamp (x : Nat) : clamp 256 1024 (clamp 256 1024 x) = clamp 256 1024 x := by unfold clamp; omega

/-- The vote root's plan goes to the others, whose acknowledgements are awaited. -/
theorem spreadPlan_clk (s : State) (s0 : Nat) :
    (spreadPlan s s0).clk = { s.clk with acks := otherPositions s, planCycle := cycleOf s s0 } :=
  foldl_clk sendMgmt_clk _ _

theorem getF_spreadPlan {f : Fld} (hf : BelowLinks f) (s : State) (s0 : Nat) : getF (spreadPlan s s0) f = getF s f :=
  (linksMoved_foldl_sendMgmt _ _).below f hf

theorem exec_rampPlan_refused {s : State} {s0 : Nat} (h : planTime s s0 = false ∨ voteRoot s = false) (tg : BitVec 11) :
    exec (.rampPlan tg s0) s = .next s := by
  show execRampPlan tg s0 s = _
  rcases h with h | h <;> simp [execRampPlan, h]

theorem rampPlan_answers {s : State} {s0 : Nat} (htime : planTime s s0 = true) (hroot : voteRoot s = true)
    (hd : getF s F.CLK_SCLK_D ≠ 0) (tg : BitVec 11) :
    let d := getF s F.CLK_SCLK_D
    let goal := planTarget s tg.toNat
    Answers (.rampPlan tg s0) s (fun t => t.clk.plan = (if d = goal then none else some (goal, s0)) ∧
      getF t F.CLK_SCLK_TARGET = goal ∧ getB t F.CLK_STATUS_RAMPING = decide (d ≠ goal) ∧ getF t F.CLK_SCLK_D = d ∧
      t.clk.acks = otherPositions s) := by
  intro d goal
  have hgoal : clamp 256 1024 goal = goal := clamp_clamp _
  obtain ⟨u, hu⟩ : ∃ u, u = if goal < d then setVoltages s goal else s := ⟨_, rfl⟩
  have hregs : u.regs = s.regs := by
    rw [hu]
    split
    · exact setVoltages_regs s goal
    · rfl
  have hd' : getF u F.CLK_SCLK_D = d := getF_congr hregs _
  have hplan : exec (.rampPlan tg s0) s = .next (spreadPlan (planned u goal s0) s0) := by
    rw [← setPlan_of_running (hd'.trans_ne hd) hgoal, hu]
    show execRampPlan tg s0 s = _
    simp [execRampPlan, htime, hroot, goal, d]
  refine ⟨_, hplan, ?_, ?_, ?_, ?_, ?_⟩
  · rw [spreadPlan_clk, ← hd']
    rfl
  · rw [getF_spreadPlan (by decide), target_planned u (hgoal ▸ clamp_le goal)]
  · rw [getB, getF_spreadPlan (by decide)]
    exact (ramping_planned u goal s0).trans (by rw [hd'])
  · rw [getF_spreadPlan (by decide), getF_planned (by decide) (by decide), hd']
  · rw [spreadPlan_clk]
    refine otherPositions_congr fun f hf => ?_
    have hapart : f.key ≠ F.CLK_SCLK_TARGET.key ∧ f.key ≠ F.CLK_STATUS_RAMPING.key := by
      revert f
      decide
    rw [getF_planned hapart.1 hapart.2, getF_congr hregs]

/-! #### Ramp steps (R510, R511) -/

/-- The state after a ramp step that ends the plan: the divisor is `d`, which the steps came to from `d0`. -/
def rampEnded (s : State) (d0 d : Nat) : State :=
  let u := if d0 < d then setVoltages (setF s F.CLK_SCLK_D d) d else setF s F.CLK_SCLK_D d
  setB (setF (onClk u (fun c => { c with plan := none })) F.CLK_SCLK_TARGET d) F.CLK_STATUS_RAMPING false

theorem getF_rampEnded (s : State) (d0 d : Nat) : getF (rampEnded s d0 d) F.CLK_SCLK_D = d % 2 ^ 11 := by
  unfold rampEnded
  dsimp only
  rw [getF_setB_other _ (by decide), getF_setF_other _ (by decide)]
  split
  · exact (getF_congr (setVoltages_regs _ _) _).trans (getF_setF_same s _ _)
  · exact getF_setF_same s _ _

/-- The state after a ramp step towards `tg` that leaves the divisor at `d`: the next step is planned. -/
def rampMoved (s : State) (tg due d : Nat) : State :=
  onClk (setF s F.CLK_SCLK_D d) (fun c => { c with plan := some (tg, due + rampGap (setF s F.CLK_SCLK_D d) d) })

theorem plan_rampMoved (s : State) (tg due d : Nat) : (rampMoved s tg due d).clk.plan = some (tg, due + rampGap s d) := by
  have hgap : rampGap (setF s F.CLK_SCLK_D d) d = rampGap s d := by
    rw [rampGap, rampInterval, getF_setF_other _ (by decide), rampGap, rampInterval]
  rw [← hgap]
  rfl

section
variable {s : State} {tg due : Nat} (hplan : s.clk.plan = some (tg, due)) (hready : rampReady s due = true)
include hplan hready

theorem exec_rampStep_ends (hd : rampTo tg (getF s F.CLK_SCLK_D) = tg) :
    exec .rampStep s = .next (rampEnded s (getF s F.CLK_SCLK_D) (rampTo tg (getF s F.CLK_SCLK_D))) := by
  show execRampStep s = _
  simp only [execRampStep, hplan, hready, if_true, if_pos hd, rampEnded]

theorem exec_rampStep_goesOn (hd : rampTo tg (getF s F.CLK_SCLK_D) ≠ tg) : exec .rampStep s =
    .next (rampMoved s tg due (rampTo tg (getF s F.CLK_SCLK_D))) := by
  show execRampStep s = _
  simp only [execRampStep, hplan, hready, if_true, if_neg hd, rampMoved]

end

theorem exec_rampStep_idle {s : State} (h : s.clk.plan = none) : exec .rampStep s = .next s := by
  show execRampStep s = _
  simp only [execRampStep, h]

/-! #### The wanted divisor (R512, R516) -/

/-- The state with the steward's wanted divisor, and THROTTLED as it has it. -/
def wanted (s : State) (w : Option Nat) : State := showThrottled (onClk s (fun k => { k with want := w }))

theorem linksMoved_wantDivisor (s : State) (w : Option Nat) : LinksMoved (wanted s w) (wantDivisor s w) := by
  unfold wantDivisor
  dsimp only
  split
  · exact linksMoved_sendMgmt _ _
  · exact .refl _

theorem wantDivisor_clk (s : State) (w : Option Nat) : (wantDivisor s w).clk = { s.clk with want := w } := by
  unfold wantDivisor
  dsimp only
  split
  · exact sendMgmt_clk _ _
  · rfl

theorem getF_wantDivisor {f : Fld} (hf : BelowLinks f) (hthrottled : f.key ≠ F.CLK_STATUS_THROTTLED.key) (s : State)
    (w : Option Nat) : getF (wantDivisor s w) f = getF s f :=
  ((linksMoved_wantDivisor s w).below f hf).trans (getF_setB_other _ hthrottled _)

theorem throttled_wantDivisor (s : State) (w : Nat) :
    getB (wantDivisor s (some w)) F.CLK_STATUS_THROTTLED = decide (dMin s < w) :=
  (linksMoved_wantDivisor s (some w)).bit.trans (getB_setB_same _ _ _ rfl)

/-- A device alone, and the vote root, send nothing. -/
theorem wantDivisor_of_root {s : State} (h : voteRoot s = true) (w : Option Nat) : wantDivisor s w = wanted s w := by
  unfold wantDivisor
  rw [h]
  simp [wanted]

end Sys2Proof.Machine
end

section
/-! ### The power steward -/

namespace Sys2Proof.Machine

/-! #### Readings (R515, R516) -/

/-- The fields that hold what the steward has read. -/
abbrev readingFields : List Fld := [F.HBM_TEMP_TEMP, F.CLK_TEMP_MAX_TEMP, F.CLK_TEMP_MAX_SENSOR, F.CLK_TEMP_MAX_SENSOR_HI,
  F.CLK_POWER_MW]

/-- The state with a reading in the registers. -/
def stewardRead (r : StewardReadings) (s : State) : State :=
  setF (setF (setF (setF (setF s F.CLK_TEMP_MAX_SENSOR r.hotSensor.val) F.CLK_TEMP_MAX_SENSOR_HI (r.hotSensor.val / 256))
    F.CLK_TEMP_MAX_TEMP r.hotTemp.toNat) F.CLK_POWER_MW r.powerMw.toNat) F.HBM_TEMP_TEMP r.stackTemps.toNat

theorem onlyFields_stewardRead (r : StewardReadings) (s : State) : OnlyFields s (stewardRead r s) readingFields :=
  .setF (.setF (.setF (.setF (.setF (.refl s _) (by simp) _) (by simp) _) (by simp) _) (by simp) _) (by simp) _

theorem readings_stewardRead (r : StewardReadings) (s : State) :
    getF (stewardRead r s) F.CLK_TEMP_MAX_TEMP = r.hotTemp.toNat ∧
    getF (stewardRead r s) F.CLK_TEMP_MAX_SENSOR = r.hotSensor.val % 2 ^ 8 ∧
    getF (stewardRead r s) F.CLK_POWER_MW = r.powerMw.toNat ∧ getF (stewardRead r s) F.HBM_TEMP_TEMP = r.stackTemps.toNat := by
  unfold stewardRead
  refine ⟨?_, ?_, ?_, ?_⟩
  · rw [getF_setF_other _ (by decide), getF_setF_other _ (by decide), getF_setF_same]
    exact Nat.mod_eq_of_lt r.hotTemp.isLt
  · rw [getF_setF_other _ (by decide), getF_setF_other _ (by decide), getF_setF_other _ (by decide),
      getF_setF_other _ (by decide), getF_setF_same]
    rfl
  · rw [getF_setF_other _ (by decide), getF_setF_same]
    exact Nat.mod_eq_of_lt r.powerMw.isLt
  · rw [getF_setF_same]
    exact Nat.mod_eq_of_lt r.stackTemps.isLt

/-- What the steward remembers between its rounds: whether the die is still hot from a trip, and for how many rounds it has
been cool. -/
def stewardNoted (r : StewardReadings) (s : State) : State :=
  let thr := getF s F.CLK_THERM_THROTTLE_C
  let cooled := decide (r.hotTemp.toNat + getF s F.CLK_THERM_HYST ≤ thr) &&
    decide (r.powerMw.toNat < getF s F.CLK_POWER_LIMIT_WATTS * 1000)
  onClk s (fun k => { k with hot := k.hot && decide (thr ≤ r.hotTemp.toNat), cool := if cooled then k.cool + 1 else 0 })

/-- The divisor that the steward wants in the state that notes its readings. -/
def stewardWant (r : StewardReadings) (s : State) : Option Nat :=
  let d := getF s F.CLK_SCLK_D
  if getB s F.CLK_STATUS_PMB_FAULT && (List.range 16).any (fun i => getB s (F.CLK_PMB_REG_FAULT i)) then some 1024
  else if d = 0 then s.clk.want
  else if getF s F.CLK_THERM_THROTTLE_C < r.hotTemp.toNat ∨ getF s F.CLK_POWER_LIMIT_WATTS * 1000 < r.powerMw.toNat then
    some (rampTo 1024 d)
  else if 10 ≤ s.clk.cool then some (max (dMin s) (rampTo 256 d))
  else s.clk.want

theorem exec_powerStewardTick (r : StewardReadings) (s : State) : exec (.powerStewardTick r) s =
    .next (wantDivisor (stewardNoted r (stewardRead r s)) (stewardWant r (stewardNoted r (stewardRead r s)))) := rfl

/-- Above a limit the steward wants a slower clock (R516). -/
theorem stewardWant_of_limit {r : StewardReadings} {s : State} (hfault : getB s F.CLK_STATUS_PMB_FAULT = false)
    (hd : getF s F.CLK_SCLK_D ≠ 0) (hlimit : getF s F.CLK_THERM_THROTTLE_C < r.hotTemp.toNat ∨
      getF s F.CLK_POWER_LIMIT_WATTS * 1000 < r.powerMw.toNat) :
    stewardWant r s = some (rampTo 1024 (getF s F.CLK_SCLK_D)) := by
  rw [stewardWant, hfault, Bool.false_and, if_neg Bool.false_ne_true, if_neg hd, if_pos hlimit]

theorem powerStewardTick_answers (r : StewardReadings) (s : State) : Answers (.powerStewardTick r) s (fun t =>
    getF t F.CLK_TEMP_MAX_TEMP = r.hotTemp.toNat ∧ getF t F.CLK_TEMP_MAX_SENSOR = r.hotSensor.val % 2 ^ 8 ∧
    getF t F.CLK_POWER_MW = r.powerMw.toNat ∧ getF t F.HBM_TEMP_TEMP = r.stackTemps.toNat ∧
    (getB s F.CLK_STATUS_PMB_FAULT = false → getF s F.CLK_SCLK_D ≠ 0 →
      getF s F.CLK_THERM_THROTTLE_C < r.hotTemp.toNat ∨ getF s F.CLK_POWER_LIMIT_WATTS * 1000 < r.powerMw.toNat →
      t.clk.want = some (rampTo 1024 (getF s F.CLK_SCLK_D)) ∧
      getB t F.CLK_STATUS_THROTTLED = decide (dMin s < rampTo 1024 (getF s F.CLK_SCLK_D))) ∧
    (multi s = false ∨ voteRoot s = true → FieldsBut s t [F.HBM_TEMP_TEMP, F.CLK_TEMP_MAX_TEMP, F.CLK_TEMP_MAX_SENSOR,
      F.CLK_TEMP_MAX_SENSOR_HI, F.CLK_POWER_MW, F.CLK_STATUS_THROTTLED] ∧ t = { s with regs := t.regs, clk := t.clk })) := by
  obtain ⟨hfields, hframe⟩ := onlyFields_stewardRead r s
  obtain ⟨htemp, hsensor, hpower, hstacks⟩ := readings_stewardRead r s
  obtain ⟨u, hu⟩ : ∃ u, u = stewardNoted r (stewardRead r s) := ⟨_, rfl⟩
  have hnoted : ∀ f, getF u f = getF (stewardRead r s) f := fun f => by
    rw [hu]
    rfl
  have hkept : ∀ f, (∀ g ∈ readingFields, f.key ≠ g.key) → getF u f = getF s f := fun f hf => (hnoted f).trans (hfields f hf)
  have huframe : u = { s with regs := u.regs, clk := u.clk } := by
    rw [hu]
    rfl
  have hexec := exec_powerStewardTick r s
  rw [← hu] at hexec
  refine ⟨_, hexec, ?_, ?_, ?_, ?_, fun hfault hd hlimit => ?_, fun hroot => ?_⟩
  · rw [getF_wantDivisor (by decide) (by decide), hnoted, htemp]
  · rw [getF_wantDivisor (by decide) (by decide), hnoted, hsensor]
  · rw [getF_wantDivisor (by decide) (by decide), hnoted, hpower]
  · rw [getF_wantDivisor (by decide) (by decide), hnoted, hstacks]
  · have hd' := hkept F.CLK_SCLK_D (by decide)
    have hmin : dMin u = dMin s := by rw [dMin, hkept _ (by decide), dMin]
    have hwant : stewardWant r u = some (rampTo 1024 (getF s F.CLK_SCLK_D)) := by
      rw [← hd']
      refine stewardWant_of_limit ?_ (hd'.trans_ne hd) ?_
      · rw [getB, hkept _ (by decide)]
        exact hfault
      · rwa [hkept _ (by decide), hkept F.CLK_POWER_LIMIT_WATTS (by decide)]
    rw [hwant]
    exact ⟨congrArg ClkSt.want (wantDivisor_clk u _), (throttled_wantDivisor u _).trans (by rw [hmin])⟩
  · have hroot' : voteRoot u = true := by
      rw [voteRoot_congr (hkept _ (by decide)) (hkept _ (by decide))]
      rcases hroot with h | h
      · rw [voteRoot, h]
        rfl
      · exact h
    rw [wantDivisor_of_root hroot']
    refine ⟨fun f hf => ?_, ?_⟩
    · refine (getF_setB_other _ (hf _ (by simp)) _).trans (hkept f fun g hg => hf g ?_)
      exact List.mem_append_left [F.CLK_STATUS_THROTTLED] hg
    · rw [huframe]
      rfl

/-! #### Thermal trips (R517) -/

theorem emState_tripPlan (s : State) : emState (tripPlan s) = emState s := by
  have hset : ∀ s0, getF (setPlan s 1024 s0) F.ARY_STATE_STATE = getF s F.ARY_STATE_STATE := fun s0 => by
    by_cases hd : getF s F.CLK_SCLK_D = 0
    · rw [setPlan_of_stopped hd]
    · rw [setPlan_of_running hd (by decide), getF_planned (by decide) (by decide)]
  unfold tripPlan
  split
  · exact hset _
  · split
    · exact (getF_spreadPlan (by decide) _ _).trans (hset _)
    · exact getF_wantDivisor (by decide) (by decide) s _

/-- The plan that a trip makes where the device makes plans. -/
theorem target_tripPlan {s : State} (hroot : voteRoot s = true) (hd : getF s F.CLK_SCLK_D ≠ 0) :
    getF (tripPlan s) F.CLK_SCLK_TARGET = 1024 := by
  have hset : ∀ s0, getF (setPlan s 1024 s0) F.CLK_SCLK_TARGET = 1024 := fun s0 => by
    rw [setPlan_of_running hd (by decide), target_planned s (by decide)]
  unfold tripPlan
  split
  · exact hset _
  · exact (getF_spreadPlan (by decide) _ _).trans (hset _)

/-- Another device wants the slowest clock, and the vote root plans it. -/
theorem want_tripPlan {s : State} (hroot : voteRoot s = false) : (tripPlan s).clk.want = some 1024 := by
  have hmulti : multi s = true := by
    rw [voteRoot, Bool.or_eq_false_iff] at hroot
    simpa using hroot.1
  rw [tripPlan, hmulti, if_neg (by simp), if_neg (by simp [hroot])]
  exact congrArg ClkSt.want (wantDivisor_clk s _)

/-- The state after a thermal trip, before it is recorded. -/
def tripStopped (s : State) : State :=
  let u := tripPlan s
  stopCommitted ((otherPositions u).foldl sendMgmt u)

theorem exec_thermalTrip (s : State) : exec .thermalTrip s =
    .next (onClk (setB (tripStopped s) F.CLK_STATUS_THERM_TRIP true) (fun c => { c with hot := true })) := rfl

theorem clocksKept_tripStopped (s : State) : ClocksKept (tripPlan s) (tripStopped s) := by
  have hsent := linksMoved_foldl_sendMgmt (otherPositions (tripPlan s)) (tripPlan s)
  exact ((RestKept.refl (tripPlan s)).linksMoved hsent (foldl_clk sendMgmt_clk _ _)).1.trans (clocksKept_stopCommitted _)

theorem emState_tripStopped {s : State} (h : executing s = true) : emState (tripStopped s) = 4 := by
  have hsent := linksMoved_foldl_sendMgmt (otherPositions (tripPlan s)) (tripPlan s)
  refine emState_stopCommitted (hsent.executing.trans ?_)
  rw [executing, emState_tripPlan]
  exact h

theorem thermalTrip_answers (s : State) : Answers .thermalTrip s (fun t => getB t F.CLK_STATUS_THERM_TRIP = true ∧
    t.clk.hot = true ∧ (executing s = true → emState t = 4) ∧
    if voteRoot s then getF s F.CLK_SCLK_D ≠ 0 → getF t F.CLK_SCLK_TARGET = 1024 else t.clk.want = some 1024) := by
  obtain ⟨hclk, hfields⟩ := clocksKept_tripStopped s
  have hem := emState_tripStopped (s := s)
  have hexec := exec_thermalTrip s
  generalize tripStopped s = u at hclk hfields hem hexec
  have hother : ∀ f : Fld, f.key ≠ F.CLK_STATUS_THERM_TRIP.key →
      getF (onClk (setB u F.CLK_STATUS_THERM_TRIP true) (fun c => { c with hot := true })) f = getF u f :=
    fun f hf => getF_setB_other u hf true
  refine ⟨_, hexec, getB_setB_same u F.CLK_STATUS_THERM_TRIP true rfl, rfl, fun h => (hother _ (by decide)).trans (hem h), ?_⟩
  cases hroot : voteRoot s
  · exact (congrArg ClkSt.want hclk).trans (want_tripPlan hroot)
  · exact fun hd => (hother _ (by decide)).trans ((hfields _ (by decide)).trans (target_tripPlan hroot hd))

/-! #### Alerts of the power bus (R518) -/

/-- Every regulator has been read: FAULT shows which are enabled and show a fault. -/
def faultsShown (m : BitVec 16) (s : State) : State :=
  (List.range 16).foldl (fun t i =>
    setB t (F.CLK_PMB_REG_FAULT i) (getB t (F.CLK_PMB_REG_EN i) && m.toNat.testBit i)) (setB s F.CLK_STATUS_PMB_FAULT true)

theorem onlyFields_faultsShown (m : BitVec 16) (s : State) : OnlyFields (setB s F.CLK_STATUS_PMB_FAULT true) (faultsShown m s)
    ((List.range 16).map F.CLK_PMB_REG_FAULT) :=
  .foldl (fun _ _ hi h => h.setB (List.mem_map_of_mem hi) _) (.refl _ _)

theorem pmbFault_faultsShown (m : BitVec 16) (s : State) : getB (faultsShown m s) F.CLK_STATUS_PMB_FAULT = true := by
  obtain ⟨hfields, -⟩ := onlyFields_faultsShown m s
  rw [getB, hfields _ (by decide)]
  exact getB_setB_same s F.CLK_STATUS_PMB_FAULT true rfl

theorem fault_faultsShown (m : BitVec 16) (s : State) {i : Nat} (hi : i < 16) :
    getB (faultsShown m s) (F.CLK_PMB_REG_FAULT i) = (getB s (F.CLK_PMB_REG_EN i) && m.getLsbD i) := by
  unfold faultsShown
  refine foldl_establishes (a := i) (P := fun t => getB t (F.CLK_PMB_REG_EN i) = getB s (F.CLK_PMB_REG_EN i))
    (Q := fun t => getB t (F.CLK_PMB_REG_FAULT i) = (getB s (F.CLK_PMB_REG_EN i) && m.getLsbD i))
    (fun t j _ ht => ?_) (fun t ht => ?_) (fun t j hj ht => ?_) (List.mem_range.2 hi) List.nodup_range ?_
  · refine (getB_setB_other t ?_ _).trans ht
    simp only [Fld.key, F.CLK_PMB_REG_EN, F.CLK_PMB_REG_FAULT]
    omega
  · rw [getB_setB_same _ _ _ rfl, ht]
    rfl
  · refine (getB_setB_other t ?_ _).trans ht
    simp only [Fld.key, F.CLK_PMB_REG_FAULT]
    omega
  · refine getB_setB_other s ?_ true
    simp only [Fld.key, F.CLK_PMB_REG_EN, F.CLK_STATUS_PMB_FAULT]
    omega

theorem exec_pmbAlert (m : BitVec 16) (s : State) : exec (.pmbAlert m) s = .next (
    if (List.range 16).any (fun i => getB (faultsShown m s) (F.CLK_PMB_REG_FAULT i)) then
      wantDivisor (faultsShown m s) (some 1024)
    else faultsShown m s) := rfl

theorem pmbAlert_answers (m : BitVec 16) (s : State) : Answers (.pmbAlert m) s (fun t =>
    getB t F.CLK_STATUS_PMB_FAULT = true ∧
    (∀ i : Fin 16, getB t (F.CLK_PMB_REG_FAULT i) = (getB s (F.CLK_PMB_REG_EN i) && m.getLsbD i)) ∧
    ((List.finRange 16).any (fun i => getB s (F.CLK_PMB_REG_EN i) && m.getLsbD i) = true → t.clk.want = some 1024)) := by
  have hpmb := pmbFault_faultsShown m s
  have hfault : ∀ i : Fin 16, getB (faultsShown m s) (F.CLK_PMB_REG_FAULT i) = (getB s (F.CLK_PMB_REG_EN i) && m.getLsbD i) :=
    fun i => fault_faultsShown m s i.isLt
  have hexec := exec_pmbAlert m s
  generalize faultsShown m s = u at hpmb hfault hexec
  refine ⟨_, hexec, ?_⟩
  split
  · have hother : ∀ f : Fld, BelowLinks f → f.key ≠ F.CLK_STATUS_THROTTLED.key →
        getB (wantDivisor u (some 1024)) f = getB u f := fun f hf hne => by
      rw [getB, getF_wantDivisor hf hne, getB]
    refine ⟨(hother _ (by decide) (by decide)).trans hpmb, fun i => (hother _ ?_ ?_).trans (hfault i), fun _ => ?_⟩
    · simp only [BelowLinks, Fld.key, F.CLK_PMB_REG_FAULT, F.LNK_LINK_STATUS_DEEP]
      omega
    · simp only [Fld.key, F.CLK_PMB_REG_FAULT, F.CLK_STATUS_THROTTLED]
      omega
    · exact congrArg ClkSt.want (wantDivisor_clk u _)
  next hnone =>
    refine ⟨hpmb, hfault, fun hany => absurd ?_ hnone⟩
    obtain ⟨i, -, hi⟩ := List.any_eq_true.1 hany
    exact List.any_eq_true.2 ⟨i, List.mem_range.2 i.isLt, (hfault i).trans hi⟩

/-- Settles O41, command by command. -/
theorem powerCommandsAct : Obligations.PowerCommandsAct := by
  unfold Obligations.PowerCommandsAct
  intro s
  refine ⟨fun tg s0 => ⟨fun htime hroot hd => rampPlan_answers htime hroot hd tg, fun h => ?_⟩,
    fun tg due hplan hready => ⟨fun hd => ?_, fun hd => ?_⟩, fun h => ⟨s, exec_rampStep_idle h, rfl⟩,
    fun r => powerStewardTick_answers r s, thermalTrip_answers s, fun m => pmbAlert_answers m s⟩
  · exact ⟨s, exec_rampPlan_refused h tg, rfl⟩
  · exact ⟨_, exec_rampStep_ends hplan hready hd, getF_rampEnded s _ _, rfl, getB_setB_same _ _ _ rfl⟩
  · exact ⟨_, exec_rampStep_goesOn hplan hready hd, getF_setF_same s _ _, plan_rampMoved s tg due _⟩

end Sys2Proof.Machine
end

section
/-! ### Registers of gated blocks -/

namespace Sys2Proof.Machine

section
variable {s : State} {a g : Nat}

theorem regIsolated_of_gate (hgate : gateOfReg a = some g) (hfields : fieldsAt a ≠ []) : regIsolated s a = nodeIsolated s g := by
  simp [regIsolated, hgate, hfields]

/-- A write to a register of a block that is not isolated takes effect. -/
theorem gatedWrite_open (hgate : gateOfReg a = some g) (hopen : nodeIsolated s g = false) (k : State → State) :
    gatedWrite s a k = k s := by
  simp [gatedWrite, regIsolated, hgate, hopen]

/-- A write to a register of an isolated block is discarded (R254). -/
theorem gatedWrite_isolated (hgate : gateOfReg a = some g) (hfields : fieldsAt a ≠ []) (hiso : nodeIsolated s g = true)
    (k : State → State) : gatedWrite s a k = setB s F.NET_STATUS_ISO_ACCESS true := by
  rw [gatedWrite, regIsolated_of_gate hgate hfields, hiso, if_pos rfl]

/-- A read of a register of a block that is not isolated. -/
theorem gatedRead_open (hgate : gateOfReg a = some g) (hopen : nodeIsolated s g = false) (k : State → Nat × State) :
    gatedRead s a k = emit (k s).2 (.readValue 0 (k s).1) := by
  simp [gatedRead, regIsolated, hgate, hopen]

/-- A read of a register of an isolated block returns ones (R254). -/
theorem gatedRead_isolated (hgate : gateOfReg a = some g) (hfields : fieldsAt a ≠ []) (hiso : nodeIsolated s g = true)
    (k : State → Nat × State) :
    gatedRead s a k = emit (setB s F.NET_STATUS_ISO_ACCESS true) (.readValue 0 0xFFFFFFFF) := by
  rw [gatedRead, regIsolated_of_gate hgate hfields, hiso, if_pos rfl]

end

/-! ### Writes that have no behaviour of their own -/

/-- A write to a register changes its fields alone (R7). -/
theorem onlyFields_plainWrite (s : State) (a v : Nat) : OnlyFields s (plainWrite s a v) (fieldsAt a) := by
  refine OnlyFields.foldl (fun t f hf h => ?_) (.refl s _)
  unfold writeField
  dsimp only
  split
  · exact h.setF hf _
  · exact h.setF hf _
  · exact h.setF hf _
  all_goals exact h

/-- A field of another register reads as before. -/
theorem getF_plainWrite_other (s : State) {a : Nat} {f : Fld} (hf : ∀ g ∈ fieldsAt a, f.key ≠ g.key) (v : Nat) :
    getF (plainWrite s a v) f = getF s f := (onlyFields_plainWrite s a v).1 f hf

end Sys2Proof.Machine
end

section
/-! ### The configuration scrub's count -/

namespace Sys2Proof.Machine

/-- A loaded fabric whose HGR_CFG_FIX_COUNT holds more than its 32 bits: `setF` writes no such value, but the statement takes
every state. -/
def overCounted : State :=
  { State.reset with
    regs := SMap.put State.reset.regs F.HGR_CFG_FIX_COUNT.key (2 ^ 32), hgr := { State.reset.hgr with loaded := true } }

theorem fixCount_overCounted : getF overCounted F.HGR_CFG_FIX_COUNT = 2 ^ 32 := by decide +kernel

/-- A scrub that finds no flipped bit leaves the count, where the statement has it saturated. -/
theorem exec_cfgScrub_overCounted : exec (.cfgScrub []) overCounted = .next overCounted := rfl

/-- Refutes O49: the configuration scrub that finds nothing leaves HGR_CFG_FIX_COUNT of `overCounted` at 2^32, and the
statement has it at most 2^32 - 1. -/
theorem not_hedgerowCommandsAct : ¬ Obligations.HedgerowCommandsAct := by
  unfold Obligations.HedgerowCommandsAct
  intro h
  obtain ⟨-, -, -, -, -, -, -, -, hscrub, -⟩ := h overCounted 0
  obtain ⟨t, hexec, hcount, -⟩ := (hscrub []).2 rfl
  obtain rfl : overCounted = t := by
    rw [exec_cfgScrub_overCounted] at hexec
    exact Host.Outcome.next.inj hexec
  rw [fixCount_overCounted] at hcount
  exact absurd hcount (by decide)

end Sys2Proof.Machine
end

section
/-! ### The march test -/

namespace Sys2Proof.Machine

/-! #### Records of failures (R538) -/

/-- The fields that no index reaches: the registers of the setup window themselves. -/
abbrev Unindexed (f : Fld) : Prop := f.key < 0x100000 * 32

/-- Nothing but register fields behind an index differs. -/
def OnlyIndexed (s t : State) : Prop := (∀ f, Unindexed f → getF t f = getF s f) ∧ t = { s with regs := t.regs }

theorem OnlyIndexed.refl (s : State) : OnlyIndexed s s := ⟨fun _ _ => rfl, rfl⟩

theorem OnlyIndexed.setF {s t : State} (h : OnlyIndexed s t) {f : Fld} (hf : 0x100000 * 32 ≤ f.key) (v : Nat) :
    OnlyIndexed s (setF t f v) := by
  obtain ⟨hfields, hframe⟩ := h
  exact ⟨fun g hg => (getF_setF_other t (Nat.lt_of_lt_of_le hg hf).ne v).trans (hfields g hg),
    congrArg (Machine.setF · f v) hframe⟩

theorem key_mk (addr lo width : Nat) (acc : Acc) (rst : Nat) : (Fld.mk addr lo width acc rst).key = addr * 32 + lo := rfl

theorem key_bank (f : Fld) (i : Nat) : (f.bank i).key = (f.addr + 0x100000 * (i + 1)) * 32 + f.lo := key_mk _ f.lo _ _ _

/-- A field behind an index stands above every field of the setup window. -/
theorem le_key_bank (f : Fld) (i : Nat) : 0x100000 * 32 ≤ (f.bank i).key :=
  calc 0x100000 * 32 ≤ 0x100000 * (i + 1) * 32 := Nat.mul_le_mul_right 32 (Nat.le_mul_of_pos_right _ (Nat.succ_pos i))
    _ ≤ (f.addr + 0x100000 * (i + 1)) * 32 := Nat.mul_le_mul_right 32 (Nat.le_add_left _ _)
    _ ≤ (f.bank i).key := (Nat.le_add_right _ f.lo).trans_eq (key_bank f i).symm

theorem onlyIndexed_recordFail {s t : State} (h : OnlyIndexed s t) (i : Nat) (x : Failure) :
    OnlyIndexed s (recordFail t i x) := by
  unfold recordFail
  split
  · have hbank := fun f => le_key_bank f i
    exact ((((h.setF (hbank _) _).setF (hbank _) _).setF (hbank _) _).setF (hbank _) _).setF (hbank _) _
  · exact h

theorem onlyIndexed_recordFails {α : Type} (s : State) (xs : List α) (i : α → Nat) (f : α → Failure) :
    OnlyIndexed s (xs.foldl (fun t j => recordFail t (i j) (f j)) s) :=
  List.foldlRecOn (motive := OnlyIndexed s) _ _ (.refl s) fun _ h j _ => onlyIndexed_recordFail h (i j) (f j)

theorem failsCount_noteFailures (s : State) (n : Nat) (fs : List Failure) :
    getF (noteFailures s n fs) F.CTL_MT_FAILS_COUNT = saturate 32 (getF s F.CTL_MT_FAILS_COUNT + n) := by
  refine (getF_bumpF_same _ F.CTL_MT_FAILS_COUNT n).trans ?_
  rw [(onlyIndexed_recordFails s _ _ _).1 _ (by decide)]
  rfl

theorem noteFailures_ctl (s : State) (n : Nat) (fs : List Failure) : (noteFailures s n fs).ctl = s.ctl := by
  rw [noteFailures, bumpF_ctl, (onlyIndexed_recordFails s _ _ _).2]

/-! #### The end of a test -/

/-- A test has ended with a result. -/
def TestEnded (t : State) (result : Nat) : Prop :=
  t.ctl.march = none ∧ getF t F.CTL_MT_STATUS_RESULT = result ∧ getB t F.CTL_STATUS_MT_BUSY = false

/-- No release of the user hold waits for the end of the test. -/
theorem endTest_of_not_deferred {s : State} (h : s.ctl.deferred = false) (result : Nat) : endTest s result =
    setB (setF (onCtl s (fun c => { c with march := none, deferred := false })) F.CTL_MT_STATUS_RESULT result)
      F.CTL_STATUS_MT_BUSY false := by
  unfold endTest
  dsimp only
  exact if_neg (by simp [h])

theorem testEnded_endTest {s : State} (h : s.ctl.deferred = false) {result : Nat} (hresult : result < 16) :
    TestEnded (endTest s result) result := by
  rw [endTest_of_not_deferred h]
  refine ⟨rfl, ?_, getB_setB_same _ _ _ rfl⟩
  rw [getF_setB_other _ (by decide), getF_setF_same]
  exact Nat.mod_eq_of_lt hresult

theorem getF_endTest {s : State} (h : s.ctl.deferred = false) (result : Nat) {f : Fld}
    (hresult : f.key ≠ F.CTL_MT_STATUS_RESULT.key) (hbusy : f.key ≠ F.CTL_STATUS_MT_BUSY.key) :
    getF (endTest s result) f = getF s f := by
  rw [endTest_of_not_deferred h, getF_setB_other _ hbusy, getF_setF_other _ hresult]
  rfl

/-! #### A write to CTL_MT_CTRL (R533, R539) -/

theorem plainWrite_marchCtrl (s : State) (v : Nat) : plainWrite s 0xE0100 v = setF s F.CTL_MT_CTRL_ALT (bitsOf v 2 1) := rfl

/-- ALT is no part of what allows a test. -/
theorem marchAllowed_marchCtrl (s : State) (v : Nat) (preserving : Bool) (kind die unit : Nat) :
    marchAllowed (plainWrite s 0xE0100 v) preserving kind die unit = marchAllowed s preserving kind die unit := by
  rw [plainWrite_marchCtrl]
  have hother : ∀ f : Fld, f.key ≠ F.CTL_MT_CTRL_ALT.key → getF (setF s F.CTL_MT_CTRL_ALT (bitsOf v 2 1)) f = getF s f :=
    fun f hf => getF_setF_other s hf _
  have htile : tileFree (setF s F.CTL_MT_CTRL_ALT (bitsOf v 2 1)) die unit = tileFree s die unit := rfl
  have hchannels : noChannels (setF s F.CTL_MT_CTRL_ALT (bitsOf v 2 1)) = noChannels s := rfl
  simp only [marchAllowed, htile, hchannels, marchRest, emState, executing, getB, setF_chn,
    hother F.ARY_STATE_STATE (by decide), hother F.ARY_HOLD_CTRL_ACTIVE (by decide),
    hother F.CTL_FW_STATUS_PHASE (by decide), hother F.HGR_STATUS_GSR (by decide), hother F.CHN_ENGINE_STOP_STOP (by decide)]

theorem marchProgram_marchCtrl (s : State) (v : Nat) : marchProgram (plainWrite s 0xE0100 v) = marchProgram s := by
  have helem : ∀ k, getF (plainWrite s 0xE0100 v) (F.CTL_MT_ELEM_ELEMENT k) = getF s (F.CTL_MT_ELEM_ELEMENT k) := fun k => by
    refine getF_setF_other s ?_ _
    simp only [Fld.key, F.CTL_MT_ELEM_ELEMENT]
    omega
  simp only [marchProgram, helem]

section
variable {s : State} {v : Word} (hopen : nodeIsolated s 68 = false)
include hopen

/-- A write of START and not ABORT starts a test. -/
theorem exec_marchStart (hstart : v.getLsbD 0 = true) (habort : v.getLsbD 1 = false) :
    exec (.marchStart v) s = .next (marchStart (plainWrite s 0xE0100 v.toNat)) := by
  rw [← BitVec.testBit_toNat] at hstart habort
  show execMarchStart v s = _
  rw [execMarchStart, gatedWrite_open rfl hopen, mtCtrlWrite, hstart, habort]
  rfl

/-- A write of ABORT and not START ends a test. -/
theorem exec_marchAbort (hstart : v.getLsbD 0 = false) (habort : v.getLsbD 1 = true) :
    exec (.marchAbort v) s = .next (marchAbort (plainWrite s 0xE0100 v.toNat)) := by
  rw [← BitVec.testBit_toNat] at hstart habort
  show execMarchAbort v s = _
  rw [execMarchAbort, gatedWrite_open rfl hopen, mtCtrlWrite, hstart, habort]
  rfl

end

theorem exec_march_isolated {s : State} (hiso : nodeIsolated s 68 = true) (v : Word) :
    ∀ i ∈ [Instr.marchStart v, .marchAbort v], exec i s = .next (setB s F.NET_STATUS_ISO_ACCESS true) := by
  have hwrite := gatedWrite_isolated (a := 0xE0100) rfl (by decide) hiso (mtCtrlWrite · v.toNat)
  simp only [List.forall_mem_cons, List.not_mem_nil, false_imp_iff, implies_true, and_true]
  exact ⟨congrArg Host.Outcome.next hwrite, congrArg Host.Outcome.next hwrite⟩

/-! #### START -/

/-- The test that START begins. -/
def newTest (s : State) : MarchRun :=
  ⟨getB s F.CTL_MT_TARGET_MODE, getF s F.CTL_MT_TARGET_KIND, getF s F.CTL_MT_TARGET_DIE, getF s F.CTL_MT_TARGET_UNIT,
    getB s F.CTL_MT_CTRL_ALT, get64 s F.CTL_MT_PATTERN_LO_BITS F.CTL_MT_PATTERN_HI_BITS, marchProgram s, 0⟩

/-- The program or the group of a test that START would begin is not allowed (R533, R534). -/
def testRefused (s : State) : Bool :=
  (marchProgram s).any (fun e => elemOrder e = 3) ||
    !marchAllowed s (newTest s).preserving (newTest s).kind (newTest s).die (newTest s).unit

/-- The state whose counts a test begins with. -/
def testCleared (s : State) : State :=
  setF (setF (onCtl s (fun c => { c with march := some (newTest s) })) F.CTL_MT_FAILS_COUNT 0) F.CTL_MT_PROGRESS_DONE 0

/-- The state in which a test has begun. -/
def testBegun (s : State) : State :=
  setB (setF ((List.range 16).foldl (fun t i => recordFail t i (0, 0, 0)) (testCleared s)) F.CTL_MT_STATUS_RESULT 1)
    F.CTL_STATUS_MT_BUSY true

theorem marchStart_of_none {s : State} (h : s.ctl.march = none) :
    marchStart s = if testRefused s then setF s F.CTL_MT_STATUS_RESULT 5 else testBegun s := by
  unfold marchStart
  rw [h]
  rfl

theorem testBegun_shows (s : State) : getF (testBegun s) F.CTL_MT_STATUS_RESULT = 1 ∧
    getB (testBegun s) F.CTL_STATUS_MT_BUSY = true ∧ getF (testBegun s) F.CTL_MT_FAILS_COUNT = 0 ∧
    (testBegun s).ctl = { s.ctl with march := some (newTest s) } := by
  have hcount : getF (testCleared s) F.CTL_MT_FAILS_COUNT = 0 := by
    rw [testCleared, getF_setF_other _ (by decide), getF_setF_same]
    rfl
  obtain ⟨hfields, hframe⟩ := onlyIndexed_recordFails (testCleared s) (List.range 16) (fun i => i) (fun _ => (0, 0, 0))
  unfold testBegun
  refine ⟨?_, getB_setB_same _ _ _ rfl, ?_, ?_⟩
  · rw [getF_setB_other _ (by decide), getF_setF_same]
    rfl
  · rw [getF_setB_other _ (by decide), getF_setF_other _ (by decide), hfields _ (by decide), hcount]
  · rw [setB_ctl, setF_ctl, hframe]
    rfl

/-- The write to CTL_MT_CTRL gives the test its ALT and leaves the rest of what it takes. -/
theorem newTest_marchCtrl (s : State) (v : Nat) :
    newTest (plainWrite s 0xE0100 v) = { newTest s with alt := getB (plainWrite s 0xE0100 v) F.CTL_MT_CTRL_ALT } := by
  have hother : ∀ f : Fld, f.key ≠ F.CTL_MT_CTRL_ALT.key → getF (plainWrite s 0xE0100 v) f = getF s f :=
    fun f hf => getF_setF_other s hf _
  simp only [newTest, marchProgram_marchCtrl, getB, get64, hother F.CTL_MT_TARGET_MODE (by decide),
    hother F.CTL_MT_TARGET_KIND (by decide), hother F.CTL_MT_TARGET_DIE (by decide), hother F.CTL_MT_TARGET_UNIT (by decide),
    hother F.CTL_MT_PATTERN_LO_BITS (by decide), hother F.CTL_MT_PATTERN_HI_BITS (by decide)]

theorem testRefused_marchCtrl (s : State) (v : Nat) : testRefused (plainWrite s 0xE0100 v) = testRefused s := by
  rw [testRefused, newTest_marchCtrl, marchProgram_marchCtrl, marchAllowed_marchCtrl, testRefused]

/-! #### Word groups (R537) -/

/-- What a preserving test scrubs is no register, and nothing of the control cluster. -/
theorem testScrubs_frame (s : State) (m : MarchRun) : (testScrubs s m).regs = s.regs ∧ (testScrubs s m).ctl = s.ctl := by
  unfold testScrubs
  split
  · split <;> exact ⟨rfl, rfl⟩
  · split <;> exact ⟨rfl, rfl⟩

/-- `t` differs from `s` in nothing that the end of a test looks at. -/
def LeavesTest (s t : State) : Prop :=
  t.ctl.deferred = s.ctl.deferred ∧ ∀ f : Fld, f.key ≠ F.CTL_FW_STATUS_STAGED.key → getF t f = getF s f

/-! The memories that a test fills are stated for any contents: a fill is long, and nothing here turns on it. -/

section
variable (s : State)

theorem leavesTest_firmware (x : Ctl → Memory) (y : Ctl → SMap Bool) :
    LeavesTest s (setB (onCtl s (fun c => { c with fws := x c, loaded := y c })) F.CTL_FW_STATUS_STAGED false) :=
  ⟨rfl, fun _ hf => getF_setB_other _ hf false⟩

theorem leavesTest_scratch (x : Ctl → Memory) : LeavesTest s (onCtl s (fun c => { c with scratch := x c })) :=
  ⟨rfl, fun _ _ => rfl⟩

theorem leavesTest_mem (x : DesignMem) : LeavesTest s { s with mem := x } := ⟨rfl, fun _ _ => rfl⟩

theorem leavesTest_hgr (x : Hgr) : LeavesTest s { s with hgr := x } := ⟨rfl, fun _ _ => rfl⟩

theorem leavesTest_chn (x : Chn) : LeavesTest s { s with chn := x } := ⟨rfl, fun _ _ => rfl⟩

/-- What a destructive test leaves in its group is no part of the test. -/
theorem leavesTest_testLeaves (m : MarchRun) : LeavesTest s (testLeaves s m) := by
  unfold testLeaves
  split
  · exact ⟨rfl, fun _ _ => rfl⟩
  · dsimp only
    split
    · exact leavesTest_firmware s _ _
    · exact leavesTest_scratch s _
    · exact leavesTest_chn s _
    · exact leavesTest_mem s _
    · exact leavesTest_hgr s _
    · exact leavesTest_chn s _
    · exact ⟨rfl, fun _ _ => rfl⟩

end

/-- The state that shows a word of the group that cannot be saved. -/
def ueShown (s : State) (m : MarchRun) (w : Nat) : State :=
  let s := setB s F.CTL_MT_STATUS_SAVE_UE true
  if m.kind = 10 then setF (setF (setB s F.CTL_STATUS_SCR_UE true) F.CTL_SCR_UE_LOC_BANK m.unit) F.CTL_SCR_UE_LOC_WORD w
  else if m.kind = 8 ∨ m.kind = 9 then setB s F.CTL_STATUS_FWS_UE true else s

theorem saveUe_eq (s : State) (m : MarchRun) (w : Nat) : saveUe s m w = endTest (ueShown s m w) 3 := rfl

theorem ueShown_shows (s : State) (m : MarchRun) (w : Nat) :
    (ueShown s m w).ctl = s.ctl ∧ getB (ueShown s m w) F.CTL_MT_STATUS_SAVE_UE = true := by
  have hset : getB (setB s F.CTL_MT_STATUS_SAVE_UE true) F.CTL_MT_STATUS_SAVE_UE = true := getB_setB_same _ _ _ rfl
  unfold ueShown
  dsimp only
  split
  · refine ⟨rfl, ?_⟩
    rw [getB_setF_other _ (by decide), getB_setF_other _ (by decide), getB_setB_other _ (by decide), hset]
  · split
    · exact ⟨rfl, (getB_setB_other _ (by decide) true).trans hset⟩
    · exact ⟨rfl, hset⟩

section
variable {s : State} {m : MarchRun} (hdeferred : s.ctl.deferred = false)
include hdeferred

/-- A word that cannot be saved ends the test with FAILED. -/
theorem saveUe_ends (w : Nat) : TestEnded (saveUe s m w) 3 ∧ getB (saveUe s m w) F.CTL_MT_STATUS_SAVE_UE = true := by
  obtain ⟨hctl, hsave⟩ := ueShown_shows s m w
  have hd : (ueShown s m w).ctl.deferred = false := (congrArg Ctl.deferred hctl).trans hdeferred
  refine ⟨testEnded_endTest hd (by decide), ?_⟩
  rw [saveUe_eq, getB, getF_endTest hd 3 (by decide) (by decide)]
  exact hsave

/-- The word group of a preserving test whose words can be saved. -/
theorem wordGroup_acts (cells : List Failure) :
    let n := min 64 (groupWords m.kind - 64 * m.done)
    let count := saturate 32 (getF s F.CTL_MT_FAILS_COUNT + (marchFailures m.elems (64 * m.done) n cells).1)
    let t := wordGroup s m none cells
    getF t F.CTL_MT_FAILS_COUNT = count ∧
      if groupWords m.kind ≤ 64 * (m.done + 1) then TestEnded t (if count = 0 then 2 else 3)
      else t.ctl.march = some { m with done := m.done + 1 } := by
  intro n count t
  obtain ⟨u, hu⟩ : ∃ u, u = setF (onCtl (noteFailures s (marchFailures m.elems (64 * m.done) n cells).1
      (marchFailures m.elems (64 * m.done) n cells).2) (fun c => { c with march := some { m with done := m.done + 1 } }))
      F.CTL_MT_PROGRESS_DONE (min 65535 (64 * (m.done + 1) * 65536 / groupWords m.kind)) := ⟨_, rfl⟩
  have ht : t = if groupWords m.kind ≤ 64 * (m.done + 1) then
      endTest (testScrubs u { m with done := m.done + 1 }) (testResult u) else u := by
    rw [hu]
    rfl
  have hcount : getF u F.CTL_MT_FAILS_COUNT = count := by
    rw [hu, getF_setF_other _ (by decide)]
    exact failsCount_noteFailures s _ _
  have hd : u.ctl.deferred = false := by
    rw [hu, setF_ctl]
    exact (congrArg Ctl.deferred (noteFailures_ctl s _ _)).trans hdeferred
  obtain ⟨hregs, hctl⟩ := testScrubs_frame u { m with done := m.done + 1 }
  rw [ht]
  split
  · have hd' := (congrArg Ctl.deferred hctl).trans hd
    refine ⟨?_, ?_⟩
    · rw [getF_endTest hd' _ (by decide) (by decide), getF_congr hregs, hcount]
    · rw [testResult, hcount]
      exact testEnded_endTest hd' (by split <;> decide)
  · exact ⟨hcount, by rw [hu]; rfl⟩

/-- A destructive test runs to its end. -/
theorem wholeGroup_acts (cells : List Failure) :
    let count := saturate 32 (getF s F.CTL_MT_FAILS_COUNT + (marchFailures m.elems 0 (groupWords m.kind) cells).1)
    getF (wholeGroup s m cells) F.CTL_MT_FAILS_COUNT = count ∧ TestEnded (wholeGroup s m cells) (if count = 0 then 2 else 3) := by
  intro count
  obtain ⟨u, hu⟩ : ∃ u, u = setF (noteFailures s (marchFailures m.elems 0 (groupWords m.kind) cells).1
      (marchFailures m.elems 0 (groupWords m.kind) cells).2) F.CTL_MT_PROGRESS_DONE 65535 := ⟨_, rfl⟩
  have ht : wholeGroup s m cells = endTest (testLeaves u m) (testResult u) := by
    rw [hu]
    rfl
  have hcount : getF u F.CTL_MT_FAILS_COUNT = count := by
    rw [hu, getF_setF_other _ (by decide)]
    exact failsCount_noteFailures s _ _
  have hd : u.ctl.deferred = false := by
    rw [hu, setF_ctl, noteFailures_ctl, hdeferred]
  obtain ⟨hd', hfields⟩ := leavesTest_testLeaves u m
  replace hd' := hd'.trans hd
  refine ⟨?_, ?_⟩
  · rw [ht, getF_endTest hd' _ (by decide) (by decide), hfields _ (by decide), hcount]
  · rw [ht, testResult, hcount]
    exact testEnded_endTest hd' (by split <;> decide)

end

/-- MARCH_WORD_GROUP serves the test that runs. -/
theorem exec_marchWordGroup {s : State} {m : MarchRun} (h : s.ctl.march = some m) (ue : Option (Fin 64)) (fails : List MarchFail) :
    exec (.marchWordGroup ue fails) s = .next (
      let cells := fails.map (fun f => (f.word, f.elem.val, f.diff.toNat))
      if m.preserving then wordGroup s m ue cells else wholeGroup s m cells) := by
  show execMarchWordGroup ue fails s = _
  rw [execMarchWordGroup, h]

theorem exec_marchWordGroup_idle {s : State} (h : s.ctl.march = none) (ue : Option (Fin 64)) (fails : List MarchFail) :
    exec (.marchWordGroup ue fails) s = .next s := by
  show execMarchWordGroup ue fails s = _
  rw [execMarchWordGroup, h]

/-- Settles O43, command by command. -/
theorem marchCommandsAct : Obligations.MarchCommandsAct := by
  unfold Obligations.MarchCommandsAct
  intro s v
  refine ⟨fun hiso => exec_march_isolated hiso v, fun hopen hstart habort hnone => ?_, fun m hm hdeferred => ?_,
    fun hnone ue fails => ⟨s, exec_marchWordGroup_idle hnone ue fails, rfl⟩⟩
  case refine_1 =>
    refine ⟨_, exec_marchStart hopen hstart habort, ?_⟩
    beta_reduce
    rw [marchStart_of_none (s := plainWrite s 0xE0100 v.toNat) hnone, testRefused_marchCtrl]
    show if testRefused s then _ else _
    split
    · exact ⟨getF_setF_same _ _ _, rfl⟩
    · have hbegun := testBegun_shows (plainWrite s 0xE0100 v.toNat)
      rw [newTest_marchCtrl] at hbegun
      exact hbegun
  case refine_2 =>
    refine ⟨fun hopen hstart habort => ?_, fun fails => ⟨fun w hpre => ?_, fun hpre => ?_, fun hpre ue => ?_⟩⟩
    · refine ⟨_, exec_marchAbort hopen hstart habort, ?_⟩
      beta_reduce
      rw [marchAbort, if_pos (show (plainWrite s 0xE0100 v.toNat).ctl.march.isSome = true from Option.isSome_of_eq_some hm)]
      exact testEnded_endTest (s := plainWrite s 0xE0100 v.toNat) hdeferred (by decide)
    · refine ⟨_, exec_marchWordGroup hm _ fails, ?_⟩
      dsimp only
      rw [if_pos hpre]
      exact saveUe_ends hdeferred _
    · refine ⟨_, exec_marchWordGroup hm _ fails, ?_⟩
      dsimp only
      rw [if_pos hpre]
      exact wordGroup_acts hdeferred _
    · refine ⟨_, exec_marchWordGroup hm _ fails, ?_⟩
      dsimp only
      rw [if_neg (by simp [hpre])]
      exact wholeGroup_acts hdeferred _

end Sys2Proof.Machine
end

section
/-! ### Program trace -/

namespace Sys2Proof.Machine

/-! #### Bytes written to a window -/

/-- `t` differs from `s` in the bytes of the HBM and their marks alone. -/
def OnlyHbmBytes (s t : State) : Prop := ∃ m marks, t = { s with mem := { s.mem with hbm := m }, hbm := { s.hbm with marks := marks } }

theorem OnlyHbmBytes.refl (s : State) : OnlyHbmBytes s s := ⟨s.mem.hbm, s.hbm.marks, rfl⟩

theorem OnlyHbmBytes.hbmPut {s t : State} (h : OnlyHbmBytes s t) (pc a : Nat) (b : Byte) : OnlyHbmBytes s (hbmPut t pc a b) := by
  unfold Machine.hbmPut
  split
  · exact h
  · obtain ⟨m, marks, rfl⟩ := h
    exact ⟨_, _, rfl⟩

theorem OnlyHbmBytes.winWrite {s t : State} (h : OnlyHbmBytes s t) (w x : Nat) (b : Byte) : OnlyHbmBytes s (winWrite t w x b) := by
  unfold Machine.winWrite
  dsimp only
  split
  · exact (h.hbmPut _ _ b).hbmPut _ _ b
  · exact h.hbmPut _ _ b

theorem OnlyHbmBytes.winWriteBytes {s t : State} (h : OnlyHbmBytes s t) (w x : Nat) (bs : List Byte) :
    OnlyHbmBytes s (winWriteBytes t w x bs) := by
  induction bs generalizing t x with
  | nil => exact h
  | cons b bs ih => exact ih (h.winWrite w x b) (x + 1)

theorem getF_winWriteBytes (s : State) (w x : Nat) (bs : List Byte) (f : Fld) :
    getF (winWriteBytes s w x bs) f = getF s f := by
  obtain ⟨m, marks, h⟩ := (OnlyHbmBytes.refl s).winWriteBytes w x bs
  rw [h]
  rfl

theorem winWriteBytes_net (s : State) (w x : Nat) (bs : List Byte) : (winWriteBytes s w x bs).net = s.net := by
  obtain ⟨m, marks, h⟩ := (OnlyHbmBytes.refl s).winWriteBytes w x bs
  rw [h]

/-! #### What the stream of a source moves -/

/-- The fields that the stream of source `i` moves: the ring's, and the source's counts. -/
abbrev streamFields (i : Nat) : List Fld := [F.TRC_STATUS_WRAPPED, F.TRC_STATUS_FULL, F.TRC_STATUS_OVERFLOW,
  F.TRC_WRITE_FRAME, F.TRC_LOST_COUNT, srcFld F.TRC_SRC_BYTES_COUNT i, srcFld F.TRC_SRC_LOST_COUNT i]

/-- The stream of source `i` has moved on. -/
structure StreamMoved (i : Nat) (s t : State) : Prop where
  fields : FieldsBut s t (streamFields i)
  net : t.net = s.net

section
variable {i : Nat} {s t u : State}

theorem StreamMoved.refl (i : Nat) (s : State) : StreamMoved i s s := ⟨.refl s _, rfl⟩

theorem StreamMoved.setF (h : StreamMoved i s t) {f : Fld} (hf : f ∈ streamFields i) (v : Nat) : StreamMoved i s (setF t f v) :=
  ⟨h.fields.setF hf v, h.net⟩

theorem StreamMoved.setB (h : StreamMoved i s t) {f : Fld} (hf : f ∈ streamFields i) (b : Bool) : StreamMoved i s (setB t f b) :=
  h.setF hf _

theorem StreamMoved.onTrc (h : StreamMoved i s t) (g : TrcSrc → TrcSrc) : StreamMoved i s (onTrc t i g) := ⟨h.fields, h.net⟩

theorem StreamMoved.winWriteBytes (h : StreamMoved i s t) (w x : Nat) (bs : List Byte) :
    StreamMoved i s (winWriteBytes t w x bs) :=
  ⟨fun f hf => (getF_winWriteBytes t w x bs f).trans (h.fields f hf), (winWriteBytes_net t w x bs).trans h.net⟩

theorem StreamMoved.ite {c : Prop} [Decidable c] (h : StreamMoved i s t) (h' : StreamMoved i s u) :
    StreamMoved i s (if c then t else u) := by
  split <;> assumption

theorem StreamMoved.noteFull (h : StreamMoved i s t) : StreamMoved i s (noteFull t) := .ite (h.setB (by simp) _) h

theorem StreamMoved.writeFrame (h : StreamMoved i s t) : StreamMoved i s (writeFrame t i) :=
  .onTrc (.setF (.winWriteBytes (.ite (h.setB (by simp) _) h) _ _ _) (by simp) _) _

theorem StreamMoved.fillFrames (h : StreamMoved i s t) (n : Nat) : StreamMoved i s (fillFrames t i n) := by
  induction n generalizing t with
  | zero => exact h
  | succ n ih => exact .ite (ih h.writeFrame.noteFull) h

theorem StreamMoved.drainSource (h : StreamMoved i s t) : StreamMoved i s (drainSource t i) :=
  .ite (h.fillFrames _).writeFrame.noteFull (h.fillFrames _)

theorem StreamMoved.losePacket (h : StreamMoved i s t) : StreamMoved i s (losePacket t i) :=
  .onTrc (.setB (.setF (h.setF (by simp) _) (by simp) _) (by simp) _) _

theorem StreamMoved.putPacket (h : StreamMoved i s t) (bs : List Byte) : StreamMoved i s (putPacket t i bs) :=
  .ite (.fillFrames (.onTrc (h.setF (by simp) _) _) _) h.noteFull.losePacket

theorem StreamMoved.emitPacket (h : StreamMoved i s t) (bs : List Byte) : StreamMoved i s (emitPacket t i bs) :=
  .ite (.putPacket ((h.putPacket bs).onTrc _) _) (h.putPacket bs)

theorem StreamMoved.emitSync (h : StreamMoved i s t) (reason pc : Nat) : StreamMoved i s (emitSync t i reason pc) :=
  (h.onTrc _).emitPacket _

theorem StreamMoved.flushOutcomes (h : StreamMoved i s t) : StreamMoved i s (flushOutcomes t i) :=
  .ite h ((h.onTrc _).emitPacket _)

theorem StreamMoved.recoverLoss (h : StreamMoved i s t) (pc : Nat) : StreamMoved i s (recoverLoss t i pc) :=
  .ite (.emitSync ((h.flushOutcomes.onTrc _).emitPacket _) _ _) h

end

/-! #### Sources in turn -/

/-- A field that the stream of no source moves. -/
def StreamFree (f : Fld) : Prop := ∀ i, ∀ g ∈ streamFields i, f.key ≠ g.key

/-- A register of a source stands above the setup window. -/
theorem le_key_srcFld (f : Fld) (i : Nat) : 0x100000 * 32 ≤ (srcFld f i).key := le_key_bank f i

theorem key_srcFld_ne {f : Fld} (hf : Unindexed f) (g : Fld) (i : Nat) : f.key ≠ (srcFld g i).key :=
  (Nat.lt_of_lt_of_le hf (le_key_srcFld g i)).ne

/-- A field of the setup window that is not the ring's. -/
theorem streamFree_of_unindexed {f : Fld} (hf : Unindexed f) (hring : ∀ g ∈ [F.TRC_STATUS_WRAPPED, F.TRC_STATUS_FULL,
    F.TRC_STATUS_OVERFLOW, F.TRC_WRITE_FRAME, F.TRC_LOST_COUNT], f.key ≠ g.key) : StreamFree f := by
  intro i
  simp only [List.forall_mem_cons, List.not_mem_nil, false_imp_iff, implies_true, and_true] at hring ⊢
  obtain ⟨hwrapped, hfull, hoverflow, hframe, hlost⟩ := hring
  exact ⟨hwrapped, hfull, hoverflow, hframe, hlost, key_srcFld_ne hf _ i, key_srcFld_ne hf _ i⟩

/-- Numbers below `n` that lie whole multiples of `n` apart. -/
theorem eq_of_add_mul_eq {a b n i j : Nat} (ha : a < n) (hb : b < n) (h : a + n * i = b + n * j) : i = j ∧ a = b := by
  have hmod := congrArg (· % n) h
  simp only [Nat.add_mul_mod_self_left, Nat.mod_eq_of_lt ha, Nat.mod_eq_of_lt hb] at hmod
  rw [hmod] at h
  exact ⟨Nat.eq_of_mul_eq_mul_left (Nat.zero_lt_of_lt ha) (Nat.add_left_cancel h), hmod⟩

theorem bankKey_eq (addr lo window i : Nat) : (addr + window * i) * 32 + lo = addr * 32 + lo + window * 32 * i := by ring

theorem key_srcFld (f : Fld) (i : Nat) : (srcFld f i).key = f.addr * 32 + f.lo + 0x100000 * 32 * (i + 1) :=
  (key_bank f i).trans (bankKey_eq f.addr f.lo 0x100000 (i + 1))

/-- Registers of sources have one place only where they are one register of one source. -/
theorem key_srcFld_inj {f g : Fld} {i j : Nat} (hf : Unindexed f) (hg : Unindexed g)
    (h : (srcFld f i).key = (srcFld g j).key) : i = j ∧ f.key = g.key := by
  rw [key_srcFld, key_srcFld] at h
  obtain ⟨hsucc, hkey⟩ := eq_of_add_mul_eq hf hg h
  exact ⟨Nat.succ.inj hsucc, hkey⟩

/-- No stream moves ON of a source. -/
theorem streamFree_on (i : Nat) : StreamFree (srcFld F.TRC_SRC_CTRL_ON i) := by
  intro j
  simp only [List.forall_mem_cons, List.not_mem_nil, false_imp_iff, implies_true, and_true]
  have hring : ∀ {g : Fld}, Unindexed g → (srcFld F.TRC_SRC_CTRL_ON i).key ≠ g.key := fun hg => (key_srcFld_ne hg _ i).symm
  refine ⟨hring (by decide), hring (by decide), hring (by decide), hring (by decide), hring (by decide), ?_, ?_⟩
  · exact fun h => absurd (key_srcFld_inj (by decide) (by decide) h).2 (by decide)
  · exact fun h => absurd (key_srcFld_inj (by decide) (by decide) h).2 (by decide)

theorem StreamMoved.getF {i : Nat} {s t : State} (h : StreamMoved i s t) {f : Fld} (hf : StreamFree f) : getF t f = getF s f :=
  h.fields f (hf i)

/-- Frames that can be written again move the streams alone. -/
theorem getF_resumeTrace (s : State) {f : Fld} (hf : StreamFree f) : getF (resumeTrace s) f = getF s f := by
  refine List.foldlRecOn (motive := fun t => getF t f = getF s f) _ _ rfl fun t ht i _ => Eq.trans ?_ ht
  have hfilled : StreamMoved i t (fillFrames t i 18) := (StreamMoved.refl i t).fillFrames 18
  dsimp only
  split
  · exact (hfilled.recoverLoss _).getF hf
  · exact hfilled.getF hf

theorem getF_noteFull (s : State) {f : Fld} (hf : StreamFree f) : getF (noteFull s) f = getF s f :=
  (StreamMoved.refl 0 s).noteFull.getF hf

theorem noteFull_trc (s : State) : (noteFull s).trc = s.trc := by
  unfold noteFull
  split <;> rfl

/-! #### A write to TRC_CTRL (R551, R553, R558) -/

/-- The fields that a write to TRC_CTRL sets before EN is looked at. -/
abbrev traceCtrlFields : List Fld := [F.TRC_WRITE_FRAME, F.TRC_STATUS_WRAPPED, F.TRC_CTRL_WRAP, F.TRC_CTRL_TS_PERIOD, F.TRC_CTRL_PRIV]

/-- CLEAR, which acts while nothing is traced. -/
def ringCleared (s : State) (v : Nat) : State :=
  if v.testBit 28 ∧ getB s F.TRC_STATUS_ENABLED = false then setB (setF s F.TRC_WRITE_FRAME 0) F.TRC_STATUS_WRAPPED false else s

/-- WRAP and TS_PERIOD. -/
def ringSet (s : State) (v : Nat) : State :=
  setF (setB (ringCleared s v) F.TRC_CTRL_WRAP (v.testBit 29)) F.TRC_CTRL_TS_PERIOD v

/-- PRIV, which is set under its authorisation. -/
def traceCtrlTaken (s : State) (v : Nat) : State :=
  if v.testBit 30 = false then setB (ringSet s v) F.TRC_CTRL_PRIV false
  else if getB (ringSet s v) F.TRC_STATUS_PRIV_AUTH then setB (ringSet s v) F.TRC_CTRL_PRIV true else ringSet s v

/-- The state in which EN has risen, before its sources are enabled. -/
def traceEnabled (s : State) : State := setB (setB s F.TRC_CTRL_EN true) F.TRC_STATUS_ENABLED true

theorem trcCtrlWrite_eq (s : State) (v : Nat) : trcCtrlWrite s v =
    let u := traceCtrlTaken s v
    if v.testBit 31 then
      if getB u F.TRC_CTRL_EN then resumeTrace (noteFull u)
      else if ringOk u then noteFull (trcSources.foldl enableSource (traceEnabled u)) else setB u F.TRC_STATUS_REJECT true
    else if getB u F.TRC_CTRL_EN then
      setB (trcSources.foldl disableSource (setB u F.TRC_CTRL_EN false)) F.TRC_STATUS_ENABLED false
    else u := rfl

section
variable (s : State) (v : Nat)

theorem onlyFields_ringCleared : OnlyFields s (ringCleared s v) [F.TRC_WRITE_FRAME, F.TRC_STATUS_WRAPPED] := by
  unfold ringCleared
  split
  · exact ((OnlyFields.refl s _).setF (by simp) _).setB (by simp) _
  · exact .refl s _

theorem onlyFields_ringSet : OnlyFields s (ringSet s v) traceCtrlFields :=
  .setF (.setB ((onlyFields_ringCleared s v).mono (by simp)) (by simp) _) (by simp) _

theorem onlyFields_traceCtrlTaken : OnlyFields s (traceCtrlTaken s v) traceCtrlFields := by
  have hset := onlyFields_ringSet s v
  unfold traceCtrlTaken
  split
  · exact hset.setB (by simp) _
  · split
    · exact hset.setB (by simp) _
    · exact hset

theorem getF_traceCtrlTaken {f : Fld} (hf : ∀ g ∈ traceCtrlFields, f.key ≠ g.key) : getF (traceCtrlTaken s v) f = getF s f :=
  (onlyFields_traceCtrlTaken s v).1 f hf

theorem getB_traceCtrlTaken {f : Fld} (hf : ∀ g ∈ traceCtrlFields, f.key ≠ g.key) : getB (traceCtrlTaken s v) f = getB s f := by
  rw [getB, getF_traceCtrlTaken s v hf, getB]

/-- PRIV is written last. -/
theorem getF_traceCtrlTaken_ringSet {f : Fld} (hf : f.key ≠ F.TRC_CTRL_PRIV.key) :
    getF (traceCtrlTaken s v) f = getF (ringSet s v) f := by
  unfold traceCtrlTaken
  split
  · exact getF_setB_other _ hf _
  · split
    · exact getF_setB_other _ hf _
    · rfl

theorem wrap_traceCtrlTaken : getB (traceCtrlTaken s v) F.TRC_CTRL_WRAP = v.testBit 29 := by
  rw [getB, getF_traceCtrlTaken_ringSet s v (by decide), ringSet, getF_setF_other _ (by decide)]
  exact getB_setB_same (ringCleared s v) F.TRC_CTRL_WRAP _ rfl

/-- PRIV rises under its authorisation alone (R551). -/
theorem priv_traceCtrlTaken : getB (traceCtrlTaken s v) F.TRC_CTRL_PRIV =
    (v.testBit 30 && (getB s F.TRC_STATUS_PRIV_AUTH || getB s F.TRC_CTRL_PRIV)) := by
  have hauth : getB (ringSet s v) F.TRC_STATUS_PRIV_AUTH = getB s F.TRC_STATUS_PRIV_AUTH := by
    rw [getB, (onlyFields_ringSet s v).1 _ (by decide), getB]
  have hpriv : getB (ringSet s v) F.TRC_CTRL_PRIV = getB s F.TRC_CTRL_PRIV := by
    rw [ringSet, getB_setF_other _ (by decide), getB_setB_other _ (by decide), getB,
      (onlyFields_ringCleared s v).1 _ (by decide), getB]
  unfold traceCtrlTaken
  rw [hauth]
  cases v.testBit 30
  · exact getB_setB_same _ _ _ rfl
  · cases getB s F.TRC_STATUS_PRIV_AUTH
    · exact hpriv
    · exact getB_setB_same _ _ _ rfl

/-- CLEAR while nothing is traced restarts the ring (R558). -/
theorem cleared_traceCtrlTaken {s : State} {v : Nat} (hclear : v.testBit 28 = true)
    (hidle : getB s F.TRC_STATUS_ENABLED = false) :
    getF (traceCtrlTaken s v) F.TRC_WRITE_FRAME = 0 ∧ getB (traceCtrlTaken s v) F.TRC_STATUS_WRAPPED = false := by
  have hcleared : ringCleared s v = setB (setF s F.TRC_WRITE_FRAME 0) F.TRC_STATUS_WRAPPED false := if_pos ⟨hclear, hidle⟩
  refine ⟨?_, ?_⟩
  · rw [getF_traceCtrlTaken_ringSet s v (by decide), ringSet, getF_setF_other _ (by decide), getF_setB_other _ (by decide),
      hcleared, getF_setB_other _ (by decide), getF_setF_same]
    rfl
  · rw [getB, getF_traceCtrlTaken_ringSet s v (by decide), ringSet, getF_setF_other _ (by decide), getF_setB_other _ (by decide),
      hcleared]
    exact getB_setB_same _ F.TRC_STATUS_WRAPPED false rfl

/-- What the write sets is no part of a window's registers, which stand at other offsets of 32 bytes. -/
theorem window_apart (w : Nat) : ∀ f ∈ [F.HBM_WIN_CTRL_EN w, F.HBM_WIN_CTRL_OWNER w, F.HBM_WIN_SIZE_SIZE w],
    ∀ g ∈ traceCtrlFields, f.key ≠ g.key := by
  simp only [traceCtrlFields, List.forall_mem_cons, List.not_mem_nil, false_imp_iff, implies_true, and_true, Fld.key,
    F.HBM_WIN_CTRL_EN, F.HBM_WIN_CTRL_OWNER, F.HBM_WIN_SIZE_SIZE, F.TRC_WRITE_FRAME, F.TRC_STATUS_WRAPPED, F.TRC_CTRL_WRAP,
    F.TRC_CTRL_TS_PERIOD, F.TRC_CTRL_PRIV]
  omega

theorem ringOk_traceCtrlTaken : ringOk (traceCtrlTaken s v) = ringOk s := by
  have hwindow : ∀ w, ∀ f ∈ [F.HBM_WIN_CTRL_EN w, F.HBM_WIN_CTRL_OWNER w, F.HBM_WIN_SIZE_SIZE w],
      getF (traceCtrlTaken s v) f = getF s f := fun w f hf => getF_traceCtrlTaken s v (window_apart w f hf)
  simp only [List.forall_mem_cons, List.not_mem_nil, false_imp_iff, implies_true, and_true] at hwindow
  simp only [ringOk, winOwned, winSize, getB, hwindow, getF_traceCtrlTaken s v (f := F.TRC_BUF_WINDOW_WINDOW) (by decide),
    getF_traceCtrlTaken s v (f := F.TRC_BUF_SIZE_UNITS) (by decide),
    getF_traceCtrlTaken s v (f := F.TRC_BUF_OFFSET_UNITS) (by decide)]
  rfl

end

/-! #### EN (R553) -/

theorem trcSrc_onTrc_same (s : State) (i : Nat) (g : TrcSrc → TrcSrc) : trcSrc (onTrc s i g) i = g (trcSrc s i) :=
  SMap.get_set_same _ _ _ _

theorem trcSrc_onTrc_other (s : State) {i j : Nat} (h : j ≠ i) (g : TrcSrc → TrcSrc) : trcSrc (onTrc s i g) j = trcSrc s j :=
  SMap.get_set_other _ _ _ h _

/-- Source `i` is selected in TRC_SOURCES. -/
def sourceSelected (s : State) (i : Nat) : Bool :=
  if i < 32 then (getF s F.TRC_SOURCES_EN).testBit i else (getF s F.TRC_SOURCES_HI_EN).testBit (i - 32)

/-- A field that no source's enabling writes. -/
def EnableFree (f : Fld) : Prop := ∀ i, f.key ≠ (srcFld F.TRC_SRC_CTRL_ON i).key ∧ f.key ≠ (srcFld F.TRC_SRC_BYTES_COUNT i).key

theorem enableFree_of_unindexed {f : Fld} (hf : Unindexed f) : EnableFree f := fun i => ⟨key_srcFld_ne hf _ i, key_srcFld_ne hf _ i⟩

theorem enableFree_startOn (i : Nat) : EnableFree (srcFld F.TRC_SRC_CTRL_START_ON i) := fun j =>
  ⟨fun h => absurd (key_srcFld_inj (by decide) (by decide) h).2 (by decide),
    fun h => absurd (key_srcFld_inj (by decide) (by decide) h).2 (by decide)⟩

theorem getF_enableSource (s : State) (i : Nat) {f : Fld} (hon : f.key ≠ (srcFld F.TRC_SRC_CTRL_ON i).key)
    (hbytes : f.key ≠ (srcFld F.TRC_SRC_BYTES_COUNT i).key) : getF (enableSource s i) f = getF s f := by
  unfold enableSource
  dsimp only
  rw [getF_onTrc, getF_setF_other _ hbytes, getF_setB_other _ hon]

theorem on_enableSource (s : State) (i : Nat) :
    traceOn (enableSource s i) i = (traceRuns s i && getB s (srcFld F.TRC_SRC_CTRL_START_ON i)) := by
  unfold traceOn enableSource
  dsimp only
  rw [getB_onTrc, getB_setF_other _ fun h => absurd (key_srcFld_inj (by decide) (by decide) h).2 (by decide)]
  exact getB_setB_same _ _ _ rfl

/-- As EN rises each source that is selected and starts so turns on, and its FIFO is empty. -/
theorem enableSources_acts (s : State) (hruns : getB s F.TRC_CTRL_EN = true ∧ getB s F.TRC_STATUS_ENABLED = true) (i : Fin 40) :
    traceOn (trcSources.foldl enableSource s) i = (sourceSelected s i && getB s (srcFld F.TRC_SRC_CTRL_START_ON i)) ∧
      (trcSrc (trcSources.foldl enableSource s) i).fifo = [] := by
  refine foldl_establishes (a := i.val) (P := fun t => ∀ f, EnableFree f → getF t f = getF s f)
    (Q := fun t => traceOn t i = (sourceSelected s i && getB s (srcFld F.TRC_SRC_CTRL_START_ON i)) ∧ (trcSrc t i).fifo = [])
    (fun t j _ ht f hf => ?_) (fun t ht => ⟨?_, ?_⟩) (fun t j hj ⟨hon, hfifo⟩ => ⟨?_, ?_⟩) (List.mem_range.2 i.isLt)
    List.nodup_range fun _ _ => rfl
  · exact (getF_enableSource t j (hf j).1 (hf j).2).trans (ht f hf)
  · have hget : ∀ f, Unindexed f → getF t f = getF s f := fun f hf => ht f (enableFree_of_unindexed hf)
    have hselected : traceRuns t i = sourceSelected s i := by
      rw [traceRuns, getB, getB, hget F.TRC_STATUS_ENABLED (by decide), hget F.TRC_CTRL_EN (by decide),
        hget F.TRC_SOURCES_EN (by decide), hget F.TRC_SOURCES_HI_EN (by decide), ← getB, ← getB, hruns.1, hruns.2]
      rfl
    rw [on_enableSource, hselected, getB, ht _ (enableFree_startOn i), getB]
  · exact congrArg TrcSrc.fifo (trcSrc_onTrc_same _ _ _)
  · refine Eq.trans ?_ hon
    rw [traceOn, getB, getF_enableSource t j, traceOn, getB]
    · exact fun h => hj (key_srcFld_inj (by decide) (by decide) h).1.symm
    · exact fun h => absurd (key_srcFld_inj (by decide) (by decide) h).2 (by decide)
  · exact (congrArg TrcSrc.fifo (trcSrc_onTrc_other _ hj.symm _)).trans hfifo

theorem getF_enableSources (s : State) {f : Fld} (hf : EnableFree f) : getF (trcSources.foldl enableSource s) f = getF s f :=
  List.foldlRecOn (motive := fun t => getF t f = getF s f) _ _ rfl fun t ht i _ =>
    (getF_enableSource t i (hf i).1 (hf i).2).trans ht

/-- What a source still has to send as EN falls. -/
def lastPackets (s : State) (i : Nat) : State :=
  let x := trcSrc s i
  if traceOn s i ∧ x.excluded = false then
    emitPacket (flushOutcomes (recoverLoss s i x.pc) i) i (stopPacket s 2 0 x.pc)
  else s

theorem streamMoved_lastPackets (s : State) (i : Nat) : StreamMoved i s (lastPackets s i) :=
  .ite ((((StreamMoved.refl i s).recoverLoss _).flushOutcomes).emitPacket _) (.refl i s)

theorem disableSource_eq (s : State) (i : Nat) :
    disableSource s i = drainSource (setB (lastPackets s i) (srcFld F.TRC_SRC_CTRL_ON i) false) i := rfl

theorem getF_disableSource (s : State) (i : Nat) {f : Fld} (hf : StreamFree f) (hon : f.key ≠ (srcFld F.TRC_SRC_CTRL_ON i).key) :
    getF (disableSource s i) f = getF s f := by
  rw [disableSource_eq, ((StreamMoved.refl i _).drainSource).getF hf, getF_setB_other _ hon, (streamMoved_lastPackets s i).getF hf]

theorem on_disableSource (s : State) (i : Nat) : traceOn (disableSource s i) i = false := by
  rw [traceOn, getB, disableSource_eq, ((StreamMoved.refl i _).drainSource).getF (streamFree_on i)]
  exact getB_setB_same _ (srcFld F.TRC_SRC_CTRL_ON i) false rfl

/-- As EN falls every source turns off. -/
theorem disableSources_off (s : State) (i : Fin 40) : traceOn (trcSources.foldl disableSource s) i = false := by
  refine foldl_establishes (a := i.val) (P := fun _ => True) (Q := fun t => traceOn t i = false) (fun _ _ _ _ => trivial)
    (fun t _ => on_disableSource t i) (fun t j hj ht => Eq.trans ?_ ht) (List.mem_range.2 i.isLt) List.nodup_range trivial
  rw [traceOn, getB, getF_disableSource t j (streamFree_on i), traceOn, getB]
  exact fun h => hj (key_srcFld_inj (by decide) (by decide) h).1.symm

theorem getF_disableSources (s : State) {f : Fld} (hf : StreamFree f) (hindex : Unindexed f) :
    getF (trcSources.foldl disableSource s) f = getF s f :=
  List.foldlRecOn (motive := fun t => getF t f = getF s f) _ _ rfl fun t ht i _ =>
    (getF_disableSource t i hf (key_srcFld_ne hindex _ i)).trans ht

/-! #### The commands -/

theorem exec_traceCtrl {s : State} (hopen : nodeIsolated s 67 = false) (v : Word) :
    ∀ i ∈ [Instr.traceEn v, .trcClear v], exec i s = .next (trcCtrlWrite s v.toNat) := by
  have hwrite := gatedWrite_open (a := 0xF0004) rfl hopen (trcCtrlWrite · v.toNat)
  simp only [List.forall_mem_cons, List.not_mem_nil, false_imp_iff, implies_true, and_true]
  exact ⟨congrArg Host.Outcome.next hwrite, congrArg Host.Outcome.next hwrite⟩

theorem exec_traceCtrl_isolated {s : State} (hiso : nodeIsolated s 67 = true) (v : Word) :
    ∀ i ∈ [Instr.traceEn v, .trcClear v], exec i s = .next (setB s F.NET_STATUS_ISO_ACCESS true) := by
  have hwrite := gatedWrite_isolated (a := 0xF0004) rfl (by decide) hiso (trcCtrlWrite · v.toNat)
  simp only [List.forall_mem_cons, List.not_mem_nil, false_imp_iff, implies_true, and_true]
  exact ⟨congrArg Host.Outcome.next hwrite, congrArg Host.Outcome.next hwrite⟩

/-- EN and WRAP are no part of a stream. -/
theorem streamFree_en : StreamFree F.TRC_CTRL_EN := streamFree_of_unindexed (by decide) (by decide)

theorem streamFree_wrap : StreamFree F.TRC_CTRL_WRAP := streamFree_of_unindexed (by decide) (by decide)

theorem streamFree_enabled : StreamFree F.TRC_STATUS_ENABLED := streamFree_of_unindexed (by decide) (by decide)

section
variable {s : State} {v : Nat}

/-- EN while tracing is enabled. -/
theorem trcCtrlWrite_goesOn (hen : v.testBit 31 = true) (hwas : getB s F.TRC_CTRL_EN = true) :
    getB (trcCtrlWrite s v) F.TRC_CTRL_EN = true ∧ getB (trcCtrlWrite s v) F.TRC_CTRL_WRAP = v.testBit 29 := by
  have hwas' : getB (traceCtrlTaken s v) F.TRC_CTRL_EN = true := (getB_traceCtrlTaken s v (by decide)).trans hwas
  have hkept : ∀ f, StreamFree f → getB (trcCtrlWrite s v) f = getB (traceCtrlTaken s v) f := fun f hf => by
    rw [trcCtrlWrite_eq]
    dsimp only
    rw [if_pos hen, if_pos hwas', getB, getF_resumeTrace _ hf, getF_noteFull _ hf, getB]
  exact ⟨(hkept _ streamFree_en).trans hwas', (hkept _ streamFree_wrap).trans (wrap_traceCtrlTaken s v)⟩

/-- EN over a ring that its window holds (R553). -/
theorem trcCtrlWrite_enables (hen : v.testBit 31 = true) (hwas : getB s F.TRC_CTRL_EN = false) (hring : ringOk s = true) :
    let t := trcCtrlWrite s v
    getB t F.TRC_CTRL_EN = true ∧ getB t F.TRC_STATUS_ENABLED = true ∧ ∀ i : Fin 40,
      traceOn t i = (sourceSelected s i && getB s (srcFld F.TRC_SRC_CTRL_START_ON i)) ∧ (trcSrc t i).fifo = [] := by
  have hwas' : getB (traceCtrlTaken s v) F.TRC_CTRL_EN = false := (getB_traceCtrlTaken s v (by decide)).trans hwas
  obtain ⟨u, hu⟩ : ∃ u, u = traceEnabled (traceCtrlTaken s v) := ⟨_, rfl⟩
  have ht : trcCtrlWrite s v = noteFull (trcSources.foldl enableSource u) := by
    rw [trcCtrlWrite_eq, hu]
    dsimp only
    rw [if_pos hen, if_neg (by simp [hwas']), if_pos ((ringOk_traceCtrlTaken s v).trans hring)]
  have hruns : getB u F.TRC_CTRL_EN = true ∧ getB u F.TRC_STATUS_ENABLED = true := by
    rw [hu, traceEnabled, getB_setB_other _ (by decide)]
    exact ⟨getB_setB_same _ F.TRC_CTRL_EN true rfl, getB_setB_same _ F.TRC_STATUS_ENABLED true rfl⟩
  have hbefore : ∀ f : Fld, (∀ g ∈ [F.TRC_CTRL_EN, F.TRC_STATUS_ENABLED] ++ traceCtrlFields, f.key ≠ g.key) →
      getF u f = getF s f := fun f hf => by
    rw [hu, traceEnabled, getF_setB_other _ (hf _ (by simp)), getF_setB_other _ (hf _ (by simp))]
    exact getF_traceCtrlTaken s v fun g hg => hf g (List.mem_append_right _ hg)
  have hselected : ∀ i, sourceSelected u i = sourceSelected s i := fun i => by
    rw [sourceSelected, hbefore F.TRC_SOURCES_EN (by decide), hbefore F.TRC_SOURCES_HI_EN (by decide), sourceSelected]
  have hstart : ∀ i, getB u (srcFld F.TRC_SRC_CTRL_START_ON i) = getB s (srcFld F.TRC_SRC_CTRL_START_ON i) := fun i => by
    have hunindexed : ∀ g ∈ [F.TRC_CTRL_EN, F.TRC_STATUS_ENABLED] ++ traceCtrlFields, Unindexed g := by decide
    rw [getB, hbefore _ fun g hg => (key_srcFld_ne (hunindexed g hg) _ i).symm, getB]
  have hafter : ∀ f, StreamFree f → EnableFree f → getB (trcCtrlWrite s v) f = getB u f := fun f hf hf' => by
    rw [ht, getB, getF_noteFull _ hf, getF_enableSources _ hf', getB]
  refine ⟨?_, ?_, fun i => ?_⟩
  · exact (hafter _ streamFree_en (enableFree_of_unindexed (by decide))).trans hruns.1
  · exact (hafter _ streamFree_enabled (enableFree_of_unindexed (by decide))).trans hruns.2
  · obtain ⟨hon, hfifo⟩ := enableSources_acts u hruns i
    rw [hselected, hstart] at hon
    rw [ht]
    refine ⟨?_, ?_⟩
    · rw [traceOn, getB, getF_noteFull _ (streamFree_on i)]
      exact hon
    · rw [trcSrc, noteFull_trc]
      exact hfifo

/-- EN over another ring is rejected. -/
theorem trcCtrlWrite_rejects (hen : v.testBit 31 = true) (hwas : getB s F.TRC_CTRL_EN = false) (hring : ringOk s = false) :
    let t := trcCtrlWrite s v
    getB t F.TRC_STATUS_REJECT = true ∧ getB t F.TRC_CTRL_EN = false ∧ t.trc = s.trc := by
  have hwas' : getB (traceCtrlTaken s v) F.TRC_CTRL_EN = false := (getB_traceCtrlTaken s v (by decide)).trans hwas
  have ht : trcCtrlWrite s v = setB (traceCtrlTaken s v) F.TRC_STATUS_REJECT true := by
    rw [trcCtrlWrite_eq]
    dsimp only
    rw [if_pos hen, if_neg (by simp [hwas']), if_neg (by simp [ringOk_traceCtrlTaken, hring])]
  dsimp only
  rw [ht]
  refine ⟨getB_setB_same _ F.TRC_STATUS_REJECT true rfl, ?_, ?_⟩
  · rw [getB_setB_other _ (by decide)]
    exact hwas'
  · rw [setB_trc]
    have htrc := congrArg State.trc (onlyFields_traceCtrlTaken s v).2
    exact htrc

/-- EN = 0 while tracing is enabled. -/
theorem trcCtrlWrite_disables (hen : v.testBit 31 = false) (hwas : getB s F.TRC_CTRL_EN = true) :
    let t := trcCtrlWrite s v
    getB t F.TRC_CTRL_EN = false ∧ getB t F.TRC_STATUS_ENABLED = false ∧ ∀ i : Fin 40, traceOn t i = false := by
  have hwas' : getB (traceCtrlTaken s v) F.TRC_CTRL_EN = true := (getB_traceCtrlTaken s v (by decide)).trans hwas
  obtain ⟨u, hu⟩ : ∃ u, u = setB (traceCtrlTaken s v) F.TRC_CTRL_EN false := ⟨_, rfl⟩
  have ht : trcCtrlWrite s v = setB (trcSources.foldl disableSource u) F.TRC_STATUS_ENABLED false := by
    rw [trcCtrlWrite_eq, hu]
    dsimp only
    rw [if_neg (by simp [hen]), if_pos hwas']
  dsimp only
  rw [ht]
  refine ⟨?_, getB_setB_same _ _ _ rfl, fun i => ?_⟩
  · rw [getB_setB_other _ (by decide), getB, getF_disableSources _ streamFree_en (by decide), hu]
    exact getB_setB_same _ F.TRC_CTRL_EN false rfl
  · rw [traceOn, getB_setB_other _ (key_srcFld_ne (by decide) _ i).symm]
    exact disableSources_off u i

/-- EN stays 0. -/
theorem trcCtrlWrite_idle (hen : v.testBit 31 = false) (hwas : getB s F.TRC_CTRL_EN = false) :
    trcCtrlWrite s v = traceCtrlTaken s v := by
  have hwas' : getB (traceCtrlTaken s v) F.TRC_CTRL_EN = false := (getB_traceCtrlTaken s v (by decide)).trans hwas
  rw [trcCtrlWrite_eq]
  dsimp only
  rw [if_neg (by simp [hen]), if_neg (by simp [hwas'])]

end

/-- Settles O45, by what EN is before and after the write. -/
theorem traceControlActs : Obligations.TraceControlActs := by
  unfold Obligations.TraceControlActs
  intro s v
  simp only [← BitVec.testBit_toNat]
  refine ⟨fun hiso => exec_traceCtrl_isolated hiso v, fun hopen => ?_⟩
  have hexec : exec (.traceEn v) s = .next (trcCtrlWrite s v.toNat) := exec_traceCtrl hopen v _ (by simp)
  refine ⟨fun hen hwas => ⟨_, hexec, trcCtrlWrite_goesOn hen hwas⟩, fun hen hwas => ⟨_, hexec, ?_⟩,
    fun hen hwas => ⟨_, hexec, trcCtrlWrite_disables hen hwas⟩, fun hclear hen hidle hwas => ?_⟩
  · split
    next hring => exact trcCtrlWrite_enables hen hwas hring
    next hring => exact trcCtrlWrite_rejects hen hwas (by simpa using hring)
  · obtain ⟨hframe, hwrapped⟩ := cleared_traceCtrlTaken hclear hidle
    refine ⟨_, exec_traceCtrl hopen v _ (by simp), ?_⟩
    rw [trcCtrlWrite_idle hen hwas]
    exact ⟨hframe, hwrapped, wrap_traceCtrlTaken s _, priv_traceCtrlTaken s _, (onlyFields_traceCtrlTaken s _).2⟩

end Sys2Proof.Machine
end

section
/-! ### The Assay engine -/

namespace Sys2Proof.Machine

/-! #### ASY_CTRL (R378, R383, R387) -/

/-- A write to ASY_CTRL leaves the engine's status. -/
theorem getB_plainWrite_asyCtrl (s : State) (v : Nat) {f : Fld} (hf : ∀ g ∈ fieldsAt 0xB0004, f.key ≠ g.key) :
    getB (plainWrite s 0xB0004 v) f = getB s f := by
  rw [getB, getB, getF_plainWrite_other s hf]

/-- Acquisition has ended with the last committed cycle: what of it is not committed neither stores nor acts. -/
def AcqEnded (s t : State) : Prop := t.asy.committed.armed = false ∧ t.asy.waiting = s.asy.waiting ∧
  ∀ e ∈ t.asy.stage, e.eng.armed = false ∧ e.stored = false ∧ e.pulses = [] ∧ e.stop = false

theorem acqEnded_asyDisarm (s : State) : AcqEnded s (asyDisarm s) := by
  refine ⟨rfl, rfl, fun e he => ?_⟩
  obtain ⟨x, -, rfl⟩ := List.mem_map.mp he
  exact ⟨rfl, rfl, rfl, rfl⟩

theorem asyDisarm_frame (s : State) : asyDisarm s = { s with regs := (asyDisarm s).regs, asy := (asyDisarm s).asy } := rfl

/-- The registers as ARM leaves them: armed, with nothing done, triggered, wrapped or written. -/
def armedRegs (s : State) : State :=
  set64 (setB (setB (setB (setB s F.ASY_STATUS_ARMED true) F.ASY_STATUS_DONE false) F.ASY_STATUS_TRIGGERED false)
    F.ASY_STATUS_WRAPPED false) F.ASY_WR_SAMPLE_LO_VALUE F.ASY_WR_SAMPLE_HI_VALUE 0

theorem asyArm_of_passes {s : State} (h : armRefused s = false) : asyArm s = onAsy (armedRegs (asyDisarm s)) (fun a =>
    { a with armPending := true, armCycle := none, storeInit := getB (armedRegs (asyDisarm s)) F.ASY_CTRL_STORE_INIT }) := by
  rw [asyArm, h]
  rfl

theorem getF_armedRegs (s : State) {f : Fld} (hstatus : ∀ g ∈ [F.ASY_STATUS_ARMED, F.ASY_STATUS_DONE, F.ASY_STATUS_TRIGGERED,
    F.ASY_STATUS_WRAPPED, F.ASY_WR_SAMPLE_LO_VALUE, F.ASY_WR_SAMPLE_HI_VALUE], f.key ≠ g.key) :
    getF (armedRegs s) f = getF s f := by
  have h : FieldsBut s (armedRegs s) [F.ASY_STATUS_ARMED, F.ASY_STATUS_DONE, F.ASY_STATUS_TRIGGERED, F.ASY_STATUS_WRAPPED,
      F.ASY_WR_SAMPLE_LO_VALUE, F.ASY_WR_SAMPLE_HI_VALUE] :=
    ((((((FieldsBut.refl s _).setF (by simp) _).setF (by simp) _).setF (by simp) _).setF (by simp) _).setF (by simp) _).setF
      (by simp) _
  exact h f hstatus

theorem status_armedRegs (s : State) : getB (armedRegs s) F.ASY_STATUS_ARMED = true ∧
    getB (armedRegs s) F.ASY_STATUS_DONE = false ∧ getB (armedRegs s) F.ASY_STATUS_TRIGGERED = false ∧
    getB (armedRegs s) F.ASY_STATUS_WRAPPED = false ∧ getF (armedRegs s) F.ASY_WR_SAMPLE_LO_VALUE = 0 ∧
    getF (armedRegs s) F.ASY_WR_SAMPLE_HI_VALUE = 0 := by
  unfold armedRegs set64
  refine ⟨?_, ?_, ?_, ?_, ?_, ?_⟩
  · rw [getB_setF_other _ (by decide), getB_setF_other _ (by decide), getB_setB_other _ (by decide),
      getB_setB_other _ (by decide), getB_setB_other _ (by decide), getB_setB_same _ _ _ rfl]
  · rw [getB_setF_other _ (by decide), getB_setF_other _ (by decide), getB_setB_other _ (by decide),
      getB_setB_other _ (by decide), getB_setB_same _ _ _ rfl]
  · rw [getB_setF_other _ (by decide), getB_setF_other _ (by decide), getB_setB_other _ (by decide), getB_setB_same _ _ _ rfl]
  · rw [getB_setF_other _ (by decide), getB_setF_other _ (by decide), getB_setB_same _ _ _ rfl]
  · rw [getF_setF_other _ (by decide), getF_setF_same]
    rfl
  · rw [getF_setF_same]
    rfl

theorem storeInit_armedRegs (s : State) : getB (armedRegs (asyDisarm s)) F.ASY_CTRL_STORE_INIT = getB s F.ASY_CTRL_STORE_INIT := by
  rw [getB, getF_armedRegs _ (by decide)]
  exact getB_setB_other s (f := F.ASY_STATUS_ARMED) (by decide) false

section
variable {s : State} {v : Word}

theorem asyCtrlWrite_arm (h0 : v.getLsbD 0 = true) (h1 : v.getLsbD 1 = false) (h2 : v.getLsbD 2 = false) :
    asyCtrlWrite s v.toNat = asyArm (plainWrite s 0xB0004 v.toNat) := by
  rw [← BitVec.testBit_toNat] at h0 h1 h2
  rw [asyCtrlWrite, h0, h1, h2]
  rfl

theorem asyCtrlWrite_disarm (h0 : v.getLsbD 0 = false) (h1 : v.getLsbD 1 = true) (h2 : v.getLsbD 2 = false) :
    asyCtrlWrite s v.toNat = asyDisarm (plainWrite s 0xB0004 v.toNat) := by
  rw [← BitVec.testBit_toNat] at h0 h1 h2
  rw [asyCtrlWrite, h0, h1, h2]
  rfl

theorem asyCtrlWrite_force (h0 : v.getLsbD 0 = false) (h1 : v.getLsbD 1 = false) (h2 : v.getLsbD 2 = true) :
    asyCtrlWrite s v.toNat = onAsy (plainWrite s 0xB0004 v.toNat) (fun a => { a with forcePending := true }) := by
  rw [← BitVec.testBit_toNat] at h0 h1 h2
  rw [asyCtrlWrite, h0, h1, h2]
  rfl

end

/-- ARM under a configuration that breaks a rule (R404). -/
theorem asyArm_refused (s : State) (v : Nat) (h : armRefused (plainWrite s 0xB0004 v) = true) :
    let t := asyArm (plainWrite s 0xB0004 v)
    getB t F.ASY_STATUS_CFG_REJECT = true ∧ t = { s with regs := t.regs } ∧
      getB t F.ASY_STATUS_ARMED = getB s F.ASY_STATUS_ARMED := by
  dsimp only
  rw [asyArm, if_pos h]
  refine ⟨getB_setB_same _ _ _ rfl, ?_, ?_⟩
  · exact congrArg (setB · F.ASY_STATUS_CFG_REJECT true) (onlyFields_plainWrite s 0xB0004 v).2
  · rw [getB_setB_other _ (by decide)]
    exact getB_plainWrite_asyCtrl s v (by decide)

/-- Nothing but register fields and the engine differs. -/
def EngineOnly (s t : State) : Prop := t = { s with regs := t.regs, asy := t.asy }

theorem OnlyFields.engineOnly {s t : State} {fs : List Fld} (h : OnlyFields s t fs) : EngineOnly s t := by
  have hasy := congrArg State.asy h.2
  dsimp only at hasy
  exact h.2.trans (by rw [hasy])

theorem EngineOnly.trans {s t u : State} (h : EngineOnly s t) (h' : EngineOnly t u) : EngineOnly s u :=
  Eq.trans h' (by rw [h])

theorem AcqEnded.congr {r s t : State} (h : AcqEnded s t) (hasy : s.asy = r.asy) : AcqEnded r t := by
  rwa [AcqEnded, ← hasy]

/-- What ARM leaves under a configuration that passes. -/
structure Armed (s t : State) : Prop where
  armed : getB t F.ASY_STATUS_ARMED = true
  done : getB t F.ASY_STATUS_DONE = false
  triggered : getB t F.ASY_STATUS_TRIGGERED = false
  wrapped : getB t F.ASY_STATUS_WRAPPED = false
  sampleLo : getF t F.ASY_WR_SAMPLE_LO_VALUE = 0
  sampleHi : getF t F.ASY_WR_SAMPLE_HI_VALUE = 0
  pending : t.asy.armPending = true
  cycle : t.asy.armCycle = none
  storeInit : t.asy.storeInit = getB s F.ASY_CTRL_STORE_INIT
  ended : AcqEnded s t
  frame : EngineOnly s t

theorem armed_asyArm {s : State} (h : armRefused s = false) : Armed s (asyArm s) := by
  rw [asyArm_of_passes h]
  obtain ⟨harmed, hdone, htriggered, hwrapped, hlo, hhi⟩ := status_armedRegs (asyDisarm s)
  obtain ⟨hcommitted, hwaiting, hstage⟩ := acqEnded_asyDisarm s
  exact {
    armed := (getB_onAsy _ _ _).trans harmed
    done := (getB_onAsy _ _ _).trans hdone
    triggered := (getB_onAsy _ _ _).trans htriggered
    wrapped := (getB_onAsy _ _ _).trans hwrapped
    sampleLo := (getF_onAsy _ _ _).trans hlo
    sampleHi := (getF_onAsy _ _ _).trans hhi
    pending := rfl
    cycle := rfl
    storeInit := storeInit_armedRegs s
    ended := ⟨hcommitted, hwaiting, hstage⟩
    frame := rfl }

/-- ARM under a configuration that passes (R378). -/
theorem asyArm_passes (s : State) (v : Nat) (h : armRefused (plainWrite s 0xB0004 v) = false) :
    let t := asyArm (plainWrite s 0xB0004 v)
    getB t F.ASY_STATUS_ARMED = true ∧ getB t F.ASY_STATUS_DONE = false ∧ getB t F.ASY_STATUS_TRIGGERED = false ∧
      getB t F.ASY_STATUS_WRAPPED = false ∧ getF t F.ASY_WR_SAMPLE_LO_VALUE = 0 ∧ getF t F.ASY_WR_SAMPLE_HI_VALUE = 0 ∧
      t.asy.armPending = true ∧ t.asy.armCycle = none ∧
      t.asy.storeInit = getB (plainWrite s 0xB0004 v) F.ASY_CTRL_STORE_INIT ∧ AcqEnded s t ∧ EngineOnly s t := by
  have hwrite := onlyFields_plainWrite s 0xB0004 v
  have hasy : (plainWrite s 0xB0004 v).asy = s.asy := by rw [hwrite.2]
  obtain ⟨harmed, hdone, htriggered, hwrapped, hlo, hhi, hpending, hcycle, hinit, hended, hframe⟩ := armed_asyArm h
  exact ⟨harmed, hdone, htriggered, hwrapped, hlo, hhi, hpending, hcycle, hinit, hended.congr hasy,
    hwrite.engineOnly.trans hframe⟩

/-- DISARM (R387). -/
theorem disarm_answers (s : State) (v : Nat) :
    let t := asyDisarm (plainWrite s 0xB0004 v)
    getB t F.ASY_STATUS_ARMED = false ∧ getB t F.ASY_STATUS_DONE = getB s F.ASY_STATUS_DONE ∧ t.asy.armPending = false ∧
      AcqEnded s t ∧ EngineOnly s t := by
  have hwrite := onlyFields_plainWrite s 0xB0004 v
  have hasy : (plainWrite s 0xB0004 v).asy = s.asy := by rw [hwrite.2]
  have hdone := getB_plainWrite_asyCtrl s v (f := F.ASY_STATUS_DONE) (by decide)
  have hwritten := hwrite.engineOnly
  generalize plainWrite s 0xB0004 v = u at hasy hdone hwritten
  refine ⟨getB_setB_same u F.ASY_STATUS_ARMED false rfl, ?_, rfl, (acqEnded_asyDisarm u).congr hasy,
    hwritten.trans (asyDisarm_frame u)⟩
  exact (getB_setB_other u (f := F.ASY_STATUS_ARMED) (by decide) false).trans hdone

/-! #### Trackers (R389, R390) -/

theorem fieldsAt_trkCtrl (k : Fin 32) : fieldsAt (0xB0600 + 8 * k) =
    [F.ASY_TRK_CTRL_EN k, F.ASY_TRK_CTRL_SIGNED k, F.ASY_TRK_CTRL_WIDTH k, F.ASY_TRK_CTRL_FIRST k] := by
  revert k
  decide +kernel

theorem gateOfReg_trkCtrl (k : Fin 32) : gateOfReg (0xB0600 + 8 * k) = some 66 := by
  revert k
  decide +kernel

/-- A write with EN at 0 leaves the tracker disabled. -/
theorem en_plainWrite_trkCtrl (s : State) (k : Fin 32) (v : Nat) :
    getB (plainWrite s (0xB0600 + 8 * k) (v % 2 ^ 31)) (F.ASY_TRK_CTRL_EN k) = false := by
  have hen : bitsOf (v % 2 ^ 31) 31 1 = 0 := by simp only [bitsOf]; omega
  rw [plainWrite, fieldsAt_trkCtrl]
  show getB (setF (setF (setF (setF s (F.ASY_TRK_CTRL_EN k) (bitsOf (v % 2 ^ 31) 31 1)) (F.ASY_TRK_CTRL_SIGNED k) _)
    (F.ASY_TRK_CTRL_WIDTH k) _) (F.ASY_TRK_CTRL_FIRST k) _) (F.ASY_TRK_CTRL_EN k) = false
  rw [getB, getF_setF_other, getF_setF_other, getF_setF_other, getF_setF_same, hen]
  · rfl
  all_goals
    simp only [Fld.key, F.ASY_TRK_CTRL_EN, F.ASY_TRK_CTRL_SIGNED, F.ASY_TRK_CTRL_WIDTH, F.ASY_TRK_CTRL_FIRST]
    omega

/-- An evaluation again changes the engine alone. -/
theorem evaluateAgain_frame (s : State) (c : Nat) : (evaluateAgain s c).regs = s.regs ∧ EngineOnly s (evaluateAgain s c) := by
  refine List.foldlRecOn (motive := fun t : State => t.regs = s.regs ∧ EngineOnly s t) _ _ ⟨rfl, rfl⟩ fun t h e _ => ?_
  exact ⟨h.1, h.2.trans rfl⟩

section
variable {s : State} {k : Nat} {v : Nat}

theorem trkWrite_kept (hwas : getB s (F.ASY_TRK_CTRL_EN k) = true)
    (h : v.testBit 31 = true ∨ v % 2 ^ 31 ≠ plainReg s (F.ASY_TRK_CTRL_EN k).addr % 2 ^ 31) : trkWrite s k v = s := by
  unfold trkWrite
  dsimp only
  rw [if_pos]
  simpa [hwas] using h

/-- EN = 0 ends the tracker's interval. -/
theorem trkWrite_stops (hwas : getB s (F.ASY_TRK_CTRL_EN k) = true) (hen : v.testBit 31 = false)
    (hrest : v % 2 ^ 31 = plainReg s (F.ASY_TRK_CTRL_EN k).addr % 2 ^ 31) :
    getB (trkWrite s k v) (F.ASY_TRK_CTRL_EN k) = false ∧ (trkWrite s k v).asy.committed.tracks.get none k = none := by
  unfold trkWrite
  dsimp only
  rw [if_neg (by rw [hen, hrest]; simp), if_pos hwas]
  refine ⟨getB_setB_same _ _ _ rfl, ?_⟩
  rw [setB_asy, onAsy_asy]
  exact SMap.get_set_same none _ k none

/-- EN = 1 over a ring that fits starts the tracker. -/
theorem trkWrite_starts (hwas : getB s (F.ASY_TRK_CTRL_EN k) = false) (hen : v.testBit 31 = true) :
    trkWrite s k v =
      let u := plainWrite s (F.ASY_TRK_CTRL_EN k).addr (v % 2 ^ 31)
      if redOk u then evaluateAgain (setB u (F.ASY_TRK_CTRL_EN k) true) u.run.nextCommit
      else setB u F.ASY_STATUS_CFG_REJECT true := by
  unfold trkWrite
  dsimp only
  rw [if_neg (by simp [hwas]), if_neg (by simp [hwas]), if_pos hen]

theorem trkWrite_written (hwas : getB s (F.ASY_TRK_CTRL_EN k) = false) (hen : v.testBit 31 = false) :
    trkWrite s k v = plainWrite s (F.ASY_TRK_CTRL_EN k).addr (v % 2 ^ 31) := by
  unfold trkWrite
  dsimp only
  rw [if_neg (by simp [hwas]), if_neg (by simp [hwas]), if_neg (by simp [hen])]

end

/-- EN of a disabled tracker (R389, R404). -/
theorem trkWrite_enable {s : State} {k : Fin 32} {v : Nat} (hwas : getB s (F.ASY_TRK_CTRL_EN k) = false)
    (hen : v.testBit 31 = true) :
    let u := plainWrite s (F.ASY_TRK_CTRL_EN k).addr (v % 2 ^ 31)
    let t := trkWrite s k v
    EngineOnly s t ∧ getB t (F.ASY_TRK_CTRL_EN k) = redOk u ∧
      (redOk u = false → getB t F.ASY_STATUS_CFG_REJECT = true ∧ t.asy = s.asy) := by
  dsimp only
  rw [trkWrite_starts hwas hen]
  dsimp only
  have hwrite := onlyFields_plainWrite s (F.ASY_TRK_CTRL_EN k).addr (v % 2 ^ 31)
  have hasy : (plainWrite s (F.ASY_TRK_CTRL_EN k).addr (v % 2 ^ 31)).asy = s.asy := by rw [hwrite.2]
  have hoff : getB (plainWrite s (F.ASY_TRK_CTRL_EN k).addr (v % 2 ^ 31)) (F.ASY_TRK_CTRL_EN k) = false :=
    en_plainWrite_trkCtrl s k v
  have hwritten := hwrite.engineOnly
  generalize plainWrite s (F.ASY_TRK_CTRL_EN k).addr (v % 2 ^ 31) = u at hasy hoff hwritten
  have hset : ∀ f b, EngineOnly s (setB u f b) := fun f b => hwritten.trans rfl
  split
  next hring =>
    obtain ⟨hregs, hframe⟩ := evaluateAgain_frame (setB u (F.ASY_TRK_CTRL_EN k) true) u.run.nextCommit
    refine ⟨(hset _ _).trans hframe, ?_, fun h => absurd hring (by simp [h])⟩
    rw [getB, getF_congr hregs, hring]
    exact getB_setB_same u (F.ASY_TRK_CTRL_EN k) true rfl
  next hring =>
    refine ⟨hset _ _, ?_, fun _ => ⟨getB_setB_same _ _ _ rfl, hasy⟩⟩
    rw [getB_setB_other, hoff, Bool.eq_false_of_not_eq_true hring]
    simp only [Fld.key, F.ASY_TRK_CTRL_EN, F.ASY_STATUS_CFG_REJECT]
    omega

/-! #### The reduction ring (R390) -/

theorem redCtrlWrite_clear {s : State} {v : Nat} (h : v.testBit 0 = true) :
    redCtrlWrite s v = setF (setF s F.ASY_RED_CTRL_WRAP (bitsOf v 1 1)) F.ASY_RED_INDEX_NEXT 0 := by
  rw [redCtrlWrite, h]
  rfl

/-! #### ASY_PAT_DATA (R376) -/

/-- A word of the patterns is not the index that selects it. -/
theorem key_patField (s : State) : F.ASY_PAT_INDEX_WORD.key ≠ (patField s).key :=
  (Nat.lt_of_lt_of_le (by decide) (le_key_bank _ _)).ne

theorem wrapF_patIndex (s : State) :
    getF (wrapF s F.ASY_PAT_INDEX_WORD 1) F.ASY_PAT_INDEX_WORD = (getF s F.ASY_PAT_INDEX_WORD + 1) % 2 ^ 5 :=
  getF_setF_same s F.ASY_PAT_INDEX_WORD _

theorem patWrite_disarmed {s : State} (h : getB s F.ASY_STATUS_ARMED = false) (v : Word) :
    getF (patWrite s v.toNat) (patField s) = v.toNat ∧
      getF (patWrite s v.toNat) F.ASY_PAT_INDEX_WORD = (getF s F.ASY_PAT_INDEX_WORD + 1) % 2 ^ 5 ∧
      OnlyFields s (patWrite s v.toNat) [patField s, F.ASY_PAT_INDEX_WORD] := by
  rw [patWrite, h, if_neg Bool.false_ne_true]
  refine ⟨?_, ?_, ((OnlyFields.refl s _).setF (by simp) _).wrapF (by simp) _⟩
  · rw [wrapF, getF_setF_other _ (key_patField s).symm, getF_setF_same]
    exact Nat.mod_eq_of_lt v.isLt
  · rw [wrapF_patIndex, getF_setF_other _ (key_patField s)]

theorem patWrite_armed {s : State} (h : getB s F.ASY_STATUS_ARMED = true) (v : Nat) :
    OnlyFields s (patWrite s v) [F.ASY_PAT_INDEX_WORD] := by
  rw [patWrite, if_pos h]
  exact (OnlyFields.refl s _).wrapF (by simp) _

/-! #### The commands -/

section
variable {s : State}

theorem exec_assay_isolated (hiso : nodeIsolated s 66 = true) (v : Word) (k : Fin 32) :
    ∀ i ∈ [Instr.arm v, .disarm v, .forceTrigger v, .trackerEnable k v, .redClear v, .patDataAccess (some v)],
      exec i s = .next (setB s F.NET_STATUS_ISO_ACCESS true) := by
  have hctrl := gatedWrite_isolated (a := 0xB0004) rfl (by decide) hiso (asyCtrlWrite · v.toNat)
  have htrk := gatedWrite_isolated (gateOfReg_trkCtrl k) (by simp [fieldsAt_trkCtrl]) hiso (trkWrite · k v.toNat)
  have hred := gatedWrite_isolated (a := 0xB0048) rfl (by decide) hiso (redCtrlWrite · v.toNat)
  have hpat := gatedWrite_isolated (a := 0xB0144) rfl (by decide) hiso (patWrite · v.toNat)
  simp only [List.forall_mem_cons, List.not_mem_nil, false_imp_iff, implies_true, and_true]
  exact ⟨congrArg Host.Outcome.next hctrl, congrArg Host.Outcome.next hctrl, congrArg Host.Outcome.next hctrl,
    congrArg Host.Outcome.next htrk, congrArg Host.Outcome.next hred, congrArg Host.Outcome.next hpat⟩

theorem exec_patRead_isolated (hiso : nodeIsolated s 66 = true) : exec (.patDataAccess none) s =
    .next (emit (setB s F.NET_STATUS_ISO_ACCESS true) (.readValue 0 0xFFFFFFFF)) :=
  congrArg Host.Outcome.next (gatedRead_isolated (a := 0xB0144) rfl (by decide) hiso patRead)

variable (hopen : nodeIsolated s 66 = false) (v : Word)
include hopen

theorem exec_asyCtrl : ∀ i ∈ [Instr.arm v, .disarm v, .forceTrigger v], exec i s = .next (asyCtrlWrite s v.toNat) := by
  have hwrite := gatedWrite_open (a := 0xB0004) rfl hopen (asyCtrlWrite · v.toNat)
  simp only [List.forall_mem_cons, List.not_mem_nil, false_imp_iff, implies_true, and_true]
  exact ⟨congrArg Host.Outcome.next hwrite, congrArg Host.Outcome.next hwrite, congrArg Host.Outcome.next hwrite⟩

theorem exec_trackerEnable (k : Fin 32) : exec (.trackerEnable k v) s = .next (trkWrite s k v.toNat) :=
  congrArg Host.Outcome.next (gatedWrite_open (gateOfReg_trkCtrl k) hopen (trkWrite · k v.toNat))

theorem exec_redClear : exec (.redClear v) s = .next (redCtrlWrite s v.toNat) :=
  congrArg Host.Outcome.next (gatedWrite_open (a := 0xB0048) rfl hopen (redCtrlWrite · v.toNat))

theorem exec_patWrite : exec (.patDataAccess (some v)) s = .next (patWrite s v.toNat) :=
  congrArg Host.Outcome.next (gatedWrite_open (a := 0xB0144) rfl hopen (patWrite · v.toNat))

omit v in
theorem exec_patRead : exec (.patDataAccess none) s = .next (emit (patRead s).2 (.readValue 0 (patRead s).1)) :=
  congrArg Host.Outcome.next (gatedRead_open (a := 0xB0144) rfl hopen patRead)

/-- A write to the register of an enabled tracker. -/
theorem trackerEnable_enabled {k : Fin 32} (hwas : getB s (F.ASY_TRK_CTRL_EN k) = true) (hen : v.getLsbD 31 = false) :
    Answers (.trackerEnable k v) s (fun t =>
      if v.toNat = plainReg s (F.ASY_TRK_CTRL_EN k).addr % 2 ^ 31 then
        getB t (F.ASY_TRK_CTRL_EN k) = false ∧ t.asy.committed.tracks.get none k = none
      else t = s) := by
  have hlow : v.toNat % 2 ^ 31 = v.toNat := by
    have := v.isLt
    rw [← BitVec.testBit_toNat, Nat.testBit_eq_decide_div_mod_eq] at hen
    simp only [decide_eq_false_iff_not] at hen
    omega
  rw [← BitVec.testBit_toNat] at hen
  refine ⟨_, exec_trackerEnable hopen v k, ?_⟩
  split
  next hsame => exact trkWrite_stops hwas hen (hlow.trans hsame)
  next hdiffers => exact trkWrite_kept hwas (.inr (by rwa [hlow]))

end

/-- Settles O33, by the register that each command writes. -/
theorem assayCommandsAct : Obligations.AssayCommandsAct := by
  unfold Obligations.AssayCommandsAct
  intro s v
  refine ⟨fun hiso k => ⟨exec_assay_isolated hiso v k, _, exec_patRead_isolated hiso,
      getB_setB_same s F.NET_STATUS_ISO_ACCESS true rfl, rfl⟩,
    fun hopen => ⟨fun h0 h1 h2 => ⟨_, exec_asyCtrl hopen v _ (by simp), ?_⟩,
      fun h0 h1 h2 => ⟨_, exec_asyCtrl hopen v _ (by simp), ?_⟩, fun h0 h1 h2 => ⟨_, exec_asyCtrl hopen v _ (by simp), ?_⟩,
      fun k => ⟨fun hwas hen => ⟨_, exec_trackerEnable hopen v k, trkWrite_kept hwas (.inl ?_)⟩,
        trackerEnable_enabled hopen v, fun hwas hen => ⟨_, exec_trackerEnable hopen v k, trkWrite_enable hwas ?_⟩,
        fun hwas hen => (exec_trackerEnable hopen v k).trans (congrArg _ (trkWrite_written hwas ?_))⟩,
      fun hclear => ⟨_, exec_redClear hopen v, ?_⟩,
      fun hidle => ⟨_, exec_patWrite hopen v, patWrite_disarmed hidle v⟩,
      fun harmed => ⟨_, exec_patWrite hopen v, patWrite_armed harmed v.toNat⟩,
      ⟨_, exec_patRead hopen, rfl, wrapF_patIndex s, (FieldsBut.refl s _).setF (by simp) _, rfl⟩⟩⟩
  · rw [asyCtrlWrite_arm h0 h1 h2]
    split
    next hrefused => exact asyArm_refused s v.toNat hrefused
    next hpasses => exact asyArm_passes s v.toNat (by simpa using hpasses)
  · rw [asyCtrlWrite_disarm h0 h1 h2]
    exact disarm_answers s v.toNat
  · rw [asyCtrlWrite_force h0 h1 h2]
    exact congrArg (onAsy · _) (onlyFields_plainWrite s 0xB0004 v.toNat).2
  · rwa [BitVec.testBit_toNat]
  · rwa [BitVec.testBit_toNat]
  · rwa [BitVec.testBit_toNat]
  · rw [redCtrlWrite_clear (by rwa [BitVec.testBit_toNat])]
    exact ⟨getF_setF_same _ _ _, ((OnlyFields.refl s _).setF (by simp) _).setF (by simp) _⟩

end Sys2Proof.Machine
end

section
/-! ### Packets on their way (R239 to R249) -/

namespace Sys2Proof.Machine

/-! #### What routers, probes and the trace ring move -/

/-- The registers that packets on their way move. -/
def passFields : List Fld := [F.NET_CE_COUNT_COUNT, F.NET_UE_COUNT_COUNT, F.NET_STATUS_UE_HOP, F.NET_UE_LOC_PORT,
  F.NET_UE_LOC_NODE, F.NET_TRACE_LOST_COUNT, F.NET_TRACE_INDEX_NEXT, F.NET_STATUS_TRACE_FULL, F.NET_TRACE_CTRL_EN] ++
  (List.range 32).flatMap (fun n => [F.NET_PROBE_PKTS_COUNT n, F.NET_PROBE_FLITS_COUNT n])

theorem pkts_mem_passFields {n : Nat} (h : n < 32) : F.NET_PROBE_PKTS_COUNT n ∈ passFields :=
  List.mem_append_right _ (List.mem_flatMap.mpr ⟨n, List.mem_range.mpr h, List.mem_cons_self⟩)

theorem flits_mem_passFields {n : Nat} (h : n < 32) : F.NET_PROBE_FLITS_COUNT n ∈ passFields :=
  List.mem_append_right _ (List.mem_flatMap.mpr ⟨n, List.mem_range.mpr h, List.mem_cons_of_mem _ List.mem_cons_self⟩)

theorem unindexed_passFields : ∀ f ∈ passFields, Unindexed f := by decide +kernel

/-- The control of a gate is no such register. -/
theorem gateFld_ne_passFields (f : Fld) (g : Nat) : ∀ h ∈ passFields, (gateFld f g).key ≠ h.key :=
  fun h hh => (Nat.lt_of_lt_of_le (unindexed_passFields h hh) (le_key_bank f g)).ne'

/-- Packets have passed: their registers, and the bytes of the trace ring, have moved. -/
structure Passed (s t : State) : Prop where
  fields : FieldsBut s t passFields
  frame : OnlyHbmBytes { s with regs := t.regs } t

section
variable {s t u : State}

theorem Passed.refl (s : State) : Passed s s := ⟨.refl s _, .refl s⟩

theorem Passed.trans (h : Passed s t) (h' : Passed t u) : Passed s u := by
  obtain ⟨hfields, m, marks, hframe⟩ := h
  obtain ⟨hfields', m', marks', hframe'⟩ := h'
  refine ⟨hfields.trans hfields', m', marks', hframe'.trans ?_⟩
  rw [hframe]

theorem Passed.setF (h : Passed s t) {f : Fld} (hf : f ∈ passFields) (v : Nat) : Passed s (setF t f v) := by
  obtain ⟨hfields, m, marks, hframe⟩ := h
  refine ⟨hfields.setF hf v, m, marks, ?_⟩
  exact congrArg (Machine.setF · f v) hframe

theorem Passed.setB (h : Passed s t) {f : Fld} (hf : f ∈ passFields) (b : Bool) : Passed s (setB t f b) := h.setF hf _

theorem Passed.bumpF (h : Passed s t) {f : Fld} (hf : f ∈ passFields) (n : Nat) : Passed s (bumpF t f n) := h.setF hf _

theorem Passed.winWriteBytes (h : Passed s t) (w x : Nat) (bs : List Byte) : Passed s (winWriteBytes t w x bs) := by
  refine h.trans ⟨fun f _ => getF_winWriteBytes t w x bs f, ?_⟩
  obtain ⟨m, marks, hframe⟩ := (OnlyHbmBytes.refl t).winWriteBytes w x bs
  exact ⟨m, marks, by rw [hframe]⟩

theorem Passed.ite {c : Prop} [Decidable c] (h : Passed s t) (h' : Passed s u) : Passed s (if c then t else u) := by
  split <;> assumption

theorem Passed.hopCounts (h : Passed s t) (u : HopUpset) : Passed s (hopCounts t u) := by
  refine List.foldlRecOn (motive := Passed s) _ _ h fun t h i _ => ?_
  split
  · exact h
  · exact h.bumpF (by simp [passFields]) 1
  · exact (((h.setB (by simp [passFields]) _).bumpF (by simp [passFields]) _).setF (by simp [passFields]) _).setF
      (by simp [passFields]) _

theorem Passed.foldl_hopCounts (h : Passed s t) (us : List HopUpset) : Passed s (us.foldl Machine.hopCounts t) :=
  List.foldlRecOn (motive := Passed s) _ _ h fun _ h u _ => h.hopCounts u

theorem Passed.ringWrite (h : Passed s t) (bs : List Byte) (busy : Bool) : Passed s (ringWrite t bs busy) := by
  have hnext : F.NET_TRACE_INDEX_NEXT ∈ passFields := by simp [passFields]
  have hput := fun w x => (h.winWriteBytes w x bs).setF hnext
  exact .ite h (.ite (h.bumpF (by simp [passFields]) _) (.ite (hput _ _ _) (.ite ((hput _ _ _).setF hnext _)
    (((hput _ _ _).setB (by simp [passFields]) _).setB (by simp [passFields]) _))))

theorem Passed.passPoint (h : Passed s t) (p : Packet) (crc point : Nat) (eject again busy : Bool) :
    Passed s (passPoint t p crc point eject again busy) := by
  refine List.foldlRecOn (motive := Passed s) _ _ h fun t h n hn => ?_
  have hn := List.mem_range.mp hn
  have hcounted := (h.bumpF (pkts_mem_passFields hn) 1).bumpF (flits_mem_passFields hn) (1 + p.payload.length)
  exact .ite (.ite (hcounted.ringWrite _ _) hcounted) h

theorem Passed.net (h : Passed s t) : t.net = s.net := by
  obtain ⟨-, m, marks, hframe⟩ := h
  rw [hframe]

end

/-- A packet is under way: beside what it moved, what sources keep of their packets and which requests are open may differ. -/
structure Carried (s t : State) : Prop where
  fields : FieldsBut s t passFields
  frame : ∃ store opened, OnlyHbmBytes { s with regs := t.regs, net := { s.net with store := store, opened := opened } } t

section
variable {s t u : State}

theorem Passed.carried (h : Passed s t) : Carried s t := ⟨h.fields, s.net.store, s.net.opened, h.frame⟩

theorem Carried.trans (h : Carried s t) (h' : Carried t u) : Carried s u := by
  obtain ⟨hfields, store, opened, m, marks, hframe⟩ := h
  obtain ⟨hfields', store', opened', m', marks', hframe'⟩ := h'
  refine ⟨hfields.trans hfields', store', opened', m', marks', hframe'.trans ?_⟩
  rw [hframe]

/-- A source keeps or drops packets, and requests are no longer open. -/
theorem carried_onNet (s : State) (f : Net → List NetEntry) (g : Net → List Packet) :
    Carried s (onNet s (fun n => { n with store := f n, opened := g n })) := ⟨fun _ _ => rfl, _, _, .refl _⟩

/-- A source injects a packet (R250). -/
theorem Carried.inject (h : Carried s t) (p : Packet) (busy : Bool) : Carried s (inject t p busy) := by
  have hpassed := h.trans ((Passed.refl t).passPoint p (packetCrc p) p.src.toNat false false busy).carried
  unfold Machine.inject
  split
  · exact h
  · exact hpassed.trans (carried_onNet _ _ _)

section
variable (h : Carried s t)
include h

theorem Carried.outs : t.outs = s.outs := by
  obtain ⟨-, store, opened, m, marks, hframe⟩ := h
  rw [hframe]

theorem Carried.seen : t.net.seen = s.net.seen := by
  obtain ⟨-, store, opened, m, marks, hframe⟩ := h
  rw [hframe]

theorem Carried.held : t.net.held = s.net.held := by
  obtain ⟨-, store, opened, m, marks, hframe⟩ := h
  rw [hframe]

theorem Carried.nodeExists (n : Nat) : nodeExists t n = nodeExists s n := by
  obtain ⟨-, store, opened, m, marks, hframe⟩ := h
  rw [hframe]
  rfl

theorem Carried.gate (f : Fld) (g : Nat) : getB t (gateFld f g) = getB s (gateFld f g) := by
  rw [getB, h.fields _ (gateFld_ne_passFields f g), getB]

theorem Carried.netIsolated (n : Nat) : netIsolated t n = netIsolated s n := by
  have hexiting : t.net.exiting = s.net.exiting := by
    obtain ⟨-, store, opened, m, marks, hframe⟩ := h
    rw [hframe]
  unfold Machine.netIsolated
  split
  · rw [nodeIsolated, nodeIsolated, gateOpen, gateOpen, h.gate, h.gate, hexiting]
  · rfl

theorem Carried.netHolds (n : Nat) : netHolds t n = netHolds s n := by
  unfold Machine.netHolds
  split
  · exact h.gate _ _
  · rfl

theorem Carried.seenBefore (p : Packet) : seenBefore t p = seenBefore s p := by
  rw [Machine.seenBefore, Machine.seenBefore, h.seen]

end

end

/-! #### Injection (R250) -/

theorem stored_congr {s t : State} (h : t.net.store = s.net.store) (p : Packet) : stored t p = stored s p := by
  rw [stored, h, stored]

/-- A source keeps what it injects, but for an ACK. -/
theorem stored_inject (s : State) {p : Packet} (h : p.type.toNat ≠ 3) (busy : Bool) : stored (inject s p busy) p = true := by
  unfold inject
  split
  next hstored => exact hstored
  · simp [stored]

end Sys2Proof.Machine
end

section
/-! ### What a destination answers (R241, R242, R250) -/

namespace Sys2Proof.Machine

/-- A packet that answers `q` with a type, a status and a payload, whatever stands in its ADDR. -/
def Says (q : Packet) (type status : Nat) (payload : List (BitVec 256)) (o : Out) : Prop :=
  ∃ a, o = .packet (answerPacket q type status a payload) (packetCrc (answerPacket q type status a payload))

/-- One such answer has gone out since `s`. -/
def Replied (s t : State) (q : Packet) (type status : Nat) (payload : List (BitVec 256)) : Prop :=
  ∃ o, t.outs = s.outs ++ [o] ∧ Says q type status payload o

section
variable {s t : State}

theorem Replied.congr {r : State} (h : Replied s t q ty st bs) (houts : s.outs = r.outs) : Replied r t q ty st bs := by
  rwa [Replied, ← houts]

theorem replied_answerWith (s : State) (p : Packet) (type status : Nat) (payload : List (BitVec 256)) :
    Replied s (answerWith s p type status payload) p type status payload := ⟨_, rfl, _, rfl⟩

theorem answer_net (s : State) (p : Packet) (type status : Nat) : (answer s p type status).net = s.net := rfl

end

/-! #### Targets -/

/-- A target has been read or written: nothing has gone out, and the network is as it was. -/
def TargetUsed (s t : State) : Prop := t.outs = s.outs ∧ t.net = s.net

theorem freeBytes_used (s : State) (n : Nat) : TargetUsed s (freeBytes s n).2 := by
  induction n generalizing s with
  | zero => exact ⟨rfl, rfl⟩
  | succ n ih => exact ih { s with draws := s.draws + 1 }

theorem freeBytes_congr {s t : State} (h : t.draws = s.draws) (n : Nat) : (freeBytes t n).1 = (freeBytes s n).1 := by
  induction n generalizing s t with
  | zero => rfl
  | succ n ih =>
    have hrest := ih (s := { s with draws := s.draws + 1 }) (t := { t with draws := t.draws + 1 }) (by simp [h])
    simp only [freeBytes, drawFree, h] at hrest ⊢
    rw [hrest]

theorem scratchEcc_used (s : State) (x : Nat) (ecc : Ecc) : TargetUsed s (scratchEcc s x ecc) := by
  cases ecc <;> exact ⟨rfl, rfl⟩

theorem unitRead_used (s : State) (u a n : Nat) (ecc : Ecc) : TargetUsed s (unitRead s u a n ecc).2 := by
  unfold unitRead
  split
  · exact scratchEcc_used s _ ecc
  · split
    · exact ⟨rfl, rfl⟩
    · split
      · exact ⟨rfl, rfl⟩
      · exact freeBytes_used s n

/-- In `t` targets give what they give in `s`, and nothing has gone out. -/
def SameTargets (s t : State) : Prop :=
  t.outs = s.outs ∧ ∀ u a n ecc, (unitRead t u a n ecc).1 = (unitRead s u a n ecc).1

theorem sameTargets_of_units {s t : State} (houts : t.outs = s.outs) (hscratch : t.ctl.scratch = s.ctl.scratch)
    (hexr : t.mem.exr = s.mem.exr) (hbefore : t.mem.before = s.mem.before) (hlocal : t.chn.local_ = s.chn.local_)
    (hdraws : t.draws = s.draws) : SameTargets s t := by
  refine ⟨houts, fun u a n ecc => ?_⟩
  unfold unitRead
  dsimp only
  split
  · rw [hscratch]
  · split
    · simp only [portBByte, hbefore, hexr]
    · split
      · rw [hlocal]
      · exact freeBytes_congr hdraws n

/-- What a target gives does not rest on the packets under way. -/
theorem Carried.sameTargets {s t : State} (h : Carried s t) : SameTargets s t := by
  obtain ⟨-, store, opened, m, marks, hframe⟩ := h
  refine sameTargets_of_units ?_ ?_ ?_ ?_ ?_ ?_ <;> rw [hframe]

theorem portBWord_used {s t : State} (h : TargetUsed s t) (w : Nat × List (Option Byte)) : TargetUsed s (portBWord t w) := by
  unfold portBWord
  split <;> exact h

theorem unitWrite_used (s : State) (u a : Nat) (bs : List (Option Byte)) : TargetUsed s (unitWrite s u a bs) := by
  unfold unitWrite
  dsimp only
  split
  · exact ⟨rfl, rfl⟩
  · split
    · exact List.foldlRecOn (motive := TargetUsed s) _ _ ⟨rfl, rfl⟩ fun _ h w _ => portBWord_used h w
    · split <;> exact ⟨rfl, rfl⟩

/-! #### Requests -/

/-- What a target that a request reaches finds is told as `reply` has it, by type, status and payload, or `left` holds. -/
def FindsReply (s : State) (q : Packet) (reply : Nat → Nat → List (BitVec 256) → Prop) (left : Prop) : TargetFinds → Prop
  | .served e =>
    if q.type.toNat = 1 then reply 3 0 []
    else if e = .uncorrectable then reply 4 4 []
    else reply 2 0 (bytesFlits (unitRead s (hubUnit q) q.addr.toNat (q.aux.toNat % 512 + 1) e).1)
  | .denied => reply 4 6 []
  | .timeout => reply 4 5 []
  | .later => left

section
variable {s w : State} {q : Packet} {reply reply' : Nat → Nat → List (BitVec 256) → Prop} {left left' : Prop}
  {finds : TargetFinds} (h : FindsReply s q reply left finds)
include h

theorem FindsReply.mono (hreply : ∀ ty st bs, reply ty st bs → reply' ty st bs) (hleft : left → left') :
    FindsReply s q reply' left' finds := by
  cases finds with
  | served e =>
    dsimp only [FindsReply] at h ⊢
    split
    next hwrite => exact hreply _ _ _ (by rwa [if_pos hwrite] at h)
    next hread =>
      rw [if_neg hread] at h
      split
      next hue => exact hreply _ _ _ (by rwa [if_pos hue] at h)
      next hclean => exact hreply _ _ _ (by rwa [if_neg hclean] at h)
  | denied => exact hreply _ _ _ h
  | timeout => exact hreply _ _ _ h
  | later => exact hleft h

theorem FindsReply.congr (hunits : ∀ u a n ecc, (unitRead s u a n ecc).1 = (unitRead w u a n ecc).1) :
    FindsReply w q reply left finds := by
  cases finds with
  | served e =>
    dsimp only [FindsReply] at h ⊢
    rwa [← hunits]
  | denied => exact h
  | timeout => exact h
  | later => exact h

end

/-- A request that is delivered is answered with what its target finds, or stays open. -/
def Served (s t : State) (q : Packet) (finds : TargetFinds) : Prop :=
  FindsReply s q (Replied s t q) (t.outs = s.outs ∧ q ∈ t.net.opened) finds

theorem Served.congr {s w t : State} {q : Packet} {finds : TargetFinds} (h : Served w t q finds) (hw : SameTargets s w) :
    Served s t q finds := by
  obtain ⟨houts, hunits⟩ := hw
  exact (FindsReply.congr h hunits).mono (fun _ _ _ hreply => hreply.congr houts)
    fun ⟨hnone, hopened⟩ => ⟨hnone.trans houts, hopened⟩

/-- A target leaves what is delivered, held and stored. -/
def NetServed (s t : State) : Prop := t.net.seen = s.net.seen ∧ t.net.held = s.net.held ∧ t.net.store = s.net.store

theorem netServed_of_net {s t : State} (h : t.net = s.net) : NetServed s t := by
  rw [NetServed, h]
  exact ⟨rfl, rfl, rfl⟩

theorem serveRead_answers (s : State) (q : Packet) (e : Ecc) : NetServed s (serveRead s q e) ∧
    if e = .uncorrectable then Replied s (serveRead s q e) q 4 4 []
    else Replied s (serveRead s q e) q 2 0
      (bytesFlits (unitRead s (hubUnit q) q.addr.toNat (q.aux.toNat % 512 + 1) e).1) := by
  obtain ⟨houts, hnet⟩ := unitRead_used s (hubUnit q) q.addr.toNat (q.aux.toNat % 512 + 1) e
  unfold serveRead
  dsimp only
  split
  · exact ⟨netServed_of_net hnet, (replied_answerWith _ _ _ _ _).congr houts⟩
  · exact ⟨netServed_of_net hnet, (replied_answerWith _ _ _ _ _).congr houts⟩

theorem leaveOpen_answers {s t : State} (h : TargetUsed s t) (q : Packet) : NetServed s (leaveOpen t q) ∧
    (leaveOpen t q).outs = s.outs ∧ q ∈ (leaveOpen t q).net.opened := by
  obtain ⟨houts, hnet⟩ := h
  refine ⟨?_, houts, List.mem_append_right _ List.mem_cons_self⟩
  rw [NetServed, leaveOpen, onNet_net, hnet]
  exact ⟨rfl, rfl, rfl⟩

/-- A request that is delivered is served. -/
theorem serve_request (s : State) {q : Packet} (hq : q.type.toNat < 2) (finds : TargetFinds) :
    NetServed s (serve s q finds) ∧ Served s (serve s q finds) q finds := by
  have hsaid := fun st => replied_answerWith s q 4 st []
  obtain ⟨hwouts, hwnet⟩ := unitWrite_used s (hubUnit q) q.addr.toNat (requestBytes q)
  obtain h0 | h1 : q.type.toNat = 0 ∨ q.type.toNat = 1 := by omega
  · unfold serve
    rw [h0]
    cases finds with
    | served e =>
      dsimp only [Served, FindsReply]
      rw [h0, if_neg Nat.zero_ne_one]
      exact serveRead_answers s q e
    | denied => exact ⟨⟨rfl, rfl, rfl⟩, hsaid 6⟩
    | timeout => exact ⟨⟨rfl, rfl, rfl⟩, hsaid 5⟩
    | later => exact leaveOpen_answers ⟨rfl, rfl⟩ q
  · unfold serve
    rw [h1]
    cases finds with
    | served e =>
      dsimp only [Served, FindsReply]
      rw [h1, if_pos rfl]
      exact ⟨netServed_of_net hwnet, (replied_answerWith (serveWrite s q) q 3 0 []).congr hwouts⟩
    | denied => exact ⟨⟨rfl, rfl, rfl⟩, hsaid 6⟩
    | timeout => exact ⟨⟨rfl, rfl, rfl⟩, hsaid 5⟩
    | later => exact leaveOpen_answers ⟨hwouts, hwnet⟩ q

/-! #### Delivery -/

/-- The key of a packet's source among those of its destination. -/
def seenKey (p : Packet) : Nat := p.dest.toNat * 2048 + p.src.toNat

/-- The TAG `tag` is the last of those delivered under key `k`. -/
def noteTag (s : State) (k tag : Nat) : State :=
  onNet s (fun n => { n with seen := n.seen.modify [] k (fun ts => (ts ++ [tag]).drop (ts.length - 255)) })

theorem sameTargets_onNet (s : State) (g : Net → Net) : SameTargets s (onNet s g) :=
  sameTargets_of_units rfl rfl rfl rfl rfl rfl

theorem noteTag_leaves (s : State) (k tag : Nat) :
    (noteTag s k tag).net.store = s.net.store ∧ SameTargets s (noteTag s k tag) := by
  refine ⟨?_, sameTargets_onNet s _⟩
  rw [noteTag, onNet_net]

theorem mem_seen_noteTag (s : State) (k tag : Nat) : tag ∈ (noteTag s k tag).net.seen.get [] k := by
  unfold noteTag
  rw [onNet_net, SMap.modify.eq_def, SMap.get_set_same, List.drop_append_of_le_length (Nat.sub_le _ _)]
  exact List.mem_append_right _ List.mem_cons_self

/-- The destination takes note of a packet's TAG. -/
abbrev noteSeen (s : State) (p : Packet) : State := noteTag s (seenKey p) p.tag.toNat

theorem seenBefore_noteSeen (s : State) {p : Packet} (h : p.type.toNat ≠ 3) : seenBefore (noteSeen s p) p = true := by
  have hmem : p.tag.toNat ∈ (noteSeen s p).net.seen.get [] (p.dest.toNat * 2048 + p.src.toNat) := mem_seen_noteTag s _ _
  rw [seenBefore, List.contains_eq_mem, decide_eq_true hmem, Bool.and_true]
  simpa using h

theorem deliver_request (s : State) {p : Packet} (h : p.type.toNat < 2) (finds : TargetFinds) :
    deliver s p finds = serve (noteSeen s p) p finds := by
  have hresponse : isResponse p = false := by
    simp only [isResponse, Bool.and_eq_false_iff, decide_eq_false_iff_not]
    omega
  have hack : p.type.toNat ≠ 3 := by omega
  unfold deliver
  dsimp only
  rw [hresponse, if_neg hack]
  rfl

/-- A request is delivered once, and served. -/
theorem deliver_request_answers (s : State) {q : Packet} (hq : q.type.toNat < 2) (finds : TargetFinds) :
    seenBefore (deliver s q finds) q = true ∧ (deliver s q finds).net.store = s.net.store ∧
      Served s (deliver s q finds) q finds := by
  rw [deliver_request s hq]
  obtain ⟨⟨hseen, -, hstore⟩, hserved⟩ := serve_request (noteSeen s q) hq finds
  obtain ⟨hnoted, htargets⟩ := noteTag_leaves s (seenKey q) q.tag.toNat
  refine ⟨?_, hstore.trans hnoted, hserved.congr htargets⟩
  rw [seenBefore, hseen]
  exact seenBefore_noteSeen s (by omega)

theorem serve_ack (s : State) {p : Packet} (h : p.type.toNat = 3) (finds : TargetFinds) : serve s p finds = s := by
  unfold serve
  rw [h]
  rfl

theorem serve_data (s : State) {p : Packet} (h : p.type.toNat = 2 ∨ p.type.toNat = 4) (finds : TargetFinds) :
    serve s p finds = answer s p 3 0 := by
  unfold serve
  obtain h | h := h
  · rw [h]
    rfl
  · rw [h]
    rfl

/-- A response lets go what it acknowledges, and is acknowledged, unless it is an ACK. -/
theorem deliver_response (s : State) {p : Packet} (hp : isResponse p = true) (finds : TargetFinds) :
    (∀ e ∈ (deliver s p finds).net.store, answers p e.pkt = false) ∧
      if p.type.toNat = 3 then (deliver s p finds).outs = s.outs else Replied s (deliver s p finds) p 3 0 [] := by
  have hretired : ∀ t : State, ∀ e ∈ (retireEntry t p).net.store, answers p e.pkt = false := fun t e he => by
    simpa using (List.mem_filter.mp he).2
  obtain hack | hdata : p.type.toNat = 3 ∨ p.type.toNat = 2 ∨ p.type.toNat = 4 := by
    simp only [isResponse, Bool.and_eq_true, decide_eq_true_eq] at hp
    omega
  · have hdeliver : deliver s p finds = retireEntry s p := by
      unfold deliver
      dsimp only
      rw [if_pos hack, hp, if_pos rfl, serve_ack _ hack]
    rw [hdeliver, if_pos hack]
    exact ⟨hretired s, rfl⟩
  · have hnot : p.type.toNat ≠ 3 := by omega
    have hdeliver : deliver s p finds = answer (retireEntry (noteSeen s p) p) p 3 0 := by
      unfold deliver
      dsimp only
      rw [if_neg hnot, hp, if_pos rfl, serve_data _ hdata]
      rfl
    have houts : (noteSeen s p).outs = s.outs := (noteTag_leaves s (seenKey p) p.tag.toNat).2.1
    rw [hdeliver, if_neg hnot]
    generalize noteSeen s p = u at houts ⊢
    have hretires : (retireEntry u p).outs = u.outs := rfl
    exact ⟨hretired u, (replied_answerWith (retireEntry u p) p 3 0 []).congr (hretires.trans houts)⟩

end Sys2Proof.Machine
end

section
/-! ### Delivery of packets (R248 to R251, R253) -/

namespace Sys2Proof.Machine

/-! #### The destination's interface -/

section
variable {s : State} {q : Packet} {finds : TargetFinds}

theorem accept_nowhere (hexists : nodeExists s q.dest.toNat = false) : accept s q finds = answer s q 4 2 := by
  unfold accept
  simp only [hexists, Bool.not_false, if_true]

theorem accept_again (hexists : nodeExists s q.dest.toNat = true) (hseen : seenBefore s q = true) :
    accept s q finds = acknowledgeAgain s q finds := by
  unfold accept
  simp only [hexists, hseen, Bool.not_true, Bool.false_eq_true, if_false, if_true]

section
variable (hexists : nodeExists s q.dest.toNat = true) (hseen : seenBefore s q = false)
include hexists hseen

theorem accept_isolated (hiso : netIsolated s q.dest.toNat = true) (hq : isRequest q = true) :
    accept s q finds = answer s q 4 1 := by
  unfold accept
  simp only [hexists, hseen, hiso, hq, Bool.not_true, Bool.false_eq_true, if_false, if_true]

variable (hopen : netIsolated s q.dest.toNat = false)
include hopen

theorem accept_held (hholds : netHolds s q.dest.toNat = true) (hq : isRequest q = true) (hnew : q ∉ s.net.held) :
    accept s q finds = onNet s (fun x => { x with held := x.held ++ [q] }) := by
  unfold accept
  simp only [hexists, hseen, hopen, hholds, hq, Bool.not_true, Bool.false_eq_true, if_false, Bool.and_true, if_true,
    List.contains_eq_mem, hnew, decide_false]

theorem accept_delivered (hholds : (netHolds s q.dest.toNat && isRequest q) = false) :
    accept s q finds = deliver s q finds := by
  unfold accept
  simp only [hexists, hseen, hopen, hholds, Bool.not_true, Bool.false_eq_true, if_false]

end

/-- A packet that was delivered before, and whose answer is still to come. -/
theorem acknowledgeAgain_open (hopened : q ∈ s.net.opened) : acknowledgeAgain s q finds = s := by
  rw [acknowledgeAgain, if_pos (by simpa using hopened)]

theorem acknowledgeAgain_stored (hopened : q ∉ s.net.opened) {e : NetEntry}
    (he : s.net.store.find? (fun e => answers e.pkt q) = some e) :
    acknowledgeAgain s q finds = emit s (.packet e.pkt (packetCrc e.pkt)) := by
  rw [acknowledgeAgain, if_neg (by simpa using hopened), he]

theorem acknowledgeAgain_write (hopened : q ∉ s.net.opened) (he : s.net.store.find? (fun e => answers e.pkt q) = none)
    (hq : q.type.toNat = 1) : acknowledgeAgain s q finds = answer s q 3 0 := by
  rw [acknowledgeAgain, if_neg (by simpa using hopened), he, hq]
  rfl

end

/-! #### The packet of a PACKET_DELIVERY -/

/-- The state in which a packet comes to its destination: injected, and past its upsets. -/
abbrev sent (s : State) (p : Packet) (us : List HopUpset) (busy : Bool) : State := us.foldl hopCounts (inject s p busy)

/-- The state in which the packet has passed the destination's probes. -/
abbrev ejected (s : State) (p : Packet) (us : List HopUpset) (r : Received) (busy : Bool) : State :=
  passPoint (sent s p us busy) r.pkt r.crc r.pkt.dest.toNat true (seenBefore (sent s p us busy) r.pkt) busy

section
variable (s : State) (p : Packet) (us : List HopUpset) (r : Received) (busy : Bool)

theorem passed_sent : Passed (inject s p busy) (sent s p us busy) := (Passed.refl _).foldl_hopCounts us

theorem carried_sent : Carried s (sent s p us busy) :=
  (((Passed.refl s).carried).inject p busy).trans (passed_sent s p us busy).carried

theorem passed_ejected : Passed (sent s p us busy) (ejected s p us r busy) := (Passed.refl _).passPoint _ _ _ _ _ _

theorem carried_ejected : Carried s (ejected s p us r busy) :=
  (carried_sent s p us busy).trans (passed_ejected s p us r busy).carried

variable {p}

theorem stored_sent (hp : p.type.toNat ≠ 3) : stored (sent s p us busy) p = true := by
  rw [stored, (passed_sent s p us busy).net]
  exact stored_inject s hp busy

theorem stored_ejected (hp : p.type.toNat ≠ 3) : stored (ejected s p us r busy) p = true := by
  rw [stored, (passed_ejected s p us r busy).net]
  exact stored_sent s us busy hp

end

section
variable {s : State} {p : Packet} {us : List HopUpset} {finds : TargetFinds} {b : Bool}

theorem exec_packetDelivery_refused (h : sourceTakes p = false) : exec (.packetDelivery p ⟨us, finds, b⟩) s = .next s := by
  show execPacketDelivery p _ s = _
  rw [execPacketDelivery, h]
  rfl

/-- A packet that its source injects goes its way. -/
theorem exec_packetDelivery (htakes : sourceTakes p = true)
    (hroom : stored s p = true ∨ p.type.toNat = 3 ∨ outstanding s p.src < 256) :
    exec (.packetDelivery p ⟨us, finds, b⟩) s = .next (arriveAt (sent s p us b) (received p us) finds b) := by
  have hinjects : (!stored s p && p.type.toNat != 3 && decide (256 ≤ outstanding s p.src)) = false := by
    obtain hstored | hack | hfree := hroom
    · simp [hstored]
    · simp [hack]
    · simp [hfree]
  show execPacketDelivery p _ s = _
  rw [execPacketDelivery, htakes, hinjects]
  rfl

/-- A discarded packet (R249). -/
theorem discarded_answers {u : State} (h : Carried s u) (hstored : p.type.toNat ≠ 3 → stored u p = true) :
    let t := bumpF u F.NET_E2E_COUNT_DISCARDS 1
    t.outs = s.outs ∧ getF t F.NET_E2E_COUNT_DISCARDS = saturate 16 (getF s F.NET_E2E_COUNT_DISCARDS + 1) ∧
      t.net.seen = s.net.seen ∧ (p.type.toNat ≠ 3 → stored t p = true) := by
  refine ⟨h.outs, ?_, h.seen, hstored⟩
  rw [getF_bumpF_same, h.fields _ (by decide +kernel)]
  rfl

theorem arriveAt_discards (h : received p us = none ∨ (∃ r, received p us = some r ∧ packetBad r = true)) :
    let t := arriveAt (sent s p us b) (received p us) finds b
    t.outs = s.outs ∧ getF t F.NET_E2E_COUNT_DISCARDS = saturate 16 (getF s F.NET_E2E_COUNT_DISCARDS + 1) ∧
      t.net.seen = s.net.seen ∧ (p.type.toNat ≠ 3 → stored t p = true) := by
  obtain hnone | ⟨r, hsome, hbad⟩ := h
  · rw [hnone]
    exact discarded_answers (carried_sent s p us b) (stored_sent s us b)
  · rw [hsome]
    dsimp only [arriveAt]
    rw [if_pos hbad]
    exact discarded_answers (carried_ejected s p us r b) (stored_ejected s us r b)

theorem arriveAt_accepts {r : Received} (hr : received p us = some r) (hgood : packetBad r = false) :
    arriveAt (sent s p us b) (received p us) finds b = accept (ejected s p us r b) r.pkt finds := by
  rw [hr]
  dsimp only [arriveAt]
  rw [if_neg (by simp [hgood])]

end

/-! #### Requests -/

section
variable {s w t : State} {q : Packet} {finds : TargetFinds}

variable (hw : Carried s w)
include hw

theorem accept_nowhere_replies (hexists : nodeExists s q.dest.toNat = false) :
    Replied s (accept w q finds) q 4 2 [] ∧ (accept w q finds).net = w.net := by
  rw [accept_nowhere ((hw.nodeExists _).trans hexists)]
  exact ⟨(replied_answerWith w q 4 2 []).congr hw.outs, rfl⟩

variable (hexists : nodeExists s q.dest.toNat = true)
include hexists

theorem accept_again_acknowledges (hseen : seenBefore s q = true) : accept w q finds = acknowledgeAgain w q finds :=
  accept_again ((hw.nodeExists _).trans hexists) ((hw.seenBefore q).trans hseen)

variable (hseen : seenBefore s q = false)
include hseen

theorem accept_isolated_replies (hiso : netIsolated s q.dest.toNat = true) (hq : isRequest q = true) :
    Replied s (accept w q finds) q 4 1 [] ∧ (accept w q finds).net = w.net := by
  rw [accept_isolated ((hw.nodeExists _).trans hexists) ((hw.seenBefore q).trans hseen) ((hw.netIsolated _).trans hiso) hq]
  exact ⟨(replied_answerWith w q 4 1 []).congr hw.outs, rfl⟩

variable (hopen : netIsolated s q.dest.toNat = false)
include hopen

theorem accept_holds (hholds : netHolds s q.dest.toNat = true) (hq : isRequest q = true) (hnew : q ∉ s.net.held) :
    (accept w q finds).outs = s.outs ∧ (accept w q finds).net.held = s.net.held ++ [q] ∧
      (accept w q finds).net.seen = s.net.seen := by
  rw [accept_held ((hw.nodeExists _).trans hexists) ((hw.seenBefore q).trans hseen) ((hw.netIsolated _).trans hopen)
    ((hw.netHolds _).trans hholds) hq (by rwa [hw.held])]
  exact ⟨hw.outs, congrArg (· ++ [q]) hw.held, hw.seen⟩

theorem accept_delivers (hholds : (netHolds s q.dest.toNat && isRequest q) = false) :
    accept w q finds = deliver w q finds :=
  accept_delivered ((hw.nodeExists _).trans hexists) ((hw.seenBefore q).trans hseen) ((hw.netIsolated _).trans hopen)
    (by rwa [hw.netHolds])

end

/-! #### Resending (R250, R251) -/

section
variable {s : State} {src : BitVec 11} {tag : BitVec 16} {e : NetEntry}
  (he : s.net.store.find? (fun e => e.pkt.src = src ∧ e.pkt.tag = tag) = some e)
include he

/-- A packet that is not acknowledged is sent again. -/
theorem packetResend_again (busy : Bool) (hsent : e.sent ≤ getF s F.NET_CTRL_RETRIES) :
    Answers (.packetResend ⟨src, tag⟩ busy) s (fun t => t.outs = s.outs ++ [.packet e.pkt (packetCrc e.pkt)] ∧
      { e with sent := e.sent + 1 } ∈ t.net.store ∧
      getF t F.NET_E2E_COUNT_RESENDS = saturate 16 (getF s F.NET_E2E_COUNT_RESENDS + 1)) := by
  obtain ⟨counted, hcounted⟩ : ∃ u, u = bumpF (onNet s (fun n => { n with
    store := n.store.map (fun x => if x = e then { x with sent := x.sent + 1 } else x) })) F.NET_E2E_COUNT_RESENDS 1 := ⟨_, rfl⟩
  have hpassed := (Passed.refl counted).passPoint e.pkt (packetCrc e.pkt) e.pkt.src.toNat false false busy
  have hexec : exec (.packetResend ⟨src, tag⟩ busy) s = .next (emit (passPoint counted e.pkt (packetCrc e.pkt)
      e.pkt.src.toNat false false busy) (.packet e.pkt (packetCrc e.pkt))) := by
    show execPacketResend _ _ s = _
    rw [execPacketResend, hcounted]
    dsimp only
    rw [he]
    dsimp only
    rw [if_neg (Nat.not_lt.mpr hsent)]
  have houts : counted.outs = s.outs := by rw [hcounted]; rfl
  have hstore : counted.net.store = s.net.store.map (fun x => if x = e then { x with sent := x.sent + 1 } else x) := by
    rw [hcounted]; rfl
  have hcount : getF counted F.NET_E2E_COUNT_RESENDS = saturate 16 (getF s F.NET_E2E_COUNT_RESENDS + 1) := by
    rw [hcounted]
    exact getF_bumpF_same _ F.NET_E2E_COUNT_RESENDS 1
  generalize passPoint counted e.pkt (packetCrc e.pkt) e.pkt.src.toNat false false busy = u at hpassed hexec
  refine ⟨_, hexec, ?_, ?_, ?_⟩
  · rw [emit_outs, hpassed.carried.outs, houts]
  · show _ ∈ u.net.store
    rw [hpassed.net, hstore]
    exact List.mem_map.mpr ⟨e, List.mem_of_find?_eq_some he, if_pos rfl⟩
  · exact (hpassed.fields F.NET_E2E_COUNT_RESENDS (by decide +kernel)).trans hcount

/-- A packet that was sent often enough is given up. -/
theorem exec_packetResend_givesUp (busy : Bool) (hsent : getF s F.NET_CTRL_RETRIES < e.sent) :
    exec (.packetResend ⟨src, tag⟩ busy) s =
      .next (giveUp (onNet s (fun n => { n with store := n.store.filter (fun x => x ≠ e) })) e.pkt) := by
  show execPacketResend _ _ s = _
  rw [execPacketResend]
  dsimp only
  rw [he]
  dsimp only
  rw [if_pos hsent]

end

end Sys2Proof.Machine
end

section
/-! ### Interfaces that close, and the trace ring's control (R253, R256, R507) -/

namespace Sys2Proof.Machine

/-! #### Requests that are refused -/

/-- Every one of `ps` has been answered, in order, with an error for an isolated node. -/
def Refused (s t : State) (ps : List Packet) : Prop :=
  ∃ os, List.Forall₂ (fun o p => Says p 4 1 [] o) os ps ∧ t.outs = s.outs ++ os

theorem Refused.congr {r s t : State} {ps : List Packet} (h : Refused s t ps) (houts : s.outs = r.outs) : Refused r t ps := by
  rwa [Refused, ← houts]

theorem Refused.append {r s t : State} {ps qs : List Packet} (h : Refused r s ps) (h' : Refused s t qs) :
    Refused r t (ps ++ qs) := by
  obtain ⟨os, hsaid, houts⟩ := h
  obtain ⟨os', hsaid', houts'⟩ := h'
  exact ⟨os ++ os', List.rel_append hsaid hsaid', by rw [houts', houts, List.append_assoc]⟩

/-- Answers leave the network and the registers. -/
theorem refused_foldl_answer (s : State) (ps : List Packet) :
    let t := ps.foldl (fun t p => answer t p 4 1) s
    Refused s t ps ∧ t.net = s.net ∧ t.regs = s.regs := by
  induction ps generalizing s with
  | nil => exact ⟨⟨[], .nil, (List.append_nil _).symm⟩, rfl, rfl⟩
  | cons p ps ih =>
    obtain ⟨hrest, hnet, hregs⟩ := ih (answer s p 4 1)
    obtain ⟨o, houts, hsaid⟩ := replied_answerWith s p 4 1 []
    have hfirst : Refused s (answer s p 4 1) [p] := ⟨[o], .cons hsaid .nil, houts⟩
    exact ⟨hfirst.append hrest, hnet, hregs⟩

/-! #### The fields of a gate -/

theorem gateFld_ne_gateFld (f f' : Fld) (haddr : f.addr = f'.addr) (hlo : f.lo ≠ f'.lo) (g : Nat) :
    (gateFld f g).key ≠ (gateFld f' g).key := by
  rw [gateFld, gateFld, key_bank, key_bank, haddr]
  exact fun h => hlo (Nat.add_left_cancel h)

theorem gateFld_ne_unindexed (f : Fld) (g : Nat) {f' : Fld} (h : Unindexed f') : (gateFld f g).key ≠ f'.key :=
  (Nat.lt_of_lt_of_le h (le_key_bank f g)).ne'

section
variable (s : State) (g : Nat)

theorem releaseHeld_held {k : State → Packet → State} (hk : ∀ t p, (k t p).net.held = t.net.held) :
    heldFor (releaseHeld s g k) g = [] := by
  have hheld : (releaseHeld s g k).net.held = s.net.held.filter (fun p => gateOfNode p.dest.toNat ≠ some g) :=
    List.foldlRecOn (motive := fun t : State => t.net.held = s.net.held.filter (fun p => gateOfNode p.dest.toNat ≠ some g))
      _ _ rfl fun t h p _ => (hk t p).trans h
  rw [heldFor, hheld, List.filter_filter]
  exact List.filter_eq_nil_iff.mpr fun p _ => by simp

/-- The gate of a node has closed, and its interface has refused what it held. -/
theorem closeGate_answers :
    let t := closeGate s g
    getB t (gateFld F.CLK_GATE_CTRL_OPEN g) = false ∧ getB t (gateFld F.CLK_GATE_CTRL_CLOSING g) = false ∧
      Refused s t (heldFor s g) ∧ heldFor t g = [] ∧ t.net.opened = s.net.opened ∧
      FieldsBut s t [gateFld F.CLK_GATE_CTRL_CLOSING g, gateFld F.CLK_GATE_CTRL_OPEN g] := by
  obtain ⟨u, hu⟩ : ∃ u, u = setB (setB s (gateFld F.CLK_GATE_CTRL_CLOSING g) false) (gateFld F.CLK_GATE_CTRL_OPEN g) false :=
    ⟨_, rfl⟩
  obtain ⟨hrefused, hnet, hregs⟩ := refused_foldl_answer
    (onNet u (fun n => { n with held := n.held.filter (fun p => gateOfNode p.dest.toNat ≠ some g) })) (heldFor u g)
  have hnone : heldFor (releaseHeld u g (fun t p => answer t p 4 1)) g = [] := releaseHeld_held u g fun _ _ => rfl
  have hclose : closeGate s g = releaseHeld u g (fun t p => answer t p 4 1) := by rw [hu]; rfl
  have hsame : u.net = s.net ∧ u.outs = s.outs := by rw [hu]; exact ⟨rfl, rfl⟩
  have hfields : FieldsBut s u [gateFld F.CLK_GATE_CTRL_CLOSING g, gateFld F.CLK_GATE_CTRL_OPEN g] := by
    rw [hu]
    exact ((FieldsBut.refl s _).setF (by simp) _).setF (by simp) _
  have hopen : getB u (gateFld F.CLK_GATE_CTRL_OPEN g) = false := by
    rw [hu]
    exact getB_setB_same _ (gateFld F.CLK_GATE_CTRL_OPEN g) false rfl
  have hclosing : getB u (gateFld F.CLK_GATE_CTRL_CLOSING g) = false := by
    rw [hu, getB_setB_other _ (gateFld_ne_gateFld F.CLK_GATE_CTRL_CLOSING F.CLK_GATE_CTRL_OPEN rfl (by decide) g)]
    exact getB_setB_same s (gateFld F.CLK_GATE_CTRL_CLOSING g) false rfl
  have hreads : ∀ f, getF (closeGate s g) f = getF u f := fun f => by
    rw [hclose]
    exact getF_congr hregs f
  dsimp only
  refine ⟨?_, ?_, ?_, ?_, ?_, ?_⟩
  · rw [getB, hreads]
    exact hopen
  · rw [getB, hreads]
    exact hclosing
  · have hheld : heldFor u g = heldFor s g := by rw [heldFor, hsame.1, heldFor]
    rw [hclose, ← hheld]
    exact hrefused.congr hsame.2
  · rw [hclose]
    exact hnone
  · have hopened := congrArg Net.opened hnet
    rw [hclose, ← hsame.1]
    exact hopened
  · exact fun f hf => (hreads f).trans (hfields f hf)

end

/-! #### Quiesce (R253, R507) -/

theorem drainGate_net (s : State) (g : Nat) : (drainGate s g).net = s.net := by
  unfold drainGate
  split
  · exact ((StreamMoved.refl _ s).drainSource).net
  · rfl

section
variable {s : State} {g : Fin 86}

theorem exec_quiesce_idle (h : getB s (gateFld F.CLK_GATE_CTRL_CLOSING g) = false) :
    exec (.quiesceReport g) s = .next s ∧ exec (.quiesceTimeout g) s = .next s := by
  refine ⟨?_, ?_⟩
  · show execQuiesceReport g s = _
    rw [execQuiesceReport, h]
    rfl
  · show execQuiesceTimeout g s = _
    rw [execQuiesceTimeout, h]
    rfl

variable (h : getB s (gateFld F.CLK_GATE_CTRL_CLOSING g) = true)
include h

theorem exec_quiesceReport_quiet (hquiet : gateQuiet (drainGate s g) g = true) :
    exec (.quiesceReport g) s = .next (closeGate (drainGate s g) g) := by
  show execQuiesceReport g s = _
  rw [execQuiesceReport, if_pos h]
  dsimp only
  rw [if_pos hquiet]

theorem exec_quiesceReport_busy (hquiet : gateQuiet (drainGate s g) g = false) :
    exec (.quiesceReport g) s = .next (drainGate s g) := by
  show execQuiesceReport g s = _
  rw [execQuiesceReport, if_pos h]
  dsimp only
  rw [if_neg (by simp [hquiet])]

theorem exec_quiesceTimeout_forced (hforce : getB s (gateFld F.CLK_GATE_CTRL_FORCE g) = true) :
    exec (.quiesceTimeout g) s = .next (forceGate s g) := by
  show execQuiesceTimeout g s = _
  rw [execQuiesceTimeout, if_pos h, if_pos hforce]

theorem exec_quiesceTimeout_withdrawn (hforce : getB s (gateFld F.CLK_GATE_CTRL_FORCE g) = false) :
    exec (.quiesceTimeout g) s = .next (deliverHeld (setB (setB s (gateFld F.CLK_GATE_CTRL_CLOSING g) false)
      F.CLK_STATUS_QUIESCE_TIMEOUT true) g) := by
  show execQuiesceTimeout g s = _
  rw [execQuiesceTimeout, if_pos h, if_neg (by simp [hforce])]

end

/-- A block that is not quiet in its time is isolated by FORCE, with all that it has not answered refused. -/
theorem forceGate_answers (s : State) (g : Fin 86) :
    let t := forceGate s g
    getB t (gateFld F.CLK_GATE_CTRL_ISOLATED g) = true ∧ getB t (gateFld F.CLK_GATE_CTRL_OPEN g) = false ∧
      getF t F.NET_ISO_LAST_NODE = nodeOfGate g ∧ Refused s t (openFor s g ++ heldFor s g) ∧ heldFor t g = [] ∧
      openFor t g = [] := by
  obtain ⟨u, hu⟩ : ∃ u, u = bumpF (setF (setB s (gateFld F.CLK_GATE_CTRL_ISOLATED g) true) F.NET_ISO_LAST_NODE (nodeOfGate g))
      F.NET_ISO_LAST_COUNT 1 := ⟨_, rfl⟩
  obtain ⟨w, hw⟩ : ∃ w, w = (openFor u g).foldl (fun t p => answer t p 4 1)
      (onNet u (fun n => { n with opened := n.opened.filter (fun p => gateOfNode p.dest.toNat ≠ some g) })) := ⟨_, rfl⟩
  have hforce : forceGate s g = closeGate w g := by rw [hw, hu]; rfl
  have hsame : u.net = s.net ∧ u.outs = s.outs := by rw [hu]; exact ⟨rfl, rfl⟩
  have hisolated : getB u (gateFld F.CLK_GATE_CTRL_ISOLATED g) = true := by
    rw [hu, bumpF, getB_setF_other _ (gateFld_ne_unindexed _ g (by decide)),
      getB_setF_other _ (gateFld_ne_unindexed _ g (by decide))]
    exact getB_setB_same s (gateFld F.CLK_GATE_CTRL_ISOLATED g) true rfl
  have hnode : getF u F.NET_ISO_LAST_NODE = nodeOfGate g := by
    have hlt : ∀ g : Fin 86, nodeOfGate g < 2 ^ 11 := by decide
    rw [hu, getF_bumpF_other _ (by decide), getF_setF_same]
    exact Nat.mod_eq_of_lt (hlt g)
  obtain ⟨hanswered, hnet, hregs⟩ := refused_foldl_answer
    (onNet u (fun n => { n with opened := n.opened.filter (fun p => gateOfNode p.dest.toNat ≠ some g) })) (openFor u g)
  rw [← hw] at hanswered hnet hregs
  have hreads : ∀ f, getF w f = getF u f := fun f => getF_congr hregs f
  have hopened : openFor u g = openFor s g := by rw [openFor, hsame.1, openFor]
  have hheld : heldFor w g = heldFor s g := by rw [heldFor, hnet, onNet_net, hsame.1, heldFor]
  obtain ⟨hopen, -, hrefused, hnone, hleft, hfields⟩ := closeGate_answers w g
  rw [hopened] at hanswered
  rw [hheld] at hrefused
  dsimp only
  rw [hforce]
  refine ⟨?_, hopen, ?_, ?_, hnone, ?_⟩
  · rw [getB, hfields, hreads]
    · exact hisolated
    · simp only [List.forall_mem_cons, List.not_mem_nil, false_imp_iff, implies_true, and_true]
      exact ⟨gateFld_ne_gateFld F.CLK_GATE_CTRL_ISOLATED F.CLK_GATE_CTRL_CLOSING rfl (by decide) g,
        gateFld_ne_gateFld F.CLK_GATE_CTRL_ISOLATED F.CLK_GATE_CTRL_OPEN rfl (by decide) g⟩
  · rw [hfields, hreads, hnode]
    simp only [List.forall_mem_cons, List.not_mem_nil, false_imp_iff, implies_true, and_true]
    exact ⟨(gateFld_ne_unindexed _ g (by decide)).symm, (gateFld_ne_unindexed _ g (by decide)).symm⟩
  · exact (hanswered.congr hsame.2).append hrefused
  · rw [openFor, hleft, hnet, onNet_net, List.filter_filter]
    exact List.filter_eq_nil_iff.mpr fun p _ => by simp

/-! #### Requests that are delivered after all -/

/-- The registers that a write to the exchange RAM moves. -/
abbrev collisionFields : List Fld := [F.ARY_EXR_STATUS_COLLISION, F.ARY_EXR_COLL_ADDR_WORD, F.ARY_EXR_COLL_COUNT_COUNT]

/-- A packet has been delivered: interfaces hold what they held, and the registers of the exchange RAM alone have moved. -/
def LaterDelivered (s t : State) : Prop := t.net.held = s.net.held ∧ FieldsBut s t collisionFields

section
variable {s t : State}

theorem LaterDelivered.portBWord (h : LaterDelivered s t) (w : Nat × List (Option Byte)) : LaterDelivered s (portBWord t w) := by
  obtain ⟨hheld, hfields⟩ := h
  have hnoted := ((hfields.setF (f := F.ARY_EXR_STATUS_COLLISION) (by simp) (b2n true)).setF
    (f := F.ARY_EXR_COLL_ADDR_WORD) (by simp) w.1).setF (f := F.ARY_EXR_COLL_COUNT_COUNT) (by simp)
  unfold Machine.portBWord
  split
  · exact ⟨hheld, hnoted _⟩
  · exact ⟨hheld, hfields⟩

theorem LaterDelivered.unitWrite (h : LaterDelivered s t) (u a : Nat) (bs : List (Option Byte)) :
    LaterDelivered s (unitWrite t u a bs) := by
  unfold Machine.unitWrite
  dsimp only
  split
  · exact h
  · split
    · exact List.foldlRecOn (motive := LaterDelivered s) _ _ h fun _ h w _ => h.portBWord w
    · split <;> exact h

theorem LaterDelivered.leaveOpen (h : LaterDelivered s t) (p : Packet) : LaterDelivered s (leaveOpen t p) := h

theorem LaterDelivered.serve (h : LaterDelivered s t) (p : Packet) : LaterDelivered s (serve t p .later) := by
  unfold Machine.serve
  split
  · exact h.leaveOpen p
  · exact (h.unitWrite _ _ _).leaveOpen p
  · exact h
  · exact h

theorem LaterDelivered.onNet (h : LaterDelivered s t) (f : Net → SMap (List Nat)) (g : Net → List NetEntry) :
    LaterDelivered s (onNet t (fun n => { n with seen := f n, store := g n })) := h

theorem LaterDelivered.deliver (h : LaterDelivered s t) (p : Packet) : LaterDelivered s (deliver t p .later) := by
  have hseen : LaterDelivered s (noteSeen t p) := h.onNet _ Net.store
  have hretired : ∀ u, LaterDelivered s u → LaterDelivered s (retireEntry u p) := fun u hu => hu.onNet Net.seen _
  unfold Machine.deliver
  dsimp only
  refine .serve ?_ p
  split
  · split
    · exact hretired _ h
    · exact hretired _ hseen
  · split
    · exact h
    · exact hseen

end

/-- What an interface held is delivered. -/
theorem deliverHeld_answers (s : State) (g : Nat) : heldFor (deliverHeld s g) g = [] ∧
    FieldsBut s (deliverHeld s g) collisionFields := by
  refine ⟨releaseHeld_held s g fun t p => ?_, ?_⟩
  · exact (LaterDelivered.deliver ⟨rfl, .refl t _⟩ p).1
  · exact FieldsBut.foldl (fun t p h => h.trans (LaterDelivered.deliver ⟨rfl, .refl t _⟩ p).2) (fun _ _ => rfl) _

/-- The request to close is withdrawn. -/
theorem withdrawn_answers (s : State) (g : Nat) :
    let t := deliverHeld (setB (setB s (gateFld F.CLK_GATE_CTRL_CLOSING g) false) F.CLK_STATUS_QUIESCE_TIMEOUT true) g
    getB t F.CLK_STATUS_QUIESCE_TIMEOUT = true ∧ getB t (gateFld F.CLK_GATE_CTRL_CLOSING g) = false ∧ heldFor t g = [] ∧
      getB t (gateFld F.CLK_GATE_CTRL_OPEN g) = getB s (gateFld F.CLK_GATE_CTRL_OPEN g) := by
  obtain ⟨u, hu⟩ : ∃ u, u = setB (setB s (gateFld F.CLK_GATE_CTRL_CLOSING g) false) F.CLK_STATUS_QUIESCE_TIMEOUT true := ⟨_, rfl⟩
  obtain ⟨hnone, hfields⟩ := deliverHeld_answers u g
  have hgate : ∀ f, ∀ x ∈ collisionFields, (gateFld f g).key ≠ x.key := fun f x hx =>
    gateFld_ne_unindexed f g ((by decide : ∀ x ∈ collisionFields, Unindexed x) x hx)
  dsimp only
  rw [← hu]
  refine ⟨?_, ?_, hnone, ?_⟩
  · rw [getB, hfields _ (by decide), hu]
    exact getB_setB_same _ F.CLK_STATUS_QUIESCE_TIMEOUT true rfl
  · rw [getB, hfields _ (hgate _), ← getB, hu, getB_setB_other _ (gateFld_ne_unindexed _ g (by decide))]
    exact getB_setB_same s (gateFld F.CLK_GATE_CTRL_CLOSING g) false rfl
  · rw [getB, hfields _ (hgate _), ← getB, hu, getB_setB_other _ (gateFld_ne_unindexed _ g (by decide)),
      getB_setB_other _ (gateFld_ne_gateFld F.CLK_GATE_CTRL_OPEN F.CLK_GATE_CTRL_CLOSING rfl (by decide) g)]

/-! #### NET_TRACE_CTRL (R256) -/

/-- The registers that a write to NET_TRACE_CTRL takes before EN is considered. -/
def netTraceTaken (s : State) (v : Nat) : State :=
  let t := setB s F.NET_TRACE_CTRL_WRAP (v.testBit 1)
  if v.testBit 4 then setF t F.NET_TRACE_INDEX_NEXT 0 else t

theorem onlyFields_netTraceTaken (s : State) (v : Nat) :
    OnlyFields s (netTraceTaken s v) [F.NET_TRACE_CTRL_WRAP, F.NET_TRACE_INDEX_NEXT] := by
  have hwrap := (OnlyFields.refl s [F.NET_TRACE_CTRL_WRAP, F.NET_TRACE_INDEX_NEXT]).setB (f := F.NET_TRACE_CTRL_WRAP) (by simp)
    (v.testBit 1)
  unfold netTraceTaken
  dsimp only
  split
  · exact hwrap.setF (by simp) 0
  · exact hwrap

theorem wrap_netTraceTaken (s : State) (v : Nat) : getB (netTraceTaken s v) F.NET_TRACE_CTRL_WRAP = v.testBit 1 := by
  unfold netTraceTaken
  dsimp only
  split
  · rw [getB_setF_other _ (by decide)]
    exact getB_setB_same s F.NET_TRACE_CTRL_WRAP _ rfl
  · exact getB_setB_same s F.NET_TRACE_CTRL_WRAP _ rfl

theorem netTraceWrite_eq (s : State) (v : Nat) : netTraceWrite s v =
    let t := netTraceTaken s v
    if v.testBit 31 && !getB t F.NET_TRACE_CTRL_EN && !winOwned t (getF t F.NET_TRACE_WINDOW_WINDOW) 5 then
      setB t F.NET_STATUS_TRACE_REJECT true
    else setB t F.NET_TRACE_CTRL_EN (v.testBit 31) := rfl

/-- The control of a window lies where that of the trace ring does not, whatever the window's number. -/
theorem winOwned_netTraceTaken (s : State) (v w owner : Nat) : winOwned (netTraceTaken s v) w owner = winOwned s w owner := by
  obtain ⟨hfields, -⟩ := onlyFields_netTraceTaken s v
  have hen : getF (netTraceTaken s v) (F.HBM_WIN_CTRL_EN w) = getF s (F.HBM_WIN_CTRL_EN w) := by
    refine hfields _ ?_
    simp only [List.forall_mem_cons, List.not_mem_nil, false_imp_iff, implies_true, and_true, Fld.key, F.HBM_WIN_CTRL_EN,
      F.NET_TRACE_CTRL_WRAP, F.NET_TRACE_INDEX_NEXT]
    omega
  have howner : getF (netTraceTaken s v) (F.HBM_WIN_CTRL_OWNER w) = getF s (F.HBM_WIN_CTRL_OWNER w) := by
    refine hfields _ ?_
    simp only [List.forall_mem_cons, List.not_mem_nil, false_imp_iff, implies_true, and_true, Fld.key, F.HBM_WIN_CTRL_OWNER,
      F.NET_TRACE_CTRL_WRAP, F.NET_TRACE_INDEX_NEXT]
    omega
  rw [winOwned, winOwned, getB, getB, hen, howner]

/-- CLEAR restarts the ring. -/
theorem netTraceWrite_clears (s : State) {v : Nat} (h : v.testBit 4 = true) :
    getF (netTraceWrite s v) F.NET_TRACE_INDEX_NEXT = 0 := by
  have htaken : getF (netTraceTaken s v) F.NET_TRACE_INDEX_NEXT = 0 := by
    unfold netTraceTaken
    dsimp only
    rw [if_pos h, getF_setF_same]
    rfl
  rw [netTraceWrite_eq]
  dsimp only
  split
  · rw [getF_setB_other _ (by decide), htaken]
  · rw [getF_setB_other _ (by decide), htaken]

/-- EN needs an enabled window of the firmware. -/
theorem netTraceWrite_enables {s : State} {v : Nat} (hv : v.testBit 31 = true) (hen : getB s F.NET_TRACE_CTRL_EN = false) :
    let t := netTraceWrite s v
    let w := getF s F.NET_TRACE_WINDOW_WINDOW
    getB t F.NET_TRACE_CTRL_EN = winOwned s w 5 ∧ getB t F.NET_TRACE_CTRL_WRAP = v.testBit 1 ∧
      (winOwned s w 5 = false → getB t F.NET_STATUS_TRACE_REJECT = true) ∧ t = { s with regs := t.regs } := by
  have htaken := onlyFields_netTraceTaken s v
  have hwrap := wrap_netTraceTaken s v
  have hoff : getB (netTraceTaken s v) F.NET_TRACE_CTRL_EN = false := by
    rw [getB, htaken.1 _ (by decide)]
    exact hen
  have howned : winOwned (netTraceTaken s v) (getF (netTraceTaken s v) F.NET_TRACE_WINDOW_WINDOW) 5 =
      winOwned s (getF s F.NET_TRACE_WINDOW_WINDOW) 5 := by
    rw [winOwned_netTraceTaken, htaken.1 _ (by decide)]
  rw [netTraceWrite_eq]
  dsimp only
  rw [howned, hv, hoff]
  generalize netTraceTaken s v = u at htaken hwrap hoff
  generalize winOwned s (getF s F.NET_TRACE_WINDOW_WINDOW) 5 = owned
  have hset : ∀ f b, setB u f b = { s with regs := (setB u f b).regs } := fun f b => congrArg (setB · f b) htaken.2
  cases owned with
  | true =>
    refine ⟨getB_setB_same u F.NET_TRACE_CTRL_EN true rfl, ?_, fun h => absurd h (by decide), hset _ _⟩
    exact (getB_setB_other u (f := F.NET_TRACE_CTRL_EN) (by decide) true).trans hwrap
  | false =>
    refine ⟨?_, ?_, fun _ => getB_setB_same u F.NET_STATUS_TRACE_REJECT true rfl, hset _ _⟩
    · exact (getB_setB_other u (f := F.NET_STATUS_TRACE_REJECT) (by decide) true).trans hoff
    · exact (getB_setB_other u (f := F.NET_STATUS_TRACE_REJECT) (by decide) true).trans hwrap

end Sys2Proof.Machine
end

section
/-! ### A packet that is given up (R251) -/

namespace Sys2Proof.Machine

/-! #### What a halt leaves of the network -/

/-- The flags of a packet given up and of the halt that it may bring about. -/
abbrev haltFlags : List Fld := [F.NET_STATUS_E2E_FAIL, F.FLT_STATUS_HBM_HALT]

/-- The network is as in `r`, and no flag of `haltFlags` has been lowered since. -/
def HaltKept (r s : State) : Prop := s.net = r.net ∧ ∀ f ∈ haltFlags, getB r f = true → getB s f = true

section
variable {r s t : State}

theorem HaltKept.refl (s : State) : HaltKept s s := ⟨rfl, fun _ _ h => h⟩

theorem HaltKept.trans (h : HaltKept r s) (h' : HaltKept s t) : HaltKept r t :=
  ⟨h'.1.trans h.1, fun f hf hr => h'.2 f hf (h.2 f hf hr)⟩

theorem HaltKept.ite {c : Prop} [Decidable c] (h : HaltKept r s) (h' : HaltKept r t) : HaltKept r (if c then s else t) := by
  split <;> assumption

theorem HaltKept.foldl {α : Type} {g : State → α → State} (hg : ∀ t a, HaltKept r t → HaltKept r (g t a))
    (h : HaltKept r s) (xs : List α) : HaltKept r (xs.foldl g s) :=
  List.foldlRecOn (motive := HaltKept r) _ _ h fun t h a _ => hg t a h

/-- An operation on anything but the network and the registers. -/
theorem HaltKept.congr (h : HaltKept r s) (hnet : t.net = s.net) (hregs : t.regs = s.regs) : HaltKept r t := by
  refine h.trans ⟨hnet, fun f _ hr => ?_⟩
  rwa [getB, getF_congr hregs, ← getB]

/-- Flags that read as before are as before. -/
theorem HaltKept.fields (h : HaltKept r s) (hnet : t.net = s.net) (hfields : ∀ f ∈ haltFlags, getF t f = getF s f) :
    HaltKept r t := by
  refine h.trans ⟨hnet, fun f hf hr => ?_⟩
  rwa [getB, hfields f hf, ← getB]

theorem HaltKept.setF (h : HaltKept r s) {f : Fld} (v : Nat) (hf : ∀ g ∈ haltFlags, g.key ≠ f.key := by decide) :
    HaltKept r (setF s f v) :=
  h.fields rfl fun g hg => getF_setF_other s (hf g hg) v

theorem HaltKept.setB (h : HaltKept r s) {f : Fld} (b : Bool) (hf : ∀ g ∈ haltFlags, g.key ≠ f.key := by decide) :
    HaltKept r (setB s f b) := h.setF _ hf

/-- A value other than 0 lowers no flag, wherever it is written. -/
theorem HaltKept.setF_raised (h : HaltKept r s) {f : Fld} {v : Nat} (hrst : f.rst = 0) (hv : v % 2 ^ f.width ≠ 0) :
    HaltKept r (Machine.setF s f v) := by
  refine h.trans ⟨rfl, fun g _ hr => ?_⟩
  by_cases hkey : g.key = f.key
  · have hreads : getF (Machine.setF s f v) g = v % 2 ^ f.width := by
      unfold getF Machine.setF
      rw [hkey, SMap.set, hrst, if_neg hv]
      simp [SMap.get]
    simp [getB, hreads, hv]
  · rwa [getB_setF_other s hkey]

/-- Nor does a counter that counts up. -/
theorem HaltKept.bumpF (h : HaltKept r s) {f : Fld} (hrst : f.rst = 0) (hwidth : 0 < f.width) :
    HaltKept r (Machine.bumpF s f 1) := by
  refine h.setF_raised hrst ?_
  have htwo : 2 ^ 1 ≤ 2 ^ f.width := Nat.pow_le_pow_right Nat.two_pos hwidth
  have hlt : saturate f.width (getF s f + 1) < 2 ^ f.width := Nat.lt_of_le_of_lt (Nat.min_le_right _ _) (by omega)
  rw [Nat.mod_eq_of_lt hlt]
  simp only [saturate]
  omega

/-- Nor does a bit that is set. -/
theorem HaltKept.setFBit (h : HaltKept r s) {f : Fld} (hrst : f.rst = 0) {i : Nat} (hi : i < f.width) :
    HaltKept r (Machine.setFBit s f i true) := by
  refine h.setF_raised hrst fun h0 => ?_
  have hbit : (setBit (getF s f) i true % 2 ^ f.width).testBit i = true := by
    rw [Nat.testBit_mod_two_pow, testBit_setBit, if_pos rfl, decide_eq_true hi, Bool.and_true]
  rw [h0, Nat.zero_testBit] at hbit
  exact Bool.false_ne_true hbit

theorem HaltKept.onAsy (h : HaltKept r s) (g : Asy → Asy) : HaltKept r (onAsy s g) := h

/-! #### Completions -/

theorem HaltKept.complete (h : HaltKept r s) (d : Desc) (status result : Nat) : HaltKept r (complete s d status result) := by
  unfold Machine.complete
  dsimp only
  have hbumped : HaltKept r (bumpStarted (bumpLive s d.session d.sgen.toNat (· - 1)) d.session d.sgen.toNat (· - 1)) := h
  refine .ite (hbumped.setF _) (.ite hbumped ?_)
  rw [postCompletion_frame]
  exact h

theorem leaveDoze_net (s : State) (l : Nat) : (leaveDoze s l).net = s.net := by
  unfold leaveDoze
  split
  · exact List.foldlRecOn (motive := fun t : State => t.net = s.net) _ _ rfl fun _ h _ _ => h
  · rfl

theorem wakeLink_net (s : State) (l : Nat) : (wakeLink s l).net = s.net := by
  unfold wakeLink
  dsimp only
  split <;> exact leaveDoze_net _ l

theorem sendMgmt_net (s : State) (dest : Nat) : (sendMgmt s dest).net = s.net := by
  unfold sendMgmt
  split
  · rfl
  · exact wakeLink_net _ _

theorem HaltKept.sendMgmt (h : HaltKept r s) (dest : Nat) : HaltKept r (sendMgmt s dest) := by
  have hbelow : ∀ f ∈ haltFlags, BelowLinks f := by decide
  exact h.fields (sendMgmt_net s dest) fun f hf => (linksMoved_sendMgmt s dest).below f (hbelow f hf)

theorem HaltKept.finishReq (h : HaltKept r s) (q : DesignReq) (status result : Nat) :
    HaltKept r (finishReq s q status result) := by
  unfold Machine.finishReq
  split
  · exact h.complete _ _ _
  · exact h.sendMgmt _

theorem HaltKept.designEnd (h : HaltKept r s) (status result : Nat) : HaltKept r (designEnd s status result) := by
  unfold Machine.designEnd
  dsimp only
  refine .foldl (fun t w h => .foldl (fun _ q h => h.finishReq q _ _) h _) ?_ _
  exact h.congr rfl rfl

theorem HaltKept.endRun (h : HaltKept r s) (status : Nat) : HaltKept r (endRun s status) := by
  unfold Machine.endRun
  split
  · refine .complete ?_ _ _ _
    exact h.congr rfl rfl
  · exact h

theorem HaltKept.endStops (h : HaltKept r s) (status : Nat) : HaltKept r (endStops s status) := by
  unfold Machine.endStops
  refine .foldl (fun t q h => h.complete _ _ _) ?_ _
  exact h.congr rfl rfl

/-! #### Channels -/

theorem HaltKept.completeSent (h : HaltKept r s) (k gen b c : Nat) : HaltKept r (completeSent s k gen b c) := by
  refine .foldl (fun t m h => h.complete _ _ _) ?_ _
  exact h.congr rfl rfl

theorem HaltKept.finishClose (h : HaltKept r s) (c : Nat) : HaltKept r (finishClose s c) := by
  unfold Machine.finishClose
  dsimp only
  refine .ite (.foldl (fun t d h => h.complete _ _ _) (.setF ?_ _ (by decide)) _) h
  exact h.congr rfl rfl

theorem HaltKept.closeSent (h : HaltKept r s) : HaltKept r (closeSent s) := by
  unfold Machine.closeSent
  dsimp only
  refine .foldl (fun t c h => h.finishClose c) (.foldl (fun t m h => h.complete _ _ _) ?_ _) _
  exact h.congr rfl rfl

theorem HaltKept.chnAbandon (h : HaltKept r s) (b : Nat) (replayed : Bool) : HaltKept r (chnAbandon s b replayed) := by
  unfold Machine.chnAbandon
  dsimp only
  refine .foldl (fun t c h => h.finishClose c) (.closeSent (.foldl (fun t k h => ?_) ?_ _)) _
  · exact h.congr rfl rfl
  · exact h.congr rfl rfl

theorem HaltKept.closeRest (h : HaltKept r s) : HaltKept r (closeRest s) := by
  unfold Machine.closeRest
  refine .foldl (fun t c h => .finishClose ?_ c) h _
  unfold closeTaken
  dsimp only
  refine .foldl (fun t q h => h.completeSent _ _ _ _) ?_ _
  exact h.congr rfl rfl

/-! #### Captures and Hallmarks -/

theorem HaltKept.hbmPut (h : HaltKept r s) (pc a : Nat) (b : Byte) : HaltKept r (hbmPut s pc a b) :=
  .ite h (h.congr rfl rfl)

theorem HaltKept.winWrite (h : HaltKept r s) (w x : Nat) (b : Byte) : HaltKept r (winWrite s w x b) :=
  .ite ((h.hbmPut _ _ b).hbmPut _ _ b) (h.hbmPut _ _ b)

theorem HaltKept.winStore (h : HaltKept r s) (w off len : Nat) (m : Memory) : HaltKept r (winStore s w off len m) := by
  unfold Machine.winStore
  refine .foldl (fun t c h => .ite (h.winWrite _ _ _) h) ?_ _
  exact h.congr rfl rfl

theorem HaltKept.takeCapture (h : HaltKept r s) (nb : Nat) : HaltKept r (takeCapture s nb) := by
  unfold Machine.takeCapture
  split
  · exact .ite ((h.winStore _ _ _ _).onAsy _) h
  · exact h

theorem HaltKept.hallmarkView (h : HaltKept r s) {nb : Nat} (ht : hallmarkView s nb = some t) : HaltKept r t := by
  unfold Machine.hallmarkView at ht
  dsimp only at ht
  split at ht
  · cases ht
    exact HaltKept.setB (s := { s with design := _ }) (h.congr rfl rfl) _ (by decide)
  · split at ht
    · cases ht
      exact h.congr rfl rfl
    · cases ht

/-- DEGRADED of the windows is apart from the flags. -/
theorem HaltKept.showDegraded (h : HaltKept r s) : HaltKept r (showDegraded s) := by
  have hdegraded : ∀ n ∈ List.range 16, ∀ g ∈ haltFlags, g.key ≠ (F.HBM_WIN_CTRL_DEGRADED n).key := by decide
  exact List.foldlRecOn (motive := HaltKept r) _ _ h fun t h n hn => h.setB _ (hdegraded n hn)

theorem HaltKept.noteUe (h : HaltKept r s) (pc a : Nat) (scrub recovered : Bool) : HaltKept r (noteUe s pc a scrub recovered) := by
  unfold Machine.noteUe
  extract_lets w sUe sScrub sOwner sPc sWord sCounted now ts sTimed
  have hue : HaltKept r sUe := h.setB true
  have hscrub : HaltKept r sScrub := hue.setB scrub
  have howner : HaltKept r sOwner := hscrub.setF _
  have hpc : HaltKept r sPc := (howner.setF _).setF _
  have hword : HaltKept r sWord := hpc.setF _
  have hcounted : HaltKept r sCounted := .ite (hword.bumpF rfl (by decide)) (hword.bumpF rfl (by decide))
  have htimed : HaltKept r sTimed := hcounted.congr rfl rfl
  exact .ite (htimed.setFBit rfl (Nat.mod_lt _ (by decide : 0 < 32))).showDegraded htimed

theorem HaltKept.serveWord (h : HaltKept r s) (w x : Nat) : HaltKept r (serveWord s w x).1 := by
  unfold Machine.serveWord
  dsimp only
  split
  · exact h
  · exact h.bumpF rfl (by decide : 0 < 32)
  · exact .ite ((h.noteUe _ _ _ _).congr rfl rfl) (h.noteUe _ _ _ _)

theorem HaltKept.winServe (h : HaltKept r s) (w off n : Nat) : HaltKept r (winServe s w off n).1 :=
  List.foldlRecOn (motive := fun p : State × List Nat => HaltKept r p.1) _ _ h fun _ h x _ => h.serveWord w x

theorem HaltKept.takeHallmark (h : HaltKept r s) (nb : Nat) : HaltKept r (takeHallmark s nb) := by
  have hmeets : ∀ {u} ws, HaltKept r u → HaltKept r (hallmarkMeets u ws) := fun ws hu =>
    .foldl (fun t w h => h.winServe w _ _) hu _
  unfold Machine.takeHallmark
  split
  · refine .ite ?_ h
    split
    · exact h
    next u hu =>
      have hview : HaltKept r u := by
        split at hu
        · exact h.hallmarkView hu
        · cases hu
          exact h
      exact (hmeets _ hview).congr rfl rfl
  · exact h

theorem HaltKept.takeVisible (h : HaltKept r s) : HaltKept r (takeVisible s) := (h.takeCapture _).takeHallmark _

/-! #### Regions and holds -/

theorem HaltKept.holdBlocks (h : HaltKept r s) : HaltKept r (holdBlocks s) := by
  unfold Machine.holdBlocks
  refine .foldl (fun t e h => ?_) h _
  split
  · refine .ite ?_ h
    unfold isolateBlocks
    refine HaltKept.foldl
      (g := fun t (e : Option HgrIso × Nat) => onHgr t (fun h => { h with iso := h.iso.set none e.2 e.1 })) (fun t e h => ?_) h _
    exact h
  · exact h

theorem HaltKept.rejoinAtRest (h : HaltKept r s) {n : Nat} (hn : n < 64) : HaltKept r (rejoinAtRest s n) := by
  have hstate : ∀ n ∈ List.range 64, ∀ g ∈ haltFlags, g.key ≠ (F.LDR_REGION_STATE n).key := by decide
  unfold Machine.rejoinAtRest
  dsimp only
  refine .setF ?_ _ (hstate n (List.mem_range.mpr hn))
  refine HaltKept.foldl (g := fun t (e : Nat × IsoTile) =>
    rejoinTile t (Fin.ofNat 4 (e.1 / 64)) (e.1 % 64) s.run.nextCommit e.2) (fun t e h => ?_) h _
  exact h

theorem HaltKept.restRegions (h : HaltKept r s) : HaltKept r (restRegions s) := by
  unfold Machine.restRegions
  dsimp only
  refine .holdBlocks (List.foldlRecOn (motive := HaltKept r) _ _ ?_ fun t ht n hn => ?_)
  · refine HaltKept.foldl (g := fun t (e : Nat × Option IsoTile) => match e.2 with
      | some i => rejoinTile t (Fin.ofNat 4 (e.1 / 64)) (e.1 % 64) t.run.nextCommit i
      | none => t) (fun t e h => ?_) h _
    split <;> exact h
  · exact .ite (ht.rejoinAtRest (List.mem_range.1 hn)) ht

/-- A region that is back in isolation shows STATE 2, whatever the region's number. -/
theorem HaltKept.regionsBack (h : HaltKept r s) (nb : Nat) : HaltKept r (regionsBack s nb) := by
  unfold Machine.regionsBack
  refine HaltKept.foldl (fun t e ht => ?_) h _
  have hset : HaltKept r (Machine.setF t (F.LDR_REGION_STATE e.1) 2) := ht.setF_raised rfl (show 2 % 2 ^ 2 ≠ 0 by decide)
  split
  · split
    · exact .ite hset ht
    · exact ht
  · exact ht

theorem HaltKept.asyAbandon (h : HaltKept r s) (b : Nat) : HaltKept r (asyAbandon s b) := h

theorem HaltKept.hgrAbandon (h : HaltKept r s) (b : Nat) (replayed : Bool) : HaltKept r (hgrAbandon s b replayed) := h

theorem HaltKept.lnkAbandon (h : HaltKept r s) (b : Nat) : HaltKept r (lnkAbandon s b) := h

theorem HaltKept.memAbandon (h : HaltKept r s) (b : Nat) (replayed : Bool) : HaltKept r (memAbandon s b replayed) := h

theorem HaltKept.restoreTo (h : HaltKept r s) (nb : Nat) (replayed : Bool) : HaltKept r (restoreTo s nb replayed) := by
  have hunits := (((h.chnAbandon nb replayed).asyAbandon nb).hgrAbandon nb replayed).lnkAbandon nb
  unfold Machine.restoreTo
  dsimp only
  exact ((hunits.memAbandon nb replayed).regionsBack nb).congr rfl rfl

/-- The holds end, a user hold among them. -/
theorem HaltKept.endHolds (h : HaltKept r s) (next : Nat) : HaltKept r (endHolds s false next) := by
  have hset := (h.setB (f := F.ARY_HOLD_CTRL_PENDING) false).setB (f := F.ARY_HOLD_CTRL_ACTIVE) false
  unfold Machine.endHolds
  dsimp only
  refine .setB (.foldl (fun t n h => h.setF _ (by decide)) ?_ _) _ (by decide)
  exact hset.congr rfl rfl

theorem HaltKept.thawAll (h : HaltKept r s) : HaltKept r (thawAll s) := by
  unfold Machine.thawAll
  refine .foldl (fun t d h => ?_) h _
  exact HaltKept.setF (s := onDie t d _) (h.congr rfl rfl) _ (by decide)

/-! #### The fault log -/

theorem HaltKept.logRecord (h : HaltKept r s) (bs : List Byte) : HaltKept r (logRecord s bs) := by
  have hflags : ∀ g ∈ haltFlags, Unindexed g := by decide
  have hwords : HaltKept r (writeWords s (fun w => (F.FLT_LOG_DATA_BYTES w).bank (getF s F.FLT_LOG_INDEX_NEXT)) bs) :=
    .foldl (fun t w h => h.setF _ fun g hg => (Nat.lt_of_lt_of_le (hflags g hg) (le_key_bank _ _)).ne) h _
  unfold Machine.logRecord
  dsimp only
  refine .setF (.ite (hwords.setB (f := F.FLT_STATUS_LOG_WRAPPED) true) hwords) _ (by decide)

end

/-! #### The halt (R29, R30) -/

/-- A machine that halts stands in FAULTED, with the network as it was and the cause's flag raised. -/
theorem enterFaulted_halts (s : State) {cause : State → State} {f : Fld} (hf : f ∈ haltFlags)
    (hcause : ∀ t, HaltKept t (cause t) ∧ getB (cause t) f = true) :
    HaltKept s (enterFaulted s cause) ∧ getB (enterFaulted s cause) f = true ∧ emState (enterFaulted s cause) = 5 := by
  obtain ⟨w, hw⟩ : ∃ w, w = thawAll (endHolds (restRegions (restoreTo s s.run.nextCommit false)) false s.run.nextCommit) :=
    ⟨_, rfl⟩
  obtain ⟨u, hu⟩ : ∃ u, u = onRun (setF (setB (cause w) F.FLT_STATUS_HALT true) F.ARY_STATE_STATE 5) (fun r =>
    { r with asyStop := none, replay := none, sfaults := [], stopCycles := [] }) := ⟨_, rfl⟩
  have hhalt : enterFaulted s cause = takeVisible (endStops (endRun (designEnd (closeRest (setB u F.FLT_STATUS_REPLAYING false))
      stFaulted 0) stFaulted) stFaulted) := by
    rw [hu, hw]
    rfl
  have hrested : HaltKept s w := by
    rw [hw]
    exact (((HaltKept.refl s).restoreTo _ _).restRegions.endHolds _).thawAll
  have hcaused : HaltKept (cause w) u := by
    rw [hu]
    exact (((HaltKept.refl (cause w)).setB (f := F.FLT_STATUS_HALT) true).setF (f := F.ARY_STATE_STATE) 5).congr rfl rfl
  have hstate : emState u = 5 := by
    rw [hu]
    exact getF_setF_same _ F.ARY_STATE_STATE 5
  have hlast : HaltKept u (enterFaulted s cause) := by
    rw [hhalt]
    exact (((((HaltKept.refl u).setB (f := F.FLT_STATUS_REPLAYING) false).closeRest.designEnd _ _).endRun _).endStops _).takeVisible
  have hrest : RestKept u (enterFaulted s cause) := by
    rw [hhalt]
    exact (((((RestKept.refl u).setB (f := F.FLT_STATUS_REPLAYING) false).closeRest.designEnd _ _).endRun _).endStops _).takeVisible
  obtain ⟨hkept, hraised⟩ := hcause w
  exact ⟨hrested.trans (hkept.trans (hcaused.trans hlast)), hlast.2 f hf (hcaused.2 f hf hraised),
    hrest.2.trans hstate⟩

end Sys2Proof.Machine
end

section
/-! ### The package network -/

namespace Sys2Proof.Machine

/-! #### What a client gets of a packet that is given up (R251) -/

theorem HaltKept.raiseSource {r s : State} (h : HaltKept r s) (n : Nat) : HaltKept r (raiseSource s n) :=
  .ite h (((h.setF (f := F.ARY_HOLD_STATUS_SOURCE) _).setF (f := F.ARY_HOLD_EVENTS_SEEN) _).bumpF rfl (by decide : 0 < 32))

theorem replaying_raiseSource (s : State) :
    getB (raiseSource s 9) F.FLT_STATUS_REPLAYING = getB s F.FLT_STATUS_REPLAYING := by
  unfold raiseSource
  split
  · rfl
  · rw [bumpF, getB_setF_other _ (by decide), setFBit, getB_setF_other _ (by decide), setFBit, getB_setF_other _ (by decide)]

/-- A bad vote begins a recovery, and leaves the network. -/
theorem badNow_recovers (s : State) (d : Fin 4) :
    getB (badNow s d) F.FLT_STATUS_REPLAYING = true ∧ HaltKept s (badNow s d) := by
  unfold badNow
  extract_lets c sVote sCycle sShown run sRun sSource
  have hvote : HaltKept s sVote := HaltKept.refl s
  have hcycle : HaltKept s sCycle := (hvote.setF _).setF _
  have hshown : HaltKept s sShown := hcycle.setB _
  have hrun : HaltKept s sRun := hshown
  have hsource : HaltKept s sSource := .ite (hrun.raiseSource 9) hrun
  have hreplaying : getB sRun F.FLT_STATUS_REPLAYING = true := getB_setB_same sCycle F.FLT_STATUS_REPLAYING true rfl
  refine ⟨?_, hsource.congr rfl rfl⟩
  show getB sSource F.FLT_STATUS_REPLAYING = true
  unfold sSource
  split
  · rw [replaying_raiseSource, hreplaying]
  · exact hreplaying

/-- The packet of E2E_FAIL is recorded. -/
def givenUp (s : State) (p : Packet) : State :=
  setF (setF (setB s F.NET_STATUS_E2E_FAIL true) F.NET_E2E_LAST_DEST p.dest.toNat) F.NET_E2E_LAST_SRC p.src.toNat

theorem givenUp_shows (s : State) (p : Packet) : getB (givenUp s p) F.NET_STATUS_E2E_FAIL = true ∧
    getF (givenUp s p) F.NET_E2E_LAST_SRC = p.src.toNat ∧ getF (givenUp s p) F.NET_E2E_LAST_DEST = p.dest.toNat ∧
    executing (givenUp s p) = executing s := by
  unfold givenUp
  refine ⟨?_, ?_, ?_, ?_⟩
  · rw [getB_setF_other _ (by decide), getB_setF_other _ (by decide)]
    exact getB_setB_same s F.NET_STATUS_E2E_FAIL true rfl
  · rw [getF_setF_same]
    exact Nat.mod_eq_of_lt p.src.isLt
  · rw [getF_setF_other _ (by decide), getF_setF_same]
    exact Nat.mod_eq_of_lt p.dest.isLt
  · rw [executing, executing, emState, getF_setF_other _ (by decide), getF_setF_other _ (by decide),
      getF_setB_other _ (by decide), emState]

/-- What the halt of a packet given up records. -/
def giveUpCause (u : State) (p : Packet) (t : State) : State :=
  logRecord (setB t F.FLT_STATUS_HBM_HALT true)
    (logBytes 5 (nodeDie p.src.toNat) 0xFF 0xFF (nodeUnit p.src.toNat) 0xFF 0xFF (sigmaMin u) u.run.nextCommit 0)

theorem giveUp_eq (s : State) (p : Packet) : giveUp s p =
    let u := givenUp s p
    if isTileNode p.src.toNat && executing u && p.vc = 0 && p.type.toNat = 0 then badNow u (Fin.ofNat 4 (nodeDie p.src.toNat))
    else if isTileNode p.src.toNat && executing u && p.vc = 0 && p.type.toNat = 1 then enterFaulted u (giveUpCause u p)
    else answer u p 4 3 := rfl

theorem giveUpCause_raises (u : State) (p : Packet) (t : State) :
    HaltKept t (giveUpCause u p t) ∧ getB (giveUpCause u p t) F.FLT_STATUS_HBM_HALT = true := by
  have hlogged := (HaltKept.refl (setB t F.FLT_STATUS_HBM_HALT true)).logRecord
    (logBytes 5 (nodeDie p.src.toNat) 0xFF 0xFF (nodeUnit p.src.toNat) 0xFF 0xFF (sigmaMin u) u.run.nextCommit 0)
  have hset : HaltKept t (setB t F.FLT_STATUS_HBM_HALT true) := (HaltKept.refl t).setF_raised rfl (by decide)
  exact ⟨hset.trans hlogged, hlogged.2 _ (by simp) (getB_setB_same t _ true rfl)⟩

/-- A packet that is given up is recorded, and its client learns of it. -/
theorem giveUp_acts (s : State) (p : Packet) :
    let t := giveUp s p
    let ofTile := isTileNode p.src.toNat && executing s && p.vc = 0
    getB t F.NET_STATUS_E2E_FAIL = true ∧ t.net = s.net ∧
      if ofTile && p.type.toNat = 0 then getB t F.FLT_STATUS_REPLAYING = true
      else if ofTile && p.type.toNat = 1 then emState t = 5 ∧ getB t F.FLT_STATUS_HBM_HALT = true
      else getF t F.NET_E2E_LAST_SRC = p.src.toNat ∧ getF t F.NET_E2E_LAST_DEST = p.dest.toNat ∧ Replied s t p 4 3 [] := by
  obtain ⟨hfail, hsrc, hdest, hexecuting⟩ := givenUp_shows s p
  have hleft : (givenUp s p).net = s.net ∧ (givenUp s p).outs = s.outs := ⟨rfl, rfl⟩
  rw [giveUp_eq]
  dsimp only
  rw [hexecuting]
  generalize givenUp s p = u at hfail hsrc hdest hleft
  split
  · obtain ⟨hreplaying, hnet, hraised⟩ := badNow_recovers u (Fin.ofNat 4 (nodeDie p.src.toNat))
    exact ⟨hraised _ (by simp) hfail, hnet.trans hleft.1, hreplaying⟩
  · split
    · obtain ⟨⟨hnet, hraised⟩, hhalt, hstate⟩ :=
        enterFaulted_halts u (f := F.FLT_STATUS_HBM_HALT) (by simp) (giveUpCause_raises u p)
      exact ⟨hraised _ (by simp) hfail, hnet.trans hleft.1, hstate, hhalt⟩
    · exact ⟨hfail, hleft.1, hsrc, hdest, (replied_answerWith u p 4 3 []).congr hleft.2⟩

theorem packetResend_givesUp {s : State} {src : BitVec 11} {tag : BitVec 16} {e : NetEntry}
    (he : s.net.store.find? (fun e => e.pkt.src = src ∧ e.pkt.tag = tag) = some e) (busy : Bool)
    (hsent : getF s F.NET_CTRL_RETRIES < e.sent) : Answers (.packetResend ⟨src, tag⟩ busy) s (fun t =>
      getB t F.NET_STATUS_E2E_FAIL = true ∧ e ∉ t.net.store ∧
      let ofTile := isTileNode src.toNat && executing s && e.pkt.vc = 0
      if ofTile && e.pkt.type.toNat = 0 then getB t F.FLT_STATUS_REPLAYING = true
      else if ofTile && e.pkt.type.toNat = 1 then emState t = 5 ∧ getB t F.FLT_STATUS_HBM_HALT = true
      else getF t F.NET_E2E_LAST_SRC = src.toNat ∧ getF t F.NET_E2E_LAST_DEST = e.pkt.dest.toNat ∧
        Replied s t e.pkt 4 3 []) := by
  obtain ⟨u, hu⟩ : ∃ u, u = onNet s (fun n => { n with store := n.store.filter (fun x => x ≠ e) }) := ⟨_, rfl⟩
  have hexec := exec_packetResend_givesUp he busy hsent
  rw [← hu] at hexec
  obtain ⟨rfl, -⟩ : e.pkt.src = src ∧ e.pkt.tag = tag := by simpa using List.find?_some he
  have hdropped : e ∉ u.net.store := by
    rw [hu]
    simp
  have hexecuting : executing u = executing s := by rw [hu]; rfl
  have houts : u.outs = s.outs := by rw [hu]; rfl
  obtain ⟨hfail, hnet, hclient⟩ := giveUp_acts u e.pkt
  rw [hexecuting] at hclient
  refine ⟨_, hexec, hfail, by rwa [hnet], ?_⟩
  dsimp only
  split
  next hread => rwa [if_pos hread] at hclient
  next hother =>
    rw [if_neg hother] at hclient
    split
    next hwrite => rwa [if_pos hwrite] at hclient
    next hclientless =>
      rw [if_neg hclientless] at hclient
      obtain ⟨hsrc, hdest, hreplied⟩ := hclient
      exact ⟨hsrc, hdest, hreplied.congr houts⟩

/-! #### The commands -/

section
variable {s : State} {p : Packet} {us : List HopUpset} {finds : TargetFinds} {b : Bool} {r : Received}
  (hexec : exec (.packetDelivery p ⟨us, finds, b⟩) s = .next (accept (ejected s p us r b) r.pkt finds))
include hexec

/-- A request that is taken (R241, R242). -/
theorem request_delivered (hq : r.pkt.type.toNat < 2) (hexists : nodeExists s r.pkt.dest.toNat = true)
    (hseen : seenBefore s r.pkt = false) (hopen : netIsolated s r.pkt.dest.toNat = false)
    (hholds : netHolds s r.pkt.dest.toNat = false) : Answers (.packetDelivery p ⟨us, finds, b⟩) s (fun t =>
      seenBefore t r.pkt = true ∧ Served s t r.pkt finds ∧ (p.type.toNat ≠ 3 → stored t p = true)) := by
  have hw := carried_ejected s p us r b
  have hdelivers := accept_delivers (finds := finds) hw hexists hseen hopen (by rw [hholds, Bool.false_and])
  have hkept := stored_ejected s (p := p) us r b
  rw [hdelivers] at hexec
  generalize ejected s p us r b = w at hexec hw hkept
  obtain ⟨hnoted, hstore, hserved⟩ := deliver_request_answers w hq finds
  refine ⟨_, hexec, ?_⟩
  exact ⟨hnoted, hserved.congr hw.sameTargets, fun hp => (stored_congr hstore p).trans (hkept hp)⟩

/-- A request that was delivered before (R250). -/
theorem request_again (hexists : nodeExists s r.pkt.dest.toNat = true) (hseen : seenBefore s r.pkt = true) :
    let u := sent s p us b
    (r.pkt ∈ u.net.opened → Answers (.packetDelivery p ⟨us, finds, b⟩) s (fun t => t.outs = s.outs)) ∧
    (r.pkt ∉ u.net.opened → ∀ e, u.net.store.find? (fun e => answers e.pkt r.pkt) = some e →
      Answers (.packetDelivery p ⟨us, finds, b⟩) s (fun t => t.outs = s.outs ++ [.packet e.pkt (packetCrc e.pkt)])) ∧
    (r.pkt ∉ u.net.opened → u.net.store.find? (fun e => answers e.pkt r.pkt) = none → r.pkt.type.toNat = 1 →
      Answers (.packetDelivery p ⟨us, finds, b⟩) s (fun t =>
        Replied s t r.pkt 3 0 [] ∧ (p.type.toNat ≠ 3 → stored t p = true))) := by
  have hw := carried_ejected s p us r b
  have hnet := (passed_ejected s p us r b).net
  rw [accept_again_acknowledges hw hexists hseen] at hexec
  dsimp only
  rw [← hnet]
  refine ⟨fun hopened => ⟨_, hexec, ?_⟩, fun hopened e he => ⟨_, hexec, ?_⟩, fun hopened he hwrite => ⟨_, hexec, ?_⟩⟩ <;>
    beta_reduce
  · rw [acknowledgeAgain_open hopened, hw.outs]
  · rw [acknowledgeAgain_stored hopened he, emit_outs, hw.outs]
  · rw [acknowledgeAgain_write hopened he hwrite]
    have hkept := stored_congr (congrArg Net.store (answer_net (ejected s p us r b) r.pkt 3 0)) p
    exact ⟨(replied_answerWith _ r.pkt 3 0 []).congr hw.outs, fun hp => hkept.trans (stored_ejected s us r b hp)⟩

/-- A response that reaches the source of what it acknowledges (R250). -/
theorem response_delivered (hresponse : isResponse r.pkt = true) (hexists : nodeExists s r.pkt.dest.toNat = true)
    (hseen : seenBefore s r.pkt = false) (hopen : netIsolated s r.pkt.dest.toNat = false) :
    Answers (.packetDelivery p ⟨us, finds, b⟩) s (fun t => (∀ e ∈ t.net.store, answers r.pkt e.pkt = false) ∧
      if r.pkt.type.toNat = 3 then t.outs = s.outs else Replied s t r.pkt 3 0 []) := by
  have hw := carried_ejected s p us r b
  have hrequest : isRequest r.pkt = false := by
    simp only [isResponse, Bool.and_eq_true, decide_eq_true_eq] at hresponse
    simp only [isRequest, decide_eq_false_iff_not]
    omega
  obtain ⟨hretired, hacknowledged⟩ := deliver_response (ejected s p us r b) hresponse finds
  refine ⟨_, hexec, ?_⟩
  rw [accept_delivers hw hexists hseen hopen (by rw [hrequest, Bool.and_false])]
  refine ⟨hretired, ?_⟩
  split
  next hack =>
    rw [if_pos hack] at hacknowledged
    exact hacknowledged.trans hw.outs
  next hdata =>
    rw [if_neg hdata] at hacknowledged
    exact hacknowledged.congr hw.outs

end

/-- A node that closes, quiet or not in its time (R253, R507). -/
theorem quiesce_acts (s : State) (g : Fin 86) :
    let f := fun (x : Fld) => gateFld x g
    let s' := drainGate s g
    (getB s (f F.CLK_GATE_CTRL_CLOSING) = true →
      (gateQuiet s' g = true → Answers (.quiesceReport g) s (fun t => getB t (f F.CLK_GATE_CTRL_OPEN) = false ∧
        getB t (f F.CLK_GATE_CTRL_CLOSING) = false ∧ Refused s' t (heldFor s g) ∧ heldFor t g = [])) ∧
      (gateQuiet s' g = false → exec (.quiesceReport g) s = .next s')) ∧
    (getB s (f F.CLK_GATE_CTRL_CLOSING) = false → Answers (.quiesceReport g) s (fun t => t = s) ∧
      Answers (.quiesceTimeout g) s (fun t => t = s)) ∧
    (getB s (f F.CLK_GATE_CTRL_CLOSING) = true → getB s (f F.CLK_GATE_CTRL_FORCE) = true →
      Answers (.quiesceTimeout g) s (fun t => getB t (f F.CLK_GATE_CTRL_ISOLATED) = true ∧
        getB t (f F.CLK_GATE_CTRL_OPEN) = false ∧ getF t F.NET_ISO_LAST_NODE = nodeOfGate g ∧
        Refused s t (openFor s g ++ heldFor s g) ∧ heldFor t g = [] ∧ openFor t g = [])) ∧
    (getB s (f F.CLK_GATE_CTRL_CLOSING) = true → getB s (f F.CLK_GATE_CTRL_FORCE) = false →
      Answers (.quiesceTimeout g) s (fun t => getB t F.CLK_STATUS_QUIESCE_TIMEOUT = true ∧
        getB t (f F.CLK_GATE_CTRL_CLOSING) = false ∧ heldFor t g = [] ∧
        getB t (f F.CLK_GATE_CTRL_OPEN) = getB s (f F.CLK_GATE_CTRL_OPEN))) := by
  dsimp only
  refine ⟨fun hclosing => ⟨fun hquiet => ⟨_, exec_quiesceReport_quiet hclosing hquiet, ?_⟩,
      exec_quiesceReport_busy hclosing⟩,
    fun hidle => ⟨⟨_, (exec_quiesce_idle hidle).1, rfl⟩, _, (exec_quiesce_idle hidle).2, rfl⟩,
    fun hclosing hforce => ⟨_, exec_quiesceTimeout_forced hclosing hforce, forceGate_answers s g⟩,
    fun hclosing hforce => ⟨_, exec_quiesceTimeout_withdrawn hclosing hforce, withdrawn_answers s g⟩⟩
  obtain ⟨hopen, hclosed, hrefused, hnone, -, -⟩ := closeGate_answers (drainGate s g) g
  have hheld : heldFor (drainGate s g) g = heldFor s g := by rw [heldFor, drainGate_net, heldFor]
  rw [hheld] at hrefused
  exact ⟨hopen, hclosed, hrefused, hnone⟩

/-- Settles O39, by the way of a packet, the packets that wait for an acknowledgement, the closing gates and the trace ring. -/
theorem networkCommandsAct : Obligations.NetworkCommandsAct := by
  unfold Obligations.NetworkCommandsAct
  intro s
  refine ⟨fun p us finds b => ⟨exec_packetDelivery_refused, fun htakes hroom => ?_⟩,
    fun src tag e b he => ⟨packetResend_again he b, packetResend_givesUp he b⟩, quiesce_acts s,
    fun v => ⟨fun hv => ?_, fun hv hen => ?_⟩⟩
  · have hexec := exec_packetDelivery (us := us) (finds := finds) (b := b) htakes hroom
    refine ⟨fun hlost => ⟨_, hexec, arriveAt_discards hlost⟩, fun r hr hgood hq => ?_,
      fun r hr hgood hresponse hexists hseen hopen => ?_⟩
    · rw [arriveAt_accepts hr hgood] at hexec
      have hw := carried_ejected s p us r b
      have hstored := stored_ejected s (p := p) us r b
      have hkept : ∀ t : State, t.net = (ejected s p us r b).net → p.type.toNat ≠ 3 → stored t p = true := fun t ht hp =>
        (stored_congr (congrArg Net.store ht) p).trans (hstored hp)
      have hrequest : isRequest r.pkt = true := decide_eq_true hq
      refine ⟨fun hnone => ⟨_, hexec, ?_⟩, fun hexists hseen hiso => ⟨_, hexec, ?_⟩, fun htaken hholds hnew => ⟨_, hexec, ?_⟩,
        fun htaken hholds => ?_, fun hexists hseen => request_again hexec hexists hseen⟩
      · obtain ⟨hreplied, hnet⟩ := accept_nowhere_replies hw hnone (finds := finds)
        exact ⟨hreplied, hkept _ hnet⟩
      · obtain ⟨hreplied, hnet⟩ := accept_isolated_replies hw hexists hseen hiso hrequest (finds := finds)
        exact ⟨⟨hreplied, hkept _ hnet⟩, (congrArg Net.seen hnet).trans hw.seen⟩
      · obtain ⟨hexists, hseen, hopen⟩ := htaken
        exact accept_holds hw hexists hseen hopen hholds hrequest hnew
      · obtain ⟨hexists, hseen, hopen⟩ := htaken
        obtain ⟨t, ht, hnoted, hserved, hsource⟩ := request_delivered hexec hq hexists hseen hopen hholds
        have hreplies := hserved.mono
          (reply' := fun ty st bs => Replied s t r.pkt ty st bs ∧ (p.type.toNat ≠ 3 → stored t p = true))
          (fun _ _ _ hreplied => ⟨hreplied, hsource⟩) id
        refine ⟨t, ht, hnoted, ?_⟩
        cases finds with
        | served e => exact hreplies
        | denied => exact hreplies
        | timeout => exact hreplies
        | later => exact hreplies
    · rw [arriveAt_accepts hr hgood] at hexec
      exact response_delivered hexec hresponse hexists hseen hopen
  · exact ⟨_, rfl, netTraceWrite_clears s (by rwa [BitVec.testBit_toNat])⟩
  · obtain ⟨hon, hwrap, hreject, hframe⟩ := netTraceWrite_enables (v := v.toNat) (by rwa [BitVec.testBit_toNat]) hen
    exact ⟨_, rfl, hon, hwrap.trans (BitVec.testBit_toNat v), hreject, hframe⟩

end Sys2Proof.Machine
end

section
/-! ### How loads close -/

namespace Sys2Proof.Machine

theorem FieldsBut.mono {s t : State} {fs gs : List Fld} (h : FieldsBut s t fs) (hsub : fs ⊆ gs) : FieldsBut s t gs :=
  fun f hf => h f fun g hg => hf g (hsub hg)

theorem FieldsBut.bit {s t : State} {fs : List Fld} (h : FieldsBut s t fs) {f : Fld} (hf : ∀ g ∈ fs, f.key ≠ g.key) :
    getB t f = getB s f := by
  rw [getB, h f hf, getB]

/-! #### What is reported -/

/-- A completion leaves the loader, and counts in one field where its session takes none. -/
theorem complete_leaves (s : State) (d : Desc) (status result : Nat) : (complete s d status result).ldr = s.ldr ∧
    FieldsBut s (complete s d status result) [F.HST_STALE_CPL_COMPLETIONS] := by
  unfold complete
  dsimp only
  split
  · exact ⟨rfl, fun f hf => getF_bumpF_other _ (hf _ (by simp)) _⟩
  split
  · exact ⟨rfl, fun _ _ => rfl⟩
  · rw [postCompletion_frame]
    exact ⟨rfl, fun _ _ => rfl⟩

/-- The fields in which a load that closes shows. -/
abbrev closingFields : List Fld := [F.LDR_STATUS_PATH, F.LDR_STATUS_PHASE, F.LDR_STATUS_REGION, F.LDR_STATUS_PARTIAL,
  F.LDR_RESULT_CODE, F.LDR_RESULT_PATH, F.LDR_RESULT_SEGMENT, F.HST_STALE_CPL_COMPLETIONS]

/-- `t` is `s` after a load has closed with a code: the loader itself is as it was. -/
structure LoadCloses (s t : State) (code : Nat) : Prop where
  ldr : t.ldr = s.ldr
  fields : FieldsBut s t closingFields
  result : getF t F.LDR_RESULT_CODE = code

/-- LDR_RESULT with the code, path and segment of a load. -/
def resultShown (s : State) (path code seg : Nat) : State :=
  setF (setF (setF s F.LDR_RESULT_CODE code) F.LDR_RESULT_PATH path) F.LDR_RESULT_SEGMENT seg

theorem resultShown_closes (s : State) (path seg : Nat) {code : Nat} (hcode : code < 256) :
    LoadCloses s (resultShown s path code seg) code where
  ldr := rfl
  fields := ((FieldsBut.refl s _).setF (by simp) _ |>.setF (by simp) _).setF (by simp) _
  result := by
    rw [resultShown, getF_setF_other _ (by decide), getF_setF_other _ (by decide), getF_setF_same]
    exact Nat.mod_eq_of_lt hcode

theorem LoadCloses.complete {s t : State} {code : Nat} (h : LoadCloses s t code) (d : Desc) (status result : Nat) :
    LoadCloses s (complete t d status result) code := by
  obtain ⟨hldr, hfields⟩ := complete_leaves t d status result
  exact ⟨hldr.trans h.ldr, h.fields.trans (hfields.mono (by simp)), (hfields _ (by decide)).trans h.result⟩

theorem reportLoad_closes (s : State) (path : Nat) (desc : Option Desc) (seg : Nat) {code : Nat} (hcode : code < 256) :
    LoadCloses s (reportLoad s path desc code seg) code := by
  cases desc with
  | none => exact resultShown_closes s path seg hcode
  | some d => exact (resultShown_closes s path seg hcode).complete d _ _

/-- LDR_STATUS with no load under way. -/
def statusIdle (s : State) : State :=
  setB (setF (setF (setF s F.LDR_STATUS_PATH 0) F.LDR_STATUS_PHASE 0) F.LDR_STATUS_REGION 0) F.LDR_STATUS_PARTIAL false

/-- The load closed and reported; what the self-load makes of it is yet to come. -/
def loadClosed (s : State) (path : Nat) (desc : Option Desc) (code seg : Nat) : State :=
  reportLoad (statusIdle s) path desc code seg

theorem loadClosed_closes (s : State) (path : Nat) (desc : Option Desc) (seg : Nat) {code : Nat} (hcode : code < 256) :
    LoadCloses s (loadClosed s path desc code seg) code := by
  have h := reportLoad_closes (statusIdle s) path desc seg hcode
  have hidle : FieldsBut s (statusIdle s) closingFields :=
    (((FieldsBut.refl s _).setF (by simp) _ |>.setF (by simp) _).setF (by simp) _).setF (by simp) _
  exact ⟨h.ldr, hidle.trans h.fields, h.result⟩

theorem closeLoad_eq (s : State) (path : Nat) (desc : Option Desc) (code seg : Nat) :
    closeLoad s path desc code seg = selfLoadEnds (loadClosed s path desc code seg) path code := rfl

/-- Only a QSPI load can be part of a self-load (R261). -/
theorem closeLoad_of_ne {path : Nat} (hpath : path ≠ 3) (s : State) (desc : Option Desc) (code seg : Nat) :
    closeLoad s path desc code seg = loadClosed s path desc code seg := by
  rw [closeLoad_eq, selfLoadEnds, if_pos (.inl hpath)]

/-! #### Streams -/

/-- The open stream is gone; an aborted partial stream is counted for its region. -/
def streamDropped (s : State) (x : LdStream) (code : Nat) : State :=
  let t := onLdr s (fun h => { h with stream := none, staging := [], todo := h.todo.filter (fun c => c.2 ≠ .commit) })
  match x.isPartial, x.region with
  | true, some n => if code = 0 then t else bumpF t (F.LDR_REGION_ABORTS n) 1
  | _, _ => t

theorem endStream_eq (s : State) (x : LdStream) (code seg : Nat) :
    endStream s x code seg = closeLoad (streamDropped s x code) x.path x.desc code seg := rfl

theorem streamDropped_ldr (s : State) (x : LdStream) (code : Nat) : (streamDropped s x code).ldr =
    { s.ldr with stream := none, staging := [], todo := s.ldr.todo.filter (fun c => c.2 ≠ .commit) } := by
  unfold streamDropped
  dsimp only
  split
  · split <;> rfl
  · rfl

/-- Fields of the loader below those of the regions do not count what is aborted. -/
theorem getF_streamDropped (s : State) (x : LdStream) (code : Nat) {f : Fld} (hf : f.key < (F.LDR_REGION_STATE 0).key) :
    getF (streamDropped s x code) f = getF s f := by
  unfold streamDropped
  dsimp only
  split
  next n _ _ =>
    split
    · rfl
    · refine getF_bumpF_other _ ?_ _
      simp only [Fld.key, F.LDR_REGION_STATE, F.LDR_REGION_ABORTS] at hf ⊢
      omega
  · rfl

/-- A stream that ends well, or a full one, counts for no region. -/
theorem streamDropped_regs {s : State} {x : LdStream} {code : Nat} (h : code = 0 ∨ x.isPartial = false) :
    (streamDropped s x code).regs = s.regs := by
  unfold streamDropped
  dsimp only
  split
  next hpartial hregion =>
    rw [if_pos (h.resolve_right (by simp [hpartial]))]
    rfl
  · rfl

section
variable {s : State} {x : LdStream} (hpath : x.path ≠ 3)
include hpath

theorem endStream_closes {code : Nat} (hcode : code < 256) (seg : Nat) :
    LoadCloses (streamDropped s x code) (endStream s x code seg) code := by
  rw [endStream_eq, closeLoad_of_ne hpath]
  exact loadClosed_closes _ _ _ _ hcode

theorem loadEnded_endStream {code : Nat} (hcode : code < 256) (seg : Nat) : LoadEnded (endStream s x code seg) code := by
  have h := endStream_closes (s := s) hpath hcode seg
  exact ⟨by rw [h.ldr, streamDropped_ldr], h.result⟩

end

/-! #### Loads past their COMMIT -/

section
variable {s : State} {i : LdInstall} (hpath : i.path ≠ 3)
include hpath

theorem endInstall_closes {code : Nat} (hcode : code < 256) :
    LoadCloses (onLdr s (fun h => { h with install := none, staging := [] })) (endInstall s i code) code := by
  rw [endInstall, closeLoad_of_ne hpath]
  exact loadClosed_closes _ _ _ _ hcode

theorem loadEnded_endInstall (hstream : s.ldr.stream = none) {code : Nat} (hcode : code < 256) :
    LoadEnded (endInstall s i code) code ∧ (endInstall s i code).ldr.install = none := by
  have h := endInstall_closes (s := s) hpath hcode
  exact ⟨⟨by rw [h.ldr]; exact hstream, h.result⟩, by rw [h.ldr]; rfl⟩

end

end Sys2Proof.Machine
end

section
/-! ### Segments and commands on a load stream -/

namespace Sys2Proof.Machine

/-! #### Bytes of a memory -/

theorem SMap.find_filter {β : Type} (m : SMap β) (p : Nat → Bool) (a : Nat) :
    SMap.find (m.filter (fun e => p e.1)) a = if p a then SMap.find m a else none := by
  induction m with
  | nil => simp [SMap.find]
  | cons e m ih =>
    obtain ⟨k, v⟩ := e
    by_cases hk : k = a
    · subst hk
      cases hp : p k <;> simp [SMap.find, hp, ih]
    · cases hp : p k <;> simp [SMap.find, hp, hk, ih]

theorem read_clear (fill : Nat → Byte) (m : Memory) (a n x : Nat) : Memory.read fill (Memory.clear m a n) x =
    if a ≤ x ∧ x < a + n then fill x else Memory.read fill m x := by
  have hfilter := SMap.find_filter m (fun k => decide (¬(a ≤ k ∧ k < a + n))) x
  rw [Memory.read, SMap.get, Memory.clear, hfilter, Memory.read, SMap.get]
  by_cases hx : a ≤ x ∧ x < a + n <;> simp [hx]

theorem writeBytes_eq_writeEnabled (fill : Nat → Byte) (m : Memory) (a : Nat) (bs : List Byte) :
    Memory.writeBytes fill m a bs = Memory.writeEnabled fill m a (bs.map some) := by
  induction bs generalizing m a with
  | nil => rfl
  | cons b bs ih => exact ih _ _

/-- A frame stored reads as its data, and every byte outside it as before. -/
theorem read_putFrame {data : List Byte} (hlen : data.length = 4096) (m : Memory) (a x : Nat) :
    Memory.read zeroFill (putFrame m a data) x =
      if a ≤ x ∧ x < a + 4096 then data.getD (x - a) 0 else Memory.read zeroFill m x := by
  rw [putFrame, List.take_of_length_le hlen.le, writeBytes_eq_writeEnabled, read_writeEnabled, read_clear]
  by_cases hlow : a ≤ x
  · by_cases hhigh : x < a + 4096
    · have hin : x - a < data.length := by omega
      simp [hlow, hhigh, List.getD, hin]
    · have hout : data.length ≤ x - a := by omega
      simp [hlow, hhigh, List.getD, hout]
  · simp [hlow]

theorem read_putFrame_in {data : List Byte} (hlen : data.length = 4096) (m : Memory) (a : Nat) (i : Fin 4096) :
    Memory.read zeroFill (putFrame m a data) (a + i) = data.getD i 0 := by
  rw [read_putFrame hlen, if_pos (by omega), Nat.add_sub_cancel_left]

theorem read_putFrame_out {data : List Byte} (hlen : data.length = 4096) (m : Memory) {a x : Nat}
    (hout : x < a ∨ a + 4096 ≤ x) : Memory.read zeroFill (putFrame m a data) x = Memory.read zeroFill m x := by
  rw [read_putFrame hlen, if_neg (by omega)]

theorem stageWrite_frame {data : List Byte} (hlen : data.length = 4096) (m : Memory) (addr : Nat) :
    stageWrite' m ⟨addr, 1, data⟩ = putFrame m (4096 * addr) data := by
  have hne : data ≠ [] := by
    rintro rfl
    simp at hlen
  rw [stageWrite', if_neg hne]

theorem stageWrite_zeros (m : Memory) (addr n : Nat) :
    stageWrite' m ⟨addr, n, []⟩ = Memory.clear m (4096 * addr) (4096 * n) := if_pos rfl

/-! #### The staging area's size -/

/-- The fields of the loader stand below those of the HBM's windows. -/
abbrev BelowWindows (f : Fld) : Prop := f.key < (F.HBM_WIN_CTRL_OWNER 0).key

theorem stageUnits_congr {s t : State} (h : ∀ w, ∀ f ∈ [F.HBM_WIN_CTRL_EN w, F.HBM_WIN_CTRL_OWNER w, F.HBM_WIN_SIZE_SIZE w],
    getF t f = getF s f) : stageUnits t = stageUnits s := by
  simp only [List.forall_mem_cons, List.not_mem_nil, false_imp_iff, implies_true, and_true] at h
  have howned : ∀ w, winOwned t w 4 = winOwned s w 4 := fun w => by
    obtain ⟨hen, howner, -⟩ := h w
    rw [winOwned, getB, hen, howner, winOwned, getB]
  have hwindow : imageWindow t = imageWindow s := by simp only [imageWindow, howned]
  rw [stageUnits, hwindow, stageUnits]
  cases imageWindow s with
  | none => rfl
  | some w => exact (h w).2.2

theorem windowFields_ne {f : Fld} (hf : BelowWindows f) (w : Nat) :
    ∀ g ∈ [F.HBM_WIN_CTRL_EN w, F.HBM_WIN_CTRL_OWNER w, F.HBM_WIN_SIZE_SIZE w], g.key ≠ f.key := by
  simp only [BelowWindows, List.forall_mem_cons, List.not_mem_nil, false_imp_iff, implies_true, and_true, Fld.key,
    F.HBM_WIN_CTRL_EN, F.HBM_WIN_CTRL_OWNER, F.HBM_WIN_SIZE_SIZE] at hf ⊢
  omega

theorem FieldsBut.stageUnits {s t : State} {fs : List Fld} (h : FieldsBut s t fs) (hfs : ∀ f ∈ fs, BelowWindows f) :
    stageUnits t = stageUnits s :=
  stageUnits_congr fun w g hg => h g fun f hf => windowFields_ne (hfs f hf) w g hg

/-! #### LDR_STATUS and the count of segments -/

/-- What the loader shows of a stream that it takes commands of. -/
abbrev streamFieldsShown : List Fld := [F.LDR_STATUS_PARTIAL, F.LDR_STATUS_REGION, F.LDR_SEGMENTS_COUNT]

theorem onlyFields_showStream (s : State) (x : LdStream) : OnlyFields s (showStream s x) streamFieldsShown :=
  ((OnlyFields.refl s _).setF (by simp) _).setF (by simp) _

/-- The state in which commands that have passed their checks take effect. -/
def commandsShown (s : State) (x : LdStream) (pass : Nat) : State :=
  setF (showStream s x) F.LDR_SEGMENTS_COUNT (getF (showStream s x) F.LDR_SEGMENTS_COUNT + pass)

theorem onlyFields_commandsShown (s : State) (x : LdStream) (pass : Nat) :
    OnlyFields s (commandsShown s x pass) streamFieldsShown := (onlyFields_showStream s x).setF (by simp) _

/-! #### Commands of a full stream (R272 to R274) -/

/-- Check 6 of a full stream looks at nothing but the staging area's size (R270). -/
theorem outsideTarget_full {s t : State} {x y : LdStream} (hx : x.isPartial = false) (hy : y.isPartial = false)
    (hunits : stageUnits t = stageUnits s) (ws : List FrameWrite) : outsideTarget t y ws = outsideTarget s x ws := by
  simp [outsideTarget, hx, hy, hunits]

/-- Its code is LS_TOO_LARGE. -/
theorem code_outsideTarget_full {s : State} {x : LdStream} (hx : x.isPartial = false) {ws : List FrameWrite} {e : Nat × Nat}
    (h : outsideTarget s x ws = some e) : e.1 = lsTooLarge := by
  simp only [outsideTarget, hx, Bool.false_eq_true, if_false] at h
  obtain ⟨w, -, hw⟩ := List.exists_of_findSome?_eq_some h
  split at hw
  · exact (congrArg Prod.fst (Option.some.inj hw)).symm
  · exact absurd hw (by simp)

theorem outsideTarget_one {s : State} {x : LdStream} (hx : x.isPartial = false) (w : FrameWrite) : outsideTarget s x [w] =
    if stageUnits s * 16 < w.addr + w.count then some (lsTooLarge, max w.addr (stageUnits s * 16)) else none := by
  simp only [outsideTarget, hx, Bool.false_eq_true, if_false, List.findSome?_cons, List.findSome?_nil]
  split <;> simp_all

section
variable {s : State} {x : LdStream} {cs : List LdCmd} (hpartial : x.isPartial = false) (hregion : noteRegion x cs = x)
include hpartial hregion

/-- Commands that name a frame beyond the staging area. -/
theorem takeCmds_outside {e : Nat × Nat} (hout : outsideTarget s x (listWrites (x.frame.getD []) cs) = some e)
    (seg pass : Nat) : takeCmds s x cs seg pass = setF (endStream (showStream s x) x e.1 seg) F.LDR_FAIL_ADDR_ADDR e.2 := by
  have hunits := (onlyFields_showStream s x).1.stageUnits (by decide)
  rw [← outsideTarget_full hpartial hpartial hunits] at hout
  unfold takeCmds
  dsimp only
  rw [hregion, frameFailure, hout]

/-- Commands that lie within the staging area. -/
theorem takeCmds_within (hout : outsideTarget s x (listWrites (x.frame.getD []) cs) = none) (seg pass : Nat) :
    takeCmds s x cs seg pass = actFull (commandsShown s x pass) x cs := by
  have hunits := (onlyFields_showStream s x).1.stageUnits (by decide)
  rw [← outsideTarget_full hpartial hpartial hunits] at hout
  unfold takeCmds
  dsimp only
  rw [hregion, frameFailure, hout]
  simp only [hpartial, Bool.false_eq_true, if_false]
  rfl

end

/-- The last frame after commands (R273). -/
def lastFrame (frame : Option (List Byte)) (cs : List LdCmd) : Option (List Byte) :=
  cs.foldl (fun f c => match c with | .write _ d => some d | _ => f) frame

/-- The stream after commands have taken effect. -/
def withCommands (x : LdStream) (cs : List LdCmd) : LdStream :=
  { x with
    covered := ((listWrites (x.frame.getD []) cs).map (fun w => (w.addr, w.count))) ++ x.covered
    frame := lastFrame x.frame cs }

/-- The staging area after the writes of commands. -/
def staged (s : State) (x : LdStream) (cs : List LdCmd) : State :=
  onLdr s (fun h => { h with
    stream := some (withCommands x cs), staging := (listWrites (x.frame.getD []) cs).foldl stageWrite' h.staging })

theorem actFull_eq (s : State) (x : LdStream) (cs : List LdCmd) : actFull s x cs =
    if cs.getLast? = some .commit then commitFull (staged s x cs) (withCommands x cs) else staged s x cs := rfl

/-- Commands that begin with no SET_REGION name no region. -/
theorem noteRegion_of_head {cs : List LdCmd} (h : cs.head?.elim false LdCmd.isRegion = false) (x : LdStream) :
    noteRegion x cs = x := by
  unfold noteRegion
  split
  · exact absurd h (by simp [LdCmd.isRegion])
  · rfl

/-- A command on the open stream that fits and stands where it may. -/
theorem streamCmd_takes {s : State} {x : LdStream} {c : LdCmd} (hstream : s.ldr.stream = some x) (hlast : x.last = false)
    (hfits : cmdFits c = true) (hrepeat : c.isRepeat = true → x.frame.isSome = true) (hregion : c.isRegion = false)
    (hcommit : c ≠ .commit) : streamCmd s c = takeCmds s x [c] x.position 0 := by
  have hplace : (c.isRepeat && x.frame.isNone) = false := by
    cases hc : c.isRepeat
    · rfl
    · rw [Option.isNone_eq_false_iff.2 (hrepeat hc)]
      rfl
  simp [streamCmd, hstream, hlast, hfits, hplace, hregion, hcommit]

end Sys2Proof.Machine
end

section
/-! ### Load streams: segments and frames -/

namespace Sys2Proof.Machine

/-! #### One command of a full stream (R272 to R274) -/

section
variable {s : State} {x : LdStream} {c : LdCmd} (hstream : s.ldr.stream = some x) (hpartial : x.isPartial = false)
  (hlast : x.last = false) (hfits : cmdFits c = true) (hrepeat : c.isRepeat = true → x.frame.isSome = true)
  (hregion : c.isRegion = false) (hcommit : c ≠ .commit)
include hstream hpartial hlast hfits hrepeat hregion hcommit

/-- The command writes within the staging area. -/
theorem streamCmd_stages (hin : outsideTarget s x (cmdWrites (x.frame.getD []) c) = none) :
    (streamCmd s c).ldr = { s.ldr with
      stream := some (withCommands x [c]), staging := (cmdWrites (x.frame.getD []) c).foldl stageWrite' s.ldr.staging } := by
  have hwrites : listWrites (x.frame.getD []) [c] = cmdWrites (x.frame.getD []) c := List.append_nil _
  have hnote : noteRegion x [c] = x := noteRegion_of_head (cs := [c]) hregion x
  rw [streamCmd_takes hstream hlast hfits hrepeat hregion hcommit,
    takeCmds_within hpartial hnote (by rw [hwrites]; exact hin), actFull_eq, if_neg (by simpa using hcommit)]
  simp only [staged, onLdr_ldr, hwrites]
  rfl

/-- It names a frame beyond the staging area. -/
theorem streamCmd_tooLarge (hpath : x.path ≠ 3) {a : Nat}
    (hout : outsideTarget s x (cmdWrites (x.frame.getD []) c) = some (lsTooLarge, a)) (ha : a < 2 ^ 32) :
    LoadEnded (streamCmd s c) lsTooLarge ∧ getF (streamCmd s c) F.LDR_FAIL_ADDR_ADDR = a := by
  have hwrites : listWrites (x.frame.getD []) [c] = cmdWrites (x.frame.getD []) c := List.append_nil _
  have hnote : noteRegion x [c] = x := noteRegion_of_head (cs := [c]) hregion x
  rw [streamCmd_takes hstream hlast hfits hrepeat hregion hcommit,
    takeCmds_outside hpartial hnote (by rw [hwrites]; exact hout)]
  obtain ⟨hgone, hcode⟩ := loadEnded_endStream (s := showStream s x) hpath (code := lsTooLarge) (by decide) x.position
  refine ⟨⟨hgone, (getF_setF_other _ (by decide) _).trans hcode⟩, ?_⟩
  rw [getF_setF_same]
  exact Nat.mod_eq_of_lt ha

end

/-- A command whose COUNT, ARG or bytes are out of range (R272). -/
theorem streamCmd_unfit {s : State} {x : LdStream} {c : LdCmd} (hstream : s.ldr.stream = some x) (hlast : x.last = false)
    (hfits : cmdFits c = false) : streamCmd s c = endStream s x lsCommand x.position := by
  simp [streamCmd, hstream, hlast, hfits]

theorem exec_pad {s : State} {x : LdStream} (hstream : s.ldr.stream = some x) (hlast : x.last = false) {n : Word}
    (hmod : n.toNat % 16 = 0) (hle : n.toNat ≤ 65520) :
    exec (.pad n (List.replicate n.toNat 0)) s = .next (takeCmds s x [.pad] x.position 0) := by
  show execPad n _ s = _
  simp [execPad, hstream, hlast, hmod, Nat.not_lt.2 hle]

/-- Settles O27: what each command writes lies within the staging area, or names the first frame beyond it. -/
theorem frameCommandsFillTheStagingArea : Obligations.FrameCommandsFillTheStagingArea := by
  unfold Obligations.FrameCommandsFillTheStagingArea
  intro s x addr at_ base outside hstream hpartial hlast hpath
  have hwithin : ∀ w : FrameWrite, w.addr + w.count ≤ stageUnits s * 16 → outsideTarget s x [w] = none := fun w hw => by
    rw [outsideTarget_one hpartial, if_neg (Nat.not_lt.2 hw)]
  have hframe : ∀ (t : State) {data : List Byte}, data.length = 4096 →
      t.ldr.staging = putFrame s.ldr.staging base data →
      (∀ i : Fin 4096, at_ t (base + i) = data.getD i 0) ∧ ∀ a, outside 1 a → at_ t a = at_ s a := fun t data hlen ht => by
    simp only [at_, ht]
    exact ⟨read_putFrame_in hlen _ base, fun a ha => read_putFrame_out hlen _ ha⟩
  refine ⟨fun data hlen hin => ?write, fun frame hlastFrame hlen hin => ?repeated, fun n hn hin => ?zeros,
    fun n hmod hle => ?pad, ?noFrame, fun data hlen hout => ?beyond⟩
  case write =>
    have hldr := streamCmd_stages (c := .write addr.toNat data) hstream hpartial hlast (by simp [cmdFits, hlen]) nofun rfl
      nofun (hwithin ⟨_, _, _⟩ hin)
    obtain ⟨hbytes, hrest⟩ := hframe (streamCmd s (.write addr.toNat data)) hlen
      (by rw [hldr]; exact stageWrite_frame hlen _ _)
    exact ⟨_, rfl, hbytes, hrest, withCommands x [.write addr.toNat data], by rw [hldr], rfl⟩
  case repeated =>
    have hwrites : cmdWrites (x.frame.getD []) (.repeatTo [addr.toNat]) = [⟨addr.toNat, 1, frame⟩] := by
      rw [hlastFrame]
      rfl
    have hldr := streamCmd_stages (c := .repeatTo [addr.toNat]) hstream hpartial hlast rfl
      (fun _ => by rw [hlastFrame]; rfl) rfl nofun (by rw [hwrites]; exact hwithin ⟨_, _, _⟩ hin)
    rw [hwrites] at hldr
    exact ⟨_, rfl, hframe (streamCmd s (.repeatTo [addr.toNat])) hlen (by rw [hldr]; exact stageWrite_frame hlen _ _)⟩
  case zeros =>
    have hne : n.toNat ≠ 0 := fun h => hn (BitVec.eq_of_toNat_eq h)
    have hldr := streamCmd_stages (c := .zero addr.toNat n.toNat) hstream hpartial hlast
      (by simpa [cmdFits] using hne) nofun rfl nofun (hwithin ⟨_, _, _⟩ hin)
    have hstaging : (streamCmd s (.zero addr.toNat n.toNat)).ldr.staging =
        Memory.clear s.ldr.staging base (4096 * n.toNat) := by
      rw [hldr]
      exact stageWrite_zeros _ _ _
    refine ⟨_, rfl, fun a => ?_⟩
    simp only [at_, outside, hstaging, read_clear]
    by_cases ha : base ≤ a ∧ a < base + 4096 * n.toNat
    · rw [if_pos ha, if_neg (by omega)]
      rfl
    · rw [if_neg ha, if_pos (by omega)]
  case pad =>
    have hin : outsideTarget s x [] = none := by simp [outsideTarget, hpartial]
    refine ⟨_, exec_pad hstream hlast hmod hle, ?_⟩
    rw [takeCmds_within hpartial rfl hin]
    exact ⟨rfl, rfl⟩
  case noFrame =>
    refine ⟨_, rfl, ?_⟩
    rw [streamCmd_unfit hstream hlast rfl]
    exact loadEnded_endStream hpath (by decide) _
  case beyond =>
    have hlt : stageUnits s * 16 < addr.toNat + 1 := Nat.lt_succ_of_le hout
    have hbeyond : outsideTarget s x [⟨addr.toNat, 1, data⟩] = some (lsTooLarge, addr.toNat) := by
      rw [outsideTarget_one hpartial, if_pos hlt, Nat.max_eq_left hout]
    exact ⟨_, rfl, streamCmd_tooLarge (c := .write addr.toNat data) hstream hpartial hlast (by simp [cmdFits, hlen]) nofun
      rfl nofun hpath hbeyond addr.isLt⟩

end Sys2Proof.Machine
end

section
/-! ### Segments of a load stream (R270) -/

namespace Sys2Proof.Machine

/-! #### The checks of a segment -/

theorem exec_segment {s : State} {x : LdStream} (hstream : s.ldr.stream = some x) (h ct tag : List Byte) :
    exec (.segment h ct tag) s = .next (takeSegment s x h ct tag) := by
  show execSegment h ct tag s = _
  rw [execSegment, hstream]

section
variable {s : State} {x : LdStream} {h ct tag : List Byte}

theorem notLast_of_inSequence (hseq : inSequence x h = true) : x.last = false := by
  simp only [inSequence, Bool.and_eq_true, Bool.not_eq_true'] at hseq
  exact hseq.1.1

theorem takeSegment_unfit (hfit : headerFits h = false) : takeSegment s x h ct tag = endStream s x lsSegment x.position := by
  rw [takeSegment, if_pos (.inl hfit)]

/-- The stream with one segment more received. -/
def withSegment (x : LdStream) : LdStream := { x with position := x.position + 1 }

/-- What has been opened of a segment, none where authentication fails, in a stream that it does not begin or end. -/
def segmentOpened (s : State) (x : LdStream) : Option (List Byte) → State
  | none => endStream s x lsAuth x.position
  | some plain => match segmentCmds x plain with
    | none => endStream s x lsCommand x.position
    | some cs => takeCmds s (withSegment x) cs x.position 1

variable (hfit : headerFits h = true) (hlen : ct.length = leAt h 12 4) (htag : tag.length = 16)
include hfit hlen htag

theorem takeSegment_outOfSequence (hseq : inSequence x h = false) :
    takeSegment s x h ct tag = endStream s x lsSequence x.position := by
  simp [takeSegment, hfit, hlen, htag, hseq]

/-- A segment in sequence that is neither the first nor the last of its stream is opened with the key that it names. -/
theorem takeSegment_opened (hseq : inSequence x h = true) (hpos : 0 < x.position) (hflags : leAt h 7 1 = 0) {key : Nat}
    (hkey : loadKey s (leAt h 6 1) = some key) :
    takeSegment s x h ct tag = segmentOpened s x (Config.gcmOpen key (slice h 16 12) h ct tag) := by
  have hstays := notLast_of_inSequence hseq
  unfold takeSegment
  dsimp only
  rw [if_neg (by simp [hfit, hlen, htag]), if_neg (by simp [hseq]), if_neg (Nat.ne_of_gt hpos), hflags, hkey,
    Nat.zero_testBit, ← hstays]
  dsimp only
  generalize Config.gcmOpen key (slice h 16 12) h ct tag = opened
  cases opened <;> rfl

end

/-! #### The commands of a segment -/

/-- In a full stream that goes on, no command is a SET_REGION or a COMMIT (R272). -/
theorem segmentCmds_full {x : LdStream} {plain : List Byte} {cs : List LdCmd} (hcmds : segmentCmds x plain = some cs)
    (hpartial : x.isPartial = false) (hlast : x.last = false) :
    cs.head?.elim false LdCmd.isRegion = false ∧ cs.getLast? ≠ some .commit := by
  have hplaces : placesOk x cs = true := by
    unfold segmentCmds at hcmds
    split at hcmds
    · split at hcmds
      next h => exact Option.some.inj hcmds ▸ h
      next => exact absurd hcmds nofun
    · exact absurd hcmds nofun
  simp only [placesOk, hpartial, hlast, Bool.false_and, Bool.and_eq_true, beq_iff_eq, decide_eq_false_iff_not] at hplaces
  obtain ⟨⟨⟨-, hhead⟩, -⟩, hend⟩ := hplaces
  exact ⟨hhead, hend⟩

section
variable {s : State} {x : LdStream} {cs : List LdCmd} (hpartial : x.isPartial = false)
  (hregion : cs.head?.elim false LdCmd.isRegion = false)
include hpartial hregion

/-- Commands of a segment that name a frame beyond the staging area. -/
theorem segmentCmds_outside (hpath : x.path ≠ 3) {e : Nat × Nat}
    (hout : outsideTarget s x (listWrites (x.frame.getD []) cs) = some e) (seg : Nat) :
    LoadEnded (takeCmds s (withSegment x) cs seg 1) e.1 := by
  have hcode : e.1 < 256 := by
    rw [code_outsideTarget_full hpartial hout]
    decide
  rw [takeCmds_outside (x := withSegment x) hpartial (noteRegion_of_head hregion _) hout]
  obtain ⟨hgone, hresult⟩ := loadEnded_endStream (s := showStream s (withSegment x)) (x := withSegment x) hpath hcode seg
  exact ⟨hgone, (getF_setF_other _ (by decide) _).trans hresult⟩

/-- Commands of a segment that lie within it. -/
theorem segmentCmds_staged (hcommit : cs.getLast? ≠ some .commit)
    (hin : outsideTarget s x (listWrites (x.frame.getD []) cs) = none) (seg : Nat) :
    let t := takeCmds s (withSegment x) cs seg 1
    t.ldr.staging = (listWrites (x.frame.getD []) cs).foldl stageWrite' s.ldr.staging ∧
      ∃ y, t.ldr.stream = some y ∧ y.position = x.position + 1 := by
  intro t
  have ht : t = staged (commandsShown s (withSegment x) 1) (withSegment x) cs :=
    (takeCmds_within (x := withSegment x) hpartial (noteRegion_of_head hregion _) hin seg 1).trans (if_neg hcommit)
  rw [ht]
  exact ⟨rfl, _, rfl, rfl⟩

end

/-- Settles O26: the checks in the order of R270, then what the commands of the segment write. -/
theorem segmentIsCheckedThenStaged : Obligations.SegmentIsCheckedThenStaged := by
  unfold Obligations.SegmentIsCheckedThenStaged
  intro s x h ct tag hstream hpath
  refine ⟨fun hfit => ?unfit, fun hfit hlen htag hseq => ?sequence,
    fun hfit hlen htag hseq hpos hpartial hflags key hkey => ?opened⟩
  case unfit =>
    refine ⟨_, exec_segment hstream h ct tag, ?_⟩
    rw [takeSegment_unfit hfit]
    exact loadEnded_endStream hpath (by decide) _
  case sequence =>
    refine ⟨_, exec_segment hstream h ct tag, ?_⟩
    rw [takeSegment_outOfSequence hfit hlen htag hseq]
    exact loadEnded_endStream hpath (by decide) _
  case opened =>
    have hlast := notLast_of_inSequence hseq
    have hstays : { x with last := false } = x := by rw [← hlast]
    refine ⟨_, exec_segment hstream h ct tag, ?_⟩
    rw [takeSegment_opened hfit hlen htag hseq hpos hflags hkey, hstays]
    cases Config.gcmOpen key (slice h 16 12) h ct tag with
    | none => exact loadEnded_endStream hpath (by decide) _
    | some plain =>
      simp only [segmentOpened]
      cases hcmds : segmentCmds x plain with
      | none => exact loadEnded_endStream hpath (by decide) _
      | some cs =>
        obtain ⟨hregion, hcommit⟩ := segmentCmds_full hcmds hpartial hlast
        dsimp only
        cases hout : outsideTarget s x (listWrites (x.frame.getD []) cs) with
        | some e => exact segmentCmds_outside hpartial hregion hpath hout _
        | none => exact segmentCmds_staged hpartial hregion hcommit hout _

end Sys2Proof.Machine
end

section
/-! ### Loads that end early, and the start-up sequence -/

namespace Sys2Proof.Machine

theorem OnlyFields.ldr {s t : State} {fs : List Fld} (h : OnlyFields s t fs) : t.ldr = s.ldr := by rw [h.2]

/-! #### What ends a load before its COMMIT (R271, R278) -/

/-- A write to LDR_CTRL takes TIMEOUT_MS; ABORT reads as 0. -/
theorem plainWrite_ldrCtrl (s : State) (v : Nat) :
    plainWrite s 0x3000C v = setF s F.LDR_CTRL_TIMEOUT_MS (bitsOf v 0 16) := by
  have hfields : fieldsAt 0x3000C = [F.LDR_CTRL_ABORT, F.LDR_CTRL_TIMEOUT_MS] := rfl
  rw [plainWrite, hfields]
  rfl

theorem exec_lsTimeout {s : State} {x : LdStream} (hstream : s.ldr.stream = some x) (hlast : x.last = false)
    (htimeout : getF s F.LDR_CTRL_TIMEOUT_MS ≠ 0) : exec .lsTimeout s = .next (endStream s x lsTimeout noSegment) := by
  show execLsTimeout s = _
  simp [execLsTimeout, loadTimeout, hstream, hlast, htimeout]

theorem exec_abort {s : State} {x : LdStream} (hstream : s.ldr.stream = some x) {v : Word} (hv : v.getLsbD 31 = true) :
    exec (.abort v) s = .next (endStream (plainWrite s 0x3000C v.toNat) x lsCancelled noSegment) := by
  rw [← BitVec.testBit_toNat] at hv
  show execAbort v s = _
  rw [execAbort, ldrCtrlWrite, if_pos hv, breakLoad, (onlyFields_plainWrite s 0x3000C v.toNat).ldr, hstream]

theorem abort_acts {s : State} {x : LdStream} (hstream : s.ldr.stream = some x) (hpath : x.path ≠ 3) {v : Word}
    (hv : v.getLsbD 31 = true) :
    Answers (.abort v) s (fun t => LoadEnded t lsCancelled ∧ getF t F.LDR_CTRL_TIMEOUT_MS = v.toNat % 2 ^ 16) := by
  have hcloses := endStream_closes (s := plainWrite s 0x3000C v.toNat) hpath (code := lsCancelled) (by decide) noSegment
  refine ⟨_, exec_abort hstream hv, loadEnded_endStream hpath (by decide) _, ?_⟩
  rw [hcloses.fields _ (by decide), getF_streamDropped _ _ _ (by decide), plainWrite_ldrCtrl, getF_setF_same]
  simp [bitsOf, F.LDR_CTRL_TIMEOUT_MS]

section
variable {s : State} {i : LdInstall} (hinstall : s.ldr.install = some i) (hwaiting : i.waiting = true)
  (hs : List MachineHeader) (ls : List LinkRecord)
include hinstall hwaiting

theorem exec_machineWaitEnd_disagrees
    (hset : (machineOk s i.image && setAgrees i.ingot (ownHeader i.ingot :: hs) (i.ingot.linkch ++ ls)) = false) :
    exec (.machineWaitEnd hs ls) s = .next (endInstall s i lrMachine) := by
  show execMachineWaitEnd hs ls s = _
  simp [execMachineWaitEnd, machineWaitEnds, hinstall, hwaiting, hset]

/-- The map of the link channels is installed beside the loader. -/
theorem machineWaitEnd_agrees
    (hset : (machineOk s i.image && setAgrees i.ingot (ownHeader i.ingot :: hs) (i.ingot.linkch ++ ls)) = true)
    (hregions : regionsOk i.image = true) (hcensus : censusClash i.image = false) :
    Answers (.machineWaitEnd hs ls) s (fun t => t.ldr = (installNow s i).ldr) := by
  have hchecks : finishChecks s i = installNow s i := by simp [finishChecks, hregions, hcensus]
  refine ⟨_, rfl, ?_⟩
  simp only [machineWaitEnds, hinstall, hwaiting, hset, hchecks, Bool.true_eq_false, if_false, if_true]
  split <;> rfl

end

/-! #### Banks of user I/O -/

/-- The status of the banks. -/
abbrev bankFields : List Fld :=
  (List.range 8).flatMap fun n => [F.HGR_BANK_STATUS_PARKED n, F.HGR_BANK_STATUS_MISMATCH n, F.HGR_BANK_STATUS_VCCIO n]

theorem mem_bankFields {n : Nat} (hn : n ∈ List.range 8) {f : Fld}
    (hf : f ∈ [F.HGR_BANK_STATUS_PARKED n, F.HGR_BANK_STATUS_MISMATCH n, F.HGR_BANK_STATUS_VCCIO n]) : f ∈ bankFields :=
  List.mem_flatMap.2 ⟨n, hn, hf⟩

theorem onlyFields_showParked (s : State) : OnlyFields s (showParked s) bankFields :=
  OnlyFields.foldl (fun _ _ hn h => h.setB (mem_bankFields hn (by simp)) _) (.refl s _)

theorem le_key_bankFields {f : Fld} (hf : f ∈ bankFields) : (F.HGR_BANK_STATUS_VCCIO 0).key ≤ f.key := by
  obtain ⟨n, -, hn⟩ := List.mem_flatMap.1 hf
  simp only [List.mem_cons, List.not_mem_nil, or_false] at hn
  rcases hn with rfl | rfl | rfl <;>
    simp only [Fld.key, F.HGR_BANK_STATUS_VCCIO, F.HGR_BANK_STATUS_PARKED, F.HGR_BANK_STATUS_MISMATCH] <;> omega

theorem getF_showParked (s : State) {f : Fld} (hf : f.key < (F.HGR_BANK_STATUS_VCCIO 0).key) :
    getF (showParked s) f = getF s f :=
  (onlyFields_showParked s).1 f fun _ hg => (Nat.lt_of_lt_of_le hf (le_key_bankFields hg)).ne

/-- OUTPUTS (R281) judges the supply of every bank. -/
theorem onlyFields_eventOutputs (s : State) : OnlyFields (setB s F.HGR_STATUS_OUTPUTS true) (eventOutputs s)
    (F.HGR_STATUS_VCCIO_MISMATCH :: bankFields) := by
  refine OnlyFields.trans (OnlyFields.foldl (fun t n hn h => ?_) (.refl _ _))
    ((onlyFields_showParked _).mono (List.subset_cons_self _ _))
  have hvccio := h.setF (f := F.HGR_BANK_STATUS_VCCIO n) (List.mem_cons_of_mem _ (mem_bankFields hn (by simp)))
    (t.hgr.sensed.get 0 n)
  refine OnlyFields.setB (f := F.HGR_BANK_STATUS_MISMATCH n) ?_ (List.mem_cons_of_mem _ (mem_bankFields hn (by simp))) _
  split
  · exact hvccio.setB List.mem_cons_self _
  · exact hvccio

theorem getF_eventOutputs (s : State) {f : Fld} (hf : f.key < F.HGR_STATUS_VCCIO_MISMATCH.key) :
    getF (eventOutputs s) f = getF (setB s F.HGR_STATUS_OUTPUTS true) f := by
  refine (onlyFields_eventOutputs s).1 f fun g hg => ?_
  rcases List.mem_cons.1 hg with rfl | hg
  · exact hf.ne
  · exact (Nat.lt_trans hf (Nat.lt_of_lt_of_le (by decide) (le_key_bankFields hg))).ne

theorem getB_outputs_eventOutputs (s : State) : getB (eventOutputs s) F.HGR_STATUS_OUTPUTS = true := by
  rw [getB, getF_eventOutputs s (by decide), ← getB]
  exact getB_setB_same _ _ _ rfl

/-! #### The machine in EMPTY -/

theorem showEmpty_ldr (s : State) : (showEmpty s).ldr = s.ldr := (onlyFields_showParked _).ldr

theorem emState_showEmpty (s : State) : emState (showEmpty s) = 0 := by
  rw [emState, showEmpty, getF_showParked _ (by decide), getF_setB_other _ (by decide),
    getF_setB_other _ (by decide), getF_setB_other _ (by decide), getF_setF_other _ (by decide), getF_setF_same]
  rfl

/-! #### Events of the start-up sequence (R280 to R282) -/

section
variable {s : State} {i : LdInstall} {dl : Nat} (hinstall : s.ldr.install = some i) (hwaiting : i.waiting = false)
include hinstall hwaiting

theorem exec_lsPll {es : List (Nat × Nat)} (hevents : i.events = (1, dl) :: es) (hlocked : hpllsLocked s = false) :
    exec .lsPll s = .next (endInstall (showEmpty s) i lsPllFail) := by
  show execLsPll s = _
  simp [execLsPll, pllTimeout, hinstall, hevents, hwaiting, hlocked]

/-- OUTPUTS with an event after it. -/
theorem exec_startupEvent_outputs {e : Nat × Nat} {es : List (Nat × Nat)} (hevents : i.events = (2, dl) :: e :: es) :
    exec .startupEvent s =
      .next (onLdr (doEvent i s 2) (fun h => { h with install := some { i with events := e :: es } })) := by
  show execStartupEvent s = _
  simp [execStartupEvent, startupStep, hinstall, hevents, hwaiting]

/-- OUTPUTS, INIT and WRITES at one instant, and none after them. -/
theorem exec_startupEvent_all (hevents : i.events = [(0, dl)]) :
    exec .startupEvent s = .next (enterLoaded (doEvent i (doEvent i (doEvent i s 2) 3) 4) i) := by
  show execStartupEvent s = _
  simp [execStartupEvent, startupStep, hinstall, hevents, hwaiting]

end

section
variable (s : State) (i : LdInstall)

theorem startupEffect_outputs : startupEffect s i 2 = eventOutputs s := rfl

theorem startupEffect_init : startupEffect s i 3 = eventInit s i := rfl

theorem startupEffect_writes : startupEffect s i 4 = setB s F.HGR_STATUS_WRITES true := rfl

theorem doEvent_ldr (e : Nat) : (doEvent i s e).ldr = (startupEffect s i e).ldr := rfl

theorem getF_doEvent {f : Fld} (hf : f.key ≠ F.LDR_STATUS_EVENTS.key) (e : Nat) :
    getF (doEvent i s e) f = getF (startupEffect s i e) f := getF_setFBit_other _ hf _ _

theorem events_doEvent {e : Nat} (he : e - 1 < 4) : (getF (doEvent i s e) F.LDR_STATUS_EVENTS).testBit (e - 1) = true := by
  rw [doEvent, getF_setFBit_testBit _ _ _ _ _ he, if_pos rfl]

/-- OUTPUTS has the fabric drive, and leaves the emulation state. -/
theorem outputs_act : getB (doEvent i s 2) F.HGR_STATUS_OUTPUTS = true ∧ emState (doEvent i s 2) = emState s := by
  rw [getB, getF_doEvent s i (by decide), startupEffect_outputs, ← getB, emState, getF_doEvent s i (by decide),
    startupEffect_outputs, getF_eventOutputs s (by decide), getF_setB_other _ (by decide), ← emState]
  exact ⟨getB_outputs_eventOutputs s, rfl⟩

theorem eventInit_leaves : (eventInit s i).ldr = s.ldr ∧ (eventInit s i).regs = (setB s F.HGR_STATUS_GSR false).regs :=
  ⟨rfl, rfl⟩

/-- With its three last events the fabric drives, is out of set-reset and takes writes. -/
theorem allEvents_act : let t := doEvent i (doEvent i (doEvent i s 2) 3) 4
    t.ldr = s.ldr ∧ getB t F.HGR_STATUS_OUTPUTS = true ∧ getB t F.HGR_STATUS_WRITES = true ∧
      getB t F.HGR_STATUS_GSR = false := by
  intro t
  obtain ⟨u, hu⟩ : ∃ u, u = doEvent i s 2 := ⟨_, rfl⟩
  obtain ⟨v, hv⟩ : ∃ v, v = doEvent i u 3 := ⟨_, rfl⟩
  have ht : t = doEvent i v 4 := by rw [hv, hu]
  obtain ⟨hinitLdr, hinitRegs⟩ := eventInit_leaves u i
  have hthird : ∀ f : Fld, f.key ≠ F.LDR_STATUS_EVENTS.key → f.key ≠ F.HGR_STATUS_WRITES.key →
      getF t f = getF v f := fun f hevents hwrites => by
    rw [ht, getF_doEvent v i hevents, startupEffect_writes]
    exact getF_setB_other _ hwrites _
  have hsecond : ∀ f : Fld, f.key ≠ F.LDR_STATUS_EVENTS.key →
      getF v f = getF (setB u F.HGR_STATUS_GSR false) f := fun f hevents => by
    rw [hv, getF_doEvent u i hevents, startupEffect_init]
    exact getF_congr hinitRegs f
  refine ⟨?_, ?_, ?_, ?_⟩
  · rw [ht, doEvent_ldr, startupEffect_writes, setB_ldr, hv, doEvent_ldr, startupEffect_init, hinitLdr, hu, doEvent_ldr,
      startupEffect_outputs, (onlyFields_eventOutputs s).ldr, setB_ldr]
  · rw [getB, hthird _ (by decide) (by decide), hsecond _ (by decide), getF_setB_other _ (by decide), hu,
      ← getB]
    exact (outputs_act s i).1
  · rw [ht, getB, getF_doEvent v i (by decide), startupEffect_writes, ← getB]
    exact getB_setB_same _ _ _ rfl
  · rw [getB, hthird _ (by decide) (by decide), hsecond _ (by decide), ← getB]
    exact getB_setB_same _ _ _ rfl

end

/-! #### LOADED (R282) -/

/-- The fields that LDR_OWNER holds. -/
abbrev ownerFields : List Fld := [F.LDR_OWNER_VALID, F.LDR_OWNER_SESSION, F.LDR_OWNER_GEN]

theorem onlyFields_setOwner (s : State) (i : LdInstall) : OnlyFields s (setOwner s i) ownerFields := by
  unfold setOwner
  dsimp only
  split
  · exact ((OnlyFields.refl s _).setB (by simp) _ |>.setF (by simp) _).setF (by simp) _
  · exact (OnlyFields.refl s _).setB (by simp) _

/-- The schedule of an Ingot is the machine's. -/
def scheduleEntered (s : State) (i : LdInstall) : State :=
  setB (setF (setF s F.ARY_STATE_STATE 1) F.ARY_SCHEDULE_S i.ingot.s) F.SEC_STATUS_SEALED i.ingot.isSealed

theorem enterLoaded_eq {i : LdInstall} (hpath : i.path ≠ 2) (s : State) :
    enterLoaded s i = endInstall (setOwner (scheduleEntered s i) i) i 0 := by
  rw [enterLoaded, if_neg hpath]
  rfl

theorem enterLoaded_acts {s : State} {i : LdInstall} (hpath : i.path = 1) (hstream : s.ldr.stream = none) :
    let t := enterLoaded s i
    emState t = 1 ∧ stepsS t = i.ingot.s % 2 ^ 11 ∧ LoadEnded t 0 ∧ t.ldr.install = none ∧
      ∀ f ∈ [F.HGR_STATUS_OUTPUTS, F.HGR_STATUS_WRITES, F.HGR_STATUS_GSR], getB t f = getB s f := by
  intro t
  obtain ⟨u, hu⟩ : ∃ u, u = setOwner (scheduleEntered s i) i := ⟨_, rfl⟩
  have ht : t = endInstall u i 0 := by
    rw [hu]
    exact enterLoaded_eq (by omega) s
  have hpath' : i.path ≠ 3 := by omega
  have howner := hu ▸ onlyFields_setOwner (scheduleEntered s i) i
  have hcloses := ht ▸ endInstall_closes (s := u) hpath' (code := 0) (by decide)
  have hfield : ∀ f : Fld, (∀ g ∈ closingFields, f.key ≠ g.key) → (∀ g ∈ ownerFields, f.key ≠ g.key) →
      getF t f = getF (scheduleEntered s i) f := fun f hclosing howning =>
    (hcloses.fields f hclosing).trans (howner.1 f howning)
  obtain ⟨hended, hgone⟩ := loadEnded_endInstall (s := u) hpath' (by rw [howner.ldr]; exact hstream) (code := 0) (by decide)
  refine ⟨?_, ?_, ht ▸ hended, ht ▸ hgone, fun f hf => ?_⟩
  · rw [emState, hfield _ (by decide) (by decide), scheduleEntered, getF_setB_other _ (by decide),
      getF_setF_other _ (by decide), getF_setF_same]
    rfl
  · rw [stepsS, hfield _ (by decide) (by decide), scheduleEntered, getF_setB_other _ (by decide), getF_setF_same]
    rfl
  · have hapart : (∀ g ∈ closingFields, f.key ≠ g.key) ∧ (∀ g ∈ ownerFields, f.key ≠ g.key) ∧
        f.key ≠ F.SEC_STATUS_SEALED.key ∧ f.key ≠ F.ARY_SCHEDULE_S.key ∧ f.key ≠ F.ARY_STATE_STATE.key := by
      revert f
      decide
    obtain ⟨hclosing, howning, hsealed, hsteps, hstate⟩ := hapart
    rw [getB, hfield f hclosing howning, scheduleEntered, getF_setB_other _ hsealed, getF_setF_other _ hsteps,
      getF_setF_other _ hstate, getB]

/-- Settles O29: what breaks a load off, and the events of the start-up sequence. -/
theorem loadsEndOrStartUp : Obligations.LoadsEndOrStartUp := by
  unfold Obligations.LoadsEndOrStartUp
  refine ⟨fun s => ⟨fun x hstream hpath hlast htimeout => ?timeout, fun x v hstream hpath hv => abort_acts hstream hpath hv,
      fun i hs ls hstream hinstall hwaiting hpath => ?wait,
      fun i dl es hstream hinstall hwaiting hevents hpath hlocked => ?pll⟩,
    fun s i dl hinstall hwaiting hpath => ⟨fun e es hevents => ?outputs, fun hevents hstream => ?last⟩⟩
  case timeout => exact ⟨_, exec_lsTimeout hstream hlast htimeout, loadEnded_endStream hpath (by decide) _⟩
  case wait =>
    cases hset : machineOk s i.image && setAgrees i.ingot (ownHeader i.ingot :: hs) (i.ingot.linkch ++ ls) with
    | true =>
      simp only [if_true]
      by_cases hchecks : regionsOk i.image = true ∧ censusClash i.image = false
      · obtain ⟨t, hexec, hldr⟩ := machineWaitEnd_agrees hinstall hwaiting hs ls hset hchecks.1 hchecks.2
        exact ⟨t, hexec, fun _ _ => hldr⟩
      · exact ⟨_, rfl, fun hregions hcensus => absurd ⟨hregions, hcensus⟩ hchecks⟩
    | false =>
      refine ⟨_, exec_machineWaitEnd_disagrees hinstall hwaiting hs ls hset, ?_⟩
      simpa using loadEnded_endInstall hpath hstream (code := lrMachine) (by decide)
  case pll =>
    have hempty : (showEmpty s).ldr.stream = none := by rw [showEmpty_ldr, hstream]
    obtain ⟨hended, hgone⟩ := loadEnded_endInstall hpath hempty (code := lsPllFail) (by decide)
    refine ⟨_, exec_lsPll hinstall hwaiting hevents hlocked, hended, ?_, hgone⟩
    rw [emState, (endInstall_closes hpath (by decide)).fields _ (by decide)]
    rw [getF_onLdr, ← emState, emState_showEmpty]
  case outputs =>
    obtain ⟨hdrives, hstate⟩ := outputs_act s i
    refine ⟨_, exec_startupEvent_outputs hinstall hwaiting hevents, ?_, ?_, rfl, ?_⟩
    · rwa [getB_onLdr]
    · rw [getF_onLdr]
      exact events_doEvent s i (e := 2) (by decide)
    · rwa [emState, getF_onLdr]
  case last =>
    obtain ⟨hldr, houtputs, hwrites, hgsr⟩ := allEvents_act s i
    obtain ⟨hstate, hsteps, hended, hgone, hfabric⟩ := enterLoaded_acts hpath (by rw [hldr]; exact hstream)
    refine ⟨_, exec_startupEvent_all hinstall hwaiting hevents, hstate, hsteps, ?_, ?_, ?_, hended, hgone⟩
    · exact (hfabric _ (by simp)).trans houtputs
    · exact (hfabric _ (by simp)).trans hwrites
    · exact (hfabric _ (by simp)).trans hgsr

end Sys2Proof.Machine
end

section
/-! ### Loads from the serial flash, ownership and the rejoin at rest -/

namespace Sys2Proof.Machine

/-! #### Streams that open (R260, R261) -/

/-- The fields in which a stream that opens shows. -/
abbrev openingFields : List Fld :=
  [F.LDR_STATUS_PATH, F.LDR_STATUS_PHASE, F.LDR_SEGMENTS_COUNT, F.LDR_FAIL_ADDR_ADDR]

theorem beginStream_ldr (s : State) (x : LdStream) :
    (beginStream s x).ldr = { s.ldr with stream := some x, staging := [] } := rfl

theorem fieldsBut_beginStream (s : State) (x : LdStream) : FieldsBut s (beginStream s x) openingFields := by
  have h : FieldsBut s (onLdr s (fun h => { h with stream := some x, staging := [] })) openingFields := fun _ _ => rfl
  exact ((h.setF (by simp) _ |>.setF (by simp) _).setF (by simp) _).setF (by simp) _

theorem path_beginStream (s : State) (x : LdStream) : getF (beginStream s x) F.LDR_STATUS_PATH = x.path % 4 := by
  unfold beginStream
  dsimp only
  rw [getF_setF_other _ (by decide), getF_setF_other _ (by decide), getF_setF_other _ (by decide), getF_setF_same]
  rfl

theorem offerStream_opens {s : State} {x : LdStream} (hopen : loaderOpen s = false) (hpath : pathAccepted s x.path = true) :
    offerStream s x = beginStream s x := by
  simp [offerStream, hopen, hpath]

theorem pathAccepted_congr {s t : State} (hsel : getF t F.LDR_BOOT_BOOT_SEL = getF s F.LDR_BOOT_BOOT_SEL)
    (hspi : t.ldr.spiLoaded = s.ldr.spiLoaded) (path : Nat) : pathAccepted t path = pathAccepted s path := by
  rw [pathAccepted, hsel, hspi, pathAccepted]

/-- The stream of a QSPI load with nothing read. -/
def freshFlash : LdStream := freshStream 3 none (0, 0) []

theorem offerFlash_opens {s : State} (hopen : loaderOpen s = false) (hpath : pathAccepted s 3 = true) (e : Nat) :
    offerFlash s e = setF (beginStream s freshFlash) F.LDR_BOOT_ENTRY e := by
  rw [offerFlash, if_neg (by simp [hopen]), offerStream_opens hopen hpath, freshFlash]

/-! #### FLASH_START (R267) -/

theorem fieldsAt_flashCtrl : fieldsAt 0x3001C = [F.LDR_FLASH_CTRL_START, F.LDR_FLASH_CTRL_ENTRY] := rfl

theorem exec_flashStart {s : State} {v : Word} (hv : v.getLsbD 31 = true) (hopen : loaderOpen s = false)
    (hpath : pathAccepted s 3 = true) : exec (.flashStart v) s =
      .next (setF (beginStream (plainWrite s 0x3001C v.toNat) freshFlash) F.LDR_BOOT_ENTRY (bitsOf v.toNat 0 1)) := by
  have honly := onlyFields_plainWrite s 0x3001C v.toNat
  have hopen' : loaderOpen (plainWrite s 0x3001C v.toNat) = false := by rw [loaderOpen, honly.ldr, ← loaderOpen, hopen]
  have hpath' : pathAccepted (plainWrite s 0x3001C v.toNat) 3 = true := by
    rw [pathAccepted_congr (honly.1 _ (by rw [fieldsAt_flashCtrl]; decide)) (by rw [honly.ldr]), hpath]
  rw [← BitVec.testBit_toNat] at hv
  show execFlashStart v s = _
  rw [execFlashStart, flashCtrlWrite, if_pos hv, offerFlash_opens hopen' hpath']

theorem bitsOf_one (v lo : Nat) : bitsOf v lo 1 = b2n (v.testBit lo) := by
  have hbit := Nat.testBit_eq_decide_div_mod_eq (x := v) (i := lo)
  have hlt : v / 2 ^ lo % 2 < 2 := Nat.mod_lt _ (by decide)
  rw [hbit, b2n]
  simp only [bitsOf, decide_eq_true_eq, pow_one]
  split <;> omega

/-! #### The self-load (R261, R265, R266) -/

/-- Reads of the flash are sent; they leave the loader and the registers. -/
theorem flashBytes_leaves (s : State) (f : FlashPart) (div a n : Nat) :
    (flashBytes s f div a n).1.ldr = s.ldr ∧ (flashBytes s f div a n).1.regs = s.regs := ⟨rfl, rfl⟩

/-- A directory entry that cannot be read, or that has another MAGIC, ends the load. -/
theorem flashLoad_fails {s : State} {x : LdStream} {f : FlashPart} (hstream : s.ldr.stream = some x) (hpath : x.path = 3)
    (hentry : ∀ e, (flashBytes s f 8 (0x1000 + 32 * getF s F.LDR_BOOT_ENTRY) 32).2 = some e → leAt e 0 4 ≠ 0x44494B56) :
    ∃ u, u.ldr = s.ldr ∧ u.regs = s.regs ∧ flashLoad s f = endStream u x lsFlash x.position := by
  obtain ⟨v, hv⟩ : ∃ v, v = emit s (.flashRead 0 8 0 256) := ⟨_, rfl⟩
  obtain ⟨r, hr⟩ : ∃ r, r = flashBytes v f 8 (0x1000 + 32 * getF s F.LDR_BOOT_ENTRY) 32 := ⟨_, rfl⟩
  have hbytes : r.2 = (flashBytes s f 8 (0x1000 + 32 * getF s F.LDR_BOOT_ENTRY) 32).2 := by rw [hr, hv]; rfl
  rw [← hbytes] at hentry
  obtain ⟨hldr, hregs⟩ : r.1.ldr = v.ldr ∧ r.1.regs = v.regs := hr ▸ flashBytes_leaves v f 8 _ 32
  refine ⟨r.1, hldr.trans (by rw [hv]; rfl), hregs.trans (by rw [hv]; rfl), ?_⟩
  simp only [flashLoad, hstream, hpath, ne_eq, not_true_eq_false, if_false, ← hv, ← hr]
  cases he : r.2 with
  | none => rfl
  | some e => exact if_pos (hentry e he)

section
variable {u : State} {x : LdStream} (hpath : x.path = 3)
include hpath

/-- A QSPI stream closes; the self-load goes on from there. -/
theorem endStream_flash (code seg : Nat) : endStream u x code seg =
    selfLoadEnds (loadClosed (streamDropped u x code) 3 x.desc code seg) 3 code := by
  rw [endStream_eq, hpath, closeLoad_eq]

/-- The self-load from entry 0 goes on from entry 1. -/
theorem selfLoad_goesOn (htry : u.ldr.selfTry = 1) (hinstall : u.ldr.install = none) (haccept : pathAccepted u 3 = true)
    (seg : Nat) : let t := endStream u x lsFlash seg
    getF t F.LDR_RESULT_CODE = lsFlash ∧ getF t F.LDR_BOOT_ENTRY = 1 ∧ t.ldr.selfTry = 2 ∧
      ∃ y, t.ldr.stream = some y ∧ y.path = 3 ∧ y.position = 0 := by
  intro t
  obtain ⟨w, hw⟩ : ∃ w, w = loadClosed (streamDropped u x lsFlash) 3 x.desc lsFlash seg := ⟨_, rfl⟩
  have hcloses : LoadCloses (streamDropped u x lsFlash) w lsFlash := hw ▸ loadClosed_closes _ _ _ _ (by decide)
  have hldr := hcloses.ldr.trans (streamDropped_ldr u x lsFlash)
  obtain ⟨v, hv⟩ : ∃ v, v = onLdr w (fun h => { h with selfTry := 2 }) := ⟨_, rfl⟩
  have hvldr : v.ldr = { w.ldr with selfTry := 2 } := by rw [hv]; rfl
  have hopen : loaderOpen v = false := by simp [loaderOpen, hvldr, hldr, hinstall]
  have hsel : getF v F.LDR_BOOT_BOOT_SEL = getF u F.LDR_BOOT_BOOT_SEL := by
    rw [hv, getF_onLdr, hcloses.fields _ (by decide), getF_streamDropped _ _ _ (by decide)]
  have haccept' : pathAccepted v 3 = true := by
    rw [pathAccepted_congr hsel (by rw [hvldr, hldr]), haccept]
  have ht : t = setF (beginStream v freshFlash) F.LDR_BOOT_ENTRY 1 := by
    have hend : t = selfLoadEnds w 3 lsFlash := hw ▸ endStream_flash hpath lsFlash seg
    have hnext : selfLoadEnds w 3 lsFlash = offerFlash v 1 := by simp [selfLoadEnds, hldr, htry, hv]
    rw [hend, hnext, offerFlash_opens hopen haccept']
  rw [ht]
  refine ⟨?_, getF_setF_same _ _ _, ?_, freshFlash, rfl, rfl, rfl⟩
  · rw [getF_setF_other _ (by decide), fieldsBut_beginStream v _ _ (by decide), hv, getF_onLdr, hcloses.result]
  · rw [setF_ldr, beginStream_ldr, hvldr]

/-- The self-load from entry 1 was the last. -/
theorem selfLoad_gaveUp (htry : u.ldr.selfTry = 2) (seg : Nat) : let t := endStream u x lsFlash seg
    LoadEnded t lsFlash ∧ t.ldr.selfTry = 0 ∧
      if getF u F.LDR_BOOT_BOOT_SEL = 1 then getB t F.LDR_STATUS_BOOT_FAIL = true
      else getB t F.LDR_BOOT_FELL_BACK = true := by
  intro t
  obtain ⟨w, hw⟩ : ∃ w, w = loadClosed (streamDropped u x lsFlash) 3 x.desc lsFlash seg := ⟨_, rfl⟩
  have hcloses : LoadCloses (streamDropped u x lsFlash) w lsFlash := hw ▸ loadClosed_closes _ _ _ _ (by decide)
  have hldr := hcloses.ldr.trans (streamDropped_ldr u x lsFlash)
  obtain ⟨v, hv⟩ : ∃ v, v = onLdr w (fun h => { h with selfTry := 0 }) := ⟨_, rfl⟩
  have hvldr : v.ldr = { w.ldr with selfTry := 0 } := by rw [hv]; rfl
  have hsel : getF v F.LDR_BOOT_BOOT_SEL = getF u F.LDR_BOOT_BOOT_SEL := by
    rw [hv, getF_onLdr, hcloses.fields _ (by decide), getF_streamDropped _ _ _ (by decide)]
  have hresult : getF v F.LDR_RESULT_CODE = lsFlash := by rw [hv, getF_onLdr, hcloses.result]
  have ht : t = if getF v F.LDR_BOOT_BOOT_SEL = 1 then setB v F.LDR_STATUS_BOOT_FAIL true
      else setB v F.LDR_BOOT_FELL_BACK true := by
    have hend : t = selfLoadEnds w 3 lsFlash := hw ▸ endStream_flash hpath lsFlash seg
    rw [hend, hv]
    simp [selfLoadEnds, hldr, htry]
  have hgone : v.ldr.stream = none := by rw [hvldr, hldr]
  have hselfTry : v.ldr.selfTry = 0 := by rw [hvldr]
  rw [ht, hsel]
  split
  · exact ⟨⟨hgone, (getF_setB_other _ (by decide) _).trans hresult⟩, hselfTry, getB_setB_same _ _ _ rfl⟩
  · exact ⟨⟨hgone, (getF_setB_other _ (by decide) _).trans hresult⟩, hselfTry, getB_setB_same _ _ _ rfl⟩

end

/-! #### LDR_OWNER (R279) -/

theorem plainWrite_owner (s : State) (v : Nat) : plainWrite s 0x30014 v =
    setF (setF (setF s F.LDR_OWNER_VALID (bitsOf v 31 1)) F.LDR_OWNER_GEN (bitsOf v 12 4))
      F.LDR_OWNER_SESSION (bitsOf v 0 12) := by
  have hfields : fieldsAt 0x30014 = [F.LDR_OWNER_VALID, F.LDR_OWNER_GEN, F.LDR_OWNER_SESSION] := rfl
  rw [plainWrite, hfields]
  rfl

theorem valid_plainWrite_owner (s : State) (v : Nat) : getB (plainWrite s 0x30014 v) F.LDR_OWNER_VALID = v.testBit 31 := by
  rw [plainWrite_owner, getB_setF_other _ (by decide), getB_setF_other _ (by decide), getB, getF_setF_same, bitsOf_one]
  cases v.testBit 31 <;> rfl

theorem ownerClaimed (s : State) (v : Nat) (hv : v.testBit 31 = true) : let t := plainWrite s 0x30014 v
    getB t F.LDR_OWNER_VALID = true ∧ getF t F.LDR_OWNER_SESSION = v % 2 ^ 12 ∧ getF t F.LDR_OWNER_GEN = v / 2 ^ 12 % 2 ^ 4 ∧
      OnlyFields s t [F.LDR_OWNER_VALID, F.LDR_OWNER_SESSION, F.LDR_OWNER_GEN] := by
  intro t
  have ht : t = _ := plainWrite_owner s v
  refine ⟨(valid_plainWrite_owner s v).trans hv, ?_, ?_, ?_⟩
  · rw [ht, getF_setF_same]
    simp [bitsOf, F.LDR_OWNER_SESSION]
  · rw [ht, getF_setF_other _ (by decide), getF_setF_same]
    simp [bitsOf, F.LDR_OWNER_GEN]
  · rw [ht]
    exact (((OnlyFields.refl s _).setF (by simp) _).setF (by simp) _).setF (by simp) _

/-- The fields that the end of outstanding run control writes. -/
abbrev runControlFields : List Fld := [F.HST_STALE_CPL_COMPLETIONS, F.FLT_STATUS_HM_BUSY, F.FLT_STATUS_RESTORING]

theorem FieldsBut.completes {s t : State} (h : FieldsBut s t runControlFields) (d : Desc) (status result : Nat) :
    FieldsBut s (complete t d status result) runControlFields :=
  h.trans ((complete_leaves t d status result).2.mono (by simp))

theorem fieldsBut_endRun (s : State) (status : Nat) : FieldsBut s (endRun s status) runControlFields := by
  unfold endRun
  split
  · exact FieldsBut.completes (t := onRun s _) (fun _ _ => rfl) _ _ _
  · exact .refl s _

theorem fieldsBut_endStops (s : State) (status : Nat) : FieldsBut s (endStops s status) runControlFields :=
  FieldsBut.foldl (fun _ _ h => h.completes _ _ _) (t := onRun s _) (fun _ _ => rfl) _

theorem fieldsBut_endRunControl (s : State) (status : Nat) : FieldsBut s (endRunControl s status) runControlFields := by
  have hended := (fieldsBut_endRun s status).trans (fieldsBut_endStops (endRun s status) status)
  intro f hf
  unfold endRunControl
  dsimp only
  rw [getF_onRun, getF_setB_other _ (hf _ (by simp)), getF_setB_other _ (hf _ (by simp)), getF_onAsy]
  exact FieldsBut.foldl (fun _ _ h => h.completes _ _ _) hended _ f hf

theorem exec_ldrOwnerWrite_claims {s : State} {v : Word} (hv : v.getLsbD 31 = true)
    (hvalid : getB s F.LDR_OWNER_VALID = false) :
    exec (.ldrOwnerWrite v) s = .next (plainWrite s 0x30014 v.toNat) := by
  rw [← BitVec.testBit_toNat] at hv
  show execLdrOwnerWrite v s = _
  rw [execLdrOwnerWrite, ownerWrite, if_pos hv, if_neg (by simp [hvalid])]

/-- Ownership is given up, and outstanding run control with it. -/
theorem ldrOwnerWrite_releases (s : State) {v : Word} (hv : v.getLsbD 31 = false) :
    Answers (.ldrOwnerWrite v) s (fun t => getB t F.LDR_OWNER_VALID = false) := by
  rw [← BitVec.testBit_toNat] at hv
  have hvalid : getB (plainWrite s 0x30014 v.toNat) F.LDR_OWNER_VALID = false := (valid_plainWrite_owner s v.toNat).trans hv
  refine ⟨_, rfl, ?_⟩
  rw [ownerWrite, if_neg (by simp [hv])]
  split
  · rw [(fieldsBut_endRunControl _ _).bit (by decide), hvalid]
  · exact hvalid

/-! #### Regions that rejoin at rest (R296) -/

theorem rejoinAtRest_iso (s : State) (n : Nat) : ∀ k i, (k, some i) ∈ (rejoinAtRest s n).iso → i.region ≠ n := by
  intro k i hmem
  simpa using (List.mem_filter.1 hmem).2

theorem regionState_rejoinAtRest (s : State) (n : Nat) : getF (rejoinAtRest s n) (F.LDR_REGION_STATE n) = 0 :=
  getF_setF_same _ _ _

theorem exec_regionRejoin_atRest {s : State} {n : Fin 64} (hready : getF s (F.LDR_REGION_STATE n) = 2)
    (hrest : executing s = false) : exec (.regionRejoin n) s = .next (rejoinAtRest s n) := by
  show execRegionRejoin n s = _
  simp [execRegionRejoin, rejoinNow, hready, hrest]

/-- Settles O30: the self-load by what its last stream leaves, LDR_OWNER by its fields, the rejoin by what isolation
it ends. -/
theorem flashLoadsOwnershipAndRejoin : Obligations.FlashLoadsOwnershipAndRejoin := by
  unfold Obligations.FlashLoadsOwnershipAndRejoin
  refine ⟨fun s => ⟨fun v hopen haccept hv => ?start, fun x f hstream hpath hentry hinstall haccept => ?selfLoad⟩,
    fun s => ⟨fun v hv hvalid => ?claim, fun v hv => ldrOwnerWrite_releases s hv, fun n hready hrest => ?rejoin⟩⟩
  case start =>
    refine ⟨_, exec_flashStart hv hopen haccept, ?_, freshFlash, rfl, rfl, rfl, rfl⟩
    rw [getF_setF_same, bitsOf_one, BitVec.testBit_toNat]
    cases v.getLsbD 0 <;> rfl
  case selfLoad =>
    obtain ⟨u, hldr, hregs, hload⟩ := flashLoad_fails hstream hpath hentry
    have hexec : exec (.qspiSelfLoad ⟨f.cells, f.quad⟩ f.bad) s = .next (endStream u x lsFlash x.position) :=
      congrArg Host.Outcome.next hload
    have hsel := getF_congr hregs F.LDR_BOOT_BOOT_SEL
    refine ⟨fun htry => ⟨_, hexec, ?_⟩, fun htry => ⟨_, hexec, ?_⟩⟩
    · exact selfLoad_goesOn hpath (by rw [hldr, htry]) (by rw [hldr, hinstall])
        (by rw [pathAccepted_congr hsel (by rw [hldr]), haccept]) _
    · rw [← hsel]
      exact selfLoad_gaveUp hpath (by rw [hldr, htry]) _
  case claim =>
    exact ⟨_, exec_ldrOwnerWrite_claims hv hvalid, ownerClaimed s v.toNat (by rwa [BitVec.testBit_toNat])⟩
  case rejoin =>
    exact ⟨_, exec_regionRejoin_atRest hready hrest, regionState_rejoinAtRest s n, rejoinAtRest_iso s n⟩

end Sys2Proof.Machine
end

section
/-! ### SET_REGION and COMMIT -/

namespace Sys2Proof.Machine

/-! #### STATE of a region -/

theorem key_regionState {n : Nat} (hn : n < 64) : 0x30400 * 32 ≤ (F.LDR_REGION_STATE n).key ∧
    (F.LDR_REGION_STATE n).key < 0x30500 * 32 := by
  simp only [Fld.key, F.LDR_REGION_STATE]
  omega

/-- A field outside the registers of the regions is no region's STATE. -/
theorem regionState_ne {n : Nat} (hn : n < 64) {f : Fld} (hf : f.key < 0x30400 * 32 ∨ 0x30500 * 32 ≤ f.key) :
    (F.LDR_REGION_STATE n).key ≠ f.key := by
  obtain ⟨hlow, hhigh⟩ := key_regionState hn
  omega

theorem FieldsBut.regionState {s t : State} {fs : List Fld} (h : FieldsBut s t fs)
    (hfs : ∀ f ∈ fs, f.key < 0x30400 * 32 ∨ 0x30500 * 32 ≤ f.key) {n : Nat} (hn : n < 64) :
    getF t (F.LDR_REGION_STATE n) = getF s (F.LDR_REGION_STATE n) :=
  h _ fun f hf => regionState_ne hn (hfs f hf)

/-! #### What regions leave of the loader -/

theorem foldl_loader {α : Type} {g : State → α → State} (hg : ∀ t a, (g t a).ldr = t.ldr ∧ (g t a).regs = t.regs)
    (xs : List α) (s : State) : (xs.foldl g s).ldr = s.ldr ∧ (xs.foldl g s).regs = s.regs := by
  refine List.foldlRecOn (motive := fun t : State => t.ldr = s.ldr ∧ t.regs = s.regs) _ _ ⟨rfl, rfl⟩ fun t ht a _ => ?_
  exact ⟨(hg t a).1.trans ht.1, (hg t a).2.trans ht.2⟩

theorem isolateTile_leaves (s : State) (n j : Nat) (r : RegionDef) (v : Nat) (d : Fin 4) (p : Nat) :
    (isolateTile s n j r v d p).ldr = s.ldr ∧ (isolateTile s n j r v d p).regs = s.regs := by
  have hkept : ∀ k, (keepRejoin s k).ldr = s.ldr ∧ (keepRejoin s k).regs = s.regs := fun k => by
    unfold keepRejoin
    split
    · split <;> exact ⟨rfl, rfl⟩
    · exact ⟨rfl, rfl⟩
  exact hkept _

theorem holdBlocks_leaves (s : State) : (holdBlocks s).ldr = s.ldr ∧ (holdBlocks s).regs = s.regs := by
  have hblocks : ∀ (t : State) (n : Nat) (r : RegionDef), (isolateBlocks t n r).ldr = t.ldr ∧
      (isolateBlocks t n r).regs = t.regs := fun t n r => by
    unfold isolateBlocks
    exact foldl_loader (g := fun t (e : Option HgrIso × Nat) => onHgr t (fun h => { h with iso := h.iso.set none e.2 e.1 }))
      (fun _ _ => ⟨rfl, rfl⟩) _ t
  unfold holdBlocks
  refine foldl_loader (fun t e => ?_) _ s
  split
  · split
    · exact hblocks t _ _
    · exact ⟨rfl, rfl⟩
  · exact ⟨rfl, rfl⟩

/-- The isolation of a declared region shows in its STATE alone. -/
theorem isolateRegion_leaves {s : State} {n : Nat} (h : (regionOf s n).isSome = true) :
    (isolateRegion s n).ldr = s.ldr ∧ (isolateRegion s n).regs = (setF s (F.LDR_REGION_STATE n) 1).regs := by
  obtain ⟨r, hr⟩ := Option.isSome_iff_exists.1 h
  unfold isolateRegion
  rw [hr]
  dsimp only
  obtain ⟨u, hu⟩ : ∃ u, u =
    (regionPlaces s r).foldl (fun t q => isolateTile t n (firstToBegin s) r q.1 q.2.1 q.2.2) s := ⟨_, rfl⟩
  obtain ⟨hldr, hregs⟩ : u.ldr = s.ldr ∧ u.regs = s.regs :=
    hu ▸ foldl_loader (fun t q => isolateTile_leaves t n _ r _ _ _) _ s
  rw [← hu]
  obtain ⟨hldr', hregs'⟩ := holdBlocks_leaves
    (setF (setRegionRun u n (some ⟨firstToBegin s, none, false⟩)) (F.LDR_REGION_STATE n) 1)
  refine ⟨hldr'.trans hldr, hregs'.trans ?_⟩
  simp only [setF, setRegionRun, hregs]

/-- A region of a running machine that becomes ready shows so in its STATE alone, until it rejoins. -/
theorem regionBecomesReady_regs {s : State} {n : Nat} (hn : n < 64) (hexec : executing s = true) :
    (regionBecomesReady s n).regs = (setF s (F.LDR_REGION_STATE n) 2).regs := by
  have hexec' : executing (setF s (F.LDR_REGION_STATE n) 2) = true := by
    rwa [executing, emState, getF_setF_other _ (regionState_ne hn (by decide)).symm, ← emState]
  unfold regionBecomesReady
  dsimp only
  rw [if_pos hexec']
  rfl

/-- The registers of the census. -/
abbrev censusFields : List Fld := (List.range 64).flatMap fun l => [F.HGR_CENSUS_VALID l, F.HGR_CENSUS_BLOCK l]

theorem mem_censusFields {l : Nat} (hl : l ∈ List.range 64) {f : Fld}
    (hf : f ∈ [F.HGR_CENSUS_VALID l, F.HGR_CENSUS_BLOCK l]) : f ∈ censusFields := List.mem_flatMap.2 ⟨l, hl, hf⟩

theorem le_key_censusFields {f : Fld} (hf : f ∈ censusFields) : (F.HGR_CENSUS_BLOCK 0).key ≤ f.key := by
  obtain ⟨l, -, hl⟩ := List.mem_flatMap.1 hf
  simp only [List.mem_cons, List.not_mem_nil, or_false] at hl
  rcases hl with rfl | rfl <;> simp only [Fld.key, F.HGR_CENSUS_BLOCK, F.HGR_CENSUS_VALID] <;> omega

theorem onlyFields_showCensus (s : State) (c : List (Option Nat)) : OnlyFields s (showCensus s c) censusFields := by
  refine OnlyFields.foldl (fun t l hl h => ?_) (.refl s _)
  have hvalid : F.HGR_CENSUS_VALID l ∈ censusFields := mem_censusFields hl (by simp)
  have hblock : F.HGR_CENSUS_BLOCK l ∈ censusFields := mem_censusFields hl (by simp)
  split
  · exact (h.setB hvalid _).setF hblock _
  · exact (h.setB hvalid _).setF hblock _

theorem getF_showCensus (s : State) (c : List (Option Nat)) {f : Fld} (hf : f.key < (F.HGR_CENSUS_BLOCK 0).key) :
    getF (showCensus s c) f = getF s f :=
  (onlyFields_showCensus s c).1 f fun _ hg => (Nat.lt_of_lt_of_le hf (le_key_censusFields hg)).ne

theorem regionState_belowCensus {n : Nat} (hn : n < 64) : (F.LDR_REGION_STATE n).key < (F.HGR_CENSUS_BLOCK 0).key :=
  Nat.lt_trans (key_regionState hn).2 (by decide)

/-! #### COMMIT of a full stream (R275) -/

/-- The stream that a COMMIT is the last command of. -/
def lastTaken (x : LdStream) : LdStream := { x with last := true }

theorem streamCmd_commit {s : State} {x : LdStream} (hstream : s.ldr.stream = some x) (hlast : x.last = false) :
    streamCmd s .commit = takeCmds s (lastTaken x) [.commit] x.position 0 := by
  simp [streamCmd, hstream, hlast, cmdFits, LdCmd.isRepeat, LdCmd.isRegion, lastTaken]

theorem commitFull_uncovered {s : State} {x : LdStream} (hcovers : coversAll x.covered 0 (igExtent s.ldr.staging) = false) :
    commitFull s x = endStream s x lsIncomplete noSegment := if_pos hcovers

theorem commitFull_executing {s : State} {x : LdStream} (hcovers : coversAll x.covered 0 (igExtent s.ldr.staging) = true)
    (hstate : emState s = 2 ∨ emState s = 3) : commitFull s x = endStream s x lsState noSegment :=
  (if_neg (by simp [hcovers])).trans (if_pos hstate)

section
variable {s : State} {x : LdStream} (hstream : s.ldr.stream = some x) (hlast : x.last = false)
  (hpartial : x.isPartial = false)
include hstream hlast hpartial

theorem streamCmd_commit_full : streamCmd s .commit = commitFull
    (staged (commandsShown s (lastTaken x) 0) (lastTaken x) [.commit]) (withCommands (lastTaken x) [.commit]) := by
  have hin : outsideTarget s (lastTaken x) [] = none := by
    unfold outsideTarget
    split <;> rfl
  rw [streamCmd_commit hstream hlast, takeCmds_within (x := lastTaken x) hpartial rfl hin]
  rfl

/-- The frames do not cover the Ingot. -/
theorem commit_incomplete (hpath : x.path ≠ 3) (hcovers : coversAll x.covered 0 (igExtent s.ldr.staging) = false) :
    Answers .commit s (fun t => LoadEnded t lsIncomplete) := by
  refine ⟨_, rfl, ?_⟩
  rw [streamCmd_commit_full hstream hlast hpartial,
    commitFull_uncovered (s := staged (commandsShown s (lastTaken x) 0) (lastTaken x) [.commit])
      (x := withCommands (lastTaken x) [.commit]) hcovers]
  exact loadEnded_endStream (x := withCommands (lastTaken x) [.commit]) hpath (by decide) _

/-- The machine executes. -/
theorem commit_executing (hpath : x.path ≠ 3) (hcovers : coversAll x.covered 0 (igExtent s.ldr.staging) = true)
    (hexec : executing s = true) : Answers .commit s (fun t => LoadEnded t lsState) := by
  obtain ⟨u, hu⟩ : ∃ u, u = staged (commandsShown s (lastTaken x) 0) (lastTaken x) [.commit] := ⟨_, rfl⟩
  have hstate : emState u = 2 ∨ emState u = 3 := by
    have hsame : emState u = emState s := by
      rw [hu, emState, staged, getF_onLdr, (onlyFields_commandsShown s (lastTaken x) 0).1 _ (by decide), ← emState]
    rw [hsame]
    simpa [executing] using hexec
  have hcovers' : coversAll (withCommands (lastTaken x) [.commit]).covered 0 (igExtent u.ldr.staging) = true := by
    rw [hu]
    exact hcovers
  refine ⟨_, rfl, ?_⟩
  rw [streamCmd_commit_full hstream hlast hpartial, ← hu, commitFull_executing hcovers' hstate]
  exact loadEnded_endStream (x := withCommands (lastTaken x) [.commit]) hpath (by decide) _

end

/-! #### Commands of a partial stream that write no frame (R289, R296) -/

theorem frameFailure_nil (s : State) (x : LdStream) : frameFailure s x [] = none := by
  have hin : outsideTarget s x [] = none := by
    unfold outsideTarget
    split <;> rfl
  rw [frameFailure, hin]
  dsimp only
  split <;> rfl

/-- Commands of a partial stream wait for its region to stop. -/
def commandsWait (s : State) (x : LdStream) (cs : List LdCmd) : State :=
  onLdr (showCensus s (censusNow s)) (fun h => { h with
    stream := some x, todo := h.todo ++ cs.map (fun c => (x.region.getD 0, c)) })

theorem commandsWait_ldr (s : State) (x : LdStream) (cs : List LdCmd) : (commandsWait s x cs).ldr =
    { s.ldr with stream := some x, todo := s.ldr.todo ++ cs.map (fun c => (x.region.getD 0, c)) } := by
  rw [commandsWait, onLdr_ldr, (onlyFields_showCensus s _).ldr]

theorem commandsWait_run (s : State) (x : LdStream) (cs : List LdCmd) : (commandsWait s x cs).run = s.run := by
  rw [commandsWait, onLdr_run, (onlyFields_showCensus s _).2]

theorem commandsWait_ingot (s : State) (x : LdStream) (cs : List LdCmd) : (commandsWait s x cs).ingot = s.ingot := by
  rw [commandsWait, onLdr_ingot, (onlyFields_showCensus s _).2]

theorem getF_commandsWait (s : State) (x : LdStream) (cs : List LdCmd) {f : Fld} (hf : f.key < (F.HGR_CENSUS_BLOCK 0).key) :
    getF (commandsWait s x cs) f = getF s f := by
  rw [commandsWait, getF_onLdr, getF_showCensus s _ hf]

theorem actPartial_region (s : State) (x : LdStream) (n : Nat) (parent variant : List Byte) (seg : Nat) :
    actPartial s x [.region n parent variant] seg = if parentOk s (x.region.getD 0) parent then
      loaderTick (commandsWait (isolateAgain s (x.region.getD 0)) x []) else endStream s x lsParent seg := rfl

theorem actPartial_commit (s : State) (x : LdStream) (seg : Nat) :
    actPartial s x [.commit] seg = loaderTick (commandsWait s x [.commit]) := rfl

theorem loaderTick_nothing {s : State} (h : s.ldr.todo = []) : loaderTick s = s := by simp [loaderTick, h]

/-- A COMMIT whose region has stopped. -/
theorem loaderTick_commit {s : State} {x : LdStream} {n : Nat} (htodo : s.ldr.todo = [(n, .commit)])
    (hstopped : regionStopped s n = true) (hstream : s.ldr.stream = some x) :
    loaderTick s = commitPartial (onLdr s (fun h => { h with todo := [] })) x := by
  simp [loaderTick, htodo, hstopped, applyWaiting, hstream, onLdr]

/-! #### SET_REGION (R289) -/

theorem parentOk_commandsShown (s : State) (y : LdStream) (n : Nat) (parent : List Byte) :
    parentOk (commandsShown s y 0) n parent = parentOk s n parent := by
  have hstate : emState (commandsShown s y 0) = emState s := (onlyFields_commandsShown s y 0).1 _ (by decide)
  rw [parentOk, hstate]
  rfl

/-- The stream of a region. -/
def ofRegion (x : LdStream) (n : Nat) (variant : List Byte) : LdStream :=
  { x with isPartial := true, region := some n, variant := variant }

section
variable {s : State} {x : LdStream} (hstream : s.ldr.stream = some x) (hlast : x.last = false) (hpos : x.position = 0)
  (hframe : x.frame = none) (hregion : x.region = none) (hcovered : x.covered = [])
include hstream hlast hpos hframe hregion hcovered

theorem streamCmd_region (n : Nat) (parent variant : List Byte) : streamCmd s (.region n parent variant) =
    actPartial (commandsShown s (ofRegion x n variant) 0) (ofRegion x n variant) [.region n parent variant] 0 := by
  have htakes : streamCmd s (.region n parent variant) = takeCmds s x [.region n parent variant] 0 0 := by
    simp [streamCmd, hstream, hlast, cmdFits, LdCmd.isRepeat, hpos, hframe, hregion, hcovered]
  rw [htakes]
  unfold takeCmds
  dsimp only
  have hnote : noteRegion x [.region n parent variant] = ofRegion x n variant := rfl
  have hwrites : listWrites ((ofRegion x n variant).frame.getD []) [.region n parent variant] = [] := rfl
  rw [hnote, hwrites, frameFailure_nil]
  rfl

/-- With the loaded Ingot's IDENTITY as PARENT. -/
theorem setRegion_isolates (htodo : s.ldr.todo = []) {n : Nat} (hn : n < 64) (hjoined : getF s (F.LDR_REGION_STATE n) = 0)
    {parent : List Byte} (hparent : parentOk s n parent = true) (variant : List Byte) :
    let t := streamCmd s (.region n parent variant)
    getF t (F.LDR_REGION_STATE n) = 1 ∧ getB t F.LDR_STATUS_PARTIAL = true ∧
      t.ldr.stream = some (ofRegion x n variant) := by
  intro t
  obtain ⟨u, hu⟩ : ∃ u, u = commandsShown s (ofRegion x n variant) 0 := ⟨_, rfl⟩
  have hshown : OnlyFields s u streamFieldsShown := hu ▸ onlyFields_commandsShown s _ 0
  have hparent' : parentOk u n parent = true :=
    (hu ▸ parentOk_commandsShown s (ofRegion x n variant) n parent :
      parentOk u n parent = _).trans hparent
  have hdeclared : (regionOf u n).isSome = true := by
    simp only [parentOk, Bool.and_eq_true] at hparent'
    exact hparent'.1.2
  have hjoined' : getF u (F.LDR_REGION_STATE n) = 0 := (hshown.1.regionState (by decide) hn).trans hjoined
  obtain ⟨v, hv⟩ : ∃ v, v = isolateAgain u n := ⟨_, rfl⟩
  obtain ⟨hldr, hregs⟩ : v.ldr = u.ldr ∧ v.regs = (setF u (F.LDR_REGION_STATE n) 1).regs := by
    rw [hv, isolateAgain, if_pos hjoined']
    exact isolateRegion_leaves hdeclared
  have hnothing : (commandsWait v (ofRegion x n variant) []).ldr.todo = [] := by
    rw [commandsWait_ldr, hldr, hshown.ldr, htodo]
    rfl
  have ht : t = commandsWait v (ofRegion x n variant) [] := by
    have hacts : t = actPartial u (ofRegion x n variant) [.region n parent variant] 0 :=
      hu ▸ streamCmd_region hstream hlast hpos hframe hregion hcovered n parent variant
    have hisolates := (actPartial_region u (ofRegion x n variant) n parent variant 0).trans (if_pos hparent')
    rw [hacts, hisolates, hv]
    exact loaderTick_nothing (hv ▸ hnothing)
  rw [ht]
  refine ⟨?_, ?_, by rw [commandsWait_ldr]⟩
  · rw [getF_commandsWait _ _ _ (regionState_belowCensus hn), getF_congr hregs, getF_setF_same]
    rfl
  · rw [getB, getF_commandsWait _ _ _ (by decide), getF_congr hregs,
      getF_setF_other _ (regionState_ne hn (by decide)).symm,
      hu, commandsShown, getF_setF_other _ (by decide), showStream, getF_setF_other _ (by decide), ← getB]
    exact getB_setB_same _ _ _ rfl

/-- With another PARENT, or a region that is not declared. -/
theorem setRegion_otherParent (hpath : x.path ≠ 3) {n : Nat} {parent : List Byte} (hparent : parentOk s n parent = false)
    (variant : List Byte) : LoadEnded (streamCmd s (.region n parent variant)) lsParent := by
  have hparent' := (parentOk_commandsShown s (ofRegion x n variant) n parent).trans hparent
  rw [streamCmd_region hstream hlast hpos hframe hregion hcovered, actPartial_region]
  rw [if_neg (by rw [Bool.not_eq_true]; exact hparent')]
  exact loadEnded_endStream (x := ofRegion x n variant) hpath (by decide) _

end

/-! #### COMMIT of a partial stream (R296) -/

theorem streamRegion_congr {s t : State} {x y : LdStream} (hingot : t.ingot = s.ingot) (hregion : y.region = x.region) :
    streamRegion t y = streamRegion s x := by
  have hdeclared : regionOf t = regionOf s := by
    funext n
    rw [regionOf, hingot, regionOf]
  rw [streamRegion, hregion, hdeclared, streamRegion]

theorem regionCovered_congr {s t : State} (hsteps : stepsS t = stepsS s) (r : RegionDef) (cs : List (Nat × Nat)) :
    regionCovered t r cs = regionCovered s r cs := by
  simp only [regionCovered, unitFrames, hsteps]

theorem regionStopped_congr {s t : State} (hrun : t.run = s.run) (n : Nat) : regionStopped t n = regionStopped s n := by
  rw [regionStopped, regionRun, hrun, regionStopped, regionRun]

/-- A region that has stopped and is covered waits to rejoin. -/
theorem commitPartial_ready {s : State} {x : LdStream} (hpath : x.path ≠ 3) {n : Nat} (hn : n < 64)
    (hregion : x.region = some n) (hexec : executing s = true)
    (hcovered : regionCovered s (streamRegion s x) x.covered = true) :
    LoadEnded (commitPartial s x) 0 ∧ getF (commitPartial s x) (F.LDR_REGION_STATE n) = 2 := by
  obtain ⟨u, hu⟩ : ∃ u, u = regionBecomesReady (setVariant s n x.variant) n := ⟨_, rfl⟩
  have hregs : u.regs = (setF (setVariant s n x.variant) (F.LDR_REGION_STATE n) 2).regs :=
    hu ▸ regionBecomesReady_regs hn hexec
  have ht : commitPartial s x = endStream u x 0 noSegment := by
    unfold commitPartial
    rw [hregion]
    dsimp only
    rw [if_pos hcovered, hu]
  rw [ht]
  refine ⟨loadEnded_endStream hpath (by decide) _, ?_⟩
  rw [(endStream_closes (s := u) hpath (code := 0) (by decide) noSegment).fields.regionState (by decide) hn,
    getF_congr (streamDropped_regs (.inl rfl)), getF_congr hregs, getF_setF_same]
  rfl

theorem streamCmd_commit_partial {s : State} {x : LdStream} (hstream : s.ldr.stream = some x) (hlast : x.last = false)
    (hpartial : x.isPartial = true) : streamCmd s .commit =
      loaderTick (commandsWait (commandsShown s (lastTaken x) 0) (lastTaken x) [.commit]) := by
  rw [streamCmd_commit hstream hlast]
  unfold takeCmds
  dsimp only
  have hnote : noteRegion (lastTaken x) [.commit] = lastTaken x := rfl
  have hwrites : listWrites ((lastTaken x).frame.getD []) [.commit] = [] := rfl
  have hpartial' : (lastTaken x).isPartial = true := hpartial
  rw [hnote, hwrites, frameFailure_nil]
  dsimp only
  rw [if_pos hpartial']
  exact actPartial_commit _ _ _

theorem commit_partial {s : State} {x : LdStream} (hstream : s.ldr.stream = some x) (hlast : x.last = false)
    (hpath : x.path ≠ 3) (htodo : s.ldr.todo = []) {n : Nat} (hn : n < 64) (hpartial : x.isPartial = true)
    (hregion : x.region = some n) (hstopped : regionStopped s n = true) (hexec : executing s = true)
    (hcovered : regionCovered s (streamRegion s x) x.covered = true) :
    Answers .commit s (fun t => LoadEnded t 0 ∧ getF t (F.LDR_REGION_STATE n) = 2) := by
  obtain ⟨y, hy⟩ : ∃ y, y = lastTaken x := ⟨_, rfl⟩
  have hyregion : y.region = x.region := by rw [hy]; rfl
  obtain ⟨u, hu⟩ : ∃ u, u = commandsShown s y 0 := ⟨_, rfl⟩
  have hshown : OnlyFields s u streamFieldsShown := hu ▸ onlyFields_commandsShown s _ 0
  obtain ⟨w, hw⟩ : ∃ w, w = commandsWait u y [.commit] := ⟨_, rfl⟩
  have hldr : w.ldr = { s.ldr with stream := some y, todo := [(n, .commit)] } := by
    rw [hw, commandsWait_ldr, hshown.ldr, htodo, hyregion, hregion]
    rfl
  have hwstopped : regionStopped w n = true := by
    have hrun : w.run = s.run := by rw [hw, commandsWait_run, hshown.2]
    rw [regionStopped_congr hrun, hstopped]
  obtain ⟨z, hz⟩ : ∃ z, z = onLdr w (fun h => { h with todo := [] }) := ⟨_, rfl⟩
  have hingot : z.ingot = s.ingot := by rw [hz, onLdr_ingot, hw, commandsWait_ingot, hshown.2]
  have harray : ∀ f ∈ [F.ARY_STATE_STATE, F.ARY_SCHEDULE_S], getF z f = getF s f := fun f hf => by
    have hkeys : f.key < (F.HGR_CENSUS_BLOCK 0).key ∧ ∀ g ∈ streamFieldsShown, f.key ≠ g.key := by
      revert f
      decide
    rw [hz, getF_onLdr, hw, getF_commandsWait u y _ hkeys.1, hshown.1 f hkeys.2]
  have hacts : streamCmd s .commit = commitPartial z y := by
    rw [streamCmd_commit_partial hstream hlast hpartial, ← hy, ← hu, ← hw,
      loaderTick_commit (by rw [hldr]) hwstopped (by rw [hldr]), ← hz]
  refine ⟨_, rfl, ?_⟩
  rw [hacts]
  refine commitPartial_ready (hy ▸ hpath : y.path ≠ 3) hn (hyregion.trans hregion) ?_ ?_
  · rwa [executing, emState, harray _ (by simp), ← emState]
  · have hycovered : y.covered = x.covered := by rw [hy]; rfl
    rwa [streamRegion_congr hingot hyregion, regionCovered_congr (harray _ (by simp)), hycovered]

/-- Settles O28: SET_REGION by the isolation of its region, COMMIT by what it finds first. -/
theorem setRegionAndCommitAct : Obligations.SetRegionAndCommitAct := by
  unfold Obligations.SetRegionAndCommitAct
  intro s x hstream hlast hpath htodo
  refine ⟨fun n parent variant hpos hframe hregion hcovered hjoined => ?region,
    fun hpartial => commit_incomplete hstream hlast hpartial hpath,
    fun hpartial => commit_executing hstream hlast hpartial hpath,
    fun n hn hpartial hregion hstopped hexec hcovered =>
      commit_partial hstream hlast hpath htodo hn hpartial hregion hstopped hexec hcovered⟩
  case region =>
    refine ⟨_, rfl, ?_⟩
    cases hparent : parentOk s n parent with
    | true =>
      obtain ⟨hstate, hshown, hopen⟩ :=
        setRegion_isolates hstream hlast hpos hframe hregion hcovered htodo n.isLt hjoined hparent variant
      exact ⟨hstate, hshown, _, hopen, rfl, rfl, rfl⟩
    | false => exact setRegion_otherParent hstream hlast hpos hframe hregion hcovered hpath hparent variant

end Sys2Proof.Machine
end

section
/-! ### Bytes of the host and of the SPI slave -/

namespace Sys2Proof.Machine

/-! #### A descriptor that stands in no group -/

/-- The state in which a descriptor has started. -/
def descStarted (s : State) (d : Desc) (f : Fetched) : State :=
  bumpStarted { s with host := { s.host with released := false, fetched := s.host.fetched.erase f } }
    d.session d.sgen.toNat (· + 1)

theorem startDesc_ungrouped {s : State} {d : Desc} (h : DescRuns s d) (i : Instr) (k : State → State) :
    startDesc d i (ungrouped d k) s = k (descStarted s d (.cmd i)) := by
  obtain ⟨-, hfresh, hwait, hbreaks⟩ := h
  have hbreaks' : groupBreaks (descStarted s d (.cmd i)) d = false := hbreaks
  simp only [startDesc, startFetched, hfresh, hwait, Bool.false_eq_true, if_false]
  exact if_neg (by rw [Bool.not_eq_true]; exact hbreaks')

theorem takesCompletion_descStarted {s : State} {d : Desc} (h : DescRuns s d) (f : Fetched) :
    TakesCompletion s (descStarted s d f) d := by
  obtain ⟨hstate, hfresh, -, -⟩ := h
  exact ⟨hstate, hfresh, _, rfl⟩

theorem TakesCompletion.congr {s u v : State} {d : Desc} (h : TakesCompletion s u d) (hhost : v.host = u.host) :
    TakesCompletion s v d := by
  obtain ⟨g, hg⟩ := h.entry
  exact ⟨h.state, h.fresh, g, by rw [session, hhost, ← session, hg]⟩

/-! #### Bytes that arrive (R268) -/

/-- The stream with bytes behind those that wait. -/
def withBytes (x : LdStream) (bs : List Byte) : LdStream := { x with buffer := x.buffer ++ bs }

theorem feed_short {s : State} {x : LdStream} (hstream : s.ldr.stream = some x) (hshort : x.buffer.length < 64)
    (fuel : Nat) : feed fuel s = s := by
  cases fuel with
  | zero => rfl
  | succ n =>
    have hcut : cutSegment x.buffer = none := if_pos hshort
    simp [feed, hstream, hcut]

/-- Bytes that make no whole segment wait. -/
theorem arriveBytes_short {s : State} {x : LdStream} (hstream : s.ldr.stream = some x) {bs : List Byte}
    (hshort : x.buffer.length + bs.length < 64) :
    arriveBytes s bs = onLdr s (fun h => { h with stream := some (withBytes x bs) }) := by
  rw [arriveBytes, hstream]
  exact feed_short (x := withBytes x bs) rfl (by simpa [withBytes] using hshort) _

/-! #### IMAGE (R315, R316) -/

/-- The stream that a descriptor has opened, with the bytes that it brought. -/
def hostStream (d : Desc) (bs binding : List Byte) : LdStream :=
  { freshStream 1 none (d.session.val, d.sgen.toNat) binding with buffer := bs }

/-- The state with that stream. -/
def imageOpened (u : State) (d : Desc) (bs binding : List Byte) : State :=
  onLdr (beginStream u (freshStream 1 (some d) (d.session.val, d.sgen.toNat) binding))
    (fun h => { h with stream := some (hostStream d bs binding) })

theorem imageDesc_opens {u : State} (hopen : loaderOpen u = false) (haccept : pathAccepted u 1 = true)
    (howner : getB u F.LDR_OWNER_VALID = false) (d : Desc) {bs : List Byte} (hshort : bs.length < 64) (binding : List Byte) :
    imageDesc u d true (some bs) (some binding) = complete (imageOpened u d bs binding) d stOK 0 := by
  obtain ⟨x, hx⟩ : ∃ x, x = freshStream 1 (some d) (d.session.val, d.sgen.toNat) binding := ⟨_, rfl⟩
  have hoffer : offerStream u x = beginStream u x := offerStream_opens hopen (by rw [hx]; exact haccept)
  have hdesc : imageDesc u d true (some bs) (some binding) = imageBytes (beginStream u x) d (some bs) := by
    rw [← hoffer, hx]
    simp [imageDesc, hopen, haccept, howner]
  have hcarries : { x with desc := some d } = x := by rw [hx]; rfl
  have hwaits : arriveBytes (onLdr (beginStream u x) (fun h => { h with stream := some x })) bs =
      onLdr (beginStream u x) (fun h => { h with stream := some (withBytes x bs) }) :=
    arriveBytes_short rfl (by rw [hx]; simpa [freshStream] using hshort)
  rw [hdesc]
  simp only [imageBytes, beginStream_ldr, hcarries, hwaits, imageTaken, onLdr_ldr]
  rw [if_pos (by rw [hx]; exact ⟨rfl, rfl, rfl⟩), imageOpened, ← hx]
  rw [hx]
  rfl

section
variable {s : State} {d : Desc} (hruns : DescRuns s d)
include hruns

theorem exec_image (start : Bool) (bytes binding : Option (List Byte)) : exec (.image d start bytes binding) s =
    .next (imageDesc (descStarted s d (.cmd (.image d start bytes binding))) d start bytes binding) :=
  congrArg Host.Outcome.next (startDesc_ungrouped hruns _ _)

/-- START opens a stream, and its bytes wait. -/
theorem image_opens (hopen : loaderOpen s = false) (haccept : pathAccepted s 1 = true)
    (howner : getB s F.LDR_OWNER_VALID = false) {bs : List Byte} (hshort : bs.length < 64) (binding : List Byte) :
    Answers (.image d true (some bs) (some binding)) s (fun t => Posts s t d [] stOK 0 ∧ getF t F.LDR_STATUS_PATH = 1 ∧
      t.ldr.stream = some (hostStream d bs binding)) := by
  obtain ⟨u, hu⟩ : ∃ u, u = descStarted s d (.cmd (.image d true (some bs) (some binding))) := ⟨_, rfl⟩
  have htakes : TakesCompletion s u d := hu ▸ takesCompletion_descStarted hruns _
  have hdesc := imageDesc_opens (u := u) (by rw [hu]; exact hopen) (by rw [hu]; exact haccept) (by rw [hu]; exact howner) d
    hshort binding
  obtain ⟨v, hv⟩ : ∃ v, v = imageOpened u d bs binding := ⟨_, rfl⟩
  have houts : v.outs = s.outs ++ [] := by rw [hv, hu, List.append_nil]; rfl
  obtain ⟨hldr, hfields⟩ := complete_leaves v d stOK 0
  refine ⟨_, exec_image hruns true (some bs) (some binding), ?_⟩
  rw [← hu, hdesc, ← hv]
  refine ⟨(htakes.congr (by rw [hv]; rfl)).posts houts _ _, ?_, ?_⟩
  · rw [hfields _ (by decide), hv, imageOpened, getF_onLdr, path_beginStream]
    rfl
  · rw [hldr, hv]
    rfl

/-- A descriptor that only completes. -/
theorem image_completes {start : Bool} {bytes binding : Option (List Byte)} {status : Nat}
    (hdesc : ∀ f, imageDesc (descStarted s d f) d start bytes binding = complete (descStarted s d f) d status 0) :
    Answers (.image d start bytes binding) s (fun t => Posts s t d [] status 0 ∧ t.ldr = s.ldr) := by
  refine ⟨_, exec_image hruns start bytes binding, ?_⟩
  rw [hdesc]
  exact ⟨(takesCompletion_descStarted hruns _).posts (List.append_nil _).symm _ _, (complete_leaves _ _ _ _).1⟩

end

/-! #### SPI_STREAM (R263, R264) -/

theorem leAt_head (c : Byte) (bs : List Byte) : leAt (c :: bs) 0 1 = c.toNat := by simp [leAt, slice, leNat]

theorem exec_spiStream_command (s : State) (bs : List Byte) : exec (.spiStream (0x10 :: bs)) s = .next (spiBytes s bs) := by
  show execSpiStream _ s = _
  rw [execSpiStream, leAt_head]
  rfl

theorem exec_spiStream_other (s : State) {c : Byte} (hc : c ≠ 0x10) (bs : List Byte) :
    exec (.spiStream (c :: bs)) s = .next s := by
  have hne : c.toNat ≠ 0x10 := fun h => hc (BitVec.eq_of_toNat_eq h)
  show execSpiStream _ s = _
  rw [execSpiStream, leAt_head, if_neg hne]

/-- The byte that finds the FIFO full ends the stream, if it is still open. -/
def afterOverflow (t : State) : State :=
  match t.ldr.stream with
  | some y => if y.path = 2 then endStream t y lsOverflow y.position else t
  | none => t

section
variable {s : State} {x : LdStream} (hstream : s.ldr.stream = some x) (hpath : x.path = 2) {bs : List Byte} (hne : bs ≠ [])
include hstream hpath hne

/-- Bytes that the FIFO has room for. -/
theorem spiBytes_fits (hfits : x.buffer.length + bs.length ≤ 131232) : spiBytes s bs = arriveBytes s bs := by
  have hfree : fifoFree s = 131232 - x.buffer.length := by simp [fifoFree, hstream, hpath]
  have htake : bs.take (fifoFree s) = bs := List.take_of_length_le (by omega)
  have hroom : ¬fifoFree s < bs.length := by omega
  simp only [spiBytes, hne, if_false, hstream, hpath, if_true, ne_eq, not_true_eq_false, htake, hroom, false_and]
  split <;> rfl

/-- More bytes than that. -/
theorem spiBytes_overflows (hroom : x.buffer.length < 131232) (hmore : 131232 < x.buffer.length + bs.length) :
    spiBytes s bs = afterOverflow (arriveBytes s (bs.take (131232 - x.buffer.length))) := by
  have hfree : fifoFree s = 131232 - x.buffer.length := by simp [fifoFree, hstream, hpath]
  have hfull : 131232 - x.buffer.length < bs.length := by omega
  simp only [spiBytes, hne, if_false, hstream, hpath, if_true, ne_eq, not_true_eq_false, hfree, hfull, true_and]
  generalize arriveBytes s (bs.take (131232 - x.buffer.length)) = t
  cases h : t.ldr.stream <;> simp only [afterOverflow, h]

end

/-- The stream of the SPI slave with nothing taken. -/
def freshSpi (s : State) : LdStream := freshStream 2 none (0, 0) (bindBlock s)

/-- A byte with no stream open offers one. -/
theorem spiBytes_opens {s : State} (hopen : loaderOpen s = false) (haccept : pathAccepted s 2 = true)
    {bs : List Byte} (hne : bs ≠ []) : spiBytes s bs = spiBytes (beginStream s (freshSpi s)) bs := by
  have hnone : s.ldr.stream = none := by
    simp only [loaderOpen, Bool.or_eq_false_iff, Option.isSome_eq_false_iff, Option.isNone_iff_eq_none] at hopen
    exact hopen.1
  have hoffer : offerStream s (freshStream 2 none (0, 0) (bindBlock s)) = beginStream s (freshSpi s) :=
    offerStream_opens hopen haccept
  have hpath : (freshSpi s).path = 2 := rfl
  simp only [spiBytes, hne, if_false, hnone, hoffer, beginStream_ldr, hpath, if_true]

/-- Settles O25: IMAGE by what it opens or completes with, SPI_STREAM by the room in its FIFO. -/
theorem hostAndSpiStreamsTakeBytes : Obligations.HostAndSpiStreamsTakeBytes := by
  unfold Obligations.HostAndSpiStreamsTakeBytes
  refine ⟨fun s d bs binding hruns hnone => ⟨fun hopen haccept howner hshort => ?opens, fun howner => ?noBinding, ?goesOn⟩,
    fun s bs hne => ⟨fun c hc _ _ _ => exec_spiStream_other s hc bs, fun hopen haccept hshort => ?spiOpens,
      fun x hstream hpath hshort => ?spiWaits, fun x hstream hpath hroom hmore => ?spiOverflows⟩⟩
  case opens =>
    obtain ⟨t, hexec, hposts, hpath, hstream⟩ := image_opens hruns hopen haccept howner hshort binding
    exact ⟨t, hexec, hposts, hpath, _, hstream, rfl, rfl, rfl, rfl⟩
  case noBinding =>
    refine image_completes hruns fun f => ?_
    have howner' : getB (descStarted s d f) F.LDR_OWNER_VALID = false := howner
    simp [imageDesc, howner']
  case goesOn =>
    refine image_completes hruns fun f => ?_
    have hnone' : (descStarted s d f).ldr.stream = none := hnone
    simp [imageDesc, carries, hnone']
  case spiOpens =>
    obtain ⟨x, hx⟩ : ∃ x, x = freshSpi s := ⟨_, rfl⟩
    have hbuffer : x.buffer = [] := by rw [hx]; rfl
    have hpath : x.path = 2 := by rw [hx]; rfl
    have hstream : (beginStream s x).ldr.stream = some x := rfl
    refine ⟨_, exec_spiStream_command s bs, withBytes x bs, ?_, hpath, ?_, ?_⟩
    · rw [spiBytes_opens hopen haccept hne, ← hx, spiBytes_fits hstream hpath hne (by simp [hbuffer]; omega),
        arriveBytes_short hstream (by simpa [hbuffer] using hshort)]
      rfl
    · rw [withBytes, hbuffer]
      rfl
    · rw [hx]
      rfl
  case spiWaits =>
    refine ⟨_, exec_spiStream_command s bs, ?_⟩
    rw [spiBytes_fits hstream hpath hne (by omega), arriveBytes_short hstream hshort]
    exact ⟨rfl, rfl⟩
  case spiOverflows =>
    have hsome : bs.take (131232 - x.buffer.length) ≠ [] := by
      rw [ne_eq, List.take_eq_nil_iff, not_or]
      exact ⟨by omega, hne⟩
    have hfits : x.buffer.length + (bs.take (131232 - x.buffer.length)).length ≤ 131232 := by
      rw [List.length_take]
      omega
    refine ⟨_, exec_spiStream_command s _, _, exec_spiStream_command s bs, ?_⟩
    rw [spiBytes_fits hstream hpath hsome hfits, spiBytes_overflows hstream hpath hne hroom hmore]
    generalize arriveBytes s (bs.take (131232 - x.buffer.length)) = u
    cases hopen : u.ldr.stream with
    | none => simp [afterOverflow, hopen]
    | some y =>
      by_cases hy : y.path = 2
      · simp only [afterOverflow, hopen, hy, if_true]
        exact loadEnded_endStream (by omega) (by decide) _
      · simp [afterOverflow, hopen, hy]

end Sys2Proof.Machine
end

section
/-! ### Descriptors that only complete, and run-control descriptors that wait -/

namespace Sys2Proof.Machine

/-! #### Completion, and nothing else -/

section
variable {s : State} {d : Desc} (hruns : DescRuns s d)
include hruns

/-- A run-control descriptor that stands in no group reaches the check of its session's ownership (R31). -/
theorem startDesc_ungroupedRun (i : Instr) (k : State → State) :
    startDesc d i (ungroupedRun d k) s = k (descStarted s d (.cmd i)) := by
  obtain ⟨-, hfresh, hwait, hbreaks⟩ := hruns
  have hbreaks' : groupBreaks (descStarted s d (.cmd i)) d = false := hbreaks
  simp only [startDesc, startFetched, hfresh, hwait, Bool.false_eq_true, if_false]
  exact if_neg (by rw [Bool.not_eq_true]; exact hbreaks')

/-- The completion of a descriptor that has just started is all that it does. -/
theorem descStarted_completes (f : Fetched) (status : Nat) :
    let t := complete (descStarted s d f) d status 0
    Posts s t d [] status 0 ∧ t = { s with host := t.host, outs := t.outs } := by
  have htakes := takesCompletion_descStarted hruns f
  exact ⟨htakes.posts (List.append_nil _).symm status 0, htakes.frame status 0⟩

theorem descriptorNop_completes : Answers (.descriptorNop d) s (fun t =>
    Posts s t d [] stOK 0 ∧ t = { s with host := t.host, outs := t.outs }) :=
  ⟨_, congrArg Host.Outcome.next (startDesc_ungrouped hruns _ _), descStarted_completes hruns _ stOK⟩

/-- A session that does not own the loaded Ingot does not reach run control (R31). -/
theorem startDesc_wrongOwner (howner : isOwner s d = false) (i : Instr) (alone : Bool) (k : State → State) :
    startDesc d i (ungroupedRun d (runGate d i alone k)) s = complete (descStarted s d (.cmd i)) d stWrongOwner 0 := by
  have howner' : isOwner (descStarted s d (.cmd i)) d = false := howner
  rw [startDesc_ungroupedRun hruns, runGate, howner']
  rfl

theorem runControl_wrongOwner (howner : isOwner s d = false) (n : DWord) (u : Bool) :
    ∀ c ∈ [Instr.run d n u, .stopNext d, .stopAtCommitted d, .continueAfterFaultClear d], Answers c s (fun t =>
      Posts s t d [] stWrongOwner 0 ∧ t = { s with host := t.host, outs := t.outs }) := by
  have hgate := fun i k => congrArg (Host.Outcome.next (φ := Fault) (ρ := Refusal)) (startDesc_wrongOwner hruns howner i false k)
  have hdone := fun i => descStarted_completes hruns (.cmd i) stWrongOwner
  simp only [List.forall_mem_cons, List.not_mem_nil, false_imp_iff, implies_true, and_true]
  exact ⟨⟨_, hgate _ _, hdone _⟩, ⟨_, hgate _ _, hdone _⟩, ⟨_, hgate _ _, hdone _⟩, ⟨_, hgate _ _, hdone _⟩⟩

end

/-! #### Stale descriptors (R307) -/

/-- A descriptor of another generation is counted, and nothing of it is run. -/
theorem startDesc_stale {s : State} {d : Desc} (hstale : descStale s d = true) (i : Instr) (k : State → State) :
    let t := startDesc d i k s
    t = { s with host := t.host, regs := t.regs } ∧
      getF t F.HST_STALE_DESCRIPTORS = saturate F.HST_STALE_DESCRIPTORS.width (getF s F.HST_STALE_DESCRIPTORS + 1) := by
  simp only [startDesc, startFetched, hstale, if_true]
  refine ⟨rfl, (getF_setF_same _ _ _).trans (Nat.mod_eq_of_lt ?_)⟩
  exact Nat.lt_of_le_of_lt (Nat.min_le_right _ _) (by decide)

theorem stale_counted {s : State} {d : Desc} (hstale : descStale s d = true) (n : DWord) (u : Bool) :
    ∀ c ∈ [Instr.run d n u, .stopNext d, .stopAtCommitted d, .continueAfterFaultClear d, .descriptorNop d],
      Answers c s (fun t => t = { s with host := t.host, regs := t.regs } ∧
        getF t F.HST_STALE_DESCRIPTORS =
          saturate F.HST_STALE_DESCRIPTORS.width (getF s F.HST_STALE_DESCRIPTORS + 1)) := by
  have hstart := fun i k => startDesc_stale hstale i k
  simp only [List.forall_mem_cons, List.not_mem_nil, false_imp_iff, implies_true, and_true]
  exact ⟨⟨_, rfl, hstart _ _⟩, ⟨_, rfl, hstart _ _⟩, ⟨_, rfl, hstart _ _⟩, ⟨_, rfl, hstart _ _⟩, ⟨_, rfl, hstart _ _⟩⟩

/-! #### Descriptors that wait (R622) -/

/-- A boundary that is still to come is asked for: the machine goes on to it. -/
theorem restIfReached_ahead {s : State} {d : Desc} {b : Nat} (hrun : s.run.run = none) (hstops : s.run.stops = [⟨d, b⟩])
    (hahead : s.run.nextCommit ≤ b) : restIfReached s = s := by
  refine if_neg fun h => ?_
  simp only [Bool.and_eq_true, decide_eq_true_eq, restBoundary, hrun, hstops, List.any_cons, List.any_nil, Bool.or_false,
    Bool.false_or, beq_iff_eq] at h
  obtain ⟨⟨-, hpos⟩, hreached⟩ := h
  omega

/-- The first STOP (next) asks for the boundary of the cycle in progress (R32). -/
theorem stopNextBody_first {s : State} {d : Desc} (hexec : executing s = true) (hahead : s.run.nextCommit ≤ currentCycle s)
    (hstops : s.run.stops = []) (hrun : s.run.run = none) :
    stopNextBody d s = onRun s (fun r => { r with stops := r.stops ++ [⟨d, currentCycle s⟩] }) := by
  obtain ⟨t, ht⟩ : ∃ t, t = onRun s (fun r => { r with stops := r.stops ++ [⟨d, currentCycle s⟩] }) := ⟨_, rfl⟩
  have hend : endRun s stCancelled = s := by simp only [endRun, hrun]
  have hasked : t.run.stops = [⟨d, currentCycle s⟩] := by
    rw [ht, onRun_run, hstops]
    rfl
  have hon : restIfReached t = t := restIfReached_ahead (by rw [ht]; exact hrun) hasked (by rw [ht]; exact hahead)
  simp only [stopNextBody, hexec, if_true, hstops, hend, ← ht]
  exact hon

theorem waiting_stopNext_accepted {s : State} {d : Desc} {more : List Instr} (hwaiting : s.run.waiting = .stopNext d :: more)
    (howner : isOwner s d = true) (hrestore : s.run.restore = none) (hexec : executing s = true)
    (hahead : s.run.nextCommit ≤ currentCycle s) (hstops : s.run.stops = []) (hrun : s.run.run = none) :
    Answers .waitingDescriptorAccept s (fun t => t.run.waiting = more ∧ t.run.stops = [⟨d, currentCycle s⟩]) := by
  obtain ⟨u, hu⟩ : ∃ u, u = onRun s (fun r => { r with waiting := more }) := ⟨_, rfl⟩
  have hstop : stopNextBody d u = onRun u (fun r => { r with stops := r.stops ++ [⟨d, currentCycle u⟩] }) := by
    rw [hu]
    exact stopNextBody_first hexec hahead hstops hrun
  have howner' : isOwner u d = true := by rw [hu]; exact howner
  have haccept : exec .waitingDescriptorAccept s = .next (stopNextBody d u) := by
    show execWaitingDescriptorAccept s = _
    simp only [execWaitingDescriptorAccept, hwaiting, mayAccept, hrestore, Option.isNone_none, Bool.or_true, Bool.and_true,
      if_true, acceptWaiting, ← hu, runNow, howner']
  refine ⟨_, haccept, ?_⟩
  rw [hstop, hu]
  exact ⟨rfl, congrArg (· ++ _) hstops⟩

/-- Where the first of those that wait may not be accepted, nothing happens. -/
theorem waiting_stays {s : State} (h : ∀ i more, s.run.waiting = i :: more → mayAccept s i = false) :
    Answers .waitingDescriptorAccept s (fun t => t = s) := by
  refine ⟨s, ?_, rfl⟩
  show execWaitingDescriptorAccept s = _
  unfold execWaitingDescriptorAccept
  split
  next i more hwaiting => rw [h i more hwaiting]; rfl
  · rfl

theorem mayAccept_restoring {s : State} (h : s.run.restore.isSome = true) (i : Instr) : mayAccept s i = false := by
  unfold mayAccept
  rw [Option.isNone_eq_false_iff.2 h, Bool.false_and]

/-- Settles O15: a descriptor by the checks that it meets before its meaning, one that waits by `mayAccept`. -/
theorem descriptorsWaitOrDoNotAct : Obligations.DescriptorsWaitOrDoNotAct := by
  unfold Obligations.DescriptorsWaitOrDoNotAct
  refine ⟨fun s d => ⟨descriptorNop_completes, runControl_wrongOwner, stale_counted⟩,
    fun s d more => ⟨waiting_stopNext_accepted, fun hrestore => waiting_stays fun i _ _ => mayAccept_restoring hrestore i,
      fun dest b addr len image hhallmark hwaiting => waiting_stays fun i is hi => ?_⟩⟩
  have hbusy : s.run.hallmark.isNone = false := Option.isNone_eq_false_iff.2 hhallmark
  rcases hwaiting with hw | hw
  · obtain ⟨rfl, -⟩ := List.cons.inj (hi.symm.trans hw)
    simp [mayAccept, hbusy]
  · obtain ⟨rfl, -⟩ := List.cons.inj (hi.symm.trans hw)
    simp [mayAccept, hbusy]

end Sys2Proof.Machine
end

section
/-! ### Memories of the hub: bytes, words and reservations -/

namespace Sys2Proof.Machine

/-! #### Words of bytes -/

theorem length_leBytes (n x : Nat) : (leBytes n x).length = n := by
  induction n generalizing x with
  | zero => rfl
  | succ n ih => rw [leBytes, List.length_cons, ih]

/-- The bytes of a number spell as much of it as they hold. -/
theorem leNat_leBytes (n x : Nat) : leNat (leBytes n x) = x % 2 ^ (8 * n) := by
  induction n generalizing x with
  | zero => simp [leBytes, leNat, Nat.mod_one]
  | succ n ih =>
    have hpow : 2 ^ (8 * (n + 1)) = 256 * 2 ^ (8 * n) := by rw [Nat.mul_add, Nat.pow_add, Nat.mul_comm]
    rw [leBytes, leNat, ih, BitVec.toNat_ofNat, hpow, Nat.mod_mul]

section
variable (fill : Nat → Byte) (m : Memory) (a : Nat) (bs : List Byte)

theorem readBytes_writeBytes : Memory.readBytes fill (Memory.writeBytes fill m a bs) a bs.length = bs := by
  induction bs generalizing m a with
  | nil => rfl
  | cons b bs ih =>
    have hfirst : Memory.read fill (Memory.writeBytes fill (Memory.write fill m a b) (a + 1) bs) a = b := by
      rw [writeBytes_eq_writeEnabled, read_writeEnabled, if_neg (by omega), Memory.read_write_same]
    rw [List.length_cons, Memory.readBytes, Memory.writeBytes, hfirst, ih]

theorem read_writeBytes_outside {x : Nat} (hx : x < a ∨ a + bs.length ≤ x) :
    Memory.read fill (Memory.writeBytes fill m a bs) x = Memory.read fill m x := by
  rw [writeBytes_eq_writeEnabled, read_writeEnabled]
  split
  next hle =>
    have hout : bs.length ≤ x - a := by omega
    simp [List.getD, hout]
  · rfl

end

/-! #### Places of atomic operations -/

section
variable (s : State) (p : AtomicPlace)

theorem placeEcc_clean : placeEcc s p .clean = s := by cases p <;> rfl

theorem bytesOfPlace_setReserve (c : Nat) (r : Option (Nat × Nat × Nat)) (n : Nat) :
    bytesOfPlace (setReserve s c r) p n = bytesOfPlace s p n := by cases p <;> rfl

theorem reserved_setReserve (s : State) (c : Nat) (r : Option (Nat × Nat × Nat)) : reserved? (setReserve s c r) c = r :=
  SMap.get_set_same none s.ctl.reserve c r

theorem reserved_placeStore (bs : List Byte) (c : Nat) : reserved? (placeStore s p bs) c = reserved? s c := by
  cases p <;> rfl

theorem outs_placeStore (bs : List Byte) : (placeStore s p bs).outs = s.outs := by cases p <;> rfl

/-- A place holds the bytes that were stored there. -/
theorem bytesOfPlace_placeStore (hp : p ≠ .other) (bs : List Byte) : bytesOfPlace (placeStore s p bs) p bs.length = bs := by
  cases p with
  | local_ k => exact readBytes_writeBytes marchFill s.ctl.coreMem k bs
  | firmware k => exact readBytes_writeBytes marchFill s.ctl.fws k bs
  | scratch k =>
    have hwrite := writeBytes_eq_writeEnabled marchFill s.ctl.scratch k bs
    exact (congrArg (Memory.readBytes marchFill · k bs.length) hwrite.symm).trans (readBytes_writeBytes _ _ k bs)
  | other => exact absurd rfl hp

end

/-- Another core's reservation may end; all else stays. -/
structure ReservesBroken (s t : State) (c : Nat) : Prop where
  frame : t = { s with ctl := { s.ctl with reserve := t.ctl.reserve } }
  own : reserved? t c = reserved? s c

theorem reservesBroken_breakReserves (s : State) (c : Nat) (p : AtomicPlace) (n : Nat) :
    ReservesBroken s (breakReserves s c p n) c := by
  unfold breakReserves
  split
  · exact ⟨rfl, rfl⟩
  · refine List.foldlRecOn (motive := fun t => ReservesBroken s t c) _ _ ⟨rfl, rfl⟩ fun t ht k _ => ?_
    obtain ⟨hframe, hown⟩ := ht
    split
    next hbreaks =>
      simp only [ne_eq, decide_not, Bool.and_eq_true, Bool.not_eq_true', decide_eq_false_iff_not] at hbreaks
      refine ⟨?_, Eq.trans (SMap.get_set_other none none t.ctl.reserve (Ne.symm hbreaks.1) none) hown⟩
      rw [setReserve, hframe]
    · exact ⟨hframe, hown⟩

theorem ReservesBroken.bytes {s t : State} {c : Nat} (h : ReservesBroken s t c) (p : AtomicPlace) (n : Nat) :
    bytesOfPlace t p n = bytesOfPlace s p n := by
  rw [h.frame]
  cases p <;> rfl

/-- A word stored, with the reservations of other cores that it breaks. -/
theorem stored_at_place {s : State} {p : AtomicPlace} (hp : p ≠ .other) (c n v : Nat) :
    let t := breakReserves (placeStore s p (leBytes n v)) c p n
    t.outs = s.outs ∧ reserved? t c = reserved? s c ∧ bytesOfPlace t p n = leBytes n v := by
  intro t
  have hbroken := reservesBroken_breakReserves (placeStore s p (leBytes n v)) c p n
  refine ⟨?_, ?_, ?_⟩
  · exact (congrArg State.outs hbroken.frame).trans (outs_placeStore s p _)
  · exact hbroken.own.trans (reserved_placeStore s p _ c)
  · have hbytes := bytesOfPlace_placeStore s p hp (leBytes n v)
    rw [length_leBytes] at hbytes
    exact (hbroken.bytes p n).trans hbytes

end Sys2Proof.Machine
end

section
/-! ### The scratch banks, atomic operations and the reserved range -/

namespace Sys2Proof.Machine

/-! #### Reads and writes of the scratch banks (R530, R531) -/

section
variable {s : State} {site : BankSite} (hpath : site.path ≠ .spi)
include hpath

theorem exec_scratchBankAccess_write {bs : List (Option Byte)} (hin : site.offset.toNat + bs.length ≤ 0x2000000) (n : Nat)
    (e : Ecc) : exec (.scratchBankAccess site (some bs) n e) s = .next (scratchStore s site.offset.toNat bs) := by
  show execScratchBankAccess site (some bs) n e s = _
  simp only [execScratchBankAccess, hpath, if_false, Nat.not_lt.2 hin]

theorem exec_scratchBankAccess_read {n : Nat} (hin : site.offset.toNat + n ≤ 0x2000000) :
    exec (.scratchBankAccess site none n .clean) s = .next (emit s (.readValue (pathCode site.path)
      (leNat (Memory.readBytes marchFill s.ctl.scratch site.offset.toNat n)))) := by
  show execScratchBankAccess site none n .clean s = _
  simp only [execScratchBankAccess, hpath, if_false, Nat.not_lt.2 hin]
  rfl

end

/-! #### Add and swap in the scratch banks (R303, R522) -/

/-- The scratch banks with the word of `n` bytes at `off` replaced. -/
def bankSet (s : State) (off n v : Nat) : State := scratchStore s off ((leBytes n v).map some)

/-- The word of `n` bytes at `off` of the scratch banks. -/
def bankWord (s : State) (off n : Nat) : Nat := leNat (Memory.readBytes marchFill s.ctl.scratch off n)

theorem bankSet_scratch (s : State) (off n v : Nat) :
    (bankSet s off n v).ctl.scratch = Memory.writeBytes marchFill s.ctl.scratch off (leBytes n v) :=
  (writeBytes_eq_writeEnabled _ _ _ _).symm

theorem bankWord_bankSet (s : State) (off n v : Nat) : bankWord (bankSet s off n v) off n = v % 2 ^ (8 * n) := by
  have hbytes := readBytes_writeBytes marchFill s.ctl.scratch off (leBytes n v)
  rw [length_leBytes] at hbytes
  rw [bankWord, bankSet_scratch, hbytes, leNat_leBytes]

theorem read_bankSet_outside (s : State) {off n x : Nat} (hx : x < off ∨ off + n ≤ x) (v : Nat) :
    Memory.read marchFill (bankSet s off n v).ctl.scratch x = Memory.read marchFill s.ctl.scratch x := by
  rw [bankSet_scratch, read_writeBytes_outside marchFill _ _ _ (by rwa [length_leBytes])]

section
variable {s : State} {off n : Nat} (hn : n = 4 ∨ n = 8) (haligned : off % n = 0)
include hn haligned

/-- An AtomicOp of the host that lies in the scratch banks (R303). -/
theorem atomicOp_bank {o : BitVec 26} (ho : o.toNat = 0x2000000 + off) (k : State → Nat → State) :
    atomicOp s o.toNat n k = k s off := by
  have hmalformed : ¬(n = 0 ∨ o.toNat % n ≠ 0) := by
    rcases hn with rfl | rfl <;> omega
  have hreserved : touchesReserved o.toNat n = false := by
    rw [touchesReserved, decide_eq_false (by omega), Bool.false_and]
  have hexr : ¬o.toNat < 0x100000 := by omega
  rw [atomicOp, if_neg hmalformed, hreserved, if_neg Bool.false_ne_true, if_neg hexr, ho, Nat.add_sub_cancel_left]

/-- An atomic operation of a core that finds its word in the scratch banks (R522). -/
theorem coreAtomic_bank (hin : off + n ≤ 0x2000000) {a : DWord} (ha : a.toNat = 0x20000000 + off) (c : Fin 8)
    (k : State → AtomicPlace → State) : coreAtomic s c a.toNat n .clean true k = k s (.scratch off) := by
  have hplace : corePlace s c a.toNat n = .scratch off := by
    rw [corePlace, if_neg (by omega), if_neg (by omega), if_neg (by omega), if_pos (by omega), ha, Nat.add_sub_cancel_left]
  have hmisaligned : ¬a.toNat % n ≠ 0 := by
    rcases hn with rfl | rfl <;> omega
  simp [coreAtomic, hplace, hmisaligned, placeEcc_clean]

end

/-- The old value is returned, and the operation's result stands in its place. -/
theorem scratchRmw_clean (s : State) (off n : Nat) (g : Nat → Nat) :
    scratchRmw s off n .clean g = emit (bankSet s off n (g (bankWord s off n))) (.readValue 0 (bankWord s off n)) := by
  simp [scratchRmw, scratchEcc, bankSet, bankWord]

/-- A core gets it extended by its sign. -/
theorem coreRmw_scratch (s : State) (off n : Nat) (c : Fin 8) (g : Nat → Nat) : coreRmw c n g s (.scratch off) =
    emit (bankSet s off n (g (bankWord s off n))) (.readValue (2 + c.val) (extended n (bankWord s off n))) := rfl

theorem bankAtomic_host (s : State) {off : Nat} {o : BitVec 26} (ho : o.toNat = 0x2000000 + off) (wide : Bool)
    (haligned : off % (if wide then 8 else 4) = 0) (g : Nat → Nat) :
    let n := if wide then 8 else 4
    bankAtomic s (.host o) wide .clean g = emit (bankSet s off n (g (bankWord s off n))) (.readValue 0 (bankWord s off n)) := by
  unfold bankAtomic
  dsimp only
  rw [atomicOp_bank (by cases wide <;> simp) haligned ho, scratchRmw_clean]

theorem bankAtomic_core (s : State) {off : Nat} {a : DWord} (ha : a.toNat = 0x20000000 + off) (c : Fin 8) (wide : Bool)
    (haligned : off % (if wide then 8 else 4) = 0) (hin : off + (if wide then 8 else 4) ≤ 0x2000000) (g : Nat → Nat) :
    let n := if wide then 8 else 4
    bankAtomic s (.core c a) wide .clean g = emit (bankSet s off n (g (bankWord s off n)))
      (.readValue (2 + c.val) (extended n (bankWord s off n))) := by
  unfold bankAtomic
  dsimp only
  rw [coreAtomic_bank (by cases wide <;> simp) haligned hin ha, coreRmw_scratch]

/-- What such an operation leaves. -/
theorem bankSet_answers (s : State) (off n v : Nat) (o : Out) :
    let t := emit (bankSet s off n v) o
    t.outs = s.outs ++ [o] ∧ bankWord t off n = v % 2 ^ (8 * n) ∧
      ∀ x, x < off ∨ off + n ≤ x → Memory.read marchFill t.ctl.scratch x = Memory.read marchFill s.ctl.scratch x :=
  ⟨rfl, bankWord_bankSet s off n v, fun _ hx => read_bankSet_outside s hx v⟩

/-- The host's compare and swap is aborted (R303). -/
theorem exec_cas_host (s : State) {off : BitVec 26} (hoff : 0x2000000 ≤ off.toNat) {x : AtomicAccess}
    (hsize : x.size.val ≠ 0) (haligned : off.toNat % x.size.val = 0) :
    exec (.cas (.host off) x) s = .next (emit s (.answer 0 1)) := by
  have hreserved : touchesReserved off.toNat x.size.val = false := by
    rw [touchesReserved, decide_eq_false (by omega), Bool.false_and]
  have hexr : ¬off.toNat < 0x100000 := by omega
  show execCas (.host off) x s = _
  simp only [execCas, atomicOp, hsize, haligned, ne_eq, not_true_eq_false, or_self, if_false, hreserved, Bool.false_eq_true,
    hexr]

/-! #### A core's operations on its own memory and the firmware SRAM (R522) -/

section
variable {s : State} {c : Fin 8} {addr v : DWord} {size : Fin 17} (hsize : size.val = 4 ∨ size.val = 8)
include hsize

theorem exec_cas_lr : exec (.cas (.core c addr) ⟨size, .lr, v, .clean⟩) s =
    .next (coreAtomic s c addr.toNat size.val .clean false (coreLr c size.val)) := by
  show execCas (.core c addr) _ s = _
  simp only [execCas]
  rw [if_neg (by omega)]

theorem exec_cas_sc : exec (.cas (.core c addr) ⟨size, .sc, v, .clean⟩) s =
    .next (coreAtomic s c addr.toNat size.val .clean false (coreSc c size.val v.toNat)) := by
  show execCas (.core c addr) _ s = _
  simp only [execCas]
  rw [if_neg (by omega)]

/-- The value that an AMO stores. -/
def amoResult (op : AtomicOp) (n : Nat) (v : DWord) (old : Nat) : Nat :=
  (atomicValue op n old (v.toNat % 2 ^ (8 * n))).getD old

theorem exec_cas_amo {op : AtomicOp} (hop : op ≠ .cas ∧ op ≠ .lr ∧ op ≠ .sc) :
    exec (.cas (.core c addr) ⟨size, op, v, .clean⟩) s =
      .next (coreAtomic s c addr.toNat size.val .clean false (coreRmw c size.val (amoResult op size.val v))) := by
  obtain ⟨hcas, hlr, hsc⟩ := hop
  show execCas (.core c addr) _ s = _
  simp only [execCas]
  rw [if_neg (by omega)]
  cases op with
  | cas => exact absurd rfl hcas
  | lr => exact absurd rfl hlr
  | sc => exact absurd rfl hsc
  | _ => rfl

/-- An address that is not aligned (R522). -/
theorem exec_cas_misaligned (haddr : addr.toNat % size.val ≠ 0) {op : AtomicOp} (hop : op ≠ .cas) :
    exec (.cas (.core c addr) ⟨size, op, v, .clean⟩) s = .next (emit s (.answer (2 + c.val) 4)) := by
  have hrefused : ∀ k, coreAtomic s c addr.toNat size.val .clean false k = emit s (.answer (2 + c.val) 4) :=
    fun k => if_pos haddr
  by_cases hlr : op = .lr
  · rw [hlr, exec_cas_lr hsize, hrefused]
  · by_cases hsc : op = .sc
    · rw [hsc, exec_cas_sc hsize, hrefused]
    · rw [exec_cas_amo hsize ⟨hop, hlr, hsc⟩, hrefused]

end

theorem place_of_reservation {p : AtomicPlace} {n : Nat} (h : (reservation p n).isSome = true) : p ≠ .other := by
  rintro rfl
  exact absurd h Bool.false_ne_true

/-- An aligned operation on a place that can be reserved is made there. -/
theorem coreAtomic_reservable {s : State} {c : Fin 8} {a n : Nat} (haligned : a % n = 0)
    (hres : (reservation (corePlace s c a n) n).isSome = true) (k : State → AtomicPlace → State) :
    coreAtomic s c a n .clean false k = k s (corePlace s c a n) := by
  have hnone : (reservation (corePlace s c a n) n).isNone = false := Option.isNone_eq_false_iff.2 hres
  simp [coreAtomic, haligned, hnone, place_of_reservation hres, placeEcc_clean]

section
variable {s : State} {p : AtomicPlace} (c : Fin 8) (n : Nat)

/-- A read-modify-write returns the word before, and leaves the word after. -/
theorem coreRmw_answers (hp : p ≠ .other) (g : Nat → Nat) :
    let old := leNat (bytesOfPlace s p n)
    let t := coreRmw c n g s p
    t.outs = s.outs ++ [.readValue (2 + c.val) (extended n old)] ∧ bytesOfPlace t p n = leBytes n (g old) := by
  obtain ⟨houts, -, hbytes⟩ := stored_at_place (s := s) hp c n (g (leNat (bytesOfPlace s p n)))
  exact ⟨congrArg (· ++ _) houts, hbytes⟩

theorem coreLr_answers : let t := coreLr c n s p
    t.outs = s.outs ++ [.readValue (2 + c.val) (extended n (leNat (bytesOfPlace s p n)))] ∧
      reserved? t c = reservation p n ∧ bytesOfPlace t p n = bytesOfPlace s p n :=
  ⟨rfl, reserved_setReserve s c _, bytesOfPlace_setReserve s p c _ n⟩

/-- SC where the core's reservation stands. -/
theorem coreSc_stores (hres : (reservation p n).isSome = true) (hstands : reserved? s c = reservation p n) (v : Nat) :
    let t := coreSc c n v s p
    t.outs = s.outs ++ [.readValue (2 + c.val) 0] ∧ reserved? t c = none ∧ bytesOfPlace t p n = leBytes n v := by
  have hended := reserved_setReserve s c none
  obtain ⟨houts, hown, hbytes⟩ := stored_at_place (s := setReserve s c none) (place_of_reservation hres) c n v
  simp only [coreSc, hres, hstands, beq_self_eq_true, Bool.and_self, if_true]
  exact ⟨congrArg (· ++ _) houts, hown.trans hended, hbytes⟩

/-- SC where it does not stand. -/
theorem coreSc_fails (hends : reserved? s c ≠ reservation p n) (v : Nat) :
    let t := coreSc c n v s p
    t.outs = s.outs ++ [.readValue (2 + c.val) 1] ∧ reserved? t c = none ∧ bytesOfPlace t p n = bytesOfPlace s p n := by
  have hother : (reserved? s c == reservation p n) = false := beq_eq_false_iff_ne.2 hends
  simp only [coreSc, hother, Bool.and_false, Bool.false_eq_true, if_false]
  exact ⟨rfl, reserved_setReserve s c none, bytesOfPlace_setReserve s p c _ n⟩

end

/-- LR, SC and what the A extension has not store no value. -/
theorem op_of_atomicValue {op : AtomicOp} {n old x y : Nat} (h : atomicValue op n old x = some y) :
    op ≠ .cas ∧ op ≠ .lr ∧ op ≠ .sc := by
  refine ⟨?_, ?_, ?_⟩ <;> rintro rfl <;> cases h

/-! #### The reserved range (R302) -/

theorem reserved_records (s : State) (off : BitVec 26) (write : Bool) :
    let t := reserved s off.toNat write
    getB t F.HST_STATUS_RSVD_ACCESS = true ∧ getF t F.HST_RSVD_ADDR_OFFSET = off.toNat ∧
      t.outs = (if write then s.outs else s.outs ++ [.answer 0 2]) ∧ t = { s with regs := t.regs, outs := t.outs } := by
  obtain ⟨u, hu⟩ : ∃ u, u = setF (setB s F.HST_STATUS_RSVD_ACCESS true) F.HST_RSVD_ADDR_OFFSET off.toNat := ⟨_, rfl⟩
  have hset : getB u F.HST_STATUS_RSVD_ACCESS = true := by
    rw [hu, getB_setF_other _ (by decide)]
    exact getB_setB_same s F.HST_STATUS_RSVD_ACCESS true rfl
  have hoffset : getF u F.HST_RSVD_ADDR_OFFSET = off.toNat := by
    rw [hu, getF_setF_same]
    exact Nat.mod_eq_of_lt (Nat.lt_trans off.isLt (by decide))
  have hframe : u = { s with regs := u.regs } := by rw [hu]; rfl
  have houts : u.outs = s.outs := by rw [hu]; rfl
  have hreserved : reserved s off.toNat write = if write then u else emit u (.answer 0 2) := by rw [hu]; rfl
  rw [hreserved]
  cases write with
  | true => exact ⟨hset, hoffset, houts, by rw [if_pos rfl, hframe]⟩
  | false => exact ⟨hset, hoffset, congrArg (· ++ _) houts, by rw [if_neg Bool.false_ne_true, emit, hframe]⟩

/-- Settles O22: the banks by their bytes, a core's own memories by the place of the word, the reserved range by `reserved`. -/
theorem scratchBanksAndReservedRangeAct : Obligations.ScratchBanksAndReservedRangeAct := by
  unfold Obligations.ScratchBanksAndReservedRangeAct
  refine ⟨fun s => ⟨fun site bs n e hpath => ?write, fun site n hpath hin => ⟨_, exec_scratchBankAccess_read hpath hin, rfl⟩,
      fun site off wide v => ?bank, fun off size v e hoff hsize haligned => ⟨_, exec_cas_host s hoff hsize haligned, rfl⟩⟩,
    fun s c addr v size hsize => ⟨fun haligned hres => ?own,
      fun haddr op hop => ⟨_, exec_cas_misaligned hsize haddr hop, rfl⟩⟩,
    fun s off w a => ⟨_, rfl, reserved_records s off (w && !a)⟩⟩
  case write =>
    intro off hin
    exact ⟨_, exec_scratchBankAccess_write hpath hin n e, rfl, read_writeEnabled marchFill _ _ bs⟩
  case bank =>
    intro n old answer place hplace haligned hin
    cases site with
    | host o =>
      have hatomic := fun g => congrArg (Host.Outcome.next (φ := Fault) (ρ := Refusal)) (bankAtomic_host s hplace wide haligned g)
      exact ⟨⟨_, hatomic _, bankSet_answers s off n _ _⟩, ⟨_, hatomic _, bankSet_answers s off n _ _⟩⟩
    | core c a =>
      have hatomic := fun g => congrArg (Host.Outcome.next (φ := Fault) (ρ := Refusal)) (bankAtomic_core s hplace c wide haligned hin g)
      exact ⟨⟨_, hatomic _, bankSet_answers s off n _ _⟩, ⟨_, hatomic _, bankSet_answers s off n _ _⟩⟩
  case own =>
    have hat := fun k => congrArg (Host.Outcome.next (φ := Fault) (ρ := Refusal)) (coreAtomic_reservable haligned hres k)
    have hp := place_of_reservation hres
    refine ⟨fun op x hx => ⟨_, (exec_cas_amo hsize (op_of_atomicValue hx)).trans (hat _), ?_⟩,
      ⟨_, (exec_cas_lr hsize).trans (hat _), coreLr_answers c _⟩,
      fun hstands => ⟨_, (exec_cas_sc hsize).trans (hat _), coreSc_stores c _ hres hstands _⟩,
      fun hends => ⟨_, (exec_cas_sc hsize).trans (hat _), coreSc_fails c _ hends _⟩⟩
    obtain ⟨houts, hbytes⟩ := coreRmw_answers (s := s) c size.val hp (amoResult op size.val v)
    refine ⟨houts, hbytes.trans ?_⟩
    rw [amoResult, hx, Option.getD_some]

end Sys2Proof.Machine
end

section
/-! ### What the end of a session's work moves -/

namespace Sys2Proof.Machine

/-! #### Completions among operations that leave the host interface -/

/-- `t` follows from `r` by completions of descriptors and by operations that leave the host interface. -/
inductive CompletesFrom (r : State) : State → Prop where
  | refl : CompletesFrom r r
  | keep {s t : State} (h : CompletesFrom r s) (hhost : t.host = s.host) : CompletesFrom r t
  | complete {s : State} (h : CompletesFrom r s) (d : Desc) (status result : Nat) :
      CompletesFrom r (complete s d status result)

section
variable {r s t : State}

theorem CompletesFrom.ite {c : Prop} [Decidable c] (h : CompletesFrom r s) (h' : CompletesFrom r t) :
    CompletesFrom r (if c then s else t) := by
  split <;> assumption

theorem CompletesFrom.foldl {α : Type} {g : State → α → State} (hg : ∀ t a, CompletesFrom r t → CompletesFrom r (g t a))
    (h : CompletesFrom r s) (xs : List α) : CompletesFrom r (xs.foldl g s) := by
  induction xs generalizing s with
  | nil => exact h
  | cons x xs ih => exact ih (hg s x h)

theorem CompletesFrom.onChn (h : CompletesFrom r s) (g : Chn → Chn) : CompletesFrom r (onChn s g) := h.keep rfl

theorem CompletesFrom.setCtx (h : CompletesFrom r s) (c : Nat) (x : ChanCtx) : CompletesFrom r (setCtx s c x) := h.keep rfl

theorem CompletesFrom.onItem (h : CompletesFrom r s) (i : WorkItem) (g : WorkItem → WorkItem) :
    CompletesFrom r (onItem s i g) := h.keep rfl

theorem CompletesFrom.onRun (h : CompletesFrom r s) (g : RunCtl → RunCtl) : CompletesFrom r (onRun s g) := h.keep rfl

theorem CompletesFrom.onAsy (h : CompletesFrom r s) (g : Asy → Asy) : CompletesFrom r (onAsy s g) := h.keep rfl

theorem CompletesFrom.setF (h : CompletesFrom r s) (f : Fld) (v : Nat) : CompletesFrom r (setF s f v) := h.keep rfl

theorem CompletesFrom.setB (h : CompletesFrom r s) (f : Fld) (b : Bool) : CompletesFrom r (setB s f b) := h.setF f _

theorem CompletesFrom.completeDescs (h : CompletesFrom r s) (ds : List Desc) (status : Nat) :
    CompletesFrom r (completeDescs s ds status) := .foldl (fun _ d h => h.complete d _ _) h _

/-! #### Channels (R356, R364) -/

theorem hbmPut_host (s : State) (pc a : Nat) (v : Byte) : (hbmPut s pc a v).host = s.host := by
  unfold hbmPut
  split <;> rfl

theorem winWrite_host (s : State) (w x : Nat) (v : Byte) : (winWrite s w x v).host = s.host := by
  unfold winWrite
  dsimp only
  split
  · rw [hbmPut_host, hbmPut_host]
  · exact hbmPut_host s _ _ v

theorem fifoWrite_host (s : State) (x : ChanCtx) (b : Nat) (vs : List Byte) : (fifoWrite s x b vs).host = s.host := by
  induction vs generalizing s b with
  | nil => rfl
  | cons v vs ih => exact (ih _ _).trans (winWrite_host _ _ _ _)

theorem CompletesFrom.discardFree (h : CompletesFrom r s) (c : Nat) : CompletesFrom r (discardFree s c) :=
  .setCtx (.onChn (h.keep (fifoWrite_host _ _ _ _)) _) _ _

theorem CompletesFrom.finishClose (h : CompletesFrom r s) (c : Nat) : CompletesFrom r (finishClose s c) := by
  unfold Machine.finishClose
  exact .ite (.foldl (fun _ d h => h.complete d _ _) (((h.setCtx _ _).onChn _).setF _ _) _) h

theorem CompletesFrom.releaseItem (h : CompletesFrom r s) (i : WorkItem) (q : DoneRecord) :
    CompletesFrom r (releaseItem s i q) := by
  unfold Machine.releaseItem
  extract_lets x sTaken y sWritten sMoved n v sRead timer sTimed
  have htaken : CompletesFrom r sTaken := h.onChn _
  have hwritten : CompletesFrom r sWritten := htaken.setCtx _ _
  have hmoved : CompletesFrom r sMoved := .ite (hwritten.discardFree _) hwritten
  have hread : CompletesFrom r sRead := htaken.setCtx _ _
  have htimed : CompletesFrom r sTimed := .ite hread (hread.onChn _)
  refine .ite (htaken.setF _ _) (.ite ?_ ?_)
  · split
    · exact .ite hmoved (.ite (hmoved.onChn _) (.ite (hmoved.complete _ _ _) hmoved))
    · exact hmoved
  · split
    · exact .ite (htimed.complete _ _ _) htimed
    · exact htimed

theorem CompletesFrom.releaseDone (h : CompletesFrom r s) (c n : Nat) : CompletesFrom r (releaseDone s c n) := by
  induction n generalizing s with
  | zero => exact h
  | succ n ih =>
    unfold Machine.releaseDone
    split
    · split
      · exact ih (h.releaseItem _ _)
      · exact h
    · exact h

theorem CompletesFrom.settleChan (h : CompletesFrom r s) (c : Nat) : CompletesFrom r (settleChan s c) := by
  have hdropped : CompletesFrom r (dropStale s c) := .foldl (fun t i h => h.releaseItem _ _) h _
  have hreleased := hdropped.releaseDone c (chanItems s c).length
  unfold Machine.settleChan refreshReady
  exact .finishClose ((hreleased.onChn _).setF _ _) c

theorem CompletesFrom.cancelItem (h : CompletesFrom r s) (status : Nat) (i : WorkItem) :
    CompletesFrom r (cancelItem status s i) := by
  have hended : ∀ d : Desc, CompletesFrom r (if i.settled then s else Machine.complete s d status 0) :=
    fun d => .ite h (h.complete d status 0)
  unfold Machine.cancelItem
  refine .onItem ?_ _ _
  split
  · exact hended _
  · exact h

theorem CompletesFrom.completeSent (h : CompletesFrom r s) (c gen b cycle : Nat) :
    CompletesFrom r (completeSent s c gen b cycle) := .foldl (fun _ m h => h.complete m.desc _ _) (h.onChn _) _

theorem CompletesFrom.closeTaken (h : CompletesFrom r s) (c : Nat) : CompletesFrom r (closeTaken s c) :=
  .foldl (fun _ _ h => h.completeSent _ _ _ _) (h.onChn _) _

theorem CompletesFrom.closeChan (h : CompletesFrom r s) (c : Nat) : CompletesFrom r (closeChan s c) := by
  unfold Machine.closeChan
  extract_lets x sSent src sFree sItems
  have hsent : CompletesFrom r sSent := .foldl (fun _ m h => h.complete m.desc _ _) ((h.setCtx _ _).onChn _) _
  have hfree : CompletesFrom r sFree := .ite (hsent.discardFree c) (hsent.setCtx _ _)
  have hitems : CompletesFrom r sItems := .foldl (fun _ i h => h.cancelItem _ i) hfree _
  exact .ite (.settleChan (.ite (hitems.closeTaken c) hitems) c) h

theorem CompletesFrom.closeChans (h : CompletesFrom r s) (which : ChanCtx → Bool) : CompletesFrom r (closeChans s which) :=
  .foldl (fun _ c h => h.closeChan c) h _

/-! #### The load and the run control of a session (R271, R279) -/

theorem CompletesFrom.loadClosed (h : CompletesFrom r s) (path : Nat) (desc : Option Desc) (code seg : Nat) :
    CompletesFrom r (loadClosed s path desc code seg) := by
  have hidle : CompletesFrom r (statusIdle s) := (((h.setF _ _).setF _ _).setF _ _).setB _ _
  have hshown : CompletesFrom r (resultShown (statusIdle s) path code seg) := ((hidle.setF _ _).setF _ _).setF _ _
  cases desc with
  | none => exact hshown
  | some d => exact hshown.complete d _ _

theorem streamDropped_host (s : State) (x : LdStream) (code : Nat) : (streamDropped s x code).host = s.host := by
  unfold streamDropped
  dsimp only
  split
  · split <;> rfl
  · rfl

/-- A load on the host path ends with its session. -/
theorem CompletesFrom.sessionLost (h : CompletesFrom r s) (i gen : Nat) : CompletesFrom r (sessionLost s i gen) := by
  unfold Machine.sessionLost
  split
  next x _ =>
    split
    next hmine =>
      rw [endStream_eq, closeLoad_of_ne (by omega)]
      exact (h.keep (streamDropped_host _ _ _)).loadClosed _ _ _ _
    · exact h
  · split
    next y _ =>
      split
      next hmine =>
        have hdropped : CompletesFrom r (onLdr s (fun l => { l with install := none, staging := [] })) := h.keep rfl
        rw [endInstall, closeLoad_of_ne (by omega)]
        exact hdropped.loadClosed _ _ _ _
      · exact h
    · exact h

theorem CompletesFrom.endRunControl (h : CompletesFrom r s) (status : Nat) : CompletesFrom r (endRunControl s status) := by
  have hrun : CompletesFrom r (endRun s status) := by
    unfold endRun
    split
    · exact (h.onRun _).complete _ _ _
    · exact h
  have hstops : CompletesFrom r (endStops (endRun s status) status) :=
    .foldl (fun _ q h => h.complete q.desc _ _) (hrun.onRun _) _
  unfold Machine.endRunControl
  extract_lets sEnded ds sDone sAsy sShown
  have hdone : CompletesFrom r sDone := hstops.completeDescs ds status
  exact (((hdone.onAsy _).setB _ _).setB _ _).onRun _

theorem CompletesFrom.ownerWrite (h : CompletesFrom r s) (v : Nat) : CompletesFrom r (ownerWrite s v) := by
  have hplain : CompletesFrom r (plainWrite s 0x30014 v) := by
    rw [plainWrite_owner]
    exact ((h.setF _ _).setF _ _).setF _ _
  exact .ite (.ite h hplain) (.ite (hplain.endRunControl _) hplain)

end

/-! #### A CLOSED session takes no completion (R308) -/

section
variable {i j : Nat} (hij : j ≠ i) (s : State)
include hij

theorem session_setSession_other (e : Session) : session (setSession s i e) j = session s j :=
  SMap.get_set_other _ _ _ hij _

theorem session_signalSession_other : session (signalSession s i) j = session s j := by
  refine (session_setSession_other hij _ _).trans ?_
  unfold signal
  split <;> rfl

theorem session_postCompletion_other (irq : Bool) (tag status result : Nat) :
    session (postCompletion s i irq tag status result) j = session s j := by
  have hposting : session (posting s i tag status result) j = session s j := session_setSession_other hij _ _
  rw [postCompletion_eq]
  split
  · rw [session_signalSession_other hij, hposting]
  · exact hposting

end

/-- A completion leaves the entry of a session that is CLOSED. -/
theorem session_complete_closed {s : State} {i : Nat} (hclosed : (session s i).state = 0) (d : Desc) (status result : Nat) :
    session (complete s d status result) i = session s i := by
  obtain ⟨u, hu⟩ : ∃ u, u = bumpStarted (bumpLive s d.session d.sgen.toNat (· - 1)) d.session d.sgen.toNat (· - 1) := ⟨_, rfl⟩
  have hsame : ∀ k, session u k = session s k := fun k => by rw [hu]; rfl
  have hcounted : session (bumpF u F.HST_STALE_CPL_COMPLETIONS 1) i = session s i := hsame i
  rw [← hsame] at hclosed
  unfold complete
  dsimp only
  rw [← hu]
  split
  · exact hcounted
  next htakes =>
    have hother : i ≠ d.session.val := fun h => htakes (.inl (h ▸ hclosed))
    split
    · rw [session_setSession_other hother, hsame]
    · rw [session_postCompletion_other hother, hsame]

theorem CompletesFrom.closedSession {r t : State} (h : CompletesFrom r t) {i : Nat} (hclosed : (session r i).state = 0) :
    session t i = session r i := by
  induction h with
  | refl => rfl
  | keep _ hhost ih => rw [session, hhost, ← session, ih]
  | complete _ d status result ih => rw [session_complete_closed (by rw [ih]; exact hclosed), ih]

end Sys2Proof.Machine
end

section
/-! ### The session table -/

namespace Sys2Proof.Machine

/-! #### OPEN and CLOSE (R304 to R306) -/

theorem openSession_opens {s : State} (hclosed : (session s (indexed s)).state = 0)
    (hconfig : configOk (takeStaging s (session s (indexed s))) = true) (hnone : itemsHeld s (indexed s) = false) :
    openSession s = setSession s (indexed s) (takeStaging s (session s (indexed s))) := if_pos ⟨hclosed, hconfig, hnone⟩

theorem openSession_rejected {s : State} (h : (session s (indexed s)).state ≠ 0) :
    openSession s = setSession s (indexed s) { session s (indexed s) with reject := true } :=
  if_neg fun hopens => h hopens.1

/-- Nothing but the named session's entry differs once that is replaced. -/
theorem setSession_answers (s : State) (i : Nat) (e : Session) : let t := setSession s i e
    session t i = e ∧ (∀ j, j ≠ i → session t j = session s j) ∧ t.regs = s.regs :=
  ⟨session_setSession s i e, fun _ hj => session_setSession_other hj s e, rfl⟩

/-- The entry of a session that has been closed. -/
def closedEntry (e : Session) : Session :=
  { e with state := 0, gen := (e.gen + 1) % 16, held := [], group := [], badGroup := false }

/-- What CLOSE does after the entry is closed moves no entry that is CLOSED. -/
theorem closeSession_leaves {s : State} (h : (session s (indexed s)).state ≠ 0) (hgroup : (session s (indexed s)).group = []) :
    session (closeSession s) (indexed s) = closedEntry (session s (indexed s)) := by
  obtain ⟨u, hu⟩ : ∃ u, u = setSession s (indexed s) (closedEntry (session s (indexed s))) := ⟨_, rfl⟩
  have hentry : session u (indexed s) = closedEntry (session s (indexed s)) := by rw [hu, session_setSession]
  unfold closeSession
  extract_lets i e owner sClosed sHeld sDropped sChans sLost
  have hdropped : session sDropped i = session u i := by
    have hnone : completeAll sHeld e.group stCancelled 0 = sHeld := by rw [show e.group = [] from hgroup]; rfl
    rw [show sDropped = dropFenced (completeAll sHeld e.group stCancelled 0) i e.gen from rfl, hnone, hu]
    rfl
  have hlost : CompletesFrom sDropped sLost := ((CompletesFrom.refl).closeChans _).sessionLost i e.gen
  have hshown : CompletesFrom sDropped
      (showSuspended (if owner then ownerWrite sLost (getF sLost F.LDR_OWNER_GEN * 4096 + i) else sLost)) :=
    .keep (.ite (hlost.ownerWrite _) hlost) rfl
  rw [if_neg h, hshown.closedSession (by rw [hdropped, hentry]; rfl), hdropped, hentry]

/-! #### ATTACH (R330) -/

/-- A session to which a completion has been posted: its message may have been sent at once. -/
theorem session_postCompletion (s : State) (i : Nat) (irq : Bool) (tag status result : Nat) :
    ∃ n, session (postCompletion s i irq tag status result) i = { afterPosting s (session s i) with unsignalled := n } := by
  have hposting : session (posting s i tag status result) i = afterPosting s (session s i) := session_setSession _ _ _
  rw [postCompletion_eq]
  split
  · exact ⟨0, by rw [signalSession, session_setSession, hposting]⟩
  · exact ⟨_, hposting⟩

/-- The one completion held is posted to the session's ring, which is opened first. -/
theorem attachSession_posts {s : State} {h : HeldCompletion} (hstate : (session s (indexed s)).state = 2)
    (hconfig : configOk (takeStaging s (session s (indexed s))) = true) (hheld : (session s (indexed s)).held = [h]) :
    attachSession s = showSuspended (postCompletion (setSession s (indexed s) (takeStaging s (session s (indexed s))))
      (indexed s) h.irq h.tag.toNat h.status h.result) := by
  unfold attachSession
  dsimp only
  rw [if_pos ⟨hstate, hconfig⟩, hheld]
  rfl

theorem attached_answers (s : State) (i : Nat) (e : Session) (irq : Bool) (tag status result : Nat)
    (hposted : e.posted = 0) :
    let t := showSuspended (postCompletion (setSession s i e) i irq tag status result)
    (session t i).state = e.state ∧ (session t i).posted = 1 ∧ (session t i).held = e.held ∧
      Out.completion i 0 (completionSlot e) (completionEntry e tag status result) ∈ t.outs := by
  obtain ⟨n, hentry⟩ := session_postCompletion (setSession s i e) i irq tag status result
  have houts := postCompletion_outs (setSession s i e) i irq tag status result
  rw [session_setSession] at hentry houts
  intro t
  have hshown : session t i = { afterPosting (setSession s i e) e with unsignalled := n } := hentry
  rw [hshown, afterPosting, hposted]
  rw [hposted] at houts
  refine ⟨rfl, rfl, rfl, ?_⟩
  show _ ∈ (postCompletion (setSession s i e) i irq tag status result).outs
  rcases houts with hsent | hsent <;> rw [hsent] <;> simp

/-! #### HST_SESS_INDEX (R304) -/

/-- The state whose staging registers show a session's entry. -/
def entryShown (s : State) (e : Session) : State :=
  let s := set64 (set64 (set64 s F.HST_SESS_SQ_LO_ADDR F.HST_SESS_SQ_HI_ADDR e.sq) F.HST_SESS_CQ_LO_ADDR
    F.HST_SESS_CQ_HI_ADDR e.cq) F.HST_SESS_DB_LO_ADDR F.HST_SESS_DB_HI_ADDR e.db
  let s := setF (setF s F.HST_SESS_CFG_SQ_LOG2 e.sqLog) F.HST_SESS_CFG_CQ_LOG2 e.cqLog
  setF (setF (setF s F.HST_SESS_CFG_VECTOR e.vector) F.HST_SESS_CFG_COAL_COUNT e.coalCount)
    F.HST_SESS_COAL_COAL_TIME e.coalTime

/-- Each register holds as much of its item as it has room for, and HST_SESS_INDEX stays. -/
theorem entryShown_fields (s : State) (e : Session) : let t := entryShown s e
    indexed t = indexed s ∧
      getF t F.HST_SESS_SQ_LO_ADDR = e.sq % 2 ^ 32 ∧ getF t F.HST_SESS_SQ_HI_ADDR = e.sq / 2 ^ 32 % 2 ^ 32 ∧
      getF t F.HST_SESS_CQ_LO_ADDR = e.cq % 2 ^ 32 ∧ getF t F.HST_SESS_DB_LO_ADDR = e.db % 2 ^ 32 ∧
      getF t F.HST_SESS_CFG_SQ_LOG2 = e.sqLog % 2 ^ 5 ∧ getF t F.HST_SESS_CFG_CQ_LOG2 = e.cqLog % 2 ^ 5 ∧
      getF t F.HST_SESS_CFG_VECTOR = e.vector % 2 ^ 11 := by
  simp (disch := decide) only [entryShown, indexed, set64, getF_setF_other, getF_setF_same]
  exact ⟨trivial, rfl, rfl, rfl, rfl, rfl, rfl, rfl⟩

/-- The staging registers of a session. -/
abbrev stagingFields : List Fld := [F.HST_SESS_SQ_LO_ADDR, F.HST_SESS_SQ_HI_ADDR, F.HST_SESS_CQ_LO_ADDR, F.HST_SESS_CQ_HI_ADDR,
  F.HST_SESS_DB_LO_ADDR, F.HST_SESS_DB_HI_ADDR, F.HST_SESS_CFG_SQ_LOG2, F.HST_SESS_CFG_CQ_LOG2, F.HST_SESS_CFG_VECTOR,
  F.HST_SESS_CFG_COAL_COUNT, F.HST_SESS_COAL_COAL_TIME]

theorem OnlyFields.set64 {s t : State} {fs : List Fld} (h : OnlyFields s t fs) {lo hi : Fld} (hlo : lo ∈ fs) (hhi : hi ∈ fs)
    (v : Nat) : OnlyFields s (set64 t lo hi v) fs := (h.setF hlo v).setF hhi _

theorem onlyFields_entryShown (s : State) (e : Session) : OnlyFields s (entryShown s e) stagingFields := by
  have hrings := (((OnlyFields.refl s stagingFields).set64 (by simp) (by simp) e.sq
    (lo := F.HST_SESS_SQ_LO_ADDR) (hi := F.HST_SESS_SQ_HI_ADDR)).set64 (by simp) (by simp) e.cq
    (lo := F.HST_SESS_CQ_LO_ADDR) (hi := F.HST_SESS_CQ_HI_ADDR)).set64 (by simp) (by simp) e.db
    (lo := F.HST_SESS_DB_LO_ADDR) (hi := F.HST_SESS_DB_HI_ADDR)
  unfold entryShown
  exact ((((hrings.setF (by simp) _).setF (by simp) _).setF (by simp) _).setF (by simp) _).setF (by simp) _

theorem plainWrite_sessIndex (s : State) (v : Nat) :
    plainWrite s 0x50040 v = setF s F.HST_SESS_INDEX_SESSION (bitsOf v 0 12) := by
  have hfields : fieldsAt 0x50040 = [F.HST_SESS_INDEX_SESSION] := rfl
  rw [plainWrite, hfields]
  rfl

theorem indexed_plainWrite (s : State) (v : Nat) : indexed (plainWrite s 0x50040 v) = v % 2 ^ 12 := by
  rw [plainWrite_sessIndex, indexed, getF_setF_same]
  simp [bitsOf, F.HST_SESS_INDEX_SESSION]

theorem sessIndexWrite_shows (s : State) (v : Nat) :
    sessIndexWrite s v = entryShown (plainWrite s 0x50040 v) (session s (v % 2 ^ 12)) := by
  have hsession : session (plainWrite s 0x50040 v) (indexed (plainWrite s 0x50040 v)) = session s (v % 2 ^ 12) := by
    rw [indexed_plainWrite, plainWrite_sessIndex]
    rfl
  rw [← hsession]
  rfl

/-- Settles O23: OPEN and CLOSE by the entry that they store, ATTACH by the completion that it posts first, HST_SESS_INDEX by
the registers that it loads. -/
theorem sessionTableCommandsAct : Obligations.SessionTableCommandsAct := by
  unfold Obligations.SessionTableCommandsAct
  refine ⟨fun s => ⟨fun hclosed hconfig hnone => ⟨_, congrArg Host.Outcome.next (openSession_opens hclosed hconfig hnone), ?_⟩,
      fun hbusy => ⟨_, congrArg Host.Outcome.next (openSession_rejected hbusy), setSession_answers s _ _⟩,
      fun hbusy hgroup => ⟨_, rfl, ?_⟩,
      fun h hstate hconfig hheld => ⟨_, congrArg Host.Outcome.next (attachSession_posts hstate hconfig hheld),
        attached_answers s _ _ h.irq h.tag.toNat h.status h.result rfl⟩⟩,
    fun s v => ⟨_, congrArg Host.Outcome.next (sessIndexWrite_shows s v.toNat), ?_⟩⟩
  · obtain ⟨hentry, hothers, hregs⟩ := setSession_answers s (indexed s) (takeStaging s (session s (indexed s)))
    refine ⟨hentry, ?_, ?_, ?_, hothers, hregs⟩ <;> rw [hentry] <;> rfl
  · show _ ∧ _ ∧ _
    rw [show sessCmdWrite s 2 = closeSession s from rfl, closeSession_leaves hbusy hgroup]
    exact ⟨rfl, rfl, rfl⟩
  · obtain ⟨hindex, hfields⟩ := entryShown_fields (plainWrite s 0x50040 v.toNat) (session s (v.toNat % 2 ^ 12))
    obtain ⟨hsqLo, hsqHi, hcq, hdb, hsqLog, hcqLog, hvector⟩ := hfields
    refine ⟨hindex.trans (indexed_plainWrite s _), hsqLo, hsqHi, hcq, hdb, hsqLog, hcqLog, hvector, ?_⟩
    have hframe := (onlyFields_entryShown (plainWrite s 0x50040 v.toNat) (session s (v.toNat % 2 ^ 12))).2
    rw [hframe, (onlyFields_plainWrite s 0x50040 v.toNat).2]

end Sys2Proof.Machine
end

section
/-! ### The doorbell sweep and the coalescing timeout -/

namespace Sys2Proof.Machine

/-! #### The sweep (R324, R326, R331) -/

/-- What the end of a sweep leaves: nothing but the times and counts of the sweeps differs. -/
structure SweepEnded (s t : State) : Prop where
  frame : t = { s with host := t.host }
  sessions : t.host.sessions = s.host.sessions
  fetched : t.host.fetched = s.host.fetched
  live : t.host.live = s.host.live

theorem sweepEnded_endSweep (s : State) : SweepEnded s (endSweep s) := by
  unfold endSweep startSweep
  dsimp only
  split <;> exact ⟨rfl, rfl, rfl, rfl⟩

theorem SweepEnded.session {s t : State} (h : SweepEnded s t) (i : Nat) : session t i = session s i :=
  congrArg (SMap.get Session.closed · i) h.sessions

theorem SweepEnded.liveCount {s t : State} (h : SweepEnded s t) (i gen : Nat) : liveCount t i gen = liveCount s i gen :=
  congrArg (SMap.get 0 · (i * 16 + gen)) h.live

theorem SweepEnded.regs {s t : State} (h : SweepEnded s t) : t.regs = s.regs := by rw [h.frame]

theorem SweepEnded.outs {s t : State} (h : SweepEnded s t) : t.outs = s.outs := by rw [h.frame]

theorem summaryAddr_congr {s t : State} (h : t.regs = s.regs) : summaryAddr t = summaryAddr s := by
  rw [summaryAddr, getF_congr h, getF_congr h, summaryAddr]

theorem exec_doorbellSweep_disabled {s : State} (hen : getB s F.HST_CTRL_FETCH_EN = false) (m : HostMem)
    (lost : List (Fin 4096)) : exec (.doorbellSweep m.cells m.bad lost) s = .next (endSweep s) := by
  show execDoorbellSweep m.cells m.bad lost s = _
  rw [execDoorbellSweep, hen]
  rfl

/-- What a sweep reads, once the one before it has ended. -/
def sweepRead (m : HostMem) (u : State) : State :=
  match hostBytes m (summaryAddr u) 512 with
  | some bs => (flagged bs).foldl (doorbell m) u
  | none => u

/-- A bitmap that flags one session has its doorbell read. -/
theorem sweepRead_one {u : State} {m : HostMem} {bits : List Byte} {i : Nat}
    (hbits : hostBytes m (summaryAddr u) 512 = some bits) (hflagged : flagged bits = [i]) :
    sweepRead m u = doorbell m u i := by
  rw [sweepRead, hbits]
  simp only [hflagged, List.foldl_cons, List.foldl_nil]

theorem sweepRead_fails {u : State} {m : HostMem} (hbits : hostBytes m (summaryAddr u) 512 = none) : sweepRead m u = u := by
  rw [sweepRead, hbits]

section
variable {s : State} {m : HostMem} (hen : getB s F.HST_CTRL_FETCH_EN = true) (hmaster : s.host.busMaster = true)
include hen hmaster

theorem exec_doorbellSweep_enabled (lost : List (Fin 4096)) : exec (.doorbellSweep m.cells m.bad lost) s = .next (sweepRead m
    (lost.foldl (fun t i => if (session t i).state = 1 then ringError t i 4 else t) (endSweep s))) := by
  show execDoorbellSweep m.cells m.bad lost s = _
  simp only [execDoorbellSweep, hen, hmaster, Bool.and_self, if_true]
  rfl

theorem exec_doorbellSweep_one {bits : List Byte} {i : Nat} (hbits : hostBytes m (summaryAddr s) 512 = some bits)
    (hflagged : flagged bits = [i]) : exec (.doorbellSweep m.cells m.bad []) s = .next (doorbell m (endSweep s) i) := by
  rw [← summaryAddr_congr (sweepEnded_endSweep s).regs] at hbits
  exact (exec_doorbellSweep_enabled hen hmaster []).trans (congrArg _ (sweepRead_one hbits hflagged))

/-- A session whose completion write has failed has a ring error (R326). -/
theorem exec_doorbellSweep_lost {i : Fin 4096} (hopen : (session s i).state = 1)
    (hbits : hostBytes m (summaryAddr s) 512 = none) :
    exec (.doorbellSweep m.cells m.bad [i]) s = .next (ringError (endSweep s) i 4) := by
  have hended := sweepEnded_endSweep s
  have hopen' : (session (endSweep s) i).state = 1 := by rw [hended.session, hopen]
  have haddr : summaryAddr (ringError (endSweep s) i 4) = summaryAddr s := summaryAddr_congr hended.regs
  rw [← haddr] at hbits
  exact (exec_doorbellSweep_enabled hen hmaster [i]).trans
    (congrArg _ ((congrArg (sweepRead m) (if_pos hopen')).trans (sweepRead_fails hbits)))

end

theorem session_ringError (s : State) (i cause : Nat) :
    session (ringError s i cause) i = { session s i with error := cause, stopped := true } := session_setSession _ _ _

/-! #### Doorbells and the fetching of descriptors (R307, R309, R321, R322) -/

section
variable (s : State) (i : Nat) (f : Fetched)

theorem session_fetchOne : session (fetchOne s i f) i = { session s i with fetched := (session s i).fetched + 1 } :=
  session_setSession _ _ _

theorem liveCount_fetchOne :
    liveCount (fetchOne s i f) i (session s i).gen = liveCount s i (session s i).gen + 1 :=
  SMap.get_set_same 0 s.host.live (i * 16 + (session s i).gen) (liveCount s i (session s i).gen + 1)

end

/-- One descriptor of the session's generation, for whose completion the ring has room. -/
theorem fetchRing_one {s : State} {i : Nat} {m : HostMem} {slot : List Byte}
    (hslot : hostBytes m (descSlot (session s i) (session s i).fetched) 64 = some slot)
    (hgen : leAt slot 4 1 % 16 = (session s i).gen) (hroom : cqRoom s i = true) :
    fetchRing i m 1 s = fetchOne s i (fetchedOf i slot m) := by
  simp only [fetchRing, hslot, hgen, ne_eq, not_true_eq_false, if_false, hroom, if_true]

section
variable {s : State} {i : Nat} {m : HostMem} (hopen : (session s i).state = 1) (hfetches : (session s i).stopped = false)
include hopen hfetches

theorem doorbell_unread (hread : hostBytes m (session s i).db 8 = none) : doorbell m s i = ringError s i 3 := by
  simp [doorbell, hopen, hfetches, hread]

/-- The state in which the one descriptor of a doorbell has been fetched. -/
def oneFetched (s : State) (i : Nat) (m : HostMem) (slot : List Byte) : State :=
  fetchOne (setSession s i (session s i)) i (fetchedOf i slot m)

/-- A doorbell of the session's generation that announces one descriptor and accepts no completion. -/
theorem doorbell_announces {b slot : List Byte} (hread : hostBytes m (session s i).db 8 = some b)
    (hgen : bitsOf (leNat b) 60 4 = (session s i).gen) (hone : past28 (bitsOf (leNat b) 0 28) (session s i).fetched = 1)
    (hnone : past28 (bitsOf (leNat b) 28 28) (session s i).cqSeen = 0)
    (hslot : hostBytes m (descSlot (session s i) (session s i).fetched) 64 = some slot)
    (hslotGen : leAt slot 4 1 % 16 = (session s i).gen) (hroom : cqRoom s i = true) :
    doorbell m s i = emit (oneFetched s i m slot)
      (.fetchWord i ((session s i).db + 8) (fetchWord (session (oneFetched s i m slot) i))) := by
  have hsame := session_setSession s i (session s i)
  have hroom' : cqRoom (setSession s i (session s i)) i = true := by
    rw [cqRoom, hsame]
    exact hroom
  have hring := fetchRing_one (s := setSession s i (session s i)) (m := m) (slot := slot) (by rw [hsame]; exact hslot)
    (by rw [hsame]; exact hslotGen) hroom'
  have hgoes : ¬((session s i).state ≠ 1 ∨ (session s i).stopped = true) := by simp [hopen, hfetches]
  have hfits : ¬2 ^ (session s i).sqLog < 1 := Nat.not_lt.2 Nat.one_le_two_pow
  unfold doorbell
  dsimp only
  rw [if_neg hgoes, hread]
  dsimp only
  rw [hone, hnone, if_neg (not_not.2 hgen), if_neg hfits, if_neg (Nat.not_lt_zero _), if_neg (by simp)]
  rw [oneFetched, ← hring]
  rfl

end

/-- It has been fetched from its slot and counted. -/
theorem oneFetched_leaves (s : State) (i : Nat) (m : HostMem) (slot : List Byte) :
    let t := oneFetched s i m slot
    session t i = { session s i with fetched := (session s i).fetched + 1 } ∧
      liveCount t i (session s i).gen = liveCount s i (session s i).gen + 1 ∧
      t.host.fetched = s.host.fetched ++ [fetchedOf i slot m] ∧ t.outs = s.outs ∧ t.regs = s.regs := by
  have hsame := session_setSession s i (session s i)
  have hfetched := session_fetchOne (setSession s i (session s i)) i (fetchedOf i slot m)
  have hlive := liveCount_fetchOne (setSession s i (session s i)) i (fetchedOf i slot m)
  have hcount : ∀ e g, liveCount (setSession s i e) i g = liveCount s i g := fun _ _ => rfl
  rw [hsame] at hfetched hlive
  rw [hcount] at hlive
  exact ⟨hfetched, hlive, rfl, by simp [oneFetched, fetchOne], by simp [oneFetched, fetchOne]⟩

/-! #### The coalescing timeout (R327) -/

/-- The message of a session is sent, or set pending where its vector is masked. -/
theorem signalSession_answers (s : State) (i : Nat) :
    let e := session s i
    let t := signalSession s i
    session t i = { e with unsignalled := 0 } ∧
      if vectorMasked s e.vector then t.outs = s.outs ∧ t.host.pba.get false e.vector = true
      else t.outs = s.outs ++ [.msix e.vector] := by
  refine ⟨session_setSession _ _ _, ?_⟩
  simp only [signalSession, signal]
  split
  · exact ⟨rfl, SMap.get_set_same false s.host.pba (session s i).vector true⟩
  · rfl

/-- Settles O24: a sweep by what of the bitmap, the doorbell and the ring can be read; a timeout by the age of the oldest
completion. -/
theorem doorbellAndCoalesceCommandsAct : Obligations.DoorbellAndCoalesceCommandsAct := by
  unfold Obligations.DoorbellAndCoalesceCommandsAct
  refine ⟨fun s i m => ⟨fun hen hmaster hopen hfetches => ⟨?announced, fun bits hbits hflagged hread => ?unread,
      fun hbits => ?lost⟩, fun hen lost => ?disabled⟩, fun s i => ⟨fun hopen htime hsome hold => ?due, fun hnone => ?early⟩⟩
  case announced =>
    intro bits b slot hbits hflagged hread hslot hgen hone hnone hslotGen hroom
    have hended := sweepEnded_endSweep s
    have hexec := exec_doorbellSweep_one hen hmaster hbits hflagged
    generalize endSweep s = u at hended hexec
    have hsession := hended.session i.val
    have hroom' : cqRoom u i.val = true := by
      rw [cqRoom, hsession, hended.liveCount]
      exact hroom
    rw [← hsession] at hopen hfetches hread hslot hgen hone hnone hslotGen ⊢
    rw [doorbell_announces hopen hfetches hread hgen hone hnone hslot hslotGen hroom'] at hexec
    obtain ⟨hentry, hlive, hlisted, houts, hregs⟩ := oneFetched_leaves u i.val m slot
    refine ⟨_, hexec, hentry, ?_, ?_, ?_, hregs.trans hended.regs⟩
    · rw [← hended.liveCount]
      exact hlive
    · rw [← hended.fetched]
      exact hlisted
    · rw [emit_outs, hentry, houts, hended.outs]
  case unread =>
    have hended := sweepEnded_endSweep s
    have hexec := exec_doorbellSweep_one hen hmaster hbits hflagged
    rw [← hended.session] at hopen hfetches hread
    rw [doorbell_unread hopen hfetches hread] at hexec
    exact ⟨_, hexec, by rw [session_ringError, hended.session], hended.outs⟩
  case lost =>
    have hended := sweepEnded_endSweep s
    exact ⟨_, exec_doorbellSweep_lost hen hmaster hopen hbits, by rw [session_ringError, hended.session], hended.outs⟩
  case disabled =>
    have hended := sweepEnded_endSweep s
    exact ⟨_, exec_doorbellSweep_disabled hen m lost, hended.frame, hended.sessions, hended.fetched⟩
  case due =>
    exact ⟨_, congrArg Host.Outcome.next (if_pos ⟨hopen, htime, hsome, hold⟩), signalSession_answers s i⟩
  case early =>
    refine ⟨s, congrArg Host.Outcome.next (if_neg fun h => ?_), rfl⟩
    obtain ⟨-, -, hsome, hold⟩ := h
    rcases hnone with hzero | hyoung
    · exact hsome hzero
    · exact absurd hold (Nat.not_le.2 hyoung)

end Sys2Proof.Machine
end


section
/-! ### The host resets and a channel's priority -/

namespace Sys2Proof.Machine

/-- A stopped machine with no load under way, on which channel 0 is open with one DESCRIPTOR item and the priority 16352.
CH_OPEN takes priorities below 8 only (R353), but the statement takes every state; the CHN_READY entry of this one is at
0x60080 + 4 * 16352 = 0x70000, where ARY_STATE stands. -/
def outrankedChannel : State :=
  { State.reset with
    regs := SMap.put State.reset.regs F.ARY_STATE_STATE.key 4
    chn := { Chn.reset with
      ctxs := [(0, { ChanCtx.free with state := 1, kind := 1, priority := 16352 })]
      items := [{ blankItem with type := 1 }] } }

theorem emState_outrankedChannel : emState outrankedChannel = 4 := by decide +kernel

/-- The reset settles the channel and writes the length of its ready list, which is empty, over the machine's state. -/
theorem emState_hostReset_outrankedChannel : emState (hostReset outrankedChannel) = 0 := by decide +kernel

theorem exec_functionLevelReset (s : State) : exec .functionLevelReset s = .next (hostReset s) := rfl

/-- Refutes O50: a Function Level Reset of `outrankedChannel`, with no load under way, takes STATE of the machine from
STOPPED to EMPTY, and the statement has it as it was. -/
theorem not_resetsKeepWhatTheirClassKeeps : ¬ Obligations.ResetsKeepWhatTheirClassKeeps := by
  unfold Obligations.ResetsKeepWhatTheirClassKeeps
  intro h
  obtain ⟨-, -, -, -, -, hflr, -⟩ := h outrankedChannel
  obtain ⟨t, hexec, -, -, -, hkept⟩ := hflr
  obtain rfl : hostReset outrankedChannel = t := by
    rw [exec_functionLevelReset] at hexec
    exact Host.Outcome.next.inj hexec
  obtain ⟨-, hstate⟩ := hkept rfl rfl
  rw [emState_hostReset_outrankedChannel, emState_outrankedChannel] at hstate
  exact absurd hstate (by decide)

end Sys2Proof.Machine
end

section
/-! ### Message channels and a channel's priority -/

namespace Sys2Proof.Machine

/-- A D2H stream channel, number 0, OPEN with one released byte at the start of window 0, and with the priority 49185.
CH_OPEN takes priorities below 8 only (R353), but the statements take every state; the CHN_READY entry of this one is at
0x60080 + 4 * 49185 = 0x90104, where BASE of window 0 stands, so that an item made for the channel moves the window. -/
def outrankedStream : ChanCtx := { ChanCtx.free with state := 1, kind := 2, priority := 49185, wr := 1 }

/-- Session 0 is OPEN, the HBM holds 0x5A at the start of window 0, and the drain timer of the stream channel has expired with
no buffer posted. -/
def outrankedDrained : State :=
  { State.reset with
    host := { HostIf.reset with sessions := [(0, { Session.closed with state := 1 })] }
    mem := { DesignMem.reset with hbm := [(0, 0x5A)] }
    chn := { Chn.reset with ctxs := [(0, outrankedStream)], drained := [(0, true)] } }

/-- A STREAM_POST's buffer of one byte at host address 0. -/
def postedByte : WorkItem := { blankItem with type := 1, opcode := 0x34, length := 1 }

/-- The same with a buffer posted to the channel, whose drain timer runs. -/
def outrankedDraining : State :=
  { outrankedDrained with
    chn := { Chn.reset with
      ctxs := [(0, { outrankedStream with nextSeq := 1 })], items := [postedByte], drain := [(0, some 0)] } }

/-- A descriptor of session 0. -/
def streamDesc : Desc := { session := 0, sgen := 0, tag := 0, irq := false, link := false, fence := false }

theorem drainBytes_outranked : drainBytes outrankedDrained 0 1 = [0x5A] ∧ drainBytes outrankedDraining 0 1 = [0x5A] := by
  decide +kernel

/-- The new item makes the ready list one channel long, and the drain that follows reads the HBM at BASE 1, where it holds 0:
the FIFO's byte is not sent. -/
theorem streamPost_outrankedDrained : ∃ t, exec (.streamPost streamDesc ⟨0, 0⟩ 0 1) outrankedDrained = .next t ∧
    Out.hostWrite 0 [0] ∈ t.outs ∧ Out.hostWrite 0 [0x5A] ∉ t.outs :=
  ⟨_, rfl, by decide +kernel⟩

/-- The TIMEOUT item moves the window in the same way before the posted buffer is filled. -/
theorem drainTimeout_outrankedDraining : ∃ t, exec (.drainTimeout 0) outrankedDraining = .next t ∧
    Out.hostWrite 0 [0] ∈ t.outs ∧ Out.hostWrite 0 [0x5A] ∉ t.outs :=
  ⟨_, rfl, by decide +kernel⟩

/-- Refutes O31: a STREAM_POST to the drained channel of `outrankedDrained` sends 0, and the statement has it send the byte
0x5A that the FIFO holds. -/
theorem not_channelDescriptorsAct : ¬ Obligations.ChannelDescriptorsAct := by
  unfold Obligations.ChannelDescriptorsAct
  intro h
  have hruns : DescRuns outrankedDrained streamDesc := by unfold DescRuns; decide +kernel
  obtain ⟨-, -, -, -, -, hpost, -⟩ := h outrankedDrained streamDesc ⟨0, 0⟩ 0 hruns
  obtain ⟨-, -, hdrained⟩ := hpost 1 (by decide +kernel) (by decide) (by decide)
  obtain ⟨t, hexec, hsent, -⟩ := hdrained rfl rfl rfl
  obtain ⟨t', hexec', -, hnot⟩ := streamPost_outrankedDrained
  obtain rfl := Host.Outcome.next.inj (hexec.symm.trans hexec')
  obtain ⟨hbytes, -⟩ := drainBytes_outranked
  exact hnot (hbytes ▸ hsent)

/-- Refutes O32: the drain timer of `outrankedDraining` fills the posted buffer with 0, and the statement has it filled with
the byte 0x5A that the FIFO holds. -/
theorem not_channelEnginesTakeCopyAndEndItems : ¬ Obligations.ChannelEnginesTakeCopyAndEndItems := by
  unfold Obligations.ChannelEnginesTakeCopyAndEndItems
  intro h
  obtain ⟨-, -, -, -, -, hdrain, -⟩ := h outrankedDraining 0
  obtain ⟨-, hexpired⟩ := hdrain 0
  obtain ⟨hposted, -⟩ := hexpired rfl rfl rfl (by decide)
  obtain ⟨t, hexec, hsent⟩ := hposted postedByte rfl
  obtain ⟨t', hexec', -, hnot⟩ := drainTimeout_outrankedDraining
  obtain rfl := Host.Outcome.next.inj (hexec.symm.trans hexec')
  obtain ⟨-, hbytes⟩ := drainBytes_outranked
  exact hnot (hbytes ▸ hsent)

end Sys2Proof.Machine
end

section
/-! ### Fuses only burn -/

namespace Sys2Proof.Machine

/-- Settles O58: burned fuses are part of `Keeps`, which `step_keeps` gives of every step; taking the front command off the
queue burns none. -/
theorem noStepClearsAFuseBit : Obligations.NoStepClearsAFuseBit := by
  unfold Obligations.NoStepClearsAFuseBit
  intro s t hstep
  have hkeeps : Keeps { s with pending := s.pending.tail } t := step_keeps.keeps t hstep
  exact hkeeps.fuses

end Sys2Proof.Machine
end

section
/-! ### Fuses -/

namespace Sys2Proof.Machine

theorem getB_congr {s t : State} (h : t.regs = s.regs) (f : Fld) : getB t f = getB s f := by
  rw [getB, getB, getF_congr h]

section
variable (s : State)

/-- What a burn of the listed entries leaves: the bits of each stand in the array, and the shadow shows its word. -/
def Burned (es : List (Nat × Nat × Nat)) (t : State) : Prop :=
  ∀ e ∈ es, fuseWord t e.2.1 &&& e.2.2 = e.2.2 ∧ fuseShadow t e.2.1 = fuseWord t e.2.1

theorem fuseWord_burnEntry (e : Nat × Nat × Nat) (w : Nat) :
    fuseWord (burnEntry s e) w = if w = e.2.1 then fuseWord s w ||| e.2.2 else fuseWord s w := by
  unfold burnEntry fuseWord
  split
  next h => simp [h]
  next h => simp [h]

theorem fuseShadow_burnEntry (e : Nat × Nat × Nat) (w : Nat) :
    fuseShadow (burnEntry s e) w = if w = e.2.1 then fuseWord s w ||| e.2.2 else fuseShadow s w := by
  unfold burnEntry fuseShadow fuseWord
  split
  next h => simp [h]
  next h => simp [h]

/-- A burned word keeps the bits that it had. -/
theorem land_burned {x bits more : Nat} (h : x &&& bits = bits) : (x ||| more) &&& bits = bits := by
  rw [Nat.and_or_distrib_right, h]
  apply Nat.eq_of_testBit_eq
  intro i
  cases hb : bits.testBit i <;> simp [hb]

/-- One entry more is burned, and those before it stay so. -/
theorem burned_burnEntry {es : List (Nat × Nat × Nat)} (h : Burned es s) (e : Nat × Nat × Nat) :
    Burned (es ++ [e]) (burnEntry s e) := by
  intro x hx
  rw [fuseWord_burnEntry, fuseShadow_burnEntry]
  split
  next hword =>
    refine ⟨?_, rfl⟩
    rcases List.mem_append.mp hx with hx | hx
    · exact land_burned (h x hx).1
    · rw [List.mem_singleton.mp hx, Nat.or_comm]
      exact land_burned (Nat.and_self _)
  next hword =>
    rcases List.mem_append.mp hx with hx | hx
    · exact h x hx
    · exact absurd (List.mem_singleton.mp hx ▸ rfl) hword

theorem burned_foldl (es : List (Nat × Nat × Nat)) {done : List (Nat × Nat × Nat)} (h : Burned done s) :
    Burned (done ++ es) (es.foldl burnEntry s) := by
  induction es generalizing s done with
  | nil => simpa using h
  | cons e es ih => simpa using ih _ (burned_burnEntry s h e)

/-- Burning entries leaves every register as it is. -/
theorem regs_foldl_burnEntry (es : List (Nat × Nat × Nat)) : (es.foldl burnEntry s).regs = s.regs := by
  induction es generalizing s with
  | nil => rfl
  | cons e es ih => exact ih _

/-- A burn has ended with result `r`. -/
def BurnEnded (t : State) (r : Nat) : Prop := t.sec.burn = [] ∧ getB t F.SEC_STATUS_FUSE_BUSY = false ∧
  getF t F.SEC_FUSE_RESULT_RESULT = r ∧ getF t F.SEC_PRESENCE_STATUS_LAST_RESULT = r

theorem burnEnded_endBurn (entry : Nat) {r : Nat} (hr : r < 256) : BurnEnded (endBurn s entry r) r := by
  have hwidth : r % 2 ^ 8 = r := Nat.mod_eq_of_lt hr
  unfold endBurn presenceResult
  refine ⟨rfl, ?_, ?_, ?_⟩
  · simp (disch := decide) only [getB_setF_other, getB_setB_same]
  · simp (disch := decide) only [getF_setF_other, getF_setF_same]
    exact hwidth
  · rw [getF_setF_same]
    exact hwidth

/-- The end of a burn names its entry, and leaves the fields outside the status of the burn. -/
theorem entry_endBurn {entry : Nat} (he : entry < 32) (r : Nat) :
    getF (endBurn s entry r) F.SEC_FUSE_RESULT_ENTRY = entry := by
  unfold endBurn presenceResult
  simp (disch := decide) only [getF_setF_other, getF_setF_same]
  exact Nat.mod_eq_of_lt he

theorem vfuseOk_endBurn (entry r : Nat) : getB (endBurn s entry r) F.SEC_STATUS_VFUSE_OK = getB s F.SEC_STATUS_VFUSE_OK := by
  unfold endBurn presenceResult
  simp (disch := decide) only [getB_setF_other, getB_setB_other]
  rfl

variable {s}

/-- A burn that is broken off while it runs ends with FUSE_FAIL (R566). -/
theorem breakBurn_ends (h : s.sec.burn ≠ []) : BurnEnded (breakBurn s) 6 ∧
    getB (breakBurn s) F.SEC_STATUS_VFUSE_OK = getB s F.SEC_STATUS_VFUSE_OK := by
  unfold breakBurn
  rw [if_neg h]
  dsimp only [drawFree]
  have hlen : Config.freeValue s.draws % s.sec.burn.length < s.sec.burn.length := Nat.mod_lt _ (List.length_pos_of_ne_nil h)
  split
  next e es hdrop =>
    refine ⟨burnEnded_endBurn _ _ (by decide), ?_⟩
    rw [vfuseOk_endBurn]
    exact getB_congr (regs_foldl_burnEntry { s with draws := s.draws + 1 } _) _
  next hdrop => exact absurd (List.drop_eq_nil_iff.mp hdrop) (by omega)

/-- A burn that meets a word that does not verify ends there (R565). -/
theorem execProgramFuses_stuck {k : Fin 16} {e : Nat × Nat × Nat} (h : s.sec.burn.find? (fun e => e.1 == k.val) = some e) :
    ∃ u, exec (.programFuses (some k)) s = .next (endBurn u k.val 6) := by
  have hne : s.sec.burn ≠ [] := by
    rintro hnil
    rw [hnil] at h
    cases h
  have hk : e.1 = k.val := by simpa using List.find?_some h
  refine ⟨burnPart ((s.sec.burn.takeWhile (fun e => !(e.1 == k.val))).foldl burnEntry s) e, ?_⟩
  show execProgramFuses (some k) s = _
  simp only [execProgramFuses, if_neg hne, h, hk]

/-- A burn whose every word verifies burns its entries in order. -/
theorem execProgramFuses_whole (h : s.sec.burn ≠ []) :
    exec (.programFuses none) s = .next (endBurn (s.sec.burn.foldl burnEntry s) 0 0) := by
  have hall : s.sec.burn.takeWhile (fun _ => true) = s.sec.burn := List.takeWhile_eq_self_iff.mpr fun _ _ => rfl
  have hnone : s.sec.burn.find? (fun _ => false) = none := List.find?_eq_none.mpr fun _ _ => by simp
  show execProgramFuses none s = _
  simp only [execProgramFuses, if_neg h, Bool.not_false, hall, hnone]

end

/-- Settles O47: a whole burn by the entries that it has burned, one that breaks off by the entry that it meets. -/
theorem fuseCommandsAct : Obligations.FuseCommandsAct := by
  unfold Obligations.FuseCommandsAct
  intro s
  refine ⟨fun h k => ⟨s, if_pos h, rfl⟩, fun h => ?_, fun k e h => ?_, ?_, ?_⟩
  · refine ⟨_, execProgramFuses_whole h, burnEnded_endBurn _ _ (by decide), ?_⟩
    exact burned_foldl s s.sec.burn (done := []) fun _ hx => nomatch hx
  · obtain ⟨u, hu⟩ := execProgramFuses_stuck h
    exact ⟨_, hu, burnEnded_endBurn _ _ (by decide), entry_endBurn _ (by omega) _⟩
  · have hlow : getB (setB s F.SEC_STATUS_VFUSE_OK false) F.SEC_STATUS_VFUSE_OK = false := getB_setB_same _ _ _ rfl
    refine ⟨_, rfl, ?_, fun h => ?_, fun h => (breakBurn_ends (s := setB s _ false) h).1⟩
    · by_cases h : s.sec.burn = []
      · rw [breakBurn, if_pos (by exact h)]
        exact hlow
      · exact (breakBurn_ends (s := setB s _ false) h).2.trans hlow
    · rw [breakBurn, if_pos (by exact h)]
      exact (OnlyFields.refl s _).setB (by simp) _
  · refine ⟨_, rfl, rfl, ?_, rfl⟩
    exact getF_setF_same _ _ _

end Sys2Proof.Machine
end

section
/-! ### The battery-backed key -/

namespace Sys2Proof.Machine

/-- Erasing the key takes LOADED and the check value with it, and TAMPERED stays as it was (R568). -/
theorem eraseBbk_answers (s : State) : (eraseBbk s).sec = { s.sec with bbk := 0 } ∧
    getB (eraseBbk s) F.SEC_BBK_LOADED = false ∧ getF (eraseBbk s) F.SEC_BBK_KCV = 0 ∧
    getB (eraseBbk s) F.SEC_BBK_TAMPERED = getB s F.SEC_BBK_TAMPERED := by
  unfold eraseBbk
  refine ⟨rfl, ?_, ?_, ?_⟩
  · simp (disch := decide) only [getB_setF_other, getB_setB_same]
  · simp only [getF_setF_same, Nat.zero_mod]
  · simp (disch := decide) only [getB_setF_other, getB_setB_other]
    rfl

/-- KEY_SEL 4 names the battery-backed key where it may be used (R568). -/
theorem loadKey_bbk (s : State) : loadKey s 4 =
    if getB s F.SEC_BBK_LOADED = true ∧ (fuseShadow s 52).testBit 1 = false then some s.sec.bbk else none := by
  simp [loadKey]

/-- A segment in sequence whose key is not usable ends its stream with check 3 (R270). -/
theorem takeSegment_keyless {s : State} {x : LdStream} {h ct tag : List Byte} (hpath : x.path ≠ 3)
    (hfit : headerFits h = true) (hlen : ct.length = leAt h 12 4) (htag : tag.length = 16) (hseq : inSequence x h = true)
    (hkey : loadKey s (leAt h 6 1) = none) : LoadEnded (takeSegment s x h ct tag) lsKey := by
  unfold takeSegment
  dsimp only
  rw [if_neg (by simp [hfit, hlen, htag]), if_neg (by simp [hseq]), hkey]
  refine loadEnded_endStream ?_ (by decide) _
  split <;> exact hpath

/-- Settles O48: KEY_SEL 4 by the two conditions that `loadKey` puts on it. -/
theorem batteryBackedKeyIsErasedAndUsable : Obligations.BatteryBackedKeyIsErasedAndUsable := by
  unfold Obligations.BatteryBackedKeyIsErasedAndUsable
  intro s v usable
  have hunusable : ¬usable → loadKey s 4 = none := fun h => (loadKey_bbk s).trans (if_neg h)
  refine ⟨fun low => ?_, fun h => ?_, fun h => ?_, fun h => (loadKey_bbk s).trans (if_pos h), hunusable,
    fun x h ct tag hstream hpath hfit hlen htag hseq hsel hnot => ?_⟩
  · obtain ⟨hsec, hloaded, -, -⟩ := eraseBbk_answers s
    refine ⟨_, rfl, hsec, ?_, ?_, getB_setB_same _ _ _ rfl⟩
    · simp (disch := decide) only [getB_setB_other]
      exact hloaded
    · simp (disch := decide) only [getB_setB_other, getB_setB_same]
  · rw [← BitVec.testBit_toNat] at h
    exact ⟨_, congrArg Host.Outcome.next (if_pos h), eraseBbk_answers s⟩
  · rw [← BitVec.testBit_toNat] at h
    exact ⟨_, congrArg Host.Outcome.next (if_neg (by simp [h])), rfl⟩
  · exact ⟨_, exec_segment hstream h ct tag, takeSegment_keyless hpath hfit hlen htag hseq (hsel ▸ hunusable hnot)⟩

end Sys2Proof.Machine
end

section
/-! ### The presence protocol -/

namespace Sys2Proof.Machine

/-! #### Disarming -/

/-- The staged key of LOAD_BBK. -/
def stagedKeyFields : List Fld := (List.range 8).map F.SEC_BBK_STAGE_KEY

/-- What the end of a window changes (R569, R572). -/
def openWindowFields : List Fld := [F.SEC_STATUS_WINDOW, F.SEC_PRESENCE_STATUS_SECONDS_LEFT] ++ stagedKeyFields

/-- What disarming changes. -/
def disarmFields : List Fld := [F.SEC_STATUS_ARMED, F.SEC_PRESENCE_STATUS_ARMED_CMD] ++ openWindowFields

section
variable (s : State)

theorem clearBbkStage_eq : clearBbkStage s = zeroed s stagedKeyFields := rfl

theorem stageKey_clearBbkStage (w : Fin 8) : getF (clearBbkStage s) (F.SEC_BBK_STAGE_KEY w) = 0 := by
  have hkeys : ∀ f ∈ stagedKeyFields, ∀ g ∈ stagedKeyFields, g.key = f.key → g = f := by decide
  have hmem : F.SEC_BBK_STAGE_KEY w ∈ stagedKeyFields := List.mem_map_of_mem (List.mem_range.mpr w.isLt)
  exact getF_zeroed hmem (fun g hg => hkeys _ hmem g hg) s

theorem onlyFields_closeWindow : OnlyFields s (closeWindow s) openWindowFields := by
  unfold closeWindow
  split
  · exact (((OnlyFields.refl s _).setB (by simp [openWindowFields]) _).setF (by simp [openWindowFields]) _).trans
      ((onlyFields_zeroed stagedKeyFields _).mono (by simp [openWindowFields]))
  · exact .refl s _

theorem window_closeWindow : getB (closeWindow s) F.SEC_STATUS_WINDOW = false := by
  unfold closeWindow
  split
  · rw [clearBbkStage_eq, FieldsBut.bit (onlyFields_zeroed _ _).1 (by decide)]
    simp (disch := decide) only [getB_setF_other, getB_setB_same]
  next h => simpa using h

theorem onlyFields_disarm : OnlyFields s (disarm s) disarmFields :=
  (((onlyFields_closeWindow s).mono (by simp [disarmFields])).setB (by simp [disarmFields]) _).setF (by simp [disarmFields]) _

theorem getF_disarm {f : Fld} (hf : ∀ g ∈ disarmFields, f.key ≠ g.key) : getF (disarm s) f = getF s f :=
  (onlyFields_disarm s).1 f hf

theorem getB_disarm {f : Fld} (hf : ∀ g ∈ disarmFields, f.key ≠ g.key) : getB (disarm s) f = getB s f :=
  (onlyFields_disarm s).1.bit hf

/-- The authorisation is used up: nothing is armed, and the window is closed. -/
def Spent (t : State) : Prop := getB t F.SEC_STATUS_ARMED = false ∧ getB t F.SEC_STATUS_WINDOW = false ∧
  getF t F.SEC_PRESENCE_STATUS_ARMED_CMD = 0

theorem spent_disarm : Spent (disarm s) := by
  unfold disarm
  refine ⟨?_, ?_, ?_⟩
  · simp (disch := decide) only [getB_setF_other, getB_setB_same]
  · simp (disch := decide) only [getB_setF_other, getB_setB_other, window_closeWindow]
  · simp

/-- What comes after a disarming and leaves the fields of the window as they are leaves the authorisation used up. -/
theorem Spent.of_fieldsBut {t u : State} {fs : List Fld} (h : Spent t) (hfields : FieldsBut t u fs)
    (hfs : ∀ f ∈ [F.SEC_STATUS_ARMED, F.SEC_STATUS_WINDOW, F.SEC_PRESENCE_STATUS_ARMED_CMD], ∀ g ∈ fs, f.key ≠ g.key) :
    Spent u := by
  obtain ⟨harmed, hwindow, hcmd⟩ := h
  exact ⟨(hfields.bit (hfs _ (by simp))).trans harmed, (hfields.bit (hfs _ (by simp))).trans hwindow,
    (hfields _ (hfs _ (by simp))).trans hcmd⟩

/-! #### Arming -/

theorem arm_answers (c : Nat) : if 1 ≤ c ∧ c ≤ 6 then getB (arm s c) F.SEC_STATUS_ARMED = true ∧
    getF (arm s c) F.SEC_PRESENCE_STATUS_ARMED_CMD = c ∧ getB (arm s c) F.SEC_STATUS_WINDOW = false else arm s c = s := by
  unfold arm
  split
  next h =>
    refine ⟨?_, ?_, ?_⟩
    · simp (disch := decide) only [getB_setF_other, getB_setB_same]
    · rw [getF_setF_same]
      exact Nat.mod_eq_of_lt (Nat.lt_of_le_of_lt h.2 (by decide))
    · simp (disch := decide) only [getB_setF_other, getB_setB_other, window_closeWindow]
  · rfl

section
variable {s} {v : Word} (hexecute : v.getLsbD 31 = false)
include hexecute

theorem presenceCtrlWrite_arm (hdisarm : v.getLsbD 30 = false) : presenceCtrlWrite s v.toNat = arm s (v.toNat % 16) := by
  rw [← BitVec.testBit_toNat] at hexecute hdisarm
  rw [presenceCtrlWrite, hexecute, hdisarm]
  rfl

theorem presenceCtrlWrite_disarm (hdisarm : v.getLsbD 30 = true) (harm : v.toNat % 16 = 0) :
    presenceCtrlWrite s v.toNat = clearBbkStage (disarm s) := by
  rw [← BitVec.testBit_toNat] at hexecute hdisarm
  rw [presenceCtrlWrite, hexecute, hdisarm, harm]
  rfl

end

theorem presenceCtrlWrite_execute {v : Word} (hdisarm : v.getLsbD 30 = false) (hexecute : v.getLsbD 31 = true)
    (harm : v.toNat % 16 = 0) : presenceCtrlWrite s v.toNat = executeArmed s := by
  rw [← BitVec.testBit_toNat] at hexecute hdisarm
  rw [presenceCtrlWrite, hexecute, hdisarm, harm]
  rfl

/-! #### The effects of the commands -/

/-- What the commands of R573 show. -/
def effectFields : List Fld := [F.SEC_FUSE_RESULT_ENTRY, F.SEC_FUSE_RESULT_RESULT, F.SEC_PRESENCE_STATUS_LAST_RESULT,
  F.SEC_STATUS_FUSE_BUSY, F.SEC_BBK_LOADED, F.SEC_BBK_TAMPERED, F.SEC_BBK_KCV, F.TRC_STATUS_PRIV_AUTH,
  F.SEC_STATUS_UNSEALED, F.SEC_STATUS_ROLLBACK_AUTH, F.SEC_STATUS_JTAG_PRIV] ++ stagedKeyFields

/-- The staged key as a number (R569). -/
def stagedKey : Nat := (List.range 8).foldl (fun v w => v + getF s (F.SEC_BBK_STAGE_KEY w) * 2 ^ (32 * w)) 0

/-- The state with the key register at `key`. -/
def withBbk (key : Nat) : State := onSec s (fun h => { h with bbk := key })

theorem loadBbk_eq : loadBbk s = clearBbkStage (setF (setB (setB (withBbk s (stagedKey s)) F.SEC_BBK_LOADED true)
    F.SEC_BBK_TAMPERED false) F.SEC_BBK_KCV (kcv (stagedKey s))) := by
  simp only [loadBbk, withBbk, stagedKey]

theorem fieldsBut_withBbk (key : Nat) (fs : List Fld) : FieldsBut s (withBbk s key) fs := fun _ _ => rfl

theorem fieldsBut_loadBbk : FieldsBut s (loadBbk s) effectFields := by
  rw [loadBbk_eq]
  have h := fieldsBut_withBbk s (stagedKey s) effectFields
  exact (((h.setF (by simp [effectFields]) _).setF (by simp [effectFields]) _).setF (by simp [effectFields]) _).trans
    ((onlyFields_zeroed stagedKeyFields _).1.mono (List.subset_append_right _ _))

theorem fieldsBut_presenceEffect (c : Nat) : FieldsBut s (presenceEffect s c) effectFields := by
  unfold presenceEffect
  split
  · split
    · exact (((FieldsBut.refl s _).setF (by simp [effectFields]) _).setF (by simp [effectFields]) _).setF
        (by simp [effectFields]) _
    · exact FieldsBut.setF (FieldsBut.refl s _) (by simp [effectFields]) _
  · exact fieldsBut_loadBbk s
  · exact (FieldsBut.refl s _).setF (by simp [effectFields]) _
  · unfold unsealIngot
    split
    · split
      · exact (FieldsBut.refl s _).setF (by simp [effectFields]) _
      · exact .refl s _
    · exact .refl s _
  · exact (FieldsBut.refl s _).setF (by simp [effectFields]) _
  · exact (FieldsBut.refl s _).setF (by simp [effectFields]) _

/-! #### EXECUTE -/

/-- The state as EXECUTE records the command that it runs. -/
def executeRecorded (c : Nat) : State :=
  setF (setF s F.SEC_PRESENCE_STATUS_LAST_CMD c) F.SEC_PRESENCE_STATUS_LAST_RESULT 0

theorem onlyFields_executeRecorded (c : Nat) :
    OnlyFields s (executeRecorded s c) [F.SEC_PRESENCE_STATUS_LAST_CMD, F.SEC_PRESENCE_STATUS_LAST_RESULT] :=
  ((OnlyFields.refl s _).setF (by simp) _).setF (by simp) _

/-- The armed command `c` has run once. -/
def executed (c : Nat) : State := disarm (presenceEffect (executeRecorded s c) c)

theorem executed_spent (c : Nat) : Spent (executed s c) ∧
    getF (executed s c) F.SEC_PRESENCE_STATUS_LAST_CMD = c % 2 ^ 4 := by
  refine ⟨spent_disarm _, ?_⟩
  rw [executed, getF_disarm _ (by decide), fieldsBut_presenceEffect _ _ _ (by decide), executeRecorded]
  simp (disch := decide) only [getF_setF_other, getF_setF_same]
  rfl

/-- The window is open for the armed command. -/
def WindowOpen : Prop := getB s F.SEC_STATUS_WINDOW = true ∧ getB s F.SEC_STATUS_ARMED = true

variable {s} {c : Nat} (hcmd : getF s F.SEC_PRESENCE_STATUS_ARMED_CMD = c)
include hcmd

theorem executeArmed_open (hopen : WindowOpen s) (hmay : presenceRefused s c = false) : executeArmed s = executed s c := by
  subst hcmd
  exact if_pos ⟨hopen.1, hopen.2, hmay⟩

theorem executeArmed_closed (h : ¬WindowOpen s ∨ presenceRefused s c = true) : executeArmed s = s := by
  subst hcmd
  refine if_neg ?_
  rintro ⟨hwindow, harmed, hmay⟩
  rcases h with h | h
  · exact h ⟨hwindow, harmed⟩
  · exact absurd (hmay.symm.trans h) (by decide)

end

/-! #### PROGRAM_FUSES -/

/-- A write to a field of the setup window leaves the stage of the fuses. -/
theorem getF_stageFld {s t : State} {fs : List Fld} (h : FieldsBut s t fs) (hfs : ∀ f ∈ fs, Unindexed f) (f : Fld) (e : Nat) :
    getF t (stageFld f e) = getF s (stageFld f e) :=
  h _ fun g hg => (Nat.lt_of_lt_of_le (hfs g hg) (le_key_bank f e)).ne'

theorem stagedEntries_of_fieldsBut {s t : State} {fs : List Fld} (h : FieldsBut s t fs) (hfs : ∀ f ∈ fs, Unindexed f) :
    stagedEntries t = stagedEntries s := by
  simp only [stagedEntries, getB, getF_stageFld h hfs]

theorem stageFailure_congr {s t : State} (hstaged : stagedEntries t = stagedEntries s) (hsec : t.sec = s.sec) :
    stageFailure t = stageFailure s := by
  have hcheck : entryCheck t = entryCheck s := by
    funext es e
    unfold entryCheck fuseWord
    rw [hsec]
  rw [stageFailure, stageFailure, hstaged, hcheck]

/-- The results of R564 are 1 to 5. -/
theorem entryCheck_le {s : State} {es : List (Nat × Nat × Nat)} {e : Nat × Nat × Nat} {r : Nat}
    (h : entryCheck s es e = some r) : r ≤ 5 := by
  unfold entryCheck at h
  dsimp only at h
  split_ifs at h <;> cases h <;> decide

theorem stageFailure_le {s : State} {e r : Nat} (h : stageFailure s = some (e, r)) : r ≤ 5 := by
  obtain ⟨x, -, hx⟩ := List.exists_of_findSome?_eq_some h
  obtain ⟨r', hr', hpair⟩ := Option.map_eq_some_iff.mp hx
  cases hpair
  exact entryCheck_le hr'

theorem presenceEffect_failed {s : State} {e r : Nat} (h : stageFailure s = some (e, r)) :
    presenceEffect s 1 = presenceResult s e r := by
  simp only [presenceEffect, h]

theorem presenceEffect_burns {s : State} (h : stageFailure s = none) : presenceEffect s 1 =
    setB (onSec s (fun h => { h with burn := burnOrder (stagedEntries s) })) F.SEC_STATUS_FUSE_BUSY true := by
  simp only [presenceEffect, h]

/-- PROGRAM_FUSES begins the burn where the stage passes its checks (R564). -/
theorem executed_programFuses {s s1 : State} {fs : List Fld} (h : OnlyFields s s1 fs) (hfs : ∀ f ∈ fs, Unindexed f) :
    match stageFailure s with
    | some (_, r) => getF (executed s1 1) F.SEC_PRESENCE_STATUS_LAST_RESULT = r ∧ (executed s1 1).sec.burn = s.sec.burn
    | none => (executed s1 1).sec.burn = burnOrder (stagedEntries s) ∧ getB (executed s1 1) F.SEC_STATUS_FUSE_BUSY = true := by
  obtain ⟨u, hu⟩ : ∃ u, u = executeRecorded s1 1 := ⟨_, rfl⟩
  have hrec := onlyFields_executeRecorded s1 1
  rw [← hu] at hrec
  have hstaged : stagedEntries u = stagedEntries s :=
    (stagedEntries_of_fieldsBut hrec.1 (by decide)).trans (stagedEntries_of_fieldsBut h.1 hfs)
  have hsec : u.sec = s.sec := by rw [hrec.2, h.2]
  have hfailure := stageFailure_congr hstaged hsec
  have heffect : executed s1 1 = disarm (presenceEffect u 1) := by rw [hu]; rfl
  have hsecure : ∀ t, (disarm t).sec = t.sec := fun t => by rw [(onlyFields_disarm t).2]
  rw [heffect, hsecure]
  split
  next e r hr =>
    rw [presenceEffect_failed (hfailure.trans hr)]
    refine ⟨?_, congrArg Sec.burn hsec⟩
    rw [getF_disarm _ (by decide), presenceResult, getF_setF_same]
    exact Nat.mod_eq_of_lt (Nat.lt_of_le_of_lt (stageFailure_le hr) (by decide))
  next hr =>
    rw [presenceEffect_burns (hfailure.trans hr), hstaged]
    refine ⟨rfl, ?_⟩
    rw [getB_disarm _ (by decide), getB_setB_same _ _ _ rfl]

/-! #### The other commands -/

section
variable (s : State)

/-- TRACE_PRIV (R551). -/
theorem executed_tracePriv : getB (executed s 3) F.TRC_STATUS_PRIV_AUTH = true := by
  rw [executed, getB_disarm _ (by decide), presenceEffect, getB_setB_same _ _ _ rfl]

/-- ROLLBACK (R528). -/
theorem executed_rollback : getB (executed s 5) F.SEC_STATUS_ROLLBACK_AUTH = true := by
  rw [executed, getB_disarm _ (by decide), presenceEffect, getB_setB_same _ _ _ rfl]

/-- JTAG_PRIVATE (R573). -/
theorem executed_jtagPrivate : getB (executed s 6) F.SEC_STATUS_JTAG_PRIV = true := by
  rw [executed, getB_disarm _ (by decide), presenceEffect, getB_setB_same _ _ _ rfl]
  all_goals decide

/-- UNSEAL (R575). -/
theorem executed_unseal {g : Ingot} (hingot : s.ingot = some g) (hsealed : g.isSealed = true) :
    getB (executed s 4) F.SEC_STATUS_UNSEALED = true ∧ sealedNow (executed s 4) = false := by
  have hrecorded : (executeRecorded s 4).ingot = some g := hingot
  have heffect : presenceEffect (executeRecorded s 4) 4 = setB (executeRecorded s 4) F.SEC_STATUS_UNSEALED true := by
    rw [presenceEffect, unsealIngot, hrecorded]
    exact if_pos hsealed
  have hunsealed : getB (executed s 4) F.SEC_STATUS_UNSEALED = true := by
    rw [executed, getB_disarm _ (by decide), heffect, getB_setB_same _ _ _ rfl]
  refine ⟨hunsealed, ?_⟩
  unfold sealedNow
  rw [hunsealed]
  split <;> simp

theorem stagedKey_congr {s t : State} (h : ∀ w ∈ List.range 8, getF t (F.SEC_BBK_STAGE_KEY w) = getF s (F.SEC_BBK_STAGE_KEY w)) :
    stagedKey t = stagedKey s :=
  List.foldl_ext _ _ _ fun v w hw => by rw [h w hw]

/-- What LOAD_BBK leaves (R569). -/
def BbkLoaded (key : Nat) (t : State) : Prop := t.sec.bbk = key ∧ getB t F.SEC_BBK_LOADED = true ∧
  getB t F.SEC_BBK_TAMPERED = false ∧ getF t F.SEC_BBK_KCV = kcv key ∧ ∀ w : Fin 8, getF t (F.SEC_BBK_STAGE_KEY w) = 0

theorem loadBbk_loads : BbkLoaded (stagedKey s) (loadBbk s) := by
  have hother : ∀ {t : State} {f : Fld}, (∀ g ∈ stagedKeyFields, f.key ≠ g.key) →
      getF (clearBbkStage t) f = getF t f := fun hf => (onlyFields_zeroed _ _).1 _ hf
  have hbit : ∀ {t : State} {f : Fld}, (∀ g ∈ stagedKeyFields, f.key ≠ g.key) →
      getB (clearBbkStage t) f = getB t f := fun hf => (onlyFields_zeroed _ _).1.bit hf
  rw [loadBbk_eq]
  refine ⟨?_, ?_, ?_, ?_, stageKey_clearBbkStage _⟩
  · rw [clearBbkStage_eq, (onlyFields_zeroed _ _).2]
    rfl
  · rw [hbit (by decide), getB_setF_other _ (by decide), getB_setB_other _ (by decide), getB_setB_same _ _ _ rfl]
  · rw [hbit (by decide), getB_setF_other _ (by decide), getB_setB_same _ _ _ rfl]
  · rw [hother (by decide), getF_setF_same]
    exact Nat.mod_mod _ _

/-- Disarming keeps a key that is loaded, and its stage clear. -/
theorem BbkLoaded.disarm {s : State} {key : Nat} (h : BbkLoaded key s) : BbkLoaded key (Machine.disarm s) := by
  obtain ⟨hkey, hloaded, htampered, hkcv, hstage⟩ := h
  refine ⟨?_, (getB_disarm s (by decide)).trans hloaded, (getB_disarm s (by decide)).trans htampered,
    (getF_disarm s (by decide)).trans hkcv, fun w => ?_⟩
  · rw [(onlyFields_disarm s).2]
    exact hkey
  · unfold Machine.disarm closeWindow
    rw [getF_setF_other _ (by simp [Fld.key, F.SEC_BBK_STAGE_KEY, F.SEC_PRESENCE_STATUS_ARMED_CMD]; omega),
      getF_setB_other _ (by simp [Fld.key, F.SEC_BBK_STAGE_KEY, F.SEC_STATUS_ARMED]; omega)]
    split
    · exact stageKey_clearBbkStage _ w
    · exact hstage w

/-- LOAD_BBK (R569). -/
theorem executed_loadBbk : BbkLoaded (stagedKey s) (executed s 2) := by
  have hkey : stagedKey (executeRecorded s 2) = stagedKey s := stagedKey_congr fun w _ =>
    (onlyFields_executeRecorded s 2).1 _ (by
      intro g hg
      simp only [List.mem_cons, List.not_mem_nil, or_false] at hg
      rcases hg with rfl | rfl <;>
        simp only [Fld.key, F.SEC_BBK_STAGE_KEY, F.SEC_PRESENCE_STATUS_LAST_CMD, F.SEC_PRESENCE_STATUS_LAST_RESULT] <;> omega)
  exact hkey ▸ (loadBbk_loads (executeRecorded s 2)).disarm

end

/-! #### The window -/

/-- PRESENCE_HELD opens the window of an armed command for 60 s (R572). -/
theorem execPresenceHeld_answers (s : State) : Answers .presenceHeld s (fun t => getB t F.SEC_STATUS_PRESENCE = true ∧
    if getB s F.SEC_STATUS_ARMED then getB t F.SEC_STATUS_WINDOW = true ∧
      getF t F.SEC_PRESENCE_STATUS_SECONDS_LEFT = 60 ∧ t.sec.windowEnd = timeNs s + 60000000000
    else OnlyFields s t [F.SEC_STATUS_PRESENCE]) := by
  have harmed : getB (setB s F.SEC_STATUS_PRESENCE true) F.SEC_STATUS_ARMED = getB s F.SEC_STATUS_ARMED :=
    getB_setB_other _ (by decide) _
  show ∃ t, execPresenceHeld s = .next t ∧ _
  unfold execPresenceHeld
  dsimp only
  rw [harmed]
  split
  · refine ⟨_, rfl, ?_, ?_, getF_setF_same _ _ _, ?_⟩
    · simp (disch := decide) only [getB_setF_other, getB_setB_other, getB_onSec, getB_setB_same]
    · simp (disch := decide) only [getB_setF_other, getB_setB_same]
    · show timeNs (setB s F.SEC_STATUS_PRESENCE true) + _ = _
      rw [timeNs, get64, getF_setB_other _ (by decide), getF_setB_other _ (by decide)]
      rfl
  · exact ⟨_, rfl, getB_setB_same _ _ _ rfl, (OnlyFields.refl s _).setB (by simp) _⟩

section
variable {s : State} {v : Word}

/-- EXECUTE within the window, or outside it (R572). -/
theorem execute_answers (hdisarm : v.getLsbD 30 = false) (hexecute : v.getLsbD 31 = true) (harm : v.toNat % 16 = 0)
    (vf : Bool) :
    let s1 := setB s F.SEC_STATUS_VFUSE_OK vf
    let c := getF s F.SEC_PRESENCE_STATUS_ARMED_CMD
    (WindowOpen s → presenceRefused s1 c = false → exec (.execute v vf) s = .next (executed s1 c)) ∧
    (¬WindowOpen s ∨ presenceRefused s1 c = true → exec (.execute v vf) s = .next s1) := by
  intro s1 c
  have hwrite : exec (.execute v vf) s = .next (executeArmed s1) :=
    congrArg Host.Outcome.next (presenceCtrlWrite_execute s1 hdisarm hexecute harm)
  have hcmd : getF s1 F.SEC_PRESENCE_STATUS_ARMED_CMD = c := getF_setB_other _ (by decide) _
  have hopen : WindowOpen s1 ↔ WindowOpen s := by
    rw [WindowOpen, WindowOpen, getB_setB_other _ (by decide), getB_setB_other _ (by decide)]
  rw [hwrite]
  exact ⟨fun h hmay => congrArg _ (executeArmed_open hcmd (hopen.mpr h) hmay),
    fun h => congrArg _ (executeArmed_closed hcmd (h.imp_left fun hc => hc ∘ hopen.mp))⟩

/-- The commands that EXECUTE runs, with their codes (R573). -/
def presenceCodes : List (Instr × Nat) :=
  [(.loadBbk, 2), (.tracePriv, 3), (.unseal, 4), (.rollback, 5), (.jtagPrivate, 6)]

theorem exec_presenceCode : ∀ e ∈ presenceCodes, exec e.1 s = .next (runIfArmed s e.2) := by
  simp only [presenceCodes, List.forall_mem_cons]
  exact ⟨rfl, rfl, rfl, rfl, rfl, fun _ h => nomatch h⟩

variable {c : Nat} (hcmd : getF s F.SEC_PRESENCE_STATUS_ARMED_CMD = c)
include hcmd

theorem runIfArmed_other {n : Nat} (h : c ≠ n ∨ ¬WindowOpen s) : runIfArmed s n = s := by
  unfold runIfArmed
  split
  next heq => exact executeArmed_closed hcmd (.inl (h.resolve_left fun hne => hne (hcmd.symm.trans heq)))
  · rfl

theorem runIfArmed_armed (hopen : WindowOpen s) (hmay : presenceRefused s c = false) : runIfArmed s c = executed s c := by
  rw [runIfArmed, if_pos hcmd, executeArmed_open hcmd hopen hmay]

end

/-- Settles O46: EXECUTE by the effect of the armed command, whatever it is, and the commands by their codes. -/
theorem presenceCommandsAct : Obligations.PresenceCommandsAct := by
  unfold Obligations.PresenceCommandsAct
  intro s v c open_ spent key
  have hruns : ∀ e ∈ presenceCodes, c = e.2 → open_ → presenceRefused s c = false →
      exec e.1 s = .next (executed s c) := fun e he hc hopen hmay => by
    rw [exec_presenceCode e he, ← hc, runIfArmed_armed rfl hopen hmay]
  refine ⟨fun h30 h31 => ?arm, fun h30 h31 harm => ?disarm, fun vf => ?execute, fun e he => ?codes,
    fun hopen => ?effects, execPresenceHeld_answers s, fun h => ?expiry, fun h => ?closed⟩
  case arm =>
    refine ⟨_, rfl, ?_⟩
    rw [presenceCtrlWrite_arm h31 h30]
    exact arm_answers s _
  case disarm =>
    refine ⟨_, rfl, ?_⟩
    rw [presenceCtrlWrite_disarm h31 h30 harm]
    exact ⟨(spent_disarm s).of_fieldsBut (onlyFields_zeroed stagedKeyFields _).1 (by decide), stageKey_clearBbkStage _⟩
  case execute =>
    intro s1 h30 h31 harm
    obtain ⟨hruns, hstays⟩ := execute_answers (s := s) h30 h31 harm vf
    refine ⟨fun hopen hmay => ⟨_, hruns hopen hmay, ?_⟩, fun h => ⟨_, hstays h, rfl⟩⟩
    obtain ⟨hspent, hlast⟩ := executed_spent s1 c
    refine ⟨hspent, hlast, fun hc => ?_, fun hc => ?_⟩
    · have hs1 : OnlyFields s s1 [F.SEC_STATUS_VFUSE_OK] := (OnlyFields.refl s _).setB (by simp) vf
      rw [show getF s F.SEC_PRESENCE_STATUS_ARMED_CMD = 1 from hc]
      exact executed_programFuses hs1 (by decide)
    · rw [show getF s F.SEC_PRESENCE_STATUS_ARMED_CMD = 3 from hc]
      exact executed_tracePriv s1
  case codes =>
    refine ⟨fun h => ⟨_, exec_presenceCode e he, runIfArmed_other rfl h⟩, fun hc hopen hmay => ?_⟩
    obtain ⟨hspent, hlast⟩ := executed_spent s c
    have hcode : e.2 % 2 ^ 4 = e.2 :=
      (by decide : ∀ n ∈ presenceCodes.map Prod.snd, n % 2 ^ 4 = n) _ (List.mem_map_of_mem he)
    exact ⟨_, hruns e he hc hopen hmay, hspent, hlast.trans (hc ▸ hcode)⟩
  case effects =>
    refine ⟨fun hc => ⟨_, hruns (.loadBbk, 2) (by simp [presenceCodes]) hc hopen (by rw [hc]; rfl), ?_⟩,
      fun hc => ⟨_, hruns (.tracePriv, 3) (by simp [presenceCodes]) hc hopen (by rw [hc]; rfl), ?_⟩,
      fun g hc hingot hsealed => ⟨_, hruns (.unseal, 4) (by simp [presenceCodes]) hc hopen (by rw [hc]; rfl), ?_⟩,
      fun hc => ⟨_, hruns (.rollback, 5) (by simp [presenceCodes]) hc hopen (by rw [hc]; rfl), ?_⟩,
      fun hc hon => ⟨_, hruns (.jtagPrivate, 6) (by simp [presenceCodes]) hc hopen (by rw [hc]; exact hon), ?_⟩⟩
    · exact hc ▸ executed_loadBbk s
    · exact hc ▸ executed_tracePriv s
    · exact hc ▸ executed_unseal s hingot hsealed
    · exact hc ▸ executed_rollback s
    · exact hc ▸ executed_jtagPrivate s
  case expiry =>
    refine ⟨_, congrArg Host.Outcome.next (if_pos h), ?_, getB_setB_same _ _ _ rfl⟩
    exact (spent_disarm s).of_fieldsBut ((FieldsBut.refl _ [F.SEC_STATUS_PRESENCE]).setF (by simp) _) (by decide)
  case closed => exact ⟨_, congrArg Host.Outcome.next (if_neg (by simp [h])), rfl⟩

end Sys2Proof.Machine
end

section
/-! ### The control cores and their firmware -/

namespace Sys2Proof.Machine

/-! #### Cores -/

/-- The state with the table of the cores replaced. -/
def withCores (s : State) (m : SMap CoreSt) : State := onCtl s (fun x => { x with cores := m })

/-- The state with the tables of the cores and of their reservations replaced. -/
def withRestarts (s : State) (m : SMap CoreSt) (r : SMap (Option (Nat × Nat × Nat))) : State :=
  onCtl s (fun x => { x with cores := m, reserve := r })

theorem getF_withCores (s : State) (m : SMap CoreSt) (f : Fld) : getF (withCores s m) f = getF s f := rfl

theorem getF_withRestarts (s : State) (m : SMap CoreSt) (r : SMap (Option (Nat × Nat × Nat))) (f : Fld) :
    getF (withRestarts s m r) f = getF s f := rfl

/-- A core's state in the table. -/
def coreAt (s : State) (c : Nat) : CoreSt := s.ctl.cores.get CoreSt.idle c

/-- The cores of a list change by `g`, and nothing else does. -/
theorem foldl_modifyCores (g : CoreSt → CoreSt) {cs : List Nat} (hcs : cs.Nodup) (s : State) :
    ∃ m, cs.foldl (fun t c => onCtl t (fun x => { x with cores := x.cores.modify CoreSt.idle c g })) s = withCores s m ∧
      ∀ k, m.get CoreSt.idle k = if k ∈ cs then g (coreAt s k) else coreAt s k := by
  induction cs generalizing s with
  | nil => exact ⟨s.ctl.cores, rfl, fun k => rfl⟩
  | cons c cs ih =>
    obtain ⟨hc, hcs⟩ := List.nodup_cons.mp hcs
    obtain ⟨m, hm, hcores⟩ := ih hcs (withCores s (s.ctl.cores.modify CoreSt.idle c g))
    refine ⟨m, hm, fun k => ?_⟩
    have hfirst : coreAt (withCores s (s.ctl.cores.modify CoreSt.idle c g)) k = if k = c then g (coreAt s k) else coreAt s k := by
      show (s.ctl.cores.modify CoreSt.idle c g).get _ k = _
      unfold SMap.modify coreAt
      split
      next h => rw [h, SMap.get_set_same]
      next h => rw [SMap.get_set_other _ _ _ h]
    rw [hcores, hfirst]
    by_cases hk : k = c
    · subst hk
      simp [hc]
    · simp [hk]

/-- A core after a restart (R523). -/
def restarted (s : State) (c a1 : Nat) : CoreSt := ⟨entryAddress s (activeBank s), c, a1, true, false, false⟩

theorem restartCore_eq (s : State) (c a1 : Nat) : restartCore s c a1 =
    withRestarts s (s.ctl.cores.set CoreSt.idle c (restarted s c a1)) (s.ctl.reserve.set none c none) := by
  rw [restartCore, withRestarts, restarted]
  rfl

theorem restarted_withRestarts (s : State) (m : SMap CoreSt) (r : SMap (Option (Nat × Nat × Nat))) (c a1 : Nat) :
    restarted (withRestarts s m r) c a1 = restarted s c a1 := by
  simp only [restarted, entryAddress, bankBytes, activeBank, getF_withRestarts]
  rfl

/-- The cores of a list restart, and nothing else changes. -/
theorem foldl_restartCore (a1 : Nat) (cs : List Nat) (s : State) :
    ∃ m r, cs.foldl (fun t c => restartCore t c a1) s = withRestarts s m r ∧
      ∀ k, m.get CoreSt.idle k = (if k ∈ cs then restarted s k a1 else coreAt s k) ∧
        r.get none k = if k ∈ cs then none else s.ctl.reserve.get none k := by
  induction cs generalizing s with
  | nil => exact ⟨s.ctl.cores, s.ctl.reserve, rfl, fun k => ⟨rfl, rfl⟩⟩
  | cons c cs ih =>
    obtain ⟨m, r, hm, hcores⟩ := ih (restartCore s c a1)
    refine ⟨m, r, ?_, fun k => ?_⟩
    · rw [List.foldl_cons, hm, restartCore_eq]
      rfl
    obtain ⟨hcore, hreserve⟩ := hcores k
    rw [restartCore_eq, restarted_withRestarts] at hcore
    rw [restartCore_eq] at hreserve
    rw [hcore, hreserve]
    unfold coreAt withRestarts
    by_cases hk : k = c
    · subst hk
      simp
    · simp [hk]

theorem mem_coreList (c : Fin 8) : c.val ∈ coreList := List.mem_range.mpr c.isLt

theorem nodup_coreList : coreList.Nodup := List.nodup_range

/-- CTL_CORE_RESET restarts the cores whose bits are written with 1, but for core 7 (R523). -/
theorem coreResetWrite_eq (s : State) (v : Nat) :
    coreResetWrite s v = ((List.range 7).filter v.testBit).foldl (fun t c => restartCore t c 2) s := by
  rw [List.foldl_filter]
  rfl

theorem coreRestart_answers (s : State) (v : Word) : Answers (.coreRestart v) s (fun t =>
    t = { s with ctl := { s.ctl with cores := t.ctl.cores, reserve := t.ctl.reserve } } ∧
    ∀ c : Fin 8, t.ctl.reserve.get none c = (if v.getLsbD c && decide (c.val < 7) then none else s.ctl.reserve.get none c) ∧
      coreAt t c = if v.getLsbD c && decide (c.val < 7) then restarted s c 2 else coreAt s c) := by
  obtain ⟨m, r, ht, hcores⟩ := foldl_restartCore 2 ((List.range 7).filter v.toNat.testBit) s
  refine ⟨_, congrArg Host.Outcome.next ((coreResetWrite_eq s v.toNat).trans ht), rfl, fun c => ?_⟩
  obtain ⟨hcore, hreserve⟩ := hcores c
  have hmem : c.val ∈ (List.range 7).filter v.toNat.testBit ↔ (v.getLsbD c && decide (c.val < 7)) = true := by
    rw [List.mem_filter, List.mem_range, ← BitVec.testBit_toNat]
    simp [and_comm]
  simp only [hmem] at hcore hreserve
  exact ⟨hreserve, hcore⟩

/-! #### The update's phases -/

section
variable (s : State)

theorem fwPhase_setPhase {p : Nat} (hp : p < 8) : fwPhase (setPhase s p) = p := by
  rw [fwPhase, setPhase, getF_setB_other _ (by decide), getF_setF_same]
  exact Nat.mod_eq_of_lt hp

theorem updating_setPhase (p : Nat) : getB (setPhase s p) F.CTL_STATUS_FW_UPDATING = decide (1 ≤ p ∧ p ≤ 3) :=
  getB_setB_same _ _ _ rfl

theorem onlyFields_setPhase (p : Nat) : OnlyFields s (setPhase s p) [F.CTL_FW_STATUS_PHASE, F.CTL_STATUS_FW_UPDATING] :=
  ((OnlyFields.refl s _).setF (by simp) _).setB (by simp) _

/-- The end of an update leaves every other field. -/
theorem onlyFields_endUpdate (r : Nat) : OnlyFields s (endUpdate s r)
    [F.CTL_FW_STATUS_PHASE, F.CTL_STATUS_FW_UPDATING, F.CTL_FW_STATUS_RESULT] :=
  ((onlyFields_setPhase s 4).mono (by simp)).setF (by simp) _

theorem endUpdate_shows {r : Nat} (hr : r < 16) : fwPhase (endUpdate s r) = 4 ∧ getF (endUpdate s r) F.CTL_FW_STATUS_RESULT = r ∧
    getB (endUpdate s r) F.CTL_STATUS_FW_UPDATING = false := by
  refine ⟨?_, ?_, ?_⟩
  · rw [endUpdate, fwPhase, getF_setF_other _ (by decide)]
    exact fwPhase_setPhase s (by decide)
  · rw [endUpdate, getF_setF_same]
    exact Nat.mod_eq_of_lt hr
  · rw [endUpdate, getB_setF_other _ (by decide)]
    exact updating_setPhase s 4

theorem onlyFields_useRollback (n : Nat) : OnlyFields s (useRollback s n) [F.SEC_STATUS_ROLLBACK_AUTH] := by
  unfold useRollback
  split
  · exact (OnlyFields.refl s _).setB (by simp) _
  · exact .refl s _

/-! #### A write to CTL_FW_UPDATE -/

/-- Of the bits of CTL_FW_UPDATE, only bit `i` is written with 1. -/
def OnlyBit (v : Word) (i : Nat) : Prop := ∀ j ∈ [0, 1, 2], v.getLsbD j = decide (j = i)

variable {s} {v : Word}

theorem OnlyBit.testBits {i : Nat} (h : OnlyBit v i) :
    v.toNat.testBit 0 = decide (0 = i) ∧ v.toNat.testBit 1 = decide (1 = i) ∧ v.toNat.testBit 2 = decide (2 = i) := by
  simp only [BitVec.testBit_toNat]
  exact ⟨h 0 (by simp), h 1 (by simp), h 2 (by simp)⟩

theorem fwUpdateWrite_go (h : OnlyBit v 0) : fwUpdateWrite s v.toNat = fwGo s := by
  obtain ⟨h0, h1, h2⟩ := h.testBits
  simp [fwUpdateWrite, h0, h1, h2]

theorem fwUpdateWrite_handover (h : OnlyBit v 1) : fwUpdateWrite s v.toNat = fwHandover s := by
  obtain ⟨h0, h1, h2⟩ := h.testBits
  simp [fwUpdateWrite, h0, h1, h2]

theorem fwUpdateWrite_abort (h : OnlyBit v 2) : fwUpdateWrite s v.toNat = fwAbort s := by
  obtain ⟨h0, h1, h2⟩ := h.testBits
  simp [fwUpdateWrite, h0, h1, h2]

theorem fwGo_answers : fwGo s = { s with regs := (fwGo s).regs } ∧
    if fwPhase s = 0 ∨ fwPhase s = 4 then fwPhase (fwGo s) = 1 ∧ getB (fwGo s) F.CTL_STATUS_FW_UPDATING = true ∧
      getF (fwGo s) F.CTL_FW_STATUS_RESULT = 0 ∧ getB (fwGo s) F.CTL_FW_STATUS_STAGED = false
    else fwPhase (fwGo s) = fwPhase s ∧ getF (fwGo s) F.CTL_FW_STATUS_RESULT = 7 := by
  unfold fwGo
  split
  · refine ⟨rfl, ?_, ?_, ?_, getB_setB_same _ _ _ rfl⟩
    · rw [fwPhase, getF_setB_other _ (by decide), getF_setF_other _ (by decide)]
      exact fwPhase_setPhase s (by decide)
    · rw [getB_setB_other _ (by decide), getB_setF_other _ (by decide)]
      exact updating_setPhase s 1
    · rw [getF_setB_other _ (by decide), getF_setF_same, Nat.zero_mod]
  · exact ⟨rfl, getF_setF_other _ (by decide) _, getF_setF_same _ _ _⟩

theorem fwAbort_answers : if fwPhase s = 1 ∨ fwPhase s = 2 then fwPhase (fwAbort s) = 4 ∧
      getF (fwAbort s) F.CTL_FW_STATUS_RESULT = 6 ∧ getB (fwAbort s) F.CTL_STATUS_FW_UPDATING = false
    else fwAbort s = s := by
  unfold fwAbort
  split
  · exact endUpdate_shows s (by decide)
  · rfl

/-! #### The hand-over -/

/-- The HANDOVER interrupt stands at every core (R527). -/
theorem beginHandover_answers (s : State) : fwPhase (beginHandover s) = 3 ∧ getF (beginHandover s) F.CTL_FW_HANDOVER_READY = 0 ∧
    ∀ c : Fin 8, coreAt (beginHandover s) c = { coreAt s c with handover := true, stalled := false } := by
  obtain ⟨m, ht, hcores⟩ := foldl_modifyCores (fun k => { k with handover := true, stalled := false }) nodup_coreList
    (setF (setPhase s 3) F.CTL_FW_HANDOVER_READY 0)
  have heq : beginHandover s = withCores (setF (setPhase s 3) F.CTL_FW_HANDOVER_READY 0) m := ht
  rw [heq]
  refine ⟨?_, ?_, fun c => (hcores c).trans (if_pos (mem_coreList c))⟩
  · rw [fwPhase, getF_withCores, getF_setF_other _ (by decide)]
    exact fwPhase_setPhase s (by decide)
  · rw [getF_withCores, getF_setF_same, Nat.zero_mod]

theorem fwHandover_staged (hph : fwPhase s = 0 ∨ fwPhase s = 4) (hstaged : getB s F.CTL_FW_STATUS_STAGED = true) :
    let old := svnRefused s (imageSvn (bankBytes s (1 - activeBank s) 0 256)) = true
    (old → fwPhase (fwHandover s) = 4 ∧ getF (fwHandover s) F.CTL_FW_STATUS_RESULT = 3) ∧
    (¬old → fwPhase (fwHandover s) = 3 ∧ getF (fwHandover s) F.CTL_FW_HANDOVER_READY = 0 ∧
      ∀ c : Fin 8, coreAt (fwHandover s) c = { coreAt s c with handover := true, stalled := false }) := by
  intro old
  unfold fwHandover
  rw [if_pos ⟨hph, hstaged⟩]
  refine ⟨fun hold => ?_, fun hnew => ?_⟩
  · rw [if_pos hold]
    obtain ⟨hphase, hresult, -⟩ := endUpdate_shows s (r := 3) (by decide)
    exact ⟨hphase, hresult⟩
  · rw [if_neg hnew]
    generalize imageSvn (bankBytes s (1 - activeBank s) 0 256) = n
    obtain ⟨hphase, hready, hcores⟩ := beginHandover_answers (useRollback s n)
    refine ⟨hphase, hready, fun c => ?_⟩
    rw [hcores, coreAt, (onlyFields_useRollback s n).2]
    rfl

theorem fwHandover_unstaged (hstaged : getB s F.CTL_FW_STATUS_STAGED = false) : fwHandover s = s := by
  simp [fwHandover, hstaged]

/-- The registers as the views swap, before the cores restart (R527). -/
def viewsSwapped (s : State) : State :=
  onCtl (setF (setF (setB (setF s F.CTL_FW_STATUS_ACTIVE (1 - activeBank s)) F.CTL_FW_STATUS_STAGED
    (s.ctl.loaded.get false (activeBank s))) F.CTL_FW_STATUS_SVN (imageSvn (bankBytes s (1 - activeBank s) 0 256)))
    F.CTL_FW_HANDOVER_READY 0) (fun c => { c with running := true })

theorem activeBank_viewsSwapped (s : State) : activeBank (viewsSwapped s) = 1 - activeBank s := by
  unfold viewsSwapped
  rw [activeBank, getF_onCtl, getF_setF_other _ (by decide), getF_setF_other _ (by decide), getF_setB_other _ (by decide),
    getF_setF_same]
  exact Nat.mod_eq_of_lt (Nat.lt_of_le_of_lt (Nat.sub_le _ _) (by decide))

theorem svn_viewsSwapped (s : State) :
    getF (viewsSwapped s) F.CTL_FW_STATUS_SVN = imageSvn (bankBytes s (1 - activeBank s) 0 256) % 2 ^ 16 := by
  rw [viewsSwapped, getF_onCtl, getF_setF_other _ (by decide), getF_setF_same]
  rfl

theorem restarted_viewsSwapped (s : State) (k : Nat) :
    restarted (viewsSwapped s) k 1 = ⟨entryAddress s (1 - activeBank s), k, 1, true, false, false⟩ := by
  rw [restarted, activeBank_viewsSwapped, entryAddress, entryAddress, bankBytes, bankBytes]
  rfl

theorem swapViews_answers (s : State) : activeBank (swapViews s) = 1 - activeBank s ∧ fwPhase (swapViews s) = 4 ∧
    getF (swapViews s) F.CTL_FW_STATUS_RESULT = 0 ∧
    getF (swapViews s) F.CTL_FW_STATUS_SVN = imageSvn (bankBytes s (1 - activeBank s) 0 256) % 2 ^ 16 ∧
    ∀ k : Fin 8, coreAt (swapViews s) k = ⟨entryAddress s (1 - activeBank s), k, 1, true, false, false⟩ := by
  obtain ⟨m, r, ht, hcores⟩ := foldl_restartCore 1 coreList (viewsSwapped s)
  have heq : swapViews s = endUpdate (withRestarts (viewsSwapped s) m r) 0 := congrArg (endUpdate · 0) ht
  have hfields := (onlyFields_endUpdate (withRestarts (viewsSwapped s) m r) 0).1
  obtain ⟨hphase, hresult, -⟩ := endUpdate_shows (withRestarts (viewsSwapped s) m r) (r := 0) (by decide)
  rw [heq]
  refine ⟨?_, hphase, hresult, ?_, fun k => ?_⟩
  · rw [activeBank, hfields _ (by decide), getF_withRestarts]
    exact activeBank_viewsSwapped s
  · rw [hfields _ (by decide), getF_withRestarts, svn_viewsSwapped]
  · rw [← restarted_viewsSwapped]
    exact (hcores k).1.trans (if_pos (mem_coreList k))

/-- A core's store to CTL_FW_HANDOVER: its bit is set, and the core waits (R527). -/
def handoverStored (s : State) (c : Nat) : State :=
  withCores (setFBit s F.CTL_FW_HANDOVER_READY c true)
    (s.ctl.cores.modify CoreSt.idle c (fun k => { k with stalled := true }))

theorem handoverReady_eq (hph : fwPhase s = 3) (c : Fin 8) : handoverReady s c =
    if setBit (getF s F.CTL_FW_HANDOVER_READY) c true % 2 ^ 8 = 0xFF then swapViews (handoverStored s c)
    else handoverStored s c := by
  have hready : getF (handoverStored s c) F.CTL_FW_HANDOVER_READY = setBit (getF s F.CTL_FW_HANDOVER_READY) c true % 2 ^ 8 :=
    getF_setF_same _ _ _
  rw [← hready]
  exact if_pos ⟨hph, c.isLt⟩

theorem handoverStored_answers (s : State) (c : Fin 8) :
    (getF (handoverStored s c) F.CTL_FW_HANDOVER_READY).testBit c = true ∧
    coreAt (handoverStored s c) c = { coreAt s c with stalled := true } ∧ activeBank (handoverStored s c) = activeBank s := by
  refine ⟨?_, SMap.get_set_same _ _ _ _, getF_setFBit_other s (by decide) _ _⟩
  exact (getF_setFBit_testBit s F.CTL_FW_HANDOVER_READY c c true c.isLt).trans (if_pos rfl)

/-- The last core's store swaps the views (R527). -/
theorem handoverReady_answers (hph : fwPhase s = 3) (c : Fin 8) : Answers (.handoverReady c) s (fun t =>
    if setBit (getF s F.CTL_FW_HANDOVER_READY) c true % 2 ^ 8 = 0xFF then activeBank t = 1 - activeBank s ∧ fwPhase t = 4 ∧
      getF t F.CTL_FW_STATUS_RESULT = 0 ∧ getF t F.CTL_FW_STATUS_SVN = imageSvn (bankBytes s (1 - activeBank s) 0 256) % 2 ^ 16 ∧
      ∀ k : Fin 8, coreAt t k = ⟨entryAddress s (1 - activeBank s), k, 1, true, false, false⟩
    else (getF t F.CTL_FW_HANDOVER_READY).testBit c = true ∧ coreAt t c = { coreAt s c with stalled := true } ∧
      activeBank t = activeBank s) := by
  obtain ⟨hbit, hcore, hbank⟩ := handoverStored_answers s c
  refine ⟨_, rfl, ?_⟩
  rw [handoverReady_eq hph c]
  split
  · have h := swapViews_answers (handoverStored s c)
    rw [hbank] at h
    exact h
  · exact ⟨hbit, hcore, hbank⟩

/-- HANDOVER_MS leaves the old firmware running (R527). -/
theorem handoverTimeout_answers (hph : fwPhase s = 3) : Answers .handoverTimeout s (fun t => fwPhase t = 4 ∧
    getF t F.CTL_FW_STATUS_RESULT = 5 ∧ getF t F.CTL_FW_HANDOVER_READY = 0 ∧ activeBank t = activeBank s ∧
    ∀ c : Fin 8, coreAt t c = { coreAt s c with handover := false, stalled := false }) := by
  obtain ⟨m, ht, hcores⟩ := foldl_modifyCores (fun k => { k with handover := false, stalled := false }) nodup_coreList
    (setF s F.CTL_FW_HANDOVER_READY 0)
  have hexec : exec .handoverTimeout s = .next (endUpdate (withCores (setF s F.CTL_FW_HANDOVER_READY 0) m) 5) :=
    (if_pos hph).trans (congrArg (fun u => Host.Outcome.next (endUpdate u 5)) ht)
  obtain ⟨hphase, hresult, -⟩ := endUpdate_shows (withCores (setF s F.CTL_FW_HANDOVER_READY 0) m) (r := 5) (by decide)
  have hfields := (onlyFields_endUpdate (withCores (setF s F.CTL_FW_HANDOVER_READY 0) m) 5).1
  refine ⟨_, hexec, hphase, hresult, ?_, ?_, fun c => (hcores c).trans (if_pos (mem_coreList c))⟩
  · rw [hfields _ (by decide), getF_withCores, getF_setF_same, Nat.zero_mod]
  · rw [activeBank, hfields _ (by decide), getF_withCores, getF_setF_other _ (by decide)]
    rfl

end

/-- Settles O42: restarts and interrupts core by core, the update by its phase. -/
theorem firmwareCommandsAct : Obligations.FirmwareCommandsAct := by
  unfold Obligations.FirmwareCommandsAct
  intro s v
  dsimp only
  refine ⟨coreRestart_answers s v, fun h => ⟨_, rfl, ?_⟩, fun h => ⟨_, rfl, ?_⟩, fun h hph hstaged => ⟨_, rfl, ?_⟩,
    fun h hstaged => ⟨_, rfl, ?_⟩, fun c hph => handoverReady_answers hph c, handoverTimeout_answers,
    fun hph c => ⟨⟨_, ?_, rfl⟩, ⟨_, if_neg hph, rfl⟩⟩⟩
  · rw [fwUpdateWrite_go h]
    exact fwGo_answers
  · rw [fwUpdateWrite_abort h]
    exact fwAbort_answers
  · rw [fwUpdateWrite_handover h]
    beta_reduce
    rw [ite_prop_iff_and]
    exact fwHandover_staged hph hstaged
  · exact (fwUpdateWrite_handover h).trans (fwHandover_unstaged hstaged)
  · exact congrArg Host.Outcome.next (if_neg fun hc => hph hc.1)

end Sys2Proof.Machine
end

section
/-! ### Program trace of one source -/

namespace Sys2Proof.Machine

/-! #### The source's registers and what the stream reads -/

/-- The bytes of a packet as the FIFO keeps them: the first is marked as a packet's start. -/
def startMarked (bs : List Byte) : List (Byte × Bool) := (List.range bs.length).map (fun k => (bs.getD k 0, k == 0))

/-- A source once a packet has joined its FIFO. -/
def queued (x : TrcSrc) (bs : List Byte) : TrcSrc := { x with fifo := x.fifo ++ startMarked bs, since := x.since + bs.length }

/-- The registers of source `i` that a packet and sleep move. -/
abbrev sourceFields (i : Nat) : List Fld := [srcFld F.TRC_SRC_BYTES_COUNT i, srcFld F.TRC_SRC_CTRL_SLEEPING i]

/-- Source `i` has come from `s` to be as `x` has it, and of the registers only its byte count and SLEEPING have moved. -/
structure SourceAt (i : Nat) (s t : State) (x : TrcSrc) : Prop where
  fields : FieldsBut s t (sourceFields i)
  src : trcSrc t i = x

/-- The source's registers stand apart from those of the setup window. -/
theorem sourceFields_apart {f : Fld} (hf : Unindexed f) (i : Nat) : ∀ g ∈ sourceFields i, f.key ≠ g.key := by
  simp [key_srcFld_ne hf]

/-- They stand apart from the other registers that a bank holds. -/
theorem sourceFields_apart_bank {f : Fld} (hf : Unindexed f)
    (hne : f.key ≠ F.TRC_SRC_BYTES_COUNT.key ∧ f.key ≠ F.TRC_SRC_CTRL_SLEEPING.key) (i j : Nat) :
    ∀ g ∈ sourceFields i, (srcFld f j).key ≠ g.key := by
  simp only [List.forall_mem_cons, List.not_mem_nil, false_imp_iff, implies_true, and_true]
  exact ⟨fun h => hne.1 (key_srcFld_inj hf (by decide) h).2, fun h => hne.2 (key_srcFld_inj hf (by decide) h).2⟩

/-- No stream moves SLEEPING of a source. -/
theorem streamFree_sleeping (i : Nat) : StreamFree (srcFld F.TRC_SRC_CTRL_SLEEPING i) := by
  intro j
  simp only [List.forall_mem_cons, List.not_mem_nil, false_imp_iff, implies_true, and_true]
  have hring : ∀ {g : Fld}, Unindexed g → (srcFld F.TRC_SRC_CTRL_SLEEPING i).key ≠ g.key := fun hg => (key_srcFld_ne hg _ i).symm
  refine ⟨hring (by decide), hring (by decide), hring (by decide), hring (by decide), hring (by decide), ?_, ?_⟩ <;>
  exact fun h => absurd (key_srcFld_inj (by decide) (by decide) h).2 (by decide)

section
variable {i : Nat} {s t : State} {x : TrcSrc}

theorem SourceAt.refl (i : Nat) (s : State) : SourceAt i s s (trcSrc s i) := ⟨.refl s _, rfl⟩

theorem SourceAt.onTrc (h : SourceAt i s t x) (g : TrcSrc → TrcSrc) : SourceAt i s (onTrc t i g) (g x) :=
  ⟨h.fields, (trcSrc_onTrc_same t i g).trans (congrArg g h.src)⟩

theorem SourceAt.getF (h : SourceAt i s t x) {f : Fld} (hf : Unindexed f) : getF t f = getF s f :=
  h.fields f (sourceFields_apart hf i)

theorem SourceAt.getB (h : SourceAt i s t x) {f : Fld} (hf : Unindexed f) : getB t f = getB s f :=
  h.fields.bit (sourceFields_apart hf i)

theorem SourceAt.traceOn (h : SourceAt i s t x) : traceOn t i = traceOn s i :=
  h.fields.bit (sourceFields_apart_bank (f := F.TRC_SRC_CTRL_ON) (by decide) (by decide) i i)

theorem SourceAt.timeNs (h : SourceAt i s t x) : timeNs t = timeNs s := by
  simp only [Machine.timeNs, get64, h.getF (f := F.IDN_TIME_LO_TIME) (by decide), h.getF (f := F.IDN_TIME_HI_TIME) (by decide)]

theorem SourceAt.syncPacket (h : SourceAt i s t x) (reason pc : Nat) : syncPacket t reason pc = syncPacket s reason pc := by
  simp only [Machine.syncPacket, h.timeNs]

theorem SourceAt.traceFlows (h : SourceAt i s t x) : traceFlows t = traceFlows s := by
  have hgate : gateOpen t 67 = gateOpen s 67 :=
    h.fields.bit (sourceFields_apart_bank (f := F.CLK_GATE_CTRL_OPEN) (by decide) (by decide) i 67)
  simp only [Machine.traceFlows, ringFrames, hgate, h.getB (f := F.TRC_STATUS_FULL) (by decide),
    h.getB (f := F.TRC_CTRL_WRAP) (by decide), h.getF (f := F.TRC_WRITE_FRAME) (by decide),
    h.getF (f := F.TRC_BUF_SIZE_UNITS) (by decide)]
  rfl

theorem SourceAt.traceRuns (h : SourceAt i s t x) : traceRuns t i = traceRuns s i := by
  simp only [Machine.traceRuns, h.getB (f := F.TRC_STATUS_ENABLED) (by decide), h.getB (f := F.TRC_CTRL_EN) (by decide),
    h.getF (f := F.TRC_SOURCES_EN) (by decide), h.getF (f := F.TRC_SOURCES_HI_EN) (by decide)]

theorem SourceAt.comparators (h : SourceAt i s t x) (action pc : Nat) : comparators t i action pc = comparators s i action pc := by
  have hcmp : ∀ k ∈ List.range 4, ∀ f ∈ [F.TRC_SRC_CTRL_ACTION, F.TRC_CMP_LO_LO_ADDR k, F.TRC_CMP_LO_HI_ADDR k,
      F.TRC_CMP_HI_LO_ADDR k, F.TRC_CMP_HI_HI_ADDR k], Machine.getF t (srcFld f i) = Machine.getF s (srcFld f i) := by
    have hapart : ∀ k ∈ List.range 4, ∀ f ∈ [F.TRC_SRC_CTRL_ACTION, F.TRC_CMP_LO_LO_ADDR k, F.TRC_CMP_LO_HI_ADDR k,
        F.TRC_CMP_HI_LO_ADDR k, F.TRC_CMP_HI_HI_ADDR k], Unindexed f ∧
        f.key ≠ F.TRC_SRC_BYTES_COUNT.key ∧ f.key ≠ F.TRC_SRC_CTRL_SLEEPING.key := by decide
    intro k hk f hf
    obtain ⟨hunindexed, hne⟩ := hapart k hk f hf
    exact h.fields _ (sourceFields_apart_bank hunindexed hne i i)
  unfold Machine.comparators
  rw [Bool.eq_iff_iff, List.any_eq_true, List.any_eq_true]
  refine exists_congr fun k => and_congr_right fun hk => ?_
  have hfields := hcmp k hk
  simp only [List.forall_mem_cons, List.not_mem_nil, false_imp_iff, implies_true, and_true] at hfields
  obtain ⟨haction, hlolo, hlohi, hhilo, hhihi⟩ := hfields
  simp only [get64, haction, hlolo, hlohi, hhilo, hhihi]
  rfl

theorem StreamMoved.getB (h : StreamMoved i s t) {f : Fld} (hf : StreamFree f) : Machine.getB t f = Machine.getB s f :=
  h.fields.bit (hf i)

/-! #### One packet -/

/-- A FIFO with less than a frame's bytes gives no whole frame. -/
theorem fillFrames_of_short (s : State) (n : Nat) (h : (trcSrc s i).fifo.length < 60) : fillFrames s i n = s := by
  cases n with
  | zero => rfl
  | succ n => exact if_neg fun hfull => Nat.not_le.2 h hfull.2

theorem queued_length (x : TrcSrc) (bs : List Byte) : (queued x bs).fifo.length = x.fifo.length + bs.length := by
  simp [queued, startMarked]

/-- A packet that leaves the FIFO below a frame joins it. -/
theorem SourceAt.putPacket (h : SourceAt i s t x) (hflows : Machine.traceFlows s = true) {bs : List Byte}
    (hroom : x.fifo.length + bs.length < 60) : SourceAt i s (putPacket t i bs) (queued x bs) := by
  have hput : SourceAt i s (Machine.onTrc (wrapF t (srcFld F.TRC_SRC_BYTES_COUNT i) bs.length) i (queued · bs)) (queued x bs) :=
    SourceAt.onTrc ⟨h.fields.setF (by simp) _, h.src⟩ _
  have hshort : (queued x bs).fifo.length < 60 := by rwa [queued_length]
  unfold Machine.putPacket
  rw [if_pos ⟨h.traceFlows.trans hflows, by rw [h.src]; omega⟩]
  exact (fillFrames_of_short _ 18 (by rw [hput.src]; exact hshort)).symm ▸ hput

theorem SourceAt.emitPacket (h : SourceAt i s t x) (hflows : Machine.traceFlows s = true) (htime : x.timeDue = false)
    {bs : List Byte} (hroom : x.fifo.length + bs.length < 60) : SourceAt i s (emitPacket t i bs) (queued x bs) := by
  have hput := h.putPacket hflows hroom
  unfold Machine.emitPacket
  rwa [if_neg (by rw [hput.src]; simp [queued, htime])]

theorem SourceAt.emitSync (h : SourceAt i s t x) (hflows : Machine.traceFlows s = true) (htime : x.timeDue = false)
    {reason pc : Nat} (hroom : x.fifo.length + 18 < 60) :
    SourceAt i s (emitSync t i reason pc) (queued { x with since := 0, ref := pc, sync := none } (Machine.syncPacket s reason pc)) := by
  have hsync := h.onTrc fun x => { x with since := 0, ref := pc, sync := none }
  unfold Machine.emitSync
  dsimp only
  rw [show Machine.syncPacket (Machine.onTrc t i _) reason pc = Machine.syncPacket s reason pc from hsync.syncPacket reason pc]
  exact hsync.emitPacket hflows htime hroom

theorem flushOutcomes_of_none (h : (trcSrc s i).outcomes = []) : flushOutcomes s i = s := if_pos h

theorem SourceAt.flushOutcomes (h : SourceAt i s t x) (hflows : Machine.traceFlows s = true) (htime : x.timeDue = false)
    (hsome : x.outcomes ≠ []) (hroom : x.fifo.length + 1 < 60) :
    SourceAt i s (flushOutcomes t i) (queued { x with outcomes := [] } (branchPacket x.outcomes)) := by
  unfold Machine.flushOutcomes
  rw [h.src, if_neg hsome]
  exact (h.onTrc _).emitPacket hflows htime hroom

theorem recoverLoss_of_none (pc : Nat) (h : (trcSrc s i).lost = 0) : recoverLoss s i pc = s := if_neg fun hlost => hlost.1 h

theorem addrPacket_length (ref target : Nat) : (addrPacket ref target).length ≤ 9 := by
  have hbytes : addrBytes ref target ≤ 8 := by
    unfold addrBytes
    cases hfind : (List.range 8).find? (fun n => ref / 2 ^ (8 * (n + 1)) == target / 2 ^ (8 * (n + 1))) with
    | none => rfl
    | some n => exact List.mem_range.1 (List.mem_of_find?_eq_some hfind)
  unfold addrPacket
  dsimp only
  rw [List.length_append, length_leBytes, length_leBytes]
  omega

/-! #### A retired instruction of a source that is on and owes nothing -/

/-- No SYNC is due of a source that is on, owes none and has not left excluded code. -/
theorem dueSync_of_none (pc : Nat) (hon : Machine.traceOn s i = true) (hsync : (trcSrc s i).sync = none)
    (hexcluded : (trcSrc s i).excluded = false) :
    dueSync s i pc = Machine.onTrc s i (fun x => { x with excluded := false }) := by
  unfold dueSync
  dsimp only
  have hstill : Machine.traceOn (Machine.onTrc s i (fun x => { x with excluded := false })) i = true := hon
  rw [if_neg (by simp [hon]), if_pos hstill, hsync, hexcluded]
  rfl

/-- What such a source reports of an instruction is what its kind asks for, where no comparator stops it and no periodic
SYNC is due after it. -/
theorem retireTraced_eq {pc : Nat} (next : Nat) (k : RetireKind) (h : SourceAt i s t x) (hon : Machine.traceOn s i = true)
    (hsync : x.sync = none) (hexcluded : x.excluded = false) (hlost : x.lost = 0)
    (hstop : Machine.comparators s i 2 pc = false) {y : TrcSrc}
    (hkind : SourceAt i s (traceKind (Machine.onTrc t i (fun x => { x with excluded := false })) i k) y)
    (hsince : y.since < 4096) :
    retireTraced t i pc next k = traceKind (Machine.onTrc t i (fun x => { x with excluded := false })) i k := by
  have hent := h.onTrc fun x => { x with excluded := false }
  unfold retireTraced
  dsimp only
  rw [dueSync_of_none pc (h.traceOn.trans hon) (h.src ▸ hsync) (h.src ▸ hexcluded),
    recoverLoss_of_none pc (by rw [hent.src]; exact hlost), if_pos (hent.traceOn.trans hon),
    if_neg (fun hstops => by rw [hkind.comparators, hstop] at hstops; exact absurd hstops.2 Bool.false_ne_true)]
  exact if_neg fun hdue => absurd hdue.2 (by rw [hkind.src]; exact Nat.not_le.2 hsince)

end

/-! #### Drains -/

/-- A drain of a FIFO with less than a frame's bytes writes them in one frame (R557). -/
theorem drainSource_of_short {s t : State} {i : Nat} {x : TrcSrc} (hsrc : trcSrc t i = x) (hflows : traceFlows t = true)
    (hsome : x.fifo ≠ []) (hshort : x.fifo.length < 60) (hframe : getF t F.TRC_WRITE_FRAME = getF s F.TRC_WRITE_FRAME) :
    trcSrc (drainSource t i) i = { x with fifo := [], seq := x.seq + 1, mark := false } ∧
      getF (drainSource t i) F.TRC_WRITE_FRAME = (getF s F.TRC_WRITE_FRAME + 1) % 2 ^ 32 := by
  unfold drainSource
  dsimp only
  rw [fillFrames_of_short _ _ (hsrc ▸ hshort), if_pos ⟨hflows, hsrc ▸ hsome⟩]
  have hwritten : trcSrc (writeFrame t i) i = { x with fifo := [], seq := x.seq + 1, mark := false } := by
    have htrc : ∀ u : State, trcSrc (onTrc (wrapF (winWriteBytes u (getF u F.TRC_BUF_WINDOW_WINDOW)
        (getF u F.TRC_BUF_OFFSET_UNITS * 4096 + 64 * (getF t F.TRC_WRITE_FRAME % ringFrames u)) (traceFrame i (trcSrc t i)))
        F.TRC_WRITE_FRAME 1) i (fun x => { x with fifo := x.fifo.drop 60, seq := x.seq + 1, mark := false })) i =
        { trcSrc u i with fifo := (trcSrc u i).fifo.drop 60, seq := (trcSrc u i).seq + 1, mark := false } := by
      intro u
      obtain ⟨m, marks, h⟩ := (OnlyHbmBytes.refl u).winWriteBytes (getF u F.TRC_BUF_WINDOW_WINDOW)
        (getF u F.TRC_BUF_OFFSET_UNITS * 4096 + 64 * (getF t F.TRC_WRITE_FRAME % ringFrames u)) (traceFrame i (trcSrc t i))
      rw [trcSrc_onTrc_same, h]
      rfl
    have hdrop : x.fifo.drop 60 = [] := List.drop_eq_nil_of_le hshort.le
    unfold writeFrame
    dsimp only
    rw [htrc]
    rw [← hdrop, ← hsrc]
    split <;> rfl
  refine ⟨by rw [trcSrc, noteFull_trc]; exact hwritten, ?_⟩
  have hfull : ∀ u, getF (noteFull u) F.TRC_WRITE_FRAME = getF u F.TRC_WRITE_FRAME := by
    intro u
    unfold noteFull
    split
    · exact getF_setB_other _ (by decide) _
    · rfl
  rw [hfull]
  unfold writeFrame
  dsimp only
  rw [getF_onTrc]
  unfold wrapF
  rw [getF_setF_same, getF_winWriteBytes, ← hframe]
  split
  · rw [show ∀ b, getF (setB t F.TRC_STATUS_WRAPPED b) F.TRC_WRITE_FRAME = getF t F.TRC_WRITE_FRAME from
      fun b => getF_setB_other _ (by decide) _]
    rfl
  · rfl

theorem sourceAt_setSleeping (s : State) (i : Nat) (b : Bool) :
    SourceAt i s (setB s (srcFld F.TRC_SRC_CTRL_SLEEPING i) b) (trcSrc s i) :=
  ⟨(FieldsBut.refl s _).setF (by simp) _, rfl⟩

/-! #### The statement -/

/-- A source that is on in traced code, owes nothing, has no TIME due and has room for a packet or two. -/
structure QuietSource (s : State) (i pc : Nat) : Prop where
  runs : traceRuns s i = true
  on : traceOn s i = true
  sync : (trcSrc s i).sync = none
  excluded : (trcSrc s i).excluded = false
  lost : (trcSrc s i).lost = 0
  timeDue : (trcSrc s i).timeDue = false
  unstopped : comparators s i 2 pc = false
  since : (trcSrc s i).since + 30 < 4096
  flows : traceFlows s = true
  room : (trcSrc s i).fifo.length + 30 < 60
  outcomes : (trcSrc s i).outcomes.length < 6

section
variable {s : State} {i : Fin 40} {pc next : DWord} {m : Bool}

/-- A control core's monitored trap alone shows in CTL_STATUS. -/
theorem noteCoreTrap_of_no_trap (s : State) (i : Nat) {k : RetireKind} (hk : ∀ c h, k ≠ .trap c h true) : noteCoreTrap s i k = s := by
  unfold noteCoreTrap
  split
  · exact absurd rfl (hk _ _)
  · rfl

/-- A traced source retires an instruction that is no trap and not excluded. -/
theorem execRetired_traced (hruns : traceRuns s i = true) (hm : (m && tracePrivate s) = false) {k : RetireKind}
    (hk : ∀ c h b, k ≠ .trap c h b) : exec (.retiredInstruction i pc next m k) s =
      .next (retireTraced (onTrc s i (fun x => { x with pc := next.toNat })) i pc.toNat next.toNat k) := by
  change execRetiredInstruction i pc next m k s = _
  unfold execRetiredInstruction
  dsimp only
  rw [noteCoreTrap_of_no_trap s i fun c h => hk c h true, if_pos hruns]
  cases k with
  | trap c h b => exact absurd rfl (hk c h b)
  | plain | branch | indirect | mret => simp only [hm, Bool.false_eq_true, if_false]

/-- The quiet source as its instruction's own report finds it. -/
abbrev retiring (s : State) (i : Fin 40) (next : DWord) : State :=
  onTrc (onTrc s i (fun x => { x with pc := next.toNat })) i (fun x => { x with excluded := false })

theorem QuietSource.retiring (q : QuietSource s i pc.toNat) (next : DWord) :
    SourceAt i s (retiring s i next) { trcSrc s i with pc := next.toNat } := by
  have h := ((SourceAt.refl i.val s).onTrc fun x => { x with pc := next.toNat }).onTrc fun x => { x with excluded := false }
  exact ⟨h.fields, h.src.trans (by rw [← q.excluded])⟩

/-- A quiet source whose instruction is not excluded reports what its kind asks for. -/
theorem QuietSource.retires (q : QuietSource s i pc.toNat) (hm : (m && tracePrivate s) = false) {k : RetireKind}
    (hk : ∀ c h b, k ≠ .trap c h b) {y : TrcSrc} (hkind : SourceAt i s (traceKind (Machine.retiring s i next) i k) y)
    (hsince : y.since < 4096) :
    exec (.retiredInstruction i pc next m k) s = .next (traceKind (Machine.retiring s i next) i k) :=
  (execRetired_traced q.runs hm hk).trans (congrArg _ (retireTraced_eq next.toNat k
    ((SourceAt.refl i.val s).onTrc fun x => { x with pc := next.toNat }) q.on q.sync q.excluded q.lost q.unstopped hkind hsince))

theorem QuietSource.retires_plain (q : QuietSource s i pc.toNat) (hm : (m && tracePrivate s) = false) :
    Answers (.retiredInstruction i pc next m .plain) s
      (fun t => trcSrc t i = { trcSrc s i with pc := next.toNat } ∧ t = { s with trc := t.trc }) :=
  have hkind := q.retiring next
  ⟨_, q.retires hm (by simp) hkind (Nat.lt_of_le_of_lt (Nat.le_add_right _ 30) q.since), hkind.src, rfl⟩

/-- An outcome that is not the sixth waits. -/
theorem QuietSource.retires_branch (q : QuietSource s i pc.toNat) (hm : (m && tracePrivate s) = false) (b : Bool)
    (hfew : (trcSrc s i).outcomes.length < 5) : Answers (.retiredInstruction i pc next m (.branch b)) s (fun t =>
      trcSrc t i = { trcSrc s i with pc := next.toNat, outcomes := (trcSrc s i).outcomes ++ [b] } ∧
      t = { s with trc := t.trc }) := by
  have hnoted := (q.retiring next).onTrc fun x => { x with outcomes := x.outcomes ++ [b] }
  have hwaits : traceKind (Machine.retiring s i next) i (.branch b) =
      onTrc (Machine.retiring s i next) i (fun x => { x with outcomes := x.outcomes ++ [b] }) :=
    if_neg (by rw [hnoted.src]; simp; omega)
  refine ⟨_, q.retires hm (by simp) (hwaits.symm ▸ hnoted :) (Nat.lt_of_le_of_lt (Nat.le_add_right _ 30) q.since), ?_⟩
  rw [hwaits]
  exact ⟨hnoted.src, rfl⟩

/-- The sixth goes out with the five before it. -/
theorem QuietSource.retires_sixth (q : QuietSource s i pc.toNat) (hm : (m && tracePrivate s) = false) (b : Bool)
    (hfive : (trcSrc s i).outcomes.length = 5) : Answers (.retiredInstruction i pc next m (.branch b)) s (fun t =>
      (trcSrc t i).outcomes = [] ∧
      (trcSrc t i).fifo = (trcSrc s i).fifo ++ startMarked (branchPacket ((trcSrc s i).outcomes ++ [b]))) := by
  have hnoted := (q.retiring next).onTrc fun x => { x with outcomes := x.outcomes ++ [b] }
  have hroom := q.room
  have hsince := q.since
  have hout := hnoted.flushOutcomes q.flows q.timeDue (by simp) (by simp only; omega)
  rw [← show noteBranch (Machine.retiring s i next) i b = _ from if_pos (by rw [hnoted.src]; simp [hfive])] at hout
  refine ⟨_, q.retires hm (by simp) hout ?_, ?_⟩
  · simp only [queued, branchPacket, length_leBytes]
    omega
  · beta_reduce
    rw [show trcSrc (traceKind (Machine.retiring s i next) i (.branch b)) i = _ from hout.src]
    exact ⟨rfl, rfl⟩

/-- An indirect jump names its target against the source's reference address. -/
theorem QuietSource.retires_indirect (q : QuietSource s i pc.toNat) (hm : (m && tracePrivate s) = false) (a : DWord)
    (hnone : (trcSrc s i).outcomes = []) : Answers (.retiredInstruction i pc next m (.indirect a)) s (fun t =>
      (trcSrc t i).ref = a.toNat ∧
      (trcSrc t i).fifo = (trcSrc s i).fifo ++ startMarked (addrPacket (trcSrc s i).ref a.toNat)) := by
  have hready := q.retiring next
  have hroom := q.room
  have hsince := q.since
  have hlength := addrPacket_length (trcSrc s i).ref a.toNat
  have hout := (hready.onTrc fun x => { x with ref := a.toNat }).emitPacket q.flows q.timeDue
    (bs := addrPacket (trcSrc s i).ref a.toNat) (by simp only; omega)
  have htarget : noteTarget (Machine.retiring s i next) i a.toNat = emitPacket (onTrc (Machine.retiring s i next) i
      (fun x => { x with ref := a.toNat })) i (addrPacket (trcSrc s i).ref a.toNat) := by
    unfold noteTarget
    dsimp only
    rw [flushOutcomes_of_none (hready.src ▸ hnone), hready.src]
  rw [← htarget] at hout
  refine ⟨_, q.retires hm (by simp) hout ?_, ?_⟩
  · simp only [queued]
    omega
  · beta_reduce
    rw [show trcSrc (traceKind (Machine.retiring s i next) i (.indirect a)) i = _ from hout.src]
    exact ⟨rfl, rfl⟩

/-- A trap in traced code: TRAP, and SYNC at its handler. -/
theorem QuietSource.retires_trap (q : QuietSource s i pc.toNat) (hprivate : tracePrivate s = false)
    (hnone : (trcSrc s i).outcomes = []) (c : Byte) (h : DWord) :
    Answers (.retiredInstruction i pc next m (.trap c h false)) s (fun t => (trcSrc t i).pc = h.toNat ∧
      (trcSrc t i).fifo = (trcSrc s i).fifo ++ startMarked (trapPacket c.toNat pc.toNat) ++
        startMarked (syncPacket s 6 h.toNat)) := by
  have hhandler := (SourceAt.refl i.val s).onTrc fun x => { x with pc := h.toNat }
  have hroom := q.room
  have htrapped := hhandler.emitPacket q.flows q.timeDue (bs := trapPacket c.toNat pc.toNat)
    (by simp [trapPacket, length_leBytes]; omega)
  have hsynced := htrapped.emitSync (reason := 6) (pc := h.toNat) q.flows q.timeDue
    (by rw [queued_length]; simp [trapPacket, length_leBytes]; omega)
  have htrap : exec (.retiredInstruction i pc next m (.trap c h false)) s = .next (emitSync (emitPacket
      (onTrc s i (fun x => { x with pc := h.toNat })) i (trapPacket c.toNat pc.toNat)) i 6 h.toNat) := by
    have hon : traceOn (onTrc s i (fun x => { x with pc := h.toNat })) i = true := q.on
    change execRetiredInstruction i pc next m (.trap c h false) s = _
    unfold execRetiredInstruction traceTrap
    dsimp only
    rw [noteCoreTrap_of_no_trap s i (by simp), if_pos q.runs,
      if_neg (show ¬tracePrivate (onTrc s i _) = true by rw [show tracePrivate (onTrc s i _) = _ from hprivate]; decide),
      if_pos hon, recoverLoss_of_none _ (by rw [hhandler.src]; exact q.lost), flushOutcomes_of_none (by rw [hhandler.src]; exact hnone)]
  refine ⟨_, htrap, ?_⟩
  beta_reduce
  rw [hsynced.src]
  exact ⟨rfl, rfl⟩

/-- SLEEP reports, drains the FIFO in one frame and shows that the source sleeps. -/
theorem QuietSource.sleeps {pc : Nat} (q : QuietSource s i pc) (hnone : (trcSrc s i).outcomes = []) :
    Answers (.sleep i) s (fun t => getB t (srcFld F.TRC_SRC_CTRL_SLEEPING i) = true ∧
      (trcSrc t i).fifo = [] ∧ (trcSrc t i).seq = (trcSrc s i).seq + 1 ∧
      getF t F.TRC_WRITE_FRAME = (getF s F.TRC_WRITE_FRAME + 1) % 2 ^ 32) := by
  have hroom := q.room
  have hlength : (sleepPacket s).length = 9 := by simp [sleepPacket, length_leBytes]
  have hreported := (SourceAt.refl i.val s).emitPacket q.flows q.timeDue (bs := sleepPacket s) (by omega)
  have hasleep : SourceAt i s (setB (emitPacket s i (sleepPacket s)) (srcFld F.TRC_SRC_CTRL_SLEEPING i) true) _ :=
    ⟨hreported.fields.setF (by simp) _, hreported.src⟩
  have hlength' : (queued (trcSrc s i) (sleepPacket s)).fifo.length = (trcSrc s i).fifo.length + 9 := by rw [queued_length, hlength]
  obtain ⟨hsrc, hframe⟩ := drainSource_of_short hasleep.src (hasleep.traceFlows.trans q.flows)
    (List.length_pos_iff.1 (by omega)) (by omega) (hasleep.getF (f := F.TRC_WRITE_FRAME) (by decide))
  have hexec : exec (.sleep i) s =
      .next (drainSource (setB (emitPacket s i (sleepPacket s)) (srcFld F.TRC_SRC_CTRL_SLEEPING i) true) i) := by
    change execSleep i s = _
    unfold execSleep
    dsimp only
    rw [if_pos (by simp [traceLive, q.runs, q.on, q.excluded]), recoverLoss_of_none _ q.lost, flushOutcomes_of_none hnone]
  refine ⟨_, hexec, ?_, by rw [hsrc], by rw [hsrc]; rfl, hframe⟩
  exact ((StreamMoved.refl i.val _).drainSource.getB (streamFree_sleeping i)).trans (getB_setB_same _ _ _ rfl)

/-- WAKE clears SLEEPING and reports, with a SYNC at the address that the source resumes from. -/
theorem QuietSource.wakes (q : QuietSource s i pc.toNat) :
    Answers (.wake i pc) s (fun t => getB t (srcFld F.TRC_SRC_CTRL_SLEEPING i) = false ∧
      (trcSrc t i).fifo = (trcSrc s i).fifo ++ startMarked (leBytes 1 4) ++ startMarked (syncPacket s 2 pc.toNat) ∧
      (trcSrc t i).ref = pc.toNat) := by
  have hroom := q.room
  have hawake := (sourceAt_setSleeping s i false).onTrc fun x => { x with pc := pc.toNat }
  have hreported := hawake.emitPacket q.flows q.timeDue (bs := leBytes 1 4) (by rw [length_leBytes]; simp only; omega)
  have hsynced := hreported.emitSync (reason := 2) (pc := pc.toNat) q.flows q.timeDue
    (by rw [queued_length, length_leBytes]; simp only; omega)
  have hlive : traceLive (onTrc (setB s (srcFld F.TRC_SRC_CTRL_SLEEPING i) false) i (fun x => { x with pc := pc.toNat })) i = true := by
    simp [traceLive, hawake.traceRuns, hawake.traceOn, hawake.src, q.runs, q.on, q.excluded]
  have hexec : exec (.wake i pc) s = .next (emitSync (emitPacket (onTrc (setB s (srcFld F.TRC_SRC_CTRL_SLEEPING i) false) i
      (fun x => { x with pc := pc.toNat })) i (leBytes 1 4)) i 2 pc.toNat) := by
    change execWake i pc s = _
    unfold execWake
    dsimp only
    rw [if_pos hlive, recoverLoss_of_none _ (by rw [hawake.src]; exact q.lost)]
  refine ⟨_, hexec, ?_, by rw [hsynced.src]; rfl, by rw [hsynced.src]; rfl⟩
  exact ((((StreamMoved.refl i.val _).emitPacket _).emitSync _ _).getB (streamFree_sleeping i)).trans
    ((getB_onTrc _ _ _ _).trans (getB_setB_same _ _ _ rfl))

/-- The frame timeout drains what waits. -/
theorem traceFrameTimeout_answers (hflows : traceFlows s = true) (hsome : (trcSrc s i).fifo ≠ [])
    (hshort : (trcSrc s i).fifo.length < 60) : Answers (.traceFrameTimeout i) s (fun t =>
      trcSrc t i = { trcSrc s i with fifo := [], seq := (trcSrc s i).seq + 1, mark := false } ∧
      getF t F.TRC_WRITE_FRAME = (getF s F.TRC_WRITE_FRAME + 1) % 2 ^ 32) :=
  ⟨_, rfl, drainSource_of_short rfl hflows hsome hshort rfl⟩

theorem drainSource_of_empty {i : Nat} (h : (trcSrc s i).fifo = []) : drainSource s i = s := by
  unfold drainSource
  dsimp only
  rw [fillFrames_of_short _ _ (by rw [h]; decide), if_neg fun hdrains => hdrains.2 h]

/-- Excluded code gives nothing. -/
theorem execRetired_excluded (hruns : traceRuns s i = true) (hprivate : tracePrivate s = true) :
    exec (.retiredInstruction i pc next true .plain) s = .next (onTrc s i (fun x => { x with excluded := true })) := by
  change execRetiredInstruction i pc next true .plain s = _
  unfold execRetiredInstruction
  dsimp only
  rw [noteCoreTrap_of_no_trap s i (by simp), if_pos hruns, hprivate]
  rfl

/-- A source that is not traced reports nothing, but for a trap that the monitor takes. -/
theorem execRetired_untraced (hruns : traceRuns s i = false) (k : RetireKind) :
    exec (.retiredInstruction i pc next m k) s = .next (noteCoreTrap s i k) := by
  have hcore : traceRuns (noteCoreTrap s i k) i = false := by
    unfold noteCoreTrap
    split
    · split
      · rw [← hruns]
        unfold traceRuns
        simp (disch := decide) only [getB_setB_other, getF_setB_other]
      · exact hruns
    · exact hruns
  change execRetiredInstruction i pc next m k s = _
  unfold execRetiredInstruction
  dsimp only
  rw [if_neg (by rw [hcore]; decide)]

end

/-- Settles O44: each report is a packet that a quiet source's FIFO has room for. -/
theorem traceSourcesReport : Obligations.TraceSourcesReport := by
  unfold Obligations.TraceSourcesReport
  intro s i pc next m x mark quiet
  have hquiet : quiet → QuietSource s i pc.toNat := by
    rintro ⟨hruns, hon, hsync, hexcluded, hlost, htime, hstop, hsince, hflows, hroom, houtcomes⟩
    exact ⟨hruns, hon, hsync, hexcluded, hlost, htime, hstop, hsince, hflows, hroom, houtcomes⟩
  refine ⟨fun hruns k hk => ?_, fun hruns c h => ?_, fun q hm => ?_, fun q hprivate hnone c h => ?_, fun hruns hm hprivate => ?_,
    fun q hnone => (hquiet q).sleeps hnone, fun q => (hquiet q).wakes, fun hflows hsome hshort =>
    traceFrameTimeout_answers hflows hsome hshort, fun hempty => ⟨_, rfl, drainSource_of_empty hempty⟩,
    fun hruns hon hperiod => ?_, fun hnot => ?_, fun hlive => ?_⟩
  · exact ⟨_, execRetired_untraced hruns k, noteCoreTrap_of_no_trap s i hk⟩
  · refine ⟨_, execRetired_untraced hruns _, ?_⟩
    simp only [noteCoreTrap]
    split
    · exact ⟨getB_setB_same _ _ _ rfl, (OnlyFields.refl s _).setB (by simp) _⟩
    · rfl
  · exact ⟨(hquiet q).retires_plain hm, fun b hfew => (hquiet q).retires_branch hm b hfew,
      fun b hfive => (hquiet q).retires_sixth hm b hfive, fun a hnone => (hquiet q).retires_indirect hm a hnone⟩
  · exact (hquiet q).retires_trap hprivate hnone c h
  · subst hm
    exact ⟨_, execRetired_excluded hruns hprivate, trcSrc_onTrc_same s i _, rfl⟩
  · exact ⟨_, if_pos ⟨hruns, hon, hperiod⟩, trcSrc_onTrc_same s i _, rfl⟩
  · refine if_neg ?_
    rintro ⟨hruns, hon, hperiod⟩
    obtain hoff | hoff | hoff := hnot
    · exact absurd hruns (by simp [hoff])
    · exact absurd hon (by simp [hoff])
    · exact hperiod hoff
  · exact if_neg (by simp [hlive])

end Sys2Proof.Machine
end

section
/-! ### SYNC and a TIME that its registers cannot hold -/

namespace Sys2Proof.Machine

/-- The reset state but for the upper half of TIME, which the register store holds wider than the register is. -/
def overwideTime : State := { State.reset with regs := [(F.IDN_TIME_HI_TIME.key, 2 ^ 32)] }

/-- SYNC without LOAD_TIME leaves TIME as the store has it (R398). -/
theorem timeNs_sync_overwideTime : exec .sync overwideTime = .next (takeSync overwideTime) ∧
    timeNs (takeSync overwideTime) = 2 ^ 64 := ⟨rfl, by decide⟩

/-- Refutes O34: over every state, TIME after a SYNC that loads nothing is claimed to be TIME before it taken to 64 bits, but
such a SYNC writes no half of TIME, and the store of a state that no step reaches may hold a half wider than its register. -/
theorem not_triggerBusAndSyncAct : ¬ Obligations.TriggerBusAndSyncAct := by
  unfold Obligations.TriggerBusAndSyncAct
  intro h
  obtain ⟨-, -, -, -, -, hsync, -⟩ := (h overwideTime 0).2 rfl
  obtain ⟨t, hexec, -, htime, -⟩ := hsync rfl
  obtain ⟨hexec', hkept⟩ := timeNs_sync_overwideTime
  cases hexec.symm.trans hexec'
  rw [hkept] at htime
  exact absurd htime (Nat.mod_lt _ (by decide)).ne'

end Sys2Proof.Machine
end

section
/-! ### Snapshots, Hallmarks and restores -/

namespace Sys2Proof.Machine

/-! #### What host state is no part of -/

section
variable (s : State) (h : HostIf)

theorem winReadBytes_host (w x n : Nat) : winReadBytes { s with host := h } w x n = winReadBytes s w x n := by
  induction n generalizing x with
  | zero => rfl
  | succ n ih => exact congrArg (_ :: ·) (ih (x + 1))

theorem slotRecord_host (i : Nat) : slotRecord { s with host := h } i = slotRecord s i := winReadBytes_host s h _ _ _

theorem fetchSealed_host (w off len : Nat) : fetchSealed { s with host := h } w off len = fetchSealed s w off len := by
  unfold fetchSealed
  simp only [slotRecord_host]
  rfl

end

/-! #### FETCH (R403) -/

/-- A range read back clean goes to the host buffer, or the host refuses it. -/
theorem fetchBody_eq {u : State} {d : Desc} {source w off addr len : Nat} (hsource : source ≤ 1)
    (howner : getB u F.LDR_OWNER_VALID = false ∨ isOwner u d = true) (hwindow : winOwned u w (source + 1) = true)
    (hfits : off + len ≤ winSize u w) (haligned : off % 8 = 0 ∧ len % 8 = 0 ∧ addr % 8 = 0) (hlen : len ≤ 2 ^ 32)
    (hsealed : source = 0 ∨ fetchSealed u w off len = false) (hclean : winErrors u w off len = []) (hostOk : Bool) :
    fetchBody d 0 source w off addr len hostOk u = if hostOk then
      complete (emit u (.hostImage addr len (winSlice u w off len))) d stOK 0 else complete u d stHostFault 0 := by
  obtain ⟨hoff, hlen8, haddr⟩ := haligned
  have hbad : ¬(2 ≤ 0 ∨ 1 < source) := by omega
  have hwrong : ¬(getB u F.LDR_OWNER_VALID && !isOwner u d) = true := by
    rcases howner with h | h <;> simp [h]
  have hrange : ¬((!winOwned u w (source + 1)) = true ∨ winSize u w < off + len ∨ off % 8 ≠ 0 ∨ len % 8 ≠ 0 ∨ 2 ^ 32 < len ∨
      addr % 8 ≠ 0) := by
    rw [hwindow]
    simp
    omega
  have hseal : ¬(decide (source = 1) && fetchSealed u w off len) = true := by
    rcases hsealed with h | h <;> simp [h]
  have hserve : (winServe u w off len).1 = u := by
    rw [winServe, hclean]
    rfl
  unfold fetchBody
  dsimp only
  rw [if_neg hbad, if_neg hwrong, if_neg hrange, if_neg hseal, hserve]

/-- Settles O17: FETCH by the checks that its range passes. -/
theorem fetchCopiesAWindowRange : Obligations.FetchCopiesAWindowRange := by
  unfold Obligations.FetchCopiesAWindowRange
  intro s d source w off addr len hruns hsource howner hwindow hfits hoff hlen8 hlen haddr hsealed hclean
  have hbody : ∀ i hostOk, startDesc d i (ungrouped d (fetchBody d 0 source.toNat w off.toNat addr.toNat len.toNat hostOk)) s =
      if hostOk then complete (emit (descStarted s d (.cmd i)) (.hostImage addr.toNat len.toNat (winSlice s w off.toNat len.toNat)))
        d stOK 0 else complete (descStarted s d (.cmd i)) d stHostFault 0 := by
    intro i hostOk
    rw [startDesc_ungrouped hruns]
    refine fetchBody_eq (u := descStarted s d (.cmd i)) hsource howner hwindow hfits ⟨hoff, hlen8, haddr⟩ hlen ?_ hclean hostOk
    refine hsealed.imp (fun h => ?_) fun h => (fetchSealed_host s _ w off.toNat len.toNat).trans h
    subst h
    rfl
  refine ⟨⟨_, congrArg Host.Outcome.next (hbody _ true), ?_⟩, ⟨_, congrArg Host.Outcome.next (hbody _ false), ?_⟩⟩
  · have htakes : TakesCompletion s (emit (descStarted s d (.cmd (.fetch d 0 source w off addr len true)))
        (.hostImage addr.toNat len.toNat (winSlice s w off.toNat len.toNat))) d :=
      (takesCompletion_descStarted hruns _).congr rfl
    exact ⟨htakes.frame _ _, htakes.posts rfl _ _⟩
  · obtain ⟨hposts, hframe⟩ := descStarted_completes hruns (.cmd (.fetch d 0 source w off addr len false)) stHostFault
    exact ⟨hframe, hposts⟩

end Sys2Proof.Machine
end

section
/-! ### Run-control descriptors on a device alone: CAPTURE -/

namespace Sys2Proof.Machine

/-! #### A run-control descriptor that is accepted as it comes -/

/-- A run-control descriptor of the owning session that nothing holds back acts at once (R31, R622). -/
theorem startDesc_accepted {s : State} {d : Desc} (hruns : DescRuns s d) (howner : isOwner s d = true)
    (hrestore : s.run.restore = none) (hwaiting : s.run.waiting = []) {alone : Bool}
    (halone : alone = true → s.run.hallmark = none) (i : Instr) (k : State → State) :
    startDesc d i (ungroupedRun d (runGate d i alone k)) s = k (descStarted s d (.cmd i)) := by
  have howner' : isOwner (descStarted s d (.cmd i)) d = true := howner
  have hfree : ¬(s.run.restore.isSome || decide (s.run.waiting ≠ []) || (alone && s.run.hallmark.isSome)) = true := by
    cases alone <;> simp [hrestore, hwaiting, halone]
  rw [startDesc_ungroupedRun hruns, runGate, howner']
  exact if_neg hfree

theorem otherPositions_alone {s : State} (h : multi s = false) : otherPositions s = [] := by
  rw [otherPositions, h]
  rfl

/-! #### The stored bytes of windows -/

/-- The registers, the HBM and its hub are the same in both states. -/
structure SameHbm (s t : State) : Prop where
  regs : t.regs = s.regs
  cells : t.mem.hbm = s.mem.hbm
  hub : t.hbm = s.hbm

section
variable {s t : State} (h : SameHbm s t)
include h

theorem SameHbm.getF_eq : getF t = getF s := funext (getF_congr h.regs)

theorem SameHbm.winAddr (w x : Nat) : winAddr t w x = winAddr s w x := by
  simp only [Machine.winAddr, winMembers, winGrain, winSize, h.getF_eq]

theorem SameHbm.cellOffset (w key : Nat) : cellOffset t w key = cellOffset s w key := by
  simp only [Machine.cellOffset, winOffset, winMembers, winBase, winSpan, winGrain, winSize, winMirror, getB, h.getF_eq]
  rfl

theorem SameHbm.hbmPut (pc a : Nat) (b : Byte) : SameHbm (hbmPut s pc a b) (hbmPut t pc a b) := by
  obtain ⟨hregs, hcells, hhub⟩ := h
  have hfailed : pcFailed t pc = pcFailed s pc := by rw [pcFailed, getF_congr hregs, pcFailed]
  unfold Machine.hbmPut
  rw [hfailed]
  split
  · exact ⟨hregs, hcells, hhub⟩
  · exact ⟨hregs, by rw [hcells], by rw [hhub]⟩

theorem SameHbm.winWrite (w x : Nat) (b : Byte) : SameHbm (winWrite s w x b) (winWrite t w x b) := by
  unfold Machine.winWrite
  rw [h.winAddr]
  dsimp only
  have hput := h.hbmPut (Machine.winAddr s w x).1 (Machine.winAddr s w x).2 b
  rw [show winMirror (Machine.hbmPut t _ _ _) w = winMirror (Machine.hbmPut s _ _ _) w by rw [winMirror, getB, hput.getF_eq]; rfl]
  split
  · exact hput.hbmPut _ _ _
  · exact hput

theorem SameHbm.winClear (w off len : Nat) : SameHbm (winClear s w off len) (winClear t w off len) := by
  have hholds : winHolds t w off len = winHolds s w off len := by
    funext key
    simp only [winHolds, h.cellOffset, pcFailed, h.getF_eq]
  refine ⟨h.regs, ?_, ?_⟩
  · simp only [Machine.winClear, hholds, h.cells]
  · simp only [Machine.winClear, hholds, h.hub]

theorem SameHbm.winStore (w off len : Nat) (m : Memory) : SameHbm (winStore s w off len m) (winStore t w off len m) := by
  have hcells : ∀ {u v}, SameHbm u v → SameHbm
      (m.foldl (fun t c => if c.1 < len then Machine.winWrite t w (off + c.1) c.2 else t) u)
      (m.foldl (fun t c => if c.1 < len then Machine.winWrite t w (off + c.1) c.2 else t) v) := by
    induction m with
    | nil => exact id
    | cons c m ih =>
      intro u v huv
      refine ih ?_
      dsimp only
      split
      · exact huv.winWrite _ _ _
      · exact huv
  exact hcells (h.winClear w off len)

end

/-- An image stored in a window changes HBM bytes alone. -/
theorem OnlyHbmBytes.winStore {s t : State} (h : OnlyHbmBytes s t) (w off len : Nat) (m : Memory) :
    OnlyHbmBytes s (winStore t w off len m) := by
  have hcleared : OnlyHbmBytes s (winClear t w off len) := by
    obtain ⟨cells, marks, rfl⟩ := h
    exact ⟨_, _, rfl⟩
  refine List.foldlRecOn (motive := OnlyHbmBytes s) _ _ hcleared fun u hu c _ => ?_
  split
  · exact hu.winWrite _ _ _
  · exact hu

/-! #### CAPTURE (R400, R401) -/

/-- Neither host state nor the Assay engine is part of a snapshot image. -/
theorem snapshotImage_frame (s : State) (h : HostIf) (a : Asy) (nb : Nat) (tileRam : Bool) :
    snapshotImage { s with host := h, asy := a } nb tileRam = snapshotImage s nb tileRam := rfl

theorem captureStatus_host (s : State) (h : HostIf) (tileRam : Bool) (w off : Nat) :
    captureStatus { s with host := h } tileRam w off = captureStatus s tileRam w off := by
  unfold captureStatus
  congr 1

/-- A CAPTURE accepted on a device alone: what it is when the machine rests, and otherwise. -/
theorem acceptCapture_eq {s : State} (halone : multi s = false) {c : CaptureReq} (hwaits : c.waits = [])
    (hpass : captureStatus s c.tileRam c.window c.offset = none) :
    acceptCapture s c = if restsVisible s then takeCapture (onAsy s (fun a => { a with capture := some c })) s.run.nextCommit
      else onAsy s (fun a => { a with capture := some c }) := by
  obtain ⟨d, tileRam, w, off, next, waits⟩ := c
  subst hwaits
  unfold acceptCapture
  rw [hpass, otherPositions_alone halone]
  rfl

/-- It takes the boundary at once, and its image is stored. -/
theorem takeCapture_stores (s : State) (h : HostIf) {c : CaptureReq} (hnext : c.next = none) (nb : Nat) :
    let t := takeCapture (onAsy { s with host := h } (fun a => { a with capture := some c })) nb
    t.dies = s.dies ∧ t.asy.capture = some { c with next := some nb } ∧
      t.mem.hbm = (winStore s c.window c.offset (snapshotLength s c.tileRam) (snapshotImage s nb c.tileRam)).mem.hbm := by
  obtain ⟨u, hu⟩ : ∃ u, u = onAsy { s with host := h } (fun a => { a with capture := some c }) := ⟨_, rfl⟩
  obtain ⟨v, hv⟩ : ∃ v, v = winStore u c.window c.offset (snapshotLength u c.tileRam) (snapshotImage u nb c.tileRam) := ⟨_, rfl⟩
  have htaken : takeCapture u nb = onAsy v (fun a => { a with capture := some { c with next := some nb } }) := by
    have hcapture : u.asy.capture = some c := by rw [hu]; rfl
    unfold takeCapture
    rw [hcapture, hv]
    exact if_pos (by rw [hnext]; rfl)
  have hsame : SameHbm s u := by
    rw [hu]
    exact ⟨rfl, rfl, rfl⟩
  have himage : snapshotImage u nb c.tileRam = snapshotImage s nb c.tileRam := hu ▸ snapshotImage_frame s h _ nb c.tileRam
  have hlength : snapshotLength u c.tileRam = snapshotLength s c.tileRam := by rw [hu]; rfl
  have hcells : v.mem.hbm = (winStore s c.window c.offset (snapshotLength s c.tileRam) (snapshotImage s nb c.tileRam)).mem.hbm := by
    rw [hv, himage, hlength]
    exact (hsame.winStore _ _ _ _).cells
  have hdies : v.dies = s.dies := by
    obtain ⟨cells, marks, hstored⟩ := (OnlyHbmBytes.refl u).winStore c.window c.offset (snapshotLength u c.tileRam)
      (snapshotImage u nb c.tileRam)
    rw [hv, hstored, hu]
    rfl
  intro t
  rw [show t = _ from (hu ▸ htaken :)]
  exact ⟨hdies, rfl, hcells⟩

/-- Settles O16: CAPTURE by the boundary that it takes, its end by what it posts. -/
theorem captureStoresOneBoundary : Obligations.CaptureStoresOneBoundary := by
  unfold Obligations.CaptureStoresOneBoundary
  refine fun s d => ⟨fun f w off hruns howner hrestore hwaiting halone hidle hpass => ?accepted,
    fun f w off nb hopen hfresh hcapture hcaptures => ?complete⟩
  case accepted =>
    obtain ⟨u, hu⟩ : ∃ u, u = descStarted s d (.cmd (.capture d 0 f w off)) := ⟨_, rfl⟩
    have hexec : exec (.capture d 0 f w off) s = .next (acceptCapture u ⟨d, f, w, off.toNat, none, []⟩) := by
      refine congrArg Host.Outcome.next ((startDesc_accepted hruns howner hrestore hwaiting (by simp) _ _).trans ?_)
      rw [← hu]
      have hidle' : u.asy.capture = none := by rw [hu]; exact hidle
      simp [captureBody, hidle']
    have hpass' : captureStatus u f w off.toNat = none := by rw [hu]; exact (captureStatus_host s _ f w off.toNat).trans hpass
    refine ⟨_, hexec, ?_⟩
    rw [acceptCapture_eq (by rw [hu]; exact halone) rfl hpass']
    have hrests : restsVisible u = restsVisible s := by rw [hu]; rfl
    rw [hrests, hu]
    split
    · exact takeCapture_stores s _ rfl s.run.nextCommit
    · exact ⟨rfl, rfl, rfl⟩
  case complete =>
    obtain ⟨v, hv⟩ : ∃ v, v = onAsy (set64 s F.ASY_SNAP_LAST_LO_CYCLE F.ASY_SNAP_LAST_HI_CYCLE (boundaryResult nb))
      (fun a => { a with capture := none }) := ⟨_, rfl⟩
    have htakes : TakesCompletion s v d := ⟨hopen, hfresh, _, by rw [hv]; rfl⟩
    have hframe := htakes.frame stOK (boundaryResult nb)
    have hexec : exec .captureComplete s = .next (complete v d stOK (boundaryResult nb)) := by
      have hcaptures' : (complete v d stOK (boundaryResult nb)).asy.captures = [] := by rw [hframe, hv]; exact hcaptures
      show execCaptureComplete s = _
      unfold execCaptureComplete
      rw [hcapture]
      dsimp only
      rw [← hv, hcaptures']
      rfl
    refine ⟨_, hexec, htakes.posts (by rw [hv, List.append_nil]; rfl) _ _, ?_, ?_, ?_, ?_⟩
    · rw [hframe, hv]
      rfl
    · rw [hframe, hv]
      exact (getF_setF_other _ (by decide) _).trans (getF_setF_same _ _ _)
    · rw [hframe, hv]
      rfl
    · rw [hframe, hv]
      rfl

end Sys2Proof.Machine
end

section
/-! ### RESTORE of a slot whose two copies differ -/

namespace Sys2Proof.Machine

/-! #### Bytes in their places -/

/-- A part of a list of bytes, where it stands. -/
theorem slice_middle (a b c : List Byte) : slice (a ++ b ++ c) a.length b.length = b := by
  simp [slice]

theorem length_slice (bs : List Byte) (i n : Nat) : (slice bs i n).length = n := by
  simp only [slice, List.length_append, List.length_take, List.length_replicate]
  omega

theorem leAt_middle (a c : List Byte) (n x : Nat) : leAt (a ++ leBytes n x ++ c) a.length n = x % 2 ^ (8 * n) := by
  have hmiddle := slice_middle a (leBytes n x) c
  rw [length_leBytes] at hmiddle
  rw [leAt, hmiddle, leNat_leBytes]

theorem crc32_lt (bs : List Byte) : crc32 bs < 2 ^ 32 := by
  have hstep : ∀ c < 2 ^ 32, crc32Step c < 2 ^ 32 := by
    intro c hc
    unfold crc32Step
    split
    · exact Nat.xor_lt_two_pow (by omega) (by decide)
    · omega
  have hfrom : ∀ (bs : List Byte) (c : Nat), c < 2 ^ 32 → crc32From c bs < 2 ^ 32 := by
    intro bs
    induction bs with
    | nil => exact fun c hc => hc
    | cons b bs ih =>
      refine fun c hc => ih _ (List.foldlRecOn (motive := (· < 2 ^ 32)) _ _ ?_ fun x hx _ _ => hstep x hx)
      exact Nat.xor_lt_two_pow hc (Nat.lt_trans b.isLt (by decide))
  exact Nat.xor_lt_two_pow (hfrom bs _ (by decide)) (by decide)

/-! #### A commit record reads back as it was written (R488) -/

section
variable (s : State) (seq nb : Nat) (image : Memory) (length : Nat)

/-- SEALED of the record, as it is written. -/
def recordSeal : Nat := b2n (match s.ingot with | some g => g.isSealed | none => false)

/-- The record's bytes between its magic number and its check. -/
def recordBody : List Byte :=
  leBytes 2 0x0100 ++ leBytes 2 (recordSeal s) ++ leBytes 8 seq ++ leBytes 8 (boundaryResult nb) ++
    leBytes 8 length ++ slice (Config.sha384 image length) 0 48 ++ ingotIdentity s ++ ingotMachineId s

theorem commitRecord_eq : commitRecord s seq nb image length =
    leBytes 4 0x43484B56 ++ recordBody s seq nb image length ++ leBytes 4 (crc32 (recordBody s seq nb image length)) := rfl

variable {g : Ingot} (hingot : s.ingot = some g)
include hingot

theorem length_ingotIdentity : (ingotIdentity s).length = 48 := by
  rw [ingotIdentity, hingot]
  exact length_slice _ _ _

theorem length_recordBody : (recordBody s seq nb image length).length = 140 := by
  have hmachine : (ingotMachineId s).length = 16 := by
    rw [ingotMachineId, hingot]
    exact length_slice _ _ _
  simp only [recordBody, List.length_append, length_leBytes, length_slice, length_ingotIdentity s hingot, hmachine]

theorem length_commitRecord : (commitRecord s seq nb image length).length = 148 := by
  simp only [commitRecord_eq, List.length_append, length_leBytes, length_recordBody s seq nb image length hingot]

theorem recordValid_commitRecord : recordValid (commitRecord s seq nb image length) = true := by
  have hmagic : leAt (commitRecord s seq nb image length) 0 4 = 0x43484B56 := by
    have h := leAt_middle [] (recordBody s seq nb image length ++ leBytes 4 (crc32 (recordBody s seq nb image length))) 4 0x43484B56
    rw [commitRecord_eq, List.append_assoc]
    exact h
  have hbody : slice (commitRecord s seq nb image length) 4 140 = recordBody s seq nb image length := by
    have h := slice_middle (leBytes 4 0x43484B56) (recordBody s seq nb image length)
      (leBytes 4 (crc32 (recordBody s seq nb image length)))
    rwa [length_leBytes, length_recordBody s seq nb image length hingot] at h
  have hcheck : leAt (commitRecord s seq nb image length) 144 4 = crc32 (recordBody s seq nb image length) := by
    have h := leAt_middle (leBytes 4 0x43484B56 ++ recordBody s seq nb image length) [] 4
      (crc32 (recordBody s seq nb image length))
    rw [List.append_nil, List.length_append, length_leBytes, length_recordBody s seq nb image length hingot,
      Nat.mod_eq_of_lt (crc32_lt _)] at h
    exact h
  simp only [recordValid, hmagic, hbody, hcheck, beq_self_eq_true, Bool.and_self]

theorem commitRecord_fields :
    leAt (commitRecord s seq nb image length) 16 8 = boundaryResult nb % 2 ^ 64 ∧
      leAt (commitRecord s seq nb image length) 24 8 = length % 2 ^ 64 ∧
      slice (commitRecord s seq nb image length) 32 48 = slice (Config.sha384 image length) 0 48 ∧
      slice (commitRecord s seq nb image length) 80 48 = ingotIdentity s := by
  obtain ⟨check, hcheck⟩ : ∃ check, check = leBytes 4 (crc32 (recordBody s seq nb image length)) := ⟨_, rfl⟩
  obtain ⟨digest, hdigest⟩ : ∃ digest, digest = slice (Config.sha384 image length) 0 48 := ⟨_, rfl⟩
  obtain ⟨head, hhead⟩ : ∃ head, head = leBytes 4 0x43484B56 ++ leBytes 2 0x0100 ++ leBytes 2 (recordSeal s) ++ leBytes 8 seq :=
    ⟨_, rfl⟩
  have hlength : head.length = 16 := by simp [hhead, length_leBytes]
  have hdigestLength : digest.length = 48 := by rw [hdigest, length_slice]
  have hidentity := length_ingotIdentity s hingot
  have heq : commitRecord s seq nb image length = head ++ leBytes 8 (boundaryResult nb) ++
      (leBytes 8 length ++ (digest ++ (ingotIdentity s ++ (ingotMachineId s ++ check)))) := by
    rw [commitRecord_eq, ← hcheck, recordBody, ← hdigest, hhead]
    simp only [List.append_assoc]
  have hcycle := leAt_middle head (leBytes 8 length ++ (digest ++ (ingotIdentity s ++ (ingotMachineId s ++ check)))) 8
    (boundaryResult nb)
  have hsize := leAt_middle (head ++ leBytes 8 (boundaryResult nb)) (digest ++ (ingotIdentity s ++ (ingotMachineId s ++ check))) 8 length
  have hdigest' := slice_middle (head ++ leBytes 8 (boundaryResult nb) ++ leBytes 8 length) digest
    (ingotIdentity s ++ (ingotMachineId s ++ check))
  have hidentity' := slice_middle (head ++ leBytes 8 (boundaryResult nb) ++ leBytes 8 length ++ digest) (ingotIdentity s)
    (ingotMachineId s ++ check)
  simp only [List.length_append, length_leBytes, hlength, hdigestLength, hidentity, List.append_assoc] at heq hcycle hsize hdigest' hidentity'
  rw [heq, ← hdigest]
  exact ⟨hcycle, hsize, hdigest', hidentity'⟩

end

/-! #### The state -/

/-- Session 3 is OPEN in generation 2 and owns an empty Ingot on a device that is STOPPED; the Hallmark window is window 0, of
4 GB over pseudo-channels 0 to 3 and their mirrors. -/
def hallmarkWindowed : State :=
  { State.reset with
    regs := [(F.LDR_OWNER_VALID, 1), (F.LDR_OWNER_SESSION, 3), (F.LDR_OWNER_GEN, 2), (F.ARY_STATE_STATE, 4),
      (F.HBM_WIN_CTRL_EN 0, 1), (F.HBM_WIN_CTRL_OWNER 0, 2), (F.HBM_WIN_CTRL_MIRROR 0, 1), (F.HBM_WIN_SIZE_SIZE 0, 0x10000),
      (F.HBM_WIN_SET_SET 0 0, 15)].foldl (fun m e => m.set e.1.rst e.1.key e.2) []
    ingot := some ⟨false, 0, 0, [], 0, 0, [], [], [], [], [], [], [], [], [], [], [], [], [], []⟩
    host := { HostIf.reset with sessions := [(3, { Session.closed with state := 1, gen := 2 })] } }

/-- Slot A's record: an empty image of boundary 1. -/
def slotBytesA : List Byte := commitRecord hallmarkWindowed 0 2 [] 0

/-- Where a byte of the record is stored: word 2, its cycle, in the mirror copy alone, and every other byte in the first. -/
def recordPlace (i : Nat) : Nat := hbmKey (if 16 ≤ i ∧ i < 24 then 32 else 0) (2 ^ 29 + i)

/-- Slot A's record is stored so, and word 2 of the first copy is uncorrectable. -/
def copiesDiffer : State :=
  { hallmarkWindowed with
    mem := { hallmarkWindowed.mem with hbm := (List.range 148).map fun i => (recordPlace i, slotBytesA.getD i 0) }
    hbm := { hallmarkWindowed.hbm with marks := [(2 ^ 26 + 2, .uncorrectable)] } }

/-- The descriptor, of session 3. -/
def restoring : Desc := { session := 3, sgen := 2, tag := 0, irq := false, link := false, fence := false }

theorem copiesDiffer_hypotheses : multi copiesDiffer = false ∧ DescRuns copiesDiffer restoring ∧
    isOwner copiesDiffer restoring = true ∧ copiesDiffer.run.restore = none ∧ copiesDiffer.run.hallmark = none ∧
    copiesDiffer.run.waiting = [] ∧ restoreStatus copiesDiffer 0 0 0 = none := by
  unfold DescRuns
  decide +kernel

/-- The state in which the RESTORE has started, and the state in which the reads of its slot have been met. -/
def restoreStarted : State := descStarted copiesDiffer restoring (.cmd (.restore restoring 0 0 0 none))

@[inherit_doc restoreStarted]
def slotServed : State := (winServe restoreStarted (hmWindow restoreStarted) (slotOffset restoreStarted 0) (4096 + 0)).1

/-- In that state the record's word 2 reads as the first copy has it: cycle 0. -/
theorem slotServed_reads : leAt (slotRecord slotServed 0) 16 8 = 0 ∧ otherPositions slotServed = [] := by
  decide +kernel

theorem copiesDiffer_addresses : hmWindow copiesDiffer = 0 ∧ slotOffset copiesDiffer 0 = 2 ^ 31 ∧ ∀ i < 148,
    winAddr copiesDiffer 0 (2 ^ 31 + i) = (0, 2 ^ 29 + i) ∧
    hbmGives copiesDiffer 0 (2 ^ 29 + i) = !decide (16 ≤ i ∧ i < 24) ∧
    (winMirror copiesDiffer 0 && hbmGives copiesDiffer (0 ^^^ 32) (2 ^ 29 + i)) = true := by
  decide +kernel

/-! #### What it restores -/

/-- Bytes listed under keys of their own are found under them. -/
theorem find_map_of_injOn {v : Nat → Byte} {k : Nat → Nat} {l : List Nat} {j : Nat} (hj : j ∈ l)
    (hinj : ∀ i ∈ l, k i = k j → i = j) : SMap.find (l.map fun i => (k i, v i)) (k j) = some (v j) := by
  induction l with
  | nil => cases hj
  | cons i l ih =>
    rw [List.map_cons, SMap.find]
    by_cases hkey : k i = k j
    · rw [if_pos hkey, hinj i (by simp) hkey]
    · have hne : j ≠ i := fun h => hkey (by rw [h])
      rw [if_neg hkey]
      exact ih ((List.mem_cons.1 hj).resolve_left hne) fun i hi => hinj i (List.mem_cons_of_mem _ hi)

theorem winReadBytes_eq_map (s : State) (w x n : Nat) :
    winReadBytes s w x n = (List.range n).map fun i => winRead s w (x + i) := by
  induction n generalizing x with
  | zero => rfl
  | succ n ih =>
    rw [winReadBytes, ih, List.range_succ_eq_map, List.map_cons, List.map_map]
    simp only [Nat.add_zero, Function.comp_def, Nat.add_assoc, Nat.succ_eq_add_one, Nat.add_comm 1]

/-- The record reads as it is stored: word 2 from the mirror copy. -/
theorem slotRecord_copiesDiffer : slotRecord copiesDiffer 0 = slotBytesA := by
  obtain ⟨hwindow, hoffset, haddress⟩ := copiesDiffer_addresses
  have hread : ∀ i < 148, winRead copiesDiffer 0 (2 ^ 31 + i) = slotBytesA.getD i 0 := by
    intro i hi
    obtain ⟨haddr, hgives, hmirror⟩ := haddress i hi
    have hfind : Memory.read zeroFill copiesDiffer.mem.hbm (recordPlace i) = slotBytesA.getD i 0 := by
      have hlisted : SMap.find copiesDiffer.mem.hbm (recordPlace i) = some (slotBytesA.getD i 0) := by
        refine find_map_of_injOn (List.mem_range.2 hi) fun j hj hkey => ?_
        have hj' := List.mem_range.1 hj
        simp only [recordPlace, hbmKey] at hkey
        split at hkey <;> split at hkey <;> omega
      rw [Memory.read, SMap.get, hlisted]
      rfl
    rw [← hfind]
    unfold winRead
    rw [haddr]
    dsimp only
    rw [hgives, hmirror]
    by_cases hword : 16 ≤ i ∧ i < 24
    · simp [hword, recordPlace]
    · simp [hword, recordPlace]
  have hlength : slotBytesA.length = 148 := length_commitRecord _ _ _ _ _ rfl
  rw [slotRecord, hwindow, hoffset, winReadBytes_eq_map]
  refine List.ext_getElem (by simp [hlength]) fun i hi hi' => ?_
  rw [List.getElem_map, List.getElem_range, hread i (by simpa using hi), List.getD_eq_getElem _ _ hi']

/-- An image of no bytes. -/
theorem winSlice_empty {s : State} {w off : Nat} (hclean : winErrors s w off 0 = []) : winSlice s w off 0 = [] := by
  unfold winSlice
  rw [if_pos hclean]
  refine List.foldlRecOn (motive := (· = [])) _ _ rfl fun m hm c _ => ?_
  split
  · rw [if_neg (by omega), hm]
  · exact hm

theorem cycle_slotBytesA : leAt slotBytesA 16 8 = 1 := (commitRecord_fields hallmarkWindowed 0 2 [] 0 (g := _) rfl).1

theorem length_slotBytesA : leAt slotBytesA 24 8 = 0 := (commitRecord_fields hallmarkWindowed 0 2 [] 0 (g := _) rfl).2.1

theorem winSlice_copiesDiffer : winSlice copiesDiffer (hmWindow copiesDiffer) (slotOffset copiesDiffer 0 + 4096)
    (leAt slotBytesA 24 8) = [] := by
  rw [length_slotBytesA]
  exact winSlice_empty (by decide +kernel)

theorem restoreReason_copiesDiffer : restoreReason copiesDiffer 0 [] = none := by
  obtain ⟨-, hlen, hdigest, hidentity⟩ := commitRecord_fields hallmarkWindowed 0 2 [] 0 (g := _) rfl
  have hvalid := recordValid_commitRecord hallmarkWindowed 0 2 [] 0 (g := _) rfl
  have hsize : slotBytes copiesDiffer = 2 ^ 30 := by decide +kernel
  have hvariants : (List.range 64).any (fun i => decide (Memory.readBytes zeroFill [] (0x50 + 16 * i) 16 ≠
    slice (([] : List (List Byte)).getD i []) 0 16)) = false := by decide
  unfold restoreReason
  dsimp only
  rw [slotRecord_copiesDiffer, slotBytesA, hlen, hdigest, hidentity, hvalid, hsize]
  rw [if_neg (by decide), if_neg (fun h => h rfl), if_neg (fun h => h rfl), if_neg (by decide +kernel)]
  rfl

theorem restoreReason_host (s : State) (h : HostIf) (slot : Nat) (image : Memory) :
    restoreReason { s with host := h } slot image = restoreReason s slot image := by
  unfold restoreReason
  simp only [slotRecord_host]
  rfl

theorem restoreBody_slotA {s : State} {addr len : Nat} (hpass : restoreStatus s 0 addr len = none) (d : Desc)
    (buffer : Option (List Byte)) : restoreBody d 0 addr len buffer s = restoreSlot d 0 s := by
  unfold restoreBody
  rw [hpass]
  exact if_neg (by decide)

theorem exec_restore_copiesDiffer : exec (.restore restoring 0 0 0 none) copiesDiffer = .next (restoreSlot restoring 0 restoreStarted) := by
  obtain ⟨-, hruns, howner, hrestore, hhallmark, hwaiting, -⟩ := copiesDiffer_hypotheses
  have hpass : restoreStatus restoreStarted 0 0 0 = none := by decide +kernel
  refine congrArg Host.Outcome.next ((startDesc_accepted hruns howner hrestore hwaiting (fun _ => hhallmark) _ _).trans ?_)
  exact restoreBody_slotA hpass restoring none

/-- A restore that begins is for the cycle of the record as it reads once the slot's reads have been met. -/
theorem restoreSlot_cycle {s u : State} {slot : Nat} {r : List Byte} {image : Memory} (d : Desc) (hrecord : slotRecord s slot = r)
    (himage : winSlice s (hmWindow s) (slotOffset s slot + 4096) (leAt r 24 8) = image)
    (hserved : (winServe s (hmWindow s) (slotOffset s slot) (4096 + leAt r 24 8)).1 = u)
    (hreason : restoreReason s slot image = none) (hothers : otherPositions u = []) :
    (restoreSlot d slot s).run.restore.map RestoreReq.cycle = some (leAt (slotRecord u slot) 16 8) := by
  unfold restoreSlot
  dsimp only
  rw [hrecord, himage, hserved, hreason, hothers]
  rfl

/-- The restore that begins is for cycle 0. -/
theorem restoreSlot_copiesDiffer : (restoreSlot restoring 0 restoreStarted).run.restore.map RestoreReq.cycle = some 0 := by
  obtain ⟨hcycle, hothers⟩ := slotServed_reads
  have hrecord : slotRecord restoreStarted 0 = slotBytesA := (slotRecord_host copiesDiffer _ 0).trans slotRecord_copiesDiffer
  have himage : winSlice restoreStarted (hmWindow restoreStarted) (slotOffset restoreStarted 0 + 4096) (leAt slotBytesA 24 8) = [] := by
    rw [length_slotBytesA]
    exact winSlice_empty (by decide +kernel)
  have hreason : restoreReason restoreStarted 0 [] = none := (restoreReason_host copiesDiffer _ 0 []).trans restoreReason_copiesDiffer
  exact (restoreSlot_cycle restoring hrecord himage (by rw [length_slotBytesA, slotServed]) hreason hothers).trans (congrArg some hcycle)

/-- What O19 says of a RESTORE from slot A that is not refused. -/
theorem restore_cycle_of_claim (h : Obligations.RestoreRestsAtTheHallmarksBoundary) {s v : State} {d : Desc}
    {r : List Byte} {image : Memory} (hbegins : multi s = false ∧ DescRuns s d ∧ isOwner s d = true ∧ s.run.restore = none ∧
      s.run.hallmark = none ∧ s.run.waiting = [] ∧ restoreStatus s 0 0 0 = none) (hrecord : slotRecord s 0 = r)
    (himage : winSlice s (hmWindow s) (slotOffset s 0 + 4096) (leAt r 24 8) = image) (hreason : restoreReason s 0 image = none)
    (hexec : exec (.restore d 0 0 0 none) s = .next v) :
    v.run.restore.map RestoreReq.cycle = some (leAt r 16 8) := by
  obtain ⟨halone, hruns, howner, hrestore, hhallmark, hwaiting, hpass⟩ := hbegins
  obtain ⟨t, ht, hanswer⟩ := (h s d halone).1 0 0 0 none hruns howner hrestore hhallmark hwaiting (by decide) hpass
  subst hrecord himage
  have hreason' : restoreReason s (0 : Byte).toNat (winSlice s (hmWindow s) (slotOffset s (0 : Byte).toNat + 4096)
    (leAt (slotRecord s (0 : Byte).toNat) 24 8)) = none := hreason
  rw [hreason', ← Host.Outcome.next.inj (hexec.symm.trans ht)] at hanswer
  obtain ⟨-, -, hrestored, -⟩ := hanswer
  rw [hrestored]
  rfl

/-- Refutes O19: the restore that begins is claimed to be for the cycle of the record as its slot reads when it is judged.  The
slot's reads come between, and where the first copy of the cycle's word is uncorrectable they make the word of that copy, which
here differs from the mirror's, readable again: the restore is for the cycle that stands there. -/
theorem not_restoreRestsAtTheHallmarksBoundary : ¬ Obligations.RestoreRestsAtTheHallmarksBoundary := by
  refine fun h => absurd (restore_cycle_of_claim h copiesDiffer_hypotheses slotRecord_copiesDiffer winSlice_copiesDiffer
    restoreReason_copiesDiffer exec_restore_copiesDiffer) ?_
  rw [restoreSlot_copiesDiffer, cycle_slotBytesA]
  decide

end Sys2Proof.Machine
end

section
/-! ### Run-control descriptors on a device alone: HALLMARK -/

namespace Sys2Proof.Machine

theorem hallmarkStatus_host (s : State) (h : HostIf) (dest addr len : Nat) :
    hallmarkStatus { s with host := h } dest addr len = hallmarkStatus s dest addr len := by
  unfold hallmarkStatus
  congr 1

/-! #### Reads of windows -/

/-- `t` is `s` but for registers and the HBM hub's records. -/
def HbmHubOnly (s t : State) : Prop := t = { s with regs := t.regs, hbm := t.hbm }

theorem HbmHubOnly.trans {s t u : State} (h : HbmHubOnly s t) (h' : HbmHubOnly t u) : HbmHubOnly s u := by
  unfold HbmHubOnly at h h' ⊢
  rw [h', h]

theorem HbmHubOnly.ite {c : Prop} [Decidable c] {r s t : State} (h : HbmHubOnly r s) (h' : HbmHubOnly r t) :
    HbmHubOnly r (if c then s else t) := by
  split <;> assumption

theorem hbmHubOnly_setF (s : State) (f : Fld) (v : Nat) : HbmHubOnly s (setF s f v) := rfl

theorem hbmHubOnly_showDegraded (s : State) : HbmHubOnly s (showDegraded s) :=
  List.foldlRecOn (motive := HbmHubOnly s) _ _ rfl fun t h _ _ => h.trans (hbmHubOnly_setF t _ _)

theorem hbmHubOnly_noteUe (s : State) (pc a : Nat) (scrub recovered : Bool) : HbmHubOnly s (noteUe s pc a scrub recovered) := by
  have hcounted : ∀ u, HbmHubOnly u (if recovered then bumpF u F.HBM_UE_COUNT_MIRRORED 1 else bumpF u F.HBM_UE_COUNT_UNRECOVERED 1) :=
    fun u => .ite rfl rfl
  unfold noteUe
  extract_lets w sUe sScrub sOwner sPc sWord sCounted now ts sTimed
  have htimed : HbmHubOnly s sTimed := HbmHubOnly.trans (t := sCounted) ((hcounted sWord).trans rfl) rfl
  exact .ite ((htimed.trans (hbmHubOnly_setF _ _ _)).trans (hbmHubOnly_showDegraded _)) htimed

theorem hbmHubOnly_serveWord (s : State) (w x : Nat) : HbmHubOnly s (serveWord s w x).1 := by
  unfold serveWord
  dsimp only
  split
  · rfl
  · rfl
  · exact .ite ((hbmHubOnly_noteUe s _ _ _ _).trans rfl) (hbmHubOnly_noteUe s _ _ _ _)

/-- What the reads of a window meet is recorded, and nothing else changes. -/
theorem hbmHubOnly_winServe (s : State) (w off n : Nat) : HbmHubOnly s (winServe s w off n).1 :=
  List.foldlRecOn (motive := fun r : State × List Nat => HbmHubOnly s r.1) _ _ rfl fun _ h _ _ => h.trans (hbmHubOnly_serveWord _ _ _)

/-! #### What a Hallmark keeps as it begins -/

/-- HM_BUSY, and the fields of ARY_STATE that say whether the device rests and whether it is alone. -/
abbrev runFields : List Fld := [F.FLT_STATUS_HM_BUSY, F.ARY_STATE_STATE, F.ARY_STATE_MULTI]

/-- `t` is `s` as run control has it. -/
structure RunKept (s t : State) : Prop where
  dies : t.dies = s.dies
  run : t.run = s.run
  design : t.design = s.design
  host : t.host = s.host
  outs : t.outs = s.outs
  fields : ∀ f ∈ runFields, getF t f = getF s f

section
variable {r s t : State}

theorem RunKept.refl (s : State) : RunKept s s := ⟨rfl, rfl, rfl, rfl, rfl, fun _ _ => rfl⟩

theorem RunKept.trans (h : RunKept r s) (h' : RunKept s t) : RunKept r t :=
  ⟨h'.dies.trans h.dies, h'.run.trans h.run, h'.design.trans h.design, h'.host.trans h.host,
    h'.outs.trans h.outs, fun f hf => (h'.fields f hf).trans (h.fields f hf)⟩

theorem RunKept.busy (h : RunKept s t) : getB t F.FLT_STATUS_HM_BUSY = getB s F.FLT_STATUS_HM_BUSY := by
  rw [getB, h.fields _ (by simp), getB]

theorem RunKept.multi (h : RunKept s t) : multi t = multi s := by
  rw [Machine.multi, getB, h.fields _ (by simp), Machine.multi, getB]

theorem RunKept.restsVisible (h : RunKept s t) : restsVisible t = restsVisible s := by
  simp only [Machine.restsVisible, emState, h.fields F.ARY_STATE_STATE (by simp)]

theorem RunKept.viewFree (h : RunKept s t) : viewFree t = viewFree s := by
  rw [Machine.viewFree, h.design, h.run, Machine.viewFree]

theorem RunKept.setF (h : RunKept r s) {f : Fld} (hf : ∀ g ∈ runFields, g.key ≠ f.key) (v : Nat) : RunKept r (setF s f v) :=
  h.trans ⟨rfl, rfl, rfl, rfl, rfl, fun g hg => getF_setF_other s (hf g hg) v⟩

theorem RunKept.showSlot (h : RunKept r s) (i : Nat) : RunKept r (showSlot s i) := by
  unfold Machine.showSlot
  dsimp only
  split
  · exact (((h.setF (by decide) _).setF (by decide) _).setF (by decide) _).setF (by decide) _
  · exact (((h.setF (by decide) _).setF (by decide) _).setF (by decide) _).setF (by decide) _

theorem RunKept.setWriting (h : RunKept r s) (i : Nat) (b : Bool) : RunKept r (setB s (slotWriting i) b) := by
  unfold slotWriting
  split
  · exact h.setF (by decide) _
  · exact h.setF (by decide) _

theorem RunKept.ofHbmBytes (h : OnlyHbmBytes s t) : RunKept s t := by
  obtain ⟨cells, marks, rfl⟩ := h
  exact ⟨rfl, rfl, rfl, rfl, rfl, fun _ _ => rfl⟩

theorem RunKept.voidSlot (h : RunKept r s) (i : Nat) : RunKept r (voidSlot s i) :=
  (h.trans ⟨rfl, rfl, rfl, rfl, rfl, fun _ _ => rfl⟩ : RunKept r (winClear s (hmWindow s) (slotOffset s i) 4096)).showSlot i

theorem runKept_winServe (s : State) (w off n : Nat) : RunKept s (winServe s w off n).1 := by
  have hnoted := hbmNoted_winServe s w off n
  have hbelow : ∀ f ∈ runFields, f.key < F.HBM_STATUS_UE.key := by decide
  exact ⟨by rw [hbmHubOnly_winServe s w off n], hnoted.run, hnoted.design, by rw [hbmHubOnly_winServe s w off n], hnoted.outs, fun f hf => hnoted.below f (hbelow f hf)⟩

theorem runKept_hallmarkMeets (s : State) (windows : List Nat) : RunKept s (hallmarkMeets s windows) :=
  List.foldlRecOn (motive := RunKept s) _ _ (.refl s) fun t h w _ => h.trans (runKept_winServe t w 0 (winSize t w))

end

/-! #### HALLMARK begins (R484, R485) -/

/-- A Hallmark as it begins on a device alone. -/
def freshHallmark (s : State) (d : Desc) (dest : Nat) (b : HostBuffer) : HallmarkReq :=
  ⟨d, dest, b, fifoWindows s, none, [], 0, false, none, [], none⟩

/-- `t` is `s` with the Hallmark `h` on its way: it has taken the boundary that `next` names. -/
structure HallmarkGoes (s t : State) (h : HallmarkReq) (next : Option Nat) : Prop where
  dies : t.dies = s.dies
  busy : getB t F.FLT_STATUS_HM_BUSY = getB s F.FLT_STATUS_HM_BUSY
  asked : ∃ h', t.run.hallmark = some h' ∧ h'.desc = h.desc ∧ h'.dest = h.dest ∧ h'.buffer = h.buffer ∧ h'.next = next

/-- A Hallmark to a host buffer opens the view of its boundary or shares it, where no view of another boundary is open. -/
theorem hallmarkView_cases (s : State) :
    (viewFree s = true ∧ ∃ u, hallmarkView s s.run.nextCommit = some u ∧ u.dies = s.dies ∧
      getB u F.FLT_STATUS_HM_BUSY = getB s F.FLT_STATUS_HM_BUSY) ∨
    (viewFree s = false ∧ hallmarkView s s.run.nextCommit = none) := by
  unfold viewFree hallmarkView
  cases s.design.view with
  | none => exact .inl ⟨rfl, _, rfl, rfl, getB_setB_other _ (by decide) _⟩
  | some v =>
    by_cases hnext : v.next = s.run.nextCommit
    · exact .inl ⟨by simp [hnext], _, if_pos hnext, rfl, rfl⟩
    · exact .inr ⟨by simp [hnext], if_neg hnext⟩

/-- The Hallmark takes the boundary, unless it is for a host buffer and a view of another boundary is open. -/
theorem takeHallmark_goes {s : State} {h : HallmarkReq} (hhallmark : s.run.hallmark = some h) (hnext : h.next = none)
    (hchecks : h.checks = none) : HallmarkGoes s (takeHallmark s s.run.nextCommit) h
      (if h.dest ≠ 2 ∨ viewFree s = true then some s.run.nextCommit else none) := by
  obtain ⟨view, hview⟩ : ∃ view, view = if h.dest = 2 then hallmarkView s s.run.nextCommit else some s := ⟨_, rfl⟩
  have htaken : ∀ u, view = some u → u.dies = s.dies → getB u F.FLT_STATUS_HM_BUSY = getB s F.FLT_STATUS_HM_BUSY →
      HallmarkGoes s (takeHallmark s s.run.nextCommit) h (some s.run.nextCommit) := by
    intro u hu hdies hbusy
    have hkept := runKept_hallmarkMeets u h.windows
    unfold takeHallmark
    rw [hhallmark]
    dsimp only
    rw [if_pos (by rw [hnext, hchecks]; rfl), ← hview, hu]
    exact ⟨hkept.dies.trans hdies, hkept.busy.trans hbusy, _, rfl, rfl, rfl, rfl, rfl⟩
  by_cases hdest : h.dest = 2
  · rw [if_pos hdest] at hview
    rcases hallmarkView_cases s with ⟨hfree, u, hu, hdies, hbusy⟩ | ⟨hfree, hnone⟩
    · rw [if_pos (.inr hfree)]
      exact htaken u (hview.trans hu) hdies hbusy
    · rw [if_neg (by simp [hdest, hfree])]
      have hstays : takeHallmark s s.run.nextCommit = s := by
        unfold takeHallmark
        rw [hhallmark]
        dsimp only
        rw [if_pos (by rw [hnext, hchecks]; rfl), if_pos hdest, hnone]
      rw [hstays]
      exact ⟨rfl, rfl, h, hhallmark, rfl, rfl, rfl, hnext⟩
  · rw [if_neg hdest] at hview
    rw [if_pos (.inl hdest)]
    exact htaken s hview rfl rfl

/-- A Hallmark that begins on a device alone sets HM_BUSY, and takes the visible boundary where the machine rests. -/
theorem beginHallmark_answers {s : State} (halone : multi s = false) (d : Desc) (dest : Nat) (b : HostBuffer) :
    let t := beginHallmark d dest b none s
    getB t F.FLT_STATUS_HM_BUSY = true ∧ t.dies = s.dies ∧ ∃ h, t.run.hallmark = some h ∧ h.desc = d ∧ h.dest = dest ∧ h.buffer = b ∧
      h.next = if restsVisible s = true ∧ (dest ≠ 2 ∨ viewFree s = true) then some s.run.nextCommit else none := by
  intro t
  obtain ⟨u, hu⟩ : ∃ u, u = if dest < 2 then setB (voidSlot s dest) (slotWriting dest) true else s := ⟨_, rfl⟩
  have hkept : RunKept s u := by
    rw [hu]
    split
    · exact ((RunKept.refl s).voidSlot dest).setWriting dest true
    · exact .refl s
  obtain ⟨v, hv⟩ : ∃ v, v = setF (setB u F.FLT_STATUS_HM_BUSY true) F.FLT_HM_PROGRESS_DONE 0 := ⟨_, rfl⟩
  have hbusy : getB v F.FLT_STATUS_HM_BUSY = true := by
    rw [hv, getB_setF_other _ (by decide)]
    exact getB_setB_same _ _ _ rfl
  have hmulti : multi v = false := by
    rw [hv, multi, getB_setF_other _ (by decide), getB_setB_other _ (by decide)]
    exact hkept.multi.trans halone
  have hrests : restsVisible v = restsVisible s := by
    refine Eq.trans ?_ hkept.restsVisible
    simp only [hv, restsVisible, emState, getF_setF_other _ (show F.ARY_STATE_STATE.key ≠ F.FLT_HM_PROGRESS_DONE.key by decide),
      getF_setB_other _ (show F.ARY_STATE_STATE.key ≠ F.FLT_STATUS_HM_BUSY.key by decide)]
  have hfree : viewFree v = viewFree s := by
    rw [hv]
    exact hkept.viewFree
  have hdies : v.dies = s.dies := by
    rw [hv]
    exact hkept.dies
  have hcommit : v.run.nextCommit = s.run.nextCommit := by
    rw [hv]
    exact congrArg RunCtl.nextCommit hkept.run
  obtain ⟨w, hw⟩ : ∃ w, w = onRun v (fun r => { r with hallmark := some (freshHallmark v d dest b) }) := ⟨_, rfl⟩
  have hwrun : w.run.hallmark = some (freshHallmark v d dest b) := by rw [hw]; rfl
  have hwrests : restsVisible w = restsVisible v := by rw [hw]; rfl
  have ht : t = if restsVisible w then takeHallmark w w.run.nextCommit else w := by
    show beginHallmark d dest b none s = _
    unfold beginHallmark
    dsimp only
    have hothers : ∀ g, otherPositions (onRun v g) = [] := fun g => otherPositions_alone hmulti
    rw [← hu, ← hv, otherPositions_alone hmulti, hothers, hw]
    rfl
  have hgoes : HallmarkGoes w t (freshHallmark v d dest b)
      (if restsVisible s = true ∧ (dest ≠ 2 ∨ viewFree s = true) then some s.run.nextCommit else none) := by
    rw [ht, hwrests, hrests]
    by_cases hrest : restsVisible s = true
    · have htaken := takeHallmark_goes hwrun rfl rfl
      have hnext : w.run.nextCommit = s.run.nextCommit := by rw [← hcommit, hw]; rfl
      have hwfree : viewFree w = viewFree s := by rw [← hfree, hw]; rfl
      rw [hwfree, hnext] at htaken
      rw [if_pos hrest, hnext]
      simp only [hrest, true_and]
      exact htaken
    · rw [if_neg hrest, if_neg fun h => hrest h.1]
      exact ⟨rfl, rfl, _, hwrun, rfl, rfl, rfl, rfl⟩
  obtain ⟨hdies', hbusy', hasked⟩ := hgoes
  refine ⟨hbusy'.trans ?_, hdies'.trans ?_, hasked⟩
  · rw [hw]
    exact hbusy
  · rw [hw]
    exact hdies

/-! #### HALLMARK_COMPLETE (R485) -/

/-- What the view's end leaves: what was sent, the cells and the dies, run control where no Hallmark waits, and HM_BUSY. -/
structure ViewEnded (s t : State) : Prop where
  outs : t.outs = s.outs
  mem : t.mem = s.mem
  dies : t.dies = s.dies
  run : t.run = s.run
  busy : getB t F.FLT_STATUS_HM_BUSY = getB s F.FLT_STATUS_HM_BUSY

theorem viewEnded_showView (s : State) : ViewEnded s (showView s) := by
  unfold showView
  split
  · refine ⟨rfl, rfl, rfl, rfl, ?_⟩
    rw [getB_setF_other _ (by decide), getB_setF_other _ (by decide)]
  · refine ⟨rfl, rfl, rfl, rfl, ?_⟩
    rw [getB_setF_other _ (by decide), getB_setB_other _ (by decide), getB_setB_other _ (by decide)]

/-- With no Hallmark and no group that waits, the end of a view changes the view alone. -/
theorem viewEnded_endView {s : State} (hhallmark : s.run.hallmark = none) (hwaiting : s.design.waiting = []) :
    ViewEnded s (endView s) := by
  obtain ⟨u, hu⟩ : ∃ u, u = onDesign s (fun d => { d with view := d.view.map (fun v => { v with exports := false }) }) := ⟨_, rfl⟩
  have hsame : ViewEnded s u := by
    rw [hu]
    exact ⟨rfl, rfl, rfl, rfl, rfl⟩
  show ViewEnded s (closeView (onDesign s _))
  rw [← hu]
  cases hview : s.design.view with
  | none =>
    have hclosed : closeView u = u := by simp [closeView, hu, hview]
    rwa [hclosed]
  | some v =>
    have hview' : u.design.view = some { v with exports := false } := by
      rw [hu, onDesign_design, hview]
      rfl
    by_cases hreads : v.reads = []
    · rw [closeView_unused hview' hreads rfl (by rw [hu]; exact hwaiting) (by rw [hsame.run]; exact hhallmark)]
      obtain ⟨houts, hmem, hdies, hrun, hbusy⟩ := viewEnded_showView (onDesign u (fun d => { d with view := none }))
      exact ⟨houts.trans hsame.outs, hmem.trans hsame.mem, hdies.trans hsame.dies, hrun.trans hsame.run, hbusy.trans hsame.busy⟩
    · have hclosed : closeView u = u := by simp [closeView, hview', hreads]
      rwa [hclosed]

/-- The state in which a Hallmark is no longer asked for. -/
def hallmarkGone (s : State) : State :=
  setF (onRun (setB s F.FLT_STATUS_HM_BUSY false) (fun r => { r with hallmark := none })) F.FLT_HM_PROGRESS_DONE 0

theorem hallmarkGone_busy (s : State) : getB (hallmarkGone s) F.FLT_STATUS_HM_BUSY = false := by
  rw [hallmarkGone, getB_setF_other _ (by decide), getB_onRun]
  exact getB_setB_same _ _ _ rfl

/-- The Hallmark written to its slot, with its record. -/
def slotWritten (s : State) (dest length : Nat) (image : Memory) : State :=
  showSlot (setB (winStore s (hmWindow s) (slotOffset s dest) (4096 + length) image) (slotWriting dest) false) dest

theorem runKept_slotWritten (s : State) (dest length : Nat) (image : Memory) : RunKept s (slotWritten s dest length image) :=
  ((RunKept.ofHbmBytes ((OnlyHbmBytes.refl s).winStore _ _ _ _)).setWriting dest false).showSlot dest

/-- The end of a Hallmark to a host buffer, in a state in which it is no longer asked for: its completion, behind what has been
sent before, and the end of its view. -/
theorem hallmarkToHost_ends {s v : State} {d : Desc} (htakes : TakesCompletion s v d) (hhallmark : v.run.hallmark = none)
    (hwaiting : v.design.waiting = []) (hbusy : getB v F.FLT_STATUS_HM_BUSY = false) {before : List Out}
    (houts : v.outs = s.outs ++ before) (status result : Nat) :
    let t := endView (complete v d status result)
    t.run.hallmark = none ∧ getB t F.FLT_STATUS_HM_BUSY = false ∧ t.dies = v.dies ∧ t.mem = v.mem ∧
      Posts s t d before status result := by
  have hposts := htakes.posts houts status result
  obtain ⟨w, hw⟩ : ∃ w, w = complete v d status result := ⟨_, rfl⟩
  have hframe : w = { v with host := w.host, outs := w.outs } := hw ▸ htakes.frame status result
  have hwrun : w.run.hallmark = none := by rw [hframe]; exact hhallmark
  have hwdesign : w.design.waiting = [] := by rw [hframe]; exact hwaiting
  have hwbusy : getB w F.FLT_STATUS_HM_BUSY = false := by rw [hframe]; exact hbusy
  have hwdies : w.dies = v.dies := by rw [hframe]
  have hwmem : w.mem = v.mem := by rw [hframe]
  rw [← hw] at hposts ⊢
  obtain ⟨houts', hmem', hdies', hrun', hbusy'⟩ := viewEnded_endView hwrun hwdesign
  refine ⟨(congrArg RunCtl.hallmark hrun').trans hwrun, hbusy'.trans hwbusy, hdies'.trans hwdies, hmem'.trans hwmem, ?_⟩
  rw [Posts, houts']
  exact hposts

/-- Settles O18: HALLMARK by the boundary that it takes, its end by what it writes and posts. -/
theorem hallmarkTakesAndWritesOneBoundary : Obligations.HallmarkTakesAndWritesOneBoundary := by
  unfold Obligations.HallmarkTakesAndWritesOneBoundary
  refine fun s d => ⟨fun dest b len hruns howner hrestore hhallmark hwaiting halone hpass => ?begins,
    fun h hopen hfresh hhallmark hdesc hdest hfabric hwaits hdesign nb hnext => ?completes⟩
  case begins =>
    obtain ⟨u, hu⟩ : ∃ u, u = descStarted s d (.cmd (.hallmark d dest b len)) := ⟨_, rfl⟩
    have hpass' : hallmarkStatus u dest.toNat b.address.toNat len.toNat = none := by
      rw [hu]
      exact (hallmarkStatus_host s _ _ _ _).trans hpass
    have halone' : multi u = false := by rw [hu]; exact halone
    have hexec : exec (.hallmark d dest b len) s = .next (beginHallmark d dest.toNat b none u) := by
      refine congrArg Host.Outcome.next ((startDesc_accepted hruns howner hrestore hwaiting (fun _ => hhallmark) _ _).trans ?_)
      rw [← hu, hallmarkBody, halone', hpass']
      rfl
    obtain ⟨hbusy, hdies, h, hasked, hdesc, hdest, hbuffer, hnext⟩ := beginHallmark_answers halone' d dest.toNat b
    refine ⟨_, hexec, hbusy, hdies.trans (by rw [hu]; rfl), h, hasked, hdesc, hdest, hbuffer, hnext.trans ?_⟩
    have hrests : restsVisible u = restsVisible s := by rw [hu]; rfl
    have hfree : viewFree u = viewFree s := by rw [hu]; rfl
    have hcommit : u.run.nextCommit = s.run.nextCommit := by rw [hu]; rfl
    have htwo : dest.toNat ≠ 2 ↔ dest ≠ 2 := by
      rw [ne_eq, ne_eq, ← BitVec.toNat_inj]
      rfl
    rw [hrests, hfree, hcommit]
    simp only [htwo, Bool.and_eq_true, Bool.or_eq_true, bne_iff_ne]
  case completes =>
    obtain ⟨d', dest, ⟨addr, takes⟩, windows, next, image, length, fabric, checks, waits, seq⟩ := h
    dsimp only at hdesc hdest hfabric hwaits hnext ⊢
    subst hdesc hfabric hwaits hnext
    obtain ⟨rec', hrec⟩ : ∃ rec', rec' = imageOf (commitRecord s (seq.getD (slotSeqMax s + 1)) nb image length) ++
      shiftImage 4096 image := ⟨_, rfl⟩
    obtain ⟨u, hu⟩ : ∃ u, u = hallmarkGone s := ⟨_, rfl⟩
    have htakes : TakesCompletion s u d' := ⟨hopen, hfresh, _, by rw [hu]; rfl⟩
    have hgone : u.run.hallmark = none := by rw [hu]; rfl
    have hbusy : getB u F.FLT_STATUS_HM_BUSY = false := hu ▸ hallmarkGone_busy s
    have hdies : u.dies = s.dies := by rw [hu]; rfl
    by_cases hslot : dest < 2
    · have hexec : exec .hallmarkComplete s = .next (complete (slotWritten u dest length rec') d' stOK (boundaryResult nb)) := by
        show execHallmarkComplete s = _
        unfold execHallmarkComplete
        rw [hhallmark]
        dsimp only
        have hnot : dest ≠ 2 := by omega
        simp only [hslot, hnot, decide_true, Bool.true_or, if_true, if_false, ← hrec, hu]
        rfl
      have hkept := runKept_slotWritten u dest length rec'
      have htakes' := htakes.congr hkept.host
      have hframe := htakes'.frame stOK (boundaryResult nb)
      refine ⟨_, hexec, ?_, ?_, ?_, ?_⟩
      · rw [hframe]
        exact (congrArg RunCtl.hallmark hkept.run).trans hgone
      · rw [hframe]
        exact hkept.busy.trans hbusy
      · rw [hframe]
        exact hkept.dies.trans hdies
      · rw [if_pos hslot]
        exact htakes'.posts (hkept.outs.trans (by rw [hu, List.append_nil]; rfl)) _ _
    · obtain rfl : dest = 2 := by omega
      have hwaiting : u.design.waiting = [] := by rw [hu]; exact hdesign
      have hmem : u.mem = s.mem := by rw [hu]; rfl
      have houts : u.outs = s.outs := by rw [hu]; rfl
      cases takes with
      | true =>
        have hexec : exec .hallmarkComplete s = .next (endView (complete (emit u (.hostImage addr.toNat (4096 + length) rec')) d'
            stOK (boundaryResult nb))) := by
          show execHallmarkComplete s = _
          unfold execHallmarkComplete
          rw [hhallmark, hrec, hu]
          rfl
        obtain ⟨hrun, hbusy', hdies', hmem', hposts⟩ := hallmarkToHost_ends
          (v := emit u (.hostImage addr.toNat (4096 + length) rec')) (htakes.congr rfl) hgone hwaiting hbusy
          (congrArg (· ++ _) houts) stOK (boundaryResult nb)
        refine ⟨_, hexec, hrun, hbusy', hdies'.trans hdies, ?_⟩
        rw [if_neg hslot, if_pos rfl]
        exact ⟨hmem'.trans hmem, rec', hposts⟩
      | false =>
        have hexec : exec .hallmarkComplete s = .next (endView (complete u d' stHostFault 0)) := by
          show execHallmarkComplete s = _
          unfold execHallmarkComplete
          rw [hhallmark, hu]
          rfl
        obtain ⟨hrun, hbusy', hdies', hmem', hposts⟩ := hallmarkToHost_ends htakes hgone hwaiting hbusy
          (houts.trans (List.append_nil _).symm) stHostFault 0
        refine ⟨_, hexec, hrun, hbusy', hdies'.trans hdies, ?_⟩
        rw [if_neg hslot, if_neg (by decide)]
        exact ⟨hmem'.trans hmem, hposts⟩

end Sys2Proof.Machine
end

section
/-! ### A position that its register cannot hold -/

namespace Sys2Proof.Machine

/-- A device that waits for its formation check, and whose position register the store holds wider than the register is. -/
def overwidePosition : State :=
  { State.reset with regs := [(F.LNK_MACHINE_POSITION.key, 16)], lnk := { Lnk.reset with forming := true } }

/-- Its formation check passes, and shows the position taken to the four bits of ARY_STATE (R435). -/
theorem formationCheck_overwidePosition : ∃ t, exec (.formationCheck [] []) overwidePosition = .next t ∧ position t = 0 :=
  ⟨_, rfl, by decide +kernel⟩

/-- Refutes O37: after a formation check that passes, the position shown is claimed to be LNK_MACHINE.POSITION as the store
has it, but the field that shows it is four bits wide, and the store of a state that no step reaches may hold a wider
position. -/
theorem not_linkCommandsAct : ¬ Obligations.LinkCommandsAct := by
  unfold Obligations.LinkCommandsAct
  intro h
  obtain ⟨-, -, -, -, -, -, -, -, hform, -⟩ := h overwidePosition 0 0
  obtain ⟨t, hexec, hans⟩ := hform [] [] rfl
  obtain ⟨u, hexec', hpos⟩ := formationCheck_overwidePosition
  cases hexec.symm.trans hexec'
  have hshown := hans.2
  rw [if_pos (by decide +kernel)] at hshown
  exact absurd (hpos.symm.trans hshown.2.1) (by decide +kernel)

end Sys2Proof.Machine
end

section
/-! ### Clocks (R496, R497, R500 to R508) -/

namespace Sys2Proof.Machine

/-! #### The completion of a switch (R500) -/

/-- The fields of SCLK that follow the sources of the die islands (R509). -/
abbrev sclkFields : List Fld := [F.CLK_SCLK_D, F.CLK_SCLK_TARGET, F.CLK_STATUS_RAMPING]

/-- The fields that the completion of switch `i` writes. -/
abbrev switchFields (i : Nat) : List Fld := F.CLK_SWITCH_BUSY i :: F.CLK_SWITCH_CURRENT i :: sclkFields

/-- The fields that the completion of some switch writes. -/
abbrev switchesFields : List Fld := (List.range 27).flatMap switchFields

/-- Fields of `fs`, and the plan of the ramp, have moved and nothing else has. -/
def SwitchMoved (s t : State) (fs : List Fld) : Prop :=
  FieldsBut s t fs ∧ t = { s with regs := t.regs, clk := { s.clk with plan := t.clk.plan } }

theorem SwitchMoved.refl (s : State) (fs : List Fld) : SwitchMoved s s fs := ⟨.refl s fs, rfl⟩

theorem SwitchMoved.trans {s t u : State} {fs : List Fld} (h : SwitchMoved s t fs) (h' : SwitchMoved t u fs) :
    SwitchMoved s u fs :=
  ⟨h.1.trans h'.1, by rw [h'.2, h.2]⟩

theorem SwitchMoved.setF {s t : State} {fs : List Fld} (h : SwitchMoved s t fs) {f : Fld} (hf : f ∈ fs) (v : Nat) :
    SwitchMoved s (setF t f v) fs :=
  ⟨h.1.setF hf v, congrArg (Machine.setF · f v) h.2⟩

theorem SwitchMoved.setB {s t : State} {fs : List Fld} (h : SwitchMoved s t fs) {f : Fld} (hf : f ∈ fs) (b : Bool) :
    SwitchMoved s (setB t f b) fs := h.setF hf _

theorem SwitchMoved.unplanned {s t : State} {fs : List Fld} (h : SwitchMoved s t fs) :
    SwitchMoved s (onClk t (fun c => { c with plan := none })) fs :=
  ⟨h.1, congrArg (onClk · (fun c => { c with plan := none })) h.2⟩

theorem SwitchMoved.settleSclk {s t : State} {fs : List Fld} (h : SwitchMoved s t fs) (hfs : sclkFields ⊆ fs) :
    SwitchMoved s (settleSclk t) fs := by
  have hmem : ∀ f ∈ sclkFields, f ∈ fs := fun f hf => hfs hf
  unfold Machine.settleSclk
  dsimp only
  split
  · exact ((h.unplanned.setF (hmem _ (by simp)) _).setF (hmem _ (by simp)) _).setB (hmem _ (by simp)) _
  · split
    · exact (h.setF (hmem _ (by simp)) _).setF (hmem _ (by simp)) _
    · exact h

theorem switchMoved_completeSwitch (s : State) (i : Nat) : SwitchMoved s (completeSwitch s i) (switchFields i) :=
  .settleSclk (.setF (.setB (.refl s _) (by simp) _) (by simp) _) (by simp)

/-- The source that SEL of switch `i` names: 3 is taken as 0. -/
abbrev namedSource (s : State) (i : Nat) : Nat :=
  if getF s (F.CLK_SWITCH_SEL i) = 3 then 0 else getF s (F.CLK_SWITCH_SEL i)

/-- The fields of a switch other than those of SCLK. -/
theorem switch_key_lt (i : Nat) : ∀ f ∈ [F.CLK_SWITCH_BUSY i, F.CLK_SWITCH_CURRENT i, F.CLK_SWITCH_SEL i,
    F.CLK_SWITCH_STOPPED_SRC i], ∀ g ∈ sclkFields, f.key ≠ g.key := by
  simp only [List.forall_mem_cons, List.not_mem_nil, false_imp_iff, implies_true, and_true, Fld.key, F.CLK_SWITCH_BUSY,
    F.CLK_SWITCH_CURRENT, F.CLK_SWITCH_SEL, F.CLK_SWITCH_STOPPED_SRC, F.CLK_SCLK_D, F.CLK_SCLK_TARGET, F.CLK_STATUS_RAMPING]
  omega

theorem current_completeSwitch (s : State) (i : Nat) :
    getF (completeSwitch s i) (F.CLK_SWITCH_CURRENT i) = namedSource s i % 4 ∧
      getB (completeSwitch s i) (F.CLK_SWITCH_BUSY i) = false := by
  obtain ⟨u, hu⟩ : ∃ u, u = setF (setB s (F.CLK_SWITCH_BUSY i) false) (F.CLK_SWITCH_CURRENT i) (namedSource s i) := ⟨_, rfl⟩
  have hsettled : SwitchMoved u (settleSclk u) sclkFields := .settleSclk (.refl u _) (by simp)
  have happly : completeSwitch s i = settleSclk u := by rw [hu]; rfl
  have hapart : (F.CLK_SWITCH_BUSY i).key ≠ (F.CLK_SWITCH_CURRENT i).key := by
    simp only [Fld.key, F.CLK_SWITCH_BUSY, F.CLK_SWITCH_CURRENT]
    omega
  rw [happly]
  refine ⟨?_, ?_⟩
  · rw [hsettled.1 _ (switch_key_lt i _ (by simp)), hu, getF_setF_same]
    rfl
  · rw [hsettled.1.bit (switch_key_lt i _ (by simp)), hu, getB_setF_other _ hapart]
    exact getB_setB_same s (F.CLK_SWITCH_BUSY i) false rfl

/-- The completion of a switch leaves every field of another but SCLK's. -/
theorem getF_completeSwitch_other (s : State) {i j : Nat} (hij : j ≠ i) {f : Fld}
    (hf : f ∈ [F.CLK_SWITCH_BUSY i, F.CLK_SWITCH_CURRENT i, F.CLK_SWITCH_SEL i, F.CLK_SWITCH_STOPPED_SRC i]) :
    getF (completeSwitch s j) f = getF s f := by
  refine (switchMoved_completeSwitch s j).1 f ?_
  have hsclk := switch_key_lt i f hf
  have hapart : f.key ≠ (F.CLK_SWITCH_BUSY j).key ∧ f.key ≠ (F.CLK_SWITCH_CURRENT j).key := by
    simp only [List.mem_cons, List.not_mem_nil, or_false] at hf
    obtain rfl | rfl | rfl | rfl := hf <;>
      simp only [Fld.key, F.CLK_SWITCH_BUSY, F.CLK_SWITCH_CURRENT, F.CLK_SWITCH_SEL, F.CLK_SWITCH_STOPPED_SRC] <;> omega
  exact List.forall_mem_cons.2 ⟨hapart.1, List.forall_mem_cons.2 ⟨hapart.2, hsclk⟩⟩

/-! #### Switches that complete together -/

/-- Every switch below 27 for which `c` holds completes. -/
def completeWhere (c : State → Nat → Bool) (s : State) : State :=
  (List.range 27).foldl (fun t i => if c t i then completeSwitch t i else t) s

theorem switchMoved_completeWhere (c : State → Nat → Bool) (s : State) :
    SwitchMoved s (completeWhere c s) switchesFields := by
  refine List.foldlRecOn (motive := fun t => SwitchMoved s t switchesFields) _ _ (.refl s _) fun t ht i hi => ?_
  have hstep := switchMoved_completeSwitch t i
  split
  · have hsub : switchFields i ⊆ switchesFields := fun f hf => List.mem_flatMap.2 ⟨i, hi, hf⟩
    exact ht.trans ⟨hstep.1.mono hsub, hstep.2⟩
  · exact ht

/-- A switch completes with the others: what `P` says of its registers holds before, its completion brings about `Q`. -/
theorem completeWhere_establishes {c : State → Nat → Bool} {i : Fin 27} {P Q : State → Prop}
    (hP : ∀ t u : State, (∀ f ∈ [F.CLK_SWITCH_BUSY i, F.CLK_SWITCH_CURRENT i, F.CLK_SWITCH_SEL i, F.CLK_SWITCH_STOPPED_SRC i],
      getF u f = getF t f) → P t → P u)
    (hQ : ∀ t u : State, (∀ f ∈ [F.CLK_SWITCH_BUSY i, F.CLK_SWITCH_CURRENT i, F.CLK_SWITCH_SEL i, F.CLK_SWITCH_STOPPED_SRC i],
      getF u f = getF t f) → Q t → Q u)
    (hdoes : ∀ t, P t → Q (if c t i then completeSwitch t i else t)) {s : State} (h : P s) : Q (completeWhere c s) := by
  have hother : ∀ t : State, ∀ j : Nat, j ≠ i → ∀ f ∈ [F.CLK_SWITCH_BUSY i, F.CLK_SWITCH_CURRENT i, F.CLK_SWITCH_SEL i,
      F.CLK_SWITCH_STOPPED_SRC i], getF (if c t j then completeSwitch t j else t) f = getF t f := by
    intro t j hj f hf
    split
    · exact getF_completeSwitch_other t hj hf
    · rfl
  exact foldl_establishes (fun t j hj => hP t _ (hother t j hj)) hdoes (fun t j hj => hQ t _ (hother t j hj))
    (List.mem_range.2 i.isLt) List.nodup_range h

/-! #### A PLL that is judged stable (R496) -/

/-- A switch that waits for PLL `p`. -/
abbrev waitsForPll (p : Nat) (t : State) (i : Nat) : Bool :=
  islandPll i = p && getF t (F.CLK_SWITCH_SEL i) == 1 && getF t (F.CLK_SWITCH_CURRENT i) != 1

/-- The registers that show the HPLLs and their user clocks. -/
abbrev uclkFields : List Fld := [F.HGR_PLL_0_LOCKED, F.HGR_PLL_1_LOCKED] ++ (List.range 8).map F.HGR_UCLK_RUNNING

theorem key_uclkRunning_ne {j k : Nat} (h : j ≠ k) : (F.HGR_UCLK_RUNNING j).key ≠ (F.HGR_UCLK_RUNNING k).key := by
  simp only [Fld.key, F.HGR_UCLK_RUNNING]
  omega

/-- One user clock of HPLL `h` is shown. -/
abbrev showUclk (h : Nat) (on : Bool) (t : State) (j : Nat) : State :=
  setB t (F.HGR_UCLK_RUNNING (4 * h + j)) (on && t.hgr.loaded && hpllByte t h 0 != 0 && hpllByte t h (4 + j) != 0)

/-- HPLL `h` is shown as locked or not, before its user clocks are. -/
abbrev showHpll (s : State) (h : Nat) (on : Bool) : State :=
  setB s (if h = 0 then F.HGR_PLL_0_LOCKED else F.HGR_PLL_1_LOCKED) (on && s.hgr.loaded && hpllByte s h 0 != 0)

theorem showUclks_eq (s : State) (h : Nat) (on : Bool) :
    showUclks s h on = (List.range 4).foldl (showUclk h on) (showHpll s h on) := rfl

theorem onlyFields_showUclks (s : State) {h : Nat} (hh : h < 2) (on : Bool) : OnlyFields s (showUclks s h on) uclkFields := by
  rw [showUclks_eq]
  refine OnlyFields.foldl (fun t j hj ht => ht.setB ?_ _) ((OnlyFields.refl s _).setB ?_ _)
  · exact List.mem_append_right _ (List.mem_map_of_mem (List.mem_range.2 (by have := List.mem_range.1 hj; omega)))
  · split <;> simp

/-- A user clock is shown as the fabric header has it. -/
theorem running_showUclks (s : State) (on : Bool) {j : Nat} (hj : j < 4) :
    getB (showUclks s 0 on) (F.HGR_UCLK_RUNNING j) =
      (on && s.hgr.loaded && hpllByte s 0 0 != 0 && hpllByte s 0 (4 + j) != 0) := by
  have hat : 4 * 0 + j = j := by omega
  rw [showUclks_eq]
  refine foldl_establishes (g := showUclk 0 on) (P := fun t => t.hgr = s.hgr) (Q := fun t => getB t (F.HGR_UCLK_RUNNING j) =
    (on && s.hgr.loaded && hpllByte s 0 0 != 0 && hpllByte s 0 (4 + j) != 0)) (fun _ _ _ ht => ht) (fun t ht => ?_) (fun t k hk ht => ?_)
    (List.mem_range.2 hj) List.nodup_range rfl
  · rw [showUclk, hat, getB_setB_same _ (F.HGR_UCLK_RUNNING j) _ rfl, hpllByte, hpllByte, headerByte, headerByte, ht]
    rfl
  · rw [showUclk, getB_setB_other _ (key_uclkRunning_ne (by omega))]
    exact ht

theorem locked_showUclks (s : State) (on : Bool) :
    getB (showUclks s 0 on) F.HGR_PLL_0_LOCKED = (on && s.hgr.loaded && hpllByte s 0 0 != 0) := by
  have hshown : FieldsBut (showHpll s 0 on) (showUclks s 0 on) ((List.range 4).map F.HGR_UCLK_RUNNING) := by
    rw [showUclks_eq]
    refine (OnlyFields.foldl (fun t j hj ht => ht.setB ?_ _) (.refl _ _)).1
    exact List.mem_map_of_mem (by simpa using hj)
  rw [hshown.bit (by decide)]
  exact getB_setB_same s F.HGR_PLL_0_LOCKED _ rfl

theorem fieldsBut_endHoldover (s : State) :
    FieldsBut s (endHoldover s) [F.CLK_REFCLK_HOLDOVER, F.CLK_REFCLK_STEERED, F.CLK_REFCLK_LOSSES] := by
  unfold endHoldover
  dsimp only
  split
  · exact (((FieldsBut.refl s _).setF (by simp) _).setF (by simp) _).setF (by simp) _
  · exact .refl s _

/-- PLL `p` is stable, and the switches that wait for it have completed. -/
def pllShown (s : State) (p : Nat) : State := completeWhere (waitsForPll p) (setFBit s F.CLK_PLL_LOCK_LOCK p true)

/-- What `pllStable` leaves of the clocks' registers is what the switches leave. -/
theorem getF_pllStable (s : State) (p : Fin 29) {f : Fld} (huclk : ∀ g ∈ uclkFields, f.key ≠ g.key)
    (hhold : ∀ g ∈ [F.CLK_REFCLK_HOLDOVER, F.CLK_REFCLK_STEERED, F.CLK_REFCLK_LOSSES], f.key ≠ g.key) :
    getF (pllStable s p) f = getF (pllShown s p) f := by
  have hshown : getF (if 27 ≤ p.val then showUclks (pllShown s p) (p - 27) true else pllShown s p) f = getF (pllShown s p) f := by
    split
    · exact (onlyFields_showUclks _ (by omega) true).1 f huclk
    · rfl
  exact (fieldsBut_endHoldover _ f hhold).trans hshown

theorem lock_pllStable (s : State) (p : Fin 29) : (getF (pllStable s p) F.CLK_PLL_LOCK_LOCK).testBit p = true := by
  have hset := getF_setFBit_testBit s F.CLK_PLL_LOCK_LOCK p p true p.isLt
  rw [if_pos rfl] at hset
  rw [getF_pllStable s p (by decide) (by decide), pllShown, (switchMoved_completeWhere _ _).1 _ (by decide +kernel)]
  exact hset

theorem switch_ne_uclk (i : Fin 27) : ∀ g ∈ uclkFields, (F.CLK_SWITCH_CURRENT i).key ≠ g.key := by
  revert i
  decide +kernel

theorem switch_ne_refclk (i : Fin 27) : ∀ g ∈ [F.CLK_REFCLK_HOLDOVER, F.CLK_REFCLK_STEERED, F.CLK_REFCLK_LOSSES],
    (F.CLK_SWITCH_CURRENT i).key ≠ g.key := by
  revert i
  decide +kernel

theorem sel_ne_lock (i : Fin 27) : (F.CLK_SWITCH_SEL i).key ≠ F.CLK_PLL_LOCK_LOCK.key := by
  revert i
  decide +kernel

theorem current_pllStable (s : State) (p : Fin 29) {i : Fin 27} (hpll : islandPll i = p)
    (hsel : getF s (F.CLK_SWITCH_SEL i) = 1) : getF (pllStable s p) (F.CLK_SWITCH_CURRENT i) = 1 := by
  rw [getF_pllStable s p (switch_ne_uclk i) (switch_ne_refclk i), pllShown]
  refine completeWhere_establishes (P := fun t => getF t (F.CLK_SWITCH_SEL i) = 1) (i := i)
    (fun t u h ht => (h _ (by simp)).trans ht) (fun t u h ht => (h _ (by simp)).trans ht) (fun t ht => ?_) ?_
  · by_cases hcurrent : getF t (F.CLK_SWITCH_CURRENT i) = 1
    · rw [if_neg (by simp [waitsForPll, hcurrent])]
      exact hcurrent
    · rw [if_pos (by simp [waitsForPll, hcurrent, hpll, ht]), (current_completeSwitch t i).1, namedSource, ht]
      rfl
  · exact (getF_setFBit_other s (sel_ne_lock i) _ _).trans hsel

theorem hgr_pllShown (s : State) (p : Nat) : (pllShown s p).hgr = s.hgr := by
  rw [pllShown, (switchMoved_completeWhere _ _).2]
  rfl

/-- HPLL 0 is stable, and its user clocks run. -/
theorem hpll_pllStable {s : State} (hloaded : s.hgr.loaded = true) (hpll : hpllByte s 0 0 ≠ 0) :
    getB (pllStable s 27) F.HGR_PLL_0_LOCKED = true ∧
      ∀ j : Fin 4, getB (pllStable s 27) (F.HGR_UCLK_RUNNING j) = (hpllByte s 0 (4 + j) != 0) := by
  have hbyte : ∀ b, hpllByte (pllShown s 27) 0 b = hpllByte s 0 b := fun b => by
    rw [hpllByte, hpllByte, headerByte, headerByte, hgr_pllShown]
  have hends : FieldsBut (showUclks (pllShown s 27) 0 true) (pllStable s 27) _ := fieldsBut_endHoldover _
  have hshown : (true && (pllShown s 27).hgr.loaded && hpllByte (pllShown s 27) 0 0 != 0) = true := by
    rw [hgr_pllShown, hbyte, hloaded]
    simpa using hpll
  refine ⟨?_, fun j => ?_⟩
  · rw [hends.bit (by decide), locked_showUclks, hshown]
  · have hapart : ∀ j : Fin 4, ∀ g ∈ [F.CLK_REFCLK_HOLDOVER, F.CLK_REFCLK_STEERED, F.CLK_REFCLK_LOSSES],
        (F.HGR_UCLK_RUNNING j).key ≠ g.key := by decide
    rw [hends.bit (hapart j), running_showUclks _ _ j.isLt, hshown, hbyte, Bool.true_and]

/-! #### What the loss of an Active link leaves of the clocks -/

section
variable {r s : State}

theorem ClocksKept.setB (h : ClocksKept r s) {f : Fld} (hf : 0x20000 * 32 ≤ f.key) (b : Bool) : ClocksKept r (setB s f b) :=
  h.setF hf _

theorem ClocksKept.setFBit (h : ClocksKept r s) {f : Fld} (hf : 0x20000 * 32 ≤ f.key) (i : Nat) (b : Bool) :
    ClocksKept r (setFBit s f i b) := h.setF hf _

theorem ClocksKept.bumpF (h : ClocksKept r s) {f : Fld} (hf : 0x20000 * 32 ≤ f.key) (n : Nat) : ClocksKept r (bumpF s f n) :=
  h.setF hf _

theorem ClocksKept.ite {t : State} {c : Prop} [Decidable c] (h : ClocksKept r s) (h' : ClocksKept r t) :
    ClocksKept r (if c then s else t) := by
  split <;> assumption

theorem ClocksKept.raiseSource (h : ClocksKept r s) (n : Nat) : ClocksKept r (raiseSource s n) := by
  refine .ite h (.bumpF (.setFBit (.setFBit h (by decide) _ _) (by decide) _ _) ?_ _)
  simp only [Fld.key, F.ARY_SRC_EPISODES_COUNT]
  omega

theorem ClocksKept.holdDevice (h : ClocksKept r s) : ClocksKept r (holdDevice s) :=
  .ite ((h.raiseSource 11).congr rfl rfl) h

theorem ClocksKept.judgeGraph (h : ClocksKept r s) : ClocksKept r (judgeGraph s) := by
  have hset : ∀ v b, ClocksKept r (onLnk (Machine.setF s F.LNK_DIAMETER_STEPS v) (fun x => { x with cut := b })) :=
    fun v b => (h.setF (by decide) v).congr rfl rfl
  exact .ite (.ite (hset _ _).holdDevice (hset _ _)) h

/-- A register of a link lies above those of the clocks. -/
theorem le_key_link {f : Nat → Fld} {a lo : Nat} (ha : 0x20000 ≤ a) (l : Nat) (hf : (f l).key = (a + 32 * l) * 32 + lo) :
    0x20000 * 32 ≤ (f l).key := by
  omega

theorem ClocksKept.leaveActive (h : ClocksKept r s) (l stage : Nat) (deep : Bool) :
    ClocksKept r (leaveActive s l stage deep) := by
  have hstage := h.setF (le_key_link (f := F.LNK_LINK_STATUS_STAGE) (a := 0xC0104) (by decide) l rfl) stage
  have htx := (hstage.setFBit (f := F.LNK_STATUS_ACTIVE) (by decide) l false).setB
    (le_key_link (f := F.LNK_LINK_STATUS_DOZE_TX) (a := 0xC0104) (by decide) l rfl) false
  have hrx := htx.setB (le_key_link (f := F.LNK_LINK_STATUS_DOZE_RX) (a := 0xC0104) (by decide) l rfl) false
  have hcount := hrx.bumpF (le_key_link (f := F.LNK_LINK_RETRAINS_COUNT) (a := 0xC0118) (by decide) l rfl) 1
  exact .ite (.judgeGraph ((ClocksKept.ite hcount (hcount.setB (f := F.LNK_STATUS_LINK_DOWN) (by decide) true)).congr rfl rfl)) hrx

theorem ClocksKept.retrainLink (h : ClocksKept r s) (l : Nat) : ClocksKept r (retrainLink s l) :=
  .ite ((h.leaveActive l 2 false).congr rfl rfl) h

end

/-! #### A PLL that unlocks (R497) -/

/-- A bad vote of die `d` is cast, and the device is in a recovery from its cycle on. -/
def badVoteNoted (s : State) (d : Fin 4) : State :=
  let c := chargedCycle s d
  let s := setB (set64 (voteBad s d c) F.FLT_REPLAY_CYCLE_LO_CYCLE F.FLT_REPLAY_CYCLE_HI_CYCLE c) F.FLT_STATUS_REPLAYING true
  { s with run := { s.run with replay := match s.run.replay with
    | none => some ⟨c, false, none, anyFrozen s⟩
    | some r => some { r with cycle := min r.cycle c, restored := false } } }

/-- The die with an order to freeze at its next step at the latest. -/
def frozenNext (x : Die) : Die :=
  { x with freezeAt := some (match x.freezeAt with
      | none => x.sigma + 1
      | some a => min a (x.sigma + 1)) }

theorem badNow_eq (s : State) (d : Fin 4) : badNow s d =
    onDie (if anyFrozen (badVoteNoted s d) then raiseSource (badVoteNoted s d) 9 else badVoteNoted s d) d frozenNext := rfl

theorem clocksKept_badNow (s : State) (d : Fin 4) : ClocksKept s (badNow s d) := by
  have hvote : ClocksKept s (voteBad s d (chargedCycle s d)) := (ClocksKept.refl s).congr rfl rfl
  have hnoted : ClocksKept s (badVoteNoted s d) :=
    (((hvote.setF (f := F.FLT_REPLAY_CYCLE_LO_CYCLE) (by decide) _).setF (f := F.FLT_REPLAY_CYCLE_HI_CYCLE) (by decide) _).setB
      (f := F.FLT_STATUS_REPLAYING) (by decide) true).congr rfl rfl
  rw [badNow_eq]
  exact (ClocksKept.ite (hnoted.raiseSource 9) hnoted).congr rfl rfl

theorem votes_badNow (s : State) (d : Fin 4) : (badNow s d).run.votes.get none (chargedCycle s d * 4 + d) = some false := by
  have hvotes : (badNow s d).run.votes = (badVoteNoted s d).run.votes := by
    rw [badNow_eq, onDie_run]
    split
    · rw [raiseSource_frame]
    · rfl
  rw [hvotes]
  exact SMap.get_set_same none s.run.votes (chargedCycle s d * 4 + d) (some false)

/-- The unlock of a PLL that feeds no island of the device's own clocks leaves the clocks' registers. -/
theorem clocksKept_unlocked (s : State) {p : Fin 29} (hp : 2 ≤ p.val) : ClocksKept s (unlocked s p) := by
  unfold unlocked
  rw [if_neg (by omega)]
  split
  · exact .refl s
  split
  · exact .ite (clocksKept_badNow s _) (.refl s)
  split
  · exact ((ClocksKept.refl s).setFBit (by decide) _ _).setFBit (by decide) _ _
  split
  · exact List.foldlRecOn (motive := ClocksKept s) _ _ (.refl s) fun t ht l _ => ht.retrainLink l
  · have habove : ∀ f ∈ uclkFields, 0x20000 * 32 ≤ f.key := by decide +kernel
    obtain ⟨hfields, hframe⟩ := onlyFields_showUclks s (h := p - 27) (by omega) false
    refine ⟨by rw [hframe], fun f hf => hfields f fun g hg => ?_⟩
    exact (Nat.lt_of_lt_of_le hf (habove g hg)).ne

/-- A stable PLL has unlocked, and the unlock is counted. -/
def unlockNoted (s : State) (p : Nat) : State := bumpF (setFBit s F.CLK_PLL_LOCK_LOCK p false) F.CLK_PLL_UNLOCKS_COUNT 1

theorem getF_unlockNoted (s : State) (p : Nat) {f : Fld} (hlock : f.key ≠ F.CLK_PLL_LOCK_LOCK.key)
    (hcount : f.key ≠ F.CLK_PLL_UNLOCKS_COUNT.key) : getF (unlockNoted s p) f = getF s f := by
  rw [unlockNoted, getF_bumpF_other _ hcount, getF_setFBit_other _ hlock]

/-- The consequences of an unlock leave LOCK and the count. -/
theorem getF_unlocked (s : State) (p : Fin 29) {f : Fld} (hf : f = F.CLK_PLL_LOCK_LOCK ∨ f = F.CLK_PLL_UNLOCKS_COUNT) :
    getF (unlocked s p) f = getF s f := by
  by_cases hp : 2 ≤ p.val
  · refine (clocksKept_unlocked s hp).2 f ?_
    obtain rfl | rfl := hf <;> decide
  · have hkeys : ∀ i ∈ [5, 6], f.key ≠ (F.CLK_SWITCH_CURRENT i).key ∧ f.key ≠ F.CLK_STATUS_UNLOCK.key := by
      obtain rfl | rfl := hf <;> decide
    rw [unlocked, if_pos (by omega)]
    split
    · rw [getF_setF_other _ (hkeys 6 (by simp)).1, getF_setB_other _ (hkeys 6 (by simp)).2]
    · rw [getF_setF_other _ (hkeys 5 (by simp)).1, getF_setB_other _ (hkeys 5 (by simp)).2]

section
variable {s : State} {p : Fin 29}

theorem exec_pllUnlock (hlocked : pllLocked s p = true) (hlost : s.clk.lost = false) :
    exec (.pllUnlock p) s = .next (unlocked (unlockNoted s p) p) := by
  show execPllUnlock p s = _
  rw [execPllUnlock, if_pos (by rw [hlocked, hlost]; rfl)]
  rfl

theorem exec_pllUnlock_unlocked (hlocked : pllLocked s p = false) : exec (.pllUnlock p) s = .next s := by
  show execPllUnlock p s = _
  rw [execPllUnlock, if_neg (by rw [hlocked]; simp)]

/-- The PLL of a die stops it with a bad vote. -/
theorem votes_unlocked {d : Fin 4} (hp : p.val = 3 + d) (hexec : executing s = true) :
    (unlocked (unlockNoted s p) p).run.votes.get none (chargedCycle s d * 4 + d) = some false := by
  have hdie : Fin.ofNat 4 (p.val - 3) = d := by
    rw [hp, Nat.add_sub_cancel_left]
    exact Fin.ofNat_val_eq_self d
  have hexec' : executing (unlockNoted s p) = true := by
    rw [executing, emState, getF_unlockNoted s p (by decide) (by decide)]
    exact hexec
  have hcharged : chargedCycle (unlockNoted s p) d = chargedCycle s d := by
    rw [chargedCycle, cycleOf, cycleSteps, stepsS, getF_unlockNoted s p (by decide) (by decide)]
    rfl
  have hunlocked : unlocked (unlockNoted s p) p = badNow (unlockNoted s p) d := by
    have hd := d.isLt
    rw [unlocked, if_neg (by omega), if_neg (by omega), if_pos (by omega), if_pos hexec', hdie]
  rw [hunlocked, ← hcharged]
  exact votes_badNow _ d

/-- The PLL of a stack takes it out of service. -/
theorem ready_unlocked {i : Fin 4} (hp : p.val = 7 + i) : (getF (unlocked s p) F.HBM_STATUS_READY).testBit i = false := by
  have hset := getF_setFBit_testBit s F.HBM_STATUS_READY i i false i.isLt
  have hi := i.isLt
  rw [if_pos rfl] at hset
  rw [unlocked, if_neg (by omega), if_neg (by omega), if_neg (by omega), if_pos (by omega), hp, Nat.add_sub_cancel_left,
    getF_setFBit_other _ (by decide)]
  exact hset

/-- The system PLL, or that of the control cluster, falls back to REFCLK. -/
theorem current_unlocked (s : State) : (getB (unlocked s 0) F.CLK_STATUS_UNLOCK = true ∧
      getF (unlocked s 0) (F.CLK_SWITCH_CURRENT 6) = 0) ∧
    getB (unlocked s 1) F.CLK_STATUS_UNLOCK = true ∧ getF (unlocked s 1) (F.CLK_SWITCH_CURRENT 5) = 0 := by
  have hset : getB (setB s F.CLK_STATUS_UNLOCK true) F.CLK_STATUS_UNLOCK = true := getB_setB_same s F.CLK_STATUS_UNLOCK true rfl
  refine ⟨⟨?_, getF_setF_same _ _ _⟩, ?_, getF_setF_same _ _ _⟩
  · exact (getB_setF_other _ (f := F.CLK_SWITCH_CURRENT 6) (by decide) _).trans hset
  · exact (getB_setF_other _ (f := F.CLK_SWITCH_CURRENT 5) (by decide) _).trans hset

theorem running_unlocked (s : State) (j : Fin 4) : getB (unlocked s 27) (F.HGR_UCLK_RUNNING j) = false := by
  show getB (showUclks s 0 false) _ = false
  rw [running_showUclks s false j.isLt]
  rfl

end

/-! #### A write to CLK_SWITCH (R501) -/

theorem fieldsAt_switch (i : Fin 27) : fieldsAt (0x10020 + 4 * i) = [F.CLK_SWITCH_BUSY i, F.CLK_SWITCH_STOPPED_SRC i,
    F.CLK_SWITCH_CURRENT i, F.CLK_SWITCH_SEL i] := by
  revert i
  decide +kernel

/-- The source that a write asks for: 3 is taken as 0. -/
abbrev askedSource (v : Nat) : Nat := if bitsOf v 0 2 = 3 then 0 else bitsOf v 0 2

section
variable (s : State) (i : Fin 27) (v : Nat)

theorem plainWrite_switch : plainWrite s (0x10020 + 4 * i) v =
    writeField v (writeField v s (F.CLK_SWITCH_STOPPED_SRC i)) (F.CLK_SWITCH_SEL i) := by
  rw [plainWrite, fieldsAt_switch]
  rfl

/-- A write to CLK_SWITCH leaves CURRENT, and SEL names the source asked for. -/
theorem written_switch : getF (plainWrite s (0x10020 + 4 * i) v) (F.CLK_SWITCH_CURRENT i) = getF s (F.CLK_SWITCH_CURRENT i) ∧
    namedSource (plainWrite s (0x10020 + 4 * i) v) i = askedSource v := by
  have hne : ∀ i : Fin 27, (F.CLK_SWITCH_CURRENT i).key ≠ (F.CLK_SWITCH_STOPPED_SRC i).key ∧
      (F.CLK_SWITCH_CURRENT i).key ≠ (F.CLK_SWITCH_SEL i).key := by decide +kernel
  have hsel : getF (plainWrite s (0x10020 + 4 * i) v) (F.CLK_SWITCH_SEL i) = bitsOf v 0 2 := by
    rw [plainWrite_switch]
    exact (getF_setF_same _ _ _).trans (Nat.mod_mod _ _)
  refine ⟨?_, by rw [namedSource, hsel]⟩
  rw [plainWrite_switch]
  exact (getF_setF_other _ (hne i).2 _).trans (getF_setF_other _ (hne i).1 _)

theorem askedSource_lt : askedSource v % 4 = askedSource v := by
  refine Nat.mod_eq_of_lt ?_
  have hlt := Nat.mod_lt (v / 2 ^ 0) (show 0 < 2 ^ 2 by decide)
  unfold askedSource bitsOf
  split <;> omega

/-- What a write to CLK_SWITCH brings about (R501). -/
theorem switchWrite_cases (old new : Bool) : switchWrite s i v old new =
    let u := plainWrite s (0x10020 + 4 * i) v
    if askedSource v = getF s (F.CLK_SWITCH_CURRENT i) then setB u (F.CLK_SWITCH_BUSY i) false
    else if askedSource v = 2 || new then completeSwitch (if old then u else setB u (F.CLK_SWITCH_STOPPED_SRC i) true) i
    else setB u (F.CLK_SWITCH_BUSY i) true := by
  dsimp only
  rw [← (written_switch s i v).1]
  rfl

theorem switch_keys_apart : ∀ i : Fin 27, (F.CLK_SWITCH_CURRENT i).key ≠ (F.CLK_SWITCH_BUSY i).key ∧
    (F.CLK_SWITCH_SEL i).key ≠ (F.CLK_SWITCH_STOPPED_SRC i).key ∧
    (F.CLK_SWITCH_STOPPED_SRC i).key ≠ (F.CLK_SWITCH_BUSY i).key ∧
    (F.CLK_SWITCH_STOPPED_SRC i).key ≠ (F.CLK_SWITCH_CURRENT i).key := by decide +kernel

variable {s v}

/-- A switch to the source in use, to off, or to one that runs is made at once. -/
theorem clockSwitch_made {v : Word} (old : Bool) {new : Bool}
    (h : askedSource v.toNat = getF s (F.CLK_SWITCH_CURRENT i) ∨ askedSource v.toNat = 2 ∨ new = true) :
    Answers (.clockSwitch i v old new) s (fun t => getF t (F.CLK_SWITCH_CURRENT i) = askedSource v.toNat ∧
      getB t (F.CLK_SWITCH_BUSY i) = false ∧ (askedSource v.toNat ≠ getF s (F.CLK_SWITCH_CURRENT i) → old = false →
        getB t (F.CLK_SWITCH_STOPPED_SRC i) = true)) := by
  refine ⟨switchWrite s i v.toNat old new, rfl, ?_⟩
  obtain ⟨hcurrent, hnamed⟩ := written_switch s i v.toNat
  obtain ⟨hbusy, hsel, hstopped, hstopped'⟩ := switch_keys_apart i
  rw [switchWrite_cases]
  by_cases hsame : askedSource v.toNat = getF s (F.CLK_SWITCH_CURRENT i)
  · rw [if_pos hsame]
    refine ⟨?_, getB_setB_same _ (F.CLK_SWITCH_BUSY i) false rfl, fun hne => absurd hsame hne⟩
    rw [getF_setB_other _ hbusy, hcurrent, hsame]
  · have hruns : (decide (askedSource v.toNat = 2) || new) = true := by
      simpa [hsame] using h
    rw [if_neg hsame, if_pos hruns]
    obtain ⟨w, hw⟩ : ∃ w, w = if old then plainWrite s (0x10020 + 4 * i) v.toNat
        else setB (plainWrite s (0x10020 + 4 * i) v.toNat) (F.CLK_SWITCH_STOPPED_SRC i) true := ⟨_, rfl⟩
    have hkeeps : getF w (F.CLK_SWITCH_SEL i) = getF (plainWrite s (0x10020 + 4 * i) v.toNat) (F.CLK_SWITCH_SEL i) := by
      rw [hw]
      split
      · rfl
      · exact getF_setB_other _ hsel _
    rw [← hw]
    refine ⟨?_, (current_completeSwitch w i).2, fun _ hold => ?_⟩
    · rw [(current_completeSwitch w i).1, namedSource, hkeeps]
      exact (congrArg (· % 4) hnamed).trans (askedSource_lt _)
    · have hkept := (switchMoved_completeSwitch w i).1 (F.CLK_SWITCH_STOPPED_SRC i)
        (List.forall_mem_cons.2 ⟨hstopped, List.forall_mem_cons.2 ⟨hstopped', switch_key_lt i _ (by simp)⟩⟩)
      rw [getB, hkept, hw, hold]
      exact getB_setB_same (plainWrite s (0x10020 + 4 * i) v.toNat) (F.CLK_SWITCH_STOPPED_SRC i) true rfl

/-- A switch to a source that shows no edge waits. -/
theorem clockSwitch_waits {v : Word} (old : Bool) (hne : askedSource v.toNat ≠ getF s (F.CLK_SWITCH_CURRENT i))
    (hoff : askedSource v.toNat ≠ 2) : Answers (.clockSwitch i v old false) s (fun t =>
      getF t (F.CLK_SWITCH_CURRENT i) = getF s (F.CLK_SWITCH_CURRENT i) ∧ getB t (F.CLK_SWITCH_BUSY i) = true) := by
  refine ⟨switchWrite s i v.toNat old false, rfl, ?_⟩
  rw [switchWrite_cases]
  dsimp only
  rw [if_neg hne, if_neg (by simp [hoff])]
  refine ⟨?_, getB_setB_same _ (F.CLK_SWITCH_BUSY i) true rfl⟩
  rw [getF_setB_other _ (switch_keys_apart i).1, (written_switch s i v.toNat).1]

end

/-! #### REFCLK is lost and returns (R502 to R504) -/

/-- No field of the clock block counts among those of the holds. -/
theorem ClocksKept.foldlRaise {r s : State} (h : ClocksKept r s) (ns : List Nat) : ClocksKept r (ns.foldl Machine.raiseSource s) :=
  List.foldlRecOn (motive := ClocksKept r) _ _ h fun _ ht n _ => ht.raiseSource n

theorem ClocksKept.userTakes {r s : State} (h : ClocksKept r s) (d : Fin 4) : ClocksKept r (userTakes s d) :=
  .ite ((h.setB (by decide) _).setB (by decide) _) h

theorem ClocksKept.enforceFrozen {r s : State} (h : ClocksKept r s) : ClocksKept r (enforceFrozen s) :=
  .ite (List.foldlRecOn (motive := ClocksKept r) _ _ h fun _ ht d _ => (ht.foldlRaise _).userTakes d) h

theorem ClocksKept.announceSoon {r s : State} (h : ClocksKept r s) (n : Nat) : ClocksKept r (announceSoon s n) := by
  have hannounced : ∀ t, ClocksKept r (announce s n t) := fun t => h.congr rfl rfl
  exact .ite (hannounced _).enforceFrozen h

/-- REFCLK is lost, and the device holds over (R502). -/
def heldOver (s : State) : State := onClk (setB s F.CLK_REFCLK_HOLDOVER true) (fun c => { c with lost := true })

theorem holdover_heldOver (s : State) : getB (heldOver s) F.CLK_REFCLK_HOLDOVER = true :=
  getB_setB_same s F.CLK_REFCLK_HOLDOVER true rfl

theorem getF_heldOver (s : State) {f : Fld} (hf : f.key ≠ F.CLK_REFCLK_HOLDOVER.key) : getF (heldOver s) f = getF s f :=
  getF_setB_other s hf true

/-- The hold of a device whose clock can no longer be trusted keeps the clocks but for the mark of that. -/
theorem clocksKept_clockHold (s : State) :
    ClocksKept (onClk s (fun c => { c with expired := true })) (clockHold s) := (ClocksKept.refl _).announceSoon 10

theorem multi_heldOver (s : State) : multi (heldOver s) = multi s :=
  getB_setB_other s (f := F.CLK_REFCLK_HOLDOVER) (g := F.ARY_STATE_MULTI) (by decide) true

theorem voteRoot_heldOver (s : State) : voteRoot (heldOver s) = voteRoot s := by
  rw [voteRoot, voteRoot, multi_heldOver, getB, getF_heldOver s (by decide), ← getB]

theorem rootLink_heldOver (s : State) : rootLink (heldOver s) = rootLink s := by
  rw [rootLink, position, getF_heldOver s (by decide)]
  rfl

theorem linkActive_heldOver (s : State) : linkActive (heldOver s) = linkActive s := by
  funext l
  rw [linkActive, linkActive, linkStage, linkStage, getF_heldOver]
  simp only [Fld.key, F.LNK_LINK_STATUS_STAGE, F.CLK_REFCLK_HOLDOVER]
  omega

theorem exec_refclkLoss (s : State) : exec .refclkLoss s = .next (
    if multi s && !voteRoot s then
      if rootLink s ≠ [] && (rootLink s).all (linkActive s) then setB (heldOver s) F.CLK_REFCLK_STEERED true
      else clockHold (heldOver s)
    else heldOver s) := by
  rw [← multi_heldOver, ← voteRoot_heldOver, ← rootLink_heldOver, ← linkActive_heldOver]
  rfl

theorem refclkLoss_answers (s : State) : Answers .refclkLoss s (fun t => getB t F.CLK_REFCLK_HOLDOVER = true ∧
    t.clk.lost = true ∧ ((multi s = false ∨ voteRoot s = true) → t.holds = s.holds) ∧
      (multi s = true → voteRoot s = false → rootLink s ≠ [] → (rootLink s).all (linkActive s) = true →
        getB t F.CLK_REFCLK_STEERED = true ∧ t.holds = s.holds)) := by
  have hholdover := holdover_heldOver s
  refine ⟨_, exec_refclkLoss s, ?_⟩
  split
  next hpart =>
    have hroot : ¬ (multi s = false ∨ voteRoot s = true) := by
      simpa [and_comm] using hpart
    split
    next hsteered =>
      refine ⟨?_, rfl, fun h => absurd h hroot, fun _ _ _ _ => ⟨?_, rfl⟩⟩
      · exact (getB_setB_other _ (by decide) true).trans hholdover
      · exact getB_setB_same (heldOver s) F.CLK_REFCLK_STEERED true rfl
    next hfree =>
      obtain ⟨hclk, hfields⟩ := clocksKept_clockHold (heldOver s)
      refine ⟨?_, ?_, fun h => absurd h hroot, fun _ _ hlink hactive => absurd ?_ hfree⟩
      · rw [getB, hfields _ (by decide)]
        exact hholdover
      · rw [hclk]
        rfl
      · simp [hlink, hactive]
  next halone =>
    refine ⟨hholdover, rfl, fun _ => rfl, fun hmulti hroot _ _ => absurd ?_ halone⟩
    simp [hmulti, hroot]

/-- The end of the holdover's time has the device announce its hold (R502). -/
theorem holdoverExpiry_answers {s : State} (hlost : s.clk.lost = true) : Answers .holdoverExpiry s (fun t =>
    t.clk.expired = true ∧ (executing s = true → sourceOn s 10 = false →
      s.holds.announced.any (fun a => a.1 = 10) = false → allFrozen s = false →
        t.holds.announced = s.holds.announced ++ [(10, sigmaMax s + 16)])) := by
  obtain ⟨u, hu⟩ : ∃ u, u = onClk s (fun c => { c with expired := true }) := ⟨_, rfl⟩
  refine ⟨clockHold s, ?_, ?_, fun hexec hsource hnone hrun => ?_⟩
  · show execHoldoverExpiry s = _
    rw [execHoldoverExpiry, if_pos hlost]
  · rw [(clocksKept_clockHold s).1]
    rfl
  · have hsoon : clockHold s = announce u 10 (sigmaMax s + 16) := by
      have hcond : (executing u && !sourceOn u 10 && !u.holds.announced.any (fun a => a.1 = 10)) = true := by
        rw [hu]
        show (executing s && !sourceOn s 10 && !s.holds.announced.any (fun a => a.1 = 10)) = true
        rw [hexec, hsource, hnone]
        rfl
      have hrun' : ¬ allFrozen u = true := by
        rw [hu]
        show ¬ allFrozen s = true
        rw [hrun]
        simp
      have htime : sigmaMax u = sigmaMax s := by rw [hu]; rfl
      rw [clockHold, ← hu, announceSoon, if_pos hcond, if_neg hrun', htime, enforceFrozen, if_neg]
      exact hrun'
    rw [hsoon, hu]
    rfl

/-- A switch that waits for REFCLK. -/
abbrev waitsForRefclk (t : State) (i : Nat) : Bool :=
  getB t (F.CLK_SWITCH_BUSY i) && (getF t (F.CLK_SWITCH_SEL i) == 0 || getF t (F.CLK_SWITCH_SEL i) == 3)

/-- REFCLK is back, and every PLL is judged again (R504). -/
def refclkBack (s : State) : State := onClk (setF s F.CLK_PLL_LOCK_LOCK 0) (fun c => { c with lost := false })

theorem refclkReturn_answers {s : State} (hlost : s.clk.lost = true) : Answers .refclkReturn s (fun t =>
    t.clk.lost = false ∧ getF t F.CLK_PLL_LOCK_LOCK = 0 ∧ ∀ i : Fin 27, getB s (F.CLK_SWITCH_BUSY i) = true →
      getF s (F.CLK_SWITCH_SEL i) = 0 → getF t (F.CLK_SWITCH_CURRENT i) = 0 ∧ getB t (F.CLK_SWITCH_BUSY i) = false) := by
  obtain ⟨hfields, hframe⟩ := switchMoved_completeWhere waitsForRefclk (refclkBack s)
  have hbusy : ∀ i : Fin 27, (F.CLK_SWITCH_BUSY i).key ≠ F.CLK_PLL_LOCK_LOCK.key := by decide +kernel
  refine ⟨completeWhere waitsForRefclk (refclkBack s), ?_, ?_, ?_, fun i hwait hsel => ?_⟩
  · show execRefclkReturn s = _
    rw [execRefclkReturn, if_pos hlost]
    rfl
  · rw [hframe]
    rfl
  · rw [hfields _ (by decide +kernel)]
    exact getF_setF_same s F.CLK_PLL_LOCK_LOCK 0
  · refine completeWhere_establishes (i := i)
      (P := fun t => getB t (F.CLK_SWITCH_BUSY i) = true ∧ getF t (F.CLK_SWITCH_SEL i) = 0)
      (Q := fun t => getF t (F.CLK_SWITCH_CURRENT i) = 0 ∧ getB t (F.CLK_SWITCH_BUSY i) = false) (fun t u h ht => ?_)
      (fun t u h ht => ?_) (fun t ht => ?_) ⟨?_, ?_⟩
    · rw [getB, h _ (by simp), h _ (by simp)]
      exact ht
    · rw [getB, h _ (by simp), h _ (by simp)]
      exact ht
    · obtain ⟨hbusy, hsel⟩ := ht
      obtain ⟨hcurrent, hdone⟩ := current_completeSwitch t i
      rw [if_pos (by simp [waitsForRefclk, hbusy, hsel])]
      refine ⟨?_, hdone⟩
      rw [hcurrent, namedSource, hsel]
      rfl
    · exact (getB_setF_other s (hbusy i) 0).trans hwait
    · exact (getF_setF_other s (sel_ne_lock i) 0).trans hsel

theorem refclk_present {s : State} (hlost : s.clk.lost = false) :
    exec .holdoverExpiry s = .next s ∧ exec .refclkReturn s = .next s := by
  refine ⟨?_, ?_⟩
  · show execHoldoverExpiry s = _
    rw [execHoldoverExpiry, if_neg (by simp [hlost])]
  · show execRefclkReturn s = _
    rw [execRefclkReturn, if_neg (by simp [hlost])]

/-! #### Gates (R506 to R508) -/

/-- The stream of no source moves a gate's register. -/
theorem streamFree_gate (f : Fld) (haddr : f.addr = F.CLK_GATE_CTRL_OPEN.addr) (hlo : f.lo < 32) (n : Nat) :
    StreamFree (gateFld f n) := by
  intro i
  have hkey : (gateFld f n).key = (0x10104 + 0x100000 * (n + 1)) * 32 + f.lo := by
    rw [gateFld, key_bank, haddr]
    rfl
  have hsource : ∀ g ∈ [F.TRC_SRC_BYTES_COUNT, F.TRC_SRC_LOST_COUNT], (gateFld f n).key ≠ (srcFld g i).key := by
    simp only [List.forall_mem_cons, List.not_mem_nil, false_imp_iff, implies_true, and_true, hkey, srcFld, key_bank,
      F.TRC_SRC_BYTES_COUNT, F.TRC_SRC_LOST_COUNT]
    omega
  have hring : ∀ {g : Fld}, Unindexed g → (gateFld f n).key ≠ g.key := fun hg => gateFld_ne_unindexed f n hg
  simp only [List.forall_mem_cons, List.not_mem_nil, false_imp_iff, implies_true, and_true] at hsource ⊢
  exact ⟨hring (by decide), hring (by decide), hring (by decide), hring (by decide), hring (by decide), hsource⟩

/-- The drain of a gate's source moves no gate. -/
theorem getF_drainGate (s : State) (g n : Nat) {f : Fld} (haddr : f.addr = F.CLK_GATE_CTRL_OPEN.addr) (hlo : f.lo < 32) :
    getF (drainGate s g) (gateFld f n) = getF s (gateFld f n) := by
  unfold drainGate
  split
  · exact (StreamMoved.refl _ s).drainSource.getF (streamFree_gate f haddr hlo n)
  · rfl

theorem resumeTrace_net (s : State) : (resumeTrace s).net = s.net := by
  refine List.foldlRecOn (motive := fun t : State => t.net = s.net) _ _ rfl fun t ht i _ => Eq.trans ?_ ht
  have hfilled : StreamMoved i t (fillFrames t i 18) := (StreamMoved.refl i t).fillFrames 18
  dsimp only
  split
  · exact (hfilled.recoverLoss _).net
  · exact hfilled.net

/-- FORCE of a node is written with every other request of the write. -/
abbrev forceWritten (s : State) (n v : Nat) : State := setB s (gateFld F.CLK_GATE_CTRL_FORCE n) (v.testBit 3)

section
variable (s : State) (v : Nat) {n : Nat}

theorem getF_forceWritten {f : Fld} (hf : f.key ≠ (gateFld F.CLK_GATE_CTRL_FORCE n).key) :
    getF (forceWritten s n v) f = getF s f := getF_setB_other s hf _

theorem getF_forceWritten_unindexed {f : Fld} (hf : Unindexed f) : getF (forceWritten s n v) f = getF s f :=
  getF_forceWritten s v (gateFld_ne_unindexed _ n hf).symm

/-- Registers of gates have one place only where they are one register of one gate. -/
theorem key_gateFld_ne_force {f : Fld} (haddr : f.addr = F.CLK_GATE_CTRL_OPEN.addr) (hlo : f.lo < 32) (hne : f.lo ≠ 3) (m : Nat) :
    (gateFld f m).key ≠ (gateFld F.CLK_GATE_CTRL_FORCE n).key := by
  rw [gateFld, gateFld, key_bank, key_bank, haddr]
  simp only [F.CLK_GATE_CTRL_FORCE, F.CLK_GATE_CTRL_OPEN]
  omega

theorem gateOpen_forceWritten (m : Nat) : gateOpen (forceWritten s n v) m = gateOpen s m := by
  rw [gateOpen, getB, getF_forceWritten s v (key_gateFld_ne_force rfl (by decide) (by decide) m)]
  rfl

theorem force_forceWritten : getB (forceWritten s n v) (gateFld F.CLK_GATE_CTRL_FORCE n) = v.testBit 3 :=
  getB_setB_same s (gateFld F.CLK_GATE_CTRL_FORCE n) _ rfl

theorem childOpen_forceWritten : childOpen (forceWritten s n v) n = childOpen s n := by
  rw [childOpen, childOpen]
  simp only [gateOpen_forceWritten]

end

/-! #### What a write of FORCE leaves of the conditions of a close (R505) -/

theorem all_congr_of_mem {α : Type} {xs : List α} {p q : α → Bool} (h : ∀ x ∈ xs, p x = q x) : xs.all p = xs.all q := by
  rw [Bool.eq_iff_iff, List.all_eq_true, List.all_eq_true]
  exact forall₂_congr fun x hx => by rw [h x hx]

section
variable {s t : State} (h : ∀ f, Unindexed f → getF t f = getF s f)
include h

theorem getB_of_unindexed {f : Fld} (hf : Unindexed f) : getB t f = getB s f := by rw [getB, h f hf, ← getB]

theorem linkLanes_congr {l : Nat} (hl : l < 16) : linkLanes t l = linkLanes s l := by
  have hat : ∀ l : Fin 16, ∀ f ∈ [F.LNK_LINK_CFG_WIDTH l, F.LNK_LINK_CFG_SPARE l, F.LNK_LINK_CFG_FIRST l], Unindexed f := by decide
  have hkept := fun f hf => h f (hat ⟨l, hl⟩ f hf)
  rw [linkLanes, linkLanes, getB, hkept (F.LNK_LINK_CFG_WIDTH l) (by simp), hkept (F.LNK_LINK_CFG_SPARE l) (by simp),
    hkept (F.LNK_LINK_CFG_FIRST l) (by simp), ← getB]

theorem quadLinks_congr (q : Nat) : quadLinks t q = quadLinks s q := by
  have hat : ∀ l : Fin 16, Unindexed (F.LNK_LINK_CFG_EN l) := by decide
  refine List.filter_congr fun l hl => ?_
  have hl16 := List.mem_range.1 hl
  rw [linkLanes_congr h hl16, getB_of_unindexed h (hat ⟨l, hl16⟩)]

/-- Every link of a quad is off or in Deep. -/
theorem quadIdle_congr (q : Nat) : (quadLinks t q).all (fun l => linkStage t l == 0 || getB t (F.LNK_LINK_STATUS_DEEP l)) =
    (quadLinks s q).all (fun l => linkStage s l == 0 || getB s (F.LNK_LINK_STATUS_DEEP l)) := by
  have hat : ∀ l : Fin 16, Unindexed (F.LNK_LINK_STATUS_STAGE l) ∧ Unindexed (F.LNK_LINK_STATUS_DEEP l) := by decide
  rw [quadLinks_congr h]
  refine all_congr_of_mem fun l hl => ?_
  obtain ⟨hstage, hdeep⟩ := hat ⟨l, List.mem_range.1 (List.mem_filter.1 hl).1⟩
  rw [linkStage, linkStage, h _ hstage, getB_of_unindexed h hdeep]

theorem trackersOff_congr : (List.range 32).all (fun k => !getB t (F.ASY_TRK_CTRL_EN k)) =
    (List.range 32).all (fun k => !getB s (F.ASY_TRK_CTRL_EN k)) := by
  have hat : ∀ k : Fin 32, Unindexed (F.ASY_TRK_CTRL_EN k) := by decide
  refine all_congr_of_mem fun k hk => ?_
  rw [getB_of_unindexed h (hat ⟨k, List.mem_range.1 hk⟩)]

theorem gateMayClose_congr (hchn : t.chn = s.chn) (hhgr : t.hgr = s.hgr) (hasy : t.asy = s.asy) (n : Nat) :
    gateMayClose t n = gateMayClose s n := by
  unfold gateMayClose
  rw [emState, h _ (by decide), h F.CHN_ENGINE_STOP_STOP (by decide), h F.HBM_STATUS_SELF_REFRESH (by decide), hchn, hhgr, hasy,
    quadIdle_congr h, trackersOff_congr h, getB_of_unindexed h (f := F.ASY_STATUS_ARMED) (by decide),
    getB_of_unindexed h (f := F.CTL_STATUS_MT_BUSY) (by decide), ← emState]

end

/-! #### CLOSE and REOPEN -/

section
variable {s : State} {v : Word} {n : Nat} (hnode : getF s F.CLK_GATE_INDEX_NODE = n) (hn : n < 86)
include hnode hn

theorem exec_gateClose (hreopen : v.getLsbD 0 = false) (hclose : v.getLsbD 1 = true) :
    exec (.gateClose v) s = .next (gateClose (forceWritten s n v.toNat) n) := by
  show Host.Outcome.next (gateCtrlWrite s v.toNat) = _
  have h0 : v.toNat.testBit 0 = false := by rwa [← BitVec.testBit_toNat] at hreopen
  have h1 : v.toNat.testBit 1 = true := by rwa [← BitVec.testBit_toNat] at hclose
  rw [gateCtrlWrite]
  dsimp only
  rw [hnode, if_pos hn, if_pos h1, if_neg (by simp [h0])]

theorem exec_gateReopen (hreopen : v.getLsbD 0 = true) (hclose : v.getLsbD 1 = false) :
    exec (.gateReopen v) s = .next (gateReopen (forceWritten s n v.toNat) n) := by
  show Host.Outcome.next (gateCtrlWrite s v.toNat) = _
  have h0 : v.toNat.testBit 0 = true := by rwa [← BitVec.testBit_toNat] at hreopen
  have h1 : v.toNat.testBit 1 = false := by rwa [← BitVec.testBit_toNat] at hclose
  rw [gateCtrlWrite]
  dsimp only
  rw [hnode, if_pos hn, if_neg (by simp [h1]), if_pos h0]

end

/-- CLOSE of an open gate: its block is asked to quiesce where the conditions hold, and the write is refused elsewhere. -/
theorem gateClose_acts {s : State} {n : Nat} (hopen : gateOpen s n = true) :
    let t := gateClose s n
    getB t (gateFld F.CLK_GATE_CTRL_FORCE n) = getB s (gateFld F.CLK_GATE_CTRL_FORCE n) ∧
      if gateMayClose s n && !childOpen s n then getB t (gateFld F.CLK_GATE_CTRL_CLOSING n) = true
      else getB t F.CLK_STATUS_REFUSED = true ∧
        getB t (gateFld F.CLK_GATE_CTRL_CLOSING n) = getB s (gateFld F.CLK_GATE_CTRL_CLOSING n) := by
  dsimp only
  rw [gateClose, if_neg (by simp [hopen])]
  split
  · refine ⟨?_, ?_⟩
    · rw [getB, getF_drainGate _ n n (f := F.CLK_GATE_CTRL_FORCE) rfl (by decide), getF_setB_other _
        (gateFld_ne_gateFld F.CLK_GATE_CTRL_FORCE F.CLK_GATE_CTRL_CLOSING rfl (by decide) n), ← getB]
    · rw [getB, getF_drainGate _ n n (f := F.CLK_GATE_CTRL_CLOSING) rfl (by decide)]
      exact getB_setB_same s (gateFld F.CLK_GATE_CTRL_CLOSING n) true rfl
  · refine ⟨getB_setB_other s (gateFld_ne_unindexed _ n (by decide)) true, getB_setB_same s F.CLK_STATUS_REFUSED true rfl, ?_⟩
    exact getB_setB_other s (gateFld_ne_unindexed _ n (by decide)) true

/-- The parent of a node is open, as that of the root counts. -/
abbrev parentIsOpen (s : State) (n : Nat) : Bool :=
  match gateParent n with
  | some p => gateOpen s p
  | none => true

/-- REOPEN where the parent is closed is refused. -/
theorem gateReopen_refused {s : State} {n : Nat} (hparent : parentIsOpen s n = false) :
    getB (gateReopen s n) F.CLK_STATUS_REFUSED = true ∧
      getB (gateReopen s n) (gateFld F.CLK_GATE_CTRL_OPEN n) = getB s (gateFld F.CLK_GATE_CTRL_OPEN n) := by
  have hrefused : gateReopen s n = setB s F.CLK_STATUS_REFUSED true := if_neg (by
    show ¬ parentIsOpen s n = true
    rw [hparent]
    simp)
  rw [hrefused]
  exact ⟨getB_setB_same s F.CLK_STATUS_REFUSED true rfl, getB_setB_other s (gateFld_ne_unindexed _ n (by decide)) true⟩

/-- REOPEN of an open gate withdraws a request to close. -/
theorem gateReopen_withdraws {s : State} {n : Nat} (hparent : parentIsOpen s n = true) (hopen : gateOpen s n = true) :
    getB (gateReopen s n) (gateFld F.CLK_GATE_CTRL_OPEN n) = true ∧
      getB (gateReopen s n) (gateFld F.CLK_GATE_CTRL_CLOSING n) = false ∧ heldFor (gateReopen s n) n = [] := by
  have hreopen : gateReopen s n = deliverHeld (setB s (gateFld F.CLK_GATE_CTRL_CLOSING n) false) n :=
    (if_pos hparent).trans (if_pos hopen)
  obtain ⟨hnone, hfields⟩ := deliverHeld_answers (setB s (gateFld F.CLK_GATE_CTRL_CLOSING n) false) n
  have hgate : ∀ f, ∀ x ∈ collisionFields, (gateFld f n).key ≠ x.key := fun f x hx =>
    gateFld_ne_unindexed f n ((by decide : ∀ x ∈ collisionFields, Unindexed x) x hx)
  rw [hreopen]
  refine ⟨?_, ?_, hnone⟩
  · rw [hfields.bit (hgate _), getB_setB_other _ (gateFld_ne_gateFld F.CLK_GATE_CTRL_OPEN F.CLK_GATE_CTRL_CLOSING rfl (by decide) n)]
    exact hopen
  · rw [hfields.bit (hgate _)]
    exact getB_setB_same s (gateFld F.CLK_GATE_CTRL_CLOSING n) false rfl

/-- The gate of a node is open again, and its block is asked to signal quiesce exit. -/
def reopened (s : State) (n : Nat) : State :=
  onNet (setB s (gateFld F.CLK_GATE_CTRL_OPEN n) true) (fun x => { x with exiting := x.exiting ++ [n] })

/-- REOPEN of a closed gate restarts the clock, and its block stays isolated until it has signalled. -/
theorem gateReopen_restarts {s : State} {n : Nat} (hparent : parentIsOpen s n = true) (hopen : gateOpen s n = false) :
    getB (gateReopen s n) (gateFld F.CLK_GATE_CTRL_OPEN n) = true ∧ nodeIsolated (gateReopen s n) n = true ∧
      n ∈ (gateReopen s n).net.exiting := by
  have hreopen : gateReopen s n = if n = 67 then resumeTrace (reopened s n) else reopened s n :=
    (if_pos hparent).trans (if_neg (by simp [hopen]))
  have hgate : getB (gateReopen s n) (gateFld F.CLK_GATE_CTRL_OPEN n) = getB (reopened s n) (gateFld F.CLK_GATE_CTRL_OPEN n) := by
    rw [hreopen]
    split
    · rw [getB, getF_resumeTrace _ (streamFree_gate _ rfl (by decide) n), ← getB]
    · rfl
  have hnet : (gateReopen s n).net = (reopened s n).net := by
    rw [hreopen]
    split
    · exact resumeTrace_net _
    · rfl
  have hexit : n ∈ (gateReopen s n).net.exiting := by
    rw [hnet]
    exact List.mem_append_right _ (List.mem_singleton_self n)
  refine ⟨hgate.trans (getB_setB_same s (gateFld F.CLK_GATE_CTRL_OPEN n) true rfl), ?_, hexit⟩
  rw [nodeIsolated, List.contains_iff_mem.2 hexit, Bool.or_true]

theorem parentIsOpen_forceWritten (s : State) (n v : Nat) : parentIsOpen (forceWritten s n v) n = parentIsOpen s n := by
  unfold parentIsOpen
  split
  · exact gateOpen_forceWritten s v _
  · rfl

/-- Settles O40: each command is followed to the fields that it writes, and what it calls is shown to leave the others; the
switches that wait for one source complete independently of each other. -/
theorem clockCommandsAct : Obligations.ClockCommandsAct := by
  unfold Obligations.ClockCommandsAct
  intro s
  refine ⟨fun p => ⟨fun hlost => ?_, fun hlost => ?_, fun hlocked hlost => ?_, fun hunlocked => ⟨s, exec_pllUnlock_unlocked hunlocked, rfl⟩⟩,
    fun i v old new => ⟨fun h => clockSwitch_made i old h, fun hne hoff hnew => ?_⟩, refclkLoss_answers s,
    fun hlost => holdoverExpiry_answers hlost, fun hlost => ?_, fun hlost => refclkReturn_answers hlost, fun v => ?_⟩
  · refine ⟨s, ?_, rfl⟩
    show execPllStable p s = _
    rw [execPllStable, if_pos hlost]
  · refine ⟨pllStable s p, ?_, lock_pllStable s p, fun i hpll hsel => current_pllStable s p hpll hsel, ?_⟩
    · show execPllStable p s = _
      rw [execPllStable, if_neg (by simp [hlost])]
    · rintro rfl hloaded hpll
      exact hpll_pllStable hloaded hpll
  · refine ⟨_, exec_pllUnlock hlocked hlost, ?_, ?_, ?_, ?_, fun d hp hexec => ?_, fun i hp => ready_unlocked hp, ?_⟩
    · have hset := getF_setFBit_testBit s F.CLK_PLL_LOCK_LOCK p p false p.isLt
      rw [if_pos rfl] at hset
      rw [getF_unlocked _ p (.inl rfl), unlockNoted, getF_bumpF_other _ (by decide), hset]
    · rw [getF_unlocked _ p (.inr rfl), unlockNoted, getF_bumpF_same, getF_setFBit_other _ (by decide)]
      rfl
    · rintro rfl
      exact (current_unlocked _).1
    · rintro rfl
      exact (current_unlocked _).2
    · rw [votes_unlocked hp hexec]
      rfl
    · rintro rfl j
      exact running_unlocked _ j
  · subst hnew
    exact clockSwitch_waits i old hne hoff
  · obtain ⟨hexpiry, hreturn⟩ := refclk_present hlost
    exact ⟨⟨s, hexpiry, rfl⟩, s, hreturn, rfl⟩
  · obtain ⟨n, hnode⟩ : ∃ n, getF s F.CLK_GATE_INDEX_NODE = n := ⟨_, rfl⟩
    dsimp only
    rw [hnode]
    intro hn
    have hforce := force_forceWritten s v.toNat (n := n)
    rw [BitVec.testBit_toNat] at hforce
    refine ⟨fun hreopen hclose hopen => ⟨_, exec_gateClose hnode hn hreopen hclose, ?_⟩,
      fun hreopen hclose => ⟨_, exec_gateReopen hnode hn hreopen hclose, ?_⟩⟩
    · have hacts := gateClose_acts ((gateOpen_forceWritten s v.toNat (n := n) n).trans hopen)
      have hmay := gateMayClose_congr (fun f hf => getF_forceWritten_unindexed s v.toNat (n := n) hf) rfl rfl rfl n
      rw [hmay, childOpen_forceWritten, hforce] at hacts
      have hclosing : getB (forceWritten s n v.toNat) (gateFld F.CLK_GATE_CTRL_CLOSING n) =
          getB s (gateFld F.CLK_GATE_CTRL_CLOSING n) :=
        getB_setB_other s (key_gateFld_ne_force (f := F.CLK_GATE_CTRL_CLOSING) (n := n) rfl (by decide) (by decide) n) _
      rw [hclosing] at hacts
      exact hacts
    · have hopened := gateOpen_forceWritten s v.toNat (n := n) n
      have hparent := parentIsOpen_forceWritten s n v.toNat
      show if parentIsOpen s n then _ else _
      rw [← hparent]
      split
      next h =>
        cases hopen : gateOpen s n with
        | true =>
          obtain ⟨ho, hc⟩ := gateReopen_withdraws h (hopened.trans hopen)
          exact ⟨ho, hc⟩
        | false =>
          obtain ⟨ho, hc⟩ := gateReopen_restarts h (hopened.trans hopen)
          exact ⟨ho, hc⟩
      next h =>
        obtain ⟨hr, ho⟩ := gateReopen_refused (Bool.not_eq_true _ ▸ h)
        exact ⟨hr, ho.trans hopened⟩

end Sys2Proof.Machine
end

section
/-! ### Start-up (R540, R582, R587) -/

namespace Sys2Proof.Machine

/-! #### A phase that ends -/

/-- What is done in phase `p` before it ends, from 1 to 4. -/
def phaseWork (s : State) (found : BootFound) (p : Nat) : State :=
  match p with
  | 1 => phaseFuses s
  | 2 => phaseClocks s
  | 3 => phaseMarch s found
  | _ => phaseBoot s found.flash

theorem nextPhase_ends {s : State} {p : Nat} (hphase : getF s F.RST_STATUS_PHASE = p) (hfirst : 1 ≤ p) (hlast : p ≤ 4)
    (hclock : p = 2 → s.clk.lost = false) (us : Nat) (found : BootFound) :
    nextPhase s us found = phaseEnds (phaseWork s found p) p us := by
  unfold nextPhase
  rw [hphase]
  match p, hfirst, hlast with
  | 1, _, _ => rfl
  | 2, _, _ =>
    show (if s.clk.lost then s else _) = _
    rw [hclock rfl]
    rfl
  | 3, _, _ => rfl
  | 4, _, _ => rfl

theorem phaseEnds_shows (s : State) {p : Nat} (hfirst : 1 ≤ p) (hlast : p ≤ 5) (us : Word) :
    getF (phaseEnds s p us.toNat) F.RST_STATUS_PHASE = p + 1 ∧
      getF (phaseEnds s p us.toNat) (F.RST_PHASE_TIME_US (p - 1)) = us.toNat := by
  have hapart : (F.RST_PHASE_TIME_US (p - 1)).key ≠ F.RST_STATUS_PHASE.key := by
    simp only [Fld.key, F.RST_PHASE_TIME_US, F.RST_STATUS_PHASE]
    omega
  refine ⟨?_, ?_⟩
  · rw [phaseEnds, getF_setF_same]
    exact Nat.mod_eq_of_lt (show p + 1 < 8 by omega)
  · rw [phaseEnds, getF_setF_other _ hapart, getF_setF_same]
    exact Nat.mod_eq_of_lt us.isLt

/-- The end of a phase shows in its own registers alone. -/
theorem getF_phaseEnds (s : State) {p : Nat} (hlast : p ≤ 5) (us : Nat) {f : Fld} (hphase : f.key ≠ F.RST_STATUS_PHASE.key)
    (htimes : ∀ n : Fin 5, f.key ≠ (F.RST_PHASE_TIME_US n).key) : getF (phaseEnds s p us) f = getF s f := by
  have hn : p - 1 < 5 := by omega
  rw [phaseEnds, getF_setF_other _ hphase, getF_setF_other _ (htimes ⟨p - 1, hn⟩)]

/-! #### Phase 2: the clocks -/

/-- What is locked stays locked when another PLL is judged stable. -/
theorem pllLocked_pllStable {s : State} (p : Fin 29) {q : Nat} (hq : q < 29) (h : pllLocked s q = true) :
    pllLocked (pllStable s p) q = true := by
  have hset := getF_setFBit_testBit s F.CLK_PLL_LOCK_LOCK p q true hq
  rw [pllLocked, getF_pllStable s p (by decide) (by decide), pllShown,
    (switchMoved_completeWhere _ _).1 _ (by decide +kernel), hset]
  split
  · rfl
  · exact h

/-- An island is put on its PLL. -/
abbrev putOnPll (t : State) (i : Nat) : State := completeSwitch (setF t (F.CLK_SWITCH_SEL i) 1) i

theorem phaseClocks_eq (s : State) : phaseClocks s = putOnPll (putOnPll (pllStable (pllStable s 0) 1) 5) 6 := by
  unfold phaseClocks
  rw [List.foldl_cons, List.foldl_cons, List.foldl_nil]

theorem current_putOnPll (t : State) (i : Nat) : getF (putOnPll t i) (F.CLK_SWITCH_CURRENT i) = 1 := by
  rw [putOnPll, (current_completeSwitch _ i).1, namedSource, getF_setF_same]
  rfl

theorem getF_putOnPll (t : State) (i : Nat) {f : Fld} (hsel : f.key ≠ (F.CLK_SWITCH_SEL i).key)
    (hf : ∀ g ∈ switchFields i, f.key ≠ g.key) : getF (putOnPll t i) f = getF t f :=
  ((switchMoved_completeSwitch _ i).1 f hf).trans (getF_setF_other t hsel 1)

theorem phaseClocks_shows (s : State) : pllLocked (phaseClocks s) 0 = true ∧ pllLocked (phaseClocks s) 1 = true ∧
    getF (phaseClocks s) (F.CLK_SWITCH_CURRENT 5) = 1 ∧ getF (phaseClocks s) (F.CLK_SWITCH_CURRENT 6) = 1 := by
  have hlock : getF (phaseClocks s) F.CLK_PLL_LOCK_LOCK = getF (pllStable (pllStable s 0) 1) F.CLK_PLL_LOCK_LOCK := by
    rw [phaseClocks_eq, getF_putOnPll _ 6 (by decide) (by decide), getF_putOnPll _ 5 (by decide) (by decide)]
  refine ⟨?_, ?_, ?_, ?_⟩
  · rw [pllLocked, hlock]
    exact pllLocked_pllStable 1 (q := 0) (by decide) (lock_pllStable s 0)
  · rw [pllLocked, hlock]
    exact lock_pllStable _ 1
  · rw [phaseClocks_eq, getF_putOnPll _ 6 (by decide) (by decide)]
    exact current_putOnPll _ 5
  · rw [phaseClocks_eq]
    exact current_putOnPll _ 6

/-! #### Phase 3: the start-up test -/

theorem startFail_shows (s : State) {fs : List Failure} (hfs : fs ≠ []) :
    getB (startFail s fs) F.CTL_STATUS_START_FAIL = true ∧ getF (startFail s fs) F.CTL_MT_STATUS_RESULT = 3 := by
  rw [startFail, if_neg hfs]
  refine ⟨getB_setB_same _ F.CTL_STATUS_START_FAIL true rfl, ?_⟩
  rw [getF_setB_other _ (by decide), getF_setF_same]
  rfl

theorem phaseMarch_shows (s : State) {found : BootFound} (hfails : found.memFails ≠ []) :
    getB (phaseMarch s found) F.CTL_STATUS_START_FAIL = true ∧ getF (phaseMarch s found) F.CTL_MT_STATUS_RESULT = 3 :=
  startFail_shows _ (by simpa using hfails)

/-! #### Phase 5: service -/

/-- The fields in which a stream that is offered, or refused, shows. -/
abbrev offerFields : List Fld :=
  openingFields ++ [F.LDR_RESULT_CODE, F.LDR_RESULT_PATH, F.LDR_RESULT_SEGMENT, F.LDR_BOOT_ENTRY]

theorem fieldsBut_refused (s : State) (path code seg : Nat) : FieldsBut s (reportLoad s path none code seg) offerFields :=
  (((FieldsBut.refl s _).setF (by simp) _).setF (by simp) _).setF (by simp) _

theorem fieldsBut_offerFlash (s : State) (e : Nat) : FieldsBut s (offerFlash s e) offerFields := by
  have hoffered : FieldsBut s (offerStream s freshFlash) offerFields := by
    unfold offerStream
    split
    · exact fieldsBut_refused s _ _ _
    · split
      · exact fieldsBut_refused s _ _ _
      · exact (fieldsBut_beginStream s _).mono (by simp)
  unfold offerFlash
  dsimp only
  split
  · exact hoffered
  · exact FieldsBut.setF hoffered (by simp) e

/-- Service begins: READY, and the phase stays as the end of the last one has left it. -/
theorem phaseService_shows (s : State) : getF (phaseService s) F.RST_STATUS_PHASE = getF s F.RST_STATUS_PHASE ∧
    getB (phaseService s) F.RST_STATUS_READY = true := by
  have hready : getB (setB s F.RST_STATUS_READY true) F.RST_STATUS_READY = true := getB_setB_same s F.RST_STATUS_READY true rfl
  have hphase : getF (setB s F.RST_STATUS_READY true) F.RST_STATUS_PHASE = getF s F.RST_STATUS_PHASE :=
    getF_setB_other s (by decide) true
  unfold phaseService
  dsimp only
  split
  · have hoffer := fieldsBut_offerFlash (onLdr (setB s F.RST_STATUS_READY true) (fun h => { h with selfTry := 1 })) 0
    exact ⟨(hoffer _ (by decide)).trans hphase, (hoffer.bit (by decide)).trans hready⟩
  · exact ⟨hphase, hready⟩

theorem exec_resetRelease_service {s : State} (hphase : getF s F.RST_STATUS_PHASE = 5) (hrun : s.ctl.running = true) (us : Word)
    (found : BootFound) :
    exec (.resetRelease us found) s = .next (phaseService (phaseEnds (phaseBringup s) 5 us.toNat)) := by
  show Host.Outcome.next (nextPhase s us.toNat found) = _
  unfold nextPhase
  rw [hphase]
  exact congrArg Host.Outcome.next (if_pos hrun)

/-! #### Phases that wait, and the release itself -/

theorem exec_resetRelease_waits {s : State} (us : Word) (found : BootFound)
    (h : (getF s F.RST_STATUS_PHASE = 2 ∧ s.clk.lost = true) ∨ (getF s F.RST_STATUS_PHASE = 5 ∧ s.ctl.running = false) ∨
      5 < getF s F.RST_STATUS_PHASE) : exec (.resetRelease us found) s = .next s := by
  show Host.Outcome.next (nextPhase s us.toNat found) = _
  unfold nextPhase
  obtain ⟨hphase, hlost⟩ | ⟨hphase, hrun⟩ | hpast := h
  · rw [hphase]
    exact congrArg Host.Outcome.next (if_pos hlost)
  · rw [hphase]
    exact congrArg Host.Outcome.next (if_neg (by simp [hrun]))
  · obtain ⟨n, hn⟩ := Nat.exists_eq_add_of_lt hpast
    rw [hn, show 5 + n + 1 = n + 6 by omega]
    rfl

theorem resetRelease_begins {s : State} (hphase : getF s F.RST_STATUS_PHASE = 0) (us : Word) (found : BootFound) :
    Answers (.resetRelease us found) s (fun t => getF t F.RST_STATUS_PHASE = 1 ∧ timeNs t = 0 ∧
      OnlyFields s t [F.RST_STATUS_PHASE, F.IDN_TIME_LO_TIME, F.IDN_TIME_HI_TIME]) := by
  refine ⟨setF (setTime s 0) F.RST_STATUS_PHASE 1, ?_, getF_setF_same _ _ _, ?_, ?_⟩
  · show Host.Outcome.next (nextPhase s us.toNat found) = _
    unfold nextPhase
    rw [hphase]
    rfl
  · rw [timeNs, get64, getF_setF_other _ (by decide), getF_setF_other _ (by decide), setTime, set64, getF_setF_same,
      getF_setF_other _ (by decide), getF_setF_same]
    rfl
  · exact OnlyFields.setF (((OnlyFields.refl s _).setF (by simp) _).setF (by simp) _) (by simp) 1

/-! #### A configuration request (R587) -/

/-- The link of the host is up, and nothing but its registers has changed with the draws of its rate and width. -/
theorem linkUp_frame (s : State) : getB (linkUp s) F.HST_STATUS_LINK_UP = true ∧
    getF (linkUp s) F.RST_STATUS_PHASE = getF s F.RST_STATUS_PHASE ∧
    linkUp s = { s with regs := (linkUp s).regs, draws := (linkUp s).draws } := by
  unfold linkUp
  split
  next h => exact ⟨h, rfl, rfl⟩
  next =>
    dsimp only
    refine ⟨?_, ?_, rfl⟩
    · rw [getB_setF_other _ (by decide), getB_setF_other _ (by decide)]
      exact getB_setB_same _ F.HST_STATUS_LINK_UP true rfl
    · rw [getF_setF_other _ (by decide), getF_setF_other _ (by decide), getF_setB_other _ (by decide)]
      rfl

section
variable {s : State} (bm : Option Bool) (item : Option ConfigItem)

theorem exec_configurationRequest_silent (h : getF s F.RST_STATUS_PHASE < 2 ∨ s.boot.perst = true) :
    exec (.configurationRequest ⟨bm, item⟩) s = .next s := by
  show execConfigurationRequest _ s = _
  rw [execConfigurationRequest, if_pos h]

/-- From phase 2 until phase 4 has ended the answer is Configuration Request Retry Status. -/
theorem configurationRequest_retries (hperst : s.boot.perst = false) (hfirst : 2 ≤ getF s F.RST_STATUS_PHASE)
    (hlast : getF s F.RST_STATUS_PHASE < 5) : Answers (.configurationRequest ⟨bm, item⟩) s (fun t =>
      t.outs = s.outs ++ [.answer 0 3] ∧ t.host = s.host ∧ getB t F.HST_STATUS_LINK_UP = true) := by
  obtain ⟨hup, hphase, hframe⟩ := linkUp_frame s
  refine ⟨emit (linkUp s) (.answer 0 3), ?_, ?_, ?_, hup⟩
  · show execConfigurationRequest _ s = _
    rw [execConfigurationRequest, if_neg (by rw [hperst]; simp; omega)]
    dsimp only
    rw [hphase, if_pos hlast]
  · rw [emit_outs, hframe]
  · rw [emit_host, hframe]

theorem configValue_linkUp (c : ConfigItem) : configValue (linkUp s) c = configValue s c := by
  have hboot : (linkUp s).boot = s.boot := by rw [(linkUp_frame s).2.2]
  unfold configValue
  rw [hboot]

/-- The link is up, and the request is answered where it names an item. -/
def answered (s : State) (item : Option ConfigItem) : State :=
  match item with
  | some c => emit (linkUp s) (.readValue 0 (configValue (linkUp s) c))
  | none => linkUp s

/-- What the device sends to answer a request. -/
def answerOf (s : State) (item : Option ConfigItem) : List Out :=
  match item with
  | some c => [.readValue 0 (configValue s c)]
  | none => []

theorem answered_shows : (answered s item).outs = s.outs ++ answerOf s item ∧ (answered s item).host = s.host := by
  obtain ⟨-, -, hframe⟩ := linkUp_frame s
  have houts : (linkUp s).outs = s.outs := by rw [hframe]
  have hhost : (linkUp s).host = s.host := by rw [hframe]
  cases item with
  | none => exact ⟨houts.trans (List.append_nil _).symm, hhost⟩
  | some c =>
    refine ⟨?_, hhost⟩
    rw [answered, emit_outs, houts, configValue_linkUp]
    rfl

/-- From phase 5 on the answer is the item's value. -/
theorem configurationRequest_answers (hperst : s.boot.perst = false) (hfirst : 5 ≤ getF s F.RST_STATUS_PHASE) :
    Answers (.configurationRequest ⟨bm, item⟩) s (fun t =>
      t.outs = s.outs ++ answerOf s item ∧ t.host.busMaster = bm.getD s.host.busMaster) := by
  obtain ⟨-, hphase, -⟩ := linkUp_frame s
  obtain ⟨houts, hhost⟩ := answered_shows (s := s) item
  have hexec : execConfigurationRequest ⟨bm, item⟩ s = .next (match bm with
      | some b => { answered s item with host := { (answered s item).host with busMaster := b } }
      | none => answered s item) := by
    rw [execConfigurationRequest, if_neg (by rw [hperst]; simp; omega)]
    dsimp only
    rw [hphase, if_neg (by omega)]
    rfl
  refine ⟨_, hexec, ?_⟩
  cases bm with
  | none => exact ⟨houts, congrArg HostIf.busMaster hhost⟩
  | some b => exact ⟨houts, rfl⟩

end

/-- Settles O51: what a phase does comes before its end, which writes the phase and its time over whatever that was; READY
stands because no stream that service offers shows in the registers of the resets. -/
theorem startupPhasesFollowOneAnother : Obligations.StartupPhasesFollowOneAnother := by
  unfold Obligations.StartupPhasesFollowOneAnother
  intro s
  refine ⟨fun us found => ⟨fun hphase => resetRelease_begins hphase us found,
      fun hphase hlost => ⟨s, exec_resetRelease_waits us found (.inl ⟨hphase, hlost⟩), rfl⟩, fun hfirst hlast hclock => ?ends,
      fun hphase hrun => ⟨_, exec_resetRelease_service hphase hrun us found, ?service⟩,
      fun hphase hrun => ⟨s, exec_resetRelease_waits us found (.inr (.inl ⟨hphase, hrun⟩)), rfl⟩,
      fun hpast => ⟨s, exec_resetRelease_waits us found (.inr (.inr hpast)), rfl⟩⟩,
    fun bm item => ⟨fun h => ⟨s, exec_configurationRequest_silent bm item h, rfl⟩,
      fun hperst hfirst hlast => configurationRequest_retries bm item hperst hfirst hlast,
      fun hperst hfirst => ?answer⟩⟩
  case ends =>
    obtain ⟨p, hp⟩ : ∃ p, getF s F.RST_STATUS_PHASE = p := ⟨_, rfl⟩
    rw [hp] at hfirst hlast hclock ⊢
    obtain ⟨hphase, htime⟩ := phaseEnds_shows (phaseWork s found p) hfirst (by omega) us
    have hkept := fun f => getF_phaseEnds (phaseWork s found p) (p := p) (f := f) (by omega) us.toNat
    refine ⟨phaseEnds (phaseWork s found p) p us.toNat, ?_, hphase, htime, ?_, ?_, ?_, ?_⟩
    · exact congrArg Host.Outcome.next (nextPhase_ends hp hfirst hlast hclock us.toNat found)
    · rintro rfl hcold
      show (phaseFuses s).sec.shadow = _
      simp [phaseFuses, hcold]
    · rintro rfl hcold
      show (phaseFuses s).sec.shadow = _
      simp [phaseFuses, hcold]
    · rintro rfl
      obtain ⟨hsystem, hnetwork, hfive, hsix⟩ := phaseClocks_shows s
      rw [pllLocked, pllLocked, hkept _ (by decide) (by decide), hkept _ (by decide) (by decide),
        hkept _ (by decide) (by decide)]
      exact ⟨hsystem, hnetwork, hfive, hsix⟩
    · rintro rfl hfails
      obtain ⟨hfail, hresult⟩ := phaseMarch_shows s hfails
      rw [getB, hkept _ (by decide) (by decide), hkept _ (by decide) (by decide)]
      exact ⟨hfail, hresult⟩
  case answer => cases item <;> exact configurationRequest_answers bm _ hperst hfirst
  case service =>
    obtain ⟨hphase, hready⟩ := phaseService_shows (phaseEnds (phaseBringup s) 5 us.toNat)
    exact ⟨hphase.trans (phaseEnds_shows (phaseBringup s) (by decide) (by decide) us).1, hready⟩

end Sys2Proof.Machine
end

section
/-! ### Blocks and frames of one link: what sending leaves of every link -/

namespace Sys2Proof.Machine

/-! #### One link among the others -/

section
variable (s : State) (l : Nat) (g : LinkSt → LinkSt)

theorem link_onLink_same : link (onLink s l g) l = g (link s l) := SMap.get_set_same LinkSt.reset s.lnk.links l (g (link s l))

theorem link_onLink_other {k : Nat} (hk : k ≠ l) : link (onLink s l g) k = link s k :=
  SMap.get_set_other LinkSt.reset LinkSt.reset s.lnk.links hk (g (link s l))

end

theorem getF_onLink (s : State) (l : Nat) (g : LinkSt → LinkSt) (f : Fld) : getF (onLink s l g) f = getF s f := rfl

/-! #### Transmission (R412, R433, R434) -/

/-- The link with the accounts of its transmitter alone changed. -/
def SameButSending (x y : LinkSt) : Prop := y = { x with txIdle := y.txIdle, waking := y.waking, ctl := y.ctl }

/-- Every link is as it was but for what its transmitter keeps, and nothing is received. -/
structure Transmitted (s t : State) : Prop where
  link : ∀ k, SameButSending (link s k) (link t k)
  mgmtIn : t.lnk.mgmtIn = s.lnk.mgmtIn
  clk : t.clk = s.clk

section
variable {s t u : State}

theorem Transmitted.of_links (h : t.lnk.links = s.lnk.links) (hin : t.lnk.mgmtIn = s.lnk.mgmtIn) (hclk : t.clk = s.clk) :
    Transmitted s t := by
  refine ⟨fun k => ?_, hin, hclk⟩
  have hlink : Machine.link t k = Machine.link s k := congrArg (SMap.get LinkSt.reset · k) h
  rw [hlink]
  rfl

theorem Transmitted.refl (s : State) : Transmitted s s := .of_links rfl rfl rfl

theorem SameButSending.trans {x y z : LinkSt} (h : SameButSending x y) (h' : SameButSending y z) : SameButSending x z := by
  unfold SameButSending at *
  rw [h', h]

theorem Transmitted.trans (h : Transmitted s t) (h' : Transmitted t u) : Transmitted s u :=
  ⟨fun k => (h.link k).trans (h'.link k), h'.mgmtIn.trans h.mgmtIn, h'.clk.trans h.clk⟩

theorem Transmitted.foldl {α : Type} {g : State → α → State} (hg : ∀ t a, Transmitted t (g t a)) (xs : List α) (s : State) :
    Transmitted s (xs.foldl g s) :=
  List.foldlRecOn (motive := Transmitted s) _ _ (.refl s) fun t ht a _ => ht.trans (hg t a)

/-- A change of what a transmitter keeps. -/
theorem transmitted_onLink (s : State) (l : Nat) {g : LinkSt → LinkSt} (hg : ∀ x, SameButSending x (g x)) :
    Transmitted s (onLink s l g) := by
  refine ⟨fun k => ?_, rfl, rfl⟩
  by_cases hk : k = l
  · rw [hk, link_onLink_same]
    exact hg _
  · rw [link_onLink_other s l g hk]
    rfl

theorem transmitted_leaveDoze (s : State) (l : Nat) : Transmitted s (leaveDoze s l) := by
  unfold leaveDoze
  split
  · have hset : Transmitted s (setB s (F.LNK_LINK_STATUS_DOZE_TX l) false) := .of_links rfl rfl rfl
    have htrack : ∀ t : State, Transmitted t (sendTrack t l) := fun t => .of_links rfl rfl rfl
    exact hset.trans (Transmitted.foldl (fun t _ => htrack t) _ _)
  · exact .refl s

theorem transmitted_wakeLink (s : State) (l : Nat) : Transmitted s (wakeLink s l) := by
  have hwoken : Transmitted s (leaveDoze (onLink s l (fun x => { x with txIdle := 0 })) l) :=
    (transmitted_onLink s l (g := fun x => { x with txIdle := 0 }) fun _ => rfl).trans (transmitted_leaveDoze _ l)
  unfold wakeLink
  dsimp only
  split
  · refine (hwoken.trans ?_).trans (transmitted_onLink _ l fun _ => rfl)
    exact .of_links rfl rfl rfl
  · exact hwoken

theorem transmitted_putBlock (ct origin cseq payload : Nat) (s : State) (l : Nat) :
    Transmitted s (putBlock ct origin cseq payload s l) := by
  refine (transmitted_wakeLink s l).trans ?_
  unfold putBlock
  dsimp only
  split
  · exact .of_links rfl rfl rfl
  · split
    · exact transmitted_onLink _ l fun _ => rfl
    · exact .refl _

theorem transmitted_sendBlock (s : State) (ls : List Nat) (ct payload : Nat) : Transmitted s (sendBlock s ls ct payload) := by
  have hcseq : Transmitted s (onLnk s (fun x => { x with cseq := (s.lnk.cseq + 1) % 16 })) := .of_links rfl rfl rfl
  exact hcseq.trans (Transmitted.foldl (transmitted_putBlock _ _ _ _) ls _)

theorem Transmitted.rxSeq (h : Transmitted s t) (k : Nat) : (Machine.link t k).rxSeq = (Machine.link s k).rxSeq := by
  rw [h.link k]

theorem Transmitted.nak (h : Transmitted s t) (k : Nat) : (Machine.link t k).nak = (Machine.link s k).nak := by
  rw [h.link k]

theorem Transmitted.queue (h : Transmitted s t) (k : Nat) : (Machine.link t k).queue = (Machine.link s k).queue := by
  rw [h.link k]

end

/-- A block that a link carries goes out last, after the blocks with which the link wakes. -/
theorem sendBlock_of_carries {s : State} {l : Nat} (h : Carries s l) (ct payload : Nat) :
    sendBlock s [l] ct payload = emit (wakeLink (onLnk s (fun x => { x with cseq := (s.lnk.cseq + 1) % 16 })) l)
      (blockOn l ct (position s) s.lnk.cseq payload) :=
  putBlock_of_carries (s := onLnk s (fun x => { x with cseq := (s.lnk.cseq + 1) % 16 })) h _ _ _ _

theorem getLast_sendBlock {s : State} {l : Nat} (h : Carries s l) (ct payload : Nat) :
    (sendBlock s [l] ct payload).outs.getLast? = some (blockOn l ct (position s) s.lnk.cseq payload) := by
  rw [sendBlock_of_carries h, emit_outs, List.getLast?_concat]

/-! #### A link that leaves Active (R427, R438) -/

/-- The fields, but for its stage, that a link's departure from Active may move. -/
abbrev leavingFields (l : Nat) : List Fld := [F.LNK_STATUS_ACTIVE, F.LNK_LINK_STATUS_DOZE_TX l, F.LNK_LINK_STATUS_DOZE_RX l,
  F.LNK_LINK_RETRAINS_COUNT l, F.LNK_STATUS_LINK_DOWN, F.LNK_DIAMETER_STEPS, F.ARY_HOLD_STATUS_SOURCE,
  F.ARY_HOLD_EVENTS_SEEN, F.ARY_SRC_EPISODES_COUNT 11]

/-- Fields of `fs` may have moved, and the machine's graph and holds with them; nothing was sent, and every link keeps what it
had. -/
structure LinkLeft (fs : List Fld) (s t : State) : Prop where
  fields : FieldsBut s t fs
  outs : t.outs = s.outs
  links : t.lnk.links = s.lnk.links

section
variable {fs : List Fld} {s t u : State}

theorem LinkLeft.refl (fs : List Fld) (s : State) : LinkLeft fs s s := ⟨.refl s fs, rfl, rfl⟩

theorem LinkLeft.setF (h : LinkLeft fs s t) {f : Fld} (hf : f ∈ fs) (v : Nat) : LinkLeft fs s (setF t f v) :=
  ⟨h.fields.setF hf v, h.outs, h.links⟩

theorem LinkLeft.setB (h : LinkLeft fs s t) {f : Fld} (hf : f ∈ fs) (b : Bool) : LinkLeft fs s (setB t f b) := h.setF hf _

theorem LinkLeft.setFBit (h : LinkLeft fs s t) {f : Fld} (hf : f ∈ fs) (i : Nat) (b : Bool) :
    LinkLeft fs s (setFBit t f i b) := h.setF hf _

theorem LinkLeft.bumpF (h : LinkLeft fs s t) {f : Fld} (hf : f ∈ fs) (n : Nat) : LinkLeft fs s (bumpF t f n) := h.setF hf _

theorem LinkLeft.ite {c : Prop} [Decidable c] (h : LinkLeft fs s t) (h' : LinkLeft fs s u) :
    LinkLeft fs s (if c then t else u) := by
  split <;> assumption

theorem LinkLeft.onGraph (h : LinkLeft fs s t) (g : List GraphEdge → List GraphEdge) :
    LinkLeft fs s (onLnk t (fun x => { x with graph := g x.graph })) := ⟨h.fields, h.outs, h.links⟩

theorem LinkLeft.onCut (h : LinkLeft fs s t) (b : Bool) : LinkLeft fs s (onLnk t (fun x => { x with cut := b })) :=
  ⟨h.fields, h.outs, h.links⟩

theorem LinkLeft.onDies (h : LinkLeft fs s t) (g : Die → Die) : LinkLeft fs s (onDies t g) := ⟨h.fields, h.outs, h.links⟩

theorem LinkLeft.onHolds (h : LinkLeft fs s t) (g : Holds → Holds) : LinkLeft fs s (onHolds t g) := ⟨h.fields, h.outs, h.links⟩

variable {l : Nat}

theorem LinkLeft.holdDevice (h : LinkLeft (leavingFields l) s t) : LinkLeft (leavingFields l) s (holdDevice t) := by
  have hraised : LinkLeft (leavingFields l) s (raiseSource t 11) :=
    .ite h (((h.setFBit (by simp) _ _).setFBit (by simp) _ _).bumpF (by simp) _)
  exact .ite ((hraised.onDies _).onHolds _) h

theorem LinkLeft.judgeGraph (h : LinkLeft (leavingFields l) s t) : LinkLeft (leavingFields l) s (judgeGraph t) := by
  have hset : ∀ v b, LinkLeft (leavingFields l) s (onLnk (Machine.setF t F.LNK_DIAMETER_STEPS v) (fun x => { x with cut := b })) :=
    fun v b => (h.setF (by simp) v).onCut b
  exact .ite (.ite (hset _ _).holdDevice (hset _ _)) h

end

/-- A link that leaves Active for a stage: beyond the stage only what a departure may move has moved. -/
theorem linkLeft_leaveActive (s : State) (l stage : Nat) (deep : Bool) :
    LinkLeft (leavingFields l) (setF s (F.LNK_LINK_STATUS_STAGE l) stage) (leaveActive s l stage deep) := by
  have hstage := LinkLeft.refl (leavingFields l) (setF s (F.LNK_LINK_STATUS_STAGE l) stage)
  have hdoze := ((hstage.setFBit (f := F.LNK_STATUS_ACTIVE) (by simp) l false).setB (f := F.LNK_LINK_STATUS_DOZE_TX l) (by simp)
    false).setB (f := F.LNK_LINK_STATUS_DOZE_RX l) (by simp) false
  have hcount := hdoze.bumpF (f := F.LNK_LINK_RETRAINS_COUNT l) (by simp) 1
  exact .ite (.judgeGraph (.onGraph (.ite hcount (hcount.setB (f := F.LNK_STATUS_LINK_DOWN) (by simp) true)) _)) hdoze

theorem stage_ne_leaving (l : Fin 16) : ∀ g ∈ leavingFields l, (F.LNK_LINK_STATUS_STAGE l).key ≠ g.key := by
  revert l
  decide

theorem linkStage_leaveActive (s : State) (l : Fin 16) (stage : Nat) (deep : Bool) :
    linkStage (leaveActive s l stage deep) l = stage % 16 := by
  rw [linkStage, (linkLeft_leaveActive s l stage deep).fields _ (stage_ne_leaving l), getF_setF_same]
  rfl

theorem link_leaveActive (s : State) (l stage : Nat) (deep : Bool) (k : Nat) : link (leaveActive s l stage deep) k = link s k :=
  congrArg (SMap.get LinkSt.reset · k) (linkLeft_leaveActive s l stage deep).links

theorem outs_leaveActive (s : State) (l stage : Nat) (deep : Bool) : (leaveActive s l stage deep).outs = s.outs :=
  (linkLeft_leaveActive s l stage deep).outs

/-- A field that no departure from Active moves reads as before. -/
theorem getF_leaveActive (s : State) {l : Nat} (stage : Nat) (deep : Bool) {f : Fld}
    (hstage : f.key ≠ (F.LNK_LINK_STATUS_STAGE l).key) (hf : ∀ g ∈ leavingFields l, f.key ≠ g.key) :
    getF (leaveActive s l stage deep) f = getF s f :=
  ((linkLeft_leaveActive s l stage deep).fields f hf).trans (getF_setF_other s hstage stage)

/-- A link that retrains keeps its replay buffer and its SEQ numbers (R426). -/
theorem retrainLink_eq {s : State} {l : Nat} (h : 2 ≤ linkStage s l) : retrainLink s l =
    onLink (leaveActive s l 2 false) l (fun x => { x with replays := 0, nak := false, nakDue := false }) := if_pos h

theorem retrainLink_acts {s : State} {l : Fin 16} (h : 2 ≤ linkStage s l) :
    linkStage (retrainLink s l) l = 2 ∧ (retrainLink s l).outs = s.outs ∧
      link (retrainLink s l) l = { link s l with replays := 0, nak := false, nakDue := false } := by
  rw [retrainLink_eq h]
  refine ⟨linkStage_leaveActive s l 2 false, outs_leaveActive s l 2 false, ?_⟩
  rw [link_onLink_same, link_leaveActive]

end Sys2Proof.Machine
end

section
/-! ### Frames that go out again (R425, R426) -/

namespace Sys2Proof.Machine

/-! #### What goes out -/

/-- A frame as it goes out on link `l`, with the SEQ last accepted and a NAK or none. -/
def frameOn (l rx : Nat) (nak : Bool) (f : TxFrame) : Out :=
  .frame l f.mgmt f.src f.dest f.seq f.base f.items rx nak (frameCrc f.mgmt f.src f.dest f.seq f.base f.items rx nak)

/-- Frames in order: a NAK that is due goes with the first. -/
def framesOut (l : Nat) (x : LinkSt) (fs : List TxFrame) : List Out :=
  fs.mapIdx (fun i f => frameOn l x.rxSeq (decide (i = 0) && x.nakDue) f)

theorem framesOut_cons (l : Nat) (x : LinkSt) (f : TxFrame) (fs : List TxFrame) :
    framesOut l x (f :: fs) = frameOn l x.rxSeq x.nakDue f :: framesOut l { x with nakDue := false } fs := by
  rw [framesOut, List.mapIdx_cons, framesOut]
  simp

/-! #### Frames driven on one link -/

/-- Of the links only `l` has changed, and beyond them registers and what was sent. -/
structure AtLink (l : Nat) (s t : State) : Prop where
  frame : t = { s with regs := t.regs, outs := t.outs, lnk := { s.lnk with links := t.lnk.links } }
  others : ∀ k, k ≠ l → link t k = link s k

theorem AtLink.refl (l : Nat) (s : State) : AtLink l s s := ⟨rfl, fun _ _ => rfl⟩

theorem AtLink.trans {l : Nat} {s t u : State} (h : AtLink l s t) (h' : AtLink l t u) : AtLink l s u :=
  ⟨by rw [h'.frame, h.frame], fun k hk => (h'.others k hk).trans (h.others k hk)⟩

theorem atLink_onLink (s : State) (l : Nat) (g : LinkSt → LinkSt) : AtLink l s (onLink s l g) :=
  ⟨rfl, fun _ hk => link_onLink_other s l g hk⟩

theorem atLink_emit (s : State) (l : Nat) (o : Out) : AtLink l s (emit s o) := ⟨rfl, fun _ _ => rfl⟩

theorem atLink_setF (s : State) (l : Nat) (f : Fld) (v : Nat) : AtLink l s (setF s f v) := ⟨rfl, fun _ _ => rfl⟩

/-- The frames have gone out on link `l` in order. -/
structure FramesDriven (l : Nat) (fs : List TxFrame) (s t : State) : Prop where
  atLink : AtLink l s t
  regs : t.regs = s.regs
  outs : t.outs = s.outs ++ framesOut l (link s l) fs
  link : ∃ due, link t l = { link s l with nakDue := due }

theorem framesDriven_foldl (l : Nat) (fs : List TxFrame) (s : State) :
    FramesDriven l fs s (fs.foldl (fun t f => driveFrame t l f) s) := by
  induction fs generalizing s with
  | nil => exact ⟨.refl l s, rfl, (List.append_nil _).symm, (link s l).nakDue, rfl⟩
  | cons f fs ih =>
    obtain ⟨u, hu⟩ : ∃ u, u = emit s (frameOn l (link s l).rxSeq (link s l).nakDue f) := ⟨_, rfl⟩
    have hdrive : driveFrame s l f = onLink u l (fun x => { x with nakDue := false }) := by rw [hu]; rfl
    have hkept : link u l = link s l := by rw [hu]; rfl
    obtain ⟨hat, hregs, houts, due, hlink⟩ := ih (driveFrame s l f)
    have hfirst : link (driveFrame s l f) l = { link s l with nakDue := false } := by
      rw [hdrive, link_onLink_same, hkept]
    rw [hfirst] at houts hlink
    refine ⟨?_, ?_, ?_, due, hlink⟩
    · refine AtLink.trans ?_ hat
      rw [hdrive]
      refine AtLink.trans ?_ (atLink_onLink u l _)
      rw [hu]
      exact atLink_emit s l _
    · refine hregs.trans ?_
      rw [hdrive, hu]
      rfl
    · rw [List.foldl_cons, houts, framesOut_cons, hdrive, hu]
      exact List.append_assoc _ [_] _

/-! #### A replay -/

/-- The frames kept have gone out again, and the replay is counted. -/
def replayedOnce (s : State) (l : Nat) : State :=
  onLink (bumpF ((link s l).replay.foldl (fun t f => driveFrame t l f) s) (F.LNK_LINK_ERR_REPLAYS l) (link s l).replay.length) l
    (fun x => { x with replays := x.replays + 1 })

theorem replayFrames_nil {s : State} {l : Nat} (h : (link s l).replay = []) : replayFrames s l = s := if_pos h

theorem replayFrames_cons {s : State} {l : Nat} (h : (link s l).replay ≠ []) : replayFrames s l =
    if 8 ≤ (link (replayedOnce s l) l).replays then retrainLink (replayedOnce s l) l else replayedOnce s l := if_neg h

/-- The frames kept are sent on link `l` and stay kept. -/
structure Replayed (l : Nat) (s t : State) : Prop where
  atLink : AtLink l s t
  fields : FieldsBut s t [F.LNK_LINK_ERR_REPLAYS l]
  outs : t.outs = s.outs ++ framesOut l (link s l) (link s l).replay
  link : ∃ due, link t l = { link s l with nakDue := due, replays := (link s l).replays + 1 }

theorem replayed_replayedOnce (s : State) (l : Nat) : Replayed l s (replayedOnce s l) := by
  obtain ⟨u, hu⟩ : ∃ u, u = (link s l).replay.foldl (fun t f => driveFrame t l f) s := ⟨_, rfl⟩
  obtain ⟨hat, hregs, houts, due, hlink⟩ := hu ▸ framesDriven_foldl l (link s l).replay s
  have hbump : link (bumpF u (F.LNK_LINK_ERR_REPLAYS l) (link s l).replay.length) l = link u l := rfl
  have hsame : FieldsBut s u [F.LNK_LINK_ERR_REPLAYS l] := fun f _ => getF_congr hregs f
  rw [replayedOnce, ← hu]
  refine ⟨?_, fun f hf => ?_, houts, due, ?_⟩
  · exact (hat.trans (atLink_setF u l _ _)).trans (atLink_onLink _ l _)
  · exact hsame.setF (by simp) _ f hf
  · rw [link_onLink_same, hbump, hlink]

theorem errReplays_replayedOnce (s : State) (l : Nat) : getF (replayedOnce s l) (F.LNK_LINK_ERR_REPLAYS l) =
    saturate 16 (getF s (F.LNK_LINK_ERR_REPLAYS l) + (link s l).replay.length) := by
  have hregs := (framesDriven_foldl l (link s l).replay s).regs
  rw [replayedOnce, getF_onLink, getF_bumpF_same, getF_congr hregs]
  rfl

/-! #### ACK_SEQ and NAK (R425) -/

/-- The frames that an ACK_SEQ does not cover. -/
def uncovered (x : LinkSt) (ack : Nat) : List TxFrame := x.replay.filter (fun f => !seqCovered f.seq ack)

/-- The frames that an ACK_SEQ covers have left the replay buffer of link `l`. -/
def acknowledged (s : State) (l ack : Nat) : State :=
  if (uncovered (link s l) ack).length < (link s l).replay.length then
    onLink s l (fun x => { x with replay := uncovered (link s l) ack, replays := 0 })
  else s

theorem takeAck_eq (s : State) (l ack : Nat) (nak : Bool) :
    takeAck s l ack nak = if nak then replayFrames (acknowledged s l ack) l else acknowledged s l ack := rfl

theorem acknowledged_acts (s : State) (l ack : Nat) : AtLink l s (acknowledged s l ack) ∧
    (acknowledged s l ack).regs = s.regs ∧ (acknowledged s l ack).outs = s.outs ∧
    ∃ n ≤ (link s l).replays, link (acknowledged s l ack) l = { link s l with replay := uncovered (link s l) ack, replays := n } := by
  unfold acknowledged
  split
  next => exact ⟨atLink_onLink s l _, rfl, rfl, 0, Nat.zero_le _, link_onLink_same s l _⟩
  next h =>
    have hall : uncovered (link s l) ack = (link s l).replay :=
      List.filter_eq_self.2 (List.length_filter_eq_length_iff.1 (Nat.le_antisymm (List.length_filter_le _ _) (Nat.not_lt.1 h)))
    exact ⟨.refl l s, rfl, rfl, (link s l).replays, Nat.le_refl _, by rw [hall]⟩

/-- An acknowledgement has been taken on link `l` without a retraining. -/
structure AckTaken (l ack : Nat) (nak : Bool) (s t : State) : Prop where
  atLink : AtLink l s t
  fields : FieldsBut s t [F.LNK_LINK_ERR_REPLAYS l]
  outs : t.outs = s.outs ++ if nak then framesOut l (link s l) (uncovered (link s l) ack) else []
  link : ∃ due n, link t l = { link s l with replay := uncovered (link s l) ack, nakDue := due, replays := n }

theorem ackTaken_takeAck (s : State) (l ack : Nat) {nak : Bool} (h : nak = true → (link s l).replays < 7) :
    AckTaken l ack nak s (takeAck s l ack nak) := by
  obtain ⟨u, hu⟩ : ∃ u, u = acknowledged s l ack := ⟨_, rfl⟩
  obtain ⟨hat, hregs, houts, n, hn, hlink⟩ := hu ▸ acknowledged_acts s l ack
  have hsame : FieldsBut s u [F.LNK_LINK_ERR_REPLAYS l] := fun f _ => getF_congr hregs f
  rw [takeAck_eq, ← hu]
  cases nak with
  | false => exact ⟨hat, hsame, houts.trans (List.append_nil _).symm, (link s l).nakDue, n, hlink⟩
  | true =>
    rw [if_pos rfl]
    have hkept : (link u l).replay = uncovered (link s l) ack := by rw [hlink]
    by_cases hnone : (link u l).replay = []
    · have hempty : uncovered (link s l) ack = [] := hkept.symm.trans hnone
      rw [replayFrames_nil hnone]
      refine ⟨hat, hsame, ?_, (link s l).nakDue, n, hlink⟩
      rw [houts, hempty]
      exact (List.append_nil _).symm
    · obtain ⟨hat', hfields, houts', due, hlink'⟩ := replayed_replayedOnce u l
      have hfew : ¬ 8 ≤ (link (replayedOnce u l) l).replays := by
        have := h rfl
        rw [hlink', hlink]
        show ¬ 8 ≤ n + 1
        omega
      rw [replayFrames_cons hnone, if_neg hfew]
      refine ⟨hat.trans hat', hsame.trans hfields, ?_, due, n + 1, ?_⟩
      · rw [houts', houts, hkept, hlink]
        rfl
      · rw [hlink', hlink]

end Sys2Proof.Machine
end

section
/-! ### Control blocks of one link -/

namespace Sys2Proof.Machine

/-! #### A block that is noted -/

section
variable (s : State) (l ct : Nat) (b : CtlBlock)

theorem getF_noted {f : Fld} (hf : f.key ≠ (F.LNK_LINK_STATUS_DOZE_RX l).key) : getF (noted s l ct b) f = getF s f :=
  getF_setB_other _ hf false

theorem linkStage_noted (k : Nat) : linkStage (noted s l ct b) k = linkStage s k := by
  refine getF_noted s l ct b ?_
  simp only [Fld.key, F.LNK_LINK_STATUS_STAGE, F.LNK_LINK_STATUS_DOZE_RX]
  omega

theorem linkActive_noted (k : Nat) : linkActive (noted s l ct b) k = linkActive s k := by
  rw [linkActive, linkStage_noted]
  rfl

theorem link_noted : link (noted s l ct b) l =
    { link s l with seen := (link s l).seen.set none (ct * 16 + b.origin.toNat) (some b.cseq.toNat), idle := 0 } :=
  link_onLink_same s l
    (fun x => { x with seen := x.seen.set none (ct * 16 + b.origin.toNat) (some b.cseq.toNat), idle := 0 })

end

section
variable {s : State} {l : Fin 16} {b : CtlBlock}

/-- What a command does with a block that is heard. -/
theorem answers_of_heard {c : Instr} {ct : Nat} {k : State → State} {P : State → Prop} (h : Heard s l ct b)
    (hexec : exec c s = .next (onFirst s l ct b k)) (hP : P (k (noted s l ct b))) : Answers c s P :=
  ⟨_, hexec, by rwa [onFirst_heard h]⟩

/-! #### ACK and the replay timeout -/

theorem ackBlock_acts (h : Heard s l 3 b) (hact : linkActive s l = true) (hfew : (link s l).replays < 7) :
    Answers (.ackBlock l b) s (fun t =>
      (link t l).replay = uncovered (link s l) (bitsOf b.payload.toNat 30 12) ∧
      t.outs = s.outs ++ if b.payload.toNat.testBit 29 then
        framesOut l (link s l) (uncovered (link s l) (bitsOf b.payload.toNat 30 12)) else []) := by
  refine answers_of_heard h rfl ?_
  obtain ⟨-, -, houts, due, n, hlink⟩ := ackTaken_takeAck (noted s l 3 b) l (bitsOf b.payload.toNat 30 12)
    (nak := b.payload.toNat.testBit 29) (fun _ => by rw [link_noted]; exact hfew)
  rw [link_noted] at houts hlink
  rw [if_pos ((linkActive_noted s l 3 b l).trans hact)]
  exact ⟨by rw [hlink]; rfl, houts⟩

theorem errReplays_ne_leaving (l : Fin 16) : (F.LNK_LINK_ERR_REPLAYS l).key ≠ (F.LNK_LINK_STATUS_STAGE l).key ∧
    ∀ g ∈ leavingFields l, (F.LNK_LINK_ERR_REPLAYS l).key ≠ g.key := by
  revert l
  decide

theorem replayTimeout_acts (hact : linkActive s l = true) (hsome : (link s l).replay ≠ []) :
    Answers (.linkReplayTimeout l) s (fun t => t.outs = s.outs ++ framesOut l (link s l) (link s l).replay ∧
      (link t l).replay = (link s l).replay ∧ linkStage t l = (if (link s l).replays < 7 then 7 else 2) ∧
      getF t (F.LNK_LINK_ERR_REPLAYS l) = saturate 16 (getF s (F.LNK_LINK_ERR_REPLAYS l) + (link s l).replay.length)) := by
  obtain ⟨hat, hfields, houts, due, hlink⟩ := replayed_replayedOnce s l
  have herr := errReplays_replayedOnce s l
  have hstage : linkStage (replayedOnce s l) l = 7 := by
    have hapart : (F.LNK_LINK_STATUS_STAGE l).key ≠ (F.LNK_LINK_ERR_REPLAYS l).key := by
      simp only [Fld.key, F.LNK_LINK_STATUS_STAGE, F.LNK_LINK_ERR_REPLAYS]
      omega
    exact (hfields _ (by simpa using hapart)).trans (by simpa [linkActive, linkStage] using hact)
  refine ⟨replayFrames s l, congrArg Host.Outcome.next (if_pos hact), ?_⟩
  rw [replayFrames_cons hsome]
  have hcount : (link (replayedOnce s l) l).replays = (link s l).replays + 1 := by rw [hlink]
  by_cases hfew : (link s l).replays < 7
  · rw [if_pos hfew, if_neg (by omega)]
    exact ⟨houts, by rw [hlink], hstage, herr⟩
  · rw [if_neg hfew, if_pos (by omega)]
    obtain ⟨hretrained, houts', hlink'⟩ := retrainLink_acts (s := replayedOnce s l) (l := l) (by omega)
    obtain ⟨hne, hleaving⟩ := errReplays_ne_leaving l
    refine ⟨houts'.trans houts, by rw [hlink', hlink], hretrained, ?_⟩
    rw [retrainLink_eq (by omega), ← herr, getF_onLink]
    exact getF_leaveActive (replayedOnce s l) 2 false hne hleaving

/-! #### EXCHANGE, MEASURE and ECHO -/

/-- A part of the far end's description is kept. -/
def exchanged (s : State) (l part p : Nat) : State := onLink s l (fun x => { x with exch := x.exch.set none part (some p) })

theorem exchangeBlock_acts {part : Fin 4} (h : Heard s l (0x10 + part.val) b) : Answers (.exchangeBlock l part b) s (fun t =>
    (link t l).exch.get none part = some b.payload.toNat ∧ t.outs = s.outs ∧
    (part = 0 → getF t (F.LNK_LINK_STATUS_FAR_POS l) = bitsOf b.payload.toNat 12 4) ∧
    (part = 1 → getF t (F.LNK_LINK_FAR_SERIAL l) = b.payload.toNat % 2 ^ 32)) := by
  refine answers_of_heard h rfl ?_
  have hkept : (link (exchanged (noted s l (0x10 + part.val) b) l part b.payload.toNat) l).exch.get none part =
      some b.payload.toNat := by
    rw [exchanged, link_onLink_same]
    exact SMap.get_set_same none (link (noted s l (0x10 + part.val) b) l).exch part (some b.payload.toNat)
  by_cases hpos : part = 0
  · subst hpos
    refine ⟨hkept, rfl, fun _ => ?_, fun h => absurd h (by decide)⟩
    exact (getF_setF_same _ (F.LNK_LINK_STATUS_FAR_POS l) _).trans (Nat.mod_mod _ _)
  · have hpart : ¬ part.val = 0 := fun h0 => hpos (Fin.ext h0)
    by_cases hserial : part = 1
    · subst hserial
      exact ⟨hkept, rfl, fun h => absurd h (by decide), fun _ => getF_setF_same _ (F.LNK_LINK_FAR_SERIAL l) _⟩
    · have hpart' : ¬ part.val = 1 := fun h1 => hserial (Fin.ext h1)
      rw [if_neg hpart, if_neg hpart']
      exact ⟨hkept, rfl, fun h => absurd h hpos, fun h => absurd h hserial⟩

theorem position_noted (s : State) (l ct : Nat) (b : CtlBlock) : position (noted s l ct b) = position s :=
  (linksMoved_noted s l ct b).position

theorem measureBlock_acts (h : Heard s l 0x14 b) : Answers (.measureBlock l b) s (fun t =>
    t.outs = s.outs ++ [blockOn l 0x15 (position s) s.lnk.cseq (b.payload.toNat % 2 ^ 21)] ∧
      t.lnk.cseq = (s.lnk.cseq + 1) % 16) := by
  refine answers_of_heard h rfl ⟨?_, rfl⟩
  rw [← position_noted s l 0x14 b]
  rfl

theorem echoBlock_acts (h : Heard s l 0x15 b) (hstage : linkStage s l = 6) : Answers (.echoBlock l b) s (fun t =>
    (link t l).roundTrip = some (max (ceilDiv ((s.lnk.periods + 2 ^ 21 - b.payload.toNat % 2 ^ 21) % 2 ^ 21 *
      getF s F.CLK_SCLK_D) 256) ((link s l).roundTrip.getD 0))) := by
  refine answers_of_heard h rfl ?_
  have hperiod : getF (noted s l 0x15 b) F.CLK_SCLK_D = getF s F.CLK_SCLK_D := (linksMoved_noted s l 0x15 b).field
  rw [if_pos ((linkStage_noted s l 0x15 b l).trans hstage), link_onLink_same, link_noted, hperiod]
  rfl

/-! #### SPARE_SWITCH (R429, R430) -/

/-- The slots of a lane have moved onto the spare. -/
def spareTaken (s : State) (l k : Nat) : State :=
  setB (setF (setB s (F.LNK_LINK_STATUS_SPARE_IN_USE l) true) (F.LNK_LINK_STATUS_FAILED_LANE l) k) F.LNK_STATUS_SPARE_USED true

theorem useSpare_eq (s : State) (l k skew : Nat) : useSpare s l k skew =
    if (link s l).latency.getD (link s l).measured + 4 < (link s l).measured + skew then
      breachLink (leaveActive (spareTaken s l k) l 6 false) l
    else spareTaken s l k := rfl

/-- What SPARE_SWITCH shows stands where neither a departure from Active nor a breach moves it. -/
theorem spare_ne_leaving (l : Fin 16) : ∀ f ∈ [F.LNK_LINK_STATUS_SPARE_IN_USE l, F.LNK_LINK_STATUS_FAILED_LANE l,
    F.LNK_STATUS_SPARE_USED], f.key ≠ F.LNK_STATUS_DELAY_BREACH.key ∧ f.key ≠ (F.LNK_LINK_STATUS_STAGE l).key ∧
      ∀ g ∈ leavingFields l, f.key ≠ g.key := by
  revert l
  decide

theorem spareTaken_shows (s : State) (l : Fin 16) (k : Nat) :
    getB (spareTaken s l k) (F.LNK_LINK_STATUS_SPARE_IN_USE l) = true ∧
      getF (spareTaken s l k) (F.LNK_LINK_STATUS_FAILED_LANE l) = k % 16 ∧
      getB (spareTaken s l k) F.LNK_STATUS_SPARE_USED = true ∧ linkStage (spareTaken s l k) l = linkStage s l := by
  have hapart : ∀ l : Fin 16, (F.LNK_LINK_STATUS_SPARE_IN_USE l).key ≠ F.LNK_STATUS_SPARE_USED.key ∧
      (F.LNK_LINK_STATUS_SPARE_IN_USE l).key ≠ (F.LNK_LINK_STATUS_FAILED_LANE l).key ∧
      (F.LNK_LINK_STATUS_FAILED_LANE l).key ≠ F.LNK_STATUS_SPARE_USED.key ∧
      (F.LNK_LINK_STATUS_STAGE l).key ≠ F.LNK_STATUS_SPARE_USED.key ∧
      (F.LNK_LINK_STATUS_STAGE l).key ≠ (F.LNK_LINK_STATUS_FAILED_LANE l).key ∧
      (F.LNK_LINK_STATUS_STAGE l).key ≠ (F.LNK_LINK_STATUS_SPARE_IN_USE l).key := by decide
  obtain ⟨huse, huse', hlane, hstage, hstage', hstage''⟩ := hapart l
  refine ⟨?_, ?_, getB_setB_same _ F.LNK_STATUS_SPARE_USED true rfl, ?_⟩
  · rw [spareTaken, getB_setB_other _ huse, getB_setF_other _ huse']
    exact getB_setB_same s (F.LNK_LINK_STATUS_SPARE_IN_USE l) true rfl
  · rw [spareTaken, getF_setB_other _ hlane, getF_setF_same]
    rfl
  · rw [linkStage, spareTaken, getF_setB_other _ hstage, getF_setF_other _ hstage', getF_setB_other _ hstage'']
    rfl

/-- The spare takes a lane over, or needs more than the margin and leaves the link in Measure. -/
theorem useSpare_shows (s : State) (l : Fin 16) (k skew : Nat) (hact : linkStage s l = 7) :
    getB (useSpare s l k skew) (F.LNK_LINK_STATUS_SPARE_IN_USE l) = true ∧
      getF (useSpare s l k skew) (F.LNK_LINK_STATUS_FAILED_LANE l) = k % 16 ∧
      getB (useSpare s l k skew) F.LNK_STATUS_SPARE_USED = true ∧
      if (link s l).latency.getD (link s l).measured + 4 < (link s l).measured + skew then
        getB (useSpare s l k skew) F.LNK_STATUS_DELAY_BREACH = true ∧ linkStage (useSpare s l k skew) l = 6
      else linkStage (useSpare s l k skew) l = 7 := by
  obtain ⟨huse, hlane, hused, hstage⟩ := spareTaken_shows s l k
  rw [useSpare_eq]
  split
  · have hkept : ∀ f ∈ [F.LNK_LINK_STATUS_SPARE_IN_USE l, F.LNK_LINK_STATUS_FAILED_LANE l, F.LNK_STATUS_SPARE_USED],
        getF (breachLink (leaveActive (spareTaken s l k) l 6 false) l) f = getF (spareTaken s l k) f := fun f hf => by
      obtain ⟨hbreach, hstage, hleaving⟩ := spare_ne_leaving l f hf
      rw [breachLink, getF_onLink, getF_setB_other _ hbreach, getF_leaveActive _ 6 false hstage hleaving]
    have hbreach : (F.LNK_LINK_STATUS_STAGE l).key ≠ F.LNK_STATUS_DELAY_BREACH.key := by
      simp only [Fld.key, F.LNK_LINK_STATUS_STAGE, F.LNK_STATUS_DELAY_BREACH]
      omega
    refine ⟨?_, ?_, ?_, ?_, ?_⟩
    · rw [getB, hkept _ (by simp)]
      exact huse
    · rw [hkept _ (by simp), hlane]
    · rw [getB, hkept _ (by simp)]
      exact hused
    · rw [breachLink, getB, getF_onLink]
      exact getB_setB_same (leaveActive (spareTaken s l k) l 6 false) F.LNK_STATUS_DELAY_BREACH true rfl
    · rw [linkStage, breachLink, getF_onLink, getF_setB_other _ hbreach]
      exact linkStage_leaveActive (spareTaken s l k) l 6 false
  · exact ⟨huse, hlane, hused, hstage.trans hact⟩

theorem spareFree_noted (s : State) (l : Fin 16) (ct : Nat) (b : CtlBlock) : spareFree (noted s l ct b) l = spareFree s l := by
  have hapart : ∀ l : Fin 16, (F.LNK_LINK_CFG_SPARE l).key ≠ (F.LNK_LINK_STATUS_DOZE_RX l).key ∧
      (F.LNK_LINK_STATUS_SPARE_IN_USE l).key ≠ (F.LNK_LINK_STATUS_DOZE_RX l).key := by decide
  rw [spareFree, spareFree, getB, getB, getF_noted s l ct b (hapart l).1, getF_noted s l ct b (hapart l).2, ← getB, ← getB]

theorem stage_of_active (hact : linkActive s l = true) : linkStage s l = 7 := by simpa [linkActive] using hact

theorem spareSwitchBlock_acts (skew : Nat) (h : Heard s l 0x16 b) (hact : linkActive s l = true) (hfree : spareFree s l = true) :
    Answers (.spareSwitchBlock l ⟨b, skew⟩) s (fun t => getB t (F.LNK_LINK_STATUS_SPARE_IN_USE l) = true ∧
      getF t (F.LNK_LINK_STATUS_FAILED_LANE l) = b.payload.toNat % 16 ∧ getB t F.LNK_STATUS_SPARE_USED = true ∧
      if (link s l).latency.getD (link s l).measured + 4 < (link s l).measured + skew then
        getB t F.LNK_STATUS_DELAY_BREACH = true ∧ linkStage t l = 6 else linkStage t l = 7) := by
  refine answers_of_heard h rfl ?_
  have hshows := useSpare_shows (noted s l 0x16 b) l (b.payload.toNat % 16) skew
    ((linkStage_noted s l 0x16 b l).trans (stage_of_active hact))
  rw [link_noted, Nat.mod_mod] at hshows
  rw [if_pos (by rw [linkActive_noted, spareFree_noted, hact, hfree]; rfl)]
  exact hshows

/-! #### DEEP_REQ and DEEP_ACK (R434) -/

theorem deep_ne_stage (l : Nat) : (F.LNK_LINK_STATUS_STAGE l).key ≠ (F.LNK_LINK_STATUS_DEEP l).key := by
  simp only [Fld.key, F.LNK_LINK_STATUS_STAGE, F.LNK_LINK_STATUS_DEEP]
  omega

theorem enterDeep_shows (s : State) (l : Fin 16) : linkStage (enterDeep s l) l = 0 ∧
    getB (enterDeep s l) (F.LNK_LINK_STATUS_DEEP l) = true ∧ (enterDeep s l).outs = s.outs ∧
    (link (enterDeep s l) l).deepWait = false := by
  refine ⟨?_, ?_, outs_leaveActive s l 0 true, ?_⟩
  · rw [linkStage, enterDeep, getF_onLink, getF_setB_other _ (deep_ne_stage l)]
    exact linkStage_leaveActive s l 0 true
  · rw [getB, enterDeep, getF_onLink]
    exact getB_setB_same (leaveActive s l 0 true) (F.LNK_LINK_STATUS_DEEP l) true rfl
  · rw [enterDeep, link_onLink_same]

theorem atRest_noted (s : State) (l : Fin 16) (ct : Nat) (b : CtlBlock) : atRest (noted s l ct b) = !executing s := by
  rw [atRest, (linksMoved_noted s l ct b).executing]

theorem deepReqBlock_acts (h : Heard s l 0x17 b) (hc : Carries s l) (hrest : executing s = false) :
    Answers (.deepReqBlock l b) s (fun t => t.outs.getLast? = some (blockOn l 0x18 (position s) s.lnk.cseq 0) ∧
      linkStage t l = 0 ∧ getB t (F.LNK_LINK_STATUS_DEEP l) = true) := by
  refine answers_of_heard h rfl ?_
  have hcarries := (linksMoved_noted s l 0x17 b).carries l hc
  have hlast := getLast_sendBlock hcarries 0x18 0
  rw [position_noted] at hlast
  obtain ⟨hstage, hdeep, houts, -⟩ := enterDeep_shows (sendBlock (noted s l 0x17 b) [l.val] 0x18 0) l
  rw [if_pos (by rw [atRest_noted, linkActive_noted, hrest, hc.1]; rfl)]
  exact ⟨by rw [houts]; exact hlast, hstage, hdeep⟩

theorem deepReqBlock_ignored (h : Heard s l 0x17 b) (hexec : executing s = true) :
    Answers (.deepReqBlock l b) s (fun t => t.outs = s.outs ∧ linkStage t l = linkStage s l) := by
  refine answers_of_heard h rfl ?_
  rw [if_neg (by rw [atRest_noted, hexec]; simp)]
  exact ⟨rfl, linkStage_noted s l 0x17 b l⟩

theorem deepAckBlock_acts (h : Heard s l 0x18 b) (hwait : (link s l).deepWait = true) :
    Answers (.deepAckBlock l b) s (fun t => (link t l).deepWait = false ∧
      if executing s then getB t (F.LNK_LINK_CTRL_DEEP l) = false ∧ linkStage t l = linkStage s l
      else linkStage t l = 0 ∧ getB t (F.LNK_LINK_STATUS_DEEP l) = true) := by
  refine answers_of_heard h rfl ?_
  have hwait' : (link (noted s l 0x18 b) l).deepWait = true := by
    rw [link_noted]
    exact hwait
  cases hexec : executing s with
  | true =>
    have hapart : (F.LNK_LINK_STATUS_STAGE l).key ≠ (F.LNK_LINK_CTRL_DEEP l).key := by
      simp only [Fld.key, F.LNK_LINK_STATUS_STAGE, F.LNK_LINK_CTRL_DEEP]
      omega
    rw [if_neg (by rw [atRest_noted, hexec]; simp), dropDeep, if_pos hwait', if_pos rfl, link_onLink_same]
    refine ⟨rfl, ?_, ?_⟩
    · rw [getB, getF_onLink]
      exact getB_setB_same (noted s l 0x18 b) (F.LNK_LINK_CTRL_DEEP l) false rfl
    · rw [linkStage, getF_onLink, getF_setB_other _ hapart]
      exact linkStage_noted s l 0x18 b l
  | false =>
    obtain ⟨hstage, hdeep, -, hdone⟩ := enterDeep_shows (noted s l 0x18 b) l
    rw [if_pos (by rw [atRest_noted, hexec, hwait']; rfl), if_neg (by simp)]
    exact ⟨hdone, hstage, hdeep⟩

end

end Sys2Proof.Machine
end

section
/-! ### Frames that arrive (R416, R417, R422 to R425, R432) -/

namespace Sys2Proof.Machine

/-! #### What is done with a frame -/

/-- A frame has begun to arrive on link `l`. -/
def frameHeard (s : State) (l : Nat) : State :=
  onLink (setB s (F.LNK_LINK_STATUS_DOZE_RX l) false) l (fun x => { x with idle := 0 })

/-- What a frame acknowledges has been taken, once its eye held. -/
def frameAcked (s : State) (l : Nat) (f : LinkFrame) : State :=
  takeAck (onLink (frameHeard s l) l (fun x => { x with frozen := false })) l f.ackSeq.toNat f.nak

/-- A frame in sequence has been accepted, and its contents are still to be taken. -/
def frameAccepted (s : State) (l : Nat) (f : LinkFrame) : State :=
  onLink (frameAcked s l f) l (fun x => { x with rxSeq := f.seq.toNat, nak := false, nakDue := false })

theorem linksMoved_frameHeard (s : State) (l : Nat) : LinksMoved s (frameHeard s l) :=
  (linksMoved_dozeRx s l false).trans (linksMoved_onLink _ l _)

theorem link_frameHeard (s : State) (l : Nat) : link (frameHeard s l) l = { link s l with idle := 0 } :=
  link_onLink_same _ l _

section
variable {s : State} {l : Fin 16} {f : LinkFrame} {mgmt : Bool} (k : State → State)

theorem frameIn_corrupt (hact : linkActive s l = true) (hbad : frameOk mgmt f = false) :
    frameIn_ s l mgmt f k = askReplay (bumpF (frameHeard s l) (F.LNK_LINK_ERR_CRC_FAIL l) 1) l := by
  rw [frameIn_, if_neg (by simp [hact])]
  exact if_pos (by rw [hbad]; rfl)

/-- The eye of a frame held, or adaptation was not frozen. -/
abbrev EyeHeld (s : State) (l : Nat) (f : LinkFrame) : Prop := (link s l).frozen = false ∨ getF s F.LNK_EYE_MIN ≤ f.eye.toNat

theorem narrow_frameHeard (s : State) (l : Nat) (f : LinkFrame) :
    ((link (frameHeard s l) l).frozen && decide (f.eye.toNat < getF (frameHeard s l) F.LNK_EYE_MIN)) = true ↔
      ¬ EyeHeld s l f := by
  rw [link_frameHeard, (linksMoved_frameHeard s l).field (f := F.LNK_EYE_MIN)]
  simp [EyeHeld]

theorem frameIn_narrow (hact : linkActive s l = true) (hok : frameOk mgmt f = true) (heye : ¬ EyeHeld s l f) :
    frameIn_ s l mgmt f k = retrainLink (sendNak (frameHeard s l) l) l := by
  rw [frameIn_, if_neg (by simp [hact])]
  refine (if_neg (by rw [hok]; simp)).trans (if_pos ?_)
  exact (narrow_frameHeard s l f).2 heye

theorem rxSeq_frameAcked (hfew : f.nak = true → (link s l).replays < 7) :
    (link (frameAcked s l f) l).rxSeq = (link s l).rxSeq := by
  obtain ⟨-, -, -, due, n, hlink⟩ := ackTaken_takeAck (onLink (frameHeard s l) l (fun x => { x with frozen := false })) l
    f.ackSeq.toNat (nak := f.nak) (fun h => by rw [link_onLink_same, link_frameHeard]; exact hfew h)
  rw [frameAcked, hlink, link_onLink_same, link_frameHeard]

theorem frameIn_next (hact : linkActive s l = true) (hok : frameOk mgmt f = true) (heye : EyeHeld s l f)
    (hfew : f.nak = true → (link s l).replays < 7) (hseq : f.seq.toNat = ((link s l).rxSeq + 1) % 4096) :
    frameIn_ s l mgmt f k = ackFrame (k (frameAccepted s l f)) l := by
  rw [frameIn_, if_neg (by simp [hact])]
  refine (if_neg (by rw [hok]; simp)).trans ((if_neg ?_).trans (if_pos ?_))
  · exact fun h => (narrow_frameHeard s l f).1 h heye
  · exact hseq.trans (by rw [← rxSeq_frameAcked hfew]; rfl)

/-! #### A frame that is not taken -/

theorem frameIn_corrupt_acts (hact : linkActive s l = true) (hbad : frameOk mgmt f = false) :
    let t := frameIn_ s l mgmt f k
    t.outs = s.outs ∧ (link t l).nak = true ∧ (link t l).rxSeq = (link s l).rxSeq ∧
      getF t (F.LNK_LINK_ERR_CRC_FAIL l) = saturate 16 (getF s (F.LNK_LINK_ERR_CRC_FAIL l) + 1) ∧ t.dies = s.dies := by
  have hapart : ∀ l : Fin 16, (F.LNK_LINK_ERR_CRC_FAIL l).key ≠ (F.LNK_LINK_STATUS_DOZE_RX l).key := by decide
  obtain ⟨u, hu⟩ : ∃ u, u = bumpF (frameHeard s l) (F.LNK_LINK_ERR_CRC_FAIL l) 1 := ⟨_, rfl⟩
  have hlink : link u l = { link s l with idle := 0 } := by
    rw [hu, ← link_frameHeard]
    rfl
  have hcount : getF u (F.LNK_LINK_ERR_CRC_FAIL l) = saturate 16 (getF s (F.LNK_LINK_ERR_CRC_FAIL l) + 1) := by
    have hheard : getF (frameHeard s l) (F.LNK_LINK_ERR_CRC_FAIL l) = getF s (F.LNK_LINK_ERR_CRC_FAIL l) :=
      getF_setB_other s (hapart l) false
    rw [hu, getF_bumpF_same, hheard]
    rfl
  have hsame : u.outs = s.outs ∧ u.dies = s.dies := by rw [hu]; exact ⟨rfl, rfl⟩
  dsimp only
  rw [frameIn_corrupt k hact hbad, ← hu, askReplay]
  split
  next hnak => exact ⟨hsame.1, hnak, by rw [hlink], hcount, hsame.2⟩
  next =>
    rw [link_onLink_same, hlink]
    exact ⟨hsame.1, rfl, rfl, hcount, hsame.2⟩

theorem frameIn_narrow_acts (hc : Carries s l) (hok : frameOk mgmt f = true) (heye : ¬ EyeHeld s l f) :
    linkStage (frameIn_ s l mgmt f k) l = 2 ∧ (link (frameIn_ s l mgmt f k) l).rxSeq = (link s l).rxSeq := by
  obtain ⟨u, hu⟩ : ∃ u, u = onLink (frameHeard s l) l (fun x => { x with nakDue := false }) := ⟨_, rfl⟩
  obtain ⟨n, hn⟩ : ∃ n, sendNak (frameHeard s l) l = sendBlock u [l.val] 0x03 n := ⟨_, by rw [sendNak, hu]⟩
  have hmoved : LinksMoved s (sendNak (frameHeard s l) l) := by
    rw [hn, hu]
    exact ((linksMoved_frameHeard s l).trans (linksMoved_onLink _ l _)).trans (linksMoved_sendBlock _ _ _ _)
  have hactive := stage_of_active (hmoved.carries l hc).1
  have hsent : (link (sendNak (frameHeard s l) l) l).rxSeq = (link s l).rxSeq := by
    rw [hn, (transmitted_sendBlock u [l.val] 3 n).rxSeq l, hu, link_onLink_same, link_frameHeard]
  obtain ⟨hstage, -, hlink⟩ := retrainLink_acts (s := sendNak (frameHeard s l) l) (l := l) (by omega)
  rw [frameIn_narrow k hc.1 hok heye]
  exact ⟨hstage, by rw [hlink]; exact hsent⟩

/-! #### A frame that is accepted -/

/-- A link that has accepted frame `n` can acknowledge it, and the device is where it was. -/
structure Accepting (s : State) (l n : Nat) (t : State) : Prop where
  carries : Carries t l
  rxSeq : (link t l).rxSeq = n
  nak : (link t l).nak = false
  position : position t = position s

/-- What is said of an accepted frame. -/
def Acknowledges (s : State) (l n : Nat) (t : State) : Prop :=
  (link t l).rxSeq = n ∧ (link t l).nak = false ∧ ∃ c, blockOn l 3 (position s) c (n * 2 ^ 30) ∈ t.outs

theorem Accepting.ackFrame {l n : Nat} {t : State} (h : Accepting s l n t) : Acknowledges s l n (ackFrame t l) := by
  obtain ⟨hcarries, hrx, hnak, hpos⟩ := h
  have hsent := transmitted_sendBlock t [l] 0x03 ((link t l).rxSeq * 2 ^ 30)
  refine ⟨(hsent.rxSeq l).trans hrx, (hsent.nak l).trans hnak, t.lnk.cseq, ?_⟩
  have hlast := getLast_sendBlock hcarries 0x03 ((link t l).rxSeq * 2 ^ 30)
  rw [hpos, hrx] at hlast
  rw [Machine.ackFrame, hrx]
  exact List.mem_of_getLast? hlast

theorem Accepting.transmitted {l n : Nat} {t u : State} (h : Accepting s l n t) (hsent : Transmitted t u)
    (hmoved : LinksMoved t u) : Accepting s l n u :=
  ⟨hmoved.carries l h.carries, (hsent.rxSeq l).trans h.rxSeq, (hsent.nak l).trans h.nak, hmoved.position.trans h.position⟩

theorem Accepting.onLink {l n : Nat} {t : State} (h : Accepting s l n t) (k : Nat) {g : LinkSt → LinkSt}
    (hrx : ∀ x, (g x).rxSeq = x.rxSeq) (hnak : ∀ x, (g x).nak = x.nak) : Accepting s l n (onLink t k g) := by
  have hlink : (link (Machine.onLink t k g) l).rxSeq = (link t l).rxSeq ∧ (link (Machine.onLink t k g) l).nak = (link t l).nak := by
    by_cases hk : l = k
    · rw [hk, link_onLink_same]
      exact ⟨hrx _, hnak _⟩
    · rw [link_onLink_other t k g hk]
      exact ⟨rfl, rfl⟩
  exact ⟨(linksMoved_onLink t k g).carries l h.carries, hlink.1.trans h.rxSeq, hlink.2.trans h.nak, h.position⟩

/-- What acceptance leaves of the rest of the device. -/
structure FrameTaken (s : State) (l : Nat) (f : LinkFrame) (t : State) : Prop where
  moved : LinksMoved s t
  accepting : Accepting s l f.seq.toNat t
  mgmtIn : t.lnk.mgmtIn = s.lnk.mgmtIn
  clk : t.clk = s.clk
  queue : ∀ k, (link t k).queue = (link s k).queue

theorem linksMoved_ackTaken {l ack : Nat} {nak : Bool} {s t : State} (h : AckTaken l ack nak s t) : LinksMoved s t := by
  obtain ⟨hat, hfields, houts, -⟩ := h
  have hframe := hat.frame
  have hkept : ∀ k, getF t (F.LNK_LINK_STATUS_STAGE k) = getF s (F.LNK_LINK_STATUS_STAGE k) ∧
      getF t (F.LNK_LINK_STATUS_DEEP k) = getF s (F.LNK_LINK_STATUS_DEEP k) := by
    refine fun k => ⟨hfields _ ?_, hfields _ ?_⟩ <;>
      simp only [List.forall_mem_cons, List.not_mem_nil, false_imp_iff, implies_true, and_true, Fld.key,
        F.LNK_LINK_STATUS_STAGE, F.LNK_LINK_STATUS_DEEP, F.LNK_LINK_ERR_REPLAYS] <;> omega
  refine ⟨by rw [hframe], by rw [hframe], by rw [hframe], by rw [hframe], by rw [hframe], by rw [hframe], by rw [hframe],
    fun f hf => hfields f ?_, houts ▸ List.prefix_append _ _, fun k hc => ?_⟩
  · simp only [List.forall_mem_cons, List.not_mem_nil, false_imp_iff, implies_true, and_true]
    simp only [BelowLinks, Fld.key, F.LNK_LINK_STATUS_DEEP, F.LNK_LINK_ERR_REPLAYS] at hf ⊢
    omega
  · obtain ⟨hstage, hdeep⟩ := hkept k
    unfold Carries linkActive linkStage getB at *
    rwa [hstage, hdeep]

theorem frameTaken_frameAccepted (hc : Carries s l) (hfew : f.nak = true → (link s l).replays < 7) :
    FrameTaken s l f (frameAccepted s l f) := by
  obtain ⟨u, hu⟩ : ∃ u, u = Machine.onLink (frameHeard s l) l (fun x => { x with frozen := false }) := ⟨_, rfl⟩
  obtain ⟨v, hv⟩ : ∃ v, v = frameAcked s l f := ⟨_, rfl⟩
  have hlink : link u l = { link s l with idle := 0, frozen := false } := by
    rw [hu, link_onLink_same, link_frameHeard]
  have hothers : ∀ k, k ≠ l.val → link u k = link s k := fun k hk => by
    rw [hu, link_onLink_other _ _ _ hk]
    exact link_onLink_other _ _ _ hk
  have htaken : AckTaken l f.ackSeq.toNat f.nak u v := by
    rw [hv, frameAcked, ← hu]
    exact ackTaken_takeAck u l _ (fun h => by rw [hlink]; exact hfew h)
  have hmoved : LinksMoved s v := by
    refine LinksMoved.trans ?_ (linksMoved_ackTaken htaken)
    rw [hu]
    exact (linksMoved_frameHeard s l).trans (linksMoved_onLink _ l _)
  have hframe : v.clk = s.clk ∧ v.lnk.mgmtIn = s.lnk.mgmtIn := by
    rw [htaken.atLink.frame, hu]
    exact ⟨rfl, rfl⟩
  have haccepted : frameAccepted s l f =
      Machine.onLink v l (fun x => { x with rxSeq := f.seq.toNat, nak := false, nakDue := false }) := by
    rw [hv]
    rfl
  rw [haccepted]
  refine ⟨hmoved.trans (linksMoved_onLink v l _), ⟨hmoved.carries l hc, ?_, ?_, hmoved.position⟩, hframe.2, hframe.1, fun k => ?_⟩
  · rw [link_onLink_same]
  · rw [link_onLink_same]
  · by_cases hk : k = l.val
    · obtain ⟨due, n, htook⟩ := htaken.link
      rw [hk, link_onLink_same, htook, hlink]
    · rw [link_onLink_other _ _ _ hk, htaken.atLink.others k hk, hothers k hk]

end

end Sys2Proof.Machine
end

section
/-! ### What an accepted frame brings -/

namespace Sys2Proof.Machine

/-! #### Management words (R416) -/

section
variable {s t : State} {l : Fin 16} {n : Nat} {f : LinkFrame}

theorem accepting_takeWords (h : Accepting s l n t) (f : LinkFrame) : Accepting s l n (takeWords t f) := by
  unfold takeWords
  dsimp only
  split
  · exact ⟨h.carries, h.rxSeq, h.nak, h.position⟩
  · split
    · exact h
    · exact (h.transmitted (transmitted_wakeLink t _) (linksMoved_wakeLink t _)).onLink _ (fun _ => rfl) (fun _ => rfl)

/-- The words of a frame for this position are kept. -/
def wordsKept (s : State) (f : LinkFrame) : List (Nat × List Nat) := s.lnk.mgmtIn ++ [(f.srcPos.toNat, f.items.map BitVec.toNat)]

theorem takeWords_here (t : State) (hdest : f.destPos.toNat = position t) :
    takeWords t f = onLnk t (fun x => { x with mgmtIn := wordsKept t f }) := if_pos hdest

/-! #### Entries of DATA frames (R422, R423) -/

/-- The fields that an entry for a die of this device may move. -/
abbrev entryFields : List Fld := F.LNK_UNMAPPED_RX :: F.FLT_STATUS_SCHED :: (List.range 8).map F.FLT_SF_BYTES

theorem fieldsBut_recordSF (s : State) (fs : List SFault) : FieldsBut s (recordSF s fs) entryFields := by
  have hset : FieldsBut s (setB { s with run := { s.run with sfaults := s.run.sfaults ++ fs } } F.FLT_STATUS_SCHED true)
      entryFields := FieldsBut.setF (fun _ _ => rfl) (by simp) _
  unfold recordSF
  split
  · exact .refl s _
  · dsimp only
    split
    · exact hset
    · refine List.foldlRecOn (motive := fun t => FieldsBut s t entryFields) _ _ hset fun t ht w hw => ht.setF ?_ _
      exact List.mem_cons_of_mem _ (List.mem_cons_of_mem _ (List.mem_map_of_mem hw))

theorem recordSF_lnk (s : State) (fs : List SFault) : (recordSF s fs).lnk = s.lnk := by
  unfold recordSF
  split
  · rfl
  · dsimp only
    split
    · rfl
    · exact List.foldlRecOn (motive := fun t : State => t.lnk = s.lnk) _ _ rfl fun t ht w _ => ht

/-- An entry that arrives leaves the links. -/
theorem deliverEntry_frame (s : State) (d : Fin 4) (c tag : Nat) (v : Bool) :
    FieldsBut s (deliverEntry s d c tag v) entryFields ∧ (deliverEntry s d c tag v).lnk = s.lnk := by
  have hraise : ∀ fs, FieldsBut s (raiseSF s d fs) entryFields ∧ (raiseSF s d fs).lnk = s.lnk := fun fs => by
    unfold raiseSF
    split
    · exact ⟨.refl s _, rfl⟩
    · have hvotes : (fs.foldl (fun t f => voteBad t d f.cycle) (recordSF s fs)).regs = (recordSF s fs).regs ∧
          (fs.foldl (fun t f => voteBad t d f.cycle) (recordSF s fs)).lnk = (recordSF s fs).lnk :=
        List.foldlRecOn (motive := fun t : State => t.regs = (recordSF s fs).regs ∧ t.lnk = (recordSF s fs).lnk) _ _ ⟨rfl, rfl⟩
          fun t ht f _ => ht
      exact ⟨fun f hf => (getF_congr hvotes.1 f).trans (fieldsBut_recordSF s fs f hf), hvotes.2.trans (recordSF_lnk s fs)⟩
  unfold deliverEntry
  dsimp only
  split
  · split
    · exact hraise _
    · exact ⟨fun _ _ => rfl, rfl⟩
  · exact ⟨(FieldsBut.refl s _).setF (by simp) _, rfl⟩

theorem link_ne_entry (l : Fin 16) : (∀ g ∈ entryFields, (F.LNK_LINK_STATUS_STAGE l).key ≠ g.key) ∧
    ∀ g ∈ entryFields, (F.LNK_LINK_STATUS_DEEP l).key ≠ g.key := by
  revert l
  decide

theorem accepting_deliverEntry (h : Accepting s l n t) (d : Fin 4) (c tag : Nat) (v : Bool) :
    Accepting s l n (deliverEntry t d c tag v) := by
  obtain ⟨hfields, hlnk⟩ := deliverEntry_frame t d c tag v
  obtain ⟨hstage, hdeep⟩ := link_ne_entry l
  obtain ⟨⟨hact, hawake⟩, hrx, hnak, hpos⟩ := h
  have hlink : link (deliverEntry t d c tag v) l = link t l := by rw [link, hlnk, link]
  refine ⟨⟨?_, ?_⟩, ?_, ?_, ?_⟩
  · rw [linkActive, linkStage, hfields _ hstage]
    exact hact
  · rw [hfields.bit hdeep]
    exact hawake
  · rw [hlink, hrx]
  · rw [hlink, hnak]
  · exact (hfields _ (by decide)).trans hpos

theorem accepting_queueEntry (h : Accepting s l n t) (src dest tag item : Nat) :
    Accepting s l n (queueEntry t src dest tag item) := by
  unfold queueEntry
  split
  · exact h
  · exact (h.transmitted (transmitted_wakeLink t _) (linksMoved_wakeLink t _)).onLink _ (fun _ => rfl) (fun _ => rfl)

theorem accepting_takeEntries (h : Accepting s l n t) (f : LinkFrame) : Accepting s l n (takeEntries t f) := by
  unfold takeEntries
  refine List.foldlRecOn (motive := Accepting s l n) _ _ h fun u hu e _ => ?_
  split
  · exact accepting_deliverEntry hu _ _ _ _
  · exact accepting_queueEntry hu _ _ _ _

/-- The one entry of a frame for another position waits for the link there. -/
theorem takeEntries_single {i : BitVec 16} {k : Nat} (hdest : f.destPos.toNat ≠ position t)
    (hroute : routeTo t f.destPos.toNat = some k) (hitems : f.items = [i]) (hi : i.getLsbD 15 = false) :
    takeEntries t f = onLink (wakeLink t k) k (fun x => { x with
      queue := x.queue ++ [⟨f.srcPos.toNat, f.destPos.toNat, f.baseTag.toNat % 1024, i.toNat⟩] }) := by
  have hentries : frameEntries f.baseTag.toNat 0 f.items = [(f.baseTag.toNat % 1024, i.toNat)] := by
    have hbit : ¬ i.toNat.testBit 15 = true := by rw [BitVec.testBit_toNat, hi]; simp
    rw [hitems]
    simp [frameEntries, hbit]
  rw [takeEntries, hentries, List.foldl_cons, List.foldl_nil, if_neg hdest, queueEntry, hroute]

/-- The traffic that ends with a frame for this position, where one does, takes effect. -/
def trafficTaken (m : Option MgmtTraffic) (p : Nat) (t : State) : State :=
  match m with
  | some m => takeTraffic t p m
  | none => t

/-! #### Both kinds of frame -/

variable (hc : Carries s l) (hfew : f.nak = true → (link s l).replays < 7) (heye : EyeHeld s l f)
  (hseq : f.seq.toNat = ((link s l).rxSeq + 1) % 4096)
include hc hfew heye hseq

theorem dataFrame_accepted (hok : frameOk false f = true) :
    Answers (.dataFrame l f) s (Acknowledges s l f.seq.toNat) := by
  refine ⟨_, congrArg Host.Outcome.next (frameIn_next _ hc.1 hok heye hfew hseq), ?_⟩
  exact (accepting_takeEntries (frameTaken_frameAccepted hc hfew).accepting f).ackFrame

theorem mgmtFrame_accepted (hok : frameOk true f = true) :
    Answers (.mgmtFrame l ⟨f, none⟩) s (Acknowledges s l f.seq.toNat) := by
  refine ⟨_, congrArg Host.Outcome.next (frameIn_next _ hc.1 hok heye hfew hseq), ?_⟩
  exact (accepting_takeWords (frameTaken_frameAccepted hc hfew).accepting f).ackFrame

/-- A DATA frame of one entry for another position. -/
theorem dataFrame_queues {i : BitVec 16} {k : Nat} (hok : frameOk false f = true) (hdest : f.destPos.toNat ≠ position s)
    (hroute : routeTo s f.destPos.toNat = some k) (hitems : f.items = [i]) (hi : i.getLsbD 15 = false) :
    Answers (.dataFrame l f) s (fun t => (link t k).queue = (link s k).queue ++
      [⟨f.srcPos.toNat, f.destPos.toNat, f.baseTag.toNat % 1024, i.toNat⟩]) := by
  have hbelow : ∀ p : BitVec 4, BelowLinks (F.LNK_ROUTE_VALID p.toNat) ∧ BelowLinks (F.LNK_ROUTE_LINK p.toNat) := by decide
  obtain ⟨hmoved, haccepting, -, -, hqueue⟩ := frameTaken_frameAccepted (f := f) hc hfew
  have hroute' : routeTo (frameAccepted s l f) f.destPos.toNat = some k := by
    obtain ⟨hvalid, hlink⟩ := hbelow f.destPos
    rw [routeTo, hmoved.bit hvalid, hmoved.field hlink]
    exact hroute
  refine ⟨_, congrArg Host.Outcome.next (frameIn_next _ hc.1 hok heye hfew hseq), ?_⟩
  dsimp only
  rw [takeEntries_single (by rw [haccepting.position]; exact hdest) hroute' hitems hi, ackFrame,
    (transmitted_sendBlock _ _ _ _).queue, link_onLink_same, (transmitted_wakeLink _ _).queue, hqueue]

/-- A MGMT frame for this position: its words are kept, and the traffic that ends with it takes effect, here where it moves
neither a register nor a link. -/
theorem mgmtFrame_kept {m : Option MgmtTraffic} (hok : frameOk true f = true) (hdest : f.destPos.toNat = position s)
    (hlinks : ∀ t, (trafficTaken m f.srcPos.toNat t).lnk = t.lnk ∧ (trafficTaken m f.srcPos.toNat t).regs = t.regs) :
    ∃ u, LinksMoved s u ∧ u.clk = s.clk ∧ Answers (.mgmtFrame l ⟨f, m⟩) s (fun t =>
      t = ackFrame (trafficTaken m f.srcPos.toNat u) l ∧ Acknowledges s l f.seq.toNat t ∧ t.lnk.mgmtIn = wordsKept s f) := by
  obtain ⟨v, hv⟩ : ∃ v, v = frameAccepted s l f := ⟨_, rfl⟩
  obtain ⟨hmoved, haccepting, hin, hclk, -⟩ := hv ▸ frameTaken_frameAccepted (f := f) hc hfew
  obtain ⟨u, hu⟩ : ∃ u, u = onLnk v (fun x => { x with mgmtIn := wordsKept s f }) := ⟨_, rfl⟩
  have hwords : takeWords v f = u := by
    rw [takeWords_here v (by rw [haccepting.position]; exact hdest), hu, wordsKept, wordsKept, hin]
  have haccept : Accepting s l f.seq.toNat u := hwords ▸ accepting_takeWords haccepting f
  have hkept : LinksMoved v u := by
    rw [hu]
    exact ⟨rfl, rfl, rfl, rfl, rfl, rfl, rfl, fun _ _ => rfl, List.prefix_rfl, fun _ h => h⟩
  obtain ⟨hlnk, hregs⟩ := hlinks u
  have hafter : Accepting s l f.seq.toNat (trafficTaken m f.srcPos.toNat u) := by
    obtain ⟨⟨hact, hawake⟩, hrx, hnak, hpos⟩ := haccept
    refine ⟨⟨?_, ?_⟩, ?_, ?_, ?_⟩
    · rw [linkActive, linkStage, getF_congr hregs]
      exact hact
    · rw [getB, getF_congr hregs]
      exact hawake
    · rw [link, hlnk]
      exact hrx
    · rw [link, hlnk]
      exact hnak
    · exact (getF_congr hregs _).trans hpos
  have hexec : exec (.mgmtFrame l ⟨f, m⟩) s = .next (ackFrame (trafficTaken m f.srcPos.toNat u) l) := by
    refine congrArg Host.Outcome.next ((frameIn_next _ hc.1 hok heye hfew hseq).trans ?_)
    rw [← hv]
    dsimp only
    rw [hwords]
    cases m with
    | none => rfl
    | some m => exact congrArg (ackFrame · l) (if_pos (hdest.trans haccept.position.symm))
  refine ⟨u, hmoved.trans hkept, by rw [hu]; exact hclk, _, hexec, rfl, hafter.ackFrame, ?_⟩
  rw [ackFrame, (transmitted_sendBlock _ _ _ _).mgmtIn, hlnk, hu]
  rfl

end

/-! #### The frames of a link together -/

section
variable {s : State} {l : Fin 16} {f : LinkFrame} (hc : Carries s l) (hfew : f.nak = true → (link s l).replays < 7)
include hc hfew

/-- What comes of a DATA or MGMT frame, whatever it carries. -/
theorem frame_acts : ∀ c ∈ [(Instr.dataFrame l f, false), (.mgmtFrame l ⟨f, none⟩, true)],
    (frameOk c.2 f = true → EyeHeld s l f → f.seq.toNat = ((link s l).rxSeq + 1) % 4096 →
      Answers c.1 s (Acknowledges s l f.seq.toNat)) ∧
    (frameOk c.2 f = true → ¬ EyeHeld s l f → Answers c.1 s (fun t => linkStage t l = 2 ∧
      (link t l).rxSeq = (link s l).rxSeq)) ∧
    (frameOk c.2 f = false → Answers c.1 s (fun t => t.outs = s.outs ∧ (link t l).nak = true ∧
      (link t l).rxSeq = (link s l).rxSeq ∧
      getF t (F.LNK_LINK_ERR_CRC_FAIL l) = saturate 16 (getF s (F.LNK_LINK_ERR_CRC_FAIL l) + 1) ∧ t.dies = s.dies)) := by
  refine List.forall_mem_cons.2 ⟨⟨fun hok heye hseq => dataFrame_accepted hc hfew heye hseq hok,
    fun hok heye => ⟨_, rfl, frameIn_narrow_acts _ hc hok heye⟩, fun hbad => ⟨_, rfl, frameIn_corrupt_acts _ hc.1 hbad⟩⟩,
    List.forall_mem_cons.2 ⟨⟨fun hok heye hseq => mgmtFrame_accepted hc hfew heye hseq hok,
    fun hok heye => ⟨_, rfl, frameIn_narrow_acts _ hc hok heye⟩, fun hbad => ⟨_, rfl, frameIn_corrupt_acts _ hc.1 hbad⟩⟩,
    fun _ h => absurd h List.not_mem_nil⟩⟩

variable (heye : EyeHeld s l f) (hseq : f.seq.toNat = ((link s l).rxSeq + 1) % 4096) (hok : frameOk true f = true)
  (hdest : f.destPos.toNat = position s)
include heye hseq hok hdest

/-- Management traffic for this position (R401, R486, R512). -/
theorem mgmtFrame_traffic :
    Answers (.mgmtFrame l ⟨f, none⟩) s (fun t => t.lnk.mgmtIn = wordsKept s f) ∧
    (∀ target : BitVec 11, Answers (.mgmtFrame l ⟨f, some (.rampWant target)⟩) s (fun t =>
      Acknowledges s l f.seq.toNat t ∧ t.lnk.mgmtIn = wordsKept s f ∧ t.clk.wants.get 256 f.srcPos.toNat = target.toNat)) ∧
    Answers (.mgmtFrame l ⟨f, some .rampAck⟩) s (fun t => Acknowledges s l f.seq.toNat t ∧ t.lnk.mgmtIn = wordsKept s f ∧
      t.clk.acks = s.clk.acks.filter (· ≠ f.srcPos.toNat)) ∧
    ∀ h, s.run.hallmark = some h → Answers (.mgmtFrame l ⟨f, some (.partDone true)⟩) s (fun t =>
      Acknowledges s l f.seq.toNat t ∧ t.lnk.mgmtIn = wordsKept s f ∧
      t.run.hallmark = some { h with waits := h.waits.filter (· ≠ f.srcPos.toNat) }) := by
  have hkept := fun m h => mgmtFrame_kept (m := m) hc hfew heye hseq hok hdest h
  have hclk : ∀ t : State, (ackFrame t l).clk = t.clk := fun t => (transmitted_sendBlock _ _ _ _).clk
  have hrun : ∀ t : State, (ackFrame t l).run = t.run := fun t => (linksMoved_sendBlock _ _ _ _).run
  refine ⟨?_, fun target => ?_, ?_, fun h hrunning => ?_⟩
  · obtain ⟨u, -, -, t, hexec, -, -, hwords⟩ := hkept none fun _ => ⟨rfl, rfl⟩
    exact ⟨t, hexec, hwords⟩
  · obtain ⟨u, -, -, t, hexec, rfl, haccepted, hwords⟩ := hkept (some (.rampWant target)) fun _ => ⟨rfl, rfl⟩
    refine ⟨_, hexec, haccepted, hwords, ?_⟩
    rw [hclk]
    exact SMap.get_set_same 256 u.clk.wants f.srcPos.toNat target.toNat
  · obtain ⟨u, -, hsame, t, hexec, rfl, haccepted, hwords⟩ := hkept (some .rampAck) fun _ => ⟨rfl, rfl⟩
    refine ⟨_, hexec, haccepted, hwords, ?_⟩
    rw [hclk, ← hsame]
    rfl
  · obtain ⟨u, hmoved, -, t, hexec, rfl, haccepted, hwords⟩ := hkept (some (.partDone true)) fun _ => ⟨rfl, rfl⟩
    have hstands : u.run.hallmark = some h := by rw [hmoved.run, hrunning]
    refine ⟨_, hexec, haccepted, hwords, ?_⟩
    rw [hrun]
    exact congrArg (Option.map fun h => { h with waits := h.waits.filter (· ≠ f.srcPos.toNat) }) hstands

end

/-- Settles O36, block by block and frame by frame: of every link but the one heard only its transmitter is touched, and an
acknowledgement goes out because no transmission takes an Active link out of Active. -/
theorem linkBlocksAndFramesAct : Obligations.LinkBlocksAndFramesAct := by
  unfold Obligations.LinkBlocksAndFramesAct
  intro s l b
  refine ⟨ackBlock_acts, replayTimeout_acts, fun part h => exchangeBlock_acts h, measureBlock_acts, echoBlock_acts,
    fun skew h hact hfree => spareSwitchBlock_acts skew h hact hfree, deepReqBlock_acts, deepReqBlock_ignored,
    deepAckBlock_acts, fun f hc hfew => ⟨frame_acts hc hfew, fun heye hseq => ⟨fun hok hdest => ?_, ?_⟩⟩⟩
  · exact mgmtFrame_traffic hc hfew heye hseq hok hdest
  · exact fun k i hok hdest hroute hitems hi => dataFrame_queues hc hfew heye hseq hok hdest hroute hitems hi

end Sys2Proof.Machine
end
